-- ==== Sys2Proof/Word.lean ====
section
/-! DEFINITION. The words of the ZQ4 and the one sparse container of the model.
Registers and memory words are bit vectors where the spec adds, shifts or masks them; addresses, counts and
indexes are natural numbers. -/

namespace Sys2Proof

/-- A control-space register word (R7). -/
abbrev Word := BitVec 32

/-- A byte of buffer memory, TCM or an image. -/
abbrev Byte := BitVec 8

/-- Sparse data by key: pairs of a key and a value, keys strictly rising. What an unlisted key reads as is said
where the container is read (`Sparse.get`). -/
abbrev Sparse (α : Type) := List (Nat × α)

end Sys2Proof
end

