-- ==== Sys2Proof/Syntax.lean ====
section
/-! DEFINITION. The commands of the ZQ4: one constructor for each row of spec/opcode_table.json, with the row's
operands. An operand is what comes from outside the modelled state: who asks and what it writes, which unit acts, and
what the world shows the part at that moment (a sample, a decode outcome, a measured current, an answer of the flash
array). Everything else a command needs it finds in State. -/

namespace Sys2Proof

/-- The blocks of the register map (R51, R606); `hdr` stands for the page header every page begins with (R16). -/
inductive Blk where
  | hdr | dom | clk | brz | sec | evr | tmp | cal | l2c | tcm | wrk | mbx | pcx | hq | sch | buf | dmc | fmt | wev
  | seq | ldp | lane | srv | ast | pwr | spn | rgt | mac | vcm | nvs
  deriving DecidableEq, Repr

/-- Access types (R11). `kgo` is a KP field whose description says that it is written as a W1S one. -/
inductive Acc where
  | rw | ro | wo | rc | w1c | w1s | kp | kgo
  deriving DecidableEq, Repr

/-- A requester (R545): its class 0-7 (0 KEEPER, 1 APP, 2 RT, 3 SEQ, 4 ENGINE, 5 HOST_DIAG, 6 MGMT, 7 DEBUG) and its
core, port or sequencer number. -/
structure Req where
  cls : Fin 8
  unit : Fin 16
  deriving DecidableEq, Repr

/-- The class of a Burez flit, in the order in which a sender transmits (R27). -/
inductive FlitClass where
  | token | servo | reply | request | bulk
  deriving DecidableEq, Repr

/-- What asserts WINH (R24, R185). -/
inductive WinhSrc where
  | shock | overvoltage | emptyWindow
  deriving DecidableEq, Repr

/-- What a launch names (R43, R243). -/
inductive LaunchKind where
  | servoSample | readGate | writeGate | assistStep | seek | load | unload
  deriving DecidableEq, Repr

/-- A source of write inhibit that AST holds for the whole actuator (R185). -/
inductive InhSrc where
  | winh | preampFault | force | notRun
  deriving DecidableEq, Repr

/-- A wedge that interrupts a frame (R107, R125): the first sample index after it, and what the converters of readers A
and B deliver over the resume field's 32 bits. -/
structure WedgeGap where
  first : Nat
  a : List (BitVec 6)
  b : List (BitVec 6)
  deriving DecidableEq, Repr

/-- What a lane sees of one frame (R95-R126): the converter samples of reader A by sample index (sample i is frame bit
i - 32), those of reader B in order of the sampling clock from 8 bits before reader A's first, the stroke phase at sample
0, the wedges that interrupt the frame, the slot's PSA, whether it is a trailing verify frame, and whether read gate
closes after the frame. -/
structure FrameIn where
  a : List (BitVec 6)
  b : List (BitVec 6)
  strokePhase : BitVec 12
  wedges : List WedgeGap
  psa : BitVec 40
  verify : Bool
  last : Bool
  deriving DecidableEq, Repr

/-- What one reader finds in a wedge window (R192): cells 39 to 86, the first most significant, and bursts N and Q as it
measures them where it accepts the address mark. -/
structure WedgeRead where
  cells : BitVec 48
  burstN : BitVec 16
  burstQ : BitVec 16
  deriving DecidableEq, Repr

/-- What a head reads of its wedge (R192-R196): head index; what readers A and B find; the position the estimator
predicts, UQ22.10 tracks, since the spec gives the estimator no arithmetic. -/
structure WedgeIn where
  head : Fin 8
  a : WedgeRead
  b : WedgeRead
  predicted : BitVec 32
  deriving DecidableEq, Repr

/-- A coil fault (R229). -/
inductive CoilFault where
  | openCoil | shortGnd | shortSup | shortCoil | overTemp
  deriving DecidableEq, Repr

/-- An admin command tunnelled through the management endpoint (R329). -/
inductive MiAdmin where
  /-- Identify: CNS, namespace or controller -/
  | identify (cns : Nat) (nsid : Nat)
  /-- Get Log Page: LID -/
  | getLog (lid : Nat)
  /-- Get Features: FID, namespace -/
  | getFeatures (fid : Nat) (nsid : Nat)
  deriving DecidableEq, Repr

/-- Who consumes what a buffer read delivers (R398). -/
inductive Consumer where
  | pcx | core | wev | sch | other
  deriving DecidableEq, Repr

/-- What a spindle terminal fault is (R427, R428). -/
inductive SpnFault where
  | shortGround | shortSupply | shortPhase | overCurrent
  /-- an open phase, U, V, W -/
  | openPhase (n : Fin 3)
  deriving DecidableEq, Repr

/-- What is wrong with a transaction layer packet that arrives (R333). -/
inductive TlpError where
  | ecrc | malformed | unexpected | poisoned
  /-- a receiver error of the link -/
  | receiver
  /-- a packet had to be sent again -/
  | replay
  deriving DecidableEq, Repr

/-- What a command asks of the protection information (R340): PRACT, PRCHK (bit 2 guard, bit 1 application tag, bit 0
reference tag), the first reference tag, the application tag and its mask. -/
structure PiIn where
  act : Bool
  chk : BitVec 3
  ref : BitVec 80
  app : BitVec 16
  mask : BitVec 16
  deriving DecidableEq, Repr

/-- How a function interrupts its host (R316). -/
inductive IrqMode where
  | intx | msi | msix
  deriving DecidableEq, Repr

/-- The NVMe-MI data structures (R329), as NVMe-MI 1.2 names them (PRESUMED, log 35). -/
inductive MiStructure where
  /-- NVM subsystem information -/
  | subsystem
  /-- port information -/
  | port (n : Fin 2)
  /-- controller list -/
  | controllers
  /-- controller information -/
  | controller (n : Fin 2)
  /-- optionally supported command list -/
  | optional
  deriving DecidableEq, Repr

/-- An item of Configuration Get and Set (R329), as NVMe-MI 1.2 names them (PRESUMED, log 35). -/
inductive MiConfig where
  /-- SMBus or I3C frequency -/
  | frequency
  /-- health status change: the bits to clear -/
  | healthChange
  /-- MCTP transmission unit size -/
  | unitSize
  deriving DecidableEq, Repr

/-- What becomes of a contended intent slot (R580): won, lost to a lower address, or a cell read differently. -/
inductive SlotOutcome where
  | won | lost | collision
  deriving DecidableEq, Repr

/-- The commands (spec/opcode_table.json; what each holds: spec/95_what_each_step_holds.md). -/
inductive Instr where
  /-- REGISTER_WRITE (R11). A write by `q` of the low `size` bytes of `w` at `addr`: a core address of a core, a
  control-space offset of any other requester (R7, R50). -/
  | registerWrite (q : Req) (addr : BitVec 32) (size : Nat) (w : BitVec 32)
  /-- REGISTER_READ_CLEAR (R11). A read by `q` of `size` bytes at `addr`, as in REGISTER_WRITE. -/
  | registerReadClear (q : Req) (addr : BitVec 32) (size : Nat)
  /-- WIDE_READ_LATCH (R9). A read by `q` of the least significant word of a wide quantity. -/
  | wideReadLatch (q : Req) (addr : BitVec 32)
  /-- ENABLE_SET (R611). A write of PAGE_CTL of the page in page slot `slot` (control-space offset / 0x1000). -/
  | enableSet (q : Req) (slot : BitVec 14) (w : BitVec 32)
  /-- ENABLE_CLEAR (R17). A write of PAGE_CTL of the page in page slot `slot`. -/
  | enableClear (q : Req) (slot : BitVec 14) (w : BitVec 32)
  /-- DISABLE_COMPLETE (R17). The disable effect of the page in a page slot is complete. -/
  | disableComplete (page : BitVec 14)
  /-- EASY_SET (R611). A write of PAGE_CTL of the page in page slot `slot`. -/
  | easySet (q : Req) (slot : BitVec 14) (w : BitVec 32)
  /-- EASY_CLEAR (R611). A write of PAGE_CTL of the page in page slot `slot`. -/
  | easyClear (q : Req) (slot : BitVec 14) (w : BitVec 32)
  /-- HOLD_REL (R19). A write of PAGE_CTL of the page in page slot `slot`. -/
  | holdRel (q : Req) (slot : BitVec 14) (w : BitVec 32)
  /-- HOLD_REACHED (R555). A power domain looks whether it still holds work. -/
  | holdReached (dom : Fin 96)
  /-- EV_CLR (R20). A write of EV_CLR of the page in page slot `slot`; `same`: the page's events that occur in the
  same clock. -/
  | evClr (q : Req) (slot : BitVec 14) (w : BitVec 32) (same : BitVec 32)
  /-- EVENT_NOTICE (R55). The oldest notice that its link carries arrives at Cox. -/
  | eventNotice
  /-- BLOCK_FAULT (R18). The block of a page detects a fault fatal to it. -/
  | blockFault (page : BitVec 14)
  /-- PFAIL_ASSERT (R614). The 12 V input has been lost for 2 µs. -/
  | pfailAssert
  /-- PFAIL_DEASSERT (R423). Every actuator is parked after the 12 V input has returned; `ms`: how long the hold-up
  lasted. -/
  | pfailDeassert (ms : BitVec 16)
  /-- WINH_ASSERT (R185). WINH, asserted by Rigger, reaches the Oar dies. -/
  | winhAssert
  /-- WINH_RELEASE (R186). The end of WINH reaches the Oar dies. -/
  | winhRelease
  /-- DRST_ASSERT (R24). Cox pulses DRST0-3: Oar 0, Oar 1, Rigger, Keel. -/
  | drstAssert (die : Fin 4)
  /-- FLIT_RECEIVE (R28). A flit of a class arrives at one end of a link: `toCox` at Cox's, else at the die's; `good`:
  its CRC holds; `dom`: the domain that issued the request a reply answers, and `epoch` the epoch the flit carries
  (R30). -/
  | flitReceive (link : Fin 4) (toCox good : Bool) (cls : FlitClass) (dom : Fin 96) (epoch : BitVec 8)
  /-- LINK_TRAINING_COMPLETE (R28). The training or retraining of a link ends well. -/
  | linkTrainingComplete (link : Fin 4)
  /-- LINK_TRAINING_FAIL (R28). An attempt to train a link fails. -/
  | linkTrainingFail (link : Fin 4)
  /-- LINK_ENABLE (R48). A write of BRZ.BRZ_CTL. -/
  | linkEnable (q : Req) (w : BitVec 32)
  /-- LINK_DISABLE (R29). A write of BRZ.BRZ_CTL. -/
  | linkDisable (q : Req) (w : BitVec 32)
  /-- STROKE_CATCH (R39). Rigger's generator reaches its next catch. -/
  | strokeCatch
  /-- CATCH_TOKEN_SEND (R42). Phase 3,072 of Rigger's stroke. -/
  | catchTokenSend
  /-- CATCH_TOKEN_RECEIVE (R42). The oldest token on its way to a die, 0 Cox, 1 Oar 0, 2 Oar 1, reaches it; `skew`: its
  local catch minus Rigger's, ns. -/
  | catchTokenReceive (die : Fin 3) (skew : Int)
  /-- LOCAL_CATCH (R42). The local timer of a die, 0 Cox, 1 Oar 0, 2 Oar 1, reaches its next catch. -/
  | localCatch (die : Fin 3)
  /-- ACTION_LAUNCH (R43). A launch for lane `inst` (gates) or actuator `inst` modulo 4 (the rest) names the stroke
  by its low 16 bits; `tag`: the tag a gate serves; `head` and `band`: those of a step, seek or load. A launch that
  reaches its block in the clock of a catch comes after that LOCAL_CATCH (R44). -/
  | actionLaunch (kind : LaunchKind) (inst : Fin 8) (tag : Fin 32) (head : Fin 8) (band : Fin 48) (low : BitVec 16) (phase : BitVec 12)
  /-- ACTION_OVERRUN (R46). The oldest launched action of that kind and unit whose stroke has passed is still not
  complete. -/
  | actionOverrun (kind : LaunchKind) (inst : Fin 8)
  /-- SUPPLY_CURRENT_MEASURE (R59). The mean 12 V current over a stroke, mA, and the supply voltages, mV. -/
  | supplyCurrentMeasure (ma hup in12 : BitVec 16)
  /-- FMT_TRANSLATE (R90). SCH or firmware asks FMT for the PSA of a zone-relative sector; `off` has the form of
  XLAT_OFF (R271). -/
  | fmtTranslate (zone : Nat) (off : BitVec 32)
  /-- SKIP_LIST_APPEND (R78). SCH appends band slot index `slot` of a band through FMT. -/
  | skipListAppend (head : Fin 32) (band : Nat) (slot : Nat)
  /-- MWP_UPDATE (R89). SCH advances the MWP of `zone` to `mwp` through FMT. -/
  | mwpUpdate (zone : Nat) (mwp : BitVec 32)
  /-- ENTRY_LOCK_ACQUIRE (R89). A write of FMT.ENTRY_LOCK with VALID 1. -/
  | entryLockAcquire (q : Req) (w : BitVec 32)
  /-- ENTRY_LOCK_RELEASE (R89). A write of FMT.ENTRY_LOCK with VALID 0. -/
  | entryLockRelease (q : Req) (w : BitVec 32)
  /-- MAP_SCAN_START (R91). A write of FMT.FMT_CTL. -/
  | mapScanStart (q : Req) (w : BitVec 32)
  /-- MAP_SCAN_COMPLETE (R91). The scan ends; `racing` are the zones being written as the scan passed that it
  counted as failed. -/
  | mapScanComplete (racing : List Nat)
  /-- XLAT_TEST (R93). A write of FMT.XLAT_REQ. -/
  | xlatTest (q : Req) (w : BitVec 32)
  /-- READ_GATE_OPEN (R99). The oldest read-gate launch of the lane that names the present stroke reaches its point.
  -/
  | readGateOpen (lane : Fin 8)
  /-- FRAME_READ (R116). The lane reads one frame. -/
  | frameRead (lane : Fin 8) (f : FrameIn)
  /-- SBUF_PIN (R122). A write of LANEn.SBUF_CMD with OP 0b01. -/
  | sbufPin (q : Req) (lane : Fin 8) (w : BitVec 32)
  /-- SBUF_UNPIN (R128). A write of LANEn.SBUF_CMD with OP 0b10. -/
  | sbufUnpin (q : Req) (lane : Fin 8) (w : BitVec 32)
  /-- SBUF_UNPIN_ALL (R128). A write of LANEn.SBUF_CMD with OP 0b11. -/
  | sbufUnpinAll (q : Req) (lane : Fin 8) (w : BitVec 32)
  /-- SBUF_DATA_READ (R123). A read of LANEn.SBUF_DATA. -/
  | sbufDataRead (q : Req) (lane : Fin 8)
  /-- DETECTION_COMPLETE (R134). The online detector of a lane on the die ends its oldest pass; `aged`: how many of the
  oldest ready replay steps have waited REPLAY_AGE. -/
  | detectionComplete (ldp : Fin 2) (lane : Fin 4) (aged : Nat)
  /-- DECODE_COMPLETE (R140). A decoder core stops; `aged` as in DETECTION_COMPLETE. -/
  | decodeComplete (ldp : Fin 2) (core : Fin 6) (aged : Nat)
  /-- REPLAY_PASS_COMPLETE (R144). A replay detector ends its pass; `aged` as in DETECTION_COMPLETE. -/
  | replayPassComplete (ldp : Fin 2) (det : Fin 2) (aged : Nat)
  /-- SECTOR_ABORT_END (R157). The oldest aborted sector of the LDP reaches an iteration boundary; `aged` as in
  DETECTION_COMPLETE. -/
  | sectorAbortEnd (ldp : Fin 2) (aged : Nat)
  /-- CORE_PARITY_FAULT (R156). A core's message memory has a parity error; `aged` as in DETECTION_COMPLETE. -/
  | coreParityFault (ldp : Fin 2) (core : Fin 6) (aged : Nat)
  /-- LDP_COEF_DATA_ACCESS (R137). A write of `w` to LDPn.COEF_DATA, or a read of it. -/
  | ldpCoefDataAccess (q : Req) (ldp : Fin 2) (w : Option (BitVec 32))
  /-- LDP_COEF_COMMIT (R137). A write of LDPn.COEF_COMMIT. -/
  | ldpCoefCommit (q : Req) (ldp : Fin 2) (w : BitVec 32)
  /-- FW_REPLAY_START (R158). A write of LDPn.RP_CMD. -/
  | fwReplayStart (q : Req) (ldp : Fin 2) (w : BitVec 32)
  /-- FW_REPLAY_COMPLETE (R158). The firmware replay ends. -/
  | fwReplayComplete (ldp : Fin 2)
  /-- WRITE_GATE_OPEN (R165). The oldest write-gate launch of the lane that names the present stroke reaches its
  point; `rwo` is the reader-to-writer offset the microcode has loaded for the head and rate band, Q8.8 tracks
  (R195, R521). -/
  | writeGateOpen (lane : Fin 8) (rwo : Int)
  /-- WRITE_WEDGE_CROSS (R162). The writer of the lane has crossed a wedge window. -/
  | writeWedgeCross (lane : Fin 8)
  /-- ASSIST_ARM (R172). The oldest assist-step launch of the actuator that names the present stroke reaches its
  phase. -/
  | assistArm (ast : Fin 4)
  /-- PBUS_FRAME_SEND (R177). A bus slot comes; `rd` is what the preamplifier returns to a read. -/
  | pbusFrameSend (ast : Fin 4) (rd : BitVec 16)
  /-- PBUS_READBACK (R177). The codes (STANDBY, WRITE) the preamplifier returns for head indices. -/
  | pbusReadback (ast : Fin 4) (codes : List (Fin 8 × Nat × Nat))
  /-- PBUS_CMD_SEND (R178). A write of ASTn.PBUS_CMD. -/
  | pbusCmdSend (q : Req) (ast : Fin 4) (w : BitVec 32)
  /-- ASSIST_IDLE_OFF (R173). The idle count of a head's element is examined. -/
  | assistIdleOff (ast : Fin 4) (head : Fin 8)
  /-- TRIM_STEP_REQUEST (R175). A write of ASTn.TRIM_STEP, or, with `cal`, CAL's request with the same fields. -/
  | trimStepRequest (q : Req) (ast : Fin 4) (w : BitVec 32) (cal : Bool)
  /-- PREAMP_FAULT_ASSERT (R179). The fault line of the actuator's preamplifier rises. -/
  | preampFaultAssert (ast : Fin 4)
  /-- PREAMP_STATUS_READ (R179). The preamplifier returns its status word. -/
  | preampStatusRead (ast : Fin 4) (status : BitVec 16)
  /-- PREAMP_FAULT_DEASSERT (R186). The fault line falls. -/
  | preampFaultDeassert (ast : Fin 4)
  /-- VERIFY_RESULT (R182). The lane takes its oldest verify result from LDP. -/
  | verifyResult (lane : Fin 8)
  /-- PES_INHIBIT_CHECK (R185). AST evaluates the wedge of a head. -/
  | pesInhibitCheck (ast : Fin 4) (head : Fin 8)
  /-- FORCE_INHIBIT_SET (R185). A write of ASTn.AST_CTL. -/
  | forceInhibitSet (q : Req) (ast : Fin 4) (w : BitVec 32)
  /-- FORCE_INHIBIT_CLEAR (R186). A write of ASTn.AST_CTL. -/
  | forceInhibitClear (q : Req) (ast : Fin 4) (w : BitVec 32)
  /-- AST_HEAD_DATA_ACCESS (R190). A write of `w` to ASTn.HEAD_DATA, or a read of it. -/
  | astHeadDataAccess (q : Req) (ast : Fin 4) (w : Option (BitVec 32))
  /-- SERVO_SAMPLE (R196). The actuator's wedge passes; `wedges` is what each active head reads of its own. -/
  | servoSample (srv : Fin 4) (wedges : List WedgeIn)
  /-- CONTROL_OVERRUN (R198). The control law of the stroke has not finished at W + 317. -/
  | controlOverrun (srv : Fin 4)
  /-- VCM_COMMAND_APPLY (R223). APPLY_OFS of the stroke comes. -/
  | vcmCommandApply (vcm : Fin 4)
  /-- SRV_COEF_DATA_ACCESS (R202). A write of `w` to SRVn.COEF_DATA, or a read of it. -/
  | srvCoefDataAccess (q : Req) (srv : Fin 4) (w : Option (BitVec 32))
  /-- SRV_COEF_COMMIT (R202). A write of SRVn.COEF_COMMIT. -/
  | srvCoefCommit (q : Req) (srv : Fin 4) (w : BitVec 32)
  /-- NOTCH_ESTIMATE (R204). 512 samples have passed; `code` is the dominant frequency between F_LO and F_HI of the
  notch's input, in 120 Hz codes. -/
  | notchEstimate (srv : Fin 4) (notch : Fin 4) (code : BitVec 8)
  /-- NOTCH_WRITE (R204). The oldest notch update whose catch has come. -/
  | notchWrite (srv : Fin 4)
  /-- REGATTA_INTENT_APPLY (R206). The oldest intent that RGT has forwarded to SRVn arrives. -/
  | regattaIntentApply (srv : Fin 4)
  /-- SEEK_LAUNCH (R209). A write of SRVn.SEEK_REQ. -/
  | seekLaunch (q : Req) (srv : Fin 4) (w : BitVec 32)
  /-- SEEK_COMMIT (R209). Catch m - 2 of the actuator's oldest uncommitted seek. -/
  | seekCommit (srv : Fin 4)
  /-- AUTO_CLEAR (R216). A write of SRVn.SRV_CTL. -/
  | autoClear (q : Req) (srv : Fin 4) (w : BitVec 32)
  /-- AUTO_SET (R216). A write of SRVn.SRV_CTL. -/
  | autoSet (q : Req) (srv : Fin 4) (w : BitVec 32)
  /-- INJECTION_START (R217). A write of SRVn.INJ_CTL. -/
  | injectionStart (q : Req) (srv : Fin 4) (w : BitVec 32)
  /-- INJECTION_STOP (R217). A write of SRVn.INJ_CTL. -/
  | injectionStop (q : Req) (srv : Fin 4) (w : BitVec 32)
  /-- INJECTION_END (R217). The injection's last sample has been sent. -/
  | injectionEnd (srv : Fin 4)
  /-- CAPTURE_START (R218). A write of SRVn.CAP_CTL. -/
  | captureStart (q : Req) (srv : Fin 4) (w : BitVec 32)
  /-- CAPTURE_STOP (R218). A write of SRVn.CAP_CTL. -/
  | captureStop (q : Req) (srv : Fin 4) (w : BitVec 32)
  /-- CAP_DATA_READ (R218). A read of SRVn.CAP_DATA. -/
  | capDataRead (q : Req) (srv : Fin 4)
  /-- SRV_PARITY_FAULT (R220). A coefficient word fails parity: an active one, or a shadow one. -/
  | srvParityFault (srv : Fin 4) (shadow : Bool)
  /-- HEAD_LOAD (R225). The oldest load launch of the actuator that names the present stroke begins; `reversed`: the
  back-EMF of the first 2 ms is opposite. -/
  | headLoad (vcm : Fin 4) (reversed : Bool)
  /-- LOAD_TIMEOUT (R225). LOAD_TIME has passed. -/
  | loadTimeout (vcm : Fin 4)
  /-- HEAD_UNLOAD (R226). The oldest unload launch of the actuator that names the present stroke begins, or the
  unload of a disable. -/
  | headUnload (srv : Fin 4)
  /-- VCM_RETRACT (R227). A write of VCMn.VCM_CTL. -/
  | vcmRetract (q : Req) (vcm : Fin 4) (w : BitVec 32)
  /-- RETRACT_PARKED (R612). The heads reach the ramp. -/
  | retractParked (vcm : Fin 4)
  /-- RETRACT_TIMEOUT (R227). RET_TIME has passed. -/
  | retractTimeout (vcm : Fin 4)
  /-- VCM_DRV_ENABLE (R612). A write of VCMn.VCM_CTL. -/
  | vcmDrvEnable (q : Req) (vcm : Fin 4) (w : BitVec 32)
  /-- VCM_DRV_DISABLE (R612). A write of VCMn.VCM_CTL. -/
  | vcmDrvDisable (q : Req) (vcm : Fin 4) (w : BitVec 32)
  /-- VCM_FAULT_DETECT (R229). A VCM detects a coil fault. -/
  | vcmFaultDetect (vcm : Fin 4) (kind : CoilFault)
  /-- MAC_DRIVER_FAULT (R232). A microactuator driver detects an open or a short. -/
  | macDriverFault (head : Fin 32)
  /-- SHOCK_SAMPLE (R234). MAC samples its sensors. -/
  | shockSample (lx ly rot : BitVec 12)
  /-- SEQ_NOP (R243). Unit `u` (0-7 LSQ0-7, 8-11 SSQ0-3) executes a NOP word; `e` is what soft errors have changed
  in the stored word since it was last fetched. -/
  | seqNop (u : Fin 12) (e : BitVec 137)
  /-- ALU_ADD (R243). Operands as in SEQ_NOP. -/
  | aluAdd (u : Fin 12) (e : BitVec 137)
  /-- ALU_SUBTRACT (R243). Operands as in SEQ_NOP. -/
  | aluSubtract (u : Fin 12) (e : BitVec 137)
  /-- ALU_AND (R243). Operands as in SEQ_NOP. -/
  | aluAnd (u : Fin 12) (e : BitVec 137)
  /-- ALU_OR (R243). Operands as in SEQ_NOP. -/
  | aluOr (u : Fin 12) (e : BitVec 137)
  /-- ALU_XOR (R243). Operands as in SEQ_NOP. -/
  | aluXor (u : Fin 12) (e : BitVec 137)
  /-- ALU_SHIFT_LEFT (R243). Operands as in SEQ_NOP. -/
  | aluShiftLeft (u : Fin 12) (e : BitVec 137)
  /-- ALU_SHIFT_RIGHT (R243). Operands as in SEQ_NOP. -/
  | aluShiftRight (u : Fin 12) (e : BitVec 137)
  /-- ALU_ARITH_SHIFT_RIGHT (R243). Operands as in SEQ_NOP. -/
  | aluArithShiftRight (u : Fin 12) (e : BitVec 137)
  /-- ALU_COMPARE (R243). Operands as in SEQ_NOP. -/
  | aluCompare (u : Fin 12) (e : BitVec 137)
  /-- MEM_LOAD (R243). Operands as in SEQ_NOP. -/
  | memLoad (u : Fin 12) (e : BitVec 137)
  /-- MEM_STORE (R243). Operands as in SEQ_NOP. -/
  | memStore (u : Fin 12) (e : BitVec 137)
  /-- SEQ_REG_READ (R241). Sequencer `u` executes a REG word that reads; `e`: bits of the word that flipped. -/
  | seqRegRead (u : Fin 12) (e : BitVec 137)
  /-- SEQ_REG_WRITE (R241). Sequencer `u` executes a REG word that writes; `e`: bits of the word that flipped. -/
  | seqRegWrite (u : Fin 12) (e : BitVec 137)
  /-- LAUNCH_READ_GATE (R243). Operands as in SEQ_NOP. -/
  | launchReadGate (u : Fin 12) (e : BitVec 137)
  /-- LAUNCH_WRITE_GATE (R243). Operands as in SEQ_NOP. -/
  | launchWriteGate (u : Fin 12) (e : BitVec 137)
  /-- LAUNCH_ASSIST_STEP (R243). Operands as in SEQ_NOP. -/
  | launchAssistStep (u : Fin 12) (e : BitVec 137)
  /-- LAUNCH_SEEK (R243). Operands as in SEQ_NOP. -/
  | launchSeek (u : Fin 12) (e : BitVec 137)
  /-- LAUNCH_LOAD (R243). Operands as in SEQ_NOP. -/
  | launchLoad (u : Fin 12) (e : BitVec 137)
  /-- LAUNCH_UNLOAD (R243). Operands as in SEQ_NOP. -/
  | launchUnload (u : Fin 12) (e : BitVec 137)
  /-- SEQ_WAIT (R243). One clock of a WAIT word. Operands as in SEQ_NOP. -/
  | seqWait (u : Fin 12) (e : BitVec 137)
  /-- WAIT_TIMEOUT (R243). IMM clocks of a WAIT have passed. Operands as in SEQ_NOP. -/
  | waitTimeout (u : Fin 12) (e : BitVec 137)
  /-- TAG_TAKE (R252). Operands as in SEQ_NOP. -/
  | tagTake (u : Fin 12) (e : BitVec 137)
  /-- TAG_READ_FIELD (R243). Operands as in SEQ_NOP. -/
  | tagReadField (u : Fin 12) (e : BitVec 137)
  /-- TAG_WRITE_RESULT (R253). Operands as in SEQ_NOP. -/
  | tagWriteResult (u : Fin 12) (e : BitVec 137)
  /-- TAG_COMPLETE (R253). Operands as in SEQ_NOP. -/
  | tagComplete (u : Fin 12) (e : BitVec 137)
  /-- MSG_SEND (R243). Operands as in SEQ_NOP. -/
  | msgSend (u : Fin 12) (e : BitVec 137)
  /-- MSG_RECEIVE (R243). Operands as in SEQ_NOP. -/
  | msgReceive (u : Fin 12) (e : BitVec 137)
  /-- SEQ_SIG (R243). Operands as in SEQ_NOP. -/
  | seqSig (u : Fin 12) (e : BitVec 137)
  /-- SEQ_WATCHDOG (R248). SEQ examines the catches since the unit's last safe point. -/
  | seqWatchdog (u : Fin 12)
  /-- SEQ_BUDGET_OVERRUN (R249). SEQ examines the unit's busy count of the stroke. -/
  | seqBudgetOverrun (u : Fin 12)
  /-- LQ_POST (R252). A write of the lane's SEQd.LQ_CMD. -/
  | lqPost (q : Req) (lane : Fin 8) (w : BitVec 32)
  /-- TAG_ENTRY_FETCH (R252). The fetch of a posted tag's entry ends. -/
  | tagEntryFetch (lane : Fin 8) (tag : Fin 32)
  /-- LQ_ABORT (R256). A write of the lane's SEQd.LQ_CMD. -/
  | lqAbort (q : Req) (lane : Fin 8) (w : BitVec 32)
  /-- LQ_RELEASE (R252). A write of the lane's SEQd.LQ_CMD. -/
  | lqRelease (q : Req) (lane : Fin 8) (w : BitVec 32)
  /-- ACTUATOR_OOS_SET (R257). A write of SEQd.SEQ_CTL. -/
  | actuatorOosSet (q : Req) (seq : Fin 2) (w : BitVec 32)
  /-- ACTUATOR_OOS_CLEAR (R257). A write of SEQd.SEQ_CTL. -/
  | actuatorOosClear (q : Req) (seq : Fin 2) (w : BitVec 32)
  /-- SEQ_LOAD_START (R260). A write of SEQd.LOAD_CTL. -/
  | seqLoadStart (q : Req) (seq : Fin 2) (w : BitVec 32)
  /-- SEQ_LOAD_COMPLETE (R260). The words of the load that runs have come from buffer memory. -/
  | seqLoadComplete (seq : Fin 2)
  /-- CS_DATA_ACCESS (R260). A write of `w` to SEQd.CS_DATA, or a read of it. -/
  | csDataAccess (q : Req) (seq : Fin 2) (w : Option (BitVec 32))
  /-- DIGEST_START (R261). A write of SEQd.DIG_CTL. -/
  | digestStart (q : Req) (seq : Fin 2) (w : BitVec 32)
  /-- DIGEST_COMPLETE (R261). The digest that runs ends. -/
  | digestComplete (seq : Fin 2)
  /-- SQ_ENABLE_SET (R611). A write of the unit's SQ_CTL. -/
  | sqEnableSet (q : Req) (u : Fin 12) (w : BitVec 32)
  /-- SQ_ENABLE_CLEAR (R258). A write of the unit's SQ_CTL. -/
  | sqEnableClear (q : Req) (u : Fin 12) (w : BitVec 32)
  /-- SQ_EASY_SET (R258). A write of the unit's SQ_CTL. -/
  | sqEasySet (q : Req) (u : Fin 12) (w : BitVec 32)
  /-- SQ_EASY_CLEAR (R611). A write of the unit's SQ_CTL. -/
  | sqEasyClear (q : Req) (u : Fin 12) (w : BitVec 32)
  /-- SQ_HOLD_REL (R262). A write of the unit's SQ_CTL. -/
  | sqHoldRel (q : Req) (u : Fin 12) (w : BitVec 32)
  /-- WEV_ENCODE (R280). WEV takes its next descriptor from a ring; it has OP 1, or an OP not listed. -/
  | wevEncode
  /-- WEV_ACCUM (R280). WEV takes its next descriptor from a ring; it has OP 2. -/
  | wevAccum
  /-- WEV_RECON (R281). WEV takes its next descriptor, from SCH's port or a ring; it has OP 3. -/
  | wevRecon
  /-- WEV_VERIFY (R280). WEV takes its next descriptor from a ring; it has OP 4. -/
  | wevVerify
  /-- WEV_PARITY_FAULT (R284). WEV finds a parity error in its internal memory. -/
  | wevParityFault
  /-- ERASE_INJ_ARM (R296). A write of WEV.ERASE_INJ. -/
  | eraseInjArm (q : Req) (w : BitVec 32)
  /-- SQ_TAIL_DOORBELL (R310). A host write of the submission tail doorbell of `queue` at BAR0 offset 0x1000 + 8 x
  queue. -/
  | sqTailDoorbell (ctrl : Fin 2) (queue : Fin 2048) (value : BitVec 32)
  /-- CQ_HEAD_DOORBELL (R311). A host write of the completion head doorbell of `queue` at BAR0 offset 0x1004 + 8 x
  queue. -/
  | cqHeadDoorbell (ctrl : Fin 2) (queue : Fin 2048) (value : BitVec 32)
  /-- COMMAND_FETCH (R310). HQ takes its next fetch turn; `entries`: what host memory holds at the chosen queue's
  head and on. -/
  | commandFetch (entries : List (List Byte))
  /-- OUT_START (R306). HQ takes the oldest fetched entry of OUT_RING, one with OP 1. -/
  | outStart (ctrl : Fin 2)
  /-- OUT_COMPLETE (R307). HQ takes the oldest fetched entry of OUT_RING, one with OP 2 or an OP not listed. -/
  | outComplete (ctrl : Fin 2)
  /-- COMPLETION_POST (R312). HQ writes the completion queue's oldest waiting entry, if there is room. -/
  | completionPost (ctrl : Fin 2) (queue : Fin 2048)
  /-- CQ_FULL_TIMEOUT (R312). A completion queue has been full for CQ_FULL_TIME. -/
  | cqFullTimeout (ctrl : Fin 2) (queue : Fin 2048)
  /-- INTERRUPT_COALESCE_TIMEOUT (R317). TIME x 100 us have passed since the queue's first unsignalled entry. -/
  | interruptCoalesceTimeout (ctrl : Fin 2) (queue : Fin 2048)
  /-- CONTROLLER_ENABLE (R301). The host sets CC.EN to 1, with CC.AMS, CC.MPS, CC.CSS, the admin queues' entries, the way the
  function interrupts, the interrupts that INTMS masks and the interrupt vectors it has enabled. -/
  | controllerEnable (ctrl : Fin 2) (ams : BitVec 2) (mps : Fin 5) (css : BitVec 3) (asq acq : Nat) (irq : IrqMode)
      (mask : BitVec 32) (vectors : Nat)
  /-- CONTROLLER_DISABLE (R318). The host clears CC.EN. -/
  | controllerDisable (ctrl : Fin 2)
  /-- SHUTDOWN_NOTIFY (R319). The host sets CC.SHN to normal or abrupt. -/
  | shutdownNotify (ctrl : Fin 2)
  /-- FUNCTION_LEVEL_RESET (R318). An FLR of a controller's function. -/
  | functionLevelReset (ctrl : Fin 2)
  /-- PERST_ASSERT (R300). PERST# of a port is asserted. -/
  | perstAssert (port : Fin 2)
  /-- PCIE_LINK_LOSS (R300). The link of a port leaves L0 or L1 without a request of the host. -/
  | pcieLinkLoss (port : Fin 2)
  /-- PCIE_LINK_UP (R334). A port's link comes up at the speed code and with the lanes the host negotiates. -/
  | pcieLinkUp (port : Fin 2) (speed width : BitVec 3)
  /-- HQ_FAULT (R320). A host queue block finds a fault fatal to it. -/
  | hqFault (ctrl : Fin 2)
  /-- DIAG_BAR_ACCESS (R328). A host access of `size` bytes through BAR2: a write with `w`, else a read. -/
  | diagBarAccess (addr : BitVec 26) (size : Nat) (w : Option (BitVec 32))
  /-- MI_READ_DATA_STRUCTURE (R329). NVMe-MI: Read NVMe-MI Data Structure. -/
  | miReadDataStructure (item : MiStructure)
  /-- MI_SUBSYSTEM_HEALTH_POLL (R329). NVMe-MI: NVM Subsystem Health Status Poll. -/
  | miSubsystemHealthPoll
  /-- MI_CONTROLLER_HEALTH_POLL (R329). NVMe-MI: Controller Health Status Poll of one controller. -/
  | miControllerHealthPoll (ctrl : Fin 2)
  /-- MI_CONFIGURATION_GET (R329). NVMe-MI: Configuration Get. -/
  | miConfigurationGet (item : MiConfig)
  /-- MI_CONFIGURATION_SET (R329). NVMe-MI: Configuration Set. -/
  | miConfigurationSet (item : MiConfig) (value : BitVec 32)
  /-- MI_VPD_READ (R329). NVMe-MI: VPD Read. -/
  | miVpdRead (offset len : BitVec 16)
  /-- MI_VPD_WRITE (R329). NVMe-MI: VPD Write. -/
  | miVpdWrite (offset : BitVec 16) (bytes : List Byte)
  /-- MI_TUNNELLED_ADMIN (R330). An NVMe admin command tunnelled to controller 0. -/
  | miTunnelledAdmin (cmd : MiAdmin)
  /-- CREATE_IO_CQ (R303). The admin command in `slot`, with QSIZE 0's based. -/
  | createIoCq (slot : Fin 4096) (qid : BitVec 16) (qsize : BitVec 16) (pc ien : Bool) (iv : BitVec 16) (prp1 : BitVec 64)
  /-- CREATE_IO_SQ (R303). As CREATE_IO_CQ, with the completion queue and the priority. -/
  | createIoSq (slot : Fin 4096) (qid : BitVec 16) (qsize : BitVec 16) (pc : Bool) (prio : Fin 4) (cqid : BitVec 16) (prp1 : BitVec 64)
  /-- DELETE_IO_SQ (R304). The admin command in `slot`. -/
  | deleteIoSq (slot : Fin 4096) (qid : BitVec 16)
  /-- DELETE_IO_CQ (R304). The admin command in `slot`. -/
  | deleteIoCq (slot : Fin 4096) (qid : BitVec 16)
  /-- GET_LOG_PAGE (R352). The Get Log Page in `slot`; `rae`: Retain Asynchronous Event. -/
  | getLogPage (slot : Fin 4096) (lid : BitVec 8) (nsid : BitVec 32) (offset : BitVec 64) (numd : BitVec 32) (rae : Bool)
  /-- IDENTIFY (R336). The Identify in `slot`. -/
  | identify (slot : Fin 4096) (cns : BitVec 8) (nsid : BitVec 32) (csi : BitVec 8) (cntid : BitVec 16)
  /-- ABORT (R322). The Abort in `slot`; `entries`: what host memory holds from the named queue's head on. -/
  | abort (slot : Fin 4096) (sqid cid : BitVec 16) (entries : List (List Byte))
  /-- SET_FEATURES (R354). The Set Features in `slot`, with the data structure the feature takes from the host. -/
  | setFeatures (slot : Fin 4096) (fid : BitVec 8) (nsid : BitVec 32) (save : Bool) (dw11 : BitVec 32) (data : List Byte)
  /-- GET_FEATURES (R354). The Get Features in `slot`; SEL: 0 current, 1 default, 2 saved, 3 capabilities. -/
  | getFeatures (slot : Fin 4096) (fid : BitVec 8) (nsid : BitVec 32) (sel : BitVec 3) (dw11 : BitVec 32)
  /-- ANA_OWNER_SET (R326). The Set Features with FID 0xC0 in `slot`. -/
  | anaOwnerSet (slot : Fin 4096) (nsid : BitVec 32) (ctrl : Fin 2)
  /-- ASYNC_EVENT_REQUEST (R353). The admin command in `slot`. -/
  | asyncEventRequest (slot : Fin 4096)
  /-- NS_CREATE (R338). The Namespace Management in `slot`; `place`: the free bands firmware takes, a list of head
  and band for each zone, strand 0 first; empty where it finds none. -/
  | nsCreate (slot : Fin 4096) (csi : BitVec 8) (nsze ncap : BitVec 64) (flbas dps : BitVec 8) (weave : BitVec 2) (verified : Bool) (place : List (List (Nat × Nat)))
  /-- NS_DELETE (R339). The Namespace Management in `slot`; NSID 0xFFFFFFFF names every namespace. -/
  | nsDelete (slot : Fin 4096) (nsid : BitVec 32)
  /-- NS_ATTACH (R339). The Namespace Attachment in `slot`, with its controller list. -/
  | nsAttach (slot : Fin 4096) (nsid : BitVec 32) (ctrls : List (Fin 2))
  /-- NS_DETACH (R339). As NS_ATTACH. -/
  | nsDetach (slot : Fin 4096) (nsid : BitVec 32) (ctrls : List (Fin 2))
  /-- FW_IMAGE_DOWNLOAD (R357). Firmware Image Download: a piece at a dword offset. -/
  | fwImageDownload (slot : Fin 4096) (offset : BitVec 32) (bytes : List Byte)
  /-- FW_COMMIT_STORE (R358). Firmware Commit CA 0b000 into slot FS. -/
  | fwCommitStore (slot : Fin 4096) (fs : BitVec 3)
  /-- FW_COMMIT_STORE_ACTIVATE (R358). Firmware Commit CA 0b001. -/
  | fwCommitStoreActivate (slot : Fin 4096) (fs : BitVec 3)
  /-- FW_COMMIT_ACTIVATE (R358). Firmware Commit CA 0b010. -/
  | fwCommitActivate (slot : Fin 4096) (fs : BitVec 3)
  /-- FW_COMMIT_ACTIVATE_NOW (R359). Firmware Commit CA 0b011. -/
  | fwCommitActivateNow (slot : Fin 4096) (fs : BitVec 3)
  /-- SELF_TEST_SHORT (R356). The Device Self-test in `slot`, code 1. -/
  | selfTestShort (slot : Fin 4096) (nsid : BitVec 32)
  /-- SELF_TEST_EXTENDED (R356). The Device Self-test in `slot`, code 2. -/
  | selfTestExtended (slot : Fin 4096) (nsid : BitVec 32)
  /-- SELF_TEST_ABORT (R356). The Device Self-test in `slot`, code 0xF. -/
  | selfTestAbort (slot : Fin 4096)
  /-- FORMAT_NVM (R360). The Format NVM in `slot`, SES 0; `first`: protection information first in the metadata. -/
  | formatNvm (slot : Fin 4096) (nsid : BitVec 32) (lbaf : BitVec 6) (prot : BitVec 3) (first ext : Bool)
  /-- FORMAT_NVM_CRYPTO_ERASE (R360). As FORMAT_NVM, SES 1 or 2. -/
  | formatNvmCryptoErase (slot : Fin 4096) (nsid : BitVec 32) (lbaf : BitVec 6) (prot : BitVec 3) (first ext : Bool)
  /-- SECURITY_PROTOCOL_LIST (R539). The Security Receive in `slot`. -/
  | securityProtocolList (slot : Fin 4096)
  /-- SECURITY_CERT_CHAIN (R539). The Security Receive in `slot`. -/
  | securityCertChain (slot : Fin 4096)
  /-- SECURITY_ATTEST_REPORT (R539). The Security Receive in `slot`; `nonce`: what the Security Send of the request
  has brought. -/
  | securityAttestReport (slot : Fin 4096) (nonce : BitVec 256)
  /-- SECURITY_UNLOCK_NONCE (R539). The Security Receive in `slot`. -/
  | securityUnlockNonce (slot : Fin 4096)
  /-- SANITIZE_CRYPTO_ERASE (R361). The Sanitize in `slot`. -/
  | sanitizeCryptoErase (slot : Fin 4096)
  /-- SANITIZE_OVERWRITE (R361). The Sanitize in `slot`, with OWPASS (0 stands for 16), OVRPAT and OIPBP. -/
  | sanitizeOverwrite (slot : Fin 4096) (passes : BitVec 4) (pattern : BitVec 32) (invert : Bool)
  /-- NVM_READ (R343). The Read in `slot`, NLB 0's based. -/
  | nvmRead (slot : Fin 4096) (nsid : BitVec 32) (slba : BitVec 64) (nlb : BitVec 16) (pi : PiIn)
  /-- NVM_WRITE (R347). The Write in `slot`, with the host's blocks one after another, metadata behind each block's data
  where the namespace has extended LBAs, else in the buffer `md` (R340). -/
  | nvmWrite (slot : Fin 4096) (nsid : BitVec 32) (slba : BitVec 64) (nlb : BitVec 16) (fua : Bool) (data md : List Byte) (pi : PiIn)
  /-- WRITE_ZEROES (R347). The Write Zeroes in `slot`. -/
  | writeZeroes (slot : Fin 4096) (nsid : BitVec 32) (slba : BitVec 64) (nlb : BitVec 16) (fua : Bool) (pi : PiIn)
  /-- NVM_FLUSH (R342). The Flush in `slot`; NSID 0xFFFFFFFF names every namespace. -/
  | nvmFlush (slot : Fin 4096) (nsid : BitVec 32)
  /-- NVM_VERIFY (R341). The Verify in `slot`. -/
  | nvmVerify (slot : Fin 4096) (nsid : BitVec 32) (slba : BitVec 64) (nlb : BitVec 16) (pi : PiIn)
  /-- RESERVATION_REGISTER (R351). The Reservation Register in `slot`: RREGA 0 register, 1 unregister, 2 replace;
  CPTPL 2 clears and 3 sets Persist Through Power Loss. -/
  | reservationRegister (slot : Fin 4096) (nsid : BitVec 32) (action : BitVec 3) (iekey : Bool) (cptpl : BitVec 2) (crkey nrkey : BitVec 64)
  /-- RESERVATION_REPORT (R351). The Reservation Report in `slot`. -/
  | reservationReport (slot : Fin 4096) (nsid : BitVec 32)
  /-- RESERVATION_ACQUIRE (R351). The Reservation Acquire in `slot`: RACQA 0 acquire, 1 preempt, 2 preempt and
  abort. -/
  | reservationAcquire (slot : Fin 4096) (nsid : BitVec 32) (action : BitVec 3) (iekey : Bool) (rtype : BitVec 8) (crkey prkey : BitVec 64)
  /-- RESERVATION_RELEASE (R351). The Reservation Release in `slot`: RRELA 0 release, 1 clear. -/
  | reservationRelease (slot : Fin 4096) (nsid : BitVec 32) (action : BitVec 3) (iekey : Bool) (rtype : BitVec 8) (crkey : BitVec 64)
  /-- ZONE_APPEND (R347). The Zone Append in `slot`, as NVM_WRITE. -/
  | zoneAppend (slot : Fin 4096) (nsid : BitVec 32) (zslba : BitVec 64) (nlb : BitVec 16) (fua : Bool) (data md : List Byte) (pi : PiIn)
  /-- ZONE_OPEN (R350). The Zone Management Send in `slot`; `all`: Select All. -/
  | zoneOpen (slot : Fin 4096) (nsid : BitVec 32) (slba : BitVec 64) (all : Bool)
  /-- ZONE_CLOSE (R350). As ZONE_OPEN. -/
  | zoneClose (slot : Fin 4096) (nsid : BitVec 32) (slba : BitVec 64) (all : Bool)
  /-- ZONE_FINISH (R350). As ZONE_OPEN. -/
  | zoneFinish (slot : Fin 4096) (nsid : BitVec 32) (slba : BitVec 64) (all : Bool)
  /-- ZONE_RESET (R350). As ZONE_OPEN; `bands`: the spare bands firmware takes for lost strands: device zone,
  strand, head, band. -/
  | zoneReset (slot : Fin 4096) (nsid : BitVec 32) (slba : BitVec 64) (all : Bool) (bands : List (Nat × Nat × Nat × Nat))
  /-- ZONE_OFFLINE (R350). As ZONE_OPEN. -/
  | zoneOffline (slot : Fin 4096) (nsid : BitVec 32) (slba : BitVec 64) (all : Bool)
  /-- ZONE_SET_DESC_EXT (R350). The Zone Management Send in `slot`. -/
  | zoneSetDescExt (slot : Fin 4096) (nsid : BitVec 32) (slba : BitVec 64)
  /-- ZONE_REPORT (R350). The Zone Management Receive in `slot`, with room for `entries` zone descriptors. -/
  | zoneReport (slot : Fin 4096) (nsid : BitVec 32) (slba : BitVec 64) (extended : Bool) (option : BitVec 8) (partialReport : Bool) (entries : Nat)
  /-- TAG_COMPLETION_RECEIVE (R368). The oldest tag completion record on its way reaches SCH. -/
  | tagCompletionReceive
  /-- OPERATION_AGED (R365). The planned operation with this age number has waited AGE_LIMIT. -/
  | operationAged (age : Nat)
  /-- WRITE_ADMIT_RESUME (R376). Charge has been released: waiting writes are looked at again. -/
  | writeAdmitResume
  /-- PL_SEAL (R381). SCH finds whether the last tag has ended. -/
  | plSeal
  /-- PL_REFUGE_WRITE_DONE (R381). The actuator's sealed lines have been written; `bad`: the sectors written, by number,
  that failed their trailing verify. -/
  | plRefugeWriteDone (act : Fin 4) (bad : List Nat)
  /-- PL_FLOOR_STOP (R385). A floor notice reaches SCH; `written`: data sectors each actuator had written at the
  next sector boundary; `bad`: for each actuator, the sectors it wrote, by number, that failed their trailing verify. -/
  | plFloorStop (written : List Nat) (bad : List (List Nat))
  /-- PL_TEST_START (R388). A write of SCH.PL_CTL. -/
  | plTestStart (q : Req) (w : BitVec 32)
  /-- REFUGE_INDEX_PROGRAM (R485). NVS serves the refuge index port; `ms`: how long the run has taken. -/
  | refugeIndexProgram (ms : BitVec 16)
  /-- BUFFER_READ (R391). A requester reads `n` bytes at buffer address `addr`; `soft`: what soft errors have
  changed, by granule, in the 32 data and 4 check bytes stored there since the last command. -/
  | bufferRead (c : Consumer) (addr : BitVec 44) (n : Nat) (soft : List (Nat × BitVec 288))
  /-- BUFFER_WRITE (R392). A requester writes `bytes` at buffer address `addr`, with or without the poison mark. -/
  | bufferWrite (addr : BitVec 44) (bytes : List Byte) (poison : Bool)
  /-- MERGE_FLUSH_TIMEOUT (R392). MERGE_TIMEOUT has passed since the oldest merge entry was created. -/
  | mergeFlushTimeout
  /-- MERGE_FLUSH (R392). A write of BUF.MERGE_CTL. -/
  | mergeFlush (q : Req) (w : BitVec 32)
  /-- SCRUB_STEP (R393). The scrub's next granule is due; `soft`: what soft errors have changed in it since the last
  command. -/
  | scrubStep (soft : BitVec 288)
  /-- BUCKET_LEAK (R394, R449). A LEAK_MS period of a bucket ends: 0 and 1 the channels', 2 the TCM's. -/
  | bucketLeak (bucket : Fin 3)
  /-- DMC_FLIP_ARM (R395). A write of DMC.FLIP_CTL. -/
  | dmcFlipArm (q : Req) (w : BitVec 32)
  /-- BUFFER_TEST_START (R617). A write of DMC.TEST_CTL. -/
  | bufferTestStart (q : Req) (w : BitVec 32)
  /-- BUFFER_TEST_COMPLETE (R617). The test that runs ends; `fail`: the pattern (by its place in the run) and the
  granule of the first mismatch or error the memory shows, if any. -/
  | bufferTestComplete (fail : Option (Fin 3 × BitVec 28))
  /-- DRAM_TRAINING_COMPLETE (R389). Training of the enabled channels ends; bit c of `ok`: channel c trained. -/
  | dramTrainingComplete (ok : BitVec 2)
  /-- DRAM_RETRAIN (R389). A channel has lost its training and its retraining ends. -/
  | dramRetrain (channel : Fin 2) (ok : Bool)
  /-- SPIN_START (R406). A write of SPN_CTL. -/
  | spinStart (q : Req) (w : BitVec 32)
  /-- DETECT_COMPLETE (R406). DETECT has measured the rotor's direction and speed, UQ16.16 rpm. -/
  | detectComplete (backward : Bool) (rpm : BitVec 32)
  /-- ZERO_CROSSING (R403). A crossing, in forward or backward order: its phase error in 2^-16 of the expected interval, the
  interval since the crossing before in 2^-8 ns, and the leg currents of SPN_ISENSE. -/
  | zeroCrossing (backward : Bool) (phase : Int) (interval : BitVec 48) (mean peak : BitVec 16)
  /-- WINDOW_EMPTY (R412). A crossing window closes with no crossing in it. -/
  | windowEmpty
  /-- CATCH_MEASURE_COMPLETE (R414). CATCH has measured the speed, UQ16.16 rpm, and the phase error `error`: the
  phase units by which the stroke generator's strokes must be lengthened in all (negative: shortened). -/
  | catchMeasureComplete (rpm : BitVec 32) (error : Int)
  /-- RECATCH_TIMEOUT (R415). RECATCH_MS has passed. -/
  | recatchTimeout
  /-- START_ATTEMPT_TIMEOUT (R409). 3 s of a start attempt have passed. -/
  | startAttemptTimeout
  /-- START_RETRY (R409). The 2 s wait after a failed attempt has passed. -/
  | startRetry
  /-- REVERSE_BRAKE_DONE (R407). The rotor that turned backward falls below 60 rpm. -/
  | reverseBrakeDone
  /-- SPIN_STOP (R411). A write of SPN_CTL. -/
  | spinStop (q : Req) (w : BitVec 32)
  /-- SPINDOWN_COMPLETE (R411). The rotor falls below 60 rpm in SPINDOWN. -/
  | spindownComplete
  /-- SPEED_CHANGE_REQUEST (R410). A write of SPN_CTL. -/
  | speedChangeRequest (q : Req) (w : BitVec 32)
  /-- SPEED_TARGET_REACHED (R410). The speed reaches the target; `elapsed`: time since the start, 10 ms. -/
  | speedTargetReached (rpm : BitVec 32) (elapsed : BitVec 16)
  /-- CHOPPER_GATE (R416). HUP has risen to `hup` mV. -/
  | chopperGate (hup : BitVec 16)
  /-- CHOPPER_CURRENT_CHECK (R416). 2 us after the gate rose the chopper's leg current is measured. -/
  | chopperCurrentCheck (ma : BitVec 16)
  /-- CHOPPER_TIMEOUT (R416). The chopper has been gated for CHOP_MAX_MS. -/
  | chopperTimeout
  /-- HUP_OV1 (R417). HUP rises past OV1. -/
  | hupOv1
  /-- HUP_OV2 (R417). HUP reaches OV2. -/
  | hupOv2
  /-- OV_RECOVER (R417). HUP has been below 13.4 V for 1 ms. -/
  | ovRecover
  /-- OV_RETRACT_TIMEOUT (R417). HUP has been above OV1 for 100 ms. -/
  | ovRetractTimeout
  /-- IN5_LOSS (R419). The 5 V input is lost. -/
  | in5Loss
  /-- HOLDUP_FLOOR (R420). The spindle speed, UQ16.16 rpm, and HUP, mV, as they have fallen. -/
  | holdupFloor (rpm : BitVec 32) (hup : BitVec 16)
  /-- RAILS_RELEASE (R421). Rigger may release the rails; `low`: HUP is below 8.0 V; `ms`: how long the hold-up
  lasted. -/
  | railsRelease (low : Bool) (ms : BitVec 16)
  /-- IN12_RETURN (R423). The 12 V input rises above 11.4 V. -/
  | in12Return
  /-- RAILS_POWER_UP (R425). Both inputs have come back and are good; the straps as sampled: single port, I3C, TEST;
  `failed`: the shock sensors LX, LY, ROT that fail their self-test. -/
  | railsPowerUp (port mgmt test : Bool) (failed : BitVec 3)
  /-- RAIL_FAULT (R426). A rail has left its window; `recent`: the failures counted for it lie within 1 s. -/
  | railFault (rail : Fin 10) (recent : Bool)
  /-- RAIL_CYCLE (R426). 100 ms have passed since a rail of Cox failed; `failed`: the shock sensors that fail their
  self-test. -/
  | railCycle (failed : BitVec 3)
  /-- SPN_TERMINAL_FAULT (R427). A spindle terminal fault is detected. -/
  | spnTerminalFault (kind : SpnFault)
  /-- L2_ACCESS (R438). A core loads `n` bytes of one line at buffer address `addr`, or stores the bytes `w`; `pre`:
  the core's prefetcher issues it; `l1`: it refetches an L1 line that failed parity; `bad`: the places (16 x set +
  way) of the lines whose parity would fail a read now. -/
  | l2Access (addr : BitVec 38) (n : Nat) (w : Option (List Byte)) (pre : Bool) (l1 : Bool) (bad : List Nat)
  /-- L2_PRELOAD_START (R440). A write of L2C.PRELOAD_CTL. -/
  | l2PreloadStart (q : Req) (w : BitVec 32)
  /-- L2_PRELOAD_COMPLETE (R440). The preload that runs ends. -/
  | l2PreloadComplete
  /-- L2_CLEAN_ALL (R442). A write of L2C.MAINT_CMD with OP 0. -/
  | l2CleanAll (q : Req) (w : BitVec 32)
  /-- L2_CLEAN (R442). A write of L2C.MAINT_CMD with OP 1. -/
  | l2Clean (q : Req) (w : BitVec 32)
  /-- L2_INVALIDATE (R442). A write of L2C.MAINT_CMD with OP 2. -/
  | l2Invalidate (q : Req) (w : BitVec 32)
  /-- L2_CLEAN_INVALIDATE (R442). A write of L2C.MAINT_CMD with OP 3. -/
  | l2CleanInvalidate (q : Req) (w : BitVec 32)
  /-- L2_MAINT_COMPLETE (R442). The maintenance operation that runs ends. -/
  | l2MaintComplete
  /-- L2_DRAIN_COMPLETE (R444). The drain's last write-back ends. -/
  | l2DrainComplete
  /-- TCM_ACCESS (R447). A core reads `n` bytes at TCM offset `off`, or writes the low `n` bytes of `w`; `e` is what
  soft errors have changed in the word there since its last access. -/
  | tcmAccess (off : BitVec 22) (n : Nat) (w : Option (BitVec 64)) (e : BitVec 72)
  /-- TCM_CLEAR_START (R448). A write of TCM.CLEAR_CTL. -/
  | tcmClearStart (q : Req) (w : BitVec 32)
  /-- TCM_CLEAR_COMPLETE (R448). The clear that runs ends. -/
  | tcmClearComplete
  /-- TCM_FLIP_ARM (R449). A write of TCM.FLIP_CTL. -/
  | tcmFlipArm (q : Req) (w : BitVec 32)
  /-- RING_DOORBELL (R453). A write of WRK.DOORBELLr. -/
  | ringDoorbell (q : Req) (ring : Fin 256) (w : BitVec 32)
  /-- RING_ENTRY_FETCH (R453). WRK fetches the ring's next entry. -/
  | ringEntryFetch (ring : Fin 256)
  /-- RING_COMPLETION (R454). The ring's oldest waiting completion is written over its entry. -/
  | ringCompletion (ring : Fin 256)
  /-- RING_DISABLE (R455). A write of WRK.RING_CFG. -/
  | ringDisable (q : Req) (w : BitVec 32)
  /-- RING_ENABLE (R455). A write of WRK.RING_CFG. -/
  | ringEnable (q : Req) (w : BitVec 32)
  /-- RING_DRAIN_COMPLETE (R455). WRK finds whether a draining ring has no started entry left. -/
  | ringDrainComplete (ring : Fin 256)
  /-- RING_RESUME (R457). A write of WRK.RING_CMD. -/
  | ringResume (q : Req) (w : BitVec 32)
  /-- COPY_COPY (R459). The copy engine runs the oldest fetched entry of the ring, one with OP 1 or with an OP not
  listed. -/
  | copyCopy (ring : Fin 256)
  /-- COPY_FILL (R459). As COPY_COPY, with OP 2. -/
  | copyFill (ring : Fin 256)
  /-- COPY_CRC (R459). As COPY_COPY, with OP 3. -/
  | copyCrc (ring : Fin 256)
  /-- CRYPTO_ENCRYPT (R541). The crypto engine takes an entry with OP 1, or one with no OP it knows. -/
  | cryptoEncrypt (ring : Fin 256)
  /-- CRYPTO_DECRYPT (R541). The crypto engine takes an entry with OP 2. -/
  | cryptoDecrypt (ring : Fin 256)
  /-- CRYPTO_RETWEAK (R542). The crypto engine takes an entry with OP 3. -/
  | cryptoRetweak (ring : Fin 256)
  /-- MBX_OUT_WRITE (R464). A write of MBX.OUT_DATA of an endpoint. -/
  | mbxOutWrite (q : Req) (endpoint : Fin 18) (w : BitVec 32)
  /-- MBX_DELIVER (R465). MBX looks at the head message of an endpoint's outbound queue. -/
  | mbxDeliver (sender : Fin 18)
  /-- MBX_IN_READ (R463). A read of MBX.IN_DATA of an endpoint. -/
  | mbxInRead (q : Req) (endpoint : Fin 18)
  /-- MBX_WITHDRAW (R468). A write of MBX.OUT_CTL of an endpoint. -/
  | mbxWithdraw (q : Req) (endpoint : Fin 18) (w : BitVec 32)
  /-- MBX_WAIT_WARN (R465). The head message of an endpoint has waited WAIT_WARN. -/
  | mbxWaitWarn (sender : Fin 18)
  /-- NVS_KEY_WRITE (R477). A write of NVS_KEY. -/
  | nvsKeyWrite (q : Req) (w : BitVec 32)
  /-- NVS_CMD_WRITE (R477). A write of NVS_CMD. -/
  | nvsCmdWrite (q : Req) (w : BitVec 32)
  /-- NVS_ADDR_WRITE (R477). A write of NVS_ADDR. -/
  | nvsAddrWrite (q : Req) (w : BitVec 32)
  /-- NVS_DATA_WRITE (R477). A write of NVS_DATAn. -/
  | nvsDataWrite (q : Req) (n : Fin 8) (w : BitVec 32)
  /-- NVS_SEQ_TIMEOUT (R477). 100 us have passed since the sequence's last write. -/
  | nvsSeqTimeout
  /-- NVS_PROGRAM_COMPLETE (R479). A firmware PROGRAM ends; `verified`: the word passes program-verify margin after
  at most 8 pulses. -/
  | nvsProgramComplete (verified : Bool)
  /-- NVS_ERASE_COMPLETE (R481). A unit erase ends; `verified`: the unit passes erase-verify margin. -/
  | nvsEraseComplete (verified : Bool)
  /-- LOCK_RAISE_COMPLETE (R487). The level word has been programmed. -/
  | lockRaiseComplete
  /-- LOCK_LOWER_COMPLETE (R487). The lowering has run through. -/
  | lockLowerComplete
  /-- NVS_SCAN_START (R483). A write of NVS_CTL, or else the scan that a power-up or a VKEEL fault makes due begins.
  -/
  | nvsScanStart (write : Option (Req × BitVec 32))
  /-- NVS_SCAN_COMPLETE (R483). The scan ends; `rough`: units with a word that reads blank but not at erase-verify
  margin. -/
  | nvsScanComplete (rough : List (Fin 1024))
  /-- NVS_WORD_READ (R475). A read of RD_DATA0; `error`: the bits of the stored word and its check bits that read
  wrong. -/
  | nvsWordRead (q : Req) (error : BitVec 272)
  /-- NVS_TRANSFER_START (R475). A write of XFER_CTL. -/
  | nvsTransferStart (q : Req) (w : BitVec 32)
  /-- NVS_TRANSFER_COMPLETE (R475). The transfer has read its words; `errors`: bits that read wrong, by word. -/
  | nvsTransferComplete (errors : List (Nat × BitVec 272))
  /-- SLOT1_CLOSE (R487). A write of NVS_CTL. -/
  | slot1Close (q : Req) (w : BitVec 32)
  /-- EVR_RECORD_ACCEPT (R491). The oldest record on its way reaches EVR. -/
  | evrRecordAccept
  /-- FIRMWARE_LOG (R491). A write of LOG_CMD. -/
  | firmwareLog (q : Req) (w : BitVec 32)
  /-- EVR_COMMIT_START (R492). `elapsed`: COMMIT_MS has passed since the oldest record was staged. -/
  | evrCommitStart (elapsed : Bool)
  /-- EVR_COMMIT_WORD_DONE (R493). The commit word's program ends. -/
  | evrCommitWordDone (verified : Bool)
  /-- EVR_RECLAIM (R493). A write of EVR_CTL. -/
  | evrReclaim (q : Req) (w : BitVec 32)
  /-- SECONDS_TICK (R495). One second has passed. -/
  | secondsTick
  /-- SECONDS_HI_WRITE (R495). A write of SECONDS_HI. -/
  | secondsHiWrite (q : Req) (w : BitVec 32)
  /-- SECONDS_LO_WRITE (R495). A write of SECONDS_LO. -/
  | secondsLoWrite (q : Req) (w : BitVec 32)
  /-- CYCLES_WRITE (R495). A write of CYCLES. -/
  | cyclesWrite (q : Req) (w : BitVec 32)
  /-- EVR_REGION_READ (R615). EVR has read the region. -/
  | evrRegionRead
  /-- COMMIT_ENABLE (R615). A write of EVR_CTL. -/
  | commitEnable (q : Req) (w : BitVec 32)
  /-- TMP_SAMPLE (R507). A sample; `readings`: what the on-package sensors convert before SENS_OFS, Q10.6, `th0`,
  `th1`: the thermistors' codes. -/
  | tmpSample (readings : Vector (BitVec 16) 40) (th0 th1 : BitVec 12)
  /-- RECAL_PASS_CATCH (R520). The catch of CAL's commit on an Oar die. -/
  | recalPassCatch (oar : Fin 2)
  /-- AVS_EVALUATE (R511). A millisecond has passed; `margins`: what the delay monitors report, in 10 ps. -/
  | avsEvaluate (margins : Vector (BitVec 8) 16)
  /-- TRIAL_REPORT (R523). The oldest trial report of an Oar die's LDP reaches CAL. -/
  | trialReport (ldp : Fin 2)
  /-- DELTA_CLEAR (R529). A write of DELTA_CLR. -/
  | deltaClear (q : Req) (w : BitVec 32)
  /-- SVN_RAISE (R536). A write of SVN_RAISE. -/
  | svnRaise (q : Req) (w : BitVec 32)
  /-- KEY_GENERATE (R540). A write of KEY_CMD with OP 1. -/
  | keyGenerate (q : Req) (w : BitVec 32)
  /-- KEY_DESTROY (R540). A write of KEY_CMD with OP 2. -/
  | keyDestroy (q : Req) (w : BitVec 32)
  /-- KEY_LOAD (R616). A write of KEY_CMD with OP 3. -/
  | keyLoad (q : Req) (w : BitVec 32)
  /-- KEY_CMD_COMPLETE (R616). The key operation ends. -/
  | keyCmdComplete
  /-- MEAS_DATA_ACCESS (R537). A write of MEAS_DATA, or a read. -/
  | measDataAccess (q : Req) (w : Option (BitVec 32))
  /-- MEAS_EXTEND (R537). A write of MEAS_CMD. -/
  | measExtend (q : Req) (w : BitVec 32)
  /-- UNLOCK_NEW_NONCE (R544). A write of UNLOCK_CMD with NEW. -/
  | unlockNewNonce (q : Req) (w : BitVec 32)
  /-- UNLOCK_CHECK (R544). A write of UNLOCK_CMD with CHECK. -/
  | unlockCheck (q : Req) (w : BitVec 32)
  /-- UNLOCK_DATA_WRITE (R544). A write of UNLOCK_DATA. -/
  | unlockDataWrite (q : Req) (w : BitVec 32)
  /-- UNLOCK_EXPIRE (R544). 60 s have passed since the valid token. -/
  | unlockExpire
  /-- GRANT_CHANGE (R547). A write of GRANT_DATA. -/
  | grantChange (q : Req) (w : BitVec 32)
  /-- ENTROPY_HEALTH_FAIL (R532). A health test fails. -/
  | entropyHealthFail
  /-- ALIAS_CERT_ISSUE (R538). SEC finds bank 0 and CYCLES ready. -/
  | aliasCertIssue
  /-- DOM_EASY (R613). A write of DOM.DOM_CMD. -/
  | domEasy (q : Req) (w : BitVec 32)
  /-- DOM_RELEASE (R613). A write of DOM.DOM_CMD. -/
  | domRelease (q : Req) (w : BitVec 32)
  /-- DOM_RESET (R613). A write of DOM.DOM_CMD. -/
  | domReset (q : Req) (w : BitVec 32)
  /-- DOM_POWER_OFF (R613). A write of DOM.DOM_CMD. -/
  | domPowerOff (q : Req) (w : BitVec 32)
  /-- DOM_POWER_ON (R613). A write of DOM.DOM_CMD. -/
  | domPowerOn (q : Req) (w : BitVec 32)
  /-- DOM_FORCE_RESET (R557). A write of DOM.DOM_CMD. -/
  | domForceReset (q : Req) (w : BitVec 32)
  /-- DOM_RESET_COMPLETE (R554). The reset that DOM runs has lasted RST_MIN; `testsPass`: the entropy source's
  start-up tests pass (PD32). -/
  | domResetComplete (testsPass : Bool)
  /-- EASY_TIMEOUT (R556). EASY_LIMIT passes after a domain's EASY. -/
  | easyTimeout (dom : Fin 96)
  /-- IMAGE_LOAD (R562). A write of DOM.IMG_CTL. -/
  | imageLoad (q : Req) (w : BitVec 32)
  /-- IMAGE_LOAD_COMPLETE (R562). The image load that DOM runs has read its last byte. -/
  | imageLoadComplete
  /-- WARM_START (R563). A write of DOM.DOM_CTL. -/
  | warmStart (q : Req) (w : BitVec 32)
  /-- COX_RESET (R563). Cox is reset. -/
  | coxReset
  /-- START_OK (R564). A write of DOM.DOM_CTL. -/
  | startOk (q : Req) (w : BitVec 32)
  /-- FAIL_CLR (R564). A write of DOM.DOM_CTL. -/
  | failClr (q : Req) (w : BitVec 32)
  /-- START_WATCHDOG_EXPIRE (R564). START_TIMEOUT passes after a start. -/
  | startWatchdogExpire
  /-- REGATTA_FRAME_RECEIVE (R572). The header's cells as received and the phase at which its first cell began. -/
  | regattaFrameReceive (cells : BitVec 22) (phase : BitVec 12)
  /-- STARTER_CLAIM (R573). The wait of a claim ends. -/
  | starterClaim
  /-- STARTER_LOST (R574). No edge for LOSS_STROKES strokes. -/
  | starterLost
  /-- REGATTA_INTENT_QUEUE (R578). The oldest intent of a committed seek waits for a slot. -/
  | regattaIntentQueue
  /-- REGATTA_SLOT_CONTEND (R580). A slot that ends so many phase units after the last catch; settled: the intent
  reached RGT at least 1 µs before it began. -/
  | regattaSlotContend (settled : Bool) (slotEnd : BitVec 14) (outcome : SlotOutcome)
  /-- REGATTA_SLOT_RECEIVE (R582). The cells as received, cell 0 in the highest bit, and the slot end in phase units
  after the last catch. -/
  | regattaSlotReceive (cells : BitVec 32) (slotEnd : BitVec 14)
  /-- REGATTA_WIRE_STUCK (R583). RG_SYN or RG_MSG reads stuck. -/
  | regattaWireStuck (syn : Bool)
  /-- PERST_DEASSERT (R300). PERST# of a port is released. -/
  | perstDeassert (port : Fin 2)
  /-- RAIL_GOOD (R426). A faulted rail is within its window again. -/
  | railGood (rail : Fin 10)
  /-- CHOPPER_RELEASE (R416). HUP has fallen to `hup` mV. -/
  | chopperRelease (hup : BitVec 16)
  /-- CHOPPER_STUCK_ON (R416). Current, or BRK below 1 V, while the chopper is not gated. -/
  | chopperStuckOn
  /-- SPN_BRIDGE_OVERTEMP (R428). The spindle bridge rises above 150 C. -/
  | spnBridgeOvertemp
  /-- HV_OK_LOSS (R238). The microactuator rail leaves its +-5 %. -/
  | hvOkLoss
  /-- DRAM_REFRESH_RATE_CHANGE (R389). The die on a channel reports a refresh rate: 0 x1, 1 x2, 2 x4. -/
  | dramRefreshRateChange (channel : Fin 2) (rate : Fin 3)
  /-- PCIE_TLP_ERROR (R333). A bad packet arrives at a port, or a packet is sent again. -/
  | pcieTlpError (port : Fin 2) (kind : TlpError)
  /-- PCIE_COMPLETION_TIMEOUT (R333). A read of host memory over a port is not answered in time. -/
  | pcieCompletionTimeout (port : Fin 2)
  /-- MCTP_PACKET_ERROR (R334). A management packet arrives that fails its integrity check. -/
  | mctpPacketError
  /-- MSIX_VECTOR_UNMASK (R317). The host clears a vector's mask bit. -/
  | msixVectorUnmask (ctrl : Fin 2) (vector : Fin 2048)
  /-- REGATTA_WIRE_RECOVER (R583). A wire that was stuck read 1 for a whole frame. -/
  | regattaWireRecover
  /-- IN5_RETURN (R419). The 5 V input is good again. -/
  | in5Return
  /-- SPINDLE_STOPPED (R612). A coasting spindle comes to rest. -/
  | spindleStopped
  deriving DecidableEq, Repr

end Sys2Proof
end

