-- ==== Sys2Proof/Machine/Sparse.lean ====
section
/-! DEFINITION. The one sparse container: reading and writing it by key. A write keeps the canonical form: keys strictly
rising and no entry equal to what an unlisted key reads as, so that equal contents are equal data. -/

namespace Sys2Proof.Machine

open Sys2Proof

/-- The value at key `k`; `d` is what an unlisted key reads as. -/
def sget {α : Type} (d : α) : Sparse α → Nat → α
  | [], _ => d
  | (j, v) :: m, k => if j = k then v else sget d m k

/-- `m` without the entries of key `k`. -/
def sdel {α : Type} (m : Sparse α) (k : Nat) : Sparse α :=
  m.filter fun e => e.1 ≠ k

/-- `m` with `(k, v)` put before the first greater key. -/
def sins {α : Type} : Sparse α → Nat → α → Sparse α
  | [], k, v => [(k, v)]
  | (j, w) :: m, k, v => if k < j then (k, v) :: (j, w) :: m else (j, w) :: sins m k v

/-- `m` with `v` at key `k`; writing what an unlisted key reads as removes the entry. -/
def sset {α : Type} [DecidableEq α] (d : α) (m : Sparse α) (k : Nat) (v : α) : Sparse α :=
  if v = d then sdel m k else sins (sdel m k) k v

/-- The canonical form: keys strictly rising, no entry equal to the default `d`. -/
def Sparse.wf {α : Type} [DecidableEq α] (d : α) (m : Sparse α) : Bool :=
  decide (m.Pairwise fun a b => a.1 < b.1) && m.all fun e => decide (e.2 ≠ d)

/-- The low `n` bytes of `v`, least significant first. -/
def leBytes : Nat → Nat → List Nat
  | 0, _ => []
  | n + 1, v => v % 256 :: leBytes n (v / 256)

/-- The number a list of bytes holds, least significant first. -/
def leNat : List Nat → Nat
  | [] => 0
  | b :: bs => b + 256 * leNat bs

/-- Bits [lsb + wid - 1 : lsb] of `v`. -/
def bits (v lsb wid : Nat) : Nat := v / 2 ^ lsb % 2 ^ wid

/-- Bit `i` of `v`. -/
def bit (v i : Nat) : Bool := v / 2 ^ i % 2 = 1

/-- The two's complement value of the low `wid` bits of `v` (R5). -/
def signed (wid v : Nat) : Int :=
  let u := v % 2 ^ wid
  if u < 2 ^ (wid - 1) then (u : Int) else (u : Int) - 2 ^ wid

/-- The low `wid` bits of an integer, as a field holds it (R5). -/
def unsigned (wid : Nat) (v : Int) : Nat := (v % (2 ^ wid : Int)).toNat

/-- `v` held between `lo` and `hi`. -/
def clampI (lo hi v : Int) : Int := if v < lo then lo else if hi < v then hi else v

/-- Set or clear bit `i` of `v`. -/
def setBit (v i : Nat) (b : Bool) : Nat :=
  if bit v i then (if b then v else v - 2 ^ i) else (if b then v + 2 ^ i else v)

/-- The bits of `v` below `n` that are set, rising. -/
def bitList (n v : Nat) : List Nat := (List.range n).filter fun i => bit v i

/-- Set element `i` of a list (nothing beyond its end). -/
def upd {α : Type} (l : List α) (i : Nat) (v : α) : List α := l.set i v

end Sys2Proof.Machine
end

