-- ==== Sys2Proof/Machine/Codes.lean ====
section
/-! DEFINITION. Check codes and byte codes the spec names: CRC-32C, CRC-16, CRC-6, the weave's GF(2^8). -/

namespace Sys2Proof.Machine

open Sys2Proof

/-- One bit of a reflected CRC. -/
def crcBit (poly c : Nat) : Nat := if c % 2 = 1 then (c / 2) ^^^ poly else c / 2

/-- One byte of a reflected CRC. -/
def crcByte (poly c b : Nat) : Nat :=
  crcBit poly (crcBit poly (crcBit poly (crcBit poly (crcBit poly (crcBit poly (crcBit poly (crcBit poly (c ^^^ b))))))))

/-- CRC-32C (Castagnoli): polynomial 0x1EDC6F41 reflected, all-ones start and final XOR. -/
def crc32c (bs : List Nat) : Nat := (bs.foldl (crcByte 0x82F63B78) 0xFFFFFFFF) ^^^ 0xFFFFFFFF

/-- One byte of a 16-bit CRC that shifts towards its most significant end, by bits. -/
def crcUp (poly : Nat) : Nat → Nat → Nat
  | 0, c => c
  | n + 1, c => crcUp poly n (if 2 ^ 15 ≤ c then ((2 * c) % 2 ^ 16) ^^^ poly else 2 * c)

/-- The 16-bit guard: CRC-16 with polynomial 0x8BB7, start value 0 (R340; PRESUMED, log 35). -/
def guard16 (bs : List Nat) : Nat := bs.foldl (fun c b => crcUp 0x8BB7 8 (c ^^^ (b * 256))) 0

/-- The 64-bit guard: CRC-64 with polynomial 0xAD93D23594C93659 reflected, all-ones start and final XOR (R340; PRESUMED,
log 35). -/
def guard64 (bs : List Nat) : Nat :=
  (bs.foldl (crcByte 0x9A6C9329AC4BC9B5) (2 ^ 64 - 1)) ^^^ (2 ^ 64 - 1)

/-- Multiply by x in GF(2^8) modulo 0x11D (R272). -/
def gfX (a : Nat) : Nat := if 128 ≤ a then ((2 * a) ^^^ 0x11D) % 256 else 2 * a

/-- Product in GF(2^8) modulo 0x11D, over the low `n` bits of `b` (R272). -/
def gfMulAux : Nat → Nat → Nat → Nat
  | 0, _, _ => 0
  | n + 1, a, b => (if b % 2 = 1 then a else 0) ^^^ gfMulAux n (gfX a) (b / 2)

/-- Product in GF(2^8) modulo 0x11D (R272). -/
def gfMul (a b : Nat) : Nat := gfMulAux 8 (a % 256) (b % 256)

/-- `a` to the power `n` in GF(2^8). -/
def gfPow (a : Nat) : Nat → Nat
  | 0 => 1
  | n + 1 => gfMul a (gfPow a n)

/-- Inverse in GF(2^8): the 254th power. -/
def gfInv (a : Nat) : Nat := gfPow a 254

/-- The code's coefficient C[i][j] = (i XOR (0x10 + j))^-1 (R272). -/
def weaveCoef (i j : Nat) : Nat := gfInv (i ^^^ (0x10 + j))

end Sys2Proof.Machine
end

