-- ==== Sys2Proof/Config.lean ====
section
/-! DEFINITION. What the spec leaves open: values with no body, of which nothing can be proved but that they are the
same each time they are asked for with the same argument. -/

namespace Sys2Proof.Config

/-- A free value: what an unpredictable or unstated quantity turns out to be the n-th time one is needed (log 2). -/
opaque freeValue : Nat → Nat

/-- Whether a control-engine quantity that does not fit its format exactly is rounded up or down: the spec names formats
and no rounding (R200; log 2). -/
opaque roundsUp : Int → Bool

/-- What a control-engine state holds that has left its 40 bits (R200; log 2). -/
opaque wideState : Int → Int

/-- How far each head stands from its nominal radius at a track of its own, in 2^-10 tracks: the spec names the offset
and gives no register and no value for it (R62, R211; log 74). -/
opaque radialOffset : Nat → Int

/-- What the timing loop's phase detector output is worth, in 2^-20 bit: the spec names the detector and its gains and
no scale (R104; log 65). -/
opaque phaseUnits : Int → Int

/-- The interpolator phase, in 1/64 bit, that the zero-phase start finds in samples 8 to 15 of a preamble: the spec names
the estimate and no arithmetic for it (R104; log 65). -/
opaque zeroPhase : List Int → Nat

/-- The fast slicer's decision on a source sample of zero (R114; log 65). -/
opaque zeroSlice : Bool

/-- The bit for which a likelihood of zero decides (R134, R139; log 66). -/
opaque zeroDecides : Bool

/-- What a bit stands for in the detector's target, in 2^-4 of a sample step: the spec names the target and no level
(R134; log 66). -/
opaque bitLevel : Bool → Int

/-- The cost of a branch of the detector's trellis, in 2^-6: of its error after prediction, in 2^-10, and of INV_SIGMA.
The spec names both and no arithmetic (R134; log 66). -/
opaque branchCost : Int → Nat → Nat

/-- What a decoder core keeps of a bit's belief between two layers: the spec gives the messages' width and not the
belief's (R139; log 66). -/
opaque keptBelief : Int → Int

/-- LMS gradient k of a trial report, of the corrected samples of both readers, the coefficient set and the known
codeword: the spec names the gradients and no scale (R523; log 67). -/
opaque lmsGradient : List Int → List Int → List Nat → Nat → Nat → Int

/-- ML-DSA-65 verification (FIPS 204, empty context string): public key, message, signature (R534). The spec names the
standard and none of its arithmetic. -/
opaque mldsaVerify : List Nat → List Nat → List Nat → Bool

/-- Whether token bytes are a signature, by the root key with a digest, over a serial number, the current level, the
target level and a nonce (R544): the device holds the digest, and the spec gives no layout of the signed text. -/
opaque tokenSigned : Nat → Nat → Nat → Nat → Nat → List Nat → Bool

/-- The subsystem identifiers of the drive maker's configuration image, for which the spec gives no value (R299; log 90). -/
opaque subsystemId : Nat

/-- The byte at a buffer address after the n-th test with the random pattern, whose values are unpredictable (R617). -/
opaque randomByte : Nat → Nat → Byte

/-- DFH, in 2^-16 of Q8.8 nm, of a quotient with a term of zero: the spec states no result there (R526; log 2). -/
opaque logOfZero : Nat → Nat → Int

end Sys2Proof.Config
end

