-- ==== Sys2Proof/Machine/Fields.lean ====
section
/-! DEFINITION. The control-space register fields, one constant a field, transcribed from the register tables of the
spec: page offset, distance and number of the register's instances on a page, lowest bit, width, access type, Cold and
Warm columns. A Cold value the table gives in words (a fuse, a strap, the page's own constants) is 0 here and computed
where the register is read. A field whose description says W1S is written as one (`w1s`, or `kgo` where keeper
privilege is also needed). -/

namespace Sys2Proof.Machine

open Sys2Proof

/-- A field of a control-space register (R22): its block, the page offset of its register, the distance between the
register's instances on one page and how many there are, the lowest bit, the width, the access type (R11), the value of
the Cold column and that of the Warm column, none where the value is retained (R14). -/
structure Fld where
  blk : Blk
  off : Nat
  stride : Nat
  count : Nat
  lsb : Nat
  wid : Nat
  acc : Acc
  cold : Nat
  warm : Option Nat
  deriving DecidableEq, Repr

/-! HDR: the table of R16. -/

def HDR.PAGE_ID.TYPE : Fld := ⟨.hdr, 0x000, 0, 1, 16, 16, .ro, 0, some 0⟩
def HDR.PAGE_ID.INSTANCE : Fld := ⟨.hdr, 0x000, 0, 1, 8, 8, .ro, 0, some 0⟩
def HDR.PAGE_ID.STEPPING : Fld := ⟨.hdr, 0x000, 0, 1, 0, 8, .ro, 192, some 192⟩
def HDR.PAGE_CAP.BLOCK_CAP : Fld := ⟨.hdr, 0x004, 0, 1, 12, 20, .ro, 0, some 0⟩
def HDR.PAGE_CAP.HDR_VER : Fld := ⟨.hdr, 0x004, 0, 1, 8, 4, .ro, 1, some 1⟩
def HDR.PAGE_CAP.EV_COUNT : Fld := ⟨.hdr, 0x004, 0, 1, 0, 6, .ro, 0, some 0⟩
def HDR.PAGE_CTL.HOLD_REL : Fld := ⟨.hdr, 0x008, 0, 1, 2, 1, .w1s, 0, some 0⟩
def HDR.PAGE_CTL.EASY : Fld := ⟨.hdr, 0x008, 0, 1, 1, 1, .rw, 0, some 0⟩
def HDR.PAGE_CTL.ENABLE : Fld := ⟨.hdr, 0x008, 0, 1, 0, 1, .rw, 0, some 0⟩
def HDR.PAGE_STAT.EPOCH : Fld := ⟨.hdr, 0x00C, 0, 1, 8, 8, .ro, 0, some 0⟩
def HDR.PAGE_STAT.STATE : Fld := ⟨.hdr, 0x00C, 0, 1, 0, 3, .ro, 0, some 0⟩
def HDR.EV_RAW.RAW : Fld := ⟨.hdr, 0x010, 0, 1, 0, 32, .ro, 0, some 0⟩
def HDR.EV_EN.EN : Fld := ⟨.hdr, 0x014, 0, 1, 0, 32, .rw, 0, some 0⟩
def HDR.EV_PEND.PEND : Fld := ⟨.hdr, 0x018, 0, 1, 0, 32, .ro, 0, some 0⟩
def HDR.EV_CLR.CLR : Fld := ⟨.hdr, 0x01C, 0, 1, 0, 32, .wo, 0, some 0⟩
def HDR.PAGE_LOCK.CLASS : Fld := ⟨.hdr, 0x020, 0, 1, 4, 4, .ro, 0, some 0⟩
def HDR.PAGE_LOCK.WRITABLE : Fld := ⟨.hdr, 0x020, 0, 1, 0, 1, .ro, 0, some 0⟩

/-- The fields of HDR (R16). -/
def HDR.fields : List Fld :=
  [HDR.PAGE_ID.TYPE, HDR.PAGE_ID.INSTANCE, HDR.PAGE_ID.STEPPING, HDR.PAGE_CAP.BLOCK_CAP, HDR.PAGE_CAP.HDR_VER, HDR.PAGE_CAP.EV_COUNT, HDR.PAGE_CTL.HOLD_REL, HDR.PAGE_CTL.EASY, HDR.PAGE_CTL.ENABLE, HDR.PAGE_STAT.EPOCH, HDR.PAGE_STAT.STATE, HDR.EV_RAW.RAW] ++
  [HDR.EV_EN.EN, HDR.EV_PEND.PEND, HDR.EV_CLR.CLR, HDR.PAGE_LOCK.CLASS, HDR.PAGE_LOCK.WRITABLE]

/-! BRZ: the table of R48. -/

def BRZ.BRZ_CTL.LINK_EN : Fld := ⟨.brz, 0x040, 0, 1, 0, 4, .rw, 15, none⟩
def BRZ.BRZ_STAT.TRAINING : Fld := ⟨.brz, 0x044, 0, 1, 4, 4, .ro, 0, none⟩
def BRZ.BRZ_STAT.LINK_UP : Fld := ⟨.brz, 0x044, 0, 1, 0, 4, .ro, 0, none⟩
def BRZ.LINK_ERR.STALE_CNT : Fld := ⟨.brz, 0x048, 4, 4, 16, 16, .rc, 0, none⟩
def BRZ.LINK_ERR.RETRY_CNT : Fld := ⟨.brz, 0x048, 4, 4, 0, 16, .rc, 0, none⟩
def BRZ.STROKE_LO.NUM_LO : Fld := ⟨.brz, 0x058, 0, 1, 0, 32, .ro, 0, none⟩
def BRZ.STROKE_HI.NUM_HI : Fld := ⟨.brz, 0x05C, 0, 1, 0, 16, .ro, 0, none⟩
def BRZ.STROKE_PHASE.PHASE : Fld := ⟨.brz, 0x060, 0, 1, 0, 12, .ro, 0, none⟩
def BRZ.STROKE_STAT.TOKEN_MISS : Fld := ⟨.brz, 0x064, 0, 1, 8, 8, .rc, 0, none⟩
def BRZ.STROKE_STAT.MODE : Fld := ⟨.brz, 0x064, 0, 1, 0, 2, .ro, 0, none⟩
def BRZ.STROKE_PERIOD.PERIOD : Fld := ⟨.brz, 0x068, 0, 1, 0, 24, .ro, 4166667, none⟩
def BRZ.CATCH_SKEW.OAR1 : Fld := ⟨.brz, 0x06C, 0, 1, 16, 8, .ro, 0, none⟩
def BRZ.CATCH_SKEW.OAR0 : Fld := ⟨.brz, 0x06C, 0, 1, 8, 8, .ro, 0, none⟩
def BRZ.CATCH_SKEW.COX : Fld := ⟨.brz, 0x06C, 0, 1, 0, 8, .ro, 0, none⟩

/-- The fields of BRZ (R48). -/
def BRZ.fields : List Fld :=
  [BRZ.BRZ_CTL.LINK_EN, BRZ.BRZ_STAT.TRAINING, BRZ.BRZ_STAT.LINK_UP, BRZ.LINK_ERR.STALE_CNT, BRZ.LINK_ERR.RETRY_CNT, BRZ.STROKE_LO.NUM_LO, BRZ.STROKE_HI.NUM_HI, BRZ.STROKE_PHASE.PHASE, BRZ.STROKE_STAT.TOKEN_MISS, BRZ.STROKE_STAT.MODE, BRZ.STROKE_PERIOD.PERIOD, BRZ.CATCH_SKEW.OAR1] ++
  [BRZ.CATCH_SKEW.OAR0, BRZ.CATCH_SKEW.COX]

/-! FMT: the table of R93. -/

def FMT.FMT_CTL.SCAN : Fld := ⟨.fmt, 0x040, 0, 1, 1, 1, .w1s, 0, some 0⟩
def FMT.FMT_CTL.CRC_CHK : Fld := ⟨.fmt, 0x040, 0, 1, 0, 1, .rw, 1, none⟩
def FMT.FMT_STAT.SCAN_BUSY : Fld := ⟨.fmt, 0x044, 0, 1, 1, 1, .ro, 0, some 0⟩
def FMT.FMT_STAT.FORMAT_OK : Fld := ⟨.fmt, 0x044, 0, 1, 0, 1, .ro, 0, none⟩
def FMT.MAP_BASE.ADDR : Fld := ⟨.fmt, 0x048, 0, 1, 0, 32, .rw, 0, none⟩
def FMT.BAND_BASE.ADDR : Fld := ⟨.fmt, 0x04C, 0, 1, 0, 32, .rw, 0, none⟩
def FMT.SKIP_BASE.ADDR : Fld := ⟨.fmt, 0x050, 0, 1, 0, 32, .rw, 0, none⟩
def FMT.ZONE_COUNT.COUNT : Fld := ⟨.fmt, 0x054, 0, 1, 0, 20, .rw, 0, none⟩
def FMT.HEAD_EN.EN : Fld := ⟨.fmt, 0x058, 0, 1, 0, 32, .rw, 0, none⟩
def FMT.BANDS_PER_RB.COUNT : Fld := ⟨.fmt, 0x05C, 0, 1, 0, 9, .rw, 0, none⟩
def FMT.SLACK_CFG.SLACK_LOW : Fld := ⟨.fmt, 0x060, 0, 1, 16, 16, .rw, 64, none⟩
def FMT.SLACK_CFG.SLACK_MIN : Fld := ⟨.fmt, 0x060, 0, 1, 0, 16, .rw, 984, none⟩
def FMT.TWIN_EN.EN : Fld := ⟨.fmt, 0x064, 0, 1, 0, 16, .rw, 0, none⟩
def FMT.ENTRY_LOCK.VALID : Fld := ⟨.fmt, 0x068, 0, 1, 31, 1, .rw, 0, some 0⟩
def FMT.ENTRY_LOCK.ZONE : Fld := ⟨.fmt, 0x068, 0, 1, 0, 19, .rw, 0, some 0⟩
def FMT.SCAN_RES.FAIL_CNT : Fld := ⟨.fmt, 0x06C, 0, 1, 0, 20, .ro, 0, some 0⟩
def FMT.ERR_ZONE.CODE : Fld := ⟨.fmt, 0x070, 0, 1, 29, 3, .ro, 0, some 0⟩
def FMT.ERR_ZONE.ZONE : Fld := ⟨.fmt, 0x070, 0, 1, 0, 19, .ro, 0, some 0⟩
def FMT.ERR_CNT.CRC_CNT : Fld := ⟨.fmt, 0x074, 0, 1, 16, 16, .rc, 0, some 0⟩
def FMT.ERR_CNT.SLACK_CNT : Fld := ⟨.fmt, 0x074, 0, 1, 0, 16, .rc, 0, some 0⟩
def FMT.XLAT_REQ.GO : Fld := ⟨.fmt, 0x078, 0, 1, 31, 1, .w1s, 0, some 0⟩
def FMT.XLAT_REQ.ZONE : Fld := ⟨.fmt, 0x078, 0, 1, 0, 19, .rw, 0, some 0⟩
def FMT.XLAT_OFF.OFFSET : Fld := ⟨.fmt, 0x07C, 0, 1, 0, 32, .rw, 0, some 0⟩
def FMT.XLAT_LO.PSA_LO : Fld := ⟨.fmt, 0x080, 0, 1, 0, 32, .ro, 0, some 0⟩
def FMT.XLAT_HI.STATUS : Fld := ⟨.fmt, 0x084, 0, 1, 28, 4, .ro, 0, some 0⟩
def FMT.XLAT_HI.STRAND : Fld := ⟨.fmt, 0x084, 0, 1, 8, 4, .ro, 0, some 0⟩
def FMT.XLAT_HI.PSA_HI : Fld := ⟨.fmt, 0x084, 0, 1, 0, 8, .ro, 0, some 0⟩
def FMT.RB_CFG.SKEW : Fld := ⟨.fmt, 0x100, 4, 48, 23, 8, .rw, 0, none⟩
def FMT.RB_CFG.BAND_TRACKS : Fld := ⟨.fmt, 0x100, 4, 48, 14, 9, .rw, 0, none⟩
def FMT.RB_CFG.DIR : Fld := ⟨.fmt, 0x100, 4, 48, 13, 1, .rw, 0, none⟩
def FMT.RB_CFG.RATE_MHZ : Fld := ⟨.fmt, 0x100, 4, 48, 0, 13, .rw, 0, none⟩
def FMT.RB_GEOM.VALID : Fld := ⟨.fmt, 0x200, 4, 48, 31, 1, .ro, 0, none⟩
def FMT.RB_GEOM.USER_SPT : Fld := ⟨.fmt, 0x200, 4, 48, 16, 10, .ro, 0, none⟩
def FMT.RB_GEOM.TRIAL : Fld := ⟨.fmt, 0x200, 4, 48, 10, 4, .ro, 0, none⟩
def FMT.RB_GEOM.SPT : Fld := ⟨.fmt, 0x200, 4, 48, 0, 10, .ro, 0, none⟩
def FMT.RB_TRACK0.TRACK : Fld := ⟨.fmt, 0x300, 4, 48, 0, 22, .ro, 0, none⟩

/-- The fields of FMT (R93). -/
def FMT.fields : List Fld :=
  [FMT.FMT_CTL.SCAN, FMT.FMT_CTL.CRC_CHK, FMT.FMT_STAT.SCAN_BUSY, FMT.FMT_STAT.FORMAT_OK, FMT.MAP_BASE.ADDR, FMT.BAND_BASE.ADDR, FMT.SKIP_BASE.ADDR, FMT.ZONE_COUNT.COUNT, FMT.HEAD_EN.EN, FMT.BANDS_PER_RB.COUNT, FMT.SLACK_CFG.SLACK_LOW, FMT.SLACK_CFG.SLACK_MIN] ++
  [FMT.TWIN_EN.EN, FMT.ENTRY_LOCK.VALID, FMT.ENTRY_LOCK.ZONE, FMT.SCAN_RES.FAIL_CNT, FMT.ERR_ZONE.CODE, FMT.ERR_ZONE.ZONE, FMT.ERR_CNT.CRC_CNT, FMT.ERR_CNT.SLACK_CNT, FMT.XLAT_REQ.GO, FMT.XLAT_REQ.ZONE, FMT.XLAT_OFF.OFFSET, FMT.XLAT_LO.PSA_LO] ++
  [FMT.XLAT_HI.STATUS, FMT.XLAT_HI.STRAND, FMT.XLAT_HI.PSA_HI, FMT.RB_CFG.SKEW, FMT.RB_CFG.BAND_TRACKS, FMT.RB_CFG.DIR, FMT.RB_CFG.RATE_MHZ, FMT.RB_GEOM.VALID, FMT.RB_GEOM.USER_SPT, FMT.RB_GEOM.TRIAL, FMT.RB_GEOM.SPT, FMT.RB_TRACK0.TRACK]

/-! LANE: the table of R127. -/

def LANE.FE_CTL.TIM_SRC : Fld := ⟨.lane, 0x040, 0, 1, 4, 2, .rw, 2, none⟩
def LANE.FE_CTL.CARRY : Fld := ⟨.lane, 0x040, 0, 1, 2, 1, .rw, 1, none⟩
def LANE.FE_CTL.RDB_EN : Fld := ⟨.lane, 0x040, 0, 1, 1, 1, .rw, 1, none⟩
def LANE.FE_CTL.RDA_EN : Fld := ⟨.lane, 0x040, 0, 1, 0, 1, .rw, 1, none⟩
def LANE.FE_STAT.HEAD : Fld := ⟨.lane, 0x044, 0, 1, 16, 5, .ro, 0, some 0⟩
def LANE.FE_STAT.FROZEN_B : Fld := ⟨.lane, 0x044, 0, 1, 6, 1, .ro, 0, some 0⟩
def LANE.FE_STAT.FROZEN_A : Fld := ⟨.lane, 0x044, 0, 1, 5, 1, .ro, 0, some 0⟩
def LANE.FE_STAT.STATE : Fld := ⟨.lane, 0x044, 0, 1, 0, 3, .ro, 0, some 0⟩
def LANE.RDA_PRESET.ASYM : Fld := ⟨.lane, 0x048, 0, 1, 15, 8, .rw, 0, none⟩
def LANE.RDA_PRESET.OFFSET : Fld := ⟨.lane, 0x048, 0, 1, 8, 7, .rw, 0, none⟩
def LANE.RDA_PRESET.GAIN : Fld := ⟨.lane, 0x048, 0, 1, 0, 8, .rw, 96, none⟩
def LANE.RDB_PRESET.ASYM : Fld := ⟨.lane, 0x04C, 0, 1, 15, 8, .rw, 0, none⟩
def LANE.RDB_PRESET.OFFSET : Fld := ⟨.lane, 0x04C, 0, 1, 8, 7, .rw, 0, none⟩
def LANE.RDB_PRESET.GAIN : Fld := ⟨.lane, 0x04C, 0, 1, 0, 8, .rw, 96, none⟩
def LANE.RDA_LIVE.ASYM : Fld := ⟨.lane, 0x050, 0, 1, 15, 8, .ro, 0, some 0⟩
def LANE.RDA_LIVE.OFFSET : Fld := ⟨.lane, 0x050, 0, 1, 8, 7, .ro, 0, some 0⟩
def LANE.RDA_LIVE.GAIN : Fld := ⟨.lane, 0x050, 0, 1, 0, 8, .ro, 0, some 0⟩
def LANE.RDB_LIVE.ASYM : Fld := ⟨.lane, 0x054, 0, 1, 15, 8, .ro, 0, some 0⟩
def LANE.RDB_LIVE.OFFSET : Fld := ⟨.lane, 0x054, 0, 1, 8, 7, .ro, 0, some 0⟩
def LANE.RDB_LIVE.GAIN : Fld := ⟨.lane, 0x054, 0, 1, 0, 8, .ro, 0, some 0⟩
def LANE.AFE_FILT.HPF_TA : Fld := ⟨.lane, 0x058, 0, 1, 13, 3, .rw, 6, none⟩
def LANE.AFE_FILT.HPF : Fld := ⟨.lane, 0x058, 0, 1, 10, 3, .rw, 3, none⟩
def LANE.AFE_FILT.CTF_BOOST : Fld := ⟨.lane, 0x058, 0, 1, 5, 5, .rw, 10, none⟩
def LANE.AFE_FILT.CTF_FC : Fld := ⟨.lane, 0x058, 0, 1, 0, 5, .rw, 12, none⟩
def LANE.AGC_CTL.TARGET : Fld := ⟨.lane, 0x05C, 0, 1, 16, 6, .rw, 20, none⟩
def LANE.AGC_CTL.TRK_STEP : Fld := ⟨.lane, 0x05C, 0, 1, 5, 5, .rw, 1, none⟩
def LANE.AGC_CTL.GAIN_STEP : Fld := ⟨.lane, 0x05C, 0, 1, 0, 5, .rw, 16, none⟩
def LANE.OFS_CTL.TRK_STEP : Fld := ⟨.lane, 0x060, 0, 1, 5, 5, .rw, 1, none⟩
def LANE.OFS_CTL.OFS_STEP : Fld := ⟨.lane, 0x060, 0, 1, 0, 5, .rw, 8, none⟩
def LANE.ASYM_CTL.ASYM_EN : Fld := ⟨.lane, 0x064, 0, 1, 31, 1, .rw, 1, none⟩
def LANE.ASYM_CTL.ASYM_LIMIT : Fld := ⟨.lane, 0x064, 0, 1, 8, 7, .rw, 32, none⟩
def LANE.ASYM_CTL.ASYM_STEP : Fld := ⟨.lane, 0x064, 0, 1, 0, 5, .rw, 4, none⟩
def LANE.TIM_CTL.KI_TRK : Fld := ⟨.lane, 0x068, 0, 1, 28, 4, .rw, 12, none⟩
def LANE.TIM_CTL.KP_TRK : Fld := ⟨.lane, 0x068, 0, 1, 24, 4, .rw, 6, none⟩
def LANE.TIM_CTL.KI_ACQ : Fld := ⟨.lane, 0x068, 0, 1, 20, 4, .rw, 8, none⟩
def LANE.TIM_CTL.KP_ACQ : Fld := ⟨.lane, 0x068, 0, 1, 16, 4, .rw, 3, none⟩
def LANE.TIM_CTL.FREQ_LIMIT : Fld := ⟨.lane, 0x068, 0, 1, 0, 16, .rw, 524, none⟩
def LANE.TIM_PRESET.FREQ_PRESET : Fld := ⟨.lane, 0x06C, 0, 1, 0, 16, .rw, 0, none⟩
def LANE.TIM_STAT.PHASE : Fld := ⟨.lane, 0x070, 0, 1, 16, 6, .ro, 0, some 0⟩
def LANE.TIM_STAT.FREQ_OFS : Fld := ⟨.lane, 0x070, 0, 1, 0, 16, .ro, 0, some 0⟩
def LANE.RDB_SKEW.SKEW : Fld := ⟨.lane, 0x074, 0, 1, 0, 10, .rw, 0, none⟩
def LANE.DEF_CTL.GUARD : Fld := ⟨.lane, 0x078, 0, 1, 24, 8, .rw, 64, none⟩
def LANE.DEF_CTL.DO_LEN : Fld := ⟨.lane, 0x078, 0, 1, 16, 8, .rw, 32, none⟩
def LANE.DEF_CTL.DO_THRESH : Fld := ⟨.lane, 0x078, 0, 1, 12, 4, .rw, 8, none⟩
def LANE.DEF_CTL.TA_LEN : Fld := ⟨.lane, 0x078, 0, 1, 6, 4, .rw, 8, none⟩
def LANE.DEF_CTL.TA_THRESH : Fld := ⟨.lane, 0x078, 0, 1, 0, 6, .rw, 12, none⟩
def LANE.DEF_MAX.DEFECT_MAX : Fld := ⟨.lane, 0x07C, 0, 1, 0, 16, .rw, 2048, none⟩
def LANE.SYNC_CTL.TOL : Fld := ⟨.lane, 0x080, 0, 1, 16, 3, .rw, 3, none⟩
def LANE.SYNC_CTL.WIN2 : Fld := ⟨.lane, 0x080, 0, 1, 8, 5, .rw, 12, none⟩
def LANE.SYNC_CTL.WIN1 : Fld := ⟨.lane, 0x080, 0, 1, 0, 5, .rw, 12, none⟩
def LANE.SYNC1_PAT.PATTERN : Fld := ⟨.lane, 0x084, 0, 1, 0, 32, .ro, 1911858059, some 1911858059⟩
def LANE.SYNC2_PAT.PATTERN : Fld := ⟨.lane, 0x088, 0, 1, 0, 32, .ro, 3536199259, some 3536199259⟩
def LANE.LAST_FRAME.FE_STATUS : Fld := ⟨.lane, 0x08C, 0, 1, 0, 32, .ro, 0, some 0⟩
def LANE.LAST_PSA_LO.PSA_LO : Fld := ⟨.lane, 0x090, 0, 1, 0, 32, .ro, 0, some 0⟩
def LANE.LAST_PSA_HI.PSA_HI : Fld := ⟨.lane, 0x094, 0, 1, 0, 8, .ro, 0, some 0⟩
def LANE.SBUF_STAT.RESULT : Fld := ⟨.lane, 0x098, 0, 1, 16, 3, .ro, 0, some 0⟩
def LANE.SBUF_STAT.PIN_CNT : Fld := ⟨.lane, 0x098, 0, 1, 8, 4, .ro, 0, some 0⟩
def LANE.SBUF_STAT.NEWEST : Fld := ⟨.lane, 0x098, 0, 1, 0, 7, .ro, 0, some 0⟩
def LANE.SBUF_CMD.GEN : Fld := ⟨.lane, 0x09C, 0, 1, 16, 16, .wo, 0, some 0⟩
def LANE.SBUF_CMD.GEN_CHK : Fld := ⟨.lane, 0x09C, 0, 1, 10, 1, .wo, 0, some 0⟩
def LANE.SBUF_CMD.OP : Fld := ⟨.lane, 0x09C, 0, 1, 8, 2, .wo, 0, some 0⟩
def LANE.SBUF_CMD.ENTRY : Fld := ⟨.lane, 0x09C, 0, 1, 0, 7, .wo, 0, some 0⟩
def LANE.PINMAP.PINNED : Fld := ⟨.lane, 0x0A0, 4, 3, 0, 32, .ro, 0, some 0⟩
def LANE.SBUF_WIN.META : Fld := ⟨.lane, 0x0AC, 0, 1, 31, 1, .rw, 0, some 0⟩
def LANE.SBUF_WIN.ENTRY : Fld := ⟨.lane, 0x0AC, 0, 1, 16, 7, .rw, 0, some 0⟩
def LANE.SBUF_WIN.INDEX : Fld := ⟨.lane, 0x0AC, 0, 1, 0, 16, .rw, 0, some 0⟩
def LANE.SBUF_DATA.DATA : Fld := ⟨.lane, 0x0B0, 0, 1, 0, 32, .ro, 0, some 0⟩
def LANE.FRAME_CNT.SYNC1_MISS : Fld := ⟨.lane, 0x0C0, 4, 8, 16, 16, .rc, 0, none⟩
def LANE.FRAME_CNT.FRAME_LOST : Fld := ⟨.lane, 0x0C0, 4, 8, 8, 8, .rc, 0, none⟩
def LANE.FRAME_CNT.CONFLICT : Fld := ⟨.lane, 0x0C0, 4, 8, 0, 8, .rc, 0, none⟩
def LANE.DEFECT_CNT.TA_CNT : Fld := ⟨.lane, 0x0E0, 4, 8, 16, 16, .rc, 0, none⟩
def LANE.DEFECT_CNT.DO_CNT : Fld := ⟨.lane, 0x0E0, 4, 8, 0, 16, .rc, 0, none⟩

/-- The fields of LANE (R127). -/
def LANE.fields : List Fld :=
  [LANE.FE_CTL.TIM_SRC, LANE.FE_CTL.CARRY, LANE.FE_CTL.RDB_EN, LANE.FE_CTL.RDA_EN, LANE.FE_STAT.HEAD, LANE.FE_STAT.FROZEN_B, LANE.FE_STAT.FROZEN_A, LANE.FE_STAT.STATE, LANE.RDA_PRESET.ASYM, LANE.RDA_PRESET.OFFSET, LANE.RDA_PRESET.GAIN, LANE.RDB_PRESET.ASYM] ++
  [LANE.RDB_PRESET.OFFSET, LANE.RDB_PRESET.GAIN, LANE.RDA_LIVE.ASYM, LANE.RDA_LIVE.OFFSET, LANE.RDA_LIVE.GAIN, LANE.RDB_LIVE.ASYM, LANE.RDB_LIVE.OFFSET, LANE.RDB_LIVE.GAIN, LANE.AFE_FILT.HPF_TA, LANE.AFE_FILT.HPF, LANE.AFE_FILT.CTF_BOOST, LANE.AFE_FILT.CTF_FC] ++
  [LANE.AGC_CTL.TARGET, LANE.AGC_CTL.TRK_STEP, LANE.AGC_CTL.GAIN_STEP, LANE.OFS_CTL.TRK_STEP, LANE.OFS_CTL.OFS_STEP, LANE.ASYM_CTL.ASYM_EN, LANE.ASYM_CTL.ASYM_LIMIT, LANE.ASYM_CTL.ASYM_STEP, LANE.TIM_CTL.KI_TRK, LANE.TIM_CTL.KP_TRK, LANE.TIM_CTL.KI_ACQ, LANE.TIM_CTL.KP_ACQ] ++
  [LANE.TIM_CTL.FREQ_LIMIT, LANE.TIM_PRESET.FREQ_PRESET, LANE.TIM_STAT.PHASE, LANE.TIM_STAT.FREQ_OFS, LANE.RDB_SKEW.SKEW, LANE.DEF_CTL.GUARD, LANE.DEF_CTL.DO_LEN, LANE.DEF_CTL.DO_THRESH, LANE.DEF_CTL.TA_LEN, LANE.DEF_CTL.TA_THRESH, LANE.DEF_MAX.DEFECT_MAX, LANE.SYNC_CTL.TOL] ++
  [LANE.SYNC_CTL.WIN2, LANE.SYNC_CTL.WIN1, LANE.SYNC1_PAT.PATTERN, LANE.SYNC2_PAT.PATTERN, LANE.LAST_FRAME.FE_STATUS, LANE.LAST_PSA_LO.PSA_LO, LANE.LAST_PSA_HI.PSA_HI, LANE.SBUF_STAT.RESULT, LANE.SBUF_STAT.PIN_CNT, LANE.SBUF_STAT.NEWEST, LANE.SBUF_CMD.GEN, LANE.SBUF_CMD.GEN_CHK] ++
  [LANE.SBUF_CMD.OP, LANE.SBUF_CMD.ENTRY, LANE.PINMAP.PINNED, LANE.SBUF_WIN.META, LANE.SBUF_WIN.ENTRY, LANE.SBUF_WIN.INDEX, LANE.SBUF_DATA.DATA, LANE.FRAME_CNT.SYNC1_MISS, LANE.FRAME_CNT.FRAME_LOST, LANE.FRAME_CNT.CONFLICT, LANE.DEFECT_CNT.TA_CNT, LANE.DEFECT_CNT.DO_CNT]

/-! LDP: the table of R159. -/

def LDP.LDP_CTL.SKIP1_EN : Fld := ⟨.ldp, 0x040, 0, 1, 9, 1, .rw, 1, none⟩
def LDP.LDP_CTL.NOMINAL_TRY : Fld := ⟨.ldp, 0x040, 0, 1, 8, 1, .rw, 0, none⟩
def LDP.LDP_CTL.STEP_EN : Fld := ⟨.ldp, 0x040, 0, 1, 0, 4, .rw, 15, none⟩
def LDP.LDP_STAT.CORE_FAULT : Fld := ⟨.ldp, 0x044, 0, 1, 24, 6, .ro, 0, some 0⟩
def LDP.LDP_STAT.CORE_BUSY : Fld := ⟨.ldp, 0x044, 0, 1, 16, 6, .ro, 0, some 0⟩
def LDP.LDP_STAT.REPLAY_Q : Fld := ⟨.ldp, 0x044, 0, 1, 8, 6, .ro, 0, some 0⟩
def LDP.LDP_STAT.ONLINE_Q : Fld := ⟨.ldp, 0x044, 0, 1, 0, 4, .ro, 0, some 0⟩
def LDP.CORE_EN.EN : Fld := ⟨.ldp, 0x048, 0, 1, 0, 6, .rw, 63, some 63⟩
def LDP.ITER_CTL.ITER_MAX : Fld := ⟨.ldp, 0x04C, 0, 1, 24, 6, .rw, 48, none⟩
def LDP.ITER_CTL.ITER_REPLAY : Fld := ⟨.ldp, 0x04C, 0, 1, 16, 6, .rw, 24, none⟩
def LDP.ITER_CTL.ITER_REFRAME : Fld := ⟨.ldp, 0x04C, 0, 1, 8, 6, .rw, 4, none⟩
def LDP.ITER_CTL.ITER_ONLINE : Fld := ⟨.ldp, 0x04C, 0, 1, 0, 6, .rw, 12, none⟩
def LDP.ARB_CTL.REPLAY_AGE : Fld := ⟨.ldp, 0x050, 0, 1, 0, 16, .rw, 200, none⟩
def LDP.REFRAME_CTL.SW_REFRAME : Fld := ⟨.ldp, 0x054, 0, 1, 16, 13, .rw, 600, none⟩
def LDP.REFRAME_CTL.RANGE : Fld := ⟨.ldp, 0x054, 0, 1, 0, 4, .rw, 8, none⟩
def LDP.ITER_WARN.WARN : Fld := ⟨.ldp, 0x058, 0, 1, 0, 6, .rw, 8, none⟩
def LDP.COEF_WIN.HEAD : Fld := ⟨.ldp, 0x060, 0, 1, 12, 4, .rw, 0, some 0⟩
def LDP.COEF_WIN.HALF : Fld := ⟨.ldp, 0x060, 0, 1, 11, 1, .rw, 0, some 0⟩
def LDP.COEF_WIN.SET : Fld := ⟨.ldp, 0x060, 0, 1, 10, 1, .rw, 0, some 0⟩
def LDP.COEF_WIN.WORD : Fld := ⟨.ldp, 0x060, 0, 1, 0, 6, .rw, 0, some 0⟩
def LDP.COEF_DATA.DATA : Fld := ⟨.ldp, 0x064, 0, 1, 0, 32, .rw, 0, some 0⟩
def LDP.COEF_COMMIT.GO : Fld := ⟨.ldp, 0x068, 0, 1, 31, 1, .w1s, 0, some 0⟩
def LDP.COEF_COMMIT.PENDING : Fld := ⟨.ldp, 0x068, 0, 1, 30, 1, .ro, 0, some 0⟩
def LDP.COEF_COMMIT.LATE : Fld := ⟨.ldp, 0x068, 0, 1, 29, 1, .ro, 0, some 0⟩
def LDP.COEF_COMMIT.STROKE : Fld := ⟨.ldp, 0x068, 0, 1, 0, 16, .rw, 0, some 0⟩
def LDP.COEF_MASK.HEADS : Fld := ⟨.ldp, 0x06C, 0, 1, 0, 16, .rw, 0, some 0⟩
def LDP.RP_DESC0.GEN : Fld := ⟨.ldp, 0x070, 0, 1, 16, 16, .rw, 0, some 0⟩
def LDP.RP_DESC0.GEN_CHK : Fld := ⟨.ldp, 0x070, 0, 1, 15, 1, .rw, 0, some 0⟩
def LDP.RP_DESC0.LANE : Fld := ⟨.ldp, 0x070, 0, 1, 8, 2, .rw, 0, some 0⟩
def LDP.RP_DESC0.ENTRY : Fld := ⟨.ldp, 0x070, 0, 1, 0, 7, .rw, 0, some 0⟩
def LDP.RP_DESC1.MODE : Fld := ⟨.ldp, 0x074, 0, 1, 28, 2, .rw, 0, some 0⟩
def LDP.RP_DESC1.ERASE : Fld := ⟨.ldp, 0x074, 0, 1, 27, 1, .rw, 0, some 0⟩
def LDP.RP_DESC1.ALT_SET : Fld := ⟨.ldp, 0x074, 0, 1, 26, 1, .rw, 0, some 0⟩
def LDP.RP_DESC1.FRAME_ADJ : Fld := ⟨.ldp, 0x074, 0, 1, 16, 6, .rw, 0, some 0⟩
def LDP.RP_DESC1.ITER : Fld := ⟨.ldp, 0x074, 0, 1, 0, 6, .rw, 24, some 24⟩
def LDP.RP_DEST.ADDR : Fld := ⟨.ldp, 0x078, 0, 1, 0, 32, .rw, 0, some 0⟩
def LDP.RP_CMD.GO : Fld := ⟨.ldp, 0x07C, 0, 1, 31, 1, .w1s, 0, some 0⟩
def LDP.RP_CMD.BUSY : Fld := ⟨.ldp, 0x07C, 0, 1, 30, 1, .ro, 0, some 0⟩
def LDP.RP_CMD.RESULT : Fld := ⟨.ldp, 0x07C, 0, 1, 0, 4, .ro, 0, some 0⟩
def LDP.RP_RES.RECORD : Fld := ⟨.ldp, 0x080, 4, 4, 0, 32, .ro, 0, some 0⟩
def LDP.LAST_RES.RECORD : Fld := ⟨.ldp, 0x090, 4, 4, 0, 32, .ro, 0, some 0⟩
def LDP.CW_TOTAL.COUNT : Fld := ⟨.ldp, 0x0A0, 0, 1, 0, 32, .rc, 0, none⟩
def LDP.CORE_ERR.PARITY_CNT : Fld := ⟨.ldp, 0x0A4, 0, 1, 0, 8, .rc, 0, none⟩
def LDP.HCNT_A.ONLINE_FAIL : Fld := ⟨.ldp, 0x100, 4, 16, 16, 16, .rc, 0, none⟩
def LDP.HCNT_A.LADDER_OK : Fld := ⟨.ldp, 0x100, 4, 16, 0, 16, .rc, 0, none⟩
def LDP.HCNT_B.FALSE_EARLY : Fld := ⟨.ldp, 0x140, 4, 16, 24, 8, .rc, 0, none⟩
def LDP.HCNT_B.FALSE_LATE : Fld := ⟨.ldp, 0x140, 4, 16, 16, 8, .rc, 0, none⟩
def LDP.HCNT_B.SEC_FRAMED : Fld := ⟨.ldp, 0x140, 4, 16, 8, 8, .rc, 0, none⟩
def LDP.HCNT_B.TAG_FAIL : Fld := ⟨.ldp, 0x140, 4, 16, 0, 8, .rc, 0, none⟩
def LDP.HCNT_C.ITER_HI : Fld := ⟨.ldp, 0x180, 4, 16, 16, 16, .rc, 0, none⟩
def LDP.HCNT_C.LADDER_FAIL : Fld := ⟨.ldp, 0x180, 4, 16, 8, 8, .rc, 0, none⟩
def LDP.HCNT_C.PSA_MISMATCH : Fld := ⟨.ldp, 0x180, 4, 16, 0, 8, .rc, 0, none⟩

/-- The fields of LDP (R159). -/
def LDP.fields : List Fld :=
  [LDP.LDP_CTL.SKIP1_EN, LDP.LDP_CTL.NOMINAL_TRY, LDP.LDP_CTL.STEP_EN, LDP.LDP_STAT.CORE_FAULT, LDP.LDP_STAT.CORE_BUSY, LDP.LDP_STAT.REPLAY_Q, LDP.LDP_STAT.ONLINE_Q, LDP.CORE_EN.EN, LDP.ITER_CTL.ITER_MAX, LDP.ITER_CTL.ITER_REPLAY, LDP.ITER_CTL.ITER_REFRAME, LDP.ITER_CTL.ITER_ONLINE] ++
  [LDP.ARB_CTL.REPLAY_AGE, LDP.REFRAME_CTL.SW_REFRAME, LDP.REFRAME_CTL.RANGE, LDP.ITER_WARN.WARN, LDP.COEF_WIN.HEAD, LDP.COEF_WIN.HALF, LDP.COEF_WIN.SET, LDP.COEF_WIN.WORD, LDP.COEF_DATA.DATA, LDP.COEF_COMMIT.GO, LDP.COEF_COMMIT.PENDING, LDP.COEF_COMMIT.LATE] ++
  [LDP.COEF_COMMIT.STROKE, LDP.COEF_MASK.HEADS, LDP.RP_DESC0.GEN, LDP.RP_DESC0.GEN_CHK, LDP.RP_DESC0.LANE, LDP.RP_DESC0.ENTRY, LDP.RP_DESC1.MODE, LDP.RP_DESC1.ERASE, LDP.RP_DESC1.ALT_SET, LDP.RP_DESC1.FRAME_ADJ, LDP.RP_DESC1.ITER, LDP.RP_DEST.ADDR] ++
  [LDP.RP_CMD.GO, LDP.RP_CMD.BUSY, LDP.RP_CMD.RESULT, LDP.RP_RES.RECORD, LDP.LAST_RES.RECORD, LDP.CW_TOTAL.COUNT, LDP.CORE_ERR.PARITY_CNT, LDP.HCNT_A.ONLINE_FAIL, LDP.HCNT_A.LADDER_OK, LDP.HCNT_B.FALSE_EARLY, LDP.HCNT_B.FALSE_LATE, LDP.HCNT_B.SEC_FRAMED] ++
  [LDP.HCNT_B.TAG_FAIL, LDP.HCNT_C.ITER_HI, LDP.HCNT_C.LADDER_FAIL, LDP.HCNT_C.PSA_MISMATCH]

/-! AST: the table of R189. -/

def AST.AST_CTL.FORCE_INH : Fld := ⟨.ast, 0x040, 0, 1, 31, 1, .rw, 0, some 0⟩
def AST.AST_CTL.MON_EN : Fld := ⟨.ast, 0x040, 0, 1, 16, 1, .rw, 1, none⟩
def AST.AST_CTL.IDLE_OFF : Fld := ⟨.ast, 0x040, 0, 1, 8, 8, .rw, 120, none⟩
def AST.AST_CTL.PREHEAT : Fld := ⟨.ast, 0x040, 0, 1, 0, 4, .rw, 2, none⟩
def AST.AST_STAT.ARMED : Fld := ⟨.ast, 0x044, 0, 1, 24, 8, .ro, 0, some 0⟩
def AST.AST_STAT.WRITING : Fld := ⟨.ast, 0x044, 0, 1, 16, 8, .ro, 0, some 0⟩
def AST.AST_STAT.INH_SRC : Fld := ⟨.ast, 0x044, 0, 1, 8, 3, .ro, 0, some 0⟩
def AST.AST_STAT.INHIBIT : Fld := ⟨.ast, 0x044, 0, 1, 0, 1, .ro, 0, some 0⟩
def AST.WI_LIMIT.REL_WEDGES : Fld := ⟨.ast, 0x048, 0, 1, 24, 8, .rw, 2, none⟩
def AST.WI_LIMIT.CONV_LIM : Fld := ⟨.ast, 0x048, 0, 1, 8, 8, .rw, 15, none⟩
def AST.WI_LIMIT.SHG_LIM : Fld := ⟨.ast, 0x048, 0, 1, 0, 8, .rw, 10, none⟩
def AST.WG_CTL.VFY_OFS_MAX : Fld := ⟨.ast, 0x04C, 0, 1, 8, 8, .rw, 4, none⟩
def AST.WG_CTL.WG_LEAD : Fld := ⟨.ast, 0x04C, 0, 1, 0, 8, .rw, 16, none⟩
def AST.VFY_CTL.VFY_ITER : Fld := ⟨.ast, 0x050, 0, 1, 24, 6, .rw, 8, none⟩
def AST.VFY_CTL.VFY_RAW : Fld := ⟨.ast, 0x050, 0, 1, 0, 16, .rw, 600, none⟩
def AST.PBUS_CFG.WRITE_ADDR : Fld := ⟨.ast, 0x054, 0, 1, 24, 8, .rw, 0, none⟩
def AST.PBUS_CFG.STBY_ADDR : Fld := ⟨.ast, 0x054, 0, 1, 16, 8, .rw, 0, none⟩
def AST.PBUS_CFG.STAT_ADDR : Fld := ⟨.ast, 0x054, 0, 1, 8, 8, .rw, 0, none⟩
def AST.PBUS_CFG.CLK_DIV : Fld := ⟨.ast, 0x054, 0, 1, 0, 4, .rw, 3, none⟩
def AST.PBUS_CMD.GO : Fld := ⟨.ast, 0x058, 0, 1, 31, 1, .w1s, 0, some 0⟩
def AST.PBUS_CMD.BUSY : Fld := ⟨.ast, 0x058, 0, 1, 30, 1, .ro, 0, some 0⟩
def AST.PBUS_CMD.READ : Fld := ⟨.ast, 0x058, 0, 1, 29, 1, .rw, 0, some 0⟩
def AST.PBUS_CMD.RESULT : Fld := ⟨.ast, 0x058, 0, 1, 28, 1, .ro, 0, some 0⟩
def AST.PBUS_CMD.HEAD : Fld := ⟨.ast, 0x058, 0, 1, 24, 3, .rw, 0, some 0⟩
def AST.PBUS_CMD.ADDR : Fld := ⟨.ast, 0x058, 0, 1, 16, 7, .rw, 0, some 0⟩
def AST.PBUS_CMD.DATA : Fld := ⟨.ast, 0x058, 0, 1, 0, 16, .rw, 0, some 0⟩
def AST.PFLT_MASK.WRITER_MASK : Fld := ⟨.ast, 0x05C, 0, 1, 16, 16, .rw, 0, none⟩
def AST.PFLT_MASK.ASSIST_MASK : Fld := ⟨.ast, 0x05C, 0, 1, 0, 16, .rw, 0, none⟩
def AST.PFLT_STAT.STATUS : Fld := ⟨.ast, 0x060, 0, 1, 16, 16, .ro, 0, some 0⟩
def AST.PFLT_STAT.HEAD : Fld := ⟨.ast, 0x060, 0, 1, 8, 3, .ro, 0, some 0⟩
def AST.PFLT_STAT.MISMATCH : Fld := ⟨.ast, 0x060, 0, 1, 1, 1, .ro, 0, some 0⟩
def AST.PFLT_STAT.LINE : Fld := ⟨.ast, 0x060, 0, 1, 0, 1, .ro, 0, some 0⟩
def AST.HEAD_FAULT.WRITE_FAULT : Fld := ⟨.ast, 0x064, 0, 1, 8, 8, .w1c, 0, none⟩
def AST.HEAD_FAULT.ASSIST_FAULT : Fld := ⟨.ast, 0x064, 0, 1, 0, 8, .w1c, 0, none⟩
def AST.HEAD_WIN.HEAD : Fld := ⟨.ast, 0x068, 0, 1, 8, 3, .rw, 0, some 0⟩
def AST.HEAD_WIN.WORD : Fld := ⟨.ast, 0x068, 0, 1, 0, 6, .rw, 0, some 0⟩
def AST.HEAD_DATA.DATA : Fld := ⟨.ast, 0x06C, 0, 1, 0, 32, .rw, 0, none⟩
def AST.TRIM_LO.TRIM : Fld := ⟨.ast, 0x070, 0, 1, 0, 32, .ro, 0, none⟩
def AST.TRIM_HI.TRIM : Fld := ⟨.ast, 0x074, 0, 1, 0, 32, .ro, 0, none⟩
def AST.TRIM_STEP.GO : Fld := ⟨.ast, 0x078, 0, 1, 31, 1, .w1s, 0, some 0⟩
def AST.TRIM_STEP.PENDING : Fld := ⟨.ast, 0x078, 0, 1, 30, 1, .ro, 0, some 0⟩
def AST.TRIM_STEP.LATE : Fld := ⟨.ast, 0x078, 0, 1, 29, 1, .ro, 0, some 0⟩
def AST.TRIM_STEP.HEAD : Fld := ⟨.ast, 0x078, 0, 1, 24, 3, .rw, 0, some 0⟩
def AST.TRIM_STEP.STEP : Fld := ⟨.ast, 0x078, 0, 1, 16, 8, .rw, 0, some 0⟩
def AST.TRIM_STEP.STROKE : Fld := ⟨.ast, 0x078, 0, 1, 0, 16, .rw, 0, some 0⟩
def AST.TRIM_CFG.TRIM_LIMIT : Fld := ⟨.ast, 0x07C, 0, 1, 0, 8, .rw, 40, none⟩
def AST.INH_CNT.PES_CNT : Fld := ⟨.ast, 0x080, 0, 1, 16, 16, .rc, 0, none⟩
def AST.INH_CNT.WINH_CNT : Fld := ⟨.ast, 0x080, 0, 1, 8, 8, .rc, 0, none⟩
def AST.INH_CNT.PFLT_CNT : Fld := ⟨.ast, 0x080, 0, 1, 0, 8, .rc, 0, none⟩
def AST.STEP_ERR.LATE_CNT : Fld := ⟨.ast, 0x084, 0, 1, 24, 8, .rc, 0, none⟩
def AST.STEP_ERR.NOFIT_CNT : Fld := ⟨.ast, 0x084, 0, 1, 16, 8, .rc, 0, none⟩
def AST.STEP_ERR.NOTREADY_CNT : Fld := ⟨.ast, 0x084, 0, 1, 8, 8, .rc, 0, none⟩
def AST.STEP_ERR.CLAMP_CNT : Fld := ⟨.ast, 0x084, 0, 1, 0, 8, .rc, 0, none⟩
def AST.VFY_CNT.VFY_OK : Fld := ⟨.ast, 0x0C0, 4, 8, 16, 16, .rc, 0, none⟩
def AST.VFY_CNT.VFY_FAIL : Fld := ⟨.ast, 0x0C0, 4, 8, 0, 16, .rc, 0, none⟩

/-- The fields of AST (R189). -/
def AST.fields : List Fld :=
  [AST.AST_CTL.FORCE_INH, AST.AST_CTL.MON_EN, AST.AST_CTL.IDLE_OFF, AST.AST_CTL.PREHEAT, AST.AST_STAT.ARMED, AST.AST_STAT.WRITING, AST.AST_STAT.INH_SRC, AST.AST_STAT.INHIBIT, AST.WI_LIMIT.REL_WEDGES, AST.WI_LIMIT.CONV_LIM, AST.WI_LIMIT.SHG_LIM, AST.WG_CTL.VFY_OFS_MAX] ++
  [AST.WG_CTL.WG_LEAD, AST.VFY_CTL.VFY_ITER, AST.VFY_CTL.VFY_RAW, AST.PBUS_CFG.WRITE_ADDR, AST.PBUS_CFG.STBY_ADDR, AST.PBUS_CFG.STAT_ADDR, AST.PBUS_CFG.CLK_DIV, AST.PBUS_CMD.GO, AST.PBUS_CMD.BUSY, AST.PBUS_CMD.READ, AST.PBUS_CMD.RESULT, AST.PBUS_CMD.HEAD] ++
  [AST.PBUS_CMD.ADDR, AST.PBUS_CMD.DATA, AST.PFLT_MASK.WRITER_MASK, AST.PFLT_MASK.ASSIST_MASK, AST.PFLT_STAT.STATUS, AST.PFLT_STAT.HEAD, AST.PFLT_STAT.MISMATCH, AST.PFLT_STAT.LINE, AST.HEAD_FAULT.WRITE_FAULT, AST.HEAD_FAULT.ASSIST_FAULT, AST.HEAD_WIN.HEAD, AST.HEAD_WIN.WORD] ++
  [AST.HEAD_DATA.DATA, AST.TRIM_LO.TRIM, AST.TRIM_HI.TRIM, AST.TRIM_STEP.GO, AST.TRIM_STEP.PENDING, AST.TRIM_STEP.LATE, AST.TRIM_STEP.HEAD, AST.TRIM_STEP.STEP, AST.TRIM_STEP.STROKE, AST.TRIM_CFG.TRIM_LIMIT, AST.INH_CNT.PES_CNT, AST.INH_CNT.WINH_CNT] ++
  [AST.INH_CNT.PFLT_CNT, AST.STEP_ERR.LATE_CNT, AST.STEP_ERR.NOFIT_CNT, AST.STEP_ERR.NOTREADY_CNT, AST.STEP_ERR.CLAMP_CNT, AST.VFY_CNT.VFY_OK, AST.VFY_CNT.VFY_FAIL]

/-! SRV: the table of R221. -/

def SRV.SRV_CTL.BANK : Fld := ⟨.srv, 0x040, 0, 1, 6, 1, .rw, 0, none⟩
def SRV.SRV_CTL.PAIR_EN : Fld := ⟨.srv, 0x040, 0, 1, 5, 1, .rw, 1, none⟩
def SRV.SRV_CTL.RV_FF_EN : Fld := ⟨.srv, 0x040, 0, 1, 4, 1, .rw, 1, none⟩
def SRV.SRV_CTL.RGT_FF_EN : Fld := ⟨.srv, 0x040, 0, 1, 3, 1, .rw, 1, none⟩
def SRV.SRV_CTL.XFF_EN : Fld := ⟨.srv, 0x040, 0, 1, 2, 1, .rw, 1, none⟩
def SRV.SRV_CTL.AUTO : Fld := ⟨.srv, 0x040, 0, 1, 1, 1, .rw, 1, some 1⟩
def SRV.SRV_STAT.LEAD : Fld := ⟨.srv, 0x044, 0, 1, 24, 5, .ro, 0, some 0⟩
def SRV.SRV_STAT.ACTIVE : Fld := ⟨.srv, 0x044, 0, 1, 16, 8, .ro, 0, some 0⟩
def SRV.SRV_STAT.STATE : Fld := ⟨.srv, 0x044, 0, 1, 8, 3, .ro, 0, some 0⟩
def SRV.SRV_STAT.PAIRED : Fld := ⟨.srv, 0x044, 0, 1, 1, 1, .ro, 0, some 0⟩
def SRV.SRV_STAT.PERMIT : Fld := ⟨.srv, 0x044, 0, 1, 0, 1, .ro, 0, some 0⟩
def SRV.WEDGE_MAP.STROKE_MOD : Fld := ⟨.srv, 0x048, 0, 1, 16, 9, .ro, 0, some 0⟩
def SRV.WEDGE_OFS.OFFSET : Fld := ⟨.srv, 0x04C, 4, 8, 0, 12, .rw, 0, none⟩
def SRV.DEMOD_CTL.TID_TOL : Fld := ⟨.srv, 0x06C, 0, 1, 16, 3, .rw, 2, none⟩
def SRV.DEMOD_CTL.MISS_LOST : Fld := ⟨.srv, 0x06C, 0, 1, 8, 8, .rw, 32, none⟩
def SRV.DEMOD_CTL.ACQ_WEDGES : Fld := ⟨.srv, 0x06C, 0, 1, 0, 8, .rw, 8, none⟩
def SRV.PAIR_CTL.SAT_WEDGES : Fld := ⟨.srv, 0x070, 0, 1, 8, 8, .rw, 8, none⟩
def SRV.PAIR_CTL.PAIR_RANGE : Fld := ⟨.srv, 0x070, 0, 1, 0, 8, .rw, 48, none⟩
def SRV.SETTLE_CTL.SETTLE_PES : Fld := ⟨.srv, 0x074, 0, 1, 8, 8, .rw, 5, none⟩
def SRV.SETTLE_CTL.SETTLE_WED : Fld := ⟨.srv, 0x074, 0, 1, 0, 8, .rw, 16, none⟩
def SRV.INT_CLAMP.CLAMP : Fld := ⟨.srv, 0x078, 0, 1, 0, 16, .rw, 4096, none⟩
def SRV.MAN_CMD.CURRENT : Fld := ⟨.srv, 0x07C, 0, 1, 0, 16, .rw, 0, some 0⟩
def SRV.SEEK_REQ.GO : Fld := ⟨.srv, 0x080, 0, 1, 31, 1, .w1s, 0, some 0⟩
def SRV.SEEK_REQ.PENDING : Fld := ⟨.srv, 0x080, 0, 1, 30, 1, .ro, 0, some 0⟩
def SRV.SEEK_REQ.LATE : Fld := ⟨.srv, 0x080, 0, 1, 29, 1, .ro, 0, some 0⟩
def SRV.SEEK_REQ.FULL : Fld := ⟨.srv, 0x080, 0, 1, 28, 1, .rw, 1, none⟩
def SRV.SEEK_REQ.HEAD : Fld := ⟨.srv, 0x080, 0, 1, 24, 3, .rw, 0, some 0⟩
def SRV.SEEK_REQ.STROKE : Fld := ⟨.srv, 0x080, 0, 1, 0, 16, .rw, 0, some 0⟩
def SRV.SEEK_TGT.POS : Fld := ⟨.srv, 0x084, 0, 1, 0, 32, .rw, 0, some 0⟩
def SRV.SEEK_STAT.RESULT : Fld := ⟨.srv, 0x088, 0, 1, 28, 4, .ro, 0, some 0⟩
def SRV.SEEK_STAT.STROKES : Fld := ⟨.srv, 0x088, 0, 1, 0, 16, .ro, 0, some 0⟩
def SRV.COEF_WIN.BANK : Fld := ⟨.srv, 0x08C, 0, 1, 10, 1, .rw, 0, some 0⟩
def SRV.COEF_WIN.HALF : Fld := ⟨.srv, 0x08C, 0, 1, 9, 1, .rw, 0, some 0⟩
def SRV.COEF_WIN.WORD : Fld := ⟨.srv, 0x08C, 0, 1, 0, 9, .rw, 0, some 0⟩
def SRV.COEF_DATA.DATA : Fld := ⟨.srv, 0x090, 0, 1, 0, 32, .rw, 0, some 0⟩
def SRV.COEF_COMMIT.GO : Fld := ⟨.srv, 0x094, 0, 1, 31, 1, .w1s, 0, some 0⟩
def SRV.COEF_COMMIT.PENDING : Fld := ⟨.srv, 0x094, 0, 1, 30, 1, .ro, 0, some 0⟩
def SRV.COEF_COMMIT.LATE : Fld := ⟨.srv, 0x094, 0, 1, 29, 1, .ro, 0, some 0⟩
def SRV.COEF_COMMIT.STROKE : Fld := ⟨.srv, 0x094, 0, 1, 0, 16, .rw, 0, some 0⟩
def SRV.NOTCH_CTL.F_TOL : Fld := ⟨.srv, 0x098, 0, 1, 8, 8, .rw, 2, none⟩
def SRV.NOTCH_CTL.ADAPT : Fld := ⟨.srv, 0x098, 0, 1, 0, 4, .rw, 0, none⟩
def SRV.NOTCH_STAT.CENTRE : Fld := ⟨.srv, 0x09C, 0, 1, 0, 32, .ro, 0, none⟩
def SRV.INJ_CTL.GO : Fld := ⟨.srv, 0x0A0, 0, 1, 31, 1, .w1s, 0, some 0⟩
def SRV.INJ_CTL.ACTIVE : Fld := ⟨.srv, 0x0A0, 0, 1, 30, 1, .ro, 0, some 0⟩
def SRV.INJ_CTL.LATE : Fld := ⟨.srv, 0x0A0, 0, 1, 29, 1, .ro, 0, some 0⟩
def SRV.INJ_CTL.STOP : Fld := ⟨.srv, 0x0A0, 0, 1, 28, 1, .w1s, 0, some 0⟩
def SRV.INJ_CTL.POINT : Fld := ⟨.srv, 0x0A0, 0, 1, 26, 2, .rw, 0, some 0⟩
def SRV.INJ_CTL.WAVE : Fld := ⟨.srv, 0x0A0, 0, 1, 24, 2, .rw, 0, some 0⟩
def SRV.INJ_CTL.HEAD : Fld := ⟨.srv, 0x0A0, 0, 1, 16, 3, .rw, 0, some 0⟩
def SRV.INJ_CTL.STROKE : Fld := ⟨.srv, 0x0A0, 0, 1, 0, 16, .rw, 0, some 0⟩
def SRV.INJ_AMP.AMP : Fld := ⟨.srv, 0x0A4, 0, 1, 0, 16, .rw, 0, some 0⟩
def SRV.INJ_FREQ.INC_END : Fld := ⟨.srv, 0x0A8, 0, 1, 16, 16, .rw, 0, some 0⟩
def SRV.INJ_FREQ.INC_START : Fld := ⟨.srv, 0x0A8, 0, 1, 0, 16, .rw, 0, some 0⟩
def SRV.INJ_LEN.SAMPLES : Fld := ⟨.srv, 0x0AC, 0, 1, 0, 24, .rw, 0, some 0⟩
def SRV.CAP_CTL.GO : Fld := ⟨.srv, 0x0B0, 0, 1, 31, 1, .w1s, 0, some 0⟩
def SRV.CAP_CTL.BUSY : Fld := ⟨.srv, 0x0B0, 0, 1, 30, 1, .ro, 0, some 0⟩
def SRV.CAP_CTL.LATE : Fld := ⟨.srv, 0x0B0, 0, 1, 29, 1, .ro, 0, some 0⟩
def SRV.CAP_CTL.STOP : Fld := ⟨.srv, 0x0B0, 0, 1, 28, 1, .w1s, 0, some 0⟩
def SRV.CAP_CTL.DECIM : Fld := ⟨.srv, 0x0B0, 0, 1, 24, 4, .rw, 0, some 0⟩
def SRV.CAP_CTL.SEL : Fld := ⟨.srv, 0x0B0, 0, 1, 20, 2, .rw, 0, some 0⟩
def SRV.CAP_CTL.STROKE : Fld := ⟨.srv, 0x0B0, 0, 1, 0, 16, .rw, 0, some 0⟩
def SRV.CAP_STAT.COUNT : Fld := ⟨.srv, 0x0B4, 0, 1, 0, 15, .ro, 0, some 0⟩
def SRV.CAP_WIN.WORD : Fld := ⟨.srv, 0x0B8, 0, 1, 0, 15, .rw, 0, some 0⟩
def SRV.CAP_DATA.DATA : Fld := ⟨.srv, 0x0BC, 0, 1, 0, 32, .ro, 0, some 0⟩
def SRV.POS.POS : Fld := ⟨.srv, 0x0C0, 4, 8, 0, 32, .ro, 0, some 0⟩
def SRV.PES.VALID : Fld := ⟨.srv, 0x0E0, 4, 8, 31, 1, .ro, 0, some 0⟩
def SRV.PES.EST : Fld := ⟨.srv, 0x0E0, 4, 8, 30, 1, .ro, 0, some 0⟩
def SRV.PES.WEDGE : Fld := ⟨.srv, 0x0E0, 4, 8, 16, 9, .ro, 0, some 0⟩
def SRV.PES.PES : Fld := ⟨.srv, 0x0E0, 4, 8, 0, 16, .ro, 0, some 0⟩
def SRV.DEMOD_ERR.TID_ERR : Fld := ⟨.srv, 0x100, 0, 1, 16, 16, .rc, 0, none⟩
def SRV.DEMOD_ERR.SAM_MISS : Fld := ⟨.srv, 0x100, 0, 1, 0, 16, .rc, 0, none⟩
def SRV.LOOP_ERR.SAT_CNT : Fld := ⟨.srv, 0x104, 0, 1, 16, 16, .rc, 0, none⟩
def SRV.LOOP_ERR.FF_DROP : Fld := ⟨.srv, 0x104, 0, 1, 8, 8, .rc, 0, none⟩
def SRV.LOOP_ERR.OVERRUN : Fld := ⟨.srv, 0x104, 0, 1, 0, 8, .rc, 0, none⟩

/-- The fields of SRV (R221). -/
def SRV.fields : List Fld :=
  [SRV.SRV_CTL.BANK, SRV.SRV_CTL.PAIR_EN, SRV.SRV_CTL.RV_FF_EN, SRV.SRV_CTL.RGT_FF_EN, SRV.SRV_CTL.XFF_EN, SRV.SRV_CTL.AUTO, SRV.SRV_STAT.LEAD, SRV.SRV_STAT.ACTIVE, SRV.SRV_STAT.STATE, SRV.SRV_STAT.PAIRED, SRV.SRV_STAT.PERMIT, SRV.WEDGE_MAP.STROKE_MOD] ++
  [SRV.WEDGE_OFS.OFFSET, SRV.DEMOD_CTL.TID_TOL, SRV.DEMOD_CTL.MISS_LOST, SRV.DEMOD_CTL.ACQ_WEDGES, SRV.PAIR_CTL.SAT_WEDGES, SRV.PAIR_CTL.PAIR_RANGE, SRV.SETTLE_CTL.SETTLE_PES, SRV.SETTLE_CTL.SETTLE_WED, SRV.INT_CLAMP.CLAMP, SRV.MAN_CMD.CURRENT, SRV.SEEK_REQ.GO, SRV.SEEK_REQ.PENDING] ++
  [SRV.SEEK_REQ.LATE, SRV.SEEK_REQ.FULL, SRV.SEEK_REQ.HEAD, SRV.SEEK_REQ.STROKE, SRV.SEEK_TGT.POS, SRV.SEEK_STAT.RESULT, SRV.SEEK_STAT.STROKES, SRV.COEF_WIN.BANK, SRV.COEF_WIN.HALF, SRV.COEF_WIN.WORD, SRV.COEF_DATA.DATA, SRV.COEF_COMMIT.GO] ++
  [SRV.COEF_COMMIT.PENDING, SRV.COEF_COMMIT.LATE, SRV.COEF_COMMIT.STROKE, SRV.NOTCH_CTL.F_TOL, SRV.NOTCH_CTL.ADAPT, SRV.NOTCH_STAT.CENTRE, SRV.INJ_CTL.GO, SRV.INJ_CTL.ACTIVE, SRV.INJ_CTL.LATE, SRV.INJ_CTL.STOP, SRV.INJ_CTL.POINT, SRV.INJ_CTL.WAVE] ++
  [SRV.INJ_CTL.HEAD, SRV.INJ_CTL.STROKE, SRV.INJ_AMP.AMP, SRV.INJ_FREQ.INC_END, SRV.INJ_FREQ.INC_START, SRV.INJ_LEN.SAMPLES, SRV.CAP_CTL.GO, SRV.CAP_CTL.BUSY, SRV.CAP_CTL.LATE, SRV.CAP_CTL.STOP, SRV.CAP_CTL.DECIM, SRV.CAP_CTL.SEL] ++
  [SRV.CAP_CTL.STROKE, SRV.CAP_STAT.COUNT, SRV.CAP_WIN.WORD, SRV.CAP_DATA.DATA, SRV.POS.POS, SRV.PES.VALID, SRV.PES.EST, SRV.PES.WEDGE, SRV.PES.PES, SRV.DEMOD_ERR.TID_ERR, SRV.DEMOD_ERR.SAM_MISS, SRV.LOOP_ERR.SAT_CNT] ++
  [SRV.LOOP_ERR.FF_DROP, SRV.LOOP_ERR.OVERRUN]

/-! VCM: the table of R230. -/

def VCM.VCM_CTL.RETRACT : Fld := ⟨.vcm, 0x040, 0, 1, 4, 1, .w1s, 0, some 0⟩
def VCM.VCM_CTL.DRV_EN : Fld := ⟨.vcm, 0x040, 0, 1, 0, 1, .rw, 0, none⟩
def VCM.VCM_STAT.CLAMPED : Fld := ⟨.vcm, 0x044, 0, 1, 9, 1, .ro, 0, some 0⟩
def VCM.VCM_STAT.FULL : Fld := ⟨.vcm, 0x044, 0, 1, 8, 1, .ro, 0, some 0⟩
def VCM.VCM_STAT.STATE : Fld := ⟨.vcm, 0x044, 0, 1, 0, 3, .ro, 0, none⟩
def VCM.ILIM.FULL : Fld := ⟨.vcm, 0x048, 0, 1, 16, 16, .rw, 32767, none⟩
def VCM.ILIM.REDUCED : Fld := ⟨.vcm, 0x048, 0, 1, 0, 16, .rw, 10922, none⟩
def VCM.APPLY.APPLY_OFS : Fld := ⟨.vcm, 0x04C, 0, 1, 16, 12, .rw, 512, none⟩
def VCM.APPLY.HOLD_LIMIT : Fld := ⟨.vcm, 0x04C, 0, 1, 0, 8, .rw, 8, none⟩
def VCM.CMD_LAST.CMD : Fld := ⟨.vcm, 0x050, 0, 1, 0, 16, .ro, 0, none⟩
def VCM.ISENSE.I : Fld := ⟨.vcm, 0x054, 0, 1, 0, 16, .ro, 0, some 0⟩
def VCM.BEMF.V : Fld := ⟨.vcm, 0x058, 0, 1, 0, 16, .ro, 0, some 0⟩
def VCM.RCOIL.R : Fld := ⟨.vcm, 0x05C, 0, 1, 0, 16, .rw, 14336, none⟩
def VCM.RET_CFG.RET_TIME : Fld := ⟨.vcm, 0x060, 0, 1, 16, 16, .rw, 200, none⟩
def VCM.RET_CFG.RET_VEL : Fld := ⟨.vcm, 0x060, 0, 1, 0, 16, .rw, 512, none⟩
def VCM.LOAD_CFG.LOAD_TIME : Fld := ⟨.vcm, 0x064, 0, 1, 16, 16, .rw, 300, none⟩
def VCM.LOAD_CFG.LOAD_VEL : Fld := ⟨.vcm, 0x064, 0, 1, 0, 16, .rw, 384, none⟩
def VCM.VCM_FAULT.RET_TIMEOUT : Fld := ⟨.vcm, 0x068, 0, 1, 5, 1, .w1c, 0, none⟩
def VCM.VCM_FAULT.OVERTEMP : Fld := ⟨.vcm, 0x068, 0, 1, 4, 1, .w1c, 0, none⟩
def VCM.VCM_FAULT.SHORT_COIL : Fld := ⟨.vcm, 0x068, 0, 1, 3, 1, .w1c, 0, none⟩
def VCM.VCM_FAULT.SHORT_SUP : Fld := ⟨.vcm, 0x068, 0, 1, 2, 1, .w1c, 0, none⟩
def VCM.VCM_FAULT.SHORT_GND : Fld := ⟨.vcm, 0x068, 0, 1, 1, 1, .w1c, 0, none⟩
def VCM.VCM_FAULT.OPEN : Fld := ⟨.vcm, 0x068, 0, 1, 0, 1, .w1c, 0, none⟩
def VCM.VCM_CNT.RETRACT_CNT : Fld := ⟨.vcm, 0x06C, 0, 1, 8, 8, .rc, 0, none⟩
def VCM.VCM_CNT.HOLD_CNT : Fld := ⟨.vcm, 0x06C, 0, 1, 0, 8, .rc, 0, none⟩

/-- The fields of VCM (R230). -/
def VCM.fields : List Fld :=
  [VCM.VCM_CTL.RETRACT, VCM.VCM_CTL.DRV_EN, VCM.VCM_STAT.CLAMPED, VCM.VCM_STAT.FULL, VCM.VCM_STAT.STATE, VCM.ILIM.FULL, VCM.ILIM.REDUCED, VCM.APPLY.APPLY_OFS, VCM.APPLY.HOLD_LIMIT, VCM.CMD_LAST.CMD, VCM.ISENSE.I, VCM.BEMF.V] ++
  [VCM.RCOIL.R, VCM.RET_CFG.RET_TIME, VCM.RET_CFG.RET_VEL, VCM.LOAD_CFG.LOAD_TIME, VCM.LOAD_CFG.LOAD_VEL, VCM.VCM_FAULT.RET_TIMEOUT, VCM.VCM_FAULT.OVERTEMP, VCM.VCM_FAULT.SHORT_COIL, VCM.VCM_FAULT.SHORT_SUP, VCM.VCM_FAULT.SHORT_GND, VCM.VCM_FAULT.OPEN, VCM.VCM_CNT.RETRACT_CNT] ++
  [VCM.VCM_CNT.HOLD_CNT]

/-! MAC: the table of R237. -/

def MAC.MAC_CTL.HARD_RET : Fld := ⟨.mac, 0x040, 0, 1, 2, 1, .rw, 1, none⟩
def MAC.MAC_CTL.SHOCK_EN : Fld := ⟨.mac, 0x040, 0, 1, 1, 1, .rw, 1, none⟩
def MAC.MAC_CTL.HV_EN : Fld := ⟨.mac, 0x040, 0, 1, 0, 1, .rw, 0, none⟩
def MAC.MAC_STAT.TRIG : Fld := ⟨.mac, 0x044, 0, 1, 4, 3, .ro, 0, some 0⟩
def MAC.MAC_STAT.SUSPECT : Fld := ⟨.mac, 0x044, 0, 1, 1, 3, .ro, 0, some 0⟩
def MAC.MAC_STAT.HV_OK : Fld := ⟨.mac, 0x044, 0, 1, 0, 1, .ro, 0, some 0⟩
def MAC.MAC_EN.EN : Fld := ⟨.mac, 0x048, 0, 1, 0, 32, .rw, 0, none⟩
def MAC.MAC_FAULT.FAULT : Fld := ⟨.mac, 0x04C, 0, 1, 0, 32, .w1c, 0, none⟩
def MAC.SHOCK_THR.ROT_THR : Fld := ⟨.mac, 0x050, 0, 1, 16, 12, .rw, 120, none⟩
def MAC.SHOCK_THR.LIN_THR : Fld := ⟨.mac, 0x050, 0, 1, 0, 12, .rw, 80, none⟩
def MAC.SHOCK_HARD.SHOCK_HOLD : Fld := ⟨.mac, 0x054, 0, 1, 16, 8, .rw, 64, none⟩
def MAC.SHOCK_HARD.HARD_THR : Fld := ⟨.mac, 0x054, 0, 1, 0, 12, .rw, 1200, none⟩
def MAC.SHOCK_LX.VALUE : Fld := ⟨.mac, 0x058, 0, 1, 0, 12, .ro, 0, some 0⟩
def MAC.SHOCK_LY.VALUE : Fld := ⟨.mac, 0x05C, 0, 1, 0, 12, .ro, 0, some 0⟩
def MAC.SHOCK_ROT.VALUE : Fld := ⟨.mac, 0x060, 0, 1, 0, 12, .ro, 0, some 0⟩
def MAC.SHOCK_LAST.STROKE : Fld := ⟨.mac, 0x064, 0, 1, 0, 32, .ro, 0, none⟩
def MAC.SHOCK_CNT.LIN_CNT : Fld := ⟨.mac, 0x068, 0, 1, 16, 16, .rc, 0, none⟩
def MAC.SHOCK_CNT.ROT_CNT : Fld := ⟨.mac, 0x068, 0, 1, 8, 8, .rc, 0, none⟩
def MAC.SHOCK_CNT.HARD_CNT : Fld := ⟨.mac, 0x068, 0, 1, 0, 8, .rc, 0, none⟩
def MAC.MAC_WIN.HEAD : Fld := ⟨.mac, 0x06C, 0, 1, 0, 5, .rw, 0, some 0⟩
def MAC.MAC_OUT.VOLT : Fld := ⟨.mac, 0x070, 0, 1, 16, 12, .ro, 0, some 0⟩
def MAC.MAC_OUT.CMD : Fld := ⟨.mac, 0x070, 0, 1, 0, 12, .ro, 0, some 0⟩

/-- The fields of MAC (R237). -/
def MAC.fields : List Fld :=
  [MAC.MAC_CTL.HARD_RET, MAC.MAC_CTL.SHOCK_EN, MAC.MAC_CTL.HV_EN, MAC.MAC_STAT.TRIG, MAC.MAC_STAT.SUSPECT, MAC.MAC_STAT.HV_OK, MAC.MAC_EN.EN, MAC.MAC_FAULT.FAULT, MAC.SHOCK_THR.ROT_THR, MAC.SHOCK_THR.LIN_THR, MAC.SHOCK_HARD.SHOCK_HOLD, MAC.SHOCK_HARD.HARD_THR] ++
  [MAC.SHOCK_LX.VALUE, MAC.SHOCK_LY.VALUE, MAC.SHOCK_ROT.VALUE, MAC.SHOCK_LAST.STROKE, MAC.SHOCK_CNT.LIN_CNT, MAC.SHOCK_CNT.ROT_CNT, MAC.SHOCK_CNT.HARD_CNT, MAC.MAC_WIN.HEAD, MAC.MAC_OUT.VOLT, MAC.MAC_OUT.CMD]

/-! SEQ: the table of R264. -/

def SEQ.SEQ_CTL.OOS : Fld := ⟨.seq, 0x040, 0, 1, 0, 2, .rw, 0, none⟩
def SEQ.SEQ_STAT.AUTH : Fld := ⟨.seq, 0x044, 0, 1, 0, 6, .ro, 0, none⟩
def SEQ.LOAD_ADDR.ADDR : Fld := ⟨.seq, 0x048, 0, 1, 0, 32, .rw, 0, some 0⟩
def SEQ.LOAD_CTL.GO : Fld := ⟨.seq, 0x04C, 0, 1, 31, 1, .w1s, 0, some 0⟩
def SEQ.LOAD_CTL.BUSY : Fld := ⟨.seq, 0x04C, 0, 1, 30, 1, .ro, 0, some 0⟩
def SEQ.LOAD_CTL.RESULT : Fld := ⟨.seq, 0x04C, 0, 1, 28, 2, .ro, 0, some 0⟩
def SEQ.LOAD_CTL.Q : Fld := ⟨.seq, 0x04C, 0, 1, 24, 3, .rw, 0, some 0⟩
def SEQ.LOAD_CTL.FIRST : Fld := ⟨.seq, 0x04C, 0, 1, 12, 12, .rw, 0, some 0⟩
def SEQ.LOAD_CTL.COUNT : Fld := ⟨.seq, 0x04C, 0, 1, 0, 12, .rw, 0, some 0⟩
def SEQ.CS_WIN.Q : Fld := ⟨.seq, 0x050, 0, 1, 20, 3, .rw, 0, some 0⟩
def SEQ.CS_WIN.WORD : Fld := ⟨.seq, 0x050, 0, 1, 2, 12, .rw, 0, some 0⟩
def SEQ.CS_WIN.PART : Fld := ⟨.seq, 0x050, 0, 1, 0, 2, .rw, 0, some 0⟩
def SEQ.CS_DATA.DATA : Fld := ⟨.seq, 0x054, 0, 1, 0, 32, .rw, 0, some 0⟩
def SEQ.DIG_CTL.GO : Fld := ⟨.seq, 0x058, 0, 1, 31, 1, .w1s, 0, some 0⟩
def SEQ.DIG_CTL.BUSY : Fld := ⟨.seq, 0x058, 0, 1, 30, 1, .ro, 0, some 0⟩
def SEQ.DIG_CTL.Q : Fld := ⟨.seq, 0x058, 0, 1, 24, 3, .rw, 0, some 0⟩
def SEQ.ECC_CNT.CORR : Fld := ⟨.seq, 0x05C, 0, 1, 16, 16, .rc, 0, none⟩
def SEQ.ECC_CNT.UNCORR : Fld := ⟨.seq, 0x05C, 0, 1, 0, 8, .rc, 0, none⟩
def SEQ.DIGEST.DIGEST : Fld := ⟨.seq, 0x060, 4, 8, 0, 32, .ro, 0, none⟩
def SEQ.EXPECT.EXPECT : Fld := ⟨.seq, 0x080, 4, 8, 0, 32, .kp, 0, none⟩
def SEQ.SQ_CTL.HOLD_REL : Fld := ⟨.seq, 0x100, 32, 6, 2, 1, .w1s, 0, some 0⟩
def SEQ.SQ_CTL.EASY : Fld := ⟨.seq, 0x100, 32, 6, 1, 1, .rw, 0, some 0⟩
def SEQ.SQ_CTL.ENABLE : Fld := ⟨.seq, 0x100, 32, 6, 0, 1, .rw, 0, some 0⟩
def SEQ.SQ_STAT.PC : Fld := ⟨.seq, 0x104, 32, 6, 20, 12, .ro, 0, none⟩
def SEQ.SQ_STAT.STATE : Fld := ⟨.seq, 0x104, 32, 6, 16, 3, .ro, 0, some 1⟩
def SEQ.SQ_STAT.DEPTH : Fld := ⟨.seq, 0x104, 32, 6, 12, 3, .ro, 0, some 0⟩
def SEQ.SQ_STAT.FAULT : Fld := ⟨.seq, 0x104, 32, 6, 4, 4, .ro, 0, none⟩
def SEQ.SQ_VER.MAJOR : Fld := ⟨.seq, 0x108, 32, 6, 24, 8, .kp, 0, none⟩
def SEQ.SQ_VER.MINOR : Fld := ⟨.seq, 0x108, 32, 6, 16, 8, .kp, 0, none⟩
def SEQ.SQ_VER.BUILD : Fld := ⟨.seq, 0x108, 32, 6, 0, 16, .kp, 0, none⟩
def SEQ.SQ_SVN.SVN : Fld := ⟨.seq, 0x10C, 32, 6, 0, 8, .kp, 0, none⟩
def SEQ.SQ_BUDGET.BUSY_MAX : Fld := ⟨.seq, 0x110, 32, 6, 16, 16, .rc, 0, some 0⟩
def SEQ.SQ_BUDGET.BUDGET : Fld := ⟨.seq, 0x110, 32, 6, 0, 16, .rw, 8000, none⟩
def SEQ.SQ_ERR.SAFE_LIMIT : Fld := ⟨.seq, 0x114, 32, 6, 24, 8, .rw, 4, none⟩
def SEQ.SQ_ERR.LATE_CNT : Fld := ⟨.seq, 0x114, 32, 6, 8, 8, .rc, 0, none⟩
def SEQ.SQ_ERR.OVERRUN_CNT : Fld := ⟨.seq, 0x114, 32, 6, 0, 8, .rc, 0, none⟩
def SEQ.SQ_FLAGS.F : Fld := ⟨.seq, 0x118, 32, 6, 0, 16, .rw, 0, none⟩
def SEQ.SQ_ENTRY.ADDR : Fld := ⟨.seq, 0x11C, 32, 6, 0, 12, .rw, 0, none⟩
def SEQ.LQ_BASE.ADDR : Fld := ⟨.seq, 0x200, 16, 4, 0, 32, .rw, 0, none⟩
def SEQ.LQ_CMD.OP : Fld := ⟨.seq, 0x204, 16, 4, 30, 2, .wo, 0, some 0⟩
def SEQ.LQ_CMD.TAG : Fld := ⟨.seq, 0x204, 16, 4, 0, 5, .wo, 0, some 0⟩
def SEQ.LQ_BUSY.BUSY : Fld := ⟨.seq, 0x208, 16, 4, 0, 32, .ro, 0, some 0⟩
def SEQ.LQ_ERR.BAD_CMD : Fld := ⟨.seq, 0x20C, 16, 4, 0, 8, .rc, 0, some 0⟩

/-- The fields of SEQ (R264). -/
def SEQ.fields : List Fld :=
  [SEQ.SEQ_CTL.OOS, SEQ.SEQ_STAT.AUTH, SEQ.LOAD_ADDR.ADDR, SEQ.LOAD_CTL.GO, SEQ.LOAD_CTL.BUSY, SEQ.LOAD_CTL.RESULT, SEQ.LOAD_CTL.Q, SEQ.LOAD_CTL.FIRST, SEQ.LOAD_CTL.COUNT, SEQ.CS_WIN.Q, SEQ.CS_WIN.WORD, SEQ.CS_WIN.PART] ++
  [SEQ.CS_DATA.DATA, SEQ.DIG_CTL.GO, SEQ.DIG_CTL.BUSY, SEQ.DIG_CTL.Q, SEQ.ECC_CNT.CORR, SEQ.ECC_CNT.UNCORR, SEQ.DIGEST.DIGEST, SEQ.EXPECT.EXPECT, SEQ.SQ_CTL.HOLD_REL, SEQ.SQ_CTL.EASY, SEQ.SQ_CTL.ENABLE, SEQ.SQ_STAT.PC] ++
  [SEQ.SQ_STAT.STATE, SEQ.SQ_STAT.DEPTH, SEQ.SQ_STAT.FAULT, SEQ.SQ_VER.MAJOR, SEQ.SQ_VER.MINOR, SEQ.SQ_VER.BUILD, SEQ.SQ_SVN.SVN, SEQ.SQ_BUDGET.BUSY_MAX, SEQ.SQ_BUDGET.BUDGET, SEQ.SQ_ERR.SAFE_LIMIT, SEQ.SQ_ERR.LATE_CNT, SEQ.SQ_ERR.OVERRUN_CNT] ++
  [SEQ.SQ_FLAGS.F, SEQ.SQ_ENTRY.ADDR, SEQ.LQ_BASE.ADDR, SEQ.LQ_CMD.OP, SEQ.LQ_CMD.TAG, SEQ.LQ_BUSY.BUSY, SEQ.LQ_ERR.BAD_CMD]

/-! WEV: the table of R296. -/

def WEV.WEV_CTL.SCH_PORT_EN : Fld := ⟨.wev, 0x040, 0, 1, 8, 1, .rw, 1, none⟩
def WEV.WEV_CTL.RING_EN : Fld := ⟨.wev, 0x040, 0, 1, 0, 4, .rw, 0, none⟩
def WEV.WEV_STAT.SRC : Fld := ⟨.wev, 0x044, 0, 1, 28, 4, .ro, 15, some 15⟩
def WEV.WEV_STAT.OP : Fld := ⟨.wev, 0x044, 0, 1, 24, 4, .ro, 0, some 0⟩
def WEV.WEV_STAT.ZONE : Fld := ⟨.wev, 0x044, 0, 1, 0, 19, .ro, 0, some 0⟩
def WEV.RING.WEIGHT : Fld := ⟨.wev, 0x048, 4, 4, 8, 4, .rw, 1, none⟩
def WEV.RING.RING : Fld := ⟨.wev, 0x048, 4, 4, 0, 8, .rw, 0, none⟩
def WEV.BW_LIMIT.LIMIT : Fld := ⟨.wev, 0x058, 0, 1, 0, 16, .rw, 0, none⟩
def WEV.CODE_WIN.PROFILE : Fld := ⟨.wev, 0x05C, 0, 1, 12, 1, .rw, 0, some 0⟩
def WEV.CODE_WIN.ROW : Fld := ⟨.wev, 0x05C, 0, 1, 8, 2, .rw, 0, some 0⟩
def WEV.CODE_WIN.COL : Fld := ⟨.wev, 0x05C, 0, 1, 0, 4, .rw, 0, some 0⟩
def WEV.CODE_DATA.C : Fld := ⟨.wev, 0x060, 0, 1, 0, 8, .ro, 216, some 216⟩
def WEV.ERASE_INJ.ARM : Fld := ⟨.wev, 0x064, 0, 1, 31, 1, .w1s, 0, some 0⟩
def WEV.ERASE_INJ.STRANDS : Fld := ⟨.wev, 0x064, 0, 1, 0, 12, .rw, 0, some 0⟩
def WEV.DESC_CNT.COUNT : Fld := ⟨.wev, 0x068, 0, 1, 0, 32, .rc, 0, none⟩
def WEV.RECON_CNT.COUNT : Fld := ⟨.wev, 0x06C, 0, 1, 0, 32, .rc, 0, none⟩
def WEV.ERR_CNT.UNRECOV : Fld := ⟨.wev, 0x070, 0, 1, 24, 8, .rc, 0, none⟩
def WEV.ERR_CNT.POISON_SRC : Fld := ⟨.wev, 0x070, 0, 1, 16, 8, .rc, 0, none⟩
def WEV.ERR_CNT.BAD_DESC : Fld := ⟨.wev, 0x070, 0, 1, 8, 8, .rc, 0, none⟩
def WEV.ERR_CNT.REFUSED : Fld := ⟨.wev, 0x070, 0, 1, 0, 8, .rc, 0, none⟩
def WEV.LAST_ERR.STATUS : Fld := ⟨.wev, 0x074, 0, 1, 28, 4, .ro, 0, none⟩
def WEV.LAST_ERR.ZONE : Fld := ⟨.wev, 0x074, 0, 1, 0, 19, .ro, 0, none⟩
def WEV.LAST_ROW.POISONED : Fld := ⟨.wev, 0x078, 0, 1, 16, 12, .ro, 0, none⟩
def WEV.LAST_ROW.ROW : Fld := ⟨.wev, 0x078, 0, 1, 0, 12, .ro, 0, none⟩
def WEV.PARITY.PARITY_CNT : Fld := ⟨.wev, 0x07C, 0, 1, 0, 8, .rc, 0, none⟩

/-- The fields of WEV (R296). -/
def WEV.fields : List Fld :=
  [WEV.WEV_CTL.SCH_PORT_EN, WEV.WEV_CTL.RING_EN, WEV.WEV_STAT.SRC, WEV.WEV_STAT.OP, WEV.WEV_STAT.ZONE, WEV.RING.WEIGHT, WEV.RING.RING, WEV.BW_LIMIT.LIMIT, WEV.CODE_WIN.PROFILE, WEV.CODE_WIN.ROW, WEV.CODE_WIN.COL, WEV.CODE_DATA.C] ++
  [WEV.ERASE_INJ.ARM, WEV.ERASE_INJ.STRANDS, WEV.DESC_CNT.COUNT, WEV.RECON_CNT.COUNT, WEV.ERR_CNT.UNRECOV, WEV.ERR_CNT.POISON_SRC, WEV.ERR_CNT.BAD_DESC, WEV.ERR_CNT.REFUSED, WEV.LAST_ERR.STATUS, WEV.LAST_ERR.ZONE, WEV.LAST_ROW.POISONED, WEV.LAST_ROW.ROW] ++
  [WEV.PARITY.PARITY_CNT]

/-! HQ: the table of R331. -/

def HQ.HQ_CTL.FETCH_EN : Fld := ⟨.hq, 0x040, 0, 1, 31, 1, .rw, 1, none⟩
def HQ.HQ_CTL.SLOT_MIN : Fld := ⟨.hq, 0x040, 0, 1, 0, 13, .rw, 512, none⟩
def HQ.HQ_STAT.CFS : Fld := ⟨.hq, 0x044, 0, 1, 20, 1, .ro, 0, some 0⟩
def HQ.HQ_STAT.SHST : Fld := ⟨.hq, 0x044, 0, 1, 18, 2, .ro, 0, some 0⟩
def HQ.HQ_STAT.RDY : Fld := ⟨.hq, 0x044, 0, 1, 17, 1, .ro, 0, some 0⟩
def HQ.HQ_STAT.CC_EN : Fld := ⟨.hq, 0x044, 0, 1, 16, 1, .ro, 0, some 0⟩
def HQ.HQ_STAT.SLOTS : Fld := ⟨.hq, 0x044, 0, 1, 0, 13, .ro, 0, some 0⟩
def HQ.CTRL_WEIGHT.WEIGHT : Fld := ⟨.hq, 0x048, 0, 1, 0, 8, .rw, 1, none⟩
def HQ.IN_RING.RING : Fld := ⟨.hq, 0x04C, 0, 1, 0, 8, .rw, 0, none⟩
def HQ.OUT_RING.RING : Fld := ⟨.hq, 0x050, 0, 1, 0, 8, .rw, 0, none⟩
def HQ.Q_COUNT.CQS : Fld := ⟨.hq, 0x054, 0, 1, 16, 11, .ro, 0, some 0⟩
def HQ.Q_COUNT.SQS : Fld := ⟨.hq, 0x054, 0, 1, 0, 11, .ro, 0, some 0⟩
def HQ.ARB.HPW : Fld := ⟨.hq, 0x058, 0, 1, 24, 8, .ro, 0, some 0⟩
def HQ.ARB.MPW : Fld := ⟨.hq, 0x058, 0, 1, 16, 8, .ro, 0, some 0⟩
def HQ.ARB.LPW : Fld := ⟨.hq, 0x058, 0, 1, 8, 8, .ro, 0, some 0⟩
def HQ.ARB.AMS : Fld := ⟨.hq, 0x058, 0, 1, 3, 2, .ro, 0, some 0⟩
def HQ.ARB.AB : Fld := ⟨.hq, 0x058, 0, 1, 0, 3, .ro, 0, some 0⟩
def HQ.ABORT_STAT.OUTSTANDING : Fld := ⟨.hq, 0x05C, 0, 1, 0, 5, .ro, 0, some 0⟩
def HQ.SLOT_WIN.SLOT : Fld := ⟨.hq, 0x060, 0, 1, 0, 12, .rw, 0, some 0⟩
def HQ.SLOT_DATA.STATE : Fld := ⟨.hq, 0x064, 0, 1, 29, 3, .ro, 0, some 0⟩
def HQ.SLOT_DATA.MEDIA : Fld := ⟨.hq, 0x064, 0, 1, 28, 1, .ro, 0, some 0⟩
def HQ.SLOT_DATA.CTRL : Fld := ⟨.hq, 0x064, 0, 1, 27, 1, .ro, 0, some 0⟩
def HQ.SLOT_DATA.SQID : Fld := ⟨.hq, 0x064, 0, 1, 16, 11, .ro, 0, some 0⟩
def HQ.SLOT_DATA.CID : Fld := ⟨.hq, 0x064, 0, 1, 0, 16, .ro, 0, some 0⟩
def HQ.DB_ERR.INVALID_REG : Fld := ⟨.hq, 0x068, 0, 1, 16, 16, .rc, 0, some 0⟩
def HQ.DB_ERR.INVALID_VAL : Fld := ⟨.hq, 0x068, 0, 1, 0, 16, .rc, 0, some 0⟩
def HQ.CMD_CNT.FETCHED : Fld := ⟨.hq, 0x06C, 0, 1, 0, 32, .rc, 0, none⟩
def HQ.ABORT_CNT.ABORTED : Fld := ⟨.hq, 0x070, 0, 1, 24, 8, .rc, 0, none⟩
def HQ.ABORT_CNT.NOT_ABORTED : Fld := ⟨.hq, 0x070, 0, 1, 16, 8, .rc, 0, none⟩
def HQ.ABORT_CNT.SQ_DEL : Fld := ⟨.hq, 0x070, 0, 1, 8, 8, .rc, 0, none⟩
def HQ.ABORT_CNT.ACL_EXC : Fld := ⟨.hq, 0x070, 0, 1, 0, 8, .rc, 0, none⟩
def HQ.CQ_WAIT_CFG.CQ_FULL_TIME : Fld := ⟨.hq, 0x074, 0, 1, 0, 16, .rw, 1000, none⟩
def HQ.WAIT_CNT.CID_CONFLICT : Fld := ⟨.hq, 0x078, 0, 1, 16, 16, .rc, 0, none⟩
def HQ.WAIT_CNT.CQ_FULL : Fld := ⟨.hq, 0x078, 0, 1, 0, 16, .rc, 0, none⟩
def HQ.SLOT_STALL.STALLS : Fld := ⟨.hq, 0x07C, 0, 1, 0, 16, .rc, 0, none⟩

/-- The fields of HQ (R331). -/
def HQ.fields : List Fld :=
  [HQ.HQ_CTL.FETCH_EN, HQ.HQ_CTL.SLOT_MIN, HQ.HQ_STAT.CFS, HQ.HQ_STAT.SHST, HQ.HQ_STAT.RDY, HQ.HQ_STAT.CC_EN, HQ.HQ_STAT.SLOTS, HQ.CTRL_WEIGHT.WEIGHT, HQ.IN_RING.RING, HQ.OUT_RING.RING, HQ.Q_COUNT.CQS, HQ.Q_COUNT.SQS] ++
  [HQ.ARB.HPW, HQ.ARB.MPW, HQ.ARB.LPW, HQ.ARB.AMS, HQ.ARB.AB, HQ.ABORT_STAT.OUTSTANDING, HQ.SLOT_WIN.SLOT, HQ.SLOT_DATA.STATE, HQ.SLOT_DATA.MEDIA, HQ.SLOT_DATA.CTRL, HQ.SLOT_DATA.SQID, HQ.SLOT_DATA.CID] ++
  [HQ.DB_ERR.INVALID_REG, HQ.DB_ERR.INVALID_VAL, HQ.CMD_CNT.FETCHED, HQ.ABORT_CNT.ABORTED, HQ.ABORT_CNT.NOT_ABORTED, HQ.ABORT_CNT.SQ_DEL, HQ.ABORT_CNT.ACL_EXC, HQ.CQ_WAIT_CFG.CQ_FULL_TIME, HQ.WAIT_CNT.CID_CONFLICT, HQ.WAIT_CNT.CQ_FULL, HQ.SLOT_STALL.STALLS]

/-! PCX: the table of R333. -/

def PCX.PCX_CTL.MAX_SPEED : Fld := ⟨.pcx, 0x040, 0, 1, 4, 3, .rw, 5, none⟩
def PCX.PCX_CTL.L1_EN : Fld := ⟨.pcx, 0x040, 0, 1, 1, 1, .rw, 1, none⟩
def PCX.PCX_CTL.LINK_EN : Fld := ⟨.pcx, 0x040, 0, 1, 0, 1, .rw, 1, none⟩
def PCX.PCX_STAT.MODE : Fld := ⟨.pcx, 0x044, 0, 1, 18, 2, .ro, 0, some 0⟩
def PCX.PCX_STAT.PERST : Fld := ⟨.pcx, 0x044, 0, 1, 17, 1, .ro, 0, some 0⟩
def PCX.PCX_STAT.LINK_UP : Fld := ⟨.pcx, 0x044, 0, 1, 16, 1, .ro, 0, some 0⟩
def PCX.PCX_STAT.WIDTH : Fld := ⟨.pcx, 0x044, 0, 1, 12, 3, .ro, 0, some 0⟩
def PCX.PCX_STAT.SPEED : Fld := ⟨.pcx, 0x044, 0, 1, 8, 3, .ro, 0, some 0⟩
def PCX.PCX_STAT.LTSSM : Fld := ⟨.pcx, 0x044, 0, 1, 0, 6, .ro, 0, some 0⟩
def PCX.ERR_CNT.RCV_ERR : Fld := ⟨.pcx, 0x048, 0, 1, 16, 16, .rc, 0, none⟩
def PCX.ERR_CNT.REPLAY : Fld := ⟨.pcx, 0x048, 0, 1, 0, 16, .rc, 0, none⟩
def PCX.UNC_STAT.ECRC : Fld := ⟨.pcx, 0x04C, 0, 1, 4, 1, .w1c, 0, none⟩
def PCX.UNC_STAT.MALFORMED : Fld := ⟨.pcx, 0x04C, 0, 1, 3, 1, .w1c, 0, none⟩
def PCX.UNC_STAT.UNEXP_CPL : Fld := ⟨.pcx, 0x04C, 0, 1, 2, 1, .w1c, 0, none⟩
def PCX.UNC_STAT.CPL_TIMEOUT : Fld := ⟨.pcx, 0x04C, 0, 1, 1, 1, .w1c, 0, none⟩
def PCX.UNC_STAT.POISONED : Fld := ⟨.pcx, 0x04C, 0, 1, 0, 1, .w1c, 0, none⟩
def PCX.FUNC_STAT.FLR : Fld := ⟨.pcx, 0x050, 0, 1, 0, 2, .w1c, 0, some 0⟩
def PCX.DIAG_CTL.ACTIVE : Fld := ⟨.pcx, 0x054, 0, 1, 1, 1, .ro, 0, some 0⟩
def PCX.DIAG_CTL.EN : Fld := ⟨.pcx, 0x054, 0, 1, 0, 1, .kp, 0, none⟩
def PCX.DIAG_CNT.REFUSED : Fld := ⟨.pcx, 0x058, 0, 1, 0, 16, .rc, 0, none⟩
def PCX.MI_CTL.MI_EN : Fld := ⟨.pcx, 0x05C, 0, 1, 31, 1, .rw, 1, none⟩
def PCX.MI_CTL.BUS : Fld := ⟨.pcx, 0x05C, 0, 1, 8, 1, .ro, 0, some 0⟩
def PCX.MI_CTL.SMB_ADDR : Fld := ⟨.pcx, 0x05C, 0, 1, 0, 7, .rw, 29, none⟩
def PCX.MI_STAT.MI_ERR : Fld := ⟨.pcx, 0x060, 0, 1, 8, 8, .rc, 0, some 0⟩
def PCX.MI_STAT.ADMIN_Q : Fld := ⟨.pcx, 0x060, 0, 1, 0, 3, .ro, 0, some 0⟩
def PCX.RD_MIB.COUNT : Fld := ⟨.pcx, 0x064, 0, 1, 0, 32, .rc, 0, none⟩
def PCX.WR_MIB.COUNT : Fld := ⟨.pcx, 0x068, 0, 1, 0, 32, .rc, 0, none⟩

/-- The fields of PCX (R333). -/
def PCX.fields : List Fld :=
  [PCX.PCX_CTL.MAX_SPEED, PCX.PCX_CTL.L1_EN, PCX.PCX_CTL.LINK_EN, PCX.PCX_STAT.MODE, PCX.PCX_STAT.PERST, PCX.PCX_STAT.LINK_UP, PCX.PCX_STAT.WIDTH, PCX.PCX_STAT.SPEED, PCX.PCX_STAT.LTSSM, PCX.ERR_CNT.RCV_ERR, PCX.ERR_CNT.REPLAY, PCX.UNC_STAT.ECRC] ++
  [PCX.UNC_STAT.MALFORMED, PCX.UNC_STAT.UNEXP_CPL, PCX.UNC_STAT.CPL_TIMEOUT, PCX.UNC_STAT.POISONED, PCX.FUNC_STAT.FLR, PCX.DIAG_CTL.ACTIVE, PCX.DIAG_CTL.EN, PCX.DIAG_CNT.REFUSED, PCX.MI_CTL.MI_EN, PCX.MI_CTL.BUS, PCX.MI_CTL.SMB_ADDR, PCX.MI_STAT.MI_ERR] ++
  [PCX.MI_STAT.ADMIN_Q, PCX.RD_MIB.COUNT, PCX.WR_MIB.COUNT]

/-! SCH: the table of R396. -/

def SCH.SCH_CTL.RA_EN : Fld := ⟨.sch, 0x040, 0, 1, 8, 1, .rw, 1, none⟩
def SCH.SCH_CTL.ADMIT : Fld := ⟨.sch, 0x040, 0, 1, 0, 1, .rw, 1, none⟩
def SCH.SCH_STAT.PL_STATE : Fld := ⟨.sch, 0x044, 0, 1, 29, 3, .ro, 0, some 0⟩
def SCH.SCH_STAT.TAGS : Fld := ⟨.sch, 0x044, 0, 1, 16, 9, .ro, 0, some 0⟩
def SCH.SCH_STAT.IN_SERVICE : Fld := ⟨.sch, 0x044, 0, 1, 0, 4, .ro, 0, some 0⟩
def SCH.PLAN_CFG.AGE_LIMIT : Fld := ⟨.sch, 0x048, 0, 1, 16, 16, .rw, 500, none⟩
def SCH.PLAN_CFG.READ_BIAS : Fld := ⟨.sch, 0x048, 0, 1, 8, 8, .rw, 64, none⟩
def SCH.PLAN_CFG.SEEK_MARGIN : Fld := ⟨.sch, 0x048, 0, 1, 4, 4, .rw, 4, none⟩
def SCH.PLAN_CFG.POST_AHEAD : Fld := ⟨.sch, 0x048, 0, 1, 0, 4, .rw, 4, none⟩
def SCH.PERMIT_CFG.MAX_ASSIST : Fld := ⟨.sch, 0x04C, 0, 1, 4, 3, .rw, 4, none⟩
def SCH.PERMIT_CFG.MAX_FULL_SEEK : Fld := ⟨.sch, 0x04C, 0, 1, 0, 2, .rw, 2, none⟩
def SCH.PERMIT_STAT.ASSIST : Fld := ⟨.sch, 0x050, 0, 1, 8, 8, .ro, 0, some 0⟩
def SCH.PERMIT_STAT.SEEK : Fld := ⟨.sch, 0x050, 0, 1, 0, 4, .ro, 0, some 0⟩
def SCH.DESTAGE_CFG.DESTAGE_HI : Fld := ⟨.sch, 0x054, 0, 1, 8, 8, .rw, 75, none⟩
def SCH.DESTAGE_CFG.DESTAGE_LO : Fld := ⟨.sch, 0x054, 0, 1, 0, 8, .rw, 25, none⟩
def SCH.WC_LIMIT.LINES : Fld := ⟨.sch, 0x058, 0, 1, 0, 17, .rw, 65536, none⟩
def SCH.ACT_LIMIT.LINES : Fld := ⟨.sch, 0x05C, 0, 1, 0, 15, .rw, 16384, none⟩
def SCH.CHARGE.LINES : Fld := ⟨.sch, 0x060, 4, 4, 0, 17, .ro, 0, some 0⟩
def SCH.RA_CFG.RA_LINES : Fld := ⟨.sch, 0x070, 0, 1, 16, 16, .rw, 4096, none⟩
def SCH.RA_CFG.RA_LEN : Fld := ⟨.sch, 0x070, 0, 1, 0, 10, .rw, 256, none⟩
def SCH.REBUILD_CFG.SHARE : Fld := ⟨.sch, 0x074, 0, 1, 0, 8, .rw, 20, none⟩
def SCH.LADDER_CTL.OFS_PCT : Fld := ⟨.sch, 0x078, 0, 1, 8, 8, .rw, 8, none⟩
def SCH.LADDER_CTL.STEP_EN : Fld := ⟨.sch, 0x078, 0, 1, 4, 3, .rw, 7, none⟩
def SCH.LADDER_CTL.WOVEN_SKIP : Fld := ⟨.sch, 0x078, 0, 1, 0, 1, .rw, 1, none⟩
def SCH.WRITE_HOLD.VALID : Fld := ⟨.sch, 0x07C, 0, 1, 31, 1, .rw, 0, some 0⟩
def SCH.WRITE_HOLD.ZONE : Fld := ⟨.sch, 0x07C, 0, 1, 0, 19, .rw, 0, some 0⟩
def SCH.PL_CTL.TEST : Fld := ⟨.sch, 0x080, 0, 1, 31, 1, .kgo, 0, some 0⟩
def SCH.PL_CTL.ARM : Fld := ⟨.sch, 0x080, 0, 1, 0, 1, .rw, 0, none⟩
def SCH.PL_STAT.LAST_MS : Fld := ⟨.sch, 0x084, 0, 1, 16, 16, .ro, 0, some 0⟩
def SCH.PL_STAT.UNWRITTEN : Fld := ⟨.sch, 0x084, 0, 1, 0, 16, .ro, 0, some 0⟩
def SCH.PLAN_CNT.REQUEUE : Fld := ⟨.sch, 0x088, 0, 1, 16, 16, .rc, 0, none⟩
def SCH.PLAN_CNT.AGED : Fld := ⟨.sch, 0x088, 0, 1, 0, 16, .rc, 0, none⟩
def SCH.EXPOSED_CNT.PRIOR_EXPOSED : Fld := ⟨.sch, 0x08C, 0, 1, 8, 8, .rc, 0, none⟩
def SCH.EXPOSED_CNT.POISON_MARKED : Fld := ⟨.sch, 0x08C, 0, 1, 0, 8, .rc, 0, none⟩
def SCH.STEP8_CNT.RECON : Fld := ⟨.sch, 0x090, 0, 1, 16, 16, .rc, 0, none⟩
def SCH.STEP8_CNT.UNREC : Fld := ⟨.sch, 0x090, 0, 1, 0, 16, .rc, 0, none⟩
def SCH.PL_TGT.VALID : Fld := ⟨.sch, 0x0A0, 4, 16, 31, 1, .rw, 0, none⟩
def SCH.PL_TGT.HEAD : Fld := ⟨.sch, 0x0A0, 4, 16, 26, 5, .rw, 0, none⟩
def SCH.PL_TGT.BAND : Fld := ⟨.sch, 0x0A0, 4, 16, 0, 15, .rw, 0, none⟩

/-- The fields of SCH (R396). -/
def SCH.fields : List Fld :=
  [SCH.SCH_CTL.RA_EN, SCH.SCH_CTL.ADMIT, SCH.SCH_STAT.PL_STATE, SCH.SCH_STAT.TAGS, SCH.SCH_STAT.IN_SERVICE, SCH.PLAN_CFG.AGE_LIMIT, SCH.PLAN_CFG.READ_BIAS, SCH.PLAN_CFG.SEEK_MARGIN, SCH.PLAN_CFG.POST_AHEAD, SCH.PERMIT_CFG.MAX_ASSIST, SCH.PERMIT_CFG.MAX_FULL_SEEK, SCH.PERMIT_STAT.ASSIST] ++
  [SCH.PERMIT_STAT.SEEK, SCH.DESTAGE_CFG.DESTAGE_HI, SCH.DESTAGE_CFG.DESTAGE_LO, SCH.WC_LIMIT.LINES, SCH.ACT_LIMIT.LINES, SCH.CHARGE.LINES, SCH.RA_CFG.RA_LINES, SCH.RA_CFG.RA_LEN, SCH.REBUILD_CFG.SHARE, SCH.LADDER_CTL.OFS_PCT, SCH.LADDER_CTL.STEP_EN, SCH.LADDER_CTL.WOVEN_SKIP] ++
  [SCH.WRITE_HOLD.VALID, SCH.WRITE_HOLD.ZONE, SCH.PL_CTL.TEST, SCH.PL_CTL.ARM, SCH.PL_STAT.LAST_MS, SCH.PL_STAT.UNWRITTEN, SCH.PLAN_CNT.REQUEUE, SCH.PLAN_CNT.AGED, SCH.EXPOSED_CNT.PRIOR_EXPOSED, SCH.EXPOSED_CNT.POISON_MARKED, SCH.STEP8_CNT.RECON, SCH.STEP8_CNT.UNREC] ++
  [SCH.PL_TGT.VALID, SCH.PL_TGT.HEAD, SCH.PL_TGT.BAND]

/-! BUF: the table of R398. -/

def BUF.LINE_BASE.ADDR : Fld := ⟨.buf, 0x040, 0, 1, 0, 32, .rw, 0, none⟩
def BUF.LINE_COUNT.COUNT : Fld := ⟨.buf, 0x044, 0, 1, 0, 21, .rw, 0, none⟩
def BUF.DIR_BASE.ADDR : Fld := ⟨.buf, 0x048, 0, 1, 0, 32, .rw, 0, none⟩
def BUF.POOL_STAT.FREE : Fld := ⟨.buf, 0x04C, 0, 1, 0, 21, .ro, 0, some 0⟩
def BUF.POOL_LOW.LINES : Fld := ⟨.buf, 0x050, 0, 1, 0, 21, .rw, 8192, none⟩
def BUF.PROV_STAT.LINES : Fld := ⟨.buf, 0x054, 0, 1, 0, 13, .ro, 0, some 0⟩
def BUF.MERGE_CTL.FLUSH : Fld := ⟨.buf, 0x058, 0, 1, 16, 1, .w1s, 0, some 0⟩
def BUF.MERGE_CTL.MERGE_TIMEOUT : Fld := ⟨.buf, 0x058, 0, 1, 0, 16, .rw, 10, none⟩
def BUF.MERGE_STAT.ENTRIES : Fld := ⟨.buf, 0x05C, 0, 1, 0, 5, .ro, 0, some 0⟩
def BUF.MERGE_CNT.RMW : Fld := ⟨.buf, 0x060, 0, 1, 16, 16, .rc, 0, none⟩
def BUF.MERGE_CNT.RMW_UE : Fld := ⟨.buf, 0x060, 0, 1, 0, 16, .rc, 0, none⟩
def BUF.POISON_CNT.HOST : Fld := ⟨.buf, 0x064, 0, 1, 24, 8, .rc, 0, none⟩
def BUF.POISON_CNT.CORE : Fld := ⟨.buf, 0x064, 0, 1, 16, 8, .rc, 0, none⟩
def BUF.POISON_CNT.WEV : Fld := ⟨.buf, 0x064, 0, 1, 8, 8, .rc, 0, none⟩
def BUF.POISON_CNT.OTHER : Fld := ⟨.buf, 0x064, 0, 1, 0, 8, .rc, 0, none⟩
def BUF.POISON_LAST.CONSUMER : Fld := ⟨.buf, 0x068, 0, 1, 29, 3, .ro, 0, none⟩
def BUF.POISON_LAST.GRANULE : Fld := ⟨.buf, 0x068, 0, 1, 0, 28, .ro, 0, none⟩

/-- The fields of BUF (R398). -/
def BUF.fields : List Fld :=
  [BUF.LINE_BASE.ADDR, BUF.LINE_COUNT.COUNT, BUF.DIR_BASE.ADDR, BUF.POOL_STAT.FREE, BUF.POOL_LOW.LINES, BUF.PROV_STAT.LINES, BUF.MERGE_CTL.FLUSH, BUF.MERGE_CTL.MERGE_TIMEOUT, BUF.MERGE_STAT.ENTRIES, BUF.MERGE_CNT.RMW, BUF.MERGE_CNT.RMW_UE, BUF.POISON_CNT.HOST] ++
  [BUF.POISON_CNT.CORE, BUF.POISON_CNT.WEV, BUF.POISON_CNT.OTHER, BUF.POISON_LAST.CONSUMER, BUF.POISON_LAST.GRANULE]

/-! DMC: the table of R400. -/

def DMC.DMC_CTL.SCRUB_EN : Fld := ⟨.dmc, 0x040, 0, 1, 4, 1, .rw, 1, none⟩
def DMC.DMC_CTL.CH_EN : Fld := ⟨.dmc, 0x040, 0, 1, 0, 2, .rw, 3, none⟩
def DMC.DMC_STAT.REFRESH : Fld := ⟨.dmc, 0x044, 0, 1, 4, 3, .ro, 0, none⟩
def DMC.DMC_STAT.TRAINED : Fld := ⟨.dmc, 0x044, 0, 1, 0, 2, .ro, 0, none⟩
def DMC.DMC_CFG.SPEED : Fld := ⟨.dmc, 0x048, 0, 1, 8, 4, .rw, 0, none⟩
def DMC.DMC_CFG.SIZE : Fld := ⟨.dmc, 0x048, 0, 1, 0, 7, .rw, 0, none⟩
def DMC.USABLE.MIB : Fld := ⟨.dmc, 0x04C, 0, 1, 0, 16, .ro, 0, none⟩
def DMC.SCRUB_CFG.SCRUB_HOURS : Fld := ⟨.dmc, 0x050, 0, 1, 0, 16, .rw, 24, none⟩
def DMC.SCRUB_POS.GRANULE : Fld := ⟨.dmc, 0x054, 0, 1, 0, 28, .ro, 0, none⟩
def DMC.CE_BUCKET.LEAK_MS : Fld := ⟨.dmc, 0x058, 4, 2, 16, 16, .rw, 1000, none⟩
def DMC.CE_BUCKET.DEPTH : Fld := ⟨.dmc, 0x058, 4, 2, 0, 16, .rw, 64, none⟩
def DMC.CE_LEVEL.LEVEL : Fld := ⟨.dmc, 0x060, 4, 2, 0, 16, .ro, 0, none⟩
def DMC.CE_CNT.CH1 : Fld := ⟨.dmc, 0x068, 0, 1, 16, 16, .rc, 0, none⟩
def DMC.CE_CNT.CH0 : Fld := ⟨.dmc, 0x068, 0, 1, 0, 16, .rc, 0, none⟩
def DMC.UE_CNT.COUNT : Fld := ⟨.dmc, 0x06C, 0, 1, 0, 16, .rc, 0, none⟩
def DMC.LAST_CE.CH : Fld := ⟨.dmc, 0x070, 0, 1, 31, 1, .ro, 0, none⟩
def DMC.LAST_CE.GRANULE : Fld := ⟨.dmc, 0x070, 0, 1, 0, 28, .ro, 0, none⟩
def DMC.LAST_UE.CH : Fld := ⟨.dmc, 0x074, 0, 1, 31, 1, .ro, 0, none⟩
def DMC.LAST_UE.GRANULE : Fld := ⟨.dmc, 0x074, 0, 1, 0, 28, .ro, 0, none⟩
def DMC.FLIP_CTL.ARM : Fld := ⟨.dmc, 0x078, 0, 1, 31, 1, .w1s, 0, some 0⟩
def DMC.FLIP_CTL.ADDR_EN : Fld := ⟨.dmc, 0x078, 0, 1, 30, 1, .rw, 0, some 0⟩
def DMC.FLIP_CTL.GRANULE : Fld := ⟨.dmc, 0x078, 0, 1, 0, 28, .rw, 0, some 0⟩
def DMC.FLIP_DATA.MASK : Fld := ⟨.dmc, 0x07C, 0, 1, 0, 32, .rw, 0, some 0⟩
def DMC.FLIP_CHK.MASK : Fld := ⟨.dmc, 0x080, 0, 1, 0, 32, .rw, 0, some 0⟩
def DMC.FLIP_SEL.WORD : Fld := ⟨.dmc, 0x084, 0, 1, 0, 3, .rw, 0, some 0⟩
def DMC.TEST_CTL.GO : Fld := ⟨.dmc, 0x088, 0, 1, 31, 1, .w1s, 0, some 0⟩
def DMC.TEST_CTL.BUSY : Fld := ⟨.dmc, 0x088, 0, 1, 30, 1, .ro, 0, some 0⟩
def DMC.TEST_CTL.RESULT : Fld := ⟨.dmc, 0x088, 0, 1, 28, 2, .ro, 0, some 0⟩
def DMC.TEST_CTL.PATTERN : Fld := ⟨.dmc, 0x088, 0, 1, 0, 2, .rw, 0, some 0⟩
def DMC.TEST_FAIL.GRANULE : Fld := ⟨.dmc, 0x08C, 0, 1, 0, 28, .ro, 0, some 0⟩

/-- The fields of DMC (R400). -/
def DMC.fields : List Fld :=
  [DMC.DMC_CTL.SCRUB_EN, DMC.DMC_CTL.CH_EN, DMC.DMC_STAT.REFRESH, DMC.DMC_STAT.TRAINED, DMC.DMC_CFG.SPEED, DMC.DMC_CFG.SIZE, DMC.USABLE.MIB, DMC.SCRUB_CFG.SCRUB_HOURS, DMC.SCRUB_POS.GRANULE, DMC.CE_BUCKET.LEAK_MS, DMC.CE_BUCKET.DEPTH, DMC.CE_LEVEL.LEVEL] ++
  [DMC.CE_CNT.CH1, DMC.CE_CNT.CH0, DMC.UE_CNT.COUNT, DMC.LAST_CE.CH, DMC.LAST_CE.GRANULE, DMC.LAST_UE.CH, DMC.LAST_UE.GRANULE, DMC.FLIP_CTL.ARM, DMC.FLIP_CTL.ADDR_EN, DMC.FLIP_CTL.GRANULE, DMC.FLIP_DATA.MASK, DMC.FLIP_CHK.MASK] ++
  [DMC.FLIP_SEL.WORD, DMC.TEST_CTL.GO, DMC.TEST_CTL.BUSY, DMC.TEST_CTL.RESULT, DMC.TEST_CTL.PATTERN, DMC.TEST_FAIL.GRANULE]

/-! SPN: the table of R428. -/

def SPN.SPN_CTL.START : Fld := ⟨.spn, 0x040, 0, 1, 31, 1, .w1s, 0, some 0⟩
def SPN.SPN_CTL.STOP : Fld := ⟨.spn, 0x040, 0, 1, 30, 1, .w1s, 0, some 0⟩
def SPN.SPN_CTL.AUTO_RESTART : Fld := ⟨.spn, 0x040, 0, 1, 8, 1, .rw, 1, none⟩
def SPN.SPN_CTL.SPEED : Fld := ⟨.spn, 0x040, 0, 1, 0, 2, .rw, 0, none⟩
def SPN.SPN_STAT.LAST_REFUSE : Fld := ⟨.spn, 0x044, 0, 1, 20, 4, .ro, 0, none⟩
def SPN.SPN_STAT.LOCK : Fld := ⟨.spn, 0x044, 0, 1, 5, 1, .ro, 0, none⟩
def SPN.SPN_STAT.DIR_SWAPPED : Fld := ⟨.spn, 0x044, 0, 1, 4, 1, .ro, 0, none⟩
def SPN.SPN_STAT.STATE : Fld := ⟨.spn, 0x044, 0, 1, 0, 4, .ro, 0, none⟩
def SPN.SPN_SPEED.RPM : Fld := ⟨.spn, 0x048, 0, 1, 0, 32, .ro, 0, none⟩
def SPN.SPN_CFG.SPIN_ILIM : Fld := ⟨.spn, 0x04C, 0, 1, 8, 8, .rw, 22, none⟩
def SPN.SPN_CFG.POLE_PAIRS : Fld := ⟨.spn, 0x04C, 0, 1, 0, 4, .rw, 4, none⟩
def SPN.OBS_CFG.RECATCH_MS : Fld := ⟨.spn, 0x050, 0, 1, 16, 16, .rw, 200, none⟩
def SPN.OBS_CFG.WIN : Fld := ⟨.spn, 0x050, 0, 1, 0, 8, .rw, 25, none⟩
def SPN.OBS_CNT.RECATCH_FAIL : Fld := ⟨.spn, 0x054, 0, 1, 24, 8, .rc, 0, none⟩
def SPN.OBS_CNT.RECATCH : Fld := ⟨.spn, 0x054, 0, 1, 16, 8, .rc, 0, none⟩
def SPN.OBS_CNT.EMPTY : Fld := ⟨.spn, 0x054, 0, 1, 0, 16, .rc, 0, none⟩
def SPN.SPN_ISENSE.PEAK : Fld := ⟨.spn, 0x058, 0, 1, 16, 16, .ro, 0, some 0⟩
def SPN.SPN_ISENSE.MEAN : Fld := ⟨.spn, 0x058, 0, 1, 0, 16, .ro, 0, some 0⟩
def SPN.SPIN_TIME.MS : Fld := ⟨.spn, 0x05C, 0, 1, 0, 16, .ro, 0, none⟩
def SPN.SPN_FAULT.START_FAIL : Fld := ⟨.spn, 0x060, 0, 1, 8, 1, .w1c, 0, none⟩
def SPN.SPN_FAULT.OVERTEMP : Fld := ⟨.spn, 0x060, 0, 1, 7, 1, .w1c, 0, none⟩
def SPN.SPN_FAULT.OVERCURRENT : Fld := ⟨.spn, 0x060, 0, 1, 6, 1, .w1c, 0, none⟩
def SPN.SPN_FAULT.SHORT_PH : Fld := ⟨.spn, 0x060, 0, 1, 5, 1, .w1c, 0, none⟩
def SPN.SPN_FAULT.SHORT_SUP : Fld := ⟨.spn, 0x060, 0, 1, 4, 1, .w1c, 0, none⟩
def SPN.SPN_FAULT.SHORT_GND : Fld := ⟨.spn, 0x060, 0, 1, 3, 1, .w1c, 0, none⟩
def SPN.SPN_FAULT.OPEN : Fld := ⟨.spn, 0x060, 0, 1, 0, 3, .w1c, 0, none⟩
def SPN.SPN_CNT.STARTS : Fld := ⟨.spn, 0x064, 0, 1, 16, 16, .rc, 0, none⟩
def SPN.SPN_CNT.RESTARTS : Fld := ⟨.spn, 0x064, 0, 1, 0, 8, .rc, 0, none⟩

/-- The fields of SPN (R428). -/
def SPN.fields : List Fld :=
  [SPN.SPN_CTL.START, SPN.SPN_CTL.STOP, SPN.SPN_CTL.AUTO_RESTART, SPN.SPN_CTL.SPEED, SPN.SPN_STAT.LAST_REFUSE, SPN.SPN_STAT.LOCK, SPN.SPN_STAT.DIR_SWAPPED, SPN.SPN_STAT.STATE, SPN.SPN_SPEED.RPM, SPN.SPN_CFG.SPIN_ILIM, SPN.SPN_CFG.POLE_PAIRS, SPN.OBS_CFG.RECATCH_MS] ++
  [SPN.OBS_CFG.WIN, SPN.OBS_CNT.RECATCH_FAIL, SPN.OBS_CNT.RECATCH, SPN.OBS_CNT.EMPTY, SPN.SPN_ISENSE.PEAK, SPN.SPN_ISENSE.MEAN, SPN.SPIN_TIME.MS, SPN.SPN_FAULT.START_FAIL, SPN.SPN_FAULT.OVERTEMP, SPN.SPN_FAULT.OVERCURRENT, SPN.SPN_FAULT.SHORT_PH, SPN.SPN_FAULT.SHORT_SUP] ++
  [SPN.SPN_FAULT.SHORT_GND, SPN.SPN_FAULT.OPEN, SPN.SPN_CNT.STARTS, SPN.SPN_CNT.RESTARTS]

/-! PWR: the table of R430. -/

def PWR.PWR_CTL.CHOP_EN : Fld := ⟨.pwr, 0x040, 0, 1, 8, 1, .rw, 1, none⟩
def PWR.PWR_STAT.RAIL_PG : Fld := ⟨.pwr, 0x044, 0, 1, 8, 10, .ro, 1023, none⟩
def PWR.PWR_STAT.CHOP_FAULT : Fld := ⟨.pwr, 0x044, 0, 1, 7, 1, .ro, 0, none⟩
def PWR.PWR_STAT.OV2 : Fld := ⟨.pwr, 0x044, 0, 1, 6, 1, .ro, 0, some 0⟩
def PWR.PWR_STAT.OV1 : Fld := ⟨.pwr, 0x044, 0, 1, 5, 1, .ro, 0, some 0⟩
def PWR.PWR_STAT.FLOOR : Fld := ⟨.pwr, 0x044, 0, 1, 4, 1, .ro, 0, none⟩
def PWR.PWR_STAT.HOLDUP : Fld := ⟨.pwr, 0x044, 0, 1, 3, 1, .ro, 0, none⟩
def PWR.PWR_STAT.PFAIL : Fld := ⟨.pwr, 0x044, 0, 1, 2, 1, .ro, 0, none⟩
def PWR.PWR_STAT.IN5_OK : Fld := ⟨.pwr, 0x044, 0, 1, 1, 1, .ro, 1, none⟩
def PWR.PWR_STAT.IN12_OK : Fld := ⟨.pwr, 0x044, 0, 1, 0, 1, .ro, 1, none⟩
def PWR.VOLT.HUP : Fld := ⟨.pwr, 0x048, 0, 1, 16, 16, .ro, 0, some 0⟩
def PWR.VOLT.IN12 : Fld := ⟨.pwr, 0x048, 0, 1, 0, 16, .ro, 0, some 0⟩
def PWR.I12.CLAMP : Fld := ⟨.pwr, 0x04C, 0, 1, 16, 1, .ro, 0, some 0⟩
def PWR.I12.MEAN : Fld := ⟨.pwr, 0x04C, 0, 1, 0, 16, .ro, 0, some 0⟩
def PWR.CHOP_CFG.CHOP_MAX_MS : Fld := ⟨.pwr, 0x050, 0, 1, 24, 8, .rw, 50, none⟩
def PWR.CHOP_CFG.CHOP_MIN : Fld := ⟨.pwr, 0x050, 0, 1, 16, 8, .rw, 5, none⟩
def PWR.CHOP_CFG.CHOP_OFF : Fld := ⟨.pwr, 0x050, 0, 1, 8, 8, .rw, 129, none⟩
def PWR.CHOP_CFG.CHOP_ON : Fld := ⟨.pwr, 0x050, 0, 1, 0, 8, .rw, 132, none⟩
def PWR.CHOP_STAT.CODE : Fld := ⟨.pwr, 0x054, 0, 1, 16, 3, .w1c, 0, none⟩
def PWR.CHOP_STAT.I_LAST : Fld := ⟨.pwr, 0x054, 0, 1, 0, 16, .ro, 0, some 0⟩
def PWR.HUP_CFG.FLOOR_V : Fld := ⟨.pwr, 0x058, 0, 1, 24, 8, .rw, 95, none⟩
def PWR.HUP_CFG.HUP_V : Fld := ⟨.pwr, 0x058, 0, 1, 16, 8, .rw, 110, none⟩
def PWR.HUP_CFG.FLOOR_RPM : Fld := ⟨.pwr, 0x058, 0, 1, 0, 16, .rw, 4000, none⟩
def PWR.HUP_STAT.END_RPM : Fld := ⟨.pwr, 0x05C, 0, 1, 16, 16, .ro, 0, none⟩
def PWR.HUP_STAT.LAST_MS : Fld := ⟨.pwr, 0x05C, 0, 1, 0, 16, .ro, 0, none⟩
def PWR.VCOX.MV : Fld := ⟨.pwr, 0x060, 0, 1, 0, 10, .ro, 750, none⟩
def PWR.RAIL_FAULT.FAULT : Fld := ⟨.pwr, 0x064, 0, 1, 0, 10, .w1c, 0, none⟩
def PWR.TERM_STAT.VCM_REV : Fld := ⟨.pwr, 0x068, 0, 1, 0, 4, .w1c, 0, none⟩
def PWR.PWR_CNT.OV2_CNT : Fld := ⟨.pwr, 0x06C, 0, 1, 24, 8, .rc, 0, none⟩
def PWR.PWR_CNT.OV1_CNT : Fld := ⟨.pwr, 0x06C, 0, 1, 16, 8, .rc, 0, none⟩
def PWR.PWR_CNT.PFAIL_CNT : Fld := ⟨.pwr, 0x06C, 0, 1, 0, 16, .rc, 0, none⟩
def PWR.RFW_VER.MAJOR : Fld := ⟨.pwr, 0x070, 0, 1, 24, 8, .kp, 0, none⟩
def PWR.RFW_VER.MINOR : Fld := ⟨.pwr, 0x070, 0, 1, 16, 8, .kp, 0, none⟩
def PWR.RFW_VER.BUILD : Fld := ⟨.pwr, 0x070, 0, 1, 0, 16, .kp, 0, none⟩
def PWR.RFW_SVN.SVN : Fld := ⟨.pwr, 0x074, 0, 1, 0, 8, .kp, 0, none⟩

/-- The fields of PWR (R430). -/
def PWR.fields : List Fld :=
  [PWR.PWR_CTL.CHOP_EN, PWR.PWR_STAT.RAIL_PG, PWR.PWR_STAT.CHOP_FAULT, PWR.PWR_STAT.OV2, PWR.PWR_STAT.OV1, PWR.PWR_STAT.FLOOR, PWR.PWR_STAT.HOLDUP, PWR.PWR_STAT.PFAIL, PWR.PWR_STAT.IN5_OK, PWR.PWR_STAT.IN12_OK, PWR.VOLT.HUP, PWR.VOLT.IN12] ++
  [PWR.I12.CLAMP, PWR.I12.MEAN, PWR.CHOP_CFG.CHOP_MAX_MS, PWR.CHOP_CFG.CHOP_MIN, PWR.CHOP_CFG.CHOP_OFF, PWR.CHOP_CFG.CHOP_ON, PWR.CHOP_STAT.CODE, PWR.CHOP_STAT.I_LAST, PWR.HUP_CFG.FLOOR_V, PWR.HUP_CFG.HUP_V, PWR.HUP_CFG.FLOOR_RPM, PWR.HUP_STAT.END_RPM] ++
  [PWR.HUP_STAT.LAST_MS, PWR.VCOX.MV, PWR.RAIL_FAULT.FAULT, PWR.TERM_STAT.VCM_REV, PWR.PWR_CNT.OV2_CNT, PWR.PWR_CNT.OV1_CNT, PWR.PWR_CNT.PFAIL_CNT, PWR.RFW_VER.MAJOR, PWR.RFW_VER.MINOR, PWR.RFW_VER.BUILD, PWR.RFW_SVN.SVN]

/-! L2C: the table of R445. -/

def L2C.L2_CTL.PREFETCH_EN : Fld := ⟨.l2c, 0x040, 0, 1, 1, 1, .rw, 1, none⟩
def L2C.L2_CTL.PAR_EN : Fld := ⟨.l2c, 0x040, 0, 1, 0, 1, .rw, 1, none⟩
def L2C.L2_STAT.MODE : Fld := ⟨.l2c, 0x044, 0, 1, 16, 2, .ro, 0, some 0⟩
def L2C.L2_STAT.DIRTY : Fld := ⟨.l2c, 0x044, 0, 1, 0, 16, .ro, 0, some 0⟩
def L2C.LOCK.WAYS : Fld := ⟨.l2c, 0x048, 0, 1, 0, 16, .rw, 0, some 0⟩
def L2C.STREAM.ADDR : Fld := ⟨.l2c, 0x050, 4, 8, 0, 32, .rw, 0, none⟩
def L2C.PRELOAD_ADDR.ADDR : Fld := ⟨.l2c, 0x070, 0, 1, 0, 32, .rw, 0, some 0⟩
def L2C.PRELOAD_CTL.GO : Fld := ⟨.l2c, 0x074, 0, 1, 31, 1, .w1s, 0, some 0⟩
def L2C.PRELOAD_CTL.BUSY : Fld := ⟨.l2c, 0x074, 0, 1, 30, 1, .ro, 0, some 0⟩
def L2C.PRELOAD_CTL.RESULT : Fld := ⟨.l2c, 0x074, 0, 1, 28, 2, .ro, 0, some 0⟩
def L2C.PRELOAD_CTL.WAYS : Fld := ⟨.l2c, 0x074, 0, 1, 12, 16, .rw, 0, some 0⟩
def L2C.PRELOAD_CTL.PAGES : Fld := ⟨.l2c, 0x074, 0, 1, 0, 9, .rw, 0, some 0⟩
def L2C.MAINT_ADDR.ADDR : Fld := ⟨.l2c, 0x078, 0, 1, 0, 32, .rw, 0, some 0⟩
def L2C.MAINT_CMD.GO : Fld := ⟨.l2c, 0x07C, 0, 1, 31, 1, .w1s, 0, some 0⟩
def L2C.MAINT_CMD.BUSY : Fld := ⟨.l2c, 0x07C, 0, 1, 30, 1, .ro, 0, some 0⟩
def L2C.MAINT_CMD.OP : Fld := ⟨.l2c, 0x07C, 0, 1, 28, 2, .rw, 0, some 0⟩
def L2C.MAINT_CMD.LINES : Fld := ⟨.l2c, 0x07C, 0, 1, 0, 16, .rw, 0, some 0⟩
def L2C.PAR_CNT.CLEAN : Fld := ⟨.l2c, 0x080, 0, 1, 16, 16, .rc, 0, none⟩
def L2C.PAR_CNT.DIRTY : Fld := ⟨.l2c, 0x080, 0, 1, 0, 8, .rc, 0, none⟩
def L2C.L1_ERR.COUNT : Fld := ⟨.l2c, 0x084, 0, 1, 0, 16, .rc, 0, none⟩
def L2C.PAR_LAST.ADDR : Fld := ⟨.l2c, 0x088, 0, 1, 0, 32, .ro, 0, none⟩
def L2C.HIT_CNT.COUNT : Fld := ⟨.l2c, 0x08C, 0, 1, 0, 32, .rc, 0, some 0⟩
def L2C.MISS_CNT.COUNT : Fld := ⟨.l2c, 0x090, 0, 1, 0, 32, .rc, 0, some 0⟩

/-- The fields of L2C (R445). -/
def L2C.fields : List Fld :=
  [L2C.L2_CTL.PREFETCH_EN, L2C.L2_CTL.PAR_EN, L2C.L2_STAT.MODE, L2C.L2_STAT.DIRTY, L2C.LOCK.WAYS, L2C.STREAM.ADDR, L2C.PRELOAD_ADDR.ADDR, L2C.PRELOAD_CTL.GO, L2C.PRELOAD_CTL.BUSY, L2C.PRELOAD_CTL.RESULT, L2C.PRELOAD_CTL.WAYS, L2C.PRELOAD_CTL.PAGES] ++
  [L2C.MAINT_ADDR.ADDR, L2C.MAINT_CMD.GO, L2C.MAINT_CMD.BUSY, L2C.MAINT_CMD.OP, L2C.MAINT_CMD.LINES, L2C.PAR_CNT.CLEAN, L2C.PAR_CNT.DIRTY, L2C.L1_ERR.COUNT, L2C.PAR_LAST.ADDR, L2C.HIT_CNT.COUNT, L2C.MISS_CNT.COUNT]

/-! TCM: the table of R450. -/

def TCM.CLEAR_ADDR.PAGE : Fld := ⟨.tcm, 0x040, 0, 1, 0, 10, .rw, 0, some 0⟩
def TCM.CLEAR_CTL.GO : Fld := ⟨.tcm, 0x044, 0, 1, 31, 1, .w1s, 0, some 0⟩
def TCM.CLEAR_CTL.BUSY : Fld := ⟨.tcm, 0x044, 0, 1, 30, 1, .ro, 0, some 0⟩
def TCM.CLEAR_CTL.PAGES : Fld := ⟨.tcm, 0x044, 0, 1, 0, 11, .rw, 0, some 0⟩
def TCM.CE_BUCKET.LEAK_MS : Fld := ⟨.tcm, 0x048, 0, 1, 16, 16, .rw, 1000, none⟩
def TCM.CE_BUCKET.DEPTH : Fld := ⟨.tcm, 0x048, 0, 1, 0, 16, .rw, 64, none⟩
def TCM.CE_LEVEL.LEVEL : Fld := ⟨.tcm, 0x04C, 0, 1, 0, 16, .ro, 0, some 0⟩
def TCM.ERR_CNT.CE : Fld := ⟨.tcm, 0x050, 0, 1, 16, 16, .rc, 0, none⟩
def TCM.ERR_CNT.UE : Fld := ⟨.tcm, 0x050, 0, 1, 0, 16, .rc, 0, none⟩
def TCM.LAST_ERR.UE : Fld := ⟨.tcm, 0x054, 0, 1, 31, 1, .ro, 0, none⟩
def TCM.LAST_ERR.ADDR : Fld := ⟨.tcm, 0x054, 0, 1, 3, 19, .ro, 0, none⟩
def TCM.FLIP_CTL.ARM : Fld := ⟨.tcm, 0x058, 0, 1, 31, 1, .w1s, 0, some 0⟩
def TCM.FLIP_CTL.ADDR_EN : Fld := ⟨.tcm, 0x058, 0, 1, 30, 1, .rw, 0, some 0⟩
def TCM.FLIP_CTL.ADDR : Fld := ⟨.tcm, 0x058, 0, 1, 3, 19, .rw, 0, some 0⟩
def TCM.FLIP_DATA.MASK : Fld := ⟨.tcm, 0x05C, 4, 2, 0, 32, .rw, 0, some 0⟩
def TCM.FLIP_CHK.MASK : Fld := ⟨.tcm, 0x064, 0, 1, 0, 8, .rw, 0, some 0⟩

/-- The fields of TCM (R450). -/
def TCM.fields : List Fld :=
  [TCM.CLEAR_ADDR.PAGE, TCM.CLEAR_CTL.GO, TCM.CLEAR_CTL.BUSY, TCM.CLEAR_CTL.PAGES, TCM.CE_BUCKET.LEAK_MS, TCM.CE_BUCKET.DEPTH, TCM.CE_LEVEL.LEVEL, TCM.ERR_CNT.CE, TCM.ERR_CNT.UE, TCM.LAST_ERR.UE, TCM.LAST_ERR.ADDR, TCM.FLIP_CTL.ARM] ++
  [TCM.FLIP_CTL.ADDR_EN, TCM.FLIP_CTL.ADDR, TCM.FLIP_DATA.MASK, TCM.FLIP_CHK.MASK]

/-! WRK: the table of R460. -/

def WRK.RING_WIN.RING : Fld := ⟨.wrk, 0x040, 0, 1, 0, 8, .rw, 0, some 0⟩
def WRK.RING_BASE.ADDR : Fld := ⟨.wrk, 0x044, 0, 1, 0, 32, .rw, 0, none⟩
def WRK.RING_CFG.EN : Fld := ⟨.wrk, 0x048, 0, 1, 31, 1, .rw, 0, some 0⟩
def WRK.RING_CFG.CONSUMER : Fld := ⟨.wrk, 0x048, 0, 1, 24, 4, .rw, 0, none⟩
def WRK.RING_CFG.RST_BYTE : Fld := ⟨.wrk, 0x048, 0, 1, 16, 8, .rw, 0, none⟩
def WRK.RING_CFG.DIR : Fld := ⟨.wrk, 0x048, 0, 1, 12, 1, .rw, 0, none⟩
def WRK.RING_CFG.LOC : Fld := ⟨.wrk, 0x048, 0, 1, 11, 1, .rw, 0, none⟩
def WRK.RING_CFG.ESIZE : Fld := ⟨.wrk, 0x048, 0, 1, 8, 2, .rw, 0, none⟩
def WRK.RING_CFG.LOG2 : Fld := ⟨.wrk, 0x048, 0, 1, 0, 5, .rw, 4, none⟩
def WRK.RING_STAT.STATE : Fld := ⟨.wrk, 0x04C, 0, 1, 28, 4, .ro, 0, some 0⟩
def WRK.RING_STAT.ERR : Fld := ⟨.wrk, 0x04C, 0, 1, 24, 4, .ro, 0, some 0⟩
def WRK.RING_STAT.FETCH : Fld := ⟨.wrk, 0x04C, 0, 1, 0, 16, .ro, 0, some 0⟩
def WRK.RING_CMD.RESUME : Fld := ⟨.wrk, 0x050, 0, 1, 31, 1, .w1s, 0, some 0⟩
def WRK.RING_CPL.COUNT : Fld := ⟨.wrk, 0x054, 0, 1, 0, 16, .ro, 0, some 0⟩
def WRK.DISCARD_CNT.COUNT : Fld := ⟨.wrk, 0x058, 0, 1, 0, 16, .rc, 0, none⟩
def WRK.DB_ERR_CNT.COUNT : Fld := ⟨.wrk, 0x05C, 0, 1, 0, 16, .rc, 0, none⟩
def WRK.ERR_RING.RING : Fld := ⟨.wrk, 0x060, 0, 1, 0, 8, .ro, 0, none⟩
def WRK.DOORBELL.INDEX : Fld := ⟨.wrk, 0x400, 4, 256, 0, 16, .rw, 0, some 0⟩
def WRK.PUB.INDEX : Fld := ⟨.wrk, 0x800, 4, 256, 0, 16, .ro, 0, some 0⟩

/-- The fields of WRK (R460). -/
def WRK.fields : List Fld :=
  [WRK.RING_WIN.RING, WRK.RING_BASE.ADDR, WRK.RING_CFG.EN, WRK.RING_CFG.CONSUMER, WRK.RING_CFG.RST_BYTE, WRK.RING_CFG.DIR, WRK.RING_CFG.LOC, WRK.RING_CFG.ESIZE, WRK.RING_CFG.LOG2, WRK.RING_STAT.STATE, WRK.RING_STAT.ERR, WRK.RING_STAT.FETCH] ++
  [WRK.RING_CMD.RESUME, WRK.RING_CPL.COUNT, WRK.DISCARD_CNT.COUNT, WRK.DB_ERR_CNT.COUNT, WRK.ERR_RING.RING, WRK.DOORBELL.INDEX, WRK.PUB.INDEX]

/-! MBX: the table of R469. -/

def MBX.MBX_CTL.WAKE_EN : Fld := ⟨.mbx, 0x040, 0, 1, 0, 18, .rw, 262143, none⟩
def MBX.WAIT_WARN.MS : Fld := ⟨.mbx, 0x044, 0, 1, 0, 16, .rw, 100, none⟩
def MBX.ROUTE_WIN.EVENT : Fld := ⟨.mbx, 0x048, 0, 1, 0, 9, .rw, 0, some 0⟩
def MBX.ROUTE_DATA.EN : Fld := ⟨.mbx, 0x04C, 0, 1, 7, 1, .rw, 0, none⟩
def MBX.ROUTE_DATA.WAKE : Fld := ⟨.mbx, 0x04C, 0, 1, 6, 1, .rw, 0, none⟩
def MBX.ROUTE_DATA.CORE : Fld := ⟨.mbx, 0x04C, 0, 1, 3, 3, .rw, 0, none⟩
def MBX.ROUTE_DATA.PRIO : Fld := ⟨.mbx, 0x04C, 0, 1, 0, 2, .rw, 0, none⟩
def MBX.CLAIM.NONE : Fld := ⟨.mbx, 0x050, 4, 6, 9, 1, .ro, 1, some 1⟩
def MBX.CLAIM.EVENT : Fld := ⟨.mbx, 0x050, 4, 6, 0, 9, .ro, 0, some 0⟩
def MBX.OUT_DATA.WORD : Fld := ⟨.mbx, 0x100, 32, 18, 0, 32, .wo, 0, some 0⟩
def MBX.IN_DATA.WORD : Fld := ⟨.mbx, 0x104, 32, 18, 0, 32, .rc, 0, none⟩
def MBX.Q_STAT.IN_WORDS : Fld := ⟨.mbx, 0x108, 32, 18, 24, 5, .ro, 0, none⟩
def MBX.Q_STAT.OUT_WORDS : Fld := ⟨.mbx, 0x108, 32, 18, 16, 5, .ro, 0, none⟩
def MBX.Q_STAT.OUT_PART : Fld := ⟨.mbx, 0x108, 32, 18, 1, 1, .ro, 0, some 0⟩
def MBX.Q_STAT.WAITING : Fld := ⟨.mbx, 0x108, 32, 18, 0, 1, .ro, 0, none⟩
def MBX.OUT_CTL.WITHDRAW : Fld := ⟨.mbx, 0x10C, 32, 18, 31, 1, .w1s, 0, some 0⟩
def MBX.Q_CNT.SENT : Fld := ⟨.mbx, 0x110, 32, 18, 16, 16, .rc, 0, none⟩
def MBX.Q_CNT.WITHDRAWN : Fld := ⟨.mbx, 0x110, 32, 18, 8, 8, .rc, 0, none⟩
def MBX.Q_CNT.OVERFLOW : Fld := ⟨.mbx, 0x110, 32, 18, 4, 4, .rc, 0, none⟩
def MBX.Q_CNT.BAD : Fld := ⟨.mbx, 0x110, 32, 18, 0, 4, .rc, 0, none⟩

/-- The fields of MBX (R469). -/
def MBX.fields : List Fld :=
  [MBX.MBX_CTL.WAKE_EN, MBX.WAIT_WARN.MS, MBX.ROUTE_WIN.EVENT, MBX.ROUTE_DATA.EN, MBX.ROUTE_DATA.WAKE, MBX.ROUTE_DATA.CORE, MBX.ROUTE_DATA.PRIO, MBX.CLAIM.NONE, MBX.CLAIM.EVENT, MBX.OUT_DATA.WORD, MBX.IN_DATA.WORD, MBX.Q_STAT.IN_WORDS] ++
  [MBX.Q_STAT.OUT_WORDS, MBX.Q_STAT.OUT_PART, MBX.Q_STAT.WAITING, MBX.OUT_CTL.WITHDRAW, MBX.Q_CNT.SENT, MBX.Q_CNT.WITHDRAWN, MBX.Q_CNT.OVERFLOW, MBX.Q_CNT.BAD]

/-! NVS: the table of R496. -/

def NVS.NVS_CTL.SLOT1_CLOSE : Fld := ⟨.nvs, 0x040, 0, 1, 1, 1, .kgo, 0, some 0⟩
def NVS.NVS_CTL.SCAN : Fld := ⟨.nvs, 0x040, 0, 1, 0, 1, .w1s, 0, some 0⟩
def NVS.NVS_STAT.RESULT : Fld := ⟨.nvs, 0x044, 0, 1, 28, 4, .ro, 0, some 0⟩
def NVS.NVS_STAT.OWNER : Fld := ⟨.nvs, 0x044, 0, 1, 26, 2, .ro, 0, some 0⟩
def NVS.NVS_STAT.SEQ_OPEN : Fld := ⟨.nvs, 0x044, 0, 1, 25, 1, .ro, 0, some 0⟩
def NVS.NVS_STAT.SCANNING : Fld := ⟨.nvs, 0x044, 0, 1, 24, 1, .ro, 0, some 0⟩
def NVS.NVS_STAT.PENDING : Fld := ⟨.nvs, 0x044, 0, 1, 23, 1, .ro, 0, some 0⟩
def NVS.NVS_STAT.BUSY : Fld := ⟨.nvs, 0x044, 0, 1, 22, 1, .ro, 0, some 0⟩
def NVS.NVS_KEY.KEY : Fld := ⟨.nvs, 0x048, 0, 1, 0, 32, .wo, 0, some 0⟩
def NVS.NVS_CMD.OP : Fld := ⟨.nvs, 0x04C, 0, 1, 0, 4, .wo, 0, some 0⟩
def NVS.NVS_ADDR.WORD : Fld := ⟨.nvs, 0x050, 0, 1, 0, 21, .rw, 0, some 0⟩
def NVS.NVS_DATA.DATA : Fld := ⟨.nvs, 0x054, 4, 8, 0, 32, .wo, 0, some 0⟩
def NVS.RD_ADDR.MARGIN : Fld := ⟨.nvs, 0x074, 0, 1, 21, 2, .rw, 0, some 0⟩
def NVS.RD_ADDR.WORD : Fld := ⟨.nvs, 0x074, 0, 1, 0, 21, .rw, 0, some 0⟩
def NVS.RD_DATA.DATA : Fld := ⟨.nvs, 0x078, 4, 8, 0, 32, .ro, 0, some 0⟩
def NVS.RD_STAT.BLANK : Fld := ⟨.nvs, 0x098, 0, 1, 2, 1, .ro, 0, some 0⟩
def NVS.RD_STAT.ECC : Fld := ⟨.nvs, 0x098, 0, 1, 0, 2, .ro, 0, some 0⟩
def NVS.XFER_SRC.WORD : Fld := ⟨.nvs, 0x09C, 0, 1, 0, 21, .rw, 0, some 0⟩
def NVS.XFER_DST.ADDR : Fld := ⟨.nvs, 0x0A0, 0, 1, 0, 32, .rw, 0, some 0⟩
def NVS.XFER_CTL.GO : Fld := ⟨.nvs, 0x0A4, 0, 1, 31, 1, .w1s, 0, some 0⟩
def NVS.XFER_CTL.BUSY : Fld := ⟨.nvs, 0x0A4, 0, 1, 30, 1, .ro, 0, some 0⟩
def NVS.XFER_CTL.RESULT : Fld := ⟨.nvs, 0x0A4, 0, 1, 28, 2, .ro, 0, some 0⟩
def NVS.XFER_CTL.DST_TCM : Fld := ⟨.nvs, 0x0A4, 0, 1, 24, 1, .rw, 0, some 0⟩
def NVS.XFER_CTL.WORDS : Fld := ⟨.nvs, 0x0A4, 0, 1, 0, 16, .rw, 0, some 0⟩
def NVS.UNIT_WIN.UNIT : Fld := ⟨.nvs, 0x0A8, 0, 1, 0, 10, .rw, 0, some 0⟩
def NVS.UNIT_INFO.HALF : Fld := ⟨.nvs, 0x0AC, 0, 1, 31, 1, .ro, 0, none⟩
def NVS.UNIT_INFO.COMPLETE : Fld := ⟨.nvs, 0x0AC, 0, 1, 30, 1, .ro, 0, none⟩
def NVS.UNIT_INFO.ERASES : Fld := ⟨.nvs, 0x0AC, 0, 1, 0, 22, .ro, 0, none⟩
def NVS.JOURNAL.ACTIVE : Fld := ⟨.nvs, 0x0B0, 0, 1, 24, 1, .ro, 0, none⟩
def NVS.JOURNAL.NEXT : Fld := ⟨.nvs, 0x0B0, 0, 1, 0, 11, .ro, 0, none⟩
def NVS.JSEQ.SEQ : Fld := ⟨.nvs, 0x0B4, 0, 1, 0, 32, .ro, 0, none⟩
def NVS.WEAR_CFG.WEAR_WARN : Fld := ⟨.nvs, 0x0B8, 0, 1, 0, 22, .rw, 90000, none⟩
def NVS.WEAR_STAT.UNIT : Fld := ⟨.nvs, 0x0BC, 0, 1, 22, 10, .ro, 0, none⟩
def NVS.WEAR_STAT.COUNT : Fld := ⟨.nvs, 0x0BC, 0, 1, 0, 22, .ro, 0, none⟩
def NVS.ERR_CNT.CORR : Fld := ⟨.nvs, 0x0C0, 0, 1, 16, 16, .rc, 0, none⟩
def NVS.ERR_CNT.UNCORR : Fld := ⟨.nvs, 0x0C0, 0, 1, 0, 16, .rc, 0, none⟩
def NVS.REFUSE_CNT.OTHER : Fld := ⟨.nvs, 0x0C4, 0, 1, 24, 8, .rc, 0, none⟩
def NVS.REFUSE_CNT.VERIFY_FAIL : Fld := ⟨.nvs, 0x0C4, 0, 1, 16, 8, .rc, 0, none⟩
def NVS.REFUSE_CNT.NOT_BLANK : Fld := ⟨.nvs, 0x0C4, 0, 1, 8, 8, .rc, 0, none⟩
def NVS.REFUSE_CNT.SEQ_ERR : Fld := ⟨.nvs, 0x0C4, 0, 1, 0, 8, .rc, 0, none⟩
def NVS.HALF_CNT.UNITS : Fld := ⟨.nvs, 0x0C8, 0, 1, 0, 11, .ro, 0, none⟩
def NVS.SERIAL.SERIAL : Fld := ⟨.nvs, 0x0D0, 4, 4, 0, 32, .ro, 0, some 0⟩
def NVS.PCI_ID.DEVICE : Fld := ⟨.nvs, 0x0E0, 0, 1, 16, 16, .ro, 0, some 0⟩
def NVS.PCI_ID.VENDOR : Fld := ⟨.nvs, 0x0E0, 0, 1, 0, 16, .ro, 0, some 0⟩
def NVS.LOCK_STAT.SLOT1_OPEN : Fld := ⟨.nvs, 0x0E4, 0, 1, 9, 1, .ro, 0, some 0⟩
def NVS.LOCK_STAT.LOWERING : Fld := ⟨.nvs, 0x0E4, 0, 1, 8, 1, .ro, 0, some 0⟩
def NVS.LOCK_STAT.LEVEL : Fld := ⟨.nvs, 0x0E4, 0, 1, 0, 2, .ro, 0, some 0⟩

/-- The fields of NVS (R496). -/
def NVS.fields : List Fld :=
  [NVS.NVS_CTL.SLOT1_CLOSE, NVS.NVS_CTL.SCAN, NVS.NVS_STAT.RESULT, NVS.NVS_STAT.OWNER, NVS.NVS_STAT.SEQ_OPEN, NVS.NVS_STAT.SCANNING, NVS.NVS_STAT.PENDING, NVS.NVS_STAT.BUSY, NVS.NVS_KEY.KEY, NVS.NVS_CMD.OP, NVS.NVS_ADDR.WORD, NVS.NVS_DATA.DATA] ++
  [NVS.RD_ADDR.MARGIN, NVS.RD_ADDR.WORD, NVS.RD_DATA.DATA, NVS.RD_STAT.BLANK, NVS.RD_STAT.ECC, NVS.XFER_SRC.WORD, NVS.XFER_DST.ADDR, NVS.XFER_CTL.GO, NVS.XFER_CTL.BUSY, NVS.XFER_CTL.RESULT, NVS.XFER_CTL.DST_TCM, NVS.XFER_CTL.WORDS] ++
  [NVS.UNIT_WIN.UNIT, NVS.UNIT_INFO.HALF, NVS.UNIT_INFO.COMPLETE, NVS.UNIT_INFO.ERASES, NVS.JOURNAL.ACTIVE, NVS.JOURNAL.NEXT, NVS.JSEQ.SEQ, NVS.WEAR_CFG.WEAR_WARN, NVS.WEAR_STAT.UNIT, NVS.WEAR_STAT.COUNT, NVS.ERR_CNT.CORR, NVS.ERR_CNT.UNCORR] ++
  [NVS.REFUSE_CNT.OTHER, NVS.REFUSE_CNT.VERIFY_FAIL, NVS.REFUSE_CNT.NOT_BLANK, NVS.REFUSE_CNT.SEQ_ERR, NVS.HALF_CNT.UNITS, NVS.SERIAL.SERIAL, NVS.PCI_ID.DEVICE, NVS.PCI_ID.VENDOR, NVS.LOCK_STAT.SLOT1_OPEN, NVS.LOCK_STAT.LOWERING, NVS.LOCK_STAT.LEVEL]

/-! EVR: the table of R498. -/

def EVR.EVR_CTL.RECLAIM : Fld := ⟨.evr, 0x040, 0, 1, 31, 1, .w1s, 0, some 0⟩
def EVR.EVR_CTL.AUTO_RECLAIM : Fld := ⟨.evr, 0x040, 0, 1, 8, 1, .rw, 1, none⟩
def EVR.EVR_CTL.STAGE_EN : Fld := ⟨.evr, 0x040, 0, 1, 1, 1, .rw, 0, none⟩
def EVR.EVR_CTL.COMMIT_EN : Fld := ⟨.evr, 0x040, 0, 1, 0, 1, .rw, 1, none⟩
def EVR.EVR_STAT.READY : Fld := ⟨.evr, 0x044, 0, 1, 18, 1, .ro, 0, none⟩
def EVR.EVR_STAT.LOADED : Fld := ⟨.evr, 0x044, 0, 1, 17, 1, .ro, 0, none⟩
def EVR.EVR_STAT.COMMITTING : Fld := ⟨.evr, 0x044, 0, 1, 16, 1, .ro, 0, some 0⟩
def EVR.EVR_STAT.STAGED : Fld := ⟨.evr, 0x044, 0, 1, 0, 16, .ro, 0, none⟩
def EVR.SECONDS_LO.SECONDS : Fld := ⟨.evr, 0x048, 0, 1, 0, 32, .kp, 0, none⟩
def EVR.SECONDS_HI.SECONDS : Fld := ⟨.evr, 0x04C, 0, 1, 0, 8, .kp, 0, none⟩
def EVR.CYCLES.COUNT : Fld := ⟨.evr, 0x050, 0, 1, 0, 32, .kp, 0, none⟩
def EVR.SEQ_NEXT.SEQ : Fld := ⟨.evr, 0x054, 0, 1, 0, 32, .ro, 0, none⟩
def EVR.STAGE_BASE.ADDR : Fld := ⟨.evr, 0x058, 0, 1, 0, 32, .rw, 0, none⟩
def EVR.STAGE_CFG.COMMIT_MS : Fld := ⟨.evr, 0x05C, 0, 1, 16, 16, .rw, 1000, none⟩
def EVR.STAGE_CFG.COMMIT_CNT : Fld := ⟨.evr, 0x05C, 0, 1, 8, 8, .rw, 16, none⟩
def EVR.STAGE_CFG.LOG2 : Fld := ⟨.evr, 0x05C, 0, 1, 0, 5, .rw, 12, none⟩
def EVR.REGION.FIRST : Fld := ⟨.evr, 0x060, 0, 1, 16, 10, .rw, 642, none⟩
def EVR.REGION.UNITS : Fld := ⟨.evr, 0x060, 0, 1, 0, 10, .rw, 32, none⟩
def EVR.HEAD.UNIT : Fld := ⟨.evr, 0x064, 0, 1, 16, 10, .ro, 0, none⟩
def EVR.HEAD.WORD : Fld := ⟨.evr, 0x064, 0, 1, 0, 11, .ro, 0, none⟩
def EVR.OLDEST.SEQ : Fld := ⟨.evr, 0x068, 0, 1, 0, 32, .ro, 0, none⟩
def EVR.NEWEST.SEQ : Fld := ⟨.evr, 0x06C, 0, 1, 0, 32, .ro, 0, none⟩
def EVR.LOG_DATA.DATA : Fld := ⟨.evr, 0x070, 4, 3, 0, 32, .rw, 0, some 0⟩
def EVR.LOG_CMD.GO : Fld := ⟨.evr, 0x07C, 0, 1, 31, 1, .w1s, 0, some 0⟩
def EVR.LOG_CMD.LEVEL : Fld := ⟨.evr, 0x07C, 0, 1, 16, 3, .rw, 7, some 7⟩
def EVR.LOG_CMD.CODE : Fld := ⟨.evr, 0x07C, 0, 1, 0, 16, .rw, 0, some 0⟩
def EVR.REC_WIN.WORD : Fld := ⟨.evr, 0x080, 0, 1, 0, 4, .rw, 0, some 0⟩
def EVR.REC_DATA.MASK : Fld := ⟨.evr, 0x084, 0, 1, 0, 32, .rw, 4294967295, none⟩
def EVR.DROP_CNT.LOST : Fld := ⟨.evr, 0x088, 0, 1, 16, 16, .rc, 0, none⟩
def EVR.DROP_CNT.DROPPED : Fld := ⟨.evr, 0x088, 0, 1, 0, 16, .rc, 0, none⟩
def EVR.RECLAIM_MARK.SEQ : Fld := ⟨.evr, 0x08C, 0, 1, 0, 32, .rw, 0, none⟩
def EVR.RECLAIM_CFG.AHEAD : Fld := ⟨.evr, 0x090, 0, 1, 0, 4, .rw, 2, none⟩

/-- The fields of EVR (R498). -/
def EVR.fields : List Fld :=
  [EVR.EVR_CTL.RECLAIM, EVR.EVR_CTL.AUTO_RECLAIM, EVR.EVR_CTL.STAGE_EN, EVR.EVR_CTL.COMMIT_EN, EVR.EVR_STAT.READY, EVR.EVR_STAT.LOADED, EVR.EVR_STAT.COMMITTING, EVR.EVR_STAT.STAGED, EVR.SECONDS_LO.SECONDS, EVR.SECONDS_HI.SECONDS, EVR.CYCLES.COUNT, EVR.SEQ_NEXT.SEQ] ++
  [EVR.STAGE_BASE.ADDR, EVR.STAGE_CFG.COMMIT_MS, EVR.STAGE_CFG.COMMIT_CNT, EVR.STAGE_CFG.LOG2, EVR.REGION.FIRST, EVR.REGION.UNITS, EVR.HEAD.UNIT, EVR.HEAD.WORD, EVR.OLDEST.SEQ, EVR.NEWEST.SEQ, EVR.LOG_DATA.DATA, EVR.LOG_CMD.GO] ++
  [EVR.LOG_CMD.LEVEL, EVR.LOG_CMD.CODE, EVR.REC_WIN.WORD, EVR.REC_DATA.MASK, EVR.DROP_CNT.LOST, EVR.DROP_CNT.DROPPED, EVR.RECLAIM_MARK.SEQ, EVR.RECLAIM_CFG.AHEAD]

/-! CLK: the table of R513. -/

def CLK.CLK_CTL.THROTTLE_EN : Fld := ⟨.clk, 0x040, 0, 1, 2, 1, .rw, 1, none⟩
def CLK.CLK_CTL.AVS_EN : Fld := ⟨.clk, 0x040, 0, 1, 1, 1, .rw, 1, none⟩
def CLK.CLK_CTL.XO_EN : Fld := ⟨.clk, 0x040, 0, 1, 0, 1, .rw, 1, none⟩
def CLK.CLK_STAT.THROTTLED : Fld := ⟨.clk, 0x044, 0, 1, 31, 1, .ro, 0, some 0⟩
def CLK.CLK_STAT.AVS_LIMIT : Fld := ⟨.clk, 0x044, 0, 1, 30, 1, .ro, 0, none⟩
def CLK.CLK_STAT.EMERG : Fld := ⟨.clk, 0x044, 0, 1, 29, 1, .ro, 0, some 0⟩
def CLK.XO_CFG.SENSOR : Fld := ⟨.clk, 0x048, 0, 1, 16, 6, .rw, 28, none⟩
def CLK.XO_CFG.SLEW : Fld := ⟨.clk, 0x048, 0, 1, 0, 16, .rw, 50, none⟩
def CLK.XO_CORR.PPB : Fld := ⟨.clk, 0x04C, 0, 1, 0, 24, .ro, 0, none⟩
def CLK.XO_TAB.PPB : Fld := ⟨.clk, 0x050, 4, 9, 0, 16, .rw, 0, none⟩
def CLK.AVS_CFG.TARGET : Fld := ⟨.clk, 0x074, 0, 1, 24, 8, .rw, 12, none⟩
def CLK.AVS_CFG.HYST : Fld := ⟨.clk, 0x074, 0, 1, 16, 8, .rw, 2, none⟩
def CLK.AVS_CFG.FLOOR : Fld := ⟨.clk, 0x074, 0, 1, 8, 8, .rw, 4, none⟩
def CLK.AVS_CFG.STEP_MV : Fld := ⟨.clk, 0x074, 0, 1, 0, 8, .rw, 5, none⟩
def CLK.AVS_LIM.VMAX : Fld := ⟨.clk, 0x078, 0, 1, 16, 10, .rw, 900, none⟩
def CLK.AVS_LIM.VMIN : Fld := ⟨.clk, 0x078, 0, 1, 0, 10, .rw, 550, none⟩
def CLK.AVS_STAT.VSET : Fld := ⟨.clk, 0x07C, 0, 1, 16, 10, .ro, 750, none⟩
def CLK.AVS_STAT.MARGIN : Fld := ⟨.clk, 0x07C, 0, 1, 0, 8, .ro, 0, some 0⟩
def CLK.CLK_CNT.AVS_UP : Fld := ⟨.clk, 0x080, 0, 1, 16, 16, .rc, 0, none⟩
def CLK.CLK_CNT.EMERG : Fld := ⟨.clk, 0x080, 0, 1, 8, 8, .rc, 0, none⟩
def CLK.CLK_CNT.THROTTLE : Fld := ⟨.clk, 0x080, 0, 1, 0, 8, .rc, 0, none⟩

/-- The fields of CLK (R513). -/
def CLK.fields : List Fld :=
  [CLK.CLK_CTL.THROTTLE_EN, CLK.CLK_CTL.AVS_EN, CLK.CLK_CTL.XO_EN, CLK.CLK_STAT.THROTTLED, CLK.CLK_STAT.AVS_LIMIT, CLK.CLK_STAT.EMERG, CLK.XO_CFG.SENSOR, CLK.XO_CFG.SLEW, CLK.XO_CORR.PPB, CLK.XO_TAB.PPB, CLK.AVS_CFG.TARGET, CLK.AVS_CFG.HYST] ++
  [CLK.AVS_CFG.FLOOR, CLK.AVS_CFG.STEP_MV, CLK.AVS_LIM.VMAX, CLK.AVS_LIM.VMIN, CLK.AVS_STAT.VSET, CLK.AVS_STAT.MARGIN, CLK.CLK_CNT.AVS_UP, CLK.CLK_CNT.EMERG, CLK.CLK_CNT.THROTTLE]

/-! TMP: the table of R527. -/

def TMP.TMP_CTL.XCHK_LIM : Fld := ⟨.tmp, 0x040, 0, 1, 24, 8, .rw, 6, none⟩
def TMP.TMP_CTL.NEAR_BAND : Fld := ⟨.tmp, 0x040, 0, 1, 16, 8, .rw, 10, none⟩
def TMP.TMP_CTL.HS_LIM : Fld := ⟨.tmp, 0x040, 0, 1, 8, 8, .rw, 25, none⟩
def TMP.TMP_CTL.CONFIRM : Fld := ⟨.tmp, 0x040, 0, 1, 0, 4, .rw, 3, none⟩
def TMP.TMP_STAT.FAST : Fld := ⟨.tmp, 0x044, 0, 1, 31, 1, .ro, 0, some 0⟩
def TMP.TMP_STAT.HOTTEST : Fld := ⟨.tmp, 0x044, 0, 1, 24, 6, .ro, 0, some 0⟩
def TMP.TMP_STAT.COMPOSITE : Fld := ⟨.tmp, 0x044, 0, 1, 0, 16, .ro, 0, some 0⟩
def TMP.HOT_LIM.CRIT : Fld := ⟨.tmp, 0x048, 0, 1, 16, 16, .rw, 7680, none⟩
def TMP.HOT_LIM.WARN : Fld := ⟨.tmp, 0x048, 0, 1, 0, 16, .rw, 6720, none⟩
def TMP.EDGE_LIM.TRIP : Fld := ⟨.tmp, 0x04C, 0, 1, 16, 16, .rw, 8320, none⟩
def TMP.EDGE_LIM.COLD : Fld := ⟨.tmp, 0x04C, 0, 1, 0, 16, .rw, 62976, none⟩
def TMP.SUSPECT0.SUSPECT : Fld := ⟨.tmp, 0x050, 0, 1, 0, 32, .w1c, 0, none⟩
def TMP.SUSPECT1.SUSPECT : Fld := ⟨.tmp, 0x054, 0, 1, 0, 10, .w1c, 0, none⟩
def TMP.SENS_WIN.SENSOR : Fld := ⟨.tmp, 0x058, 0, 1, 0, 6, .rw, 0, some 0⟩
def TMP.SENS_DATA.MEDIAN : Fld := ⟨.tmp, 0x05C, 0, 1, 16, 16, .ro, 0, some 0⟩
def TMP.SENS_DATA.VALUE : Fld := ⟨.tmp, 0x05C, 0, 1, 0, 16, .ro, 0, some 0⟩
def TMP.SENS_OFS.OFFSET : Fld := ⟨.tmp, 0x060, 0, 1, 0, 16, .rw, 0, none⟩
def TMP.HS_TEMP.PIVOT1 : Fld := ⟨.tmp, 0x064, 0, 1, 16, 16, .ro, 0, some 0⟩
def TMP.HS_TEMP.PIVOT0 : Fld := ⟨.tmp, 0x064, 0, 1, 0, 16, .ro, 0, some 0⟩
def TMP.HS_CFG.SRC : Fld := ⟨.tmp, 0x068, 0, 1, 16, 4, .ro, 0, some 0⟩
def TMP.HS_CFG.HS_OFS : Fld := ⟨.tmp, 0x068, 0, 1, 0, 16, .rw, 320, none⟩
def TMP.THERM_RAW.TH1 : Fld := ⟨.tmp, 0x06C, 0, 1, 16, 12, .ro, 0, some 0⟩
def TMP.THERM_RAW.TH0 : Fld := ⟨.tmp, 0x06C, 0, 1, 0, 12, .ro, 0, some 0⟩
def TMP.THERM_TAB.CODE : Fld := ⟨.tmp, 0x070, 4, 17, 16, 12, .rw, 0, none⟩
def TMP.THERM_TAB.TEMP : Fld := ⟨.tmp, 0x070, 4, 17, 0, 16, .rw, 0, none⟩
def TMP.TMP_CNT.SUSPECTS : Fld := ⟨.tmp, 0x0B4, 0, 1, 16, 16, .rc, 0, none⟩
def TMP.TMP_CNT.FAST : Fld := ⟨.tmp, 0x0B4, 0, 1, 0, 16, .rc, 0, none⟩

/-- The fields of TMP (R527). -/
def TMP.fields : List Fld :=
  [TMP.TMP_CTL.XCHK_LIM, TMP.TMP_CTL.NEAR_BAND, TMP.TMP_CTL.HS_LIM, TMP.TMP_CTL.CONFIRM, TMP.TMP_STAT.FAST, TMP.TMP_STAT.HOTTEST, TMP.TMP_STAT.COMPOSITE, TMP.HOT_LIM.CRIT, TMP.HOT_LIM.WARN, TMP.EDGE_LIM.TRIP, TMP.EDGE_LIM.COLD, TMP.SUSPECT0.SUSPECT] ++
  [TMP.SUSPECT1.SUSPECT, TMP.SENS_WIN.SENSOR, TMP.SENS_DATA.MEDIAN, TMP.SENS_DATA.VALUE, TMP.SENS_OFS.OFFSET, TMP.HS_TEMP.PIVOT1, TMP.HS_TEMP.PIVOT0, TMP.HS_CFG.SRC, TMP.HS_CFG.HS_OFS, TMP.THERM_RAW.TH1, TMP.THERM_RAW.TH0, TMP.THERM_TAB.CODE] ++
  [TMP.THERM_TAB.TEMP, TMP.TMP_CNT.SUSPECTS, TMP.TMP_CNT.FAST]

/-! CAL: the table of R529. -/

def CAL.CAL_CTL.PASS_LEAD : Fld := ⟨.cal, 0x040, 0, 1, 24, 8, .rw, 64, none⟩
def CAL.CAL_CTL.RECAL_DT : Fld := ⟨.cal, 0x040, 0, 1, 16, 8, .rw, 16, none⟩
def CAL.CAL_CTL.MON : Fld := ⟨.cal, 0x040, 0, 1, 2, 1, .rw, 1, none⟩
def CAL.CAL_CTL.TRAIN : Fld := ⟨.cal, 0x040, 0, 1, 1, 1, .rw, 1, none⟩
def CAL.CAL_CTL.PASS : Fld := ⟨.cal, 0x040, 0, 1, 0, 1, .rw, 1, none⟩
def CAL.CAL_STAT.PENDING : Fld := ⟨.cal, 0x044, 0, 1, 30, 2, .ro, 0, some 0⟩
def CAL.CAL_STAT.LAST_HEAD : Fld := ⟨.cal, 0x044, 0, 1, 24, 5, .ro, 0, some 0⟩
def CAL.SET_BASE.ADDR : Fld := ⟨.cal, 0x048, 0, 1, 0, 32, .rw, 0, none⟩
def CAL.OUT_BASE.ADDR : Fld := ⟨.cal, 0x04C, 0, 1, 0, 32, .rw, 0, none⟩
def CAL.HEAD_EN.EN : Fld := ⟨.cal, 0x050, 0, 1, 0, 32, .rw, 0, none⟩
def CAL.HEAD_WIN.HEAD : Fld := ⟨.cal, 0x054, 0, 1, 0, 5, .rw, 0, some 0⟩
def CAL.HEAD_T.LAST_T : Fld := ⟨.cal, 0x058, 0, 1, 0, 16, .ro, 0, none⟩
def CAL.HEAD_W.W : Fld := ⟨.cal, 0x05C, 0, 1, 0, 17, .ro, 0, none⟩
def CAL.HEAD_EST.DFH : Fld := ⟨.cal, 0x060, 0, 1, 16, 16, .ro, 0, none⟩
def CAL.HEAD_EST.GAIN_VFY : Fld := ⟨.cal, 0x060, 0, 1, 0, 8, .ro, 0, none⟩
def CAL.TRAIN_CFG.TRAIN_N : Fld := ⟨.cal, 0x064, 0, 1, 16, 16, .rw, 256, none⟩
def CAL.TRAIN_CFG.MU_SHIFT : Fld := ⟨.cal, 0x064, 0, 1, 0, 5, .rw, 12, none⟩
def CAL.MON_CFG.AMP_BAND : Fld := ⟨.cal, 0x068, 0, 1, 24, 8, .rw, 8, none⟩
def CAL.MON_CFG.FH_LIM : Fld := ⟨.cal, 0x068, 0, 1, 16, 8, .rw, 10, none⟩
def CAL.MON_CFG.STEP : Fld := ⟨.cal, 0x068, 0, 1, 8, 8, .rw, 2, none⟩
def CAL.MON_CFG.AVG_SHIFT : Fld := ⟨.cal, 0x068, 0, 1, 0, 4, .rw, 4, none⟩
def CAL.FAIL_CFG.WINDOW : Fld := ⟨.cal, 0x06C, 0, 1, 16, 16, .rw, 1024, none⟩
def CAL.FAIL_CFG.FAIL_PCT : Fld := ⟨.cal, 0x06C, 0, 1, 0, 8, .rw, 20, none⟩
def CAL.FREEZE.HEADS : Fld := ⟨.cal, 0x070, 0, 1, 0, 32, .w1c, 0, none⟩
def CAL.DELTA_CLR.HEADS : Fld := ⟨.cal, 0x074, 0, 1, 0, 32, .w1s, 0, some 0⟩
def CAL.TRIAL_CNT.ACCEPTED : Fld := ⟨.cal, 0x078, 0, 1, 16, 16, .rc, 0, none⟩
def CAL.TRIAL_CNT.REJECTED : Fld := ⟨.cal, 0x078, 0, 1, 0, 16, .rc, 0, none⟩
def CAL.CAL_CNT.PASSES : Fld := ⟨.cal, 0x07C, 0, 1, 16, 16, .rc, 0, none⟩
def CAL.CAL_CNT.LATE : Fld := ⟨.cal, 0x07C, 0, 1, 8, 8, .rc, 0, none⟩
def CAL.CAL_CNT.CRC_ERR : Fld := ⟨.cal, 0x07C, 0, 1, 0, 8, .rc, 0, none⟩

/-- The fields of CAL (R529). -/
def CAL.fields : List Fld :=
  [CAL.CAL_CTL.PASS_LEAD, CAL.CAL_CTL.RECAL_DT, CAL.CAL_CTL.MON, CAL.CAL_CTL.TRAIN, CAL.CAL_CTL.PASS, CAL.CAL_STAT.PENDING, CAL.CAL_STAT.LAST_HEAD, CAL.SET_BASE.ADDR, CAL.OUT_BASE.ADDR, CAL.HEAD_EN.EN, CAL.HEAD_WIN.HEAD, CAL.HEAD_T.LAST_T] ++
  [CAL.HEAD_W.W, CAL.HEAD_EST.DFH, CAL.HEAD_EST.GAIN_VFY, CAL.TRAIN_CFG.TRAIN_N, CAL.TRAIN_CFG.MU_SHIFT, CAL.MON_CFG.AMP_BAND, CAL.MON_CFG.FH_LIM, CAL.MON_CFG.STEP, CAL.MON_CFG.AVG_SHIFT, CAL.FAIL_CFG.WINDOW, CAL.FAIL_CFG.FAIL_PCT, CAL.FREEZE.HEADS] ++
  [CAL.DELTA_CLR.HEADS, CAL.TRIAL_CNT.ACCEPTED, CAL.TRIAL_CNT.REJECTED, CAL.CAL_CNT.PASSES, CAL.CAL_CNT.LATE, CAL.CAL_CNT.CRC_ERR]

/-! SEC: the table of R549. -/

def SEC.SEC_STAT.BOOT_SLOT : Fld := ⟨.sec, 0x040, 0, 1, 24, 4, .ro, 0, none⟩
def SEC.SEC_STAT.UNLOCK_OK : Fld := ⟨.sec, 0x040, 0, 1, 8, 1, .ro, 0, some 0⟩
def SEC.SEC_STAT.ALIAS_READY : Fld := ⟨.sec, 0x040, 0, 1, 4, 1, .ro, 0, none⟩
def SEC.SEC_STAT.ENG_BUSY : Fld := ⟨.sec, 0x040, 0, 1, 0, 1, .ro, 0, some 0⟩
def SEC.ENT_STAT.FAIL : Fld := ⟨.sec, 0x044, 0, 1, 31, 1, .ro, 0, none⟩
def SEC.ENT_STAT.HEALTH_CNT : Fld := ⟨.sec, 0x044, 0, 1, 0, 16, .rc, 0, none⟩
def SEC.ROOT_STAT.REVOKED : Fld := ⟨.sec, 0x048, 0, 1, 0, 4, .ro, 0, some 0⟩
def SEC.GRANT_WIN.COUNT : Fld := ⟨.sec, 0x04C, 0, 1, 16, 14, .rw, 0, some 0⟩
def SEC.GRANT_WIN.PAGE : Fld := ⟨.sec, 0x04C, 0, 1, 0, 14, .rw, 0, some 0⟩
def SEC.GRANT_DATA.MASK : Fld := ⟨.sec, 0x050, 0, 1, 0, 8, .kp, 17, none⟩
def SEC.DENY_CNT.GRANT : Fld := ⟨.sec, 0x054, 0, 1, 16, 16, .rc, 0, none⟩
def SEC.DENY_CNT.KP : Fld := ⟨.sec, 0x054, 0, 1, 0, 16, .rc, 0, none⟩
def SEC.DENY_LAST.CLASS : Fld := ⟨.sec, 0x058, 0, 1, 28, 4, .ro, 0, none⟩
def SEC.DENY_LAST.PAGE : Fld := ⟨.sec, 0x058, 0, 1, 0, 14, .ro, 0, none⟩
def SEC.CHANGE_CNT.COUNT : Fld := ⟨.sec, 0x05C, 0, 1, 0, 32, .ro, 0, none⟩
def SEC.MIN_SVN.SVN : Fld := ⟨.sec, 0x060, 4, 7, 0, 6, .ro, 0, some 0⟩
def SEC.SVN_RAISE.GO : Fld := ⟨.sec, 0x07C, 0, 1, 31, 1, .kgo, 0, some 0⟩
def SEC.SVN_RAISE.RESULT : Fld := ⟨.sec, 0x07C, 0, 1, 28, 2, .ro, 0, some 0⟩
def SEC.SVN_RAISE.KIND : Fld := ⟨.sec, 0x07C, 0, 1, 24, 3, .kp, 0, some 0⟩
def SEC.SVN_RAISE.SVN : Fld := ⟨.sec, 0x07C, 0, 1, 0, 6, .kp, 0, some 0⟩
def SEC.MEAS_WIN.BANK : Fld := ⟨.sec, 0x080, 0, 1, 3, 2, .rw, 0, some 0⟩
def SEC.MEAS_WIN.WORD : Fld := ⟨.sec, 0x080, 0, 1, 0, 3, .rw, 0, some 0⟩
def SEC.MEAS_DATA.DATA : Fld := ⟨.sec, 0x084, 0, 1, 0, 32, .kp, 0, some 0⟩
def SEC.MEAS_CMD.EXTEND : Fld := ⟨.sec, 0x088, 0, 1, 31, 1, .kgo, 0, some 0⟩
def SEC.KEY_ADDR.ADDR : Fld := ⟨.sec, 0x08C, 0, 1, 0, 32, .rw, 0, some 0⟩
def SEC.KEY_CMD.GO : Fld := ⟨.sec, 0x090, 0, 1, 31, 1, .kgo, 0, some 0⟩
def SEC.KEY_CMD.BUSY : Fld := ⟨.sec, 0x090, 0, 1, 30, 1, .ro, 0, some 0⟩
def SEC.KEY_CMD.RESULT : Fld := ⟨.sec, 0x090, 0, 1, 28, 2, .ro, 0, some 0⟩
def SEC.KEY_CMD.OP : Fld := ⟨.sec, 0x090, 0, 1, 24, 2, .kp, 0, some 0⟩
def SEC.KEY_CMD.SLOT : Fld := ⟨.sec, 0x090, 0, 1, 0, 6, .kp, 0, some 0⟩
def SEC.KEY_VALID.VALID : Fld := ⟨.sec, 0x094, 4, 2, 0, 32, .ro, 0, none⟩
def SEC.NONCE.NONCE : Fld := ⟨.sec, 0x0A0, 4, 8, 0, 32, .ro, 0, some 0⟩
def SEC.UNLOCK_WIN.BYTE : Fld := ⟨.sec, 0x0C0, 0, 1, 0, 10, .rw, 0, some 0⟩
def SEC.UNLOCK_DATA.DATA : Fld := ⟨.sec, 0x0C4, 0, 1, 0, 32, .wo, 0, some 0⟩
def SEC.UNLOCK_CMD.NEW : Fld := ⟨.sec, 0x0C8, 0, 1, 31, 1, .w1s, 0, some 0⟩
def SEC.UNLOCK_CMD.CHECK : Fld := ⟨.sec, 0x0C8, 0, 1, 30, 1, .w1s, 0, some 0⟩
def SEC.UNLOCK_CMD.TARGET : Fld := ⟨.sec, 0x0C8, 0, 1, 0, 2, .rw, 0, some 0⟩

/-- The fields of SEC (R549). -/
def SEC.fields : List Fld :=
  [SEC.SEC_STAT.BOOT_SLOT, SEC.SEC_STAT.UNLOCK_OK, SEC.SEC_STAT.ALIAS_READY, SEC.SEC_STAT.ENG_BUSY, SEC.ENT_STAT.FAIL, SEC.ENT_STAT.HEALTH_CNT, SEC.ROOT_STAT.REVOKED, SEC.GRANT_WIN.COUNT, SEC.GRANT_WIN.PAGE, SEC.GRANT_DATA.MASK, SEC.DENY_CNT.GRANT, SEC.DENY_CNT.KP] ++
  [SEC.DENY_LAST.CLASS, SEC.DENY_LAST.PAGE, SEC.CHANGE_CNT.COUNT, SEC.MIN_SVN.SVN, SEC.SVN_RAISE.GO, SEC.SVN_RAISE.RESULT, SEC.SVN_RAISE.KIND, SEC.SVN_RAISE.SVN, SEC.MEAS_WIN.BANK, SEC.MEAS_WIN.WORD, SEC.MEAS_DATA.DATA, SEC.MEAS_CMD.EXTEND] ++
  [SEC.KEY_ADDR.ADDR, SEC.KEY_CMD.GO, SEC.KEY_CMD.BUSY, SEC.KEY_CMD.RESULT, SEC.KEY_CMD.OP, SEC.KEY_CMD.SLOT, SEC.KEY_VALID.VALID, SEC.NONCE.NONCE, SEC.UNLOCK_WIN.BYTE, SEC.UNLOCK_DATA.DATA, SEC.UNLOCK_CMD.NEW, SEC.UNLOCK_CMD.CHECK] ++
  [SEC.UNLOCK_CMD.TARGET]

/-! DOM: the table of R567. -/

def DOM.DOM_CTL.WARM : Fld := ⟨.dom, 0x040, 0, 1, 31, 1, .kgo, 0, some 0⟩
def DOM.DOM_CTL.START_OK : Fld := ⟨.dom, 0x040, 0, 1, 30, 1, .kgo, 0, some 0⟩
def DOM.DOM_CTL.FAIL_CLR : Fld := ⟨.dom, 0x040, 0, 1, 29, 1, .kgo, 0, some 0⟩
def DOM.DOM_STAT.START_KIND : Fld := ⟨.dom, 0x044, 0, 1, 30, 2, .ro, 0, some 0⟩
def DOM.DOM_STAT.FAIL_CNT : Fld := ⟨.dom, 0x044, 0, 1, 24, 4, .ro, 0, none⟩
def DOM.START_CFG.START_TIMEOUT : Fld := ⟨.dom, 0x048, 0, 1, 0, 16, .rw, 300, none⟩
def DOM.DOM_WIN.DOMAIN : Fld := ⟨.dom, 0x04C, 0, 1, 0, 7, .rw, 0, none⟩
def DOM.DOM_CMD.GO : Fld := ⟨.dom, 0x050, 0, 1, 31, 1, .kgo, 0, some 0⟩
def DOM.DOM_CMD.BUSY : Fld := ⟨.dom, 0x050, 0, 1, 30, 1, .ro, 0, some 0⟩
def DOM.DOM_CMD.RESULT : Fld := ⟨.dom, 0x050, 0, 1, 27, 3, .ro, 0, some 0⟩
def DOM.DOM_CMD.OP : Fld := ⟨.dom, 0x050, 0, 1, 24, 3, .kp, 0, some 0⟩
def DOM.DOM_STATE.POWER : Fld := ⟨.dom, 0x054, 0, 1, 16, 1, .ro, 1, none⟩
def DOM.DOM_STATE.EPOCH : Fld := ⟨.dom, 0x054, 0, 1, 8, 8, .ro, 0, none⟩
def DOM.DOM_STATE.STATE : Fld := ⟨.dom, 0x054, 0, 1, 0, 3, .ro, 0, none⟩
def DOM.DOM_CFG.EASY_LIMIT : Fld := ⟨.dom, 0x058, 0, 1, 16, 16, .rw, 1000, none⟩
def DOM.DOM_CFG.RST_MIN : Fld := ⟨.dom, 0x058, 0, 1, 0, 8, .rw, 10, none⟩
def DOM.BOOT_ADDR.ADDR : Fld := ⟨.dom, 0x05C, 0, 1, 0, 32, .rw, 0, none⟩
def DOM.POWER.ON : Fld := ⟨.dom, 0x060, 4, 3, 0, 32, .ro, 4294967295, none⟩
def DOM.HELD.HOLD : Fld := ⟨.dom, 0x06C, 4, 3, 0, 32, .ro, 0, none⟩
def DOM.IMG_ADDR.ADDR : Fld := ⟨.dom, 0x078, 0, 1, 0, 32, .rw, 0, none⟩
def DOM.IMG_CTL.GO : Fld := ⟨.dom, 0x07C, 0, 1, 31, 1, .kgo, 0, some 0⟩
def DOM.IMG_CTL.BUSY : Fld := ⟨.dom, 0x07C, 0, 1, 30, 1, .ro, 0, some 0⟩
def DOM.IMG_CTL.RESULT : Fld := ⟨.dom, 0x07C, 0, 1, 28, 2, .ro, 0, none⟩
def DOM.IMG_CTL.KIB : Fld := ⟨.dom, 0x07C, 0, 1, 0, 10, .rw, 0, none⟩
def DOM.IMG_EXPECT.EXPECT : Fld := ⟨.dom, 0x080, 4, 8, 0, 32, .kp, 0, none⟩
def DOM.DOM_CNT.RESETS : Fld := ⟨.dom, 0x0A0, 0, 1, 16, 16, .rc, 0, none⟩
def DOM.DOM_CNT.FORCED : Fld := ⟨.dom, 0x0A0, 0, 1, 8, 8, .rc, 0, none⟩
def DOM.DOM_CNT.EASY_TO : Fld := ⟨.dom, 0x0A0, 0, 1, 0, 8, .rc, 0, none⟩

/-- The fields of DOM (R567). -/
def DOM.fields : List Fld :=
  [DOM.DOM_CTL.WARM, DOM.DOM_CTL.START_OK, DOM.DOM_CTL.FAIL_CLR, DOM.DOM_STAT.START_KIND, DOM.DOM_STAT.FAIL_CNT, DOM.START_CFG.START_TIMEOUT, DOM.DOM_WIN.DOMAIN, DOM.DOM_CMD.GO, DOM.DOM_CMD.BUSY, DOM.DOM_CMD.RESULT, DOM.DOM_CMD.OP, DOM.DOM_STATE.POWER] ++
  [DOM.DOM_STATE.EPOCH, DOM.DOM_STATE.STATE, DOM.DOM_CFG.EASY_LIMIT, DOM.DOM_CFG.RST_MIN, DOM.BOOT_ADDR.ADDR, DOM.POWER.ON, DOM.HELD.HOLD, DOM.IMG_ADDR.ADDR, DOM.IMG_CTL.GO, DOM.IMG_CTL.BUSY, DOM.IMG_CTL.RESULT, DOM.IMG_CTL.KIB] ++
  [DOM.IMG_EXPECT.EXPECT, DOM.DOM_CNT.RESETS, DOM.DOM_CNT.FORCED, DOM.DOM_CNT.EASY_TO]

/-! RGT: the table of R584. -/

def RGT.RGT_CTL.TX_EN : Fld := ⟨.rgt, 0x040, 0, 1, 31, 1, .rw, 0, none⟩
def RGT.RGT_CTL.RX_EN : Fld := ⟨.rgt, 0x040, 0, 1, 30, 1, .rw, 0, none⟩
def RGT.RGT_CTL.LOCK_EN : Fld := ⟨.rgt, 0x040, 0, 1, 29, 1, .rw, 0, none⟩
def RGT.RGT_CTL.STARTER_EN : Fld := ⟨.rgt, 0x040, 0, 1, 28, 1, .rw, 0, none⟩
def RGT.RGT_CTL.ADDR : Fld := ⟨.rgt, 0x040, 0, 1, 0, 5, .rw, 0, none⟩
def RGT.RGT_STAT.ROLE : Fld := ⟨.rgt, 0x044, 0, 1, 29, 3, .ro, 0, none⟩
def RGT.RGT_STAT.SADDR : Fld := ⟨.rgt, 0x044, 0, 1, 24, 5, .ro, 0, none⟩
def RGT.RGT_STAT.LOCK : Fld := ⟨.rgt, 0x044, 0, 1, 22, 2, .ro, 0, none⟩
def RGT.RGT_STAT.STUCK : Fld := ⟨.rgt, 0x044, 0, 1, 0, 1, .ro, 0, none⟩
def RGT.SEL_CFG.LOSS_STROKES : Fld := ⟨.rgt, 0x048, 0, 1, 8, 8, .rw, 8, none⟩
def RGT.SEL_CFG.CLAIM_BASE : Fld := ⟨.rgt, 0x048, 0, 1, 0, 8, .rw, 64, none⟩
def RGT.PHASE_OFS.OFFSET : Fld := ⟨.rgt, 0x04C, 0, 1, 0, 21, .rw, 0, none⟩
def RGT.LOCK_CFG.LOCK_TOL : Fld := ⟨.rgt, 0x050, 0, 1, 16, 16, .rw, 256, none⟩
def RGT.LOCK_CFG.TRIM_MAX : Fld := ⟨.rgt, 0x050, 0, 1, 8, 8, .rw, 150, none⟩
def RGT.LOCK_CFG.KP_SHIFT : Fld := ⟨.rgt, 0x050, 0, 1, 0, 5, .rw, 12, none⟩
def RGT.PHASE_ERR.E : Fld := ⟨.rgt, 0x054, 0, 1, 0, 21, .ro, 0, none⟩
def RGT.TRIM.PPM : Fld := ⟨.rgt, 0x058, 0, 1, 0, 16, .ro, 0, none⟩
def RGT.TX_CFG.TX_MIN : Fld := ⟨.rgt, 0x05C, 0, 1, 16, 16, .rw, 256, none⟩
def RGT.TX_CFG.D2 : Fld := ⟨.rgt, 0x05C, 0, 1, 10, 5, .rw, 18, none⟩
def RGT.TX_CFG.D1 : Fld := ⟨.rgt, 0x05C, 0, 1, 5, 5, .rw, 14, none⟩
def RGT.TX_CFG.D0 : Fld := ⟨.rgt, 0x05C, 0, 1, 0, 5, .rw, 10, none⟩
def RGT.ROUTE_WIN.ENTRY : Fld := ⟨.rgt, 0x060, 0, 1, 0, 7, .rw, 0, some 0⟩
def RGT.ROUTE_DATA.INV : Fld := ⟨.rgt, 0x064, 0, 1, 4, 4, .rw, 0, none⟩
def RGT.ROUTE_DATA.MASK : Fld := ⟨.rgt, 0x064, 0, 1, 0, 4, .rw, 0, none⟩
def RGT.TX_CNT.SENT : Fld := ⟨.rgt, 0x068, 0, 1, 16, 16, .rc, 0, none⟩
def RGT.TX_CNT.TX_DROP : Fld := ⟨.rgt, 0x068, 0, 1, 0, 16, .rc, 0, none⟩
def RGT.RX_CNT.ACCEPTED : Fld := ⟨.rgt, 0x06C, 0, 1, 16, 16, .rc, 0, none⟩
def RGT.RX_CNT.CRC_ERR : Fld := ⟨.rgt, 0x06C, 0, 1, 0, 16, .rc, 0, none⟩
def RGT.LOSS_CNT.STARTER_LOSS : Fld := ⟨.rgt, 0x070, 0, 1, 8, 8, .rc, 0, none⟩
def RGT.LOSS_CNT.COLLIDE : Fld := ⟨.rgt, 0x070, 0, 1, 0, 8, .rc, 0, none⟩
def RGT.INT_CFG.KI_SHIFT : Fld := ⟨.rgt, 0x074, 0, 1, 0, 5, .rw, 24, none⟩
def RGT.TRIM_INT.J : Fld := ⟨.rgt, 0x078, 0, 1, 0, 32, .ro, 0, none⟩

/-- The fields of RGT (R584). -/
def RGT.fields : List Fld :=
  [RGT.RGT_CTL.TX_EN, RGT.RGT_CTL.RX_EN, RGT.RGT_CTL.LOCK_EN, RGT.RGT_CTL.STARTER_EN, RGT.RGT_CTL.ADDR, RGT.RGT_STAT.ROLE, RGT.RGT_STAT.SADDR, RGT.RGT_STAT.LOCK, RGT.RGT_STAT.STUCK, RGT.SEL_CFG.LOSS_STROKES, RGT.SEL_CFG.CLAIM_BASE, RGT.PHASE_OFS.OFFSET] ++
  [RGT.LOCK_CFG.LOCK_TOL, RGT.LOCK_CFG.TRIM_MAX, RGT.LOCK_CFG.KP_SHIFT, RGT.PHASE_ERR.E, RGT.TRIM.PPM, RGT.TX_CFG.TX_MIN, RGT.TX_CFG.D2, RGT.TX_CFG.D1, RGT.TX_CFG.D0, RGT.ROUTE_WIN.ENTRY, RGT.ROUTE_DATA.INV, RGT.ROUTE_DATA.MASK] ++
  [RGT.TX_CNT.SENT, RGT.TX_CNT.TX_DROP, RGT.RX_CNT.ACCEPTED, RGT.RX_CNT.CRC_ERR, RGT.LOSS_CNT.STARTER_LOSS, RGT.LOSS_CNT.COLLIDE, RGT.INT_CFG.KI_SHIFT, RGT.TRIM_INT.J]

/-- The fields of the registers a block defines beyond the page header (R610). -/
def fieldsOf : Blk → List Fld
  | .hdr => HDR.fields
  | .brz => BRZ.fields
  | .fmt => FMT.fields
  | .lane => LANE.fields
  | .ldp => LDP.fields
  | .ast => AST.fields
  | .srv => SRV.fields
  | .vcm => VCM.fields
  | .mac => MAC.fields
  | .seq => SEQ.fields
  | .wev => WEV.fields
  | .hq => HQ.fields
  | .pcx => PCX.fields
  | .sch => SCH.fields
  | .buf => BUF.fields
  | .dmc => DMC.fields
  | .spn => SPN.fields
  | .pwr => PWR.fields
  | .l2c => L2C.fields
  | .tcm => TCM.fields
  | .wrk => WRK.fields
  | .mbx => MBX.fields
  | .nvs => NVS.fields
  | .evr => EVR.fields
  | .clk => CLK.fields
  | .tmp => TMP.fields
  | .cal => CAL.fields
  | .sec => SEC.fields
  | .dom => DOM.fields
  | .rgt => RGT.fields

end Sys2Proof.Machine
end

