-- ==== Sys2Proof/Machine/Pages.lean ====
section
/-! DEFINITION. The pages of the control space: where each lies, its die, its power domain and its constants (R51,
R606, R608). -/

namespace Sys2Proof.Machine

open Sys2Proof

/-- A block's page: the block and its digit. -/
structure Page where
  blk : Blk
  inst : Nat
  deriving DecidableEq, Repr

/-- Control-space offset of page `n` of a block (R51, R606). For `hdr` the digit is the page index itself. -/
def pageBase : Blk → Nat → Nat
  | .hdr, i => 0x1000 * i
  | .dom, _ => 0x0000
  | .clk, _ => 0x1000
  | .brz, _ => 0x2000
  | .sec, _ => 0x3000
  | .evr, _ => 0x4000
  | .tmp, _ => 0x5000
  | .cal, _ => 0x6000
  | .l2c, _ => 0x7000
  | .tcm, _ => 0x8000
  | .wrk, _ => 0x9000
  | .mbx, _ => 0xA000
  | .pcx, n => 0x10000 + 0x1000 * n
  | .hq, n => 0x12000 + 0x1000 * n
  | .sch, _ => 0x20000
  | .buf, _ => 0x21000
  | .dmc, _ => 0x22000
  | .fmt, _ => 0x23000
  | .wev, _ => 0x24000
  | .seq, d => 0x01000000 * (d + 1)
  | .ldp, d => 0x01000000 * (d + 1) + 0x1000
  | .lane, n => 0x01010000 + 0x01000000 * (n / 4) + 0x1000 * (n % 4)
  | .srv, n => 0x01020000 + 0x01000000 * (n / 2) + 0x1000 * (n % 2)
  | .ast, n => 0x01030000 + 0x01000000 * (n / 2) + 0x1000 * (n % 2)
  | .pwr, _ => 0x03000000
  | .spn, _ => 0x03001000
  | .rgt, _ => 0x03002000
  | .mac, _ => 0x03003000
  | .vcm, n => 0x03010000 + 0x1000 * n
  | .nvs, _ => 0x03800000

/-- Offset of the page. -/
def Page.base (p : Page) : Nat := pageBase p.blk p.inst

/-- Page index (R606). -/
def Page.index (p : Page) : Nat := p.base / 0x1000

/-- The 49 pages (R606). -/
def pages : List Page :=
  [⟨.dom, 0⟩, ⟨.clk, 0⟩, ⟨.brz, 0⟩, ⟨.sec, 0⟩, ⟨.evr, 0⟩, ⟨.tmp, 0⟩, ⟨.cal, 0⟩, ⟨.l2c, 0⟩, ⟨.tcm, 0⟩, ⟨.wrk, 0⟩,
   ⟨.mbx, 0⟩, ⟨.pcx, 0⟩, ⟨.pcx, 1⟩, ⟨.hq, 0⟩, ⟨.hq, 1⟩, ⟨.sch, 0⟩, ⟨.buf, 0⟩, ⟨.dmc, 0⟩, ⟨.fmt, 0⟩, ⟨.wev, 0⟩] ++
  [⟨.seq, 0⟩, ⟨.seq, 1⟩, ⟨.ldp, 0⟩, ⟨.ldp, 1⟩] ++ (List.range 8).map (fun n => ⟨.lane, n⟩) ++
  (List.range 4).map (fun n => ⟨.srv, n⟩) ++ (List.range 4).map (fun n => ⟨.ast, n⟩) ++
  [⟨.pwr, 0⟩, ⟨.spn, 0⟩, ⟨.rgt, 0⟩, ⟨.mac, 0⟩] ++ (List.range 4).map (fun n => ⟨.vcm, n⟩) ++ [⟨.nvs, 0⟩]

/-- The page that occupies the slot of a control-space offset, if any (R8). -/
def pageOf (addr : Nat) : Option Page :=
  pages.find? fun p => p.index = addr / 0x1000

/-- The die of a page: 0 Cox, 1 Oar 0, 2 Oar 1, 3 Rigger, 4 Keel (R51). -/
def Page.die (p : Page) : Nat :=
  match p.blk with
  | .seq | .ldp => p.inst + 1
  | .lane => p.inst / 4 + 1
  | .srv | .ast => p.inst / 2 + 1
  | .pwr | .spn | .rgt | .mac | .vcm => 3
  | .nvs => 4
  | _ => 0

/-- The power domain of a page (R606). -/
def Page.domain (p : Page) : Nat :=
  match p.blk with
  | .hdr | .dom | .clk | .brz | .mbx => 0
  | .sec => 1
  | .evr => 2
  | .tmp => 3
  | .cal => 4
  | .l2c => 11
  | .tcm => 12
  | .wrk => 16
  | .pcx => 17 + p.inst
  | .hq => 21 + p.inst
  | .sch => 24
  | .buf => 25
  | .dmc => 26
  | .fmt => 29
  | .wev => 30
  | .seq => 41 + 20 * p.inst
  | .ldp => 52 + 20 * p.inst
  | .lane => 48 + 20 * (p.inst / 4) + p.inst % 4
  | .srv => 53 + 20 * (p.inst / 2) + p.inst % 2
  | .ast => 55 + 20 * (p.inst / 2) + p.inst % 2
  | .pwr => 81
  | .spn => 82
  | .rgt => 83
  | .mac => 84
  | .vcm => 85 + p.inst
  | .nvs => 91

/-- The die a power domain is on (R551). -/
def domainDie (d : Nat) : Nat :=
  if d < 40 then 0 else if d < 60 then 1 else if d < 80 then 2 else if d < 90 then 3 else 4

/-- PAGE_ID without the instance digit (R606). -/
def pageIdBase : Blk → Nat
  | .hdr => 0
  | .dom => 0x010100C0
  | .clk => 0x010200C0
  | .brz => 0x010300C0
  | .sec => 0x010400C0
  | .evr => 0x010500C0
  | .tmp => 0x010600C0
  | .cal => 0x010700C0
  | .l2c => 0x010800C0
  | .tcm => 0x010900C0
  | .wrk => 0x010A00C0
  | .mbx => 0x010B00C0
  | .pcx => 0x010C00C0
  | .hq => 0x010D00C0
  | .sch => 0x010E00C0
  | .buf => 0x010F00C0
  | .dmc => 0x011000C0
  | .fmt => 0x011100C0
  | .wev => 0x011200C0
  | .seq => 0x020100C0
  | .ldp => 0x020200C0
  | .lane => 0x020300C0
  | .srv => 0x020400C0
  | .ast => 0x020500C0
  | .pwr => 0x030100C0
  | .spn => 0x030200C0
  | .rgt => 0x030300C0
  | .mac => 0x030400C0
  | .vcm => 0x030500C0
  | .nvs => 0x040100C0

/-- PAGE_ID: TYPE, INSTANCE, STEPPING (R16, R606). -/
def Page.id (p : Page) : Nat := pageIdBase p.blk + 0x100 * p.inst

/-- PAGE_CAP: BLOCK_CAP, HDR_VER, EV_COUNT (R606). -/
def Page.cap (p : Page) : Nat :=
  match p.blk with
  | .hdr => 0
  | .dom => 0x00060104
  | .clk => 0x00010102
  | .brz => 0x00004106
  | .sec => 0x00840104
  | .evr => 0x00020104
  | .tmp => 0x0282A108
  | .cal => 0x0072010C
  | .l2c => 0x01020105
  | .tcm => 0x00410103
  | .wrk => 0x00100104
  | .mbx => 0x01210104
  | .pcx => 0x00052108
  | .hq => 0x00800108
  | .sch => 0x0040810A
  | .buf => 0x00081105
  | .dmc => 0x00210107
  | .fmt => 0x00030104
  | .wev => 0x00C04106
  | .seq => 0x04210108
  | .ldp => 0x06210108
  | .lane => 0x02488104
  | .srv => 0x0080C104
  | .ast => 0x00830104
  | .pwr => 0x0000A10A
  | .spn => 0x0000310C
  | .rgt => 0x0200310A
  | .mac => 0x02003108
  | .vcm => 0x00012106
  | .nvs => 0x00400108

/-- EV_COUNT: how many events the page owns (R16, R21). -/
def Page.evCount (p : Page) : Nat := p.cap % 64

/-- The device event number of the page's event 0 (R608). -/
def Page.evBase (p : Page) : Nat :=
  match p.blk with
  | .pcx => 8 * p.inst
  | .hq => 16 + 8 * p.inst
  | .sch => 32
  | .buf => 42
  | .dmc => 47
  | .fmt => 54
  | .wev => 58
  | .l2c => 64
  | .tcm => 69
  | .wrk => 72
  | .mbx => 76
  | .sec => 80
  | .dom => 84
  | .clk => 88
  | .brz => 90
  | .seq => 96 + 32 * p.inst
  | .ldp => 104 + 32 * p.inst
  | .lane => 112 + 32 * (p.inst / 4) + 4 * (p.inst % 4)
  | .srv => 160 + 4 * p.inst
  | .ast => 176 + 4 * p.inst
  | .pwr => 192
  | .spn => 202
  | .rgt => 214
  | .vcm => 224 + 6 * p.inst
  | .mac => 248
  | .nvs => 256
  | .evr => 264
  | .tmp => 268
  | .cal => 276
  | .hdr => 288

/-- The page that owns a device event and the event's bit on it (R608). -/
def eventPage (ev : Nat) : Option (Page × Nat) :=
  (pages.find? fun p => p.evBase ≤ ev ∧ ev < p.evBase + p.evCount).map fun p => (p, ev - p.evBase)

/-- The pages of a power domain (R606). -/
def domainPages (d : Nat) : List Page := pages.filter fun p => p.domain = d

/-- The sequencer of a sequencer domain: die and index 0-5 (R551, x = 2-7). -/
def domainSeq (d : Nat) : Option (Nat × Nat) :=
  if 42 ≤ d ∧ d ≤ 47 then some (0, d - 42) else if 62 ≤ d ∧ d ≤ 67 then some (1, d - 62) else none

/-- The controller domains (R558): cores, sequencers, Oar controllers, the Rigger controller. -/
def isCoreDomain (d : Nat) : Bool := 5 ≤ d && d ≤ 10

/-- Oar controllers (x = 17) and the Rigger controller (PD89) (R558, R562). -/
def isImageDomain (d : Nat) : Bool := d = 57 || d = 77 || d = 89

/-- Domains that R551 marks "Never". -/
def isNeverDomain (d : Nat) : Bool :=
  d = 0 || (33 ≤ d && d ≤ 36) || d = 38 || d = 39 || d = 40 || d = 60 || d = 80 || d = 81 || d = 90

/-- A field's place: 32 times the byte offset of its register, plus its lowest bit. For a block's register `i` is the
page's digit; for a header register it is the page index. `k` picks among the register's instances on the page. -/
def Fld.key (F : Fld) (i k : Nat) : Nat := (pageBase F.blk i + F.off + F.stride * k) * 32 + F.lsb

/-- Which instance of the field's register lies at page offset `off`, if any. -/
def Fld.nth (F : Fld) (off : Nat) : Option Nat :=
  if F.stride = 0 then (if off = F.off then some 0 else none)
  else if F.off ≤ off ∧ (off - F.off) % F.stride = 0 ∧ (off - F.off) / F.stride < F.count then
    some ((off - F.off) / F.stride)
  else none

/-- The fields at page offset `off` of a block, with the instance of each. -/
def fieldsAt (b : Blk) (off : Nat) : List (Fld × Nat) :=
  (fieldsOf b).filterMap fun F => (F.nth off).map fun k => (F, k)

end Sys2Proof.Machine
end

