-- ==== Sys2Proof/Machine/State.lean ====
section
/-! DEFINITION. The state of the ZQ4, as plain data. Every control-space register field of the spec's register
tables lives in `State.flds` (its key is the field's place, its default the Cold column); everything else the spec
gives the machine is a typed field below. The docstring of each field gives its width or range, the rule that names
it and its value at reset (DESIGN CHOICE n / PRESUMED n name the row notes/assumptions/n.md). -/

namespace Sys2Proof.Machine

open Sys2Proof

/-- Why an access waits. -/
inductive WaitWhy where
  /-- A Burez link is training (R28). -/
  | link (n : Nat)
  /-- The event recorder has no room for the record that must come first (R492, R547, R13). -/
  | recorder
  /-- A Keel program, erase or scan runs (R476). -/
  | keel
  deriving DecidableEq, Repr

/-- A register access that waits (R28, R476, R492). -/
structure Waiting where
  /-- why it waits; R28, R476, R492; reset: no entry -/
  why : WaitWhy
  /-- the requester; R545; reset: no entry -/
  req : Req
  /-- control-space byte offset; R50; reset: no entry -/
  addr : Nat
  /-- the word to write, or none for a read; R11; reset: no entry -/
  value : Option Word
  deriving DecidableEq, Repr

/-- An event notice crossing Burez to Cox (R55, R490). -/
structure Notice where
  /-- device event number 0-287; R54; reset: no entry -/
  event : Nat
  /-- containment level 0-7; R31, R33; reset: no entry -/
  level : Nat
  /-- control-space offset of the page; R490; reset: no entry -/
  page : Nat
  /-- PAGE_STAT of the page; R490; reset: no entry -/
  stat : Nat
  deriving DecidableEq, Repr

/-- The point-to-point wires (R24). -/
structure Wires where
  /-- PFAIL, 1 bit; R24, R419; reset 0 -/
  pfail : Bool := false
  /-- causes that assert WINH now: shock, overvltage, empty window; R24, R185; reset none -/
  winh : List WinhSrc := []
  /-- WINH as the Oar dies see it, 1 bit; R24, R185; reset 0 -/
  winhSeen : Bool := false
  /-- DRST0-3 asserted, one entry a die in reset; R24; reset none -/
  drst : List Nat := []
  deriving DecidableEq, Repr

/-- A flit that waits at its sender: the catch tokens and the servo traffic (R27). What waits of the other classes
stands in `State.notices`, `State.tagRecs` and `State.waiting`. -/
inductive Flit where
  /-- the catch token that names a stroke (R42) -/
  | token (stroke : Nat)
  /-- the sense flit's part for an actuator: coil current, Q1.15, back-EMF, Q1.15, and the mean of the stroke's rotational
  shock samples (R199) -/
  | sense (act : Nat) (cur emf rot : Int)
  /-- the control law's outputs for an actuator: coil command and microactuator commands by head index (R197) -/
  | coil (act : Nat) (u : Int) (mact : Sparse Int)
  deriving DecidableEq, Repr

/-- A work request that waits at its sender for a link that trains (R28). Register accesses stand in `State.waiting`. -/
inductive Ask where
  /-- a word that a sequencer pushes to its outbound mailbox queue (R243, R463) -/
  | word (endp : Nat) (w : Nat)
  /-- a power-up of a domain for an event or a message (R462, R466) -/
  | wake (dom : Nat)
  /-- CAL's trim step of a head for a catch (R526) -/
  | trim (head : Nat) (step : Int) (low : Nat)
  /-- a VCOX set-point, mV (R511) -/
  | vcox (mv : Nat)
  /-- DOM's operation on a domain, for a requester (R613) -/
  | dom (q : Req) (op : Nat) (dom : Nat)
  deriving DecidableEq, Repr

/-- One Burez link (R28). Its LINK_EN, LINK_UP, TRAINING and error counts are BRZ fields. -/
structure Link where
  /-- consecutive failed flits, direction to Cox; R28; reset 0 -/
  failIn : Nat := 0
  /-- consecutive failed flits, direction from Cox; R28; reset 0 -/
  failOut : Nat := 0
  /-- training attempts failed in a row, 0-3; R28, R29; reset 0 -/
  attempts : Nat := 0
  /-- flits that wait at the die for the way to Cox, in the order they are sent; R27, R28; reset none -/
  toCox : List Flit := []
  /-- flits that wait at Cox for the way to the die, in the order they are sent; R27, R28; reset none -/
  fromCox : List Flit := []
  deriving DecidableEq, Repr

/-- The stroke generator on Rigger (R38-R42). Its MODE is BRZ.STROKE_STAT.MODE, its period BRZ.STROKE_PERIOD. -/
structure Gen where
  /-- stroke number, 48 bits; R39; reset 0 -/
  stroke : Nat := 0
  /-- a period that takes effect at the next catch, UQ16.8 ns; R40; reset none -/
  nextPeriod : Option Nat := none
  /-- the period before realignment, UQ16.8 ns; R40, R414; reset 0x003F940B, the nominal stroke -/
  base : Nat := 4166667
  /-- the token last sent, if any; R42; reset none -/
  token : Option Nat := none
  /-- phase units by which strokes must still be lengthened (negative: shortened) after a re-catch; R414; reset 0 -/
  phaseErr : Int := 0
  deriving DecidableEq, Repr

/-- The local timer of a die that follows the catch: 0 Cox, 1 Oar 0, 2 Oar 1 (R42). -/
structure Timer where
  /-- local stroke number, none before the first token; R39; reset none -/
  stroke : Option Nat := none
  /-- the token for the next catch has arrived; R42; reset false -/
  gotToken : Bool := false
  /-- local catch minus Rigger catch, ns, removed at the next stroke; R42; reset 0 -/
  adjust : Int := 0
  deriving DecidableEq, Repr

/-- A launched action waiting for its stroke (R43). -/
structure Launch where
  /-- what is launched; R43, R243; reset: no entry -/
  kind : LaunchKind
  /-- lane, actuator or die of the launch; R43; reset: no entry -/
  inst : Nat
  /-- head index on the actuator; R99, R165, R172, R209; reset: no entry -/
  head : Nat
  /-- full stroke number named; R43; reset: no entry -/
  stroke : Nat
  /-- phase, 0-4,095; R43; reset: no entry -/
  phase : Nat
  /-- the tag the launch serves, if any; R252; reset: no entry -/
  tag : Option Nat := none
  /-- rate band of an assist step, 0-47; R172; reset: no entry -/
  band : Nat := 0
  /-- the sequencer that launched it, 0-11, if one did; R247; reset: no entry -/
  unit : Option Nat := none
  deriving DecidableEq, Repr

/-- One power domain (R551-R558, R613). -/
structure Dom where
  /-- powered, 1 bit; R551, R567; reset 1 -/
  powered : Bool := true
  /-- in reset, 1 bit; R553; reset 0 -/
  inReset : Bool := false
  /-- STATE of the domain where no page or sequencer of it gives one (they read OFF, or it has none), 3 bits; R555, R558,
  R611; reset OFF -/
  state : Nat := 0
  /-- domain epoch, 8 bits; R553; reset 0x00 -/
  epoch : Nat := 0
  /-- an EASY is in progress and its EASY_LIMIT runs; R555, R556; reset false -/
  easing : Bool := false
  /-- EASY_LIMIT of the domain, 16 bits, ms; R567; reset 1,000 -/
  easyLimit : Nat := 1000
  /-- RST_MIN of the domain, 8 bits, us; R567; reset 10 -/
  rstMin : Nat := 10
  /-- BOOT_ADDR of a core domain, 32 bits; R567, R558; reset 0 -/
  bootAddr : Nat := 0
  /-- RESULT of the domain's last image load, 0-3, none before one; R562; reset none -/
  imgResult : Option Nat := none
  /-- the image digest in the controller's instruction memory, if any; R558, R562; reset none -/
  image : Option Nat := none
  /-- IMG_CTL.KIB of the load in progress; R562; reset 0 -/
  imgKib : Nat := 0
  /-- buffer address of the image of the load in progress, as IMG_ADDR read when it began; R562; reset 0 -/
  imgAddr : Nat := 0
  deriving DecidableEq, Repr

/-- Which operation DOM has running (R613). -/
structure DomOp where
  /-- DOM_CMD.OP running, 0 none; R613; reset 0 -/
  op : Nat := 0
  /-- the domain it runs on; R613; reset 0 -/
  dom : Nat := 0
  deriving DecidableEq, Repr

/-- Starts (R563-R566). START_KIND and FAIL_CNT are DOM fields. -/
structure Start where
  /-- the start watchdog is armed; R564; reset true -/
  watchdog : Bool := true
  /-- the slot the running image came from, 1-4, 0 before the boot ROM has chosen; R535, R564; reset 0 -/
  slot : Nat := 0
  /-- a safe start stops the real-time cores, heads and refuge restore; R565, R566; reset false -/
  safe : Bool := false
  /-- Cox is held in reset (TEST strap high, or a Cox rail bad); R425, R426, R589; reset false -/
  coxReset : Bool := false
  deriving DecidableEq, Repr

/-- Fuses on Keel (R531, R536). -/
structure Fuses where
  /-- serial number, 128 bits; R496, R531; reset DESIGN CHOICE 0 (log 4) -/
  serial : Nat := 0
  /-- PCI device identifier, 16 bits; R299, R496; reset DESIGN CHOICE 0 (log 4) -/
  device : Nat := 0
  /-- PCI vendor identifier, 16 bits; R299, R496; reset DESIGN CHOICE 0 (log 4) -/
  vendor : Nat := 0
  /-- root key slots revoked, 4 bits; R531, R549; reset DESIGN CHOICE 0 (log 4) -/
  revoked : Nat := 0
  /-- digests of root keys 0-3, 256 bits each; R531, R534; reset DESIGN CHOICE 0 (log 4) -/
  rootDigest : Sparse Nat := []
  /-- wrap secret, 256 bits; R531, R616; reset DESIGN CHOICE 0 (log 4) -/
  wrapSecret : Nat := 0
  /-- blown fuses of kinds 0-6, 0-63 each; R536; reset DESIGN CHOICE 0 (log 4) -/
  minSvn : Sparse Nat := []
  deriving DecidableEq, Repr

/-- Straps, sampled when 12 V becomes good (R298, R589). -/
structure Straps where
  /-- STRAP_PORT: high is single port, 1 bit; R298, R589; reset DESIGN CHOICE low (log 5) -/
  port : Bool := false
  /-- STRAP_MGMT: high is I3C, 1 bit; R329, R589; reset DESIGN CHOICE low (log 5) -/
  mgmt : Bool := false
  /-- TEST: high holds Cox in reset, 1 bit; R589; reset DESIGN CHOICE low (log 5) -/
  test : Bool := false
  deriving DecidableEq, Repr

/-- A pattern of the buffer test (R617). -/
inductive Fill where
  /-- each word its own byte address. -/
  | address
  /-- checkerboard. -/
  | checker
  /-- random values of the test numbered n: free values. -/
  | random (n : Nat)
  deriving DecidableEq, Repr

/-- A merge buffer entry (R392). -/
structure Merge where
  /-- granule number; R392; reset: no entry -/
  granule : Nat
  /-- 32 bytes, most recent merge; R392; reset: no entry -/
  bytes : List Byte
  /-- byte mask, 32 flags; R392; reset: no entry -/
  mask : List Bool
  /-- a partial write carried the poison mark; R392; reset: no entry -/
  poisoned : Bool
  deriving DecidableEq, Repr

/-- Buffer memory behind DMC and BUF (R389-R392). -/
structure Dram where
  /-- patterns that buffer tests have left, newest first, each below a byte address; an unlisted byte reads as the newest
  pattern that covers it, else as zero; R617; reset none: zero, DESIGN CHOICE (log 3) -/
  fills : List (Fill × Nat) := []
  /-- written bytes by buffer address; R389; reset empty -/
  cells : List Host.Cell := []
  /-- poisoned granules, rising; R390, R391; reset none -/
  poison : List Nat := []
  /-- XOR error in the stored 32 data and 4 check bytes of a granule, 288 bits; R390, R395; reset none -/
  err : Sparse Nat := []
  /-- merge entries, oldest first, at most 16; R392; reset none -/
  merge : List Merge := []
  /-- die refresh-rate reports, one a channel, 0-2; R389; reset 0 -/
  refresh : Sparse Nat := []
  /-- CH_EN, SIZE and SPEED as DMC last sampled them; R389, R393; reset none -/
  sampled : Option (Nat × Nat × Nat) := none
  /-- tests run with random values, the number of the last; R617; reset 0 -/
  tests : Nat := 0
  /-- PATTERN of the test in progress, as it started, 2 bits; R617; reset 0 -/
  testing : Nat := 0
  deriving DecidableEq, Repr

/-- FMT beyond its registers (R87-R91). -/
structure Fmt where
  /-- MWP updates deferred while their zone is locked, oldest first: zone and new MWP; R89; reset none -/
  deferred : List (Nat × Nat) := []
  /-- bands whose EV054 has been raised: HEAD x 32,768 + BAND; R77; reset none -/
  warned : List Nat := []
  deriving DecidableEq, Repr

/-- Loop values of one reader path (R99-R105, R109). -/
structure Reader where
  /-- gain accumulator, UQ8.4, 12 bits; R101; reset 0 -/
  gain : Nat := 0
  /-- offset accumulator, 1/16 code, -1,024 to 1,023; R102; reset 0 -/
  ofs : Int := 0
  /-- asymmetry accumulator, Q1.11; R103; reset 0 -/
  asym : Int := 0
  /-- consecutive updates with the gain loop at its limit; R105; reset 0 -/
  limGain : Nat := 0
  /-- consecutive updates with the offset loop at its limit; R105; reset 0 -/
  limOfs : Nat := 0
  /-- consecutive updates with the asymmetry loop at its limit; R105; reset 0 -/
  limAsym : Nat := 0
  /-- last samples y, newest first, at most 16; R108; reset empty -/
  hist : List Int := []
  /-- length of the run that detects or ends a thermal asperity; R108; reset 0 -/
  taRun : Nat := 0
  /-- length of the run that detects or ends a dropout; R108; reset 0 -/
  doRun : Nat := 0
  /-- thermal asperity in progress: its length in bits so far; R108; reset none -/
  ta : Option Nat := none
  /-- dropout in progress: its length in bits so far; R108; reset none -/
  dout : Option Nat := none
  /-- guard bits left of a freeze after a defect; R109, R110; reset 0 -/
  guard : Nat := 0
  /-- loop values (gain, offset, asymmetry) at the first bit of the asperity run, restored on detection; R109; reset
  0, 0, 0 -/
  savedTa : Nat × Int × Int := (0, 0, 0)
  /-- as `savedTa`, for the dropout run; R109; reset 0, 0, 0 -/
  savedDo : Nat × Int × Int := (0, 0, 0)
  /-- the timing loop's FREQ_OFS and phase at the first bit of the asperity run, restored on detection; R109; reset 0,
  0 -/
  savedTaTim : Int × Nat := (0, 0)
  /-- as `savedTaTim`, for the dropout run; R109; reset 0, 0 -/
  savedDoTim : Int × Nat := (0, 0)
  /-- the ASYM preset last loaded, Q1.11, held while ASYM_EN is 0; R103, R106; reset 0 -/
  asymHeld : Int := 0
  /-- earlier frames that the asperity in progress overlaps; R111; reset 0 -/
  taOver : Nat := 0
  /-- earlier frames that the dropout in progress overlaps; R111; reset 0 -/
  doOver : Nat := 0
  /-- high-pass corner code in force, 3 bits; R96, R109; reset 0 -/
  corner : Nat := 0
  /-- the long-defect event has been raised for the asperity in progress; R111; reset false -/
  longTa : Bool := false
  /-- the long-defect event has been raised for the dropout in progress; R111; reset false -/
  longDo : Bool := false
  deriving DecidableEq, Repr

/-- One sample buffer entry (R118-R125). -/
structure Entry where
  /-- 38,272 samples of reader A, 6 bits each; R118; reset empty (content unpredictable, R124) -/
  a : List (BitVec 6) := []
  /-- 38,272 samples of reader B, 6 bits each; R118; reset empty (content unpredictable, R124) -/
  b : List (BitVec 6) := []
  /-- 16 metadata words of 32 bits; R125; reset zero -/
  words : List Nat := []
  /-- readers whose samples it holds: bit 0 reader A, bit 1 reader B; R112, R121; reset 3 -/
  rdr : Nat := 3
  /-- generation count, 16 bits; R119; reset 0 -/
  gen : Nat := 0
  /-- pinned by firmware; R122; reset false -/
  fwPin : Bool := false
  /-- pinned by LDP; R122, R143; reset false -/
  ldpPin : Bool := false
  /-- order in which the lane wrote it, higher is newer, 0 never; R119; reset 0 -/
  age : Nat := 0
  deriving DecidableEq, Repr

/-- A pass of a lane's online detector (R134): it computes with the coefficient set that was active as it began (R137),
on the samples corrected while the frame was read. -/
structure Pass where
  /-- sample buffer entry; R118; reset: no entry -/
  entry : Nat
  /-- generation count of the entry; R122, R143; reset: no entry -/
  gen : Nat
  /-- the tag whose operation reads the frame; R251; reset: no entry -/
  tag : Option Nat
  /-- that operation's keep flag; R143; reset: no entry -/
  keep : Bool
  /-- the entry's metadata words; R125; reset: no entry -/
  words : List Nat
  /-- readers it detects from: bit 0 reader A, bit 1 reader B; R135; reset: no entry -/
  rdr : Nat
  /-- likelihoods by sample index, -31 to 31; R134; reset: no entry -/
  soft : List Int
  /-- corrected samples y' of readers A and B by sample index, for a trial frame's report; R97, R523; reset: no entry -/
  ya : List Int
  yb : List Int
  deriving DecidableEq, Repr

/-- A write in progress on a lane (R161-R166, R187). -/
structure WriteJob where
  /-- head index on the actuator; R165; reset: no entry -/
  head : Nat
  /-- the tag served, 0-31; R252; reset: no entry -/
  tag : Nat
  /-- PSA of slot 0 of the track written; R166; reset: no entry -/
  key : Nat
  /-- slot of the write's first frame; R163; reset: no entry -/
  first : Nat
  /-- slots whose frames are still to be completed, in order; R164; reset: no entry -/
  frames : List Nat
  /-- user sectors whose frames are complete; R253; reset: no entry -/
  sent : Nat
  /-- slots of user sectors written in the pass whose verify result is awaited; R183; reset: no entry -/
  unverified : List Nat
  /-- frames are verified in the pass; R180; reset: no entry -/
  verified : Bool
  /-- the write is one of a conventional band; R185; reset: no entry -/
  conv : Bool
  /-- segment under the writer, counted on past the track's last; R187; reset: no entry -/
  seg : Nat
  /-- segment in which the gate first rose; R187; reset: no entry -/
  seg0 : Nat
  /-- verify reader: true reader B; R180, R181; reset: no entry -/
  reader : Bool
  /-- stroke in which the gate rose last; R131; reset: no entry -/
  opened : Nat
  /-- stroke of the gate opening of a frame begun before the last wedge; R131; reset: no entry -/
  frameStroke : Option Nat := none
  /-- STATUS and REASON of a completion that waits for verify results; R183, R254; reset: no entry -/
  ending : Option (Nat × Nat) := none
  deriving DecidableEq, Repr

/-- One lane (R95-R127, R161-R166). -/
structure Lane where
  /-- sample buffer, 72 entries; R118; reset all unpinned, content unpredictable -/
  entries : Sparse Entry := []
  /-- reader A loops; R99; reset 0 -/
  ra : Reader := {}
  /-- reader B loops; R99; reset 0 -/
  rb : Reader := {}
  /-- frequency offset, 2^-20 bit a bit; R104; reset 0 -/
  freq : Int := 0
  /-- sampling phase, 2^-20 bit, below one bit; its top 6 bits are reader A's interpolator phase; R104; reset 0 -/
  phase : Nat := 0
  /-- reader B's interpolator phase, 1/64 bit, 6 bits; R98; reset 0 -/
  phaseB : Nat := 0
  /-- last source sample of the timing loop and its decision, 1 or -1; R104; reset 0, 0 -/
  lastSrc : Int × Int := (0, 0)
  /-- consecutive updates with FREQ_OFS at its limit; R105; reset 0 -/
  limFreq : Nat := 0
  /-- read gate open; R99; reset false -/
  readGate : Bool := false
  /-- the next frame continues the last on the same head; R99; reset false -/
  continuous : Bool := false
  /-- rate band of the last frame, 0-47; R104; reset none -/
  band : Option Nat := none
  /-- the tag whose operation read gate serves; R251; reset none -/
  serves : Option Nat := none
  /-- passes of the online detector not yet at their end, oldest first; R134; reset none -/
  passes : List Pass := []
  /-- write gate high; R162; reset false -/
  writeGate : Bool := false
  /-- write in progress; R164; reset none -/
  write : Option WriteJob := none
  /-- writes whose frames are all written and whose tags have not completed, oldest first; R183, R254; reset none -/
  judging : List WriteJob := []
  /-- frames written, the age of the newest entry; R119; reset 0 -/
  frames : Nat := 0
  /-- a verify result is ready, and whether it failed; R246; reset none -/
  verifyReady : Option Bool := none
  /-- a frame has completed since the last TAG word; R246; reset false -/
  frameDone : Bool := false
  /-- the age its window's entry had at the first read of SBUF_DATA since SBUF_WIN was written; R123; reset none -/
  reading : Option Nat := none
  deriving DecidableEq, Repr

/-- A codeword on its way through LDP (R141-R157): waiting for a detector or a core, or in one. -/
structure Codeword where
  /-- lane on the die, 0-3; R154; reset: no entry -/
  lane : Nat
  /-- sample buffer entry, 0-71; R154; reset: no entry -/
  entry : Nat
  /-- generation count of the entry; R122, R143; reset: no entry -/
  gen : Nat
  /-- head index of R136, 0-15; reset: no entry -/
  head : Nat
  /-- PSA of the slot, 40 bits; R86; reset: no entry -/
  psa : Nat
  /-- the entry's metadata words; R125; reset: no entry -/
  words : List Nat := []
  /-- ladder step, 0-4, 7 for the combined replay; R149; reset: no entry -/
  step : Nat := 0
  /-- number of the trial within the step; R149, R151; reset: no entry -/
  trial : Nat := 0
  /-- framing adjustment of the trial, bits; R151; reset: no entry -/
  adj : Int := 0
  /-- the trial is the CONFLICT trial; R147, R154; reset: no entry -/
  conflictTry : Bool := false
  /-- a verify frame; R182; reset: no entry -/
  verify : Bool := false
  /-- a trial sector; R140; reset: no entry -/
  trialSector : Bool := false
  /-- CONFLICT frame: S_OFS - P_OFS; R147; reset: no entry -/
  conflict : Option Int := none
  /-- the first fragment comes from backward replay; R145; reset: no entry -/
  backward : Bool := false
  /-- a Nominal frame: step 2 alone; R146; reset: no entry -/
  nominal : Bool := false
  /-- the entry records a defect span; R150; reset: no entry -/
  spans : Bool := false
  /-- readers it is detected from: bit 0 reader A, bit 1 reader B; R112, R135; reset: no entry -/
  rdr : Nat := 3
  /-- the tag whose operation reads it; R157, R256; reset: no entry -/
  tag : Option Nat := none
  /-- likelihoods of the last detector pass over its samples, by sample index, -31 to 31; R134, R144; reset: no entry -/
  soft : List Int := []
  /-- corrected samples of readers A and B, kept for a trial frame's report; R523; reset: no entry -/
  ya : List Int := []
  yb : List Int := []
  /-- DEFERRED; R141, R154; reset: no entry -/
  deferred : Bool := false
  /-- STATUS of the last decode; R154; reset: no entry -/
  status : Nat := 5
  /-- SYNDROME_W of the last decode; R154; reset: no entry -/
  synW : Nat := 0
  /-- ITER of the last decode; R154; reset: no entry -/
  iter : Nat := 0
  /-- an abort waits for the next iteration boundary; R157; reset: no entry -/
  aborted : Bool := false
  /-- the operation carries the keep flag; R143; reset: no entry -/
  keep : Bool := false
  /-- LDP holds a pin on the entry; R143; reset: no entry -/
  pinned : Bool := false
  /-- LLRs of a detector pass over the entry are kept; R144; reset: no entry -/
  llr : Bool := false
  /-- the other entries of combined reads; R148; reset: no entry -/
  others : List Nat := []
  /-- step, trial, adjustment and CONFLICT_TRY of the last decode; none before the first; R154; reset: no entry -/
  ran : Option (Nat × Nat × Int × Bool) := none
  deriving DecidableEq, Repr

/-- A sector result on its way to the lane sequencer (R154); a trial sector's goes to CAL as a report (R140). -/
structure SectorResult where
  /-- lane on the die, 0-3; R154; reset: no entry -/
  lane : Nat
  /-- the 16-byte record as one number; R154; reset: no entry -/
  record : Nat
  /-- a verify frame's; R182; reset: no entry -/
  verify : Bool
  /-- the accepted payload, descrambled, 4,128 bytes; empty if none was accepted; R130, R140; reset: no entry -/
  payload : List Nat := []
  /-- epoch of LDP's domain as it was sent, 8 bits; R30, R155; reset: no entry -/
  epoch : Nat := 0
  deriving DecidableEq, Repr

/-- A trial report on its way to CAL (R523). -/
structure TrialReport where
  /-- PSA; R523; reset: no entry -/
  psa : Nat
  /-- STATUS is FAILED; R523; reset: no entry -/
  failed : Bool
  /-- VERIFY; R523; reset: no entry -/
  verify : Bool
  /-- SUSPECT_FE; R523; reset: no entry -/
  suspect : Bool
  /-- BIT_ERR, 16 bits; R523; reset: no entry -/
  bitErr : Nat
  /-- GAIN_A, 8 bits; R523; reset: no entry -/
  gainA : Nat
  /-- GAIN_B, 8 bits; R523; reset: no entry -/
  gainB : Nat
  /-- E_HI, 32 bits; R523; reset: no entry -/
  eHi : Nat
  /-- E_LO, 32 bits; R523; reset: no entry -/
  eLo : Nat
  /-- G0-G21, signed 32 bits each; R523; reset: no entry -/
  grads : List Int
  /-- epoch of LDP's domain as it was sent, 8 bits; R30; reset: no entry -/
  epoch : Nat := 0
  deriving DecidableEq, Repr

/-- One LDP (R130-R159). -/
structure Ldp where
  /-- coefficient RAM: key ((head x 2 + set) x 2 + half) x 64 + word, half 1 active; R136, R138; reset 0 -/
  coef : Sparse Nat := []
  /-- commit waiting for its catch: stroke number and head mask; R137; reset none -/
  commit : Option (Nat × Nat) := none
  /-- codewords in the cores, by core 0-5; R139; reset none -/
  cores : Sparse (Option Codeword) := []
  /-- online codewords waiting, oldest first, at most 3 a lane; R141; reset none -/
  online : List Codeword := []
  /-- replay steps waiting for a replay detector, oldest first; R144, R145; reset none -/
  replays : List Codeword := []
  /-- replay steps whose LLRs wait for a core, oldest first; R141; reset none -/
  ready : List Codeword := []
  /-- codewords that restart after a core fault; R156; reset none -/
  restarts : List Codeword := []
  /-- replay detectors at work, by detector 0-1; R143, R144; reset none -/
  det : Sparse (Option Codeword) := []
  /-- firmware replay running: its codeword; R158; reset none -/
  fw : Option Codeword := none
  /-- sector results not yet taken, oldest first; R154; reset none -/
  results : List SectorResult := []
  /-- trial reports on their way to CAL, oldest first; R523; reset none -/
  reports : List TrialReport := []
  deriving DecidableEq, Repr

/-- State of an assist element (R170). -/
inductive ElemSt where | off | standby | armed
  deriving DecidableEq, Repr

/-- One head's assist element (R169-R175). -/
structure Elem where
  /-- element state; R170; reset OFF -/
  st : ElemSt := .off
  /-- drive current code now, 10 bits; R172; reset 0 -/
  drive : Nat := 0
  /-- WRITE code programmed, 10 bits; R171; reset 0 -/
  code : Nat := 0
  /-- arming stroke, for the preheat rule; R172; reset 0 -/
  armStroke : Nat := 0
  /-- stroke of the last write-gate opening, or of the arming; R173; reset 0 -/
  idle : Nat := 0
  /-- rate band it was armed for; R172; reset 0 -/
  band : Nat := 0
  /-- it has been armed since it was last OFF, so the head's table words in force are those of its last arming; R190;
  reset false -/
  held : Bool := false
  deriving DecidableEq, Repr

/-- Kinds of preamplifier bus frames, in the order they are sent (R177). -/
inductive FrameKind where | status | catchCode | armStandby | armWrite | firmware
  deriving DecidableEq, Repr

/-- A waiting preamplifier bus frame (R176, R177). -/
structure PFrame where
  /-- kind, which gives its priority; R177; reset: no entry -/
  kind : FrameKind
  /-- head select index; R176; reset: no entry -/
  head : Nat
  /-- register address, 7 bits; R176; reset: no entry -/
  addr : Nat
  /-- data, 16 bits; R176; reset: no entry -/
  data : Nat
  /-- read flag; R176; reset: no entry -/
  read : Bool
  deriving DecidableEq, Repr

/-- A trim step waiting for its catch (R175). -/
structure Trim where
  /-- head index; R175; reset: no entry -/
  head : Nat
  /-- signed step, codes; R175; reset: no entry -/
  step : Int
  /-- stroke number of the catch; R175; reset: no entry -/
  stroke : Nat
  deriving DecidableEq, Repr

/-- One AST (R161-R190). -/
structure Ast where
  /-- head table: key head x 64 + word; R190; reset 0 -/
  table : Sparse Nat := []
  /-- head table words as the last arming of each head took them: key head x 64 + word; R190; reset 0 -/
  force : Sparse Nat := []
  /-- assist elements by head index; R170; reset OFF -/
  elems : Sparse Elem := []
  /-- inhibits in force, by source (WINH, fault line, FORCE_INH, not RUN); R185; reset none -/
  inh : List InhSrc := []
  /-- head indices under a position inhibit; R185; reset none -/
  inhPes : List Nat := []
  /-- consecutive wedges within the limit, by head index; R186; reset 0 -/
  good : Sparse Nat := []
  /-- heads whose last inhibited write was of a conventional band; R185, R186; reset none -/
  inhConv : List Nat := []
  /-- the present fault-line assertion has set a head fault; R179, R186; reset false -/
  lineFault : Bool := false
  /-- sources deasserted that still wait for REL_WEDGES good wedges, with the consecutive ones so far; R186; reset none -/
  releasing : List (InhSrc × Nat) := []
  /-- waiting bus frames, oldest first; R177; reset none -/
  frames : List PFrame := []
  /-- trim steps waiting for their catch; R175; reset none -/
  trims : List Trim := []
  /-- preamplifier codes (STANDBY, WRITE) the bus has programmed, by head index; R176, R177; reset 0, 0 -/
  preamp : Sparse (Nat × Nat) := []
  /-- the head selected by the preamplifier; R173; reset 0 -/
  selected : Nat := 0
  /-- stroke of the last readback of every armed head's codes; R177; reset 0 -/
  readAt : Nat := 0
  deriving DecidableEq, Repr

/-- A seek on an actuator (R209, R210). -/
structure Seek where
  /-- motion stroke number; R209; reset: no entry -/
  stroke : Nat
  /-- head index; R209; reset: no entry -/
  head : Nat
  /-- target, UQ22.10; R209; reset: no entry -/
  target : Nat
  /-- committed; R209; reset: no entry -/
  committed : Bool
  /-- runs the full profile; R209; reset: no entry -/
  full : Bool
  /-- distance when committed, 1/1,024 tracks; R210; reset: no entry -/
  dist : Int
  /-- its motion has begun; R209; reset: no entry -/
  started : Bool := false
  /-- the seek of an unload; R226; reset: no entry -/
  unload : Bool := false
  /-- lane and tag whose operation it serves; R252; reset: no entry -/
  tag : Option (Nat × Nat) := none
  deriving DecidableEq, Repr

/-- A Regatta template in use (R206). -/
structure Template where
  /-- template index 0-7; R206; reset: no entry -/
  index : Nat
  /-- negative sign; R206; reset: no entry -/
  neg : Bool
  /-- motion stroke number; R206; reset: no entry -/
  stroke : Nat
  deriving DecidableEq, Repr

/-- One SRV (R192-R221). -/
structure Srv where
  /-- coefficient RAM: key (bank x 2 + half) x 512 + word, half 1 active; R201, R202; reset 0 -/
  coef : Sparse Nat := []
  /-- commit waiting for its catch: stroke number; R202; reset none -/
  commit : Option Nat := none
  /-- active head indices, lead first, at most 2; R57, R212; reset none -/
  active : List Nat := []
  /-- biquad states by chain position: s1 at 2k, s2 at 2k + 1, 40 bits; R200; reset 0 -/
  biquad : Sparse Int := []
  /-- integrator I, Q4.28; R200, R215; reset 0 -/
  integ : Int := 0
  /-- u_fb of the last sample, Q4.28; R214; reset 0 -/
  ufb : Int := 0
  /-- last coil command, Q1.15; R205, R216; reset 0 -/
  coil : Int := 0
  /-- last microactuator command by head index, Q1.11; R200; reset 0 -/
  mact : Sparse Int := []
  /-- consecutive wedges in error on the lead; R196; reset 0 -/
  miss : Nat := 0
  /-- consecutive consistent wedges in ACQUIRE; R225; reset 0 -/
  acq : Nat := 0
  /-- consecutive wedges within SETTLE_PES; R208; reset 0 -/
  settle : Nat := 0
  /-- consecutive samples at full microactuator command, by head index; R213; reset 0 -/
  sat : Sparse Nat := []
  /-- sign of the limit the last coil command met, 0 for none; R215; reset 0 -/
  lim : Int := 0
  /-- the next sample presets the integrator; R214; reset false -/
  xfer : Bool := false
  /-- stroke minus wedge number of the last wedge in ACQUIRE, mod 512; R225; reset 0 -/
  acqMod : Nat := 0
  /-- the track a load seeks to once it follows, UQ22.10; R225; reset none -/
  loadTo : Option Nat := none
  /-- reference position of the seek, 2^-16 tracks; R210; reset 0 -/
  refPos : Int := 0
  /-- reference velocity of the seek, 2^-16 tracks a stroke; R210; reset 0 -/
  refVel : Int := 0
  /-- reference acceleration of the seek, 2^-16 tracks a stroke squared; R205, R210; reset 0 -/
  refAcc : Int := 0
  /-- target by head index, UQ22.10; R195; reset 0 -/
  target : Sparse Nat := []
  /-- writer placement, VFY_OFS and reader-to-writer offset in the target by head index, Q2.14 pitch; R167, R180, R195; reset 0 -/
  offset : Sparse Int := []
  /-- seeks launched and running, oldest first; R209; reset none -/
  seeks : List Seek := []
  /-- strokes since the motion stroke of the running seek; R210; reset 0 -/
  seekAge : Nat := 0
  /-- templates in use, at most 8; R206; reset none -/
  templates : List Template := []
  /-- notch updates waiting for the second catch: notch, centre code, catch; R204; reset none -/
  notch : List (Nat × Nat × Nat) := []
  /-- samples since a notch's last estimate, up to 512, by notch; R204; reset 0 -/
  notchAge : Sparse Nat := []
  /-- stroke of the last exchange of coefficient halves; R204; reset none -/
  exchanged : Option Nat := none
  /-- stroke of the last sample; R205; reset none -/
  sampled : Option Nat := none
  /-- injection: samples left and phase accumulator, UQ0.16; R217; reset none -/
  inj : Option (Nat × Nat) := none
  /-- injection start stroke waiting; R217; reset none -/
  injAt : Option Nat := none
  /-- generator x^15 + x^14 + 1, 15 bits; R217; reset 1 (log 6) -/
  prbs : Nat := 1
  /-- capture buffer, 16,384 entries of 64 bits; R218; reset 0 (log 6) -/
  cap : Sparse Nat := []
  /-- capture running: samples to the next entry; R218; reset none -/
  capRun : Option Nat := none
  /-- capture start stroke waiting; R218; reset none -/
  capAt : Option Nat := none
  /-- sense flit of the stroke: coil current, back-EMF and rotational shock; R199; reset 0, 0, 0 -/
  sense : Int × Int × Int := (0, 0, 0)
  /-- failed loads in a row; R225; reset 0 -/
  loadFails : Nat := 0
  /-- a disable waits for the lanes to drain and the heads to unload; R219; reset false -/
  disabling : Bool := false
  /-- an unload is in progress; R226; reset false -/
  unloading : Bool := false
  /-- SSQ request pending, pairing requested, pairing ended, load or unload complete, seek complete, as the servo
  sequencer's conditions see them, bits 0-4; R246; reset 0 -/
  flags : Nat := 0
  deriving DecidableEq, Repr

/-- One VCM (R223-R230). -/
structure Vcm where
  /-- heads off the ramp; R225, R612; reset false -/
  loaded : Bool := false
  /-- consecutive strokes without a command; R198; reset 0 -/
  hold : Nat := 0
  /-- last 64 applied commands, newest first, Q1.15; R228; reset none -/
  applied : List Int := []
  /-- a retract runs because DRV_EN was written 0: the bridge turns off at PARKED; R612; reset false -/
  offAtPark : Bool := false
  /-- the command that waits for APPLY_OFS, Q1.15; R197, R223; reset none -/
  next : Option Int := none
  /-- the microactuator commands that wait, by head index, Q1.11; R223, R232; reset none -/
  nextMact : Sparse Int := []
  /-- a load waits for the end of a retract: its head index; R227; reset none -/
  loadWait : Option Nat := none
  /-- the retract could not reach the ramp: heads stay where they are; R229; reset false -/
  stranded : Bool := false
  /-- the retract that runs has timed out: its bridge drives on until the spindle stops; R227, R612; reset false -/
  timedOut : Bool := false
  deriving DecidableEq, Repr

/-- MAC (R232-R237). -/
structure Mac where
  /-- applied command by head number, Q1.11; R232; reset 0 -/
  cmd : Sparse Int := []
  /-- consecutive full-scale samples of LX, LY, ROT; R236; reset 0 -/
  fullRun : Sparse Nat := []
  /-- strokes since every sensor was below its threshold; R234; reset 0 -/
  calm : Nat := 0
  /-- every sample of the stroke so far was below its threshold; R234; reset true -/
  quiet : Bool := true
  /-- rotational shock samples of the stroke; R199; reset none -/
  rot : List Int := []
  deriving DecidableEq, Repr

/-- A word of a control store: 128 data bits and the XOR error in its 137 stored bits (R240). -/
structure CsWord where
  /-- 128 bits; R240; reset 0 -/
  data : Nat := 0
  /-- XOR error over 137 stored bits; R240; reset 0 -/
  err : Nat := 0
  deriving DecidableEq, Repr

/-- One sequencer (R240-R262). Its STATE, PC, FAULT, DEPTH are SQ_STAT fields. -/
structure Sqr where
  /-- control store, 4,096 words; R240, R263; reset 0 -/
  store : Sparse CsWord := []
  /-- general registers G1-G63, 32 bits; R240; reset DESIGN CHOICE 0 (log 6) -/
  g : Sparse Nat := []
  /-- local data RAM, 512 words of 32 bits; R240; reset 0 -/
  ram : Sparse Nat := []
  /-- return stack, top first, at most 4; R240; reset empty -/
  stack : List Nat := []
  /-- Z flag; R240; reset DESIGN CHOICE 0 (log 6) -/
  z : Bool := false
  /-- N flag; R240; reset DESIGN CHOICE 0 (log 6) -/
  n : Bool := false
  /-- C flag; R240; reset DESIGN CHOICE 0 (log 6) -/
  c : Bool := false
  /-- V flag; R240; reset DESIGN CHOICE 0 (log 6) -/
  v : Bool := false
  /-- TMO flag; R240; reset DESIGN CHOICE 0 (log 6) -/
  tmo : Bool := false
  /-- a catch has occurred since condition 7 was sampled; R246; reset false -/
  catchSeen : Bool := false
  /-- SIG set by another sequencer; R246; reset false -/
  sig : Bool := false
  /-- the last LAUNCH was refused; R246; reset false -/
  refused : Bool := false
  /-- catches since the last safe point; R248; reset 0 -/
  sinceSafe : Nat := 0
  /-- busy clocks in this stroke; R249; reset 0 -/
  busy : Nat := 0
  /-- the busy count of this stroke has been counted as an overrun; R249; reset false -/
  overran : Bool := false
  /-- inside a WAIT; R248; reset false -/
  waiting : Bool := false
  /-- the tag the lane sequencer works on; R252; reset none -/
  tag : Option Nat := none
  /-- a disable is in progress; R258; reset false -/
  disabling : Bool := false
  deriving DecidableEq, Repr

/-- State of a tag (R252). `fetching` is a FREE tag whose post is fetching its entry. -/
inductive TagSt where | free | fetching | posted | taken | done
  deriving DecidableEq, Repr

/-- One tag of a lane queue (R251-R258). -/
structure Tag where
  /-- state; R252; reset FREE -/
  st : TagSt := .free
  /-- the 32 entry bytes; R251; reset none -/
  entry : List Nat := []
  /-- abort pending; R256; reset false -/
  abort : Bool := false
  /-- user sectors complete; R253; reset 0 -/
  done : Nat := 0
  /-- a read sector ended without an accepted codeword; R253; reset false -/
  incomplete : Bool := false
  /-- REASON of a REQUEUE that ends the tag at its next sector boundary; R254, R257, R258; reset none -/
  requeue : Option Nat := none
  /-- sample buffer entries whose LDP pins the completed tag keeps; R143, R252; reset none -/
  pins : List Nat := []
  /-- STATUS and REASON that end the tag once its entry has come, settled before; R257, R258, R259; reset none -/
  ending : Option (Nat × Nat) := none
  deriving DecidableEq, Repr

/-- One lane queue (R251-R258). -/
structure Lq where
  /-- tags T0-T31; R252; reset FREE -/
  tags : Sparse Tag := []
  /-- posted tags in post order; R252; reset none -/
  order : List Nat := []
  deriving DecidableEq, Repr

/-- A tag completion record on its way to SCH (R253). -/
structure TagRec where
  /-- lane 0-7; R253; reset: no entry -/
  lane : Nat
  /-- tag 0-31; R253; reset: no entry -/
  tag : Nat
  /-- STATUS code 0-12; R253; reset: no entry -/
  status : Nat
  /-- REASON code; R253; reset: no entry -/
  reason : Nat
  /-- PRIOR_EXPOSED; R187, R253; reset: no entry -/
  prior : Bool
  /-- KEPT; R253; reset: no entry -/
  kept : Bool
  /-- EPOCH; R253; reset: no entry -/
  epoch : Nat
  /-- DONE; R253; reset: no entry -/
  done : Nat
  /-- INDEX; R253; reset: no entry -/
  index : Nat
  /-- PSA; R253; reset: no entry -/
  psa : Nat
  /-- END_STROKE; R253; reset: no entry -/
  stroke : Nat
  deriving DecidableEq, Repr

/-- One SEQ block beyond its sequencers (R260-R262). -/
structure SeqBlk where
  /-- the digest running: sequencer index; R261; reset none -/
  digest : Option Nat := none
  /-- the load running: sequencer, first word, count, buffer address; R260; reset none -/
  load : Option (Nat × Nat × Nat × Nat) := none
  deriving DecidableEq, Repr

/-- The descriptor WEV works on (R283). -/
structure WevCur where
  /-- work ring it came from; R279; reset: no descriptor -/
  ring : Nat
  /-- index of its entry; R453; reset: no descriptor -/
  n : Nat
  /-- its 128 bytes; R279; reset: no descriptor -/
  entry : List Nat
  deriving DecidableEq, Repr

/-- WEV beyond its registers (R283, R284). -/
structure Wev where
  /-- descriptors taken from the ring in its turn; R283; reset 0 -/
  taken : Nat := 0
  /-- the source 0-3 whose turn it is; R283; reset 0 -/
  turn : Nat := 0
  /-- the descriptor whose completion is still to be written; R283; reset none -/
  cur : Option WevCur := none
  /-- a disable is in progress; R284; reset false -/
  disabling : Bool := false
  /-- a descriptor of SCH's port is in progress; R283, R296; reset false -/
  portBusy : Bool := false
  deriving DecidableEq, Repr

/-- An event recorder record before it is numbered (R490). -/
structure Rec where
  /-- SOURCE 0-7; R490; reset: no entry -/
  source : Nat
  /-- LEVEL 0-7; R490; reset: no entry -/
  level : Nat
  /-- EVENT, 0x1FF for none; R490; reset: no entry -/
  event : Nat
  /-- CODE; R490; reset: no entry -/
  code : Nat
  /-- DATA, 10 bytes; R490; reset: no entry -/
  data : List Nat
  deriving DecidableEq, Repr

/-- EVR beyond its registers (R490-R495, R615). -/
structure Evr where
  /-- records that have reached EVR and are not yet taken into the queue or dropped; R491; reset none -/
  arriving : List Rec := []
  /-- the internal queue, oldest first, at most 64; R492; reset none -/
  queue : List Rec := []
  /-- REC_MASK words 0-8; R491, R498; reset 0xFFFFFFFF each -/
  mask : Sparse Nat := []
  /-- SEQ numbers of the records in the stage ring, oldest first; R492; reset none -/
  stage : List Nat := []
  /-- records the running commit still covers; R492; reset 0 -/
  left : Nat := 0
  /-- the record being programmed: SEQ, its 32 bytes, and whether it came from the stage ring; R492; reset none -/
  cur : Option (Nat × List Nat × Bool) := none
  /-- the region unit being erased, and whether EVR erases it itself; R493; reset none -/
  erasing : Option (Nat × Bool) := none
  /-- HEAD has reached a unit that is not blank and AUTO_RECLAIM is 0, or its erase failed; R493; reset false -/
  blocked : Bool := false
  /-- EV264 has been raised and enough units have not been blank since; R493; reset false -/
  warned : Bool := false
  /-- the region is to be read; R615; reset true -/
  reading : Bool := true
  /-- SECONDS_HI as written before SECONDS_LO; R495; reset none -/
  hiHeld : Option Nat := none
  /-- SECONDS_LO has been written; R495; reset false -/
  loDone : Bool := false
  /-- CYCLES has been written; R495; reset false -/
  cyclesDone : Bool := false
  deriving DecidableEq, Repr

/-- A seek intent on its way to RGT (R209, R571). -/
structure SeekIntent where
  /-- actuator; R209; reset: no entry -/
  act : Nat
  /-- motion stroke number; R209; reset: no entry -/
  stroke : Nat
  /-- distance, 1/1,024 tracks; R209; reset: no entry -/
  dist : Int
  /-- full profile; R209; reset: no entry -/
  full : Bool
  deriving DecidableEq, Repr

/-- An intent queued for transmission (R578). -/
structure Intent where
  /-- actuator; R578; reset: no entry -/
  act : Nat
  /-- motion stroke number; R578; reset: no entry -/
  stroke : Nat
  /-- template index 0-7; R578; reset: no entry -/
  template : Nat
  /-- SIGN; R578; reset: no entry -/
  neg : Bool
  deriving DecidableEq, Repr

/-- RGT beyond its registers (R569-R584). ROLE stores 0 off, 1 listening, 3 follower, 4 starter. -/
structure Rgt where
  /-- intents of own seeks not yet at RGT, oldest first; R209; reset none -/
  out : List SeekIntent := []
  /-- intents queued for transmission, oldest first; R578; reset none -/
  queue : List Intent := []
  /-- intents forwarded to SRV pages and still on Burez, oldest first: actuator and intent; R582; reset none -/
  forward : List (Nat × Intent) := []
  /-- routing entries as ROUTE_DATA words, by 4 x address + actuator; R582, R584; reset 0 -/
  routes : Sparse Nat := []
  /-- the claim wait has ended: starter at the next catch; R573; reset false -/
  claimed : Bool := false
  /-- address of the starter followed; R574; reset none -/
  following : Option Nat := none
  /-- GLIDE of the last accepted frame; R576; reset 0 -/
  glide : Bool := false
  /-- the present frame was accepted: its slots count; R572; reset false -/
  frameOk : Bool := false
  /-- the drive won the last slot; R580; reset false -/
  won : Bool := false
  /-- consecutive frames with the error within LOCK_TOL; R576; reset 0 -/
  within : Nat := 0
  /-- header cells of the frame sent at the last catch as starter; R571; reset none -/
  sent : Option Nat := none
  deriving DecidableEq, Repr

/-- A complete message of an outbound queue (R464). -/
structure Msg where
  /-- header and payload words; R464; reset: no entry -/
  words : List Nat
  /-- EV078 has been raised for it; R465; reset: no entry -/
  warned : Bool
  deriving DecidableEq, Repr

/-- One mailbox endpoint (R463-R468). -/
structure Endpoint where
  /-- complete outbound messages, oldest first, 16 words with the partial one; R463, R464; reset empty -/
  out : List Msg := []
  /-- words of the message being written; R464; reset none -/
  part : List Nat := []
  /-- inbound words, oldest first, at most 16; R463; reset empty -/
  inq : List Nat := []
  deriving DecidableEq, Repr

/-- MBX beyond its registers (R462-R469). -/
structure Mbx where
  /-- endpoints 0-17; R463; reset empty -/
  ends : Sparse Endpoint := []
  /-- ROUTE entries as ROUTE_DATA words, by event 0-287; R462, R469; reset 0 -/
  routes : Sparse Nat := []
  /-- cores whose EV076 is pending; R462, R467; reset none -/
  inCores : List Nat := []
  /-- cores whose EV077 is pending; R462, R467; reset none -/
  outCores : List Nat := []
  deriving DecidableEq, Repr

/-- A TCM word (R447). -/
structure TcmWord where
  /-- valid bit; R447; reset 0 -/
  valid : Bool := false
  /-- 64 data bits; R447; reset not valid -/
  data : Nat := 0
  /-- XOR error in the 64 data and 8 check bits; R447, R449; reset 0 -/
  err : Nat := 0
  /-- the word carries a poison mark; R436, R449; reset false -/
  poison : Bool := false
  deriving DecidableEq, Repr

/-- The TCM (R447). -/
structure Tcm where
  /-- words by TCM offset / 8; R447, R448; reset not valid -/
  words : Sparse TcmWord := []
  deriving DecidableEq, Repr

/-- A line of the L2 (R437, R438). -/
structure L2Line where
  /-- buffer address / 64; R437; reset: no line -/
  line : Nat
  /-- written and not yet written back; R437; reset: no line -/
  dirty : Bool
  /-- age, 0-3; R438; reset: no line -/
  age : Nat
  /-- 64 bytes; R437; reset: no line -/
  bytes : List Nat
  /-- the first granule is poisoned; R436; reset: no line -/
  lo : Bool
  /-- the second granule is poisoned; R436; reset: no line -/
  hi : Bool
  deriving DecidableEq, Repr

/-- The L2 beyond its registers (R437-R444). -/
structure L2 where
  /-- lines by set x 16 + way; R437; reset empty -/
  lines : Sparse (Option L2Line) := []
  /-- preload running: first line, lines, ways; R440; reset none -/
  preload : Option (Nat × Nat × Nat) := none
  /-- maintenance running: OP, first line, lines; R442; reset none -/
  maint : Option (Nat × Nat × Nat) := none
  deriving DecidableEq, Repr

/-- A completion that waits to be written over its ring entry (R454). -/
structure RingDone where
  /-- index of the entry; R454; reset: no entry -/
  n : Nat
  /-- bytes to write, by offset in the entry, byte 0 last; R454, R459; reset: no entry -/
  bytes : List (Nat × List Nat)
  /-- completion status in the engine's coding; R282, R459; reset: no entry -/
  status : Nat
  /-- the entry as posted; R279, R459; reset: no entry -/
  entry : List Nat
  /-- POISONED mask of a WEV completion; R282; reset: no entry -/
  poisoned : Nat := 0
  deriving DecidableEq, Repr

/-- A work ring (R452-R460). -/
structure Ring where
  /-- RING_BASE: address [37:6]; R460; reset 0 -/
  base : Nat := 0
  /-- CONSUMER; R460; reset 0 -/
  consumer : Nat := 0
  /-- RST_BYTE; R456, R460; reset 0 -/
  rst : Nat := 0
  /-- DIR: from the engine; R458, R460; reset 0 -/
  dir : Bool := false
  /-- LOC: TCM; R460; reset 0 -/
  loc : Bool := false
  /-- ESIZE code; R460; reset 0 -/
  esize : Nat := 0
  /-- LOG2 as written; R460; reset 4 -/
  log2 : Nat := 4
  /-- EN; R455, R460; reset 0 -/
  en : Bool := false
  /-- STATE 0 OFF, 1 RUN, 2 DRAINING, 3 HALTED; R460; reset 0 -/
  state : Nat := 0
  /-- ERR; R457, R460; reset 0 -/
  err : Nat := 0
  /-- fetch index, 16 bits; R453, R460; reset 0 -/
  fetch : Nat := 0
  /-- RING_CPL; R454; reset 0 -/
  cpl : Nat := 0
  /-- entries fetched and not started, at most 4; R453; reset none -/
  fetched : List (Nat × List Nat) := []
  /-- entries started and not completed; R454, R455; reset none -/
  started : List (Nat × List Nat) := []
  /-- completions not yet written; R454; reset none -/
  done : List RingDone := []
  deriving DecidableEq, Repr

/-- WRK beyond its registers (R452-R461). -/
structure Wrk where
  /-- rings 0-255; R452; reset as `Ring` -/
  rings : Sparse Ring := []
  /-- the ring whose entry the copy engine works on; R459; reset none -/
  copy : Option Nat := none
  /-- the ring whose entry the crypto engine works on; R541; reset none -/
  crypto : Option Nat := none
  deriving DecidableEq, Repr

/-- A buffer line that is not FREE (R362, R363). -/
structure Line where
  /-- KIND 1-7; R363; reset: no entry -/
  kind : Nat
  /-- CHARGE: actuator charged, for CACHED and TRAIL; R363, R375; reset: no entry -/
  charge : Nat := 0
  /-- MARKED; R363, R379; reset: no entry -/
  marked : Bool := false
  /-- NSX; R363; reset: no entry -/
  nsx : Nat := 0
  /-- ZONE; R363; reset: no entry -/
  zone : Nat := 0
  /-- OFFSET, 32 bits; R363; reset: no entry -/
  offset : Nat := 0
  /-- SEQ, 32 bits; R363; reset: no entry -/
  seq : Nat := 0
  /-- the host command it serves, by slot; R305, R376; reset: no entry -/
  slot : Option Nat := none
  /-- an operation in the plan or on a lane covers it; R364; reset: no entry -/
  busy : Bool := false
  /-- its sector is on the media; R375, R377; reset: no entry -/
  written : Bool := false
  /-- it waits for its retweak; R542; reset: no entry -/
  retweak : Bool := false
  deriving DecidableEq, Repr

/-- BUF beyond its registers and its directory in buffer memory (R362, R363). -/
structure Buf where
  /-- lines that are not FREE, by line number; R362; reset none -/
  lines : Sparse (Option Line) := []
  /-- admission numbers given; R363; reset 0 -/
  seq : Nat := 0
  deriving DecidableEq, Repr

/-- What an operation of the plan is for (R364). -/
inductive OpFor where
  | hostRead | cached | host | binding | ahead | source | pad | trail | copy | rebuild | test
  deriving DecidableEq, Repr

/-- What an operation that may not be chosen waits for (R368). -/
inductive OpWait where
  | none | inhibit | head | lane
  deriving DecidableEq, Repr

/-- A media operation of the plan (R364). -/
structure PlanOp where
  /-- age number, lower is older; R364; reset: no entry -/
  age : Nat
  /-- purpose; R364; reset: no entry -/
  use : OpFor
  /-- PSA of the first sector; R251; reset: no entry -/
  psa : Nat
  /-- user sectors; R251; reset: no entry -/
  count : Nat
  /-- OP of the tag entry; R251; reset: no entry -/
  op : Nat
  /-- data kind; R131; reset: no entry -/
  kind : Nat := 0
  /-- verified class; R251; reset: no entry -/
  verified : Bool := false
  /-- conventional band; R251; reset: no entry -/
  conv : Bool := false
  /-- first buffer line; R362; reset: no entry -/
  line : Nat := 0
  /-- zone; R364; reset: no entry -/
  zone : Nat := 0
  /-- the host command it serves, by slot; R305; reset: no entry -/
  slot : Option Nat := none
  /-- microactuator offset, percent of pitch; R369; reset: no entry -/
  ofs : Int := 0
  /-- ladder step, 0 or 5-7; R369; reset: no entry -/
  step : Nat := 0
  /-- re-reads made within the step; R149; reset: no entry -/
  tries : Nat := 0
  /-- an earlier read of it gave PSA_MISMATCH; R152; reset: no entry -/
  mismatch : Bool := false
  /-- re-reads whose tags keep their pins for the combined replay: lane, tag, entry; R148; reset: no entry -/
  kept : List (Nat × Nat × Nat) := []
  /-- older than AGE_LIMIT; R365; reset: no entry -/
  aged : Bool := false
  /-- what it waits for; R368; reset: no entry -/
  wait : OpWait := .none
  /-- the only lane it may go to, if one; R368; reset: no entry -/
  lane : Option Nat := none
  deriving DecidableEq, Repr

/-- A reconstruction at ladder step 8 (R285). -/
structure Recon where
  /-- the line that receives the sector; R285; reset: no entry -/
  line : Nat
  /-- zone; R285; reset: no entry -/
  zone : Nat
  /-- its strand; R269; reset: no entry -/
  strand : Nat
  /-- its strand sector; R269; reset: no entry -/
  sector : Nat
  /-- the host command served, by slot; R285; reset: no entry -/
  slot : Option Nat
  /-- the sources: strand, line, landed; R285; reset: no entry -/
  sources : List (Nat × Nat × Bool)
  /-- strands that failed as sources; R285; reset: no entry -/
  failed : List Nat
  deriving DecidableEq, Repr

/-- A run of refuge sectors in the index (R382). -/
structure RefugeRun where
  /-- actuator; R382; reset: no entry -/
  act : Nat
  /-- head; R382; reset: no entry -/
  head : Nat
  /-- band; R382; reset: no entry -/
  band : Nat
  /-- first slot; R382; reset: no entry -/
  slot : Nat
  /-- sector count; R382; reset: no entry -/
  count : Nat
  deriving DecidableEq, Repr

/-- The power-loss sequence (R381-R388). PL_STATE is a SCH_STAT field. -/
structure Pl where
  /-- it is a test run; R388; reset false -/
  test : Bool := false
  /-- lines sealed and not yet written, in SEQ order: actuator and line; R381; reset none -/
  sealed : List (Nat × Nat) := []
  /-- actuators whose seek to their refuge target has not settled; R381, R383; reset none -/
  seeking : List Nat := []
  /-- lines that a sequence has written to refuge; R381, R387; reset none -/
  saved : List Nat := []
  /-- actuators whose writing has ended; R381; reset none -/
  ended : List Nat := []
  /-- runs written; R382; reset none -/
  runs : List RefugeRun := []
  /-- lines left unwritten, by actuator; R385; reset none -/
  unwritten : Sparse Nat := []
  /-- sequence number of the last index; R382; reset 0 -/
  number : Nat := 0
  /-- the index block to program, 4,096 bytes; R381, R382; reset none -/
  index : List Nat := []
  deriving DecidableEq, Repr

/-- The rebuild of a strand onto its replacement band (R291-R293). -/
structure Rebuild where
  /-- namespace index; R291; reset: no entry -/
  nsx : Nat
  /-- zone; R291; reset: no entry -/
  zone : Nat
  /-- strand; R291; reset: no entry -/
  strand : Nat
  /-- head of the replacement band; R291; reset: no entry -/
  head : Nat
  /-- replacement band; R291; reset: no entry -/
  band : Nat
  /-- copy mode; R291; reset: no entry -/
  copy : Bool
  /-- rows written so far: the row in progress; R291; reset: no entry -/
  row : Nat := 0
  /-- lines that take the sectors of the row in progress; R291; reset: no entry -/
  lines : List Nat := []
  /-- lines of it that hold their sector; R291; reset: no entry -/
  ready : List Nat := []
  /-- the writing of the row is planned; R291; reset: no entry -/
  planned : Bool := false
  /-- the zone binds no further row until the strand has been switched; R292; reset: no entry -/
  closing : Bool := false
  /-- the rebuild has applied the write hold; R292; reset: no entry -/
  hold : Bool := false
  deriving DecidableEq, Repr

/-- SCH beyond its registers (R362-R388). -/
structure Sch where
  /-- conventional sectors whose verify failed and that wait to be written at their replacement slot, oldest first:
  lane, tag, sector; R184; reset none -/
  rewrites : List (Nat × Nat × Nat) := []
  /-- the plan, oldest operation first; R364; reset none -/
  plan : List PlanOp := []
  /-- age numbers given; R364; reset 0 -/
  ages : Nat := 0
  /-- operations posted, by 32 x lane + tag; R364; reset none -/
  posted : Sparse (Option PlanOp) := []
  /-- stroke in which the lane's last posted operation ends, by lane; R364; reset 0 -/
  ends : Sparse Nat := []
  /-- PSA the lane's last posted operation ends at, by lane; R364; reset 0 -/
  places : Sparse Nat := []
  /-- lead lane of each actuator plus 1, 0 none; R366; reset none -/
  leads : Sparse Nat := []
  /-- the last sectors each lane has written, oldest first, at most 8: PSA and line; R371; reset none -/
  trails : Sparse (List (Nat × Nat)) := []
  /-- end of the last host read of a zone, by zone: offset plus 1; R372; reset none -/
  lastRead : Sparse Nat := []
  /-- reconstructions waiting for their sources; R285; reset none -/
  recons : List Recon := []
  /-- RECON descriptors at WEV's port, oldest first, with the line each fills; R279, R285; reset none -/
  port : List (List Nat × Recon) := []
  /-- the reconstruction whose descriptor WEV runs, with the STATUS and POISONED it has come to; R282, R283; reset none -/
  portRun : Option (List Nat × Recon × Nat × Nat) := none
  /-- lines whose write has completed SLACK_OUT and waits for the zone's strand to be relocated: line, and the head and
  band it was bound for; R77; reset none -/
  slackOut : List (Nat × Nat × Nat) := []
  /-- operations whose combined replay runs, with their lane; R148, R149; reset none -/
  combined : List (PlanOp × Nat) := []
  /-- stripe rows whose binding is in the buffer and not yet on the media: zone and row; R275, R276; reset none -/
  rows : List (Nat × Nat) := []
  /-- host sectors served by reconstruction; R295; reset 0 -/
  reconReads : Nat := 0
  /-- the rebuild in progress; R291; reset none -/
  rebuild : Option Rebuild := none
  /-- the Weave Status header from before a change that the hosts have not been told of; R295, R353; reset none -/
  weaveWas : Option (List Nat) := none
  /-- sectors written by rebuild; R295; reset 0 -/
  rebuilt : Nat := 0
  /-- zones made Offline as donors; R294, R295; reset 0 -/
  donated : Nat := 0
  /-- strokes that rebuild and self-test have used of an actuator's lanes, by actuator: the second they are of, and their
  number; R365; reset 0 -/
  share : Sparse (Nat × Nat) := []
  /-- actuators that count as out of service for charging, as SCH last saw them; R375, R378; reset all four, since no
  refuge target is VALID -/
  uncharged : List Nat := [0, 1, 2, 3]
  /-- actuators whose charge has raised EV035; R397; reset none -/
  hiRaised : List Nat := []
  /-- the power-loss sequence; R381; reset as `Pl` -/
  pl : Pl := {}
  deriving DecidableEq, Repr

/-- State of a command slot (R306). -/
inductive SlotSt where
  | free | fetched | started | aborting | posting
  deriving DecidableEq, Repr

/-- A command slot (R305, R306). -/
structure Slot where
  /-- state; R306; reset FREE -/
  st : SlotSt := .free
  /-- MEDIA; R306; reset 0 -/
  media : Bool := false
  /-- controller, 0-1; R327; reset 0 -/
  ctrl : Nat := 0
  /-- submission queue; R327; reset 0 -/
  sqid : Nat := 0
  /-- command identifier, 16 bits; R308; reset 0 -/
  cid : Nat := 0
  /-- occupancy number, 64 bits: how many commands have held the slot; R327; reset 0 -/
  gen : Nat := 0
  /-- the entry as fetched, 64 bytes; R327; reset none -/
  sqe : List Nat := []
  deriving DecidableEq, Repr

/-- A completion status by the name the spec gives it. -/
inductive HostStatus where
  | success | invalidOpcode | invalidField | commandIdConflict | internalError | abortedSqDeletion | abortRequested
  | invalidQueueId | invalidQueueSize | invalidInterruptVector | completionQueueInvalid | invalidQueueDeletion
  | abortLimitExceeded | aerLimitExceeded | invalidNamespaceOrFormat | invalidFormat | insufficientCapacity
  | idUnavailable | alreadyAttached | notAttached | controllerListInvalid | lbaOutOfRange | capacityExceeded
  | zoneBoundaryError | zoneInvalidWrite | zoneIsFull | zoneIsReadOnly | invalidZoneTransition | tooManyActiveZones
  | tooManyOpenZones | unrecoveredRead | guardCheck | appTagCheck | refTagCheck | reservationConflict
  | overlappingRange | invalidImage | activationProhibited | invalidFirmwareSlot | selfTestInProgress
  | formatInProgress | sanitizeInProgress | preemptedAbort | operationDenied | notSaveable | invalidLogPage
  /-- Zone Is Offline, with DNR (R346) -/
  | zoneIsOffline (dnr : Bool)
  deriving DecidableEq, Repr

/-- The status of a completion entry: one the device decides, or the 15 bits firmware posts (R327). -/
inductive CplStatus where
  | named (st : HostStatus)
  | word (w : Nat)
  deriving DecidableEq, Repr

/-- A completion entry accepted for posting (R306, R312). -/
structure Cqe where
  /-- slot; R306; reset: no entry -/
  slot : Nat
  /-- status; R327; reset: no entry -/
  status : CplStatus
  /-- Dword 0; R327; reset: no entry -/
  dw0 : Nat
  /-- Dword 1; R327; reset: no entry -/
  dw1 : Nat
  /-- the command's submission queue; R305; reset: no entry -/
  sqid : Nat := 0
  /-- the command's identifier; R308; reset: no entry -/
  cid : Nat := 0
  /-- that queue's head, as the entry reports it; R310; reset: no entry -/
  sqHead : Nat := 0
  deriving DecidableEq, Repr

/-- A submission queue (R302-R311). -/
structure Sq where
  /-- entries; R301; reset: no queue -/
  size : Nat
  /-- its completion queue; R303; reset: no queue -/
  cq : Nat
  /-- priority: 0 urgent, 1 high, 2 medium, 3 low; R314; reset: no queue -/
  prio : Nat := 0
  /-- head index; R310; reset 0 -/
  head : Nat := 0
  /-- last tail doorbell value accepted; R310; reset 0 -/
  tail : Nat := 0
  /-- the slot of the Delete command that waits, once fetching has stopped; R304; reset none -/
  deleting : Option Nat := none
  deriving DecidableEq, Repr

/-- A completion queue (R302-R317). -/
structure Cq where
  /-- entries; R301; reset: no queue -/
  size : Nat
  /-- interrupt vector; R303; reset: no queue -/
  iv : Nat := 0
  /-- interrupts enabled; R303; reset: no queue -/
  ien : Bool := false
  /-- head index; R311; reset 0 -/
  head : Nat := 0
  /-- tail index; R312; reset 0 -/
  tail : Nat := 0
  /-- entries waiting in HQ, in posting order; R312; reset none -/
  waiting : List Cqe := []
  /-- entries posted since the last signal; R317; reset 0 -/
  fresh : Nat := 0
  /-- the completion-wait event has been raised for this time of being full; R312; reset false -/
  warned : Bool := false
  deriving DecidableEq, Repr

/-- An asynchronous event to report (R311, R353). -/
inductive HostEvent where
  | invalidDoorbell | invalidDoorbellValue | nsAttributeChanged | firmwareActivation | anaChange | zoneChanged
  | reliability | temperature | spare | weaveStatus
  deriving DecidableEq, Repr

/-- One NVM Express controller (R301-R327). CFS, SHST, RDY, CC_EN, the Arbitration feature and CC.AMS are HQ fields. -/
structure Ctl where
  /-- submission queues by identifier; R302; reset none -/
  sqs : Sparse (Option Sq) := []
  /-- completion queues by identifier; R302; reset none -/
  cqs : Sparse (Option Cq) := []
  /-- by class (0 urgent, 1 high, 2 medium, 3 low, 4 all queues in plain round robin) the submission queue served last and the
  commands fetched from it in its turn; R314; reset 0, 0 -/
  served : Sparse (Nat × Nat) := []
  /-- commands the high, medium and low classes have fetched in the round; R314; reset 0 -/
  credits : Nat × Nat × Nat := (0, 0, 0)
  /-- aborts that wait for the aborted command's entry: slot of the Abort, slot of the command; R322; reset none -/
  aborts : List (Nat × Nat) := []
  /-- a controller disable is in progress: commands stop at a sector boundary; R318; reset false -/
  closing : Bool := false
  /-- CC.EN has been set and RDY has not: the sizes of the admin queues, submission and completion; R301; reset none -/
  opening : Option (Nat × Nat) := none
  /-- CC.MPS: the host page size is 4 KiB x 2^MPS; R301, R303; reset 0 -/
  mps : Nat := 0
  /-- CC.CSS; R301; reset 0 -/
  css : Nat := 0
  /-- how the function interrupts: INTx, MSI or MSI-X; R316; reset PRESUMED INTx (PCI Express; log 34) -/
  irq : IrqMode := .intx
  /-- the interrupts masked by INTMS and INTMC, which act while MSI-X is disabled; R316; reset 0 -/
  intMask : Nat := 0
  /-- interrupt vectors the host has enabled on the function; R303, R316; reset 1 (log 34) -/
  vectors : Nat := 1
  /-- MSI-X vectors the host has unmasked; R317; reset PRESUMED none (PCI Express; log 34) -/
  unmasked : List Nat := []
  /-- MSI-X vectors whose pending bit is set; R317; reset none -/
  pendingBits : List Nat := []
  /-- THR and TIME of Interrupt Coalescing; R317, R354; reset 0, 0 -/
  coalesce : Nat × Nat := (0, 0)
  /-- vectors with Coalescing Disable; R317, R354; reset none -/
  uncoalesced : List Nat := []
  /-- Asynchronous Event Requests outstanding, by slot, oldest first; R335, R353; reset none -/
  aers : List Nat := []
  /-- events that wait for a request, oldest first; R353; reset none -/
  events : List HostEvent := []
  /-- events reported whose log page has not been read: their types are masked; R311, R353; reset none -/
  muted : List HostEvent := []
  /-- Asynchronous Event Configuration: kinds enabled; R353, R354; reset none -/
  wanted : List HostEvent := []
  /-- error log entries, newest first, at most 64: slot's SQID, CID and status; R352; reset none -/
  errors : List (Nat × Nat × HostStatus) := []
  /-- errors logged, which numbers the newest entry; R352; reset 0 -/
  errorCount : Nat := 0
  /-- other features by identifier, as set; R354; reset 0 -/
  features : Sparse Nat := []
  /-- Host Identifier, 128 bits; R351, R354; reset 0 -/
  hostId : Nat := 0
  deriving DecidableEq, Repr

/-- Where a block of a host read comes from (R343, R373, R380). -/
inductive ReadFrom where
  /-- beyond the write pointer: zeros -/
  | zero
  /-- served from the write cache: the 4,112 bytes as they lay, and their poison mark -/
  | held (bytes : List Nat) (poison : Bool)
  /-- a READ or provisional line -/
  | line (n : Nat)
  /-- not recovered -/
  | lost
  deriving DecidableEq, Repr

/-- What a host command in progress is (R341, R350, R360, R339). -/
inductive HostOp where
  | read | verify | write | zeroes | append
  /-- Zone Finish of these zones -/
  | finish (zones : List Nat)
  /-- Zone Reset of these zones, with the bands firmware takes for their lost strands: zone, strand, head, band -/
  | reset (zones : List Nat) (bands : List (Nat × Nat × Nat × Nat))
  /-- Format NVM: LBA format and protection, and whether the key is replaced -/
  | format (lbaf prot : Nat) (ext erase : Bool)
  /-- deletion of these namespaces -/
  | nsDelete (nss : List Nat)
  deriving DecidableEq, Repr

/-- A host command in progress, in the order of R347. -/
structure HostCmd where
  /-- slot; R305; reset: no entry -/
  slot : Nat
  /-- what it does; R341; reset: no entry -/
  op : HostOp
  /-- namespace index; R337; reset: no entry -/
  nsx : Nat
  /-- device zone; R347; reset: no entry -/
  zone : Nat
  /-- first block in the zone; R347; reset: no entry -/
  first : Nat
  /-- blocks; R347; reset: no entry -/
  count : Nat
  /-- namespace LBA of the first block; R541; reset: no entry -/
  lba : Nat
  /-- lines of its blocks, in order; R376; reset: no entry -/
  lines : List Nat := []
  /-- it completes once its lines are CACHED; R342, R376; reset: no entry -/
  cached : Bool := false
  /-- its media work has begun; R348, R349; reset: no entry -/
  began : Bool := false
  /-- where its blocks come from; R343; reset: no entry -/
  parts : List ReadFrom := []
  /-- a write line of it met poison; R379; reset: no entry -/
  spoiled : Bool := false
  /-- the slot that a command stopped by a controller disable still holds; R318; reset: no command -/
  home : Option Nat := none
  /-- what is asked of the protection information; R340; reset: no command -/
  pi : PiIn := ⟨false, 0, 0, 0, 0⟩
  /-- the blocks of a write that are still in host memory, each with its metadata: it has no lines yet; R347, R376;
  reset: no command -/
  held : Option (List (List Nat)) := none
  /-- the state from which the write made its zone Full; R347, R349; reset: no command -/
  filled : Option Nat := none
  /-- it has waited for room, and the event has been raised; R376; reset: no command -/
  waited : Bool := false
  deriving DecidableEq, Repr

/-- A namespace (R337-R351). -/
structure Ns where
  /-- KIND of its zones as R87 codes it: 0 plain, 1 actuator-safe, 2 surface-safe, 3 conventional; R337; reset: none -/
  kind : Nat
  /-- VERIFIED; R338; reset: none -/
  verified : Bool
  /-- LBA format 0-3; R340; reset: none -/
  lbaf : Nat
  /-- DPS; R338, R340; reset: none -/
  prot : Nat
  /-- metadata is at the end of each logical block, FLBAS bit 4; R338, R340; reset: none -/
  ext : Bool := false
  /-- its device zones in order; R337; reset: none -/
  zones : List Nat
  /-- controllers it is attached to; R339; reset: none -/
  attached : List Nat := []
  /-- owning controller; R326; reset: none -/
  owner : Option Nat := none
  /-- controller ownership is moving to, and the slot of the command that moves it; R326; reset: none -/
  moving : Option (Nat × Option Nat) := none
  /-- Format NVM is in progress; R360; reset false -/
  formatting : Bool := false
  /-- deletion is in progress; R339; reset false -/
  deleting : Bool := false
  /-- the commands to it that held slots as its Format or deletion began: slot and occupancy; R339, R360; reset none -/
  older : List (Nat × Nat) := []
  /-- implicitly opened zones, the one written least recently first; R344; reset none -/
  implicit : List Nat := []
  /-- explicitly opened zones; R344; reset none -/
  explicit : List Nat := []
  /-- closed zones; R344; reset none -/
  closed : List Nat := []
  /-- zones of the Changed Zone List not yet read; R345, R352; reset none -/
  changed : List Nat := []
  /-- registrants: host identifier and reservation key; R351; reset none -/
  registrants : List (Nat × Nat) := []
  /-- reservation: type 1-6 and its holder's host identifier; R351; reset none -/
  reservation : Option (Nat × Nat) := none
  /-- reservation generation, 32 bits; R351; reset 0 -/
  resGen : Nat := 0
  /-- Persist Through Power Loss; R351; reset false -/
  persist : Bool := false
  /-- reservation notifications not read, by controller and kind; R351; reset none -/
  resLog : List (Nat × Nat) := []
  /-- Reservation Notification Mask by controller; R351, R354; reset 0 -/
  resMask : Sparse Nat := []
  deriving DecidableEq, Repr

/-- The written bits of the media (R64-R67). The first channel bit is bit 0 of a number. -/
structure Media where
  /-- the 38,272 channel bits of a slot, by PSA; R66; reset nothing written -/
  frames : Sparse Nat := []
  /-- the 32 bits of a segment's resume field, by PSA of the track's slot 0 x 512 + segment; R64; reset nothing written -/
  resume : Sparse Nat := []
  /-- the bits after a track's last whole slot, by PSA of the track's slot 0; R67; reset nothing written -/
  tails : Sparse Nat := []
  /-- refuge bands that hold data not yet restored: sectors written, by head x 32,768 + band; R84; reset none -/
  refuge : Sparse Nat := []
  /-- directory entries of acknowledged lines that power was lost under before they were written, and that firmware has not
  yet dealt with; R378, R385, R386, R387; reset none -/
  lost : List (List Nat) := []
  deriving DecidableEq, Repr

/-- A sanitize (R361). -/
structure Sanitize where
  /-- it runs; R361; reset false -/
  running : Bool := false
  /-- overwrite passes, 0 for a crypto erase; R361; reset 0 -/
  passes : Nat := 0
  /-- OVRPAT, 32 bits; R361; reset 0 -/
  pattern : Nat := 0
  /-- OIPBP; R361; reset false -/
  invert : Bool := false
  /-- sanitizes completed; R361; reset 0 -/
  completed : Nat := 0
  /-- Empty woven zones with lost strands that a sanitize left, which their next write replaces; R289, R361; reset none -/
  zones : List Nat := []
  deriving DecidableEq, Repr

/-- An immediate activation of firmware in progress (R359). -/
structure Activation where
  /-- the slot of its Commit; R359; reset: no entry -/
  slot : Nat
  /-- the occupancy of that slot; R307, R359; reset: no entry -/
  gen : Nat
  /-- firmware slot; R357; reset: no entry -/
  image : Nat
  /-- what is still to be replaced, in order: the part's kind, and the sequencer 0-11 or the domain; R359; reset: no entry -/
  todo : List (Nat × Nat)
  /-- the first of them has been asked to ease; R359; reset: no entry -/
  easing : Bool := false
  /-- command processing pauses for the application core part; R359; reset: no entry -/
  pausing : Bool := false
  deriving DecidableEq, Repr

/-- A self-test in progress (R356). -/
structure SelfTest where
  /-- 1 short, 2 extended; R356; reset: no entry -/
  code : Nat
  /-- the namespaces tested, by index; R356; reset: no entry -/
  nss : List Nat
  /-- 0 the checks, 1 the system bands, 2 the written sectors; R356; reset: no entry -/
  stage : Nat := 0
  /-- the PSA from which the stage's next sector is looked for; R356; reset: no entry -/
  next : Nat := 0
  /-- the line that takes the sector being read; R356; reset: no entry -/
  line : Option Nat := none
  /-- the first segment that failed: 1 supply and coils, 2 servo and channels, 3 system bands, 4 written sectors; R356;
  reset: no entry -/
  failed : Option Nat := none
  /-- the first failing sector, by NSID and LBA; R356; reset: no entry -/
  sector : Option (Nat × Nat) := none
  /-- an abort has been asked for: it ends at the next sector boundary; R356; reset: no entry -/
  stop : Bool := false
  deriving DecidableEq, Repr

/-- A result of the Device Self-test log (R352, R356). -/
structure TestResult where
  /-- the self-test's code; R356; reset: no entry -/
  code : Nat
  /-- its result; R356; reset: no entry -/
  result : Nat
  /-- the first segment that failed, 0 none; R356; reset: no entry -/
  segment : Nat
  /-- hours of operation at its end; R352; reset: no entry -/
  hours : Nat
  /-- the first failing sector, by NSID and LBA; R356; reset: no entry -/
  sector : Option (Nat × Nat)
  deriving DecidableEq, Repr

/-- The host interface as a whole (R298-R330). -/
structure Nvme where
  /-- command slots 0-4,095; R305; reset FREE -/
  slots : Sparse Slot := []
  /-- controllers 0-1; R298; reset as `Ctl` -/
  ctls : Sparse Ctl := []
  /-- the controller whose fetch turn it is and the commands it has fetched in it; R315; reset 0, 0 -/
  turn : Nat × Nat := (0, 0)
  /-- tunnelled admin commands waiting, oldest first, at most 4: opcode and arguments; R330; reset none -/
  tunnel : List MiAdmin := []
  /-- bytes moved since RD_MIB and WR_MIB last counted, by port: read x 2 + write; R333; reset 0 -/
  moved : Sparse Nat := []
  /-- management endpoint configuration: SMBus or I3C frequency, transmission unit, health status change mask; R329;
  reset 0 -/
  miConfig : Sparse Nat := []
  /-- vital product data, by byte; R329; reset 0 (log 6) -/
  vpd : Sparse Nat := []
  /-- namespaces 0-63 by index; R337; reset none (log 34) -/
  nss : Sparse (Option Ns) := []
  /-- host commands in progress, in order; R347; reset none -/
  cmds : List HostCmd := []
  /-- Changed Namespace List by controller; R352; reset none -/
  nsChanged : Sparse (List Nat) := []
  /-- power state 0-2; R355; reset 0 -/
  power : Nat := 0
  /-- the operational power state in force last; R355; reset 0 -/
  operational : Nat := 0
  /-- power state 2 has been entered, and the heads are not yet loaded again at 7,200 rpm; R203, R355; reset false -/
  asleep : Bool := false
  /-- pieces of the pending firmware image: offset and bytes; R357; reset none -/
  pieces : List (Nat × List Nat) := []
  /-- firmware slot activated at the next start, if one; R358; reset none -/
  nextSlot : Option Nat := none
  /-- slot of the firmware in force, 1-4, 0 none; R357; reset 0 -/
  activeSlot : Nat := 0
  /-- the activation of firmware in progress; R359; reset none -/
  activation : Option Activation := none
  /-- the self-test in progress; R356; reset none -/
  selfTest : Option SelfTest := none
  /-- self-test results, newest first, at most 20; R352, R356; reset none -/
  testLog : List TestResult := []
  /-- sanitize; R361; reset as `Sanitize` -/
  sanitize : Sanitize := {}
  /-- Timestamp, 48 bits, ms; R354; reset 0 -/
  timestamp : Nat := 0
  /-- features kept per device, by identifier; R354; reset 0 -/
  features : Sparse Nat := []
  /-- saved features, by identifier + 256 x the controller, namespace and controller, or sensor and limit it is for; R354;
  reset none -/
  saved : Sparse (Option Nat) := []
  /-- Volatile Write Cache disabled; R342, R354; reset false -/
  cacheOff : Bool := false
  /-- Critical Warning bits; R352; reset 0 -/
  warning : Nat := 0
  /-- woven zones made Offline by the loss of strands; R289, R295; reset none -/
  lostZones : List Nat := []
  deriving DecidableEq, Repr

/-- The reply to the last command, as its requester sees it: a status code in the spec's own coding and data words.
The model's own field: what the spec says a command returns, and nowhere else keeps. -/
structure Answer where
  /-- status code; the model's own field; reset 0 -/
  status : Nat := 0
  /-- returned words, bytes or numbers, in order; the model's own field; reset empty -/
  data : List Nat := []
  /-- completion entries written to the host by the command: controller, completion queue, its tail, entry, whether an
  interrupt message went out; the model's own field; reset none -/
  posted : List (Nat × Nat × Nat × Cqe × Bool) := []
  deriving DecidableEq, Repr

/-- SPN and PWR beyond their registers (R402-R431). -/
structure Spn where
  /-- consecutive crossings inside their windows with a phase error below 1/16, 0-48; R404; reset 0 -/
  good : Nat := 0
  /-- the intervals between the last revolution's crossings, 2^-8 ns, the latest first; R403, R428; reset none -/
  intervals : List Nat := []
  /-- consecutive empty windows, 0-3; R412; reset 0 -/
  empty : Nat := 0
  /-- consecutive forward crossings of START, 0-12; R406; reset 0 -/
  fore : Nat := 0
  /-- consecutive backward crossings of START, 0-12; R408; reset 0 -/
  back : Nat := 0
  /-- the rotor was found turning backward above 60 rpm; R407; reset false -/
  reverse : Bool := false
  /-- a start attempt is in progress; R409; reset false -/
  starting : Bool := false
  /-- the 2 s wait before the next attempt; R409; reset false -/
  retry : Bool := false
  /-- failed attempts in a row, 0-3; R409; reset 0 -/
  fails : Nat := 0
  /-- the start has accelerated the rotor from rest; R428; reset false -/
  rest : Bool := false
  /-- STATE to return to from CATCH, BRAKE_OV or COAST; R414, R417; reset 0 -/
  left : Nat := 0
  /-- the catch in progress came from DETECT; R414; reset false -/
  fromDetect : Bool := false
  /-- LOCKED has not been regained since the rotor was lost; R415; reset false -/
  lost : Bool := false
  /-- COAST and BRAKE_OV come from overvoltage; R417; reset false -/
  ov : Bool := false
  /-- a controlled spin-down waits for its retracts; R411; reset false -/
  stopping : Bool := false
  /-- SPINDOWN brakes for a new DETECT of the same attempt; R414; reset false -/
  rebrake : Bool := false
  /-- the spin-down is followed by a start; R415; reset false -/
  restart : Bool := false
  /-- the chopper is gated; R416; reset false -/
  gated : Bool := false
  /-- strokes in a row above 2.6 A, 0-8; R59; reset 0 -/
  overCount : Nat := 0
  /-- strokes in a row below 2.4 A, 0-4; R59; reset 0 -/
  under : Nat := 0
  /-- the floor notice is on its way to SCH; R420; reset false -/
  floorNotice : Bool := false
  /-- failures within 1 s of each rail, by rail; R426; reset 0 -/
  railFails : Sparse Nat := []
  /-- a rail of Cox failed and the cycle of every rail waits; R426; reset false -/
  cycle : Bool := false
  deriving DecidableEq, Repr

/-- An operation of NVS (R477-R484). -/
structure NvOp where
  /-- OWNER: 0 firmware, 1 EVR, 2 refuge port; R478, R496; reset: no entry -/
  owner : Nat
  /-- 1 PROGRAM, 2 ERASE, 3 LOCK_RAISE, 4 LOCK_LOWER; R496; reset: no entry -/
  kind : Nat
  /-- NVS_ADDR as named, 32 bits; R477; reset: no entry -/
  word : Nat
  /-- program data, 256 bits; R477; reset: no entry -/
  data : Nat := 0
  /-- the requester of a firmware operation; R477, R478; reset: no entry -/
  req : Option Req := none
  /-- SEQ and ERASES of a running erase's intent record; R481; reset: no entry -/
  intent : Nat × Nat := (0, 0)
  deriving DecidableEq, Repr

/-- An open command sequence (R477). -/
structure NvSeq where
  /-- its requester; R477; reset: no entry -/
  req : Req
  /-- writes taken; R477; reset: no entry -/
  step : Nat
  /-- the operation named; R477; reset: no entry -/
  op : Nat := 0
  /-- the word named; R477; reset: no entry -/
  word : Nat := 0
  /-- data words given, DATA0 first; R477; reset: no entry -/
  data : List Nat := []
  deriving DecidableEq, Repr

/-- Keel's array, lock sector and NVS beyond its registers (R471-R488). -/
structure Nv where
  /-- programmed words, 256 bits, by word index; R471; reset none programmed: DESIGN CHOICE, a blank array (log 39) -/
  words : Sparse (Option Nat) := []
  /-- words whose program failed or was interrupted, with unpredictable content; R479, R484; reset none -/
  broken : List Nat := []
  /-- units whose erase was cut short or did not verify, with unpredictable content; R481, R484; reset none -/
  cut : List Nat := []
  /-- units marked half-erased; R483; reset none -/
  half : List Nat := []
  /-- level words programmed, 0-2; R486; reset DESIGN CHOICE 0 (log 39) -/
  level : Nat := 0
  /-- the LOWERING mark and the level it leads to; R487; reset none -/
  lowering : Option Nat := none
  /-- the slot-1 open word; R487; reset not programmed -/
  openWord : Bool := false
  /-- the slot-1 closed word; R487; reset not programmed -/
  closedWord : Bool := false
  /-- the operation running; R478; reset none -/
  op : Option NvOp := none
  /-- operations waiting, oldest first; R478; reset none -/
  waiting : List NvOp := []
  /-- the open sequence; R477; reset none -/
  seq : Option NvSeq := none
  /-- a scan is due before any command is served; R483; reset true, since Keel has just powered up -/
  due : Bool := true
  /-- the transfer running: first word, words, destination, destination in the TCM; R475; reset none -/
  xfer : Option (Nat × Nat × Nat × Bool) := none
  deriving DecidableEq, Repr

/-- TMP beyond its registers (R500-R508), and the trims CAL sets from it (R510). -/
structure Tmp where
  /-- last value of each sensor, Q10.6; R500, R527; reset 0 -/
  val : Sparse Int := []
  /-- neighbour median of each sensor at the last sample, Q10.6; R504, R527; reset 0 -/
  med : Sparse Int := []
  /-- SENS_OFS of each sensor, as stored; R501, R527; reset 0 -/
  ofs : Sparse Nat := []
  /-- consecutive samples in which a sensor differed from its median; R505; reset 0 -/
  confirm : Sparse Nat := []
  /-- consecutive samples clear of every limit; R507; reset 0 -/
  calm : Nat := 0
  /-- limits whose event has been raised and not left: 0 WARN, 1 CRIT, 2 TRIP, 3 COLD; R508; reset none -/
  hit : List Nat := []
  /-- CLK halves the core clock for TRIP; R508; reset false -/
  tripped : Bool := false
  /-- evaluations in a row with the margin at TARGET or above during an emergency; R511; reset 0 -/
  held : Nat := 0
  /-- trims: 0-4 bandgap of Cox, Oar 0, Oar 1, Rigger, Keel, 5-6 time reference of Oar 0, Oar 1; R510; reset 0 -/
  trims : Sparse Int := []
  deriving DecidableEq, Repr

/-- A head's values computed for a commit (R520, R525). -/
structure CalPass where
  /-- the temperature of a recalibration pass, Q10.6; none for a commit of training alone; R519; reset: no entry -/
  temp : Option Int
  /-- interpolation weight, UQ1.16; R517; reset: no entry -/
  w : Nat
  /-- the training delta that takes effect, if training is part of it; R525; reset: no entry -/
  delta : Option (List Int)
  deriving DecidableEq, Repr

/-- What CAL keeps for a head (R519-R526). -/
structure CalHead where
  /-- temperature of the last pass, Q10.6; R519; reset 0 -/
  lastT : Int := 0
  /-- a pass has taken effect since the cold start; R522; reset false -/
  passed : Bool := false
  /-- weight of the last pass, UQ1.16; R529; reset 0 -/
  w : Nat := 0
  /-- training delta of the 22 trained coefficients; none stands for all zero; R525; reset zero -/
  delta : List Int := []
  /-- a pass is due; R519; reset false -/
  due : Bool := false
  /-- the trained set waits for a commit; R525; reset false -/
  trained : Bool := false
  /-- the pass whose commit is pending; R520; reset none -/
  pass : Option CalPass := none
  /-- output records written; R521; reset 0 -/
  out : Nat := 0
  /-- gradient sums of the 22 coefficients; R525; reset zero -/
  sums : List Int := []
  /-- read reports summed; R525; reset 0 -/
  reports : Nat := 0
  /-- FAILED or not of the last reports, newest first; R524; reset none -/
  window : List Bool := []
  /-- average of GAIN_VFY, in 2^-16 codes; R526; reset 0 -/
  gain : Nat := 0
  /-- average of DFH, in 2^-16 of Q8.8 nm; R526; reset 0 -/
  dfh : Int := 0
  /-- accepted reports since the last decision; R526; reset 0 -/
  accepted : Nat := 0
  /-- GAIN of RDA_PRESET, FH_K, and RES_REF by rate band as the last pass interpolated them; R526; reset none -/
  refs : Option (Int × Int × List Int) := none
  /-- the temperature lies outside -15...85 degrees; R517; reset false -/
  away : Bool := false
  deriving DecidableEq, Repr

/-- CAL beyond its registers (R515-R526). -/
structure Cal where
  /-- heads 0-31; R519; reset as `CalHead` -/
  heads : Sparse CalHead := []
  /-- pending commit on each Oar: stroke of its catch; R520; reset none -/
  commit0 : Option Nat := none
  /-- pending commit on Oar 1; R520; reset none -/
  commit1 : Option Nat := none
  /-- ENABLE has been written 0 and commits are still pending; R522; reset false -/
  ending : Bool := false
  /-- heads whose coefficients in force firmware has made unpredictable; R522; reset none -/
  spoiled : List Nat := []
  deriving DecidableEq, Repr

/-- A part an image lists (R533). -/
structure Part where
  /-- KIND 0-7; R533; reset: no entry -/
  kind : Nat
  /-- SVN; R533; reset: no entry -/
  svn : Nat
  /-- MAJOR, MINOR, BUILD; R533; reset: no entry -/
  major : Nat
  minor : Nat
  build : Nat
  /-- offset in the image; R533; reset: no entry -/
  offset : Nat
  /-- length; R533; reset: no entry -/
  length : Nat
  /-- SHAKE256 digest of the part, 256 bits; R533; reset: no entry -/
  digest : Nat
  deriving DecidableEq, Repr

/-- A key operation (R540). -/
structure KeyOp where
  /-- 1 GENERATE, 2 DESTROY, 3 LOAD; R549; reset: no entry -/
  op : Nat
  /-- key slot; R549; reset: no entry -/
  slot : Nat
  /-- class of the requester; R548; reset: no entry -/
  cls : Nat
  /-- buffer address of the wrapped block, as KEY_ADDR read when the operation began; R549, R616; reset: no entry -/
  addr : Nat
  deriving DecidableEq, Repr

/-- SEC beyond its registers, the grant table and the fuses (R532-R544). -/
structure Sec where
  /-- measurement banks 0-3, 256 bits each; R537; reset 0 -/
  banks : Sparse Nat := []
  /-- the extend input, 8 words; R537, R549; reset 0 -/
  input : Sparse Nat := []
  /-- the measurement of kind 0 is in bank 0; R538; reset false -/
  measured : Bool := false
  /-- the alias key pair, and CYCLES and bank 0 as its certificate binds them; R538; reset none -/
  alias_ : Option (Nat × Nat × Nat) := none
  /-- key slots 0-63: a 512-bit key pair; R540; reset none -/
  slots : Sparse (Option Nat) := []
  /-- the key operation running; R540, R616; reset none -/
  op : Option KeyOp := none
  /-- the unlock nonce in force, 256 bits; R544; reset none -/
  nonce : Option Nat := none
  /-- token words written through UNLOCK_DATA; R544; reset 0 -/
  token : Sparse Nat := []
  /-- versions of the parts in force, by kind: MAJOR, MINOR, BUILD; R539; reset none -/
  versions : Sparse (Option (Nat × Nat × Nat)) := []
  deriving DecidableEq, Repr

/-- How a command stops the machine: no command does, so there is no such fault (R32: a fault contained at some level
leaves everything outside it running). -/
inductive Fault
  deriving DecidableEq, Repr

/-- Why a command has no meaning. -/
inductive Refusal where
  /-- A command of the table that has no meaning yet; raised by Dispatch alone (safe). -/
  | notModelled (mnemonic : String)
  deriving DecidableEq, Repr

/-- The ZQ4. -/
structure State where
  /-- commands waiting, first in first out; the model's own queue; reset empty -/
  pending : List Instr
  /-- counter of free values drawn; the model's own field; reset DESIGN CHOICE 0 (log 2) -/
  fresh : Nat
  /-- reply to the last command; the model's own field; reset status 0, no data -/
  answer : Answer
  /-- control-space register fields by 32 x byte offset + lowest bit; R7, R14, R50, R51; reset the Cold column -/
  flds : Sparse Nat
  /-- shadows of wide quantities by requester and register offset; R9; reset none -/
  shadow : Sparse (Option Nat)
  /-- accesses that wait, oldest first; R28, R476, R492; reset none -/
  waiting : List Waiting
  /-- work requests that wait for a link that trains, oldest first; R28; reset none -/
  asks : List Ask
  /-- event notices on their way to Cox, oldest first; R55; reset none -/
  notices : List Notice
  /-- wires of R24; reset none asserted -/
  wires : Wires
  /-- Burez links 0-3; R28; reset default -/
  links : Sparse Link
  /-- stroke generator; R38; reset stroke 0 -/
  gen : Gen
  /-- local timers 0 Cox, 1 Oar 0, 2 Oar 1; R42; reset default -/
  timers : Sparse Timer
  /-- lanes 0-7; R95; reset as `Lane` -/
  lanes : Sparse Lane
  /-- LDP0-1; R130; reset as `Ldp` -/
  ldps : Sparse Ldp
  /-- lane queues 0-7; R251; reset as `Lq` -/
  lqs : Sparse Lq
  /-- sequencers: 0-7 LSQ0-7, 8-11 SSQ0-3; R239; reset as `Sqr` -/
  sqrs : Sparse Sqr
  /-- SEQ0-1 beyond their sequencers; R260; reset as `SeqBlk` -/
  seqs : Sparse SeqBlk
  /-- tag completion records on their way to SCH, oldest first; R253; reset none -/
  tagRecs : List TagRec
  /-- AST0-3; R189; reset as `Ast` -/
  asts : Sparse Ast
  /-- SRV0-3; R192; reset as `Srv` -/
  srvs : Sparse Srv
  /-- VCM0-3; R223; reset as `Vcm` -/
  vcms : Sparse Vcm
  /-- MAC; R232; reset as `Mac` -/
  mac : Mac
  /-- what the lanes have written on the media; R64, R66, R67; reset nothing written -/
  media : Media
  /-- MBX; R462; reset as `Mbx` -/
  mbx : Mbx
  /-- RGT; R571; reset as `Rgt` -/
  rgt : Rgt
  /-- SCH; R362; reset as `Sch` -/
  sch : Sch
  /-- TCM; R447; reset as `Tcm` -/
  tcm : Tcm
  /-- L2 cache; R437; reset as `L2` -/
  l2 : L2
  /-- WRK; R452; reset as `Wrk` -/
  wrk : Wrk
  /-- WEV; R279; reset as `Wev` -/
  wev : Wev
  /-- BUF; R362; reset as `Buf` -/
  buf : Buf
  /-- host interface; R298; reset as `Nvme` -/
  nvme : Nvme
  /-- SPN and PWR; R402-R431; reset as `Spn` -/
  spn : Spn
  /-- Keel's array and NVS; R471-R488; reset as `Nv` -/
  nv : Nv
  /-- TMP and CLK; R500-R514; reset as `Tmp` -/
  tmp : Tmp
  /-- CAL; R515-R526; reset as `Cal` -/
  cal : Cal
  /-- SEC; R531-R550; reset as `Sec` -/
  sec : Sec
  /-- launched actions waiting for their stroke, oldest first; R43; reset none -/
  launches : List Launch
  /-- power domains 0-95; R551; reset default -/
  doms : Sparse Dom
  /-- the DOM operation running; R613; reset none -/
  domOp : DomOp
  /-- starts; R563; reset default -/
  start : Start
  /-- fuses; R531; reset default -/
  fuses : Fuses
  /-- straps; R589; reset default -/
  straps : Straps
  /-- event recorder; R490; reset default -/
  evr : Evr
  /-- buffer memory; R389; reset as `Dram` -/
  dram : Dram
  /-- FMT; R87; reset as `Fmt` -/
  fmt : Fmt
  /-- grant table masks by page index; R546; reset 0x11 -/
  grants : Sparse Nat
  deriving DecidableEq, Repr

/-- Fields whose Cold value differs among the register's places: SQ_BUDGET.BUDGET of sequencers 4 and 5 on both Oar
dies (R264), by field key. -/
def coldFields : Sparse Nat :=
  [(0x01000190 * 32, 12000), (0x010001B0 * 32, 12000), (0x02000190 * 32, 12000), (0x020001B0 * 32, 12000)]

/-- The machine right after reset: a cold start whose first command has not come (R14, R563). -/
def State.reset : State where
  pending := []
  fresh := 0
  answer := {}
  flds := coldFields
  shadow := []
  waiting := []
  asks := []
  notices := []
  wires := {}
  links := []
  gen := {}
  timers := []
  launches := []
  doms := []
  domOp := {}
  start := {}
  fuses := {}
  straps := {}
  evr := {}
  dram := {}
  fmt := {}
  lanes := []
  ldps := []
  lqs := []
  sqrs := []
  seqs := []
  tagRecs := []
  asts := []
  srvs := []
  vcms := []
  mac := {}
  media := {}
  mbx := {}
  rgt := {}
  sch := {}
  tcm := {}
  l2 := {}
  wrk := {}
  wev := {}
  buf := {}
  nvme := {}
  spn := {}
  nv := {}
  tmp := {}
  cal := {}
  sec := {}
  grants := []

end Sys2Proof.Machine
end

