-- ==== Sys2Proof/Machine/Ops.lean ====
section
/-! DEFINITION. The named operations every family shares: register fields, free values, events and records, power
domains and page states, and the gate every register access passes. -/

namespace Sys2Proof.Machine

open Sys2Proof

/-! Codes of PAGE_STAT.STATE (R16). -/

/-- OFF. -/
def stOff : Nat := 0
/-- HOLD. -/
def stHold : Nat := 1
/-- RUN. -/
def stRun : Nat := 2
/-- EASING. -/
def stEasing : Nat := 3
/-- FAULT. -/
def stFault : Nat := 4

/-- A command that ends normally with the next state. -/
abbrev Result := Host.Outcome State Fault Refusal

/-- The value of a register field (R11): page digit `i`, instance `k` of the register on the page. -/
def State.get (s : State) (F : Fld) (i : Nat := 0) (k : Nat := 0) : Nat := sget F.cold s.flds (F.key i k)

/-- Put a value into a register field, cut to the field's width. -/
def State.put (s : State) (F : Fld) (v : Nat) (i : Nat := 0) (k : Nat := 0) : State :=
  { s with flds := sset F.cold s.flds (F.key i k) (v % 2 ^ F.wid) }

/-- Add `n` to a counter field that saturates at its greatest value. -/
def State.bump (s : State) (F : Fld) (n : Nat := 1) (i : Nat := 0) (k : Nat := 0) : State :=
  s.put F (min (s.get F i k + n) (2 ^ F.wid - 1)) i k

/-- Answer the requester of the command. -/
def State.reply (s : State) (status : Nat) (data : List Nat) : State := { s with answer := { status := status, data := data } }

/-- Serve accesses that waited, oldest first: their answers follow one another. -/
def State.serveEach (l : List Waiting) (f : State → Waiting → State) (s : State) : State :=
  if l.isEmpty then s
  else l.foldl (fun s x =>
    let old := s.answer.data
    let t := f s x
    t.reply t.answer.status (old ++ t.answer.data)) (s.reply 0 [])

/-- The next free value (log 2). -/
def State.free (s : State) : Nat := Config.freeValue s.fresh

/-- v / 2^n, to one of its two neighbours: the spec names the format of the result and no rounding (R104, R134, R139,
R200; log 2). -/
def rnd (v : Int) (n : Nat) : Int := v / 2 ^ n + (if v % 2 ^ n ≠ 0 && Config.roundsUp v then 1 else 0)

/-- Go on to the next free value. -/
def State.drawn (s : State) : State := { s with fresh := s.fresh + 1 }

/-! Per-unit state, each with its reset value as what an unlisted unit holds. -/

/-- Burez link `n` (R28). -/
def State.link (s : State) (n : Nat) : Link := sget {} s.links n
/-- Set Burez link `n`. -/
def State.setLink (s : State) (n : Nat) (v : Link) : State := { s with links := sset {} s.links n v }
/-- Local timer `n` (R42). -/
def State.timer (s : State) (n : Nat) : Timer := sget {} s.timers n
/-- Set local timer `n`. -/
def State.setTimer (s : State) (n : Nat) (v : Timer) : State := { s with timers := sset {} s.timers n v }
/-- Power domain `d` (R551). -/
def State.dom (s : State) (d : Nat) : Dom := sget {} s.doms d
/-- Set power domain `d`. -/
def State.setDom (s : State) (d : Nat) (v : Dom) : State := { s with doms := sset {} s.doms d v }

/-- A domain that is powered, not in reset, and on a die that is not held by its DRST line answers for itself; on Cox
none does while Cox is held in reset (R24, R53, R425, R426, R589). -/
def domainLive (s : State) (d : Nat) : Bool :=
  (s.dom d).powered && !(s.dom d).inReset && !s.wires.drst.contains (domainDie d) &&
    !(s.start.coxReset && domainDie d = 0)

/-- Whether the link to a die is up; Cox needs none (R29). -/
def dieUp (s : State) (die : Nat) : Bool :=
  die = 0 || bit (s.get BRZ.BRZ_STAT.LINK_UP) (die - 1)

/-- Whether the link to a die is training or retraining (R28). -/
def dieTraining (s : State) (die : Nat) : Bool :=
  die ≠ 0 && bit (s.get BRZ.BRZ_STAT.TRAINING) (die - 1)

/-- A work request to a die whose link trains waits there (R28). -/
def State.ask (s : State) (x : Ask) : State := { s with asks := s.asks ++ [x] }

/-- No flit of an earlier class waits at either end of link `n`, so that a request can cross it and its reply can come
back (R27). What waits in `Link` is tokens and servo traffic. -/
def requestTurn (s : State) (n : Nat) : Bool := (s.link n).fromCox.isEmpty && (s.link n).toCox.isEmpty

/-! The stroke. -/

/-- The present stroke number on a die: Rigger's generator, the local timers of Cox and the Oars, Keel has none
(R39, R42). A die that has seen no token counts from 0 (log 14). -/
def strokeAt (s : State) (die : Nat) : Nat :=
  if die = 3 then s.gen.stroke else ((s.timer die).stroke).getD 0

/-- The full stroke number that a launch's 16 bits name, if it lies 1 to 32,767 strokes ahead; else the launch is late
(R43, R44). -/
def launchStroke (now low : Nat) : Option Nat :=
  let d := (low + 2 ^ 16 - now % 2 ^ 16) % 2 ^ 16
  if 1 ≤ d ∧ d ≤ 32767 then some (now + d) else none

/-- MODE LOCKED (R40). -/
def locked (s : State) : Bool := s.get BRZ.STROKE_STAT.MODE = 1

/-- Launch status codes of the answer: 0 OK, 1 LATE, 2 UNLOCKED (R41, R43). The numbers are the model's own (log 15). -/
def statusLate : Nat := 1
/-- UNLOCKED (R41). -/
def statusUnlocked : Nat := 2

/-- Full-current seeks allowed at once: MAX_FULL_SEEK, at most 2, and one in power state 1 (R57, R355, R396). -/
def maxFullSeek (s : State) : Nat := min (if s.nvme.power = 1 then 1 else 2) (s.get SCH.PERMIT_CFG.MAX_FULL_SEEK)

/-- Full-power assist writers allowed at once: MAX_ASSIST, at most 4, and two in power state 1 (R57, R355, R396). -/
def maxAssist (s : State) : Nat := min (if s.nvme.power = 1 then 2 else 4) (s.get SCH.PERMIT_CFG.MAX_ASSIST)

/-- The target speed, rpm (R410). -/
def targetRpm (s : State) : Nat := if s.get SPN.SPN_CTL.SPEED = 1 then 5400 else 7200

/-- A speed in UQ16.16 rpm. -/
def rpm16 (n : Nat) : Nat := n * 65536

/-- The spindle accelerates: STATE reads START or ACCEL, or SPEED_CHANGE below the target (R405, R410, R423). Then no
seek, load or write is launched (R60). -/
def accelerating (s : State) : Bool :=
  let st := s.get SPN.SPN_STAT.STATE
  st = 2 || st = 3 || (st = 5 && decide (s.get SPN.SPN_SPEED.RPM < rpm16 (targetRpm s)))

/-! Page states. -/

/-- PAGE_STAT.STATE of a page (R16). -/
def pageState (s : State) (p : Page) : Nat := s.get HDR.PAGE_STAT.STATE p.index

/-- A page accepts and finishes work in RUN (R17). -/
def running (s : State) (p : Page) : Bool := pageState s p = stRun

/-- A page still serves what it holds in RUN and EASING (R555). -/
def working (s : State) (p : Page) : Bool := pageState s p = stRun || pageState s p = stEasing

/-- STATE of sequencer `q` of die `d` (R264). -/
def seqState (s : State) (d q : Nat) : Nat := s.get SEQ.SQ_STAT.STATE d q

/-- STATE of a domain with several pages: FAULT if one faults, RUN if one runs, EASING if one eases, HOLD if one
holds, else OFF (R555: pages that read OFF hold nothing; DEDUCED, log 7). -/
def pagesState (l : List Nat) : Nat :=
  if l.contains stFault then stFault else if l.contains stRun then stRun
  else if l.contains stEasing then stEasing else if l.contains stHold then stHold else stOff

/-- STATE as the pages or the sequencer of a domain make it; OFF for a domain that has neither. -/
def membersState (s : State) (d : Nat) : Nat :=
  match domainSeq d with
  | some (die, q) => seqState s die q
  | none => pagesState ((domainPages d).map (pageState s))

/-- DOM_STATE.STATE of a domain (R555, R567): where its pages and sequencer read OFF, what its own EASY has reached. -/
def domainState (s : State) (d : Nat) : Nat :=
  if !domainLive s d then stOff
  else if membersState s d = stOff then (s.dom d).state
  else membersState s d

/-! Records and events. -/

/-- EVR accepts records: its domain runs, in RUN, EASING or HOLD (R492). -/
def recorderOpen (s : State) : Bool :=
  domainLive s 2 && (pageState s ⟨.evr, 0⟩ = stRun || pageState s ⟨.evr, 0⟩ = stEasing || pageState s ⟨.evr, 0⟩ = stHold)

/-- EVR has room for one more record that must not be dropped (R492): it accepts records and its queue has a free place
beyond the ones already on their way. -/
def recorderRoom (s : State) : Bool := recorderOpen s && s.evr.queue.length + s.evr.arriving.length < 64

/-- Send a record to EVR (R491). -/
def report (s : State) (r : Rec) : State := { s with evr := { s.evr with arriving := s.evr.arriving ++ [r] } }

/-- An event on page `p` at containment level `level`: its EV_RAW bit sets, and if EV_PEND has it a notice crosses to
Cox (R16, R55). A page whose domain is off or in reset raises nothing (R53), and over a link that is down no notice
crosses (R29). -/
def raise (s : State) (p : Page) (b level : Nat) : State :=
  if domainLive s p.domain then
    let s := s.put HDR.EV_RAW.RAW (setBit (s.get HDR.EV_RAW.RAW p.index) b true) p.index
    if bit (s.get HDR.EV_EN.EN p.index) b && dieUp s p.die then
      { s with notices := s.notices ++
          [⟨p.evBase + b, level, p.base, 256 * (s.dom p.domain).epoch + pageState s p⟩] }
    else s
  else s

/-- Raise when a condition holds. -/
def raiseIf (c : Bool) (s : State) (p : Page) (b level : Nat) : State := if c then raise s p b level else s

/-- After a domain's STATE may have changed from `before`: EV084 on entering HOLD (R568), EV086 on entering FAULT
(R559, R568; the level is that of a block in FAULT, R33, log 8). -/
def domainEdge (before : Nat) (s : State) (d : Nat) : State :=
  let now := domainState s d
  raiseIf (now = stFault && before ≠ stFault)
    (raiseIf (now = stHold && before ≠ stHold) s ⟨.dom, 0⟩ 0 7) ⟨.dom, 0⟩ 2 3

/-- Set a page's STATE. -/
def setPageState (s : State) (p : Page) (v : Nat) : State :=
  domainEdge (domainState s p.domain) (s.put HDR.PAGE_STAT.STATE v p.index) p.domain

/-- A page's disable is complete: it reads OFF, but one that a fault has taken stays in FAULT (R17, R18). -/
def pageOff (s : State) (p : Page) : State := if pageState s p = stFault then s else setPageState s p stOff

/-- A block enters FAULT (R18) and raises its fault event. -/
def pageFault (s : State) (p : Page) (b level : Nat) : State := setPageState (raise s p b level) p stFault

/-! The gate. -/

/-- The class mask of a page: classes 0 and 4 always stand (R546). -/
def grantMask (s : State) (index : Nat) : Nat := sget 0x11 s.grants index

/-- Whether a class may write a page (R546). -/
def mayWrite (s : State) (q : Req) (p : Page) : Bool := bit (grantMask s p.index) q.cls.val

/-- The pages a sequencer may reach: unit 0-7 is LSQ0-7, 8-11 SSQ0-3 (R241). -/
def seqMay (q : Req) (p : Page) : Bool :=
  let u := q.unit.val
  if u < 8 then
    (p.blk = .lane && p.inst = u) || (p.blk = .ldp && p.inst = u / 4) || (p.blk = .ast && p.inst = u / 2)
  else if u < 12 then
    (p.blk = .srv && p.inst = u - 8) || (p.blk = .ast && p.inst = u - 8)
  else false

/-- LOCK_STAT.LEVEL: 0 open, 1, 2 sealed (R487). -/
def lockLevel (s : State) : Nat := s.get NVS.LOCK_STAT.LEVEL

/-- The debug port at the lock level (R486): full at 0, authenticated at 1, closed at 2. At level 1 the port reaches the
unlock registers, through which it authenticates (R544). The host's requests come only through BAR2 (R328). -/
def portOpen (s : State) (q : Req) (p : Page) (off : Nat) : Bool :=
  if q.cls.val = 7 then
    lockLevel s = 0 ||
      (lockLevel s = 1 && (s.get SEC.SEC_STAT.UNLOCK_OK = 1 || (p.blk = .sec && 0x0A0 ≤ off && decide (off < 0x0CC))))
  else if q.cls.val = 5 then s.get PCX.DIAG_CTL.EN = 1 && decide (lockLevel s < 2)
  else true

/-- What becomes of an access. -/
inductive Gate where
  /-- no effect (R8, R29, R53, R241, R486) -/
  | dropped
  /-- refused by the grant table (R546) -/
  | denied
  /-- waits (R28) -/
  | waits (y : WaitWhy)
  /-- reaches its page -/
  | reached
  deriving DecidableEq, Repr

/-- What a write of the requester to a die still waits for: what the requester sends to that die after it waits behind it
(R52). -/
def waitingWrite (s : State) (q : Req) (die : Nat) : Option WaitWhy :=
  (s.waiting.find? fun x => x.req = q && x.value.isSome && (pageOf x.addr).map Page.die = some die).map (·.why)

/-- An access waits for link `n` already: what comes later in its class stays behind it (R28). -/
def linkQueued (s : State) (n : Nat) : Bool := s.waiting.any fun x => x.why = .link n

/-- What a page that could be reached answers for: an access behind a waiting write of its requester waits with it, a
link that trains makes the access wait, as do a flit of an earlier class and an earlier request; a link that is down and
a domain that is off make it vanish (R27, R28, R29, R52, R53). A sequencer's access stays on its die (R241). -/
def reach (s : State) (q : Req) (p : Page) : Gate :=
  if let some y := waitingWrite s q p.die then .waits y
  else if q.cls.val ≠ 3 && dieTraining s p.die then .waits (.link (p.die - 1))
  else if q.cls.val ≠ 3 && !dieUp s p.die then .dropped
  else if q.cls.val ≠ 3 && p.die ≠ 0 && (!requestTurn s (p.die - 1) || linkQueued s (p.die - 1)) then
    .waits (.link (p.die - 1))
  else if !domainLive s p.domain then .dropped
  else .reached

/-- The gate of a write (R546 first, whatever the state of the target). -/
def writeGate (s : State) (q : Req) (p : Page) (off : Nat) : Gate :=
  if !portOpen s q p off then .dropped
  else if q.cls.val = 3 then (if seqMay q p then reach s q p else .dropped)
  else if !mayWrite s q p then .denied
  else reach s q p

/-- The data of a refused-write record (R548). -/
def denyData (q : Req) (p : Page) (off : Nat) (w : Word) : List Nat :=
  leBytes 2 p.index ++ leBytes 2 off ++ [q.cls.val, 0] ++ leBytes 4 w.toNat

/-- DENY_LAST and EV081 of a refused write (R549, R550). No stored bit, block or domain fails: level 7 (R33). -/
def denied (s : State) (q : Req) (p : Page) : State :=
  raise ((s.put SEC.DENY_LAST.CLASS q.cls.val).put SEC.DENY_LAST.PAGE p.index) ⟨.sec, 0⟩ 1 7

/-- A write the grant table refuses (R546): counted, EV081, a record that may be dropped. -/
def grantRefused (s : State) (q : Req) (p : Page) (off : Nat) (w : Word) : State :=
  denied (report (s.bump SEC.DENY_CNT.GRANT) ⟨4, 7, 0x1FF, 0x0402, denyData q p off w⟩) q p

/-- A KP write without keeper privilege (R13, R546): counted, EV081, a record that is never dropped. -/
def kpRefused (s : State) (q : Req) (p : Page) (off : Nat) (w : Word) : State :=
  denied (report (s.bump SEC.DENY_CNT.KP) ⟨4, 7, 0x1FF, 0x0403, denyData q p off w⟩) q p

/-- The control-space offset that an address of the requester names: a core sees the control space at 0x4000_0000 to
0x43FF_FFFF, any other requester names the offset itself (R50, R545). -/
def controlOffset (q : Req) (a : Nat) : Option Nat :=
  if q.cls.val ≤ 2 then (if 0x40000000 ≤ a ∧ a < 0x44000000 then some (a - 0x40000000) else none)
  else if a < 0x04000000 then some a else none

/-- Keeper privilege (R545). -/
def keeper (q : Req) : Bool := q.cls.val = 0

/-- Fields of a page at an offset, the header's among them, with the first index of `State.get` and the instance. -/
def pageFields (p : Page) (off : Nat) : List (Fld × Nat × Nat) :=
  if off < 0x40 then (fieldsAt .hdr off).map fun e => (e.1, p.index, e.2)
  else (fieldsAt p.blk off).map fun e => (e.1, p.inst, e.2)

/-- A register with a field that only a keeper writes (R13). -/
def hasKp (p : Page) (off : Nat) : Bool :=
  (pageFields p off).any fun e => e.1.acc = .kp || e.1.acc = .kgo

/-- The value a write gives a field: bits [lsb + wid - 1 : lsb] of the word (R10). -/
def Fld.of (F : Fld) (w : Word) : Nat := bits w.toNat F.lsb F.wid

/-- A written word's effect on one field as its access type says (R11). A W1S or WO field is a trigger: what it sets
is the business of its command. -/
def writeField (q : Req) (w : Word) (s : State) (e : Fld × Nat × Nat) : State :=
  let F := e.1
  match F.acc with
  | .rw => s.put F (F.of w) e.2.1 e.2.2
  | .kp => if keeper q then s.put F (F.of w) e.2.1 e.2.2 else s
  | .w1c => s.put F (s.get F e.2.1 e.2.2 &&& (2 ^ F.wid - 1 - F.of w)) e.2.1 e.2.2
  | _ => s

/-- A write as the access types of the register's fields define it (R11). -/
def plainWrite (s : State) (q : Req) (p : Page) (off : Nat) (w : Word) : State :=
  (pageFields p off).foldl (writeField q w) s

/-- A word composed of the register's stored fields; WO fields and triggers that do not stand read as stored (R10). -/
def fieldsWord (s : State) (p : Page) (off : Nat) : Nat :=
  (pageFields p off).foldl (fun a e => if e.1.acc = .wo then a else a + s.get e.1 e.2.1 e.2.2 * 2 ^ e.1.lsb) 0

/-- An access that waits (R28, R476, R492). -/
def State.wait (s : State) (x : Waiting) : State := { s with waiting := s.waiting ++ [x] }

/-- A write of `w` by `q` to page `p` at offset `off` whose effect, once it is let through, is `eff` (R13, R28, R29,
R53, R492, R546). DESIGN CHOICE: a write without keeper privilege of a register that has a KP field is refused and
recorded whatever its KP bits are, and its other fields still act (log 64). -/
def guarded (s : State) (q : Req) (p : Page) (off : Nat) (w : Word) (eff : State → State) : State :=
  let s := s.reply 0 []
  match writeGate s q p off with
  | .dropped => s
  | .denied => grantRefused s q p off w
  | .waits y => s.wait ⟨y, q, p.base + off, some w⟩
  | .reached =>
    if hasKp p off && !keeper q then
      if recorderRoom s then eff (kpRefused s q p off w)
      else s.wait ⟨.recorder, q, p.base + off, some w⟩
    else eff s

/-- HV_OK follows HV_EN (R232; log 22). -/
def railFollows (s : State) : State := s.put MAC.MAC_STAT.HV_OK (s.get MAC.MAC_CTL.HV_EN)

/-- Key of a shadow word: requester and register (R9). -/
def shadowKey (q : Req) (addr : Nat) : Nat := (q.cls.val * 16 + q.unit.val) * 2 ^ 26 + addr

/-- Latch words into the requester's shadow of the registers from `addr` on (R9). -/
def latchWords (s : State) (q : Req) (addr : Nat) : List Nat → State
  | [] => s
  | w :: ws => latchWords { s with shadow := sset none s.shadow (shadowKey q addr) (some w) } q (addr + 4) ws

end Sys2Proof.Machine
end

