-- ==== Sys2Proof/Machine/Memory.lean ====
section
/-! DEFINITION. Buffer memory: granules with inline ECC and poison, the merge buffer, and what each consumer of poison
sees (R389-R395). A stored granule is its 32 data bytes, a poison mark and the XOR error its 36 stored bytes carry. -/

namespace Sys2Proof.Machine

open Sys2Proof

/-- The checkerboard byte at an address: words 0xAAAA_AAAA and 0x5555_5555 in turn, the order swapping from granule
to granule (R617). -/
def checkerByte (a : Nat) : Nat := if (a / 4 + a / 32) % 2 = 0 then 0xAA else 0x55

/-- A pattern's byte at an address (R617). -/
def patternByte (f : Fill) (a : Nat) : Byte :=
  match f with
  | .address => BitVec.ofNat 8 (a / 4 * 4 / 256 ^ (a % 4))
  | .checker => BitVec.ofNat 8 (checkerByte a)
  | .random n => Config.randomByte n a

/-- What a byte of buffer memory that nothing has written since the last test reads as (R617; before any test zero,
log 3). -/
def fillByte : List (Fill × Nat) → Nat → Byte
  | [], _ => 0
  | f :: fs, a => if a < f.2 then patternByte f.1 a else fillByte fs a

/-- The encoded byte at a buffer address. -/
def Dram.byte (d : Dram) (a : Nat) : Byte := sget (fillByte d.fills a) d.cells a

/-- Write one encoded byte, keeping the cells' canonical form. -/
def Dram.setByte (d : Dram) (a : Nat) (b : Byte) : Dram :=
  { d with cells := sset (fillByte d.fills a) d.cells a b }

/-- The canonical form of buffer memory: addresses strictly rising, no cell equal to what an unlisted one reads as. -/
def Memory.wf (d : Dram) : Bool :=
  decide (d.cells.Pairwise fun a b => a.1 < b.1) && d.cells.all fun e => decide (e.2 ≠ fillByte d.fills e.1)

/-- Write bytes from an address on. -/
def Dram.setBytes (d : Dram) : Nat → List Nat → Dram
  | _, [] => d
  | a, b :: bs => Dram.setBytes (d.setByte a (BitVec.ofNat 8 b)) (a + 1) bs

/-- The `n` encoded bytes from an address on. -/
def Dram.bytes (d : Dram) (a : Nat) : Nat → List Nat
  | 0 => []
  | n + 1 => (d.byte a).toNat :: Dram.bytes d (a + 1) n

/-- The CH_EN that DMC sampled when ENABLE was last written to 1; none before that (R389). -/
def sampledChannels (s : State) : Nat := (s.dram.sampled.map fun x => x.1).getD 0

/-- The SIZE that DMC sampled when ENABLE was last written to 1 (R389). -/
def sampledSize (s : State) : Nat := (s.dram.sampled.map fun x => x.2.1).getD 0

/-- The channel of granule `g`: both enabled channels take turns, one alone takes all (R389). -/
def channelOf (s : State) (g : Nat) : Nat :=
  match sampledChannels s with
  | 1 => 0
  | 2 => 1
  | _ => g % 2

/-- USABLE: 8/9 of the enabled channels' share of SIZE, in whole MiB (R389). -/
def usableMib (s : State) : Nat :=
  sampledSize s * 128 * (bitList 2 (sampledChannels s)).length / 2 * 8 / 9

/-- USABLE in bytes (R389). -/
def usableBytes (s : State) : Nat := usableMib s * 0x100000

/-- Buffer memory replaced. -/
def State.setDram (s : State) (d : Dram) : State := { s with dram := d }

/-- How many of the 36 stored bytes of a granule are in error. -/
def badBytes (e : Nat) : Nat := ((leBytes 36 e).filter fun b => b ≠ 0).length

/-- A flip mask waits for this granule's write (R395). -/
def flipArmed (s : State) (g : Nat) : Bool :=
  s.get DMC.FLIP_CTL.ARM = 1 && (s.get DMC.FLIP_CTL.ADDR_EN = 0 || s.get DMC.FLIP_CTL.GRANULE = g)

/-- The 288-bit XOR of FLIP_DATA in word WORD and FLIP_CHK in the check bits (R395). -/
def flipMask (s : State) : Nat :=
  s.get DMC.FLIP_DATA.MASK * 2 ^ (32 * s.get DMC.FLIP_SEL.WORD) + s.get DMC.FLIP_CHK.MASK * 2 ^ 256

/-- Put a granule's content in place: bytes, poison mark, error (R390). -/
def putGranule (s : State) (g : Nat) (bytes : List Nat) (poison : Bool) (err : Nat) : State :=
  let d := s.dram.setBytes (32 * g) bytes
  let pl := d.poison.filter (· ≠ g)
  let pl := if poison then (pl.filter (· < g)) ++ g :: pl.filter (g < ·) else pl
  s.setDram { d with poison := pl, err := sset 0 d.err g err }

/-- Store a whole granule with a poison mark or none, under an armed flip mask (R391, R392, R395). -/
def storeGranule (s : State) (g : Nat) (bytes : List Nat) (poison : Bool) : State :=
  if flipArmed s g then
    let s := putGranule s g bytes poison (flipMask s)
    raise (s.put DMC.FLIP_CTL.ARM 0) ⟨.dmc, 0⟩ 4 7
  else putGranule s g bytes poison 0

/-- A corrected error on granule `g` counts and fills its channel's bucket (R389, R394). -/
def correctedError (s : State) (g : Nat) : State :=
  let c := channelOf s g
  let s := s.bump (if c = 0 then DMC.CE_CNT.CH0 else DMC.CE_CNT.CH1)
  let l := s.get DMC.CE_LEVEL.LEVEL 0 c
  if s.get DMC.CE_BUCKET.DEPTH 0 c < l + 1 then
    raise (((s.put DMC.CE_LEVEL.LEVEL 0 0 c).put DMC.LAST_CE.CH c).put DMC.LAST_CE.GRANULE g) ⟨.dmc, 0⟩ c 1
  else s.put DMC.CE_LEVEL.LEVEL (l + 1) 0 c

/-- An uncorrectable error on granule `g`: the raw data is kept under the poison syndrome (R391). -/
def uncorrectable (s : State) (g : Nat) (raw : List Nat) : State :=
  let s := putGranule s g raw true 0
  let s := (s.bump DMC.UE_CNT.COUNT).put DMC.LAST_UE.CH (channelOf s g)
  raise (s.put DMC.LAST_UE.GRANULE g) ⟨.dmc, 0⟩ 2 0

/-- What DMC delivers for a granule: bytes, poison mark, whether this read found the error uncorrectable, and whether it
corrected one. -/
structure Delivered where
  bytes : List Nat
  poison : Bool
  ue : Bool
  ce : Bool := false
  deriving DecidableEq, Repr

/-- A read of a stored granule (R390, R391). Four or more bytes in error are beyond the code's guarantee: a free value
picks uncorrectable, miscorrected (free data) or clean (log 2). -/
def readGranule (s : State) (g : Nat) : Delivered × State :=
  let good := s.dram.bytes (32 * g) 32
  let e := sget 0 s.dram.err g
  let raw := List.zipWith (fun a b => a ^^^ b) good (leBytes 32 e)
  let n := badBytes e
  let p := s.dram.poison.contains g
  if n = 0 then (⟨good, p, false, false⟩, s)
  else if n = 1 then
    if p then (⟨raw, true, false, false⟩, s) else (⟨good, false, false, true⟩, correctedError s g)
  else if n ≤ 3 then (⟨raw, true, true, false⟩, uncorrectable s g raw)
  else
    let v := s.free
    let s := s.drawn
    if v % 3 = 0 then (⟨raw, true, true, false⟩, uncorrectable s g raw)
    else if v % 3 = 1 then (⟨leBytes 32 (v / 3), false, false, true⟩, correctedError s g)
    else (⟨raw, false, false, false⟩, s)

/-- Overlay the masked bytes of `new` on `old`. -/
def overlay (mask : List Bool) (new old : List Nat) : List Nat :=
  List.zipWith (fun m ab => if m then ab.1 else ab.2) mask (List.zip new old)

/-- Flush one merge entry (R392): a full mask writes the granule, a partial one is a read-modify-write that leaves
poison in place. -/
def flushEntry (s : State) (m : Merge) : State :=
  let s := s.setDram { s.dram with merge := s.dram.merge.filter (·.granule ≠ m.granule) }
  let new := m.bytes.map (·.toNat)
  if m.mask.all id then storeGranule s m.granule new m.poisoned
  else
    let r := readGranule s m.granule
    let s := r.2.bump BUF.MERGE_CNT.RMW
    let s := storeGranule s m.granule (overlay m.mask new r.1.bytes) (r.1.poison || m.poisoned)
    if r.1.ue then raise (s.bump BUF.MERGE_CNT.RMW_UE) ⟨.buf, 0⟩ 2 0 else s

/-- Flush every entry, oldest first (R392). -/
def flushMerge (s : State) : State := s.dram.merge.foldl flushEntry s

/-- Flush the entry of a granule that is read (R392). -/
def flushGranule (s : State) (g : Nat) : State :=
  match s.dram.merge.find? (·.granule = g) with
  | some m => flushEntry s m
  | none => s

/-- Merge a partial write into the granule's entry, or into a new one, flushing the oldest of 16 first (R392). -/
def mergeWrite (s : State) (g : Nat) (bytes : List Nat) (mask : List Bool) (poison : Bool) : State :=
  match s.dram.merge.find? (·.granule = g) with
  | some m =>
    let m' : Merge := ⟨g, (overlay mask bytes (m.bytes.map (·.toNat))).map (BitVec.ofNat 8 ·),
      List.zipWith (· || ·) mask m.mask, m.poisoned || poison⟩
    let s := s.setDram { s.dram with merge := s.dram.merge.map fun x => if x.granule = g then m' else x }
    if m'.mask.all id then flushEntry s m' else s
  | none =>
    let s := match s.dram.merge with
      | o :: _ => if s.dram.merge.length ≥ 16 then flushEntry s o else s
      | [] => s
    s.setDram { s.dram with merge := s.dram.merge ++ [⟨g, bytes.map (BitVec.ofNat 8 ·), mask, poison⟩] }

/-- A write of a whole granule discards its merge entry first (R392). -/
def wholeWrite (s : State) (g : Nat) (bytes : List Nat) (poison : Bool) : State :=
  storeGranule (s.setDram { s.dram with merge := s.dram.merge.filter (·.granule ≠ g) }) g bytes poison

/-- Write the part of `bytes` (from address `a`) that falls in granule `g` (R392). -/
def writeInGranule (a : Nat) (bytes : List Nat) (poison : Bool) (s : State) (g : Nat) : State :=
  let at' := fun i => if a ≤ 32 * g + i then bytes[32 * g + i - a]? else none
  let mask := (List.range 32).map fun i => (at' i).isSome
  let new := (List.range 32).map fun i => (at' i).getD 0
  if mask.all id then wholeWrite s g new poison else mergeWrite s g new mask poison

/-- The granules that `n` bytes from address `a` touch, rising. -/
def granulesOf (a n : Nat) : List Nat :=
  if n = 0 then [] else (List.range ((a + n - 1) / 32 - a / 32 + 1)).map (· + a / 32)

/-- A buffer write from any requester (R392). -/
def memWrite (s : State) (a : Nat) (bytes : List Nat) (poison : Bool := false) : State :=
  (granulesOf a bytes.length).foldl (writeInGranule a bytes poison) s

/-- Read granules in turn, flushing their entries first: the bytes, the poisoned granules met, the state. -/
def readGranules (s : State) : List Nat → List Nat × List Nat × State
  | [] => ([], [], s)
  | g :: gs =>
    let r := readGranule (flushGranule s g) g
    let t := readGranules r.2 gs
    (r.1.bytes ++ t.1, (if r.1.poison then g :: t.2.1 else t.2.1), t.2.2)

/-- CONSUMER code of POISON_LAST (R398). -/
def consumerCode : Consumer → Nat
  | .pcx => 0 | .core => 1 | .wev => 2 | .sch => 3 | .other => 4

/-- An access of a consumer that met poison, at its lowest granule: counted once, one event, POISON_LAST (R391). -/
def consumePoison (s : State) (c : Consumer) (g : Nat) : State :=
  let s := s.bump (match c with
    | .pcx => BUF.POISON_CNT.HOST | .core => BUF.POISON_CNT.CORE | .wev => BUF.POISON_CNT.WEV
    | .sch | .other => BUF.POISON_CNT.OTHER)
  let s := (s.put BUF.POISON_LAST.CONSUMER (consumerCode c)).put BUF.POISON_LAST.GRANULE g
  raise s ⟨.buf, 0⟩ (match c with | .pcx => 0 | _ => 1) 0

/-- What a buffer read delivers. -/
structure Read where
  bytes : List Nat
  poison : Bool
  deriving DecidableEq, Repr

/-- A buffer read of `n` bytes from address `a` by consumer `c` (R391, R392). -/
def memRead (s : State) (c : Consumer) (a n : Nat) : Read × State :=
  let r := readGranules s (granulesOf a n)
  let bytes := (r.1.drop (a % 32)).take n
  match r.2.1 with
  | [] => (⟨bytes, false⟩, r.2.2)
  | g :: _ => (⟨bytes, true⟩, consumePoison r.2.2 c g)

end Sys2Proof.Machine
end

