-- ==== Sys2Proof/Machine/Format.lean ====
section
/-! DEFINITION. FMT: the format's geometry, the zone map and band table in buffer memory, translation, the entry lock,
map scans (chapter "Surfaces, bands and zones"; the strands of woven zones, chapter "The weave"). -/

namespace Sys2Proof.Machine

open Sys2Proof

/-- The FMT page. -/
def fmtPage : Page := ⟨.fmt, 0⟩

/-- Channel bits in a segment at a rate (R65). -/
def segmentBits (rate : Nat) : Nat := rate * 1000000 * 3945 / 251658240

/-- Slots of a track: S (R68). -/
def slotsPerTrack (rate : Nat) : Nat := 512 * (segmentBits rate - 32) / 38272

/-- A rate band as its RB_CFG gives it (R68, R69, R72, R93). -/
structure RateBand where
  skew : Nat
  bandTracks : Nat
  dir : Nat
  rate : Nat
  deriving DecidableEq, Repr

/-- Rate band `k`'s configuration. -/
def rateBand (s : State) (k : Nat) : RateBand :=
  ⟨s.get FMT.RB_CFG.SKEW 0 k, s.get FMT.RB_CFG.BAND_TRACKS 0 k, s.get FMT.RB_CFG.DIR 0 k,
   s.get FMT.RB_CFG.RATE_MHZ 0 k⟩

/-- S (R68). -/
def RateBand.spt (b : RateBand) : Nat := slotsPerTrack b.rate
/-- Trial slots per track (R69). -/
def RateBand.trial (b : RateBand) : Nat := b.spt / 64
/-- U (R69). -/
def RateBand.user (b : RateBand) : Nat := b.spt - b.trial
/-- D, the write tracks of a shingled band (R72). -/
def RateBand.writeTracks (b : RateBand) : Nat := b.bandTracks - 1

/-- RB_GEOMn.VALID (R92). -/
def rateBandValid (s : State) (k : Nat) : Bool :=
  let b := rateBand s k
  1200 ≤ b.rate && b.rate ≤ 4800 && 2 ≤ b.bandTracks &&
    65536 + s.get FMT.SLACK_CFG.SLACK_MIN ≤ b.writeTracks * b.user && b.skew < b.spt

/-- First track of rate band `k` (R72). -/
def firstTrack (s : State) : Nat → Nat
  | 0 => 0
  | k + 1 => firstTrack s k + s.get FMT.BANDS_PER_RB.COUNT * (rateBand s k).bandTracks

/-- FMT_STAT.FORMAT_OK (R92): the last rate band ends below track 4,194,304. -/
def formatOk (s : State) : Bool :=
  (List.range 48).all (rateBandValid s) && s.get FMT.BANDS_PER_RB.COUNT * 48 ≤ 32768 && firstTrack s 48 ≤ 4194304

/-- RB_GEOM as a word (R93). -/
def rbGeomWord (s : State) (k : Nat) : Nat :=
  let b := rateBand s k
  (if rateBandValid s k then 2 ^ 31 else 0) + b.user % 1024 * 2 ^ 16 + b.trial % 16 * 2 ^ 10 + b.spt % 1024

/-- A slot number that belongs to a trial sector (R69). -/
def isTrial (slot : Nat) : Bool := slot % 64 = 63

/-- Slots of write track `w` in rotational order, from slot (w x SKEW) mod S on (R74). -/
def trackOrder (b : RateBand) (w : Nat) : List Nat :=
  (List.range b.spt).map fun r => (w * b.skew + r) % b.spt

/-- The usable slots of write track `w`: neither trial nor in the skip list (R75). -/
def usableSlots (b : RateBand) (skips : List Nat) (w : Nat) : List Nat :=
  (trackOrder b w).filter fun s => !isTrial s && !skips.contains (w * b.spt + s)

/-- How many usable slots write track `w` has, counted from its listed slots. -/
def usableCount (b : RateBand) (skips : List Nat) (w : Nat) : Nat :=
  b.user - ((skips.eraseDups.filter fun x => x / b.spt = w && !isTrial (x % b.spt))).length

/-- The (n + 1)-th usable slot over the given write tracks: write track and slot (R75, R81). -/
def nthUsable (b : RateBand) (skips : List Nat) : List Nat → Nat → Option (Nat × Nat)
  | [], _ => none
  | w :: ws, n =>
    let c := usableCount b skips w
    if n < c then ((usableSlots b skips w)[n]?).map fun s => (w, s)
    else nthUsable b skips ws (n - c)

/-- Write tracks a band uses: all of a shingled band, every third of a conventional one (R72, R81). -/
def bandTracks (b : RateBand) (conv : Bool) : List Nat :=
  (List.range b.writeTracks).filter fun w => !conv || w % 3 = 0

/-- Slack of a band: its usable slots less its data capacity (R76, R81). -/
def bandSlack (b : RateBand) (conv : Bool) : Nat :=
  if conv then (b.writeTracks + 2) / 3 * b.user - 16384 else b.writeTracks * b.user - 65536

/-- Physical track of write track `w` of band `j` of rate band `k` (R72, R73). -/
def physicalTrack (s : State) (k j w : Nat) : Nat :=
  let b := rateBand s k
  let first := firstTrack s k + j * b.bandTracks
  if b.dir = 0 then first + w else first + b.writeTracks - w

/-- A PSA (R86). -/
def psaOf (head track slot : Nat) : Nat := head * 2 ^ 35 + track % 2 ^ 22 * 2 ^ 10 + slot % 1024

/-! Where a PSA lies (R72-R76, R86). -/

/-- Head number of a PSA. -/
def psaHead (p : Nat) : Nat := p / 2 ^ 35 % 32
/-- Physical track of a PSA. -/
def psaTrack (p : Nat) : Nat := bits p 10 22
/-- Slot of a PSA. -/
def psaSlot (p : Nat) : Nat := bits p 0 10

/-- The rate band of a track (R72). -/
def trackRateBand (s : State) (track : Nat) : Option Nat :=
  (List.range 48).find? fun k => firstTrack s k ≤ track && decide (track < firstTrack s (k + 1))

/-- Band and write track of a physical track (R72, R73); none on a guard track or beyond the format. -/
def trackPlace (s : State) (track : Nat) : Option (Nat × Nat) :=
  match trackRateBand s track with
  | none => none
  | some k =>
    let b := rateBand s k
    let r := (track - firstTrack s k) % b.bandTracks
    let w := if b.dir = 0 then r else b.writeTracks - r
    if w < b.writeTracks then some (k * s.get FMT.BANDS_PER_RB.COUNT + (track - firstTrack s k) / b.bandTracks, w)
    else none

/-- Slots a track holds (R65), by its rate band. -/
def trackSlots (s : State) (track : Nat) : Nat :=
  match trackRateBand s track with
  | some k => (rateBand s k).spt
  | none => 0

/-- Frame-carrying bits of a segment of a track (R64, R65). -/
def segBits (s : State) (track : Nat) : Nat :=
  match trackRateBand s track with
  | some k => segmentBits (rateBand s k).rate - 32
  | none => 0

/-! Zone map entries (R87). -/

/-- Buffer address of a zone's entry. -/
def zoneEntryAddr (s : State) (zone : Nat) : Nat := s.get FMT.MAP_BASE.ADDR * 4096 + 64 * zone

/-- A zone map entry as read. -/
structure ZoneEntry where
  bytes : List Nat
  poison : Bool
  deriving DecidableEq, Repr

/-- Field [lsb + wid - 1 : lsb] of the four bytes at `off`. -/
def fieldAt (bs : List Nat) (off lsb wid : Nat) : Nat := bits (leNat ((bs.drop off).take 4)) lsb wid

/-- STATE of the entry. -/
def ZoneEntry.state (e : ZoneEntry) : Nat := fieldAt e.bytes 0 0 4
/-- KIND of the entry: 0 plain, 1 woven actuator-safe, 2 woven surface-safe, 3 conventional. -/
def ZoneEntry.kind (e : ZoneEntry) : Nat := fieldAt e.bytes 0 4 2
/-- NSX of the entry. -/
def ZoneEntry.ns (e : ZoneEntry) : Nat := fieldAt e.bytes 0 8 6
/-- VERIFIED of the entry. -/
def ZoneEntry.verified (e : ZoneEntry) : Bool := fieldAt e.bytes 0 14 1 = 1
/-- WP of the entry. -/
def ZoneEntry.wp (e : ZoneEntry) : Nat := fieldAt e.bytes 4 0 32
/-- MWP of the entry. -/
def ZoneEntry.mwp (e : ZoneEntry) : Nat := fieldAt e.bytes 8 0 32
/-- HEAD of strand `n`. -/
def ZoneEntry.head (e : ZoneEntry) (n : Nat) : Nat := fieldAt e.bytes (16 + 4 * n) 27 5
/-- BAND of strand `n`. -/
def ZoneEntry.band (e : ZoneEntry) (n : Nat) : Nat := fieldAt e.bytes (16 + 4 * n) 12 15
/-- LOST of strand `n`. -/
def ZoneEntry.lost (e : ZoneEntry) (n : Nat) : Bool := fieldAt e.bytes (16 + 4 * n) 11 1 = 1

/-- The CRC an entry should hold: over its 64 bytes with the CRC field taken as zero (R87). -/
def entryCrc (bs : List Nat) : Nat := crc32c (bs.take 12 ++ [0, 0, 0, 0] ++ (bs.drop 16).take 48)

/-- Whether the entry's CRC checks (R87). -/
def ZoneEntry.crcOk (e : ZoneEntry) : Bool := fieldAt e.bytes 12 0 32 = entryCrc e.bytes

/-- Read a zone's entry (R90; FMT's accesses count as OTHER, R398). -/
def readEntry (s : State) (zone : Nat) : ZoneEntry × State :=
  let r := memRead s .other (zoneEntryAddr s zone) 64
  (⟨r.1.bytes, r.1.poison⟩, r.2)

/-- Write bytes of an entry from byte `off` on and its new CRC, in one operation (R89). Poison in it stays. -/
def rewriteEntry (s : State) (zone off : Nat) (new : List Nat) : State :=
  let r := readEntry s zone
  let bs := r.1.bytes.take off ++ new ++ r.1.bytes.drop (off + new.length)
  let bs := bs.take 12 ++ leBytes 4 (entryCrc bs) ++ bs.drop 16
  memWrite r.2 (zoneEntryAddr s zone) bs r.1.poison

/-- FMT status codes (R93). -/
inductive FmtStatus where
  | ok | busy | range | mapCrc | slackOut | formatErr | offline
  deriving DecidableEq, Repr

/-- The code of a status (R93). -/
def FmtStatus.code : FmtStatus → Nat
  | .ok => 0 | .busy => 1 | .range => 2 | .mapCrc => 3 | .slackOut => 4 | .formatErr => 5 | .offline => 6

/-- A failed lookup: ERR_ZONE, ERR_CNT, its event (R77, R90, R92, R94). -/
def fmtFail (s : State) (st : FmtStatus) (zone : Nat) : State :=
  let mark := fun s : State => (s.put FMT.ERR_ZONE.CODE st.code).put FMT.ERR_ZONE.ZONE zone
  match st with
  | .mapCrc => raise ((mark s).bump FMT.ERR_CNT.CRC_CNT) fmtPage 2 0
  | .slackOut => raise ((mark s).bump FMT.ERR_CNT.SLACK_CNT) fmtPage 1 7
  | .range | .formatErr => raise (mark s) fmtPage 3 7
  | .ok | .busy | .offline => s

/-- What a translation answers. -/
structure Xlat where
  status : FmtStatus
  strand : Nat
  psa : Nat
  deriving DecidableEq, Repr

/-- The band table entry of a head's band (R88): KIND, owning zone, SKIP_CNT, SKIP_PTR. -/
structure BandEntry where
  kind : Nat
  zone : Nat
  count : Nat
  ptr : Nat
  deriving DecidableEq, Repr

/-- Buffer address of a band table entry (R88). -/
def bandEntryAddr (s : State) (head band : Nat) : Nat :=
  s.get FMT.BAND_BASE.ADDR * 4096 + (head * 32768 + band) * 8

/-- Read a band table entry. -/
def readBand (s : State) (head band : Nat) : (BandEntry × Bool) × State :=
  let r := memRead s .other (bandEntryAddr s head band) 8
  let v := leNat r.1.bytes
  ((⟨bits v 0 3, bits v 3 19, bits v 22 10, bits v 32 32⟩, r.1.poison), r.2)

/-- The eight bytes of a band table entry (R88). DESIGN CHOICE: SKIP_CNT has 10 bits, so a list of more than 1,023 slots
leaves its length modulo 1,024 (log 68). -/
def BandEntry.bytes (e : BandEntry) : List Nat :=
  leBytes 8 (e.kind % 8 + e.zone % 2 ^ 19 * 2 ^ 3 + e.count % 1024 * 2 ^ 22 + e.ptr % 2 ^ 32 * 2 ^ 32)

/-- Buffer address of a band's list (R88). -/
def skipListAddr (s : State) (e : BandEntry) : Nat := s.get FMT.SKIP_BASE.ADDR * 4096 + 64 * e.ptr

/-- Split bytes into little-endian numbers of `n` bytes each, at most `c` of them. -/
def words (n : Nat) : Nat → List Nat → List Nat
  | 0, _ => []
  | c + 1, bs => leNat (bs.take n) :: words n c (bs.drop n)

/-- A shingled band's skip list: band slot indexes (R88). -/
def readSkips (s : State) (e : BandEntry) : (List Nat × Bool) × State :=
  let r := memRead s .other (skipListAddr s e) (4 * e.count)
  (((words 4 e.count r.1.bytes).map (bits · 0 19), r.1.poison), r.2)

/-- A conventional band's remap list: bad slot and replacement (R88). -/
def readRemaps (s : State) (e : BandEntry) : (List (Nat × Nat) × Bool) × State :=
  let r := memRead s .other (skipListAddr s e) (8 * e.count)
  (((words 8 e.count r.1.bytes).map fun v => (bits v 0 19, bits v 32 19), r.1.poison), r.2)

/-- Follow the remap list from a slot, at most as many times as it has entries (R81). -/
def remapped (l : List (Nat × Nat)) : Nat → Nat → Nat
  | 0, x => x
  | n + 1, x => match l.find? (·.1 = x) with
    | some e => remapped l n e.2
    | none => x

/-- K of a woven kind (R266). -/
def dataStrands (kind : Nat) : Nat := if kind = 2 then 10 else 9

/-- Zone capacity in logical blocks by KIND (R80). -/
def zoneCapacity (kind : Nat) : Nat :=
  if kind = 1 then 589824 else if kind = 2 then 655360 else if kind = 3 then 16384 else 65536

/-- The strand and strand sector an offset names, if it names one (R269, R271, R94). -/
def locate (kind off : Nat) : Option (Nat × Nat) :=
  if kind = 1 ∨ kind = 2 then
    if bit off 31 then (if bits off 24 4 < 12 then some (bits off 24 4, bits off 0 16) else none)
    else if off < zoneCapacity kind then
      let k := dataStrands kind
      some (off % (16 * k) / 16, 16 * (off / (16 * k)) + off % 16)
    else none
  else if off < zoneCapacity kind then some (0, off) else none

/-- EV054, once a band, when its remaining slack has come within SLACK_LOW (R77). -/
def warnSlack (s : State) (head band count slack : Nat) : State :=
  let key := head * 32768 + band
  if slack ≤ count + s.get FMT.SLACK_CFG.SLACK_LOW && !s.fmt.warned.contains key then
    raise { s with fmt := { s.fmt with warned := s.fmt.warned ++ [key] } } fmtPage 0 7
  else s

/-- The PSA of strand sector `n` of a band (R72-R77, R81), or the status it fails with. Poison met in the band table or
a list fails the lookup as poison in the zone's entry does (DEDUCED, log 9). -/
def translateBand (s : State) (zone strand head band n : Nat) (conv : Bool) : Xlat × State :=
  let fail := fun (st : FmtStatus) (s : State) => ((⟨st, strand, 0⟩ : Xlat), fmtFail s st zone)
  let bpr := s.get FMT.BANDS_PER_RB.COUNT
  if !bit (s.get FMT.HEAD_EN.EN) head || bpr * 48 ≤ band then fail .range s
  else
    let k := band / bpr
    let j := band % bpr
    let b := rateBand s k
    let e := readBand s head band
    let done := fun (w slot : Nat) (s : State) =>
      ((⟨.ok, strand, psaOf head (physicalTrack s k j w) slot⟩ : Xlat), s)
    if conv then
      let l := readRemaps e.2 e.1.1
      if e.1.2 || l.1.2 then fail .mapCrc l.2
      else
        let s := warnSlack l.2 head band e.1.1.count (bandSlack b true)
        match nthUsable b [] (bandTracks b true) n with
        | none => fail .slackOut s
        | some (w, slot) =>
          let x := remapped l.1.1 l.1.1.length (w * b.spt + slot)
          done (x / b.spt) (x % b.spt) s
    else
      let l := readSkips e.2 e.1.1
      if e.1.2 || l.1.2 then fail .mapCrc l.2
      else
        let s := warnSlack l.2 head band e.1.1.count (bandSlack b false)
        match nthUsable b l.1.1 (bandTracks b false) n with
        | none => fail .slackOut s
        | some (w, slot) => done w slot s

/-- A translation (R61, R72-R77, R90, R92, R94, R269, R271). Zone state Offline is 0xF in the Zoned Namespace Command
Set (PRESUMED, log 10). -/
def translate (s : State) (zone off : Nat) : Xlat × State :=
  let fail := fun (st : FmtStatus) (s : State) => ((⟨st, 0, 0⟩ : Xlat), fmtFail s st zone)
  if !formatOk s then fail .formatErr s
  else if min (s.get FMT.ZONE_COUNT.COUNT) 524288 ≤ zone then fail .range s
  else
    let e := readEntry s zone
    if e.1.poison || (s.get FMT.FMT_CTL.CRC_CHK = 1 && !e.1.crcOk) then fail .mapCrc e.2
    else if e.1.state = 0xF then (⟨.offline, 0, 0⟩, e.2)
    else match locate e.1.kind off with
      | none => fail .range e.2
      | some (strand, n) => translateBand e.2 zone strand (e.1.head strand) (e.1.band strand) n (e.1.kind = 3)

/-- The status a work request gets from a domain that is held, off or in reset (R29, R560), in the answer's own
coding. -/
def domainResetStatus : Nat := 15

/-- FMT_TRANSLATE (R90, R560): while FMT does not run, the request ends with DOMAIN_RESET. -/
def execFmtTranslate (zone : Nat) (off : BitVec 32) (s : State) : Result :=
  .next (if running s fmtPage && domainLive s fmtPage.domain then
    let r := translate s zone off.toNat
    r.2.reply r.1.status.code [r.1.psa, r.1.strand]
  else s.reply domainResetStatus [])

/-- Insert into a rising list. -/
def insertRising (x : Nat) : List Nat → List Nat
  | [] => [x]
  | y :: ys => if x < y then x :: y :: ys else if x = y then y :: ys else y :: insertRising x ys

/-- Append a slot to a shingled band's skip list, in rising order (R75, R77, R88). DESIGN CHOICE: poison that the entry or
the list read with does not stop the append, which rewrites both (R90 speaks of lookups; log 68). -/
def appendSkip (s : State) (head band slot : Nat) (e : BandEntry) (b : RateBand) : State :=
  let l := readSkips s e
  let skips := insertRising slot l.1.1
  let e' := { e with count := skips.length }
  let s := memWrite l.2 (skipListAddr l.2 e) (skips.flatMap (leBytes 4))
  let s := memWrite s (bandEntryAddr s head band) e'.bytes
  let s := warnSlack s head band skips.length (bandSlack b false)
  if bandSlack b false < skips.length then (fmtFail s .slackOut e.zone).reply FmtStatus.slackOut.code []
  else s.reply 0 []

/-- Remap a slot of a conventional band to the first free usable slot after the first 16,384 (R81, R88). -/
def appendRemap (s : State) (head band slot : Nat) (e : BandEntry) (b : RateBand) : State :=
  let l := readRemaps s e
  match nthUsable b [] (bandTracks b true) (16384 + e.count) with
  | none => (fmtFail l.2 .slackOut e.zone).reply FmtStatus.slackOut.code []
  | some (w, r) =>
    let entry := leBytes 8 (slot % 2 ^ 19 + (w * b.spt + r) * 2 ^ 32)
    let s := memWrite l.2 (skipListAddr l.2 e + 8 * e.count) entry
    let s := memWrite s (bandEntryAddr s head band) { e with count := e.count + 1 }.bytes
    (warnSlack s head band (e.count + 1) (bandSlack b true)).reply 0 [w * b.spt + r]

/-- SKIP_LIST_APPEND (R75, R77, R78, R81, R89). A band whose number lies beyond the format is RANGE, as in a lookup. -/
def execSkipListAppend (head : Fin 32) (band slot : Nat) (s : State) : Result :=
  .next (
    let bpr := s.get FMT.BANDS_PER_RB.COUNT
    let r := readBand s head.val band
    let e := r.1.1
    if !formatOk s then (fmtFail s .formatErr 0).reply FmtStatus.formatErr.code []
    else if bpr * 48 ≤ band then (fmtFail s .range 0).reply FmtStatus.range.code []
    else
      let b := rateBand s (band / bpr)
      if e.kind = 2 then appendRemap r.2 head.val band slot e b
      else appendSkip r.2 head.val band slot e b)

/-- Write a zone's MWP with its CRC (R89). -/
def writeMwp (s : State) (zone mwp : Nat) : State := rewriteEntry s zone 8 (leBytes 4 mwp)

/-- Whether the entry lock holds a zone (R89). -/
def zoneLocked (s : State) (zone : Nat) : Bool :=
  s.get FMT.ENTRY_LOCK.VALID = 1 && s.get FMT.ENTRY_LOCK.ZONE = zone

/-- An MWP update through FMT: deferred while the lock holds the zone (R89). -/
def updateMwp (s : State) (zone mwp : Nat) : State :=
  if zoneLocked s zone then { s with fmt := { s.fmt with deferred := s.fmt.deferred ++ [(zone, mwp)] } }
  else writeMwp s zone mwp

/-- MWP_UPDATE (R89). -/
def execMwpUpdate (zone : Nat) (mwp : BitVec 32) (s : State) : Result :=
  .next ((updateMwp s zone mwp.toNat).reply 0 [])

/-- Apply the deferred updates of a released zone, in order (R89). -/
def applyDeferred (s : State) : State :=
  let l := s.fmt.deferred
  l.foldl (fun s e => writeMwp s e.1 e.2) { s with fmt := { s.fmt with deferred := [] } }

/-- A write of ENTRY_LOCK (R89): one that names another zone while VALID is 1 is discarded; clearing VALID applies the
deferred updates. -/
def entryLockWrite (q : Req) (w : Word) (s : State) : State :=
  if s.get FMT.ENTRY_LOCK.VALID = 1 && s.get FMT.ENTRY_LOCK.ZONE ≠ FMT.ENTRY_LOCK.ZONE.of w then s
  else
    let s' := plainWrite s q fmtPage 0x068 w
    if s.get FMT.ENTRY_LOCK.VALID = 1 && s'.get FMT.ENTRY_LOCK.VALID = 0 then applyDeferred s' else s'

/-- ENTRY_LOCK_ACQUIRE (R89). -/
def execEntryLockAcquire (q : Req) (w : BitVec 32) (s : State) : Result :=
  .next (guarded s q fmtPage 0x068 w (entryLockWrite q w))

/-- ENTRY_LOCK_RELEASE (R89). -/
def execEntryLockRelease (q : Req) (w : BitVec 32) (s : State) : Result :=
  .next (guarded s q fmtPage 0x068 w (entryLockWrite q w))

/-- A write of FMT_CTL: SCAN starts a scan unless one runs (R91, R93). -/
def fmtCtlWrite (q : Req) (w : Word) (s : State) : State :=
  let s := plainWrite s q fmtPage 0x040 w
  if FMT.FMT_CTL.SCAN.of w = 1 then (s.put FMT.FMT_CTL.SCAN 1).put FMT.FMT_STAT.SCAN_BUSY 1 else s

/-- MAP_SCAN_START (R91). -/
def execMapScanStart (q : Req) (w : BitVec 32) (s : State) : Result :=
  .next (guarded s q fmtPage 0x040 w (fmtCtlWrite q w))

/-- One entry of a scan: counted if its CRC fails, if it is poisoned, or if it was caught while being written (R91). -/
def scanEntry (racing : List Nat) (a : Nat × State) (zone : Nat) : Nat × State :=
  let e := readEntry a.2 zone
  (if e.1.poison || !e.1.crcOk || racing.contains zone then a.1 + 1 else a.1, e.2)

/-- Read and check every zone map entry (R91). -/
def mapScan (racing : List Nat) (s : State) : Nat × State :=
  (List.range (min (s.get FMT.ZONE_COUNT.COUNT) 524288)).foldl (scanEntry racing) (0, s)

/-- MAP_SCAN_COMPLETE (R91): without a scan in progress it is nothing. -/
def execMapScanComplete (racing : List Nat) (s : State) : Result :=
  .next (if s.get FMT.FMT_STAT.SCAN_BUSY = 1 then
    let r := mapScan racing s
    ((r.2.put FMT.SCAN_RES.FAIL_CNT r.1).put FMT.FMT_CTL.SCAN 0).put FMT.FMT_STAT.SCAN_BUSY 0
  else s)

/-- A write of XLAT_REQ (R93): GO translates at once and clears; a failed translation leaves the PSA fields as they
were (DEDUCED, log 11). -/
def xlatReqWrite (q : Req) (w : Word) (s : State) : State :=
  let s := plainWrite s q fmtPage 0x078 w
  if FMT.XLAT_REQ.GO.of w = 1 then
    let r := translate s (s.get FMT.XLAT_REQ.ZONE) (s.get FMT.XLAT_OFF.OFFSET)
    let s := r.2.put FMT.XLAT_HI.STATUS r.1.status.code
    if r.1.status = .ok then
      ((s.put FMT.XLAT_LO.PSA_LO (r.1.psa % 2 ^ 32)).put FMT.XLAT_HI.PSA_HI (r.1.psa / 2 ^ 32)).put
        FMT.XLAT_HI.STRAND r.1.strand
    else s
  else s

/-- XLAT_TEST (R93, R271). -/
def execXlatTest (q : Req) (w : BitVec 32) (s : State) : Result :=
  .next (guarded s q fmtPage 0x078 w (xlatReqWrite q w))

/-- A write of any other FMT register: geometry is discarded while ENABLE is 1 (R92). -/
def fmtWrite (q : Req) (off : Nat) (w : Word) (s : State) : State :=
  if off = 0x040 then fmtCtlWrite q w s
  else if off = 0x068 then entryLockWrite q w s
  else if off = 0x078 then xlatReqWrite q w s
  else if s.get HDR.PAGE_CTL.ENABLE fmtPage.index = 1 &&
      (off = 0x058 || off = 0x05C || off = 0x060 || (0x100 ≤ off && off ≤ 0x1BC)) then s
  else plainWrite s q fmtPage off w

end Sys2Proof.Machine
end

