-- ==== Sys2Proof/Machine/Ldpc.lean ====
section
/-! DEFINITION. What a sector slot holds: the payload and its tag, the scrambler, the LDPC code and its encoder, and the
channel bits of a frame in order (chapters "Surfaces, bands and zones", "Read channel: detection, decoding and
recovery"). -/

namespace Sys2Proof.Machine

open Sys2Proof

/-! The code (R131-R133). -/

/-- The shift of the circulant at block row `r`, block column `c`, if there is one (R133). -/
def circulant (r c : Nat) : Option Nat :=
  if c ≤ 85 then
    let sp := 1 + c / 13
    if (List.range 4).any fun k => (c + k * sp) % 13 = r then some ((29 * r * (2 * c + 1) + 7 * c) % 384) else none
  else if c = 86 then
    if r = 0 then some 1 else if r = 6 then some 0 else if r = 12 then some 1 else none
  else if r = c - 87 ∨ r = c - 86 then some 0 else none

/-- Check `i` of block row `r`: the parity of its codeword bits (R133). -/
def checkBit (v r i : Nat) : Bool :=
  (List.range 99).foldl (fun a c => match circulant r c with
    | some h => a != bit v (384 * c + (i + h) % 384)
    | none => a) false

/-- SYNDROME_W: unsatisfied checks of the 4,992 (R133, R154). -/
def syndromeWeight (v : Nat) : Nat :=
  ((List.range 4992).filter fun k => checkBit v (k / 384) (k % 384)).length

/-- One step of the generator x^31 + x^28 + 1: the output is its top bit (R70, R132; log 13). -/
def prbsStep (x : Nat) : Nat := x * 2 % 2 ^ 31 + (if bit x 30 != bit x 27 then 1 else 0)

/-- The next byte of the generator, first bit on top, and the register after it. -/
def prbsByte (x : Nat) : Nat × Nat :=
  (List.range 8).foldl (fun a _ => (2 * a.1 + (if bit a.2 30 then 1 else 0), prbsStep a.2)) (0, x)

/-- `n` bytes of the generator from a seed. -/
def prbsBytes : Nat → Nat → List Nat
  | 0, _ => []
  | n + 1, x => let b := prbsByte x; b.1 :: prbsBytes n b.2

/-- The trial pattern of a track and head (R70). -/
def trialPayload (track head : Nat) : List Nat := prbsBytes 4128 (0x40000000 ||| (track * 32) ||| head)

/-- The scrambler's seed for a PSA (R132). -/
def scrambleSeed (psa : Nat) : Nat :=
  let x := psa % 2 ^ 31 ^^^ 0x2A5A5A5A
  if x = 0 then 1 else x

/-- Scramble or descramble a payload (R132). -/
def scramble (psa : Nat) (bs : List Nat) : List Nat :=
  List.zipWith (fun a b => a ^^^ b) bs (prbsBytes bs.length (scrambleSeed psa))

/-- Byte `b` of a codeword's payload: bit 7 of it is codeword bit 8b (R130, R133). -/
def payloadByte (v b : Nat) : Nat :=
  (List.range 8).foldl (fun a i => 2 * a + (if bit v (8 * b + i) then 1 else 0)) 0

/-- The 4,128 payload bytes of a codeword, still scrambled (R130, R133). -/
def payloadBytes (v : Nat) : List Nat := (List.range 4128).map (payloadByte v)

/-- What the internal tag says of a descrambled payload (R131, R140): 0 OK, 2 TAG_FAIL, 3 PSA_MISMATCH. -/
def tagStatus (psa : Nat) (payload : List Nat) : Nat :=
  let tag := payload.drop 4112
  if (tag[5]?).getD 0 / 16 ≠ 1 ∨ leNat ((tag.drop 12).take 4) ≠ crc32c (payload.take 4124) then 2
  else if leNat (tag.take 5) ≠ psa then 3
  else 0

/-! The encoder (R133). -/

/-- A block of 384 bits times a circulant of shift `h`: bit i of the product is bit i + h of the block. -/
def rotBlock (h u : Nat) : Nat := (u / 2 ^ h + u * 2 ^ (384 - h)) % 2 ^ 384

/-- What block row `r` sums over the payload's block columns. -/
def rowSum (u r : Nat) : Nat :=
  (List.range 86).foldl (fun a c => match circulant r c with
    | some h => a ^^^ rotBlock h (bits u (384 * c) 384)
    | none => a) 0

/-- Block columns 87 to 98, each from the block row that meets it first: `p` is the column before, `p0` column 86. -/
def parityChain (u p0 : Nat) : Nat → Nat → Nat → List Nat
  | 0, _, _ => []
  | n + 1, r, p =>
    let q := rowSum u r ^^^ (if r = 0 then rotBlock 1 p0 else p) ^^^ (if r = 6 then p0 else 0)
    q :: parityChain u p0 n (r + 1) q

/-- Blocks side by side, the first lowest. -/
def joinBlocks : List Nat → Nat
  | [] => 0
  | b :: bs => b + 2 ^ 384 * joinBlocks bs

/-- The codeword of 33,024 payload bits: parity such that all 4,992 checks hold. The rows' sum leaves column 86, whose
two shifted circulants cancel. -/
def encode (u : Nat) : Nat :=
  let p0 := (List.range 13).foldl (fun a r => a ^^^ rowSum u r) 0
  u + 2 ^ 33024 * joinBlocks (p0 :: parityChain u p0 12 0 0)

/-- The lowest `n` bits of `b` in the opposite order. -/
def mirror (n b : Nat) : Nat := (List.range n).foldl (fun a i => a + (if bit b i then 2 ^ (n - 1 - i) else 0)) 0

/-- Payload bytes as payload bits: bit 7 of byte 0 is bit 0 (R130). -/
def payloadNumber (bs : List Nat) : Nat := leNat (bs.map (mirror 8))

/-! The frame's channel bits (R64, R66, R67, R113): bit 0 is sent first. A pattern written in binary is sent from its
left, as a mark is (DEDUCED, log 65). -/

/-- `n` bits of 0b1100 again and again: preamble and pad. -/
def padBits (n : Nat) : Nat := (2 ^ (4 * ((n + 3) / 4)) - 1) / 5 % 2 ^ n

/-- A resume field, 0b1010...10 (R64). -/
def resumeBits : Nat := 0x55555555

/-- SYNC1_PAT and SYNC2_PAT (R113). -/
def mark1 : Nat := 0x71F4A38B
/-- SYNC2_PAT. -/
def mark2 : Nat := 0xD2C61E5B

/-- The 38,272 channel bits of a frame (R66). -/
def frameOf (cw : Nat) : Nat :=
  padBits 128 + 2 ^ 128 * mirror 32 mark1 + 2 ^ 160 * (cw % 2 ^ 4096) + 2 ^ 4256 * mirror 32 mark2 +
    2 ^ 4288 * (cw / 2 ^ 4096 % 2 ^ 33920) + 2 ^ 38208 * padBits 64

/-- The codeword in a frame's channel bits (R66). -/
def frameCodeword (f : Nat) : Nat := bits f 160 4096 + 2 ^ 4096 * bits f 4288 33920

/-- The frame of a payload as it stands on the media: scrambled already, or a trial pattern (R66, R70, R132, R133). -/
def payloadFrame (bs : List Nat) : Nat := frameOf (encode (payloadNumber bs))

/-- The payload a slot of the media holds, if a frame with its primary mark stands there: still scrambled (R66). -/
def mediaPayload (m : Media) (psa : Nat) : Option (List Nat) :=
  let f := sget 0 m.frames psa
  if bits f 128 32 = mirror 32 mark1 then some (payloadBytes (frameCodeword f)) else none

/-! Writing the media (R64, R67). -/

/-- The segments that channel bits `first` to `last` of a track's sector-carrying stream lie in. -/
def segmentsOf (sl first last : Nat) : List Nat := (List.range (last / sl + 1 - first / sl)).map fun k => first / sl + k

/-- Key of a track: the PSA of its slot 0. -/
def trackKey (psa : Nat) : Nat := psa - psa % 1024

/-- The resume field of every segment that channel bits `first` to `last` of a track lie in (R64). -/
def writeResumes (m : Media) (key sl first last : Nat) : Media :=
  { m with resume := (segmentsOf sl first last).foldl (fun r k => sset 0 r (key * 512 + k % 512) resumeBits) m.resume }

/-- Write one slot's channel bits, after the last slot the pad pattern of the bits left on the track, and the resume field
of every segment that is written (R64, R67). -/
def writeBits (s : State) (psa v : Nat) : State :=
  let sl := segBits s (psaTrack psa)
  let slot := psaSlot psa
  let spt := trackSlots s (psaTrack psa)
  let last := if slot + 1 = spt then max (slot * 38272 + 38271) (512 * sl - 1) else slot * 38272 + 38271
  let m := writeResumes s.media (trackKey psa) sl (slot * 38272) last
  { s with media := { m with
      frames := sset 0 m.frames psa v
      tails := if slot + 1 = spt then sset 0 m.tails (trackKey psa) (padBits (512 * sl - spt * 38272)) else m.tails } }

/-- Pad pattern over channel bits `lo` on of one slot (R163). -/
def padFrom (m : Media) (psa lo : Nat) : Media :=
  { m with frames := sset 0 m.frames psa (sget 0 m.frames psa % 2 ^ lo + padBits 38272 / 2 ^ lo * 2 ^ lo) }

/-- Pad pattern over channel bits `g` of a track to frame bit 0 of slot `first` (R163). -/
def padUpTo (m : Media) (key g first : Nat) : Media :=
  (List.range (first - g / 38272)).foldl (fun m k =>
    let slot := g / 38272 + k
    padFrom m (key + slot) (g - slot * 38272)) m

/-- A slot whose frame is torn or erased: what its bits are then is not known, and it holds no sector. -/
def eraseBits (s : State) (psa : Nat) : State := { s with media := { s.media with frames := sdel s.media.frames psa } }

end Sys2Proof.Machine
end

