-- ==== Sys2Proof/Machine/FrontEnd.lean ====
section
/-! DEFINITION. The lanes' front end: loops, defects, sync marks, framing, the sample buffer (chapter "Read channel:
front end and framing"). The converter samples come from outside; everything computed from them is here. -/

namespace Sys2Proof.Machine

open Sys2Proof

/-- Lane `n` (R95). -/
def State.lane (s : State) (n : Nat) : Lane := sget {} s.lanes n
/-- Set lane `n`. -/
def State.setLane (s : State) (n : Nat) (v : Lane) : State := { s with lanes := sset {} s.lanes n v }
/-- The page of lane `n`. -/
def lanePage (n : Nat) : Page := ⟨.lane, n⟩
/-- Sample buffer entry `e` of a lane (R118). -/
def Lane.entry (l : Lane) (e : Nat) : Entry := sget {} l.entries e
/-- Set a sample buffer entry. -/
def Lane.setEntry (l : Lane) (e : Nat) (v : Entry) : Lane := { l with entries := sset {} l.entries e v }

/-- An entry is pinned by firmware or by LDP (R122). -/
def Entry.pinned (e : Entry) : Bool := e.fwPin || e.ldpPin

/-- Pinned entries of a lane (R119, PIN_CNT). -/
def pinCount (l : Lane) : Nat := ((List.range 72).filter fun e => (l.entry e).pinned).length

/-- PINMAPm (R127). -/
def pinMap (l : Lane) (m : Nat) : Nat :=
  ((List.range 32).filter fun k => 32 * m + k < 72 && (l.entry (32 * m + k)).pinned).foldl (fun a k => a + 2 ^ k) 0

/-- Nearest integer to n / d, halves upward (log 12). -/
def rdiv (n : Int) (d : Nat) : Int := (2 * n + d) / (2 * d)

/-! Loops. -/

/-- What the loops and the defect detector of a frame are set to: the registers as sampled at frame bit -64 (R106).
DESIGN CHOICE: TA_LEN and DO_LEN written 0 act as 1, since a run has at least one bit (log 68). -/
structure LoopCfg where
  target : Int
  gainStep : Nat
  gainTrk : Nat
  ofsStep : Nat
  ofsTrk : Nat
  asymEn : Bool
  asymLimit : Nat
  asymStep : Nat
  taThr : Int
  taLen : Nat
  doThr : Int
  doLen : Nat
  guard : Nat
  defMax : Nat
  freqLimit : Int
  kpAcq : Nat
  kiAcq : Nat
  kpTrk : Nat
  kiTrk : Nat
  hpf : Nat
  hpfTa : Nat
  /-- timing source: 0 reader A, 1 reader B, else the sum -/
  src : Nat
  deriving DecidableEq, Repr

/-- The configuration of lane `n` (R106, R127) with timing source `src`. -/
def loopCfg (s : State) (n src : Nat) : LoopCfg where
  target := s.get LANE.AGC_CTL.TARGET n
  gainStep := s.get LANE.AGC_CTL.GAIN_STEP n
  gainTrk := s.get LANE.AGC_CTL.TRK_STEP n
  ofsStep := s.get LANE.OFS_CTL.OFS_STEP n
  ofsTrk := s.get LANE.OFS_CTL.TRK_STEP n
  asymEn := s.get LANE.ASYM_CTL.ASYM_EN n = 1
  asymLimit := s.get LANE.ASYM_CTL.ASYM_LIMIT n
  asymStep := s.get LANE.ASYM_CTL.ASYM_STEP n
  taThr := s.get LANE.DEF_CTL.TA_THRESH n
  taLen := max 1 (s.get LANE.DEF_CTL.TA_LEN n)
  doThr := s.get LANE.DEF_CTL.DO_THRESH n
  doLen := max 1 (s.get LANE.DEF_CTL.DO_LEN n)
  guard := s.get LANE.DEF_CTL.GUARD n
  defMax := s.get LANE.DEF_MAX.DEFECT_MAX n
  freqLimit := s.get LANE.TIM_CTL.FREQ_LIMIT n
  kpAcq := s.get LANE.TIM_CTL.KP_ACQ n
  kiAcq := s.get LANE.TIM_CTL.KI_ACQ n
  kpTrk := s.get LANE.TIM_CTL.KP_TRK n
  kiTrk := s.get LANE.TIM_CTL.KI_TRK n
  hpf := s.get LANE.AFE_FILT.HPF n
  hpfTa := s.get LANE.AFE_FILT.HPF_TA n
  src := src

/-- A defect that overlaps a frame: kind (true dropout), the sample indexes of its first and last bits so far, counted
in this frame (negative in the frame before), and whether it was detected in an earlier frame (R108, R111). -/
structure Span where
  drop : Bool
  first : Int
  last : Int
  carried : Bool
  deriving DecidableEq, Repr

/-- One reader's way through a frame. -/
structure Path where
  r : Reader
  /-- corrected samples of the 4-bit group, newest first -/
  four : List Int
  /-- positive and negative sums of the 64-bit group -/
  pos : Int
  neg : Int
  spans : List Span
  /-- a loop has been at its limit on 1,024 or more consecutive updates, the last in this frame -/
  limited : Bool
  /-- defects that have become longer than DEFECT_MAX in this frame -/
  longs : Nat
  /-- a defect longer than DEFECT_MAX overlaps this frame -/
  long : Bool
  /-- the most frames before this one that a defect overlaps which has become longer than DEFECT_MAX in this one -/
  overs : Nat
  /-- corrected samples, newest first -/
  out : List Int
  deriving DecidableEq, Repr

/-- y' = y - round(a y^2 / 32), saturated to -32..31; a in Q1.7 (R97). -/
def correctSample (asym y : Int) : Int := clampI (-32) 31 (y - rdiv (asym * y * y) 4096)

/-- ASYM: the accumulator rounded to Q1.7 (R103). -/
def Reader.asym7 (r : Reader) : Int := rdiv r.asym 16

/-- Loops frozen: a defect lasts or its guard runs (R109). -/
def Reader.frozen (r : Reader) : Bool := r.ta.isSome || r.dout.isSome || 0 < r.guard

/-- The sign of a number: 1, 0 or -1. -/
def sgn (x : Int) : Int := if 0 < x then 1 else if x < 0 then -1 else 0

/-- Carry the defect in progress of a kind, the last span of that kind, on to its bit `e`. -/
def growSpan (drop : Bool) (e : Int) : List Span → List Span
  | [] => []
  | x :: xs =>
    if x.drop = drop && !(xs.any fun y => y.drop = drop) then { x with last := e } :: xs else x :: growSpan drop e xs

/-- The guard left at the 16th bit of the run that ends a defect: the loops stay frozen until GUARD bits after the
defect's end, which lies before that run (R108, R109). -/
def endGuard (c : LoopCfg) (r : Reader) : Nat := max r.guard (c.guard - 15)

/-- A defect in progress of `n` bits, the last at sample index `e`, is longer than DEFECT_MAX (R111). `known`: it was so
before; `overs` earlier frames overlap it. -/
def longNow (c : LoopCfg) (n : Nat) (e : Int) (known : Bool) (overs : Nat) (p : Path) : Path :=
  if c.defMax < n then
    { p with long := p.long || decide (0 ≤ e), longs := if known then p.longs else p.longs + 1
             overs := if known then p.overs else max p.overs overs }
  else p

/-- One bit of the thermal asperity detector (R108, R109, R111). `i` is the sample index. -/
def asperityBit (c : LoopCfg) (i : Nat) (p : Path) : Path :=
  let r := p.r
  let mean := (r.hist.take 8).sum
  let mag : Int := if mean < 0 then -mean else mean
  match r.ta with
  | none =>
    if 8 ≤ r.hist.length && 8 * c.taThr ≤ mag then
      let r := if r.taRun = 0 then { r with savedTa := (r.gain, r.ofs, r.asym) } else r
      if c.taLen ≤ r.taRun + 1 then
        let first : Int := (i : Int) + 1 - c.taLen
        longNow c c.taLen i false (if first < 0 then 1 else 0) { p with
          r := { r with ta := some c.taLen, taRun := 0, gain := r.savedTa.1, ofs := r.savedTa.2.1,
                        asym := r.savedTa.2.2, taOver := if first < 0 then 1 else 0,
                        longTa := decide (c.defMax < c.taLen) }
          spans := p.spans ++ [⟨false, first, i, false⟩] }
      else { p with r := { r with taRun := r.taRun + 1 } }
    else { p with r := { r with taRun := 0 } }
  | some n =>
    let run := if 2 * mag < 8 * c.taThr then r.taRun + 1 else 0
    let n := n + 1
    let e : Int := (i : Int) - run
    let p := longNow c (n - run) e r.longTa r.taOver { p with spans := growSpan false e p.spans }
    if 16 ≤ run then { p with r := { r with ta := none, taRun := 0, guard := endGuard c r } }
    else { p with r := { r with ta := some n, taRun := run, longTa := r.longTa || decide (c.defMax < n - run) } }

/-- One bit of the dropout detector (R108, R109, R111). -/
def dropoutBit (c : LoopCfg) (i : Nat) (p : Path) : Path :=
  let r := p.r
  let peak := r.hist.foldl (fun m y => max m (if y < 0 then -y else y)) 0
  let low := 16 ≤ r.hist.length && 16 * peak < c.doThr * c.target
  match r.dout with
  | none =>
    if low then
      let r := if r.doRun = 0 then { r with savedDo := (r.gain, r.ofs, r.asym) } else r
      if c.doLen ≤ r.doRun + 1 then
        let first : Int := (i : Int) + 1 - c.doLen
        longNow c c.doLen i false (if first < 0 then 1 else 0) { p with
          r := { r with dout := some c.doLen, doRun := 0, gain := r.savedDo.1, ofs := r.savedDo.2.1,
                        asym := r.savedDo.2.2, doOver := if first < 0 then 1 else 0,
                        longDo := decide (c.defMax < c.doLen) }
          spans := p.spans ++ [⟨true, first, i, false⟩] }
      else { p with r := { r with doRun := r.doRun + 1 } }
    else { p with r := { r with doRun := 0 } }
  | some n =>
    let run := if low then 0 else r.doRun + 1
    let n := n + 1
    let e : Int := (i : Int) - run
    let p := longNow c (n - run) e r.longDo r.doOver { p with spans := growSpan true e p.spans }
    if 16 ≤ run then { p with r := { r with dout := none, doRun := 0, guard := endGuard c r } }
    else { p with r := { r with dout := some n, doRun := run, longDo := r.longDo || decide (c.defMax < n - run) } }

/-- Sum of |y'| - TARGET over the samples with |y'| >= TARGET / 2 (R101). -/
def gainSum (c : LoopCfg) (l : List Int) : Int :=
  l.foldl (fun a y => let m : Int := if y < 0 then -y else y
                      if c.target ≤ 2 * m then a + (m - c.target) else a) 0

/-- One gain update (R101, R105). -/
def gainUpdate (c : LoopCfg) (step : Nat) (l : List Int) (r : Reader) : Reader :=
  let g := clampI 0 4095 ((r.gain : Int) - sgn (gainSum c l) * step)
  { r with gain := g.toNat, limGain := if g = 0 ∨ g = 4095 then r.limGain + 1 else 0 }

/-- One offset update (R102, R105). -/
def ofsUpdate (step : Nat) (l : List Int) (r : Reader) : Reader :=
  let o := clampI (-1024) 1023 (r.ofs - sgn l.sum * step)
  { r with ofs := o, limOfs := if o = -1024 ∨ o = 1023 then r.limOfs + 1 else 0 }

/-- One asymmetry update (R103, R105). -/
def asymUpdate (c : LoopCfg) (pos neg : Int) (r : Reader) : Reader :=
  let lim : Int := 16 * c.asymLimit
  let a := clampI (-lim) lim (r.asym + sgn (pos - neg) * c.asymStep)
  { r with asym := a, limAsym := if a = -lim ∨ a = lim then r.limAsym + 1 else 0 }

/-- The gain and offset loops at the end of a group of 4 frame bits; `n` is the group's last frame bit (R100, R105). -/
def groupOfFour (c : LoopCfg) (n : Int) (p : Path) : Path :=
  if n % 4 ≠ 3 then p
  else
    let go := fun (gs os : Nat) =>
      let r := ofsUpdate os p.four (gainUpdate c gs p.four p.r)
      { p with r := r, four := [], limited := p.limited || 1024 ≤ r.limGain || 1024 ≤ r.limOfs }
    if p.r.frozen then { p with four := [] }
    else if 16 ≤ n ∧ n ≤ 79 then go c.gainStep c.ofsStep
    else if 80 ≤ n ∧ n ≤ 38207 then go c.gainTrk c.ofsTrk
    else { p with four := [] }

/-- The asymmetry loop at the end of a group of 64 frame bits (R100, R103, R105). -/
def groupOf64 (c : LoopCfg) (n : Int) (p : Path) : Path :=
  if n % 64 ≠ 63 then p
  else if p.r.frozen ∨ ¬ (128 ≤ n ∧ n ≤ 38207) ∨ !c.asymEn then { p with pos := 0, neg := 0 }
  else
    let r := asymUpdate c p.pos p.neg p.r
    { p with r := r, pos := 0, neg := 0, limited := p.limited || 1024 ≤ r.limAsym }

/-- One sample of an enabled reader: defects on y, then the loops on y' (R97, R100-R110). A thermal asperity switches
the high-pass corner while it lasts (R109). -/
def readerBit (c : LoopCfg) (i : Nat) (y : Int) (p : Path) : Path :=
  let n : Int := (i : Int) - 32
  let y' := correctSample p.r.asym7 y
  let p := { p with r := { p.r with hist := (y :: p.r.hist).take 16, guard := p.r.guard - 1 }, out := y' :: p.out }
  let p := dropoutBit c i (asperityBit c i p)
  let p := { p with
    r := { p.r with corner := if p.r.ta.isSome then c.hpfTa else c.hpf }
    four := y' :: p.four
    pos := if c.target ≤ 2 * y' then p.pos + y' else p.pos
    neg := if 2 * y' ≤ -c.target then p.neg - y' else p.neg }
  groupOf64 c n (groupOfFour c n p)

/-! Timing (R104, R105, R107, R109). -/

/-- The timing loop's part of a frame. -/
structure TimPath where
  /-- FREQ_OFS, 2^-20 bit a bit -/
  freq : Int
  /-- sampling phase, 2^-20 bit, below one bit -/
  phase : Nat
  lim : Nat
  limited : Bool
  /-- last source sample and its decision, 1 or -1 -/
  last : Int × Int
  /-- last 8 source samples, newest first -/
  win : List Int
  deriving DecidableEq, Repr

/-- The fast slicer's hard decision on a source sample: a positive sample is a channel bit 1, which is how the command's
samples are signed (DESIGN CHOICE, log 65); a sample of zero is decided as `Config.zeroSlice` says. -/
def slice (x : Int) : Bool := if 0 < x then true else if x < 0 then false else Config.zeroSlice

/-- The timing loop's source sample of both readers' y' (R104). -/
def sourceSample (src : Nat) (a b : Int) : Int := if src = 0 then a else if src = 1 then b else a + b

/-- A phase moved by a step, in 2^-20 bit. -/
def movePhase (phase : Nat) (d : Int) : Nat := (((phase : Int) + d) % 2 ^ 20).toNat

/-- One Mueller-Muller update: phase by 2^-KP and frequency by 2^-KI of the detector's output, the frequency held at its
limit (R104, R105). -/
def timUpdate (c : LoopCfg) (kp ki : Nat) (e : Int) (t : TimPath) : TimPath :=
  let u := Config.phaseUnits e
  let f := t.freq + rnd u ki
  let lim := if f < -c.freqLimit ∨ c.freqLimit < f then t.lim + 1 else 0
  { t with
    freq := clampI (-c.freqLimit) c.freqLimit f
    phase := movePhase t.phase (rnd u kp)
    lim := lim, limited := t.limited || 1024 ≤ lim }

/-- Which gains a frame bit of the timing schedule takes, proportional and integral: none holds (R100). Before frame bit
0 of a continuous read lie the last bits of the frame before. -/
def timGains (c : LoopCfg) (cont : Bool) (n : Int) : Option (Nat × Nat) :=
  if n < 0 then (if cont then some (c.kpTrk, c.kiTrk) else none)
  else if n < 16 then none
  else if n < 128 then some (c.kpAcq, c.kiAcq)
  else some (c.kpTrk, c.kiTrk)

/-- One source sample of the timing loop with the gains that apply; the phase advances by FREQ_OFS at every sample. -/
def timSample (c : LoopCfg) (gains : Option (Nat × Nat)) (frozen : Bool) (x : Int) (t : TimPath) : TimPath :=
  let d : Int := if slice x then 1 else -1
  let e := x * t.last.2 - t.last.1 * d
  let t := match gains with
    | some (kp, ki) => if frozen then t else timUpdate c kp ki e t
    | none => t
  { t with phase := movePhase t.phase t.freq, last := (x, d), win := (x :: t.win).take 8 }

/-- The zero-phase start at the end of bit 15 sets the interpolator; a continuous read skips it (R100, R104). -/
def zeroPhaseStart (cont frozen : Bool) (n : Int) (t : TimPath) : TimPath :=
  if n = 15 && !cont && !frozen then { t with phase := Config.zeroPhase t.win.reverse % 64 * 2 ^ 14 } else t

/-- A frame on its way: both readers, timing, the slicer's decisions, and what the entry records at frame bit 128
(R125). -/
structure Frame where
  a : Path
  b : Path
  t : TimPath
  /-- decisions, newest first -/
  dec : List Bool
  at128 : Reader × Reader × Int
  short : Bool
  deriving DecidableEq, Repr

/-- The timing loop freezes with its source: a reader that is in defect or its guard (R104, R109). -/
def timFrozen (src : Nat) (a b : Reader) : Bool :=
  if src = 0 then a.frozen else if src = 1 then b.frozen else a.frozen || b.frozen

/-- A reader keeps the timing loop's values at a bit that may be the first of a defect (R109). -/
def keepTim (before after : Reader) (t : TimPath) : Reader :=
  let after := if before.ta.isNone && before.taRun = 0 then { after with savedTaTim := (t.freq, t.phase) } else after
  if before.dout.isNone && before.doRun = 0 then { after with savedDoTim := (t.freq, t.phase) } else after

/-- The timing loop as it would stand had it been frozen since the first bit of a run of `n` bits: the phase has gone on
by FREQ_OFS at each (R109; log 65). -/
def timSince (n : Nat) (saved : Int × Nat) (t : TimPath) : TimPath :=
  { t with freq := saved.1, phase := movePhase saved.2 (saved.1 * ((n : Int) - 1)) }

/-- When its source reader detects a defect, the timing loop returns to the values it held at the defect's first bit
(R109). `on` says whether the reader is a source. -/
def timReturns (c : LoopCfg) (on : Bool) (before after : Reader) (t : TimPath) : TimPath :=
  if !on then t
  else if before.dout.isNone && after.dout.isSome then timSince c.doLen after.savedDoTim t
  else if before.ta.isNone && after.ta.isSome then timSince c.taLen after.savedTaTim t
  else t

/-- The resume field after a wedge: 32 bits of timing at acquisition gains; the other loops hold, no frame bit is
counted, and the zero-phase start, which looks at frame bits, takes none of its samples (R100, R107). A disabled reader
gives zeros (R112). -/
def resumeField (c : LoopCfg) (enA enB : Bool) (g : WedgeGap) (f : Frame) : Frame :=
  let frozen := timFrozen c.src f.a.r f.b.r
  let y := fun (en : Bool) (r : Reader) (v : BitVec 6) => if en then correctSample r.asym7 v.toInt else 0
  let t := (g.a.zip g.b).foldl (fun t x =>
      timSample c (some (c.kpAcq, c.kiAcq)) frozen
        (sourceSample c.src (y enA f.a.r x.1) (y enB f.b.r x.2)) t) f.t
  { f with t := { t with win := f.t.win } }

/-- One sample index of a frame. A disabled reader gives zeros (R112). -/
def frameBit (c : LoopCfg) (enA enB cont : Bool) (i : Nat) (ya yb : Int) (f : Frame) : Frame :=
  let f := if i = 160 then
      { f with at128 := (f.a.r, f.b.r, f.t.freq), short := (enA && f.a.r.frozen) || (enB && f.b.r.frozen) }
    else f
  let n : Int := (i : Int) - 32
  let a := if enA then readerBit c i ya f.a else { f.a with out := 0 :: f.a.out }
  let b := if enB then readerBit c i yb f.b else { f.b with out := 0 :: f.b.out }
  let a := { a with r := keepTim f.a.r a.r f.t }
  let b := { b with r := keepTim f.b.r b.r f.t }
  let t := timReturns c (decide (c.src ≠ 0)) f.b.r b.r (timReturns c (decide (c.src ≠ 1)) f.a.r a.r f.t)
  let x := sourceSample c.src (a.out.headD 0) (b.out.headD 0)
  let frozen := timFrozen c.src a.r b.r
  let t := zeroPhaseStart cont frozen n (timSample c (timGains c cont n) frozen x t)
  { f with a := a, b := b, t := t, dec := slice x :: f.dec }

/-- All samples of a frame in order, with the resume fields of the wedges that interrupt it. -/
def frameBits (c : LoopCfg) (enA enB cont : Bool) (gaps : List WedgeGap) :
    Nat → List (BitVec 6 × BitVec 6) → Frame → Frame
  | _, [], f => f
  | i, (ya, yb) :: l, f =>
    let f := (gaps.filter fun g => g.first = i).foldl (fun f g => resumeField c enA enB g f) f
    frameBits c enA enB cont gaps (i + 1) l (frameBit c enA enB cont i ya.toInt yb.toInt f)

/-! Sync marks. -/

/-- The 32 bits of a mark, most significant first (R113). -/
def markBits (m : Nat) : List Bool := (List.range 32).map fun k => bit m (31 - k)

/-- How many decisions differ from the mark at a frame bit position, if the 32 decisions are there (R114). -/
def mismatch (dec : List Bool) (mark : List Bool) (pos : Int) : Option Nat :=
  let l := (dec.drop (pos + 32).toNat).take 32
  if pos < -32 ∨ l.length < 32 then none
  else some ((List.zipWith (fun x y => x != y) l mark).filter id).length

/-- A candidate: position and mismatch. -/
abbrev Cand := Int × Nat

/-- Of two candidates the better: fewest mismatches, then nearest to `e`, then the earlier (R114). Positions are tried
in rising order, so a tie keeps the first. -/
def better (e : Int) (x : Option Cand) (y : Cand) : Option Cand :=
  match x with
  | none => some y
  | some x => if y.2 < x.2 ∨ (y.2 = x.2 ∧ (y.1 - e).natAbs < (x.1 - e).natAbs) then some y else some x

/-- The chosen candidate within `win` bits of `e`, and within 24 bits of `c` (R114, R115). -/
def searchMark (dec : List Bool) (mark tol win : Nat) (e c : Int) (clip : Bool) : Option Cand :=
  (List.range (2 * win + 1)).foldl (fun best (k : Nat) =>
    let pos := e - win + k
    if clip ∧ 24 < (pos - c).natAbs then best
    else match mismatch dec (markBits mark) pos with
      | some m => if m ≤ tol then better e best (pos, m) else best
      | none => best) none

/-- How the frame is framed (R116). -/
structure Framing where
  src : Nat
  sync2 : Bool
  conflict : Bool
  pOfs : Int
  sOfs : Int
  pMis : Nat
  sMis : Nat
  deriving DecidableEq, Repr

/-- Search both marks and frame the codeword (R115, R116). -/
def framing (dec : List Bool) (tol win1 win2 : Nat) : Framing :=
  let p := searchMark dec mark1 tol win1 128 128 false
  let e2 : Int := match p with | some x => 4256 + (x.1 - 128) | none => 4256
  let q := searchMark dec mark2 tol win2 e2 4256 true
  match p, q with
  | some p, some q => ⟨0, true, decide (q.1 - 4256 ≠ p.1 - 128), p.1 - 128, q.1 - 4256, p.2, q.2⟩
  | some p, none => ⟨0, false, false, p.1 - 128, 0, p.2, 0⟩
  | none, some q => ⟨1, true, false, 0, q.1 - 4256, 0, q.2⟩
  | none, none => ⟨2, false, false, 0, 0, 0, 0⟩

/-! The frame as a whole. -/

/-- The next entry a lane writes: the oldest that is not pinned (R119). -/
def nextEntry (l : Lane) : Nat :=
  let free := (List.range 72).filter fun e => !(l.entry e).pinned
  match free with
  | [] => 0
  | e :: es => es.foldl (fun m k => if (l.entry k).age < (l.entry m).age then k else m) e

/-- A reader with its loops at the presets; what its defect detector holds stays, so that a freeze goes on into the next
frame (R99, R110). -/
def presetReader (gain ofs asym : Nat) (r : Reader) : Reader :=
  { r with gain := 16 * gain, ofs := 16 * signed 7 ofs, asym := 16 * signed 8 asym, limGain := 0, limOfs := 0,
           limAsym := 0, asymHeld := 16 * signed 8 asym }

/-- While ASYM_EN is 0, ASYM holds the preset that was loaded last (R103, R106). -/
def heldAsym (en : Bool) (r : Reader) : Reader := if en then r else { r with asym := r.asymHeld }

/-- A loop triple as its register shows it: GAIN, OFFSET, ASYM (R127). -/
def loopWord (r : Reader) : Nat :=
  r.gain / 16 + unsigned 7 (r.ofs / 16) * 2 ^ 8 + unsigned 8 r.asym7 * 2 ^ 15

/-- FE_STATUS (R126). -/
def feStatus (g : Framing) (spans : Nat) (ta dout long short lim ver off : Bool) (src : Nat) : Nat :=
  let b := fun (x : Bool) (i : Nat) => if x then 2 ^ i else 0
  src + b g.sync2 2 + b g.conflict 3 + unsigned 6 g.pOfs * 2 ^ 4 + unsigned 6 g.sOfs * 2 ^ 10 +
    g.pMis % 8 * 2 ^ 16 + g.sMis % 8 * 2 ^ 19 + min spans 5 * 2 ^ 22 + b ta 25 + b dout 26 + b long 27 + b short 28 +
    b lim 29 + b ver 30 + b off 31

/-- A recorded span: the reader, and what of the defect lies in the frame (R111, R125). -/
def spanWord (rdr : Nat) (first len : Int) : Nat :=
  rdr * 2 ^ 31 + min len.toNat 32767 * 2 ^ 16 + first.toNat % 2 ^ 16

/-- The part of a span from sample index 0 on: first index and length; none if nothing of it lies there. -/
def Span.within (x : Span) : Option (Int × Int) :=
  let f := max 0 x.first
  if x.last < f then none else some (f, x.last + 1 - f)

/-- Insert a recorded span, in order of start (R111). -/
def insertSpan (x : Nat) : List Nat → List Nat
  | [] => [x]
  | y :: ys => if x % 2 ^ 16 < y % 2 ^ 16 then x :: y :: ys else y :: insertSpan x ys

/-- Both readers' spans as recorded, in order of start, reader A first among equals. -/
def allSpans (a b : List Span) : List Nat :=
  let ws := fun (rdr : Nat) (l : List Span) => (l.filterMap Span.within).map fun x => spanWord rdr x.1 x.2
  (ws 0 a ++ ws 1 b).foldl (fun l x => insertSpan x l) []

/-- The metadata words of an entry (R125). -/
def entryWords (status psa rdrEn gen : Nat) (at128 : Reader × Reader × Int) (phase0 : Nat) (spans : List Nat)
    (stroke phase : Nat) (wedges : List Nat) : List Nat :=
  let sp := fun k => (spans[k]?).getD 0
  let wp := fun k => (wedges[k]?).getD 0xFFFF % 2 ^ 16
  [status, psa % 2 ^ 32, psa / 2 ^ 32 % 256 + rdrEn * 2 ^ 8 + gen * 2 ^ 16, loopWord at128.1, loopWord at128.2.1,
   unsigned 16 at128.2.2 * 2 ^ 16 + phase0 % 64, sp 0, sp 1, sp 2, sp 3, stroke % 2 ^ 32,
   phase % 2 ^ 12 + wp 0 * 2 ^ 16, wp 1 + wp 2 * 2 ^ 16, 0, 0, 0]

/-- A defect in progress as a frame begins (R111): it overlaps the frame if it lasts into it. -/
def carriedSpans (r : Reader) : List Span :=
  (if r.ta.isSome then [⟨false, -1, -1, true⟩] else []) ++ (if r.dout.isSome then [⟨true, -1, -1, true⟩] else [])

/-- A reader path at the start of a frame. -/
def startPath (r : Reader) : Path := ⟨r, [], 0, 0, carriedSpans r, false, 0, false, 0, []⟩

/-- The write whose trailing verify a frame belongs to: one verified in the pass on its track, that has written its slot
and waits for the result (R180, R181, R183). -/
def verifyJob (l : Lane) (psa : Nat) : Option WriteJob :=
  (l.judging ++ l.write.toList).find? fun j =>
    j.verified && j.key = trackKey psa && j.unverified.contains (psaSlot psa)

/-- The verify reader of a frame: true reader B (R121, R180). -/
def verifyReader (s : State) (n : Nat) (f : FrameIn) : Bool := (verifyJob (s.lane n) f.psa.toNat).any (·.reader)

/-- Readers that a frame is read with: enabled, and in a verify frame the verify reader alone (R112, R121). -/
def frameReaders (s : State) (n : Nat) (f : FrameIn) : Bool × Bool :=
  (s.get LANE.FE_CTL.RDA_EN n = 1 && !(f.verify && verifyReader s n f),
   s.get LANE.FE_CTL.RDB_EN n = 1 && !(f.verify && !verifyReader s n f))

/-- The timing source of a frame: TIM_SRC, and in a verify frame the verify reader (R104, R121). -/
def timSource (s : State) (n : Nat) (f : FrameIn) : Nat :=
  if f.verify then (if verifyReader s n f then 1 else 0) else s.get LANE.FE_CTL.TIM_SRC n

/-- Whole bits of RDB_SKEW and its fraction in 1/64 bit (R98). -/
def skewOf (s : State) (n : Nat) : Int × Nat :=
  let k := signed 10 (s.get LANE.RDB_SKEW.SKEW n)
  (k / 64, (k % 64).toNat)

/-- Reader B's samples by index: the whole part of the skew delays them against reader A's clock (R98). -/
def alignedB (s : State) (n : Nat) (f : FrameIn) : List (BitVec 6) :=
  (f.b.drop (8 + (skewOf s n).1).toNat).take f.a.length

/-- The loops a frame starts with: carried over in a continuous read with CARRY set, else presets; the frequency offset
is preset too where the rate band changes (R99, R103, R104). `cont`: the read is continuous. -/
def frameStartLoops (s : State) (n : Nat) (psa : Nat) (cont : Bool) : Reader × Reader × Int × Nat :=
  let l := s.lane n
  let keep := s.get LANE.FE_CTL.CARRY n = 1 && cont
  let pa := s.get LANE.RDA_PRESET.ASYM n
  let pb := s.get LANE.RDB_PRESET.ASYM n
  let en := s.get LANE.ASYM_CTL.ASYM_EN n = 1
  let ra := if keep then l.ra else presetReader (s.get LANE.RDA_PRESET.GAIN n) (s.get LANE.RDA_PRESET.OFFSET n) pa l.ra
  let rb := if keep then l.rb else presetReader (s.get LANE.RDB_PRESET.GAIN n) (s.get LANE.RDB_PRESET.OFFSET n) pb l.rb
  let same := keep && l.band = trackRateBand s (psaTrack psa)
  (heldAsym en ra, heldAsym en rb,
   if same then l.freq else signed 16 (s.get LANE.TIM_PRESET.FREQ_PRESET n), if same then l.limFreq else 0)

/-- A frame continues the read before it; the verify reader's read gate opens anew at each of its frames (R99, R181). -/
def readContinues (s : State) (n : Nat) (f : FrameIn) : Bool := (s.lane n).continuous && !f.verify

/-- The loops of a frame run (R99-R112). -/
def runFrame (s : State) (n : Nat) (f : FrameIn) : Frame :=
  let l := s.lane n
  let st := frameStartLoops s n f.psa.toNat (readContinues s n f)
  let en := frameReaders s n f
  let c := loopCfg s n (timSource s n f)
  frameBits c en.1 en.2 (readContinues s n f) f.wedges 0 (f.a.zip (alignedB s n f))
    ⟨startPath st.1, startPath st.2.1, ⟨st.2.2.1, l.phase, st.2.2.2, false, l.lastSrc, []⟩, [],
     (st.1, st.2.1, st.2.2.1), false⟩

/-- A timing source that names a disabled reader (R112). -/
def srcBroken (s : State) (n src : Nat) : Bool :=
  let a := s.get LANE.FE_CTL.RDA_EN n = 0
  let b := s.get LANE.FE_CTL.RDB_EN n = 0
  if src = 0 then a else if src = 1 then b else a || b

/-- TIM_SRC names a disabled reader, which makes every frame LOOP_LIMIT, and so does a verify reader that is disabled
(R112, R121). -/
def timBroken (s : State) (n : Nat) (f : FrameIn) : Bool :=
  srcBroken s n (s.get LANE.FE_CTL.TIM_SRC n) || srcBroken s n (timSource s n f)

/-- What a frame adds to the head's counters and the lane's events (R105, R111, R117, R129). -/
structure FrameCount where
  /-- the primary mark was searched for and missed -/
  miss : Bool
  conflict : Bool
  /-- framed as Nominal -/
  lost : Bool
  tas : Nat
  dos : Nat
  longs : Nat
  lim : Bool
  deriving DecidableEq, Repr

/-- Count a frame's marks and defects for its head index, and raise the lane's events: the long-defect event once for
each defect (R105, R111, R117, R129). -/
def countFrame (s : State) (n idx : Nat) (k : FrameCount) : State :=
  let p := lanePage n
  let before := s.get LANE.FRAME_CNT.SYNC1_MISS n idx
  let s := if k.miss then s.bump LANE.FRAME_CNT.SYNC1_MISS 1 n idx else s
  let m := s.get LANE.FRAME_CNT.SYNC1_MISS n idx
  let s := raiseIf (m ≠ before && (m % 256 = 0 || m = 0xFFFF)) s p 1 7
  let s := if k.lost then raise (s.bump LANE.FRAME_CNT.FRAME_LOST 1 n idx) p 0 7 else s
  let s := if k.conflict then s.bump LANE.FRAME_CNT.CONFLICT 1 n idx else s
  let s := (s.bump LANE.DEFECT_CNT.TA_CNT k.tas n idx).bump LANE.DEFECT_CNT.DO_CNT k.dos n idx
  raiseIf k.lim ((List.range k.longs).foldl (fun s _ => raise s p 2 7) s) p 3 7

/-- Put the lane's view of its loops into its registers (R127). -/
def showLoops (s : State) (n : Nat) (f : Frame) : State :=
  let s := ((s.put LANE.RDA_LIVE.GAIN (f.a.r.gain / 16) n).put LANE.RDA_LIVE.OFFSET (unsigned 7 (f.a.r.ofs / 16)) n).put
    LANE.RDA_LIVE.ASYM (unsigned 8 f.a.r.asym7) n
  let s := ((s.put LANE.RDB_LIVE.GAIN (f.b.r.gain / 16) n).put LANE.RDB_LIVE.OFFSET (unsigned 7 (f.b.r.ofs / 16)) n).put
    LANE.RDB_LIVE.ASYM (unsigned 8 f.b.r.asym7) n
  let s := (s.put LANE.FE_STAT.FROZEN_A (if f.a.r.frozen then 1 else 0) n).put LANE.FE_STAT.FROZEN_B
    (if f.b.r.frozen then 1 else 0) n
  (s.put LANE.TIM_STAT.FREQ_OFS (unsigned 16 f.t.freq) n).put LANE.TIM_STAT.PHASE (f.t.phase / 2 ^ 14) n

/-- The stored samples of a reader's half: zeros when it is disabled or is not the verify reader (R112, R121). -/
def storedHalf (on : Bool) (l : List (BitVec 6)) : List (BitVec 6) := if on then l else l.map fun _ => 0

/-- A frame that stops before frame bit 38,207 is incomplete (R120). Sample index 38,239 is that bit. -/
def frameStopped (f : FrameIn) : Bool := f.a.length ≤ 38239

/-- Add a span to an entry stored already: a defect that a later frame's samples detect began in it (R111). -/
def Entry.addSpan (x : Entry) (drop : Bool) (w : Nat) : Entry :=
  let st := (x.words[0]?).getD 0
  let n := bits st 22 3
  let l := (insertSpan w ((List.range (min n 4)).map fun k => (x.words[6 + k]?).getD 0)).take 4
  let st := setBit (st - n * 2 ^ 22 + min (n + 1) 5 * 2 ^ 22) (if drop then 26 else 25) true
  { x with words := (st :: (x.words.drop 1).take 5) ++ l ++ (x.words.drop (6 + l.length)) }

/-- Flag an entry stored already LONG_DEFECT: a defect that overlaps it has become long since (R111). -/
def Entry.markLong (x : Entry) : Entry :=
  { x with words := setBit ((x.words[0]?).getD 0) 27 true :: x.words.drop 1 }

/-- Change the entries of the lane's last `k` frames. -/
def Lane.amend (l : Lane) (k : Nat) (g : Entry → Entry) : Lane :=
  (List.range 72).foldl (fun l e =>
    let x := l.entry e
    if x.age ≠ 0 && decide (l.frames < x.age + k) then l.setEntry e (g x) else l) l

/-- What a reader's path says of the frames before: spans that began in the last of them, and defects in progress, or
ended in this frame, that have become long (R111). -/
def amendEarlier (l : Lane) (rdr : Nat) (p : Path) : Lane :=
  let l := (p.spans.filter fun x => !x.carried && decide (x.first < 0)).foldl (fun l x =>
    l.amend 1 fun e => e.addSpan x.drop (spanWord rdr (38272 + x.first) (-x.first))) l
  l.amend p.overs Entry.markLong

/-- SRC of a stored entry. -/
def Entry.src (x : Entry) : Nat := bits ((x.words[0]?).getD 0) 0 2

/-- The lane's last completed frame, if its buffer holds it still (R120, R126). -/
def Lane.lastDone (l : Lane) : Option Entry :=
  ((List.range 72).filterMap fun e => if (l.entry e).age ≠ 0 && (l.entry e).src ≠ 3 then some (l.entry e) else none).foldl
    (fun best x => match best with
      | some y => if y.age < x.age then some x else best
      | none => some x) none

/-- LAST_FRAME follows a stopped frame's news of the last completed one (R111, R126). -/
def lastAmended (s : State) (n : Nat) (l : Lane) : State :=
  match l.lastDone with
  | some x => s.put LANE.LAST_FRAME.FE_STATUS ((x.words[0]?).getD 0) n
  | none => s

/-- A reader at a frame's end: a defect in progress overlaps one frame more. -/
def Reader.frameOver (r : Reader) : Reader :=
  { r with taOver := if r.ta.isSome then r.taOver + 1 else 0, doOver := if r.dout.isSome then r.doOver + 1 else 0,
           longTa := r.longTa && r.ta.isSome, longDo := r.longDo && r.dout.isSome }

/-- The defects of a kind that a reader has detected in a frame. -/
def Path.found (p : Path) (drop : Bool) : Nat := (p.spans.filter fun x => x.drop = drop && !x.carried).length

/-- FRAME_READ's effect on the front end: the loops run, the marks are searched, the frame is stored in the oldest
unpinned entry (R99-R121, R125, R126). LAST_FRAME and LAST_PSA tell of completed frames (R126). DESIGN CHOICE: WIN1 or
WIN2 written above 16 is used as written (R115; log 68). -/
def readFrame (s : State) (n : Nat) (f : FrameIn) : State :=
  let l := s.lane n
  let psa := f.psa.toNat
  let idx := s.get LANE.FE_STAT.HEAD n % 8
  let r := runFrame s n f
  let en := frameReaders s n f
  let rdA := s.get LANE.FE_CTL.RDA_EN n = 1
  let rdB := s.get LANE.FE_CTL.RDB_EN n = 1
  let win1 := s.get LANE.SYNC_CTL.WIN1 n
  let g := framing r.dec.reverse (s.get LANE.SYNC_CTL.TOL n) win1 (s.get LANE.SYNC_CTL.WIN2 n)
  let stop := frameStopped f
  let src := if stop then 3 else g.src
  let sp := allSpans r.a.spans r.b.spans
  let overlaps := fun (drop : Bool) => (r.a.spans ++ r.b.spans).any fun x => x.drop = drop && x.within.isSome
  let lim := (en.1 && r.a.limited) || (en.2 && r.b.limited) || r.t.limited || timBroken s n f
  let status := feStatus g sp.length (overlaps false) (overlaps true) (r.a.long || r.b.long) r.short lim f.verify
    (!rdA || !rdB) src
  let e := nextEntry l
  let gen := ((l.entry e).gen + 1) % 2 ^ 16
  let ws := entryWords status psa ((if rdA then 1 else 0) + (if rdB then 2 else 0)) gen r.at128 (l.phase / 2 ^ 14) sp
    (strokeAt s (n / 4 + 1)) f.strokePhase.toNat (f.wedges.map (·.first))
  let entry : Entry :=
    { a := storedHalf en.1 f.a, b := storedHalf en.2 (alignedB s n f), words := ws, gen := gen,
      rdr := (if en.1 then 1 else 0) + (if en.2 then 2 else 0), fwPin := false, ldpPin := false, age := l.frames + 1 }
  let closes := f.last || stop || f.verify
  let am := amendEarlier (amendEarlier l 0 r.a) 1 r.b
  let l' := { am.setEntry e entry with
    ra := r.a.r.frameOver, rb := r.b.r.frameOver, freq := r.t.freq, limFreq := r.t.lim, phase := r.t.phase,
    phaseB := (r.t.phase / 2 ^ 14 + (skewOf s n).2) % 64, lastSrc := r.t.last,
    band := trackRateBand s (psaTrack psa), frames := l.frames + 1,
    readGate := l.readGate && !(closes && !f.verify), continuous := !closes, frameDone := true }
  let s := showLoops (s.setLane n l') n r
  let s := countFrame s n idx
    { miss := g.src ≠ 0 && decide (192 + win1 ≤ f.a.length), conflict := g.conflict, lost := src = 2
      tas := r.a.found false + r.b.found false, dos := r.a.found true + r.b.found true
      longs := r.a.longs + r.b.longs, lim := lim }
  let s := if stop then lastAmended s n am
    else ((s.put LANE.LAST_FRAME.FE_STATUS status n).put LANE.LAST_PSA_LO.PSA_LO (psa % 2 ^ 32) n).put
      LANE.LAST_PSA_HI.PSA_HI (psa / 2 ^ 32) n
  let s := s.put LANE.SBUF_STAT.NEWEST e n
  (s.put LANE.FE_STAT.STATE (if closes then 0 else 5) n).reply src [e, gen]

/-- A lane may read a frame: its read gate is open, or it follows the writer of a write verified in the pass (R99,
R181). -/
def mayRead (s : State) (n : Nat) (f : FrameIn) : Bool :=
  domainLive s (lanePage n).domain && (if f.verify then (verifyJob (s.lane n) f.psa.toNat).isSome else (s.lane n).readGate)

/-- Whether a launch is of this kind and unit and names the present stroke (R43). -/
def Launch.due (x : Launch) (k : LaunchKind) (inst : Nat) (stroke : Nat) : Bool :=
  x.kind = k && x.inst = inst && x.stroke = stroke

/-- Take the oldest launch due on a die, if any. -/
def takeLaunch (s : State) (k : LaunchKind) (inst die : Nat) : Option (Launch × State) :=
  match s.launches.find? fun x => x.due k inst (strokeAt s die) with
  | none => none
  | some x => some (x, { s with launches := s.launches.erase x })

/-- PRE5 is good, so the preamplifiers read (R424, R426). -/
def pre5Good (s : State) : Bool := bit (s.get PWR.PWR_STAT.RAIL_PG) 8

/-- A reader whose samples do not follow the last: its defect detector begins its runs anew, and on another head it
holds nothing (R99, R108, R110; log 65). -/
def Reader.broken (same : Bool) (r : Reader) : Reader := { (if same then r else {}) with hist := [], taRun := 0, doRun := 0 }

/-- The lane turns to head `h` of its actuator, a continuous read ends, and FE_STAT.HEAD names the head served (R99,
R127). -/
def serveHead (s : State) (n h : Nat) : State :=
  let l := s.lane n
  let head := 8 * (n / 2) + h
  let same := s.get LANE.FE_STAT.HEAD n = head
  let ra := l.ra.broken same
  let rb := l.rb.broken same
  let s := (s.setLane n { l with continuous := false, ra := ra, rb := rb }).put LANE.FE_STAT.HEAD head n
  (s.put LANE.FE_STAT.FROZEN_A (if ra.frozen then 1 else 0) n).put LANE.FE_STAT.FROZEN_B (if rb.frozen then 1 else 0) n

/-! The sample buffer's commands. -/

/-- Pin an entry for firmware (R122): BAD_ENTRY, GEN_MISMATCH and PIN_FULL refuse. A pin on an entry firmware has
pinned already changes nothing. DESIGN CHOICE: a pin that meets a GEN mismatch and the limit answers GEN_MISMATCH, and at
the limit a pin of an entry that LDP has pinned is accepted, since no entry more is pinned (log 68). -/
def sbufPin (l : Lane) (e gen : Nat) (chk : Bool) : Nat × Lane :=
  if 72 ≤ e then (2, l)
  else
    let x := l.entry e
    if chk && x.gen ≠ gen then (4, l)
    else if !x.pinned && 8 ≤ pinCount l then (1, l)
    else (0, l.setEntry e { x with fwPin := true })

/-- Release firmware's pin (R128). -/
def sbufUnpin (l : Lane) (e : Nat) : Nat × Lane :=
  if 72 ≤ e then (2, l)
  else
    let x := l.entry e
    if x.fwPin then (0, l.setEntry e { x with fwPin := false }) else (3, l)

/-- Release every firmware pin (R128). -/
def sbufUnpinAll (l : Lane) : Lane :=
  (List.range 72).foldl (fun l e => if (l.entry e).fwPin then l.setEntry e { l.entry e with fwPin := false } else l) l

/-- A write of SBUF_CMD (R122, R127, R128). DESIGN CHOICE: OP 0b11 names no entry, so its ENTRY is not looked at
(log 68). -/
def sbufCmdWrite (n : Nat) (w : Word) (s : State) : State :=
  let e := LANE.SBUF_CMD.ENTRY.of w
  let op := LANE.SBUF_CMD.OP.of w
  let r := if op = 1 then sbufPin (s.lane n) e (LANE.SBUF_CMD.GEN.of w) (LANE.SBUF_CMD.GEN_CHK.of w = 1)
    else if op = 2 then sbufUnpin (s.lane n) e
    else (0, sbufUnpinAll (s.lane n))
  if op = 0 then s else (s.setLane n r.2).put LANE.SBUF_STAT.RESULT r.1 n

/-- SBUF_PIN (R122). -/
def execSbufPin (q : Req) (lane : Fin 8) (w : BitVec 32) (s : State) : Result :=
  .next (guarded s q (lanePage lane.val) 0x09C w (sbufCmdWrite lane.val w))

/-- SBUF_UNPIN (R128). -/
def execSbufUnpin (q : Req) (lane : Fin 8) (w : BitVec 32) (s : State) : Result :=
  .next (guarded s q (lanePage lane.val) 0x09C w (sbufCmdWrite lane.val w))

/-- SBUF_UNPIN_ALL (R128). -/
def execSbufUnpinAll (q : Req) (lane : Fin 8) (w : BitVec 32) (s : State) : Result :=
  .next (guarded s q (lanePage lane.val) 0x09C w (sbufCmdWrite lane.val w))

/-- An entry nothing has been stored in since a reset, as a replay finds it: samples and metadata are free values (R124,
log 2). -/
def unknownEntry (s : State) (n e : Nat) : State :=
  let l := s.lane n
  let v := fun (k : Nat) => Config.freeValue (s.fresh + k)
  let y := fun (k : Nat) => (List.range 38272).map fun i => BitVec.ofNat 6 (bits (v k) (6 * i) 6)
  let x := { l.entry e with a := y 0, b := y 1, words := (List.range 16).map fun k => bits (v 2) (32 * k) 32 }
  { s.setLane n (l.setEntry e x) with fresh := s.fresh + 3 }

/-- The word SBUF_DATA shows for a stored entry at an index (R127). -/
def sbufWord (x : Entry) (md : Bool) (i : Nat) : Nat :=
  if md then (x.words[i]?).getD 0
  else ((x.a[i]?).getD 0).toNat + ((x.b[i]?).getD 0).toNat * 2 ^ 8 + ((x.a[i + 1]?).getD 0).toNat * 2 ^ 16 +
    ((x.b[i + 1]?).getD 0).toNat * 2 ^ 24

/-- A read of SBUF_DATA (R123, R127). An entry nothing has been stored in since a reset, and an index past what is
stored, read as free values: at the last index stored only the upper half does (R124, log 2). So does an entry that the
lane has overwritten during the reading, which begins with the first read after SBUF_WIN is written (R123; log 68). -/
def sbufDataRead (n : Nat) (s : State) : Nat × State :=
  let i := s.get LANE.SBUF_WIN.INDEX n
  let md := s.get LANE.SBUF_WIN.META n = 1
  let l := s.lane n
  let x := l.entry (s.get LANE.SBUF_WIN.ENTRY n)
  let stable := decide (x.age ≠ 0) && decide (l.reading.getD x.age = x.age)
  let known := stable && (if md then i < 16 else i + 1 < x.a.length)
  let half := stable && !md && i + 1 = x.a.length
  let v := if known then sbufWord x md i
    else if half then sbufWord x md i + s.free % 2 ^ 16 * 2 ^ 16
    else s.free % 2 ^ 32
  let s := (if known then s else s.drawn).setLane n { l with reading := some (l.reading.getD x.age) }
  (v, s.put LANE.SBUF_WIN.INDEX (i + (if md then 1 else 2)) n)

/-- What a read of a page meets: the value `rd` gives once it arrives, zero where nothing answers (R8, R28, R29,
R53). -/
def guardedRead (s : State) (q : Req) (p : Page) (off : Nat) (rd : State → Nat × State) : State :=
  if !portOpen s q p off || (q.cls.val = 3 && !seqMay q p) then s.reply 0 [0]
  else match reach s q p with
    | .waits y => (s.reply 0 []).wait ⟨y, q, p.base + off, none⟩
    | .reached => let r := rd s; r.2.reply 0 [r.1]
    | _ => s.reply 0 [0]

/-- SBUF_DATA_READ (R123). -/
def execSbufDataRead (q : Req) (lane : Fin 8) (s : State) : Result :=
  .next (guardedRead s q (lanePage lane.val) 0x0B0 (sbufDataRead lane.val))

/-- A write of any other LANE register (R127); one of SBUF_WIN begins a reading anew (R123). -/
def laneWrite (q : Req) (n off : Nat) (w : Word) (s : State) : State :=
  if off = 0x09C then sbufCmdWrite n w s
  else if off = 0x0AC then
    let s := plainWrite s q (lanePage n) off w
    s.setLane n { s.lane n with reading := none }
  else plainWrite s q (lanePage n) off w

end Sys2Proof.Machine
end

