-- ==== Sys2Proof/Machine/Tcm.lean ====
section
/-! DEFINITION. The tightly coupled SRAM, and buffer and TCM seen as one by the engines (chapter "Processors, caches and
messages"). -/

namespace Sys2Proof.Machine

open Sys2Proof

/-- The page of TCM. -/
def tcmPage : Page := ⟨.tcm, 0⟩
/-- Word `k` of the TCM. -/
def State.tcmWord (s : State) (k : Nat) : TcmWord := sget {} s.tcm.words k
/-- Set word `k`. -/
def State.setTcmWord (s : State) (k : Nat) (v : TcmWord) : State :=
  { s with tcm := { s.tcm with words := sset {} s.tcm.words k v } }
/-- The domain of word `k`: banks of 1 MiB (R447, R551). -/
def tcmDomain (k : Nat) : Nat := 12 + k * 8 / 0x100000

/-- A corrected error (R394, R449). -/
def tcmCorrected (s : State) (k : Nat) : State :=
  let s := ((s.bump TCM.ERR_CNT.CE).put TCM.LAST_ERR.UE 0).put TCM.LAST_ERR.ADDR k
  let l := s.get TCM.CE_LEVEL.LEVEL
  if s.get TCM.CE_BUCKET.DEPTH < l + 1 then raise (s.put TCM.CE_LEVEL.LEVEL 0) tcmPage 0 1
  else s.put TCM.CE_LEVEL.LEVEL (l + 1)

/-- An uncorrectable error (R449). -/
def tcmUncorrectable (s : State) (k : Nat) : State :=
  raise (((s.bump TCM.ERR_CNT.UE).put TCM.LAST_ERR.UE 1).put TCM.LAST_ERR.ADDR k) tcmPage 1 0

/-- A read of word `k`: its 64 bits and poison mark (R447-R449). Three or more wrong bits are beyond the code's
guarantee: a free value picks uncorrectable, clean as stored, or changed further. -/
def tcmReadWord (s : State) (k : Nat) : (Nat × Bool) × State :=
  let x := s.tcmWord k
  let n := (bitList 72 x.err).length
  let raw := x.data ^^^ (x.err % 2 ^ 64)
  if !domainLive s (tcmDomain k) || !x.valid then ((0, false), s)
  else if n = 0 then ((x.data, x.poison), s)
  else if n = 1 then ((x.data, x.poison), tcmCorrected (s.setTcmWord k { x with err := 0 }) k)
  else if n = 2 then ((raw, true), tcmUncorrectable s k)
  else
    let v := s.free
    let s := s.drawn
    if v % 3 = 0 then ((raw, true), tcmUncorrectable s k)
    else if v % 3 = 1 then ((raw, x.poison), s)
    else ((s.free % 2 ^ 64, x.poison), tcmCorrected s.drawn k)

/-- Store a word, under an armed flip mask (R449). -/
def tcmStore (s : State) (k v : Nat) (poison : Bool) : State :=
  let flip := s.get TCM.FLIP_CTL.ARM = 1 && (s.get TCM.FLIP_CTL.ADDR_EN = 0 || s.get TCM.FLIP_CTL.ADDR = k)
  let mask := s.get TCM.FLIP_DATA.MASK 0 0 + s.get TCM.FLIP_DATA.MASK 0 1 * 2 ^ 32 + s.get TCM.FLIP_CHK.MASK * 2 ^ 64
  let s := s.setTcmWord k ⟨true, v, if flip then mask else 0, poison⟩
  if flip then raise (s.put TCM.FLIP_CTL.ARM 0) tcmPage 2 7 else s

/-- Write the bytes of `bs` (from offset `a` on) that fall in word `k` (R436, R447). -/
def tcmWriteWord (a : Nat) (bs : List Nat) (poison : Bool) (s : State) (k : Nat) : State :=
  if !domainLive s (tcmDomain k) || 0x80000 ≤ k then s
  else
    let at' := fun i => if a ≤ 8 * k + i then bs[8 * k + i - a]? else none
    let idx := List.range 8
    if idx.all fun i => (at' i).isSome then tcmStore s k (leNat (idx.map fun i => (at' i).getD 0)) poison
    else
      let r := tcmReadWord s k
      let old := leBytes 8 r.1.1
      tcmStore r.2 k (leNat (idx.map fun i => (at' i).getD ((old[i]?).getD 0))) (poison || r.1.2)

/-- The words that `n` bytes from offset `a` touch. -/
def tcmWords (a n : Nat) : List Nat :=
  if n = 0 then [] else (List.range ((a + n - 1) / 8 - a / 8 + 1)).map (· + a / 8)

/-- A write to the TCM. -/
def tcmWrite (s : State) (a : Nat) (bs : List Nat) (poison : Bool := false) : State :=
  (tcmWords a bs.length).foldl (tcmWriteWord a bs poison) s

/-- Words read in turn: their bytes, whether one was poisoned, the state. -/
def tcmReadWords (s : State) : List Nat → (List Nat × Bool) × State
  | [] => (([], false), s)
  | k :: ks =>
    let r := tcmReadWord s k
    let t := tcmReadWords r.2 ks
    ((leBytes 8 r.1.1 ++ t.1.1, r.1.2 || t.1.2), t.2)

/-- A read of the TCM. -/
def tcmRead (s : State) (a n : Nat) : (List Nat × Bool) × State :=
  let r := tcmReadWords s (tcmWords a n)
  (((r.1.1.drop (a % 8)).take n, r.1.2), r.2)

/-- A consumer that met poison in the TCM counts as one that met it in the buffer (R436); no buffer granule is named. -/
def tcmPoison (s : State) (c : Consumer) : State :=
  raise (s.bump (match c with
    | .pcx => BUF.POISON_CNT.HOST | .core => BUF.POISON_CNT.CORE | .wev => BUF.POISON_CNT.WEV
    | .sch | .other => BUF.POISON_CNT.OTHER)) ⟨.buf, 0⟩ (match c with | .pcx => 0 | _ => 1) 0

/-- TCM_ACCESS (R433, R436, R447): a load that meets poison takes a data abort, answered as status 1. -/
def execTcmAccess (off : BitVec 22) (n : Nat) (w : Option (BitVec 64)) (e : BitVec 72) (s : State) : Result :=
  .next (
    let a := off.toNat
    let k := a / 8
    let x := s.tcmWord k
    let s := if x.valid then s.setTcmWord k { x with err := x.err ^^^ e.toNat } else s
    match w with
    | some v => (tcmWrite s a (leBytes n v.toNat)).reply 0 []
    | none =>
      let r := tcmRead s a n
      if r.1.2 then (tcmPoison r.2 .core).reply 1 [] else r.2.reply 0 [leNat r.1.1])

/-- A write of CLEAR_CTL (R448): the valid bits of the range clear; an access to a page being cleared waits until it is,
so the clear comes first. -/
def tcmClearWrite (q : Req) (w : Word) (s : State) : State :=
  let busy := s.get TCM.CLEAR_CTL.BUSY = 1
  let s := plainWrite s q tcmPage 0x044 w
  if TCM.CLEAR_CTL.GO.of w = 0 || busy then s
  else
    let lo := s.get TCM.CLEAR_ADDR.PAGE * 512
    let hi := lo + max 1 (s.get TCM.CLEAR_CTL.PAGES) * 512
    ({ s with tcm := { s.tcm with words := s.tcm.words.filter fun x => !(lo ≤ x.1 && decide (x.1 < hi)) } } :
      State).put TCM.CLEAR_CTL.BUSY 1

/-- TCM_CLEAR_START (R448). -/
def execTcmClearStart (q : Req) (w : BitVec 32) (s : State) : Result :=
  .next (guarded s q tcmPage 0x044 w (tcmClearWrite q w))

/-- TCM_CLEAR_COMPLETE (R448, R450). -/
def execTcmClearComplete (s : State) : Result := .next (s.put TCM.CLEAR_CTL.BUSY 0)

/-- A write of FLIP_CTL (R395, R449). -/
def tcmFlipWrite (q : Req) (w : Word) (s : State) : State :=
  let s := plainWrite s q tcmPage 0x058 w
  if TCM.FLIP_CTL.ARM.of w = 1 then s.put TCM.FLIP_CTL.ARM 1 else s

/-- TCM_FLIP_ARM (R449). -/
def execTcmFlipArm (q : Req) (w : BitVec 32) (s : State) : Result :=
  .next (guarded s q tcmPage 0x058 w (tcmFlipWrite q w))

/-- A bank's words cease to be valid (R448). -/
def tcmLoseBank (s : State) (d : Nat) : State :=
  { s with tcm := { s.tcm with words := s.tcm.words.filter fun x => tcmDomain x.1 ≠ d } }

/-- A write of any TCM register (R450). -/
def tcmRegWrite (q : Req) (off : Nat) (w : Word) (s : State) : State :=
  if off = 0x044 then tcmClearWrite q w s else if off = 0x058 then tcmFlipWrite q w s else plainWrite s q tcmPage off w

/-! Buffer or TCM, by a flag, as engines see them. -/

/-- Granules read without consuming their poison: each granule's 32 bytes and mark. -/
def bufGranules (s : State) : List Nat → List (List Nat × Bool) × State
  | [] => ([], s)
  | g :: gs =>
    let r := readGranule (flushGranule s g) g
    let t := bufGranules r.2 gs
    ((r.1.bytes, r.1.poison) :: t.1, t.2)

/-- The same of the TCM. -/
def tcmGranules (s : State) : List Nat → List (List Nat × Bool) × State
  | [] => ([], s)
  | g :: gs =>
    let r := tcmRead s (32 * g) 32
    let t := tcmGranules r.2 gs
    (r.1 :: t.1, t.2)

/-- Whole granules from buffer (`tcm` false) or TCM. -/
def spaceGranules (s : State) (tcm : Bool) (gs : List Nat) : List (List Nat × Bool) × State :=
  if tcm then tcmGranules s gs else bufGranules s gs

/-- A read by an engine; poison met is consumed once. -/
def spaceRead (s : State) (tcm : Bool) (c : Consumer) (a n : Nat) : Read × State :=
  if tcm then
    let r := tcmRead s a n
    (⟨r.1.1, r.1.2⟩, if r.1.2 then tcmPoison r.2 c else r.2)
  else memRead s c a n

/-- A write by an engine. -/
def spaceWrite (s : State) (tcm : Bool) (a : Nat) (bs : List Nat) (poison : Bool := false) : State :=
  if tcm then tcmWrite s a bs poison else memWrite s a bs poison

/-- Granules written in turn with their marks. -/
def spaceWriteAll (s : State) (tcm : Bool) (a : Nat) : List (List Nat × Bool) → State
  | [] => s
  | g :: gs => spaceWriteAll (spaceWrite s tcm a g.1 g.2) tcm (a + 32) gs

end Sys2Proof.Machine
end

