-- ==== Sys2Proof/Machine/Rings.lean ====
section
/-! DEFINITION. Internal work rings and the copy engine (chapter "Processors, caches and messages"). -/

namespace Sys2Proof.Machine

open Sys2Proof

/-- The page of WRK. -/
def wrkPage : Page := ⟨.wrk, 0⟩
/-- Ring `r`. -/
def State.ring (s : State) (r : Nat) : Ring := sget {} s.wrk.rings r
/-- Set ring `r`. -/
def State.setRing (s : State) (r : Nat) (v : Ring) : State :=
  { s with wrk := { s.wrk with rings := sset {} s.wrk.rings r v } }
/-- PUB of a ring. -/
def pubOf (s : State) (r : Nat) : Nat := s.get WRK.PUB.INDEX 0 r
/-- Set PUB. -/
def setPub (s : State) (r v : Nat) : State := s.put WRK.PUB.INDEX v 0 r
/-- Doorbell value of a ring. -/
def doorbellOf (s : State) (r : Nat) : Nat := s.get WRK.DOORBELL.INDEX 0 r

/-- STATE codes of a ring (R460). -/
def rgOff : Nat := 0
/-- RUN. -/
def rgRun : Nat := 1
/-- DRAINING. -/
def rgDraining : Nat := 2
/-- HALTED. -/
def rgHalted : Nat := 3

/-- Entries: 2^LOG2, LOG2 held between 4 and 16 (R460). -/
def Ring.size (x : Ring) : Nat := 2 ^ min 16 (max 4 x.log2)
/-- Bytes of an entry. -/
def Ring.bytes (x : Ring) : Nat := if x.esize = 0 then 32 else if x.esize = 1 then 64 else 128
/-- The engine served; codes above 7 act as none. -/
def Ring.engine (x : Ring) : Nat := if x.consumer ≤ 7 then x.consumer else 0
/-- Address of entry `n` (R452). -/
def Ring.addr (x : Ring) (n : Nat) : Nat := x.base * 64 + n % x.size * x.bytes
/-- `a - b` of 16-bit indices. -/
def ahead (a b : Nat) : Nat := (a + 65536 - b % 65536) % 65536

/-- The domain of a consumer's engine (R551). -/
def engineDomain (c : Nat) : Option Nat :=
  if c = 1 then some 30 else if c = 2 || c = 3 then some 21 else if c = 4 || c = 5 then some 22
  else if c = 7 then some 31 else none

/-- The consumer's domain is reset, in HOLD or off (R456). -/
def engineDown (s : State) (c : Nat) : Bool :=
  match engineDomain c with
  | some d => !domainLive s d || domainState s d = stHold
  | none => false

/-- The consumer's domain is easing: nothing is fetched for it (R453, R560). -/
def engineEasing (s : State) (c : Nat) : Bool :=
  match engineDomain c with
  | some d => domainState s d = stEasing
  | none => false

/-- WRK completes every entry of a ring to an engine that is down (R456): entries started, fetched and posted, with
RST_BYTE in byte 0; on a HALTED ring those before the poisoned entry (R457). -/
def ringResetComplete (s : State) (r : Nat) : State :=
  let x := s.ring r
  if x.dir || !engineDown s x.engine || !working s wrkPage then s
  else
    let n := if x.state = rgRun then ahead (doorbellOf s r) (pubOf s r) else x.fetched.length
    let posted := (List.range n).map fun i => (pubOf s r + i) % 65536
    let ns := (x.started.map (·.1)) ++ posted
    let s := ns.foldl (fun s n => spaceWrite s x.loc (x.addr n) [x.rst]) s
    let p := (pubOf s r + posted.length) % 65536
    setPub (s.setRing r { x with
      started := [], done := [], fetched := [], cpl := (x.cpl + ns.length) % 65536
      fetch := if x.state = rgRun then p else x.fetch }) r p

/-- The same over every ring of a domain's engine (R456). -/
def ringsResetComplete (s : State) (d : Nat) : State :=
  (List.range 256).foldl (fun s r =>
    if engineDomain (s.ring r).engine = some d then ringResetComplete s r else s) s

/-- A write of a doorbell (R453, R458). -/
def doorbellWrite (r : Nat) (w : Word) (s : State) : State :=
  let x := s.ring r
  let d := w.toNat % 65536
  if x.dir then s.put WRK.DOORBELL.INDEX d 0 r
  else
    let span := ahead d (pubOf s r)
    if x.size < span || span < x.fetched.length then
      raise ((s.bump WRK.DB_ERR_CNT.COUNT).put WRK.ERR_RING.RING r) wrkPage 0 7
    else s.put WRK.DOORBELL.INDEX d 0 r

/-- RING_DOORBELL (R453). -/
def execRingDoorbell (q : Req) (ring : Fin 256) (w : BitVec 32) (s : State) : Result :=
  .next (guarded s q wrkPage (0x400 + 4 * ring.val) w (doorbellWrite ring.val w))

/-- Fetch the next entry of a ring (R453, R457): never past the doorbell, never more than four unstarted. -/
def ringFetch (s : State) (r : Nat) : State :=
  let x := s.ring r
  if x.dir || x.state ≠ rgRun || !running s wrkPage then s
  else if engineDown s x.engine then ringResetComplete s r
  else if engineEasing s x.engine || 4 ≤ x.fetched.length ||
      ahead (doorbellOf s r) (pubOf s r) ≤ ahead x.fetch (pubOf s r) then s
  else
    let e := spaceRead s x.loc .other (x.addr x.fetch) x.bytes
    let s := e.2
    if e.1.poison then
      raise ((s.setRing r { x with state := rgHalted, err := 1 }).put WRK.ERR_RING.RING r) wrkPage 1 0
    else s.setRing r { x with fetched := x.fetched ++ [(x.fetch, e.1.bytes)], fetch := (x.fetch + 1) % 65536 }

/-- RING_ENTRY_FETCH (R453, R456, R457). -/
def execRingEntryFetch (ring : Fin 256) (s : State) : Result := .next (ringFetch s ring.val)

/-- The engine starts the ring's oldest fetched entry (R453): PUB counts it. -/
def ringStart (s : State) (r c : Nat) : Option ((Nat × List Nat) × State) :=
  let x := s.ring r
  if x.dir || x.engine ≠ c || engineDown s c then none
  else match x.fetched with
    | [] => none
    | e :: es => some (e, setPub (s.setRing r { x with fetched := es, started := x.started ++ [e] }) r
        ((pubOf s r + 1) % 65536))

/-- The oldest fetched entry's first byte, if there is one. -/
def ringPeek (s : State) (r : Nat) : Option (List Nat) := (s.ring r).fetched.head?.map (·.2)

/-- An engine has a completion ready (R454). -/
def ringDone (s : State) (r : Nat) (d : RingDone) : State :=
  s.setRing r { s.ring r with done := (s.ring r).done ++ [d] }

/-- An engine writes an entry of a ring from it (R458): none when the ring does not run or is full. -/
def ringPut (s : State) (r : Nat) (bs : List Nat) : Option State :=
  let x := s.ring r
  if !x.dir || x.state ≠ rgRun || x.size ≤ ahead (pubOf s r) (doorbellOf s r) then none
  else some (setPub (spaceWrite s x.loc (x.addr (pubOf s r)) bs) r ((pubOf s r + 1) % 65536))

/-- A started entry's completion is written over it (R454). -/
def ringWriteBack (s : State) (r : Nat) (d : RingDone) : State :=
  let x := s.ring r
  let s := d.bytes.foldl (fun s b => spaceWrite s x.loc (x.addr d.n + b.1) b.2) s
  s.setRing r { x with
    started := x.started.filter (·.1 ≠ d.n), done := x.done.erase d, cpl := (x.cpl + 1) % 65536 }

/-- A write of RING_CFG (R452, R455): the other fields only while OFF; EN starts or drains. -/
def ringCfgWrite (w : Word) (s : State) : State :=
  let r := s.get WRK.RING_WIN.RING
  let x := s.ring r
  let x := if x.state = rgOff then { x with
      consumer := WRK.RING_CFG.CONSUMER.of w, rst := WRK.RING_CFG.RST_BYTE.of w
      dir := WRK.RING_CFG.DIR.of w = 1, loc := WRK.RING_CFG.LOC.of w = 1
      esize := WRK.RING_CFG.ESIZE.of w, log2 := WRK.RING_CFG.LOG2.of w } else x
  let en := WRK.RING_CFG.EN.of w = 1
  if en && !x.en && x.state = rgOff then
    s.setRing r { x with en := true, state := rgRun, err := 0, fetch := pubOf s r }
  else if !en && x.en then
    let s := s.bump WRK.DISCARD_CNT.COUNT x.fetched.length
    s.setRing r { x with en := false, state := rgDraining, fetched := [], fetch := pubOf s r }
  else s.setRing r x

/-- RING_DISABLE (R455). -/
def execRingDisable (q : Req) (w : BitVec 32) (s : State) : Result :=
  .next (guarded s q wrkPage 0x048 w (ringCfgWrite w))

/-- RING_ENABLE (R455). -/
def execRingEnable (q : Req) (w : BitVec 32) (s : State) : Result :=
  .next (guarded s q wrkPage 0x048 w (ringCfgWrite w))

/-- RING_DRAIN_COMPLETE (R455). -/
def execRingDrainComplete (ring : Fin 256) (s : State) : Result :=
  .next (
    let x := s.ring ring.val
    if x.state = rgDraining && x.started.isEmpty then
      raise (s.setRing ring.val { x with state := rgOff, fetch := pubOf s ring.val }) wrkPage 2 7
    else s)

/-- A write of RING_CMD (R457). -/
def ringCmdWrite (w : Word) (s : State) : State :=
  let r := s.get WRK.RING_WIN.RING
  let x := s.ring r
  if WRK.RING_CMD.RESUME.of w = 1 && x.state = rgHalted then ringFetch (s.setRing r { x with state := rgRun, err := 0 }) r
  else s

/-- RING_RESUME (R457): the entry is fetched again. -/
def execRingResume (q : Req) (w : BitVec 32) (s : State) : Result :=
  .next (guarded s q wrkPage 0x050 w (ringCmdWrite w))

/-! The copy engine (R459). -/

/-- Fields of a copy entry. -/
def copyField (e : List Nat) (at' n : Nat) : Nat := leNat ((e.drop at').take n)

/-- The completion of a copy entry: the result word first, byte 0 last (R454, R459). -/
def copyDone (n : Nat) (e : List Nat) (status : Nat) (result : Option Nat) : RingDone :=
  let b := status + (if bit (e.headD 0) 6 then 64 else 0) + 128
  { n := n, status := status, entry := e
    bytes := (match result with | some v => [(28, leBytes 4 v)] | none => []) ++ [(0, [b])] }

/-- What a copy entry does: its status, its result word, the state. -/
def copyRun (s : State) (e : List Nat) : Nat × Option Nat × State :=
  let op := e.headD 0 % 8
  let flags := copyField e 1 1
  let src := copyField e 8 8 % 2 ^ 38
  let dst := copyField e 16 8 % 2 ^ 38
  let len := copyField e 24 4
  if len = 0 || len % 32 ≠ 0 || !(op = 1 || op = 2 || op = 3) || (op ≠ 2 && src % 32 ≠ 0) || (op ≠ 3 && dst % 32 ≠ 0) then
    (2, none, s)
  else if op = 2 then
    let unit := leBytes 4 (copyField e 28 4)
    (0, none, spaceWrite s (bit flags 1) dst ((List.replicate (len / 4) unit).flatten))
  else
    let g := spaceGranules s (bit flags 0) ((List.range (len / 32)).map (· + src / 32))
    let st := if g.1.any (·.2) then 1 else 0
    if op = 1 then (st, none, spaceWriteAll g.2 (bit flags 1) dst g.1)
    else (st, some (crc32c (g.1.flatMap (·.1))), g.2)

/-- The copy engine runs the oldest fetched entry of a ring whose OP the command names, one entry at a time. -/
def copyServe (s : State) (r : Nat) (mine : Nat → Bool) : State :=
  match ringPeek s r with
  | none => s
  | some e =>
    if s.wrk.copy.isSome || !working s wrkPage || !mine (e.headD 0 % 8) then s
    else match ringStart s r 6 with
      | none => s
      | some (x, s) =>
        let o := copyRun s x.2
        ringDone { o.2.2 with wrk := { o.2.2.wrk with copy := some r } } r (copyDone x.1 x.2 o.1 o.2.1)

/-- COPY_COPY (R459). -/
def execCopyCopy (ring : Fin 256) (s : State) : Result := .next (copyServe s ring.val fun op => op ≠ 2 && op ≠ 3)
/-- COPY_FILL (R459). -/
def execCopyFill (ring : Fin 256) (s : State) : Result := .next (copyServe s ring.val fun op => op = 2)
/-- COPY_CRC (R459). -/
def execCopyCrc (ring : Fin 256) (s : State) : Result := .next (copyServe s ring.val fun op => op = 3)

/-! Registers. -/

/-- RING_CFG as a word (R460). -/
def ringCfgWord (x : Ring) : Nat :=
  (if x.en then 2 ^ 31 else 0) + x.consumer * 2 ^ 24 + x.rst * 2 ^ 16 + (if x.dir then 2 ^ 12 else 0) +
    (if x.loc then 2 ^ 11 else 0) + x.esize * 2 ^ 8 + x.log2

/-- RING_STAT as a word (R460). -/
def ringStatWord (x : Ring) : Nat := x.state * 2 ^ 28 + x.err * 2 ^ 24 + x.fetch

/-- A write of RING_BASE: only while the ring is OFF (R452). -/
def ringBaseWrite (w : Word) (s : State) : State :=
  let r := s.get WRK.RING_WIN.RING
  let x := s.ring r
  if x.state = rgOff then s.setRing r { x with base := w.toNat } else s

/-- A write of any WRK register (R460). -/
def wrkWrite (q : Req) (off : Nat) (w : Word) (s : State) : State :=
  if off = 0x044 then ringBaseWrite w s
  else if off = 0x048 then ringCfgWrite w s
  else if off = 0x050 then ringCmdWrite w s
  else if 0x400 ≤ off && off < 0x800 then doorbellWrite ((off - 0x400) / 4) w s
  else plainWrite s q wrkPage off w

end Sys2Proof.Machine
end

