-- ==== Sys2Proof/Machine/Detector.lean ====
section
/-! DEFINITION. The combiner and the detectors: online, replay, backward, combined (chapter "Read channel: detection,
decoding and recovery"). What the spec states of their arithmetic is computed here; the level of a bit and the cost of a
branch, of which it names no more, are `Config.bitLevel` and `Config.branchCost` (log 66). -/

namespace Sys2Proof.Machine

open Sys2Proof

/-- LDP `d` (R130). -/
def State.ldp (s : State) (d : Nat) : Ldp := sget {} s.ldps d
/-- Set LDP `d`. -/
def State.setLdp (s : State) (d : Nat) (v : Ldp) : State := { s with ldps := sset {} s.ldps d v }
/-- The page of LDP `d`. -/
def ldpPage (d : Nat) : Page := ⟨.ldp, d⟩
/-- Device number of lane `k` of die `d`. -/
def laneNo (d k : Nat) : Nat := 4 * d + k

/-! The coefficient sets (R136). -/

/-- Word `w` of the active half of a head's set (R136). -/
def coefWord (s : State) (d h set w : Nat) : Nat := sget 0 (s.ldp d).coef (((h * 2 + set) * 2 + 1) * 64 + w)

/-- The ten taps that start at a word, Q2.8 (R136). -/
def tapsAt (s : State) (d h set first : Nat) : List Int :=
  (List.range 10).map fun k => signed 10 (bits (coefWord s d h set (first + k / 2)) (16 * (k % 2)) 10)

/-- The words of a set that the Viterbi detector uses: target, scales, predictor (R136). -/
def viterbiWords (s : State) (d h set : Nat) : List Nat := (List.range 17).map fun k => coefWord s d h set (10 + k)

/-- LLR_SCALE, or LLR_SCALE_1R where one reader is taken (R135, R136). -/
def llrScale (s : State) (d h set rdr : Nat) : Nat := bits (coefWord s d h set 10) (if rdr = 3 then 16 else 24) 8

/-! The combiner (R134, R135). -/

/-- Sample `i` of a list, zero outside it. -/
def sampleAt (y : List Int) (i : Nat) : Int := (y[i]?).getD 0

/-- One reader's part of z[i]: the sum of tap k times y'[i + 4 - k]. -/
def tapSum (taps y : List Int) (i : Nat) : Int :=
  (List.range 10).foldl (fun a k => if k ≤ i + 4 then a + (taps[k]?).getD 0 * sampleAt y (i + 4 - k) else a) 0

/-- z over a whole entry, in 2^-10: samples with two fraction bits, taps Q2.8. A reader that is not taken counts as
zero (R134, R135, R148). -/
def combine (s : State) (d h set rdr : Nat) (ya yb : List Int) : List Int :=
  let a := if bit rdr 0 then tapsAt s d h set 0 else []
  let b := if bit rdr 1 then tapsAt s d h set 5 else []
  (List.range (max ya.length yb.length)).map fun i => tapSum a ya i + tapSum b yb i

/-- A likelihood scaled and saturated to -31..31 (R134). -/
def scaleLlr (scale : Nat) (v : Int) : Int := clampI (-31) 31 (rnd (v * scale) 12)

/-! The Viterbi detector (R134, R145). -/

/-- A path that survives at a state: its cost, its last three errors and its bits with how sure each is, newest first. -/
structure Survivor where
  cost : Nat
  errs : List Int
  path : List (Bool × Nat)
  deriving DecidableEq, Repr

/-- What the target (1, g1, g2) expects at a state, whose four bits stand newest first from bit 0, in 2^-10 (R134). A pass
backward in time has its newest bit two samples before the one it looks at. -/
def targetAt (ws : List Nat) (back : Bool) (k : Nat) : Int :=
  let w := (ws[0]?).getD 0
  let v := fun (j : Nat) => Config.bitLevel (bit k j)
  let x := if back then (v 2, v 0) else (v 0, v 2)
  64 * x.1 + signed 8 (bits w 0 8) * v 1 + signed 8 (bits w 8 8) * x.2

/-- A bit that no other path has contested. -/
def uncontested : Nat := 2 ^ 40

/-- A survivor goes on to state `k` with a combined sample: its error, less what the predictor of the state's four bits
makes of the last three, costs what INV_SIGMA says (R134, R136). -/
def extend (ws : List Nat) (back : Bool) (z : Int) (k : Nat) (x : Survivor) : Survivor :=
  let w := (ws[1 + k]?).getD 0
  let e := z - targetAt ws back k
  let p := fun (j : Nat) => signed 8 (bits w (8 * j) 8) * sampleAt x.errs j
  { cost := x.cost + Config.branchCost (e - rnd (p 0 + p 1 + p 2) 7) (bits w 24 8)
    errs := (e :: x.errs).take 3
    path := (bit k 0, uncontested) :: x.path }

/-- Two paths meet: the cheaper one survives, and a bit in which the other differs is no surer than their difference. -/
def meet (x y : Survivor) : Survivor :=
  let (a, b) := if x.cost ≤ y.cost then (x, y) else (y, x)
  { a with path := List.zipWith (fun (p q : Bool × Nat) =>
      if p.1 = q.1 then p else (p.1, min p.2 (b.cost - a.cost))) a.path b.path }

/-- One step of the 16-state trellis (R134): state `k` is reached from the two states whose three newest bits are its
older ones. -/
def trellisStep (ws : List Nat) (back : Bool) (l : List (Option Survivor)) (z : Int) : List (Option Survivor) :=
  (List.range 16).map fun k =>
    let a := ((l[k / 2]?).join).map (extend ws back z k)
    let b := ((l[k / 2 + 8]?).join).map (extend ws back z k)
    match a, b with
    | some x, some y => some (meet x y)
    | some x, none => some x
    | none, y => y

/-- The cheapest survivor. -/
def cheapest (l : List (Option Survivor)) : Option Survivor :=
  l.foldl (fun best x => match best, x with
    | some a, some b => if b.cost < a.cost then some b else some a
    | some a, none => some a
    | none, y => y) none

/-- The trellis as a pass begins: every state, or the one it knows (R145). -/
def trellisStart (known : Option Nat) : List (Option Survivor) :=
  (List.range 16).map fun k => if known.all fun n => n = k then some ⟨0, [], []⟩ else none

/-- The soft-output Viterbi detector over samples in the order it takes them: a likelihood for each, the last first; a
positive one favours 0 (R134). -/
def softViterbi (ws : List Nat) (back : Bool) (known : Option Nat) (zs : List Int) : List Int :=
  match cheapest (zs.foldl (trellisStep ws back) (trellisStart known)) with
  | some x => x.path.map fun p => if p.1 then -(p.2 : Int) else (p.2 : Int)
  | none => []

/-- The state at the secondary mark, which a backward pass starts from: the mark's first four bits, the first one newest
(R66, R145). -/
def markState : Nat := mirror 32 mark2 % 16

/-- A detector's pass over corrected samples with two fraction bits: a likelihood by sample index, forward, or backward in
time from the secondary mark at a sample index (R134, R145). -/
def detect (s : State) (d h set rdr : Nat) (back : Option Nat) (ya yb : List Int) : List Int :=
  let z := combine s d h set rdr ya yb
  let w := viterbiWords s d h set
  let soft := match back with
    | none => (softViterbi w false none z).reverse
    | some m =>
      softViterbi w true (some markState) (((List.range m).map fun j => sampleAt z (j + 2)).reverse) ++
        List.replicate (z.length - m) 0
  soft.map (scaleLlr (llrScale s d h set rdr))

/-- Samples as the combiner takes them: with two fraction bits (R148). -/
def quarters (y : List Int) : List Int := y.map (4 * ·)

/-! Stored entries (R125, R126). -/

/-- Word `k` of metadata. -/
def metaWord (ws : List Nat) (k : Nat) : Nat := (ws[k]?).getD 0
/-- FE_STATUS of metadata. -/
def metaStatus (ws : List Nat) : Nat := metaWord ws 0
/-- PSA of metadata. -/
def metaPsa (ws : List Nat) : Nat := metaWord ws 1 + bits (metaWord ws 2) 0 8 * 2 ^ 32
/-- SRC of metadata. -/
def metaSrc (ws : List Nat) : Nat := bits (metaStatus ws) 0 2

/-- The framing offset of an entry: P_OFS, S_OFS or none (R116). -/
def framingOfs (ws : List Nat) : Int :=
  let st := metaStatus ws
  if metaSrc ws = 0 then signed 6 (bits st 4 6) else if metaSrc ws = 1 then signed 6 (bits st 10 6) else 0

/-- The corrected samples of an entry: y' recomputed from y with the ASYM values recorded at frame bit 128. -/
def replaySamples (x : Entry) : List Int × List Int :=
  let fix := fun (w : Nat) (l : List (BitVec 6)) =>
    l.map fun (y : BitVec 6) => correctSample (signed 8 (bits (metaWord x.words w) 15 8)) y.toInt
  (fix 3 x.a, fix 4 x.b)

/-- Sample indexes that erasure covers: those of a recorded span and GUARD bits after one (R150). -/
def erased (guard : Nat) (ws : List Nat) (i : Nat) : Bool :=
  (List.range (min (bits (metaStatus ws) 22 3) 4)).any fun k =>
    let w := metaWord ws (6 + k)
    bits w 0 16 ≤ i && decide (i < bits w 0 16 + bits w 16 15 + guard)

/-- Erasure sets the likelihoods of what it covers to 0 (R150). -/
def eraseSoft (guard : Nat) (ws : List Nat) (l : List Int) : List Int :=
  (List.range l.length).map fun i => if erased guard ws i then 0 else sampleAt l i

/-- The mean of some entries' samples with two fraction bits, each shifted so that codeword bit 0 aligns with that of the
first (R148). Each is given with its framing offset. DESIGN CHOICE: a sample that one of the entries does not hold after
the shift counts as 0 (log 85). -/
def meanSamples : List (Int × List Int) → List Int
  | [] => []
  | (o, y) :: rest =>
    (List.range y.length).map fun (i : Nat) =>
      let total := rest.foldl (fun (a : Int) e =>
        let j := (i : Int) + e.1 - o
        a + (if j < 0 then 0 else sampleAt e.2 j.toNat)) (sampleAt y i)
      rdiv (4 * total) (rest.length + 1)

/-- The sample index of codeword bit `n` at a framing offset: the secondary mark lies between bits 4,095 and 4,096
(R116, R118, R151). -/
def codeIndex (ofs : Int) (n : Nat) : Int := 192 + ofs + n + (if n < 4096 then 0 else 32)

/-! Passes. -/

/-- A codeword with its entry's metadata as they stand now: a span that was recorded after the frame had gone to the
detector counts (R111, R150). -/
def freshWords (s : State) (d : Nat) (c : Codeword) : Codeword :=
  let x := (s.lane (laneNo d c.lane)).entry c.entry
  if x.gen = c.gen then { c with words := x.words, spans := bits (metaStatus x.words) 22 3 ≠ 0 } else c

/-- A replay detector's pass for a codeword: over its entry, or the mean of the entries combined; backward over the first
fragment of a frame with SRC Secondary; erased where its trial says so; with the alternate set in step 4 (R135, R144,
R145, R148, R149, R150). -/
def replayPass (s : State) (d : Nat) (c : Codeword) (set rdr : Nat) (erase back : Bool) : List Int :=
  let l := s.lane (laneNo d c.lane)
  let one := fun e => (framingOfs (l.entry e).words, replaySamples (l.entry e))
  let y := if c.others.isEmpty then (quarters (one c.entry).2.1, quarters (one c.entry).2.2)
    else
      let es := (c.entry :: c.others).map one
      (meanSamples (es.map fun x => (x.1, x.2.1)), meanSamples (es.map fun x => (x.1, x.2.2)))
  let from2 := if back then some (codeIndex (framingOfs c.words) 4096 - 32).toNat else none
  let soft := detect s d c.head set rdr from2 y.1 y.2
  if erase then eraseSoft (s.get LANE.DEF_CTL.GUARD (laneNo d c.lane)) (freshWords s d c).words soft else soft

/-- Readers a trial of the ladder takes: step 3's later passes one alone (R149, R150). -/
def trialReaders (c : Codeword) : Nat :=
  if c.step = 3 && c.trial = 1 then 1 else if c.step = 3 && c.trial = 2 then 2 else c.rdr

/-- Step 3's first pass erases the recorded spans (R149, R150). -/
def erasing (c : Codeword) : Bool := c.step = 3 && c.trial = 0

/-- The pass of a trial of the ladder, step 4's with the alternate set (R144, R149, R150). -/
def trialPass (s : State) (d : Nat) (c : Codeword) : List Int :=
  replayPass s d c (if c.step = 4 then 1 else 0) (trialReaders c) (erasing c) false

/-- A secondary-framed codeword in two parts: the backward pass has the first fragment, the online pass the rest
(R145). -/
def joinParts (ofs : Int) (back online : List Int) : List Int :=
  let cut := (codeIndex ofs 4096).toNat
  back.take cut ++ online.drop cut

/-- The online detector's pass over a frame just read (R134, R135, R137): primary set, the readers the entry holds, on
the samples as corrected while they were read. -/
def onlinePass (s : State) (n : Nat) (r : Frame) (e : Nat) : Pass :=
  let d := n / 4
  let x := (s.lane n).entry e
  let h := psaHead (metaPsa x.words) % 16
  let ya := r.a.out.reverse
  let yb := r.b.out.reverse
  let tag := if bit (metaStatus x.words) 30 then (verifyJob (s.lane n) (metaPsa x.words)).map (·.tag) else (s.lane n).serves
  { entry := e, gen := x.gen, words := x.words, rdr := x.rdr, tag := tag
    keep := tag.any fun t => bit ((((sget {} ((sget {} s.lqs n : Lq).tags) t : Tag).entry)[6]?).getD 0) 1
    soft := detect s d h 0 x.rdr none (quarters ya) (quarters yb), ya := ya, yb := yb }

/-- FRAME_READ (R116, R134): the frame goes through the front end into an entry, and a frame read to its end through the
online detector; an incomplete one is never handed on (R120). -/
def execFrameRead (lane : Fin 8) (f : FrameIn) (s : State) : Result :=
  .next (
    let n := lane.val
    if !mayRead s n f then s
    else
      let r := runFrame s n f
      let e := nextEntry (s.lane n)
      let t := readFrame s n f
      if frameStopped f then t
      else t.setLane n { t.lane n with passes := (t.lane n).passes ++ [onlinePass t n r e] })

end Sys2Proof.Machine
end

