-- ==== Sys2Proof/Machine/Decoder.lean ====
section
/-! DEFINITION. The decoder cores: layered normalised min-sum over the code of R133 (chapter "Read channel: detection,
decoding and recovery"). -/

namespace Sys2Proof.Machine

open Sys2Proof

/-- The codeword bits that check `i` of block row `r` sums (R133). -/
def checkBits (r i : Nat) : List Nat :=
  (List.range 99).filterMap fun c => (circulant r c).map fun h => 384 * c + (i + h) % 384

/-- The likelihoods of a codeword's bits at a framing offset, of those a detector delivered by sample index; a bit whose
sample was not stored has none either way (R116, R151). -/
def window (soft : List Int) (ofs : Int) : List Int :=
  (List.range 38016).map fun n =>
    let i := codeIndex ofs n
    if i < 0 then 0 else sampleAt soft i.toNat

/-- The bit a likelihood decides: a positive value favours 0 (R134). -/
def decides (v : Int) : Bool := if v < 0 then true else if 0 < v then false else Config.zeroDecides

/-- A word of bits, bit `n` by the n-th likelihood. -/
def hardWord : List Int → Nat
  | [] => 0
  | v :: l => (if decides v then 1 else 0) + 2 * hardWord l

/-- The smallest magnitude among some values, 31 at most: the magnitude of a 6-bit message. -/
def minMag (l : List Int) : Nat := l.foldl (fun m v => min m v.natAbs) 31

/-- The product of the signs of some values. -/
def signOf (l : List Int) : Int := l.foldl (fun a v => if v < 0 then -a else a) 1

/-- A check's message to its `k`-th bit: the sign product and three quarters of the smallest magnitude of the others
(R139). -/
def checkMessage (l : List Int) (k : Nat) : Int :=
  let others := l.eraseIdx k
  signOf others * rnd (3 * (minMag others : Int)) 2

/-- What a decoder core holds of a codeword: a belief by bit, and the messages of each check by its number. -/
structure Decode where
  belief : Array Int
  msgs : Array (List Int)
  deriving DecidableEq, Repr

/-- One check: what its bits believe without it, then its new messages (R139). -/
def checkStep (x : Decode) (r i : Nat) : Decode :=
  let ns := checkBits r i
  let old := x.msgs.getD (384 * r + i) []
  let ext := (List.range ns.length).map fun k =>
    clampI (-31) 31 (x.belief.getD ((ns[k]?).getD 0) 0 - sampleAt old k)
  let new := (List.range ns.length).map (checkMessage ext)
  { belief := (List.range ns.length).foldl (fun b k =>
      let j := (ns[k]?).getD 0
      b.setIfInBounds j (Config.keptBelief (x.belief.getD j 0 - sampleAt old k + sampleAt new k))) x.belief
    msgs := x.msgs.setIfInBounds (384 * r + i) new }

/-- One iteration: block rows 0 to 12 in order (R139). -/
def iteration (x : Decode) : Decode :=
  (List.range 13).foldl (fun x r => (List.range 384).foldl (fun x i => checkStep x r i) x) x

/-- Iterations until the syndrome is zero at the end of one, or the limit: the codeword and the iterations completed
(R139). -/
def iterate : Nat → Nat → Decode → Nat × Nat
  | 0, k, x => (hardWord x.belief.toList, k)
  | n + 1, k, x =>
    let y := iteration x
    let w := hardWord y.belief.toList
    if syndromeWeight w = 0 then (w, k + 1) else iterate n (k + 1) y

/-- A decode of likelihoods within an iteration limit: the codeword and ITER (R139). -/
def decode (llr : List Int) (limit : Nat) : Nat × Nat :=
  iterate limit 0 ⟨llr.toArray, (List.replicate 4992 []).toArray⟩

/-- Bits where two words of `n` bits differ. -/
def bitErrors (n a b : Nat) : Nat := ((List.range n).filter fun i => bit a i != bit b i).length

/-- RAW_ERR of an accepted codeword: the detector's hard decisions that differ (R154). -/
def rawErrors (llr : List Int) (cw : Nat) : Nat := min (bitErrors 38016 (hardWord llr) cw) 0xFFFE

/-- The status a decode gives (R140, R154): 0 OK, 1 FAILED, 2 TAG_FAIL, 3 PSA_MISMATCH. -/
def decodeStatus (psa head : Nat) (trial : Bool) (v : Nat) : Nat :=
  if syndromeWeight v ≠ 0 then 1
  else if trial then (if payloadBytes v = trialPayload (psaTrack psa) head then 0 else 1)
  else tagStatus psa (scramble psa (payloadBytes v))

end Sys2Proof.Machine
end

