-- ==== Sys2Proof/Machine/Detection.lean ====
section
/-! DEFINITION. LDP: the decoder pool, replays, the recovery ladder's in-die steps, sector results and trial reports,
coefficient RAM, firmware replays (chapter "Read channel: detection, decoding and recovery"). -/

namespace Sys2Proof.Machine

open Sys2Proof

/-! Records (R154). -/

/-- The 16-byte result record as one number. DESIGN CHOICE: the record of a combined replay, of step 7, carries STEP 4,
which is the last the field reaches (log 86). -/
def resultRecord (c : Codeword) (status iter : Nat) (adj : Int) (synW raw : Nat) (pinned : Bool) : Nat :=
  let b := fun (x : Bool) (i : Nat) => if x then 2 ^ i else 0
  let byte14 := b ((c.step = 3 && c.trial ≠ 0) || c.rdr ≠ 3) 0 + b (c.step = 3 && c.trial = 0) 1 + b (c.step = 4) 2 +
    b c.deferred 3 + b c.backward 4 + b (c.step = 7) 5
  leNat (leBytes 5 c.psa ++ [status + (min c.step 4) * 16 + b pinned 7, iter % 64,
    unsigned 6 adj + b c.conflictTry 6] ++ leBytes 2 synW ++ leBytes 2 raw ++ [c.entry, c.lane, byte14, 0])

/-- EPOCH of LDP's domain (R30). -/
def ldpEpoch (s : State) (d : Nat) : Nat := (s.dom (ldpPage d).domain).epoch

/-- Sum of the squares of combinations of reader A's samples over the codeword (R523). -/
def energy (c : Codeword) (f : Nat → Int) : Nat :=
  ((List.range 38016).map fun n =>
    let i := (codeIndex (framingOfs c.words) n).toNat
    ((f i) * (f i)).toNat).sum

/-- SUSPECT_FE of metadata: a defect span, LOOP_LIMIT, SRC other than primary, or one reader disabled (R523). -/
def suspectFe (ws : List Nat) : Bool :=
  let st := metaStatus ws
  bits st 22 3 ≠ 0 || bit st 29 || metaSrc ws ≠ 0 || bit st 31

/-- The trial report of a trial frame (R523). A frame that was not decoded has no decoded bits, so its BIT_ERR is free;
the gradients are `Config.lmsGradient` (log 67). -/
def reportOf (s : State) (d : Nat) (c : Codeword) (status : Nat) (cw : Option Nat) : TrialReport :=
  let known := payloadNumber (trialPayload (psaTrack c.psa) (psaHead c.psa))
  let y := fun (i k : Nat) => if k ≤ i then sampleAt c.ya (i - k) else 0
  let set := (List.range 27).map (coefWord s d c.head 0)
  { psa := c.psa, failed := decide (status ≠ 0), verify := c.verify, suspect := suspectFe c.words
    bitErr := match cw with
      | some v => min (bitErrors 33024 v known) 0xFFFF
      | none => s.free % 2 ^ 16
    gainA := bits (metaWord c.words 3) 0 8, gainB := bits (metaWord c.words 4) 0 8
    eHi := energy c fun i => y i 0 - y i 1
    eLo := energy c fun i => y i 0 + y i 1 + y i 2 + y i 3
    grads := (List.range 22).map fun k => signed 32 (unsigned 32 (Config.lmsGradient c.ya c.yb set (encode known) k))
    epoch := ldpEpoch s d }

/-- Send a trial frame's report to CAL; an LDP that does not decode sends none (R140, R523; log 67). -/
def sendReport (s : State) (d : Nat) (c : Codeword) (status : Nat) (cw : Option Nat) : State :=
  if status = 5 then s
  else
    let r := reportOf s d c status cw
    let s := if cw.isNone then s.drawn else s
    s.setLdp d { s.ldp d with reports := (s.ldp d).reports ++ [r] }

/-- Send a sector result on, of a trial sector its report to CAL and, for the lane that awaits it, of a verified one that
its result has come (R181, R183), and keep LAST_RES of one that is not OK or took the ladder (R154, R159). `cw` is what the
last decode left. -/
def sendResult (s : State) (d : Nat) (c : Codeword) (status raw : Nat) (pinned : Bool) (cw : Option Nat := none) :
    State :=
  let r := resultRecord c status c.iter c.adj c.synW raw pinned
  let payload := match cw with
    | some v => if status = 0 then scramble c.psa (payloadBytes v) else []
    | none => []
  let s := if c.trialSector then sendReport s d c status cw else s
  let s := if c.trialSector && !c.verify then s
    else s.setLdp d { s.ldp d with results := (s.ldp d).results ++ [⟨c.lane, r, c.verify, payload, ldpEpoch s d⟩] }
  if status ≠ 0 || 0 < c.step then
    (List.range 4).foldl (fun s k => s.put LDP.LAST_RES.RECORD (bits r (32 * k) 32) d k) s
  else s

/-- A result that arrives with a stale epoch (R30, R155). A NOT_DECODED completion is the lane sequencer's own, since an
LDP in reset sends none (DEDUCED, log 69). -/
def staleResult (s : State) (d : Nat) (r : SectorResult) : Bool := r.epoch ≠ ldpEpoch s d && bits r.record 40 4 ≠ 5

/-- Stale results are discarded and counted (R30, R155). -/
def dropStale (s : State) (d : Nat) : State :=
  let old := (s.ldp d).results.filter (staleResult s d)
  let s := s.setLdp d { s.ldp d with results := (s.ldp d).results.filter fun r => !staleResult s d r }
  old.foldl (fun s _ => raise (s.bump BRZ.LINK_ERR.STALE_CNT 1 0 d) ⟨.brz, 0⟩ 3 7) s

/-! Pins through LDP's own path (R122, R143). -/

/-- Pin an entry with a generation check: whether it was done, and the state. -/
def ldpPin (s : State) (n e gen : Nat) : Bool × State :=
  let l := s.lane n
  let x := l.entry e
  if x.gen ≠ gen then (false, s)
  else if !x.pinned && 8 ≤ pinCount l then (false, s)
  else (true, s.setLane n (l.setEntry e { x with ldpPin := true }))

/-- Release LDP's pin. -/
def ldpUnpin (s : State) (n e : Nat) : State :=
  let l := s.lane n
  s.setLane n (l.setEntry e { l.entry e with ldpPin := false })

/-- End a sector: its record goes out and its pins are released, unless they are kept (R143, R154). -/
def endSector (s : State) (d : Nat) (c : Codeword) (status raw : Nat) (cw : Option Nat := none) : State :=
  let stay := c.pinned && c.keep
  let s := sendResult s d c status raw stay cw
  if c.pinned && !c.keep then (c.entry :: c.others).foldl (fun s e => ldpUnpin s (laneNo d c.lane) e) s else s

/-! Dispatch. -/

/-- A core that is in the pool and idle (R139, R156). -/
def freeCore (s : State) (d : Nat) : Option Nat :=
  (List.range 6).find? fun k => bit (s.get LDP.CORE_EN.EN d) k && (sget none (s.ldp d).cores k).isNone

/-- A replay detector that is idle (R144). -/
def freeDet (s : State) (d : Nat) : Option Nat :=
  (List.range 2).find? fun k => (sget none (s.ldp d).det k).isNone

/-- A backward replay of an online frame (R145). -/
def onlineBackward (c : Codeword) : Bool := c.backward && c.step = 0 && !c.deferred

/-- A codeword with the likelihoods of the pass a replay detector runs for it, with the sets active as it begins (R137,
R144, R145). A frame with SRC Secondary takes its first fragment backward in any pass. -/
def withPass (s : State) (d : Nat) (c : Codeword) : Codeword :=
  let ofs := framingOfs c.words
  if onlineBackward c then { c with soft := joinParts ofs (replayPass s d c 0 c.rdr false true) c.soft }
  else if c.backward then
    let back := replayPass s d c (if c.step = 4 then 1 else 0) (trialReaders c) (erasing c) true
    { c with soft := joinParts ofs back (trialPass s d c) }
  else { c with soft := trialPass s d c }

/-- Give the free replay detectors their work: backward replays of online frames first (R145), else the oldest. -/
def dispatchDet (s : State) (d : Nat) : Nat → State
  | 0 => s
  | n + 1 =>
    match freeDet s d with
    | none => s
    | some k =>
      let l := s.ldp d
      let pick := match l.replays.find? onlineBackward with
        | some c => some c
        | none => l.replays.head?
      match pick with
      | none => s
      | some c =>
        let c' := withPass s d c
        dispatchDet (s.setLdp d { l with replays := l.replays.erase c, det := sset none l.det k (some c') }) d n

/-- The work a free core takes next: restarts, replay steps that have aged, online codewords, other replay steps
(R141, R156). -/
def nextWork (l : Ldp) (aged : Nat) : Option Codeword :=
  match l.restarts.head? with
  | some c => some c
  | none => match (l.ready.take aged).head? with
    | some c => some c
    | none => match l.online.head? with
      | some c => some c
      | none => l.ready.head?

/-- Give the free cores their work (R141). `n` bounds the codewords taken. -/
def dispatchCores (s : State) (d : Nat) (aged : Nat) : Nat → State
  | 0 => s
  | n + 1 =>
    match freeCore s d with
    | none => s
    | some k =>
      let l := s.ldp d
      match nextWork l aged with
      | none => s
      | some c =>
        let l' := { l with restarts := l.restarts.erase c
                           ready := if l.restarts.contains c then l.ready else l.ready.erase c
                           online := if l.restarts.contains c || l.ready.contains c then l.online else l.online.erase c
                           cores := sset none l.cores k (some c) }
        dispatchCores (s.setLdp d l') d (aged - 1) n

/-- LDP starts work: it runs, or eases, and its ENABLE has not been cleared (R155). -/
def ldpStarts (s : State) (d : Nat) : Bool := working s (ldpPage d) && s.get HDR.PAGE_CTL.ENABLE (ldpPage d).index = 1

/-- Detectors and cores take what waits while LDP runs or eases. One that is being disabled holds no waiting work but a
codeword that a core fault restarts (R155, R156). -/
def dispatch (s : State) (d aged : Nat) : State :=
  if working s (ldpPage d) then dispatchCores (dispatchDet s d 2) d aged 6 else s

/-! The ladder (R149-R152). -/

/-- The re-framing trials of step 2: the CONFLICT trial, then +1, -1, +2, ... (R147, R151); for a Nominal frame
0, +1, -1, ... (R146). -/
def reframeTrials (c : Codeword) (range : Nat) : List (Int × Bool) :=
  (if c.nominal then [(0, false)] else match c.conflict with | some x => [(x, true)] | none => []) ++
    (List.range (min range 8)).flatMap fun (k : Nat) => [((k : Int) + 1, false), (-((k : Int) + 1), false)]

/-- The passes of step 3: 0 erased, 1 reader A alone, 2 reader B alone (R150). -/
def step3Passes (c : Codeword) : List Nat :=
  (if c.spans then [0] else []) ++ (if c.rdr = 3 then [1, 2] else [])

/-- STEP_EN of step m (R149). -/
def stepEnabled (s : State) (d m : Nat) : Bool := bit (s.get LDP.LDP_CTL.STEP_EN d) (m - 1)

/-- What the ladder does next with a codeword whose last trial failed: another trial, or none when steps 1-4 have
ended. -/
def nextTrial (s : State) (d : Nat) (c : Codeword) : Option Codeword :=
  let base := { c with adj := 0, conflictTry := false }
  let four := if stepEnabled s d 4 && !c.nominal && c.step < 4 then some { base with step := 4, trial := 0 } else none
  let three := fun (from3 : Nat) =>
    if stepEnabled s d 3 && !c.nominal && c.step ≤ 3 then
      match (step3Passes c).find? fun k => from3 ≤ k with
      | some k => some { base with step := 3, trial := k }
      | none => four
    else four
  let two := fun (k : Nat) =>
    if stepEnabled s d 2 && c.step ≤ 2 then
      match (reframeTrials c (s.get LDP.REFRAME_CTL.RANGE d))[k]? with
      | some (a, x) => some { c with step := 2, trial := k, adj := a, conflictTry := x }
      | none => three 0
    else three 0
  if c.step = 0 then
    if stepEnabled s d 1 && !c.nominal &&
        !(s.get LDP.LDP_CTL.SKIP1_EN d = 1 && s.get LDP.REFRAME_CTL.SW_REFRAME d ≤ c.synW) then
      some { base with step := 1, trial := 0 }
    else two 0
  else if c.step = 1 then two 0
  else if c.step = 2 then two (c.trial + 1)
  else if c.step = 3 then three (c.trial + 1)
  else none

/-- The iteration limit of a trial (R142). -/
def iterLimit (s : State) (d : Nat) (c : Codeword) : Nat :=
  let v := if c.step = 0 then s.get LDP.ITER_CTL.ITER_ONLINE d
    else if c.step = 1 ∨ c.step = 3 then s.get LDP.ITER_CTL.ITER_REPLAY d
    else if c.step = 2 then s.get LDP.ITER_CTL.ITER_REFRAME d
    else s.get LDP.ITER_CTL.ITER_MAX d
  max 1 v

/-- Queue a trial: one whose LLRs are kept goes straight to the cores, another to the replay detectors (R144). -/
def queueTrial (s : State) (d : Nat) (c : Codeword) : State :=
  let l := s.ldp d
  if c.step = 2 && c.llr then s.setLdp d { l with ready := l.ready ++ [c] }
  else s.setLdp d { l with replays := l.replays ++ [c] }

/-- A counter of a head that raises its event as it reaches a multiple of `m` and as it saturates. -/
def countHead (s : State) (d : Nat) (F : Fld) (k m b : Nat) : State :=
  let before := s.get F d k
  let s := s.bump F 1 d k
  let v := s.get F d k
  raiseIf (v ≠ before && (v % m = 0 || v = 2 ^ F.wid - 1)) s (ldpPage d) b 7

/-- Steps 0-4 have ended without acceptance (R149, R159, R160). No stored bit has failed: level 7 (R33, log 8). DESIGN
CHOICE: a sweep of NOMINAL_TRY that finds no codeword reports its last decode's status, as any ladder does, and not LOST
(R146; log 68). -/
def ladderFailed (s : State) (d : Nat) (c : Codeword) (status : Nat) : State :=
  endSector (raise (s.bump LDP.HCNT_C.LADDER_FAIL 1 d c.head) (ldpPage d) 4 7) d c status 0xFFFF

/-- A sector that stands in the ladder between two trials, as its record names it: by the last one run (R154). -/
def lastRun (c : Codeword) : Codeword :=
  match c.ran with
  | some (step, trial, adj, conf) => { c with step := step, trial := trial, adj := adj, conflictTry := conf }
  | none => { c with step := 0, trial := 0, adj := 0, conflictTry := false }

/-- Advance a failed sector: pin its entry on leaving step 0 (R143), then its next trial, or its end. An LDP that is
being disabled starts no trial: the sector ends NOT_DECODED (R155). -/
def ladderAdvance (s : State) (d : Nat) (c : Codeword) (status : Nat) : State :=
  if !ldpStarts s d then endSector s d { c with pinned := false } 5 0xFFFF
  else
  let pin := if c.pinned then (true, s) else ldpPin s (laneNo d c.lane) c.entry c.gen
  if !pin.1 then ladderFailed s d c 7
  else
    let c := { freshWords s d c with pinned := true }
    match nextTrial pin.2 d c with
    | some t => queueTrial pin.2 d t
    | none => ladderFailed pin.2 d c status

/-- An accepted codeword's counters (R145, R151, R159). -/
def countAccepted (s : State) (d : Nat) (c : Codeword) (iter : Nat) : State :=
  let s := if s.get LDP.ITER_WARN.WARN d < iter then s.bump LDP.HCNT_C.ITER_HI 1 d c.head else s
  let s := if 1 ≤ c.step ∧ c.step ≤ 4 then s.bump LDP.HCNT_A.LADDER_OK 1 d c.head else s
  let s := if c.backward then s.bump LDP.HCNT_B.SEC_FRAMED 1 d c.head else s
  if c.step = 2 && !c.conflictTry && 0 < c.adj then countHead s d LDP.HCNT_B.FALSE_EARLY c.head 64 5
  else if c.step = 2 && !c.conflictTry && c.adj < 0 then countHead s d LDP.HCNT_B.FALSE_LATE c.head 64 5
  else s

/-- TAG_FAIL and PSA_MISMATCH of a decode count and raise (R152, R159, R160). -/
def countTagFail (s : State) (d : Nat) (c : Codeword) (status : Nat) : State :=
  let s := if status = 2 then raise (s.bump LDP.HCNT_B.TAG_FAIL 1 d c.head) (ldpPage d) 2 7 else s
  if status = 3 then raise (s.bump LDP.HCNT_C.PSA_MISMATCH 1 d c.head) (ldpPage d) 3 7 else s

/-- A failed decode (R149, R152, R157): step 0 counts, TAG_FAIL and PSA_MISMATCH raise, and the ladder goes on unless the
sector may not enter it. `cw` is the word the core ended with. -/
def decodeFailed (s : State) (d : Nat) (c : Codeword) (status cw : Nat) : State :=
  if c.aborted then endSector s d c 6 0xFFFF
  else
    let s := if c.step = 0 then countHead s d LDP.HCNT_A.ONLINE_FAIL c.head 256 1 else s
    let s := countTagFail s d c status
    if c.trialSector || c.verify || c.step = 7 then endSector s d c status 0xFFFF (some cw)
    else if status = 3 then ladderFailed s d c 3
    else ladderAdvance s d c status

/-- A decode's outcome for a codeword (R139-R142, R149-R152, R154, R157): what the core makes of the detector's
likelihoods under the trial's framing, within the trial's limit. -/
def decodeEnds (s : State) (d : Nat) (c : Codeword) : State :=
  let llr := window c.soft (framingOfs c.words + c.adj)
  let x := decode llr (iterLimit s d c)
  let status := decodeStatus c.psa (16 * d + c.head) c.trialSector x.1
  let c := { c with
    status := status, iter := x.2, synW := syndromeWeight x.1, ran := some (c.step, c.trial, c.adj, c.conflictTry) }
  let s := s.bump LDP.CW_TOTAL.COUNT 1 d
  if status = 0 then endSector (countAccepted s d c c.iter) d c 0 (rawErrors llr x.1) (some x.1)
  else decodeFailed s d c status x.1

/-- The last core of a disabled LDP has reported: STATE reads OFF (R17, R155). -/
def ldpSettle (s : State) (d : Nat) : State :=
  if working s (ldpPage d) && s.get HDR.PAGE_CTL.ENABLE (ldpPage d).index = 0 &&
      ((List.range 6).all fun k => (sget none (s.ldp d).cores k).isNone) && (s.ldp d).restarts.isEmpty then
    setPageState s (ldpPage d) stOff
  else s

/-- A firmware replay ends with a RESULT and raises its event (R158, R160). -/
def fwReplayEnd (s : State) (d result : Nat) : State :=
  raise ((s.put LDP.RP_CMD.RESULT result d).put LDP.RP_CMD.BUSY 0 d) (ldpPage d) 6 7

/-- A firmware replay that stands in a detector is given up with NOT_DECODED (R155; log 69). -/
def fwReplayDrop (s : State) (d : Nat) : State :=
  if (s.ldp d).fw.isNone then s else fwReplayEnd (s.setLdp d { s.ldp d with fw := none }) d 5

/-- A codeword whose pins have been released. -/
def Codeword.unpinned (c : Codeword) : Codeword := { c with pinned := false }

/-- Waiting work and replays not started end with NOT_DECODED, and all LDP pins are released, those of the codewords in
the cores too (R155). A replay in a detector, firmware's among them, has started no decode and ends so too (DEDUCED,
log 69). -/
def ldpDropWaiting (s : State) (d : Nat) : State :=
  let s := fwReplayDrop s d
  let l := s.ldp d
  let s := s.setLdp d { l with
    online := [], replays := [], ready := [], det := [], restarts := l.restarts.map Codeword.unpinned
    cores := l.cores.map fun e => (e.1, e.2.map Codeword.unpinned) }
  let s := (l.online ++ l.replays ++ l.ready ++ l.det.filterMap (·.2)).foldl (fun s c =>
    sendResult s d { lastRun c with keep := false } 5 0xFFFF false) s
  (List.range 4).foldl (fun s k => (List.range 72).foldl (fun s e =>
    if ((s.lane (laneNo d k)).entry e).ldpPin then ldpUnpin s (laneNo d k) e else s) s) s

/-- The disable effect (R155): STATE goes on reading as it did until the cores have reported. -/
def ldpDisable (s : State) (d : Nat) : State := ldpSettle (ldpDropWaiting s d) d

/-! Commands. -/

/-- The codeword that a detector pass over a frame makes (R125, R126, R136). -/
def codewordOf (k : Nat) (p : Pass) : Codeword :=
  let st := metaStatus p.words
  let psa := metaPsa p.words
  { lane := k, entry := p.entry, gen := p.gen, head := psaHead psa % 16, psa := psa, words := p.words, verify := bit st 30,
    trialSector := isTrial (psaSlot psa),
    conflict := if bit st 3 then some (signed 6 (bits st 10 6) - signed 6 (bits st 4 6)) else none,
    backward := metaSrc p.words = 1, nominal := metaSrc p.words = 2, spans := bits st 22 3 ≠ 0,
    rdr := p.rdr, tag := p.tag, keep := p.keep, soft := p.soft, ya := p.ya, yb := p.yb }

/-- The codeword of a replay of a stored entry. -/
def entryCodeword (s : State) (d k e : Nat) : Codeword :=
  let x := (s.lane (laneNo d k)).entry e
  codewordOf k { entry := e, gen := x.gen, tag := none, keep := false, words := x.words, rdr := x.rdr, soft := [],
                 ya := [], yb := [] }

/-- Defer the oldest waiting codeword of a lane (R141): a replay at ITER_ONLINE that counts as step 0, or NO_PIN. A trial
sector is never pinned (R140), so its report says that it failed (DEDUCED, log 67). -/
def deferOldest (s : State) (d k : Nat) : State :=
  let l := s.ldp d
  match l.online.find? fun c => c.lane = k with
  | none => s
  | some c =>
    let s := raise (s.setLdp d { l with online := l.online.erase c }) (ldpPage d) 0 7
    let c := { c with deferred := true }
    if c.trialSector then endSector s d c 1 0xFFFF
    else
      let pin := ldpPin s (laneNo d k) c.entry c.gen
      if pin.1 then
        let l := pin.2.ldp d
        pin.2.setLdp d { l with replays := l.replays ++ [{ c with pinned := true }] }
      else if c.verify then endSector s d c 7 0xFFFF
      else ladderFailed s d c 7

/-- A codeword joins the online queue; a lane's buffer holds three (R141). -/
def joinOnline (s : State) (d : Nat) (c : Codeword) : State :=
  let s := if 3 ≤ ((s.ldp d).online.filter fun x => x.lane = c.lane).length then deferOldest s d c.lane else s
  let l := s.ldp d
  s.setLdp d { l with online := l.online ++ [c] }

/-- A Nominal frame (R146): LOST, or under NOMINAL_TRY step 2 of the ladder where STEP_EN lets it run (R149). -/
def nominalFrame (s : State) (d : Nat) (c : Codeword) : State :=
  if s.get LDP.LDP_CTL.NOMINAL_TRY d = 1 && !c.trialSector && !c.verify && !c.aborted then
    let pin := ldpPin s (laneNo d c.lane) c.entry c.gen
    if pin.1 then
      match nextTrial pin.2 d c with
      | some t => queueTrial pin.2 d { t with pinned := true }
      | none => endSector pin.2 d { c with pinned := true } 4 0xFFFF
    else ladderFailed s d c 7
  else endSector s d c 4 0xFFFF

/-- What becomes of a codeword whose online detection ends (R134, R141, R145, R146, R155). -/
def detectionEnds (s : State) (d : Nat) (c : Codeword) : State :=
  if !running s (ldpPage d) || !ldpStarts s d || !domainLive s (ldpPage d).domain then sendResult s d c 5 0xFFFF false
  else if c.nominal then nominalFrame s d c
  else if c.backward then
    let l := s.ldp d
    s.setLdp d { l with replays := l.replays ++ [c] }
  else joinOnline s d c

/-- A tag's abort is pending, or ended it (R256). -/
def tagAborted (s : State) (n : Nat) (t : Option Nat) : Bool :=
  t.any fun k => (sget {} (sget {} s.lqs n : Lq).tags k : Tag).abort

/-- DETECTION_COMPLETE (R134, R141, R155, R157): the lane's oldest pass ends. While LDP does not run its lanes' sectors
complete NOT_DECODED. -/
def execDetectionComplete (ldp : Fin 2) (lane : Fin 4) (aged : Nat) (s : State) : Result :=
  .next (
    let d := ldp.val
    let n := laneNo d lane.val
    let l := s.lane n
    match l.passes with
    | [] => s
    | p :: rest =>
      let c := { codewordOf lane.val p with aborted := tagAborted s n p.tag }
      dispatch (detectionEnds (s.setLane n { l with passes := rest }) d c) d aged)

/-- DECODE_COMPLETE (R139, R140, R149): a core that holds nothing reports nothing. -/
def execDecodeComplete (ldp : Fin 2) (core : Fin 6) (aged : Nat) (s : State) : Result :=
  .next (
    let l := s.ldp ldp.val
    match sget none l.cores core.val with
    | none => s
    | some c =>
      let s := s.setLdp ldp.val { l with cores := sset none l.cores core.val none }
      ldpSettle (dispatch (decodeEnds s ldp.val c) ldp.val aged) ldp.val)

/-- REPLAY_PASS_COMPLETE (R144, R145): a backward replay's codeword joins the online queue, another waits for a core. -/
def execReplayPassComplete (ldp : Fin 2) (det : Fin 2) (aged : Nat) (s : State) : Result :=
  .next (
    let l := s.ldp ldp.val
    match sget none l.det det.val with
    | none => s
    | some c =>
      let s := s.setLdp ldp.val { l with det := sset none l.det det.val none }
      if onlineBackward c then dispatch (joinOnline s ldp.val c) ldp.val aged
      else
        let l := s.ldp ldp.val
        dispatch (s.setLdp ldp.val { l with ready := l.ready ++ [{ c with llr := c.step ≤ 2 }] }) ldp.val aged)

/-- Take an aborted codeword out of wherever it is (R157). -/
def removeCodeword (l : Ldp) (c : Codeword) : Ldp :=
  { l with online := l.online.erase c, replays := l.replays.erase c, ready := l.ready.erase c,
           restarts := l.restarts.erase c, cores := l.cores.filter fun e => e.2 ≠ some c,
           det := l.det.filter fun e => e.2 ≠ some c }

/-- Every codeword an LDP holds. -/
def Ldp.all (l : Ldp) : List Codeword :=
  l.cores.filterMap (·.2) ++ l.det.filterMap (·.2) ++ l.restarts ++ l.ready ++ l.online ++ l.replays

/-- SECTOR_ABORT_END (R157): a sector in the ladder ends with ABORTED. Its record names the trial in a core, else the
last one run. DESIGN CHOICE: a decode of step 0, a deferred one too, is not yet in the ladder and runs to its end
(log 87). -/
def execSectorAbortEnd (ldp : Fin 2) (aged : Nat) (s : State) : Result :=
  .next (match (s.ldp ldp.val).all.find? fun c => c.aborted && decide (0 < c.step) with
    | none => s
    | some c =>
      let held := (s.ldp ldp.val).cores.any fun e => e.2 = some c
      let s := s.setLdp ldp.val (removeCodeword (s.ldp ldp.val) c)
      ldpSettle (dispatch (endSector s ldp.val (if held then c else lastRun c) 6 0xFFFF) ldp.val aged) ldp.val)

/-- CORE_PARITY_FAULT (R156, R160): the core leaves the pool, its codeword restarts; with no core left LDP faults. -/
def execCoreParityFault (ldp : Fin 2) (core : Fin 6) (aged : Nat) (s : State) : Result :=
  .next (
    let d := ldp.val
    let l := s.ldp d
    let s := s.setLdp d { l with cores := sset none l.cores core.val none,
                                 restarts := match sget none l.cores core.val with
                                   | some c => l.restarts ++ [c] | none => l.restarts }
    let en := setBit (s.get LDP.CORE_EN.EN d) core.val false
    let s := (s.put LDP.CORE_EN.EN en d).bump LDP.CORE_ERR.PARITY_CNT 1 d
    let s := s.put LDP.LDP_STAT.CORE_FAULT (setBit (s.get LDP.LDP_STAT.CORE_FAULT d) core.val true) d
    if en = 0 then pageFault s (ldpPage d) 7 3
    else dispatch (raise s (ldpPage d) 7 1) d aged)

/-- The coefficient RAM word COEF_WIN selects (R136, R159). -/
def ldpCoefKey (s : State) (d : Nat) : Nat :=
  ((s.get LDP.COEF_WIN.HEAD d * 2 + s.get LDP.COEF_WIN.SET d) * 2 + s.get LDP.COEF_WIN.HALF d) * 64 +
    s.get LDP.COEF_WIN.WORD d

/-- After an access to COEF_DATA the word index rises by 1, 63 wrapping to 0 (R159). -/
def ldpCoefStep (s : State) (d : Nat) : State := s.put LDP.COEF_WIN.WORD (s.get LDP.COEF_WIN.WORD d + 1) d

/-- The bits of a coefficient word that are not reserved (R136). -/
def coefMask (w : Nat) : Nat := if w < 10 then 0x03FF03FF else if w < 27 then 0xFFFFFFFF else 0

/-- The coefficients in force for a head become unpredictable: both active sets take free values (R522). -/
def spoilHead (d : Nat) (s : State) (k : Nat) : State :=
  let s := (List.range 54).foldl (fun s j =>
    let l := s.ldp d
    let v := s.free % 2 ^ 32 &&& coefMask (j % 27)
    (s.setLdp d { l with coef := sset 0 l.coef (((k * 2 + j / 27) * 2 + 1) * 64 + j % 27) v }).drawn) s
  if s.cal.spoiled.contains (16 * d + k) then s
  else { s with cal := { s.cal with spoiled := s.cal.spoiled ++ [16 * d + k] } }

/-- Firmware writes COEF_DATA, COEF_MASK or COEF_COMMIT for heads that CAL, running, calibrates (R522). -/
def spoil (s : State) (d mask : Nat) : State :=
  if running s ⟨.cal, 0⟩ then
    (bitList 16 (mask &&& bits (s.get CAL.HEAD_EN.EN) (16 * d) 16)).foldl (spoilHead d) s
  else s

/-- A write of COEF_DATA: an active half takes none (R137), and reserved words and bits stay zero (R10, R136). -/
def ldpCoefWrite (d : Nat) (w : Word) (s : State) : State :=
  let s := spoil s d (2 ^ s.get LDP.COEF_WIN.HEAD d)
  let l := s.ldp d
  ldpCoefStep (if s.get LDP.COEF_WIN.HALF d = 1 then s
    else s.setLdp d { l with
      coef := sset 0 l.coef (ldpCoefKey s d) (w.toNat &&& coefMask (s.get LDP.COEF_WIN.WORD d)) }) d

/-- A read of COEF_DATA (R159). -/
def ldpCoefRead (d : Nat) (s : State) : Nat × State := (sget 0 (s.ldp d).coef (ldpCoefKey s d), ldpCoefStep s d)

/-- LDP_COEF_DATA_ACCESS (R137, R159). -/
def execLdpCoefDataAccess (q : Req) (ldp : Fin 2) (w : Option (BitVec 32)) (s : State) : Result :=
  .next (match w with
    | some w => guarded s q (ldpPage ldp.val) 0x064 w (ldpCoefWrite ldp.val w)
    | none => guardedRead s q (ldpPage ldp.val) 0x064 (ldpCoefRead ldp.val))

/-- A request to exchange coefficient halves at a catch (R137): refused while one waits, LATE outside the launch range.
DESIGN CHOICE: COEF_MASK is taken as GO is written (log 68). -/
def ldpCommit (d low mask : Nat) (s : State) : State :=
  if s.get LDP.COEF_COMMIT.PENDING d = 1 then s.reply 3 []
  else
    let s := (s.put LDP.COEF_COMMIT.LATE 0 d).put LDP.COEF_COMMIT.STROKE low d
    match launchStroke (strokeAt s (d + 1)) low with
    | none => (raise (s.put LDP.COEF_COMMIT.LATE 1 d) (ldpPage d) 7 7).reply statusLate []
    | some k =>
      let l := s.ldp d
      ((s.setLdp d { l with commit := some (k, mask) }).put LDP.COEF_COMMIT.PENDING 1 d).reply 0 []

/-- A write of COEF_COMMIT (R137). -/
def ldpCommitWrite (q : Req) (d : Nat) (w : Word) (s : State) : State :=
  let s := spoil s d (s.get LDP.COEF_MASK.HEADS d)
  if LDP.COEF_COMMIT.GO.of w = 1 then ldpCommit d (LDP.COEF_COMMIT.STROKE.of w) (s.get LDP.COEF_MASK.HEADS d) s
  else plainWrite s q (ldpPage d) 0x068 w

/-- LDP_COEF_COMMIT (R137). -/
def execLdpCoefCommit (q : Req) (ldp : Fin 2) (w : BitVec 32) (s : State) : Result :=
  .next (guarded s q (ldpPage ldp.val) 0x068 w (ldpCommitWrite q ldp.val w))

/-- Exchange one word pair of a RAM. -/
def swapWords (m : Sparse Nat) (i j : Nat) : Sparse Nat := sset 0 (sset 0 m i (sget 0 m j)) j (sget 0 m i)

/-- Exchange active and shadow halves of both sets of a head (R137). -/
def swapHead (m : Sparse Nat) (h : Nat) : Sparse Nat :=
  (List.range 128).foldl (fun m k => swapWords m (((h * 2 + k / 64) * 2) * 64 + k % 64)
    (((h * 2 + k / 64) * 2 + 1) * 64 + k % 64)) m

/-- Whether the commit for a catch is one of CAL's (R520). -/
def calOwns (s : State) (d stroke : Nat) : Bool := (if d = 0 then s.cal.commit0 else s.cal.commit1) = some stroke

/-- A commit of CAL's ends what R522 made unpredictable for its heads; after another commit it goes on. -/
def spoilExchange (s : State) (d stroke mask : Nat) : State :=
  let l := (bitList 16 mask).filter fun k => s.cal.spoiled.contains (16 * d + k)
  if calOwns s d stroke then
    { s with cal := { s.cal with spoiled := s.cal.spoiled.filter fun h => !(h / 16 = d && l.contains (h % 16)) } }
  else l.foldl (spoilHead d) s

/-- LDP_COEF_EXCHANGE: the commit's catch has come (R45, R137). -/
def ldpExchange (s : State) (d stroke : Nat) : State :=
  let l := s.ldp d
  match l.commit with
  | some (k, mask) =>
    if k = stroke then
      spoilExchange ((s.setLdp d { l with commit := none, coef := (bitList 16 mask).foldl swapHead l.coef }).put
        LDP.COEF_COMMIT.PENDING 0 d) d stroke mask
    else s
  | none => s

/-- Readers a replay descriptor's MODE leaves of those the entry holds (R135, R159). -/
def replayReaders (mode rdr : Nat) : Nat := if mode = 1 then rdr &&& 1 else if mode = 2 then rdr &&& 2 else rdr

/-- The codeword of the firmware replay that RP_DESC names (R135, R150, R159): it runs no ladder step, and carries ERASE
in `spans` and ALT_SET in `trial` (log 56). -/
def fwCodeword (s : State) (d : Nat) : Codeword :=
  let c := entryCodeword s d (s.get LDP.RP_DESC0.LANE d) (s.get LDP.RP_DESC0.ENTRY d)
  let c := { c with
    adj := signed 6 (s.get LDP.RP_DESC1.FRAME_ADJ d), rdr := replayReaders (s.get LDP.RP_DESC1.MODE d) c.rdr
    spans := s.get LDP.RP_DESC1.ERASE d = 1, trial := s.get LDP.RP_DESC1.ALT_SET d, backward := false
    conflictTry := false }
  { c with soft := replayPass s d c c.trial c.rdr c.spans false }

/-- A write of RP_CMD (R158, R159): ignored while BUSY. An incomplete entry never goes to the detector (R120), and a
replay asked of an LDP that does not run is one that has not started (R155): both end NOT_DECODED (DEDUCED, log 69).
An entry that holds no frame since a reset has unpredictable content (R124). -/
def rpCmdWrite (d : Nat) (w : Word) (s : State) : State :=
  if LDP.RP_CMD.GO.of w = 0 || s.get LDP.RP_CMD.BUSY d = 1 then s
  else
    let e := s.get LDP.RP_DESC0.ENTRY d
    let n := laneNo d (s.get LDP.RP_DESC0.LANE d)
    let s := if e ≤ 71 && ((s.lane n).entry e).age = 0 then unknownEntry s n e else s
    let x := (s.lane n).entry e
    if 71 < e then fwReplayEnd s d 9
    else if s.get LDP.RP_DESC0.GEN_CHK d = 1 && x.gen ≠ s.get LDP.RP_DESC0.GEN d then fwReplayEnd s d 8
    else if metaSrc x.words = 3 || !ldpStarts s d then fwReplayEnd s d 5
    else (s.setLdp d { s.ldp d with fw := some (fwCodeword s d) }).put LDP.RP_CMD.BUSY 1 d

/-- FW_REPLAY_START (R158). -/
def execFwReplayStart (q : Req) (ldp : Fin 2) (w : BitVec 32) (s : State) : Result :=
  .next (guarded s q (ldpPage ldp.val) 0x07C w (rpCmdWrite ldp.val w))

/-- FW_REPLAY_COMPLETE (R158, R159, R160): the record, and the payload in buffer memory when RP_DEST names a place. -/
def execFwReplayComplete (ldp : Fin 2) (s : State) : Result :=
  .next (
    let n := ldp.val
    let l := s.ldp n
    match l.fw with
    | none => s
    | some c =>
      let llr := window c.soft (framingOfs c.words + c.adj)
      let x := decode llr (max 1 (s.get LDP.RP_DESC1.ITER n))
      let status := decodeStatus c.psa (16 * n + c.head) c.trialSector x.1
      let r := resultRecord c status x.2 c.adj (syndromeWeight x.1) (if status = 0 then rawErrors llr x.1 else 0xFFFF)
          false + ((if c.spans then 2 else 0) + (if c.trial = 1 then 4 else 0)) * 2 ^ 112
      let s := countTagFail ((s.setLdp n { l with fw := none }).bump LDP.CW_TOTAL.COUNT 1 n) n c status
      let s := if status = 0 then countAccepted s n c x.2 else s
      let s := (List.range 4).foldl (fun s k => s.put LDP.RP_RES.RECORD (bits r (32 * k) 32) n k) s
      let a := s.get LDP.RP_DEST.ADDR n
      let s := if a = 0 then s else memWrite s (a * 4096)
        (if c.trialSector then payloadBytes x.1 else scramble c.psa (payloadBytes x.1))
      fwReplayEnd s n status)

/-- A write of any other LDP register (R156, R159): a core returned to the pool takes work. -/
def ldpWrite (q : Req) (d off : Nat) (w : Word) (s : State) : State :=
  if off = 0x064 then ldpCoefWrite d w s
  else if off = 0x068 then ldpCommitWrite q d w s
  else if off = 0x07C then rpCmdWrite d w s
  else if off = 0x06C then spoil (plainWrite s q (ldpPage d) off w) d (w.toNat % 65536)
  else if off = 0x048 then dispatch (plainWrite s q (ldpPage d) off w) d 0
  else plainWrite s q (ldpPage d) off w

end Sys2Proof.Machine
end

