-- ==== Sys2Proof/Machine/Lines.lean ====
section
/-! DEFINITION. Buffer lines, their directory and the charge of the write cache (chapter "Scheduling, buffer and
power-loss writing"). -/

namespace Sys2Proof.Machine

open Sys2Proof

/-- The page of SCH. -/
def schPage : Page := ⟨.sch, 0⟩
/-- The page of BUF. -/
def bufPage : Page := ⟨.buf, 0⟩

/-- SEQ_CTL.OOS of an actuator (R257). -/
def outOfService (s : State) (a : Nat) : Bool := bit (s.get SEQ.SEQ_CTL.OOS (a / 2)) (a % 2)

/-! KIND codes (R363). -/

/-- HOST. -/
def lkHost : Nat := 1
/-- CACHED. -/
def lkCached : Nat := 2
/-- READ. -/
def lkRead : Nat := 3
/-- PROV_PENDING. -/
def lkPending : Nat := 4
/-- PROV_LANDED. -/
def lkLanded : Nat := 5
/-- WEAVE. -/
def lkWeave : Nat := 6
/-- TRAIL. -/
def lkTrail : Nat := 7

/-- The line numbered `n`, if it is not FREE. -/
def State.line (s : State) (n : Nat) : Option Line := sget none s.buf.lines n

/-- Buffer address of line `n` (R362). -/
def lineAddr (s : State) (n : Nat) : Nat := s.get BUF.LINE_BASE.ADDR * 4096 + 4128 * n

/-- Buffer address of line `n`'s directory entry (R363). -/
def dirAddr (s : State) (n : Nat) : Nat := s.get BUF.DIR_BASE.ADDR * 4096 + 16 * n

/-- One bit of a CRC that shifts towards its most significant end, polynomial 0x1021. -/
def crc16Bit (c : Nat) : Nat := if 2 ^ 15 ≤ c then ((2 * c) % 2 ^ 16) ^^^ 0x1021 else 2 * c

/-- One byte of CRC-16/CCITT. -/
def crc16Byte (c b : Nat) : Nat :=
  crc16Bit (crc16Bit (crc16Bit (crc16Bit (crc16Bit (crc16Bit (crc16Bit (crc16Bit (c ^^^ (b * 256)))))))))

/-- CRC-16/CCITT: polynomial 0x1021 from the most significant bit on, start value 0xFFFF, no final change (R363; the
start value is PRESUMED, log 31). -/
def crc16 (bs : List Nat) : Nat := bs.foldl crc16Byte 0xFFFF

/-- The 16 bytes of a directory entry (R363). -/
def Line.entry (x : Line) : List Nat :=
  let head := [x.kind % 8 + x.charge % 4 * 8 + (if x.marked then 32 else 0), x.nsx % 64]
  let rest := leBytes 4 (x.zone % 2 ^ 19) ++ leBytes 4 (x.offset % 2 ^ 32) ++ leBytes 4 (x.seq % 2 ^ 32)
  head ++ leBytes 2 (crc16 (head ++ [0, 0] ++ rest)) ++ rest

/-- The entry of a FREE line. -/
def freeEntry : List Nat := Line.entry { kind := 0 }

/-- The bytes of a line's directory entry. -/
def lineEntry (x : Option Line) : List Nat :=
  match x with
  | some l => l.entry
  | none => freeEntry

/-- BUF writes every line's directory entry: when it begins to run, and where the directory moves (R363). -/
def writeDirectory (s : State) : State :=
  (List.range (s.get BUF.LINE_COUNT.COUNT)).foldl (fun s n => memWrite s (dirAddr s n) (lineEntry (s.line n))) s

/-- Change line `n`: BUF rewrites its directory entry (R363). -/
def State.setLine (s : State) (n : Nat) (x : Option Line) : State :=
  let old := s.line n
  let s := { s with buf := { s.buf with lines := sset none s.buf.lines n x } }
  if lineEntry old = lineEntry x then s else memWrite s (dirAddr s n) (lineEntry x)

/-- Change the line's record, if it has one. -/
def State.modLine (s : State) (n : Nat) (f : Line → Line) : State :=
  match s.line n with
  | some x => s.setLine n (some (f x))
  | none => s

/-- The lines that satisfy `p`, rising. -/
def linesThat (s : State) (p : Line → Bool) : List Nat :=
  s.buf.lines.filterMap fun e => match e.2 with
    | some x => if p x then some e.1 else none
    | none => none

/-- Lines that are FREE: POOL_STAT (R398). -/
def freeCount (s : State) : Nat := s.get BUF.LINE_COUNT.COUNT - (linesThat s fun _ => true).length

/-- Provisional lines held: PROV_STAT (R372, R398). -/
def provCount (s : State) : Nat := (linesThat s fun x => x.kind = lkPending || x.kind = lkLanded).length

/-- The next `need` numbers from `next` up to `top` that are not among the rising `used`. -/
def gaps : Nat → Nat → Nat → Nat → List Nat → List Nat
  | 0, _, _, _, _ => []
  | f + 1, next, top, need, used =>
    if need = 0 || top ≤ next then []
    else match used with
      | u :: us =>
        if u < next then gaps f next top need us
        else if u = next then gaps f (next + 1) top need us
        else next :: gaps f (next + 1) top (need - 1) used
      | [] => next :: gaps f (next + 1) top (need - 1) []

/-- The lowest `n` FREE lines, if there are so many. -/
def freeLines (s : State) (n : Nat) : Option (List Nat) :=
  let used := linesThat s fun _ => true
  let l := gaps (2 * used.length + n + 1) 0 (s.get BUF.LINE_COUNT.COUNT) n used
  if l.length = n then some l else none

/-- While the free pool is below POOL_LOW, free LANDED provisional lines, oldest first (R372). -/
def shedLanded (s : State) : Nat → State
  | 0 => s
  | f + 1 =>
    if s.get BUF.POOL_LOW.LINES ≤ freeCount s then s
    else match (linesThat s fun x => x.kind = lkLanded && x.slot.isNone).map fun n =>
        (((s.line n).map (·.seq)).getD 0, n) with
      | [] => s
      | l :: ls => shedLanded (s.setLine (ls.foldl (fun m x => if x.1 < m.1 then x else m) l).2 none) f

/-- Give out `n` FREE lines: `mk` says what each becomes by its place and SEQ (R362, R363, R372, R399). None, and
EV045, if there are not so many. -/
def allocLines (s : State) (n : Nat) (mk : Nat → Nat → Line) : Option (List Nat) × State :=
  match freeLines s n with
  | none => (none, raise s bufPage 3 7)
  | some l =>
    let before := freeCount s
    let s := (List.zip (List.range n) l).foldl (fun s e => s.setLine e.2 (some (mk e.1 (s.buf.seq + e.1)))) s
    let s := { s with buf := { s.buf with seq := s.buf.seq + n } }
    let low := s.get BUF.POOL_LOW.LINES
    let s := raiseIf (low ≤ before && decide (freeCount s < low)) s bufPage 4 7
    (some l, shedLanded s l.length)

/-! Charge (R375-R378). -/

/-- An actuator in service for charging (R375). -/
def inService (s : State) (a : Nat) : Bool :=
  !outOfService s a && (List.range 4).any fun k => s.get SCH.PL_TGT.VALID 0 (4 * a + k) = 1

/-- The actuators in service for charging. -/
def servedActs (s : State) : List Nat := (List.range 4).filter (inService s)

/-- SCH_STAT.IN_SERVICE (R396). -/
def inServiceMask (s : State) : Nat := (servedActs s).foldl (fun m a => setBit m a true) 0

/-- The lines charged to an actuator; a binding line never is, even as a TRAIL line (R375). -/
def chargedLines (s : State) (a : Nat) : List Nat :=
  linesThat s fun x => (x.kind = lkCached || (x.kind = lkTrail && !bit x.offset 31)) && x.charge = a

/-- CHARGEa (R396). -/
def chargeOf (s : State) (a : Nat) : Nat := (chargedLines s a).length

/-- The device's charge. -/
def chargeAll (s : State) : Nat := chargeOf s 0 + chargeOf s 1 + chargeOf s 2 + chargeOf s 3

/-- ACT_LIMIT (R376, R396). -/
def actLimit (s : State) : Nat := min 16384 (s.get SCH.ACT_LIMIT.LINES)

/-- The device's limit: WC_LIMIT, and with actuators out of service ACT_LIMIT for each in service (R376, R378). -/
def deviceLimit (s : State) : Nat :=
  let n := (servedActs s).length
  let w := min 65536 (s.get SCH.WC_LIMIT.LINES)
  if n = 4 then w else min w (actLimit s * n)

/-- An actuator's charge has come to a percentage of ACT_LIMIT (R377). -/
def chargeReaches (s : State) (a percent : Nat) : Bool := actLimit s * percent ≤ chargeOf s a * 100

/-- EV035 when an actuator's charge comes to DESTAGE_HI (R397). -/
def checkHi (s : State) : State :=
  let hi := (List.range 4).filter fun a => chargeReaches s a (s.get SCH.DESTAGE_CFG.DESTAGE_HI)
  let new := hi.filter fun a => !s.sch.hiRaised.contains a
  raiseIf (!new.isEmpty) { s with sch := { s.sch with hiRaised := hi } } schPage 3 7

/-- Who gets how many of `n` lines: equal shares, the remainder to lower actuators first (R378). -/
def shares (n : Nat) (acts : List Nat) : List Nat :=
  (List.zip (List.range acts.length) acts).flatMap fun e =>
    List.replicate (n / acts.length + (if e.1 < n % acts.length then 1 else 0)) e.2

/-- Move an actuator's charge to those in service, with EV041 (R378). -/
def moveCharge (s : State) (a : Nat) : State :=
  let l := chargedLines s a
  let acts := servedActs s
  if l.isEmpty || acts.isEmpty then s
  else raise ((List.zip l (shares l.length acts)).foldl (fun s e => s.modLine e.1 fun x => { x with charge := e.2 }) s)
    schPage 9 7

/-- After a change of what is in service: what has just gone out of service for charging loses its charge (R378). -/
def settleCharge (s : State) : State :=
  let out := (List.range 4).filter fun a => !inService s a
  let new := out.filter fun a => !s.sch.uncharged.contains a
  new.foldl moveCharge { s with sch := { s.sch with uncharged := out } }

/-- Whom a line bound for actuator `a` is charged to: `a`, or the one in service with the least charge (R375; log 32). -/
def chargeFor (s : State) (a : Nat) : Option Nat :=
  if inService s a then some a
  else match servedActs s with
    | [] => none
    | b :: bs => some (bs.foldl (fun m x => if chargeOf s x < chargeOf s m then x else m) b)

/-- One more line may be charged to actuator `a` (R376, R378). -/
def chargeFits (s : State) (a : Nat) : Bool := chargeOf s a < actLimit s && decide (chargeAll s < deviceLimit s)

/-- Cached writes are admitted: ADMIT is 1, SCH is not easing, no power-loss sequence runs (R381, R388, R396). -/
def admits (s : State) : Bool :=
  s.get SCH.SCH_CTL.ADMIT = 1 && pageState s schPage = stRun && domainLive s schPage.domain &&
    s.get SCH.SCH_STAT.PL_STATE = 0

/-- Free a line: its charge is released, WC room may appear (R363, R377, R380). -/
def freeLine (s : State) (n : Nat) : State := checkHi (s.setLine n none)

end Sys2Proof.Machine
end

