-- ==== Sys2Proof/Machine/Tags.lean ====
section
/-! DEFINITION. Lane queues: tags, what a media operation covers on its track, and how a tag ends (chapter "Stroke
sequencers and control stores"). -/

namespace Sys2Proof.Machine

open Sys2Proof

/-! Units. -/

/-- Lane queue of lane `n` (R251). -/
def State.lq (s : State) (n : Nat) : Lq := sget {} s.lqs n
/-- Set a lane queue. -/
def State.setLq (s : State) (n : Nat) (v : Lq) : State := { s with lqs := sset {} s.lqs n v }
/-- Tag `t` of a lane queue. -/
def Lq.tag (l : Lq) (t : Nat) : Tag := sget {} l.tags t
/-- Set a tag. -/
def Lq.setTag (l : Lq) (t : Nat) (v : Tag) : Lq := { l with tags := sset {} l.tags t v }
/-- Tag `t` of lane `n`. -/
def State.tag (s : State) (n t : Nat) : Tag := (s.lq n).tag t
/-- Set tag `t` of lane `n`. -/
def State.setTag (s : State) (n t : Nat) (v : Tag) : State := s.setLq n ((s.lq n).setTag t v)
/-- Sequencer unit `u`: 0-7 LSQ0-7, 8-11 SSQ0-3 (R239). -/
def State.sqr (s : State) (u : Nat) : Sqr := sget {} s.sqrs u
/-- Set a sequencer. -/
def State.setSqr (s : State) (u : Nat) (v : Sqr) : State := { s with sqrs := sset {} s.sqrs u v }
/-- AST of actuator `a`. -/
def State.ast (s : State) (a : Nat) : Ast := sget {} s.asts a
/-- Set AST of actuator `a`. -/
def State.setAst (s : State) (a : Nat) (v : Ast) : State := { s with asts := sset {} s.asts a v }
/-- The page of ASTa. -/
def astPage (a : Nat) : Page := ⟨.ast, a⟩
/-- The page of SEQd. -/
def seqPage (d : Nat) : Page := ⟨.seq, d⟩
/-- SEQ page of a unit (R239). -/
def unitSeq (u : Nat) : Nat := if u < 8 then u / 4 else (u - 8) / 2
/-- Sequencer index of a unit on its page (R239). -/
def unitIdx (u : Nat) : Nat := if u < 8 then u % 4 else 4 + (u - 8) % 2
/-- The unit of sequencer index `q` of SEQd (R239). -/
def seqUnit (d q : Nat) : Nat := if q < 4 then 4 * d + q else 8 + 2 * d + (q - 4)
/-- The actuator a unit works for (R34, R239). -/
def unitActuator (u : Nat) : Nat := if u < 8 then u / 2 else u - 8
/-- The domain of a sequencer (R551). -/
def unitDomain (u : Nat) : Nat :=
  ((List.range 96).find? fun d => domainSeq d = some (unitSeq u, unitIdx u)).getD 0
/-- STATE of a unit's sequencer (R264). -/
def unitState (s : State) (u : Nat) : Nat := s.get SEQ.SQ_STAT.STATE (unitSeq u) (unitIdx u)
/-- Set STATE of a unit's sequencer, with EV097 / EV129 on entering HOLD, and EV084 and EV086 of its domain (R265,
R559, R568). -/
def setUnitState (s : State) (u v : Nat) : State :=
  let before := unitState s u
  let s := domainEdge (domainState s (unitDomain u)) (s.put SEQ.SQ_STAT.STATE v (unitSeq u) (unitIdx u)) (unitDomain u)
  raiseIf (v = stHold && before ≠ stHold) s (seqPage (unitSeq u)) 1 7
/-- The two lanes of an actuator (R34). -/
def lanesOf (a : Nat) : List Nat := [2 * a, 2 * a + 1]

/-! Tag entries (R251). -/

/-- Byte `i` of an entry. -/
def Tag.byte (t : Tag) (i : Nat) : Nat := (t.entry[i]?).getD 0
/-- PSA of the first slot. -/
def Tag.psa (t : Tag) : Nat := leNat (t.entry.take 5)
/-- OP. -/
def Tag.op (t : Tag) : Nat := t.byte 5 % 16
/-- KIND: data kind of R131. -/
def Tag.kind (t : Tag) : Nat := t.byte 5 / 16
/-- VERIFIED. -/
def Tag.verified (t : Tag) : Bool := bit (t.byte 6) 0
/-- KEEP. -/
def Tag.keep (t : Tag) : Bool := bit (t.byte 6) 1
/-- CONV. -/
def Tag.conv (t : Tag) : Bool := bit (t.byte 6) 2
/-- FULL_ASSIST. -/
def Tag.fullAssist (t : Tag) : Bool := bit (t.byte 6) 3
/-- PAIRED. -/
def Tag.paired (t : Tag) : Bool := bit (t.byte 6) 4
/-- SEEK. -/
def Tag.seek (t : Tag) : Bool := bit (t.byte 6) 5
/-- COUNT. -/
def Tag.count (t : Tag) : Nat := leNat ((t.entry.drop 8).take 2) % 1024
/-- START_STROKE. -/
def Tag.startStroke (t : Tag) : Nat := leNat ((t.entry.drop 10).take 2)
/-- MOTION_STROKE. -/
def Tag.motionStroke (t : Tag) : Nat := leNat ((t.entry.drop 12).take 2)
/-- BUF_ADDR. -/
def Tag.bufAddr (t : Tag) : Nat := leNat ((t.entry.drop 16).take 6) % 2 ^ 44
/-- RES_ADDR as a byte address. -/
def Tag.resAddr (t : Tag) : Nat := leNat ((t.entry.drop 24).take 4) * 4096
/-- The operation writes the media. -/
def Tag.writes (t : Tag) : Bool := t.op = 1 || t.op = 3
/-- POSTED or TAKEN. -/
def Tag.open' (t : Tag) : Bool := t.st = .posted || t.st = .taken

/-- An entry a lane cannot serve (R251, R252): an operation code not used, a count of zero, reserved bytes that are not
zero, or a head of another actuator (R36; DEDUCED, log 17). -/
def malformed (n : Nat) (t : Tag) : Bool :=
  4 < t.op || t.count = 0 || 64 ≤ t.byte 6 || 1024 ≤ leNat ((t.entry.drop 8).take 2) ||
    leNat ((t.entry.drop 14).take 2) ≠ 0 || leNat ((t.entry.drop 16).take 6) ≠ t.bufAddr ||
    leNat ((t.entry.drop 22).take 2) ≠ 0 || leNat ((t.entry.drop 28).take 4) ≠ 0 || t.psa / 2 ^ 35 / 8 ≠ n / 2

/-! What a media operation covers (R74, R251). -/

/-- The slots of a run that covers `count` user sectors from `slot` on, the trial slots inside it included (R74,
R251). -/
def runFrames (spt : Nat) : Nat → Nat → Nat → List Nat
  | 0, _, _ => []
  | _, _, 0 => []
  | f + 1, slot, c + 1 =>
    slot :: runFrames spt f ((slot + 1) % spt) (if isTrial slot then c + 1 else c)

/-- The frames of a tag's operation. -/
def tagFrames (s : State) (t : Tag) : List Nat :=
  runFrames (trackSlots s (psaTrack t.psa)) (2 * t.count + 2) (psaSlot t.psa) t.count

/-- The first slot of write track `w`'s pass that a track holds: σ(w) (R74); none off the write tracks. -/
def passStart (s : State) (track : Nat) : Option Nat :=
  match trackRateBand s track, trackPlace s track with
  | some k, some (_, w) => some (w * (rateBand s k).skew % (rateBand s k).spt)
  | _, _ => none

/-- The line at a buffer address is to be written marked (R363, R379). -/
def lineMarked (s : State) (addr : Nat) : Bool :=
  let base := lineAddr s 0
  decide (base ≤ addr) && (addr - base) % 4128 = 0 && ((s.line ((addr - base) / 4128)).map (·.marked)).getD false

/-- The frames of a write (R70, R166, R251): those of its run. In a shingled band every pass writes its trial slots in
order, so a trial slot that starts the pass comes before the run that follows it, and one that follows a run and does not
start the pass comes at its end. -/
def writeFrames (s : State) (t : Tag) : List Nat :=
  let run := tagFrames s t
  let spt := trackSlots s (psaTrack t.psa)
  let start := passStart s (psaTrack t.psa)
  let before := (psaSlot t.psa + spt - 1) % spt
  let after := ((run.getLast?).getD 0 + 1) % spt
  if t.conv then run
  else (if isTrial before && start = some before then [before] else []) ++ run ++
    (if isTrial after && start ≠ some after then [after] else [])

/-- The slot of user sector `i` of a tag (R251). -/
def sectorSlot (s : State) (t : Tag) (i : Nat) : Nat :=
  (((runFrames (trackSlots s (psaTrack t.psa)) (2 * i + 4) (psaSlot t.psa) (i + 1)).filter fun x =>
    !isTrial x)[i]?).getD (psaSlot t.psa)

/-- The PSA of user sector `i` of a tag. -/
def sectorPsa (s : State) (t : Tag) (i : Nat) : Nat := psaOf (psaHead t.psa) (psaTrack t.psa) (sectorSlot s t i)

/-- Which user sector of a tag a slot is, if it is one. -/
def sectorIndex (s : State) (t : Tag) (slot : Nat) : Option Nat :=
  let l := (tagFrames s t).filter fun x => !isTrial x
  if l.contains slot then some (l.idxOf slot) else none

/-! Ending a tag. -/

/-- LDP pins of lane `n` that stay when its tag `t` completes (R143, R253): those no codeword in LDP and no other tag
holds. -/
def keptPins (s : State) (n t : Nat) : List Nat :=
  let held := (((s.ldp (n / 4)).all.filter fun c => c.lane = n % 4).map (·.entry)) ++
    (((List.range 32).filter (· ≠ t)).flatMap fun k => (s.tag n k).pins)
  (List.range 72).filter fun e => ((s.lane n).entry e).ldpPin && !held.contains e

/-- The element of a head of AST a (R170). -/
def Ast.elem (x : Ast) (h : Nat) : Elem := sget {} x.elems h
/-- Set an element. -/
def Ast.setElem (x : Ast) (h : Nat) (e : Elem) : Ast := { x with elems := sset {} x.elems h e }

/-- A word of the head table (R190). -/
def headWord (s : State) (a h w : Nat) : Nat := sget 0 (s.ast a).table (64 * h + w)
/-- A head table word in force: as the head's last arming took it, while the element has not been OFF since (R190). -/
def astWord (s : State) (a h w : Nat) : Nat :=
  if ((s.ast a).elem h).held then sget 0 (s.ast a).force (64 * h + w) else headWord s a h w
/-- STANDBY. -/
def standbyCode (s : State) (a h : Nat) : Nat := bits (astWord s a h 1) 0 10

/-- Write gate is high on a head of an actuator. -/
def gateHigh (s : State) (a h : Nat) : Bool :=
  (lanesOf a).any fun n => (s.lane n).writeGate && (s.lane n).write.any fun j => j.head = h

/-- An armed element's drive follows write gate: the WRITE code while it is high, else the STANDBY code (R170). -/
def driveElem (s : State) (a h : Nat) : State :=
  let x := s.ast a
  let e := x.elem h
  if e.st = .armed then
    s.setAst a (x.setElem h { e with drive := if gateHigh s a h then e.code else standbyCode s a h })
  else s

/-- Write gate of a lane goes high or low, and the drive of the head it writes with it (R162, R170). -/
def setGate (s : State) (n : Nat) (high : Bool) : State :=
  let s := s.setLane n { s.lane n with writeGate := high }
  match (s.lane n).write with
  | some j => driveElem s (n / 2) j.head
  | none => s

/-- At the end of a write operation the armed element returns to STANDBY, at the STANDBY drive (R170, R173). -/
def elemStandby (s : State) (a h : Nat) : State :=
  let x := s.ast a
  let e := x.elem h
  if e.st = .armed then s.setAst a (x.setElem h { e with st := .standby, drive := standbyCode s a h }) else s

/-- A head's element stands at standby power, whatever it was doing, and no waiting frame arms it any more (R46, R259). -/
def elemToStandby (s : State) (a h : Nat) : State :=
  let x := s.ast a
  let e := x.elem h
  s.setAst a { x.setElem h { e with st := .standby, drive := standbyCode s a h } with
    frames := x.frames.filter fun f => !(f.head = h && f.kind = .armWrite) }

/-- SRV of actuator `a`. -/
def State.srv (s : State) (a : Nat) : Srv := sget {} s.srvs a
/-- Set SRV of actuator `a`. -/
def State.setSrv (s : State) (a : Nat) (v : Srv) : State := { s with srvs := sset {} s.srvs a v }
/-- The page of SRVa. -/
def srvPage (a : Nat) : Page := ⟨.srv, a⟩

/-- The microactuator offset of a head's target, Q2.14 pitch (R180, R195, R251). -/
def setOffset (s : State) (a h : Nat) (v : Int) : State :=
  let x := s.srv a
  s.setSrv a { x with offset := sset 0 x.offset h v }

/-- The tag whose sectors the lane reads is a re-read, so its head's target carries MA_OFS (R251). -/
def rereading (s : State) (n : Nat) : Option Tag :=
  (s.lane n).serves.bind fun t => if (s.tag n t).op = 4 then some (s.tag n t) else none

/-- Read gate closes: reading ends on the lane and its front end is idle (R99, R126, R127); a re-read's offset ends
(R251). -/
def closeReadGate (s : State) (n : Nat) : State :=
  let s := match rereading s n with
    | some t => setOffset s (n / 2) (psaHead t.psa % 8) 0
    | none => s
  (s.setLane n { s.lane n with readGate := false, continuous := false, serves := none }).put LANE.FE_STAT.STATE 0 n

/-- Both gates of a lane close. -/
def closeGates (s : State) (n : Nat) : State := closeReadGate (setGate s n false) n

/-- READ_GATE_OPEN (R99, R100, R251, R426): read gate rises at frame bit -64; a gate that opens ends continuity. For a
re-read the head's target takes MA_OFS, percent of pitch. While PRE5 is bad reads stop, so it stays low. -/
def execReadGateOpen (lane : Fin 8) (s : State) : Result :=
  .next (match takeLaunch s .readGate lane.val (lane.val / 4 + 1) with
    | none => s
    | some (x, s) =>
      let n := lane.val
      if !pre5Good s then s
      else
        let s := serveHead (closeReadGate s n) n x.head
        let s := (s.setLane n { s.lane n with readGate := true, serves := x.tag }).put LANE.FE_STAT.STATE 1 n
        match rereading s n with
        | some t => setOffset s (n / 2) x.head (rdiv (signed 8 (t.byte 7) * 16384) 100)
        | none => s)

/-- The lane lets go of its write: gate low, element to STANDBY, the head's target without write offsets, and reading
that followed the writer ends (R99, R164, R173, R195). -/
def endWrite (s : State) (n : Nat) : State :=
  match (s.lane n).write with
  | some j =>
    let s := setGate s n false
    let s := s.setLane n { s.lane n with write := none, continuous := false }
    setOffset (elemStandby s (n / 2) j.head) (n / 2) j.head 0
  | none => s

/-- Set an element to OFF (R173), dropping its arming frames. -/
def elemOff (s : State) (a h : Nat) : State :=
  let x := s.ast a
  s.setAst a { x.setElem h {} with
    frames := x.frames.filter fun f => !(f.head = h && (f.kind = .armStandby || f.kind = .armWrite)) }

/-- Clear the states of `n` biquads from chain position `i` on (R214). -/
def clearBiquads (i n : Nat) (v : Srv) : Srv :=
  { v with biquad := v.biquad.filter fun e => !(2 * i ≤ e.1 && decide (e.1 < 2 * (i + n))) }

/-- The biquad states of a head's microactuator loop, controller and model, start at zero (R200, R214). -/
def clearHeadLoop (v : Srv) (h : Nat) : Srv := clearBiquads (12 + 5 * h) 5 v

/-- Set the active heads, lead first: LEAD, ACTIVE and PAIRED follow, a change is a transfer, the microactuator loops of
newly active heads start at zero, and the elements of heads no longer selected go OFF (R57, R173, R212, R214; log 20). -/
def setActive (s : State) (a : Nat) (l : List Nat) : State :=
  let v := s.srv a
  let gone := v.active.filter fun h => !l.contains h
  let v' := (l.filter fun h => !v.active.contains h).foldl clearHeadLoop v
  let s := s.setSrv a { v' with active := l, xfer := v.xfer || decide (v.active.length ≠ l.length) }
  let s := s.put SRV.SRV_STAT.LEAD (match l with | h :: _ => 8 * a + h | [] => 0) a
  let s := s.put SRV.SRV_STAT.ACTIVE (l.foldl (fun m h => setBit m h true) 0) a
  gone.foldl (fun s h => elemOff s a h) (s.put SRV.SRV_STAT.PAIRED (if l.length = 2 then 1 else 0) a)

/-- When one of two paired operations ends, the other head leads alone (R212). -/
def leavePair (s : State) (n t : Nat) : State :=
  let a := n / 2
  let h := s.tag n t |>.entry.take 5 |> leNat |> fun p => p / 2 ^ 35 % 8
  let used := (lanesOf a).any fun m => (List.range 32).any fun k =>
    !(m = n && k = t) && (s.tag m k).st = .taken && leNat ((s.tag m k).entry.take 5) / 2 ^ 35 % 8 = h
  if 2 ≤ (s.srv a).active.length && !used then setActive s a ((s.srv a).active.erase h) else s

/-- What a completion says beyond its status. -/
structure Ending where
  status : Nat
  reason : Nat := 0
  index : Option Nat := none
  prior : Option Nat := none
  deriving DecidableEq, Repr

/-- The tags of a lane that are POSTED or TAKEN. -/
def openTags (s : State) (n : Nat) : List Nat := (List.range 32).filter fun t => (s.tag n t).open'

/-- EV102 / EV134 when both lanes of an out-of-service actuator hold no tag in POSTED or TAKEN state (R257). -/
def checkDrained (s : State) (a : Nat) : State :=
  raiseIf (outOfService s a && (lanesOf a).all fun n => (openTags s n).isEmpty) s (seqPage (a / 2)) 6 7

/-- A disabled sequencer that holds no tag reads OFF (R258). -/
def settleDisable (s : State) (u : Nat) : State :=
  if unitState s u ≠ stFault && (s.sqr u).disabling && (7 < u || (openTags s u).isEmpty) then
    setUnitState (s.setSqr u { s.sqr u with disabling := false, tag := none }) u stOff
  else s

/-- The record of a tag (R253). -/
def tagRecord (s : State) (n t : Nat) (e : Ending) : TagRec :=
  let x := s.tag n t
  let index := (e.index.getD x.done) % 1024
  { lane := n, tag := t, status := e.status, reason := e.reason, prior := e.prior.isSome,
    kept := x.keep && !(keptPins s n t).isEmpty, epoch := (s.dom (lanePage n).domain).epoch, done := x.done,
    index := index, psa := e.prior.getD (sectorPsa s x index), stroke := strokeAt s (n / 4 + 1) % 2 ^ 16 }

/-- A seek launched for a tag that has ended before its commit serves no tag any more (R252). -/
def seekServesNone (s : State) (n t : Nat) : State :=
  let a := n / 2
  let v := s.srv a
  s.setSrv a { v with seeks := v.seeks.map fun k => if k.tag = some (n, t) then { k with tag := none } else k }

/-- Complete a tag that is POSTED or TAKEN, once: its record goes to SCH, the tag is DONE, the lane's write and its assist
permit end (R173, R252, R253, R367). -/
def completeTag (s : State) (n t : Nat) (e : Ending) : State :=
  let x := s.tag n t
  if !x.open' then s
  else
  let s := seekServesNone s n t
  let r := tagRecord s n t e
  let pins := if x.keep then keptPins s n t else []
  let s := if (s.lane n).write.any fun j => j.tag = t then endWrite s n else s
  let s := s.setLane n { s.lane n with judging := (s.lane n).judging.filter fun j => j.tag ≠ t }
  let l := s.lq n
  let s := s.setLq n { (l.setTag t { x with st := .done, pins := pins }) with order := l.order.erase t }
  let s := if (s.sqr n).tag = some t then s.setSqr n { s.sqr n with tag := none } else s
  let s := s.put SCH.PERMIT_STAT.ASSIST (setBit (s.get SCH.PERMIT_STAT.ASSIST) n false)
  let s := { s with
    tagRecs := s.tagRecs ++ [r]
    launches := s.launches.filter fun y => !(y.tag = some t && y.inst = n) }
  let s := if x.st = .taken then leavePair s n t else s
  let late := e.status = 7 || e.status = 8
  let s := if late then raise (s.bump SEQ.SQ_ERR.LATE_CNT 1 (n / 4) (n % 4)) (seqPage (n / 4)) 5 7 else s
  settleDisable (checkDrained s (n / 2)) n

/-- Complete every listed tag alike. -/
def completeTags (s : State) (n : Nat) (l : List Nat) (e : Ending) : State := l.foldl (fun s t => completeTag s n t e) s

/-- The lane takes the first tag of a host command: MEDIA of its slot sets, and its media work has begun (R306, R349). -/
def markMedia (s : State) (n t : Nat) : State :=
  match (sget none s.sch.posted (32 * n + t)).bind fun o => o.slot with
  | some k =>
    { s with nvme := { s.nvme with
        slots := sset {} s.nvme.slots k { sget {} s.nvme.slots k with media := true }
        cmds := s.nvme.cmds.map fun c => if c.slot = k then { c with began := true } else c } }
  | none => s

/-- The first launch of a tag makes it TAKEN (R252). -/
def takeTag (s : State) (n t : Nat) : State :=
  if (s.tag n t).st = .posted then
    markMedia (s.setLq n { (s.lq n).setTag t { s.tag n t with st := .taken } with order := (s.lq n).order.erase t }) n t
  else s

/-! What goes on the media. -/

/-- The payload of a sector: user data and internal tag, with the stroke of its write-gate opening (R131); a marked
sector's CRC is inverted (R379). -/
def sectorPayload (t : Tag) (psa stroke : Nat) (user : List Nat) (marked : Bool) : List Nat :=
  let head := user ++ leBytes 5 psa ++ [16 + t.kind % 16, 0, 0] ++ leBytes 4 (stroke % 2 ^ 32)
  let crc := crc32c head
  head ++ leBytes 4 (if marked then 2 ^ 32 - 1 - crc else crc)

/-- A write to write track w of a shingled band leaves unreadable what the later tracks of the band held (R166). -/
def trimLater (s : State) (psa : Nat) : State :=
  match trackPlace s (psaTrack psa) with
  | none => s
  | some (band, w) =>
    { s with media := { s.media with frames := s.media.frames.filter fun e =>
        !(psaHead e.1 = psaHead psa && (match trackPlace s (psaTrack e.1) with
          | some (b, v) => b = band && decide (w < v)
          | none => false)) } }

/-- Write a trial slot's frame: its known pattern, encoded and not scrambled (R70). -/
def writeTrial (s : State) (psa : Nat) : State :=
  writeBits s psa (payloadFrame (trialPayload (psaTrack psa) (psaHead psa)))

/-- Put one frame on the media (R66, R70, R130-R133, R164, R251): a trial slot its pattern, a fill the pad pattern, which
holds no sector, a user slot the codeword of its sector from the buffer. -/
def writeFrame (s : State) (t : Tag) (slot idx stroke : Nat) : State :=
  let psa := psaOf (psaHead t.psa) (psaTrack t.psa) slot
  let s := if t.conv then s else trimLater s psa
  if isTrial slot then writeTrial s psa
  else if t.op = 3 then writeBits s psa (padBits 38272)
  else
    let addr := t.bufAddr + 4128 * idx
    let r := memRead s .sch addr 4112
    writeBits r.2 psa (payloadFrame (scramble psa (sectorPayload t psa stroke r.1.bytes (r.1.poison || lineMarked s addr))))

/-- First bit of a frame of the job on its track, counted on past the track's last segment. -/
def frameStart (sl : Nat) (j : WriteJob) (slot : Nat) : Nat := slot * 38272 + (if slot < j.first then 512 * sl else 0)

/-- Complete the next frame of the job (R131, R164, R183, R253): user sectors that are not verified count as they are
written, and every slot of a verified pass, a trial slot too, awaits its result. -/
def completeFrame (s : State) (n : Nat) (j : WriteJob) : WriteJob × State :=
  match j.frames with
  | [] => (j, s)
  | slot :: rest =>
    let t := s.tag n j.tag
    let s := writeFrame s t slot j.sent (j.frameStroke.getD j.opened)
    let user := !isTrial slot
    let j := { j with
      frames := rest
      frameStroke := none
      sent := if user then j.sent + 1 else j.sent
      unverified := if j.verified then j.unverified ++ [slot] else j.unverified }
    let s := if user && !j.verified then s.setTag n j.tag { s.tag n j.tag with done := j.sent } else s
    (j, s.setLane n { s.lane n with write := some j, frameDone := true })

/-- Complete every frame that ends within the present segment; after the last the gate falls (R162, R164). -/
def advanceWrite (n sl : Nat) : Nat → WriteJob → State → State
  | 0, _, s => s
  | f + 1, j, s =>
    match j.frames with
    | [] => setGate (s.setLane n { s.lane n with write := some j }) n false
    | slot :: _ =>
      if frameStart sl j slot + 38272 ≤ (j.seg + 1) * sl then
        let r := completeFrame s n j
        advanceWrite n sl f r.1 r.2
      else s.setLane n { s.lane n with write := some j }

/-- A frame of the job has been begun and not ended: its first bit lies before the present segment's end. -/
def frameBegun (sl : Nat) (j : WriteJob) : Bool :=
  match j.frames with
  | [] => false
  | slot :: _ => decide (frameStart sl j slot < (j.seg + 1) * sl)

/-- The gate has fallen for a wedge and rises again in the segment after it: a frame begun keeps the stroke of the opening
it began under (R131, R162). -/
def WriteJob.cross (sl now : Nat) (j : WriteJob) : WriteJob :=
  { j with seg := j.seg + 1, opened := now,
           frameStroke := if frameBegun sl j then some (j.frameStroke.getD j.opened) else none }

/-- A stopped write writes its frame in progress to the end of its pad, and the gate falls (R164); it writes no other. -/
def finishFrame (s : State) (n : Nat) : State :=
  match (s.lane n).write with
  | none => s
  | some j =>
    let s := if (s.lane n).writeGate && frameBegun (segBits s (psaTrack j.key)) j then (completeFrame s n j).2 else s
    let s := setGate s n false
    s.setLane n { s.lane n with write := (s.lane n).write.map fun j => { j with frames := [] } }

/-- The ending that comes first in the order of R255 among those that apply. -/
def firstEnding (st reason : Nat) (x : Tag) : Ending :=
  let held := (if x.abort then [2] else []) ++ (if x.requeue.isSome then [1] else []) ++
    (if x.incomplete then [6] else []) ++ (if st = 0 then [] else [st])
  let order := [10, 5, 4, 3, 2, 1, 6]
  if st ≠ 0 && !order.contains st then { status := st, reason := 0 }
  else match order.find? held.contains with
    | none => { status := 0 }
    | some k => { status := k, reason := if k = 1 then x.requeue.getD reason else 0 }

/-- The write job of a tag, the present one or one whose results are awaited. -/
def Lane.job (l : Lane) (t : Nat) : Option WriteJob := (l.judging ++ l.write.toList).find? fun j => j.tag = t

/-- Change the job of a tag. -/
def Lane.setJob (l : Lane) (j : WriteJob) : Lane :=
  { l with write := l.write.map fun x => if x.tag = j.tag then j else x,
           judging := l.judging.map fun x => if x.tag = j.tag then j else x }

/-- A tag ends at its sector boundary (R164, R183, R254, R255): a write's frame in progress is written to its pad, and a
verified write's completion waits for the results of the frames written. -/
def stopTag (s : State) (n t st reason : Nat) : State :=
  let s := if (s.lane n).write.any fun j => j.tag = t then finishFrame s n else s
  match (s.lane n).job t with
  | some j =>
    if j.unverified.isEmpty then completeTag s n t (firstEnding st reason (s.tag n t))
    else s.setLane n ((s.lane n).setJob { j with ending := some (st, reason) })
  | none => completeTag s n t (firstEnding st reason (s.tag n t))

/-- The frame that R187 names: the first with any bit in the segment before the one the inhibit was decided in. If it
lies before the operation's first sector its PSA is exposed. Answers the resume sector and the exposed PSA. -/
def resumePoint (s : State) (t : Tag) (j : WriteJob) : Nat × Option Nat :=
  let track := psaTrack t.psa
  let sl := segBits s track
  let spt := trackSlots s track
  let f := min (((j.seg + 511) % 512) * sl / 38272) (spt - 1)
  if j.seg ≤ j.seg0 + 1 ∧ f ≠ j.first then (0, some (psaOf (psaHead t.psa) track f))
  else
    let before := (writeFrames s t).takeWhile fun x => x ≠ f
    ((before.filter fun x => !isTrial x).length, none)

/-- The frame in progress is torn: the segments its bits were written in hold their resume fields, and the slot holds no
sector (R64, R164, R187). -/
def tearFrame (s : State) (n : Nat) (j : WriteJob) : State :=
  let sl := segBits s (psaTrack j.key)
  match j.frames with
  | slot :: _ =>
    if (s.lane n).writeGate && frameBegun sl j then
      let m := writeResumes s.media j.key sl (frameStart sl j slot) ((j.seg + 1) * sl - 1)
      eraseBits { s with media := m } (j.key + slot)
    else s
  | [] => s

/-- Write gate drops at once (R185, R187, R259): the frame in progress is torn and the tag ends, naming the sector to
resume from. -/
def tearWrite (s : State) (n : Nat) (status : Nat) : State :=
  match (s.lane n).write with
  | none => setGate s n false
  | some j =>
    let r := resumePoint s (s.tag n j.tag) j
    completeTag (tearFrame s n j) n j.tag { status := status, index := some r.1, prior := r.2 }

/-! Sequencer faults (R259). -/

/-- Codes of SQ_STAT.FAULT (R264). -/
inductive SeqFault where | uncorr | illegal | stack | page | watchdog
  deriving DecidableEq, Repr

/-- FAULT code. -/
def SeqFault.code : SeqFault → Nat
  | .uncorr => 1 | .illegal => 2 | .stack => 3 | .page => 4 | .watchdog => 5

/-- Every tag posted to a lane and not taken ends so: a POSTED one at once, one whose entry is still to come when it has
(R257, R258, R259). Of several endings SEQ_FAULT is the first (R255). -/
def endPosted (s : State) (n st reason : Nat) : State :=
  let s := ((List.range 32).filter fun t => (s.tag n t).st = .fetching).foldl (fun s t =>
    s.setTag n t { s.tag n t with
      ending := some (if st = 10 then (st, reason) else (s.tag n t).ending.getD (st, reason)) }) s
  completeTags s n ((s.lq n).order.filter fun t => (s.tag n t).st = .posted) { status := st, reason := reason }

/-- Set an actuator out of service (R257): POSTED tags complete, a TAKEN tag completes at its next sector boundary. With no
tag to complete the lanes are drained at once. -/
def setOos (s : State) (a : Nat) : State :=
  if outOfService s a then s
  else
    let free := (lanesOf a).all fun n => (openTags s n).isEmpty
    let s := settleCharge (s.put SEQ.SEQ_CTL.OOS (setBit (s.get SEQ.SEQ_CTL.OOS (a / 2)) (a % 2) true) (a / 2))
    let s := (lanesOf a).foldl (fun s n =>
      let s := ((List.range 32).filter fun t => (s.tag n t).st = .taken).foldl (fun s t =>
        s.setTag n t { s.tag n t with requeue := some 0 }) s
      endPosted s n 1 0) s
    if free then checkDrained s a else s

/-- The heads a lane sequencer works on: of its TAKEN tags, its current tag and its assist steps that wait. -/
def unitHeads (s : State) (n : Nat) : List Nat :=
  (((List.range 32).filter fun t => (s.tag n t).st = .taken || (s.sqr n).tag = some t).map fun t =>
    psaHead (s.tag n t).psa % 8) ++
    ((s.launches.filter fun x => x.kind = .assistStep && x.unit = some n).map (·.head))

/-- A sequencer fault (R259). A lane sequencer's gates close, its elements go to standby, none of its assist steps runs
any more and its tags complete SEQ_FAULT, the write with the point R187 gives; a servo sequencer's actuator goes out of
service. -/
def seqFault (s : State) (u : Nat) (c : SeqFault) : State :=
  let d := unitSeq u
  let s := (s.put SEQ.SQ_STAT.FAULT c.code d (unitIdx u)).put SEQ.SQ_CTL.HOLD_REL 0 d (unitIdx u)
  let s := s.setSqr u { s.sqr u with disabling := false }
  let s := raise (setUnitState s u stFault) (seqPage d) 0 2
  if u < 8 then
    let heads := (unitHeads s u).filter fun h => ((s.ast (u / 2)).elem h).st ≠ .off
    let s := closeGates (tearWrite s u 10) u
    let s := heads.foldl (fun s h => elemToStandby s (u / 2) h)
      { s with launches := s.launches.filter fun x => !(x.kind = .assistStep && x.unit = some u) }
    completeTags (endPosted s u 10 0) u (openTags s u) { status := 10 }
  else setOos s (u - 8)

/-! Commands of the lane queues. -/

/-- What ends a tag posted now (R257, R258, R259, R560): STATUS and REASON, if anything does. -/
def postEnding (s : State) (n : Nat) : Option (Nat × Nat) :=
  if !domainLive s (unitDomain n) then some (11, 0)
  else if unitState s n = stFault then some (10, 0)
  else if outOfService s (n / 2) then some (1, 0)
  else if s.get SEQ.SQ_CTL.ENABLE (n / 4) (n % 4) = 0 then some (1, 5)
  else if s.get SEQ.SQ_CTL.EASY (n / 4) (n % 4) = 1 then some (1, 6)
  else if unitState s n = stHold then some (11, 0)
  else none

/-- A write of LQ_CMD that posts (R252, R257, R258): a FREE tag begins its fetch and takes its place in post order. A post
to an out-of-service, disabled or easing lane completes when its entry has come, since its completion names the entry's
PSA. -/
def lqPost (n t : Nat) (s : State) : State :=
  if (s.tag n t).st = .free then
    let l := s.lq n
    s.setLq n { (l.setTag t { st := .fetching, ending := postEnding s n }) with order := l.order ++ [t] }
  else s.bump SEQ.LQ_ERR.BAD_CMD 1 (n / 4) (n % 4)

/-- What a tag completes with once its entry has come: SEQ_FAULT, an abort, or what else ends it (R255). -/
def fetchedEnding (x : Tag) : Option (Nat × Nat) :=
  match x.ending with
  | some (10, r) => some (10, r)
  | e => if x.abort then some (2, 0) else e

/-- The entry of tag `t` has been fetched from LQ_BASE + 32 t (R251, R252). -/
def tagFetched (n t : Nat) (s : State) : State :=
  if (s.tag n t).st ≠ .fetching then s
  else
    let r := memRead s .sch (s.get SEQ.LQ_BASE.ADDR (n / 4) (n % 4) * 4096 + 32 * t) 32
    let s := r.2
    let x := { s.tag n t with entry := r.1.bytes }
    let s := s.setTag n t { x with st := .posted }
    if r.1.poison || malformed n x then completeTag s n t { status := 12 }
    else match fetchedEnding x with
      | some e => completeTag s n t { status := e.1, reason := e.2 }
      | none => s

/-- TAG_ENTRY_FETCH (R251, R252). -/
def execTagEntryFetch (lane : Fin 8) (tag : Fin 32) (s : State) : Result := .next (tagFetched lane.val tag.val s)

/-- LDP is to end every sector of a tag that it holds (R157, R256). -/
def ldpAbort (s : State) (n t : Nat) : State :=
  let d := n / 4
  let mark := fun (c : Codeword) => if c.lane = n % 4 && c.tag = some t then { c with aborted := true } else c
  let all := fun (m : Sparse (Option Codeword)) => m.map fun e => (e.1, e.2.map mark)
  let l := s.ldp d
  s.setLdp d { l with
    online := l.online.map mark, replays := l.replays.map mark, ready := l.ready.map mark
    restarts := l.restarts.map mark, cores := all l.cores, det := all l.det }

/-- The abort of a tag (R157, R256): ABORTING is answered as 1, NOT_ABORTED as 0. A TAKEN tag stops at its next sector
boundary, and LDP ends its sectors in the ladder at their next iteration boundary. -/
def lqAbort (n t : Nat) (s : State) : State :=
  let x := s.tag n t
  match x.st with
  | .free | .done => s.reply 0 []
  | .fetching => (s.setTag n t { x with abort := true }).reply 1 []
  | .posted => (completeTag s n t { status := 2 }).reply 1 []
  | .taken => (if x.abort then s else ldpAbort (s.setTag n t { x with abort := true }) n t).reply 1 []

/-- The release of a tag (R143, R252). -/
def lqRelease (n t : Nat) (s : State) : State :=
  let x := s.tag n t
  if x.st = .done then (x.pins.foldl (fun s e => ldpUnpin s n e) s).setTag n t {}
  else s.bump SEQ.LQ_ERR.BAD_CMD 1 (n / 4) (n % 4)

/-- A write of LQ_CMD for lane `n` (R264). -/
def lqCmdWrite (n : Nat) (w : Word) (s : State) : State :=
  let t := SEQ.LQ_CMD.TAG.of w
  match SEQ.LQ_CMD.OP.of w with
  | 1 => lqPost n t s
  | 2 => lqAbort n t s
  | 3 => lqRelease n t s
  | _ => s

/-- LQ_POST (R252). -/
def execLqPost (q : Req) (lane : Fin 8) (w : BitVec 32) (s : State) : Result :=
  .next (guarded s q (seqPage (lane.val / 4)) (0x204 + 0x10 * (lane.val % 4)) w (lqCmdWrite lane.val w))

/-- LQ_ABORT (R256). -/
def execLqAbort (q : Req) (lane : Fin 8) (w : BitVec 32) (s : State) : Result :=
  .next (guarded s q (seqPage (lane.val / 4)) (0x204 + 0x10 * (lane.val % 4)) w (lqCmdWrite lane.val w))

/-- LQ_RELEASE (R252). -/
def execLqRelease (q : Req) (lane : Fin 8) (w : BitVec 32) (s : State) : Result :=
  .next (guarded s q (seqPage (lane.val / 4)) (0x204 + 0x10 * (lane.val % 4)) w (lqCmdWrite lane.val w))

/-- A write of SEQ_CTL (R257): bits that set take the actuator out of service, bits that clear return it. -/
def seqCtlWrite (q : Req) (d : Nat) (w : Word) (s : State) : State :=
  let v := SEQ.SEQ_CTL.OOS.of w
  let s := [0, 1].foldl (fun s k => if bit v k then setOos s (2 * d + k) else s) s
  settleCharge (plainWrite s q (seqPage d) 0x040 w)

end Sys2Proof.Machine
end

