-- ==== Sys2Proof/Machine/Mailbox.lean ====
section
/-! DEFINITION. Powering a domain up, the event router's wake requests, and mailboxes (chapters "Processors, caches and
messages" and "Starting, stopping and live service"). -/

namespace Sys2Proof.Machine

open Sys2Proof

/-- Set STATE of a domain without pages, with EV084 and EV086 (R559, R568). -/
def setDomState (s : State) (d v : Nat) : State :=
  domainEdge (domainState s d) (s.setDom d { s.dom d with state := v }) d

/-- A domain leaves reset or is powered up (R553, R558): its epoch rises, core domains start at once, a sequencer and an
image controller come up in HOLD, pages read OFF. -/
def powerUp (s : State) (d : Nat) : State :=
  let x := s.dom d
  let s := s.setDom d { x with powered := true, inReset := false, epoch := (x.epoch + 1) % 256, easing := false }
  let s := if d = 84 then railFollows s else s
  if isCoreDomain d then setDomState s d stRun
  else if isImageDomain d then setDomState s d stHold
  else match domainSeq d with
    | some (die, q) => setUnitState s (seqUnit die q) stHold
    | none => s

/-- A wake request acts as POWER_ON of a powered-down domain, and never wakes one in HOLD (R559, R613). Over a link that
trains it waits, over one that is down it is lost (R28, R29). -/
def wakeDomain (s : State) (d : Nat) : State :=
  if (s.dom d).powered then s
  else if dieTraining s (domainDie d) then s.ask (.wake d)
  else if !dieUp s (domainDie d) || s.wires.drst.contains (domainDie d) then s
  else powerUp s d

/-! Event routing (R462). -/

/-- The core domain of a core. -/
def coreDomain (c : Nat) : Nat := 5 + c

/-- The core an event goes to: EV076 and EV077 to the core that owns the queue (R462). -/
def routeCores (s : State) (ev : Nat) : List Nat :=
  let r := sget 0 s.mbx.routes ev
  if !bit r 7 then []
  else if ev = 76 then s.mbx.inCores
  else if ev = 77 then s.mbx.outCores
  else if bits r 3 3 < 6 then [bits r 3 3] else []

/-- EVENT_WAKE (R462): an event whose entry has WAKE requests power-up of its core's domain. -/
def eventWake (s : State) (ev : Nat) : State :=
  if bit (sget 0 s.mbx.routes ev) 6 then (routeCores s ev).foldl (fun s c => wakeDomain s (coreDomain c)) s else s

/-- EV_PEND of an event (R16): its EV_RAW and EV_EN bits. -/
def eventPending (s : State) (ev : Nat) : Bool :=
  match eventPage ev with
  | some (p, b) => bit (s.get HDR.EV_RAW.RAW p.index) b && bit (s.get HDR.EV_EN.EN p.index) b
  | none => false

/-- The pending events routed to a core. -/
def coreEvents (s : State) (c : Nat) : List Nat :=
  (List.range 288).filter fun ev => (routeCores s ev).contains c && eventPending s ev

/-- Of the pending events the one of highest priority, then of lowest number (R462). -/
def claimOf (s : State) (c : Nat) : Option Nat :=
  (coreEvents s c).foldl (fun best (ev : Nat) => match best with
    | none => some ev
    | some b => if sget 0 s.mbx.routes b % 4 < sget 0 s.mbx.routes ev % 4 then some ev else some b) none

/-- CLAIMc as a word (R469). -/
def claimWord (s : State) (c : Nat) : Nat := match claimOf s c with | some ev => ev | none => 2 ^ 9

/-! Mailboxes (R463-R468). -/

/-- The page of MBX. -/
def mbxPage : Page := ⟨.mbx, 0⟩
/-- Endpoint `e`. -/
def State.endpoint (s : State) (e : Nat) : Endpoint := sget {} s.mbx.ends e
/-- Set endpoint `e`. -/
def State.setEndpoint (s : State) (e : Nat) (v : Endpoint) : State :=
  { s with mbx := { s.mbx with ends := sset {} s.mbx.ends e v } }
/-- The domain of an endpoint (R463). -/
def endDomain (e : Nat) : Nat := if e < 6 then coreDomain e else unitDomain (e - 6)
/-- An endpoint's own requester (R463, R545). -/
def ownEndpoint (q : Req) (e : Nat) : Bool :=
  if e < 6 then q.cls.val ≤ 2 && q.unit.val = e else q.cls.val = 3 && q.unit.val = e - 6

/-- Words an outbound queue holds, the partial message included. -/
def outWords (x : Endpoint) : Nat := (x.out.map (·.words.length)).sum + x.part.length

/-- DEST of a message. -/
def Msg.dest (m : Msg) : Nat := bits (m.words.headD 0) 27 5

/-- A complete message enters the queue; a powered-down receiver with WAKE_EN is woken (R464, R466). -/
def commitMsg (s : State) (e : Nat) (ws : List Nat) : State :=
  let x := s.endpoint e
  let m : Msg := ⟨ws, false⟩
  let s := s.setEndpoint e { x with out := x.out ++ [m], part := [] }
  if !(s.dom (endDomain m.dest)).powered && bit (s.get MBX.MBX_CTL.WAKE_EN) m.dest then wakeDomain s (endDomain m.dest)
  else s

/-- A word pushed to an outbound queue (R464). -/
def outPush (s : State) (e w : Nat) : State :=
  let x := s.endpoint e
  if 16 ≤ outWords x then s.bump MBX.Q_CNT.OVERFLOW 1 0 e
  else match x.part with
    | [] =>
      if 18 ≤ bits w 27 5 then raise (s.bump MBX.Q_CNT.BAD 1 0 e) mbxPage 3 7
      else
        let h := w % 256 + (s.dom (endDomain e)).epoch * 2 ^ 8 + e * 2 ^ 16 + bits w 25 2 * 2 ^ 25 + bits w 27 5 * 2 ^ 27
        if bits w 25 2 = 0 then commitMsg s e [h] else s.setEndpoint e { x with part := [h] }
    | h :: t =>
      let ws := h :: t ++ [w]
      if ws.length = 1 + bits h 25 2 then commitMsg s e ws else s.setEndpoint e { x with part := ws }

/-- The cores that own an event of the queues which is still raised, and one more: none is owed an event that has been
cleared (R462, R467). -/
def owners (s : State) (b : Nat) (l : List Nat) (c : Nat) : List Nat :=
  (if bit (s.get HDR.EV_RAW.RAW mbxPage.index) b then l.erase c else []) ++ [c]

/-- A core's outbound queue has become empty: EV077 (R467). -/
def outEmptied (s : State) (e : Nat) : State :=
  if e < 6 && (s.endpoint e).out.isEmpty then
    raise { s with mbx := { s.mbx with outCores := owners s 1 s.mbx.outCores e } } mbxPage 1 7
  else s

/-- The head message of an endpoint can be delivered (R465): Cox sees the receiver's domain over a link that is up and
does not train (R28, R29). -/
def deliverable (s : State) (e : Nat) : Bool :=
  match (s.endpoint e).out with
  | [] => false
  | m :: _ => dieUp s (domainDie (endDomain m.dest)) && !dieTraining s (domainDie (endDomain m.dest)) && domainState s (endDomain m.dest) = stRun && decide ((s.endpoint m.dest).inq.length + m.words.length ≤ 16)

/-- A lower endpoint's head message can be delivered to the same receiver: it goes first (R465). -/
def outranked (s : State) (e dest : Nat) : Bool :=
  (List.range e).any fun k => deliverable s k && decide (((s.endpoint k).out.head?.map Msg.dest) = some dest)

/-- MBX_DELIVER (R465, R467). -/
def execMbxDeliver (sender : Fin 18) (s : State) : Result :=
  .next (
    let e := sender.val
    match (s.endpoint e).out with
    | [] => s
    | m :: ms =>
      if !deliverable s e || outranked s e m.dest then s
      else
        let s := (s.setEndpoint e { s.endpoint e with out := ms }).bump MBX.Q_CNT.SENT 1 0 e
        let y := s.endpoint m.dest
        let s := s.setEndpoint m.dest { y with inq := y.inq ++ m.words }
        let s := if m.dest < 6 && y.inq.isEmpty then
            raise { s with mbx := { s.mbx with inCores := owners s 0 s.mbx.inCores m.dest } } mbxPage 0 7
          else s
        outEmptied s e)

/-- MBX_OUT_WRITE (R463, R464). -/
def execMbxOutWrite (q : Req) (endpoint : Fin 18) (w : BitVec 32) (s : State) : Result :=
  .next (guarded s q mbxPage (0x100 + 0x20 * endpoint.val) w fun s =>
    if ownEndpoint q endpoint.val then outPush s endpoint.val w.toNat else s)

/-- The oldest inbound word, removed; 0 when empty (R463, R469). -/
def inPop (s : State) (e : Nat) : Nat × State :=
  let x := s.endpoint e
  match x.inq with
  | [] => (0, s)
  | w :: ws => (w, s.setEndpoint e { x with inq := ws })

/-- MBX_IN_READ (R463). -/
def execMbxInRead (q : Req) (endpoint : Fin 18) (s : State) : Result :=
  .next (guardedRead s q mbxPage (0x104 + 0x20 * endpoint.val) fun s =>
    if ownEndpoint q endpoint.val then inPop s endpoint.val else (0, s))

/-- A write of OUT_CTL (R468). -/
def outCtlWrite (e : Nat) (w : Word) (s : State) : State :=
  let x := s.endpoint e
  let n := x.out.length
  if MBX.OUT_CTL.WITHDRAW.of w = 0 then s
  else
    let s := (s.setEndpoint e { x with out := [], part := [] }).bump MBX.Q_CNT.WITHDRAWN n 0 e
    if n = 0 then s else outEmptied (raise s mbxPage 3 7) e

/-- MBX_WITHDRAW (R463, R468). -/
def execMbxWithdraw (q : Req) (endpoint : Fin 18) (w : BitVec 32) (s : State) : Result :=
  .next (guarded s q mbxPage (0x10C + 0x20 * endpoint.val) w fun s =>
    if ownEndpoint q endpoint.val then outCtlWrite endpoint.val w s else s)

/-- MBX_WAIT_WARN (R465): EV078, once for a message. -/
def execMbxWaitWarn (sender : Fin 18) (s : State) : Result :=
  .next (
    let x := s.endpoint sender.val
    match x.out with
    | [] => s
    | m :: ms =>
      if m.warned || deliverable s sender.val then s
      else raise (s.setEndpoint sender.val { x with out := { m with warned := true } :: ms }) mbxPage 2 7)

/-- Q_STAT as computed (R469). -/
def qStat (s : State) (e : Nat) : Nat :=
  let x := s.endpoint e
  x.inq.length * 2 ^ 24 + outWords x * 2 ^ 16 + (if x.part.isEmpty then 0 else 2) +
    (if !x.out.isEmpty && !deliverable s e then 1 else 0)

/-- A reset of a sender discards its partial message (R468). -/
def dropPartial (s : State) (e : Nat) : State := s.setEndpoint e { s.endpoint e with part := [] }

/-- A write of any MBX register (R469). -/
def mbxWrite (q : Req) (off : Nat) (w : Word) (s : State) : State :=
  if off = 0x04C then
    { s with mbx := { s.mbx with routes := sset 0 s.mbx.routes (min 287 (s.get MBX.ROUTE_WIN.EVENT)) (w.toNat &&& 0xFB) } }
  else if off < 0x100 then plainWrite s q mbxPage off w
  else
    let e := (off - 0x100) / 0x20
    if !ownEndpoint q e then s
    else if (off - 0x100) % 0x20 = 0 then outPush s e w.toNat
    else if (off - 0x100) % 0x20 = 0x0C then outCtlWrite e w s
    else s

end Sys2Proof.Machine
end

