-- ==== Sys2Proof/Machine/Assist.lean ====
section
/-! DEFINITION. AST: write gate, assist elements, the preamplifier bus, trailing verify and write inhibit (chapter
"Writing and energy assist"). -/

namespace Sys2Proof.Machine

open Sys2Proof

/-- KIND: 0 none, 1 heat, 2 microwave; 3 acts as none (R190). -/
def assistKind (s : State) (a h : Nat) : Nat := let k := bits (astWord s a h 0) 0 2; if k = 3 then 0 else k
/-- WRITE_W, UQ2.6 (R167). -/
def writeW (s : State) (a h : Nat) : Nat := bits (astWord s a h 0) 8 8
/-- MAX. -/
def assistMax (s : State) (a h : Nat) : Nat := bits (astWord s a h 0) 16 10
/-- RAMP_STEP; 0 acts as 1. -/
def rampStep (s : State) (a h : Nat) : Nat := max 1 (bits (astWord s a h 1) 16 10)
/-- SETPOINT of a rate band. -/
def setPoint (s : State) (a h k : Nat) : Nat := bits (astWord s a h (k + 16)) 0 10
/-- VFY_OFS of a rate band, percent of pitch, in force from the next gate opening on (R190). -/
def vfyOfs (s : State) (a h k : Nat) : Int := signed 6 (bits (headWord s a h (k + 16)) 20 6)
/-- VFY_RDR of a rate band: reader B (R180). -/
def vfyReader (s : State) (a h k : Nat) : Bool := bit (headWord s a h (k + 16)) 26
/-- VFY_REREAD of a rate band. -/
def vfyReread (s : State) (a h k : Nat) : Bool := bit (headWord s a h (k + 16)) 27
/-- A write of the verified class is verified in its own pass on a head in a rate band (R180). -/
def verifiesInPass (s : State) (a h k : Nat) : Bool :=
  !vfyReread s a h k && decide ((vfyOfs s a h k).natAbs ≤ s.get AST.WG_CTL.VFY_OFS_MAX a)

/-- The head table words of a head as they stand come into force: it is armed (R190). -/
def takeWords (s : State) (a h : Nat) : State :=
  let x := s.ast a
  let words := (List.range 64).foldl (fun m w => sset 0 m (64 * h + w) (headWord s a h w)) x.force
  s.setAst a { x.setElem h { x.elem h with held := true } with force := words }

/-- TRIM of a head, signed 8 bits (R189). -/
def trimOf (s : State) (a h : Nat) : Int :=
  signed 8 (bits (s.get (if h < 4 then AST.TRIM_LO.TRIM else AST.TRIM_HI.TRIM) a) (8 * (h % 4)) 8)

/-- Set TRIM of a head. -/
def setTrim (s : State) (a h : Nat) (v : Int) : State :=
  let F := if h < 4 then AST.TRIM_LO.TRIM else AST.TRIM_HI.TRIM
  let old := s.get F a
  s.put F (old - bits old (8 * (h % 4)) 8 * 2 ^ (8 * (h % 4)) + unsigned 8 v * 2 ^ (8 * (h % 4))) a

/-- The effective set-point: SETPOINT plus TRIM, between STANDBY and MAX (R171). -/
def effective (s : State) (a h k : Nat) : Nat :=
  (clampI (standbyCode s a h) (assistMax s a h) ((setPoint s a h k : Int) + trimOf s a h)).toNat

/-- A full-power assist writer (R171). -/
def fullPower (s : State) (a h k : Nat) : Bool :=
  assistKind s a h ≠ 0 && assistMax s a h < 2 * effective s a h k

/-- Rate band of a PSA's track, 0 beyond the format. -/
def psaBand (s : State) (psa : Nat) : Nat := (trackRateBand s (psaTrack psa)).getD 0

/-- A head has a fault bit set (R179). -/
def headFaulty (s : State) (a h : Nat) : Bool :=
  bit (s.get AST.HEAD_FAULT.ASSIST_FAULT a) h || bit (s.get AST.HEAD_FAULT.WRITE_FAULT a) h

/-! Write inhibit (R185-R188). -/

/-- A head whose microactuator driver has faulted is unable to follow (R232). -/
def unable (s : State) (a h : Nat) : Bool := bit (s.get MAC.MAC_FAULT.FAULT) (8 * a + h)

/-- Writes of a head are inhibited (R185). A microactuator whose driver has faulted refuses writes as off track
(R232). -/
def inhibited (s : State) (a h : Nat) : Bool :=
  !(s.ast a).inh.isEmpty || (s.ast a).inhPes.contains h || !running s (astPage a) ||
    !domainLive s (astPage a).domain || unable s a h

/-- The lanes of an actuator drop write gate where it is high (R185, R187); `h` limits the scope to one head. -/
def dropGates (s : State) (a : Nat) (h : Option Nat) : State :=
  (lanesOf a).foldl (fun s n => match (s.lane n).write with
    | some j => if (s.lane n).writeGate && (h.isNone || h = some j.head) then tearWrite s n 4 else s
    | none => s) s

/-- INH_SRC codes (R189). -/
def inhCode : InhSrc → Nat
  | .winh => 2 | .preampFault => 3 | .force => 4 | .notRun => 5

/-- A source deasserted that waits for its good wedges (R186). -/
def Ast.isReleasing (x : Ast) (src : InhSrc) : Bool := x.releasing.any fun e => e.1 = src

/-- An inhibit of a whole actuator begins (R185). -/
def inhibit (s : State) (a : Nat) (src : InhSrc) : State :=
  let x := s.ast a
  let new := !x.inh.contains src || x.isReleasing src
  let s := s.setAst a { x with
    inh := if x.inh.contains src then x.inh else x.inh ++ [src], releasing := x.releasing.filter fun e => e.1 ≠ src }
  dropGates (raiseIf new (s.put AST.AST_STAT.INH_SRC (inhCode src) a) (astPage a) 0 7) a none

/-- A source deasserts: the inhibit lasts until REL_WEDGES wedges within the limit follow (R186). -/
def startRelease (s : State) (a : Nat) (src : InhSrc) : State :=
  let x := s.ast a
  if x.inh.contains src && !x.isReleasing src then s.setAst a { x with releasing := x.releasing ++ [(src, 0)] } else s

/-- The limit of a head's writes in percent of pitch; above 25 acts as 25 (R185, R189). -/
def inhLimit (s : State) (a : Nat) (conv : Bool) : Nat :=
  min 25 (if conv then s.get AST.WI_LIMIT.CONV_LIM a else s.get AST.WI_LIMIT.SHG_LIM a)

/-- Whether the last wedge of a head lies within a limit (R185, R196, R216, R232): read, not replaced by a prediction,
not in MANUAL, and of a head that is able to follow. -/
def wedgeWithin (s : State) (a h lim : Nat) : Bool :=
  let pes := signed 16 (s.get SRV.PES.PES a h)
  s.get SRV.PES.VALID a h = 1 && s.get SRV.PES.EST a h = 0 && s.get SRV.SRV_STAT.STATE a ≠ 6 && !unable s a h &&
    decide (pes.natAbs * 100 ≤ lim * 16384)

/-- The write of a head, if one is in progress. -/
def headJob (s : State) (a h : Nat) : Option WriteJob :=
  (lanesOf a).findSome? fun n => (s.lane n).write.filter fun j => j.head = h

/-- A writing head is off track: its writes are inhibited (R185, R187, R232). -/
def offTrack (s : State) (a h : Nat) (j : WriteJob) : State :=
  let x := s.ast a
  let s := s.setAst a { x with
    inhPes := if x.inhPes.contains h then x.inhPes else x.inhPes ++ [h], good := sset 0 x.good h 0
    inhConv := if j.conv then (x.inhConv.erase h) ++ [h] else x.inhConv.erase h }
  let s := (s.bump AST.INH_CNT.PES_CNT 1 a).put AST.AST_STAT.INH_SRC 1 a
  dropGates (raise s (astPage a) 0 7) a (some h)

/-- PES_INHIBIT_CHECK (R185, R187): a writing head's wedge lies outside its limit. -/
def execPesInhibitCheck (ast : Fin 4) (head : Fin 8) (s : State) : Result :=
  .next (
    let a := ast.val
    let h := head.val
    match headJob s a h with
    | none => s
    | some j => if s.get SRV.PES.VALID a h = 0 || wedgeWithin s a h (inhLimit s a j.conv) then s else offTrack s a h j)

/-- A wedge of a head has been read: the releases of R186. The heads' releases count their own wedges; those of WINH
and the fault line count the lead's (DEDUCED, log 18). -/
def astWedge (s : State) (a h lead : Nat) : State :=
  let x := s.ast a
  let ok := wedgeWithin s a h (inhLimit s a (x.inhConv.contains h))
  let n := if ok then sget 0 x.good h + 1 else 0
  let rel := max 1 (s.get AST.WI_LIMIT.REL_WEDGES a)
  let x := { x with good := sset 0 x.good h (min n 255) }
  let x := if rel ≤ n then { x with inhPes := x.inhPes.erase h } else x
  let counts := x.releasing.map fun e => (e.1, if ok then e.2 + 1 else 0)
  let done := (counts.filter fun e => rel ≤ e.2).map (·.1)
  s.setAst a (if h = lead then
    { x with inh := x.inh.filter fun y => !done.contains y, releasing := counts.filter fun e => e.2 < rel } else x)

/-- FORCE_INH was written (R185, R186). -/
def forceWrite (q : Req) (a : Nat) (w : Word) (s : State) : State :=
  let old := s.get AST.AST_CTL.FORCE_INH a
  let s := plainWrite s q (astPage a) 0x040 w
  let new := s.get AST.AST_CTL.FORCE_INH a
  if old = 0 && new = 1 then inhibit s a .force
  else if old = 1 && new = 0 then
    s.setAst a { s.ast a with inh := (s.ast a).inh.erase .force }
  else s

/-- FORCE_INHIBIT_SET (R185). -/
def execForceInhibitSet (q : Req) (ast : Fin 4) (w : BitVec 32) (s : State) : Result :=
  .next (guarded s q (astPage ast.val) 0x040 w (forceWrite q ast.val w))

/-- FORCE_INHIBIT_CLEAR (R186). -/
def execForceInhibitClear (q : Req) (ast : Fin 4) (w : BitVec 32) (s : State) : Result :=
  .next (guarded s q (astPage ast.val) 0x040 w (forceWrite q ast.val w))

/-- AST leaves RUN for good (R185, R188): writes end, elements go OFF. -/
def astStop (s : State) (a : Nat) : State := (List.range 8).foldl (fun s h => elemOff s a h) (inhibit s a .notRun)

/-- AST is in RUN (R185). -/
def astRuns (s : State) (a : Nat) : State := s.setAst a { s.ast a with inh := (s.ast a).inh.erase .notRun }

/-! The write gate. -/

/-- The preamplifier interface of an actuator is on (R551, R595): off or in reset it keeps write gates and the serial bus
low and ignores the fault line. -/
def preampLive (s : State) (a : Nat) : Bool := domainLive s (58 + a % 2 + 20 * (a / 2))

/-- Refusals of a launch (R41, R43, R165, R172, R174, R179, R209, R211) as a LAUNCH word or a requester sees them
(log 15): 1 LATE, 2 UNLOCKED, 3 inhibited, 4 ASSIST_NOT_READY, 5 HEAD_FAULT, 6 NOFIT, 7 PAIR_RANGE, 8 REFUSED. -/
def statusInhibited : Nat := 3
/-- ASSIST_NOT_READY (R172). -/
def statusNotReady : Nat := 4
/-- HEAD_FAULT (R167, R179). -/
def statusHeadFault : Nat := 5
/-- NOFIT (R174). -/
def statusNoFit : Nat := 6
/-- PAIR_RANGE (R211). -/
def statusPairRange : Nat := 7
/-- REFUSED (R209). -/
def statusRefused : Nat := 8

/-- The element is ready for a gate opening at a stroke in a rate band (R169, R170, R172). -/
def assistReady (s : State) (a h stroke band : Nat) : Bool :=
  let e := (s.ast a).elem h
  assistKind s a h = 0 ||
    (e.st = .armed && e.band = band && decide (e.armStroke + s.get AST.AST_CTL.PREHEAT a ≤ stroke))

/-- Why a write-gate opening is refused, 0 if it is not (R41, R165, R167, R172, R179). -/
def gateRefusal (s : State) (a h stroke band : Nat) : Nat :=
  if !locked s then statusUnlocked
  else if headFaulty s a h || writeW s a h < 80 || 224 < writeW s a h then statusHeadFault
  else if inhibited s a h then statusInhibited
  else if !assistReady s a h stroke band then statusNotReady
  else 0

/-- A refused opening counts and raises where its rule says so (R172). -/
def countGateRefusal (s : State) (a st : Nat) : State :=
  if st = statusNotReady then raise (s.bump AST.STEP_ERR.NOTREADY_CNT 1 a) (astPage a) 3 7 else s

/-- How a tag ends whose gate may not rise (R41, R165, R172, R179). -/
def refusalEnding (st : Nat) : Ending :=
  if st = statusUnlocked then { status := 8 }
  else if st = statusHeadFault then { status := 5 }
  else if st = statusInhibited then { status := 4 }
  else { status := 1, reason := 2 }

/-- The age of the operation of a tag. -/
def tagAge (s : State) (n t : Nat) : Option Nat := (sget none s.sch.posted (32 * n + t)).map (·.age)

/-- Two writes whose commits fall in one stroke: the older operation comes first, of equally old ones the lower actuator
(R367). -/
def permitBefore (x y : Option Nat) (n m : Nat) : Bool :=
  match x, y with
  | some a, some b => decide (a < b) || (a = b && decide (n < m))
  | some _, none => true
  | none, some _ => false
  | none, none => decide (n < m)

/-- Writes on other lanes that are to open in this stroke, need a permit, hold none, would open, and come before the write
of tag `tg` of lane `n` (R367). -/
def assistRivals (s : State) (n tg : Nat) : Nat :=
  (s.launches.filter fun x => match x.tag with
    | some t => x.due .writeGate x.inst (strokeAt s (x.inst / 4 + 1)) && x.inst ≠ n && (s.tag x.inst t).fullAssist &&
        (s.tag x.inst t).st = .taken && !bit (s.get SCH.PERMIT_STAT.ASSIST) x.inst &&
        gateRefusal s (x.inst / 2) x.head x.stroke (psaBand s (s.tag x.inst t).psa) = 0 &&
        permitBefore (tagAge s x.inst t) (tagAge s n tg) x.inst n
    | none => false).length

/-- Take the assist permit of a FULL_ASSIST write, if one is free (R58, R367). -/
def takeAssistPermit (s : State) (n tg : Nat) : State :=
  let v := s.get SCH.PERMIT_STAT.ASSIST
  if bit v n then s
  else if (bitList 8 v).length + assistRivals s n tg < maxAssist s then s.put SCH.PERMIT_STAT.ASSIST (setBit v n true)
  else s

/-- The write position of a head in Q2.14 pitch from the track's centre (R167, R180): the placement, on the side of
track w + 1, and VFY_OFS of a verified write. -/
def writeOffset (s : State) (a h : Nat) (psa : Nat) (verified : Bool) : Int :=
  let k := psaBand s psa
  let side : Int := ((writeW s a h : Int) - 64) * 128
  (if (rateBand s k).dir = 0 then side else -side) + (if verified then rdiv (vfyOfs s a h k * 16384) 100 else 0)

/-- Channel bit of its track at which write gate rises for the first slot of a write (R163). A write of a conventional
band is no track pass, so the first row is not for it (DEDUCED, log 70). -/
def gateBit (s : State) (a : Nat) (t : Tag) (first : Nat) : Nat :=
  let sl := segBits s (psaTrack t.psa)
  let bit0 := first * 38272
  let start := bit0 / sl * sl
  let lead := s.get AST.WG_CTL.WG_LEAD a
  if (!t.conv && passStart s (psaTrack t.psa) = some first) || bit0 < start + lead then start else bit0 - lead

/-- A write whose frames are all written makes room for the next: its tag still awaits its completion (R183, R254). -/
def Lane.retire (l : Lane) : Lane := { l with judging := l.judging ++ l.write.toList, write := none }

/-- The lane may not begin a write yet: one is in progress, or results are awaited of another track (R183). -/
def laneHolds (l : Lane) (key : Nat) : Bool :=
  (l.write.any fun j => !j.frames.isEmpty) ||
    (l.judging ++ l.write.toList).any fun j => !j.unverified.isEmpty && j.key ≠ key

/-- The gate rises for a tag's write (R162-R166, R170, R180): pad pattern leads to its first frame, and its first frames
are written. -/
def openGate (s : State) (n h tg : Nat) (rwo : Int) : State :=
  let a := n / 2
  let t := s.tag n tg
  let band := psaBand s t.psa
  let verified := t.verified && verifiesInPass s a h band
  let sl := segBits s (psaTrack t.psa)
  let frames := writeFrames s t
  let first := (frames.head?).getD (psaSlot t.psa)
  let seg := first * 38272 / sl
  let key := trackKey t.psa
  let now := strokeAt s (n / 4 + 1)
  let j : WriteJob :=
    { head := h, tag := tg, key := key, first := first, frames := frames, sent := 0, unverified := [],
      verified := verified, conv := t.conv, seg := seg, seg0 := seg, reader := vfyReader s a h band, opened := now }
  let x := s.ast a
  let e := x.elem h
  let s := s.setAst a { x.setElem h (if e.st = .off then e else { e with idle := now }) with selected := h }
  let s := setOffset s a h (writeOffset s a h t.psa verified + 64 * rwo)
  let s := serveHead { s with media := padUpTo s.media key (gateBit s a t first) first } n h
  let s := setGate (s.setLane n { (s.lane n).retire with write := some j }) n true
  advanceWrite n sl (frames.length + 1) j s

/-- WRITE_GATE_OPEN (R58, R165, R172, R179, R183, R367): the launched opening of a lane rises, or the tag returns. An
opening that the lane may not begin yet stands until its stroke is over; with the preamplifier interface off the gate
stays low (R595; log 57). -/
def execWriteGateOpen (lane : Fin 8) (rwo : Int) (s : State) : Result :=
  .next (
    let n := lane.val
    match takeLaunch s .writeGate n (n / 4 + 1) with
    | none => s
    | some (x, u) =>
      match x.tag with
      | none => u
      | some tg =>
        let t := s.tag n tg
        if t.st ≠ .taken || !t.writes || ((s.lane n).job tg).isSome then u
        else if laneHolds (s.lane n) (trackKey t.psa) then s
        else
          let a := n / 2
          let band := psaBand s t.psa
          let st := gateRefusal s a x.head x.stroke band
          if st ≠ 0 then completeTag (countGateRefusal u a st) n tg (refusalEnding st)
          else if !preampLive s a then u
          else
            let u := if t.fullAssist then takeAssistPermit u n tg else u
            if fullPower s a x.head band && !bit (u.get SCH.PERMIT_STAT.ASSIST) n then
              completeTag u n tg { status := 1, reason := 1 }
            else openGate u n x.head tg rwo)

/-- WRITE_WEDGE_CROSS (R162, R164): the gate falls for the window and rises at its end while frames remain; an inhibit
that stands keeps it low. -/
def execWriteWedgeCross (lane : Fin 8) (s : State) : Result :=
  .next (
    let n := lane.val
    match (s.lane n).write with
    | none => s
    | some j =>
      if !(s.lane n).writeGate then s
      else
        let sl := segBits s (psaTrack j.key)
        let j := j.cross sl (strokeAt s (n / 4 + 1))
        advanceWrite n sl (j.frames.length + 1) j (s.setLane n { s.lane n with write := some j }))

/-! Assist elements. -/

/-- The codes a drive is raised through (R172). -/
def rampCodes (step target : Nat) : Nat → Nat → List Nat
  | 0, _ => []
  | f + 1, d => if target ≤ d then [] else
    let d' := min target (d + step)
    d' :: rampCodes step target f d'

/-- The bus frames of an arming step (R172): the ramp to STANDBY, then the WRITE code; the code alone for an element
that is armed already. -/
def armFrames (s : State) (a h band : Nat) : List PFrame :=
  let e := (s.ast a).elem h
  let ramp := if e.st = .armed then [] else rampCodes (rampStep s a h) (standbyCode s a h) 1024 e.drive
  ramp.map (fun c => ⟨.armStandby, h, s.get AST.PBUS_CFG.STBY_ADDR a % 128, c, false⟩) ++
    [⟨.armWrite, h, s.get AST.PBUS_CFG.WRITE_ADDR a % 128, effective s a h band, false⟩]

/-- A step whose frames, one every 128 phase units from its phase on, do not all end before the next catch does not
fit (R174, R176, R177). A frame is 36 bus clocks; the period is UQ16.8 ns. -/
def stepFits (s : State) (a frames phase : Nat) : Bool :=
  let ns := 90 * (s.get AST.PBUS_CFG.CLK_DIV a + 1)
  let period := s.get BRZ.STROKE_PERIOD.PERIOD
  decide ((phase + 128 * (frames - 1)) * period + ns * 256 * 4096 ≤ 4096 * period)

/-- ASSIST_ARM (R172, R174, R190): the arming step of an actuator that is due takes the head's table words and queues its
frames; words written since its launch can have made it a step that does not fit, which sends none. -/
def execAssistArm (ast : Fin 4) (s : State) : Result :=
  .next (
    let a := ast.val
    match takeLaunch s .assistStep a (a / 2 + 1) with
    | none => s
    | some (x, s) =>
      if headFaulty s a x.head || assistKind s a x.head = 0 || !running s (astPage a) then s
      else
        let u := s
        let s := takeWords s a x.head
        let frames := armFrames s a x.head x.band
        if !stepFits s a frames.length x.phase then raise (u.bump AST.STEP_ERR.NOFIT_CNT 1 a) (astPage a) 3 7
        else
        let y := s.ast a
        let e := y.elem x.head
        let now := strokeAt s (a / 2 + 1)
        let e' := { e with band := x.band, armStroke := if e.st = .armed then e.armStroke else now, idle := now }
        s.setAst a { y.setElem x.head e' with frames := y.frames ++ frames })

/-- ASSIST_IDLE_OFF (R173): IDLE_OFF revolutions, 512 strokes each, since the last gate opening. -/
def execAssistIdleOff (ast : Fin 4) (head : Fin 8) (s : State) : Result :=
  .next (
    let a := ast.val
    let e := (s.ast a).elem head.val
    let n := s.get AST.AST_CTL.IDLE_OFF a
    if n ≠ 0 && e.st ≠ .off && decide (e.idle + 512 * n ≤ strokeAt s (a / 2 + 1)) then elemOff s a head.val else s)

/-! Trim (R175). -/

/-- A head's TRIM after a step: it saturates at TRIM_LIMIT (R175, R189). -/
def trimmed (s : State) (a h : Nat) (step : Int) : Int :=
  let lim : Int := s.get AST.TRIM_CFG.TRIM_LIMIT a
  clampI (-128) 127 (clampI (-lim) lim (trimOf s a h + step))

/-- The frame of the code that a trim step gives an armed head (R175). -/
def trimFrame (s : State) (a : Nat) (t : Trim) : Option PFrame :=
  if ((s.ast a).elem t.head).st = .armed then
    some ⟨.catchCode, t.head, s.get AST.PBUS_CFG.WRITE_ADDR a % 128,
      effective (setTrim s a t.head (trimmed s a t.head t.step)) a t.head ((s.ast a).elem t.head).band, false⟩
  else none

/-- The frames of the codes that trim steps change at catch `n` wait on the bus in the stroke before it (R175). -/
def trimFrames (s : State) (a n : Nat) : State :=
  let x := s.ast a
  let fs := (x.trims.filter fun t => t.stroke = n).filterMap (trimFrame s a)
  if fs.isEmpty then s else s.setAst a { x with frames := x.frames ++ fs }

/-- One trim step takes force at its catch (R170, R175): an armed head's code follows, its drive too while write gate is
high, and a step that reaches a limit counts and raises. -/
def trimOne (s : State) (a : Nat) (t : Trim) : State :=
  let lim : Int := s.get AST.TRIM_CFG.TRIM_LIMIT a
  let v := trimmed s a t.head t.step
  let s := setTrim s a t.head v
  let x := s.ast a
  let e := x.elem t.head
  let code := effective s a t.head e.band
  let clamped := decide (lim ≤ v ∨ v ≤ -lim) || decide ((assistMax s a t.head : Int) < setPoint s a t.head e.band + v)
  let s := if e.st = .armed then
      driveElem (s.setAst a { x.setElem t.head { e with code := code } with
        preamp := sset (0, 0) x.preamp t.head ((sget (0, 0) x.preamp t.head).1, code)
        frames := x.frames.filter fun f => !(f.kind = .catchCode && f.head = t.head) }) a t.head
    else s
  if clamped then raise (s.bump AST.STEP_ERR.CLAMP_CNT 1 a) (astPage a) 3 7 else s

/-- A late trim step (R43, R175). -/
def trimLate (s : State) (a : Nat) (cal : Bool) : State :=
  let s := raise (s.bump AST.STEP_ERR.LATE_CNT 1 a) (astPage a) 3 7
  if cal then s else s.put AST.TRIM_STEP.LATE 1 a

/-- A trim step is asked for (R175). One that names the very next catch puts its frame on the bus at once. -/
def trimRequest (s : State) (a h : Nat) (step : Int) (low : Nat) (cal : Bool) : State :=
  if cal && s.get AST.AST_CTL.MON_EN a = 0 then s.reply statusRefused []
  else
    let s := if cal then s else s.put AST.TRIM_STEP.LATE 0 a
    match launchStroke (strokeAt s (a / 2 + 1)) low with
    | none => (trimLate s a cal).reply statusLate []
    | some n =>
      let x := s.ast a
      if x.trims.any fun t => t.head = h && t.stroke = n then s.reply statusRefused []
      else
        let t : Trim := ⟨h, step, n⟩
        let now := if n = strokeAt s (a / 2 + 1) + 1 then (trimFrame s a t).toList else []
        ((s.setAst a { x with trims := x.trims ++ [t], frames := x.frames ++ now }).put AST.TRIM_STEP.PENDING 1 a).reply
          0 []

/-- A write of TRIM_STEP (R175, R189). -/
def trimWrite (q : Req) (a : Nat) (w : Word) (s : State) : State :=
  let s := plainWrite s q (astPage a) 0x078 w
  if AST.TRIM_STEP.GO.of w = 1 then
    trimRequest s a (AST.TRIM_STEP.HEAD.of w) (signed 8 (AST.TRIM_STEP.STEP.of w)) (AST.TRIM_STEP.STROKE.of w) false
  else s

/-- CAL's trim request to AST, a work request (R175, R526): over a link that trains it waits (R28); over one that is
down, or to an AST that is not at work, it completes with DOMAIN_RESET (R29, R560). -/
def calTrim (s : State) (a h : Nat) (step : Int) (low : Nat) : State :=
  if dieTraining s (astPage a).die then s.ask (.trim (8 * a + h) step low)
  else if dieUp s (astPage a).die && working s (astPage a) && domainLive s (astPage a).domain then
    trimRequest s a h step low true
  else s.reply domainResetStatus []

/-- TRIM_STEP_REQUEST (R175): from CAL when `cal`, else a write of TRIM_STEP. -/
def execTrimStepRequest (q : Req) (ast : Fin 4) (w : BitVec 32) (cal : Bool) (s : State) : Result :=
  .next (if cal then
    calTrim s ast.val (AST.TRIM_STEP.HEAD.of w) (signed 8 (AST.TRIM_STEP.STEP.of w)) (AST.TRIM_STEP.STROKE.of w)
  else guarded s q (astPage ast.val) 0x078 w (trimWrite q ast.val w))

/-- TRIM_APPLY at a catch (R45, R175). -/
def trimApply (s : State) (a n : Nat) : State :=
  let due := (s.ast a).trims.filter fun t => t.stroke = n
  let s := due.foldl (fun s t => trimOne s a t) s
  let x := s.ast a
  let left := x.trims.filter fun t => t.stroke ≠ n
  (s.setAst a { x with trims := left }).put AST.TRIM_STEP.PENDING (if left.isEmpty then 0 else 1) a

/-! The preamplifier bus (R176-R178). -/

/-- Place of a frame kind in the order of R177. -/
def FrameKind.rank : FrameKind → Nat
  | .status => 0 | .catchCode => 1 | .armStandby => 2 | .armWrite => 2 | .firmware => 3

/-- The frame sent next: the first of the highest rank (R177). -/
def nextFrame : List PFrame → Option PFrame
  | [] => none
  | f :: fs => match nextFrame fs with
    | some g => if g.kind.rank < f.kind.rank then some g else some f
    | none => some f

/-- What a frame does once sent (R170, R172, R175-R178). `rd` is what a read returns. -/
def frameSent (s : State) (a : Nat) (f : PFrame) (rd : Nat) : State :=
  let x := s.ast a
  let x := { x with frames := x.frames.erase f, selected := f.head }
  let e := x.elem f.head
  let p := sget (0, 0) x.preamp f.head
  match f.kind with
  | .status => s.setAst a x
  | .catchCode => s.setAst a { x with preamp := sset (0, 0) x.preamp f.head (p.1, f.data) }
  | .armStandby =>
    let st := if f.data = standbyCode s a f.head then ElemSt.standby else e.st
    s.setAst a { x.setElem f.head { e with drive := f.data, st := st } with
      preamp := sset (0, 0) x.preamp f.head (f.data, p.2) }
  | .armWrite =>
    driveElem (s.setAst a { x.setElem f.head { e with code := f.data, st := .armed } with
      preamp := sset (0, 0) x.preamp f.head (p.1, f.data) }) a f.head
  | .firmware =>
    let sb := !f.read && f.addr = s.get AST.PBUS_CFG.STBY_ADDR a
    let wr := !f.read && f.addr = s.get AST.PBUS_CFG.WRITE_ADDR a
    let s := s.setAst a { x with
      preamp := sset (0, 0) x.preamp f.head (if sb then f.data else p.1, if wr then f.data else p.2) }
    let s := if f.read then s.put AST.PBUS_CMD.DATA rd a else s
    (s.put AST.PBUS_CMD.BUSY 0 a).put AST.PBUS_CMD.RESULT 0 a

/-- Heads whose element is armed. -/
def armedHeads (x : Ast) : List Nat := (List.range 8).filter fun h => (x.elem h).st = .armed

/-- The revolution's readback of the armed heads is due (R177): 512 strokes have passed since the last. -/
def readbackDue (s : State) (a : Nat) : Bool :=
  !(armedHeads (s.ast a)).isEmpty && decide ((s.ast a).readAt + 512 ≤ strokeAt s (a / 2 + 1))

/-- PBUS_FRAME_SEND (R177): the highest-priority waiting frame; a readback that is due goes ahead of firmware's. `rd` is
what the preamplifier returns to a read. -/
def execPbusFrameSend (ast : Fin 4) (rd : BitVec 16) (s : State) : Result :=
  .next (match nextFrame (s.ast ast.val).frames with
    | some f =>
      if working s (astPage ast.val) && preampLive s ast.val && !(f.kind = .firmware && readbackDue s ast.val) then frameSent s ast.val f rd.toNat
      else s
    | none => s)

/-- The writes of a head end with HEAD_FAULT: no inhibit drops the gate, so the frame in progress is finished (R164,
R179). -/
def faultWrites (s : State) (a h : Nat) : State :=
  (lanesOf a).foldl (fun s n => match (s.lane n).write with
    | some j => if j.head = h then stopTag s n j.tag 5 0 else s
    | none => s) s

/-- Head fault bits set (R179): the event, the element to OFF, and a write of the head in progress ends. -/
def setHeadFault (s : State) (a h : Nat) (assist writer : Bool) : State :=
  if !assist && !writer then s
  else
    let fa := s.get AST.HEAD_FAULT.ASSIST_FAULT a
    let fw := s.get AST.HEAD_FAULT.WRITE_FAULT a
    let new := (assist && !bit fa h) || (writer && !bit fw h)
    let s := (s.put AST.HEAD_FAULT.ASSIST_FAULT (if assist then setBit fa h true else fa) a).put
      AST.HEAD_FAULT.WRITE_FAULT (if writer then setBit fw h true else fw) a
    elemOff (faultWrites (raiseIf new s (astPage a) 1 2) a h) a h

/-- The codes read back for one head; an armed head's that differ from what was programmed are a bus mismatch (R177,
R179). -/
def readbackOne (a : Nat) (s : State) (c : Fin 8 × Nat × Nat) : State :=
  let x := s.ast a
  if (x.elem c.1.val).st = .armed && sget (0, 0) x.preamp c.1.val ≠ c.2 then
    setHeadFault (s.put AST.PFLT_STAT.MISMATCH 1 a) a c.1.val true false
  else s

/-- PBUS_READBACK (R177, R179): the codes read back for heads, STANDBY and WRITE, once no frame of a higher rank waits. -/
def execPbusReadback (ast : Fin 4) (codes : List (Fin 8 × Nat × Nat)) (s : State) : Result :=
  .next (
    let a := ast.val
    let x := s.ast a
    if !working s (astPage a) || !preampLive s a || x.frames.any fun f => f.kind.rank < FrameKind.firmware.rank then s
    else
      let full := (armedHeads x).all fun h => codes.any fun c => c.1.val = h
      codes.foldl (readbackOne a) (if full then s.setAst a { x with readAt := strokeAt s (a / 2 + 1) } else s))

/-- A write of PBUS_CMD (R178, R189): the fields take what is written; GO is ignored while BUSY. -/
def pbusCmdWrite (q : Req) (a : Nat) (w : Word) (s : State) : State :=
  let busy := s.get AST.PBUS_CMD.BUSY a = 1
  let s := plainWrite s q (astPage a) 0x058 w
  if AST.PBUS_CMD.GO.of w = 0 || busy then s
  else
    let rd := AST.PBUS_CMD.READ.of w = 1
    let x := s.ast a
    if !rd && (List.range 8).any fun h => (x.elem h).st ≠ .off then s.put AST.PBUS_CMD.RESULT 1 a
    else
      let f : PFrame := ⟨.firmware, AST.PBUS_CMD.HEAD.of w, AST.PBUS_CMD.ADDR.of w, AST.PBUS_CMD.DATA.of w, rd⟩
      (s.setAst a { x with frames := x.frames ++ [f] }).put AST.PBUS_CMD.BUSY 1 a

/-- PBUS_CMD_SEND (R178). -/
def execPbusCmdSend (q : Req) (ast : Fin 4) (w : BitVec 32) (s : State) : Result :=
  .next (guarded s q (astPage ast.val) 0x058 w (pbusCmdWrite q ast.val w))

/-! Preamplifier faults (R179, R186). -/

/-- PREAMP_FAULT_ASSERT (R179, R185, R595): the line asserts, writes are inhibited and the status word is to be read. -/
def execPreampFaultAssert (ast : Fin 4) (s : State) : Result :=
  .next (
    let a := ast.val
    if s.get AST.PFLT_STAT.LINE a = 1 || !domainLive s (astPage a).domain || !preampLive s a then s
    else
      let s := (s.put AST.PFLT_STAT.LINE 1 a).bump AST.INH_CNT.PFLT_CNT 1 a
      let x := s.ast a
      let f : PFrame := ⟨.status, x.selected, s.get AST.PBUS_CFG.STAT_ADDR a % 128, 0, true⟩
      let s := s.setAst a { x with frames := x.frames ++ [f], lineFault := false }
      inhibit (raise s (astPage a) 1 2) a .preampFault)

/-- PREAMP_STATUS_READ (R179): the status word arrives. -/
def execPreampStatusRead (ast : Fin 4) (status : BitVec 16) (s : State) : Result :=
  .next (
    let a := ast.val
    if s.get AST.PFLT_STAT.LINE a = 0 && !(s.ast a).inh.contains .preampFault then s
    else
      let x := s.ast a
      let h := x.selected
      let st := status.toNat
      let fa := decide (st &&& s.get AST.PFLT_MASK.ASSIST_MASK a ≠ 0)
      let fw := decide (st &&& s.get AST.PFLT_MASK.WRITER_MASK a ≠ 0)
      let s := s.setAst a { x with
        frames := x.frames.filter fun f => f.kind ≠ .status, lineFault := x.lineFault || fa || fw }
      let s := (s.put AST.PFLT_STAT.STATUS st a).put AST.PFLT_STAT.HEAD h a
      let s := if fa || fw then s.put AST.PFLT_STAT.MISMATCH 0 a else s
      setHeadFault s a h fa fw)

/-- The fault line deasserts, or is no longer heeded. -/
def lineReleased (s : State) (a : Nat) : State :=
  let s := s.put AST.PFLT_STAT.LINE 0 a
  if (s.ast a).lineFault then s else startRelease s a .preampFault

/-- PREAMP_FAULT_DEASSERT (R179, R186): an assertion that set no head fault releases under the wedge rule. One that
set a head fault waits until firmware has cleared the faults (log 19). -/
def execPreampFaultDeassert (ast : Fin 4) (s : State) : Result := .next (lineReleased s ast.val)

/-- A write of HEAD_FAULT (R179): with the line low and no fault left, the inhibit of the line that set one is
released (log 19). -/
def headFaultWrite (q : Req) (a : Nat) (w : Word) (s : State) : State :=
  let s := plainWrite s q (astPage a) 0x064 w
  if s.get AST.HEAD_FAULT.ASSIST_FAULT a = 0 && s.get AST.HEAD_FAULT.WRITE_FAULT a = 0 &&
      s.get AST.PFLT_STAT.LINE a = 0 then
    startRelease (s.setAst a { s.ast a with lineFault := false }) a .preampFault
  else s

/-! Trailing verify (R180-R184). -/

/-- A verify passes (R182): accepted, within VFY_ITER iterations and VFY_RAW raw errors. -/
def verifyPasses (s : State) (a record : Nat) : Bool :=
  bits record 40 4 = 0 && decide (bits record 48 6 ≤ s.get AST.VFY_CTL.VFY_ITER a) &&
    decide (bits record 80 16 ≤ s.get AST.VFY_CTL.VFY_RAW a)

/-- VFY_FAIL counts, with its event at multiples of 16 and at saturation (R184, R191). -/
def countVerifyFail (s : State) (a h : Nat) : State :=
  let before := s.get AST.VFY_CNT.VFY_FAIL a h
  let s := s.bump AST.VFY_CNT.VFY_FAIL 1 a h
  let c := s.get AST.VFY_CNT.VFY_FAIL a h
  raiseIf (c ≠ before && (c % 16 = 0 || c = 0xFFFF)) s (astPage a) 2 7

/-- A verify's outcome counts for its head (R182, R184, R189). -/
def countVerify (s : State) (a h record : Nat) : State :=
  if verifyPasses s a record then s.bump AST.VFY_CNT.VFY_OK 1 a h else countVerifyFail s a h

/-- A failed verify of a conventional slot: SCH remaps it through FMT and writes the sector to its replacement (R81,
R184). -/
def verifyRemap (s : State) (n tg idx psa : Nat) : State :=
  let s := match trackPlace s (psaTrack psa) with
    | none => s
    | some (band, w) =>
      let r := readBand s (psaHead psa) band
      let b := rateBand s (band / s.get FMT.BANDS_PER_RB.COUNT)
      (appendRemap r.2 (psaHead psa) band (w * b.spt + psaSlot psa) r.1.1 b).reply 0 []
  { s with sch := { s.sch with rewrites := s.sch.rewrites ++ [(n, tg, idx)] } }

/-- A result of a job's write has come: a completion that waited for the last of them goes out (R183, R254). -/
def jobSettled (s : State) (n : Nat) (j : WriteJob) : State :=
  match j.ending with
  | some e => if j.unverified.isEmpty then completeTag s n j.tag (firstEnding e.1 e.2 (s.tag n j.tag)) else s
  | none => s

/-- The outcome of one verify (R182-R184, R254, R255). A failure on a shingled band ends the write at once; a head fault
that is to end it comes first. -/
def verifyJudge (s : State) (n : Nat) (j : WriteJob) (record : Nat) : State :=
  let a := n / 2
  let t := s.tag n j.tag
  let slot := psaSlot (bits record 0 40)
  let pass := verifyPasses s a record
  let j' := { j with unverified := j.unverified.erase slot }
  let s := s.setLane n { (s.lane n).setJob j' with verifyReady := some (!pass) }
  let s := countVerify s a j.head record
  if pass then jobSettled (s.setTag n j.tag { t with done := t.done + 1 }) n j'
  else
    let idx := (sectorIndex s t slot).getD 0
    if j.conv then jobSettled (verifyRemap s n j.tag idx (bits record 0 40)) n j'
    else
      let s := if (s.lane n).write.any fun x => x.tag = j.tag then finishFrame s n else s
      let st := if j.ending.any fun e => e.1 = 5 then 5 else 3
      completeTag s n j.tag { status := st, index := some idx }

/-- The result of a trial slot is CAL's: the lane holds it and judges nothing (R181, R183). -/
def verifyTrial (s : State) (n : Nat) (j : WriteJob) (slot : Nat) : State :=
  let j' := { j with unverified := j.unverified.erase slot }
  jobSettled (s.setLane n ((s.lane n).setJob j')) n j'

/-- VERIFY_RESULT (R182): the lane takes its oldest verify result, for the write it belongs to. -/
def execVerifyResult (lane : Fin 8) (s : State) : Result :=
  .next (
    let n := lane.val
    let d := n / 4
    let s := dropStale s d
    let l := s.ldp d
    match l.results.find? fun r => r.lane = n % 4 && r.verify with
    | none => s
    | some r =>
      let s := s.setLdp d { l with results := l.results.erase r }
      match verifyJob (s.lane n) (bits r.record 0 40) with
      | some j =>
        let slot := psaSlot (bits r.record 0 40)
        if isTrial slot then verifyTrial s n j slot else verifyJudge s n j r.record
      | none => s)

/-! Registers. -/

/-- The table key HEAD_WIN selects (R190). -/
def headWinKey (s : State) (a : Nat) : Nat := 64 * s.get AST.HEAD_WIN.HEAD a + s.get AST.HEAD_WIN.WORD a

/-- WORD rises after each access; 63 wraps to 0. -/
def headWinStep (s : State) (a : Nat) : State := s.put AST.HEAD_WIN.WORD (s.get AST.HEAD_WIN.WORD a + 1) a

/-- The bits of a head table word that are not reserved (R190). -/
def headMask (w : Nat) : Nat :=
  if w = 0 then 0x03FFFF03 else if w = 1 then 0x03FF03FF else if w < 16 then 0 else 0x0FFFFFFF

/-- A write of HEAD_DATA (R189, R190): reserved words and bits stay zero (R10). -/
def headDataWrite (a : Nat) (w : Word) (s : State) : State :=
  headWinStep (s.setAst a { s.ast a with
    table := sset 0 (s.ast a).table (headWinKey s a) (w.toNat &&& headMask (s.get AST.HEAD_WIN.WORD a)) }) a

/-- A read of HEAD_DATA. -/
def headDataRead (a : Nat) (s : State) : Nat × State := (sget 0 (s.ast a).table (headWinKey s a), headWinStep s a)

/-- AST_HEAD_DATA_ACCESS (R190). -/
def execAstHeadDataAccess (q : Req) (ast : Fin 4) (w : Option (BitVec 32)) (s : State) : Result :=
  .next (match w with
    | some w => guarded s q (astPage ast.val) 0x06C w (headDataWrite ast.val w)
    | none => guardedRead s q (astPage ast.val) 0x06C (headDataRead ast.val))

/-- A write of any AST register (R189). -/
def astWrite (q : Req) (a off : Nat) (w : Word) (s : State) : State :=
  if off = 0x040 then forceWrite q a w s
  else if off = 0x058 then pbusCmdWrite q a w s
  else if off = 0x064 then headFaultWrite q a w s
  else if off = 0x06C then headDataWrite a w s
  else if off = 0x078 then trimWrite q a w s
  else plainWrite s q (astPage a) off w

/-- AST_STAT as computed (R189): ARMED, WRITING, INH_SRC, INHIBIT. An AST that has not been in RUN since a reset has
decided no inhibit, so INHIBIT reads its reset value (R185; log 70). -/
def astStat (s : State) (a : Nat) : Nat :=
  let x := s.ast a
  let armed := (armedHeads x).foldl (fun m h => m + 2 ^ h) 0
  let writing := ((List.range 8).filter (gateHigh s a)).foldl (fun m h => m + 2 ^ h) 0
  let inh := !x.inh.isEmpty || !x.inhPes.isEmpty
  armed * 2 ^ 24 + writing * 2 ^ 16 + s.get AST.AST_STAT.INH_SRC a * 2 ^ 8 + (if inh then 1 else 0)

end Sys2Proof.Machine
end

