-- ==== Sys2Proof/Machine/Coil.lean ====
section
/-! DEFINITION. Voice-coil drivers, microactuators and shock sensors on Rigger (chapter "Servo and actuators"). -/

namespace Sys2Proof.Machine

open Sys2Proof

/-- VCM of actuator `a`. -/
def State.vcm (s : State) (a : Nat) : Vcm := sget {} s.vcms a
/-- Set VCM of actuator `a`. -/
def State.setVcm (s : State) (a : Nat) (v : Vcm) : State := { s with vcms := sset {} s.vcms a v }
/-- The page of VCMa. -/
def vcmPage (a : Nat) : Page := ⟨.vcm, a⟩
/-- The page of MAC. -/
def macPage : Page := ⟨.mac, 0⟩

/-- VCM_STAT.STATE (R612): 0 OFF, 1 RUN, 2 RETRACT, 3 PARKED, 4 FAULT. -/
def vcmState (s : State) (a : Nat) : Nat := s.get VCM.VCM_STAT.STATE a
/-- Set VCM_STAT.STATE. -/
def setVcmState (s : State) (a v : Nat) : State := s.put VCM.VCM_STAT.STATE v a

/-- SRV_STAT.STATE codes (R208). -/
def svParked : Nat := 0
/-- LOADING. -/
def svLoading : Nat := 1
/-- ACQUIRE. -/
def svAcquire : Nat := 2
/-- FOLLOW. -/
def svFollow : Nat := 3
/-- SEEK. -/
def svSeek : Nat := 4
/-- SETTLE. -/
def svSettle : Nat := 5
/-- MANUAL. -/
def svManual : Nat := 6
/-- LOST. -/
def svLost : Nat := 7

/-- SRV_STAT.STATE. -/
def srvState (s : State) (a : Nat) : Nat := s.get SRV.SRV_STAT.STATE a
/-- Set SRV_STAT.STATE. -/
def setSrvState (s : State) (a v : Nat) : State := s.put SRV.SRV_STAT.STATE v a

/-- The actuator's current seek holds a permit (R58, R224). -/
def seekPermit (s : State) (a : Nat) : Bool := bit (s.get SCH.PERMIT_STAT.SEEK) a

/-- Release the actuator's seek permit (R367): the reduced limit is in force again. -/
def dropSeekPermit (s : State) (a : Nat) : State :=
  ((s.put SCH.PERMIT_STAT.SEEK (setBit (s.get SCH.PERMIT_STAT.SEEK) a false)).put SRV.SRV_STAT.PERMIT 0 a).put
    VCM.VCM_STAT.FULL 0 a

/-- The coil limit in force, Q1.15 (R224). -/
def coilLimit (s : State) (a : Nat) : Int :=
  if seekPermit s a && s.get VCM.VCM_STAT.CLAMPED a = 0 then min (s.get VCM.ILIM.FULL a) 0x7FFF
  else min (s.get VCM.ILIM.REDUCED a) 0x2AAA

/-- Start a retract (R227, R612): the loaded actuator's commands stop. -/
def retract (s : State) (a : Nat) : State :=
  if vcmState s a = 1 then
    let s := setVcmState (s.setVcm a { s.vcm a with next := none, nextMact := [], timedOut := false }) a 2
    raise (s.bump VCM.VCM_CNT.RETRACT_CNT 1 a) (vcmPage a) 1 7
  else s

/-- A retract of every loaded actuator retracts this one: it is loaded and its retract does not run already. -/
def retracts (s : State) (a : Nat) : Bool := (s.vcm a).loaded && decide (vcmState s a = 1)

/-- Retract every loaded actuator (R227, R235, R427). -/
def retractAll (s : State) : State := (List.range 4).foldl (fun s a => if (s.vcm a).loaded then retract s a else s) s

/-- The mean of the last 64 applied commands: the bias (R228). -/
def coilBias (v : Vcm) : Int := if v.applied.isEmpty then 0 else rdiv v.applied.sum v.applied.length

/-- A driver of the microactuators that drives (R232). -/
def mactOn (s : State) (h : Nat) : Bool :=
  s.get MAC.MAC_STAT.HV_OK = 1 && bit (s.get MAC.MAC_EN.EN) h && !bit (s.get MAC.MAC_FAULT.FAULT) h

/-- The commands of an actuator's microactuators take effect; those without one hold 0 V (R223, R232). -/
def applyMact (s : State) (a : Nat) (m : Sparse Int) : State :=
  { s with mac := { s.mac with cmd := (List.range 8).foldl (fun c h =>
      sset 0 c (8 * a + h) (if mactOn s (8 * a + h) then sget 0 m h else 0)) s.mac.cmd } }

/-- VCM_COMMAND_APPLY (R198, R223, R224, R228). DEDUCED: R198 names strokes without a new command and excepts only those
out of lock, so strokes in LOADING without one count too (log 88). -/
def execVcmCommandApply (vcm : Fin 4) (s : State) : Result :=
  .next (
    let a := vcm.val
    let v := s.vcm a
    if vcmState s a ≠ 1 || !domainLive s (vcmPage a).domain then s
    else if !locked s then
      (applyMact s a []).put VCM.CMD_LAST.CMD (unsigned 16 (coilBias v)) a
    else match v.next with
      | some u =>
        let u := clampI (-coilLimit s a) (coilLimit s a) u
        let s := s.setVcm a { v with next := none, nextMact := [], hold := 0, applied := (u :: v.applied).take 64 }
        (applyMact s a v.nextMact).put VCM.CMD_LAST.CMD (unsigned 16 u) a
      | none =>
        let before := s.get VCM.VCM_CNT.HOLD_CNT a
        let s := (s.setVcm a { v with hold := v.hold + 1 }).bump VCM.VCM_CNT.HOLD_CNT 1 a
        let s := raiseIf (s.get VCM.VCM_CNT.HOLD_CNT a ≠ before) s (vcmPage a) 4 7
        if v.loaded && decide (max 1 (s.get VCM.APPLY.HOLD_LIMIT a) ≤ v.hold + 1) then retract s a else s)

/-- A load fails (R225): event, result REFUSED, one more failure in a row. -/
def loadFails (s : State) (a : Nat) : State :=
  let v := s.srv a
  let s := s.setSrv a { v with loadFails := v.loadFails + 1, loadTo := none, acq := 0 }
  raise (s.put SRV.SEEK_STAT.RESULT 5 a) (vcmPage a) 5 7

/-- The bank in use matches the spindle's speed to within 1 % (R203). The period is UQ16.8 ns. -/
def bankMatches (s : State) (a : Nat) : Bool :=
  let p := s.get BRZ.STROKE_PERIOD.PERIOD
  let n := if s.get SRV.SRV_CTL.BANK a = 0 then 4166667 else 5555556
  decide (n * 99 ≤ p * 100) && decide (p * 100 ≤ n * 101)

/-- A load begins (R225, R427, R431): the coil moves off the ramp and SRV searches wedges. -/
def beginLoad (s : State) (a h : Nat) (reversed : Bool) : State :=
  if reversed then
    loadFails (raise (s.put PWR.TERM_STAT.VCM_REV (setBit (s.get PWR.TERM_STAT.VCM_REV) a true)) ⟨.pwr, 0⟩ 9 2) a
  else
    let v := { s.vcm a with loaded := true, hold := 0, applied := [], next := none, loadWait := none }
    let s := setVcmState (s.setVcm a v) a 1
    let s := setActive s a [h]
    let v := s.srv a
    let aim := some (s.get SRV.SEEK_TGT.POS a)
    let v := { v with acq := 0, miss := 0, settle := 0, loadTo := aim, seeks := [], coil := 0, integ := 0, ufb := 0 }
    setSrvState (s.setSrv a v) a svLoading

/-- A load that its stroke, or the retract it waited for, lets begin (R60, R203, R225, R227, R228). -/
def loadGoes (s : State) (a h : Nat) (reversed : Bool) : State :=
  if !locked s || accelerating s then s.put SRV.SEEK_STAT.RESULT 2 a
  else if !bankMatches s a || !running s (srvPage a) || !running s (vcmPage a) then s.put SRV.SEEK_STAT.RESULT 5 a
  else if vcmState s a = 2 then s.setVcm a { s.vcm a with loadWait := some h }
  else if vcmState s a ≠ 3 || (s.vcm a).loaded then s.put SRV.SEEK_STAT.RESULT 5 a
  else beginLoad s a h reversed

/-- HEAD_LOAD (R203, R225, R227, R228, R427). -/
def execHeadLoad (vcm : Fin 4) (reversed : Bool) (s : State) : Result :=
  .next (
    let a := vcm.val
    match takeLaunch s .load a (a / 2 + 1) with
    | none => s
    | some (x, s) => loadGoes s a x.head reversed)

/-- LOAD_TIMEOUT (R208, R225): a load that has not reached SETTLE is retracted and fails; while Rigger retracts, SRV
sends no commands, which is LOST (log 75). -/
def execLoadTimeout (vcm : Fin 4) (s : State) : Result :=
  .next (
    let a := vcm.val
    if srvState s a = svLoading || srvState s a = svAcquire then
      loadFails (setSrvState (setActive (retract s a) a []) a svLost) a
    else s)

/-- A write of VCM_CTL (R227, R612): DRV_EN on parks an actuator that is not loaded, off retracts a loaded one first;
RETRACT starts a retract. -/
def vcmCtlWrite (q : Req) (a : Nat) (w : Word) (s : State) : State :=
  let old := s.get VCM.VCM_CTL.DRV_EN a
  let s := plainWrite s q (vcmPage a) 0x040 w
  let new := s.get VCM.VCM_CTL.DRV_EN a
  let st := vcmState s a
  let s :=
    if old = 0 && new = 1 then
      let s := s.setVcm a { s.vcm a with offAtPark := false }
      if st = 0 && !(s.vcm a).loaded then setVcmState s a 3 else s
    else if old = 1 && new = 0 then
      if st = 1 || st = 2 then retract (s.setVcm a { s.vcm a with offAtPark := true }) a
      else if st = 3 then setVcmState s a 0 else s
    else s
  if VCM.VCM_CTL.RETRACT.of w = 1 then retract s a else s

/-- VCM_RETRACT (R227). -/
def execVcmRetract (q : Req) (vcm : Fin 4) (w : BitVec 32) (s : State) : Result :=
  .next (guarded s q (vcmPage vcm.val) 0x040 w (vcmCtlWrite q vcm.val w))

/-- VCM_DRV_ENABLE (R612). -/
def execVcmDrvEnable (q : Req) (vcm : Fin 4) (w : BitVec 32) (s : State) : Result :=
  .next (guarded s q (vcmPage vcm.val) 0x040 w (vcmCtlWrite q vcm.val w))

/-- VCM_DRV_DISABLE (R612). -/
def execVcmDrvDisable (q : Req) (vcm : Fin 4) (w : BitVec 32) (s : State) : Result :=
  .next (guarded s q (vcmPage vcm.val) 0x040 w (vcmCtlWrite q vcm.val w))

/-- The heads are on the ramp (R226, R612): STATE reads PARKED, then OFF if DRV_EN was written 0. SRV is PARKED, and a
disabled SRV reads OFF (R219). A load that waited begins. -/
def parked (s : State) (a : Nat) : State :=
  let v := s.vcm a
  let s := s.setVcm a { v with
    loaded := false, offAtPark := false, next := none, nextMact := [], loadWait := none, timedOut := false }
  let s := if vcmState s a = 4 then s
    else
      let s := raise (setVcmState s a 3) (vcmPage a) 2 7
      if v.offAtPark then setVcmState s a 0 else s
  let s := applyMact (dropSeekPermit (setSrvState (setActive s a []) a svParked) a) a []
  let x := s.srv a
  let s := s.setSrv a { x with seeks := [], unloading := false, loadTo := none, flags := setBit x.flags 3 true }
  let s := (s.put SRV.SEEK_REQ.PENDING 0 a).put VCM.CMD_LAST.CMD 0 a
  let s := if x.disabling then pageOff (setOos (s.setSrv a { s.srv a with disabling := false }) a) (srvPage a) else s
  match v.loadWait with
  | some h => loadGoes s a h false
  | none => s

/-- The bit a coil fault sets. -/
def coilFaultField : CoilFault → Fld
  | .openCoil => VCM.VCM_FAULT.OPEN | .shortGnd => VCM.VCM_FAULT.SHORT_GND | .shortSup => VCM.VCM_FAULT.SHORT_SUP
  | .shortCoil => VCM.VCM_FAULT.SHORT_COIL | .overTemp => VCM.VCM_FAULT.OVERTEMP

/-- A write of any VCM register (R230). -/
def vcmWrite (q : Req) (a off : Nat) (w : Word) (s : State) : State :=
  if off = 0x040 then vcmCtlWrite q a w s else plainWrite s q (vcmPage a) off w

/-! Microactuators and shock (R232-R238). -/

/-- Sensors in the order of SUSPECT and TRIG, bit 0 LX (log 21). -/
def sensorFull (v : BitVec 12) : Bool := v.toInt = 2047 || v.toInt = -2048

/-- A sensor is marked SUSPECT, once; a SUSPECT ROT contributes 0 to the stroke's mean (R236). -/
def suspectSensor (s : State) (k : Nat) : State :=
  let sus := s.get MAC.MAC_STAT.SUSPECT
  if bit sus k then s
  else
    let m := s.mac
    let s := { s with mac := if k = 2 then { m with rot := m.rot.map fun _ => 0 } else m }
    raise (s.put MAC.MAC_STAT.SUSPECT (setBit sus k true)) macPage 5 1

/-- A run of 64 full-scale samples makes a sensor SUSPECT (R236). -/
def countFull (s : State) (k : Nat) (v : BitVec 12) : State :=
  let n := if sensorFull v then sget 0 s.mac.fullRun k + 1 else 0
  let s := { s with mac := { s.mac with fullRun := sset 0 s.mac.fullRun k (min n 64) } }
  if 64 ≤ n then suspectSensor s k else s

/-- A sensor's magnitude reaches a threshold and the sensor is not suspect (R234, R236). -/
def aboveThr (s : State) (k : Nat) (v : BitVec 12) (thr : Nat) : Bool :=
  decide (thr ≤ v.toInt.natAbs) && !bit (s.get MAC.MAC_STAT.SUSPECT) k

/-- A counter of triggers counts; a field that saturates raises EV255 (R237, R238). -/
def countShock (s : State) (F : Fld) (on : Bool) : State :=
  if !on then s
  else
    let before := s.get F
    let s := s.bump F
    raiseIf (s.get F = 2 ^ F.wid - 1 && before ≠ 2 ^ F.wid - 1) s macPage 7 7

/-- The trigger of a sample (R234, R235). -/
def shockTrigger (s : State) (lin rot hard : Bool) : State :=
  let en := s.get MAC.MAC_CTL.SHOCK_EN = 1
  let s := countShock (countShock s MAC.SHOCK_CNT.LIN_CNT (en && lin)) MAC.SHOCK_CNT.ROT_CNT (en && rot)
  let s := if en && (lin || rot) then
      let new := !s.wires.winh.contains .shock
      let s := s.put MAC.SHOCK_LAST.STROKE (s.gen.stroke % 2 ^ 32)
      let s := { s with wires := { s.wires with winh := if new then s.wires.winh ++ [.shock] else s.wires.winh } }
      raiseIf (new && rot) (raiseIf (new && lin) s macPage 2 7) macPage 3 7
    else s
  if hard && s.get MAC.MAC_CTL.HARD_RET = 1 then
    let s := s.bump MAC.SHOCK_CNT.HARD_CNT
    retractAll (raiseIf ((List.range 4).any (retracts s)) s macPage 4 7)
  else s

/-- One of the stroke's four samples has been taken; the fourth ends the stroke's calm count (R234). -/
def shockCalm (s : State) (quiet : Bool) (rot : Int) : State :=
  let m := s.mac
  let q := m.quiet && quiet
  if m.rot.length % 4 < 3 then { s with mac := { m with rot := (m.rot ++ [rot]).drop (m.rot.length / 4 * 4), quiet := q } }
  else
    let calm := if q then m.calm + 1 else 0
    let rots := (m.rot ++ [rot]).drop (m.rot.length / 4 * 4)
    let s := { s with mac := { m with rot := rots, quiet := true, calm := min calm 255 } }
    if s.wires.winh.contains .shock && decide (s.get MAC.SHOCK_HARD.SHOCK_HOLD ≤ calm) then
      raise { s with wires := { s.wires with winh := s.wires.winh.erase .shock } } macPage 6 7
    else s

/-- SHOCK_SAMPLE (R233-R236). -/
def execShockSample (lx ly rot : BitVec 12) (s : State) : Result :=
  .next (if !domainLive s macPage.domain then s
  else
    let s := ((s.put MAC.SHOCK_LX.VALUE lx.toNat).put MAC.SHOCK_LY.VALUE ly.toNat).put MAC.SHOCK_ROT.VALUE rot.toNat
    let s := countFull (countFull (countFull s 0 lx) 1 ly) 2 rot
    let lt := s.get MAC.SHOCK_THR.LIN_THR
    let tx := aboveThr s 0 lx lt
    let ty := aboveThr s 1 ly lt
    let tr := aboveThr s 2 rot (s.get MAC.SHOCK_THR.ROT_THR)
    let hd := s.get MAC.SHOCK_HARD.HARD_THR
    let s := s.put MAC.MAC_STAT.TRIG ((if tx then 1 else 0) + (if ty then 2 else 0) + (if tr then 4 else 0))
    let s := shockTrigger s (tx || ty) tr (aboveThr s 0 lx hd || aboveThr s 1 ly hd)
    shockCalm s (!(tx || ty || tr)) (if bit (s.get MAC.MAC_STAT.SUSPECT) 2 then 0 else rot.toInt))

/-- The mean of the stroke's rotational shock samples (R199). -/
def rotMean (m : Mac) : Int := if m.rot.isEmpty then 0 else rdiv m.rot.sum m.rot.length

/-- A write of MAC_CTL (R232): the rail follows HV_EN, and EV249 reports one that clears while HV_EN stays 1
(log 22: the rail is good whenever it is enabled and its domain is powered). -/
def macCtlWrite (q : Req) (w : Word) (s : State) : State :=
  let s := plainWrite s q macPage 0x040 w
  let s := railFollows s
  if s.get MAC.MAC_CTL.HV_EN = 0 then { s with mac := { s.mac with cmd := [] } } else s

/-- A write of any MAC register (R237). -/
def macWrite (q : Req) (off : Nat) (w : Word) (s : State) : State :=
  if off = 0x040 then macCtlWrite q w s else plainWrite s q macPage off w

end Sys2Proof.Machine
end

