-- ==== Sys2Proof/Machine/Flits.lean ====
section
/-! DEFINITION. What the Burez links carry, in the order of its classes: catch tokens, servo traffic, replies, requests,
bulk data (R27), and the flits that wait for a link that trains (R28). -/

namespace Sys2Proof.Machine

open Sys2Proof

/-- Place of a class in the order of R27: a lower one goes first. -/
def flitRank : FlitClass → Nat
  | .token => 0 | .servo => 1 | .reply => 2 | .request => 3 | .bulk => 4

/-- The class of a waiting flit. -/
def flitClass : Flit → FlitClass
  | .token _ => .token
  | .sense .. | .coil .. => .servo

/-- The actuator of a servo flit, 0 for a token. -/
def flitActuator : Flit → Nat
  | .token _ => 0
  | .sense a _ _ _ | .coil a _ _ => a

/-- The flits that wait at one sender of link `n`. -/
def flitQueue (s : State) (n : Nat) (toCox : Bool) : List Flit :=
  if toCox then (s.link n).toCox else (s.link n).fromCox

/-- Set the flits that wait at one sender of link `n`. -/
def setFlits (s : State) (n : Nat) (toCox : Bool) (l : List Flit) : State :=
  s.setLink n (if toCox then { s.link n with toCox := l } else { s.link n with fromCox := l })

/-- Replies wait on the die of link `n`: event notices, tag completion records, trial reports (R55, R253, R523). -/
def repliesWait (s : State) (n : Nat) : Bool :=
  (s.notices.any fun x => (pageOf x.page).map Page.die = some (n + 1)) || (s.tagRecs.any fun r => decide (r.lane / 4 = n)) ||
    !(s.ldp n).reports.isEmpty

/-- Requests wait on Cox for link `n` (R28). -/
def requestsWait (s : State) (n : Nat) : Bool := s.waiting.any fun x => x.why = .link n

/-- A flit of the class is the next that the sender transmits: none of an earlier class waits there (R27). -/
def flitTurn (s : State) (n : Nat) (toCox : Bool) (c : FlitClass) : Bool :=
  ((flitQueue s n toCox).all fun f => decide (flitRank c ≤ flitRank (flitClass f))) &&
    (decide (flitRank c ≤ 2) || !toCox || !repliesWait s n) && (decide (flitRank c ≤ 3) || toCox || !requestsWait s n)

/-- A flit takes its place behind the waiting ones of its class (R27, R28). -/
def putFlit (l : List Flit) (f : Flit) : List Flit :=
  (l.filter fun g => decide (flitRank (flitClass g) ≤ flitRank (flitClass f))) ++
    f :: l.filter fun g => decide (flitRank (flitClass f) < flitRank (flitClass g))

/-- A flit waits at its sender. -/
def waitFlit (s : State) (n : Nat) (toCox : Bool) (f : Flit) : State :=
  setFlits s n toCox (putFlit (flitQueue s n toCox) f)

/-- A flit reaches the die it is for: SRV takes the sense flit (R199), the voice-coil driver the commands, which a driver
that is not in RUN does not take (R223, R227). A token is taken by its own command (R42). -/
def flitTaken (s : State) (f : Flit) : State :=
  match f with
  | .token _ => s
  | .sense a cur emf rot => s.setSrv a { s.srv a with sense := (cur, emf, rot) }
  | .coil a u m => if vcmState s a = 1 then s.setVcm a { s.vcm a with next := some u, nextMact := m } else s

/-- The link that takes a servo flit from Cox to its die: a sense flit to the Oar of the actuator, commands to Rigger. -/
def flitOnward : Flit → Nat
  | .token _ => 2
  | .sense a _ _ _ => a / 2
  | .coil .. => 2

/-- The link is up and not training, and what waits leaves room for a servo flit to go at once. -/
def flitFree (s : State) (n : Nat) (toCox : Bool) : Bool :=
  !dieTraining s (n + 1) && flitTurn s n toCox .servo && (flitQueue s n toCox).isEmpty

/-- Cox sends a servo flit on (R23, R199): over a link that is down it is lost (R29), over one that trains or behind
what must go first it waits (R27, R28). -/
def sendOut (s : State) (f : Flit) : State :=
  let n := flitOnward f
  if !dieUp s (n + 1) && !dieTraining s (n + 1) then s
  else if flitFree s n false then flitTaken s f
  else waitFlit s n false f

/-- A die sends a servo flit to Cox over link `n`, which sends it on. -/
def sendIn (s : State) (n : Nat) (f : Flit) : State :=
  if !dieUp s (n + 1) && !dieTraining s (n + 1) then s
  else if flitFree s n true then sendOut s f
  else waitFlit s n true f

/-- The servo flits that wait at a sender of link `n` go, oldest first, once the link carries flits and no token waits
before them (R27, R28). -/
def moveFlits (s : State) (n : Nat) (toCox : Bool) : State :=
  let l := flitQueue s n toCox
  if dieTraining s (n + 1) || !flitTurn s n toCox .servo || l.isEmpty then s
  else l.foldl (if toCox then sendOut else flitTaken) (setFlits s n toCox [])

/-- The waiting servo flits of every link go on: those to Cox first, so that Cox can send them on. -/
def moveAllFlits (s : State) : State :=
  (List.range 4).foldl (fun s n => moveFlits s n false) ((List.range 4).foldl (fun s n => moveFlits s n true) s)

/-- A token flit joins the waiting ones at a sender of link `n`; a link that is down takes none (R42). -/
def sendToken (s : State) (n : Nat) (toCox : Bool) (m : Nat) : State :=
  if !dieUp s (n + 1) && !dieTraining s (n + 1) then s else waitFlit s n toCox (.token m)

/-- The oldest token that waits at a sender of link `n`. -/
def tokenWaiting (s : State) (n : Nat) (toCox : Bool) : Option Nat :=
  (flitQueue s n toCox).findSome? fun
    | .token m => some m
    | _ => none

/-- Take the oldest token of a sender of link `n`. -/
def takeToken (s : State) (n : Nat) (toCox : Bool) (m : Nat) : State :=
  setFlits s n toCox ((flitQueue s n toCox).erase (.token m))

end Sys2Proof.Machine
end

