-- ==== Sys2Proof/Machine/Waves.lean ====
section
/-! DEFINITION. The functions that chapters "Servo and actuators" and "Temperature and calibration" name and the device
computes: the cosine and sine of a fraction of a turn, and the natural logarithm of a quotient, in 2^-80. Their users
round once to a format, either way (`rnd`; log 2). -/

namespace Sys2Proof.Machine

open Sys2Proof

/-- Terms `k` to `k + n - 1` of the cosine's series for the square `x2` of an angle, from the one before them. -/
def cosTerms (x2 : Nat) : Nat → Nat → Nat → Int
  | 0, _, t => t
  | n + 1, k, t => (t : Int) - cosTerms x2 n (k + 1) (t * x2 / 2 ^ 80 / ((2 * k - 1) * (2 * k)))

/-- The cosine of an angle of at most a quarter turn, `q` in 2^-80 turns. -/
def cosQuarter (q : Nat) : Int :=
  if q = 2 ^ 78 then 0
  else
    let x := q * 7595904947272677161575987 / 2 ^ 80
    cosTerms (x * x / 2 ^ 80) 18 1 (2 ^ 80)

/-- The cosine of n / d turns, in 2^-80 (R204). -/
def cosTurn (n d : Nat) : Int :=
  let q := n * 2 ^ 80 / d % 2 ^ 80
  let q := if 2 ^ 79 < q then 2 ^ 80 - q else q
  if 2 ^ 78 < q then -cosQuarter (2 ^ 79 - q) else cosQuarter q

/-- The sine of a phase in 1/65,536 turns, in 2^-80 (R217). -/
def sinePhase (ph : Nat) : Int := cosTurn (ph + 49152) 65536

/-- Odd terms of the series of ln((1 + z) / (1 - z)) / 2 from term `k` on, in 2^-80. -/
def lnTerms (z2 : Nat) : Nat → Nat → Nat → Nat
  | 0, _, _ => 0
  | n + 1, k, p => p / k + lnTerms z2 n (k + 2) (p * z2 / 2 ^ 80)

/-- The natural logarithm of a positive quotient n / d, in 2^-80 (R526). -/
def lnQuotient (n d : Nat) : Int :=
  let a := Nat.log2 n
  let b := Nat.log2 d
  let n' := n * 2 ^ b
  let d' := d * 2 ^ a
  let z : Nat := (if d' ≤ n' then n' - d' else d' - n') * 2 ^ 80 / (n' + d')
  let l : Int := (2 * lnTerms (z * z / 2 ^ 80) 28 1 z : Nat)
  ((a : Int) - b) * 837963523372001241319907 + (if d' ≤ n' then l else -l)

end Sys2Proof.Machine
end

