-- ==== Sys2Proof/Machine/Servo.lean ====
section
/-! DEFINITION. SRV: demodulation, the control engine, modes, seeks, pairing, injection and capture (chapter "Servo and
actuators"). Quantities of the control engine are integers in 2^-28; where a product does not fit, which way it is
rounded is a free function of it (log 2). -/

namespace Sys2Proof.Machine

open Sys2Proof

/-- Key of a coefficient word: half 1 is the active one (R201). -/
def srvCoefKey (bank half word : Nat) : Nat := (bank * 2 + half) * 512 + word

/-- A word of the active half of the bank in use (R201, R203). -/
def srvCoef (s : State) (a w : Nat) : Nat := sget 0 (s.srv a).coef (srvCoefKey (s.get SRV.SRV_CTL.BANK a) 1 w)

/-- An active word as a signed 32-bit number. -/
def srvCoefI (s : State) (a w : Nat) : Int := signed 32 (srvCoef s a w)

/-- A 40-bit internal state (R200). -/
def wide (v : Int) : Int := if -2 ^ 39 ≤ v ∧ v < 2 ^ 39 then v else Config.wideState v

/-- One biquad, direct form II transposed: chain position `i`, coefficients from word `w` on (R200). -/
def biquad (c : Nat → Int) (w i : Nat) (x : Int) (v : Srv) : Int × Srv :=
  let s1 := sget 0 v.biquad (2 * i)
  let s2 := sget 0 v.biquad (2 * i + 1)
  let y := rnd (c w * x) 28 + s1
  let s1' := wide (rnd (c (w + 1) * x - c (w + 3) * y) 28 + s2)
  let s2' := wide (rnd (c (w + 2) * x - c (w + 4) * y) 28)
  (y, { v with biquad := sset 0 (sset 0 v.biquad (2 * i) s1') (2 * i + 1) s2' })

/-- `n` biquads in a chain. -/
def biquads (c : Nat → Int) (w i : Nat) : Nat → Int → Srv → Int × Srv
  | 0, x, v => (x, v)
  | n + 1, x, v => let r := biquad c w i x v; biquads c (w + 5) (i + 1) n r.1 r.2

/-! Demodulation (R193-R196). -/

/-- Gray code to number (R192). -/
def grayDecode (g : Nat) : Nat := (List.range 22).foldl (fun a i => a ^^^ (g / 2 ^ i)) 0

/-- What a wedge says of a head. -/
structure Demod where
  pos : Nat
  pes : Int
  est : Bool
  sam : Bool
  tid : Bool
  number : Nat
  deriving DecidableEq, Repr

/-- The fraction f in 2^-14 tracks (R194); with both bursts zero it is the free value `z`. -/
def burstFraction (lin n q : Int) (z : Nat) : Int :=
  if n.natAbs + q.natAbs = 0 then clampI (-8192) 8192 ((z % 16385 : Nat) - 8192 : Int)
  else clampI (-8192) 8192 (rdiv (lin * n) (2 * (n.natAbs + q.natAbs)))

/-- `n` cells of a wedge window from cell 39 + `i` on, the first most significant (R192). -/
def wedgeCells (r : WedgeRead) (i n : Nat) : Nat := bits r.cells.toNat (48 - i - n) n

/-- The cells at 39 + `i` on that differ from the address mark 0b00101101 (R192). -/
def markMisses (r : WedgeRead) (i : Nat) : Nat := (bitList 8 (wedgeCells r i 8 ^^^ 0b00101101)).length

/-- Where the address mark is accepted: its distance from cell 39, 4 being where it is expected (R193). DESIGN CHOICE:
of several positions with at most one mismatched cell the fewest mismatches win, then the nearest, then the earlier
(log 74). -/
def markAt (r : WedgeRead) : Option Nat :=
  let near := [4, 3, 5, 2, 6, 1, 7, 0, 8]
  (near.find? fun i => markMisses r i = 0).or (near.find? fun i => markMisses r i = 1)

/-- A servo field as demodulated: mark found, wedge number, its parity even, track number T and fraction f in 2^-14. -/
structure ServoField where
  mark : Bool
  number : Nat
  even : Bool
  track : Int
  frac : Int
  deriving DecidableEq, Repr

/-- The reader that SERVO_RDR names reads the wedge's servo field (R192-R194); T moves by one where Q's sign disagrees
with its parity. DESIGN CHOICE: with f at 0, which points to neither side, T moves by +1 (log 88). Without a mark the
fields are those at the expected place. -/
def servoField (s : State) (a : Nat) (x : WedgeIn) (z : Nat) : ServoField :=
  let w := 64 + 32 * x.head.val
  let r := if bit (srvCoef s a (w + 27)) 0 then x.b else x.a
  let i := (markAt r).getD 4
  let number := wedgeCells r (i + 8) 10
  let t : Int := grayDecode (wedgeCells r (i + 18) 22)
  let q := r.burstQ.toInt
  let f := burstFraction (signed 16 (srvCoef s a (w + 26) % 65536)) r.burstN.toInt q z
  let wrong := (t % 2 = 0 && decide (q < 0)) || (t % 2 = 1 && decide (0 < q))
  { mark := (markAt r).isSome, number := number / 2, even := (bitList 10 number).length % 2 = 0
    track := if wrong then (if f < 0 then t - 1 else t + 1) else t, frac := f }

/-- The track of the position the estimator predicts: the nearest, halves upward (R196; log 74). -/
def predictedTrack (x : WedgeIn) : Int := (x.predicted.toNat + 512) / 1024

/-- T differs from the predicted track by more than TID_TOL and `motion` tracks (R196). -/
def trackOff (s : State) (a : Nat) (x : WedgeIn) (f : ServoField) (motion : Nat) : Bool :=
  decide (s.get SRV.DEMOD_CTL.TID_TOL a + motion < (f.track - predictedTrack x).natAbs)

/-- The target of a head in 2^-14 tracks, offsets and injection included (R180, R195, R217). -/
def targetQ14 (v : Srv) (h : Nat) (ref : Option Int) (inj : Int) : Int :=
  (match ref with | some r => rdiv r 4 | none => ((sget 0 v.target h : Nat) : Int) * 16) + sget 0 v.offset h + inj

/-- Demodulate a head's wedge (R193-R196); in a seek the predicted motion is allowed beyond TID_TOL. DESIGN CHOICE: a
wedge number that differs from the one expected counts in SAM_MISS (log 88). -/
def demod (s : State) (a : Nat) (x : WedgeIn) (stroke : Nat) (ref : Option Int) (inj : Int) (z : Nat) : Demod :=
  let h := x.head.val
  let v := s.srv a
  let m := servoField s a x z
  let want := (stroke + 512 - s.get SRV.WEDGE_MAP.STROKE_MOD a % 512) % 512
  let sam := !m.mark || !m.even || m.number ≠ want
  let last := s.get SRV.POS.POS a h
  let motion := if srvState s a = svSeek then (((x.predicted.toNat : Int) - last).natAbs + 1023) / 1024 else 0
  let tid := trackOff s a x m motion
  let est := sam || tid
  let p14 : Int := if est then (x.predicted.toNat : Int) * 16 else m.track * 16384 + m.frac
  { pos := (rdiv p14 16 % 2 ^ 32).toNat, pes := clampI (-32768) 32767 (targetQ14 v h ref inj - p14), est := est,
    sam := sam, tid := !sam && tid, number := m.number }

/-- A DEMOD_ERR field counts; a multiple of 256 and saturation, once reached, raise (R222). -/
def countDemod (s : State) (a : Nat) (F : Fld) (on : Bool) : State :=
  if !on then s
  else
    let before := s.get F a
    let s := s.bump F 1 a
    raiseIf (s.get F a ≠ before && (s.get F a % 256 = 0 || s.get F a = 0xFFFF)) s (srvPage a) 1 7

/-- Put a head's wedge into POS and PES and let AST release inhibits (R186, R195, R196). -/
def showWedge (s : State) (a lead h : Nat) (d : Demod) : State :=
  let s := ((s.put SRV.POS.POS d.pos a h).put SRV.PES.VALID 1 a h).put SRV.PES.EST (if d.est then 1 else 0) a h
  let s := (s.put SRV.PES.WEDGE d.number a h).put SRV.PES.PES (unsigned 16 d.pes) a h
  astWedge (countDemod (countDemod s a SRV.DEMOD_ERR.SAM_MISS d.sam) a SRV.DEMOD_ERR.TID_ERR d.tid) a h lead

/-! Reference trajectory (R210). -/

/-- Integer square root of a number below 2^80, by bits. -/
def isqrt (n : Nat) : Nat :=
  (List.range 40).foldl (fun r k => let r' := r + 2 ^ (39 - k); if r' * r' ≤ n then r' else r) 0

/-- The acceleration of the running seek's profile, 2^-16 tracks per stroke squared. -/
def seekAcc (s : State) (a : Nat) : Nat :=
  let full := (s.srv a).seeks.any fun k => k.started && k.full
  srvCoef s a (if full then 368 else 369)

/-- One stroke of the reference trajectory towards `target`, UQ22.10 (R210). -/
def refStep (s : State) (a target : Nat) : State :=
  let v := s.srv a
  let acc : Int := seekAcc s a
  let x : Int := (target : Int) * 64 - v.refPos
  let vm : Int := min (srvCoef s a 370) (isqrt (2 * acc.toNat * x.natAbs))
  let ra := clampI (-acc) acc ((if x < 0 then -vm else vm) - v.refVel)
  s.setSrv a { v with refAcc := ra, refVel := v.refVel + ra, refPos := v.refPos + v.refVel + ra }

/-! Seeks as they begin and settle (R209, R210). -/

/-- Enter SETTLE through a transfer (R210, R214, R367). -/
def enterSettle (s : State) (a : Nat) : State :=
  let s := setSrvState (dropSeekPermit s a) a svSettle
  s.setSrv a { s.srv a with xfer := true, settle := 0, refAcc := 0 }

/-- A committed seek whose motion stroke has come begins (R209, R210): one that runs ends SUPERSEDED, and its trajectory
is taken over. -/
def beginSeek (s : State) (a : Nat) (k : Seek) : State :=
  let v := s.srv a
  let old := v.seeks.find? (·.started)
  let s := if old.isSome then s.put SRV.SEEK_STAT.RESULT 3 a else s
  let s := if old.isSome && !k.full then dropSeekPermit s a else s
  let s := if v.active = [k.head] then s else setActive s a [k.head]
  let v := s.srv a
  let pos := s.get SRV.POS.POS a k.head
  let dist : Int := (k.target : Int) - pos
  let k' := { k with started := true, dist := dist }
  let rest := v.seeks.filter fun x => !x.started && x ≠ k
  let taken := old.isSome && srvState s a = svSeek
  let refPos := if taken then v.refPos else (pos : Int) * 64
  let refVel := if taken then v.refVel else 0
  let target := sset 0 v.target k.head k.target
  let s := s.setSrv a { v with seeks := k' :: rest, seekAge := 0, target := target, refPos := refPos, refVel := refVel }
  if dist.natAbs ≤ bits (srvCoef s a 371) 8 8 * 1024 then enterSettle s a else setSrvState s a svSeek

/-- Begin the due seek, if any. -/
def beginDueSeek (s : State) (a stroke : Nat) : State :=
  match (s.srv a).seeks.find? fun k => k.committed && !k.started && decide (k.stroke ≤ stroke) with
  | some k => if srvState s a = svFollow || srvState s a = svSeek || srvState s a = svSettle then beginSeek s a k else s
  | none => s

/-! Feed-forward (R205-R207). -/

/-- The other actuator on the pivot. -/
def partner (a : Nat) : Nat := if a % 2 = 0 then a + 1 else a - 1

/-- An actuator as its part of the stroke leaves it, so far as its commits fix it: one that has not been sampled yet
begins the seek that is due and steps the reference of the one that runs (R205). -/
def planned (s : State) (b stroke : Nat) : State :=
  if (s.srv b).sampled = some stroke then s
  else
    let s := beginDueSeek s b stroke
    if srvState s b = svSeek then refStep s b (sget 0 (s.srv b).target ((s.srv b).active.head?.getD 0)) else s

/-- The partner's coil command that drives the cross biquads (R205): the planned feed-forward current from the motion
stroke of its seek until it follows again, else the last applied command (log 75). -/
def partnerDrive (s : State) (a stroke : Nat) : Int :=
  let b := partner a
  let v := (planned s b stroke).srv b
  if v.seeks.any (·.started) then rnd (srvCoefI s b 333 * v.refAcc) 16
  else signed 16 (s.get VCM.CMD_LAST.CMD b) * 2 ^ 13

/-- The templates still to run at a stroke: the last sample of each is that of stroke 127 (R206). -/
def liveTemplates (v : Srv) (stroke : Nat) : List Template :=
  v.templates.filter fun t => decide (stroke < t.stroke + 128)

/-- RFF: the templates in use (R206). -/
def regattaForward (s : State) (a stroke : Nat) : Int :=
  if s.get SRV.SRV_CTL.RGT_FF_EN a = 0 then 0
  else ((liveTemplates (s.srv a) stroke).map fun t =>
    if t.stroke ≤ stroke then
      let m := (stroke - t.stroke) / 4
      let smp := signed 16 (bits (srvCoef s a (384 + 16 * t.index + m / 2)) (16 * (m % 2)) 16)
      let y := rnd (srvCoefI s a 331 * smp) 15
      if t.neg then -y else y
    else 0).sum

/-- RVFF: rotational shock as a fraction of full scale (R207, log 23). -/
def shockForward (s : State) (a : Nat) : Int :=
  if s.get SRV.SRV_CTL.RV_FF_EN a = 0 then 0 else rnd (srvCoefI s a 332 * (s.srv a).sense.2.2) 11

/-! Test injection and capture (R217, R218). -/

/-- The generator x^15 + x^14 + 1. -/
def prbs15 (x : Nat) : Nat := x * 2 % 2 ^ 15 + (if bit x 14 != bit x 13 then 1 else 0)

/-- The present value of the injection in Q1.15, and the state after it (R217). -/
def injectStep (s : State) (a : Nat) : Int × State :=
  let v := s.srv a
  let amp := signed 16 (s.get SRV.INJ_AMP.AMP a)
  match v.inj with
  | none => (0, s)
  | some (0, _) => (0, s)
  | some (left + 1, ph) =>
    if srvState s a = svSeek || srvState s a = svSettle then (0, s)
    else
      let n := max 1 (s.get SRV.INJ_LEN.SAMPLES a)
      let wave := s.get SRV.INJ_CTL.WAVE a
      let i0 : Int := s.get SRV.INJ_FREQ.INC_START a
      let i1 : Int := s.get SRV.INJ_FREQ.INC_END a
      let inc := if wave = 1 then rdiv (i0 * (n - 1) + (i1 - i0) * (n - 1 - left : Nat)) (max 1 (n - 1)) else i0
      let y := if wave = 2 then (if bit v.prbs 14 then amp else -amp) else rnd (amp * sinePhase ph) 80
      let ph' := ((ph : Int) + inc).toNat % 65536
      (y, s.setSrv a { v with inj := some (left, ph'), prbs := if wave = 2 then prbs15 v.prbs else v.prbs })

/-- A waiting injection or capture whose stroke has come begins with the first closed-loop sample from it on (R217,
R218). -/
def startTests (s : State) (a stroke : Nat) : State :=
  let v := s.srv a
  let s := if v.injAt.any fun m => decide (m ≤ stroke) then
      (s.setSrv a { v with injAt := none, inj := some (max 1 (s.get SRV.INJ_LEN.SAMPLES a), 0) }).put
        SRV.INJ_CTL.ACTIVE 1 a
    else s
  let v := s.srv a
  if v.capAt.any fun m => decide (m ≤ stroke) then s.setSrv a { v with capAt := none, capRun := some 0 } else s

/-- One sample of a running capture (R218). -/
def captureStep (s : State) (a : Nat) (entry : Nat) : State :=
  let v := s.srv a
  match v.capRun with
  | none => s
  | some (k + 1) => s.setSrv a { v with capRun := some k }
  | some 0 =>
    let n := s.get SRV.CAP_STAT.COUNT a
    let s := s.setSrv a { v with cap := sset 0 v.cap n entry, capRun := some (2 ^ s.get SRV.CAP_CTL.DECIM a - 1) }
    let s := s.put SRV.CAP_STAT.COUNT (n + 1) a
    if 16384 ≤ n + 1 then (s.setSrv a { s.srv a with capRun := none }).put SRV.CAP_CTL.BUSY 0 a else s

/-! The control law (R200, R214, R215). -/

/-- What a sample computes. -/
structure Law where
  u : Int
  mact : Sparse Int
  xff : Int
  rvff : Int
  deriving DecidableEq, Repr

/-- Step 1: e_h = PES_h + d_h (R200). -/
def headError (c : Nat → Int) (gain : Nat) (h : Nat) (pes : Int) (v : Srv) : Int × Srv :=
  let r := biquads c (64 + 32 * h + 15) (12 + 5 * h + 3) 2 (sget 0 v.mact h * 2 ^ 17) v
  (pes * 2 ^ 14 + rnd (r.1 * gain) 8, r.2)

/-- All heads' errors summed. -/
def headErrors (c : Nat → Int) (gain : Nat → Nat) : List (Nat × Int) → Srv → Int × Srv
  | [], v => (0, v)
  | (h, pes) :: l, v =>
    let r := headError c (gain h) h pes v
    let t := headErrors c gain l r.2
    (r.1 + t.1, t.2)

/-- Step 6: the microactuator commands, Q1.11 (R200). -/
def mactLaw (c : Nat → Int) (inj : Nat → Int) : List (Nat × Int) → Srv → Sparse Int × Srv
  | [], v => ([], v)
  | (h, pes) :: l, v =>
    let r := biquads c (64 + 32 * h) (12 + 5 * h) 3 (pes * 2 ^ 14) v
    let y := clampI (-2048) 2047 (rnd (clampI (-2 ^ 28) (2 ^ 28) (r.1 + inj h)) 17)
    let t := mactLaw c inj l r.2
    (sset 0 t.1 h y, t.2)

/-- The microactuator commands of MANUAL: 0, and the test signal where it is added (R208, R217). -/
def mactManual (inj : Nat → Int) (heads : List (Nat × Int)) : Sparse Int :=
  heads.foldl (fun m e => sset 0 m e.1 (clampI (-2048) 2047 (rnd (inj e.1) 17))) []

/-- The control law of one sample (R200, R205-R207, R210, R214, R215, R217). DESIGN CHOICE: the limiting that holds the
integrator is the previous sample's, since u_v of a sample is known only after its I (R215; log 88). -/
def controlLaw (s : State) (a stroke : Nat) (heads : List (Nat × Int)) (inj : Int) : Law × State :=
  let c := srvCoefI s a
  let pt := s.get SRV.INJ_CTL.POINT a
  let v := s.srv a
  let xfer := v.xfer
  let v := if xfer then clearBiquads 8 4 { v with xfer := false } else v
  let e := headErrors c (fun h => srvCoef s a (64 + 32 * h + 25) % 65536) heads v
  let ev := (if heads.length = 2 then rnd e.1 1 else e.1) + (if pt = 1 then inj * 2 ^ 14 else 0)
  let nt := biquads c 0 0 8 ev e.2
  let cp := biquads c 40 8 4 nt.1 nt.2
  let v := cp.2
  let cl : Int := (max 0 (signed 16 (s.get SRV.INT_CLAMP.CLAMP a))) * 2 ^ 13
  let held := v.lim ≠ 0 && sgn nt.1 = v.lim
  let i := if xfer then clampI (-cl) cl (v.ufb - cp.1)
    else if held then clampI (-cl) cl v.integ
    else clampI (-cl) cl (v.integ + rnd (c 60 * nt.1) 28)
  let ufb := cp.1 + i
  let xr := biquads c 320 52 2 (partnerDrive s a stroke) v
  let xff := if s.get SRV.SRV_CTL.XFF_EN a = 0 || srvState s (partner a) = svParked then 0 else rnd (c 330 * xr.1) 28
  let rv := shockForward s a
  let acc := if srvState s a = svSeek then rnd (c 333 * v.refAcc) 16 else 0
  let raw := ufb + acc + xff + regattaForward s a stroke + rv + (if pt = 0 then inj * 2 ^ 13 else 0)
  let lim := coilLimit s a * 2 ^ 13
  let u := clampI (-lim) lim raw
  let hit : Int := if raw = u then 0 else sgn raw
  let injAt := fun h => if pt = 2 && h = s.get SRV.INJ_CTL.HEAD a then inj * 2 ^ 13 else 0
  let m := mactLaw c injAt heads xr.2
  let man := srvState s a = svManual
  let cmd := clampI (-32768) 32767
    (if man then signed 16 (s.get SRV.MAN_CMD.CURRENT a) + (if pt = 0 then inj else 0) else rnd u 13)
  let mact := if man then mactManual injAt heads else m.1
  let v := { m.2 with integ := i, ufb := ufb, lim := hit, coil := cmd, mact := mact }
  let s := s.setSrv a v
  let s := if hit ≠ 0 && !man then s.bump SRV.LOOP_ERR.SAT_CNT 1 a else s
  (⟨cmd, mact, xff, rv⟩, s)

/-! Modes (R208-R215, R225, R228). -/

/-- A seek of the actuator has been committed and has not ended (R209). -/
def seekCommitted (s : State) (a : Nat) : Bool := (s.srv a).seeks.any (·.committed)

/-- A disabled SRV whose committed seeks have finished marks its actuator out of service to its lanes (R219). -/
def settleOos (s : State) (a : Nat) : State :=
  if (s.srv a).disabling && !seekCommitted s a && !outOfService s a then setOos s a else s

/-- Send the sample's commands to Rigger (R197). -/
def sendCommand (s : State) (a : Nat) (u : Int) (m : Sparse Int) : State :=
  sendIn s (a / 2) (.coil a u m)

/-- STATE enters LOST (R196): the seek ends LOST, no command is sent, Rigger retracts (R227). -/
def enterLost (s : State) (a : Nat) : State :=
  let v := s.srv a
  let s := if v.seeks.isEmpty then s else s.put SRV.SEEK_STAT.RESULT 4 a
  let s := (s.setSrv a { v with seeks := [], loadTo := none }).put SRV.SEEK_REQ.PENDING 0 a
  let s := raise (setSrvState (dropSeekPermit s a) a svLost) (srvPage a) 0 2
  retract (s.setVcm a { s.vcm a with next := none, nextMact := [] }) a

/-- The seek time entry at or below a seek's distance moves one eighth towards the measured value (R210). -/
def updateSeekTime (s : State) (a : Nat) (k : Seek) (strokes : Nat) : State :=
  let d := k.dist.natAbs / 1024
  if d = 0 then s
  else
    let w := 336 + min 22 (Nat.log2 d)
    let v := s.srv a
    let key := srvCoefKey (s.get SRV.SRV_CTL.BANK a) 1 w
    let old := sget 0 v.coef key
    let lsb := if k.full then 16 else 0
    let o := bits old lsb 16
    let n := ((o : Int) + rnd ((strokes : Int) - o) 3).toNat % 65536
    s.setSrv a { v with coef := sset 0 v.coef key (old - o * 2 ^ lsb + n * 2 ^ lsb) }

/-- The seek of the power-loss sequence to an actuator's refuge target has settled: with the last of them the writing begins
(R381, R383, R396). -/
def refugeReached (s : State) (a : Nat) : State :=
  if s.sch.pl.seeking.contains a then
    let left := s.sch.pl.seeking.filter (· ≠ a)
    let s : State := { s with sch := { s.sch with pl := { s.sch.pl with seeking := left } } }
    if left.isEmpty && s.get SCH.SCH_STAT.PL_STATE = 2 then s.put SCH.SCH_STAT.PL_STATE 3 else s
  else s

/-- FOLLOW is reached (R208, R210, R225): the running seek ends OK; a load goes on to its track. -/
def enterFollow (s : State) (a stroke : Nat) : State :=
  let v := s.srv a
  let s := setSrvState s a svFollow
  let s := match v.seeks.find? (·.started) with
    | some k =>
      let s := updateSeekTime ((s.put SRV.SEEK_STAT.RESULT 0 a).put SRV.SEEK_STAT.STROKES (min v.seekAge 65535) a) a k
        v.seekAge
      let v := s.srv a
      refugeReached (s.setSrv a { v with seeks := v.seeks.filter (!·.started), flags := setBit v.flags 4 true }) a
    | none => s
  let v := s.srv a
  match v.loadTo, v.active with
  | some t, h :: _ =>
    let k : Seek := { stroke := stroke + 3, head := h, target := t, committed := false, full := true, dist := 0 }
    (s.setSrv a { v with loadTo := none, loadFails := 0, seeks := v.seeks ++ [k], flags := setBit v.flags 3 true }).put
      SRV.SEEK_REQ.PENDING 1 a
  | _, _ => s

/-- A head leaves its pair: the other follows alone, and the lane of the head that left requeues at its next sector
boundary (R212, R213). -/
def headLeaves (s : State) (a h : Nat) : State :=
  let s := (lanesOf a).foldl (fun s n =>
    ((List.range 32).filter fun t => (s.tag n t).st = .taken && psaHead (s.tag n t).psa = 8 * a + h).foldl
      (fun s t => s.setTag n t { s.tag n t with requeue := some 3 }) s) s
  let s := setActive s a ((s.srv a).active.erase h)
  s.setSrv a { s.srv a with sat := [] }

/-- The lead follows alone (R211, R213). -/
def partPair (s : State) (a : Nat) : State :=
  match (s.srv a).active with
  | _ :: other :: _ => headLeaves s a other
  | _ => s

/-- A microactuator at its limit ends pairing (R213). -/
def endPairing (s : State) (a : Nat) : State :=
  if (s.srv a).active.length < 2 then s
  else
    let s := partPair s a
    let s := s.setSrv a { s.srv a with flags := setBit (s.srv a).flags 2 true }
    raise (s.bump SRV.LOOP_ERR.SAT_CNT 1 a) (srvPage a) 3 7

/-- Count samples at full microactuator command; SAT_WEDGES of them end pairing (R213). DESIGN CHOICE: SAT_WEDGES 0 acts
as 1 (log 88). -/
def countSat (s : State) (a : Nat) (m : Sparse Int) : State :=
  let v := s.srv a
  let sat := v.active.foldl (fun (c : Sparse Nat) h =>
    sset 0 c h (if sget 0 m h = 2047 ∨ sget 0 m h = -2048 then min (sget 0 v.sat h + 1) 255 else 0)) []
  let s := s.setSrv a { v with sat := sat }
  let lim := max 1 (s.get SRV.PAIR_CTL.SAT_WEDGES a)
  if v.active.any fun h => lim ≤ sget 0 sat h then endPairing s a else s

/-- The lead is unable to follow (R212, R232). -/
def unableLead (s : State) (a : Nat) : Bool := (s.srv a).active.head?.any fun h => unable s a h

/-- Count consecutive wedges within SETTLE_PES (R208); a lead that is unable to follow does not reach FOLLOW (R232;
log 75). -/
def countSettle (s : State) (a stroke : Nat) (pes : Int) : State :=
  if srvState s a ≠ svSettle then s
  else
    let v := s.srv a
    let ok := !unableLead s a && decide (pes.natAbs * 100 ≤ s.get SRV.SETTLE_CTL.SETTLE_PES a * 16384)
    let n := if ok then v.settle + 1 else 0
    let s := s.setSrv a { v with settle := n }
    if s.get SRV.SETTLE_CTL.SETTLE_WED a ≤ n then enterFollow s a stroke else s

/-- A head of ACQUIRE reads a wedge (R196, R225): ACQ_WEDGES consecutive wedges free of error, with consistent numbers,
teach STROKE_MOD and lead to SETTLE at the position found. The coil stays at its last command. -/
def acquireWedge (s : State) (a stroke : Nat) (x : WedgeIn) (z : Nat) : State :=
  let s := setSrvState s a svAcquire
  let v := s.srv a
  let f := servoField s a x z
  let md := (stroke + 512 - f.number) % 512
  let sam := !f.mark || !f.even
  let tid := !sam && trackOff s a x f 0
  let good := !sam && !tid
  let n := if good then (if v.acq ≠ 0 && v.acqMod = md then v.acq + 1 else 1) else 0
  let pos := (rdiv (f.track * 16384 + f.frac) 16 % 2 ^ 32).toNat
  let s := s.setSrv a { v with acq := n, acqMod := md }
  let s := countDemod (countDemod s a SRV.DEMOD_ERR.SAM_MISS sam) a SRV.DEMOD_ERR.TID_ERR tid
  let s := if good then s.put SRV.POS.POS pos a x.head.val else s
  let s := sendCommand s a v.coil []
  if good && max 1 (s.get SRV.DEMOD_CTL.ACQ_WEDGES a) ≤ n then
    let v := s.srv a
    let s := s.setSrv a { v with target := sset 0 v.target x.head.val pos, miss := 0, acq := 0 }
    enterSettle (s.put SRV.WEDGE_MAP.STROKE_MOD md a) a
  else s

/-- Demodulate every active head. -/
def demodAll (s : State) (a stroke : Nat) (ref : Option Int) (inj : Int) (ws : List WedgeIn) :
    List (Nat × Demod) × State :=
  (s.srv a).active.foldl (fun (acc : List (Nat × Demod) × State) h =>
    let s := acc.2
    let x := (ws.find? fun w => w.head.val = h).getD
      ⟨Fin.ofNat 8 h, ⟨0, 0, 0⟩, ⟨0, 0, 0⟩, BitVec.ofNat 32 (s.get SRV.POS.POS a h)⟩
    (acc.1 ++ [(h, demod s a x stroke ref inj s.free)], s.drawn)) ([], s)

/-- MISS_LOST wedges in error on the lead take SRV to LOST (R196, R212). -/
def countMiss (s : State) (a : Nat) (d : List (Nat × Demod)) : State :=
  match d with
  | [] => s
  | (_, x) :: _ =>
    let n := if x.est then (s.srv a).miss + 1 else 0
    let s := s.setSrv a { s.srv a with miss := min n 255 }
    if max 1 (s.get SRV.DEMOD_CTL.MISS_LOST a) ≤ n then enterLost s a else s

/-- A capture entry (R218). -/
def captureEntry (s : State) (a : Nat) (inj : Int) (d : List (Nat × Demod)) (l : Law) : Nat :=
  let lead := match d with | (h, x) :: _ => (h, x.pes) | [] => (0, 0)
  let other := match d with | _ :: (_, x) :: _ => x.pes | _ => 0
  let sel := match s.get SRV.CAP_CTL.SEL a with
    | 0 => sget 0 l.mact lead.1
    | 1 => other
    | 2 => rnd l.rvff 13
    | _ => rnd l.xff 13
  unsigned 16 inj + unsigned 16 lead.2 * 2 ^ 16 + unsigned 16 l.u * 2 ^ 32 + unsigned 16 sel * 2 ^ 48

/-- One closed-loop sample (R196-R217). DESIGN CHOICE: SEEK_STAT.STROKES counts the motion stroke and the stroke in which
FOLLOW is entered (R210; log 88). -/
def closedLoop (s : State) (a stroke : Nat) (ws : List WedgeIn) : State :=
  let s := startTests s a stroke
  let s := beginDueSeek s a stroke
  let j := injectStep s a
  let s := j.2
  let inj := j.1
  let lead := (s.srv a).active.head?.getD 0
  let target := sget 0 (s.srv a).target lead
  let s := if srvState s a = svSeek then refStep s a target else s
  let ref := if srvState s a = svSeek then some (s.srv a).refPos else none
  let d := demodAll s a stroke ref (if s.get SRV.INJ_CTL.POINT a = 3 then rnd inj 1 else 0) ws
  let s := (List.range 8).foldl (fun s h => s.put SRV.PES.VALID 0 a h) d.2
  let s := d.1.foldl (fun s e => showWedge s a lead e.1 e.2) s
  let v := s.srv a
  let s := s.setSrv a { v with
    seekAge := v.seekAge + 1, templates := liveTemplates v stroke, sampled := some stroke
    notchAge := (List.range 4).foldl (fun m j => sset 0 m j (min 512 (sget 0 m j + 1))) v.notchAge }
  let s := countMiss s a d.1
  if srvState s a = svLost then s
  else
    let lead' := match d.1 with | (_, x) :: _ => (x.pos, x.pes) | [] => (0, 0)
    let near := ((target : Int) - lead'.1).natAbs ≤ bits (srvCoef s a 371) 16 16 * 1024
    let s := if srvState s a = svSeek && near then enterSettle s a else s
    let l := controlLaw s a stroke (d.1.map fun e => (e.1, e.2.pes)) inj
    let s := sendCommand l.2 a l.1.u l.1.mact
    let s := captureStep s a (captureEntry s a inj d.1 l.1)
    countSettle (countSat s a l.1.mact) a stroke lead'.2

/-- A closed-loop sample of an actuator that may be waiting to be disabled (R219). -/
def loopSample (s : State) (a stroke : Nat) (ws : List WedgeIn) : State := settleOos (closedLoop s a stroke ws) a

/-- SERVO_SAMPLE (R41, R186, R196, R200, R208, R225, R228). -/
def execServoSample (srv : Fin 4) (wedges : List WedgeIn) (s : State) : Result :=
  .next (
    let a := srv.val
    let st := srvState s a
    let stroke := strokeAt s (a / 2 + 1)
    let s := match takeLaunch s .servoSample a (a / 2 + 1) with
      | some r => r.2
      | none => s
    if !locked s || !working s (srvPage a) || !domainLive s (srvPage a).domain then s
    else if st = svParked || st = svLost then s
    else if st = svLoading || st = svAcquire then
      match wedges with
      | x :: _ => acquireWedge s.drawn a stroke x s.free
      | [] => sendCommand (setSrvState s a svAcquire) a (s.srv a).coil []
    else loopSample s a stroke wedges)

/-- CONTROL_OVERRUN (R198): no command for this stroke. -/
def execControlOverrun (srv : Fin 4) (s : State) : Result :=
  .next (
    let a := srv.val
    if !working s (srvPage a) then s
    else
      let s := s.setVcm a { s.vcm a with next := none, nextMact := [] }
      raise (s.bump SRV.LOOP_ERR.OVERRUN 1 a) (srvPage a) 2 7)

/-- SRV passes through ACQUIRE again when the generator is LOCKED again, from the bias (R228). What has been launched or
committed stands (R209): a seek that ran begins again from the position found, at the reduced profile (log 75). -/
def reacquire (s : State) (a : Nat) : State :=
  let st := srvState s a
  if (s.vcm a).loaded && st ≠ svParked && st ≠ svLost && st ≠ svLoading then
    let b := coilBias (s.vcm a)
    let v := s.srv a
    let again := v.seeks.map fun k => if k.started then { k with started := false, full := false } else k
    setSrvState (s.setSrv a { v with ufb := b * 2 ^ 13, coil := b, acq := 0, seeks := again }) a svAcquire
  else s

/-! Coefficients (R201-R204). -/

/-- The word COEF_WIN selects. -/
def srvWinKey (s : State) (a : Nat) : Nat :=
  srvCoefKey (s.get SRV.COEF_WIN.BANK a) (s.get SRV.COEF_WIN.HALF a) (s.get SRV.COEF_WIN.WORD a)

/-- WORD rises after each access. -/
def srvWinStep (s : State) (a : Nat) : State := s.put SRV.COEF_WIN.WORD (s.get SRV.COEF_WIN.WORD a + 1) a

/-- The bits a word of the coefficient RAM has (R10, R201): reserved words and bits are not stored. -/
def srvCoefMask (w : Nat) : Nat :=
  if w < 61 then 0xFFFFFFFF
  else if w < 64 then 0
  else if w < 320 then
    (match (w - 64) % 32 with
     | 25 | 26 => 0xFFFF
     | 27 => 1
     | 28 | 29 | 30 | 31 => 0
     | _ => 0xFFFFFFFF)
  else if w < 334 then 0xFFFFFFFF
  else if w < 336 then 0
  else if w < 359 then 0xFFFFFFFF
  else if w < 368 then 0
  else if w < 371 then 0xFFFFFFFF
  else if w < 372 then 0xFFFFFF00
  else if w < 376 then 0
  else if w < 384 then (if w % 2 = 0 then 0xFFFF else 0xFFFFFFFF)
  else 0xFFFFFFFF

/-- A write of COEF_DATA: an active half is left as it is (R202), reserved words and bits stay zero (R10, R201). -/
def srvCoefWrite (a : Nat) (w : Word) (s : State) : State :=
  srvWinStep (if s.get SRV.COEF_WIN.HALF a = 1 then s
    else s.setSrv a { s.srv a with
      coef := sset 0 (s.srv a).coef (srvWinKey s a) (w.toNat &&& srvCoefMask (s.get SRV.COEF_WIN.WORD a)) }) a

/-- A read of COEF_DATA. -/
def srvCoefRead (a : Nat) (s : State) : Nat × State := (sget 0 (s.srv a).coef (srvWinKey s a), srvWinStep s a)

/-- SRV_COEF_DATA_ACCESS (R202). -/
def execSrvCoefDataAccess (q : Req) (srv : Fin 4) (w : Option (BitVec 32)) (s : State) : Result :=
  .next (match w with
    | some w => guarded s q (srvPage srv.val) 0x090 w (srvCoefWrite srv.val w)
    | none => guardedRead s q (srvPage srv.val) 0x090 (srvCoefRead srv.val))

/-- A late request of SRV (R43, R202, R217, R218): its LATE flag and the timing event. -/
def srvLate (s : State) (a : Nat) (F : Fld) : State := (raise (s.put F 1 a) (srvPage a) 2 7).reply statusLate []

/-- A write of COEF_COMMIT (R202). -/
def srvCommitWrite (q : Req) (a : Nat) (w : Word) (s : State) : State :=
  if SRV.COEF_COMMIT.GO.of w = 1 && (s.srv a).commit.isSome then s.reply statusRefused []
  else
    let s := plainWrite s q (srvPage a) 0x094 w
    if SRV.COEF_COMMIT.GO.of w = 0 then s
    else
      let s := s.put SRV.COEF_COMMIT.LATE 0 a
      match launchStroke (strokeAt s (a / 2 + 1)) (SRV.COEF_COMMIT.STROKE.of w) with
      | none => srvLate s a SRV.COEF_COMMIT.LATE
      | some n => (s.setSrv a { s.srv a with commit := some n }).put SRV.COEF_COMMIT.PENDING 1 a

/-- SRV_COEF_COMMIT (R202). -/
def execSrvCoefCommit (q : Req) (srv : Fin 4) (w : BitVec 32) (s : State) : Result :=
  .next (guarded s q (srvPage srv.val) 0x094 w (srvCommitWrite q srv.val w))

/-- SRV_COEF_EXCHANGE at a catch (R45, R202, R214): the halves of the bank in use exchange as a transfer. -/
def srvExchange (s : State) (a stroke : Nat) : State :=
  let v := s.srv a
  if v.commit = some stroke then
    let b := s.get SRV.SRV_CTL.BANK a
    let coef := (List.range 512).foldl (fun m w => swapWords m (srvCoefKey b 0 w) (srvCoefKey b 1 w)) v.coef
    (s.setSrv a { v with coef := coef, commit := none, xfer := true, exchanged := some stroke }).put SRV.COEF_COMMIT.PENDING 0 a
  else s

/-- Centre code of adaptive notch `j` (R204). -/
def notchCentre (s : State) (a j : Nat) : Nat := bits (s.get SRV.NOTCH_STAT.CENTRE a) (8 * j) 8

/-- NOTCH_ESTIMATE (R204): 512 samples after the last estimate, a centre that has moved by more than F_TOL is written at
the second catch. An estimate lies between F_LO and F_HI. -/
def execNotchEstimate (srv : Fin 4) (notch : Fin 4) (code : BitVec 8) (s : State) : Result :=
  .next (
    let a := srv.val
    let j := notch.val
    let lim := srvCoef s a (376 + 2 * j)
    let c := max (bits lim 0 8) (min code.toNat (bits lim 8 8))
    let v := s.srv a
    if !bit (s.get SRV.NOTCH_CTL.ADAPT a) j || !working s (srvPage a) || sget 0 v.notchAge j < 512 then s
    else
      let moved := decide (s.get SRV.NOTCH_CTL.F_TOL a < ((c : Int) - notchCentre s a j).natAbs)
      let old := v.notch.filter fun e => e.1 ≠ j
      s.setSrv a { v with
        notchAge := sset 0 v.notchAge j 0
        notch := if moved then old ++ [(j, c, strokeAt s (a / 2 + 1) + 2)] else v.notch })

/-- Write a notch for a centre code into the active half (R204): the centre is 120 Hz times its code, a stroke lasts
PERIOD / 256 ns, and each product is taken to Q4.28. -/
def writeNotch (s : State) (a j code : Nat) : State :=
  let r := srvCoef s a (377 + 2 * j)
  let rz : Int := bits r 0 16
  let rp : Int := bits r 16 16
  let cos := cosTurn (120 * code * s.get BRZ.STROKE_PERIOD.PERIOD) (256 * 10 ^ 9)
  let b := s.get SRV.SRV_CTL.BANK a
  let vals : List Int := [2 ^ 28, rnd (-2 * rz * cos) 67, rnd (rz * rz) 2, rnd (-2 * rp * cos) 67, rnd (rp * rp) 2]
  let v := s.srv a
  let coef := (List.range 5).foldl (fun m k =>
    sset 0 m (srvCoefKey b 1 (5 * (4 + j) + k)) (unsigned 32 ((vals[k]?).getD 0))) v.coef
  let old := s.get SRV.NOTCH_STAT.CENTRE a
  let new := old - bits old (8 * j) 8 * 2 ^ (8 * j) + code * 2 ^ (8 * j)
  (s.setSrv a { v with coef := coef }).put SRV.NOTCH_STAT.CENTRE new a

/-- NOTCH_WRITE (R204): a commit on the same catch wins, and the update is dropped. -/
def execNotchWrite (srv : Fin 4) (s : State) : Result :=
  .next (
    let a := srv.val
    let v := s.srv a
    let now := strokeAt s (a / 2 + 1)
    match v.notch.find? fun e => decide (e.2.2 ≤ now) with
    | none => s
    | some (j, c, at') =>
      let s := s.setSrv a { v with notch := v.notch.erase (j, c, at') }
      if v.commit = some at' || v.exchanged = some at' then s else writeNotch s a j c)

/-- REGATTA_INTENT_APPLY (R206, R582): an SRV page that does not run discards the intent; a ninth template, or a
motion stroke that has passed, counts as dropped. -/
def execRegattaIntentApply (srv : Fin 4) (s : State) : Result :=
  .next (
    let a := srv.val
    match s.rgt.forward.find? (·.1 = a) with
    | none => s
    | some e =>
      let x := e.2
      let s := { s with rgt := { s.rgt with forward := s.rgt.forward.erase e } }
      let v := s.srv a
      if !running s (srvPage a) then s
      else
        let now := strokeAt s (a / 2 + 1)
        let live := liveTemplates v now
        if 8 ≤ live.length || decide (x.stroke < now) then s.bump SRV.LOOP_ERR.FF_DROP 1 a
        else s.setSrv a { v with templates := live ++ [⟨x.template, x.neg, x.stroke⟩] })

/-! Seeks (R209). -/

/-- End a launch with a result code of SEEK_STAT (R209, R221). -/
def seekResult (s : State) (a r status : Nat) : Nat × State := (status, s.put SRV.SEEK_STAT.RESULT r a)

/-- Launch a seek of actuator `a` (R41, R43, R209): the status of the launch. A seek is not launched while the spindle
accelerates, since the generator is then not LOCKED (R60). -/
def seekLaunch (s : State) (a head target low : Nat) (full : Bool) (tag : Option (Nat × Nat)) : Nat × State :=
  let st := srvState s a
  let now := strokeAt s (a / 2 + 1)
  if !locked s || accelerating s then seekResult s a 2 statusUnlocked
  else if st = svParked || st = svLoading || st = svAcquire || st = svManual || st = svLost ||
      s.get SRV.SRV_CTL.AUTO a = 0 || !running s (srvPage a) then seekResult s a 5 statusRefused
  else match launchStroke now low with
    | none => seekResult (raise (s.put SRV.SEEK_REQ.LATE 1 a) (srvPage a) 2 7) a 1 statusLate
    | some m =>
      if m ≤ now + 2 then seekResult (raise (s.put SRV.SEEK_REQ.LATE 1 a) (srvPage a) 2 7) a 1 statusLate
      else
        let v := s.srv a
        let k : Seek := { stroke := m, head := head, target := target, committed := false, full := full, dist := 0,
                          tag := tag }
        let flags := setBit (if tag.isSome then setBit v.flags 0 true else v.flags) 4 false
        let v := { v with seeks := v.seeks ++ [k], flags := flags }
        (0, (s.setSrv a v).put SRV.SEEK_REQ.PENDING 1 a)

/-- A write of SEEK_REQ (R209, R221). -/
def seekReqWrite (q : Req) (a : Nat) (w : Word) (s : State) : State :=
  let s := plainWrite s q (srvPage a) 0x080 w
  if SRV.SEEK_REQ.GO.of w = 0 then s
  else
    let s := s.put SRV.SEEK_REQ.LATE 0 a
    let r := seekLaunch s a (SRV.SEEK_REQ.HEAD.of w) (s.get SRV.SEEK_TGT.POS a) (SRV.SEEK_REQ.STROKE.of w)
      (SRV.SEEK_REQ.FULL.of w = 1) none
    r.2.reply r.1 []

/-- SEEK_LAUNCH (R209). -/
def execSeekLaunch (q : Req) (srv : Fin 4) (w : BitVec 32) (s : State) : Result :=
  .next (guarded s q (srvPage srv.val) 0x080 w (seekReqWrite q srv.val w))

/-- A seek permit may be granted to actuator `a` beside those held (R57, R367): none on the pivot, fewer than MAX_FULL_SEEK
on the device. -/
def permitRoom (s : State) (held : List Nat) (a : Nat) : Bool :=
  !held.contains a && !held.contains (partner a) && decide (held.length < maxFullSeek s)

/-- How old the operation is that a seek serves; a seek that serves none is younger than any (R367; log 77). -/
def seekAge (s : State) (k : Seek) : Option Nat :=
  match k.tag with
  | some (n, t) => (sget none s.sch.posted (32 * n + t)).map (·.age)
  | none => none

/-- Put an actuator's seek among those that compete, the older operation first, the lower actuator among equals. -/
def rivalInsert (e : Nat × Option Nat) : List (Nat × Option Nat) → List (Nat × Option Nat)
  | [] => [e]
  | x :: xs =>
    let first := match x.2, e.2 with
      | some y, some z => decide (y ≤ z)
      | some _, none => true
      | none, some _ => false
      | none, none => true
    if first then x :: rivalInsert e xs else e :: x :: xs

/-- The actuators whose full seeks are due at this catch and not yet committed, in the order they take permits (R367). -/
def seekRivals (s : State) : List Nat :=
  ((List.range 4).foldl (fun l b =>
    match (s.srv b).seeks.find? fun k => !k.committed && k.full && decide (k.stroke = strokeAt s (b / 2 + 1) + 2) with
    | some k => rivalInsert (b, seekAge s k) l
    | none => l) []).map (·.1)

/-- The seek of actuator `a` gets a permit: there is room beside those held once its older rivals of the same stroke have
theirs (R367). -/
def seekPermitFree (s : State) (a : Nat) : Bool :=
  let older := (seekRivals s).takeWhile fun b => b ≠ a
  let held := older.foldl (fun held b => if permitRoom s held b then held ++ [b] else held)
    (bitList 4 (s.get SCH.PERMIT_STAT.SEEK))
  permitRoom s held a

/-- A seek that could not be committed at its catch m - 2 is late (R209, R252): result LATE, and the tag it was launched
for ends LATE. -/
def seekLate (s : State) (a : Nat) (k : Seek) : State :=
  let s := s.setSrv a { s.srv a with seeks := (s.srv a).seeks.erase k }
  let s := if (s.srv a).seeks.any fun x => !x.committed then s else s.put SRV.SEEK_REQ.PENDING 0 a
  let s := raise ((s.put SRV.SEEK_REQ.LATE 1 a).put SRV.SEEK_STAT.RESULT 1 a) (srvPage a) 2 7
  match k.tag with
  | some (n, t) => if (s.tag n t).open' then completeTag s n t { status := 7 } else s
  | none => s

/-- SEEK_COMMIT (R58, R205, R209, R252, R367): the permit fixes the profile, the intent goes out, and a tag the seek
serves is TAKEN. -/
def execSeekCommit (srv : Fin 4) (s : State) : Result :=
  .next (
    let a := srv.val
    let v := s.srv a
    let now := strokeAt s (a / 2 + 1)
    match v.seeks.find? fun k => !k.committed && decide (k.stroke ≤ now + 2) with
    | none => s
    | some k =>
      if k.stroke < now + 2 then seekLate s a k else
      let grant := k.full && seekPermitFree s a
      let dist : Int := (k.target : Int) - s.get SRV.POS.POS a k.head
      let k' := { k with committed := true, full := grant, dist := dist }
      let seeks := v.seeks.map fun x => if x = k then k' else x
      let s := s.setSrv a { v with seeks := seeks, flags := setBit v.flags 0 false }
      let s := if grant then
          let s := s.put SCH.PERMIT_STAT.SEEK (setBit (s.get SCH.PERMIT_STAT.SEEK) a true)
          (s.put SRV.SRV_STAT.PERMIT 1 a).put VCM.VCM_STAT.FULL (1 - s.get VCM.VCM_STAT.CLAMPED a) a
        else s
      let s := if (s.srv a).seeks.any fun x => !x.committed then s else s.put SRV.SEEK_REQ.PENDING 0 a
      let s := { s with rgt := { s.rgt with out := s.rgt.out ++ [⟨a, k.stroke, dist, grant⟩] } }
      match k.tag with
      | some (n, t) => takeTag s n t
      | none => s)

/-! Modes by register (R203, R216). -/

/-- A write of SRV_CTL: BANK only while PARKED, AUTO not during SEEK or SETTLE, and with PAIR_EN 0 one head follows
(R203, R211, R216). DESIGN CHOICE: on leaving MANUAL, whose law commands no u_fb, the u_fb of the sample before is the
last coil command (R214; log 88). -/
def srvCtlWrite (q : Req) (a : Nat) (w : Word) (s : State) : State :=
  let st := srvState s a
  let bank := s.get SRV.SRV_CTL.BANK a
  let auto := s.get SRV.SRV_CTL.AUTO a
  let s := plainWrite s q (srvPage a) 0x040 w
  let s := if s.get SRV.SRV_CTL.PAIR_EN a = 0 then partPair s a else s
  let s := if st = svParked then s else s.put SRV.SRV_CTL.BANK bank a
  let s := if st = svSeek || st = svSettle then s.put SRV.SRV_CTL.AUTO auto a else s
  let new := s.get SRV.SRV_CTL.AUTO a
  if auto = 1 && new = 0 && st = svFollow then
    setSrvState (s.put SRV.MAN_CMD.CURRENT (unsigned 16 (s.srv a).coil) a) a svManual
  else if auto = 0 && new = 1 && st = svManual then
    let v := s.srv a
    let target := v.active.foldl (fun m h => sset 0 m h (s.get SRV.POS.POS a h)) v.target
    enterSettle (s.setSrv a { v with target := target, ufb := v.coil * 2 ^ 13 }) a
  else s

/-- AUTO_CLEAR (R216). -/
def execAutoClear (q : Req) (srv : Fin 4) (w : BitVec 32) (s : State) : Result :=
  .next (guarded s q (srvPage srv.val) 0x040 w (srvCtlWrite q srv.val w))

/-- AUTO_SET (R216). -/
def execAutoSet (q : Req) (srv : Fin 4) (w : BitVec 32) (s : State) : Result :=
  .next (guarded s q (srvPage srv.val) 0x040 w (srvCtlWrite q srv.val w))

/-! Injection and capture by register (R217, R218). -/

/-- End the injection. -/
def injectEnd (s : State) (a : Nat) : State :=
  (s.setSrv a { s.srv a with inj := none, injAt := none }).put SRV.INJ_CTL.ACTIVE 0 a

/-- A write of INJ_CTL (R217). -/
def injCtlWrite (q : Req) (a : Nat) (w : Word) (s : State) : State :=
  let s := plainWrite s q (srvPage a) 0x0A0 w
  let s := if SRV.INJ_CTL.STOP.of w = 1 then injectEnd s a else s
  if SRV.INJ_CTL.GO.of w = 0 then s
  else
    let s := s.put SRV.INJ_CTL.LATE 0 a
    match launchStroke (strokeAt s (a / 2 + 1)) (SRV.INJ_CTL.STROKE.of w) with
    | none => srvLate s a SRV.INJ_CTL.LATE
    | some n => s.setSrv a { s.srv a with injAt := some n }

/-- INJECTION_START (R217). -/
def execInjectionStart (q : Req) (srv : Fin 4) (w : BitVec 32) (s : State) : Result :=
  .next (guarded s q (srvPage srv.val) 0x0A0 w (injCtlWrite q srv.val w))

/-- INJECTION_STOP (R217). -/
def execInjectionStop (q : Req) (srv : Fin 4) (w : BitVec 32) (s : State) : Result :=
  .next (guarded s q (srvPage srv.val) 0x0A0 w (injCtlWrite q srv.val w))

/-- INJECTION_END (R217): INJ_LEN samples have been sent. -/
def execInjectionEnd (srv : Fin 4) (s : State) : Result :=
  .next (match (s.srv srv.val).inj with
    | some (0, _) => injectEnd s srv.val
    | _ => s)

/-- A write of CAP_CTL (R218). -/
def capCtlWrite (q : Req) (a : Nat) (w : Word) (s : State) : State :=
  let s := plainWrite s q (srvPage a) 0x0B0 w
  let s := if SRV.CAP_CTL.STOP.of w = 1 then
      (s.setSrv a { s.srv a with capRun := none, capAt := none }).put SRV.CAP_CTL.BUSY 0 a
    else s
  if SRV.CAP_CTL.GO.of w = 0 then s
  else
    let s := s.put SRV.CAP_CTL.LATE 0 a
    match launchStroke (strokeAt s (a / 2 + 1)) (SRV.CAP_CTL.STROKE.of w) with
    | none => srvLate s a SRV.CAP_CTL.LATE
    | some n => ((s.setSrv a { s.srv a with capAt := some n }).put SRV.CAP_CTL.BUSY 1 a).put SRV.CAP_STAT.COUNT 0 a

/-- CAPTURE_START (R218). -/
def execCaptureStart (q : Req) (srv : Fin 4) (w : BitVec 32) (s : State) : Result :=
  .next (guarded s q (srvPage srv.val) 0x0B0 w (capCtlWrite q srv.val w))

/-- CAPTURE_STOP (R218). -/
def execCaptureStop (q : Req) (srv : Fin 4) (w : BitVec 32) (s : State) : Result :=
  .next (guarded s q (srvPage srv.val) 0x0B0 w (capCtlWrite q srv.val w))

/-- A read of CAP_DATA: a free value while BUSY (R218). DESIGN CHOICE: the window steps at that read too (R15, R221;
log 64). -/
def capRead (a : Nat) (s : State) : Nat × State :=
  let i := s.get SRV.CAP_WIN.WORD a
  let busy := s.get SRV.CAP_CTL.BUSY a = 1
  let v := if busy then s.free % 2 ^ 32 else bits (sget 0 (s.srv a).cap (i / 2)) (32 * (i % 2)) 32
  (v, (if busy then s.drawn else s).put SRV.CAP_WIN.WORD (i + 1) a)

/-- CAP_DATA_READ (R218). -/
def execCapDataRead (q : Req) (srv : Fin 4) (s : State) : Result :=
  .next (guardedRead s q (srvPage srv.val) 0x0BC (capRead srv.val))

/-- SRV enters FAULT (R18, R220): it sends no more commands, and a disable in progress is over. -/
def srvFault (s : State) (a : Nat) : State :=
  let s := s.setVcm a { s.vcm a with next := none, nextMact := [] }
  pageFault (s.setSrv a { s.srv a with disabling := false }) (srvPage a) 0 3

/-- SRV_PARITY_FAULT (R220, R222). -/
def execSrvParityFault (srv : Fin 4) (shadow : Bool) (s : State) : Result :=
  .next (
    let a := srv.val
    if !domainLive s (srvPage a).domain then s
    else if shadow then raise (s.bump SRV.LOOP_ERR.OVERRUN 1 a) (srvPage a) 2 0
    else srvFault s a)

/-! Unload and disable (R219, R226). -/

/-- Begin an unload: seek to track 0, then the ramp (R226). -/
def beginUnload (s : State) (a : Nat) : State :=
  let v := s.srv a
  let st := srvState s a
  if !(s.vcm a).loaded || v.unloading then s
  else
    let s := s.setSrv a { v with unloading := true, flags := setBit v.flags 3 false }
    if st = svFollow || st = svSettle || st = svSeek then
      let h := v.active.head?.getD 0
      beginSeek s a { stroke := strokeAt s (a / 2 + 1), head := h, target := 0, committed := true, full := false,
                      dist := 0, unload := true }
    else s

/-- HEAD_UNLOAD (R209, R219, R226): by launch, once no committed seek waits to begin, or for a disable whose committed
seeks have finished and whose lanes have drained. -/
def execHeadUnload (srv : Fin 4) (s : State) : Result :=
  .next (
    let a := srv.val
    let drained := (lanesOf a).all fun n => (openTags s n).isEmpty
    if (s.srv a).disabling && !seekCommitted s a && drained then beginUnload s a
    else if (s.srv a).seeks.any fun k => k.committed && !k.started then s
    else match takeLaunch s .unload a (a / 2 + 1) with
      | none => s
      | some (_, s) => if locked s then beginUnload s a else s.put SRV.SEEK_STAT.RESULT 2 a)

/-- SRV is disabled (R219): tests end, and once a committed seek has finished the actuator goes out of service; parked
heads read OFF at once. -/
def srvDisable (s : State) (a : Nat) : State :=
  let s := injectEnd s a
  let s := (s.setSrv a { s.srv a with capRun := none, capAt := none }).put SRV.CAP_CTL.BUSY 0 a
  if (s.vcm a).loaded then settleOos (s.setSrv a { s.srv a with disabling := true }) a
  else setPageState (setOos s a) (srvPage a) stOff

/-! Pairing (R211). -/

/-- A head's target with its own radial offset, in 2^-10 tracks (R211). -/
def radialTarget (a h target : Nat) : Int := target + Config.radialOffset (8 * a + h)

/-- Two targets of an actuator's heads are within PAIR_RANGE, above 56 acting as 56 (R211, R221). -/
def pairFits (s : State) (a : Nat) (x y : Int) : Bool :=
  decide ((x - y).natAbs ≤ min 56 (s.get SRV.PAIR_CTL.PAIR_RANGE a) * 1024)

/-- Why a head may not join those that follow: 0 if it may (R57, R211, R232). `track` is its operation's. -/
def joinRefusal (s : State) (a h track : Nat) : Nat :=
  let v := s.srv a
  if v.active.contains h then 0
  else match v.active with
    | [] => 0
    | [l] =>
      if s.get SRV.SRV_CTL.PAIR_EN a = 0 || unable s a h || unable s a l ||
          !pairFits s a (radialTarget a l (sget 0 v.target l)) (radialTarget a h (track * 1024)) then statusPairRange
      else 0
    | _ => statusPairRange

/-- A head joins (R211, R214). -/
def joinHead (s : State) (a h track : Nat) : State :=
  let v := s.srv a
  if v.active.contains h then s
  else
    let v := { v with target := sset 0 v.target h (track * 1024), flags := setBit v.flags 1 false }
    setActive (s.setSrv a v) a (v.active ++ [h])

/-- Two heads follow at once only while their targets lie within PAIR_RANGE: a write of PAIR_CTL can end a pair (R211). -/
def pairCtlWrite (q : Req) (a : Nat) (w : Word) (s : State) : State :=
  let s := plainWrite s q (srvPage a) 0x070 w
  match (s.srv a).active with
  | [l, o] =>
    let v := s.srv a
    if pairFits s a (radialTarget a l (sget 0 v.target l)) (radialTarget a o (sget 0 v.target o)) then s else partPair s a
  | _ => s

/-- A head that has become unable to follow stops following (R212, R232): of a pair the other goes on alone, and a head
that follows alone is in SETTLE again (log 75). -/
def headStopsFollowing (s : State) (a h : Nat) : State :=
  match (s.srv a).active with
  | [_, _] => if (s.srv a).active.contains h then headLeaves s a h else s
  | [l] => if l = h && srvState s a = svFollow then enterSettle s a else s
  | _ => s

/-- MAC_DRIVER_FAULT (R232): the driver turns off, the head is unable to follow, and its writes are off track. -/
def execMacDriverFault (head : Fin 32) (s : State) : Result :=
  .next (if domainLive s macPage.domain then
    let a := head.val / 8
    let h := head.val % 8
    let s := s.put MAC.MAC_FAULT.FAULT (setBit (s.get MAC.MAC_FAULT.FAULT) head.val true)
    let s := raise { s with mac := { s.mac with cmd := sset 0 s.mac.cmd head.val 0 } } macPage 0 1
    let s := match headJob s a h with
      | some j => offTrack s a h j
      | none => s
    headStopsFollowing s a h
  else s)

/-- A write of any SRV register (R221). -/
def srvWrite (q : Req) (a off : Nat) (w : Word) (s : State) : State :=
  if off = 0x040 then srvCtlWrite q a w s
  else if off = 0x070 then pairCtlWrite q a w s
  else if off = 0x080 then seekReqWrite q a w s
  else if off = 0x090 then srvCoefWrite a w s
  else if off = 0x094 then srvCommitWrite q a w s
  else if off = 0x0A0 then injCtlWrite q a w s
  else if off = 0x0B0 then capCtlWrite q a w s
  else plainWrite s q (srvPage a) off w

end Sys2Proof.Machine
end

