-- ==== Sys2Proof/Machine/Operands.lean ====
section
/-! DEFINITION. The control-store word: its fields, the registers it names and the conditions it selects (R242-R246). -/

namespace Sys2Proof.Machine

open Sys2Proof

/-- OP. -/
def wOp (w : Nat) : Nat := bits w 122 6
/-- NXT. -/
def wNxt (w : Nat) : Nat := bits w 120 2
/-- BASE. -/
def wBase (w : Nat) : Nat := bits w 108 12
/-- CSELi. -/
def wCsel (w i : Nat) : Nat := bits w (84 + 6 * i) 6
/-- SAFE. -/
def wSafe (w : Nat) : Bool := bit w 83
/-- CINV bit i. -/
def wCinv (w i : Nat) : Bool := bit w (79 + i)
/-- DST. -/
def wDst (w : Nat) : Nat := bits w 66 6
/-- SRCA. -/
def wSrcA (w : Nat) : Nat := bits w 60 6
/-- SRCB. -/
def wSrcB (w : Nat) : Nat := bits w 54 6
/-- FN. -/
def wFn (w : Nat) : Nat := bits w 48 6
/-- IMM. -/
def wImm (w : Nat) : Nat := bits w 0 48

/-- A code of OP that R243 lists. -/
def opListed (op : Nat) : Bool := [0x00, 0x01, 0x10, 0x14, 0x18, 0x1C, 0x20, 0x24, 0x28].contains op

/-- A general register; G0 reads zero (R240). -/
def Sqr.reg (x : Sqr) (r : Nat) : Nat := if r = 0 then 0 else sget 0 x.g r

/-- Write a general register; a write of G0 is discarded (R240). -/
def Sqr.setReg (x : Sqr) (r v : Nat) : Sqr := if r = 0 then x else { x with g := sset 0 x.g r (v % 2 ^ 32) }

/-- SRCA's value. -/
def Sqr.srcA (x : Sqr) (w : Nat) : Nat := x.reg (wSrcA w)
/-- SRCB's value. -/
def Sqr.srcB (x : Sqr) (w : Nat) : Nat := x.reg (wSrcB w)
/-- The second ALU operand: SRCB, or IMM[31:0] when FN[5] is 1 (R243). -/
def Sqr.aluB (x : Sqr) (w : Nat) : Nat := if bit (wFn w) 5 then wImm w % 2 ^ 32 else x.srcB w

/-- The head index a lane's current tag names. -/
def laneHead (s : State) (n : Nat) : Nat := ((s.sqr n).tag.map fun t => psaHead (s.tag n t).psa % 8).getD 0

/-- Conditions 12-19 of a lane sequencer (R246). -/
def laneCond (s : State) (n c : Nat) : Bool :=
  let l := s.lane n
  let res := (s.ldp (n / 4)).results.filter fun r => r.lane = n % 4 && !staleResult s (n / 4) r
  if c = 12 then (s.lq n).order.any fun t => (s.tag n t).st = .posted
  else if c = 13 then ((s.sqr n).tag.map fun t => (s.tag n t).abort).getD false
  else if c = 14 then inhibited s (n / 2) (laneHead s n)
  else if c = 15 then l.writeGate
  else if c = 16 then l.frameDone
  else if c = 17 then res.any fun r => !r.verify
  else if c = 18 then res.any fun r => r.verify
  else l.verifyReady = some true

/-- Conditions 12-19 of a servo sequencer (R246). -/
def servoCond (s : State) (a c : Nat) : Bool :=
  let v := s.srv a
  let st := srvState s a
  if c = 12 then bit v.flags 0
  else if c = 13 then v.seeks.any (·.committed)
  else if c = 14 then st = svFollow
  else if c = 15 then st = svLost || pageState s (srvPage a) = stFault
  else bit v.flags (c - 15)

/-- The endpoint of a unit (R463). -/
def unitEndpoint (u : Nat) : Nat := 6 + u

/-- The value of condition `c` for unit `u` (R246). -/
def condition (s : State) (u c : Nat) : Bool :=
  let x := s.sqr u
  if c = 0 then false
  else if c = 1 then true
  else if c = 2 then x.z
  else if c = 3 then x.n
  else if c = 4 then x.c
  else if c = 5 then x.v
  else if c = 6 then x.tmo
  else if c = 7 then x.catchSeen
  else if c = 8 then s.wires.pfail
  else if c = 9 then locked s
  else if c = 10 then s.get SEQ.SQ_CTL.EASY (unitSeq u) (unitIdx u) = 1
  else if c = 11 then outOfService s (unitActuator u)
  else if c < 20 then (if u < 8 then laneCond s u c else servoCond s (u - 8) c)
  else if c = 20 then x.refused
  else if c = 21 then !(s.endpoint (unitEndpoint u)).inq.isEmpty
  else if c = 22 then decide (16 ≤ outWords (s.endpoint (unitEndpoint u)))
  else if c = 23 then x.sig
  else if c < 32 then false
  else if c < 48 then bit (s.get SEQ.SQ_FLAGS.F (unitSeq u) (unitIdx u)) (c - 32)
  else bit (x.reg 1) (c - 48)

/-- Condition i of a word after CINV (R244). -/
def wordCond (s : State) (u w i : Nat) : Bool := condition s u (wCsel w i) != wCinv w i

/-- The conditions that a word's next address samples: the four of a jump or call (R244). -/
def sampled (w : Nat) : List Nat := if wNxt w = 1 || wNxt w = 2 then (List.range 4).map (wCsel w) else []

/-- Sampling clears conditions 7 and 23 (R246). -/
def clearCond (c : Nat) (x : Sqr) : Sqr :=
  { x with catchSeen := x.catchSeen && c ≠ 7, sig := x.sig && c ≠ 23 }

/-- The conditions that a word's next address samples clear (R244, R246). -/
def clearSampled (w : Nat) (x : Sqr) : Sqr := (sampled w).foldl (fun x c => clearCond c x) x

/-- The jump address (R244). -/
def jumpAddress (s : State) (u w : Nat) : Nat :=
  wBase w ||| ((if wordCond s u w 0 then 1 else 0) + (if wordCond s u w 1 then 2 else 0) +
    (if wordCond s u w 2 then 4 else 0) + (if wordCond s u w 3 then 8 else 0))

end Sys2Proof.Machine
end

