-- ==== Sys2Proof/Machine/Flags.lean ====
section
/-! DEFINITION. The flags of an ALU word (R240, R243). The rule names Z, N, C and V and does not say what C and V are
after a logic operation or a shift, nor which way a subtraction's C goes: those are free values (log 24). -/

namespace Sys2Proof.Machine

open Sys2Proof

/-- Z and N of a result. -/
def Sqr.setZN (x : Sqr) (r : Nat) : Sqr := { x with z := decide (r % 2 ^ 32 = 0), n := bit r 31 }

/-- The carry out of a 32-bit addition. -/
def addCarry (a b : Nat) : Bool := decide (2 ^ 32 ≤ a + b)

/-- The signed overflow of an addition. -/
def addOverflow (a b : Nat) : Bool :=
  let r := signed 32 a + signed 32 b
  decide (r < -2 ^ 31 ∨ 2 ^ 31 ≤ r)

/-- The signed overflow of a subtraction. -/
def subOverflow (a b : Nat) : Bool :=
  let r := signed 32 a - signed 32 b
  decide (r < -2 ^ 31 ∨ 2 ^ 31 ≤ r)

/-- A free flag. -/
def freeFlag (v : Nat) : Bool := v % 2 = 1

/-- The difference of two 32-bit numbers. -/
def diff32 (a b : Nat) : Nat := (a + 2 ^ 32 - b % 2 ^ 32) % 2 ^ 32

end Sys2Proof.Machine
end

