-- ==== Sys2Proof/Machine/Regatta.lean ====
section
/-! DEFINITION. The Regatta bus (chapter "The Regatta bus"). What the wires carry comes with the commands. -/

namespace Sys2Proof.Machine

open Sys2Proof

/-- The page of RGT. -/
def rgtPage : Page := ⟨.rgt, 0⟩

/-- RGT_STAT.ROLE as stored: 0 off, 1 listening, 3 follower, 4 starter (R584). -/
def rgtRole (s : State) : Nat := s.get RGT.RGT_STAT.ROLE

/-- A drive that can claim the bus (R573). -/
def mayClaim (s : State) : Bool :=
  s.get RGT.RGT_CTL.STARTER_EN = 1 && running s rgtPage && locked s && s.get RGT.RGT_STAT.STUCK = 0

/-- RGT_STAT.ROLE as read: a listening candidate is claiming (R573, R584). -/
def rgtRoleRead (s : State) : Nat := if rgtRole s = 1 && mayClaim s then 2 else rgtRole s

/-- One bit of CRC-6, x^6 + x + 1 (R571). -/
def crc6Bit (c : Nat) (b : Bool) : Nat :=
  let f := bit c 5 != b
  ((2 * c) % 64) ^^^ (if f then 3 else 0)

/-- CRC-6 over the `n` lowest bits of a word, the highest of them first (R571, R579). -/
def crc6 (w : Nat) : Nat → Nat → Nat
  | 0, c => c
  | n + 1, c => crc6 w n (crc6Bit c (bit w n))

/-- LOCK leaves LOCKED and the loop stops sampling: J and the trim are cleared (R574, R576, R577). -/
def stopSampling (s : State) (lock : Nat) : State :=
  let was := s.get RGT.RGT_STAT.LOCK
  let s := ((s.put RGT.RGT_STAT.LOCK lock).put RGT.TRIM.PPM 0).put RGT.TRIM_INT.J 0
  let s := { s with rgt := { s.rgt with within := 0 } }
  let s := raiseIf (was = 2) s rgtPage 4 7
  raiseIf (lock = 3 && was ≠ 3) s rgtPage 5 7

/-- The drive samples its phase (R576). -/
def rgtSamples (s : State) : Bool :=
  working s rgtPage && s.get RGT.RGT_CTL.LOCK_EN = 1 && rgtRole s = 3 && s.get SPN.SPN_STAT.STATE = 4

/-- GLIDE of the starter does not match the drive's own speed (R576). -/
def glideDiffers (s : State) : Bool := s.rgt.glide != (s.get SPN.SPN_CTL.SPEED = 1)

/-- After anything that decides whether the drive samples has changed (R576). -/
def rgtSettle (s : State) : State :=
  if working s rgtPage && s.get RGT.RGT_CTL.LOCK_EN = 1 && rgtRole s = 3 && s.rgt.following ≠ none && glideDiffers s then
    stopSampling s 3
  else if rgtSamples s then s
  else stopSampling s 0

/-- A starter, or a drive about to be one, stops driving RG_SYN and becomes a follower (R575). -/
def starterStop (s : State) : State :=
  let s := { s with rgt := { s.rgt with claimed := false, sent := none } }
  if rgtRole s = 4 then s.put RGT.RGT_STAT.ROLE 3 else s

/-- The page was enabled: the drive listens (R584). -/
def rgtEnable (s : State) : State := s.put RGT.RGT_STAT.ROLE 1

/-- The page was disabled (R575, R584): the role ends and nothing is queued or sampled. -/
def rgtDisable (s : State) : State :=
  let s := starterStop s
  let s := { s with rgt := { s.rgt with queue := [], following := none, frameOk := false, won := false } }
  stopSampling (s.put RGT.RGT_STAT.ROLE 0) 0

/-- The header cells of a starter's frame (R571). -/
def frameHeader (s : State) : Nat :=
  let h := s.get RGT.RGT_CTL.ADDR * 2048 + s.gen.stroke % 512 * 4 + (if s.get SPN.SPN_CTL.SPEED = 1 then 2 else 0)
  h * 64 + crc6 h 16 0

/-- Rigger's catch as the bus sees it (R571, R573): a claim that has ended makes the drive starter; a starter sends a
frame unless a stuck wire keeps it from transmitting (R583). -/
def rgtCatch (s : State) : State :=
  let s := if s.rgt.claimed && mayClaim s then
      let s := { s with rgt := { s.rgt with claimed := false, following := none } }
      let s := (s.put RGT.RGT_STAT.ROLE 4).put RGT.RGT_STAT.SADDR (s.get RGT.RGT_CTL.ADDR)
      rgtSettle (raise s rgtPage 0 7)
    else { s with rgt := { s.rgt with claimed := false } }
  let drives := rgtRole s = 4 && s.get RGT.RGT_STAT.STUCK = 0
  { s with rgt := { s.rgt with sent := if drives then some (frameHeader s) else none } }

/-- CRC_ERR counts, with EV222 at a multiple of 256 and at saturation (R572, R582, R585). -/
def rgtCrcError (s : State) : State :=
  let before := s.get RGT.RX_CNT.CRC_ERR
  let s := s.bump RGT.RX_CNT.CRC_ERR
  let now := s.get RGT.RX_CNT.CRC_ERR
  raiseIf (now ≠ before && (now % 256 = 0 || now = 0xFFFF)) s rgtPage 8 7

/-- The speed trim in 1/64 ppm, rounded toward zero and not yet clamped (R576): `e` phase units, `j` in 2^-22 ppm. -/
def speedTrim (e j : Int) (kp : Nat) : Int := -(Int.tdiv ((e * 2 ^ 22 + j * 2 ^ kp) * 64) (2 ^ (22 + kp)))

/-- A phase sample at an accepted frame (R576): `p` is the local phase within the revolution, in phase units. -/
def phaseSample (s : State) (p sstroke : Nat) : State :=
  let m := 2 ^ 21
  let d := (p + 2 * m - sstroke * 4096 % m - s.get RGT.PHASE_OFS.OFFSET) % m
  let e : Int := if 2 ^ 20 ≤ d then (d : Int) - m else d
  let lim : Int := ((min 200 (s.get RGT.LOCK_CFG.TRIM_MAX) : Nat) : Int)
  let kp := s.get RGT.LOCK_CFG.KP_SHIFT
  let j := signed 32 (s.get RGT.TRIM_INT.J)
  let clamped := decide (lim * 64 < (speedTrim e j kp).natAbs)
  let j := if sstroke = 0 && !clamped then
      clampI (-(lim * 2 ^ 22)) (lim * 2 ^ 22) (j + rdiv (e * 2 ^ 22) (2 ^ s.get RGT.INT_CFG.KI_SHIFT))
    else j
  let t := clampI (-(lim * 64)) (lim * 64) (speedTrim e j kp)
  let s := ((s.put RGT.PHASE_ERR.E (unsigned 21 e)).put RGT.TRIM_INT.J (unsigned 32 j)).put RGT.TRIM.PPM (unsigned 16 t)
  let tol := s.get RGT.LOCK_CFG.LOCK_TOL
  let n := if e.natAbs ≤ tol then min 512 (s.rgt.within + 1) else 0
  let was := s.get RGT.RGT_STAT.LOCK
  let s := { s with rgt := { s.rgt with within := n } }
  if was = 2 then
    if decide (4 * tol < e.natAbs) then raise (s.put RGT.RGT_STAT.LOCK 1) rgtPage 4 7 else s
  else if n = 512 then raise (s.put RGT.RGT_STAT.LOCK 2) rgtPage 3 7
  else s.put RGT.RGT_STAT.LOCK 1

/-- An edge and a header that checks (R571, R574-R576). -/
def frameAccepted (s : State) (saddr sstroke : Nat) (glide : Bool) (phase : Nat) : State :=
  let new := s.rgt.following ≠ some saddr
  let s := { s with rgt := { s.rgt with frameOk := true, glide := glide, following := some saddr } }
  let s := raiseIf new (s.put RGT.RGT_STAT.SADDR saddr) rgtPage 2 7
  let s := rgtSettle s
  if rgtSamples s && !glideDiffers s then phaseSample s (s.gen.stroke % 512 * 4096 + phase) sstroke else s

/-- REGATTA_FRAME_RECEIVE (R572-R576). A starter reads its own frames back; one with another SADDR ends its role,
whatever its check (R575). -/
def execRegattaFrameReceive (cells : BitVec 22) (phase : BitVec 12) (s : State) : Result :=
  .next (
    let w := cells.toNat
    let ok := crc6 (w / 64) 16 0 = w % 64
    let saddr := bits w 17 5
    if !working s rgtPage || !domainLive s 83 then s
    else if rgtRole s = 4 && saddr = s.get RGT.RGT_CTL.ADDR then
      let s := { s with rgt := { s.rgt with frameOk := ok } }
      if ok then s else rgtCrcError s
    else
      let s := starterStop s
      let s := (s.put RGT.RGT_STAT.ROLE 3)
      let s := { s with rgt := { s.rgt with frameOk := false } }
      if !ok then rgtCrcError s
      else frameAccepted s saddr (bits w 8 9) (bit w 7) phase.toNat)

/-- STARTER_CLAIM (R573): the drive becomes starter at its next catch. -/
def execStarterClaim (s : State) : Result :=
  .next (if mayClaim s && rgtRole s = 1 then { s with rgt := { s.rgt with claimed := true } } else s)

/-- STARTER_LOST (R574). -/
def execStarterLost (s : State) : Result :=
  .next (if working s rgtPage && rgtRole s = 3 then
    let s := { s with rgt := { s.rgt with following := none, frameOk := false } }
    rgtSettle (raise ((s.put RGT.RGT_STAT.ROLE 1).bump RGT.LOSS_CNT.STARTER_LOSS) rgtPage 1 7)
  else s)

/-- The template index of an own seek (R578); the distance is in 1/1,024 tracks. -/
def intentTemplate (s : State) (dist : Nat) (full : Bool) : Nat :=
  (if full then 4 else 0) +
    (if dist < 1024 * 2 ^ s.get RGT.TX_CFG.D0 then 0
     else if dist < 1024 * 2 ^ s.get RGT.TX_CFG.D1 then 1
     else if dist < 1024 * 2 ^ s.get RGT.TX_CFG.D2 then 2 else 3)

/-- REGATTA_INTENT_QUEUE (R62, R578). -/
def execRegattaIntentQueue (s : State) : Result :=
  .next (
    match s.rgt.out with
    | [] => s
    | x :: r =>
      let s := { s with rgt := { s.rgt with out := r } }
      if !running s rgtPage || decide (x.dist.natAbs < 1024 * s.get RGT.TX_CFG.TX_MIN) then s
      else
        let i : Intent := ⟨x.act, x.stroke, intentTemplate s x.dist.natAbs x.full, decide (0 < x.dist)⟩
        { s with rgt := { s.rgt with queue := s.rgt.queue ++ [i] } })

/-- DELAY of an intent in a slot that ends `slotEnd` phase units after the drive's last catch (R581). -/
def intentDelay (s : State) (x : Intent) (slotEnd : Nat) : Int :=
  (((x.stroke : Int) - (s.gen.stroke : Int)) * 4096 - (slotEnd : Int)) / 512

/-- The 32 cells of an intent slot, cell 0 in the highest bit (R579). -/
def slotCells (s : State) (x : Intent) (delay : Nat) : Nat :=
  let c := s.get RGT.RGT_CTL.ADDR * 2048 + x.act * 512 + x.template * 64 + (if x.neg then 32 else 0) + delay
  (c * 64 + crc6 c 16 0) * 512 + 511

/-- REGATTA_SLOT_CONTEND (R572, R580, R581): an intent slot of an accepted frame comes, and a drive with a queued intent
contends for it (log 30). -/
def execRegattaSlotContend (settled : Bool) (slotEnd : BitVec 14) (outcome : SlotOutcome) (s : State) : Result :=
  .next (
    let s := s.reply 0 []
    let skip := s.rgt.won
    let s := { s with rgt := { s.rgt with won := false } }
    match s.rgt.queue with
    | [] => s
    | x :: r =>
      let d := intentDelay s x slotEnd.toNat
      if d < 1 then
        raise ({ s with rgt := { s.rgt with queue := r } } |>.bump RGT.TX_CNT.TX_DROP) rgtPage 7 7
      else if 31 < d || skip || !settled || !s.rgt.frameOk || s.get RGT.RGT_CTL.TX_EN = 0 || s.get RGT.RGT_STAT.STUCK = 1 ||
          !working s rgtPage then s
      else match outcome with
        | .lost => s
        | .won =>
          let s := s.reply 1 [slotCells s x d.toNat]
          ({ s with rgt := { s.rgt with queue := r, won := true } }).bump RGT.TX_CNT.SENT
        | .collision => raise ((s.bump RGT.LOSS_CNT.COLLIDE).put RGT.RGT_CTL.TX_EN 0) rgtPage 6 7)

/-- Pass an accepted intent on to the SRV pages its routing entry names (R582). -/
def forwardIntent (s : State) (route : Nat) (x : Intent) : State :=
  (List.range 4).foldl (fun s a =>
    if bit route a then
      { s with rgt := { s.rgt with forward := s.rgt.forward ++ [(a, { x with act := a, neg := x.neg != bit route (4 + a) })] } }
    else s) s

/-- REGATTA_SLOT_RECEIVE (R579, R582). The motion stroke is the first local stroke whose catch falls at or after the
slot end plus DELAY times 512 phase units. -/
def execRegattaSlotReceive (cells : BitVec 32) (slotEnd : BitVec 14) (s : State) : Result :=
  .next (
    let w := cells.toNat
    let c := bits w 15 16
    let addr := bits w 26 5
    if !working s rgtPage || !s.rgt.frameOk || s.get RGT.RGT_STAT.STUCK = 1 || s.get RGT.RGT_CTL.RX_EN = 0 || bit w 31 then s
    else if crc6 c 16 0 ≠ bits w 9 6 then rgtCrcError s
    else if addr = s.get RGT.RGT_CTL.ADDR then s
    else
      let act := bits w 24 2
      let m := s.gen.stroke + (slotEnd.toNat + bits w 15 5 * 512 + 4095) / 4096
      forwardIntent (s.bump RGT.RX_CNT.ACCEPTED) (sget 0 s.rgt.routes (4 * addr + act)) ⟨act, m, bits w 21 3, bit w 20⟩)

/-- REGATTA_WIRE_STUCK (R575, R583). -/
def execRegattaWireStuck (syn : Bool) (s : State) : Result :=
  .next (if working s rgtPage then
    let s := if syn then starterStop s else s
    raiseIf (s.get RGT.RGT_STAT.STUCK = 0) (s.put RGT.RGT_STAT.STUCK 1) rgtPage 9 7
  else s)

/-- REGATTA_WIRE_RECOVER (R583). -/
def execRegattaWireRecover (s : State) : Result :=
  .next (if domainLive s 83 then s.put RGT.RGT_STAT.STUCK 0 else s)

/-- The routing entry that ROUTE_WIN names (R584). -/
def routeRead (s : State) : Nat := sget 0 s.rgt.routes (s.get RGT.ROUTE_WIN.ENTRY)

/-- A write of RGT_CTL (R584): ADDR and STARTER_EN are discarded while PAGE_CTL.ENABLE is 1. -/
def rgtCtlWrite (q : Req) (w : Word) (s : State) : State :=
  let addr := s.get RGT.RGT_CTL.ADDR
  let st := s.get RGT.RGT_CTL.STARTER_EN
  let en := s.get HDR.PAGE_CTL.ENABLE rgtPage.index = 1
  let s := plainWrite s q rgtPage 0x040 w
  let s := if en then (s.put RGT.RGT_CTL.ADDR addr).put RGT.RGT_CTL.STARTER_EN st else s
  let s := if s.get RGT.RGT_CTL.STARTER_EN = 0 then starterStop s else s
  rgtSettle s

/-- A write of any RGT register (R584). -/
def rgtWrite (q : Req) (off : Nat) (w : Word) (s : State) : State :=
  if off = 0x040 then rgtCtlWrite q w s
  else if off = 0x064 then
    { s with rgt := { s.rgt with routes := sset 0 s.rgt.routes (s.get RGT.ROUTE_WIN.ENTRY) (w.toNat % 256) } }
  else plainWrite s q rgtPage off w

end Sys2Proof.Machine
end

