-- ==== Sys2Proof/Machine/Spindle.lean ====
section
/-! DEFINITION. Spindle, brake chopper and supplies (chapter "Spindle, supplies and protection"). What is measured comes
with the commands. -/

namespace Sys2Proof.Machine

open Sys2Proof

/-- The page of SPN. -/
def spnPage : Page := ⟨.spn, 0⟩
/-- The page of PWR. -/
def pwrPage : Page := ⟨.pwr, 0⟩
/-- The page of BRZ. -/
def brzPage : Page := ⟨.brz, 0⟩

/-! SPN_STAT.STATE codes (R405). -/

/-- STOPPED. -/
def spStopped : Nat := 0
/-- DETECT. -/
def spDetect : Nat := 1
/-- START. -/
def spStart : Nat := 2
/-- ACCEL. -/
def spAccel : Nat := 3
/-- RUN. -/
def spRun : Nat := 4
/-- SPEED_CHANGE. -/
def spSpeed : Nat := 5
/-- CATCH. -/
def spCatch : Nat := 6
/-- SPINDOWN. -/
def spSpindown : Nat := 7
/-- HOLDUP. -/
def spHoldup : Nat := 8
/-- BRAKE_OV. -/
def spBrake : Nat := 9
/-- COAST. -/
def spCoast : Nat := 10
/-- WAIT_REV. -/
def spWaitRev : Nat := 11
/-- FAULT. -/
def spFault : Nat := 12

/-- SPN_STAT.STATE. -/
def spn (s : State) : Nat := s.get SPN.SPN_STAT.STATE

/-- Set SPN_STAT.STATE (R405): EV202 on entering RUN; the phase lock follows STATE (R576). -/
def setSpn (s : State) (v : Nat) : State :=
  let was := spn s
  rgtSettle (raiseIf (v = spRun && was ≠ spRun) (s.put SPN.SPN_STAT.STATE v) spnPage 0 7)

/-- Change what SPN holds beyond its registers. -/
def State.spnMap (s : State) (f : Spn → Spn) : State := { s with spn := f s.spn }

/-- Rigger's block on spindle commands is powered and out of reset. -/
def spnLive (s : State) : Bool := domainLive s spnPage.domain

/-- Stroke period of a speed, UQ16.8 ns (R38, R40): 60e9 / (512 x rpm). -/
def periodOf (rpm : Nat) : Nat := if rpm = 0 then 4166667 else (60000000000 * 2 ^ 15 + rpm / 2) / rpm

/-- Crossings in a revolution (R403): POLE_PAIRS beside 2-8 acts as 4 (R428). -/
def revCrossings (s : State) : Nat :=
  let p := s.get SPN.SPN_CFG.POLE_PAIRS
  6 * (if 2 ≤ p && p ≤ 8 then p else 4)

/-- Half the width of a crossing's window, percent of the interval (R403, R428). -/
def windowPercent (s : State) : Nat := max 5 (min 40 (s.get SPN.OBS_CFG.WIN))

/-- The stroke period that the loop forms from the crossing rate, UQ16.8 ns (R403): before any crossing that of the last speed. -/
def loopPeriod (s : State) : Nat :=
  match s.spn.intervals with
  | i :: _ => i * revCrossings s / 512
  | [] => periodOf (s.get SPN.SPN_SPEED.RPM)

/-- The loop follows a crossing (R403, R428): its interval gives the speed over the last revolution, or over as much of it as
there has been, and in LOCKED the stroke period; both are cut to whole units (log 94). -/
def followCrossing (s : State) (interval : Nat) : State :=
  let l := (interval :: s.spn.intervals).take (revCrossings s)
  let s := s.spnMap fun x => { x with intervals := l }
  let s := if l.sum = 0 then s
    else s.put SPN.SPN_SPEED.RPM (min (60 * 10 ^ 9 * 2 ^ 24 * l.length / (revCrossings s * l.sum)) (2 ^ 32 - 1))
  if locked s then { s with gen := { s.gen with nextPeriod := some (loopPeriod s) } } else s

/-- The nominal period, 16,276.04 ns (R40). -/
def nominalPeriod : Nat := 4166667

/-- PFAIL stands. -/
def pfailed (s : State) : Bool := s.wires.pfail

/-- Assert WINH for a cause (R24). -/
def winhSet (s : State) (c : WinhSrc) : State :=
  if s.wires.winh.contains c then s else { s with wires := { s.wires with winh := s.wires.winh ++ [c] } }

/-- Withdraw a cause of WINH (R24). -/
def winhClear (s : State) (c : WinhSrc) : State := { s with wires := { s.wires with winh := s.wires.winh.erase c } }

/-- Every media operation stops (R413): TAKEN tags complete with UNLOCKED, reading ends, and the starter role ends
(R575). -/
def suspendMedia (s : State) : State :=
  let s := (List.range 8).foldl (fun s n =>
    let s := completeTags s n ((List.range 32).filter fun t => (s.tag n t).st = .taken) { status := 8 }
    closeReadGate s n) s
  starterStop s

/-- The rotor is no longer observed (R40, R413): HOLDOVER. -/
def enterHoldover (s : State) : State :=
  let was := s.get BRZ.STROKE_STAT.MODE
  let s := s.put BRZ.STROKE_STAT.MODE 2
  let s := (winhSet s .emptyWindow).put SPN.SPN_STAT.LOCK 0
  let s := s.spnMap fun x => { x with good := 0 }
  if was = 2 then s else suspendMedia (raise s brzPage 4 7)

/-- The generator enters UNLOCKED (R40, R411). -/
def enterUnlocked (s : State) : State :=
  let s := ((s.put BRZ.STROKE_STAT.MODE 0).put SPN.SPN_STAT.LOCK 0).spnMap fun x => { x with good := 0, lost := false }
  let s := { s with gen := { s.gen with nextPeriod := some nominalPeriod } }
  starterStop (winhClear s .emptyWindow)

/-- The generator enters LOCKED once the loop is locked, from HOLDOVER with the phase error within 16 units as well
(R404, R414); SRV passes through ACQUIRE again (R228). -/
def tryLock (s : State) : State :=
  let mode := s.get BRZ.STROKE_STAT.MODE
  if s.get SPN.SPN_STAT.LOCK = 0 || mode = 1 then s
  else if mode = 2 && decide (16 < s.gen.phaseErr.natAbs) then s
  else
    let s := winhClear (raise (s.put BRZ.STROKE_STAT.MODE 1) brzPage 5 7) .emptyWindow
    let s := { s with gen := { s.gen with nextPeriod := some (loopPeriod s) } }
    let s := raiseIf (mode = 2 && s.spn.lost) s spnPage 3 7
    let s := s.spnMap fun x => { x with lost := false, fromDetect := false }
    (List.range 4).foldl reacquire s

/-- No actuator keeps a controlled spin-down waiting (R411): every loaded one has parked, its retract has timed out, or
it cannot be retracted. -/
def retractsEnded (s : State) : Bool :=
  (List.range 4).all fun a => !(s.vcm a).loaded || (s.vcm a).stranded || (s.vcm a).timedOut

/-- PL_STATE (R396): 0 idle, 1 seal, 2 seek, 3 write, 4 index, 5 retract, 6 done, 7 floor reached. -/
def plState (s : State) : Nat := s.get SCH.SCH_STAT.PL_STATE

/-- Set PL_STATE. -/
def setPlState (s : State) (v : Nat) : State := s.put SCH.SCH_STAT.PL_STATE v

/-- Lines left unwritten, all actuators. -/
def plUnwritten (s : State) : Nat := ((List.range 4).map fun a => sget 0 s.sch.pl.unwritten a).sum

/-- A power-loss sequence or a test run ends: EV033, or EV034 where lines stay unwritten (R397). -/
def plEvent (s : State) : State := if plUnwritten s = 0 then raise s schPage 1 7 else raise s schPage 2 0

/-- The power-loss sequence is done once its retracts have ended (R383, R384, R396; log 45). -/
def plDone (s : State) : State := if plState s = 5 && retractsEnded s then plEvent (setPlState s 6) else s

/-- A controlled spin-down goes on to SPINDOWN once its retracts have ended (R411) and no overvoltage holds the bridge
(R417). -/
def settleStop (s : State) : State :=
  if s.spn.stopping && !s.spn.ov && retractsEnded s then setSpn (s.spnMap fun x => { x with stopping := false }) spSpindown else s

/-- A controlled spin-down (R411, R577). -/
def spinDown (s : State) : State :=
  let s := stopSampling s 0
  let s := s.spnMap fun x =>
    { x with stopping := true, starting := false, retry := false, fails := 0, fromDetect := false, rebrake := false, restart := false }
  settleStop (retractAll s)

/-- A start, or the next attempt of one, begins with DETECT (R406, R409). -/
def beginDetect (s : State) : State :=
  setSpn (s.spnMap fun x => { x with
    starting := true, retry := false, fore := 0, back := 0, fromDetect := false, rebrake := false, intervals := [] }) spDetect

/-- A start begins (R406). -/
def beginStart (s : State) : State := beginDetect (s.spnMap fun x => { x with fails := 0, rest := false, restart := false })

/-- A START, STOP or SPEED write is refused (R407, R410, R428, R429). -/
def spnRefused (s : State) (why : Nat) : State := raise (s.put SPN.SPN_STAT.LAST_REFUSE why) spnPage 11 7

/-- A write of SPEED that changes the target (R407, R410, R577). -/
def speedWrite (s : State) (v : Nat) : State :=
  if (v = 1) = (s.get SPN.SPN_CTL.SPEED = 1) then s.put SPN.SPN_CTL.SPEED v
  else if spn s = spFault then spnRefused s 3
  else if s.spn.reverse then spnRefused s 2
  else if !((List.range 4).all fun a => vcmState s a = 0 || vcmState s a = 3) then spnRefused s 1
  else
    let s := stopSampling (s.put SPN.SPN_CTL.SPEED v) 0
    if spn s = spRun then setSpn s spSpeed else s

/-- A write of SPN_CTL (R406, R407, R410, R411). START needs STOPPED and a running page (R17). -/
def spnCtlWrite (q : Req) (w : Word) (s : State) : State :=
  let old := s.get SPN.SPN_CTL.SPEED
  let s := (plainWrite s q spnPage 0x040 w).put SPN.SPN_CTL.SPEED old
  let s := speedWrite s (SPN.SPN_CTL.SPEED.of w)
  let s :=
    if SPN.SPN_CTL.START.of w = 0 then s
    else if spn s = spFault then spnRefused s 3
    else if s.spn.reverse then spnRefused s 2
    else if spn s = spStopped && running s spnPage && !pfailed s then beginStart s
    else s
  if SPN.SPN_CTL.STOP.of w = 0 then s
  else if spn s = spFault then spnRefused s 3
  else if spn s = spStopped || spn s = spSpindown then s
  else spinDown s

/-- SPIN_START (R60, R406, R407). -/
def execSpinStart (q : Req) (w : BitVec 32) (s : State) : Result :=
  .next (guarded s q spnPage 0x040 w (spnCtlWrite q w))

/-- SPIN_STOP (R411, R577). -/
def execSpinStop (q : Req) (w : BitVec 32) (s : State) : Result :=
  .next (guarded s q spnPage 0x040 w (spnCtlWrite q w))

/-- SPEED_CHANGE_REQUEST (R407, R410, R577). -/
def execSpeedChangeRequest (q : Req) (w : BitVec 32) (s : State) : Result :=
  .next (guarded s q spnPage 0x040 w (spnCtlWrite q w))

/-- DETECT_COMPLETE (R406, R407): above 60 rpm forward CATCH, backward WAIT_REV, else START. -/
def execDetectComplete (backward : Bool) (rpm : BitVec 32) (s : State) : Result :=
  .next (
    if !spnLive s || spn s ≠ spDetect then s
    else if rpm.toNat ≤ rpm16 60 then
      let first := !s.spn.rest
      let s := s.spnMap fun x => { x with rest := true, reverse := false, fore := 0, back := 0, good := 0, empty := 0 }
      setSpn (if first then s.bump SPN.SPN_CNT.STARTS else s) spStart
    else if backward then
      raise (setSpn (s.spnMap fun x => { x with reverse := true }) spWaitRev) spnPage 9 7
    else
      setSpn ((s.put SPN.SPN_SPEED.RPM rpm.toNat).spnMap fun x => { x with reverse := false, fromDetect := true }) spCatch)

/-- REVERSE_BRAKE_DONE (R407, R408). -/
def execReverseBrakeDone (s : State) : Result :=
  .next (if spnLive s && spn s = spWaitRev then
    let s := s.spnMap fun x => { x with reverse := false, fore := 0, back := 0 }
    setSpn s spDetect
  else s)

/-- The start has succeeded in this attempt (R409). -/
def attemptMade (s : State) : State := s.spnMap fun x => { x with starting := false, fails := 0 }

/-- STATE in which the observer watches a closed loop (R404). -/
def observes (s : State) : Bool := [spAccel, spRun, spSpeed, spHoldup, spBrake, spCoast].contains (spn s)

/-- A crossing of START's forced commutation (R406, R408). -/
def startCrossing (s : State) (backward close : Bool) : State :=
  if backward then
    let s := s.spnMap fun x => { x with back := x.back + 1, fore := 0, good := 0 }
    if s.spn.back < 12 then s
    else
      let d := 1 - s.get SPN.SPN_STAT.DIR_SWAPPED
      raise (setSpn (s.put SPN.SPN_STAT.DIR_SWAPPED d) spWaitRev) spnPage 10 7
  else
    let s := s.spnMap fun x => { x with fore := x.fore + 1, back := 0, good := if close then min 48 (x.good + 1) else 0 }
    if s.spn.fore < 12 then s else setSpn (attemptMade s) spAccel

/-- A crossing of a closed loop (R404, R412). -/
def loopCrossing (s : State) (close : Bool) : State :=
  let held := s.get BRZ.STROKE_STAT.MODE = 2
  let s := s.spnMap fun x => { x with empty := 0, good := if close then min 48 (x.good + 1) else 0 }
  let s := if held then s else winhClear s .emptyWindow
  let s := if s.spn.good = 48 then s.put SPN.SPN_STAT.LOCK 1 else s
  tryLock s

/-- ZERO_CROSSING (R403, R404, R406, R408, R412): one outside its window of WIN percent is not accepted. -/
def execZeroCrossing (backward : Bool) (phase : Int) (interval : BitVec 48) (mean peak : BitVec 16) (s : State) : Result :=
  .next (
    let close := decide (phase.natAbs * 16 < 65536)
    let measured := followCrossing ((s.put SPN.SPN_ISENSE.MEAN mean.toNat).put SPN.SPN_ISENSE.PEAK peak.toNat) interval.toNat
    if !spnLive s || decide (windowPercent s * 65536 < phase.natAbs * 100) then s
    else if spn s = spStart then startCrossing measured backward close
    else if observes s then loopCrossing measured close
    else s)

/-- The rotor is lost (R412, R413). -/
def rotorLost (s : State) : State :=
  let left := if spn s = spBrake || spn s = spCoast then s.spn.left else spn s
  let s := raise (s.bump SPN.OBS_CNT.RECATCH) spnPage 2 7
  let s := s.spnMap fun x => { x with left := left, lost := true, fromDetect := false, empty := 0, ov := false }
  setSpn (enterHoldover s) spCatch

/-- WINDOW_EMPTY (R403, R412). -/
def execWindowEmpty (s : State) : Result :=
  .next (
    if !spnLive s then s
    else if spn s = spStart then s.spnMap fun x => { x with fore := 0, back := 0, good := 0 }
    else if !observes s then s
    else
      let s := raise (winhSet (s.bump SPN.OBS_CNT.EMPTY) .emptyWindow) spnPage 1 7
      let s := s.spnMap fun x => { x with empty := x.empty + 1, good := 0 }
      if s.spn.empty < 3 then s else rotorLost s)

/-- A catch of a start has failed (R414): brake to below 60 rpm and DETECT again. -/
def startCatchFails (s : State) : State := setSpn (s.spnMap fun x => { x with rebrake := true, fromDetect := false }) spSpindown

/-- A re-catch has failed (R415). -/
def recatchFails (s : State) : State :=
  let s := raise (s.bump SPN.OBS_CNT.RECATCH_FAIL) spnPage 4 7
  let again := s.get SPN.SPN_CTL.AUTO_RESTART = 1
  (spinDown (s.spnMap fun x => { x with lost := false })).spnMap fun x => { x with restart := again }

/-- The state that the bridge returns to: RUN, or HOLDUP while PFAIL stands, in place of either (R414, R417, R418, R422);
any other that it left, where a rotor that is not yet followed gives nothing to hold up with, and from HOLDUP back to the target
through SPEED_CHANGE once the 12 V input has returned (R423; log 79). -/
def backTo (s : State) : Nat :=
  let v := s.spn.left
  if pfailed s && !([spDetect, spStart, spCatch, spWaitRev].contains v) then spHoldup
  else if v = spHoldup then spSpeed else v

/-- CATCH_MEASURE_COMPLETE (R414, R422). -/
def execCatchMeasureComplete (rpm : BitVec 32) (error : Int) (s : State) : Result :=
  .next (
    let n := rpm.toNat
    if !spnLive s || spn s ≠ spCatch then s
    else if n < rpm16 60 then (if s.spn.fromDetect then startCatchFails s else recatchFails s)
    else
      let s := { s.put SPN.SPN_SPEED.RPM n with gen := { s.gen with phaseErr := error } }
      let s := s.spnMap fun x => { x with good := 0, empty := 0 }
      if s.spn.fromDetect then
        let t := rpm16 (targetRpm s)
        setSpn (attemptMade s) (if n < t then spAccel else if t * 10002 < n * 10000 then spSpeed else spRun)
      else setSpn s (backTo s))

/-- RECATCH_TIMEOUT (R414, R415). -/
def execRecatchTimeout (s : State) : Result :=
  .next (
    if !spnLive s || locked s then s
    else if s.spn.fromDetect && spn s ≠ spCatch && s.get SPN.SPN_STAT.LOCK = 0 then
      startCatchFails (s.spnMap fun x => { x with starting := true })
    else if s.spn.lost then recatchFails s
    else s)

/-- START_ATTEMPT_TIMEOUT (R409): the third failed attempt in a row ends in FAULT, the page's too (R18; log 79). -/
def execStartAttemptTimeout (s : State) : Result :=
  .next (
    if !spnLive s || !s.spn.starting then s
    else
      let s := raise (s.spnMap fun x => { x with fails := x.fails + 1, starting := false, rebrake := false, fromDetect := false })
        spnPage 5 7
      if s.spn.fails < 3 then setSpn (s.spnMap fun x => { x with retry := true }) spCoast
      else raise (setPageState (setSpn (s.put SPN.SPN_FAULT.START_FAIL 1) spFault) spnPage stFault) spnPage 6 3)

/-- START_RETRY (R409). -/
def execStartRetry (s : State) : Result :=
  .next (if spnLive s && s.spn.retry then beginDetect s else s)

/-- The spindle is at rest (R227, R612): a retract that has timed out ends with its bridge off. -/
def endTimedOut (s : State) : State :=
  (List.range 4).foldl (fun s a =>
    if vcmState s a = 2 && (s.vcm a).timedOut then setVcmState s a 0 else s) s

/-- SPINDOWN_COMPLETE (R411, R414, R415). -/
def execSpindownComplete (s : State) : Result :=
  .next (
    if !spnLive s || spn s ≠ spSpindown then s
    else if s.spn.rebrake then beginDetect s
    else
      let s := endTimedOut (setSpn (enterUnlocked s) spStopped)
      if s.spn.restart && !pfailed s then beginStart (s.bump SPN.SPN_CNT.RESTARTS) else s)

/-- A speed has come to the target: within 0.02 % of it, or from below past it (R406, R410). -/
def atTarget (s : State) (rpm : Nat) : Bool :=
  let t := rpm16 (targetRpm s)
  decide (t * 9998 ≤ rpm * 10000) && (spn s = spAccel || decide (rpm * 10000 ≤ t * 10002))

/-- SPEED_TARGET_REACHED (R406, R410). -/
def execSpeedTargetReached (rpm : BitVec 32) (elapsed : BitVec 16) (s : State) : Result :=
  .next (
    if spnLive s && (spn s = spAccel || spn s = spSpeed) && atTarget s rpm.toNat then
      let s := s.put SPN.SPN_SPEED.RPM rpm.toNat
      let s := if s.spn.rest then (s.put SPN.SPIN_TIME.MS elapsed.toNat).spnMap fun x => { x with rest := false } else s
      setSpn s spRun
    else s)

/-- SPINDLE_STOPPED (R227, R612). -/
def execSpindleStopped (s : State) : Result :=
  .next (
    let s := endTimedOut s
    if spnLive s && spn s = spCoast && !s.spn.retry then setSpn (s.spnMap fun x => { x with ov := false }) spStopped else s)

/-- The spindle bridge turns off for a fault (R405, R427, R428): STATE FAULT, loaded actuators retract, and the rotor is
no longer observed. -/
def spnFaults (s : State) : State :=
  let s := s.spnMap fun x => { x with starting := false, retry := false, stopping := false, ov := false, lost := false }
  let s := if s.get BRZ.STROKE_STAT.MODE = 0 then s.put SPN.SPN_STAT.LOCK 0 else enterHoldover s
  retractAll (setPageState (setSpn (raise s spnPage 6 3) spFault) spnPage stFault)

/-- SPN_TERMINAL_FAULT (R427, R428). -/
def execSpnTerminalFault (kind : SpnFault) (s : State) : Result :=
  .next (if !spnLive s then s
  else
    let s := match kind with
      | .shortGround => s.put SPN.SPN_FAULT.SHORT_GND 1
      | .shortSupply => s.put SPN.SPN_FAULT.SHORT_SUP 1
      | .shortPhase => s.put SPN.SPN_FAULT.SHORT_PH 1
      | .overCurrent => s.put SPN.SPN_FAULT.OVERCURRENT 1
      | .openPhase n => s.put SPN.SPN_FAULT.OPEN (setBit (s.get SPN.SPN_FAULT.OPEN) n.val true)
    spnFaults s)

/-- SPN_BRIDGE_OVERTEMP (R428). -/
def execSpnBridgeOvertemp (s : State) : Result :=
  .next (if spnLive s then spnFaults (s.put SPN.SPN_FAULT.OVERTEMP 1) else s)

/-- A write of any SPN register (R428): POLE_PAIRS is discarded unless STATE is STOPPED. -/
def spnWrite (q : Req) (off : Nat) (w : Word) (s : State) : State :=
  if off = 0x040 then spnCtlWrite q w s
  else
    let n := s.get SPN.SPN_CFG.POLE_PAIRS
    let t := plainWrite s q spnPage off w
    if off = 0x04C && spn s ≠ spStopped then t.put SPN.SPN_CFG.POLE_PAIRS n else t

/-! Ends of retracts that a controlled spin-down may wait for (R411). -/

/-- A retract or an unload has ended: a spin-down and a power-loss sequence that wait for it may go on. -/
def retractEnded (s : State) : State := plDone (settleStop s)

/-- RETRACT_PARKED (R226, R229, R612): a retract or an unload that can reach the ramp does. -/
def execRetractParked (vcm : Fin 4) (s : State) : Result :=
  .next (
    let a := vcm.val
    let v := s.vcm a
    if v.stranded then s
    else if vcmState s a = 2 || (s.srv a).unloading || (vcmState s a = 4 && v.loaded) then retractEnded (parked s a) else s)

/-- RETRACT_TIMEOUT (R227). -/
def execRetractTimeout (vcm : Fin 4) (s : State) : Result :=
  .next (
    let a := vcm.val
    let v := s.vcm a
    if (vcmState s a = 2 || (vcmState s a = 4 && v.loaded && !v.stranded)) && !v.timedOut then
      let s := s.setVcm a { s.vcm a with timedOut := true }
      retractEnded (raise (s.put VCM.VCM_FAULT.RET_TIMEOUT 1 a) (vcmPage a) 3 7)
    else s)

/-- VCM_FAULT_DETECT (R229): the bridge turns off and VCM enters FAULT. With a terminal shorted to a rail a loaded
actuator retracts through the healthy half-bridge; with an open or shorted coil the heads stay. -/
def execVcmFaultDetect (vcm : Fin 4) (kind : CoilFault) (s : State) : Result :=
  .next (
    let a := vcm.val
    if !domainLive s (vcmPage a).domain then s
    else
      let v := s.vcm a
      let rail := kind = .shortGnd || kind = .shortSup
      let coil := kind = .openCoil || kind = .shortCoil
      let s := s.setVcm a { v with next := none, nextMact := [], stranded := v.stranded || (coil && v.loaded) }
      let s := setVcmState (s.put (coilFaultField kind) 1 a) a 4
      let s := pageFault s (vcmPage a) 0 3
      retractEnded (if rail && v.loaded then raise (s.bump VCM.VCM_CNT.RETRACT_CNT 1 a) (vcmPage a) 1 7 else s))

/-! Brake chopper and overvoltage (R416-R418). -/

/-- BRAKE_OV under overvoltage while the chopper is faulted or carries no current (R417, R418). -/
def ovBrake (s : State) : State :=
  if s.get PWR.PWR_STAT.OV1 = 1 && s.get PWR.CHOP_STAT.CODE ≠ 0 && spnLive s &&
      [spStart, spAccel, spRun, spSpeed, spHoldup].contains (spn s) then
    raise (setSpn (s.spnMap fun x => { x with left := spn s, ov := true }) spBrake) spnPage 7 7
  else s

/-- A chopper fault is recorded (R416). -/
def chopFault (s : State) (code : Nat) : State :=
  ovBrake (raise ((s.put PWR.CHOP_STAT.CODE code).put PWR.PWR_STAT.CHOP_FAULT 1) pwrPage 5 1)

/-- CHOPPER_GATE (R416): HUP above CHOP_ON, which is at most 13.6 V, gates the chopper; a faulted one is not gated. -/
def execChopperGate (hup : BitVec 16) (s : State) : Result :=
  .next (
    let s := s.put PWR.VOLT.HUP hup.toNat
    if s.get PWR.PWR_CTL.CHOP_EN = 1 && s.get PWR.CHOP_STAT.CODE = 0 &&
        decide (100 * min 136 (s.get PWR.CHOP_CFG.CHOP_ON) < hup.toNat) then
      s.spnMap fun x => { x with gated := true }
    else s)

/-- CHOPPER_CURRENT_CHECK (R416). -/
def execChopperCurrentCheck (ma : BitVec 16) (s : State) : Result :=
  .next (if !s.spn.gated then s
  else
    let s := s.put PWR.CHOP_STAT.I_LAST ma.toNat
    if ma.toNat < 100 * s.get PWR.CHOP_CFG.CHOP_MIN then chopFault s 1
    else if 6000 < ma.toNat then chopFault (s.spnMap fun x => { x with gated := false }) 2
    else s)

/-- CHOPPER_TIMEOUT (R416). -/
def execChopperTimeout (s : State) : Result :=
  .next (if s.spn.gated then chopFault (s.spnMap fun x => { x with gated := false }) 4 else s)

/-- CHOPPER_RELEASE (R416): HUP below CHOP_OFF releases the chopper. -/
def execChopperRelease (hup : BitVec 16) (s : State) : Result :=
  .next (
    let s := s.put PWR.VOLT.HUP hup.toNat
    if hup.toNat < 100 * s.get PWR.CHOP_CFG.CHOP_OFF then s.spnMap fun x => { x with gated := false } else s)

/-- CHOPPER_STUCK_ON (R416). -/
def execChopperStuckOn (s : State) : Result := .next (if s.spn.gated then s else chopFault s 3)

/-- HUP_OV1 (R417, R418). -/
def execHupOv1 (s : State) : Result :=
  .next (ovBrake (raise (winhSet ((s.put PWR.PWR_STAT.OV1 1).bump PWR.PWR_CNT.OV1_CNT) .overvoltage) pwrPage 3 7))

/-- HUP_OV2 (R417): the spindle bridge turns off, whatever it was doing. -/
def execHupOv2 (s : State) : Result :=
  .next (
    let s := raise ((s.put PWR.PWR_STAT.OV2 1).bump PWR.PWR_CNT.OV2_CNT) pwrPage 4 7
    if spnLive s && !([spStopped, spCoast, spFault].contains (spn s)) then
      let left := if spn s = spBrake then s.spn.left else spn s
      raise (setSpn (s.spnMap fun x => { x with left := left, ov := true }) spCoast) spnPage 8 7
    else s)

/-- OV_RECOVER (R417, R418). -/
def execOvRecover (s : State) : Result :=
  .next (
    let s := winhClear ((s.put PWR.PWR_STAT.OV1 0).put PWR.PWR_STAT.OV2 0) .overvoltage
    if spnLive s && s.spn.ov && (spn s = spBrake || spn s = spCoast) then
      settleStop (setSpn (s.spnMap fun x => { x with ov := false }) (backTo s))
    else s)

/-- OV_RETRACT_TIMEOUT (R417). -/
def execOvRetractTimeout (s : State) : Result := .next (if s.get PWR.PWR_STAT.OV1 = 1 then retractAll s else s)

/-! Hold-up (R419-R423). -/

/-- IN5_LOSS (R419). -/
def execIn5Loss (s : State) : Result :=
  .next (raiseIf (s.get PWR.PWR_STAT.IN5_OK = 1) (s.put PWR.PWR_STAT.IN5_OK 0) pwrPage 8 7)

/-- IN5_RETURN (R419). -/
def execIn5Return (s : State) : Result := .next (s.put PWR.PWR_STAT.IN5_OK 1)

/-- HOLDUP_FLOOR (R420): the speed below FLOOR_RPM, which is at least 3,000, or HUP below FLOOR_V. The floor notice crosses
Burez, unless the link is down. -/
def execHoldupFloor (rpm : BitVec 32) (hup : BitVec 16) (s : State) : Result :=
  .next (
    let low := decide (rpm.toNat < rpm16 (max 3000 (s.get PWR.HUP_CFG.FLOOR_RPM))) ||
      decide (hup.toNat < 100 * s.get PWR.HUP_CFG.FLOOR_V)
    if s.get PWR.PWR_STAT.HOLDUP = 1 && s.get PWR.PWR_STAT.FLOOR = 0 && low then
      let s := raise ((s.put PWR.VOLT.HUP hup.toNat).put PWR.PWR_STAT.FLOOR 1) pwrPage 1 7
      retractAll (s.spnMap fun x => { x with floorNotice := dieUp s 3 })
    else s)

/-- IN12_RETURN (R423): PFAIL stays asserted for now. -/
def execIn12Return (s : State) : Result :=
  .next (if s.get PWR.PWR_STAT.IN12_OK = 0 then raiseIf (pfailed s) (s.put PWR.PWR_STAT.IN12_OK 1) pwrPage 2 7 else s)


/-- HV_OK_LOSS (R232, R238). -/
def execHvOkLoss (s : State) : Result :=
  .next (if s.get MAC.MAC_CTL.HV_EN = 1 && s.get MAC.MAC_STAT.HV_OK = 1 then
    raise { s.put MAC.MAC_STAT.HV_OK 0 with mac := { s.mac with cmd := [] } } macPage 1 7
  else s)

/-- Clamp or release a voice-coil driver: FULL shows whether ILIM.FULL is in force (R224, R230). -/
def clampCoil (v : Nat) (s : State) (a : Nat) : State :=
  (s.put VCM.VCM_STAT.CLAMPED v a).put VCM.VCM_STAT.FULL (if seekPermit s a && v = 0 then 1 else 0) a

/-- Clamp or release every voice-coil driver (R59, R224). -/
def clampCoils (s : State) (v : Nat) : State := (List.range 4).foldl (clampCoil v) (s.put PWR.I12.CLAMP v)

/-- SUPPLY_CURRENT_MEASURE (R59). -/
def execSupplyCurrentMeasure (ma hup in12 : BitVec 16) (s : State) : Result :=
  .next (
    let s := ((s.put PWR.I12.MEAN ma.toNat).put PWR.VOLT.HUP hup.toNat).put PWR.VOLT.IN12 in12.toNat
    let s := s.spnMap fun x => { x with
      overCount := if 2600 < ma.toNat then min 8 (x.overCount + 1) else 0,
      under := if ma.toNat < 2400 then min 4 (x.under + 1) else 0 }
    if s.get PWR.I12.CLAMP = 0 then
      (if s.spn.overCount = 8 then raise (clampCoils s 1) pwrPage 7 7 else s)
    else if s.spn.under = 4 then clampCoils s 0
    else s)

/-- The RAIL_FAULT bits of rails that are left off: they stay set until the next cold start (R426). -/
def railsLeftOff (s : State) : Nat :=
  ((List.range 10).filter fun r => decide (3 ≤ sget 0 s.spn.railFails r) && bit (s.get PWR.RAIL_FAULT.FAULT) r).foldl
    (fun a r => a + 2 ^ r) 0

/-- A write of any PWR register (R416, R426, R430): a chopper that is not enabled is released; CHOP_STAT.CODE clears when 0b111
is written. -/
def pwrWrite (q : Req) (off : Nat) (w : Word) (s : State) : State :=
  if off = 0x054 then
    if PWR.CHOP_STAT.CODE.of w = 7 then (s.put PWR.CHOP_STAT.CODE 0).put PWR.PWR_STAT.CHOP_FAULT 0 else s
  else if off = 0x040 then
    let t := plainWrite s q pwrPage off w
    if t.get PWR.PWR_CTL.CHOP_EN = 0 then t.spnMap fun x => { x with gated := false } else t
  else if off = 0x064 then
    let t := plainWrite s q pwrPage off w
    t.put PWR.RAIL_FAULT.FAULT (t.get PWR.RAIL_FAULT.FAULT ||| railsLeftOff s)
  else plainWrite s q pwrPage off w

end Sys2Proof.Machine
end

