-- ==== Sys2Proof/Machine/Nvs.lean ====
section
/-! DEFINITION. Keel's flash array and NVS (chapter "Keel flash and the event recorder"): cells, journal, sequences,
operations, scan, reads and transfers. -/

namespace Sys2Proof.Machine

open Sys2Proof

/-- The page of NVS. -/
def nvsPage : Page := ⟨.nvs, 0⟩
/-- Words of the array (R471). -/
def nvWords : Nat := 2097152
/-- Words of a unit (R471). -/
def unitWords : Nat := 2048
/-- An erased word (R471). -/
def allOnes : Nat := 2 ^ 256 - 1

/-- Change NVS beyond its registers. -/
def State.nvMap (s : State) (f : Nv → Nv) : State := { s with nv := f s.nv }

/-! Cells (R471, R473, R479, R481, R484). -/

/-- A word that reads as programmed or erased, not unpredictably (R479, R481, R483, R484). -/
def nvSteady (s : State) (w : Nat) : Bool :=
  !s.nv.broken.contains w && !s.nv.cut.contains (w / unitWords) && !s.nv.half.contains (w / unitWords)

/-- The data of a word as stored (R471). -/
def nvData (s : State) (w : Nat) : Nat := (sget none s.nv.words w).getD allOnes

/-- Word `i` of what is stored from unit `first` on: words 1-2,047 of its units in order, word 0 holding no data (R472;
log 51). -/
def storedWord (first i : Nat) : Nat := (first + i / 2047) * 2048 + 1 + i % 2047

/-- `n` bytes of what is stored from unit `first` on. -/
def storedBytes (s : State) (first n : Nat) : List Nat :=
  ((List.range ((n + 31) / 32)).flatMap fun i => leBytes 32 (nvData s (storedWord first i))).take n

/-- A word that reads blank at erase-verify margin (R479). -/
def nvBlank (s : State) (w : Nat) : Bool :=
  (sget none s.nv.words w).isNone && !s.nv.broken.contains w && !s.nv.cut.contains (w / unitWords)

/-- Program a word (R473). -/
def nvProgram (s : State) (w data : Nat) : State :=
  s.nvMap fun x => { x with words := sset none x.words w (some (data % 2 ^ 256)) }

/-- A program that failed or was interrupted: the word's content is unpredictable (R479, R484). -/
def nvBreak (s : State) (w : Nat) : State :=
  s.nvMap fun x => { x with words := sdel x.words w, broken := if x.broken.contains w then x.broken else x.broken ++ [w] }

/-- A unit is erased (R481). -/
def nvErase (s : State) (u : Nat) : State :=
  s.nvMap fun x => { x with
    words := x.words.filter fun e => e.1 / unitWords ≠ u
    broken := x.broken.filter fun w => w / unitWords ≠ u
    cut := x.cut.erase u
    half := x.half.erase u }

/-- An erase was cut short or did not verify: the unit is half-erased (R481, R484). -/
def nvCut (s : State) (u : Nat) : State :=
  let s := nvErase s u
  s.nvMap fun x => { x with cut := x.cut ++ [u], half := x.half ++ [u] }

/-- A record of the journal or a completion word (R481). -/
def nvRecord (magic u seq erases : Nat) : Nat :=
  let b := leBytes 4 magic ++ leBytes 2 u ++ [0, 0] ++ leBytes 4 seq ++ leBytes 4 erases ++ List.replicate 12 0
  leNat (b ++ leBytes 4 (crc32c b))

/-- MAGIC of an intent record. -/
def intentMagic : Nat := 0x4B494E54
/-- MAGIC of a completion word. -/
def completeMagic : Nat := 0x4B434D50

/-- UNIT, SEQ and ERASES of a valid record of the given MAGIC (R481). -/
def nvParse (magic data : Nat) : Option (Nat × Nat × Nat) :=
  let b := leBytes 32 data
  if bits data 0 32 = magic && crc32c (b.take 28) = bits data 224 32 then
    some (bits data 32 16, bits data 64 32, bits data 96 32)
  else none

/-- The record a word holds, if it reads steadily. -/
def nvRead (s : State) (magic w : Nat) : Option (Nat × Nat × Nat) :=
  if nvSteady s w then nvParse magic (nvData s w) else none

/-- The words programmed in a unit, by word index, rising. -/
def nvUnit (s : State) (u : Nat) : List Nat := (s.nv.words.filter fun e => e.1 / unitWords = u).map (·.1)

/-- The valid intent records of a journal unit: word, unit, SEQ, ERASES (R481). -/
def nvIntents (s : State) (j : Nat) : List (Nat × Nat × Nat) :=
  (nvUnit s j).filterMap fun w => if w % unitWords = 0 then none else nvRead s intentMagic w

/-- The greatest SEQ among records. -/
def topSeq (l : List (Nat × Nat × Nat)) : Nat := l.foldl (fun m r => max m r.2.1) 0

/-- The completion word of a unit, if valid (R472, R481). -/
def completion (s : State) (u : Nat) : Option (Nat × Nat × Nat) :=
  (nvRead s completeMagic (u * unitWords)).bind fun r => if r.1 = u then some r else none

/-- How recent journal unit `j` is: twice the highest SEQ of its intents, or its completion word's plus one half; 0 with
no valid record (R482; DEDUCED: the unit just erased is the active one, log 39). -/
def journalRank (s : State) (j : Nat) : Nat :=
  let a := 2 * topSeq (nvIntents s j)
  match completion s j with
  | some r => if topSeq (nvIntents s (1 - j)) = r.2.1 then max a (2 * r.2.1 + 1) else a
  | none => a

/-- NEXT: the word after the last one of the unit that is not blank (R482). -/
def journalNext (s : State) (j : Nat) : Nat :=
  let l := (nvUnit s j ++ s.nv.broken.filter fun w => w / unitWords = j).map (· % unitWords)
  max 1 (l.foldl (fun m w => max m (w + 1)) 0)

/-- JOURNAL and JSEQ as a reading of both units gives them (R482, R483). -/
def journalScan (s : State) : State :=
  let a := if journalRank s 0 < journalRank s 1 then 1 else 0
  let seq := max (topSeq (nvIntents s 0)) (topSeq (nvIntents s 1))
  ((s.put NVS.JOURNAL.ACTIVE a).put NVS.JOURNAL.NEXT (min 0x7FF (journalNext s a))).put NVS.JSEQ.SEQ seq

/-- Blank words left in the active journal unit. -/
def journalRoom (s : State) : Nat := unitWords - journalNext s (s.get NVS.JOURNAL.ACTIVE)

/-! Lock sector (R486, R487). -/

/-- LOCK_STAT follows the lock sector (R496). -/
def lockSync (s : State) : State :=
  let open1 := s.nv.openWord && !s.nv.closedWord
  (s.put NVS.LOCK_STAT.LEVEL s.nv.level).put NVS.LOCK_STAT.SLOT1_OPEN (if open1 then 1 else 0)

/-- The array, the lock sector and the slot-1 words after a lowering to `level` (R487). -/
def lowered (s : State) (level : Nat) : State :=
  let s := s.nvMap fun x => { x with
    words := []
    broken := []
    cut := []
    half := []
    level := level
    lowering := none
    openWord := true
    closedWord := false }
  let s := (s.put NVS.LOCK_STAT.LOWERING 0).put NVS.HALF_CNT.UNITS 0
  raise (journalScan (lockSync s)) nvsPage 6 7

/-! Operations (R477-R484). -/

/-- NVS_STAT follows what NVS does (R496). -/
def nvsSync (s : State) : State :=
  let b := fun (c : Bool) => if c then 1 else 0
  let s := s.put NVS.NVS_STAT.BUSY (b s.nv.op.isSome)
  let s := s.put NVS.NVS_STAT.OWNER ((s.nv.op.map (·.owner)).getD 0)
  let s := s.put NVS.NVS_STAT.PENDING (b (s.nv.waiting.any fun o => o.owner = 0))
  let s := s.put NVS.NVS_STAT.SEQ_OPEN (b s.nv.seq.isSome)
  let low := match s.nv.op with | some o => o.kind = 4 | none => false
  s.put NVS.LOCK_STAT.LOWERING (b (low || (s.nv.lowering.isSome && s.get NVS.NVS_STAT.SCANNING = 1)))

/-- RESULT of a firmware operation, with its event and counter (R496, R497). -/
def nvsResult (s : State) (r : Nat) : State :=
  let s := s.put NVS.NVS_STAT.RESULT r
  let s := if r = 1 then s.bump NVS.REFUSE_CNT.NOT_BLANK else if r = 3 then s.bump NVS.REFUSE_CNT.SEQ_ERR else s
  raise s nvsPage (if r = 0 then 0 else 1) 7

/-- The EVR region's units: first and past the last (R498). -/
def evrRegion (s : State) : Nat × Nat :=
  let f := s.get EVR.REGION.FIRST
  (f, min 1024 (f + max 1 (s.get EVR.REGION.UNITS)))

/-- What refuses a PROGRAM or an ERASE, as a RESULT code (R480, R482). EVR's own operations are not refused by the rule
that guards its region from others (log 39). -/
def nvsRefuses (s : State) (o : NvOp) : Option Nat :=
  let u := o.word / unitWords
  let r := evrRegion s
  let inactive := 1 - s.get NVS.JOURNAL.ACTIVE
  if nvWords ≤ o.word then some 4
  else if o.kind = 1 && o.word % unitWords = 0 then some 10
  else if u < 2 && !(o.kind = 2 && u = inactive) then some 10
  else if 2 ≤ u && u ≤ 65 && s.nv.level ≠ 0 && !(s.nv.openWord && !s.nv.closedWord) then some 10
  else if o.owner = 0 && r.1 ≤ u && u < r.2 && s.get EVR.EVR_CTL.COMMIT_EN = 1 then some 10
  else if o.kind = 1 then
    (if s.nv.half.contains u then some 6 else if !nvBlank s o.word then some 1 else none)
  else if journalRoom s < (if u = inactive then 1 else 2) then some 8
  else none

/-- The new erase count of a unit (R481): one more than its completion word's, else than its latest intent's. -/
def eraseCount (s : State) (u : Nat) : Nat :=
  match completion s u with
  | some r => r.2.2 + 1
  | none =>
    let l := (nvIntents s 0 ++ nvIntents s 1).filter fun r => r.1 = u
    ((l.find? fun r => r.2.1 = topSeq l).map fun r => r.2.2 + 1).getD 1

/-- Quarters a word needs are powered up first, by Keel itself (R552). -/
def quarterUp (s : State) (w : Nat) : State :=
  let d := 92 + w / 524288 % 4
  if (s.dom d).powered || s.wires.drst.contains (domainDie d) then s else powerUp s d

/-- The operation runs. -/
def nvRun (s : State) (o : NvOp) : State := nvsSync (s.nvMap fun x => { x with op := some o })

/-- Begin an erase with its intent record (R481). -/
def beginErase (s : State) (o : NvOp) : State :=
  let u := o.word / unitWords
  let a := s.get NVS.JOURNAL.ACTIVE
  let n := journalNext s a
  let seq := (s.get NVS.JSEQ.SEQ + 1) % 2 ^ 32
  let e := eraseCount s u
  let s := nvProgram (quarterUp s 0) (a * unitWords + n) (nvRecord intentMagic u seq e)
  let s := (s.put NVS.JSEQ.SEQ seq).put NVS.JOURNAL.NEXT (min 0x7FF (n + 1))
  nvRun s { o with intent := (seq, e) }

/-- LOCK_RAISE and LOCK_LOWER (R487, R544): keeper privilege, and for a lowering the unlock authorisation; a level that
does not change in the named direction gives RANGE (log 39). -/
def beginLock (s : State) (o : NvOp) : State :=
  let l := o.word % 4
  let keep := (o.req.map keeper).getD false
  if !keep || (o.kind = 4 && s.get SEC.SEC_STAT.UNLOCK_OK = 0) then nvsResult s 7
  else if 2 < l || (if o.kind = 3 then decide (l ≤ s.nv.level) else decide (s.nv.level ≤ l)) then nvsResult s 4
  else nvRun (if o.kind = 4 then (s.put SEC.SEC_STAT.UNLOCK_OK 0).nvMap fun x => { x with lowering := some l } else s) o

/-- Start an operation, or end it at once with a refusal (R478-R482). A refusal of EVR's own waits for EVR_COMMIT_WORD_DONE
and NVS_ERASE_COMPLETE to be told. -/
def nvBegin (s : State) (o : NvOp) : State :=
  if 3 ≤ o.kind then beginLock s o
  else
    let s := quarterUp s o.word
    match nvsRefuses s o with
    | some r => if o.owner = 0 then nvsResult s r else nvRun s o
    | none => if o.kind = 2 then beginErase s o else nvRun s o

/-- NVS is free to serve a command: its domain runs, no operation and no scan is in progress or due (R478, R483). -/
def nvFree (s : State) : Bool :=
  domainLive s nvsPage.domain && s.nv.op.isNone && !s.nv.due && s.get NVS.NVS_STAT.SCANNING = 0

/-- Firmware operations that end with ABORTED while PFAIL stands (R484). -/
def abortPending (s : State) : State :=
  let n := (s.nv.waiting.filter fun o => o.owner = 0).length
  let s := s.nvMap fun x => { x with waiting := x.waiting.filter fun o => o.owner ≠ 0 }
  (List.range n).foldl (fun s _ => nvsResult s 9) s

/-- The refuge index port asks for service (R478, R485); over a link that is down or trains it cannot. -/
def indexAsks (s : State) : Bool := !s.sch.pl.index.isEmpty && dieUp s 4 && !dieTraining s 4

/-- NVS serves the refuge index port (R478, R485). -/
def indexOp : NvOp := ⟨2, 1, 674 * unitWords + 1, 0, none, (0, 0)⟩

/-- The next operation in the order of R478. EVR's own wait at Cox while the link to Keel trains (R28), and its erases
while PFAIL stands, for then only the port and commits are served (R484). -/
def nvPick (s : State) : Option NvOp :=
  let l := s.nv.waiting.filter fun o => !(o.owner = 1 && (dieTraining s 4 || (o.kind = 2 && s.wires.pfail)))
  match l.find? fun o => o.owner = 1 with
  | some o => some o
  | none => l.head?

/-- Serve the next waiting operation, and the ones after it that end at once (R478). -/
def nvNext (s : State) : State :=
  let step := fun (s : State) (_ : NvOp) =>
    if !nvFree s then s
    else if indexAsks s then nvRun (quarterUp s indexOp.word) indexOp
    else match nvPick s with
      | none => s
      | some o => nvBegin (s.nvMap fun x => { x with waiting := x.waiting.erase o }) o
  nvsSync ((indexOp :: s.nv.waiting).foldl step s)

/-- Hand an operation to NVS (R478, R484): a firmware one while PFAIL stands ends with ABORTED, one whose requester has an
operation pending or running with BUSY. -/
def nvSubmit (s : State) (o : NvOp) : State :=
  if o.owner = 0 && s.wires.pfail then nvsResult s 9
  else if o.owner = 0 && (s.nv.waiting ++ s.nv.op.toList).any (fun x => x.owner = 0 && x.req = o.req) then nvsResult s 5
  else nvNext (s.nvMap fun x => { x with waiting := x.waiting ++ [o] })

/-! Sequences (R477). -/

/-- A sequence ends with SEQ_ERR (R477). -/
def seqError (s : State) : State := nvsSync (nvsResult (s.nvMap fun x => { x with seq := none }) 3)

/-- A write of one of the sequence's registers by another requester than the one whose sequence is open is discarded and
counted (R477). -/
def othersSeq (s : State) (q : Req) : Bool := (s.nv.seq.map fun x => decide (x.req ≠ q)).getD false

/-- Set or complete the sequence. -/
def seqGoes (s : State) (x : NvSeq) : State :=
  let last := if x.op = 1 then 12 else 4
  if x.step = last then
    let s := s.nvMap fun v => { v with seq := none }
    nvsSync (nvSubmit s ⟨0, x.op, x.word, leNat (x.data.map (fun w => leBytes 4 w)).flatten, some x.req, (0, 0)⟩)
  else nvsSync (s.nvMap fun v => { v with seq := some x })

/-- A write of a register of the sequence (R477): `ok` says whether it is the next write, `upd` what it adds. -/
def nvSeqWrite (s : State) (q : Req) (ok : NvSeq → Bool) (upd : NvSeq → NvSeq) : State :=
  if othersSeq s q then s.bump NVS.REFUSE_CNT.OTHER
  else match s.nv.seq with
    | none => seqError s
    | some x => if ok x then seqGoes s (upd { x with step := x.step + 1 }) else seqError s

/-- A write of NVS_KEY (R477). -/
def nvsKeyWrite (q : Req) (w : Word) (s : State) : State :=
  if s.nv.seq.isNone && w.toNat = 0x6B1D then seqGoes s { req := q, step := 1 }
  else nvSeqWrite s q (fun x => x.step = 1 && w.toNat = 0x94E2) id

/-- A write of NVS_CMD (R477, R496). -/
def nvsCmdWrite (q : Req) (w : Word) (s : State) : State :=
  let op := NVS.NVS_CMD.OP.of w
  nvSeqWrite s q (fun x => x.step = 2 && 1 ≤ op && op ≤ 4) (fun x => { x with op := op })

/-- A write of NVS_ADDR (R477): the register takes the value with no sequence open, or as the sequence's next write. -/
def nvsAddrWrite (q : Req) (w : Word) (s : State) : State :=
  let ok := (s.nv.seq.map fun x => decide (x.req = q) && x.step = 3).getD true
  let t := if ok then s.put NVS.NVS_ADDR.WORD (NVS.NVS_ADDR.WORD.of w) else s
  if s.nv.seq.isNone then t
  else nvSeqWrite t q (fun x => x.step = 3) (fun x => { x with word := w.toNat })

/-- A write of NVS_DATAn (R477). -/
def nvsDataWrite (q : Req) (n : Nat) (w : Word) (s : State) : State :=
  nvSeqWrite s q (fun x => x.op = 1 && x.step = 4 + n) (fun x => { x with data := x.data ++ [w.toNat] })

/-- NVS_KEY_WRITE (R477). -/
def execNvsKeyWrite (q : Req) (w : BitVec 32) (s : State) : Result :=
  .next (guarded s q nvsPage 0x048 w (nvsKeyWrite q w))

/-- NVS_CMD_WRITE (R477). -/
def execNvsCmdWrite (q : Req) (w : BitVec 32) (s : State) : Result :=
  .next (guarded s q nvsPage 0x04C w (nvsCmdWrite q w))

/-- NVS_ADDR_WRITE (R477, R480-R482, R487). -/
def execNvsAddrWrite (q : Req) (w : BitVec 32) (s : State) : Result :=
  .next (guarded s q nvsPage 0x050 w (nvsAddrWrite q w))

/-- NVS_DATA_WRITE (R477-R480). -/
def execNvsDataWrite (q : Req) (n : Fin 8) (w : BitVec 32) (s : State) : Result :=
  .next (guarded s q nvsPage (0x054 + 4 * n.val) w (nvsDataWrite q n.val w))

/-- NVS_SEQ_TIMEOUT (R477). -/
def execNvsSeqTimeout (s : State) : Result := .next (if s.nv.seq.isSome then seqError s else s)

/-! Reading (R471, R475, R476). -/

/-- A corrected read counts, with EV260 at a multiple of 256 and at saturation (R497). -/
def nvCorrected (s : State) : State :=
  let before := s.get NVS.ERR_CNT.CORR
  let s := s.bump NVS.ERR_CNT.CORR
  let now := s.get NVS.ERR_CNT.CORR
  raiseIf (now ≠ before && (now % 256 = 0 || now = 0xFFFF)) s nvsPage 4 7

/-- An uncorrectable read counts, with EV259 (R497). -/
def nvUncorrectable (s : State) : State := raise (s.bump NVS.ERR_CNT.UNCORR) nvsPage 3 0

/-- A free 256-bit value: eight free words. -/
def free256 (s : State) : Nat × State :=
  let l := (List.range 8).map fun k => Config.freeValue (s.fresh + k) % 2 ^ 32
  (leNat (l.map (fun w => leBytes 4 w)).flatten, { s with fresh := s.fresh + 8 })

/-- What a read of word `w` delivers: data, ECC code (0 clean, 1 corrected, 2 uncorrectable, 3 erased), BLANK. Content
that is unpredictable, and three or more wrong bits, deliver free values (R471, R483, R484). -/
def nvReadWord (s : State) (w : Nat) (err : Nat) : (Nat × Nat × Bool) × State :=
  let n := (bitList 272 err).length
  let raw := nvData s w ^^^ (err % 2 ^ 256)
  let erased := (sget none s.nv.words w).isNone
  if !nvSteady s w then
    let v := free256 s
    let e := Config.freeValue v.2.fresh % 4
    ((v.1, e, v.1 = allOnes), { v.2 with fresh := v.2.fresh + 1 })
  else if n = 0 then ((raw, if erased then 3 else 0, raw = allOnes), s)
  else if n = 1 then ((nvData s w, 1, nvData s w = allOnes), nvCorrected s)
  else if n = 2 then ((raw, 2, raw = allOnes), nvUncorrectable s)
  else
    let v := Config.freeValue s.fresh % 3
    let s := s.drawn
    if v = 0 then ((raw, 0, raw = allOnes), s)
    else if v = 1 then
      let d := free256 s
      ((d.1, 1, d.1 = allOnes), nvCorrected d.2)
    else ((raw, 2, raw = allOnes), nvUncorrectable s)

/-- The debug port may not read the array at a lock level above 0 (R486). -/
def arrayOpen (s : State) (q : Req) : Bool := q.cls.val ≠ 7 || s.nv.level = 0

/-- A read of RD_DATA0 once NVS is free (R9, R475). -/
def wordRead (q : Req) (err : Nat) (s : State) : Nat × State :=
  if !arrayOpen s q then (0, s)
  else
    let w := s.get NVS.RD_ADDR.WORD
    let r := nvReadWord (quarterUp s w) w err
    let s := (r.2.put NVS.RD_STAT.ECC r.1.2.1).put NVS.RD_STAT.BLANK (if r.1.2.2 then 1 else 0)
    let ws := (List.range 8).map fun k => bits r.1.1 (32 * k) 32
    let s := (List.range 8).foldl (fun s k => s.put NVS.RD_DATA.DATA (bits r.1.1 (32 * k) 32) 0 k) s
    (bits r.1.1 0 32, latchWords s q (nvsPage.base + 0x07C) (ws.drop 1))

/-- Array reads stall while an operation or a scan runs (R476). -/
def arrayBusy (s : State) : Bool := s.nv.op.isSome || s.get NVS.NVS_STAT.SCANNING = 1

/-- NVS_WORD_READ (R9, R475, R476, R552). -/
def execNvsWordRead (q : Req) (error : BitVec 272) (s : State) : Result :=
  .next (
    if arrayBusy s && arrayOpen s q && reach s q nvsPage = .reached then
      (s.reply 0 []).wait ⟨.keel, q, nvsPage.base + 0x078, none⟩
    else guardedRead s q nvsPage 0x078 (wordRead q error.toNat))

/-- Serve the reads that stalled (R476): they find the array as it now is. -/
def serveStalled (s : State) : State :=
  if arrayBusy s then s
  else
    let l := s.waiting.filter fun x => x.why = .keel
    let s := { s with waiting := s.waiting.filter fun x => x.why ≠ .keel }
    State.serveEach l (fun s x => let r := wordRead x.req 0 s; r.2.reply 0 [r.1]) s

/-- The operation ends (R478): stalled reads are served, then the next operation. -/
def nvEnd (s : State) : State := nvNext (serveStalled (nvsSync (s.nvMap fun x => { x with op := none })))

/-- A write of XFER_CTL (R475): GO is ignored while BUSY; a range beyond the array or the destination, and a copy by the
debug port above level 0 (R486), are REFUSED. -/
def xferWrite (q : Req) (w : Word) (s : State) : State :=
  let busy := s.get NVS.XFER_CTL.BUSY = 1
  let s := plainWrite s q nvsPage 0x0A4 w
  if NVS.XFER_CTL.GO.of w = 0 || busy then s
  else
    let src := s.get NVS.XFER_SRC.WORD
    let n := if s.get NVS.XFER_CTL.WORDS = 0 then 65536 else s.get NVS.XFER_CTL.WORDS
    let dst := s.get NVS.XFER_DST.ADDR * 32
    let tcm := s.get NVS.XFER_CTL.DST_TCM = 1
    let top := if tcm then 4194304 else usableBytes s
    if nvWords < src + n || top < dst + 32 * n || !arrayOpen s q then s.put NVS.XFER_CTL.RESULT 2
    else (s.put NVS.XFER_CTL.BUSY 1).nvMap fun x => { x with xfer := some (src, n, dst, tcm) }

/-- NVS_TRANSFER_START (R475, R476). -/
def execNvsTransferStart (q : Req) (w : BitVec 32) (s : State) : Result :=
  .next (guarded s q nvsPage 0x0A4 w (xferWrite q w))

/-- Copy words in turn; an uncorrectable one carries a poison mark (R475). Gives whether any did. -/
def xferCopy (errors : List (Nat × BitVec 272)) (tcm : Bool) : State → List Nat → Nat → Bool → Bool × State
  | s, [], _, bad => (bad, s)
  | s, w :: ws, dst, bad =>
    let e := ((errors.find? fun e => e.1 = w).map fun e => e.2.toNat).getD 0
    let r := nvReadWord (quarterUp s w) w e
    let u := r.1.2.1 = 2
    xferCopy errors tcm (spaceWrite r.2 tcm dst (leBytes 32 r.1.1) u) ws (dst + 32) (bad || u)

/-- NVS_TRANSFER_COMPLETE (R475, R476): not while an operation or a scan runs. -/
def execNvsTransferComplete (errors : List (Nat × BitVec 272)) (s : State) : Result :=
  .next (
    match s.nv.xfer with
    | none => s
    | some (src, n, dst, tcm) =>
      if arrayBusy s || !domainLive s nvsPage.domain then s
      else
        let r := xferCopy errors tcm s ((List.range n).map (· + src)) dst false
        let s := (r.2.put NVS.XFER_CTL.BUSY 0).put NVS.XFER_CTL.RESULT (if r.1 then 1 else 0)
        s.nvMap fun x => { x with xfer := none })

/-! Completions (R479, R481, R484, R487). -/

/-- A firmware operation ends with a RESULT. -/
def fwEnd (s : State) (r : Nat) : State := nvEnd (nvsResult s r)

/-- NVS_PROGRAM_COMPLETE (R479). -/
def execNvsProgramComplete (verified : Bool) (s : State) : Result :=
  .next (
    match s.nv.op with
    | some o =>
      if o.owner = 0 && o.kind = 1 then
        (if verified then fwEnd (nvProgram s o.word o.data) 0
         else fwEnd ((nvBreak s o.word).bump NVS.REFUSE_CNT.VERIFY_FAIL) 2)
      else s
    | none => s)

/-- An erase has verified (R481, R482): completion word, wear event, and the erased journal unit becomes the active one. -/
def eraseDone (s : State) (o : NvOp) : State :=
  let u := o.word / unitWords
  let s := nvProgram (nvErase s u) (u * unitWords) (nvRecord completeMagic u o.intent.1 o.intent.2)
  let s := raiseIf (o.intent.2 = s.get NVS.WEAR_CFG.WEAR_WARN) s nvsPage 7 7
  let s := s.put NVS.HALF_CNT.UNITS s.nv.half.length
  if u < 2 then (s.put NVS.JOURNAL.ACTIVE u).put NVS.JOURNAL.NEXT (journalNext s u) else s

/-- An erase has not verified (R481). -/
def eraseFails (s : State) (o : NvOp) : State :=
  let s := nvCut s (o.word / unitWords)
  (s.put NVS.HALF_CNT.UNITS s.nv.half.length).bump NVS.REFUSE_CNT.VERIFY_FAIL

/-- LOCK_RAISE_COMPLETE (R487). -/
def execLockRaiseComplete (s : State) : Result :=
  .next (
    match s.nv.op with
    | some o =>
      if o.kind = 3 then
        fwEnd (raise (lockSync (s.nvMap fun x => { x with level := o.word % 4 })) nvsPage 6 7) 0
      else s
    | none => s)

/-- LOCK_LOWER_COMPLETE (R487, R544). -/
def execLockLowerComplete (s : State) : Result :=
  .next (
    match s.nv.op with
    | some o => if o.kind = 4 then fwEnd (lowered s (o.word % 4)) 0 else s
    | none => s)

/-! Scan (R483). -/

/-- A scan reads every quarter of the array, so each is powered up first (R483, R552). -/
def quartersUp (s : State) : State := (List.range 4).foldl (fun s k => quarterUp s (524288 * k)) s

/-- A scan is due, and starts once no operation runs (R483). -/
def scanDue (s : State) : State := s.nvMap fun x => { x with due := true }

/-- Start a scan that is due. -/
def scanStart (s : State) : State :=
  if s.nv.due && s.nv.op.isNone && s.get NVS.NVS_STAT.SCANNING = 0 && domainLive s nvsPage.domain then
    nvsSync (((quartersUp s).put NVS.NVS_STAT.SCANNING 1).nvMap fun x => { x with due := false })
  else s

/-- A write of NVS_CTL (R483, R487): SLOT1_CLOSE needs keeper privilege. -/
def nvsCtlWrite (q : Req) (w : Word) (s : State) : State :=
  let s := if NVS.NVS_CTL.SLOT1_CLOSE.of w = 1 && keeper q then
      lockSync (s.nvMap fun x => { x with closedWord := true })
    else s
  if NVS.NVS_CTL.SCAN.of w = 1 then (if s.get NVS.NVS_STAT.SCANNING = 1 then s else scanStart (scanDue s)) else s

/-- NVS_SCAN_START (R483). -/
def execNvsScanStart (write : Option (Req × BitVec 32)) (s : State) : Result :=
  .next (match write with
    | none => scanStart s
    | some (q, w) => guarded s q nvsPage 0x040 w (nvsCtlWrite q w))

/-- SLOT1_CLOSE (R487). -/
def execSlot1Close (q : Req) (w : BitVec 32) (s : State) : Result :=
  .next (guarded s q nvsPage 0x040 w (nvsCtlWrite q w))

/-- A unit named by an intent record whose completion word is not valid with the same SEQ (R483). -/
def scanHalf (s : State) (u : Nat) : Bool :=
  let l := (nvIntents s 0 ++ nvIntents s 1).filter fun r => r.1 = u
  match (if s.nv.cut.contains u then none else nvParse completeMagic (nvData s (u * unitWords))) with
  | some r => !(r.1 = u && r.2.1 = topSeq l) || s.nv.broken.contains (u * unitWords)
  | none => true

/-- NVS_SCAN_COMPLETE (R482, R483, R487): a lowering that the mark names is completed first. -/
def execNvsScanComplete (rough : List (Fin 1024)) (s : State) : Result :=
  .next (
    if s.get NVS.NVS_STAT.SCANNING = 0 then s
    else
      let s := match s.nv.lowering with | some l => lowered s l | none => s
      let s := journalScan s
      let named := ((nvIntents s 0 ++ nvIntents s 1).map (·.1)).eraseDups
      let half := named.filter fun u => scanHalf s u || rough.any fun r => r.val = u
      let s := s.nvMap fun x => { x with half := half }
      let s := half.foldl (fun s _ => raise s nvsPage 2 0) (s.put NVS.HALF_CNT.UNITS half.length)
      nvNext (serveStalled (nvsSync (s.put NVS.NVS_STAT.SCANNING 0))))

/-! Loss of power (R484). -/

/-- The operation in progress is aborted (R484): an erase leaves its unit half-erased, an interrupted program its word
unpredictable. -/
def nvAbort (s : State) : State :=
  match s.nv.op with
  | none => s
  | some o =>
    let s := if o.kind = 2 then nvCut s (o.word / unitWords) else if o.kind = 1 then nvBreak s o.word else s
    let s := raise (s.put NVS.HALF_CNT.UNITS s.nv.half.length) nvsPage 5 7
    let s := s.nvMap fun x => { x with op := none }
    nvsSync (if o.owner = 0 then nvsResult s 9 else s)

/-- PFAIL at NVS (R484): an erase is aborted, a program finishes, firmware operations end with ABORTED. -/
def nvsPfail (s : State) : State :=
  if !domainLive s nvsPage.domain then s
  else
    let s := match s.nv.op with | some o => if o.kind = 2 || o.kind = 4 then nvAbort s else s | none => s
    nvNext (serveStalled (abortPending s))

/-- Every operation stops: VKEEL has left its window, or the domain is reset or powered down (R484; log 39). -/
def nvsStop (s : State) : State :=
  let s := abortPending (nvAbort s)
  let s := s.nvMap fun x => { x with waiting := [], seq := none, xfer := none, due := true }
  nvsSync ((s.put NVS.NVS_STAT.SCANNING 0).put NVS.XFER_CTL.BUSY 0)

/-! Registers (R496). -/

/-- UNIT_INFO of the selected unit (R496). -/
def unitInfo (s : State) : Nat :=
  let u := s.get NVS.UNIT_WIN.UNIT
  let h := if s.nv.half.contains u then 2 ^ 31 else 0
  match completion s u with
  | some r => h + 2 ^ 30 + r.2.2 % 2 ^ 22
  | none => h

/-- WEAR_STAT: the unit with the greatest count in a completion word, the lowest of several (R496). -/
def wearStat (s : State) : Nat :=
  let l := s.nv.words.filterMap fun e => if e.1 % unitWords = 0 then completion s (e.1 / unitWords) else none
  let m := l.foldl (fun m r => max m r.2.2) 0
  match l.find? fun r => r.2.2 = m with
  | some r => r.1 * 2 ^ 22 + m % 2 ^ 22
  | none => 0

/-- A write of any NVS register (R496). -/
def nvsWrite (q : Req) (off : Nat) (w : Word) (s : State) : State :=
  if off = 0x040 then nvsCtlWrite q w s
  else if off = 0x048 then nvsKeyWrite q w s
  else if off = 0x04C then nvsCmdWrite q w s
  else if off = 0x050 then nvsAddrWrite q w s
  else if 0x054 ≤ off ∧ off ≤ 0x070 then nvsDataWrite q ((off - 0x054) / 4) w s
  else if off = 0x0A4 then xferWrite q w s
  else plainWrite s q nvsPage off w

end Sys2Proof.Machine
end

