-- ==== Sys2Proof/Machine/Recorder.lean ====
section
/-! DEFINITION. The event recorder EVR (chapter "Keel flash and the event recorder"). -/

namespace Sys2Proof.Machine

open Sys2Proof

/-- The page of EVR. -/
def evrPage : Page := ⟨.evr, 0⟩

/-- Change EVR beyond its registers. -/
def State.evrMap (s : State) (f : Evr → Evr) : State := { s with evr := f s.evr }

/-- The 32 bytes of a record (R490, R495): SECONDS and CYCLES are zero until both are loaded. -/
def recordBytes (s : State) (seq : Nat) (r : Rec) : List Nat :=
  let on := s.get EVR.EVR_STAT.LOADED = 1
  let sec := s.get EVR.SECONDS_LO.SECONDS + 2 ^ 32 * s.get EVR.SECONDS_HI.SECONDS
  let b := leBytes 5 (if on then sec else 0) ++ leBytes 4 (if on then s.get EVR.CYCLES.COUNT else 0) ++ leBytes 4 seq ++
    [0] ++ leBytes 2 (r.source * 4096 + r.level * 512 + r.event % 512) ++ leBytes 2 r.code ++
    (r.data ++ List.replicate 10 0).take 10
  b ++ leBytes 4 (crc32c b)

/-- A record's bytes check (R492, R494). -/
def recordOk (b : List Nat) : Bool := crc32c (b.take 28) = leNat (b.drop 28)
/-- SEQ of a record. -/
def recordSeq (b : List Nat) : Nat := leNat ((b.drop 9).take 4)

/-- Records the stage ring holds: 2^LOG2, LOG2 held between 8 and 16 (R498). -/
def stageSize (s : State) : Nat := 2 ^ min 16 (max 8 (s.get EVR.STAGE_CFG.LOG2))

/-- Address of the stage ring's slot of a record: SEQ modulo the ring's size (log 40). -/
def stageAddr (s : State) (seq : Nat) : Nat := s.get EVR.STAGE_BASE.ADDR * 4096 + 32 * (seq % stageSize s)

/-- STAGED counts the records in the stage ring and, while STAGE_EN is 0, the queued ones (R498). -/
def stagedSync (s : State) : State :=
  let n := s.evr.stage.length + (if s.get EVR.EVR_CTL.STAGE_EN = 0 then s.evr.queue.length else 0)
  s.put EVR.EVR_STAT.STAGED (min n 0xFFFF)

/-- EVR passes records on: in RUN and EASING (R492). -/
def evrActive (s : State) : Bool :=
  domainLive s 2 && (pageState s evrPage = stRun || pageState s evrPage = stEasing)

/-- Give the next record number. -/
def takeSeq (s : State) : Nat × State :=
  let n := s.get EVR.SEQ_NEXT.SEQ
  (n, s.put EVR.SEQ_NEXT.SEQ ((n + 1) % 2 ^ 32))

/-- The oldest queued record goes to the stage ring, if it can (R492, R494, R615). -/
def stageOne (s : State) : State :=
  match s.evr.queue with
  | [] => s
  | r :: q =>
    if evrActive s && s.get EVR.EVR_STAT.READY = 1 && s.get EVR.EVR_CTL.STAGE_EN = 1 &&
        decide (s.evr.stage.length < stageSize s) then
      let t := takeSeq s
      let s := memWrite t.2 (stageAddr t.2 t.1) (recordBytes s t.1 r)
      s.evrMap fun x => { x with queue := q, stage := x.stage ++ [t.1] }
    else s

/-- Queued records pass into the stage ring as far as it has room (R492). -/
def evrPass (s : State) : State := stagedSync (s.evr.queue.foldl (fun s _ => stageOne s) s)

/-- A record is dropped (R492). -/
def evrDrop (s : State) : State := raise (s.bump EVR.DROP_CNT.DROPPED) evrPage 1 7

/-- The oldest record on its way reaches EVR (R491, R492). -/
def evrAccept (s : State) : State :=
  match s.evr.arriving with
  | [] => s
  | r :: l =>
    let s := s.evrMap fun x => { x with arriving := l }
    if !domainLive s 2 then s
    else if !recorderOpen s then evrDrop s
    else if s.evr.queue.length < 64 then evrPass (s.evrMap fun x => { x with queue := x.queue ++ [r] })
    else evrDrop s

/-! The region (R493, R615). -/

/-- A unit holds data words that are not blank. -/
def unitDirty (s : State) (u : Nat) : Bool :=
  s.nv.cut.contains u || s.nv.half.contains u ||
    (nvUnit s u ++ s.nv.broken.filter fun w => w / unitWords = u).any fun w => w % unitWords ≠ 0

/-- SEQ and word of the records of the region whose CRC checks. -/
def evrRecords (s : State) : List (Nat × Nat) :=
  let r := evrRegion s
  s.nv.words.filterMap fun e =>
    let u := e.1 / unitWords
    let b := leBytes 32 (nvData s e.1)
    if r.1 ≤ u && u < r.2 && e.1 % unitWords ≠ 0 && nvSteady s e.1 && recordOk b then some (recordSeq b, e.1) else none

/-- The units of the region from HEAD's on, with the wrap. -/
def regionFromHead (s : State) : List Nat :=
  let r := evrRegion s
  let h := s.get EVR.HEAD.UNIT
  (List.range (r.2 - h)).map (· + h) ++ (List.range (h - r.1)).map (· + r.1)

/-- OLDEST: the lowest SEQ in the region, or one past NEWEST when it holds none (log 40). -/
def setOldest (s : State) : State :=
  match (evrRecords s).map (·.1) with
  | [] => s.put EVR.OLDEST.SEQ ((s.get EVR.NEWEST.SEQ + 1) % 2 ^ 32)
  | a :: l => s.put EVR.OLDEST.SEQ (l.foldl min a)

/-- EV264 when fewer than RECLAIM_AHEAD blank units remain ahead of HEAD (R493). -/
def checkAhead (s : State) : State :=
  let n := ((regionFromHead s).drop 1).countP fun u => !unitDirty s u
  if n < max 1 (s.get EVR.RECLAIM_CFG.AHEAD) then
    raiseIf (!s.evr.warned) (s.evrMap fun x => { x with warned := true }) evrPage 0 7
  else s.evrMap fun x => { x with warned := false }

/-- HEAD moves to the next word, from a unit's last to the next unit's first (R493). -/
def headAdvance (s : State) : State :=
  let w := s.get EVR.HEAD.WORD + 1
  checkAhead (if w < unitWords then s.put EVR.HEAD.WORD w
    else
      let r := evrRegion s
      let u := s.get EVR.HEAD.UNIT + 1
      (s.put EVR.HEAD.WORD 1).put EVR.HEAD.UNIT (if u < r.2 then u else r.1))

/-! Commits (R492, R493). -/

/-- Commits may run. -/
def evrCommits (s : State) : Bool :=
  evrActive s && dieUp s 4 && s.get EVR.EVR_STAT.READY = 1 && s.get EVR.EVR_CTL.COMMIT_EN = 1 && !s.evr.reading && !s.evr.blocked

/-- The commit ends. -/
def commitEnd (s : State) : State :=
  stagedSync ((s.put EVR.EVR_STAT.COMMITTING 0).evrMap fun x => { x with left := 0 })

/-- Read a staged record back (R492). -/
def stagedRead (s : State) (seq : Nat) : Option (List Nat) × State :=
  let r := memRead s .other (stageAddr s seq) 32
  if r.1.poison || !recordOk r.1.bytes || recordSeq r.1.bytes ≠ seq then (none, r.2) else (some r.1.bytes, r.2)

/-- The next record of the commit, dropping staged ones that do not check (R492). -/
def commitTake : Nat → State → State
  | 0, s => s
  | n + 1, s =>
    if s.evr.left = 0 then s
    else match s.evr.stage with
      | seq :: rest =>
        let r := stagedRead s seq
        match r.1 with
        | some b => r.2.evrMap fun x => { x with cur := some (seq, b, true) }
        | none => commitTake n (evrDrop (r.2.evrMap fun x => { x with stage := rest, left := x.left - 1 }))
      | [] =>
        match s.evr.queue with
        | [] => s.evrMap fun x => { x with left := 0 }
        | q :: rest =>
          if s.get EVR.EVR_CTL.STAGE_EN = 1 then s.evrMap fun x => { x with left := 0 }
          else
            let t := takeSeq s
            t.2.evrMap fun x => { x with queue := rest, cur := some (t.1, recordBytes s t.1 q, false) }

/-- HEAD has reached a unit that is not blank (R493). -/
def regionFull (s : State) : State :=
  let u := s.get EVR.HEAD.UNIT
  if s.get EVR.EVR_CTL.AUTO_RECLAIM = 0 then commitEnd (s.evrMap fun x => { x with blocked := true })
  else
    let mark := s.get EVR.RECLAIM_MARK.SEQ
    let lost := (evrRecords s).countP fun e => e.2 / unitWords = u && decide (mark < e.1)
    let s := if lost = 0 then s else raise (s.bump EVR.DROP_CNT.LOST lost) evrPage 2 7
    nvSubmit (s.evrMap fun x => { x with erasing := some (u, true) }) ⟨1, 2, u * unitWords, 0, none, (0, 0)⟩

/-- The commit goes on with its next record, or ends (R492, R493). -/
def commitStep (s : State) : State :=
  if !evrCommits s then commitEnd s
  else
    let s := if s.evr.cur.isNone then commitTake (s.evr.stage.length + 1) s else s
    match s.evr.cur with
    | none => commitEnd s
    | some c =>
      if s.get EVR.HEAD.WORD = 1 && unitDirty s (s.get EVR.HEAD.UNIT) then regionFull s
      else nvSubmit s ⟨1, 1, s.get EVR.HEAD.UNIT * unitWords + s.get EVR.HEAD.WORD, leNat c.2.1, none, (0, 0)⟩

/-- EVR_COMMIT_START (R492): after PFAIL, without waiting for COMMIT_CNT or COMMIT_MS. -/
def execEvrCommitStart (elapsed : Bool) (s : State) : Result :=
  .next (
    let n := s.evr.stage.length + (if s.get EVR.EVR_CTL.STAGE_EN = 0 then s.evr.queue.length else 0) +
      (if s.evr.cur.isSome && !((s.evr.cur.map fun c => c.2.2).getD true) then 1 else 0)
    let due := decide (max 1 (s.get EVR.STAGE_CFG.COMMIT_CNT) ≤ n) || ((elapsed || s.wires.pfail) && decide (0 < n))
    if !due || !evrCommits s || s.get EVR.EVR_STAT.COMMITTING = 1 || s.evr.erasing.isSome then s
    else commitStep ((s.put EVR.EVR_STAT.COMMITTING 1).evrMap fun x => { x with left := n }))

/-- NVS is done with an EVR operation: EVR's next one comes before a firmware operation (R478). -/
def evrNvEnd (s : State) (f : State → State) : State :=
  nvNext (f (serveStalled (nvsSync (s.nvMap fun x => { x with op := none }))))

/-- A commit word's program has ended (R492, R493). -/
def evrWordDone (s : State) (verified : Bool) : State :=
  match s.nv.op with
  | none => s
  | some o =>
    if o.owner ≠ 1 || o.kind ≠ 1 then s
    else
      let seq := bits o.data 72 32
      match nvsRefuses s o with
      | some r =>
        let s := raise s evrPage 3 0
        if r = 6 then evrNvEnd (s.put EVR.HEAD.WORD 1) regionFull
        else evrNvEnd (headAdvance s) commitStep
      | none =>
        if verified then
          let s := nvProgram s o.word o.data
          let s := s.evrMap fun x => { x with stage := x.stage.filter (· ≠ seq), cur := none, left := x.left - 1 }
          let s := setOldest (s.put EVR.NEWEST.SEQ seq)
          evrNvEnd (evrPass (headAdvance s)) commitStep
        else
          let s := raise ((nvBreak s o.word).bump NVS.REFUSE_CNT.VERIFY_FAIL) evrPage 3 0
          evrNvEnd (headAdvance s) commitStep

/-- A region unit's erase has ended (R493); a refused one has no intent. -/
def evrEraseDone (s : State) (o : NvOp) (verified : Bool) : State :=
  let auto := (s.evr.erasing.map (·.2)).getD false
  let s := s.evrMap fun x => { x with erasing := none }
  if verified && o.intent.2 ≠ 0 then
    let s := checkAhead (setOldest ((eraseDone s o).evrMap fun x => { x with blocked := false }))
    evrNvEnd s fun s => if auto then commitStep s else s
  else
    let s := if o.intent.2 = 0 then s else eraseFails s o
    evrNvEnd (if auto then commitEnd (s.evrMap fun x => { x with blocked := true }) else s) id

/-- NVS_ERASE_COMPLETE (R481, R482, R493). -/
def execNvsEraseComplete (verified : Bool) (s : State) : Result :=
  .next (
    match s.nv.op with
    | none => s
    | some o =>
      if o.kind ≠ 2 || (o.owner = 1 && dieTraining s 4) then s
      else if o.owner = 1 then evrEraseDone s o verified
      else if verified then fwEnd (eraseDone s o) 0
      else fwEnd (eraseFails s o) 2)

/-- RECLAIM (R493): the oldest unit is erased; no effect when only HEAD's unit holds records. -/
def evrReclaim (s : State) : State :=
  if s.evr.erasing.isSome then s
  else match ((regionFromHead s).drop 1).find? (unitDirty s) with
    | none => s
    | some u => nvSubmit (s.evrMap fun x => { x with erasing := some (u, false) }) ⟨1, 2, u * unitWords, 0, none, (0, 0)⟩

/-- A write of EVR_CTL (R492, R493, R615). -/
def evrCtlWrite (q : Req) (w : Word) (s : State) : State :=
  let was := s.get EVR.EVR_CTL.COMMIT_EN
  let s := plainWrite s q evrPage 0x040 w
  let s := if was = 0 && s.get EVR.EVR_CTL.COMMIT_EN = 1 then s.evrMap fun x => { x with reading := true } else s
  let s := if s.get EVR.EVR_CTL.AUTO_RECLAIM = 1 then s.evrMap fun x => { x with blocked := false } else s
  evrPass (if EVR.EVR_CTL.RECLAIM.of w = 1 then evrReclaim s else s)

/-- EVR_RECLAIM (R493). -/
def execEvrReclaim (q : Req) (w : BitVec 32) (s : State) : Result :=
  .next (guarded s q evrPage 0x040 w (evrCtlWrite q w))

/-- COMMIT_ENABLE (R615). -/
def execCommitEnable (q : Req) (w : BitVec 32) (s : State) : Result :=
  .next (guarded s q evrPage 0x040 w (evrCtlWrite q w))

/-- EVR has read the region (R615). -/
def evrRegionRead (s : State) : State :=
  if !s.evr.reading || s.nv.due || s.get NVS.NVS_STAT.SCANNING = 1 || !domainLive s 2 || !dieUp s 4 || dieTraining s 4 ||
      !domainLive s nvsPage.domain then s
  else
    let l := evrRecords s
    let s := match l.map (·.1) with
      | [] =>
        let s := ((s.put EVR.OLDEST.SEQ 0).put EVR.NEWEST.SEQ 0).put EVR.HEAD.WORD 1
        s.put EVR.HEAD.UNIT (evrRegion s).1
      | a :: r =>
        let new := r.foldl max a
        let w := ((l.find? fun (e : Nat × Nat) => e.1 = new).map fun (e : Nat × Nat) => e.2).getD 0
        let s := (s.put EVR.NEWEST.SEQ new).put EVR.SEQ_NEXT.SEQ (max (s.get EVR.SEQ_NEXT.SEQ) ((new + 1) % 2 ^ 32))
        let s := (s.put EVR.OLDEST.SEQ (r.foldl min a)).put EVR.HEAD.UNIT (w / unitWords)
        headAdvance (s.put EVR.HEAD.WORD (w % unitWords))
    let s := (s.put EVR.EVR_STAT.READY 1).evrMap fun x => { x with reading := false, blocked := false }
    evrPass (checkAhead s)

/-- The source of a firmware record, by class (R491). -/
def logSource (q : Req) : Option Nat :=
  match q.cls.val with
  | 0 => some 1 | 1 => some 2 | 2 => some 3 | 5 => some 5 | 7 => some 7 | _ => none

/-- A write of LOG_CMD (R490, R491). -/
def logCmdWrite (q : Req) (w : Word) (s : State) : State :=
  let s := plainWrite s q evrPage 0x07C w
  if EVR.LOG_CMD.GO.of w = 0 then s
  else match logSource q with
    | none => s
    | some n =>
      let d := fun k => s.get EVR.LOG_DATA.DATA 0 k
      report s ⟨n, s.get EVR.LOG_CMD.LEVEL, 0x1FF, s.get EVR.LOG_CMD.CODE, leBytes 4 (d 0) ++ leBytes 4 (d 1) ++ leBytes 2 (d 2)⟩

/-- FIRMWARE_LOG (R490, R491). -/
def execFirmwareLog (q : Req) (w : BitVec 32) (s : State) : Result :=
  .next (guarded s q evrPage 0x07C w (logCmdWrite q w))

/-! Counters of time (R495). -/

/-- LOADED follows the writes of SECONDS_LO and CYCLES. -/
def loadedSync (s : State) : State := s.put EVR.EVR_STAT.LOADED (if s.evr.loDone && s.evr.cyclesDone then 1 else 0)

/-- SECONDS_TICK (R495). -/
def execSecondsTick (s : State) : Result :=
  .next (if s.evr.loDone && domainLive s 2 then
    let n := (s.get EVR.SECONDS_LO.SECONDS + 2 ^ 32 * s.get EVR.SECONDS_HI.SECONDS + 1) % 2 ^ 40
    (s.put EVR.SECONDS_LO.SECONDS n).put EVR.SECONDS_HI.SECONDS (n / 2 ^ 32)
  else s)

/-- The first write of SECONDS_HI, before SECONDS_LO, is held for the load (R495). -/
def secondsHiWrite (q : Req) (w : Word) (s : State) : State :=
  if keeper q && !s.evr.loDone && s.evr.hiHeld.isNone then s.evrMap fun x => { x with hiHeld := some (w.toNat % 256) } else s

/-- The first write of SECONDS_LO loads the counter (R495). -/
def secondsLoWrite (q : Req) (w : Word) (s : State) : State :=
  if keeper q && !s.evr.loDone then
    let s := (s.put EVR.SECONDS_LO.SECONDS w.toNat).put EVR.SECONDS_HI.SECONDS (s.evr.hiHeld.getD 0)
    loadedSync (s.evrMap fun x => { x with loDone := true })
  else s

/-- The first write of CYCLES loads it (R495). -/
def cyclesWrite (q : Req) (w : Word) (s : State) : State :=
  if keeper q && !s.evr.cyclesDone then
    loadedSync ((s.put EVR.CYCLES.COUNT w.toNat).evrMap fun x => { x with cyclesDone := true })
  else s

/-- SECONDS_HI_WRITE (R495). -/
def execSecondsHiWrite (q : Req) (w : BitVec 32) (s : State) : Result :=
  .next (guarded s q evrPage 0x04C w (secondsHiWrite q w))

/-- SECONDS_LO_WRITE (R495). -/
def execSecondsLoWrite (q : Req) (w : BitVec 32) (s : State) : Result :=
  .next (guarded s q evrPage 0x048 w (secondsLoWrite q w))

/-- CYCLES_WRITE (R495). -/
def execCyclesWrite (q : Req) (w : BitVec 32) (s : State) : Result :=
  .next (guarded s q evrPage 0x050 w (cyclesWrite q w))

/-! Registers (R498). -/

/-- The mask word REC_WIN selects; above 8 acts as 8. -/
def recWord (s : State) : Nat := min 8 (s.get EVR.REC_WIN.WORD)
/-- REC_DATA. -/
def recData (s : State) : Nat := sget 0xFFFFFFFF s.evr.mask (recWord s)
/-- REC_MASK of an event. -/
def recMasked (s : State) (ev : Nat) : Bool := bit (sget 0xFFFFFFFF s.evr.mask (ev / 32)) (ev % 32)

/-- A write of any EVR register (R498): REGION is discarded while COMMIT_EN is 1. -/
def evrWrite (q : Req) (off : Nat) (w : Word) (s : State) : State :=
  if off = 0x040 then evrCtlWrite q w s
  else if off = 0x048 then secondsLoWrite q w s
  else if off = 0x04C then secondsHiWrite q w s
  else if off = 0x050 then cyclesWrite q w s
  else if off = 0x060 then (if s.get EVR.EVR_CTL.COMMIT_EN = 1 then s else plainWrite s q evrPage off w)
  else if off = 0x07C then logCmdWrite q w s
  else if off = 0x084 then s.evrMap fun x => { x with mask := sset 0xFFFFFFFF x.mask (recWord s) w.toNat }
  else if off = 0x090 then
    let s := plainWrite s q evrPage off w
    if s.get EVR.EVR_STAT.READY = 1 && s.get EVR.EVR_CTL.COMMIT_EN = 1 then checkAhead s else s
  else evrPass (plainWrite s q evrPage off w)

/-! Reset and loss of power. -/

/-- A reset of EVR's domain: queued records are lost and counted; staged ones stay (R492). -/
def evrReset (s : State) : State :=
  let s := s.bump EVR.DROP_CNT.DROPPED s.evr.queue.length
  commitEnd (s.evrMap fun x => { x with queue := [], cur := none })

/-- After NVS has acted on PFAIL (R484, R492): an erase of EVR's that was aborted no longer runs, and the commit that
needed it begins anew. -/
def evrPfail (s : State) : State :=
  if s.evr.erasing.isSome && !((s.nv.op.toList ++ s.nv.waiting).any fun o => o.owner = 1 && o.kind = 2) then
    commitEnd (s.evrMap fun x => { x with erasing := none })
  else s

/-- EVR holds nothing that keeps it from HOLD (R492). -/
def evrIdle (s : State) : Bool := s.evr.queue.isEmpty && s.get EVR.EVR_STAT.COMMITTING = 0

end Sys2Proof.Machine
end

