-- ==== Sys2Proof/Machine/Thermal.lean ====
section
/-! DEFINITION. TMP and CLK: sensors, cross-check, limits, head-stack temperature, reference correction, die trims,
adaptive voltage (chapter "Temperature and calibration"). -/

namespace Sys2Proof.Machine

open Sys2Proof

/-- The page of TMP. -/
def tmpPage : Page := ⟨.tmp, 0⟩
/-- The page of CLK. -/
def clkPage : Page := ⟨.clk, 0⟩
/-- The page of CAL. -/
def calPage : Page := ⟨.cal, 0⟩

/-- Change TMP beyond its registers. -/
def State.tmpMap (s : State) (f : Tmp → Tmp) : State := { s with tmp := f s.tmp }

/-- A degree in Q10.6 (R501). -/
def degree : Int := 64

/-- SUSPECT bit of a sensor (R506, R527). -/
def suspect (s : State) (i : Nat) : Bool :=
  if i < 32 then bit (s.get TMP.SUSPECT0.SUSPECT) i else bit (s.get TMP.SUSPECT1.SUSPECT) (i - 32)

/-- Mark a sensor suspect (R505): its bit, the counter, the event; a suspect sensor is at level 1 (R33). -/
def markSuspect (s : State) (i : Nat) : State :=
  let s := if i < 32 then s.put TMP.SUSPECT0.SUSPECT (setBit (s.get TMP.SUSPECT0.SUSPECT) i true)
    else s.put TMP.SUSPECT1.SUSPECT (setBit (s.get TMP.SUSPECT1.SUSPECT) (i - 32) true)
  raise (s.bump TMP.TMP_CNT.SUSPECTS) tmpPage 0 1

/-- First sensor and number of sensors of each die (R500). -/
def dieSensors : List (Nat × Nat) := [(0, 12), (12, 8), (20, 8), (28, 8), (36, 4)]

/-- The neighbours of sensor `j` of a die with `n` (R504). -/
def neighbours (n j : Nat) : List Nat :=
  [(j + n - 2) % n, (j + n - 1) % n, (j + 1) % n, (j + 2) % n].eraseDups

/-- Put a value in its place in a rising list. -/
def insertVal (x : Int) : List Int → List Int
  | [] => [x]
  | y :: l => if x ≤ y then x :: y :: l else y :: insertVal x l

/-- Twice the median: of an even count the sum of the two middle values (R504). -/
def median2 (l : List Int) : Int :=
  let r := l.foldr insertVal []
  let n := r.length
  if n % 2 = 1 then 2 * (r[n / 2]?).getD 0 else (r[n / 2 - 1]?).getD 0 + (r[n / 2]?).getD 0

/-- Value of a sensor at the last sample. -/
def sensorVal (s : State) (i : Nat) : Int := sget 0 s.tmp.val i

/-- Values of the non-suspect sensors among some. -/
def trusted (s : State) (l : List Nat) : List Int := (l.filter fun i => !suspect s i).map (sensorVal s)

/-- The sensors of a die. -/
def sensorsOf (d : Nat) : List Nat :=
  match dieSensors[d]? with
  | some e => (List.range e.2).map (e.1 + ·)
  | none => []

/-- Twice the median of a die's non-suspect sensors, if it has one (R504, R510). -/
def dieMedian2 (s : State) (d : Nat) : Option Int :=
  match trusted s (sensorsOf d) with
  | [] => none
  | l => some (median2 l)

/-! Thermistors (R502). -/

/-- Open or shorted. -/
def thermBroken (code : Nat) : Bool := 4000 ≤ code || code ≤ 40

/-- The temperature of a code, if two neighbouring entries bracket it (R502). -/
def thermTemp (s : State) (code : Nat) : Option Int :=
  if thermBroken code then none
  else (List.range 16).findSome? fun i =>
    let c0 := s.get TMP.THERM_TAB.CODE 0 i
    let c1 := s.get TMP.THERM_TAB.CODE 0 (i + 1)
    let t0 := signed 16 (s.get TMP.THERM_TAB.TEMP 0 i)
    let t1 := signed 16 (s.get TMP.THERM_TAB.TEMP 0 (i + 1))
    if code ≤ c0 ∧ c1 ≤ code ∧ c1 < c0 then
      some (t0 + rdiv (((c0 : Int) - code) * (t1 - t0)) (c0 - c1))
    else none

/-! Cross-check (R504-R506). -/

/-- Twice the median a sensor is checked against, if it is checked (R504). -/
def checkMedian2 (s : State) (i : Nat) : Option Int :=
  if 40 ≤ i then dieMedian2 s 3
  else match dieSensors.find? fun e => e.1 ≤ i && decide (i < e.1 + e.2) with
    | none => none
    | some e =>
      let l := trusted s ((neighbours e.2 (i - e.1)).map (e.1 + ·))
      if l.length < 2 then none else some (median2 l)

/-- Whether a sensor differs from its median by more than its limit (R504, R505). -/
def disagrees (s : State) (i : Nat) : Bool :=
  let lim := if 40 ≤ i then s.get TMP.TMP_CTL.HS_LIM else s.get TMP.TMP_CTL.XCHK_LIM
  match checkMedian2 s i with
  | some m => decide (2 * lim * 64 < (2 * sensorVal s i - m).natAbs)
  | none => false

/-- One sensor's check: MEDIAN and the confirm count, which also counts while the sensor is suspect (R505, R506). -/
def checkSensor (s0 : State) (s : State) (i : Nat) : State :=
  s.tmpMap fun x => { x with
    med := match checkMedian2 s0 i with
      | some m => sset 0 x.med i (rdiv m 2)
      | none => x.med
    confirm := sset 0 x.confirm i (if disagrees s0 i then min 15 (sget 0 x.confirm i + 1) else 0) }

/-- Sensors whose count has come to CONFIRM and that are not suspect yet (R505). -/
def confirmed (s : State) (l : List Nat) : List Nat :=
  l.filter fun i => decide (max 1 (s.get TMP.TMP_CTL.CONFIRM) ≤ sget 0 s.tmp.confirm i) && !suspect s i

/-- The marks of a die: withheld if they would make more than half of its non-suspect sensors suspect (R505). -/
def markDie (s : State) (l : List Nat) : State :=
  let c := confirmed s l
  if c.isEmpty then s
  else if (l.filter fun i => !suspect s i).length < 2 * c.length then
    raise (s.tmpMap fun x => { x with confirm := l.foldl (fun m i => sdel m i) x.confirm }) tmpPage 1 7
  else c.foldl markSuspect s

/-- A thermistor's marks (R502, R505): at once when it gives no temperature. -/
def markTherm (s : State) (i : Nat) (valid : Bool) : State :=
  if suspect s i then s
  else if !valid || !(confirmed s [i]).isEmpty then markSuspect s i
  else s

/-- The checks and marks of one sample, all on the readings and the suspect set as they stood before it (R505). -/
def crossCheck (s : State) (ok0 ok1 : Bool) : State :=
  let s1 := (List.range 42).foldl (checkSensor s) s
  let s2 := (List.range 5).foldl (fun a d => markDie a (sensorsOf d)) s1
  markTherm (markTherm s2 40 ok0) 41 ok1

/-! Limits (R507, R508). -/

/-- The four limits: 0 WARN, 1 CRIT, 2 TRIP, 3 COLD. -/
def limitVal (s : State) (k : Nat) : Int :=
  signed 16 (if k = 0 then s.get TMP.HOT_LIM.WARN else if k = 1 then s.get TMP.HOT_LIM.CRIT
    else if k = 2 then s.get TMP.EDGE_LIM.TRIP else s.get TMP.EDGE_LIM.COLD)

/-- A limit is compared: its event once, and again only after every sensor has come back 2 degrees inside. -/
def limitCheck (l : List Int) (s : State) (k : Nat) : State :=
  let v := limitVal s k
  let at_ := l.any fun t => if k = 3 then decide (t ≤ v) else decide (v ≤ t)
  let back := l.all fun t => if k = 3 then decide (v + 2 * degree ≤ t) else decide (t ≤ v - 2 * degree)
  if at_ && !s.tmp.hit.contains k then raise (s.tmpMap fun x => { x with hit := x.hit ++ [k] }) tmpPage (3 + k) 7
  else if back then s.tmpMap fun x => { x with hit := x.hit.erase k }
  else s

/-- FAST: 1 kHz near a limit, and back after 1,000 samples clear of all (R507). -/
def fastCheck (l : List Int) (s : State) : State :=
  let nb := s.get TMP.TMP_CTL.NEAR_BAND
  let near := l.any fun t => (List.range 4).any fun k => decide ((t - limitVal s k).natAbs ≤ nb * 64)
  let clear := l.all fun t => (List.range 4).all fun k => decide ((nb + 2) * 64 < (t - limitVal s k).natAbs)
  let calm := if clear then s.tmp.calm + 1 else 0
  if s.get TMP.TMP_STAT.FAST = 0 then
    if near then
      raise (((s.put TMP.TMP_STAT.FAST 1).bump TMP.TMP_CNT.FAST).tmpMap fun x => { x with calm := 0 }) tmpPage 2 7
    else s
  else if 1000 ≤ calm then (s.put TMP.TMP_STAT.FAST 0).tmpMap fun x => { x with calm := 0 }
  else s.tmpMap fun x => { x with calm := calm }

/-- HOTTEST and COMPOSITE (R508, R527): the hottest non-suspect on-package sensor; with none left, no value is stated. -/
def composite (s : State) : State :=
  let l := (List.range 40).filter fun i => !suspect s i
  match l with
  | [] => ((s.put TMP.TMP_STAT.HOTTEST s.free).put TMP.TMP_STAT.COMPOSITE (s.free / 64)).drawn
  | i :: r =>
    let h := r.foldl (fun m j => if sensorVal s m < sensorVal s j then j else m) i
    (s.put TMP.TMP_STAT.HOTTEST h).put TMP.TMP_STAT.COMPOSITE (unsigned 16 (sensorVal s h))

/-! The application core clock (R508, R511, R514). -/

/-- THROTTLED follows TRIP and EMERG; EV089 on a change. -/
def throttleSync (s : State) : State :=
  let now := if s.tmp.tripped || s.get CLK.CLK_STAT.EMERG = 1 then 1 else 0
  let was := s.get CLK.CLK_STAT.THROTTLED
  if now = was then s
  else
    let s := s.put CLK.CLK_STAT.THROTTLED now
    raise (if now = 1 then s.bump CLK.CLK_CNT.THROTTLE else s) clkPage 1 7

/-- TRIP halves the core clock until every sensor is below CRIT - 5 degrees, while THROTTLE_EN is 1 (R508). -/
def tripCheck (l : List Int) (s : State) : State :=
  let on := s.get CLK.CLK_CTL.THROTTLE_EN = 1
  let trip := l.any fun t => decide (limitVal s 2 ≤ t)
  let cool := l.all fun t => decide (t < limitVal s 1 - 5 * degree)
  let now := on && (trip || (s.tmp.tripped && !cool))
  throttleSync (s.tmpMap fun x => { x with tripped := now })

/-! Head-stack temperature (R503). -/

/-- Source and value for a pivot: own thermistor, the other, else the Rigger median plus HS_OFS. -/
def headStack (s : State) (p : Nat) : Nat × Option Int :=
  if !suspect s (40 + p) then (0, some (sensorVal s (40 + p)))
  else if !suspect s (41 - p) then (1, some (sensorVal s (41 - p)))
  else (2, (dieMedian2 s 3).map fun m => rdiv m 2 + signed 16 (s.get TMP.HS_CFG.HS_OFS))

/-- Set a pivot's temperature; with no source left its value is not stated. -/
def putPivot (s : State) (p : Nat) (v : Option Int) : State :=
  let F := if p = 0 then TMP.HS_TEMP.PIVOT0 else TMP.HS_TEMP.PIVOT1
  match v with
  | some t => s.put F (unsigned 16 t)
  | none => (s.put F s.free).drawn

/-- HS_TEMP and SRC follow; a change of source raises EV275. -/
def headStackSync (s : State) : State :=
  let a := headStack s 0
  let b := headStack s 1
  let src := a.1 + 4 * b.1
  let changed := decide (src ≠ s.get TMP.HS_CFG.SRC)
  raiseIf changed ((putPivot (putPivot s 0 a.2) 1 b.2).put TMP.HS_CFG.SRC src) tmpPage 7 7

/-! Reference correction and die trims (R509, R510). -/

/-- Linear interpolation in nine points at -40 + 16i degrees, the end values beyond them (R509, R510). `t2` is twice the
temperature. -/
def ninePoint (f : Nat → Int) (t2 : Int) : Int :=
  let x := clampI 0 (2 * 128 * 64) (t2 + 2 * 40 * 64)
  let i := min 7 (x.toNat / 2048)
  f i + rdiv ((x - i * 2048) * (f (i + 1) - f i)) 2048

/-- Move `v` toward `goal` by at most `n`. -/
def toward (v goal : Int) (n : Nat) : Int := clampI (v - n) (v + n) goal

/-- XO_CORR after a sample (R509). -/
def xoCorrect (s : State) : State :=
  let i := if 41 < s.get CLK.XO_CFG.SENSOR then 28 else s.get CLK.XO_CFG.SENSOR
  if s.get CLK.CLK_CTL.XO_EN = 0 || suspect s i then s
  else
    let goal := ninePoint (fun k => signed 16 (s.get CLK.XO_TAB.PPB 0 k)) (2 * sensorVal s i)
    s.put CLK.XO_CORR.PPB (unsigned 24 (toward (signed 24 (s.get CLK.XO_CORR.PPB)) goal
      (max 1 (s.get CLK.XO_CFG.SLEW))))

/-- Where an image's record begins in buffer memory (R515). -/
def imageBase (s : State) : Nat := s.get CAL.SET_BASE.ADDR * 4096

/-- Read a 1,024-byte record of the calibration image and check its CRC (R515, R516, R518): a failure counts and raises
EV284. The image in DRAM is a stored copy that is bad: level 0 (R33, log 8). -/
def calRecord (s : State) (at_ : Nat) : Option (List Nat) × State :=
  let r := memRead s .other (imageBase s + at_) 1024
  if !r.1.poison && leNat (r.1.bytes.drop 1020) = crc32c (r.1.bytes.take 1020) then (some r.1.bytes, r.2)
  else (none, raise (r.2.bump CAL.CAL_CNT.CRC_ERR) calPage 8 0)

/-- A signed 16-bit number in a record. -/
def rec16 (r : List Nat) (i : Nat) : Int := signed 16 (leNat ((r.drop i).take 2))

/-- The trims after a sample (R510): each moves by at most one step toward its table's value. -/
def trimAdjust (s : State) : State :=
  match calRecord s 0 with
  | (none, s) => s
  | (some r, s) =>
    (List.range 7).foldl (fun s k =>
      let die := if k < 5 then k else k - 4
      let base := if k < 5 then 20 + 18 * k else 112 + 18 * (k - 5)
      match dieMedian2 s die with
      | none => s
      | some m =>
        s.tmpMap fun x => { x with
          trims := sset 0 x.trims k (toward (sget 0 x.trims k) (ninePoint (fun i => rec16 r (base + 2 * i)) m) 1) }) s

/-! Sampling. -/

/-- An on-package sensor's value: the reading with its SENS_OFS (R501). A sum beyond Q10.6 has no stated value. -/
def takeReading (readings : Vector (BitVec 16) 40) (s : State) (i : Fin 40) : State :=
  let v := (readings[i]).toInt + signed 16 (sget 0 s.tmp.ofs i)
  if -32768 ≤ v ∧ v ≤ 32767 then s.tmpMap fun x => { x with val := sset 0 x.val i.val v }
  else (s.tmpMap fun x => { x with val := sset 0 x.val i.val (signed 16 s.free) }).drawn

/-- A thermistor's value; a code that gives no temperature leaves the last value (R502, R527). -/
def takeTherm (s : State) (i : Nat) (v : Option Int) : State :=
  match v with
  | some t => s.tmpMap fun x => { x with val := sset 0 x.val i t }
  | none => s

/-- A thermistor is found open or shorted that was not already known as such (R528). -/
def newlyBroken (s : State) (i was now : Nat) : Bool := thermBroken now && !(suspect s i && thermBroken was)

/-- A sample up to the head-stack temperature and CLK's and CAL's corrections (R500-R510). -/
def sampleAll (readings : Vector (BitVec 16) 40) (c0 c1 : Nat) (s : State) : State :=
  let bad := newlyBroken s 40 (s.get TMP.THERM_RAW.TH0) c0 || newlyBroken s 41 (s.get TMP.THERM_RAW.TH1) c1
  let s := (s.put TMP.THERM_RAW.TH0 c0).put TMP.THERM_RAW.TH1 c1
  let s := (List.finRange 40).foldl (takeReading readings) s
  let s := takeTherm (takeTherm s 40 (thermTemp s c0)) 41 (thermTemp s c1)
  let s := raiseIf bad s tmpPage 7 1
  let s := crossCheck s (thermTemp s c0).isSome (thermTemp s c1).isSome
  let l := trusted s (List.range 40)
  let s := composite (tripCheck l ((List.range 4).foldl (limitCheck l) (fastCheck l s)))
  let s := xoCorrect (headStackSync s)
  if working s calPage then trimAdjust s else s

/-- A write of any TMP register (R506, R527). -/
def tmpWrite (q : Req) (off : Nat) (w : Word) (s : State) : State :=
  if off = 0x060 then
    let i := min 41 (s.get TMP.SENS_WIN.SENSOR)
    s.tmpMap fun x => { x with ofs := sset 0 x.ofs i (w.toNat % 65536) }
  else plainWrite s q tmpPage off w

/-- SENS_DATA as read (R527). -/
def sensData (s : State) : Nat :=
  let i := min 41 (s.get TMP.SENS_WIN.SENSOR)
  unsigned 16 (sensorVal s i) + unsigned 16 (sget 0 s.tmp.med i) * 65536

/-- SENS_OFS as read (R527). -/
def sensOfs (s : State) : Nat := sget 0 s.tmp.ofs (min 41 (s.get TMP.SENS_WIN.SENSOR))

/-! Adaptive voltage scaling (R511, R512). -/

/-- VMIN and VMAX (R513). -/
def avsLimit (v : Nat) : Nat := min 900 (max 550 v)

/-- A request to Rigger (R511, R512): none while the link to it is down; over one that trains it waits (R28). During PFAIL
only an emergency asks, and its set-point counts (log 81). -/
def requestVcox (s : State) (mv : Nat) : State :=
  if !dieUp s 3 then s
  else
    let s := s.put CLK.AVS_STAT.VSET mv
    if dieTraining s 3 then s.ask (.vcox mv) else s.put PWR.VCOX.MV mv

/-- An emergency: VCOX to VMAX, EMERG, the core clock halved (R511). -/
def avsEmergency (s : State) : State :=
  let s := requestVcox s (avsLimit (s.get CLK.AVS_LIM.VMAX))
  let s := ((s.put CLK.CLK_STAT.EMERG 1).bump CLK.CLK_CNT.EMERG).tmpMap fun x => { x with held := 0 }
  throttleSync (raise s clkPage 0 7)

/-- The emergency ends after 16 evaluations with the margin at TARGET or above (R511). -/
def avsRelease (s : State) (m : Nat) : State :=
  if s.get CLK.CLK_STAT.EMERG = 0 then s
  else
    let n := if s.get CLK.AVS_CFG.TARGET ≤ m then s.tmp.held + 1 else 0
    if 16 ≤ n then throttleSync ((s.put CLK.CLK_STAT.EMERG 0).tmpMap fun x => { x with held := 0 })
    else s.tmpMap fun x => { x with held := n }

/-- One step up, or AVS_LIMIT at VMAX (R511). -/
def avsUp (s : State) : State :=
  let v := s.get CLK.AVS_STAT.VSET
  let top := avsLimit (s.get CLK.AVS_LIM.VMAX)
  if top ≤ v then
    if s.get CLK.CLK_STAT.AVS_LIMIT = 1 then s else raise (s.put CLK.CLK_STAT.AVS_LIMIT 1) clkPage 0 7
  else requestVcox (s.bump CLK.CLK_CNT.AVS_UP) (min top (v + max 1 (s.get CLK.AVS_CFG.STEP_MV)))

/-- One step down to VMIN at the least; AVS_LIMIT clears when the set-point leaves VMAX (R511; log 41). -/
def avsDown (s : State) : State :=
  let v := s.get CLK.AVS_STAT.VSET
  let low := avsLimit (s.get CLK.AVS_LIM.VMIN)
  let v' := max low (v - max 1 (s.get CLK.AVS_CFG.STEP_MV))
  if v ≤ low then s
  else
    let s := requestVcox s v'
    if s.get CLK.AVS_STAT.VSET < avsLimit (s.get CLK.AVS_LIM.VMAX) then s.put CLK.CLK_STAT.AVS_LIMIT 0 else s

/-- The smallest of the margins. -/
def leastMargin (margins : Vector (BitVec 8) 16) : Nat := margins.toList.foldl (fun m x => min m x.toNat) 255

/-- An evaluation of the smallest margin (R511, R512). -/
def avsEvaluate (m : Nat) (s : State) : State :=
  let s := s.put CLK.AVS_STAT.MARGIN m
  let target := s.get CLK.AVS_CFG.TARGET
  let hyst := s.get CLK.AVS_CFG.HYST
  if m < s.get CLK.AVS_CFG.FLOOR then avsEmergency s
  else
    let s := avsRelease s m
    if s.wires.pfail || !dieUp s 3 then s
    else if m + hyst < target then avsUp s
    else if target + hyst < m then avsDown s
    else s

/-- AVS_EVALUATE (R511). -/
def execAvsEvaluate (margins : Vector (BitVec 8) 16) (s : State) : Result :=
  .next (if s.get CLK.CLK_CTL.AVS_EN = 1 then avsEvaluate (leastMargin margins) s else s)

/-- A write of any CLK register (R513): THROTTLE_EN cleared ends what it keeps up (R508). -/
def clkWrite (q : Req) (off : Nat) (w : Word) (s : State) : State :=
  let s := plainWrite s q clkPage off w
  if off = 0x040 && s.get CLK.CLK_CTL.THROTTLE_EN = 0 then
    throttleSync (s.tmpMap fun x => { x with tripped := false })
  else s

end Sys2Proof.Machine
end

