-- ==== Sys2Proof/Machine/Weave.lean ====
section
/-! DEFINITION. WEV: the weave's code, its descriptors and their completion (chapter "The weave"). -/

namespace Sys2Proof.Machine

open Sys2Proof

/-- The page of WEV. -/
def wevPage : Page := ⟨.wev, 0⟩

/-! The code (R266, R272). -/

/-- Data strands of a profile (R266). -/
def profileK (profile : Nat) : Nat := if profile = 0 then 9 else 10

/-- y + c x, byte by byte. -/
def gfAdd (c : Nat) (x y : List Nat) : List Nat := List.zipWith (fun a b => b ^^^ gfMul c a) x y

/-- Binding unit `i` of data units (R272), from `acc`. -/
def bindUnit (i : Nat) (acc : List Nat) (ds : List (Nat × List Nat)) : List Nat :=
  ds.foldl (fun a d => gfAdd (weaveCoef i d.1) d.2 a) acc

/-- Zero bytes of one sector. -/
def zeroSector : List Nat := List.replicate 4112 0

/-- Solve linear equations over GF(2^8) whose unknowns and right sides are byte strings: coefficients and right side of
each. -/
def gfSolve : Nat → List (List Nat × List Nat) → List (List Nat)
  | 0, _ => []
  | n + 1, rows =>
    match rows.find? fun r => r.1.headD 0 ≠ 0 with
    | none => []
    | some p =>
      let inv := gfInv (p.1.headD 0)
      let cs := p.1.tail.map (gfMul inv)
      let rhs := p.2.map (gfMul inv)
      let rest := (rows.erase p).map fun r =>
        (gfAdd (r.1.headD 0) cs r.1.tail, gfAdd (r.1.headD 0) rhs r.2)
      let sols := gfSolve n rest
      (List.zip cs sols).foldl (fun a x => gfAdd x.1 x.2 a) rhs :: sols

/-- The K data sectors at a position from the K lowest good strands (R272, R281). -/
def recoverData (k : Nat) (good : List (Nat × List Nat)) : List (Nat × List Nat) :=
  let src := good.take k
  let ds := src.filter fun x => decide (x.1 < k)
  let missing := (List.range k).filter fun j => !(ds.any fun d => d.1 = j)
  let rows := (src.filter fun x => decide (k ≤ x.1)).map fun x =>
    (missing.map (weaveCoef (x.1 - k)), bindUnit (x.1 - k) x.2 ds)
  ds ++ List.zip missing (gfSolve missing.length rows)

/-- Strand `w` from the K data sectors. -/
def strandOf (k : Nat) (ds : List (Nat × List Nat)) (w : Nat) : List Nat :=
  if w < k then ((ds.find? fun d => d.1 = w).map (·.2)).getD zeroSector else bindUnit (w - k) zeroSector ds

/-! Descriptors (R279, R280). -/

/-- Field of `n` bytes at offset `o`. -/
def descField (e : List Nat) (o n : Nat) : Nat := leNat ((e.drop o).take n)
/-- OP. -/
def descOp (e : List Nat) : Nat := e.headD 0 % 16
/-- K of the profile. -/
def descK (e : List Nat) : Nat := profileK (bits (e.headD 0) 4 1)
/-- COUNT. -/
def descCount (e : List Nat) : Nat := descField e 1 1 % 32
/-- FIRST. -/
def descFirst (e : List Nat) : Nat := descField e 6 1 % 16
/-- PRESENT, all 16 bits. -/
def descPresent (e : List Nat) : Nat := descField e 2 2
/-- WANT, all 16 bits. -/
def descWant (e : List Nat) : Nat := descField e 4 2
/-- ZONE. -/
def descZone (e : List Nat) : Nat := descField e 8 4 % 2 ^ 19
/-- ROW. -/
def descRow (e : List Nat) : Nat := descField e 12 2 % 2 ^ 12
/-- ADDRs. -/
def descAddr (e : List Nat) (s : Nat) : Nat := descField e (32 + 8 * s) 6 % 2 ^ 44

/-- A descriptor WEV cannot run (R279, R280). -/
def badDesc (e : List Nat) : Bool :=
  let op := descOp e
  let k := descK e
  let p := descPresent e
  let w := descWant e
  let dmask := 2 ^ k - 1
  let used := (List.range 12).filter fun s => bit p s || bit w s
  e.length < 128 || descCount e = 0 || 16 < descFirst e + descCount e || 2 ^ 12 ≤ p || 2 ^ 12 ≤ w || p &&& w ≠ 0 ||
    used.any (fun s => descAddr e s % 32 ≠ 0) ||
    (if op = 1 then p &&& dmask ≠ dmask || w &&& dmask ≠ 0
     else if op = 2 then p / 2 ^ k ≠ 0 || w &&& dmask ≠ 0
     else if op = 3 then w = 0
     else if op = 4 then p ≠ 2 ^ 12 - 1 || w ≠ 0
     else true)

/-- Read the sector at position `i` of the listed strands: bytes and poison of each (R280, R281, R283). -/
def readStrands (e : List Nat) (i inj : Nat) : List Nat → State → List (Nat × List Nat × Bool) × State
  | [], s => ([], s)
  | k :: ks, s =>
    let r := memRead s .wev (descAddr e k + 4128 * i) 4112
    let t := readStrands e i inj ks r.2
    ((k, r.1.bytes, r.1.poison || bit inj k) :: t.1, t.2)

/-- What a descriptor has come to: POISONED, MISMATCH, UNREC, sectors reconstructed, whether a source was poison. -/
structure WevOut where
  poisoned : Nat := 0
  mismatch : Nat := 0
  unrec : Nat := 0
  recon : Nat := 0
  src : Bool := false
  deriving DecidableEq, Repr

/-- Write one sector of strand `w` at position `i`: 4,112 bytes and 16 zero bytes, or a poison mark (R280, R281). -/
def writeStrand (e : List Nat) (i : Nat) (s : State) (w : Nat) (v : Option (List Nat)) : State :=
  memWrite s (descAddr e w + 4128 * i) ((v.getD zeroSector) ++ List.replicate 16 0) v.isNone

/-- One sector position of a descriptor (R280, R281). -/
def wevPosition (e : List Nat) (inj i : Nat) (o : WevOut) (s : State) : WevOut × State :=
  let op := descOp e
  let k := descK e
  let present := bitList 12 (descPresent e)
  let want := bitList 12 (descWant e)
  let r := readStrands e i (inj &&& descPresent e) (if op = 2 then present ++ want else present) s
  let s := r.2
  let hit := (r.1.filter fun x => x.2.2 && present.contains x.1).map (·.1)
  let o := { o with poisoned := hit.foldl (fun m x => setBit m x true) o.poisoned }
  let good := (r.1.filter fun x => !x.2.2 && present.contains x.1).map fun x => (x.1, x.2.1)
  let data := (r.1.filter fun x => decide (x.1 < k)).map fun x => (x.1, x.2.1)
  if op = 3 then
    if good.length < k then
      ({ o with unrec := setBit o.unrec (descFirst e + i) true },
        want.foldl (fun s w => writeStrand e i s w none) s)
    else
      let ds := recoverData k good
      ({ o with recon := o.recon + want.length },
        want.foldl (fun s w => writeStrand e i s w (some (strandOf k ds w))) s)
  else if op = 4 then
    let all := (List.range 12).filter fun x => decide (k ≤ x)
    let differ := if hit.isEmpty then all.filter fun x =>
        strandOf k data x ≠ ((r.1.find? fun y => y.1 = x).map (·.2.1)).getD []
      else all
    ({ o with mismatch := differ.foldl (fun m x => setBit m x true) o.mismatch }, s)
  else
    let bad := r.1.any fun x => x.2.2 && decide (x.1 < k)
    let own := fun (w : Nat) => r.1.any fun x => x.2.2 && x.1 = w
    let out := fun (w : Nat) => if bad || own w then none
      else some (bindUnit (w - k) (if op = 2 then ((r.1.find? fun y => y.1 = w).map (·.2.1)).getD zeroSector
        else zeroSector) data)
    ({ o with src := o.src || bad || want.any own }, want.foldl (fun s w => writeStrand e i s w (out w)) s)

/-- The positions of a descriptor in turn. -/
def wevPositions (e : List Nat) (inj : Nat) : Nat → Nat → WevOut → State → WevOut × State
  | 0, _, o, s => (o, s)
  | n + 1, i, o, s => let r := wevPosition e inj i o s; wevPositions e inj n (i + 1) r.1 r.2

/-- STATUS (R282). -/
def wevStatus (e : List Nat) (o : WevOut) : Nat :=
  if descOp e = 3 then (if o.unrec = 0 then 0 else 1)
  else if descOp e = 4 then (if o.mismatch = 0 then 0 else 3)
  else if o.src then 2 else 0

/-- Run a descriptor: status, outcome, state (R280, R281, R296). -/
def wevRun (s : State) (e : List Nat) : Nat × WevOut × State :=
  if badDesc e then (4, {}, s)
  else
    let armed := s.get WEV.ERASE_INJ.ARM = 1
    let inj := if armed then s.get WEV.ERASE_INJ.STRANDS else 0
    let r := wevPositions e inj (descCount e) 0 {} (s.put WEV.ERASE_INJ.ARM 0)
    (wevStatus e r.1, r.1, r.2.bump WEV.RECON_CNT.COUNT r.1.recon)

/-- A descriptor of any source has completed (R282, R296, R297). -/
def wevCount (s : State) (e : List Nat) (st poisoned : Nat) : State :=
  let s := s.bump WEV.DESC_CNT.COUNT
  let s := if st = 0 then s else
    (((s.put WEV.LAST_ERR.STATUS st).put WEV.LAST_ERR.ZONE (descZone e)).put WEV.LAST_ROW.POISONED poisoned).put
      WEV.LAST_ROW.ROW (descRow e)
  let s := match st with
    | 1 => raise (s.bump WEV.ERR_CNT.UNRECOV) wevPage 0 0
    | 2 => raise (s.bump WEV.ERR_CNT.POISON_SRC) wevPage 1 0
    | 3 => raise s wevPage 3 0
    | 4 => raise (s.bump WEV.ERR_CNT.BAD_DESC) wevPage 2 7
    | 5 => raise (s.bump WEV.ERR_CNT.REFUSED) wevPage 2 7
    | _ => s
  raiseIf (bit (e.headD 0) 5) s wevPage 4 7

/-- The completion bytes 0-7 (R282). The rule does not lay out byte 1: it is `z` (log 42). -/
def wevCompletion (st : Nat) (o : WevOut) (z : Nat) : List Nat :=
  [st + 128, z] ++ leBytes 2 o.poisoned ++ leBytes 2 o.mismatch ++ leBytes 2 o.unrec

/-- Byte 1 of a completion that waits. -/
def RingDone.byte1 (d : RingDone) : Nat := ((d.bytes.headD (0, [])).2[1]?).getD 0

/-- WEV is idle again (R284, R296). -/
def wevIdle (s : State) : State :=
  let s := ({ s with wev := { s.wev with cur := none, portBusy := false } } : State)
  ((s.put WEV.WEV_STAT.SRC 15).put WEV.WEV_STAT.OP 0).put WEV.WEV_STAT.ZONE 0

/-- WEV reads OFF after a disable (R284, R297). -/
def wevOff (s : State) : State :=
  raise (setPageState ({ s with wev := { s.wev with disabling := false } }) wevPage stOff) wevPage 5 7

/-- The disable of R284: a descriptor in progress completes first. -/
def wevDisable (s : State) : State :=
  if s.wev.cur.isSome || s.wev.portBusy then { s with wev := { s.wev with disabling := true } } else wevOff s

/-! Arbitration (R283). -/

/-- A ring of WEV that has an entry to start. -/
def wevReady (s : State) (m : Nat) : Bool :=
  let r := s.get WEV.RING.RING 0 m
  let x := s.ring r
  bit (s.get WEV.WEV_CTL.RING_EN) m && x.engine = 1 && !x.dir && !x.fetched.isEmpty && !engineDown s 1

/-- The source whose turn comes: RINGm and how many it has then taken (R283). -/
def wevPick (s : State) : Option (Nat × Nat) :=
  let m := s.wev.turn
  if wevReady s m && decide (s.wev.taken < max 1 (s.get WEV.RING.WEIGHT 0 m)) then some (m, s.wev.taken + 1)
  else ((List.range 4).map fun i => (m + 1 + i) % 4).findSome? fun k => if wevReady s k then some (k, 1) else none

/-- WEV takes descriptors: RUN, or refusing them (R284). -/
def wevTakes (s : State) : Bool :=
  domainLive s wevPage.domain && s.wev.cur.isNone && !s.wev.portBusy && pageState s wevPage ≠ stEasing && pageState s wevPage ≠ stHold

/-- A request of SCH's port comes before the rings: the port is enabled and WEV runs (R283, R284). -/
def portFirst (s : State) : Bool :=
  s.get WEV.WEV_CTL.SCH_PORT_EN = 1 && running s wevPage && !s.wev.disabling && !s.sch.port.isEmpty

/-- WEV takes its next ring descriptor if the command names its OP, and runs it or refuses it (R280-R284). A request at
SCH's port goes first (R283). -/
def wevServe (s : State) (mine : Nat → Bool) : State :=
  if !wevTakes s || portFirst s then s
  else match wevPick s with
    | none => s
    | some (m, taken) =>
      let r := s.get WEV.RING.RING 0 m
      if !mine (((ringPeek s r).getD []).headD 0 % 16) then s
      else match ringStart s r 1 with
        | none => s
        | some (x, s) =>
          let s := { s with wev := { s.wev with turn := m, taken := taken, cur := some ⟨r, x.1, x.2⟩ } }
          let s := ((s.put WEV.WEV_STAT.SRC m).put WEV.WEV_STAT.OP (descOp x.2)).put WEV.WEV_STAT.ZONE (descZone x.2)
          let o := if running s wevPage && !s.wev.disabling then wevRun s x.2 else (5, {}, s)
          ringDone o.2.2.drawn r { n := x.1, status := o.1, entry := x.2, poisoned := o.2.1.poisoned,
                                   bytes := [(0, wevCompletion o.1 o.2.1 (o.2.2.free % 256))] }

/-- WEV_ENCODE (R280). -/
def execWevEncode (s : State) : Result := .next (wevServe s fun op => !(op = 2 || op = 3 || op = 4))
/-- WEV_ACCUM (R280). -/
def execWevAccum (s : State) : Result := .next (wevServe s fun op => op = 2)
/-- WEV_VERIFY (R280). -/
def execWevVerify (s : State) : Result := .next (wevServe s fun op => op = 4)

/-- Poison marks on a descriptor's destination granules (R284). -/
def wevSpoil (s : State) (e : List Nat) : State :=
  if badDesc e then s
  else (bitList 12 (descWant e)).foldl (fun s w =>
    (List.range (descCount e)).foldl (fun s i => writeStrand e i s w none) s) s

/-- WEV_PARITY_FAULT (R284): fatal to the block. -/
def execWevParityFault (s : State) : Result :=
  .next (
    let s := s.bump WEV.PARITY.PARITY_CNT
    if !domainLive s wevPage.domain || pageState s wevPage = stFault then s
    else
      let s : State := match s.wev.cur with
        | none => s
        | some c =>
          let x := s.ring c.ring
          let d := x.done.map fun d => if d.n = c.n then
            { d with status := 6, bytes := [(0, wevCompletion 6 { poisoned := d.poisoned } d.byte1)] } else d
          wevSpoil (s.setRing c.ring { x with done := d }) c.entry
      let s : State := match s.sch.portRun with
        | none => s
        | some (e, r, _, p) =>
          wevSpoil ({ s with sch := { s.sch with portRun := some (e, r, 6, p) } }) e
      pageFault ({ s with wev := { s.wev with disabling := false } } : State) wevPage 5 3)

/-- A write of ERASE_INJ (R296). -/
def eraseInjWrite (q : Req) (w : Word) (s : State) : State :=
  let s := plainWrite s q wevPage 0x064 w
  if WEV.ERASE_INJ.ARM.of w = 1 then s.put WEV.ERASE_INJ.ARM 1 else s

/-- ERASE_INJ_ARM (R296). -/
def execEraseInjArm (q : Req) (w : BitVec 32) (s : State) : Result :=
  .next (guarded s q wevPage 0x064 w (eraseInjWrite q w))

/-- CODE_DATA as computed (R296). -/
def codeData (s : State) : Nat :=
  let k := profileK (s.get WEV.CODE_WIN.PROFILE)
  let i := s.get WEV.CODE_WIN.ROW
  let j := s.get WEV.CODE_WIN.COL
  if i < 12 - k && j < k then weaveCoef i j else 0

/-- A write of any WEV register (R296). -/
def wevWrite (q : Req) (off : Nat) (w : Word) (s : State) : State :=
  if off = 0x064 then eraseInjWrite q w s else plainWrite s q wevPage off w

/-- The engine of a ring has written a completion: what else that means (R282, R284, R297, R459, R461). -/
def engineCompleted (s : State) (c : Nat) (d : RingDone) : State :=
  if c = 1 then
    let s := wevIdle (wevCount s d.entry d.status d.poisoned)
    if s.wev.disabling then wevOff s else s
  else if c = 6 then
    raiseIf (bit (d.entry.headD 0) 6) ({ s with wrk := { s.wrk with copy := none } }) wrkPage 3 7
  else if c = 7 then { s with wrk := { s.wrk with crypto := none } }
  else s

/-- RING_COMPLETION (R282, R454, R459). -/
def execRingCompletion (ring : Fin 256) (s : State) : Result :=
  .next (match (s.ring ring.val).done with
    | [] => s
    | d :: _ =>
      if !domainLive s wrkPage.domain then s
      else engineCompleted (ringWriteBack s ring.val d) (s.ring ring.val).engine d)

end Sys2Proof.Machine
end

