-- ==== Sys2Proof/Machine/Host.lean ====
section
/-! DEFINITION. HQ: queues, command slots, fetching, completions, interrupts, asynchronous events (chapter "Host transport
and queues"). -/

namespace Sys2Proof.Machine

open Sys2Proof

/-- The page of HQn. -/
def hqPage (n : Nat) : Page := ⟨.hq, n⟩
/-- The page of PCXn. -/
def pcxPage (n : Nat) : Page := ⟨.pcx, n⟩
/-- Command slot `k` (R305). -/
def State.slot (s : State) (k : Nat) : Slot := sget {} s.nvme.slots k
/-- Set a slot. -/
def State.setSlot (s : State) (k : Nat) (v : Slot) : State :=
  { s with nvme := { s.nvme with slots := sset {} s.nvme.slots k v } }
/-- Controller `n`. -/
def State.ctl (s : State) (n : Nat) : Ctl := sget {} s.nvme.ctls n
/-- Set a controller. -/
def State.setCtl (s : State) (n : Nat) (v : Ctl) : State :=
  { s with nvme := { s.nvme with ctls := sset {} s.nvme.ctls n v } }
/-- Submission queue `y`. -/
def Ctl.sq (c : Ctl) (y : Nat) : Option Sq := sget none c.sqs y
/-- Set a submission queue. -/
def Ctl.setSq (c : Ctl) (y : Nat) (v : Option Sq) : Ctl := { c with sqs := sset none c.sqs y v }
/-- Completion queue `y`. -/
def Ctl.cq (c : Ctl) (y : Nat) : Option Cq := sget none c.cqs y
/-- Set a completion queue. -/
def Ctl.setCq (c : Ctl) (y : Nat) (v : Option Cq) : Ctl := { c with cqs := sset none c.cqs y v }

/-- `a - b` modulo a queue's size. -/
def ringGap (size a b : Nat) : Nat := if size = 0 then 0 else (a + size - b % size) % size
/-- Entries of a submission queue not yet fetched (R310). -/
def Sq.unfetched (q : Sq) : Nat := ringGap q.size q.tail q.head
/-- A completion queue is full (R312). -/
def Cq.full (q : Cq) : Bool := (q.tail + 1) % max 1 q.size = q.head

/-- The slots held by commands of a controller that satisfy `p`. -/
def heldSlots (s : State) (n : Nat) (p : Slot → Bool) : List Nat :=
  s.nvme.slots.filterMap fun e => if e.2.st ≠ .free && e.2.ctrl = n && p e.2 then some e.1 else none
/-- SLOTS (R331). -/
def slotsHeld (s : State) (n : Nat) : Nat := (heldSlots s n fun _ => true).length

/-- SLOT_MIN, held between 8 and 2,048 (R305, R331). -/
def slotMin (s : State) (n : Nat) : Nat := min 2048 (max 8 (s.get HQ.HQ_CTL.SLOT_MIN n))

/-- Slots of the admin queue's 8 that its commands do not hold (R305). -/
def adminKept (s : State) (n : Nat) : Nat := 8 - (heldSlots s n fun x => x.sqid = 0).length

/-- Slots that stay free for controller `n` (R305): what its commands have not taken of SLOT_MIN, and its admin queue's 8. -/
def slotsKept (s : State) (n : Nat) : Nat := max (slotMin s n - slotsHeld s n) (adminKept s n)

/-- Slots available to a queue of controller `n` (R305): the other controller's reserve and, for an I/O queue, the admin
queue's 8 stay free. -/
def slotsFor (s : State) (n : Nat) (admin : Bool) : Nat :=
  4096 - (slotsHeld s 0 + slotsHeld s 1) - slotsKept s (1 - n) - (if admin then 0 else adminKept s n)

/-- The lowest free slot. -/
def freeSlot (s : State) : Option Nat := (List.range 4096).find? fun k => (s.slot k).st = .free

/-- Bytes moved between a port and host memory: RD_MIB counts reads of host memory, WR_MIB writes (R333). -/
def countMoved (s : State) (port : Nat) (write : Bool) (n : Nat) : State :=
  let k := 2 * port + (if write then 1 else 0)
  let v := sget 0 s.nvme.moved k + n
  let s := { s with nvme := { s.nvme with moved := sset 0 s.nvme.moved k (v % 1048576) } }
  if v < 1048576 then s
  else s.bump (if write then PCX.WR_MIB.COUNT else PCX.RD_MIB.COUNT) (v / 1048576) port

/-- The port a controller's function is on (R298). -/
def portOf (s : State) (n : Nat) : Nat := if s.straps.port then 0 else n

/-! Asynchronous events (R311, R353). -/

/-- Dword 0 of an event: type, information and log page, as the NVM Express specifications number them (PRESUMED,
log 35). -/
def HostEvent.word : HostEvent → Nat
  | .invalidDoorbell => 0x010000
  | .invalidDoorbellValue => 0x010100
  | .reliability => 0x020001
  | .temperature => 0x020101
  | .spare => 0x020201
  | .nsAttributeChanged => 0x040002
  | .firmwareActivation => 0x030102
  | .anaChange => 0x0C0302
  | .zoneChanged => 0xBFEF02
  | .weaveStatus => 0xC10007

/-- An event of type Error Status (R311). -/
def HostEvent.error (e : HostEvent) : Bool := e = .invalidDoorbell || e = .invalidDoorbellValue

/-- The type of an event: error, SMART, notice or vendor specific (R353); a report masks the events of its type until its log
page has been read (PRESUMED, log 35). -/
def HostEvent.type (e : HostEvent) : Nat := e.word % 8

/-- Accept a completion entry for a slot (R306, R307, R312): it waits in its completion queue's posting order. A slot
whose queues are gone becomes FREE; during a controller disable there is no entry (R318). -/
def acceptCqe (s : State) (k : Nat) (status : CplStatus) (dw0 dw1 : Nat := 0) : State :=
  let x := s.slot k
  if x.st = .free || x.st = .posting || (s.ctl x.ctrl).closing then s
  else
    let c := s.ctl x.ctrl
    let c := match status with
      | .named .success | .word _ => c
      | .named e => { c with errors := ((x.sqid, x.cid, e) :: c.errors).take 64, errorCount := c.errorCount + 1 }
    let s := { s with nvme := { s.nvme with cmds := s.nvme.cmds.filter fun m => m.slot ≠ k } }
    match (c.sq x.sqid).bind fun q => (c.cq q.cq).map fun y => (q.cq, y) with
    | none => s.setSlot k { gen := x.gen }
    | some (y, q) =>
      (s.setCtl x.ctrl (c.setCq y (some { q with waiting := q.waiting ++ [⟨k, status, dw0, dw1, x.sqid, x.cid, 0⟩] }))).setSlot k
        { x with st := .posting }

/-- Complete a slot's command with a status the spec names. -/
def endCmd (s : State) (k : Nat) (st : HostStatus) (dw0 dw1 : Nat := 0) : State := acceptCqe s k (.named st) dw0 dw1

/-- Report an asynchronous event on controller `n`: through an outstanding request, if its kind is wanted and its last
report's log page has been read (the vendor specific one is always wanted); without a request, or while its type is masked,
an error event is counted alone, another waits (R311, R353; waiting: PRESUMED, log 35). -/
def asyncEvent (s : State) (n : Nat) (e : HostEvent) : State :=
  let c := s.ctl n
  if c.muted.contains e || !(e.error || e = .weaveStatus || c.wanted.contains e) then s
  else
    let masked := c.muted.any fun m => m.type = e.type
    match c.aers with
    | k :: ks =>
      if masked then (if e.error || c.events.contains e then s else s.setCtl n { c with events := c.events ++ [e] })
      else endCmd (s.setCtl n { c with aers := ks, muted := c.muted ++ [e] }) k .success e.word
    | [] => if e.error || c.events.contains e then s else s.setCtl n { c with events := c.events ++ [e] }

/-- Report the oldest of the events that wait whose type is not masked, if a request is outstanding (R353). -/
def reportWaiting (s : State) (n : Nat) : State :=
  let c := s.ctl n
  match c.events.find? fun e => !(c.muted.any fun m => m.type = e.type) with
  | some e => if c.aers.isEmpty then s else asyncEvent (s.setCtl n { c with events := c.events.filter fun x => x ≠ e }) n e
  | none => s

/-- On both controllers. -/
def asyncBoth (s : State) (e : HostEvent) : State := asyncEvent (asyncEvent s 0 e) 1 e

/-! Doorbells (R309-R311). -/

/-- A doorbell write is discarded (R311, R332). -/
def doorbellRefused (s : State) (n : Nat) (reg : Bool) : State :=
  let s := s.bump (if reg then HQ.DB_ERR.INVALID_REG else HQ.DB_ERR.INVALID_VAL) 1 n
  asyncEvent (raise s (hqPage n) 2 7) n (if reg then .invalidDoorbell else .invalidDoorbellValue)

/-- SQ_TAIL_DOORBELL (R304, R310, R311). -/
def execSqTailDoorbell (ctrl : Fin 2) (queue : Fin 2048) (value : BitVec 32) (s : State) : Result :=
  .next (
    let n := ctrl.val
    let c := s.ctl n
    if !domainLive s (hqPage n).domain then s
    else match c.sq queue.val with
      | none => doorbellRefused s n true
      | some q =>
        if q.deleting.isSome then doorbellRefused s n true
        else if q.size ≤ value.toNat || ringGap q.size value.toNat q.head < q.unfetched then doorbellRefused s n false
        else s.setCtl n (c.setSq queue.val (some { q with tail := value.toNat })))

/-- CQ_HEAD_DOORBELL (R311, R312). -/
def execCqHeadDoorbell (ctrl : Fin 2) (queue : Fin 2048) (value : BitVec 32) (s : State) : Result :=
  .next (
    let n := ctrl.val
    let c := s.ctl n
    if !domainLive s (hqPage n).domain then s
    else match c.cq queue.val with
      | none => doorbellRefused s n true
      | some q =>
        if q.size ≤ value.toNat || ringGap q.size q.tail q.head < ringGap q.size value.toNat q.head then
          doorbellRefused s n false
        else
          let q := { q with head := value.toNat }
          s.setCtl n (c.setCq queue.val (some { q with warned := q.warned && q.full })))

/-! Fetching (R308, R310, R314, R315, R327, R335). -/

/-- A safe or recovery start serves few commands (R335, R565). -/
def safeStart (s : State) : Bool := 2 ≤ s.get DOM.DOM_STAT.START_KIND

/-- The admin opcodes a controller serves (R335); in a recovery start controller 0 serves four (R566). -/
def adminOpcode (s : State) (n op : Nat) : Bool :=
  if s.get DOM.DOM_STAT.START_KIND = 3 then n = 0 && [0x02, 0x06, 0x10, 0x11].contains op
  else if safeStart s then [0x02, 0x06, 0x09, 0x0A, 0x0C, 0x10, 0x11].contains op
  else [0x00, 0x01, 0x02, 0x04, 0x05, 0x06, 0x08, 0x09, 0x0A, 0x0C, 0x10, 0x11, 0x14, 0x80, 0x81, 0x82].contains op ||
    (n = 0 && [0x0D, 0x15, 0x84].contains op)

/-- The I/O opcodes served (R341), as the NVM Express specifications number them; those of the Zoned Namespace set where
CC.CSS selects the I/O command sets (R301; PRESUMED, log 35). -/
def ioOpcode (s : State) (n op : Nat) : Bool :=
  !safeStart s && ([0x00, 0x01, 0x02, 0x08, 0x0C, 0x0D, 0x0E, 0x11, 0x15].contains op ||
    ((s.ctl n).css = 6 && [0x79, 0x7A, 0x7D].contains op))

/-- A command asks for an action that the device does not support, and ends Invalid Field in Command (R335, R350, R356, R358,
R360, R361, R539): of Namespace Management and Attachment, Firmware Commit, Device Self-test, Format NVM, Security, Sanitize,
and of Zone Management Send and Receive. The places of the action in Dwords 10 and 13 are PRESUMED (log 35). -/
def otherAction (admin : Bool) (op : Nat) (sqe : List Nat) : Bool :=
  let w := leNat ((sqe.drop 40).take 4)
  let byte := (sqe[52]?).getD 0
  if admin then
    if op = 0x0D || op = 0x15 then decide (1 < bits w 0 4)
    else if op = 0x10 then decide (3 < bits w 3 3)
    else if op = 0x14 then !([1, 2, 15] : List Nat).contains (bits w 0 4)
    else if op = 0x80 then decide (2 < bits w 9 3)
    else if op = 0x81 || op = 0x82 then !([0x00, 0xF0] : List Nat).contains (bits w 24 8)
    else if op = 0x84 then !([3, 4] : List Nat).contains (bits w 0 3)
    else false
  else if op = 0x79 then !([1, 2, 3, 4, 5, 16] : List Nat).contains byte
  else if op = 0x7A then decide (1 < byte)
  else false

/-- HQn fetches at all (R318-R320, R331, R381). -/
def hqFetches (s : State) (n : Nat) : Bool :=
  running s (hqPage n) && domainLive s (hqPage n).domain && s.get HQ.HQ_CTL.FETCH_EN n = 1 &&
    s.get HQ.HQ_STAT.CC_EN n = 1 && s.get HQ.HQ_STAT.RDY n = 1 && s.get HQ.HQ_STAT.CFS n = 0 &&
    s.get HQ.HQ_STAT.SHST n = 0 &&
    s.get SCH.SCH_STAT.PL_STATE = 0 && !s.wires.pfail

/-- Queues that hold unfetched entries and may be fetched from, rising. -/
def readyQueues (c : Ctl) : List (Nat × Sq) :=
  c.sqs.filterMap fun e => match e.2 with
    | some q => if q.unfetched ≠ 0 && q.deleting.isNone then some (e.1, q) else none
    | none => none

/-- Round robin among `l` after the queue served last, which keeps its turn until its burst is spent (R314). -/
def roundRobin (burst : Nat) (served : Nat × Nat) (l : List (Nat × Sq)) : Option (Nat × Sq) :=
  match l.find? fun e => e.1 = served.1 && decide (served.2 < burst) with
  | some e => some e
  | none => match l.find? fun e => decide (served.1 < e.1) with
    | some e => some e
    | none => l.head?

/-- The commands a queue's turn allows: 2^AB, 7 for no limit (R314). -/
def burstOf (s : State) (n : Nat) : Nat := if s.get HQ.ARB.AB n = 7 then 2 ^ 32 else 2 ^ s.get HQ.ARB.AB n

/-- The queue that a fetch turn serves (R314): its number, the queue, its class, the commands the turn still allows, and the
class credits before it. -/
structure Pick where
  y : Nat
  q : Sq
  cls : Nat
  left : Nat
  credits : Nat × Nat × Nat

/-- Round robin in a class of queues, of which the arbitration allows `left` commands (R314). -/
def pickClass (s : State) (n cls left : Nat) (k : Nat × Nat × Nat) (l : List (Nat × Sq)) : Option Pick :=
  let served := sget (0, 0) (s.ctl n).served cls
  (roundRobin (burstOf s n) served l).map fun e =>
    let used := if served.1 = e.1 && decide (served.2 < burstOf s n) then served.2 else 0
    { y := e.1, q := e.2, cls := cls, left := min left (burstOf s n - used), credits := k }

/-- The queue controller `n` serves next (R314): admin first, then round robin, or with CC.AMS 1 urgent, then high, medium and
low, each until its weight of commands is spent in the round. -/
def pickQueue (s : State) (n : Nat) : Option Pick :=
  let c := s.ctl n
  let l := readyQueues c
  let io := l.filter fun e => e.1 ≠ 0
  let of := fun (p : Nat) => io.filter fun e => e.2.prio = p
  match l.find? fun e => e.1 = 0 with
  | some e => some { y := 0, q := e.2, cls := 5, left := 8, credits := c.credits }
  | none =>
    if s.get HQ.ARB.AMS n ≠ 1 then pickClass s n 4 (2 ^ 32) c.credits io
    else
      let go := fun (k : Nat × Nat × Nat) =>
        ((pickClass s n 1 (s.get HQ.ARB.HPW n + 1 - k.1) k (of 1)).filter fun x => 0 < x.left).or <|
        ((pickClass s n 2 (s.get HQ.ARB.MPW n + 1 - k.2.1) k (of 2)).filter fun x => 0 < x.left).or <|
        ((pickClass s n 3 (s.get HQ.ARB.LPW n + 1 - k.2.2) k (of 3)).filter fun x => 0 < x.left)
      (pickClass s n 0 (2 ^ 32) c.credits (of 0)).or ((go c.credits).or (go (0, 0, 0)))

/-- The credits of the classes after `m` commands of one of them (R314). -/
def Pick.after (p : Pick) (m : Nat) : Nat × Nat × Nat :=
  (p.credits.1 + (if p.cls = 1 then m else 0), p.credits.2.1 + (if p.cls = 2 then m else 0),
    p.credits.2.2 + (if p.cls = 3 then m else 0))

/-- A slot of the queue's command identifier is held (R308). -/
def cidHeld (s : State) (n y cid : Nat) : Bool :=
  !(heldSlots s n fun x => x.sqid = y && x.cid = cid).isEmpty

/-- The IN entry of a fetched command (R327). -/
def inEntry (sqe : List Nat) (k y n gen : Nat) : List Nat :=
  (sqe ++ List.replicate 64 0).take 64 ++ leBytes 2 k ++ leBytes 2 y ++ [n, 0, 0, 0] ++ leBytes 8 gen ++
    List.replicate 48 0

/-- Fetch one entry of a queue into a slot (R305-R308, R327, R335); none where it cannot be delivered. Bytes 2-3 of an
entry hold the CID and byte 0 the opcode (PRESUMED, log 35). -/
def fetchOne (s : State) (n y : Nat) (sqe : List Nat) : Option State :=
  match (s.ctl n).sq y, freeSlot s with
  | some q, some k =>
    let cid := leNat ((sqe.drop 2).take 2)
    let op := sqe.headD 0
    let gen := (s.slot k).gen + 1
    let conflict := cidHeld s n y cid
    let slot : Slot := { st := .fetched, ctrl := n, sqid := y, cid := cid, gen := gen, sqe := sqe }
    let taken := fun (s : State) =>
      let s := s.setCtl n ((s.ctl n).setSq y (some { q with head := (q.head + 1) % max 1 q.size }))
      countMoved ((s.setSlot k slot).bump HQ.CMD_CNT.FETCHED 1 n) (portOf s n) false 64
    if conflict then
      some (raise (endCmd ((taken s).bump HQ.WAIT_CNT.CID_CONFLICT 1 n) k .commandIdConflict) (hqPage n) 7 7)
    else
      let r := s.get HQ.IN_RING.RING n
      if (s.ring r).engine ≠ 2 + 2 * n then none
      else (ringPut s r (inEntry sqe k y n gen)).map fun s =>
        if !(if y = 0 then adminOpcode s n op else ioOpcode s n op) then endCmd (taken s) k .invalidOpcode
        else if otherAction (y = 0) op sqe then endCmd (taken s) k .invalidField else taken s
  | _, _ => none

/-- Fetch entries in turn until one cannot be delivered: how many, and the state. -/
def fetchRunOf (n y : Nat) : List (List Nat) → Nat × State → Nat × State
  | [], a => a
  | e :: es, (c, s) =>
    match fetchOne s n y e with
    | none => (c, s)
    | some s => fetchRunOf n y es (c + 1, s)

/-- The controllers in the order of their fetch turns: the one whose turn it is, until its weight of commands is spent, first
(R315). -/
def turnOrder (s : State) : Nat × Nat :=
  let c := s.nvme.turn.1
  if s.nvme.turn.2 < max 1 (s.get HQ.CTRL_WEIGHT.WEIGHT c) then (c, 1 - c) else (1 - c, c)

/-- The commands that the turn of controller `n` still allows (R315). -/
def turnLeft (s : State) (n : Nat) : Nat :=
  let w := max 1 (s.get HQ.CTRL_WEIGHT.WEIGHT n)
  if s.nvme.turn.1 = n && decide (s.nvme.turn.2 < w) then w - s.nvme.turn.2 else w

/-- A controller has something to fetch. -/
def hasWork (s : State) (n : Nat) : Bool := hqFetches s n && (pickQueue s n).isSome

/-- A controller that has work has a slot for it (R305). -/
def hasSlot (s : State) (n : Nat) : Bool :=
  match pickQueue s n with
  | some x => decide (0 < slotsFor s n (x.y = 0))
  | none => false

/-- A controller takes its fetch turn; one with nothing to fetch or no slot passes it (R315). -/
def takesTurn (s : State) (n : Nat) : Bool := hasWork s n && hasSlot s n

/-- Count a turn passed for lack of a slot (R305, R331, R332). -/
def countStall (s : State) (n : Nat) : State :=
  if hasWork s n && !hasSlot s n then raise (s.bump HQ.SLOT_STALL.STALLS 1 n) (hqPage n) 5 7 else s

/-- A fetch turn of controller `n` (R305, R310, R314): at most 8 entries, not across the queue's end. -/
def fetchFrom (s : State) (n : Nat) (entries : List (List Nat)) : State :=
  match pickQueue s n with
  | none => s
  | some p =>
    let want := min (min (min 8 p.q.unfetched) (min (p.q.size - p.q.head) (slotsFor s n (p.y = 0)))) (min p.left (turnLeft s n))
    let spent := max 1 (s.get HQ.CTRL_WEIGHT.WEIGHT n) - turnLeft s n
    let served := sget (0, 0) (s.ctl n).served p.cls
    let used := if served.1 = p.y && decide (served.2 < burstOf s n) then served.2 else 0
    let r := fetchRunOf n p.y (entries.take want) (0, s)
    let s := r.2
    let s := { s with nvme := { s.nvme with turn := (n, spent + r.1) } }
    let c := s.ctl n
    if p.y = 0 then s
    else s.setCtl n { c with served := sset (0, 0) c.served p.cls (p.y, used + r.1), credits := p.after r.1 }

/-- COMMAND_FETCH (R305, R308, R310, R314, R315, R327): at most 8 entries, not across the queue's end, never past the
accepted tail. -/
def execCommandFetch (entries : List (List Byte)) (s : State) : Result :=
  .next (
    let o := turnOrder s
    let l := entries.map fun e => e.map (·.toNat)
    if takesTurn s o.1 then fetchFrom s o.1 l
    else
      let s := countStall s o.1
      if takesTurn s o.2 then fetchFrom s o.2 l else countStall s o.2)

/-! The OUT ring (R307, R327). -/

/-- A slot's occupancy that an OUT entry names, if HQn holds it and it is not completed (R307). -/
def outOwned (s : State) (n : Nat) (e : List Nat) : Option Nat :=
  let k := leNat ((e.drop 2).take 2) % 4096
  let x := s.slot k
  if x.ctrl = n && x.st ≠ .free && x.st ≠ .posting && !(s.ctl n).closing && x.gen = leNat ((e.drop 16).take 8) then some k else none

/-- Take the oldest fetched OUT entry whose OP the command names: `f` acts on an owned slot (R327). -/
def outServe (s : State) (n : Nat) (mine : Nat → Bool) (f : State → List Nat → Nat → Option State) : State :=
  let r := s.get HQ.OUT_RING.RING n
  match ringPeek s r with
  | none => s
  | some e =>
    if !mine (e.headD 0) || !working s (hqPage n) || s.get HQ.HQ_STAT.CFS n = 1 then s
    else match ringStart s r (3 + 2 * n) with
      | none => s
      | some (x, s) =>
        match (outOwned s n x.2).bind (f s x.2) with
        | some s => ringDone s r { n := x.1, bytes := [(0, [0])], status := 0, entry := x.2 }
        | none => raise (ringDone s r { n := x.1, bytes := [(0, [1])], status := 1, entry := x.2 }) (hqPage n) 7 7

/-- OUT_START (R306, R327). -/
def execOutStart (ctrl : Fin 2) (s : State) : Result :=
  .next (outServe s ctrl.val (fun op => op = 1) fun s _ k =>
    some (if (s.slot k).st = .fetched then s.setSlot k { s.slot k with st := .started } else s))

/-- OUT_COMPLETE (R307, R327): an OP not listed is NOT_OWNED. -/
def execOutComplete (ctrl : Fin 2) (s : State) : Result :=
  .next (outServe s ctrl.val (fun op => op ≠ 1) fun s e k =>
    if e.headD 0 = 2 then
      some (acceptCqe s k (.word (leNat ((e.drop 4).take 4) % 2 ^ 15)) (leNat ((e.drop 8).take 4))
        (leNat ((e.drop 12).take 4)))
    else none)

/-! Posting and interrupts (R304, R312, R313, R316, R317, R319, R322). -/

/-- A signal of a completion queue's vector (R316, R317): a masked MSI-X vector sets its pending bit. INTx and the single
message of MSI stand for all queues, unless INTMS masks them, which acts while MSI-X is disabled. -/
def signalCq (c : Ctl) (y : Nat) (q : Cq) : Bool × Ctl :=
  let c := c.setCq y (some { q with fresh := 0 })
  if c.irq ≠ .msix then (!bit c.intMask 0, c)
  else if c.unmasked.contains q.iv then (true, c)
  else (false, { c with pendingBits := if c.pendingBits.contains q.iv then c.pendingBits else c.pendingBits ++ [q.iv] })

/-- An entry makes its queue signal at once (R316, R317). -/
def signalsNow (c : Ctl) (y : Nat) (q : Cq) : Bool :=
  q.ien && (y = 0 || c.uncoalesced.contains q.iv || decide (c.coalesce.1 < q.fresh))

/-- Deletions whose last entry has been posted complete (R304). -/
def settleDeletes (s : State) (n : Nat) : State :=
  (s.ctl n).sqs.foldl (fun s e => match e.2 with
    | some q => match q.deleting with
      | some k =>
        if (heldSlots s n fun x => x.sqid = e.1).isEmpty then
          endCmd (s.setCtl n ((s.ctl n).setSq e.1 none)) k .success
        else s
      | none => s
    | none => s) s

/-- SHST reads complete once every slot of the controller is FREE (R319). -/
def settleShutdown (s : State) (n : Nat) : State :=
  if s.get HQ.HQ_STAT.SHST n = 1 && slotsHeld s n = 0 then s.put HQ.HQ_STAT.SHST 2 n else s

/-- Aborts that waited for a command's entry are answered "aborted" (R322). -/
def answerAborts (s : State) (n k : Nat) : State :=
  let c := s.ctl n
  let l := c.aborts.filter fun a => a.2 = k
  l.foldl (fun s a => endCmd s a.1 .success 0) (s.setCtl n { c with aborts := c.aborts.filter fun a => a.2 ≠ k })

/-- Post the oldest waiting entry of a completion queue (R312). -/
def postEntry (s : State) (n y : Nat) : State :=
  let c := s.ctl n
  match c.cq y with
  | none => s
  | some q =>
    match q.waiting with
    | [] => s
    | e :: es =>
      if q.full || s.get HQ.HQ_STAT.CFS n = 1 || !working s (hqPage n) then s
      else
        let tail := q.tail
        let e := { e with sqHead := ((c.sq e.sqid).map (·.head)).getD 0 }
        let q := { q with tail := (q.tail + 1) % max 1 q.size, waiting := es, fresh := q.fresh + 1 }
        let r := if signalsNow c y q then signalCq c y q else (false, c.setCq y (some q))
        let x := s.slot e.slot
        let s := countMoved ((s.setCtl n r.2).setSlot e.slot { gen := x.gen }) (portOf s n) true 16
        let s := { s with answer := { s.answer with posted := s.answer.posted ++ [(n, y, tail, e, r.1)] } }
        settleShutdown (settleDeletes (answerAborts s n e.slot) n) n

/-- CQ_FULL_TIMEOUT (R312, R332). -/
def execCqFullTimeout (ctrl : Fin 2) (queue : Fin 2048) (s : State) : Result :=
  .next (
    let n := ctrl.val
    match (s.ctl n).cq queue.val with
    | none => s
    | some q =>
      if q.full && !q.warned then
        raise ((s.setCtl n ((s.ctl n).setCq queue.val (some { q with warned := true }))).bump HQ.WAIT_CNT.CQ_FULL 1 n)
          (hqPage n) 6 7
      else s)

/-- INTERRUPT_COALESCE_TIMEOUT (R317). -/
def execInterruptCoalesceTimeout (ctrl : Fin 2) (queue : Fin 2048) (s : State) : Result :=
  .next (
    let n := ctrl.val
    match (s.ctl n).cq queue.val with
    | none => s
    | some q =>
      if q.fresh = 0 || !q.ien then s
      else
        let r := signalCq (s.ctl n) queue.val q
        (s.setCtl n r.2).reply (if r.1 then 1 else 0) [])

/-- MSIX_VECTOR_UNMASK (R317): a pending message goes out. -/
def execMsixVectorUnmask (ctrl : Fin 2) (vector : Fin 2048) (s : State) : Result :=
  .next (
    let n := ctrl.val
    let c := s.ctl n
    let sent := c.pendingBits.contains vector.val
    (s.setCtl n { c with
      unmasked := if c.unmasked.contains vector.val then c.unmasked else c.unmasked ++ [vector.val]
      pendingBits := c.pendingBits.filter fun v => v ≠ vector.val }).reply (if sent then 1 else 0) [])

/-! Controller state (R301, R319, R332). -/

/-- CAP.MQES (R301): a queue has at most one entry more. -/
def capMqes : Nat := 0x0FFF

/-- CAP as the host reads it (R301): MQES, CQR, AMS, TO, DSTRD, NSSRS, CSS, MPSMIN and MPSMAX. -/
def capWord : Nat :=
  capMqes + 1 * 2 ^ 16 + 0b01 * 2 ^ 17 + 4 * 2 ^ 24 + 0 * 2 ^ 32 + 0 * 2 ^ 36 + 0b01000001 * 2 ^ 37 + 0 * 2 ^ 48 + 4 * 2 ^ 52

/-- VS as the host reads it (R301): version 2.0. -/
def vsWord : Nat := 0x00020000

/-- CAP, VS, CMBLOC, CMBSZ and the PMR registers as the host reads them (R301). -/
def ctlRegisters : List Nat := [capWord, vsWord, 0, 0, 0]

/-- A controller that has been enabled becomes ready while HQ runs, once a disable before it is complete: its admin queues
exist and CSTS.RDY sets (R301, R318). -/
def settleEnable (s : State) (n : Nat) : State :=
  let c := s.ctl n
  match c.opening with
  | none => s
  | some (asq, acq) =>
    if c.closing || !running s (hqPage n) then s
    else
      let c := ({ c with opening := none } : Ctl)
      let c := (c.setSq 0 (some { size := asq, cq := 0 })).setCq 0 (some { size := acq, ien := true })
      ((s.setCtl n c).put HQ.HQ_STAT.RDY 1 n).put HQ.HQ_STAT.SHST 0 n

/-- CONTROLLER_ENABLE (R301, R316, R320): the controller becomes ready as soon as HQ runs. The host finds the controller
registers at their values. -/
def execControllerEnable (ctrl : Fin 2) (ams : BitVec 2) (mps : Fin 5) (css : BitVec 3) (asq acq : Nat) (irq : IrqMode)
    (mask : BitVec 32) (vectors : Nat) (s : State) : Result :=
  .next (
    let n := ctrl.val
    if !domainLive s (hqPage n).domain || s.get HQ.HQ_STAT.CC_EN n = 1 ||
        (s.get DOM.DOM_STAT.START_KIND = 3 && n = 1) then s
    else
      let s := raise ((s.put HQ.HQ_STAT.CC_EN 1 n).put HQ.ARB.AMS ams.toNat n) (hqPage n) 0 7
      let s := s.setCtl n { s.ctl n with
        opening := some (asq, acq), mps := mps.val, css := css.toNat, irq := irq, intMask := mask.toNat
        vectors := if irq = .msix then vectors else 1 }
      settleEnable (s.reply 0 ctlRegisters) n)

/-- SHUTDOWN_NOTIFY (R319). -/
def execShutdownNotify (ctrl : Fin 2) (s : State) : Result :=
  .next (
    let n := ctrl.val
    if !domainLive s (hqPage n).domain then s
    else settleShutdown ((raise s (hqPage n) 1 7).put HQ.HQ_STAT.SHST 1 n) n)

/-! Queue commands (R303, R304). -/

/-- A slot holds a command that runs, on an admin queue or not. While an activation replaces the application cores' firmware no
fetched command is taken (R359). -/
def serves (s : State) (k : Nat) (admin : Bool) : Bool :=
  let x := s.slot k
  !(s.nvme.activation.any (·.pausing)) && (x.st = .fetched || x.st = .started) && (x.sqid = 0) = admin

/-- Act on the admin command of a slot. -/
def onAdmin (s : State) (k : Nat) (f : State → Nat → State) : State :=
  if serves s k true then f s (s.slot k).ctrl else s

/-- An address is aligned to the host page size, CC.MPS (R301, R303). -/
def pageAligned (c : Ctl) (a : Nat) : Bool := a % (4096 * 2 ^ c.mps) = 0

/-- CREATE_IO_CQ (R303). -/
def execCreateIoCq (slot : Fin 4096) (qid qsize : BitVec 16) (pc ien : Bool) (iv : BitVec 16) (prp1 : BitVec 64)
    (s : State) : Result :=
  .next (onAdmin s slot.val fun s n =>
    let c := s.ctl n
    let y := qid.toNat
    let k := slot.val
    if y = 0 || 2047 < y || (c.cq y).isSome then endCmd s k .invalidQueueId
    else if qsize.toNat = 0 || capMqes < qsize.toNat then endCmd s k .invalidQueueSize
    else if !pc then endCmd s k .invalidField
    else if ien && c.vectors ≤ iv.toNat then endCmd s k .invalidInterruptVector
    else if !pageAligned c prp1.toNat then endCmd s k .invalidField
    else endCmd (s.setCtl n (c.setCq y (some { size := qsize.toNat + 1, iv := iv.toNat, ien := ien }))) k .success)

/-- CREATE_IO_SQ (R303). -/
def execCreateIoSq (slot : Fin 4096) (qid qsize : BitVec 16) (pc : Bool) (prio : Fin 4) (cqid : BitVec 16)
    (prp1 : BitVec 64) (s : State) : Result :=
  .next (onAdmin s slot.val fun s n =>
    let c := s.ctl n
    let y := qid.toNat
    let k := slot.val
    if y = 0 || 2047 < y || (c.sq y).isSome then endCmd s k .invalidQueueId
    else if qsize.toNat = 0 || capMqes < qsize.toNat then endCmd s k .invalidQueueSize
    else if !pc then endCmd s k .invalidField
    else if cqid.toNat = 0 || (c.cq cqid.toNat).isNone then endCmd s k .completionQueueInvalid
    else if !pageAligned c prp1.toNat then endCmd s k .invalidField
    else endCmd (s.setCtl n (c.setSq y (some { size := qsize.toNat + 1, cq := cqid.toNat, prio := prio.val }))) k .success)

/-- DELETE_IO_CQ (R304). -/
def execDeleteIoCq (slot : Fin 4096) (qid : BitVec 16) (s : State) : Result :=
  .next (onAdmin s slot.val fun s n =>
    let c := s.ctl n
    let y := qid.toNat
    if y = 0 || (c.cq y).isNone then endCmd s slot.val .invalidQueueId
    else if c.sqs.any fun e => match e.2 with | some q => q.cq = y | none => false then
      endCmd s slot.val .invalidQueueDeletion
    else endCmd (s.setCtl n (c.setCq y none)) slot.val .success)

/-- DELETE_IO_SQ (R304): fetching stops, FETCHED commands end, and the Delete completes once every entry is posted. -/
def execDeleteIoSq (slot : Fin 4096) (qid : BitVec 16) (s : State) : Result :=
  .next (onAdmin s slot.val fun s n =>
    let c := s.ctl n
    let y := qid.toNat
    match c.sq y with
    | none => endCmd s slot.val .invalidQueueId
    | some q =>
      if y = 0 || q.deleting.isSome then endCmd s slot.val .invalidQueueId
      else
        let s := s.setCtl n (c.setSq y (some { q with deleting := some slot.val }))
        let l := heldSlots s n fun x => x.sqid = y && x.st = .fetched
        let s := l.foldl (fun s k => endCmd (s.bump HQ.ABORT_CNT.SQ_DEL 1 n) k .abortedSqDeletion) s
        settleDeletes (raiseIf (!l.isEmpty) s (hqPage n) 3 7) n)

/-- ASYNC_EVENT_REQUEST (R335, R353): held outstanding; an event that waits is reported at once. -/
def execAsyncEventRequest (slot : Fin 4096) (s : State) : Result :=
  .next (onAdmin s slot.val fun s n =>
    let c := s.ctl n
    if c.aers.contains slot.val then s
    else if 16 ≤ c.aers.length then endCmd s slot.val .aerLimitExceeded
    else
      reportWaiting (s.setCtl n { c with aers := c.aers ++ [slot.val] }) n)

end Sys2Proof.Machine
end

