-- ==== Sys2Proof/Machine/Aes.lean ====
section
/-! DEFINITION. AES-256 as the spec uses it: XTS over a sector (R541) and Key Wrap (R616). Bytes are numbers 0-255. -/

namespace Sys2Proof.Machine

open Sys2Proof

/-- Multiply by x in AES's field (0x11B). -/
def aesX (a : Nat) : Nat := if 128 ≤ a then ((2 * a) ^^^ 0x11B) % 256 else 2 * a

/-- Product in AES's field over the low `n` bits of `b`. -/
def aesMulAux : Nat → Nat → Nat → Nat
  | 0, _, _ => 0
  | n + 1, a, b => (if b % 2 = 1 then a else 0) ^^^ aesMulAux n (aesX a) (b / 2)

/-- Product in AES's field. -/
def aesMul (a b : Nat) : Nat := aesMulAux 8 a b

/-- Square `n` times, multiplying the squares together: with 7 squarings, the 254th power. -/
def aesInvAux : Nat → Nat → Nat → Nat
  | 0, _, acc => acc
  | n + 1, a, acc => let q := aesMul a a; aesInvAux n q (aesMul acc q)

/-- Inverse in AES's field, 0 for 0. -/
def aesInv (a : Nat) : Nat := aesInvAux 7 a 1

/-- Rotate a byte left by `n`. -/
def rotl8 (a n : Nat) : Nat := (a * 2 ^ n) % 256 + a / 2 ^ (8 - n)

/-- SubBytes of one byte. -/
def aesSub (a : Nat) : Nat :=
  let b := aesInv a
  b ^^^ rotl8 b 1 ^^^ rotl8 b 2 ^^^ rotl8 b 3 ^^^ rotl8 b 4 ^^^ 0x63

/-- InvSubBytes of one byte. -/
def aesUnsub (a : Nat) : Nat := aesInv (rotl8 a 1 ^^^ rotl8 a 3 ^^^ rotl8 a 6 ^^^ 0x05)

/-- XOR of byte strings. -/
def xorBytes (a b : List Nat) : List Nat := List.zipWith (fun x y => x ^^^ y) a b

/-- The next key words, newest first; `i` counts words from 8, `c` is the round constant. -/
def aesWords : Nat → Nat → Nat → List (List Nat) → List (List Nat)
  | 0, _, _, ws => ws
  | n + 1, i, c, ws =>
    let prev := ws.headD []
    let old := (ws.drop 7).headD []
    let t := if i % 8 = 0 then xorBytes ((prev.drop 1 ++ prev.take 1).map aesSub) [c, 0, 0, 0]
      else if i % 8 = 4 then prev.map aesSub else prev
    aesWords n (i + 1) (if i % 8 = 0 then aesX c else c) (xorBytes old t :: ws)

/-- Cut a list into pieces of `n`, at most `k` of them. -/
def pieces {α : Type} (n : Nat) : Nat → List α → List (List α)
  | 0, _ => []
  | k + 1, l => l.take n :: pieces n k (l.drop n)

/-- The 15 round keys of a 32-byte key. -/
def aesKeys (key : List Nat) : List (List Nat) :=
  pieces 16 15 (aesWords 52 8 1 (pieces 4 8 key).reverse).reverse.flatten

/-- Byte `i` of a block. -/
def blockByte (b : List Nat) (i : Nat) : Nat := (b[i]?).getD 0

/-- ShiftRows. -/
def aesShift (b : List Nat) : List Nat :=
  (List.range 16).map fun i => blockByte b (i % 4 + 4 * ((i / 4 + i % 4) % 4))

/-- InvShiftRows. -/
def aesUnshift (b : List Nat) : List Nat :=
  (List.range 16).map fun i => blockByte b (i % 4 + 4 * ((i / 4 + 4 - i % 4) % 4))

/-- MixColumns with the circulant coefficients m. -/
def aesMix (m : List Nat) (b : List Nat) : List Nat :=
  (List.range 16).map fun i =>
    (List.range 4).foldl (fun a k =>
      a ^^^ aesMul (blockByte b (4 * (i / 4) + k)) (blockByte m ((k + 4 - i % 4) % 4))) 0

/-- The middle and last rounds of encryption. -/
def aesRounds : List (List Nat) → List Nat → List Nat
  | [], b => b
  | [k], b => xorBytes (aesShift (b.map aesSub)) k
  | k :: ks, b => aesRounds ks (xorBytes (aesMix [2, 3, 1, 1] (aesShift (b.map aesSub))) k)

/-- Encrypt a block under round keys. -/
def aesEncrypt (ks : List (List Nat)) (b : List Nat) : List Nat :=
  aesRounds ks.tail (xorBytes b (ks.headD []))

/-- The rounds of decryption, round keys last first. -/
def aesUnrounds : List (List Nat) → List Nat → List Nat
  | [], b => b
  | [k], b => xorBytes ((aesUnshift b).map aesUnsub) k
  | k :: ks, b => aesUnrounds ks (aesMix [14, 11, 13, 9] (xorBytes ((aesUnshift b).map aesUnsub) k))

/-- Decrypt a block under round keys. -/
def aesDecrypt (ks : List (List Nat)) (b : List Nat) : List Nat :=
  let r := ks.reverse
  aesUnrounds r.tail (xorBytes b (r.headD []))

/-- Multiply an XTS tweak by the primitive element. -/
def xtsNext (t : Nat) : Nat := if 2 ^ 127 ≤ t then ((2 * t) % 2 ^ 128) ^^^ 0x87 else 2 * t

/-- The blocks of an XTS data unit in turn, `f` the block cipher. -/
def xtsBlocks (f : List Nat → List Nat) : Nat → Nat → List Nat → List Nat
  | 0, _, _ => []
  | n + 1, t, bs =>
    let tw := leBytes 16 t
    xorBytes (f (xorBytes (bs.take 16) tw)) tw ++ xtsBlocks f n (xtsNext t) (bs.drop 16)

/-- The tweak of a namespace LBA under the second half of a key pair (R541). -/
def xtsTweak (pair : Nat) (lba : Nat) : Nat :=
  leNat (aesEncrypt (aesKeys (leBytes 32 (pair / 2 ^ 256))) (leBytes 16 lba))

/-- Encrypt the 4,112 bytes of a sector (R541). -/
def xtsEncrypt (pair lba : Nat) (bs : List Nat) : List Nat :=
  xtsBlocks (aesEncrypt (aesKeys (leBytes 32 pair))) 257 (xtsTweak pair lba) bs

/-- Decrypt the 4,112 bytes of a sector (R541). -/
def xtsDecrypt (pair lba : Nat) (bs : List Nat) : List Nat :=
  xtsBlocks (aesDecrypt (aesKeys (leBytes 32 pair))) 257 (xtsTweak pair lba) bs

/-- Bytes of `v`, most significant first. -/
def beBytes (n v : Nat) : List Nat := (leBytes n v).reverse

/-- One pass of Key Wrap over the semiblocks, step numbers from `t` on. -/
def kwPass (ks : List (List Nat)) : Nat → List Nat → List (List Nat) → List Nat × List (List Nat)
  | _, a, [] => (a, [])
  | t, a, r :: rs =>
    let b := aesEncrypt ks (a ++ r)
    let x := kwPass ks (t + 1) (xorBytes (b.take 8) (beBytes 8 t)) rs
    (x.1, b.drop 8 :: x.2)

/-- `j` passes of Key Wrap from step `t`. -/
def kwPasses (ks : List (List Nat)) : Nat → Nat → List Nat → List (List Nat) → List Nat × List (List Nat)
  | 0, _, a, rs => (a, rs)
  | j + 1, t, a, rs => let x := kwPass ks t a rs; kwPasses ks j (t + rs.length) x.1 x.2

/-- The integrity value of Key Wrap. -/
def kwIcv : List Nat := List.replicate 8 0xA6

/-- AES-256 Key Wrap of 64 bytes (R616). -/
def kwWrap (key bs : List Nat) : List Nat :=
  let x := kwPasses (aesKeys key) 6 1 kwIcv (pieces 8 8 bs)
  x.1 ++ x.2.flatten

/-- One pass of the unwrap: semiblocks last first, step numbers falling from `t`. -/
def kwUnpass (ks : List (List Nat)) : Nat → List Nat → List (List Nat) → List Nat × List (List Nat)
  | _, a, [] => (a, [])
  | t, a, r :: rs =>
    let b := aesDecrypt ks (xorBytes a (beBytes 8 t) ++ r)
    let x := kwUnpass ks (t - 1) (b.take 8) rs
    (x.1, b.drop 8 :: x.2)

/-- `j` passes of the unwrap from step `t` down. -/
def kwUnpasses (ks : List (List Nat)) : Nat → Nat → List Nat → List (List Nat) → List Nat × List (List Nat)
  | 0, _, a, rs => (a, rs)
  | j + 1, t, a, rs => let x := kwUnpass ks t a rs; kwUnpasses ks j (t - rs.length) x.1 x.2

/-- AES-256 Key Wrap undone on 72 bytes: the 64 bytes, if the integrity check passes (R616). -/
def kwUnwrap (key bs : List Nat) : Option (List Nat) :=
  let x := kwUnpasses (aesKeys key) 6 48 (bs.take 8) (pieces 8 8 (bs.drop 8)).reverse
  if x.1 = kwIcv then some x.2.reverse.flatten else none

end Sys2Proof.Machine
end

