-- ==== Sys2Proof/Machine/Calibrate.lean ====
section
/-! DEFINITION. CAL: calibration sets, recalibration passes, training and monitoring from trial sectors (chapter
"Temperature and calibration"), and the sample that drives it. -/

namespace Sys2Proof.Machine

open Sys2Proof

/-- CAL's record of head `h`. -/
def State.calHead (s : State) (h : Nat) : CalHead := sget {} s.cal.heads h
/-- Change CAL beyond its registers. -/
def State.calMap (s : State) (f : Cal → Cal) : State := { s with cal := f s.cal }
/-- Change CAL's record of a head. -/
def State.mapHead (s : State) (h : Nat) (f : CalHead → CalHead) : State :=
  s.calMap fun c => { c with heads := sset {} c.heads h (f (sget {} c.heads h)) }

/-- A head is calibrated by CAL (R519, R529). -/
def headEn (s : State) (h : Nat) : Bool := bit (s.get CAL.HEAD_EN.EN) h
/-- A head is frozen (R524). -/
def frozen (s : State) (h : Nat) : Bool := bit (s.get CAL.FREEZE.HEADS) h
/-- The heads of an Oar die. -/
def oarHeads (d : Nat) : List Nat := (List.range 16).map (16 * d + ·)
/-- Stroke of the pending commit on an Oar. -/
def calCommit (s : State) (d : Nat) : Option Nat := if d = 0 then s.cal.commit0 else s.cal.commit1
/-- Set the pending commit and PENDING of an Oar (R529). -/
def setCalCommit (s : State) (d : Nat) (v : Option Nat) : State :=
  let s := s.calMap fun c => if d = 0 then { c with commit0 := v } else { c with commit1 := v }
  s.put CAL.CAL_STAT.PENDING (setBit (s.get CAL.CAL_STAT.PENDING) d v.isSome)

/-- Head-stack temperature of a head: that of its pivot (R503). -/
def headTemp (s : State) (h : Nat) : Int :=
  signed 16 (s.get (if h < 16 then TMP.HS_TEMP.PIVOT0 else TMP.HS_TEMP.PIVOT1))

/-! Interpolation (R517). -/

/-- Nearest integer to n / d, halves away from zero (R517). -/
def roundAway (n : Int) (d : Nat) : Int :=
  let q : Nat := (2 * n.natAbs + d) / (2 * d)
  if n < 0 then -(q : Int) else q

/-- The point `k` below a temperature and the weight `w` (R517). -/
def calPoint (t : Int) : Nat × Nat :=
  let t := clampI (-640) 5120 t
  let k := min 5 ((t + 640) / 960).toNat
  (k, (roundAway ((t - (960 * (k : Int) - 640)) * 65536) 960).toNat)

/-- v = v0 + round(w (v1 - v0) / 65,536) (R517). -/
def interp (w : Nat) (v0 v1 : Int) : Int := v0 + roundAway (w * (v1 - v0)) 65536

/-- A sub-field of a word: lowest bit, width, signed or not, interpolated or from the nearer point. -/
structure SubField where
  lsb : Nat
  wid : Nat
  sgnd : Bool
  near : Bool := false
  deriving DecidableEq, Repr

/-- A sub-field's value in a word. -/
def SubField.of (f : SubField) (v : Nat) : Int := if f.sgnd then signed f.wid (bits v f.lsb f.wid) else bits v f.lsb f.wid

/-- A value saturated to a sub-field's format. -/
def SubField.sat (f : SubField) (v : Int) : Int :=
  if f.sgnd then clampI (-(2 ^ (f.wid - 1) : Int)) (2 ^ (f.wid - 1) - 1 : Int) v else clampI 0 (2 ^ f.wid - 1 : Int) v

/-- A sub-field at the interpolated temperature. -/
def SubField.mix (f : SubField) (w v0 v1 : Nat) : Int :=
  if f.near then (if w < 32768 then f.of v0 else f.of v1) else f.sat (interp w (f.of v0) (f.of v1))

/-- A word interpolated sub-field by sub-field (R517). -/
def mixWord (l : List SubField) (w v0 v1 : Nat) : Nat :=
  l.foldl (fun a f => a + unsigned f.wid (f.mix w v0 v1) * 2 ^ f.lsb) 0

/-- Sub-fields of word `k` of an LDP set (R136). -/
def coefFields (k : Nat) : List SubField :=
  if k < 10 then [⟨0, 10, true, false⟩, ⟨16, 10, true, false⟩]
  else if k = 10 then [⟨0, 8, true, false⟩, ⟨8, 8, true, false⟩, ⟨16, 8, false, false⟩, ⟨24, 8, false, false⟩]
  else if k < 27 then
    [⟨0, 8, true, false⟩, ⟨8, 8, true, false⟩, ⟨16, 8, true, false⟩, ⟨24, 8, false, false⟩]
  else []

/-- Sub-fields of an AST head table word 16-63 (R190, R516). -/
def astFields : List SubField :=
  [⟨0, 10, false, false⟩, ⟨10, 10, false, false⟩, ⟨20, 6, true, false⟩, ⟨26, 1, false, true⟩, ⟨27, 1, false, true⟩]

/-- Sub-fields of the LANE words of a record: RDA_PRESET, RDB_PRESET, AFE_FILT, RDB_SKEW (R127, R516). -/
def laneFields (k : Nat) : List SubField :=
  if k < 2 then [⟨0, 8, false, false⟩, ⟨8, 7, true, false⟩, ⟨15, 8, true, false⟩]
  else if k = 2 then [⟨0, 5, false, true⟩, ⟨5, 5, false, true⟩, ⟨10, 3, false, true⟩, ⟨13, 3, false, true⟩]
  else [⟨0, 10, true, false⟩]

/-- Word `k` (32 bits) at byte `at_` of a record. -/
def imgWord (r : List Nat) (at_ k : Nat) : Nat := leNat ((r.drop (at_ + 4 * k)).take 4)

/-- The 22 trained coefficients of a primary set: word, sub-field (R525). -/
def trainedFields : List (Nat × SubField) :=
  (List.range 10).map (fun k => (k / 2, ⟨16 * (k % 2), 10, true, false⟩)) ++
  (List.range 10).map (fun k => (5 + k / 2, ⟨16 * (k % 2), 10, true, false⟩)) ++
  [(10, ⟨0, 8, true, false⟩), (10, ⟨8, 8, true, false⟩)]

/-- Put a sub-field's value into a word. -/
def SubField.put (f : SubField) (v : Nat) (x : Int) : Nat := v - bits v f.lsb f.wid * 2 ^ f.lsb + unsigned f.wid x * 2 ^ f.lsb

/-- Add a training delta to the primary words (R520). -/
def addDelta (words : List Nat) (delta : List Int) : List Nat :=
  (trainedFields.zip delta).foldl (fun l e =>
    let f := e.1.2
    let v := (l[e.1.1]?).getD 0
    l.set e.1.1 (f.put v (f.sat (f.of v + e.2)))) words

/-- A head's two records around a temperature, if both pass their CRC (R517, R518). -/
def headRecords (s : State) (h k : Nat) : Option (List Nat × List Nat) × State :=
  let a := calRecord s (1024 + (7 * h + k) * 1024)
  match a.1 with
  | none => (none, a.2)
  | some r0 =>
    let b := calRecord a.2 (1024 + (7 * h + k + 1) * 1024)
    (b.1.map fun r1 => (r0, r1), b.2)

/-! Coefficient RAM as CAL writes it (R520, R525). -/

/-- Write words of a set's shadow half. -/
def putShadow (s : State) (h set_ : Nat) (words : List Nat) : State :=
  let d := h / 16
  let l := s.ldp d
  let base := ((h % 16 * 2 + set_) * 2) * 64
  s.setLdp d { l with coef := (words.zip (List.range words.length)).foldl (fun m e => sset 0 m (base + e.2) e.1) l.coef }

/-- The words of a set's active half. -/
def activeWords (s : State) (h set_ : Nat) : List Nat :=
  (List.range 64).map fun k => sget 0 (s.ldp (h / 16)).coef (((h % 16 * 2 + set_) * 2 + 1) * 64 + k)

/-- The AST words of a head (R520). -/
def putAst (s : State) (h : Nat) (words : List Nat) : State :=
  let a := h / 8
  let x := s.ast a
  s.setAst a { x with table := (words.zip (List.range words.length)).foldl (fun m e =>
    sset 0 m (64 * (h % 8) + 16 + e.2) e.1) x.table }

/-- Whether CAL reaches the pages of an Oar that a pass writes: while its link trains what is ready waits (R28, R29,
R53). -/
def calReaches (s : State) (d : Nat) : Bool := dieUp s (d + 1) && !dieTraining s (d + 1) && domainLive s (52 + 20 * d)

/-! A pass (R519-R521). -/

/-- The output record of a head (R521). The rule does not lay out bytes 114-115, 118-119 and 124-127: they are those of
`z` (log 42). -/
def outRecord (r0 r1 : List Nat) (w stroke count : Nat) (t : Int) (z : Nat) : List Nat :=
  (List.range 4).flatMap (fun k => leBytes 4 (mixWord (laneFields k) w (imgWord r0 512 k) (imgWord r1 512 k))) ++
  (List.range 48).flatMap (fun k => leBytes 2 (unsigned 16 (interp w (rec16 r0 (720 + 2 * k)) (rec16 r1 (720 + 2 * k))))) ++
  leBytes 2 stroke ++ leBytes 2 (z % 2 ^ 16) ++ leBytes 2 (unsigned 16 t) ++ leBytes 2 (z / 2 ^ 16 % 2 ^ 16) ++
  leBytes 4 count ++ leBytes 4 (z / 2 ^ 32 % 2 ^ 32)

/-- An unsigned 16-bit number in a record. -/
def recU16 (r : List Nat) (i : Nat) : Int := leNat ((r.drop i).take 2)

/-- What the monitor compares with: GAIN of RDA_PRESET, FH_K, RES_REF by rate band (R526). -/
def calRefs (r0 r1 : List Nat) (w : Nat) : Int × Int × List Int :=
  (SubField.mix ⟨0, 8, false, false⟩ w (imgWord r0 512 0) (imgWord r1 512 0),
    interp w (recU16 r0 912) (recU16 r1 912),
    (List.range 48).map fun k => interp w (recU16 r0 (816 + 2 * k)) (recU16 r1 (816 + 2 * k)))

/-- Compute and write a head's pass for the catch at `stroke` (R517, R520, R521). Whether it is ready. -/
def computePass (s : State) (h stroke : Nat) : Bool × State :=
  let t := headTemp s h
  let p := calPoint t
  match headRecords s h p.1 with
  | (none, s) => (false, s.mapHead h fun x => { x with due := false })
  | (some (r0, r1), s) =>
    let x := s.calHead h
    let w := p.2
    let prim := (List.range 64).map fun k => mixWord (coefFields k) w (imgWord r0 0 k) (imgWord r1 0 k)
    let alt := (List.range 64).map fun k => mixWord (coefFields k) w (imgWord r0 256 k) (imgWord r1 256 k)
    let s := putShadow (putShadow s h 0 (addDelta prim x.delta)) h 1 alt
    let s := if domainLive s (55 + 20 * (h / 16) + h / 8 % 2) then
        putAst s h ((List.range 48).map fun k => mixWord astFields w (imgWord r0 528 k) (imgWord r1 528 k))
      else s
    let s := (memWrite s (s.get CAL.OUT_BASE.ADDR * 4096 + 128 * h) (outRecord r0 r1 w stroke (x.out + 1) t s.free)).drawn
    (true, raise (s.mapHead h fun x => { x with
      out := x.out + 1
      refs := some (calRefs r0 r1 w)
      pass := some ⟨some t, w, none⟩ }) calPage 9 7)

/-- c = c_active - round(sum / 2^MU_SHIFT), saturated to its format (R525). -/
def trainedCoefs (s : State) (h : Nat) : List Int :=
  let act := activeWords s h 0
  (trainedFields.zip (s.calHead h).sums).map fun e =>
    let f := e.1.2
    f.sat (f.of ((act[e.1.1]?).getD 0) - roundAway e.2 (2 ^ s.get CAL.TRAIN_CFG.MU_SHIFT))

/-- Compute and write a head's training (R525): the primary shadow takes the trained coefficients, the alternate shadow
the alternate active set; the delta is against the value interpolated at LAST_T. -/
def computeTraining (s : State) (h : Nat) : Bool × State :=
  let x := s.calHead h
  let p := calPoint x.lastT
  match headRecords s h p.1 with
  | (none, s) => (false, s.mapHead h fun x => { x with trained := false, sums := [], reports := 0 })
  | (some (r0, r1), s) =>
    let c := trainedCoefs s h
    let words := (trainedFields.zip c).foldl (fun l e =>
      l.set e.1.1 (e.1.2.put ((l[e.1.1]?).getD 0) e.2)) (activeWords s h 0)
    let delta := (trainedFields.zip c).map fun e =>
      e.2 - e.1.2.mix p.2 (imgWord r0 0 e.1.1) (imgWord r1 0 e.1.1)
    let s := putShadow (putShadow s h 0 words) h 1 (activeWords s h 1)
    (true, s.mapHead h fun x => { x with pass := some ⟨none, p.2, some delta⟩ })

/-- Compute what a head waits for: a pass, else its training (R520, R525). -/
def computeHead (s : State) (h stroke : Nat) : Bool × State :=
  let x := s.calHead h
  if x.due then computePass s h stroke
  else if x.trained then computeTraining s h
  else (false, s)

/-- The commit of an Oar (R520): every head that is ready, for the catch PASS_LEAD strokes on. A commit that LDP
refuses counts in LATE, raises EV278 and is computed again at the next sample. -/
def commitOar (s : State) (d : Nat) : State :=
  if (calCommit s d).isSome || !calReaches s d || s.cal.ending then s
  else
    let stroke := strokeAt s 0 + max 2 (s.get CAL.CAL_CTL.PASS_LEAD)
    let r := (oarHeads d).foldl (fun (a : Nat × State) h =>
      let y := computeHead a.2 h stroke
      if y.1 then (a.1 + 2 ^ (h % 16), y.2) else (a.1, y.2)) (0, s)
    if r.1 = 0 then r.2
    else
      let was := r.2.answer
      let t := ldpCommit d (stroke % 65536) r.1 r.2
      let ok := t.answer.status = 0
      let t := { t with answer := was }
      if ok then setCalCommit t d (some stroke)
      else
        raise ((bitList 16 r.1).foldl (fun s k => s.mapHead (16 * d + k) fun x => { x with pass := none })
          (t.bump CAL.CAL_CNT.LATE)) calPage 2 7

/-- A head's comparison at a sample (R517, R519). A head that has had no pass since the cold start is due whatever its
temperature (R522; log 81). -/
def headCompare (s : State) (h : Nat) : State :=
  if !headEn s h then s
  else
    let t := headTemp s h
    let x := s.calHead h
    let out := decide (t < -15 * degree) || decide (85 * degree < t)
    let s := raiseIf (out && !x.away) (s.mapHead h fun x => { x with away := out }) calPage 7 7
    let dt := max 1 (s.get CAL.CAL_CTL.RECAL_DT) * 16
    let pending := match x.pass with | some p => p.temp.isSome | none => false
    if s.get CAL.CAL_CTL.PASS = 1 && !x.due && !pending && (!x.passed || decide (dt < (t - x.lastT).natAbs)) then
      raise (s.mapHead h fun x => { x with due := true }) calPage 0 7
    else s

/-- What CAL does at a TMP sample (R519, R520). -/
def calSample (s : State) : State :=
  if !running s calPage then s
  else commitOar (commitOar ((List.range 32).foldl headCompare s) 0) 1

/-- A head's pass or training takes effect (R520, R525). -/
def headCatch (s : State) (h : Nat) : State :=
  match (s.calHead h).pass with
  | none => s
  | some p =>
    let s := s.mapHead h fun x => { x with pass := none }
    let s := match p.temp with
      | none => s
      | some t =>
        let s := s.mapHead h fun x => { x with lastT := t, passed := true, w := p.w, due := false }
        raise ((s.put CAL.CAL_STAT.LAST_HEAD h).bump CAL.CAL_CNT.PASSES) calPage 1 7
    match p.delta with
    | none => s
    | some l =>
      raise (s.mapHead h fun x => { x with delta := l, trained := false, sums := [], reports := 0 }) calPage 3 7

/-- CAL reads OFF after a disable (R530). -/
def calOff (s : State) : State := raise (pageOff (s.calMap fun c => { c with ending := false }) calPage) calPage 11 7

/-- CAL reads OFF after a disable once no commit is pending (R522, R530). -/
def calSettle (s : State) : State :=
  if s.cal.ending && s.cal.commit0.isNone && s.cal.commit1.isNone then calOff s else s

/-- CAL's ENABLE is written 0 (R522): what is not committed is discarded, commits complete at their catches. -/
def calDisable (s : State) : State :=
  let s := s.calMap fun c => { c with ending := true }
  calSettle ((List.range 32).foldl (fun s h =>
    if (s.calHead h).due || (s.calHead h).trained then
      s.mapHead h fun x => if x.pass.isSome then x else { x with due := false, trained := false, sums := [], reports := 0 }
    else s) s)

/-- RECAL_PASS_CATCH (R520): the commit of an Oar has come to its catch; what waited joins the next. -/
def execRecalPassCatch (oar : Fin 2) (s : State) : Result :=
  .next (match calCommit s oar.val with
    | none => s
    | some k =>
      if strokeAt s (oar.val + 1) < k then s
      else
        let s := (oarHeads oar.val).foldl headCatch (setCalCommit s oar.val none)
        let s := calSettle s
        if running s calPage then commitOar s oar.val else s)

/-! Trial sectors (R523-R526). -/

/-- One step of an exponential average with weight 2^-k (R526). -/
def average (k : Nat) (old new : Int) : Int := old + rdiv (new - old) (2 ^ k)

/-- Count a report in its head's window; freeze the head when too many have failed (R524). -/
def freezeCheck (s : State) (h : Nat) (failed : Bool) : State :=
  let n := max 1 (s.get CAL.FAIL_CFG.WINDOW)
  let pct := min 100 (s.get CAL.FAIL_CFG.FAIL_PCT)
  let w := (failed :: (s.calHead h).window).take n
  let s := s.mapHead h fun x => { x with window := w }
  if pct * n < (w.filter id).length * 100 && !frozen s h then
    raise (s.put CAL.FREEZE.HEADS (setBit (s.get CAL.FREEZE.HEADS) h true)) calPage 4 7
  else s

/-- Training takes an accepted read report (R525). -/
def trainReport (s : State) (h : Nat) (grads : List Int) : State :=
  let x := s.calHead h
  if s.get CAL.CAL_CTL.TRAIN = 0 || frozen s h || !headEn s h || x.trained then s
  else
    let sums := if x.sums.isEmpty then grads else List.zipWith (· + ·) x.sums grads
    let n := x.reports + 1
    let done := decide (max 1 (s.get CAL.TRAIN_CFG.TRAIN_N) ≤ n)
    let s := s.mapHead h fun x => { x with sums := sums, reports := n, trained := done }
    if done then commitOar s (h / 16) else s

/-- Ask AST for one step and raise what it raises (R526). -/
def monitorStep (s : State) (h : Nat) (step : Int) (b : Option Nat) : State :=
  let a := h / 8
  let lim : Int := s.get AST.TRIM_CFG.TRIM_LIMIT a
  let trim := trimOf s a (h % 8)
  let stuck := (decide (0 < step) && decide (lim ≤ trim)) || (decide (step < 0) && decide (trim ≤ -lim))
  let s := match b with
    | some k => raise s calPage k 7
    | none => s
  let s := raiseIf stuck s calPage 10 7
  let was := s.answer
  let s := calTrim s a (h % 8) step ((strokeAt s 0 + max 2 (s.get CAL.CAL_CTL.PASS_LEAD)) % 65536)
  { s with answer := was }

/-- The decision after 2^AVG_SHIFT accepted reports (R526). Before the head's first pass no gain is interpolated. -/
def monitorDecide (s : State) (h : Nat) : State :=
  let x := s.calHead h
  let step : Int := max 1 (s.get CAL.MON_CFG.STEP)
  let band : Int := s.get CAL.MON_CFG.AMP_BAND * 65536
  let gain : Int := x.gain
  let s' := if x.refs.isNone then s.drawn else s
  let ref : Int := (match x.refs with | some r => r.1 | none => ((s.free % 256 : Nat) : Int)) * 65536
  if 10 * x.dfh < -((s.get CAL.MON_CFG.FH_LIM : Int) * 2 ^ 24) then monitorStep s' h (-step) (some 6)
  else if ref + band < gain then monitorStep s' h step (some 5)
  else if gain < ref - band then monitorStep s' h (-step) none
  else s'

/-- DFH of a report, in 2^-16 of Q8.8 nm (R526). Before the head's first pass FH_K and RES_REF are not interpolated. -/
def dfhOf (s : State) (h psa eHi eLo : Nat) : Int × State :=
  match (s.calHead h).refs with
  | none => ((s.free : Int), s.drawn)
  | some r =>
    let ref := (r.2.2[psaBand s psa]?).getD 0
    let n := ref.toNat * eLo
    let m := 32768 * eHi
    (if n = 0 || m = 0 then Config.logOfZero n m else rnd (r.2.1 * lnQuotient n m) 64, s)

/-- The monitor takes an accepted report (R526). -/
def monitorReport (s : State) (h psa eHi eLo gainA gainB : Nat) (verify : Bool) : State :=
  if s.get CAL.CAL_CTL.MON = 0 || !headEn s h then s
  else
    let k := s.get CAL.MON_CFG.AVG_SHIFT
    let d := dfhOf s h psa eHi eLo
    let s := d.2.mapHead h fun x => { x with
      dfh := average k x.dfh d.1
      gain := if verify then (average k x.gain (((gainA + gainB) * 32768 : Nat) : Int)).toNat else x.gain
      accepted := x.accepted + 1 }
    if 2 ^ k ≤ (s.calHead h).accepted then
      let s := s.mapHead h fun x => { x with accepted := 0 }
      if frozen s h then s else monitorDecide s h
    else s

/-- CAL takes a trial report (R524-R526). -/
def takeReport (s : State) (r : TrialReport) : State :=
  let h := psaHead r.psa
  let ok := !r.failed && !r.suspect
  let s := if ok then s.bump CAL.TRIAL_CNT.ACCEPTED else s.bump CAL.TRIAL_CNT.REJECTED
  let s := freezeCheck s h r.failed
  if !ok then s
  else monitorReport (if r.verify then s else trainReport s h r.grads) h r.psa r.eHi r.eLo r.gainA r.gainB r.verify

/-- TRIAL_REPORT (R523): the oldest report of an LDP arrives in the reply class once the link carries it (R27, R28). One
of an epoch before its domain's is discarded and counted (R30). -/
def execTrialReport (ldp : Fin 2) (s : State) : Result :=
  .next (
    match (s.ldp ldp.val).reports with
    | [] => s
    | r :: l =>
      if !dieUp s (ldp.val + 1) || dieTraining s (ldp.val + 1) || !flitTurn s ldp.val true .reply then s
      else
        let s := s.setLdp ldp.val { s.ldp ldp.val with reports := l }
        if r.epoch ≠ ldpEpoch s ldp.val then
          raise (s.bump BRZ.LINK_ERR.STALE_CNT 1 0 ldp.val) ⟨.brz, 0⟩ 3 7
        else if !running s calPage then s
        else takeReport s r)

/-- DELTA_CLR clears training deltas and clears itself (R529). -/
def deltaClear (w : Word) (s : State) : State :=
  (bitList 32 w.toNat).foldl (fun s h => s.mapHead h fun x => { x with delta := [] }) s

/-- DELTA_CLEAR (R529). -/
def execDeltaClear (q : Req) (w : BitVec 32) (s : State) : Result :=
  .next (guarded s q calPage 0x074 w (deltaClear w))

/-- A write of any CAL register (R529). -/
def calWrite (q : Req) (off : Nat) (w : Word) (s : State) : State :=
  if off = 0x074 then deltaClear w s else plainWrite s q calPage off w

/-- HEAD_T, HEAD_W and HEAD_EST as read (R529). -/
def calRead (s : State) (off : Nat) : Nat :=
  let x := s.calHead (s.get CAL.HEAD_WIN.HEAD)
  if off = 0x058 then unsigned 16 x.lastT
  else if off = 0x05C then x.w
  else x.gain / 65536 % 256 + unsigned 16 (rdiv x.dfh 65536) * 65536

end Sys2Proof.Machine
end

