-- ==== Sys2Proof/Machine/Keccak.lean ====
section
/-! DEFINITION. SHAKE256 with a 256-bit output (R261, R537, R544, R562), on bytes. -/

namespace Sys2Proof.Machine

open Sys2Proof

/-- Rotate a 64-bit lane left. -/
def rotl64 (x n : Nat) : Nat := x * 2 ^ n % 2 ^ 64 + x / 2 ^ (64 - n)

/-- Rotation of each lane, by x + 5y. -/
def keccakRot : List Nat :=
  [0, 1, 62, 28, 27, 36, 44, 6, 55, 20, 3, 10, 43, 25, 39, 41, 45, 15, 21, 8, 18, 2, 61, 56, 14]

/-- The 24 round constants. -/
def keccakRc : List Nat :=
  [0x0000000000000001, 0x0000000000008082, 0x800000000000808A, 0x8000000080008000, 0x000000000000808B,
   0x0000000080000001, 0x8000000080008081, 0x8000000000008009, 0x000000000000008A, 0x0000000000000088,
   0x0000000080008009, 0x000000008000000A] ++
  [0x000000008000808B, 0x800000000000008B, 0x8000000000008089, 0x8000000000008003, 0x8000000000008002,
   0x8000000000000080, 0x000000000000800A, 0x800000008000000A, 0x8000000080008081, 0x8000000000008080,
   0x0000000080000001, 0x8000000080008008]

/-- One round on 25 lanes. -/
def keccakRound (a : List Nat) (rc : Nat) : List Nat :=
  let at' := fun (l : List Nat) (i : Nat) => (l[i]?).getD 0
  let c := (List.range 5).map fun x => (List.range 5).foldl (fun v y => v ^^^ at' a (x + 5 * y)) 0
  let d := (List.range 5).map fun x => at' c ((x + 4) % 5) ^^^ rotl64 (at' c ((x + 1) % 5)) 1
  let e := (List.range 25).map fun i => at' a i ^^^ at' d (i % 5)
  let b := (List.range 25).map fun i =>
    let x := (i % 5 + 3 * (i / 5)) % 5
    let y := i % 5
    rotl64 (at' e (x + 5 * y)) (at' keccakRot (x + 5 * y))
  let f := (List.range 25).map fun i =>
    let r := 5 * (i / 5)
    at' b i ^^^ ((2 ^ 64 - 1 - at' b (r + (i + 1) % 5)) &&& at' b (r + (i + 2) % 5))
  match f with
  | h :: t => (h ^^^ rc) :: t
  | [] => []

/-- The permutation. -/
def keccakF (a : List Nat) : List Nat := keccakRc.foldl keccakRound a

/-- Split bytes into `n` lanes of 8 bytes. -/
def lanesOfBytes : Nat → List Nat → List Nat
  | 0, _ => []
  | n + 1, bs => leNat (bs.take 8) :: lanesOfBytes n (bs.drop 8)

/-- Absorb `n` blocks of 136 bytes. -/
def absorb : Nat → List Nat → List Nat → List Nat
  | 0, _, a => a
  | n + 1, bs, a =>
    absorb n (bs.drop 136) (keccakF (List.zipWith (fun x y => x ^^^ y) a (lanesOfBytes 17 bs ++ List.replicate 8 0)))

/-- Pad to whole blocks: 0x1F after the message, 0x80 in the last byte. -/
def shakePad (bs : List Nat) : List Nat :=
  let z := 136 - bs.length % 136
  if z = 1 then bs ++ [0x9F] else bs ++ [0x1F] ++ List.replicate (z - 2) 0 ++ [0x80]

/-- SHAKE256 of a message, 32 bytes of output. -/
def shake256 (bs : List Nat) (words : Nat := 4) : List Nat :=
  let p := shakePad bs
  ((absorb (p.length / 136) p (List.replicate 25 0)).take words).flatMap (leBytes 8)

end Sys2Proof.Machine
end

