-- ==== Sys2Proof/Machine/Trust.lean ====
section
/-! DEFINITION. SEC: images, anti-rollback, measurement, key slots, the crypto ring, unlock and the grant table (chapter
"Identity, boot trust and protection"). -/

namespace Sys2Proof.Machine

open Sys2Proof

/-- The page of SEC. -/
def secPage : Page := ⟨.sec, 0⟩

/-- Change SEC beyond its registers. -/
def State.secMap (s : State) (f : Sec → Sec) : State := { s with sec := f s.sec }

/-- Origin of a change: class in [3:0], core or port in [7:4] (R548). -/
def originByte (q : Req) : Nat := q.cls.val + 16 * q.unit.val

/-- A SEC record (R548): SOURCE 4, EVENT 0x1FF, no fault level. -/
def secRecord (code a b c d e : Nat) : Rec := ⟨4, 7, 0x1FF, code, leBytes 2 a ++ leBytes 2 b ++ [c % 256, d % 256] ++ leBytes 4 e⟩

/-! Images (R533, R534). -/

/-- MIN_SVN of a kind (R536). -/
def minSvn (s : State) (k : Nat) : Nat := sget 0 s.fuses.minSvn k

/-- Part entry `i` of an image (R533). -/
def partEntry (img : List Nat) (i : Nat) : Part :=
  let e := (img.drop (2016 + 64 * i)).take 64
  let b := fun (k n : Nat) => leNat ((e.drop k).take n)
  { kind := b 0 1, svn := b 1 1, major := b 2 1, minor := b 3 1, build := b 4 2, offset := b 8 4, length := b 12 4
    digest := b 32 32 }

/-- The parts an image lists. -/
def imageParts (img : List Nat) : List Part :=
  (List.range ((img[6]?).getD 0)).map (partEntry img)

/-- TOTAL. -/
def imageTotal (img : List Nat) : Nat := leNat ((img.drop 8).take 4)

/-- SIG_OFS. -/
def sigOffset (img : List Nat) : Nat := leNat ((img.drop 12).take 4)

/-- The first check (R533, R534): MAGIC, FORMAT, PARTS, SIG_OFS, and every part inside its bounds. -/
def imageForm (img : List Nat) : Bool :=
  let n := (img[6]?).getD 0
  let sig := sigOffset img
  leNat (img.take 4) = 0x59525331 && leNat ((img.drop 4).take 2) = 1 && 1 ≤ n && decide (n ≤ 16) &&
    sig + 3309 = imageTotal img && decide (imageTotal img ≤ img.length) &&
    (imageParts img).all fun p => 2016 + 64 * n ≤ p.offset && decide (p.offset + p.length ≤ sig)

/-- ROOT_PUB. -/
def rootPub (img : List Nat) : List Nat := (img.drop 64).take 1952

/-- The root key check (R534): the digest in the named fuse slot, and the slot not revoked. -/
def imageRoot (s : State) (img : List Nat) : Bool :=
  let k := (img[7]?).getD 0
  decide (k ≤ 3) && !bit s.fuses.revoked k && leNat (shake256 (rootPub img)) = sget 0 s.fuses.rootDigest k

/-- The signature check (R534). -/
def imageSigned (img : List Nat) : Bool :=
  Config.mldsaVerify (rootPub img) (shake256 (img.take (sigOffset img)) 8) ((img.drop (sigOffset img)).take 3309)

/-- A part's bytes. -/
def partBytes (img : List Nat) (p : Part) : List Nat := (img.drop p.offset).take p.length

/-- A part's digest matches its bytes (R533, R534); kinds 2 and 3 are exactly 65,536 bytes. -/
def partGood (img : List Nat) (p : Part) : Bool :=
  leNat (shake256 (partBytes img p)) = p.digest && !((p.kind = 2 || p.kind = 3) && p.length ≠ 65536)

/-- The units of a firmware slot: first and count (R474). -/
def slotUnits (slot : Nat) : Nat × Nat :=
  if slot = 1 then (2, 64) else if slot = 2 then (66, 192) else if slot = 3 then (258, 192) else (450, 192)

/-- The largest image a firmware slot takes (R472, R474): word 0 of a unit holds no data (log 51). -/
def slotBytes (slot : Nat) : Nat := (slotUnits slot).2 * 2047 * 32

/-- The Keel word that holds bytes 32 i to 32 i + 31 of a slot's image: words 1-2,047 of its units in order (log 51). -/
def slotWord (slot i : Nat) : Nat := storedWord (slotUnits slot).1 i

/-- What the checks of R534 make of an image for a slot, `svn` telling whether the SVN check applies (R535): 0 accepted,
1 Invalid Firmware Image, 2 Firmware Activation Prohibited. -/
def imageCheck (s : State) (img : List Nat) (slot : Nat) (svn : Bool) : Nat :=
  if !imageForm img then 1
  else if !imageRoot s img then 1
  else if !imageSigned img then 1
  else if !(imageParts img).all (partGood img) then 1
  else if svn && !(imageParts img).all (fun p => minSvn s p.kind ≤ p.svn) then 2
  else if slotBytes slot < imageTotal img then 1
  else 0

/-! Measurement (R537). -/

/-- The measurement bank of a part kind. -/
def bankOf (kind : Nat) : Nat := if kind = 0 then 0 else if kind = 1 || kind = 6 then 1 else if kind ≤ 3 then 2 else 3

/-- bank := SHAKE256-256(bank ‖ digest) (R537). -/
def extendBank (s : State) (b digest : Nat) : State :=
  s.secMap fun x => { x with banks := sset 0 x.banks b (leNat (shake256 (leBytes 32 (sget 0 x.banks b) ++ leBytes 32 digest))) }

/-- A part is loaded (R537, R539): its bank is extended and its version is in force. -/
def measurePart (s : State) (p : Part) : State :=
  let s := extendBank s (bankOf p.kind) p.digest
  s.secMap fun x => { x with
    measured := x.measured || p.kind = 0
    versions := sset none x.versions p.kind (some (p.major, p.minor, p.build)) }

/-- WORD of MEAS_WIN rises by 1 (R549). -/
def measStep (s : State) : State := s.put SEC.MEAS_WIN.WORD (s.get SEC.MEAS_WIN.WORD + 1)

/-- A write of MEAS_DATA (R13, R549). -/
def measWrite (q : Req) (w : Word) (s : State) : State :=
  if keeper q then
    measStep (s.secMap fun x => { x with input := sset 0 x.input (s.get SEC.MEAS_WIN.WORD) w.toNat })
  else s

/-- A read of MEAS_DATA (R549). -/
def measRead (s : State) : Nat × State :=
  (bits (sget 0 s.sec.banks (s.get SEC.MEAS_WIN.BANK)) (32 * s.get SEC.MEAS_WIN.WORD) 32, measStep s)

/-- MEAS_DATA_ACCESS (R537, R549). -/
def execMeasDataAccess (q : Req) (w : Option (BitVec 32)) (s : State) : Result :=
  .next (match w with
    | some w => guarded s q secPage 0x084 w (measWrite q w)
    | none => guardedRead s q secPage 0x084 measRead)

/-- The extend input as one number. -/
def extendInput (s : State) : Nat :=
  (List.range 8).foldl (fun a k => a + sget 0 s.sec.input k * 2 ^ (32 * k)) 0

/-- A write of MEAS_CMD (R537). -/
def measExtend (q : Req) (w : Word) (s : State) : State :=
  if keeper q && SEC.MEAS_CMD.EXTEND.of w = 1 then extendBank s (s.get SEC.MEAS_WIN.BANK) (extendInput s) else s

/-- MEAS_EXTEND (R537). -/
def execMeasExtend (q : Req) (w : BitVec 32) (s : State) : Result := .next (guarded s q secPage 0x088 w (measExtend q w))

/-- The entropy source delivers (R532). -/
def entropyOk (s : State) : Bool := s.get SEC.ENT_STAT.FAIL = 0 && domainLive s 32

/-- ALIAS_CERT_ISSUE (R532, R538). -/
def execAliasCertIssue (s : State) : Result :=
  .next (
    if s.get SEC.SEC_STAT.ALIAS_READY = 1 || !s.sec.measured || s.get EVR.EVR_STAT.LOADED = 0 || !domainLive s 1 then s
    else if !entropyOk s then raise s secPage 2 7
    else
      let k := (s.free, s.get EVR.CYCLES.COUNT, sget 0 s.sec.banks 0)
      ((s.secMap fun x => { x with alias_ := some k }).put SEC.SEC_STAT.ALIAS_READY 1).drawn)

/-- ENTROPY_HEALTH_FAIL (R532): EV082 at level 1. -/
def execEntropyHealthFail (s : State) : Result :=
  .next (if domainLive s 32 then raise ((s.bump SEC.ENT_STAT.HEALTH_CNT).put SEC.ENT_STAT.FAIL 1) secPage 2 1 else s)

/-! Anti-rollback (R536). -/

/-- A write of SVN_RAISE (R13, R536). -/
def svnWrite (q : Req) (w : Word) (s : State) : State :=
  let go := SEC.SVN_RAISE.GO.of w = 1
  if !keeper q then (if go then s.put SEC.SVN_RAISE.RESULT 2 else s)
  else
    let s := plainWrite s q secPage 0x07C w
    let k := SEC.SVN_RAISE.KIND.of w
    let v := SEC.SVN_RAISE.SVN.of w
    let old := minSvn s k
    if !go then s
    else if k ≤ 6 ∧ old < v then
      let s := { s with fuses := { s.fuses with minSvn := sset 0 s.fuses.minSvn k v } }
      raise (report (s.put SEC.SVN_RAISE.RESULT 0) (secRecord 0x0404 k v old 0 (originByte q))) secPage 3 7
    else s.put SEC.SVN_RAISE.RESULT 1

/-- SVN_RAISE (R536). -/
def execSvnRaise (q : Req) (w : BitVec 32) (s : State) : Result := .next (guarded s q secPage 0x07C w (svnWrite q w))

/-! Key slots (R540, R616). -/

/-- A key operation ends with a RESULT (R549, R550). -/
def keyResult (s : State) (r : Nat) : State :=
  let s := (s.put SEC.KEY_CMD.RESULT r).put SEC.KEY_CMD.BUSY 0
  raiseIf (r ≠ 0) s secPage 2 7

/-- A write of KEY_CMD (R13, R540, R549). -/
def keyWrite (q : Req) (w : Word) (s : State) : State :=
  let go := SEC.KEY_CMD.GO.of w = 1
  if !keeper q then
    if go then raise (s.put SEC.KEY_CMD.RESULT 3) secPage 2 7 else s
  else
    let s := plainWrite s q secPage 0x090 w
    if !go || s.sec.op.isSome || SEC.KEY_CMD.OP.of w = 0 then s
    else
      (s.secMap fun x => { x with
        op := some ⟨SEC.KEY_CMD.OP.of w, SEC.KEY_CMD.SLOT.of w, q.cls.val, s.get SEC.KEY_ADDR.ADDR * 32⟩ }).put SEC.KEY_CMD.BUSY 1

/-- KEY_GENERATE (R540). -/
def execKeyGenerate (q : Req) (w : BitVec 32) (s : State) : Result := .next (guarded s q secPage 0x090 w (keyWrite q w))
/-- KEY_DESTROY (R540). -/
def execKeyDestroy (q : Req) (w : BitVec 32) (s : State) : Result := .next (guarded s q secPage 0x090 w (keyWrite q w))
/-- KEY_LOAD (R616). -/
def execKeyLoad (q : Req) (w : BitVec 32) (s : State) : Result := .next (guarded s q secPage 0x090 w (keyWrite q w))

/-- The wrap key of a slot (R616). -/
def wrapKey (s : State) (slot : Nat) : List Nat := shake256 (leBytes 32 s.fuses.wrapSecret ++ [1, slot])

/-- Fill or empty a key slot; KEY_VALID follows (R540, R549). -/
def setSlot (s : State) (slot : Nat) (v : Option Nat) : State :=
  let s := s.secMap fun x => { x with slots := sset none x.slots slot v }
  s.put SEC.KEY_VALID.VALID (setBit (s.get SEC.KEY_VALID.VALID 0 (slot / 32)) (slot % 32) v.isSome) 0 (slot / 32)

/-- GENERATE (R540, R616): a key from the entropy source, and its wrapped block. -/
def keyGenerate (s : State) (slot addr : Nat) : State :=
  if !entropyOk s then keyResult s 1
  else
    let k := s.free % 2 ^ 512
    let block := [1, slot, 0, 0, 0, 0, 0, 0] ++ kwWrap (wrapKey s slot) (leBytes 64 k) ++ List.replicate 16 0
    keyResult (memWrite (setSlot s.drawn slot (some k)) addr block) 0

/-- DESTROY (R540, R549). -/
def keyDestroy (s : State) (slot cls : Nat) : State :=
  keyResult (report (setSlot s slot none) (secRecord 0x0406 slot 0 cls 0 0)) 0

/-- LOAD (R616). -/
def keyLoad (s : State) (slot addr : Nat) : State :=
  let r := memRead s .other addr 96
  let b := r.1.bytes
  if r.1.poison || b.headD 0 ≠ 1 || (b[1]?).getD 0 ≠ slot then keyResult r.2 2
  else match kwUnwrap (wrapKey s slot) ((b.drop 8).take 72) with
    | none => keyResult r.2 2
    | some k => keyResult (setSlot r.2 slot (some (leNat k))) 0

/-- KEY_CMD_COMPLETE (R540, R616). -/
def execKeyCmdComplete (s : State) : Result :=
  .next (match s.sec.op with
    | none => s
    | some o =>
      let s := s.secMap fun x => { x with op := none }
      if o.op = 1 then keyGenerate s o.slot o.addr
      else if o.op = 2 then keyDestroy s o.slot o.cls
      else keyLoad s o.slot o.addr)

/-! The crypto ring (R541, R542). -/

/-- Encrypt, decrypt or retweak one sector's ciphered bytes: OP 1 under the new LBA, 2 under the old, 3 from the old to
the new (R541; the LBAs of 1 and 2 DEDUCED, log 43). -/
def cryptSector (op pair old new : Nat) (bs : List Nat) : List Nat :=
  if op = 1 then xtsEncrypt pair new bs
  else if op = 2 then xtsDecrypt pair old bs
  else xtsEncrypt pair new (xtsDecrypt pair old bs)

/-- One sector in the buffer: the first 4,112 of its 4,128 bytes; a granule's poison stays with it (R541, R130). -/
def cryptAt (op pair old new a : Nat) (s : State) : Bool × State :=
  let g := bufGranules s ((List.range 129).map (a / 32 + ·))
  let bytes := g.1.flatMap (·.1)
  let out := cryptSector op pair old new (bytes.take 4112) ++ bytes.drop 4112
  let gs := (pieces 32 129 out).zip (g.1.map (·.2))
  (g.1.any (·.2), spaceWriteAll g.2 false a gs)

/-- The sectors of an entry in turn. -/
def cryptRun (op pair : Nat) : Nat → Nat → Nat → Nat → Bool × State → Bool × State
  | 0, _, _, _, x => x
  | n + 1, old, new, a, x =>
    let y := cryptAt op pair old new a x.2
    cryptRun op pair n (old + 1) (new + 1) (a + 4128) (x.1 || y.1, y.2)

/-- A line whose sector a retweak entry covers is no longer held back (R542). -/
def unheld (s : State) (a n : Nat) (e : Nat × Option Line) : Nat × Option Line :=
  let at_ := lineAddr s e.1
  if a ≤ at_ && decide (at_ < a + 4128 * n) then (e.1, e.2.map fun l => { l with retweak := false }) else e

/-- The lines whose sectors a retweak entry covers (R542). -/
def retweaked (s : State) (a n : Nat) : State :=
  { s with buf := { s.buf with lines := s.buf.lines.map (unheld s a n) } }

/-- What a crypto entry does: its status and the state (R541). BAD_DESC: an OP the engine does not know, an address off a
granule, a slot that holds no key (log 43). -/
def cryptEntry (s : State) (e : List Nat) : Nat × State :=
  let f := fun (k n : Nat) => leNat ((e.drop k).take n)
  let op := e.headD 0
  let a := f 8 8
  match sget none s.sec.slots (f 20 1) with
  | none => (2, s)
  | some pair =>
    if !(op = 1 || op = 2 || op = 3) || a % 32 ≠ 0 then (2, s)
    else
      let r := cryptRun op pair (f 16 4) (f 24 8) (f 32 8) a (false, s)
      (if r.1 then 1 else 0, if op = 3 then retweaked r.2 a (f 16 4) else r.2)

/-- The crypto engine runs the oldest fetched entry of a ring whose OP the command names, one entry at a time. -/
def cryptServe (s : State) (r : Nat) (mine : Nat → Bool) : State :=
  match ringPeek s r with
  | none => s
  | some e =>
    if s.wrk.crypto.isSome || !domainLive s 31 || !mine (e.headD 0) then s
    else match ringStart s r 7 with
      | none => s
      | some (x, s) =>
        let o := cryptEntry s x.2
        ringDone { o.2 with wrk := { o.2.wrk with crypto := some r } } r
          { n := x.1, bytes := [(0, [o.1])], status := o.1, entry := x.2 }

/-- CRYPTO_ENCRYPT (R541). -/
def execCryptoEncrypt (ring : Fin 256) (s : State) : Result := .next (cryptServe s ring.val fun op => op ≠ 2 && op ≠ 3)
/-- CRYPTO_DECRYPT (R541). -/
def execCryptoDecrypt (ring : Fin 256) (s : State) : Result := .next (cryptServe s ring.val fun op => op = 2)
/-- CRYPTO_RETWEAK (R542). -/
def execCryptoRetweak (ring : Fin 256) (s : State) : Result := .next (cryptServe s ring.val fun op => op = 3)

/-! Unlock (R544). -/

/-- A write of UNLOCK_DATA (R544, R549). -/
def unlockData (w : Word) (s : State) : State :=
  let k := s.get SEC.UNLOCK_WIN.BYTE
  (s.secMap fun x => { x with token := sset 0 x.token k w.toNat }).put SEC.UNLOCK_WIN.BYTE (k + 1)

/-- UNLOCK_DATA_WRITE (R544). -/
def execUnlockDataWrite (q : Req) (w : BitVec 32) (s : State) : Result :=
  .next (guarded s q secPage 0x0C4 w (unlockData w))

/-- The token's 3,309 bytes (R544). -/
def tokenBytes (s : State) : List Nat := ((List.range 828).flatMap fun k => leBytes 4 (sget 0 s.sec.token k)).take 3309

/-- The token is signed by a root key that is not revoked (R544). -/
def tokenValid (s : State) (target : Nat) : Bool :=
  match s.sec.nonce with
  | none => false
  | some n => (List.range 4).any fun k => !bit s.fuses.revoked k &&
      Config.tokenSigned (sget 0 s.fuses.rootDigest k) s.fuses.serial (lockLevel s) target n (tokenBytes s)

/-- CHECK (R544, R548). -/
def unlockCheck (q : Req) (s : State) : State :=
  let t := s.get SEC.UNLOCK_CMD.TARGET
  let ok := tokenValid s t
  let s := report s (secRecord 0x0405 t (if ok then 0 else 1) q.cls.val 0 (s.get SEC.NONCE.NONCE 0 0))
  raise (if ok then s.put SEC.SEC_STAT.UNLOCK_OK 1 else s) secPage 3 7

/-- NEW (R544). -/
def newNonce (s : State) : State :=
  let put := fun (s : State) (v : Nat) => (List.range 8).foldl (fun s k => s.put SEC.NONCE.NONCE (bits v (32 * k) 32) 0 k) s
  if entropyOk s then
    let v := s.free % 2 ^ 256
    put (s.drawn.secMap fun x => { x with nonce := some v }) v
  else raise (put (s.secMap fun x => { x with nonce := none }) 0) secPage 2 7

/-- A write of UNLOCK_CMD (R544): CHECK before NEW. -/
def unlockCmd (q : Req) (w : Word) (s : State) : State :=
  let s := plainWrite s q secPage 0x0C8 w
  let s := if SEC.UNLOCK_CMD.CHECK.of w = 1 then unlockCheck q s else s
  if SEC.UNLOCK_CMD.NEW.of w = 1 then newNonce s else s

/-- UNLOCK_NEW_NONCE (R544). -/
def execUnlockNewNonce (q : Req) (w : BitVec 32) (s : State) : Result :=
  .next (guarded s q secPage 0x0C8 w (unlockCmd q w))
/-- UNLOCK_CHECK (R544). -/
def execUnlockCheck (q : Req) (w : BitVec 32) (s : State) : Result :=
  .next (guarded s q secPage 0x0C8 w (unlockCmd q w))
/-- UNLOCK_EXPIRE (R544). -/
def execUnlockExpire (s : State) : Result := .next (s.put SEC.SEC_STAT.UNLOCK_OK 0)

/-! The grant table (R546, R547). -/

/-- Set the masks of `n` pages from `p`; classes 0 and 4 always stand (R546). -/
def setMasks (m : Sparse Nat) (mask p : Nat) : Nat → Sparse Nat
  | 0 => m
  | n + 1 => sset 0x11 (setMasks m mask p n) (p + n) (mask ||| 0x11)

/-- A change of the grant table (R547, R548), its record first. -/
def grantApply (q : Req) (w : Word) (s : State) : State :=
  let p := s.get SEC.GRANT_WIN.PAGE
  let n := min (s.get SEC.GRANT_WIN.COUNT + 1) (16384 - p)
  let mask := w.toNat % 256 ||| 0x11
  let s := report s (secRecord 0x0401 p n (grantMask s p) mask (originByte q))
  raise ({ s with grants := setMasks s.grants mask p n }.bump SEC.CHANGE_CNT.COUNT) secPage 0 7

/-- A write of GRANT_DATA (R13, R492, R547): it waits until its record has room. -/
def grantWrite (q : Req) (w : Word) (s : State) : State :=
  if !keeper q then s
  else if recorderRoom s then grantApply q w s
  else s.wait ⟨.recorder, q, secPage.base + 0x050, some w⟩

/-- GRANT_CHANGE (R547). -/
def execGrantChange (q : Req) (w : BitVec 32) (s : State) : Result := .next (guarded s q secPage 0x050 w (grantWrite q w))

/-- A write of any SEC register (R549). -/
def secWrite (q : Req) (off : Nat) (w : Word) (s : State) : State :=
  if off = 0x050 then grantWrite q w s
  else if off = 0x07C then svnWrite q w s
  else if off = 0x084 then measWrite q w s
  else if off = 0x088 then measExtend q w s
  else if off = 0x090 then keyWrite q w s
  else if off = 0x0C4 then unlockData w s
  else if off = 0x0C8 then unlockCmd q w s
  else plainWrite s q secPage off w

/-- SEC registers that are computed as they are read (R549). -/
def secRead (s : State) (off : Nat) : Option Nat :=
  if off = 0x048 then some (s.fuses.revoked % 16)
  else if off = 0x050 then some (grantMask s (s.get SEC.GRANT_WIN.PAGE))
  else if 0x060 ≤ off ∧ off ≤ 0x078 then some (minSvn s ((off - 0x060) / 4))
  else none

/-- A reset of SEC's domain (R14, R616): what the registers lose of nonce, token, input and the operation running. -/
def secReset (s : State) : State :=
  s.secMap fun x => { x with op := none, nonce := none, token := [], input := [] }

/-! Firmware slots as they are read (R474, R534; log 51). -/

/-- Bytes of a slot's image from its first. -/
def slotRead (s : State) (slot n : Nat) : List Nat := storedBytes s (slotUnits slot).1 n

/-- The image in a slot: as many bytes as its header says, none in a blank slot. -/
def slotImage (s : State) (slot : Nat) : List Nat :=
  if nvBlank s (slotWord slot 0) then []
  else slotRead s slot (min (imageTotal (slotRead s slot 32)) (slotBytes slot))

end Sys2Proof.Machine
end

