-- ==== Sys2Proof/Machine/Hosted.lean ====
section
/-! DEFINITION. Namespaces, zone states, buffer lines of host commands, the data of host reads, and how host commands in
progress end (chapters "Commands, namespaces and zones" and "Scheduling, buffer and power-loss writing"). -/

namespace Sys2Proof.Machine

open Sys2Proof

/-- Namespace `k`, if it exists. -/
def State.ns (s : State) (k : Nat) : Option Ns := sget none s.nvme.nss k
/-- Set a namespace. -/
def State.setNs (s : State) (k : Nat) (v : Option Ns) : State :=
  { s with nvme := { s.nvme with nss := sset none s.nvme.nss k v } }
/-- Change a namespace that exists. -/
def State.modNs (s : State) (k : Nat) (f : Ns → Ns) : State :=
  match s.ns k with
  | some n => s.setNs k (some (f n))
  | none => s
/-- The host command in progress of a slot. -/
def State.cmd (s : State) (k : Nat) : Option HostCmd := s.nvme.cmds.find? fun c => c.slot = k
/-- Set the host commands in progress. -/
def State.setCmds (s : State) (l : List HostCmd) : State := { s with nvme := { s.nvme with cmds := l } }
/-- Change the host command of a slot. -/
def State.modCmd (s : State) (k : Nat) (f : HostCmd → HostCmd) : State :=
  s.setCmds (s.nvme.cmds.map fun c => if c.slot = k then f c else c)
/-- Change SCH's own state. -/
def State.schMap (s : State) (f : Sch → Sch) : State := { s with sch := f s.sch }
/-- Operation posted as tag `t` of lane `n`. -/
def postedOp (s : State) (n t : Nat) : Option PlanOp := sget none s.sch.posted (32 * n + t)
/-- The operations posted, with lane and tag. -/
def postedOps (s : State) : List (Nat × Nat × PlanOp) :=
  s.sch.posted.filterMap fun e => e.2.map fun o => (e.1 / 32, e.1 % 32, o)
/-- An operation that carries buffer lines: all but a fill. -/
def PlanOp.lined (o : PlanOp) : Bool := o.op ≠ 3
/-- The lines of an operation, in order. -/
def PlanOp.lines (o : PlanOp) : List Nat := if o.lined then (List.range o.count).map (o.line + ·) else []
/-- The operation writes the media. -/
def PlanOp.writes (o : PlanOp) : Bool := o.op = 1 || o.op = 3
/-- The actuator an operation is for (R34, R36). -/
def PlanOp.act (o : PlanOp) : Nat := psaHead o.psa / 8

/-! Zone states, as the Zoned Namespace Command Set encodes them (R87; PRESUMED, log 10). -/

/-- Empty. -/
def zsEmpty : Nat := 1
/-- Implicitly Opened. -/
def zsImplicit : Nat := 2
/-- Explicitly Opened. -/
def zsExplicit : Nat := 3
/-- Closed. -/
def zsClosed : Nat := 4
/-- Read Only. -/
def zsReadOnly : Nat := 0xD
/-- Full. -/
def zsFull : Nat := 0xE
/-- Offline. -/
def zsOffline : Nat := 0xF

/-- Zone size in logical blocks by KIND (R80). -/
def zoneSize (kind : Nat) : Nat := if kind = 1 || kind = 2 then 1048576 else if kind = 3 then 16384 else 65536

/-- A woven KIND. -/
def woven (kind : Nat) : Bool := kind = 1 || kind = 2

/-- Set the STATE of a zone's entry (R87, R89). -/
def putZoneState (s : State) (zone st : Nat) : State :=
  let r := readEntry s zone
  rewriteEntry r.2 zone 0 [r.1.bytes.headD 0 / 16 * 16 + st % 16]

/-- Set the WP of a zone's entry (R87, R89). -/
def putZoneWp (s : State) (zone wp : Nat) : State := rewriteEntry s zone 4 (leBytes 4 wp)

/-- A namespace's lists without a zone (R344). -/
def Ns.without (n : Ns) (zone : Nat) : Ns :=
  { n with implicit := n.implicit.erase zone, explicit := n.explicit.erase zone, closed := n.closed.erase zone }

/-- A zone enters a state, and its namespace's lists follow (R344). -/
def enterZoneState (s : State) (nsx zone st : Nat) : State :=
  (putZoneState s zone st).modNs nsx fun n =>
    let n := n.without zone
    if st = zsImplicit then { n with implicit := n.implicit ++ [zone] }
    else if st = zsExplicit then { n with explicit := n.explicit ++ [zone] }
    else if st = zsClosed then { n with closed := n.closed ++ [zone] }
    else n

/-- Set a Critical Warning bit, with its event: bit 0 spare, bit 1 temperature, bit 2 reliability (R352, R353). -/
def criticalWarning (s : State) (b : Nat) : State :=
  if bit s.nvme.warning b then s
  else asyncBoth { s with nvme := { s.nvme with warning := setBit s.nvme.warning b true } }
    (if b = 0 then .spare else if b = 1 then .temperature else .reliability)

/-- The device changes a zone's state by itself: it goes on the Changed Zone List (R345, R353). -/
def zoneChanged (s : State) (nsx zone : Nat) : State :=
  let s := s.modNs nsx fun n => if n.changed.contains zone then n else { n with changed := n.changed ++ [zone] }
  ((s.ns nsx).map (·.attached)).getD [] |>.foldl (fun s c => asyncEvent s c .zoneChanged) s

/-! Lines. -/

/-- A posted operation covers line `i`. -/
def lineOnLane (s : State) (i : Nat) : Bool := (postedOps s).any fun e => e.2.2.lines.contains i

/-- A lane still keeps line `i` for a rewrite of what it wrote last (R371). -/
def lineTrails (s : State) (i : Nat) : Bool := s.sch.trails.any fun e => e.2.any fun x => x.2 = i

/-- Give up a line: at once, or when the tag that covers it has ended; its charge is released now. -/
def dropLine (s : State) (i : Nat) : State :=
  if lineOnLane s i then
    checkHi (s.modLine i fun x => { x with kind := if x.kind = lkRead then lkRead else lkHost, slot := none, charge := 0 })
  else freeLine s i

/-- Let go of a line whose sector is on the media: TRAIL while a lane keeps it, else FREE (R371, R377). -/
def releaseLine (s : State) (i : Nat) : State :=
  if lineTrails s i then
    checkHi (s.modLine i fun x => { x with
      kind := lkTrail, slot := none, busy := false
      charge := if x.kind = lkHost then (chargeFor s x.charge).getD x.charge else x.charge })
  else freeLine s i

/-- Lines of a zone that hold blocks not yet wholly written: HOST, CACHED and WEAVE. -/
def zoneLines (s : State) (zone : Nat) : List Nat :=
  linesThat s fun x => x.zone = zone && (x.kind = lkHost || x.kind = lkCached || x.kind = lkWeave)

/-- The line a read of a block is served from: the CACHED or HOST one with the highest SEQ (R380). -/
def cachedLine (s : State) (zone off : Nat) : Option Nat :=
  let l := linesThat s fun x => x.zone = zone && x.offset = off && (x.kind = lkCached || x.kind = lkTrail || x.kind = lkHost)
  let l := l.map fun i => (((s.line i).map (·.seq)).getD 0, i)
  match l with
  | [] => none
  | x :: xs => some (xs.foldl (fun m y => if m.1 < y.1 then y else m) x).2

/-- The provisional line of a block (R373). -/
def provLine (s : State) (zone off : Nat) : Option Nat :=
  (linesThat s fun x => x.zone = zone && x.offset = off && (x.kind = lkPending || x.kind = lkLanded)).head?

/-- Cancel the provisional lines that satisfy `p`, but for those reads wait for: a LANDED line is freed, a PENDING one
when its sector arrives (R374). -/
def cancelProv (s : State) (p : Line → Bool) : State :=
  let s := (linesThat s fun x => x.kind = lkLanded && x.slot.isNone && p x).foldl freeLine s
  (linesThat s fun x => x.kind = lkPending && x.slot.isNone && p x).foldl (fun s i =>
    s.modLine i fun x => { x with kind := lkRead }) s

/-- A slot's number leaves lines and operations: its command has completed. -/
def forgetSlot (s : State) (k : Nat) : State :=
  let f := fun (o : PlanOp) => if o.slot = some k then { o with slot := none } else o
  let s := s.schMap fun x => { x with plan := x.plan.map f, posted := x.posted.map fun e => (e.1, e.2.map f) }
  (linesThat s fun x => x.slot = some k).foldl (fun s i => s.modLine i fun x => { x with slot := none }) s

/-- Abort the tags of the posted operations that satisfy `p` (R256); the answer stays. -/
def abortOps (s : State) (p : PlanOp → Bool) : State :=
  let a := s.answer
  { (postedOps s).foldl (fun s e => if p e.2.2 then lqAbort e.1 e.2.1 s else s) s with answer := a }

/-- Release the tags whose pins a step-7 read kept (R143, R148). -/
def releaseKept (s : State) (o : PlanOp) : State := o.kept.foldl (fun s k => lqRelease k.1 k.2.1 s) s

/-- Operations that satisfy `p` leave the plan. -/
def unplan (s : State) (p : PlanOp → Bool) : State :=
  (s.sch.plan.filter p).foldl releaseKept (s.schMap fun x => { x with plan := x.plan.filter fun o => !p o })

/-- The device zone and the block in it of a namespace's LBA (R337). -/
def blockAt (n : Ns) (lba : Nat) : Option (Nat × Nat) :=
  (n.zones[lba / zoneSize n.kind]?).map fun z => (z, lba % zoneSize n.kind)

/-- The blocks of a run of LBAs: zone and block in it. -/
def blocksOf (n : Ns) (lba count : Nat) : List (Nat × Nat) := (List.range count).filterMap fun i => blockAt n (lba + i)

/-- The actuator a block's sector is bound for (R375). -/
def blockActuator (s : State) (zone off : Nat) : Nat :=
  let e := (readEntry s zone).1
  e.head (if woven e.kind then ((locate e.kind off).map (·.1)).getD 0 else 0) / 8

/-! The host's data (R340, R343, R391, R541). -/

/-- Metadata bytes of an LBA format (R340). -/
def metaBytes (lbaf : Nat) : Nat := if lbaf = 0 then 0 else if lbaf = 1 then 8 else 16

/-- The key pair of a namespace: a slot that holds none is all zero (R540). -/
def nsKey (s : State) (nsx : Nat) : Nat := (sget none s.sec.slots nsx).getD 0

/-- A block as the host gives it becomes the 4,112 bytes a line holds: user data, metadata left-justified, ciphered under
the namespace LBA (R340, R541). -/
def cipherBlock (s : State) (nsx lba : Nat) (bs : List Nat) : List Nat :=
  xtsEncrypt (nsKey s nsx) lba ((bs ++ List.replicate 4112 0).take 4112)

/-- The bytes a host receives of the 4,112 of a line (R340, R541). -/
def plainBlock (s : State) (nsx lba lbaf : Nat) (bs : List Nat) : List Nat :=
  (xtsDecrypt (nsKey s nsx) lba bs).take (4096 + metaBytes lbaf)

/-! Protection information (R340, R347), laid out as the NVM Express specifications define it: guard, application tag and
reference tag, most significant byte first (PRESUMED, log 35). -/

/-- Bytes of the guard by LBA format. -/
def guardBytes (lbaf : Nat) : Nat := if lbaf = 1 then 2 else if lbaf = 2 then 4 else 8

/-- Bytes of the reference tag by LBA format; the storage tag has none (R340). -/
def refBytes (lbaf : Nat) : Nat := metaBytes lbaf - guardBytes lbaf - 2

/-- The number bytes spell, most significant first. -/
def beNat (l : List Nat) : Nat := leNat l.reverse

/-- The guard of a block's data (R340). -/
def guardOf (lbaf : Nat) (data : List Nat) : Nat :=
  if lbaf = 1 then guard16 data else if lbaf = 2 then crc32c data else guard64 data

/-- The protection information of a block (R340). -/
def piBytes (lbaf app ref : Nat) (data : List Nat) : List Nat :=
  beBytes (guardBytes lbaf) (guardOf lbaf data) ++ beBytes 2 app ++
    beBytes (refBytes lbaf) (ref % 2 ^ (8 * refBytes lbaf))

/-- The namespace has protection information: DPS names a type 1-3 (R340). -/
def Ns.guarded (n : Ns) : Bool := n.lbaf ≠ 0 && n.prot % 8 ≠ 0

/-- What is wrong with a block's protection information under PRCHK: the guard, the application tag, the reference tag, which
is to be `ref` (R340). All-ones application tags, for type 3 with an all-ones reference tag, switch the checks off. -/
def piFailure (n : Ns) (pi : PiIn) (ref : Nat) (block : List Nat) : Option HostStatus :=
  if !n.guarded then none
  else
    let data := block.take 4096
    let md := block.drop 4096
    let g := guardBytes n.lbaf
    let app := beNat ((md.drop g).take 2)
    let tag := beNat ((md.drop (g + 2)).take (refBytes n.lbaf))
    let top := 2 ^ (8 * refBytes n.lbaf)
    if app = 0xFFFF && (n.prot % 8 ≠ 3 || tag = top - 1) then none
    else if bit pi.chk.toNat 2 && beNat (md.take g) ≠ guardOf n.lbaf data then some .guardCheck
    else if bit pi.chk.toNat 1 && (app &&& pi.mask.toNat) ≠ (pi.app.toNat &&& pi.mask.toNat) then some .appTagCheck
    else if bit pi.chk.toNat 0 && n.prot % 8 ≠ 3 && tag ≠ ref % top then some .refTagCheck
    else none

/-- The blocks of a write as the host gives them, each with its metadata: at its end, or in a buffer of its own; with PRACT the
device makes the protection information itself (R340). `ref` is the first block's reference tag. -/
def hostBlocks (n : Ns) (pi : PiIn) (ref : Nat) (data md : List Nat) (count : Nat) : List (List Nat) :=
  let m := metaBytes n.lbaf
  let fit := fun (k : Nat) (l : List Nat) => (l ++ List.replicate k 0).take k
  (List.range count).map fun i =>
    if n.guarded && pi.act then
      let d := fit 4096 (data.drop (4096 * i))
      d ++ piBytes n.lbaf pi.app.toNat (ref + i) d
    else if n.ext then fit (4096 + m) (data.drop ((4096 + m) * i))
    else fit 4096 (data.drop (4096 * i)) ++ fit m (md.drop (m * i))

/-- The first failure of a write's blocks, whose reference tags count on from `ref`; with PRACT there is nothing to check
(R340). -/
def blocksFailure (n : Ns) (pi : PiIn) (ref : Nat) (blocks : List (List Nat)) : Option HostStatus :=
  if pi.act then none
  else (List.zip (List.range blocks.length) blocks).findSome? fun e => piFailure n pi (ref + e.1) e.2

/-- A block with its reference tag set, but for type 3 (R340, R347). -/
def rebase (n : Ns) (ref : Nat) (block : List Nat) : List Nat :=
  if n.guarded && n.prot % 8 ≠ 3 then
    block.take (4096 + guardBytes n.lbaf + 2) ++ beBytes (refBytes n.lbaf) (ref % 2 ^ (8 * refBytes n.lbaf))
  else block

/-- What the host receives of blocks read: metadata at the end of each, or behind all of them for its buffer; with PRACT the
protection information is stripped (R340). -/
def readData (n : Ns) (pi : PiIn) (blocks : List (List Nat)) : List Nat :=
  if n.guarded && pi.act then blocks.flatMap fun b => b.take 4096
  else if n.ext then blocks.flatten
  else (blocks.flatMap fun b => b.take 4096) ++ blocks.flatMap fun b => b.drop 4096

/-- The bytes of line `n` that hold its sector carry poison (R379, R401). -/
def linePoison (s : State) (n : Nat) : Bool :=
  s.dram.poison.any fun g => lineAddr s n / 32 ≤ g && g < lineAddr s n / 32 + 129

/-- One block of a read: its bytes, or how it fails (R285, R340, R343, R391). Blocks beyond the write pointer are zeros and
have nothing to check. -/
def readBlock (s : State) (n : Ns) (c : HostCmd) (i : Nat) (p : ReadFrom) : Except HostStatus (List Nat) × State :=
  let plain := fun (s : State) (bs : List Nat) (poison : Bool) =>
    if poison then Except.error HostStatus.unrecoveredRead
    else
      let b := plainBlock s c.nsx (c.lba + i) n.lbaf bs
      match piFailure n c.pi (c.pi.ref.toNat + i) b with
      | some st => Except.error st
      | none => Except.ok b
  match p with
  | .zero => (.ok (List.replicate (4096 + metaBytes n.lbaf) 0), s)
  | .held bs poison => (plain s bs poison, s)
  | .line k =>
    let r := memRead s .pcx (lineAddr s k) 4112
    (plain r.2 r.1.bytes r.1.poison, r.2)
  | .lost => (.error .unrecoveredRead, s)

/-- The blocks of a read in order, up to the first that fails, and how it fails (R285, R340, R391). -/
def readBlocks (n : Ns) (c : HostCmd) : Nat → List ReadFrom → State → (List (List Nat) × HostStatus) × State
  | _, [], s => (([], .success), s)
  | i, p :: ps, s =>
    let r := readBlock s n c i p
    match r.1 with
    | .error st => (([], st), r.2)
    | .ok b =>
      let t := readBlocks n c (i + 1) ps r.2
      ((b :: t.1.1, t.1.2), t.2)

/-- The lines a read takes its blocks from. -/
def HostCmd.readLines (c : HostCmd) : List Nat :=
  c.parts.filterMap fun p => match p with
    | .line n => some n
    | _ => none

/-- A line that has served a read goes, unless another read takes from it too (R373). -/
def servedLine (s : State) (k i : Nat) : State :=
  match s.nvme.cmds.find? fun c => c.slot ≠ k && c.readLines.contains i with
  | some c => s.modLine i fun x => { x with slot := some c.slot }
  | none => dropLine s i

/-- End a read or a Verify: data to the host up to the first block that fails, then its lines go (R285, R340, R341, R343,
R391). -/
def finishRead (s : State) (c : HostCmd) : State :=
  match s.ns c.nsx with
  | none => endCmd s c.slot .invalidNamespaceOrFormat
  | some n =>
    let r := readBlocks n c 0 c.parts s
    let s := c.readLines.foldl (fun s i => servedLine s c.slot i) (forgetSlot r.2 c.slot)
    let s := if c.op = .verify then s
      else
        let l := readData n c.pi r.1.1
        let s := countMoved s (portOf s (s.slot c.slot).ctrl) true l.length
        { s with answer := { s.answer with data := s.answer.data ++ l } }
    endCmd s c.slot r.1.2

/-- A part of a read has come (R373). -/
def partReady (s : State) (p : ReadFrom) : Bool :=
  match p with
  | .line n => match s.line n with
    | some x => x.written || x.kind = lkLanded
    | none => true
  | _ => true

/-! Writes. -/

/-- A host write has its lines, and they are where its completion needs them (R342). -/
def writeReady (s : State) (c : HostCmd) : Bool :=
  c.held.isNone && c.lines.all fun i => match s.line i with
    | some x => if c.cached then x.kind ≠ lkHost
        else x.written && !(x.kind = lkHost && woven (((s.ns c.nsx).map (·.kind)).getD 0))
    | none => true

/-- End a write (R342, R379): one on the media gives its lines up, but those of a woven zone, which stay charged until
their row's binding is written (R276, R375). An append reports its LBA (R347). -/
def finishWrite (s : State) (c : HostCmd) : State :=
  let kind := ((s.ns c.nsx).map (·.kind)).getD 0
  let s := forgetSlot s c.slot
  let s := if c.cached then s
    else if woven kind then s
    else c.lines.foldl releaseLine s
  let a := c.op = .append && !c.spoiled
  endCmd (checkHi s) c.slot (if c.spoiled then .internalError else .success) (if a then c.lba % 2 ^ 32 else 0)
    (if a then c.lba / 2 ^ 32 else 0)

/-- The namespaces that exist, rising. -/
def allNs (s : State) : List (Nat × Ns) := s.nvme.nss.filterMap fun e => e.2.map fun n => (e.1, n)

/-! What the Weave Status page shows (R295). -/

/-- The strands of a woven zone that are lost. -/
def ZoneEntry.lostStrands (e : ZoneEntry) : List Nat := (List.range 12).filter e.lost

/-- A head out of service for reading: firmware has retired its bands (R85, R288, R295; DEDUCED, log 72). -/
def headOut (s : State) (h : Nat) : Bool :=
  let kinds := (List.range (s.get FMT.BANDS_PER_RB.COUNT * 48)).map fun b => (readBand s h b).1.1.kind
  bit (s.get FMT.HEAD_EN.EN) h && kinds.contains 6 && kinds.all fun k => k ≠ 0 && k ≠ 1 && k ≠ 2 && k ≠ 5

/-- An actuator that firmware has retired: all its populated heads are out of service (R268, R288, R295; DEDUCED,
log 72). -/
def actRetired (s : State) (a : Nat) : Bool :=
  let heads := (List.range 8).filter fun h => bit (s.get FMT.HEAD_EN.EN) (8 * a + h)
  !heads.isEmpty && heads.all fun h => headOut s (8 * a + h)

/-- A zone under relaxed placement (R268, R295). -/
def relaxed (e : ZoneEntry) : Bool := woven e.kind && (List.range 12).any fun v => e.head v / 8 ≠ v % 4

/-- Spare bands of the device (R88). -/
def spareBands (s : State) : Nat :=
  (bitList 32 (s.get FMT.HEAD_EN.EN)).foldl (fun a h =>
    (List.range (s.get FMT.BANDS_PER_RB.COUNT * 48)).foldl (fun a b =>
      if (readBand s h b).1.1.kind = 5 then a + 1 else a) a) 0

/-- The woven zones with their entries: NSID, start LBA, zone, entry. -/
def wovenZones (s : State) : List (Nat × Nat × Nat × ZoneEntry) :=
  (allNs s).flatMap fun e => if woven e.2.kind then
    (List.zip (List.range e.2.zones.length) e.2.zones).map fun z => (e.1 + 1, z.1 * zoneSize e.2.kind, z.2, (readEntry s z.2).1)
  else []

/-- Those with a lost strand or a rebuild in progress (R295). -/
def degradedZones (s : State) : List (Nat × Nat × Nat × ZoneEntry) :=
  (wovenZones s).filter fun e => !e.2.2.2.lostStrands.isEmpty || s.sch.rebuild.any fun b => b.zone = e.2.2.1

/-- The Weave Status header without RECON_READS and REBUILT (R295, R353): DEGRADED, AT_LIMIT, REBUILDING, SPARES, DONATED,
LOST_ZONES, RELAXED, RETIRED, LOST_HEADS, ENTRIES. -/
def weaveHeader (s : State) : List Nat :=
  let l := degradedZones s
  let lost := l.filter fun e => !e.2.2.2.lostStrands.isEmpty
  let mask := fun (n : Nat) (p : Nat → Bool) => ((List.range n).filter p).foldl (fun m i => setBit m i true) 0
  [lost.length, (lost.filter fun e => e.2.2.2.lostStrands.length = 12 - dataStrands e.2.2.2.kind).length,
    if s.sch.rebuild.isSome then 1 else 0, spareBands s, s.sch.donated, s.nvme.lostZones.length,
    ((wovenZones s).filter fun e => relaxed e.2.2.2).length, mask 4 (actRetired s), mask 32 (headOut s), l.length]

/-- Something is about to change that the Weave Status header shows: the header as it was, until the host is told (R353). -/
def weaveMark (s : State) : State :=
  if s.sch.weaveWas.isSome then s else s.schMap fun x => { x with weaveWas := some (weaveHeader s) }

/-- The header has changed: both hosts are told; an actuator that has been retired sets Critical Warning bit 2 (R352,
R353). -/
def weaveTell (s : State) : State :=
  match s.sch.weaveWas with
  | none => s
  | some h =>
    let now := weaveHeader s
    let s := s.schMap fun x => { x with weaveWas := none }
    let s := if ((now[7]?).getD 0) = 0 then s else criticalWarning s 2
    if now = h then s else asyncBoth s .weaveStatus

/-- Bytes `a` to `a + n - 1` are about to be written: in the zone map or the band table they may change what Weave Status shows
(R87, R88, R295, R353). -/
def bandsWritten (s : State) (a n : Nat) : State :=
  let meets := fun (base size : Nat) => decide (a < base + size) && decide (base < a + n)
  if s.get FMT.HEAD_EN.EN ≠ 0 && (meets (s.get FMT.BAND_BASE.ADDR * 4096) (2 ^ 23) ||
      meets (s.get FMT.MAP_BASE.ADDR * 4096) (64 * s.get FMT.ZONE_COUNT.COUNT)) then weaveMark s else s

/-- BUFFER_WRITE (R389, R392, R395); beyond USABLE there is nothing to write, status 2 (R389, R433; log 60). -/
def execBufferWrite (addr : BitVec 44) (bytes : List Byte) (poison : Bool) (s : State) : Result :=
  .next (
    if usableBytes s < addr.toNat + bytes.length then s.reply 2 []
    else memWrite (bandsWritten s addr.toNat bytes.length) addr.toNat (bytes.map (·.toNat)) poison)

/-! Self-tests (R356). -/

/-- Seconds of operation (R495). -/
def operatingSeconds (s : State) : Nat := s.get EVR.SECONDS_HI.SECONDS * 2 ^ 32 + s.get EVR.SECONDS_LO.SECONDS

/-- Hours of operation (R352). -/
def operatingHours (s : State) : Nat := operatingSeconds s / 3600

/-- Change the self-test in progress. -/
def testMap (s : State) (f : SelfTest → SelfTest) : State :=
  { s with nvme := { s.nvme with selfTest := s.nvme.selfTest.map f } }

/-- Line `i` takes the sector that the self-test in progress reads. -/
def testHas (s : State) (i : Nat) : Bool := s.nvme.selfTest.any fun t => t.line = some i

/-- The self-test in progress ends with a result, as the NVM Express specifications number it, which goes to the front of the log
of 20 (R352, R356; PRESUMED, log 35). -/
def selfTestEnds (s : State) (result : Nat) : State :=
  match s.nvme.selfTest with
  | none => s
  | some t =>
    let new : TestResult := ⟨t.code, result, t.failed.getD 0, operatingHours s, t.sector⟩
    let s : State := { s with nvme := { s.nvme with selfTest := none, testLog := (new :: s.nvme.testLog).take 20 } }
    match t.line with
    | some i => dropLine (unplan s fun o => o.use = .test) i
    | none => s

/-- A self-test of a namespace ends, by whatever takes the namespace's data away (PRESUMED, log 35). -/
def testLeaves (s : State) (nsx result : Nat) : State :=
  if s.nvme.selfTest.any fun t => t.nss.contains nsx then selfTestEnds s result else s

/-! Resets, formats, deletions (R339, R350, R360, R374, R380). -/

/-- Put a band's KIND and owning zone (R85, R88). -/
def putBand (s : State) (head band kind zone : Nat) : State :=
  let s := weaveMark s
  let r := readBand s head band
  memWrite r.2 (bandEntryAddr r.2 head band) { r.1.1 with kind := kind, zone := zone }.bytes

/-- Line `i` takes a sector of the rebuild in progress (R291). -/
def rebuildHas (s : State) (i : Nat) : Bool := s.sch.rebuild.any fun b => b.lines.contains i

/-- The rebuild ends (R292, R293): what it has planned and posted goes, its lines are given up, its write hold is released;
descriptors still in flight complete and their output is discarded. Its band takes the given KIND. -/
def stopRebuild (s : State) (b : Rebuild) (kind : Nat) : State :=
  let mine := fun (o : PlanOp) => (o.use = .copy || o.use = .rebuild || o.use = .pad) && o.lines.any b.lines.contains ||
    (o.use = .pad && o.zone = b.zone)
  let s := unplan (abortOps (weaveMark s) mine) mine
  let gone := s.sch.recons.filter fun r => b.lines.contains r.line
  let s := s.schMap fun x => { x with recons := x.recons.filter fun r => !b.lines.contains r.line, rebuild := none }
  let s := (gone.flatMap fun r => r.sources.map (·.2.1)).foldl dropLine (unplan s fun o =>
    o.use = .source && gone.any fun r => r.sources.any fun x => x.2.1 = o.line)
  let s := b.lines.foldl dropLine s
  let s := if b.hold then s.put SCH.WRITE_HOLD.VALID 0 else s
  putBand s b.head b.band kind (if kind = 5 then 0 else b.zone)

/-- A rebuild of the zone ends at once, its band spare again (R293). -/
def endRebuild (s : State) (zone : Nat) : State :=
  match s.sch.rebuild with
  | some b => if b.zone = zone then stopRebuild s b 5 else s
  | none => s

/-- The zone's cached data goes: CACHED lines freed, destage tags aborted, plan and rows without the zone (R380), and a
rebuild of it ends (R293). -/
def discardZone (s : State) (zone : Nat) : State :=
  let s := endRebuild s zone
  let s := abortOps s fun o => o.writes && o.zone = zone
  let s := unplan s fun o => o.writes && o.zone = zone
  let s := (linesThat s fun x => x.zone = zone && (x.kind = lkCached || x.kind = lkTrail || x.kind = lkWeave)).foldl dropLine s
  s.schMap fun x => { x with rows := x.rows.filter fun r => r.1 ≠ zone, lastRead := sdel x.lastRead zone }

/-- A zone becomes Empty (R84, R350). -/
def emptyZone (s : State) (nsx zone : Nat) : State :=
  let s := discardZone s zone
  let s := putZoneWp (enterZoneState s nsx zone zsEmpty) zone 0
  updateMwp s zone 0

/-- The zone of an entry leaves service: its cached data is lost with it (R345, R346). -/
def offlineZone (s : State) (nsx zone : Nat) : State :=
  criticalWarning (zoneChanged (enterZoneState (discardZone s zone) nsx zone zsOffline) nsx zone) 2

/-! Lost strands (R268, R288, R289). -/

/-- Write a strand's word and DEGRADED (R87, R89). -/
def putStrand (s : State) (zone w head band : Nat) (lost : Bool) : State :=
  let s := rewriteEntry (weaveMark s) zone (16 + 4 * w) (leBytes 4 (head % 32 * 2 ^ 27 + band % 2 ^ 15 * 2 ^ 12 + (if lost then 2 ^ 11 else 0)))
  let e := readEntry s zone
  rewriteEntry e.2 zone 1 [(e.1.bytes[1]?.getD 0) % 128 + (if e.1.lostStrands.isEmpty then 0 else 128)]

/-- The relaxed placement of an actuator-safe zone (R268): a strand of a retired actuator on another, on which no other
strand of the retired one lies. -/
def relaxedPlace (s : State) (e : ZoneEntry) (w head : Nat) : Bool :=
  e.kind = 1 && e.head w / 8 = w % 4 && head / 8 ≠ w % 4 &&
    ((List.range 12).all fun v =>
      v = w || (if v % 4 = w % 4 then decide (e.head v / 8 ≠ head / 8) else decide (e.head v / 8 = v % 4))) &&
    actRetired s (w % 4)

/-- A band may replace strand `w` (R85, R268): a spare band of the same actuator, or under the relaxed placement of another,
on a head with no other strand of the zone. -/
def bandReplaces (s : State) (e : ZoneEntry) (w head band : Nat) : Bool :=
  (head / 8 = e.head w / 8 || relaxedPlace s e w head) && (!woven e.kind || (List.range 12).all fun v => v = w || e.head v ≠ head) &&
    (readBand s head band).1.1.kind = 5

/-- A band that was taken for a rebuild of the zone and is no strand of it yet takes the lost strand's place at a Zone Reset
(R85, R293). -/
def bandRebuilt (s : State) (e : ZoneEntry) (zone head band : Nat) : Bool :=
  let b := (readBand s head band).1.1
  b.kind = 1 && b.zone = zone && (List.range 12).all fun v => e.head v ≠ head

/-- A head that can be written has no fault (R179, R288). -/
def headServes (s : State) (head : Nat) : Bool :=
  !bit (s.get AST.HEAD_FAULT.ASSIST_FAULT (head / 8)) (head % 8) && !bit (s.get AST.HEAD_FAULT.WRITE_FAULT (head / 8)) (head % 8)

/-- The rate bands, nearest to `k` first; of two as near the lower one (R85; log 77). -/
def nearBands (k : Nat) : List Nat :=
  (List.range 48).flatMap fun d => (List.range 48).filter fun j => max j k - min j k = d

/-- A spare band for a strand of a zone in the order of preference of R85: the same head and rate band, the same head and
the nearest rate band, another head of the actuator (R77, R268; log 77). -/
def spareFor (s : State) (e : ZoneEntry) (w : Nat) : Option (Nat × Nat) :=
  let n := s.get FMT.BANDS_PER_RB.COUNT
  let heads := e.head w :: (List.range 32).filter (· ≠ e.head w)
  heads.findSome? fun head => (nearBands (e.band w / max 1 n)).findSome? fun k => (List.range n).findSome? fun j =>
    if headServes s head && bandReplaces s e w head (k * n + j) then some (head, k * n + j) else none

/-- The zones that may give bands to strand `w` of a zone (R294): Empty ones of its namespace with a band that fits, the
highest number first. -/
def donorFor (s : State) (e : ZoneEntry) (nsx zone w : Nat) : Option Nat :=
  let zones := ((s.ns nsx).map (·.zones)).getD []
  (zones.reverse.find? fun z =>
    let x := (readEntry s z).1
    z ≠ zone && x.state = zsEmpty && (List.range (if woven x.kind then 12 else 1)).any fun v =>
      headServes s (x.head v) && x.head v / 8 = e.head w / 8 && (List.range 12).all fun u => u = w || e.head u ≠ x.head v)

/-- A lost strand of a zone can be replaced: by a spare band, or by a donor's (R289, R294). -/
def replaceable (s : State) (e : ZoneEntry) (nsx zone w : Nat) : Bool :=
  (spareFor s e w).isSome || (donorFor s e nsx zone w).isSome

/-- A woven zone goes Offline for lost strands (R289, R295). -/
def weaveLost (s : State) (nsx zone : Nat) : State :=
  let s := offlineZone (weaveMark s) nsx zone
  { s with nvme := { s.nvme with
    lostZones := if s.nvme.lostZones.contains zone then s.nvme.lostZones else s.nvme.lostZones ++ [zone] } }

/-- What a zone's loss of a strand does to it (R289): more lost than it survives take it Offline; with one more loss that
it would not survive and no band for a lost strand, an open or closed zone turns Read Only. -/
def lossOutcome (s : State) (nsx zone : Nat) : State :=
  let e := readEntry s zone
  let p := 12 - dataStrands e.1.kind
  let l := e.1.lostStrands
  if p < l.length then weaveLost e.2 nsx zone
  else if l.length = p && 2 ≤ e.1.state && e.1.state ≤ 4 && l.all (fun w => !replaceable e.2 e.1 nsx zone w) then
    zoneChanged (enterZoneState e.2 nsx zone zsReadOnly) nsx zone
  else e.2

/-- Spare bands at format: 282 a head (R361's example, log 49). -/
def sparesAtFormat (s : State) : Nat := 282 * (bitList 32 (s.get FMT.HEAD_EN.EN)).length

/-- Available Spare, percent (R352). -/
def sparePercent (s : State) : Nat := spareBands s * 100 / max 1 (sparesAtFormat s)

/-- Critical Warning bit 0 sets when the spare bands fall below their threshold (R352, R353; log 78). -/
def spareWarning (s : State) : State := if sparePercent s < 10 then criticalWarning s 0 else s

/-- Put a spare band in the place of a lost strand: the spare becomes a data band, the one given up is retired (R85). -/
def replaceStrand (s : State) (zone w head band : Nat) : State :=
  let e := readEntry s zone
  let s := putBand e.2 (e.1.head w) (e.1.band w) 6 0
  spareWarning (putStrand (putBand s head band 1 zone) zone w head band false)

/-- The band that takes the place of lost strand `w` at a Zone Reset (R85, R289, R293): that of a rebuild which the Reset has
overtaken, else the one firmware names, if it fits, else the first spare band. -/
def resetBand (s : State) (old : Option Rebuild) (bands : List (Nat × Nat × Nat × Nat)) (zone w : Nat) :
    Option (Nat × Nat) :=
  let e := (readEntry s zone).1
  ((old.filter fun b => b.zone = zone && b.strand = w).map fun b => (b.head, b.band)).or <|
  ((bands.find? fun b => b.1 = zone && b.2.1 = w &&
    (bandReplaces s e w b.2.2.1 b.2.2.2 || bandRebuilt s e zone b.2.2.1 b.2.2.2)).map (·.2.2)).or (spareFor s e w)

/-- A Zone Reset (R289, R350): the zone is Empty, its lost strands replaced; a strand that no band can replace makes the
zone Offline. -/
def resetZone (bands : List (Nat × Nat × Nat × Nat)) (nsx : Nat) (s : State) (zone : Nat) : State :=
  let old := s.sch.rebuild
  let s := emptyZone s nsx zone
  let e := readEntry s zone
  if !woven e.1.kind || e.1.lostStrands.isEmpty then e.2
  else
    let s := e.1.lostStrands.foldl (fun s w =>
      match resetBand s old bands zone w with
      | some b => replaceStrand s zone w b.1 b.2
      | none => s) e.2
    let e := readEntry s zone
    if e.1.lostStrands.isEmpty then e.2 else weaveLost e.2 nsx zone

/-- A head can no longer be written (R179, R288, R289, R345): plain zones on it that are not Full turn Read Only; woven
zones that are not Full lose its strands, and go Offline where more are lost than they survive. The zones changed. -/
def headLost (s : State) (head : Nat) : List Nat × State :=
  let zones := s.nvme.nss.flatMap fun e => match e.2 with
    | some n => n.zones.map fun z => (e.1, z)
    | none => []
  zones.foldl (fun a x =>
    let e := readEntry a.2 x.2
    if e.1.kind = 0 then
      if 1 ≤ e.1.state && e.1.state ≤ 4 && e.1.head 0 = head then
        (a.1, zoneChanged (enterZoneState e.2 x.1 x.2 zsReadOnly) x.1 x.2)
      else (a.1, e.2)
    else if !woven e.1.kind || e.1.state = zsFull || e.1.state = zsOffline then (a.1, e.2)
    else
      let l := (List.range 12).filter fun w => e.1.head w = head && !e.1.lost w
      if l.isEmpty then (a.1, e.2)
      else
        let s := l.foldl (fun s w => putStrand s x.2 w (e.1.head w) (e.1.band w) true) e.2
        (a.1 ++ [x.2], lossOutcome s x.1 x.2)) ([], s)

/-- The bands of a zone return to free in the band table (R88, R339). -/
def freeBands (s : State) (zone : Nat) : State :=
  let r := readEntry s zone
  (List.range (if woven r.1.kind then 12 else 1)).foldl (fun s n =>
    let b := readBand s (r.1.head n) (r.1.band n)
    memWrite b.2 (bandEntryAddr b.2 (r.1.head n) (r.1.band n)) ({ b.1.1 with kind := 0, zone := 0 } : BandEntry).bytes) r.2

/-- 512 bits from the entropy source (R540). -/
def freshKey (s : State) : Nat × State := (s.free % 2 ^ 512, s.drawn)

/-- A namespace's key is replaced (R360, R361, R543). -/
def replaceKey (s : State) (nsx : Nat) : State :=
  let k := freshKey s
  setSlot k.2 nsx (some k.1)

/-- Tell the controllers that a namespace's attributes have changed (R352, R353). -/
def nsAttributeChanged (s : State) (nsx : Nat) : State :=
  let add := fun (l : List Nat) => if l.contains nsx then l else l ++ [nsx]
  let m := s.nvme.nsChanged
  let s := { s with nvme := { s.nvme with
    nsChanged := sset [] (sset [] m 0 (add (sget [] m 0))) 1 (add (sget [] m 1)) } }
  asyncBoth s .nsAttributeChanged

/-- The effect of a Format NVM (R360). -/
def formatNs (s : State) (nsx lbaf prot : Nat) (ext erase : Bool) : State :=
  match s.ns nsx with
  | none => s
  | some n =>
    let s := cancelProv (testLeaves s nsx 4) fun x => n.zones.contains x.zone
    let s := n.zones.foldl (fun s z => emptyZone s nsx z) s
    let s := s.modNs nsx fun n => { n with lbaf := lbaf, prot := prot, ext := ext, formatting := false, older := [] }
    if erase then replaceKey s nsx else s

/-- The effect of a namespace deletion (R339). -/
def deleteNs (s : State) (nsx : Nat) : State :=
  match s.ns nsx with
  | none => s
  | some n =>
    let s := cancelProv (weaveMark (testLeaves s nsx 3)) fun x => n.zones.contains x.zone
    let s := n.zones.foldl (fun s z => putZoneState (freeBands (discardZone s z) z) z 0) s
    let s : State := { s with nvme := { s.nvme with
      lostZones := s.nvme.lostZones.filter fun z => !n.zones.contains z
      saved := s.nvme.saved.filter fun e => !(e.1 % 256 = 0x82 && e.1 / 512 = nsx) } }
    nsAttributeChanged (setSlot (s.setNs nsx none) nsx none) nsx

/-! The zone order (R347, R348, R350). -/

/-- The commands before `c`. -/
def cmdsBefore (s : State) (c : HostCmd) : List HostCmd := s.nvme.cmds.takeWhile fun x => x.slot ≠ c.slot

/-- A row of the zone still waits for its binding on the media (R275, R350). -/
def bindingOwed (s : State) (zone : Nat) : Bool :=
  s.sch.rows.any (fun r => r.1 = zone) ||
    !(linesThat s fun x => x.zone = zone && x.kind = lkCached && x.offset < 2 ^ 31).isEmpty

/-- A write command. -/
def HostOp.isWrite : HostOp → Bool
  | .write | .zeroes | .append => true
  | _ => false

/-- The zones a command names. -/
def HostCmd.zones (c : HostCmd) : List Nat :=
  match c.op with
  | .reset l _ | .finish l => l
  | _ => [c.zone]

/-- Every command to the namespace that held a slot when its Format or deletion began has completed, and none of its
commands goes on without a slot (R318, R339, R360). -/
def olderDone (s : State) (k nsx : Nat) : Bool :=
  (((s.ns nsx).map (·.older)).getD []).all (fun e =>
    (s.slot e.1).gen ≠ e.2 || (s.slot e.1).st = .free || (s.slot e.1).st = .posting) &&
    !(s.nvme.cmds.any fun x => x.slot ≠ k && x.nsx = nsx && decide (4096 ≤ x.slot))

/-- The commands to a namespace that hold slots, but for the one in slot `k`: those of I/O queues whose entry names it (bytes
4-7; PRESUMED, log 35), and those in progress (R339, R360). -/
def nsCommands (s : State) (k nsx : Nat) : List (Nat × Nat) :=
  ([0, 1].flatMap fun n => heldSlots s n fun x => x.st ≠ .posting).filterMap fun j =>
    let x := s.slot j
    if j ≠ k && ((x.sqid ≠ 0 && leNat ((x.sqe.drop 4).take 4) = nsx + 1) || s.nvme.cmds.any fun c => c.slot = j && c.nsx = nsx) then
      some (j, x.gen) else none

/-- A command can end now. -/
def cmdReady (s : State) (c : HostCmd) : Bool :=
  (s.slot c.slot).st ≠ .aborting && decide (c.slot < 4096) &&
    match c.op with
    | .read | .verify => c.parts.all (partReady s)
    | .write | .zeroes | .append => writeReady s c
    | .reset zones _ => (cmdsBefore s c).all fun x => !(x.zones.any zones.contains) || x.nsx ≠ c.nsx
    | .finish zones => !woven (((s.ns c.nsx).map (·.kind)).getD 0) || zones.all fun z => !bindingOwed s z
    | .format _ _ _ _ => olderDone s c.slot c.nsx
    | .nsDelete nss => nss.all (olderDone s c.slot)

/-- End a command that can. -/
def finishCmd (s : State) (c : HostCmd) : State :=
  match c.op with
  | .read | .verify => finishRead s c
  | .write | .zeroes | .append => finishWrite s c
  | .reset zones bands => endCmd (zones.foldl (resetZone bands c.nsx) s) c.slot .success
  | .finish _ => endCmd s c.slot .success
  | .format lbaf prot ext erase => endCmd (formatNs s c.nsx lbaf prot ext erase) c.slot .success
  | .nsDelete nss => endCmd (nss.foldl deleteNs s) c.slot .success

/-! A controller disable in progress (R318). -/

/-- Every place that names a slot's command forgets it: outstanding requests, waiting deletions, moves of ownership. -/
def forgetAdmin (s : State) (k : Nat) : State :=
  let s := [0, 1].foldl (fun s n =>
    let c := s.ctl n
    s.setCtl n { c with
      aers := c.aers.filter fun x => x ≠ k
      aborts := c.aborts.filter fun a => a.1 ≠ k
      sqs := c.sqs.map fun e => (e.1, e.2.map fun q => if q.deleting = some k then { q with deleting := some 4096 } else q) }) s
  { s with nvme := { s.nvme with nss := s.nvme.nss.map fun e => (e.1, e.2.map fun n =>
    match n.moving with
    | some m => if m.2 = some k then { n with moving := some (m.1, none) } else n
    | none => n) } }

/-- A slot becomes FREE. -/
def freeSlotOf (s : State) (k : Nat) : State := (forgetAdmin s k).setSlot k { gen := (s.slot k).gen }

/-- The slots of a controller disable in progress become FREE as their commands' tags leave the lanes; after the last one
every queue is deleted and RDY clears, and a host that has enabled the controller again finds it ready (R318). -/
def settleClosing (s : State) (n : Nat) : State :=
  if !(s.ctl n).closing then s
  else
    let held := s.nvme.cmds.filterMap (·.home)
    let s := ((heldSlots s n fun _ => true).filter fun k => !held.contains k).foldl freeSlotOf s
    if slotsHeld s n ≠ 0 then s
    else
      let s := s.setCtl n { s.ctl n with
        sqs := [], cqs := [], served := [], credits := (0, 0, 0), aborts := [], aers := [], closing := false }
      settleEnable ((s.put HQ.HQ_STAT.RDY 0 n).put HQ.HQ_STAT.SHST 0 n) n

/-- Ownership of a namespace passes, with an ANA Change event (R326). -/
def passOwner (s : State) (nsx new : Nat) (slot : Option Nat) : State :=
  let s := asyncBoth (s.modNs nsx fun n => { n with owner := some new, moving := none }) .anaChange
  match slot with
  | some k => endCmd s k .success
  | none => s

/-- A move of ownership ends once the old owner holds no zone write of the namespace (R326). -/
def settleMoves (s : State) : State :=
  s.nvme.nss.foldl (fun s e => match e.2 with
    | some n => match n.moving with
      | some m => if s.nvme.cmds.any fun c => c.nsx = e.1 && c.op.isWrite then s else passOwner s e.1 m.1 m.2
      | none => s
    | none => s) s

/-- End the commands that can end, in order, at most `n` of them; then moves of ownership that waited for them. -/
def settleCmds (s : State) : Nat → State
  | 0 => settleMoves s
  | n + 1 =>
    match s.nvme.cmds.find? (cmdReady s) with
    | none => settleMoves s
    | some c =>
      let s := finishCmd s c
      settleCmds (s.setCmds (s.nvme.cmds.filter fun x => x.slot ≠ c.slot)) n

/-- The slot of a host command holds media or data work (R306). -/
def startSlot (s : State) (k : Nat) : State :=
  let x := s.slot k
  if x.st = .fetched then s.setSlot k { x with st := .started } else s

end Sys2Proof.Machine
end

