-- ==== Sys2Proof/Machine/Scheduler.lean ====
section
/-! DEFINITION. SCH: the plan, the choice of operations, posting, what a returned tag brings, the recovery ladder's steps
5-8, stripe rows, the write cache (chapters "Scheduling, buffer and power-loss writing" and "The weave"). -/

namespace Sys2Proof.Machine

open Sys2Proof

/-! Planning (R75, R251, R269-R271, R362, R364). -/

/-- Put an operation into the plan by its age, behind those as old (R364). -/
def planInsert (o : PlanOp) : List PlanOp → List PlanOp
  | [] => [o]
  | x :: xs => if x.age ≤ o.age then x :: planInsert o xs else o :: x :: xs

/-- Add operations to the plan, in order. -/
def addOps (s : State) (l : List PlanOp) : State := s.schMap fun x => { x with plan := l.foldl (fun p o => planInsert o p) x.plan }

/-- Put operations back into the plan, in order, ahead of those as old as the first: what a lane has given back, or what
must be written again, comes before what follows it (R166, R180, R184, R371). -/
def returnOps (s : State) (l : List PlanOp) : State :=
  match l with
  | [] => s
  | o :: _ => s.schMap fun x => { x with
      plan := (x.plan.takeWhile fun y => decide (y.age < o.age)) ++ l ++ (x.plan.dropWhile fun y => decide (y.age < o.age)) }

/-- The next age number. -/
def newAge (s : State) : Nat × State := (s.sch.ages, s.schMap fun x => { x with ages := x.ages + 1 })

/-- The user slot after a slot of a track (R74, R251). -/
def nextUserSlot (spt slot : Nat) : Nat :=
  let n := (slot + 1) % spt
  if isTrial n then (n + 1) % spt else n

/-- Sector `psa` at line `line` continues operation `o` (R251, R362). -/
def continues (s : State) (o : PlanOp) (psa line : Nat) : Bool :=
  let t : Tag := { entry := leBytes 5 o.psa }
  let last := sectorPsa s t (o.count - 1)
  o.op ≠ 3 && o.count < 1023 && line = o.line + o.count && psa / 1024 = o.psa / 1024 &&
    psaSlot psa = nextUserSlot (trackSlots s (psaTrack o.psa)) (psaSlot last) && psaSlot psa ≠ psaSlot o.psa

/-- Append a sector to a list of operations that is kept last operation first. -/
def growOps (s : State) (o : PlanOp) (l : List PlanOp) : List PlanOp :=
  match l with
  | x :: xs => if continues s x o.psa o.line && x.op = o.op then { x with count := x.count + 1 } :: xs else o :: x :: xs
  | [] => [o]

/-- The slots at rank `r - 1` and before of a write track that are skip-listed, up to the usable slot before them, lowest
rank first (R74, R75). -/
def skippedBefore (b : RateBand) (skips : List Nat) (w : Nat) : Nat → List Nat
  | 0 => []
  | r + 1 =>
    let slot := (w * b.skew + r) % b.spt
    if isTrial slot then skippedBefore b skips w r
    else if skips.contains (w * b.spt + slot) then skippedBefore b skips w r ++ [slot]
    else []

/-- The fills a shingled write must make before the sector at `psa`: skip-listed slots of its track before it, and for a
track's first sector those that end the track before (R75, R166, R251): track and first slot, and how many. -/
def fillsBefore (s : State) (head band psa : Nat) : List (Nat × Nat) × State :=
  let e := readBand s head band
  if e.1.1.count = 0 then ([], e.2)
  else
    let l := readSkips e.2 e.1.1
    let b := rateBand s (band / s.get FMT.BANDS_PER_RB.COUNT)
    match trackPlace s (psaTrack psa) with
    | none => ([], l.2)
    | some (_, w) =>
      let rank := (psaSlot psa + b.spt - w * b.skew % b.spt) % b.spt
      let here := skippedBefore b l.1.1 w rank
      let first := ((List.range rank).filter fun r => !isTrial ((w * b.skew + r) % b.spt)).length = here.length
      let prev := if first && 0 < w then skippedBefore b l.1.1 (w - 1) b.spt else []
      let track := fun (v : Nat) => physicalTrack s (band / s.get FMT.BANDS_PER_RB.COUNT)
        (band % s.get FMT.BANDS_PER_RB.COUNT) v
      let mk := fun (v : Nat) (l : List Nat) => match l with
        | [] => []
        | x :: _ => [(psaOf head (track v) x, l.length)]
      (mk (w - 1) prev ++ mk w here, l.2)

/-- A zone's sector as a line names it: the strand and its sector (R269, R271). -/
def lineSector (kind : Nat) (x : Line) : Nat × Nat := (locate kind x.offset).getD (0, 0)

/-- The write of a line completes SLACK_OUT (R77): it waits for the strand it was bound for to be relocated. -/
def slackOut (s : State) (i head band : Nat) : State :=
  (s.modLine i fun x => { x with busy := false }).schMap fun x => { x with slackOut := x.slackOut ++ [(i, head, band)] }

/-- The replacement band of the rebuild in progress: head and band (R291). -/
def rebuildBand (s : State) : Option (Nat × Nat) := s.sch.rebuild.map fun b => (b.head, b.band)

/-- Plan the writing of one line, a rebuild's on its replacement band (R291): fills first, which hold no sector to verify (R184), then its sector. A lost strand is
never written (R278). What cannot be
translated stays in the buffer. -/
def planWriteLine (use : OpFor) (slot : Option Nat) (age : Nat) (a : List PlanOp × State) (i : Nat) :
    List PlanOp × State :=
  match a.2.line i with
  | none => a
  | some x =>
    let e := readEntry a.2 x.zone
    let p := lineSector e.1.kind x
    let conv := e.1.kind = 3
    let onto := if use = .rebuild then rebuildBand a.2 else none
    if onto.isNone && woven e.1.kind && e.1.lost p.1 then
      (a.1, e.2.modLine i fun x => { x with written := true, busy := false })
    else
      let place := onto.getD (e.1.head p.1, e.1.band p.1)
      let r := if onto.isSome then translateBand e.2 x.zone p.1 place.1 place.2 p.2 false
        else translate e.2 x.zone x.offset
      if r.1.status = .slackOut then (a.1, if onto.isSome then r.2 else slackOut r.2 i place.1 place.2)
      else if r.1.status ≠ .ok then (a.1, r.2)
      else
        let f := if conv then ([], r.2) else fillsBefore r.2 place.1 place.2 r.1.psa
        let binding := woven e.1.kind && decide (dataStrands e.1.kind ≤ p.1)
        let o : PlanOp := { age := age, use := use, psa := r.1.psa, count := 1, op := 1, kind := if binding then 1 else 0
                            verified := conv || binding || e.1.verified, conv := conv, line := i, zone := x.zone, slot := slot }
        let l := f.1.foldl (fun l y =>
          { o with psa := y.1, count := y.2, op := 3, use := .pad, verified := false } :: l) a.1
        (growOps f.2 o l, f.2.modLine i fun x => { x with busy := true })

/-- Plan the writing of lines, in order (R364). -/
def planWritesAt (s : State) (use : OpFor) (slot : Option Nat) (age : Nat) (lines : List Nat) : State :=
  let r := lines.foldl (planWriteLine use slot age) ([], s)
  addOps r.2 r.1.reverse

/-- As new operations. -/
def planWrites (s : State) (use : OpFor) (slot : Option Nat) (lines : List Nat) : State :=
  let a := newAge s
  planWritesAt a.2 use slot a.1 lines

/-- Plan again the unposted writes of a zone, from the age `age` on: its translation has changed (R75, R184). -/
def replanZone (s : State) (zone : Nat) : State :=
  let mine := fun (o : PlanOp) => o.writes && o.zone = zone
  let l := s.sch.plan.filter fun o => mine o && o.lined
  l.foldl (fun s o => planWritesAt s o.use o.slot o.age o.lines) (unplan s mine)

/-! Row bookkeeping and the media write pointer (R89, R275-R278, R375). -/

/-- The stripe row of a logical block (R269). -/
def rowOf (kind off : Nat) : Nat := off / (16 * dataStrands kind)

/-- The data lines of a row. -/
def rowData (s : State) (kind zone row : Nat) : List Nat :=
  linesThat s fun x => x.zone = zone && x.offset < 2 ^ 31 && (x.kind = lkCached || x.kind = lkHost) && rowOf kind x.offset = row

/-- The binding lines of a row (R363). -/
def rowBinding (s : State) (zone row : Nat) : List Nat :=
  linesThat s fun x => x.zone = zone && x.kind = lkWeave && bit x.offset 31 && bits x.offset 0 16 / 16 = row

/-- The MWP a zone has come to: the blocks before the first that a line still holds unwritten, in whole rows for a woven
zone (R87, R277). -/
def reachedMwp (s : State) (kind zone wp : Nat) : Nat :=
  let l := (linesThat s fun x => x.zone = zone && x.offset < 2 ^ 31 && (x.kind = lkCached || x.kind = lkHost) &&
    (woven kind || !x.written)).filterMap fun i => (s.line i).map (·.offset)
  let first := l.foldl min wp
  if woven kind && decide (first < wp) then first / (16 * dataStrands kind) * (16 * dataStrands kind) else first

/-- Move a zone's MWP up to what is on the media (R89). A conventional zone is written at any sector (R81) and has none. -/
def refreshMwp (s : State) (zone : Nat) : State :=
  let e := readEntry s zone
  if e.1.kind = 3 || e.1.poison then e.2
  else
    let m := reachedMwp e.2 e.1.kind zone e.1.wp
    if m = e.1.mwp then e.2 else updateMwp e.2 zone m

/-- A line is on the media or needs no writing. -/
def lineDone (s : State) (i : Nat) : Bool :=
  match s.line i with
  | some x => x.written
  | none => true

/-- Blocks of a row that have been written by the host. -/
def rowBlocks (kind row wp : Nat) : List Nat :=
  (List.range (16 * dataStrands kind)).filterMap fun k =>
    let n := row * (16 * dataStrands kind) + k
    if n < wp then some n else none

/-- A row's binding may be computed: its last block has been passed, or the zone was finished inside it, and every line of
it stays (R275, R276). -/
def rowRipe (s : State) (e : ZoneEntry) (zone row : Nat) : Bool :=
  let k := 16 * dataStrands e.kind
  let l := rowData s e.kind zone row
  !s.sch.rows.contains (zone, row) && !l.isEmpty && ((row + 1) * k ≤ e.wp || e.state = zsFull) &&
    l.length = (rowBlocks e.kind row e.wp).length &&
    l.all fun i => match s.line i with
      | some x => !x.retweak && (x.kind = lkCached || x.written)
      | none => false

/-- The ACCUM descriptor of a row's binding at one sector position: the data lines there, and the binding lines it adds
them to (R276, R279, R280). -/
def accumDesc (s : State) (kind zone row pos : Nat) (data bind : List (Nat × Nat)) : List Nat :=
  let mask := fun (l : List (Nat × Nat)) => l.foldl (fun m e => setBit m e.1 true) 0
  let addr := fun (w : Nat) => (((data ++ bind).find? fun e => e.1 = w).map fun e => lineAddr s e.2).getD 0
  [2 + 16 * (if kind = 1 then 0 else 1), 1] ++ leBytes 2 (mask data) ++ leBytes 2 (mask bind) ++ [pos, 0] ++
    leBytes 4 zone ++ leBytes 2 row ++ List.replicate 18 0 ++ (List.range 12).flatMap fun w => leBytes 8 (addr w)

/-- The data lines of a row at one position, each with its strand. A sector without a line was not written: it counts as
zeros (R274, R275). -/
def rowPosition (s : State) (kind zone row pos : Nat) : List (Nat × Nat) :=
  (rowData s kind zone row).filterMap fun i => match s.line i with
    | some x => if x.offset % 16 = pos then some (x.offset / 16 % dataStrands kind, i) else none
    | none => none

/-- WEV computes the binding sectors of a row at one position: cleared lines, and one ACCUM descriptor (R272, R276, R281;
log 71). -/
def bindPosition (kind zone row : Nat) (strands lines : List Nat) (s : State) (pos : Nat) : State :=
  let bind := (List.zip (List.range strands.length) strands).map fun e => (e.2, (lines[16 * e.1 + pos]?).getD 0)
  let s := bind.foldl (fun s e => memWrite s (lineAddr s e.2) (List.replicate 4128 0)) s
  let e := accumDesc s kind zone row pos (rowPosition s kind zone row pos) bind
  let r := wevRun s e
  wevCount r.2.2 e r.1 r.2.1.poisoned

/-- The binding lines at the position of a data line that is marked already are marked (R379, R387). -/
def spoilPosition (s : State) (strands lines : List Nat) (pos : Nat) : State :=
  (List.range strands.length).foldl (fun s k => (s.modLine ((lines[16 * k + pos]?).getD 0) fun y => { y with marked := true })) s

/-- WEV computes a row's binding into WEAVE lines, whose writing is planned, but for lost strands (R272, R275, R276,
R278). -/
def bindRow (s : State) (zone row : Nat) : State :=
  let e := readEntry s zone
  let kind := e.1.kind
  let strands := (List.range 12).filter fun w => dataStrands kind ≤ w && !e.1.lost w
  let name := fun (n : Nat) => 2 ^ 31 + ((strands[n / 16]?).getD 0) * 2 ^ 24 + 16 * row + n % 16
  let a := allocLines e.2 (16 * strands.length) fun n q =>
    { kind := lkWeave, nsx := e.1.ns, zone := zone, offset := name n, seq := q }
  match a.1 with
  | none => a.2
  | some lines =>
    let s := (List.range 16).foldl (bindPosition kind zone row strands lines) a.2
    let s := (rowData s kind zone row).foldl (fun s i => match s.line i with
      | some x => if x.marked then spoilPosition s strands lines (x.offset % 16) else s
      | none => s) s
    planWrites (s.schMap fun x => { x with rows := x.rows ++ [(zone, row)] }) .binding none lines

/-- WEV computes the binding of the rows of a zone that are ripe, by its port, while it runs and no other descriptor is in
progress (R275, R283, R286, R296), but while a rebuilt strand waits to be switched (R292). A step shows no moment within it, so WEV_STAT does not show these descriptors. -/
def bindRows (s : State) (zone : Nat) : State :=
  let e := readEntry s zone
  if !woven e.1.kind || e.1.poison || !running s wevPage || !wevTakes s || s.get WEV.WEV_CTL.SCH_PORT_EN ≠ 1 then e.2
  else if e.2.sch.rebuild.any fun b => b.zone = zone && b.closing then e.2
  else
    let rows := (((linesThat e.2 fun x => x.zone = zone && x.offset < 2 ^ 31 && (x.kind = lkCached || x.kind = lkHost)).filterMap
      fun i => (e.2.line i).map fun x => rowOf e.1.kind x.offset).eraseDups)
    rows.foldl (fun s r => if rowRipe s e.1 zone r then bindRow s zone r else s) e.2

/-- Rows whose data and binding are on the media let their lines go (R276, R277, R375). -/
def settleRows (s : State) (zone : Nat) : State :=
  (s.sch.rows.filter fun r => r.1 = zone).foldl (fun s r =>
    let kind := (readEntry s zone).1.kind
    let data := rowData s kind zone r.2
    let bind := rowBinding s zone r.2
    if (data ++ bind).all (lineDone s) then
      (data ++ bind).foldl releaseLine (s.schMap fun x => { x with rows := x.rows.erase r })
    else s) s

/-- Written lines of a plain or conventional zone leave CACHED (R377). -/
def settleLines (s : State) (zone : Nat) : State :=
  let kind := (readEntry s zone).1.kind
  if woven kind then s
  else (linesThat s fun x => x.zone = zone && x.kind = lkCached && x.written).foldl releaseLine s

/-- A written HOST line becomes CACHED, if its charge fits (R375, R376). -/
def chargeLine (s : State) (i : Nat) : State :=
  match s.line i with
  | some x =>
    match chargeFor s x.charge with
    | some a => if chargeFits s a then checkHi (s.setLine i (some { x with kind := lkCached, charge := a })) else s
    | none => s
  | none => s

/-- The lines of writes through to a woven zone that are on the media stay, CACHED and charged, until the binding of their
row is; what finds no room waits as HOST (R375, R376). -/
def chargeWritten (s : State) (zone : Nat) : State :=
  if woven (readEntry s zone).1.kind then
    (linesThat s fun x => x.zone = zone && x.offset < 2 ^ 31 && x.kind = lkHost && x.written).foldl chargeLine s
  else s

/-- What follows when lines of a zone have been written or made ready; 2^19 stands for no zone. -/
def settleZone (s : State) (zone : Nat) : State :=
  if 2 ^ 19 ≤ zone then settleCmds s (s.nvme.cmds.length + 1)
  else
    let s := chargeWritten s zone
    let s := settleLines (settleRows (bindRows s zone) zone) zone
    refreshMwp (settleCmds s (s.nvme.cmds.length + 1)) zone

/-! Blocks of host writes (R340, R347, R541). -/

/-- The blocks of a write come from host memory into lines (R340, R342, R374, R541): a write through is planned. -/
def feedCmd (s : State) (c : HostCmd) (n : Ns) (blocks : List (List Nat)) : State :=
  let bs := blocksOf n c.lba c.count
  let a := allocLines s blocks.length fun i q =>
    let b := (bs[i]?).getD (0, 0)
    { kind := lkHost, nsx := c.nsx, zone := b.1, offset := b.2, seq := q, slot := some c.slot
      charge := blockActuator s b.1 b.2 }
  match a.1 with
  | none => a.2
  | some lines =>
    let s := cancelProv a.2 fun x => bs.any fun b => b.1 = x.zone && b.2 = x.offset
    let s := (List.zip (List.range lines.length) (List.zip lines blocks)).foldl (fun s e =>
      memWrite s (lineAddr s e.2.1) (cipherBlock s c.nsx (c.lba + e.1) e.2.2 ++ List.replicate 16 0)) s
    let size := if n.guarded && c.pi.act then 4096 else 4096 + metaBytes n.lbaf
    let s := if c.op = .zeroes then s else countMoved s (portOf s (s.slot c.slot).ctrl) false (size * blocks.length)
    let s := s.modCmd c.slot fun c => { c with lines := lines, held := none }
    if c.cached then s else planWrites s .host (some c.slot) lines

/-- Writes that wait for lines get them in order, as far as there are lines (R347, R399). -/
def feedHeld (s : State) : List HostCmd → State
  | [] => s
  | c :: cs =>
    match c.held, s.ns c.nsx with
    | some l, some n =>
      if 4096 ≤ c.slot || (s.slot c.slot).st = .aborting then feedHeld s cs
      else if freeCount s < l.length then s
      else feedHeld (feedCmd s c n l) cs
    | _, _ => feedHeld s cs

/-! Admission (R342, R375, R376, R378, R388). -/

/-- Make a HOST line CACHED if its charge fits: whether it did. -/
def admitLine (s : State) (i : Nat) : Bool × State :=
  match s.line i with
  | some x =>
    if x.kind ≠ lkHost then (true, s)
    else match chargeFor s x.charge with
      | none => (false, s)
      | some a =>
        if admits s && chargeFits s a then
          (true, checkHi (s.setLine i (some { x with kind := lkCached, charge := a })))
        else (false, s)
  | none => (true, s)

/-- Lines in order until one must wait: those admitted, and the state. -/
def admitRun : List Nat → State → List Nat × State
  | [], s => ([], s)
  | i :: is, s =>
    let r := admitLine s i
    if r.1 then let t := admitRun is r.2; (i :: t.1, t.2) else ([], r.2)

/-- Charge the lines of a command that still wait as HOST and plan their destaging (R364, R376). -/
def admitCmd (s : State) (k : Nat) : State :=
  match s.cmd k with
  | none => s
  | some c =>
    let wait := c.lines.filter fun i => match s.line i with | some x => x.kind = lkHost | none => false
    let r := admitRun wait s
    planWrites r.2 .cached (some k) r.1

/-- A line of a write that must become CACHED and is not: a write through's, once it is on the media. -/
def lineWaits (s : State) (c : HostCmd) (i : Nat) : Bool :=
  match s.line i with
  | some x => x.kind = lkHost && (if c.cached then admits s else x.written)
  | none => false

/-- A write waits for room: the first time, with the admission event (R376, R397). -/
def noteWait (s : State) (c : HostCmd) : State :=
  if !c.waited && c.held.isNone && c.lines.any (lineWaits s c) then
    raise (s.modCmd c.slot fun c => { c with waited := true }) schPage 4 7
  else s

/-- Admit what waits, command by command in order; a command that still waits holds back those behind it. -/
def admitAll (s : State) : List HostCmd → State
  | [] => s
  | c :: cs =>
    let s := admitCmd s c.slot
    match s.cmd c.slot with
    | some c' => if writeReady s c' then admitAll s cs else (c' :: cs).foldl noteWait s
    | none => admitAll s cs

/-- Admit waiting writes and end those that are all CACHED (R376). -/
def admitWaiting (s : State) : State :=
  let writes := s.nvme.cmds.filter fun c => c.op.isWrite
  let s := admitAll s (writes.filter (·.cached))
  let s := (writes.map (·.zone)).eraseDups.foldl settleZone s
  (s.nvme.cmds.filter fun c => c.op.isWrite && !c.cached && woven (((s.ns c.nsx).map (·.kind)).getD 0)).foldl noteWait s

/-! Costs and choice (R364-R366, R377). -/

/-- A seek time entry of the reduced profile, in strokes (R210). -/
def seekEntry (s : State) (a k : Nat) : Nat :=
  bits (sget 0 (s.srv a).coef (srvCoefKey (s.get SRV.SRV_CTL.BANK a) 1 (336 + min 22 k))) 0 16

/-- Reduced-profile strokes of a seek of `d` tracks, interpolated between powers of two (R210, R364). -/
def seekStrokes (s : State) (a d : Nat) : Nat :=
  if d = 0 then 0
  else
    let k := Nat.log2 d
    let lo := seekEntry s a k
    let hi := seekEntry s a (k + 1)
    (rdiv ((lo : Int) * 2 ^ k + ((hi : Int) - lo) * ((d : Int) - 2 ^ k)) (2 ^ k)).toNat

/-- RW_GAP of the head at a place: the bits by which a point passes the writer before reader A (R161). -/
def rwGap (s : State) (psa : Nat) : Nat := bits (headWord s (psaHead psa / 8) (psaHead psa % 8) (psaBand s psa + 16)) 10 10

/-- The first stroke from `ready` on in which a slot begins to pass the writer, for a write, or reader A, for a read (R65,
R161, R196, R364). -/
def passStroke (s : State) (psa ready : Nat) (write : Bool) : Nat :=
  let seg' := max 1 (segBits s (psaTrack psa))
  let seg := (psaSlot psa * 38272 + (if write then 512 * seg' - rwGap s psa else 0)) / seg' % 512
  let want := (seg + s.get SRV.WEDGE_MAP.STROKE_MOD (psaHead psa / 8)) % 512
  ready + (want + 512 - ready % 512) % 512

/-- The stroke the lane's last posted operation ends in, or the present one (R364). -/
def laneEnd (s : State) (n : Nat) : Nat := max (sget 0 s.sch.ends n) (strokeAt s 0)

/-- The tracks between two places; a change of head alone counts as one (R364; log 44). -/
def placeDistance (p q : Nat) : Nat :=
  let d := (psaTrack p - psaTrack q) + (psaTrack q - psaTrack p)
  if d = 0 && psaHead p ≠ psaHead q then 1 else d

/-- The stroke an operation's first slot passes in, for lane `n`; without a seek where it needs none (R364). -/
def opStroke (s : State) (n : Nat) (o : PlanOp) (seeks : Bool) : Nat :=
  let d := placeDistance o.psa (sget 0 s.sch.places n)
  passStroke s o.psa (laneEnd s n +
    (if seeks && d ≠ 0 then seekStrokes s (n / 2) d + s.get SCH.PLAN_CFG.SEEK_MARGIN else 0)) o.writes

/-- Access cost (R364). -/
def accessCost (s : State) (n : Nat) (o : PlanOp) (seeks : Bool) : Int :=
  (opStroke s n o seeks : Int) - laneEnd s n - (if o.writes then 0 else (s.get SCH.PLAN_CFG.READ_BIAS : Int))

/-- The lane's sequencer is RUN, and its actuator in service (R257, R368). -/
def laneRuns (s : State) (n : Nat) : Bool :=
  unitState s n = stRun && domainLive s (unitDomain n) && dieUp s (n / 4 + 1) &&
    !dieTraining s (n / 4 + 1) && !outOfService s (n / 2)

/-- Tags of a lane posted and not yet taken. -/
def waitingTags (s : State) (n : Nat) : Nat :=
  ((List.range 32).filter fun t => (s.tag n t).st = .posted || (s.tag n t).st = .fetching).length

/-- A lane has room for one more tag (R364): POST_AHEAD, 0 acting as 1. -/
def laneRoom (s : State) (n : Nat) : Bool :=
  laneRuns s n && decide (waitingTags s n < max 1 (s.get SCH.PLAN_CFG.POST_AHEAD)) &&
    (List.range 32).any fun t => (s.tag n t).st = .free

/-- A lane has operations of SCH's on it. -/
def laneBusy (s : State) (n : Nat) : Bool := (postedOps s).any fun e => e.1 = n

/-- SCH destages: it runs or eases (R17, R388). -/
def schEasing (s : State) : Bool := pageState s schPage = stEasing

/-- The band an operation writes, by head and band. -/
def opBand (s : State) (o : PlanOp) : Option (Nat × Nat) := (trackPlace s (psaTrack o.psa)).map fun p => (psaHead o.psa, p.1)

/-- An operation of a band's write order: a write, or the verify pass that stands for its trailing verify (R180). -/
def ordered (o : PlanOp) : Bool := o.writes || o.op = 2

/-- Where in its band's write order an operation begins: the slots of the passes before it (R74, R166). -/
def writePlace (s : State) (psa : Nat) : Nat :=
  match trackRateBand s (psaTrack psa), trackPlace s (psaTrack psa) with
  | some k, some (_, w) =>
    let b := rateBand s k
    w * b.spt + (psaSlot psa + b.spt - w * b.skew % b.spt) % b.spt
  | _, _ => 0

/-- Of one band, `x` goes before `o`, which it precedes in the plan if `ahead`: in a shingled band what begins earlier in
the write order, else in the order of the plan (R74, R166). -/
def goesBefore (s : State) (o x : PlanOp) (ahead : Bool) : Bool :=
  if o.conv then ahead
  else decide (writePlace s x.psa < writePlace s o.psa) || (ahead && writePlace s x.psa = writePlace s o.psa)

/-- A band is written in order and by one lane at a time (R166, R180, R371): no write or verify pass of it that goes
before `o` is planned, none is on the other lane, and of a shingled band none is on a lane at all, since it could come
back unwritten. -/
def bandTurn (s : State) (n : Nat) (o : PlanOp) : Bool :=
  let b := opBand s o
  let mine := fun (x : PlanOp) => ordered x && opBand s x = b
  let ahead := s.sch.plan.takeWhile fun x => x ≠ o
  let behind := (s.sch.plan.dropWhile fun x => x ≠ o).drop 1
  !(ahead.any fun x => mine x && goesBefore s o x true) && !(behind.any fun x => mine x && goesBefore s o x false) &&
    !((postedOps s).any fun e => mine e.2.2 && (e.1 ≠ n || !o.conv))

/-- An operation of a strand that the zone's entry marks LOST (R271, R278): none is issued, but a rebuild in copy mode reads
the old band (R291). -/
def opLost (s : State) (o : PlanOp) : Bool :=
  let e := (readEntry s o.zone).1
  o.use ≠ .copy && decide (o.zone < 2 ^ 19) && woven e.kind && (match opBand s o with
    | some (h, b) => (List.range 12).any fun w => e.lost w && e.head w = h && e.band w = b
    | none => false)

/-- Every line of an operation may be written: none waits for its retweak (R542). -/
def noRetweak (s : State) (o : PlanOp) : Bool :=
  o.lines.all fun i => match s.line i with | some x => !x.retweak | none => true

/-- A command that has media work of its own: a read, a Verify or a write. -/
def HostOp.works (o : HostOp) : Bool := o = .read || o = .verify || o.isWrite

/-- A write through, and with the write cache disabled a read, waits for the earlier commands of its zone to end (R348). -/
def zoneTurn (s : State) (o : PlanOp) : Bool :=
  match o.slot.bind s.cmd with
  | some c =>
    !(o.use = .host || (o.use = .hostRead && s.nvme.cacheOff)) ||
      (cmdsBefore s c).all fun x => x.zone ≠ c.zone || x.nsx ≠ c.nsx || !x.op.works
  | none => true

/-- A later write through of the same zone waits for this destaging (R166, R348). -/
def pressed (s : State) (o : PlanOp) : Bool := s.sch.plan.any fun x => x.use = .host && x.zone = o.zone

/-- Destaging runs for the actuator an operation's first line is charged to (R377, R388). -/
def destages (s : State) (o : PlanOp) : Bool :=
  let a := ((s.line o.line).map (·.charge)).getD o.act
  schEasing s || pressed s o || chargeReaches s a (s.get SCH.DESTAGE_CFG.DESTAGE_LO)

/-- A write of the rebuild: onto its replacement band, which the write hold of its zone does not bar (R291, R292). -/
def rebuilds (s : State) (o : PlanOp) : Bool :=
  s.sch.rebuild.any fun b => b.zone = o.zone && psaHead o.psa = b.head && opBand s o = some (b.head, b.band)

/-- Strokes in one second, from the stroke period in 2^-8 ns (R47). -/
def strokesPerSecond (s : State) : Nat := 256 * 10 ^ 9 / max 1 (s.get BRZ.STROKE_PERIOD.PERIOD)

/-- The second the present stroke lies in (R365). -/
def presentSecond (s : State) : Nat := strokeAt s 0 / max 1 (strokesPerSecond s)

/-- An operation of a self-test, or of a rebuild: its copies, the sources of its reconstructions and its writes (R364, R365). -/
def background (s : State) (o : PlanOp) : Bool :=
  o.use = .copy || o.use = .rebuild || o.use = .test || (o.use = .source && o.slot.isNone) || (o.use = .pad && rebuilds s o)

/-- Strokes a run of user slots takes (R65, R74). -/
def opStrokes (s : State) (o : PlanOp) : Nat := (o.count + o.count / 63 + 1) * 38272 / max 1 (segBits s (psaTrack o.psa)) + 1

/-- Strokes that rebuild and self-test have used of an actuator's lanes in the present second (R365). -/
def shareUsed (s : State) (a : Nat) : Nat :=
  let e := sget (0, 0) s.sch.share a
  if e.1 = presentSecond s then e.2 else 0

/-- An operation of a rebuild or a self-test stays within REBUILD_SHARE of its actuator's lanes while host operations wait (R365). -/
def shareLeft (s : State) (o : PlanOp) : Bool :=
  !background s o || !(s.sch.plan.any fun x => x.use = .hostRead || x.use = .host || x.use = .cached) ||
    decide ((shareUsed s o.act + opStrokes s o) * 100 ≤
      min 100 (s.get SCH.REBUILD_CFG.SHARE) * (2 * strokesPerSecond s))

/-- An operation lane `n` may be given now (R36, R180, R271, R355, R368, R370, R371, R377, R388, R542). -/
def mayPost (s : State) (n : Nat) (o : PlanOp) : Bool :=
  o.act = n / 2 && !s.nvme.asleep && !opLost s o &&
    (match o.lane with | some m => m = n || !laneRuns s m | none => true) &&
    (match o.wait with
      | .none => true
      | .inhibit => !inhibited s (n / 2) (psaHead o.psa % 8)
      | .head => headServes s (psaHead o.psa)
      | .lane => false) &&
    (if o.writes then
      headServes s (psaHead o.psa) && bandTurn s n o && noRetweak s o && zoneTurn s o &&
        !(s.get SCH.WRITE_HOLD.VALID = 1 && s.get SCH.WRITE_HOLD.ZONE = o.zone && !rebuilds s o) &&
        (o.use ≠ .cached || o.aged || destages s o)
     else if o.op = 2 then bandTurn s n o else !schEasing s && zoneTurn s o) &&
    shareLeft s o &&
    !(laneBusy s (n / 2 * 2 + (1 - n % 2)) &&
      (postedOps s).any fun e => e.1 / 2 = n / 2 && e.1 ≠ n && psaHead e.2.2.psa = psaHead o.psa)

/-- Destaging of the actuator comes before its reads (R377, R388). -/
def destageHi (s : State) (a : Nat) : Bool := schEasing s || chargeReaches s a (s.get SCH.DESTAGE_CFG.DESTAGE_HI)

/-- The least costly of a list; the first among equals. -/
def leastCost (cost : PlanOp → Int) : List PlanOp → Option PlanOp
  | [] => none
  | o :: os => some (os.foldl (fun m x => if cost x < cost m then x else m) o)

/-- What lane `n` does next among the operations it may be given: aged ones oldest first, destaging before reads at
DESTAGE_HI, then by cost; read-ahead and a self-test's reads only where nothing else runs (R356, R364, R365, R372, R377). -/
def chooseAmong (s : State) (n : Nat) (cost : PlanOp → Int) (l : List PlanOp) : Option PlanOp :=
  match l.find? (·.aged) with
  | some o => some o
  | none =>
    let work := l.filter fun o => o.use ≠ .ahead && o.use ≠ .test
    let first := if destageHi s (n / 2) && work.any (fun o => ordered o && o.use ≠ .host && o.use ≠ .rebuild) then
      work.filter ordered else []
    if !first.isEmpty then leastCost cost first
    else if !work.isEmpty then leastCost cost work
    else if laneBusy s n then none else leastCost cost l

/-- The choice of a lane that leads (R364, R366). -/
def chooseLead (s : State) (n : Nat) : Option PlanOp :=
  chooseAmong s n (fun o => accessCost s n o true) (s.sch.plan.filter (mayPost s n))

/-- The choice of the other lane: another head, no seek of its own, within PAIR_RANGE of the lead's target; aged operations
oldest first, then by the strokes until the first slot passes alone; read-ahead and a self-test's reads only where nothing
else runs (R211, R365, R366, R372). -/
def choosePaired (s : State) (n : Nat) : Option PlanOp :=
  let a := n / 2
  let m := 2 * a + (1 - n % 2)
  let lead := sget 0 s.sch.places m
  let range := min 56 (s.get SRV.PAIR_CTL.PAIR_RANGE a)
  if s.get SRV.SRV_CTL.PAIR_EN a = 0 then none
  else
    let l := s.sch.plan.filter fun o => mayPost s n o && psaHead o.psa ≠ psaHead lead &&
      decide ((psaTrack o.psa - psaTrack lead) + (psaTrack lead - psaTrack o.psa) ≤ range)
    let cost := fun (o : PlanOp) => (opStroke s n o false : Int)
    let work := l.filter fun o => o.use ≠ .ahead && o.use ≠ .test
    match l.find? (·.aged) with
    | some o => some o
    | none =>
      if !work.isEmpty then leastCost cost work
      else if laneBusy s n then none else leastCost cost l

/-- Which lane of an actuator leads: the one that runs, the recorded one if both do, the cheaper if neither (R366). -/
def leadLane (s : State) (a : Nat) : Nat :=
  let n := 2 * a
  let m := 2 * a + 1
  match laneBusy s n, laneBusy s m with
  | true, true => sget 0 s.sch.leads a - 1
  | true, false => n
  | false, true => m
  | false, false =>
    match chooseLead s n, chooseLead s m with
    | some x, some y => if accessCost s m y true < accessCost s n x true then m else n
    | none, some _ => m
    | _, none => n

/-! Posting (R251, R252, R364, R367, R379). -/

/-- Where the read result records of a tag go: beyond the directory, 16 KiB for each tag (log 36). -/
def resultAddr (s : State) (n t : Nat) : Nat :=
  (s.get BUF.DIR_BASE.ADDR * 4096 + 16 * s.get BUF.LINE_COUNT.COUNT + 4095) / 4096 * 4096 + 16384 * (32 * n + t)

/-- The 32 bytes of a tag entry (R251). A write asks for an assist permit where its effective set-point makes it a
full-power writer (R171). -/
def tagEntry (s : State) (n t : Nat) (o : PlanOp) (start motion : Nat) (paired seeks : Bool) : List Nat :=
  let b := fun (x : Bool) (i : Nat) => if x then 2 ^ i else 0
  let h := psaHead o.psa % 8
  let full := o.writes && fullPower s (n / 2) h (psaBand s o.psa)
  leBytes 5 o.psa ++
    [(if 5 ≤ o.step && o.op = 0 then 4 else o.op) + 16 * (o.kind % 16),
     b o.verified 0 + b (o.step = 7) 1 + b o.conv 2 + b full 3 + b paired 4 + b seeks 5, unsigned 8 o.ofs] ++
    leBytes 2 o.count ++ leBytes 2 start ++ leBytes 2 motion ++ [0, 0] ++
    leBytes 6 (if o.lined then lineAddr s o.line else 0) ++ [0, 0] ++ leBytes 4 (resultAddr s n t / 4096) ++ [0, 0, 0, 0]

/-- The binding lines of line `j`'s strand from its sector on that are on the media, or on their way there. -/
def bindingAfter (s : State) (j : Nat) : List Nat :=
  match s.line j with
  | none => []
  | some y => linesThat s fun x => x.zone = y.zone && x.kind = lkWeave && bit x.offset 31 &&
      bits x.offset 24 4 = bits y.offset 24 4 && decide (bits y.offset 0 16 ≤ bits x.offset 0 16) && (x.written || x.busy)

/-- Mark a binding line (R379). One that has been written is written again, and on its strand what follows it with it. -/
def markBinding (s : State) (j : Nat) : State :=
  let again := (bindingAfter s j).filter fun i => (s.line i).any (·.written) || lineOnLane s i
  let s := (memWrite s (lineAddr s j) (zeroSector ++ List.replicate 16 0) true).modLine j fun y => { y with marked := true }
  if again.contains j then
    planWrites (again.foldl (fun s i => s.modLine i fun x => { x with written := false }) s) .binding none again
  else s

/-- The binding lines at the position of a marked data line are marked too (R379). -/
def markPosition (s : State) (x : Line) : State :=
  let kind := (readEntry s x.zone).1.kind
  if !woven kind then s
  else (rowBinding s x.zone (rowOf kind x.offset)).foldl (fun s j =>
    match s.line j with
    | some y => if y.offset % 16 = x.offset % 16 && !y.marked then markBinding s j else s
    | none => s) s

/-- A write line that carries poison when posted is written marked (R379): counted, EV040, and the binding sectors at its
position are marked too. A binding line that WEV has written with poison is marked (R281). -/
def markLine (s : State) (i : Nat) : State :=
  match s.line i with
  | none => s
  | some x =>
    let p := (memRead s .sch (lineAddr s i) 4112)
    if !p.1.poison || x.marked then s
    else if x.kind = lkWeave then p.2.modLine i fun x => { x with marked := true }
    else
      let s := p.2.modLine i fun x => { x with marked := true }
      let s := raise (s.bump SCH.EXPOSED_CNT.POISON_MARKED) schPage 8 0
      let s := match x.slot with
        | some k => s.modCmd k fun c => { c with spoiled := true }
        | none => s
      markPosition s x

/-- Post an operation on a lane (R252, R364). One that moves the arm takes the other lane's head with it (R366). -/
def postOp (s : State) (n : Nat) (o : PlanOp) (paired : Bool) : State :=
  match (List.range 32).find? fun t => (s.tag n t).st = .free with
  | none => s
  | some t =>
    let s := if o.writes then o.lines.foldl markLine s else s
    let seeks := !paired && placeDistance o.psa (sget 0 s.sch.places n) ≠ 0
    let start := opStroke s n o (!paired)
    let motion := max (laneEnd s n) (strokeAt s 0 + 3)
    let e := tagEntry s n t o start motion paired seeks
    let s := memWrite s (s.get SEQ.LQ_BASE.ADDR (n / 4) (n % 4) * 4096 + 32 * t) e
    let s := match o.slot with
      | some k => startSlot s k
      | none => s
    let last : Tag := { entry := e }
    let place := sectorPsa s last (o.count - 1)
    let s := s.schMap fun x => { x with
      plan := x.plan.erase o, posted := sset none x.posted (32 * n + t) (some o)
      ends := sset 0 x.ends n (start + opStrokes s o)
      places := sset 0 (if seeks then sset 0 x.places (n / 2 * 2 + (1 - n % 2)) place else x.places) n place
      leads := if paired then x.leads else sset 0 x.leads (n / 2) (n + 1)
      share := if background s o then
          sset (0, 0) x.share o.act (presentSecond s, shareUsed s o.act + opStrokes s o)
        else x.share }
    lqPost n t s

/-- Busy lanes a power state allows (R355). -/
def lanesAllowed (s : State) : Nat := if s.nvme.power = 1 then 4 else 8

/-- SCH gives work: RUN or EASING, and no power-loss sequence (R17, R29, R381). -/
def schWorks (s : State) : Bool :=
  working s schPage && domainLive s schPage.domain && s.get SCH.SCH_STAT.PL_STATE = 0

/-- Give one operation to one lane of an actuator, if any has room and work: whether it did. -/
def fillOne (s : State) (a : Nat) : Option State :=
  let n := leadLane s a
  let m := 2 * a + (1 - n % 2)
  let busy := ((List.range 8).filter (laneBusy s)).length
  let may := fun (k : Nat) => laneRoom s k && (laneBusy s k || decide (busy < lanesAllowed s))
  match (if may n then chooseLead s n else none) with
  | some o => some (postOp s n o false)
  | none =>
    if may m && laneBusy s n then (choosePaired s m).map fun o => postOp s m o true
    else none

/-- Fill an actuator's lanes. -/
def fillActuator (a : Nat) : Nat → State → State
  | 0, s => s
  | f + 1, s => match fillOne s a with
    | some s => fillActuator a f s
    | none => s

/-- Fill every lane that has room (R364). -/
def fillLanes (s : State) : State :=
  if schWorks s then (List.range 4).foldl (fun s a => fillActuator a 64 s) s else s

/-! Reads: what is planned, and ladder step 8 (R285-R287, R346, R369). -/

/-- A part of the reads that wait for a line becomes something else. -/
def replaceParts (s : State) (i : Nat) (p : ReadFrom) : State :=
  s.setCmds (s.nvme.cmds.map fun c => { c with parts := c.parts.map fun x => if x = .line i then p else x })

/-- The owner of the sector at a place: zone, strand and its index in the strand, if it is one that a zone uses (R72-R75, R81,
R87); one at a replacement slot is named by its zone alone. -/
def sectorOwner (s : State) (psa : Nat) : Option (Nat × Nat × Option Nat) :=
  match trackPlace s (psaTrack psa) with
  | none => none
  | some (band, w) =>
    let e := readBand s (psaHead psa) band
    if e.1.1.kind ≠ 1 && e.1.1.kind ≠ 2 then none
    else
      let conv := e.1.1.kind = 2
      let b := rateBand s (band / s.get FMT.BANDS_PER_RB.COUNT)
      let skips := if conv then [] else (readSkips s e.1.1).1.1
      let before := ((bandTracks b conv).takeWhile fun v => v < w).foldl (fun n v => n + usableCount b skips v) 0
      let l := usableSlots b skips w
      let z := (readEntry s e.1.1.zone).1
      ((List.range 12).find? fun v => z.head v = psaHead psa && z.band v = band).map fun v =>
        (e.1.1.zone, v, if l.contains (psaSlot psa) then some (before + l.idxOf (psaSlot psa)) else none)

/-- The namespace and the LBA of a data sector (R337, R356). -/
def sectorLba (s : State) (psa : Nat) : Option (Nat × Nat) :=
  match sectorOwner s psa with
  | some (zone, v, some m) =>
    let kind := (readEntry s zone).1.kind
    if woven kind && decide (dataStrands kind ≤ v) then none
    else
      let n := if woven kind then 16 * dataStrands kind * (m / 16) + 16 * v + m % 16 else m
      (allNs s).findSome? fun e => if e.2.zones.contains zone then
        some (e.1 + 1, e.2.zones.idxOf zone * zoneSize kind + n) else none
  | _ => none

/-- A written sector of one of these namespaces: in a zoned one before its zone's MWP (R87, R356). -/
def writtenSector (s : State) (nss : List Nat) (psa : Nat) : Bool :=
  match sectorOwner s psa with
  | some (zone, v, m) =>
    let e := (readEntry s zone).1
    (nss.any fun k => ((s.ns k).map (·.zones)).getD [] |>.contains zone) && !e.lost v && match m with
      | some m => e.kind = 3 || decide ((if woven e.kind then 16 * dataStrands e.kind * (m / 16) else m) < e.mwp)
      | none => true
  | none => false

/-- The sector the self-test has read is good, or it has failed the ladder: the first failure is kept (R356). -/
def testSector (s : State) (i : Nat) (ok : Bool) : State :=
  let lba := match s.nvme.selfTest with
    | some t => if t.stage = 2 then sectorLba s (t.next - 1) else none
    | none => none
  testMap (freeLine s i) fun t =>
    if ok then { t with line := none }
    else { t with line := none, failed := t.failed.or (some (t.stage + 2)), sector := t.sector.or lba }

/-- A line of the rebuild holds its sector (R291). -/
def rebuildReady (s : State) (i : Nat) : State :=
  s.schMap fun x => { x with rebuild := x.rebuild.map fun b => { b with ready := b.ready.filter (· ≠ i) ++ [i] } }

/-- A sector that cannot be rebuilt is written marked, so that every read of it goes on failing (R379; log 89). -/
def rebuildSpoiled (s : State) (i : Nat) : State :=
  rebuildReady (memWrite s (lineAddr s i) (zeroSector ++ List.replicate 16 0) true) i

/-- A block is not recovered: its reads lose it (R285, R369). -/
def unrecovered (s : State) (i : Nat) : State :=
  let s := raise (s.bump SCH.STEP8_CNT.UNREC) schPage 5 0
  if testHas s i then testSector s i false
  else if rebuildHas s i then rebuildSpoiled s i else dropLine (replaceParts s i .lost) i

/-- A strand that can be read as a source: not lost, its actuator in service (R285). -/
def sourceOk (s : State) (e : ZoneEntry) (w : Nat) : Bool := !e.lost w && !outOfService s (e.head w / 8)

/-- Work on the lanes of an actuator: posted and planned operations (R285). -/
def queueLength (s : State) (a : Nat) : Nat :=
  ((postedOps s).filter fun e => e.1 / 2 = a).length + (s.sch.plan.filter fun o => o.act = a).length

/-- Strands ordered by the length of their actuator's queues, shortest first; equal ones by number. -/
def byQueue (s : State) (e : ZoneEntry) (l : List Nat) : List Nat :=
  l.foldl (fun acc w =>
    let q := queueLength s (e.head w / 8)
    acc.takeWhile (fun x => queueLength s (e.head x / 8) ≤ q) ++ [w] ++
      acc.dropWhile (fun x => queueLength s (e.head x / 8) ≤ q)) []

/-- The logical block of a strand sector, for a data strand (R269). -/
def blockOf (kind strand sector : Nat) : Nat := sector / 16 * (16 * dataStrands kind) + 16 * strand + sector % 16

/-- A line of the buffer that holds a strand sector (R276); a rebuild's do not yet. -/
def heldSector (s : State) (kind zone strand sector : Nat) : Option Nat :=
  let off := if strand < dataStrands kind then blockOf kind strand sector else 2 ^ 31 + strand * 2 ^ 24 + sector
  (linesThat s fun x => x.zone = zone && x.offset = off &&
    (x.kind = lkCached || x.kind = lkHost || (x.kind = lkWeave && x.slot.isNone && bit off 31))).find? fun i =>
      !rebuildHas s i

/-- A strand sector that was never written: it counts as present, with every byte zero (R274, R275). -/
def zeroSource (e : ZoneEntry) (w sector : Nat) : Bool :=
  decide (w < dataStrands e.kind) && decide (e.wp ≤ blockOf e.kind w sector)

/-- The strands a reconstruction can still take as sources, those that need no read first (R274, R285): never written,
held in the buffer without poison, or readable. -/
def sourcesLeft (s : State) (e : ZoneEntry) (r : Recon) : List Nat :=
  let used := r.strand :: r.failed ++ r.sources.map (·.1)
  let l := (List.range 12).filter fun w => !used.contains w
  let zero := l.filter fun w => zeroSource e w r.sector
  let rest := l.filter fun w => !zeroSource e w r.sector && sourceOk s e w &&
    !((heldSector s e.kind r.zone w r.sector).any (linePoison s))
  zero ++ byQueue s e rest

/-- Bring one source sector of a reconstruction into a line: zeros beyond the write pointer, a copy of what the buffer
holds, or a read (R274, R285). -/
def addSource (e : ZoneEntry) (rc : Recon × State) (w : Nat) : Recon × State :=
  let r := rc.1
  let s := rc.2
  let name := 2 ^ 31 + w * 2 ^ 24 + r.sector
  let a := allocLines s 1 fun _ q =>
    { kind := lkRead, nsx := e.ns, zone := r.zone, offset := name, seq := q, slot := r.slot }
  match a.1 with
  | some [i] =>
    let s := a.2
    let done := fun (s : State) => ({ r with sources := r.sources ++ [(w, i, true)] }, s)
    if zeroSource e w r.sector then
      done (memWrite s (lineAddr s i) (List.replicate 4128 0))
    else match heldSector s e.kind r.zone w r.sector with
      | some j =>
        let m := memRead s .sch (lineAddr s j) 4112
        done (memWrite m.2 (lineAddr m.2 i) (m.1.bytes ++ List.replicate 16 0) m.1.poison)
      | none =>
        let x := translate s r.zone name
        let g := newAge x.2
        let o : PlanOp := { age := g.1, use := .source, psa := x.1.psa, count := 1, op := 0, line := i, zone := r.zone
                            slot := r.slot }
        ({ r with sources := r.sources ++ [(w, i, false)] }, addOps g.2 [o])
  | _ => (r, a.2)

/-- The RECON descriptor of a reconstruction (R279, R280, R285). -/
def reconDesc (s : State) (e : ZoneEntry) (r : Recon) : List Nat :=
  let present := r.sources.foldl (fun m x => setBit m x.1 true) 0
  let addr := fun (w : Nat) =>
    if w = r.strand then lineAddr s r.line
    else ((r.sources.find? fun x => x.1 = w).map fun x => lineAddr s x.2.1).getD 0
  [3 + 16 * (if e.kind = 1 then 0 else 1), 1] ++ leBytes 2 present ++ leBytes 2 (2 ^ r.strand) ++ [r.sector % 16, 0] ++
    leBytes 4 r.zone ++ leBytes 2 (r.sector / 16) ++ List.replicate 18 0 ++
    (List.range 12).flatMap fun w => leBytes 8 (addr w)

/-- The source lines of a reconstruction go. -/
def dropSources (s : State) (r : Recon) : State :=
  let s := unplan s fun o => o.use = .source && r.sources.any fun x => x.2.1 = o.line
  r.sources.foldl (fun s x => dropLine s x.2.1) s

/-- A reconstruction whose sources are all there goes to WEV's port; one short of sources takes further strands, or ends
unrecovered (R285). -/
def settleRecon (s : State) (r : Recon) : State :=
  let e := readEntry s r.zone
  let k := dataStrands e.1.kind
  let missing := k - r.sources.length
  let more := (sourcesLeft e.2 e.1 r).take missing
  if more.length < missing then unrecovered (dropSources e.2 r) r.line
  else
    let x := more.foldl (addSource e.1) (r, e.2)
    if k ≤ x.1.sources.length && x.1.sources.all (·.2.2) then
      (x.2.bump SCH.STEP8_CNT.RECON).schMap fun y => { y with port := y.port ++ [(reconDesc x.2 e.1 x.1, x.1)] }
    else x.2.schMap fun y => { y with recons := y.recons ++ [x.1] }

/-- Reconstructions that found no free line for a source try again. -/
def retryRecons (s : State) : State :=
  (s.sch.recons.filter fun r => decide (r.sources.length < 9)).foldl (fun s r =>
    settleRecon (s.schMap fun y => { y with recons := y.recons.erase r }) r) s

/-- Ladder step 8 for the sector a line awaits (R285, R369): a plain or conventional one is unrecovered. -/
def stepEight (s : State) (i : Nat) : State :=
  match s.line i with
  | none => s
  | some x =>
    let kind := (readEntry s x.zone).1.kind
    if testHas s i then testSector s i false
    else if !woven kind then unrecovered s i
    else
      let p := lineSector kind x
      settleRecon s { line := i, zone := x.zone, strand := p.1, sector := p.2, slot := x.slot, sources := [], failed := [] }

/-- A source sector has come, or failed steps 0-4 (R285). -/
def sourceResult (s : State) (i : Nat) (ok : Bool) : State :=
  match s.sch.recons.find? fun r => r.sources.any fun x => x.2.1 = i with
  | none => dropLine s i
  | some r =>
    let s := s.schMap fun y => { y with recons := y.recons.erase r }
    if ok then settleRecon s { r with sources := r.sources.map fun x => if x.2.1 = i then (x.1, i, true) else x }
    else
      let w := ((r.sources.find? fun x => x.2.1 = i).map (·.1)).getD 0
      settleRecon (dropLine s i) { r with sources := r.sources.filter fun x => x.2.1 ≠ i, failed := r.failed ++ [w] }

/-- End a host command with a status: its lines go, its operations leave the plan. -/
def failCmd (s : State) (k : Nat) (st : HostStatus) : State :=
  match s.cmd k with
  | none => endCmd s k st
  | some c =>
    let s := unplan s fun o => o.slot = some k
    let s := s.schMap fun x => { x with recons := x.recons.filter fun r => r.slot ≠ some k }
    let s := (linesThat s fun x => x.slot = some k && (x.kind = lkPending || x.kind = lkLanded)).foldl (fun s i => servedLine s k i) s
    let mine := linesThat s fun x => x.slot = some k && x.kind ≠ lkPending && x.kind ≠ lkLanded
    let s := (c.lines ++ mine).foldl dropLine s
    endCmd (s.setCmds (s.nvme.cmds.filter fun x => x.slot ≠ k)) k st

/-- Plan the reading of lines, in order: reads of lost strands and of actuators out of service take step 8, those of a
plain zone there end Zone Is Offline (R271, R285, R287, R346). -/
def planReadLine (use : OpFor) (slot : Option Nat) (age : Nat) (a : List PlanOp × State) (i : Nat) :
    List PlanOp × State :=
  match a.2.line i with
  | none => a
  | some x =>
    let e := readEntry a.2 x.zone
    let p := lineSector e.1.kind x
    let w := if woven e.1.kind then p.1 else 0
    if woven e.1.kind && !sourceOk e.2 e.1 w then (a.1, if use = .ahead then freeLine e.2 i else stepEight e.2 i)
    else if outOfService e.2 (e.1.head w / 8) then
      (a.1, match slot with
        | some k => failCmd e.2 k (.zoneIsOffline false)
        | none => freeLine e.2 i)
    else
      let r := translate e.2 x.zone x.offset
      if r.1.status ≠ .ok then (a.1, if use = .ahead then freeLine r.2 i else unrecovered r.2 i)
      else
        let o : PlanOp := { age := age, use := use, psa := r.1.psa, count := 1, op := 0, line := i, zone := x.zone, slot := slot }
        (growOps r.2 o a.1, r.2)

/-- Plan reads of lines, in order. -/
def planReads (s : State) (use : OpFor) (slot : Option Nat) (lines : List Nat) : State :=
  let g := newAge s
  let r := lines.foldl (planReadLine use slot g.1) ([], g.2)
  addOps r.2 r.1.reverse

/-- A provisional line goes although reads wait for it: each issues its own operation for the block (R373). -/
def provFreed (s : State) (i : Nat) : State :=
  match s.line i with
  | none => s
  | some x =>
    match x.slot with
    | none => dropLine s i
    | some k =>
      let s := s.modLine i fun x => { x with kind := lkRead, written := false }
      planReads s .hostRead (some k) [i]

/-! A returned tag (R253, R287, R368, R369, R371, R373). -/

/-- The result record of sector `i` of a tag, if one was written (R154, R253). -/
def sectorResult (s : State) (n t i : Nat) : Nat × State :=
  let r := memRead s .sch ((s.tag n t).resAddr + 16 * i) 16
  (if r.1.poison then 1 * 2 ^ 40 else leNat r.1.bytes, r.2)

/-- Operation `o` from its sector `i` on. -/
def restOf (s : State) (n t : Nat) (o : PlanOp) (i : Nat) : PlanOp :=
  { o with psa := sectorPsa s (s.tag n t) i, count := o.count - i, line := o.line + i }

/-- One sector of an operation alone. -/
def oneOf (s : State) (n t : Nat) (o : PlanOp) (i : Nat) : PlanOp := { restOf s n t o i with count := 1 }

/-- The next step of the ladder SCH runs after a failed read, if one is left before step 8 (R149, R152, R369). -/
def nextRead (s : State) (o : PlanOp) (mismatch : Bool) : Option PlanOp :=
  let on := fun (m : Nat) => bit (s.get SCH.LADDER_CTL.STEP_EN) (m - 5)
  let pct : Int := s.get SCH.LADDER_CTL.OFS_PCT
  let seven := if on 7 then some { o with step := 7, tries := 0, ofs := 0, kept := [] } else none
  let six := if on 6 then some { o with step := 6, tries := 0, ofs := pct } else seven
  if mismatch && o.mismatch then none
  else
    let o' := { o with mismatch := o.mismatch || mismatch }
    let next := if o.step = 0 then (if on 5 then some { o with step := 5, tries := 0, ofs := 0 } else six)
      else if o.step = 5 then six
      else if o.step = 6 && o.tries = 0 then some { o with tries := 1, ofs := -pct }
      else if o.step = 6 then seven
      else if o.step = 7 && o.tries = 0 then some { o with tries := 1 }
      else none
    next.map fun x => { x with mismatch := o'.mismatch }

/-- A kept entry is pinned still: a disable or a reset of LDP or of the lane releases pins (R124, R148, R155). -/
def keptPinned (s : State) (k : Nat × Nat × Nat) : Bool := ((s.lane k.1).entry k.2.2).ldpPin

/-- The combined replay of the entries a step-7 read has kept and that are pinned still (R148); fewer than two are no
step, and an LDP that does not run starts no replay (R155). -/
def combineOrEight (s : State) (o : PlanOp) : State :=
  match o.kept.filter (keptPinned s) with
  | (n, _, e) :: rest =>
    let es := (rest.filter fun k => k.1 = n).map fun k => k.2.2
    if es.isEmpty || !ldpStarts s (n / 4) then stepEight (releaseKept s o) o.line
    else
      let c := entryCodeword s (n / 4) (n % 4) e
      let s := queueTrial s (n / 4) { c with step := 7, others := es, pinned := true }
      s.schMap fun x => { x with combined := x.combined ++ [(o, n)] }
  | [] => stepEight (releaseKept s o) o.line

/-- A sector has been accepted: its line has it (R373). -/
def landLine (s : State) (use : OpFor) (i : Nat) : State :=
  match s.line i with
  | none => s
  | some x =>
    let poison := linePoison s i
    if use = .source then sourceResult s i (!poison)
    else if x.kind = lkPending then (if poison then provFreed s i else s.modLine i fun x => { x with kind := lkLanded })
    else if testHas s i then testSector s i (!poison)
    else if rebuildHas s i then (if poison then stepEight s i else rebuildReady s i)
    else if x.slot.isNone then freeLine s i
    else if poison then stepEight s i
    else s.modLine i fun x => { x with written := true }

/-- A sector read in step 0-7 has failed (R152, R285, R369, R373). `kept` is what step 7's read has pinned. -/
def sectorFailed (s : State) (o : PlanOp) (mismatch : Bool) (kept : List (Nat × Nat × Nat)) : State :=
  let gone := releaseKept s { o with kept := o.kept ++ kept }
  match s.line o.line with
  | none => gone
  | some x =>
    if o.use = .source then sourceResult s o.line false
    else if x.kind = lkPending then provFreed s o.line
    else if x.slot.isNone && !rebuildHas s o.line && !testHas s o.line then freeLine gone o.line
    else
      let e := readEntry s x.zone
      if o.use ≠ .test && woven e.1.kind && o.step = 0 && s.get SCH.LADDER_CTL.WOVEN_SKIP = 1 then stepEight e.2 o.line
      else
        let o := { o with kept := o.kept ++ kept, lane := if o.step = 7 then kept.head?.map (·.1) else o.lane }
        match nextRead e.2 o mismatch with
        | some x => addOps e.2 [x]
        | none => if o.step = 7 && !mismatch then combineOrEight e.2 o else stepEight (releaseKept e.2 o) o.line

/-- What becomes of sector `i` of a read tag (R154, R253, R368). -/
def readSector (n t : Nat) (o : PlanOp) (s : State) (i : Nat) : State :=
  let r := sectorResult s n t i
  let s := r.2
  let st := bits r.1 40 4
  let one := oneOf s n t o i
  if st = 0 then landLine (releaseKept s o) o.use one.line
  else if st = 5 then addOps s [{ one with step := o.step }]
  else
    let kept := if o.step = 7 && bit r.1 47 then [(n, t, bits r.1 96 7)] else []
    sectorFailed s one (st = 3) kept

/-- The lines a lane keeps become `keep`; those it no longer keeps go where nothing else holds them (R371). -/
def keepTrails (s : State) (n : Nat) (keep : List (Nat × Nat)) : State :=
  let l := sget [] s.sch.trails n
  let s := s.schMap fun x => { x with trails := sset [] x.trails n keep }
  (l.filter fun e => !keep.contains e).foldl (fun s e => match s.line e.2 with
    | some x => if x.kind = lkTrail && !lineTrails s e.2 then freeLine s e.2
      else if x.kind = lkWeave && x.written && !(s.sch.rows.any fun r => r.1 = x.zone && r.2 = bits x.offset 0 16 / 16) then
        freeLine s e.2
      else s
    | none => s) s

/-- A lane keeps no line any more (R371). -/
def dropTrails (s : State) (n : Nat) : State := keepTrails s n []

/-- The first `d` sectors of an operation pass a wedge: they lie in more than one segment of the track (R65, R371). -/
def passesWedge (s : State) (n t : Nat) (o : PlanOp) (d : Nat) : Bool :=
  let seg := max 1 (segBits s (psaTrack o.psa))
  psaSlot o.psa * 38272 / seg ≠ (psaSlot (sectorPsa s (s.tag n t) (d - 1)) * 38272 + 38271) / seg

/-- The first `d` sectors of a write are on the media (R371, R375, R377). The lines of the lane's last 8 sectors written
are kept; those from before this write until it has passed a wedge, or lies on another track. -/
def sectorsWritten (s : State) (n t : Nat) (o : PlanOp) (d : Nat) : State :=
  let done := (List.range d).map fun i => (sectorPsa s (s.tag n t) i, o.line + i)
  if o.op = 3 || d = 0 then s
  else
    let s := done.foldl (fun s e => match s.line e.2 with
      | some x => if x.slot.isNone && x.kind = lkHost then freeLine s e.2
        else s.modLine e.2 fun x => { x with written := true, busy := false }
      | none => s) s
    let old := (sget [] s.sch.trails n).filter fun e => e.1 / 1024 = o.psa / 1024
    let l := (if passesWedge s n t o d then [] else old) ++ done
    keepTrails s n ((l.drop (l.length - 8)).filter fun e => (s.line e.2).isSome)

/-- The lane has left the track it last wrote (R371). -/
def leaveTrack (s : State) (n psa : Nat) : State :=
  match sget [] s.sch.trails n with
  | e :: _ => if e.1 / 1024 = psa / 1024 then s else dropTrails s n
  | [] => s

/-- Rewrite what an inhibited write has left exposed before its first sector, from the TRAIL lines, ahead of everything
else in the band (R187, R371). A trial slot left exposed is written with the sector before it, which ends with it. -/
def rewriteTrail (s : State) (n : Nat) (o : PlanOp) (psa : Nat) : State :=
  let s := raise (s.bump SCH.EXPOSED_CNT.PRIOR_EXPOSED) schPage 6 7
  let first := writePlace s psa - (if isTrial (psaSlot psa) then 1 else 0)
  let l := (sget [] s.sch.trails n).filter fun e => trackKey e.1 = trackKey psa && decide (first ≤ writePlace s e.1)
  returnOps s (l.map fun e => { o with use := .trail, psa := e.1, count := 1, op := 1, line := e.2, slot := none, wait := .inhibit })

/-- Operations that are to be given up with their host commands: aborted, or gone (R318, R323). -/
def givenUp (s : State) (o : PlanOp) : Bool :=
  match o.slot with
  | some k => decide (4096 ≤ k) || (s.slot k).st = .aborting
  | none => false

/-- Back into the plan, as old as it was, if its lines are still wanted; orphaned lines go. -/
def backToPlan (s : State) (o : PlanOp) : State :=
  if givenUp s o then releaseKept s o
  else
    let wanted := !o.lined || o.use = .source || o.use = .test || o.lines.all fun i => match s.line i with
      | some x => !(x.slot.isNone && (x.kind = lkHost || x.kind = lkRead))
      | none => false
    if wanted then returnOps s [o]
    else o.lines.foldl (fun s i => match s.line i with
      | some x => if x.slot.isNone && (x.kind = lkHost || x.kind = lkRead) then freeLine s i else s
      | none => s) (releaseKept s o)

/-- A tag that its sequencer, lane or actuator could not run goes back for another lane (R368). -/
def toOtherLane (s : State) (n : Nat) (o : PlanOp) : State :=
  backToPlan s { o with lane := some (2 * (n / 2) + (1 - n % 2)) }

/-- REQUEUE 0: the actuator is out of service (R287). -/
def actuatorGone (s : State) (o : PlanOp) : State :=
  let kind := (readEntry s o.zone).1.kind
  if ordered o then
    match woven kind, o.slot with
    | false, some k => if givenUp s o then s else failCmd s k (.zoneIsOffline false)
    | _, _ => backToPlan s o
  else if o.use = .source then sourceResult s o.line false
  else o.lines.foldl (fun s i => match s.line i with
    | none => s
    | some x =>
      if testHas s i then testSector s i false
      else if x.kind = lkPending then provFreed s i
      else if woven kind then (if x.slot.isNone && !rebuildHas s i then freeLine s i else stepEight s i)
      else match x.slot with
        | some k => if givenUp s o then s else failCmd s k (.zoneIsOffline false)
        | none => freeLine s i) s

/-- A verify failure of the slot at `psa` on a shingled band: the slot goes on the skip list, and the zone's writes are
planned anew (R77, R184). -/
def verifyFailed (s : State) (psa : Nat) (o : PlanOp) : State :=
  match trackPlace s (psaTrack psa) with
  | none => backToPlan s o
  | some (band, w) =>
    let b := rateBand s (band / s.get FMT.BANDS_PER_RB.COUNT)
    let e := readBand s (psaHead psa) band
    let a := e.2.answer
    let s := appendSkip e.2 (psaHead psa) band (w * b.spt + psaSlot psa) e.1.1 b
    replanZone (backToPlan { s with answer := a } o) o.zone

/-- Conventional sectors whose verify failed are written at their replacement slot (R81, R184). -/
def remapRewrites (s : State) (n t : Nat) (o : PlanOp) : State :=
  let mine := s.sch.rewrites.filter fun e => e.1 = n && e.2.1 = t
  let s := s.schMap fun x => { x with rewrites := x.rewrites.filter fun e => !(e.1 = n && e.2.1 = t) }
  mine.foldl (fun s e =>
    let i := o.line + e.2.2
    let s := s.modLine i fun x => { x with written := false, busy := true }
    planWritesAt s o.use o.slot o.age [i]) s

/-- HEAD_FAULT (R288, R345, R368): the operation waits until firmware reassigns it; the zones of the head change, and
writes to strands now lost are no longer needed. -/
def headFaulted (s : State) (o : PlanOp) : State :=
  let r := headLost (backToPlan s { o with wait := .head }) (psaHead o.psa)
  r.1.foldl (fun s z => settleZone (replanZone s z) z) r.2

/-- A write of the verified class that the head it went to did not verify in its pass (R180). -/
def needsPass (s : State) (n : Nat) (o : PlanOp) : Bool :=
  o.verified && o.op = 1 && !verifiesInPass s (n / 2) (psaHead o.psa % 8) (psaBand s o.psa)

/-- The outcome of a sector of a verify pass (R180, R182, R184): on the media; to be read again; or failed, when a
conventional sector is written at its replacement, and a shingled one anew with those behind it. `rest` is the operation
from the sector on; the answer says whether the sectors behind it are still to be looked at. -/
def passSector (s : State) (n record : Nat) (rest : PlanOp) : Bool × State :=
  let one := { rest with count := 1 }
  if bits record 40 4 = 5 then (true, returnOps s [one])
  else if verifyPasses s (n / 2) record then
    (true, s.modLine rest.line fun x => { x with written := true, busy := false })
  else if rest.conv then
    let a := s.answer
    let s := match trackPlace s (psaTrack rest.psa) with
      | some (band, w) =>
        let r := readBand s (psaHead rest.psa) band
        let b := rateBand s (band / s.get FMT.BANDS_PER_RB.COUNT)
        { appendRemap r.2 (psaHead rest.psa) band (w * b.spt + psaSlot rest.psa) r.1.1 b with answer := a }
      | none => s
    (true, planWritesAt s rest.use rest.slot rest.age [rest.line])
  else (false, verifyFailed s rest.psa { rest with op := 1 })

/-- The sectors `i` on, `m` of them, of a verify pass that has come back. -/
def passSectors (n t : Nat) (o : PlanOp) : Nat → Nat → State → State
  | 0, _, s => s
  | m + 1, i, s =>
    let r := sectorResult s n t i
    let x := passSector r.2 n r.1 (restOf s n t o i)
    if x.1 then passSectors n t o m (i + 1) x.2 else x.2

/-- A write tag has come back (R180, R368, R371). What is to be verified by a pass of its own is planned so, before the
band's next track. -/
def writeReturned (s : State) (r : TagRec) (o : PlanOp) : State :=
  let n := r.lane
  let t := r.tag
  let d := if r.status = 0 then o.count else if r.status = 4 then min r.done r.index else r.done
  let d := if r.prior then 0 else min d o.count
  let rest := restOf s n t o d
  let s := if needsPass s n o && decide (0 < d) then returnOps s [{ o with op := 2, count := d, wait := .none, lane := none }]
    else remapRewrites (sectorsWritten s n t o d) n t o
  if r.status = 0 || d = o.count then s
  else
    match r.status with
    | 1 => match r.reason with
      | 0 => actuatorGone s rest
      | 5 | 6 => toOtherLane s n rest
      | _ => backToPlan s rest
    | 3 => verifyFailed s r.psa rest
    | 4 =>
      let s := backToPlan s { rest with wait := .inhibit }
      if r.prior then rewriteTrail s n rest r.psa else s
    | 5 => headFaulted s rest
    | 10 | 11 => toOtherLane s n rest
    | _ => backToPlan s rest

/-- A read tag has come back (R253, R368). Sectors it has read are dealt with by their records. -/
def readReturned (s : State) (r : TagRec) (o : PlanOp) : State :=
  let n := r.lane
  let t := r.tag
  let d := if r.status = 0 || r.status = 6 then o.count else min r.done o.count
  let rest := restOf s n t o d
  let s := if o.op = 2 then passSectors n t o d 0 s else (List.range d).foldl (readSector n t o) s
  if d = o.count then s
  else
    match r.status with
    | 1 => match r.reason with
      | 0 => actuatorGone s rest
      | 5 | 6 => toOtherLane s n rest
      | _ => backToPlan s rest
    | 10 | 11 => toOtherLane s n rest
    | _ => backToPlan s rest

/-! Aborts (R256, R318, R323, R349). -/

/-- Blocks of a command that lie on the media from its first on (R323). -/
def leadingWritten (s : State) (c : HostCmd) : Nat :=
  (c.lines.takeWhile fun i => lineDone s i).length

/-- The reference tags of an append's lines become those of the place from `lba` on, still ciphered for the old one (R347,
R349, R542). -/
def rebaseLines (s : State) (c : HostCmd) (lba : Nat) : State :=
  match s.ns c.nsx with
  | none => s
  | some n =>
    if !n.guarded || n.prot % 8 = 3 then s
    else (List.zip (List.range c.lines.length) c.lines).foldl (fun s e =>
      let r := memRead s .pcx (lineAddr s e.2) 4112
      let b := rebase n (lba + e.1) (plainBlock r.2 c.nsx (c.lba + e.1) n.lbaf r.1.bytes)
      memWrite r.2 (lineAddr r.2 e.2) (cipherBlock r.2 c.nsx (c.lba + e.1) b ++ List.replicate 16 0) r.1.poison) s

/-- The blocks of an append still in host memory, stored from `lba` on (R347, R349). -/
def rebaseHeld (s : State) (c : HostCmd) (lba : Nat) : Option (List (List Nat)) :=
  match s.ns c.nsx with
  | none => c.held
  | some n => c.held.map fun l => (List.zip (List.range l.length) l).map fun e => rebase n (lba + e.1) e.2

/-- Later writes of a zone that have not begun move down or end, when the write pointer returns to `wp` (R349, R542): an
append is assigned afresh and its lines wait for their retweak. -/
def reassign (s : State) (zone nsx : Nat) : Nat → List HostCmd → State
  | wp, [] => putZoneWp s zone wp
  | wp, c :: cs =>
    if c.zone ≠ zone || c.nsx ≠ nsx || !c.op.isWrite then reassign s zone nsx wp cs
    else if c.began then reassign s zone nsx wp cs
    else if c.op = .append then
      let lba := c.lba - c.first + wp
      let s := rebaseLines (unplan s fun o => o.slot = some c.slot) c lba
      let s := (List.zip (List.range c.lines.length) c.lines).foldl (fun s e =>
        s.modLine e.2 fun x => { x with offset := wp + e.1, retweak := true, busy := false, written := false }) s
      let held := rebaseHeld s c lba
      let s := s.modCmd c.slot fun c => { c with first := wp, lba := lba, held := held, filled := none }
      let done := c.lines.filter fun i => match s.line i with | some x => x.kind = lkCached | none => false
      let s := planWrites s (if c.cached then .cached else .host) (some c.slot) (if c.cached then done else c.lines)
      reassign s zone nsx (wp + c.count) cs
    else reassign (failCmd s c.slot .zoneInvalidWrite) zone nsx wp cs

/-- A zone that one of these writes had made Full is open again as it was, once the write pointer is below its capacity
(R349; DESIGN CHOICE, log 91). -/
def reopen (s : State) (zone nsx : Nat) (l : List HostCmd) : State :=
  let e := readEntry s zone
  match l.findSome? fun c => if c.zone = zone && c.nsx = nsx then c.filled else none with
  | some st =>
    if e.1.state = zsFull && e.1.wp < zoneCapacity e.1.kind then enterZoneState e.2 nsx zone st else e.2
  | none => e.2

/-- A write stopped before its end: the zone's write pointer returns to the block after the last one written (R323,
R349). On a conventional zone there is none. -/
def rollback (s : State) (c : HostCmd) : State :=
  let e := readEntry s c.zone
  if e.1.kind = 3 then e.2
  else
    let wp := c.first + leadingWritten e.2 c
    let later := (e.2.nvme.cmds.dropWhile fun x => x.slot ≠ c.slot).drop 1
    if wp = c.first + c.count then e.2
    else reopen (reassign e.2 c.zone c.nsx wp later) c.zone c.nsx (c :: later)

/-- No tag of the command is on a lane any more. -/
def offLanes (s : State) (k : Nat) : Bool := !((postedOps s).any fun e => e.2.2.slot = some k)

/-- A stopped command whose media work has ended: its effects stand, the rest goes, and an aborted one completes (R318,
R323). -/
def settleStopped (s : State) (c : HostCmd) : State :=
  let s := if c.op.isWrite then rollback s c else s
  let kind := ((s.ns c.nsx).map (·.kind)).getD 0
  let d := if c.op.isWrite then leadingWritten s c else 0
  let s := (c.lines.take d).foldl (fun s i =>
    if woven kind then s.modLine i fun x => { x with slot := none } else releaseLine s i) s
  let s := s.modCmd c.slot fun c => { c with lines := c.lines.drop d }
  settleZone (failCmd s c.slot .abortRequested) c.zone

/-- Settle every stopped command that has left the lanes, at most `n`. -/
def settleAborts (s : State) : Nat → State
  | 0 => s
  | n + 1 =>
    match s.nvme.cmds.find? fun c => (decide (4096 ≤ c.slot) || (s.slot c.slot).st = .aborting) && offLanes s c.slot with
    | none => s
    | some c => settleAborts (settleStopped s c) n

/-- Stop a host command's media work (R256, R318, R322): what is planned leaves, tags are aborted. -/
def stopCmd (s : State) (k : Nat) : State :=
  let s := unplan s fun o => o.slot = some k
  let s := s.schMap fun x => { x with recons := x.recons.filter fun r => r.slot ≠ some k }
  let s := abortOps s fun o => o.slot = some k
  settleAborts s (s.nvme.cmds.length + 1)

/-- Operations planned for a strand before it was marked LOST (R271, R278, R285): writes are no longer needed, reads take
step 8. -/
def dropLost (s : State) : State :=
  (s.sch.plan.filter (opLost s)).foldl (fun s o =>
    let s := unplan s fun x => x = o
    if ordered o then o.lines.foldl (fun s i => s.modLine i fun x => { x with written := true, busy := false }) s
    else actuatorGone s o) s

/-- Operations planned for an actuator that has gone out of service (R285, R287, R346): its reads take step 8 or end Zone
Is Offline, and so do writes through to its plain and conventional zones; other writes wait. -/
def dropAway (s : State) : State :=
  (s.sch.plan.filter fun o => outOfService s o.act &&
      (!ordered o || (o.use = .host && !woven (readEntry s o.zone).1.kind))).foldl (fun s o =>
    if s.sch.plan.contains o then actuatorGone (unplan s fun x => x = o) o else s) s

/-- A write that has completed SLACK_OUT (R77, R278, R288, R345): once the strand has moved it is planned again; while a
spare band is left it waits for that; without one a plain zone becomes Read Only, and a woven zone's strand is lost. -/
def retrySlack (s : State) (x : Nat × Nat × Nat) : State :=
  match s.line x.1 with
  | none => s
  | some y =>
    let e := readEntry s y.zone
    let w := (lineSector e.1.kind y).1
    let wait := e.2.schMap fun z => { z with slackOut := z.slackOut ++ [x] }
    if y.written then e.2
    else if e.1.head w ≠ x.2.1 || e.1.band w ≠ x.2.2 || (woven e.1.kind && e.1.lost w) then
      planWrites e.2 (if y.kind = lkWeave then .binding else if y.kind = lkHost then .host else .cached) y.slot [x.1]
    else if e.1.kind = 3 || (spareFor e.2 e.1 w).isSome then wait
    else if woven e.1.kind then
      let s := putStrand e.2 y.zone w x.2.1 x.2.2 true
      let s := s.modLine x.1 fun l => { l with written := true }
      lossOutcome s y.nsx y.zone
    else if 1 ≤ e.1.state && e.1.state ≤ 4 then
      zoneChanged (enterZoneState wait y.nsx y.zone zsReadOnly) y.nsx y.zone
    else wait

/-- Every write that has completed SLACK_OUT and still waits. -/
def retrySlacks (s : State) : State :=
  s.sch.slackOut.foldl retrySlack (s.schMap fun x => { x with slackOut := [] })

/-! Rebuild (R291-R294). -/

/-- The namespaces' zones with their entries. -/
def nsZones (s : State) : List (Nat × Nat × ZoneEntry) :=
  s.nvme.nss.flatMap fun e => match e.2 with
    | some n => n.zones.map fun z => (e.1, z, (readEntry s z).1)
    | none => []

/-- A strand's head can no longer be written but still reads: its strand is copied (R288, R291). -/
def copies (s : State) (e : ZoneEntry) (w : Nat) : Bool :=
  !headServes s (e.head w) && !outOfService s (e.head w / 8) && (readBand s (e.head w) (e.band w)).1.1.kind ≠ 6

/-- The strands of a zone that are to be rebuilt: the lost ones, and those of a Full zone on a head that can no longer be
written (R288, R291). -/
def toRebuild (s : State) (e : ZoneEntry) : List Nat :=
  if !woven e.kind || e.poison || e.state = zsOffline || e.state = 0 then []
  else (List.range 12).filter fun w => e.lost w || (e.state = zsFull && copies s e w)

/-- Zone `x` is rebuilt before zone `y` (R291): the smaller P - L, then open zones, then the lower number. -/
def rebuildsFirst (x y : Nat × Nat × ZoneEntry) : Bool :=
  let left := fun (e : ZoneEntry) => 12 - dataStrands e.kind - e.lostStrands.length
  let rank := fun (e : ZoneEntry) => if e.state = zsImplicit || e.state = zsExplicit then 0 else 1
  decide (left x.2.2 < left y.2.2) || (left x.2.2 = left y.2.2 &&
    (decide (rank x.2.2 < rank y.2.2) || (rank x.2.2 = rank y.2.2 && decide (x.2.1 < y.2.1))))

/-- Put a zone among those to rebuild. -/
def rebuildInsert (x : Nat × Nat × ZoneEntry) : List (Nat × Nat × ZoneEntry) → List (Nat × Nat × ZoneEntry)
  | [] => [x]
  | y :: ys => if rebuildsFirst x y then x :: y :: ys else y :: rebuildInsert x ys

/-- Take an Empty zone as a donor (R294): its bands become spare bands and it goes Offline. -/
def donate (s : State) (nsx zone : Nat) : State :=
  let e := readEntry s zone
  let s := (List.range (if woven e.1.kind then 12 else 1)).foldl (fun s v => putBand s (e.1.head v) (e.1.band v) 5 0) e.2
  (offlineZone (weaveMark s) nsx zone).schMap fun x => { x with donated := x.donated + 1 }

/-- The rebuild of strand `w` of a zone begins, if a spare band, or a donor's, replaces it on an actuator in service (R85,
R291, R294). -/
def beginRebuild (s : State) (nsx zone : Nat) (e : ZoneEntry) (w : Nat) : Option State :=
  let s := if (spareFor s e w).isSome then s
    else match donorFor s e nsx zone w with
      | some z => donate s nsx z
      | none => s
  ((spareFor s e w).filter fun b => !outOfService s (b.1 / 8)).map fun b =>
    let s := spareWarning (putBand s b.1 b.2 1 zone)
    let new : Rebuild := ⟨nsx, zone, w, b.1, b.2, copies s e w, 0, [], [], false, false, false⟩
    s.schMap fun x => { x with rebuild := some new }

/-- The next rebuild begins (R291). -/
def nextRebuild (s : State) : State :=
  let l := (nsZones s).foldl (fun l x => if (toRebuild s x.2.2).isEmpty then l else rebuildInsert x l) []
  (l.findSome? fun x => (toRebuild s x.2.2).findSome? fun w => beginRebuild s x.1 x.2.1 x.2.2 w).getD s

/-- Rows of a zone that a rebuild writes: up to its MWP row (R291). -/
def rebuildRows (e : ZoneEntry) : Nat :=
  let k := 16 * dataStrands e.kind
  (e.mwp + k - 1) / k

/-- Plan the copy of a sector from the old band; one that cannot be translated is reconstructed (R291). -/
def copySector (b : Rebuild) (e : ZoneEntry) (s : State) (x : Nat × Nat) : State :=
  let r := translateBand s b.zone b.strand (e.head b.strand) (e.band b.strand) x.1 false
  if r.1.status ≠ .ok then stepEight r.2 x.2
  else
    let g := newAge r.2
    addOps g.2 [{ age := g.1, use := .copy, psa := r.1.psa, count := 1, op := 0, line := x.2, zone := b.zone }]

/-- The sectors of the next row of a rebuild are brought into lines: copied, or reconstructed from K other strands; those
never written are left out (R274, R291). -/
def rebuildRow (s : State) (b : Rebuild) (e : ZoneEntry) : State :=
  let sectors := ((List.range 16).map (16 * b.row + ·)).filter fun m => !zeroSource e b.strand m
  if sectors.isEmpty then s.schMap fun x => { x with rebuild := some { b with row := b.row + 1 } }
  else
  let a := allocLines s sectors.length fun n q =>
    { kind := lkWeave, nsx := b.nsx, zone := b.zone, seq := q
      offset := 2 ^ 31 + b.strand * 2 ^ 24 + (sectors[n]?).getD 0 }
  match a.1 with
  | none => a.2
  | some lines =>
    let s := a.2.schMap fun x => { x with rebuild := some { b with lines := lines, ready := [], planned := false } }
    if b.copy then (List.zip sectors lines).foldl (copySector b e) s else lines.foldl stepEight s

/-- A row of the rebuild is on the media (R291, R295): its lines go. -/
def rebuildRowDone (s : State) (b : Rebuild) : State :=
  let s := s.schMap fun x => { x with
    rebuild := some { b with row := b.row + 1, lines := [], ready := [], planned := false }
    rebuilt := x.rebuilt + b.lines.length }
  b.lines.foldl (fun s i => if lineTrails s i then s else freeLine s i) s

/-- The data lines of a strand that are still in the buffer and were not written while it was lost are written now (R278,
R292). -/
def writeMissed (s : State) (b : Rebuild) (kind : Nat) : State :=
  let l := linesThat s fun x => x.zone = b.zone && x.offset < 2 ^ 31 && (x.kind = lkCached || x.kind = lkHost) &&
    x.written && (locate kind x.offset).any fun p => p.1 = b.strand && decide (16 * b.row ≤ p.2)
  l.foldl (fun s i =>
    let s := s.modLine i fun x => { x with written := false }
    match s.line i with
    | some x => planWrites s (if x.kind = lkHost then .host else .cached) x.slot [i]
    | none => s) s

/-- The strand is switched to its replacement band (R292): its entry names the band and is no longer LOST, the old band is
retired, the hold is released. -/
def switchStrand (s : State) (b : Rebuild) : State :=
  let e := readEntry s b.zone
  let s := (weaveMark e.2).schMap fun x => { x with rebuild := none }
  let s := putBand s (e.1.head b.strand) (e.1.band b.strand) 6 0
  let s := putStrand s b.zone b.strand b.head b.band false
  let s := if b.hold then s.put SCH.WRITE_HOLD.VALID 0 else s
  replanZone (writeMissed s b e.1.kind) b.zone

/-- The replacement band cannot be written: it is retired, and the rebuild begins again with another (R77, R85). -/
def rebuildStuck (s : State) (b : Rebuild) : Bool :=
  !headServes s b.head ||
    (b.planned && b.lines.any fun i => (s.line i).any fun x => !x.written && !x.busy)

/-- Close to the MWP no further row is bound until the strand has been switched; once none is on its way to the media the
write hold is applied, unless firmware has one in force (R292). -/
def rebuildHold (s : State) (b : Rebuild) : State :=
  let s := s.schMap fun x => { x with rebuild := some { b with closing := true } }
  if b.hold || (s.sch.rows.any fun r => r.1 = b.zone) || s.get SCH.WRITE_HOLD.VALID = 1 then s
  else ((s.put SCH.WRITE_HOLD.VALID 1).put SCH.WRITE_HOLD.ZONE b.zone).schMap fun x => { x with
    rebuild := some { b with closing := true, hold := true } }

/-- One step of the rebuild (R291, R292, R388): it begins, a row is read, written and ended, or the strand is switched. -/
def rebuildStep (s : State) : State :=
  if !schWorks s || schEasing s then s
  else match s.sch.rebuild with
    | none => nextRebuild s
    | some b =>
      let e := (readEntry s b.zone).1
      if rebuildStuck s b then stopRebuild s b 6
      else if !b.lines.isEmpty then
        if b.planned then (if b.lines.all (lineDone s) then rebuildRowDone s b else s)
        else if b.lines.all b.ready.contains then
          planWrites (s.schMap fun x => { x with rebuild := some { b with planned := true } }) .rebuild none b.lines
        else s
      else if rebuildRows e ≤ b.row && b.hold && s.get FMT.ENTRY_LOCK.VALID = 0 then switchStrand s b
      else if rebuildRows e ≤ b.row + 1 && !b.hold then
        let s := rebuildHold s b
        if b.row < rebuildRows e then
          (match s.sch.rebuild with | some b => rebuildRow s b e | none => s)
        else s
      else if b.row < rebuildRows e then rebuildRow s b e
      else s

/-- A band that firmware has retired under a zone takes the zone's strand with it (R85, R288-R290, R345; log 72): a plain
or conventional zone goes Offline, a woven zone loses the strand. -/
def zoneRetired (s : State) (x : Nat × Nat × ZoneEntry) : State :=
  let e := x.2.2
  let out := fun (w : Nat) => (readBand s (e.head w) (e.band w)).1.1.kind = 6
  if e.poison || e.state = zsOffline || e.state = 0 then s
  else if !woven e.kind then (if out 0 then offlineZone s x.1 x.2.1 else s)
  else
    let l := (List.range 12).filter fun w => !e.lost w && out w
    if l.isEmpty then s
    else lossOutcome (l.foldl (fun s w => putStrand s x.2.1 w (e.head w) (e.band w) true) s) x.1 x.2.1

/-- A zone whose entry firmware has set Offline leaves its namespace's lists and loses its cached data (R89, R345). -/
def zoneSetOffline (s : State) (x : Nat × Nat × ZoneEntry) : State :=
  let listed := (s.ns x.1).any fun n => n.implicit.contains x.2.1 || n.explicit.contains x.2.1 || n.closed.contains x.2.1
  if x.2.2.state = zsOffline && listed && !x.2.2.poison then offlineZone s x.1 x.2.1 else s

/-- What firmware has written into the band table and the zone map has its effect on the zones (R89, R288). -/
def firmwareLosses (s : State) : State :=
  (nsZones s).foldl (fun s x => zoneRetired (zoneSetOffline s x) (x.1, x.2.1, (readEntry s x.2.1).1)) s

/-! Self-tests (R356, R365; log 92). -/

/-- The first of the checks that fails, 1 supply and coils, 2 servo and channels: every rail good and 12 V and 5 V present, no
coil in fault, no populated actuator's servo and no lane in FAULT (R18, R229, R356, R426; DESIGN CHOICE, log 92). -/
def testChecks (s : State) : Option Nat :=
  let acts := (List.range 4).filter fun a => bits (s.get FMT.HEAD_EN.EN) (8 * a) 8 ≠ 0
  let supply := s.get PWR.PWR_STAT.RAIL_PG = 1023 && s.get PWR.PWR_STAT.IN12_OK = 1 && s.get PWR.PWR_STAT.IN5_OK = 1
  if !supply || acts.any (fun a => vcmState s a = 4) then some 1
  else if acts.any fun a => pageState s (srvPage a) = stFault || pageState s (lanePage (2 * a)) = stFault ||
      pageState s (lanePage (2 * a + 1)) = stFault then some 2
  else none

/-- The next sector of the stage: of a system band, or a written one of the namespaces tested (R82, R83, R356). -/
def testNext (s : State) (t : SelfTest) : Option Nat :=
  (s.media.frames.find? fun e => decide (t.next ≤ e.1) && (if t.stage = 1 then
    match trackPlace s (psaTrack e.1) with
    | some (band, _) => (readBand s (psaHead e.1) band).1.1.kind = 4
    | none => false
    else writtenSector s t.nss e.1)).map (·.1)

/-- Read a sector for the self-test, once a line is free (R356, R364). -/
def testRead (s : State) (psa : Nat) : State :=
  let a := allocLines s 1 fun _ q => { kind := lkRead, nsx := 0, zone := 0, offset := 0, seq := q }
  match a.1 with
  | some [i] =>
    let g := newAge (testMap a.2 fun t => { t with next := psa + 1, line := some i })
    addOps g.2 [{ age := g.1, use := .test, psa := psa, count := 1, op := 0, line := i, zone := 2 ^ 19 }]
  | _ => a.2

/-- The read of the self-test is on its way; one that was lost with its lane or with SCH is made again. -/
def testReads (s : State) (i : Nat) : Bool :=
  s.sch.plan.any (fun o => o.use = .test && o.line = i) || (postedOps s).any (fun e => e.2.2.use = .test && e.2.2.line = i) ||
    s.sch.combined.any fun e => e.1.use = .test && e.1.line = i

/-- One step of the self-test in progress (R356): the checks, then a sector of the system bands, then of the extended test a
written sector; an abort ends it between sectors. -/
def testStep (s : State) : State :=
  match s.nvme.selfTest with
  | none => s
  | some t =>
    match t.line with
    | some i => if testReads s i then s else testMap (freeLine s i) fun t => { t with line := none, next := t.next - 1 }
    | none =>
      if t.stop then selfTestEnds s 1
      else if t.stage = 0 then testMap s fun t => { t with stage := 1, failed := testChecks s }
      else if !schWorks s || schEasing s then s
      else match testNext s t with
        | some psa => testRead s psa
        | none =>
          if t.stage = 1 && t.code = 2 then testMap s fun t => { t with stage := 2, next := 0 }
          else selfTestEnds s (if t.failed.isSome then 7 else 0)

/-! Power state 2 (R203, R355). -/

/-- A command waits for media work, or destaging is due (R355, R377). -/
def mediaWanted (s : State) : Bool :=
  s.sch.plan.any fun o => o.use ≠ .ahead && (o.use ≠ .cached || o.aged || destages s o)

/-- The populated actuators in service. -/
def actsInService (s : State) : List Nat :=
  (List.range 4).filter fun a => bits (s.get FMT.HEAD_EN.EN) (8 * a) 8 ≠ 0 && !outOfService s a

/-- The heads of an actuator are loaded and follow. -/
def headsFollow (s : State) (a : Nat) : Bool := (s.vcm a).loaded && vcmState s a = 1 && srvState s a = svFollow

/-- Load the lowest populated head of a parked actuator, on the bank for 7,200 rpm (R203, R225; DESIGN CHOICE, log 92). -/
def wakeHead (s : State) (a : Nat) : State :=
  if (s.vcm a).loaded || vcmState s a ≠ 3 then s
  else
    let h := ((List.range 8).find? fun h => bit (s.get FMT.HEAD_EN.EN) (8 * a + h)).getD 0
    loadGoes (s.put SRV.SRV_CTL.BANK 0 a) a h false

/-- One step into or out of power state 2 (R203, R355). Into it: once no operation is on a lane every actuator unloads, then the
spindle goes to glide. Out of it, by media work or another power state: the spindle goes to 7,200 rpm, the heads are loaded,
and the power state in force is the operational one before. -/
def powerStep (s : State) : State :=
  if !s.nvme.asleep then s
  else if s.nvme.power = 2 && !mediaWanted s then
    if !(postedOps s).isEmpty then s
    else if (List.range 4).any fun a => (s.vcm a).loaded then
      (List.range 4).foldl (fun s a => if (s.vcm a).loaded then beginUnload s a else s) s
    else if s.get SPN.SPN_CTL.SPEED = 1 then s else speedWrite s 1
  else if s.get SPN.SPN_CTL.SPEED = 1 then
    (if (List.range 4).all (fun a => vcmState s a = 0 || vcmState s a = 3) then speedWrite s 0 else s)
  else if spn s ≠ spRun || !locked s then s
  else if (actsInService s).all (headsFollow s) then
    { s with nvme := { s.nvme with asleep := false, power := if s.nvme.power = 2 then s.nvme.operational else s.nvme.power } }
  else (actsInService s).foldl wakeHead s

/-- A planned write to a head that takes no writes any more, whose line's place firmware has given another (R288, R345,
R368). -/
def reassigned (s : State) (o : PlanOp) : Bool :=
  o.writes && o.lined && o.use ≠ .trail && o.use ≠ .rebuild && !headServes s (psaHead o.psa) && (match s.line o.line with
    | some x =>
      let r := (translate s x.zone x.offset).1
      r.status = .ok && r.psa ≠ o.psa
    | none => false)

/-- Writes that waited for firmware to reassign them are planned anew (R368). -/
def followMoves (s : State) : State :=
  (((s.sch.plan.filter (reassigned s)).map (·.zone)).eraseDups).foldl replanZone s

/-! The commands. -/

/-- What follows every change of the plan: commands end, waiting writes are admitted, lanes are filled. -/
def schSettle (s : State) (zones : List Nat) : State :=
  let s := retryRecons (zones.foldl settleZone (dropAway (dropLost (followMoves (retrySlacks (firmwareLosses s))))))
  let s := settleAborts s (s.nvme.cmds.length + 1)
  let s := settleClosing (settleClosing s 0) 1
  let s := feedHeld s s.nvme.cmds
  fillLanes (weaveTell (testStep (rebuildStep (admitWaiting (settleCmds s (s.nvme.cmds.length + 1))))))

/-- An operation returns with its tag (R253, R368). -/
def opReturned (s : State) (r : TagRec) (o : PlanOp) : State :=
  let s := if r.status = 1 then s.bump SCH.PLAN_CNT.REQUEUE else s
  let s := if o.writes then writeReturned s r o else readReturned s r o
  let m := r.lane / 2 * 2 + (1 - r.lane % 2)
  let s := if laneBusy s m then s else leaveTrack s m (sget 0 s.sch.places m)
  leaveTrack s r.lane (sget 0 s.sch.places r.lane)

/-- The result of a combined replay (R148): accepted, or step 8. -/
def combinedResult (s : State) (d : Nat) (x : SectorResult) : State :=
  let n := 4 * d + x.lane
  let s := s.setLdp d { s.ldp d with results := (s.ldp d).results.erase x }
  match s.sch.combined.find? fun e => e.2 = n && e.1.psa = bits x.record 0 40 with
  | none => s
  | some e =>
    let s := releaseKept (s.schMap fun y => { y with combined := y.combined.erase e }) e.1
    if bits x.record 40 4 = 0 then
      landLine (memWrite s (lineAddr s e.1.line) (x.payload.take 4112 ++ List.replicate 16 0)) e.1.use e.1.line
    else stepEight s e.1.line

/-- Results of combined replays that have come (R148). -/
def combinedResults (s : State) : State :=
  ([0, 1].filter fun d => dieUp s (d + 1) && !dieTraining s (d + 1)).foldl (fun s d =>
    let s := dropStale s d
    ((s.ldp d).results.filter fun x => bit x.record 117 && !x.verify).foldl (fun s x => combinedResult s d x) s) s

/-- The zones that lines of the write cache wait in. -/
def cachedZones (s : State) : List Nat :=
  (linesThat s fun x => x.kind = lkCached).filterMap fun i => (s.line i).map (·.zone)

/-- TAG_COMPLETION_RECEIVE (R30, R253, R364, R368): the oldest record on its way reaches SCH. One of an old epoch is
discarded and counted. -/
def execTagCompletionReceive (s : State) : Result :=
  .next (
    let s := if s.sch.combined.isEmpty then s else combinedResults s
    match s.tagRecs.find? fun r => !dieTraining s (r.lane / 4 + 1) && flitTurn s (r.lane / 4) true .reply with
    | none => schSettle s ((s.nvme.cmds.map (·.zone)) ++ cachedZones s).eraseDups
    | some r =>
      let s := { s with tagRecs := s.tagRecs.erase r }
      if r.epoch ≠ (s.dom (lanePage r.lane).domain).epoch then
        raise (s.bump BRZ.LINK_ERR.STALE_CNT 1 0 (r.lane / 4)) ⟨.brz, 0⟩ 3 7
      else
        match postedOp s r.lane r.tag with
        | none => lqRelease r.lane r.tag s
        | some o =>
          let s := s.schMap fun x => { x with posted := sset none x.posted (32 * r.lane + r.tag) none }
          let s := opReturned s r o
          let s := if o.step = 7 && r.kept then s else lqRelease r.lane r.tag s
          schSettle s ((o.zone :: s.nvme.cmds.map (·.zone)).eraseDups))

/-- OPERATION_AGED (R365): the operation with this age number has passed AGE_LIMIT. -/
def execOperationAged (age : Nat) (s : State) : Result :=
  .next (
    match s.sch.plan.find? fun o => o.age = age && !o.aged with
    | none => s
    | some o =>
      let s := s.schMap fun x => { x with plan := x.plan.map fun y => if y = o then { y with aged := true } else y }
      fillLanes (raise (s.bump SCH.PLAN_CNT.AGED) schPage 7 7))

/-- WRITE_ADMIT_RESUME (R376): there is room again. -/
def execWriteAdmitResume (s : State) : Result := .next (fillLanes (admitWaiting s))

/-- A RECON descriptor of SCH's port has been run (R282, R285): the sector lands, or the read is lost. -/
def reconDone (s : State) (r : Recon) (st : Nat) : State :=
  let s := dropSources s r
  match s.line r.line with
  | none => s
  | some x =>
    if rebuildHas s r.line then (if st = 0 then rebuildReady s r.line else rebuildSpoiled s r.line)
    else if x.slot.isNone then freeLine s r.line
    else if st = 0 then
      (s.modLine r.line fun x => { x with written := true }).schMap fun y => { y with reconReads := min (y.reconReads + 1) (2 ^ 32 - 1) }
    else unrecovered s r.line

/-- The descriptor of SCH's port that WEV runs is completed (R282, R285, R296): WEV is idle again. -/
def portDone (s : State) : State :=
  match s.sch.portRun with
  | none => s
  | some (e, r, st, poisoned) =>
    let s := wevIdle (wevCount (s.schMap fun x => { x with portRun := none }) e st poisoned)
    let s := if s.wev.disabling then wevOff s else s
    schSettle (reconDone s r st) [r.zone]

/-- WEV takes the next descriptor of SCH's port (R283, R296). -/
def portStart (s : State) (e : List Nat) (r : Recon) : State :=
  let s := s.schMap fun x => { x with port := x.port.drop 1 }
  let s : State := { s with wev := { s.wev with portBusy := true } }
  let s := ((s.put WEV.WEV_STAT.SRC 4).put WEV.WEV_STAT.OP (descOp e)).put WEV.WEV_STAT.ZONE (descZone e)
  let o := wevRun s e
  o.2.2.schMap fun x => { x with portRun := some (e, r, o.1, o.2.1.poisoned) }

/-- WEV_RECON (R280-R286): a descriptor of SCH's port that is in progress is completed; else the port's next is taken
where the port is enabled and WEV runs, and else a ring's. While WEV does not run the port's requests wait. -/
def execWevRecon (s : State) : Result :=
  .next (
    if s.sch.portRun.isSome then portDone s
    else match s.sch.port with
      | (e, r) :: _ => if portFirst s && wevTakes s then portStart s e r else wevServe s fun op => op = 3
      | [] => wevServe s fun op => op = 3)

/-! Actuators leave and return (R257, R365, R378). -/

/-- A write of SEQ_CTL: what SCH had planned for an actuator that leaves service is settled at once. -/
def oosWrite (q : Req) (d : Nat) (w : Word) (s : State) : State := schSettle (seqCtlWrite q d w s) []

/-- ACTUATOR_OOS_SET (R257). -/
def execActuatorOosSet (q : Req) (seq : Fin 2) (w : BitVec 32) (s : State) : Result :=
  .next (guarded s q (seqPage seq.val) 0x040 w (oosWrite q seq.val w))

/-- ACTUATOR_OOS_CLEAR (R257). -/
def execActuatorOosClear (q : Req) (seq : Fin 2) (w : BitVec 32) (s : State) : Result :=
  .next (guarded s q (seqPage seq.val) 0x040 w (oosWrite q seq.val w))

end Sys2Proof.Machine
end

