-- ==== Sys2Proof/Machine/Controller.lean ====
section
/-! DEFINITION. A controller as a whole: its commands stopped, its disable, its fault, and Abort (chapter "Host transport
and queues"). -/

namespace Sys2Proof.Machine

open Sys2Proof

/-- A Format or a deletion that is given up no longer stands in the namespace's way. -/
def clearFlags (s : State) (c : HostCmd) : State :=
  match c.op with
  | .format _ _ _ _ => s.modNs c.nsx fun n => { n with formatting := false, older := [] }
  | .nsDelete nss => nss.foldl (fun s k => s.modNs k fun n => { n with deleting := false, older := [] }) s
  | _ => s

/-- Part a host command from its slot and stop its media work: what it has written stands, the rest goes once its tags
are off the lanes, and no entry is posted for it (R318, R323). It goes on under a number beyond the slots; in a controller
disable it holds its slot until then. -/
def orphanCmd (s : State) (k : Nat) (holds : Bool := false) : State :=
  match s.cmd k with
  | none => s
  | some c =>
    let a := newAge (clearFlags s c)
    let j := 4096 + a.1
    let re := fun (x : Option Nat) => if x = some k then some j else x
    let f := fun (o : PlanOp) => { o with slot := re o.slot }
    let g := fun (r : Recon) => { r with slot := re r.slot }
    let s := a.2.modCmd k fun c => { c with slot := j, home := if holds then some k else none }
    let s := s.schMap fun x => { x with
      plan := x.plan.map f, posted := x.posted.map fun e => (e.1, e.2.map f), recons := x.recons.map g
      port := x.port.map fun e => (e.1, g e.2), combined := x.combined.map fun e => (f e.1, e.2) }
    let s := (linesThat s fun x => x.slot = some k).foldl (fun s i => s.modLine i fun x => { x with slot := some j }) s
    stopCmd s j

/-- End a command before its media work, with a status (R322). -/
def killCmd (s : State) (k : Nat) (st : HostStatus) : State := endCmd (orphanCmd (forgetAdmin s k) k) k st

/-- The host commands in progress of a controller, by slot. -/
def ctlCmds (s : State) (n : Nat) : List Nat :=
  s.nvme.cmds.filterMap fun c =>
    if c.slot < 4096 && (s.slot c.slot).ctrl = n && (s.slot c.slot).st ≠ .free then some c.slot else none

/-- What a namespace's ownership becomes when controller `n` is disabled or detached (R326): the other controller owns
it at once; a move that involves `n` is over. -/
def ownerLeaves (s : State) (n nsx : Nat) : State :=
  match s.ns nsx with
  | none => s
  | some x =>
    let s := if x.owner = some n then s.modNs nsx fun x => { x with owner := some (1 - n), moving := none }
      else match x.moving with
        | some m => if m.1 = n then s.modNs nsx fun x => { x with moving := none } else s
        | none => s
    match x.moving, (s.ns nsx).bind (·.moving) with
    | some (_, some k), none => endCmd s k .success
    | _, _ => s

/-- Ownership of every namespace leaves controller `n` (R326). -/
def allOwnersLeave (s : State) (n : Nat) : State :=
  (s.nvme.nss.map (·.1)).foldl (fun s k => ownerLeaves s n k) s

/-- The controller disable (R318): fetching stops, FETCHED commands drop, STARTED and ABORTING ones stop as an abort
stops them, no entry is posted. Every slot is FREE, every queue deleted and RDY clear once the last tag is off its lane. -/
def controllerDisable (s : State) (n : Nat) : State :=
  let p := hqPage n
  let dropped := heldSlots s n fun x => x.st ≠ .posting
  let s := raiseIf (!dropped.isEmpty) (raiseIf (s.get HQ.HQ_STAT.CC_EN n = 1) s p 0 7) p 3 7
  let s := s.put HQ.HQ_STAT.CC_EN 0 n
  let c := s.ctl n
  let s := s.setCtl n { c with
    closing := true, opening := none, cqs := c.cqs.map fun e => (e.1, e.2.map fun q => { q with waiting := [] }) }
  let s := allOwnersLeave s n
  let s := (ctlCmds s n).foldl (fun s k => orphanCmd (s.setSlot k { s.slot k with st := .aborting }) k true) s
  schSettle s (s.nvme.cmds.map (·.zone)).eraseDups

/-- HQ's domain is reset: the disable is over at once, with whatever tags its commands still have on the lanes (R318, R320). -/
def controllerLost (s : State) (n : Nat) : State :=
  let s := controllerDisable s n
  let s := s.setCmds (s.nvme.cmds.map fun c =>
    if (c.home.map fun k => (s.slot k).ctrl) = some n then { c with home := none } else c)
  settleClosing s n

/-- HQn enters FAULT (R320): CFS sets, its media work stops as in R318, its slots stay held. -/
def hqFault (s : State) (n : Nat) : State :=
  let s := setPageState (s.put HQ.HQ_STAT.CFS 1 n) (hqPage n) stFault
  schSettle ((ctlCmds s n).foldl orphanCmd s) (s.nvme.cmds.map (·.zone)).eraseDups

/-- HQ_FAULT (R320). -/
def execHqFault (ctrl : Fin 2) (s : State) : Result :=
  .next (if domainLive s (hqPage ctrl.val).domain then hqFault s ctrl.val else s)

/-! Abort (R321-R323). -/

/-- The slot of a command by queue and identifier: one that is not yet completed before one that is. -/
def findCommand (s : State) (n sqid cid : Nat) : Option Nat :=
  match heldSlots s n fun x => x.sqid = sqid && x.cid = cid && x.st ≠ .posting with
  | k :: _ => some k
  | [] => (heldSlots s n fun x => x.sqid = sqid && x.cid = cid).head?

/-- Fetch what the named queue holds up to its tail (R310, R322). -/
def fetchNamed (s : State) (n y : Nat) (entries : List (List Byte)) : State :=
  match (s.ctl n).sq y with
  | none => s
  | some q =>
    if q.deleting.isSome || !hqFetches s n then s
    else (fetchRunOf n y ((entries.take (min q.unfetched (slotsFor s n (y = 0)))).map fun e => e.map (·.toNat)) (0, s)).2

/-- An Abort is answered "aborted". -/
def abortDone (s : State) (n k : Nat) : State := endCmd (s.bump HQ.ABORT_CNT.ABORTED 1 n) k .success 0

/-- An Abort is answered "not aborted". -/
def abortMissed (s : State) (n k : Nat) : State := endCmd (s.bump HQ.ABORT_CNT.NOT_ABORTED 1 n) k .success 1

/-- The Abort in slot `k` waits for the entry of the command in slot `j`. -/
def abortWaits (s : State) (n k j : Nat) : State :=
  (s.bump HQ.ABORT_CNT.ABORTED 1 n).setCtl n { s.ctl n with aborts := (s.ctl n).aborts ++ [(k, j)] }

/-- The outcome of an Abort at the named command's slot (R322). -/
def decideAbort (s : State) (n k j : Nat) : State :=
  let x := s.slot j
  match x.st with
  | .free | .posting => abortMissed s n k
  | .aborting => abortWaits s n k j
  | .fetched | .started =>
    if x.media && x.st = .started then stopCmd ((abortWaits s n k j).setSlot j { x with st := .aborting }) j
    else abortDone (killCmd s j .abortRequested) n k

/-- ABORT (R321-R323, R332). -/
def execAbort (slot : Fin 4096) (sqid cid : BitVec 16) (entries : List (List Byte)) (s : State) : Result :=
  .next (onAdmin s slot.val fun s n =>
    let k := slot.val
    let s := raise s (hqPage n) 4 7
    if 16 ≤ (s.ctl n).aborts.length then endCmd (s.bump HQ.ABORT_CNT.ACL_EXC 1 n) k .abortLimitExceeded
    else
      match findCommand s n sqid.toNat cid.toNat with
      | some j => schSettle (decideAbort s n k j) (s.nvme.cmds.map (·.zone)).eraseDups
      | none =>
        let s := fetchNamed s n sqid.toNat entries
        match findCommand s n sqid.toNat cid.toNat with
        | some j => decideAbort s n k j
        | none => abortMissed s n k)

end Sys2Proof.Machine
end

