-- ==== Sys2Proof/Machine/Zones.lean ====
section
/-! DEFINITION. The I/O commands: reads and writes of namespaces, zone management, reservations (chapter "Commands,
namespaces and zones"; read-ahead, chapter "Scheduling, buffer and power-loss writing"). What the NVM Express
specifications fix beyond the spec's words is PRESUMED (log 35). -/

namespace Sys2Proof.Machine

open Sys2Proof

/-! Which commands may start. -/

/-- The namespace an NSID names for the command in slot `k` of controller `n` (R339, R360): an inactive NSID is Invalid Field in
Command; while it is deleted or formatted only commands that held a slot before go on. -/
def activeNs (s : State) (n nsid k : Nat) : Except HostStatus (Nat × Ns) :=
  if nsid = 0 || 64 < nsid then .error .invalidNamespaceOrFormat
  else match s.ns (nsid - 1) with
    | none => .error .invalidField
    | some x =>
      let older := x.older.contains (k, (s.slot k).gen)
      if x.deleting && !older then .error .invalidNamespaceOrFormat
      else if !x.attached.contains n then .error .invalidField
      else if x.formatting && !older then .error .formatInProgress
      else .ok (nsid - 1, x)

/-- Act on the I/O command of a slot and its namespace (R361). While ownership moves a command is held: it stays in its
slot (R326). -/
def onNs (s : State) (k : Nat) (nsid : Nat) (f : State → Nat → Ns → State) : State :=
  if !serves s k false then s
  else if s.nvme.sanitize.running then endCmd s k .sanitizeInProgress
  else match activeNs s (s.slot k).ctrl nsid k with
    | .error st => endCmd s k st
    | .ok (x, n) => if n.moving.isSome then s else f s x n

/-- The host behind a slot's controller (R351). -/
def hostOf (s : State) (k : Nat) : Nat := (s.ctl (s.slot k).ctrl).hostId

/-- A host is registered with a namespace. -/
def Ns.registered (n : Ns) (host : Nat) : Bool := n.registrants.any fun r => r.1 = host

/-- A host holds the reservation: under types 5 and 6 every registrant does. -/
def Ns.holds (n : Ns) (host : Nat) : Bool :=
  match n.reservation with
  | some (t, h) => n.registered host && (t = 5 || t = 6 || h = host)
  | none => false

/-- A reservation forbids the host's access (R351): 1 write exclusive, 2 exclusive access, 3 and 4 the same for all but
registrants, 5 and 6 with every registrant a holder. -/
def Ns.conflict (n : Ns) (host : Nat) (write : Bool) : Bool :=
  match n.reservation with
  | some (t, _) =>
    if t = 1 then write && !n.holds host
    else if t = 2 then !n.holds host
    else if t = 3 || t = 5 then write && !n.registered host
    else !n.registered host
  | none => false

/-- A plain or conventional zone whose actuator is out of service (R287, R346). -/
def zoneAway (s : State) (e : ZoneEntry) : Bool := !woven e.kind && outOfService s (e.head 0 / 8)

/-- Zone Is Offline, for a zone that is, or whose actuator is out of service (R346). -/
def offlineStatus (s : State) (zone : Nat) : Option HostStatus :=
  let e := (readEntry s zone).1
  if e.state = zsOffline then some (.zoneIsOffline true)
  else if zoneAway s e then some (.zoneIsOffline false) else none

/-- A Zone Reset of the zone waits for its turn (R350). -/
def resetPending (s : State) (nsx zone : Nat) : Bool :=
  s.nvme.cmds.any fun c => c.nsx = nsx && match c.op with
    | .reset zones _ => zones.contains zone
    | _ => false

/-- Add a host command to those in progress, last in order (R347). -/
def enterOrder (s : State) (c : HostCmd) : State := s.setCmds (s.nvme.cmds ++ [c])

/-- Settle everything a host command has set going. -/
def settleHost (s : State) (zone : Nat) : State := schSettle s (zone :: s.nvme.cmds.map (·.zone)).eraseDups

/-! Reads (R341, R343, R346, R350, R373, R380). -/

/-- A block beyond its zone's write pointer, or behind a Zone Reset that waits (R343, R350). -/
def readsZero (s : State) (nsx : Nat) (n : Ns) (b : Nat × Nat) : Bool :=
  n.kind ≠ 3 && ((readEntry s b.1).1.wp ≤ b.2 || resetPending s nsx b.1)

/-- A block of a woven zone whose buffer copy carries poison is reconstructed (R285). -/
def copySpoiled (s : State) (n : Ns) (b : Nat × Nat) : Bool :=
  woven n.kind && (cachedLine s b.1 b.2).any (linePoison s)

/-- A block that a line of its own must bring: read from the media, or reconstructed. -/
def needsRead (s : State) (nsx : Nat) (n : Ns) (b : Nat × Nat) : Bool :=
  !readsZero s nsx n b &&
    (copySpoiled s n b || ((cachedLine s b.1 b.2).isNone && (provLine s b.1 b.2).isNone))

/-- Where the blocks of a read come from: zeros, a line of the write cache, a provisional line, or the next of `lines`. -/
def readParts (nsx : Nat) (n : Ns) (k : Nat) : List (Nat × Nat) → List Nat → State → List ReadFrom × State
  | [], _, s => ([], s)
  | b :: bs, lines, s =>
    if readsZero s nsx n b then let r := readParts nsx n k bs lines s; (.zero :: r.1, r.2)
    else if copySpoiled s n b then
      match lines with
      | i :: is => let r := readParts nsx n k bs is s; (.line i :: r.1, r.2)
      | [] => let r := readParts nsx n k bs [] s; (.lost :: r.1, r.2)
    else match cachedLine s b.1 b.2 with
      | some i =>
        let m := memRead s .pcx (lineAddr s i) 4112
        let r := readParts nsx n k bs lines m.2
        (.held m.1.bytes m.1.poison :: r.1, r.2)
      | none => match provLine s b.1 b.2 with
        | some i =>
          let s := s.modLine i fun x => { x with slot := if x.slot.isNone then some k else x.slot }
          let r := readParts nsx n k bs lines s
          (.line i :: r.1, r.2)
        | none => match lines with
          | i :: is => let r := readParts nsx n k bs is s; (.line i :: r.1, r.2)
          | [] => let r := readParts nsx n k bs [] s; (.lost :: r.1, r.2)

/-- Read-ahead behind the second of two consecutive reads of a zone (R372): RA_LEN sectors, short of the zone's MWP and
capacity, at most RA_LINES provisional lines. -/
def readAhead (s : State) (nsx zone kind first count : Nat) : State :=
  let last := sget 0 s.sch.lastRead zone
  let s := s.schMap fun x => { x with lastRead := sset 0 x.lastRead zone (first + count + 1) }
  let e := readEntry s zone
  let start := first + count
  let top := min (min e.1.mwp (zoneCapacity kind)) (start + s.get SCH.RA_CFG.RA_LEN)
  if schEasing s || last ≠ first + 1 || s.get SCH.SCH_CTL.RA_EN ≠ 1 || top ≤ start then e.2
  else
    let offs := ((List.range (top - start)).map (start + ·)).filter fun o =>
      (cachedLine s zone o).isNone && (provLine s zone o).isNone
    let offs := offs.take (s.get SCH.RA_CFG.RA_LINES - provCount s)
    if offs.isEmpty then e.2
    else
      let a := allocLines e.2 offs.length fun i q =>
        { kind := lkPending, nsx := nsx, zone := zone, offset := (offs[i]?).getD 0, seq := q }
      match a.1 with
      | some lines => planReads a.2 .ahead none lines
      | none => a.2

/-- What a Read or Verify is checked for before it starts. -/
def readCheck (s : State) (k : Nat) (n : Ns) (op : HostOp) (lba count : Nat) : Option HostStatus :=
  if n.conflict (hostOf s k) false then some .reservationConflict
  else if op = .read && 256 < count then some .invalidField
  else if n.zones.length * zoneSize n.kind < lba + count then some .lbaOutOfRange
  else if n.kind ≠ 3 && lba / zoneSize n.kind ≠ (lba + count - 1) / zoneSize n.kind then some .zoneBoundaryError
  else (blocksOf n lba count).findSome? fun b => offlineStatus s b.1

/-- A Read or a Verify: it waits in its slot while the buffer has no line for it, and while SCH eases (R388). -/
def readCmd (s : State) (k : Nat) (nsx : Nat) (n : Ns) (op : HostOp) (lba count : Nat) (pi : PiIn) : State :=
  match readCheck s k n op lba count, blockAt n lba with
  | some st, _ => endCmd s k st
  | none, none => endCmd s k .lbaOutOfRange
  | none, some (zone, first) =>
    if schEasing s then s
    else
    let bs := blocksOf n lba count
    let need := bs.filter (needsRead s nsx n)
    let a := allocLines s need.length fun i q =>
      let b := (need[i]?).getD (0, 0)
      { kind := lkRead, nsx := nsx, zone := b.1, offset := b.2, seq := q, slot := some k }
    match a.1 with
    | none => a.2
    | some lines =>
      let r := readParts nsx n k bs lines a.2
      let s := startSlot r.2 k
      let s := enterOrder s { slot := k, op := op, nsx := nsx, zone := zone, first := first, count := count, lba := lba
                              parts := r.1, pi := pi }
      let spoiled := (List.zip need lines).filterMap fun e => if copySpoiled a.2 n e.1 then some e.2 else none
      let wanted := lines.filter fun i => !spoiled.contains i
      let s := spoiled.foldl stepEight s
      let s := if wanted.isEmpty then s else planReads s .hostRead (some k) wanted
      settleHost (if op = .read then readAhead s nsx zone n.kind first count else s) zone

/-- NVM_READ (R341, R343, R346). -/
def execNvmRead (slot : Fin 4096) (nsid : BitVec 32) (slba : BitVec 64) (nlb : BitVec 16) (pi : PiIn) (s : State) :
    Result :=
  .next (onNs (s.reply 0 []) slot.val nsid.toNat fun s x n =>
    readCmd s slot.val x n .read slba.toNat (nlb.toNat + 1) pi)

/-- NVM_VERIFY (R341): read through the ladder, no data moved. -/
def execNvmVerify (slot : Fin 4096) (nsid : BitVec 32) (slba : BitVec 64) (nlb : BitVec 16) (pi : PiIn) (s : State) :
    Result :=
  .next (onNs (s.reply 0 []) slot.val nsid.toNat fun s x n =>
    readCmd s slot.val x n .verify slba.toNat (nlb.toNat + 1) pi)

/-! Writes (R342, R344, R347). -/

/-- Zones active on the device (R344). -/
def activeZones (s : State) : Nat :=
  (s.nvme.nss.map fun e => match e.2 with
    | some n => n.implicit.length + n.explicit.length + n.closed.length
    | none => 0).foldl (· + ·) 0

/-- The limits on active zones (R344). -/
def activeFull (s : State) (n : Ns) : Bool :=
  1024 ≤ n.implicit.length + n.explicit.length + n.closed.length || decide (4096 ≤ activeZones s)

/-- The limit on open zones (R344). -/
def openFull (n : Ns) : Bool := 1024 ≤ n.implicit.length + n.explicit.length

/-- A write opens its zone (R344): at the limit the implicitly opened zone written least recently closes first. -/
def openForWrite (s : State) (nsx zone state : Nat) : Except HostStatus State :=
  match s.ns nsx with
  | none => .error .invalidField
  | some n =>
    if state = zsImplicit then .ok (enterZoneState s nsx zone zsImplicit)
    else if state = zsExplicit then .ok s
    else if state = zsEmpty && activeFull s n then .error .tooManyActiveZones
    else if openFull n then
      match n.implicit with
      | z :: _ => .ok (enterZoneState (enterZoneState s nsx z zsClosed) nsx zone zsImplicit)
      | [] => .error .tooManyOpenZones
    else .ok (enterZoneState s nsx zone zsImplicit)

/-- The status of a zone that takes no write (R346, R347). -/
def writeState (s : State) (zone : Nat) : Option HostStatus :=
  let st := (readEntry s zone).1.state
  match offlineStatus s zone with
  | some x => some x
  | none => if st = zsFull then some .zoneIsFull else if st = zsReadOnly then some .zoneIsReadOnly else none

/-- Take a write into the zone order (R342, R347): under the write cache it completes once every line is charged, else once
it is on the media. Its blocks come from host memory as soon as the buffer has lines for them and for the writes before it;
EV045 tells where it must wait. -/
def takeWrite (s : State) (k nsx : Nat) (op : HostOp) (zone first lba : Nat) (fua : Bool) (pi : PiIn) (blocks : List (List Nat))
    (filled : Option Nat) : State :=
  let s := raiseIf (s.nvme.cmds.any (·.held.isSome) || decide (freeCount s < blocks.length)) s bufPage 3 7
  let s := enterOrder (startSlot s k)
    { slot := k, op := op, nsx := nsx, zone := zone, first := first, count := blocks.length, lba := lba
      cached := !s.nvme.cacheOff && !fua, held := some blocks, filled := filled, pi := pi }
  settleHost s zone

/-- Lost strands that a sanitize left in a zone are replaced before its next write (R289, R361; log 77); where no band can
replace one the zone turns Offline, and the answer is false. -/
def replaceLeft (s : State) (nsx zone : Nat) : Bool × State :=
  if !s.nvme.sanitize.zones.contains zone then (true, s)
  else
    let s := { s with nvme := { s.nvme with sanitize := { s.nvme.sanitize with
      zones := s.nvme.sanitize.zones.filter fun z => z ≠ zone } } }
    let s := (readEntry s zone).1.lostStrands.foldl (fun s w =>
      match spareFor s (readEntry s zone).1 w with
      | some b => replaceStrand s zone w b.1 b.2
      | none => s) s
    let left := (readEntry s zone).1.lostStrands
    (left.isEmpty, if left.isEmpty then s else weaveLost s nsx zone)

/-- A write to a zoned namespace once its place is known (R344, R347): the zone opens, the write pointer advances. -/
def writeZone (s : State) (k nsx : Nat) (n : Ns) (op : HostOp) (zone first lba : Nat) (fua : Bool) (pi : PiIn)
    (blocks : List (List Nat)) : State :=
  let r := replaceLeft s nsx zone
  let e := readEntry r.2 zone
  if !r.1 then endCmd r.2 k (.zoneIsOffline true)
  else match openForWrite e.2 nsx zone e.1.state with
  | .error st => endCmd e.2 k st
  | .ok s' =>
    let s' := putZoneWp s' zone (first + blocks.length)
    if first + blocks.length = zoneCapacity n.kind then
      let was := (readEntry s' zone).1.state
      takeWrite (enterZoneState s' nsx zone zsFull) k nsx op zone first lba fua pi blocks (some was)
    else takeWrite s' k nsx op zone first lba fua pi blocks none

/-- What Write and Write Zeroes are checked for (R347). -/
def writeCheck (s : State) (k : Nat) (n : Ns) (lba count : Nat) (bad : Option HostStatus) : Option HostStatus :=
  if n.conflict (hostOf s k) true then some .reservationConflict
  else if n.zones.length * zoneSize n.kind < lba + count then some .lbaOutOfRange
  else match bad with
    | some st => some st
    | none =>
      if n.kind = 3 then (blocksOf n lba count).findSome? fun b => offlineStatus s b.1
      else match blockAt n lba with
        | none => some .lbaOutOfRange
        | some (zone, off) => match writeState s zone with
          | some st => some st
          | none =>
            if off ≠ (readEntry s zone).1.wp then some .zoneInvalidWrite
            else if zoneCapacity n.kind < off + count then some .zoneBoundaryError
            else none

/-- A Write or Write Zeroes (R342, R347). Behind a Zone Reset that waits it waits in its slot. -/
def writeCmd (s : State) (k nsx : Nat) (n : Ns) (op : HostOp) (lba : Nat) (fua : Bool) (pi : PiIn) (blocks : List (List Nat))
    (bad : Option HostStatus) : State :=
  match blockAt n lba with
  | none => endCmd s k .lbaOutOfRange
  | some (zone, off) =>
    if resetPending s nsx zone then s
    else match writeCheck s k n lba blocks.length bad with
      | some st => endCmd s k st
      | none =>
        if n.kind = 3 then takeWrite s k nsx op zone off lba fua pi blocks none
        else writeZone s k nsx n op zone off lba fua pi blocks

/-- NVM_WRITE (R340, R342, R347). -/
def execNvmWrite (slot : Fin 4096) (nsid : BitVec 32) (slba : BitVec 64) (nlb : BitVec 16) (fua : Bool)
    (data md : List Byte) (pi : PiIn) (s : State) : Result :=
  .next (onNs (s.reply 0 []) slot.val nsid.toNat fun s x n =>
    let blocks := hostBlocks n pi pi.ref.toNat (data.map (·.toNat)) (md.map (·.toNat)) (nlb.toNat + 1)
    if 256 < nlb.toNat + 1 then endCmd s slot.val .invalidField
    else writeCmd s slot.val x n .write slba.toNat fua pi blocks (blocksFailure n pi pi.ref.toNat blocks))

/-- WRITE_ZEROES (R340, R347): a write of zeros that moves no data; with PRACT it has protection information. -/
def execWriteZeroes (slot : Fin 4096) (nsid : BitVec 32) (slba : BitVec 64) (nlb : BitVec 16) (fua : Bool) (pi : PiIn)
    (s : State) : Result :=
  .next (onNs (s.reply 0 []) slot.val nsid.toNat fun s x n =>
    writeCmd s slot.val x n .zeroes slba.toNat fua pi (hostBlocks n pi pi.ref.toNat [] [] (nlb.toNat + 1)) none)

/-- What a Zone Append is checked for (R347). -/
def appendCheck (s : State) (k : Nat) (n : Ns) (zslba count : Nat) (bad : Option HostStatus) : Option HostStatus :=
  if n.conflict (hostOf s k) true then some .reservationConflict
  else if 64 < count || zslba % zoneSize n.kind ≠ 0 then some .invalidField
  else match bad, blockAt n zslba with
    | some st, _ => some st
    | none, none => some .lbaOutOfRange
    | none, some (zone, _) => match writeState s zone with
      | some st => some st
      | none => if zoneCapacity n.kind < (readEntry s zone).1.wp + count then some .zoneBoundaryError else none

/-- ZONE_APPEND (R340, R347): assigned the write pointer; reference tags are checked against ZSLBA and stored as for a Write
at the assigned LBA. -/
def execZoneAppend (slot : Fin 4096) (nsid : BitVec 32) (zslba : BitVec 64) (nlb : BitVec 16) (fua : Bool)
    (data md : List Byte) (pi : PiIn) (s : State) : Result :=
  .next (onNs (s.reply 0 []) slot.val nsid.toNat fun s x n =>
    let k := slot.val
    let start := zslba.toNat
    let blocks := hostBlocks n pi start (data.map (·.toNat)) (md.map (·.toNat)) (nlb.toNat + 1)
    if n.kind = 3 then endCmd s k .invalidOpcode
    else match appendCheck s k n start blocks.length (blocksFailure n pi start blocks), blockAt n start with
      | some st, _ => endCmd s k st
      | none, none => endCmd s k .lbaOutOfRange
      | none, some (zone, _) =>
        if resetPending s x zone then s
        else
          let wp := (readEntry s zone).1.wp
          let stored := (List.zip (List.range blocks.length) blocks).map fun e => rebase n (start + wp + e.1) e.2
          writeZone s k x n .append zone wp (start + wp) fua pi stored)

/-- NVM_FLUSH (R342): complete without media work. -/
def execNvmFlush (slot : Fin 4096) (nsid : BitVec 32) (s : State) : Result :=
  .next (
    let k := slot.val
    if nsid.toNat = 0xFFFFFFFF then
      (if !serves s k false then s
       else endCmd s k (if s.nvme.sanitize.running then .sanitizeInProgress else .success))
    else onNs s k nsid.toNat fun s _ n =>
      endCmd s k (if n.conflict (hostOf s k) true then .reservationConflict else .success))

/-! Zone management (R344, R350, R374). -/

/-- Act on a Zone Management Send: on the zone that `slba` starts, or with Select All on every zone whose state
`accepts`; `f` does it and names the status of a state that does not accept the action (R346, R350). -/
def onZones (s : State) (k : Nat) (nsid : Nat) (slba : Nat) (all : Bool) (accepts : Nat → Bool)
    (f : State → Nat → List Nat → State) : State :=
  onNs s k nsid fun s x n =>
    if n.kind = 3 then endCmd s k .invalidOpcode
    else if n.conflict (hostOf s k) true then endCmd s k .reservationConflict
    else if all then
      f s x (n.zones.filter fun z =>
        accepts (readEntry s z).1.state && (offlineStatus s z).isNone && !resetPending s x z)
    else match blockAt n slba with
      | none => endCmd s k .lbaOutOfRange
      | some (zone, off) =>
        if off ≠ 0 then endCmd s k .invalidField
        else if resetPending s x zone then s
        else match offlineStatus s zone with
          | some st => endCmd s k st
          | none => if accepts (readEntry s zone).1.state then f s x [zone] else endCmd s k .invalidZoneTransition

/-- Open one zone explicitly, if the limits allow (R344). -/
def openZone (s : State) (nsx zone : Nat) : Except HostStatus State :=
  match s.ns nsx with
  | none => .error .invalidField
  | some n =>
    let st := (readEntry s zone).1.state
    if st = zsImplicit || st = zsExplicit then .ok (enterZoneState s nsx zone zsExplicit)
    else if st = zsEmpty && activeFull s n then .error .tooManyActiveZones
    else if openFull n then .error .tooManyOpenZones
    else .ok (enterZoneState s nsx zone zsExplicit)

/-- Open zones in turn, all or none of them. -/
def openZones (nsx : Nat) : List Nat → State → Except HostStatus State
  | [], s => .ok s
  | z :: zs, s => match openZone s nsx z with
    | .ok s => openZones nsx zs s
    | .error e => .error e

/-- ZONE_OPEN (R344, R350). -/
def execZoneOpen (slot : Fin 4096) (nsid : BitVec 32) (slba : BitVec 64) (all : Bool) (s : State) : Result :=
  .next (onZones s slot.val nsid.toNat slba.toNat all (fun st => 1 ≤ st && st ≤ 4)
    fun s x zones => match openZones x zones s with
      | .ok s => endCmd s slot.val .success
      | .error e => endCmd s slot.val e)

/-- ZONE_CLOSE (R350). -/
def execZoneClose (slot : Fin 4096) (nsid : BitVec 32) (slba : BitVec 64) (all : Bool) (s : State) : Result :=
  .next (onZones s slot.val nsid.toNat slba.toNat all (fun st => st = zsImplicit || st = zsExplicit || st = zsClosed)
    fun s x zones =>
      let s := zones.foldl (fun s z => if (readEntry s z).1.state = zsClosed then s else enterZoneState s x z zsClosed) s
      endCmd s slot.val .success)

/-- ZONE_FINISH (R275, R350, R374): Full at once; a woven zone's command waits for the binding of a partial row. -/
def execZoneFinish (slot : Fin 4096) (nsid : BitVec 32) (slba : BitVec 64) (all : Bool) (s : State) : Result :=
  .next (onZones s slot.val nsid.toNat slba.toNat all
    (fun st => (1 ≤ st && st ≤ 4) || st = zsFull)
    fun s x zones =>
      let k := slot.val
      let s := cancelProv s fun l => zones.contains l.zone
      let s := zones.foldl (fun s z => if (readEntry s z).1.state = zsFull then s else enterZoneState s x z zsFull) s
      let z := zones.headD (2 ^ 19)
      let s := enterOrder (startSlot s k)
        { slot := k, op := .finish zones, nsx := x, zone := z, first := 0, count := 0, lba := slba.toNat }
      schSettle s (zones ++ s.nvme.cmds.map (·.zone)).eraseDups)

/-- ZONE_RESET (R289, R350, R374, R380): it completes after earlier commands of its zones. -/
def execZoneReset (slot : Fin 4096) (nsid : BitVec 32) (slba : BitVec 64) (all : Bool)
    (bands : List (Nat × Nat × Nat × Nat)) (s : State) : Result :=
  .next (onZones s slot.val nsid.toNat slba.toNat all
    (fun st => (1 ≤ st && st ≤ 4) || st = zsFull)
    fun s x zones =>
      let k := slot.val
      let s := cancelProv s fun l => zones.contains l.zone
      let z := zones.headD (2 ^ 19)
      let s := enterOrder s
        { slot := k, op := .reset zones bands, nsx := x, zone := z, first := 0, count := 0, lba := slba.toNat }
      schSettle s (zones ++ s.nvme.cmds.map (·.zone)).eraseDups)

/-- ZONE_OFFLINE (R350): from Read Only alone; its cached data goes with it (R346). -/
def execZoneOffline (slot : Fin 4096) (nsid : BitVec 32) (slba : BitVec 64) (all : Bool) (s : State) : Result :=
  .next (onZones s slot.val nsid.toNat slba.toNat all (fun st => st = zsReadOnly)
    fun s x zones =>
      endCmd (zones.foldl (fun s z => enterZoneState (discardZone s z) x z zsOffline) s) slot.val .success)

/-- ZONE_SET_DESC_EXT (R341, R346, R350). -/
def execZoneSetDescExt (slot : Fin 4096) (nsid : BitVec 32) (slba : BitVec 64) (s : State) : Result :=
  .next (onZones s slot.val nsid.toNat slba.toNat false (fun _ => true) fun s _ _ => endCmd s slot.val .invalidField)

/-- The zone states a reporting option of Zone Management Receive names, none for all. -/
def reportState (option : Nat) : Except HostStatus (Option Nat) :=
  match option with
  | 0 => .ok none
  | 1 => .ok (some zsEmpty)
  | 2 => .ok (some zsImplicit)
  | 3 => .ok (some zsExplicit)
  | 4 => .ok (some zsClosed)
  | 5 => .ok (some zsFull)
  | 6 => .ok (some zsReadOnly)
  | 7 => .ok (some zsOffline)
  | _ => .error .invalidField

/-- ZONE_REPORT (R347, R350). The answer: the number of zones, then for each its state, capacity, start LBA and write
pointer. -/
def execZoneReport (slot : Fin 4096) (nsid : BitVec 32) (slba : BitVec 64) (extended : Bool) (option : BitVec 8)
    (partialReport : Bool) (entries : Nat) (s : State) : Result :=
  .next (onNs (s.reply 0 []) slot.val nsid.toNat fun s _ n =>
    let k := slot.val
    let size := zoneSize n.kind
    if n.kind = 3 then endCmd s k .invalidOpcode
    else if n.conflict (hostOf s k) false then endCmd s k .reservationConflict
    else if n.zones.length * size ≤ slba.toNat then endCmd s k .lbaOutOfRange
    else if extended then endCmd s k .invalidField
    else match reportState option.toNat with
      | .error e => endCmd s k e
      | .ok want =>
        let zs := (List.zip (List.range n.zones.length) n.zones).drop (slba.toNat / size)
        let zs := zs.filter fun e => match want with
          | some st => (readEntry s e.2).1.state = st
          | none => true
        let shown := zs.take entries
        let s := countMoved s (portOf s (s.slot k).ctrl) true (64 + 64 * shown.length)
        let s := { s with answer := { s.answer with
          data := (if partialReport then shown.length else zs.length) :: shown.flatMap fun e =>
            let x := (readEntry s e.2).1
            [x.state, zoneCapacity n.kind, e.1 * size, e.1 * size + x.wp] } }
        endCmd s k .success)

/-! Reservations (R351). -/

/-- Tell the hosts `to` of a reservation's change, by kind: 1 registration preempted, 2 reservation released, 3
reservation preempted; a set mask bit of a controller keeps it out of that controller's log. -/
def notifyHosts (s : State) (nsx kind : Nat) (hosts : List Nat) : State :=
  [0, 1].foldl (fun s c => s.modNs nsx fun n =>
    if hosts.contains (s.ctl c).hostId && n.attached.contains c && !bit (sget 0 n.resMask c) kind then
      { n with resLog := n.resLog ++ [(c, kind)] } else n) s

/-- The reservation ends; the other registrants hear of it where its type concerns them. -/
def releaseReservation (s : State) (nsx host : Nat) : State :=
  match s.ns nsx with
  | none => s
  | some n =>
    let others := (n.registrants.map (·.1)).filter fun h => h ≠ host
    let t : Nat := (n.reservation.map (·.1)).getD 0
    let s := s.modNs nsx fun n => { n with reservation := none }
    if 3 ≤ t then notifyHosts s nsx 2 others else s

/-- The reservation generation counts on. -/
def resCount (s : State) (nsx : Nat) : State := s.modNs nsx fun n => { n with resGen := (n.resGen + 1) % 2 ^ 32 }

/-- Persist Through Power Loss as CPTPL says. -/
def setPersist (s : State) (nsx cptpl : Nat) : State :=
  if cptpl = 2 then s.modNs nsx fun n => { n with persist := false }
  else if cptpl = 3 then s.modNs nsx fun n => { n with persist := true } else s

/-- The registrants of a namespace whose host satisfies `p` leave; with its holder, or its last holder, goes the
reservation. -/
def unregister (s : State) (nsx : Nat) (p : Nat × Nat → Bool) : State :=
  match s.ns nsx with
  | none => s
  | some n =>
    let gone := n.registrants.filter p
    let s := s.modNs nsx fun n => { n with registrants := n.registrants.filter fun r => !p r }
    match n.reservation with
    | none => s
    | some (t, h) =>
      let ends := if t = 5 || t = 6 then n.registrants.all p else gone.any fun r => r.1 = h
      if ends then releaseReservation s nsx h else s

/-- RESERVATION_REGISTER (R351). -/
def execReservationRegister (slot : Fin 4096) (nsid : BitVec 32) (action : BitVec 3) (iekey : Bool) (cptpl : BitVec 2)
    (crkey nrkey : BitVec 64) (s : State) : Result :=
  .next (onNs s slot.val nsid.toNat fun s x n =>
    let k := slot.val
    let host := hostOf s k
    let key := (n.registrants.find? fun r => r.1 = host).map (·.2)
    let done := fun (s : State) => endCmd (resCount (setPersist s x cptpl.toNat) x) k .success
    let put := fun (s : State) => s.modNs x fun n => { n with
      registrants := n.registrants.filter (fun r => r.1 ≠ host) ++ [(host, nrkey.toNat)] }
    if action.toNat = 0 then
      match key with
      | none => done (put s)
      | some v => if v = nrkey.toNat then done s else endCmd s k .reservationConflict
    else if action.toNat = 1 then
      if key.isNone || (!iekey && key ≠ some crkey.toNat) then endCmd s k .reservationConflict
      else done (unregister s x fun r => r.1 = host)
    else if action.toNat = 2 then
      if !iekey && key ≠ some crkey.toNat then endCmd s k .reservationConflict
      else done (s.modNs x fun n => { n with
        registrants := if n.registered host then n.registrants.map fun r => if r.1 = host then (host, nrkey.toNat) else r
          else n.registrants ++ [(host, nrkey.toNat)] })
    else endCmd s k .invalidField)

/-- RESERVATION_REPORT (R351). The answer: generation, type, number of registrants, Persist Through Power Loss, then for
each registrant whether it holds the reservation, its host identifier and its key. -/
def execReservationReport (slot : Fin 4096) (nsid : BitVec 32) (s : State) : Result :=
  .next (onNs (s.reply 0 []) slot.val nsid.toNat fun s _ n =>
    let s := { s with answer := { s.answer with
      data := [n.resGen, (n.reservation.map (·.1)).getD 0, n.registrants.length, if n.persist then 1 else 0] ++
        n.registrants.flatMap fun r => [if n.holds r.1 then 1 else 0, r.1, r.2] } }
    endCmd s slot.val .success)

/-- The hosts of a namespace's registrants that satisfy `p` are preempted: they leave, hear of it, and with `abort`
their commands to the namespace end. -/
def preempt (s : State) (nsx host : Nat) (abort : Bool) (p : Nat × Nat → Bool) : State :=
  match s.ns nsx with
  | none => s
  | some n =>
    let gone := (n.registrants.filter fun r => p r && r.1 ≠ host).map (·.1)
    let s := notifyHosts s nsx 1 gone
    let s := s.modNs nsx fun n => { n with registrants := n.registrants.filter fun r => !gone.contains r.1 }
    if !abort then s
    else
      let l := s.nvme.cmds.filterMap fun c =>
        if c.nsx = nsx && c.slot < 4096 && gone.contains (s.ctl (s.slot c.slot).ctrl).hostId then some c.slot else none
      l.foldl (fun s k => killCmd s k .preemptedAbort) s

/-- A preemption takes the reservation (R351). -/
def preemptTake (s : State) (nsx host rtype : Nat) (abort : Bool) (p : Nat × Nat → Bool) : State :=
  let others := match s.ns nsx with
    | some n => (n.registrants.filter fun r => r.1 ≠ host && !p r).map (·.1)
    | none => []
  let changed : Bool := match s.ns nsx with
    | some n => decide ((n.reservation.map (·.1)).getD rtype ≠ rtype)
    | none => false
  let s := preempt s nsx host abort p
  let s := s.modNs nsx fun n => { n with reservation := some (rtype, host) }
  if changed then notifyHosts s nsx 2 others else s

/-- RESERVATION_ACQUIRE (R351). -/
def execReservationAcquire (slot : Fin 4096) (nsid : BitVec 32) (action : BitVec 3) (iekey : Bool) (rtype : BitVec 8)
    (crkey prkey : BitVec 64) (s : State) : Result :=
  .next (onNs s slot.val nsid.toNat fun s x n =>
    let k := slot.val
    let host := hostOf s k
    let t := rtype.toNat
    let abort := action.toNat = 2
    let named := fun (r : Nat × Nat) => decide (r.2 = prkey.toNat)
    let holderKey := n.reservation.bind fun v => (n.registrants.find? fun r => r.1 = v.2).map (·.2)
    if iekey || t = 0 || 6 < t || 2 < action.toNat then endCmd s k .invalidField
    else if !n.registrants.contains (host, crkey.toNat) then endCmd s k .reservationConflict
    else if action.toNat = 0 then
      match n.reservation with
      | none => endCmd (s.modNs x fun n => { n with reservation := some (t, host) }) k .success
      | some (u, _) => endCmd s k (if n.holds host && u = t then .success else .reservationConflict)
    else
      let done := fun (s : State) => endCmd (resCount s x) k .success
      match n.reservation with
      | none =>
        if n.registrants.any named then done (preempt s x host abort named) else endCmd s k .reservationConflict
      | some (u, _) =>
        if u = 5 || u = 6 then
          if prkey.toNat = 0 then done (preemptTake s x host t abort fun _ => true)
          else if n.registrants.any named then done (preempt s x host abort named)
          else endCmd s k .reservationConflict
        else if holderKey = some prkey.toNat then done (preemptTake s x host t abort named)
        else if prkey.toNat = 0 then endCmd s k .invalidField
        else if n.registrants.any named then done (preempt s x host abort named)
        else endCmd s k .reservationConflict)

/-- RESERVATION_RELEASE (R351). -/
def execReservationRelease (slot : Fin 4096) (nsid : BitVec 32) (action : BitVec 3) (iekey : Bool) (rtype : BitVec 8)
    (crkey : BitVec 64) (s : State) : Result :=
  .next (onNs s slot.val nsid.toNat fun s x n =>
    let k := slot.val
    let host := hostOf s k
    if iekey || 1 < action.toNat then endCmd s k .invalidField
    else if !n.registrants.contains (host, crkey.toNat) then endCmd s k .reservationConflict
    else if action.toNat = 1 then
      let others := (n.registrants.map (·.1)).filter fun h => h ≠ host
      let s := s.modNs x fun n => { n with reservation := none, registrants := [] }
      endCmd (resCount (notifyHosts s x 3 others) x) k .success
    else match n.reservation with
      | none => endCmd s k .success
      | some (t, _) =>
        if t ≠ rtype.toNat then endCmd s k .invalidField
        else if n.holds host then endCmd (releaseReservation s x host) k .success
        else endCmd s k .success)

end Sys2Proof.Machine
end

