-- ==== Sys2Proof/Machine/Logs.lean ====
section
/-! DEFINITION. The log pages, as bytes (chapter "Commands, namespaces and zones", R325, R335, R352; Weave Status, chapter
"The weave", R295). Where the spec does not lay a page out, it is laid out as the NVM Express specifications lay it out
(PRESUMED, log 35). -/

namespace Sys2Proof.Machine

open Sys2Proof

/-- A recovery start (R566). -/
def recovering (s : State) : Bool := s.get DOM.DOM_STAT.START_KIND = 3

/-- The log pages (R352). -/
def logPages : List Nat :=
  [0x00, 0x01, 0x02, 0x03, 0x04, 0x05, 0x06, 0x07, 0x08, 0x0C, 0x0D, 0x80, 0x81, 0xBF, 0xC1]

/-- Bytes at an offset behind what a page holds so far, zeros between. -/
def placed (l : List Nat) (off : Nat) (b : List Nat) : List Nat := l ++ List.replicate (off - l.length) 0 ++ b

/-- A page of `n` bytes, zeros behind what it holds. -/
def padTo (n : Nat) (l : List Nat) : List Nat := (l ++ List.replicate (n - l.length) 0).take n

/-- The number by which an answer names a status: Status Code Type x 256 + Status Code, as the NVM Express
specifications number them, and DNR as bit 14 (PRESUMED, log 35). -/
def HostStatus.code : HostStatus → Nat
  | .success => 0
  | .invalidOpcode => 1
  | .invalidField => 2
  | .commandIdConflict => 3
  | .internalError => 6
  | .abortRequested => 7
  | .abortedSqDeletion => 8
  | .invalidNamespaceOrFormat => 0x0B
  | .operationDenied => 0x15
  | .preemptedAbort => 0x1B
  | .sanitizeInProgress => 0x1D
  | .lbaOutOfRange => 0x80
  | .capacityExceeded => 0x81
  | .reservationConflict => 0x83
  | .formatInProgress => 0x84
  | .completionQueueInvalid => 0x100
  | .invalidQueueId => 0x101
  | .invalidQueueSize => 0x102
  | .abortLimitExceeded => 0x103
  | .aerLimitExceeded => 0x105
  | .invalidFirmwareSlot => 0x106
  | .invalidImage => 0x107
  | .invalidInterruptVector => 0x108
  | .invalidLogPage => 0x109
  | .invalidFormat => 0x10A
  | .invalidQueueDeletion => 0x10C
  | .notSaveable => 0x10D
  | .activationProhibited => 0x113
  | .overlappingRange => 0x114
  | .insufficientCapacity => 0x115
  | .idUnavailable => 0x116
  | .alreadyAttached => 0x118
  | .notAttached => 0x11A
  | .controllerListInvalid => 0x11C
  | .selfTestInProgress => 0x11D
  | .zoneBoundaryError => 0x1B8
  | .zoneIsFull => 0x1B9
  | .zoneIsReadOnly => 0x1BA
  | .zoneIsOffline dnr => 0x1BB + (if dnr then 0x4000 else 0)
  | .zoneInvalidWrite => 0x1BC
  | .tooManyActiveZones => 0x1BD
  | .tooManyOpenZones => 0x1BE
  | .invalidZoneTransition => 0x1BF
  | .unrecoveredRead => 0x281
  | .guardCheck => 0x282
  | .appTagCheck => 0x283
  | .refTagCheck => 0x284

/-- SMART / Health Information (R352): Critical Warning, Composite Temperature in kelvins, Available Spare, its
threshold, Percentage Used. -/
def smartData (s : State) : List Nat :=
  [s.nvme.warning, (signed 16 (s.get TMP.TMP_STAT.COMPOSITE) / 64 + 273).toNat, min 100 (sparePercent s), 10,
   min 255 (max (operatingHours s * 100 / 219000) (wearStat s % 2 ^ 22 * 100 / 100000))]

/-- A head-stack thermistor's temperature in kelvins, 0 while it is suspect (R352, R354). -/
def thermistor (s : State) (i : Nat) : Nat := if suspect s (40 + i) then 0 else (sensorVal s (40 + i) / 64 + 273).toNat

/-- The SMART / Health page (R352): beside the fields of the rule the power cycles, the hours of operation, the errors logged and
the thermistors. The other counters, which the spec gives no source, are a free value (log 35). -/
def smartPage (s : State) (n : Nat) : List Nat :=
  let v := fun (i : Nat) => (smartData s).getD i 0
  let free := fun (i k : Nat) => leBytes k (bits s.free (128 * i) (8 * k))
  let l := [v 0] ++ leBytes 2 (v 1) ++ [v 2, v 3, v 4, 0]
  let l := placed l 32 ((List.range 5).flatMap fun i => free i 16)
  let l := l ++ leBytes 16 (s.get EVR.CYCLES.COUNT) ++ leBytes 16 (operatingHours s) ++ free 5 16 ++ free 6 16
  let l := l ++ leBytes 16 (s.ctl n).errorCount ++ free 7 8
  padTo 512 (l ++ leBytes 2 (thermistor s 0) ++ leBytes 2 (thermistor s 1))

/-- Supported Log Pages (R352). -/
def supportedPage : List Nat := (List.range 256).flatMap fun l => leBytes 4 (if logPages.contains l then 1 else 0)

/-- Error Information (R352): 64 entries, newest first. An entry names no parameter; blocks and namespaces are not recorded. -/
def errorPage (s : State) (n : Nat) : List Nat :=
  let c := s.ctl n
  let one := fun (e : Nat × Nat × Nat × HostStatus) =>
    padTo 64 (leBytes 8 (c.errorCount - e.1) ++ leBytes 2 e.2.1 ++ leBytes 2 e.2.2.1 ++ leBytes 2 (2 * e.2.2.2.code) ++
      leBytes 2 0xFFFF)
  padTo 4096 ((List.zip (List.range c.errors.length) c.errors).flatMap one)

/-- The revision of a slot's image: MAJOR, MINOR and BUILD of its application core part as eight characters' bytes; zeros where
the slot holds none (R357; PRESUMED, log 35). -/
def slotRevision (s : State) (slot : Nat) : List Nat :=
  match (imageParts (slotImage s slot)).find? fun p => p.kind = 0 with
  | some p => padTo 8 (leBytes 2 p.major ++ leBytes 2 p.minor ++ leBytes 4 p.build)
  | none => List.replicate 8 0

/-- Firmware Slot Information (R352, R357, R358): the slot in force, the slot of the next start, the slots' revisions. -/
def firmwarePage (s : State) : List Nat :=
  padTo 512 (placed [s.nvme.activeSlot + 16 * s.nvme.nextSlot.getD 0] 8
    ([1, 2, 3, 4].flatMap (slotRevision s)))

/-- Commands Supported and Effects (R335, R341): CSUPP of each opcode of the admin and the I/O commands. -/
def effectsPage (s : State) (n : Nat) : List Nat :=
  let row := fun (p : Nat → Bool) => (List.range 256).flatMap fun op => leBytes 4 (if p op then 1 else 0)
  padTo 4096 (row (adminOpcode s n) ++ row (ioOpcode s n))

/-- A result of the Device Self-test page (R356). -/
def testEntry (t : TestResult) : List Nat :=
  let valid := if t.sector.isSome then 3 else 0
  let sector := t.sector.getD (0, 0)
  padTo 28 ([t.code * 16 + t.result, t.segment, valid, 0] ++ leBytes 8 t.hours ++ leBytes 4 sector.1 ++ leBytes 8 sector.2)

/-- Device Self-test (R352, R356): the test in progress, then 20 results, newest first; result 0xF marks an unused one. How far
a test has come the spec measures nowhere: a free value (log 92). -/
def testPage (s : State) : List Nat :=
  let done := s.nvme.testLog.flatMap testEntry
  let unused := (List.replicate (20 - s.nvme.testLog.length) (padTo 28 [0xF])).flatten
  [(s.nvme.selfTest.map (·.code)).getD 0, if s.nvme.selfTest.isSome then s.free % 101 else 0, 0, 0] ++ done ++ unused

/-- The records the event recorder has committed, oldest first, 32 bytes each (R352). -/
def recorderBytes (s : State) : List Nat := (evrRecords s).flatMap fun r => leBytes 32 (nvData s r.2)

/-- Telemetry (R352): the newest records of the recorder in data area 1, in blocks of 512 bytes, at most 2 MiB with the header;
areas 2 and 3 add nothing (DESIGN CHOICE, log 35). -/
def telemetryPage (s : State) (lid : Nat) : List Nat :=
  let all := recorderBytes s
  let l := all.drop (all.length - 32 * 65520)
  let blocks := (l.length + 511) / 512
  padTo (512 * (blocks + 1)) (placed (placed (placed [lid] 8 (leBytes 2 blocks ++ leBytes 2 blocks ++ leBytes 2 blocks)) 382
    [if blocks = 0 then 0 else 1]) 512 l)

/-- Persistent Event Log (R352): a header with the number of events, the page's length, the hours of operation and the power
cycles, then the recorder's records. -/
def persistentPage (s : State) : List Nat :=
  let l := recorderBytes s
  placed (placed ([0x0D, 0, 0, 0] ++ leBytes 4 (l.length / 32) ++ leBytes 8 (512 + l.length)) 28
    (leBytes 16 (operatingHours s) ++ leBytes 8 (s.get EVR.CYCLES.COUNT) ++ leBytes 2 s.fuses.vendor)) 512 l

/-- The ANA state of a namespace on a controller (R325): 1 optimized, 2 non-optimized, 0xF change. -/
def anaState (n : Ns) (c : Nat) : Nat := if n.moving.isSome then 0xF else if n.owner = some c then 1 else 2

/-- Asymmetric Namespace Access (R325): a group for each namespace attached. The change counts, which the spec does not give,
are a free value (log 35). -/
def anaPage (s : State) (n : Nat) : List Nat :=
  let l := (allNs s).filter fun e => e.2.attached.contains n
  let count := leBytes 8 (s.free % 2 ^ 64)
  padTo 16 (count ++ leBytes 2 l.length) ++ l.flatMap fun e =>
    padTo 32 (leBytes 4 (e.1 + 1) ++ leBytes 4 1 ++ count ++ [anaState e.2 n]) ++ leBytes 4 (e.1 + 1)

/-- The oldest reservation notification of controller `n` that has not been read: namespace index and kind (R351). -/
def oldestNotice (s : State) (n : Nat) : Option (Nat × Nat) :=
  (allNs s).findSome? fun e => (e.2.resLog.find? fun r => r.1 = n).map fun r => (e.1, r.2)

/-- Reservation Notification (R351, R352): one notification and how many there are. Its running number is a free value
(log 35). -/
def noticePage (s : State) (n : Nat) : List Nat :=
  match oldestNotice s n with
  | none => List.replicate 64 0
  | some e =>
    let count := ((allNs s).flatMap fun x => x.2.resLog.filter fun r => r.1 = n).length
    padTo 64 (leBytes 8 (s.free % 2 ^ 64) ++ [e.2, min 255 count, 0, 0] ++ leBytes 4 (e.1 + 1))

/-- Seconds one overwrite pass takes (R361): the bands of the populated surfaces at 0.85 s of lane time over eight lanes. -/
def overwriteSeconds (s : State) : Nat :=
  ((bitList 32 (s.get FMT.HEAD_EN.EN)).length * (14912 + 154 + 4 + 282) * 85 + 799) / 800

/-- Sanitize Status (R361): progress, status, the action's word, the estimated times. How far a sanitize in progress has come is
a free value (log 55). -/
def sanitizePage (s : State) : List Nat :=
  let z := s.nvme.sanitize
  let none := [0xFF, 0xFF, 0xFF, 0xFF]
  let action := (if z.passes = 0 then 4 else 3) + 16 * (z.passes % 16) + (if z.invert then 256 else 0)
  let passes := if z.running then s.free / 65536 % (z.passes + 1) else z.passes
  let status := if z.running then 2 else if z.completed = 0 then 0 else 1
  padTo 512 (leBytes 2 (if z.running then s.free % 65536 else 65535) ++ leBytes 2 (status + 8 * passes) ++
    leBytes 4 (if z.running || z.completed ≠ 0 then action else 0) ++
    leBytes 4 (overwriteSeconds s) ++ none ++ leBytes 4 3 ++ none ++ none ++ none)

/-- The Changed Zone List of a namespace (R345, R352): 511 entries; a longer list reports 0xFFFF. -/
def changedPage (x : Ns) : List Nat :=
  if 511 < x.changed.length then padTo 4096 (leBytes 2 0xFFFF)
  else padTo 4096 (placed (leBytes 2 x.changed.length) 8 (x.changed.flatMap fun z => leBytes 8 (x.zones.idxOf z * zoneSize x.kind)))

/-- Put a degraded zone among others, by its number. -/
def zoneInsert (x : Nat × Nat × Nat × ZoneEntry) : List (Nat × Nat × Nat × ZoneEntry) → List (Nat × Nat × Nat × ZoneEntry)
  | [] => [x]
  | y :: ys => if x.2.2.1 < y.2.2.1 then x :: y :: ys else y :: zoneInsert x ys

/-- An entry of Weave Status (R295): ZSLBA, NSID, LOST, STATE, PROGRESS. -/
def weaveEntry (s : State) (e : Nat × Nat × Nat × ZoneEntry) : List Nat :=
  let x := e.2.2.2
  let mine := s.sch.rebuild.filter fun b => b.zone = e.2.2.1
  leBytes 8 e.2.1 ++ leBytes 4 e.1 ++ leBytes 2 (x.lostStrands.foldl (fun m w => setBit m w true) 0) ++
    [12 - dataStrands x.kind - x.lostStrands.length + (if relaxed x then 16 else 0) + (if mine.isSome then 32 else 0),
      (mine.map fun b => min 100 (b.row * 100 / max 1 (rebuildRows x))).getD 0]

/-- Weave Status (R295). -/
def weavePage (s : State) : List Nat :=
  let v := fun (i : Nat) => (weaveHeader s).getD i 0
  let head := ([0, 1, 2, 3, 4, 5, 6].flatMap fun i => leBytes 4 (v i)) ++ leBytes 4 (min s.sch.reconReads 0xFFFFFFFF) ++
    leBytes 8 s.sch.rebuilt ++ leBytes 4 (v 7) ++ leBytes 4 (v 8) ++ leBytes 4 (v 9)
  padTo 64 head ++ ((degradedZones s).foldl (fun l x => zoneInsert x l) []).flatMap (weaveEntry s)

/-- What a log page holds for controller `n` (R352). The telemetry pages and the Persistent Event Log hold the records
that the event recorder has committed. -/
def logData (s : State) (n lid nsid : Nat) : Except HostStatus (List Nat) :=
  if recovering s && lid ≠ 3 then .error .invalidLogPage
  else match lid with
  | 0x00 => .ok supportedPage
  | 0x01 => .ok (errorPage s n)
  | 0x02 => .ok (smartPage s n)
  | 0x03 => .ok (firmwarePage s)
  | 0x04 => .ok (padTo 4096 ((sget [] s.nvme.nsChanged n).flatMap fun x => leBytes 4 (x + 1)))
  | 0x05 => .ok (effectsPage s n)
  | 0x06 => .ok (testPage s)
  | 0x07 | 0x08 => .ok (telemetryPage s lid)
  | 0x0C => .ok (anaPage s n)
  | 0x0D => .ok (persistentPage s)
  | 0x80 => .ok (noticePage s n)
  | 0x81 => .ok (sanitizePage s)
  | 0xBF =>
    match s.ns (nsid - 1) with
    | some x => if nsid = 0 || x.kind = 3 then .error .invalidField else .ok (changedPage x)
    | none => .error .invalidNamespaceOrFormat
  | 0xC1 => .ok (weavePage s)
  | _ => .error .invalidLogPage

/-- The kinds of event whose next report waits for a log page (R353). -/
def logEvents (lid : Nat) : List HostEvent :=
  match lid with
  | 0x01 => [.invalidDoorbell, .invalidDoorbellValue]
  | 0x02 => [.reliability, .temperature, .spare]
  | 0x03 => [.firmwareActivation]
  | 0x04 => [.nsAttributeChanged]
  | 0x0C => [.anaChange]
  | 0xBF => [.zoneChanged]
  | 0xC1 => [.weaveStatus]
  | _ => []

end Sys2Proof.Machine
end

