-- ==== Sys2Proof/Machine/Admin.lean ====
section
/-! DEFINITION. The admin commands: Identify, logs, features, namespaces, formats, self-tests, security, sanitize
(chapter "Commands, namespaces and zones"; protocols, chapter "Identity, boot trust and protection"). A data structure is
answered as the list of its fields' values in the order the rule gives them. What the NVM Express specifications fix
beyond the spec's words is PRESUMED (log 35). -/

namespace Sys2Proof.Machine

open Sys2Proof

/-- Act on an admin command that a sanitize holds off (R361). -/
def onAdminIdle (s : State) (k : Nat) (f : State → Nat → State) : State :=
  onAdmin s k fun s n => if s.nvme.sanitize.running then endCmd s k .sanitizeInProgress else f s n

/-- Act on a primary-only command (R335). -/
def onPrimary (s : State) (k : Nat) (f : State → State) : State :=
  onAdminIdle s k fun s n => if n = 0 then f s else endCmd s k .invalidOpcode

/-- Answer a command with data and end it. -/
def endWith (s : State) (k : Nat) (data : List Nat) (dw0 : Nat := 0) : State :=
  endCmd { s with answer := { s.answer with data := s.answer.data ++ data } } k .success dw0

/-! Identify (R325, R335-R344). -/

/-- OACS of a controller (R336). -/
def oacs (n : Nat) : Nat := if n = 0 then 0x001F else 0x0017

/-- Identify Controller (R325, R336, R566): the serial number, CNTLID, MDTS, OACS, ACL, AERL, FRMW, LPA, ELPE, NPSS, MTFA, WCTEMP, CCTEMP, SANICAP,
ANATT, ANACAP, ANAGRPMAX, NANAGRPID, SQES, CQES, MAXCMD, NN, MNAN, ONCS, FNA, VWC, FUSES, FWUG (R357). In a recovery start
only the serial number, MDTS and FRMW report anything. -/
def controllerData (s : State) (n : Nat) : List Nat :=
  if recovering s then [s.fuses.serial, 0, 8, 0, 0, 0, 0x19] ++ List.replicate 21 0
  else [s.fuses.serial, n, 8, oacs n, 15, 15, 0x19, 0x2E, 63, 2, 10, 378, 393, 0x00000005, 1, 0x4B, 64, 64, 0x66, 0x44, 4096, 64, 64, 0x00F8,
   0x04, 0x07, 0, 1]

/-- The command set identifier of a namespace (R337). -/
def Ns.csi (n : Ns) : Nat := if n.kind = 3 then 0 else 2

/-- Identify Namespace (R325, R338, R340, R343): NSZE, NCAP, FLBAS, DPS, NMIC, ANAGRPID, DLFEAT, WEAVE, VERIFIED. -/
def nsData (x : Nat) (n : Ns) : List Nat :=
  let size := n.zones.length * zoneSize n.kind
  [size, size, n.lbaf + (if n.ext then 16 else 0), n.prot, 1, x + 1, 1, if woven n.kind then n.kind else 0, if n.verified then 1 else 0]

/-- The zoned part of Identify Namespace (R343, R344): zone size, MAR, MOR, Read Across Zone Boundaries, ZDES. -/
def zonedData (n : Ns) : List Nat := [zoneSize n.kind, 1023, 1023, 0, 0]

/-- NSIDs above one, at most 1,024. -/
def nsList (s : State) (above : Nat) (p : Ns → Bool) : List Nat :=
  (((allNs s).filter fun e => above < e.1 + 1 && p e.2).map fun e => e.1 + 1).take 1024

/-- The namespace an Identify names: zeros stand for one that is not there. -/
def nsReply (s : State) (nsid : Nat) (p : Ns → Bool) (f : Nat → Ns → List Nat) : Except HostStatus (List Nat) :=
  if nsid = 0 || 64 < nsid then .error .invalidNamespaceOrFormat
  else match s.ns (nsid - 1) with
    | some n => .ok (if p n then f (nsid - 1) n else [])
    | none => .ok []

/-- What Identify returns on controller `n` (R335, R336): any other CNS is Invalid Field in Command. A controller list is the
number of its entries and the identifiers, from `cntid` on. -/
def identifyData (s : State) (n cns nsid csi cntid : Nat) : Except HostStatus (List Nat) :=
  let here := fun (x : Ns) => x.attached.contains n
  let ctrls := fun (p : Nat → Bool) => let l := [0, 1].filter fun c => p c && decide (cntid ≤ c); l.length :: l
  if recovering s && cns ≠ 1 then .error .invalidField
  else match cns with
  | 0x00 => if nsid = 0xFFFFFFFF then .ok [] else nsReply s nsid here nsData
  | 0x01 => .ok (controllerData s n)
  | 0x02 => .ok (nsList s nsid here)
  | 0x03 => nsReply s nsid here fun _ x => [x.csi]
  | 0x05 => nsReply s nsid (fun x => here x && x.csi = csi) fun _ x => if csi = 2 then zonedData x else []
  | 0x06 => if csi = 2 then .ok [6] else if csi = 0 then .ok [] else .error .invalidField
  | 0x07 => .ok (nsList s nsid fun x => here x && x.csi = csi)
  | 0x08 => nsReply s nsid here fun x _ => [1, x + 1]
  | 0x10 => .ok (nsList s nsid fun _ => true)
  | 0x11 => nsReply s nsid (fun _ => true) nsData
  | 0x12 => nsReply s nsid (fun _ => true) fun _ x => ctrls x.attached.contains
  | 0x13 => .ok (ctrls fun _ => true)
  | 0x1C => .ok [0, 2]
  | _ => .error .invalidField

/-- IDENTIFY (R335, R336). -/
def execIdentify (slot : Fin 4096) (cns : BitVec 8) (nsid : BitVec 32) (csi : BitVec 8) (cntid : BitVec 16) (s : State) :
    Result :=
  .next (onAdmin (s.reply 0 []) slot.val fun s n =>
    match identifyData s n cns.toNat nsid.toNat csi.toNat cntid.toNat with
    | .ok d => endWith (countMoved s (portOf s n) true 4096) slot.val d
    | .error e => endCmd s slot.val e)

/-! Logs (R335, R352). -/

/-- Reading a log page clears what the page lists as new, and lets its events be reported again. -/
def logRead (s : State) (n lid nsid : Nat) (rae : Bool) : State :=
  let s := if rae then s
    else reportWaiting (s.setCtl n { s.ctl n with muted := (s.ctl n).muted.filter fun e => !(logEvents lid).contains e }) n
  let s := if lid = 0x02 || lid = 0x0C || lid = 0x80 || (lid = 0x81 && s.nvme.sanitize.running) then s.drawn else s
  if lid = 0x04 then { s with nvme := { s.nvme with nsChanged := sset [] s.nvme.nsChanged n [] } }
  else if lid = 0xBF then s.modNs (nsid - 1) fun x => { x with changed := [] }
  else if lid = 0x80 then
    match oldestNotice s n with
    | some e => s.modNs e.1 fun x => { x with resLog := x.resLog.erase (n, e.2) }
    | none => s
  else s

/-- GET_LOG_PAGE (R333, R335, R352): the page's bytes from an offset on, as many as the host asks for. An offset beyond the
page's end is Invalid Field in Command (PRESUMED, log 35). -/
def execGetLogPage (slot : Fin 4096) (lid : BitVec 8) (nsid : BitVec 32) (offset : BitVec 64) (numd : BitVec 32) (rae : Bool)
    (s : State) : Result :=
  .next (onAdmin (s.reply 0 []) slot.val fun s n =>
    if offset.toNat % 4 ≠ 0 then endCmd s slot.val .invalidField
    else match logData s n lid.toNat nsid.toNat with
      | .error e => endCmd s slot.val e
      | .ok d =>
        if d.length < offset.toNat then endCmd s slot.val .invalidField
        else
          let l := (d.drop offset.toNat).take (4 * (numd.toNat + 1))
          endWith (countMoved (logRead s n lid.toNat nsid.toNat rae) (portOf s n) true l.length) slot.val l)

/-! Features (R302, R314, R317, R326, R351, R353-R355). -/

/-- The features (R354). -/
def featureIds : List Nat :=
  [0x01, 0x02, 0x04, 0x05, 0x06, 0x07, 0x08, 0x09, 0x0A, 0x0B, 0x0E, 0x16, 0x19, 0x81, 0x82, 0x83, 0xC0]

/-- Saveable ones (R354). -/
def saveable (fid : Nat) : Bool := [0x01, 0x02, 0x04, 0x06, 0x08, 0x0B, 0x82].contains fid

/-- The events an Asynchronous Event Configuration enables (PRESUMED, log 35). -/
def wantedEvents (v : Nat) : List HostEvent :=
  (if bit v 0 then [.spare] else []) ++ (if bit v 1 then [.temperature] else []) ++ (if bit v 2 then [.reliability] else []) ++
    (if bit v 8 then [.nsAttributeChanged] else []) ++
    (if bit v 9 then [.firmwareActivation] else []) ++ (if bit v 11 then [.anaChange] else []) ++
    (if bit v 27 then [.zoneChanged] else [])

/-- The threshold a Temperature Threshold word selects: sensor and limit, of 0 composite, 1, 2 the thermistors. -/
def thresholdKey (v : Nat) : Nat := 0x0400 + bits v 16 4 * 4 + bits v 20 2

/-- Keep a value of a feature that has no other effect: per device. -/
def keepFeature (s : State) (key v : Nat) : State :=
  { s with nvme := { s.nvme with features := sset 0 s.nvme.features key v } }

/-- Put a notification mask or a persistence into the namespaces an NSID names. -/
def eachNs (s : State) (nsid : Nat) (f : Ns → Ns) : Except HostStatus State :=
  if nsid = 0xFFFFFFFF then .ok ((allNs s).foldl (fun s e => s.modNs e.1 f) s)
  else if nsid = 0 || 64 < nsid then .error .invalidNamespaceOrFormat
  else match s.ns (nsid - 1) with
    | some _ => .ok (s.modNs (nsid - 1) f)
    | none => .error .invalidField

/-- The default of a feature: the write cache on (R354), the composite temperature's upper threshold WCTEMP (R336), the
thermistors' out of reach, else 0 (log 78). -/
def featureDefault (fid v : Nat) : Nat :=
  if fid = 0x06 then 1 else if fid = 0x07 then 0x07FE07FE
  else if fid = 0x04 && bits v 20 2 = 0 then (if bits v 16 4 = 0 then 378 else 0xFFFF) else 0

/-- A temperature in kelvins is at or beyond a limit of sensor `i`: 0 composite, 1, 2 the thermistors (R353, R354; log 78). -/
def beyondLimit (s : State) (i : Nat) (k : Int) : Bool :=
  let lim := fun (which : Nat) =>
    let v := i * 2 ^ 16 + which * 2 ^ 20
    ((sget (featureDefault 0x04 v) s.nvme.features (thresholdKey v) : Nat) : Int)
  decide (lim 0 ≤ k) || decide (k ≤ lim 1)

/-- Critical Warning bit 1 follows the temperatures and their thresholds (R352-R354; log 78). -/
def thermalWarning (s : State) : State :=
  let hot := beyondLimit s 0 (signed 16 (s.get TMP.TMP_STAT.COMPOSITE) / 64 + 273) ||
    [0, 1].any fun i => !suspect s (40 + i) && beyondLimit s (i + 1) (sensorVal s (40 + i) / 64 + 273)
  if hot then criticalWarning s 1 else { s with nvme := { s.nvme with warning := setBit s.nvme.warning 1 false } }

/-- TMP_SAMPLE (R353, R507): the sensors, the checks, the limits, the corrections, CAL's comparison, the host's warning. -/
def execTmpSample (readings : Vector (BitVec 16) 40) (th0 th1 : BitVec 12) (s : State) : Result :=
  .next (if working s tmpPage then thermalWarning (calSample (sampleAll readings th0.toNat th1.toNat s)) else s)

/-- Set a feature of controller `n` (R354); `fid` 0xC0 has a command of its own. -/
def setFeature (s : State) (n fid nsid v : Nat) (data : List Nat) : Except HostStatus State :=
  let c := s.ctl n
  match fid with
  | 0x01 => .ok ((((s.put HQ.ARB.AB (bits v 0 3) n).put HQ.ARB.LPW (bits v 8 8) n).put HQ.ARB.MPW (bits v 16 8) n).put
      HQ.ARB.HPW (bits v 24 8) n)
  | 0x02 =>
    if 2 < bits v 0 5 || bits v 5 3 ≠ 0 then .error .invalidField
    else
      let p := bits v 0 5
      .ok { s with nvme := { s.nvme with
        power := p, operational := if p = 2 then s.nvme.operational else p, asleep := s.nvme.asleep || p = 2 } }
  | 0x04 =>
    if bits v 16 4 = 15 then .ok (thermalWarning
      ([0, 1, 2].foldl (fun s k => keepFeature s (0x0400 + k * 4 + bits v 20 2) (bits v 0 16)) s))
    else if 2 < bits v 16 4 || 1 < bits v 20 2 then .error .invalidField
    else .ok (thermalWarning (keepFeature s (thresholdKey v) (bits v 0 16)))
  | 0x05 => if bits v 0 17 ≠ 0 then .error .invalidField else .ok s
  | 0x06 => .ok { s with nvme := { s.nvme with cacheOff := !bit v 0 } }
  | 0x07 => .ok s
  | 0x08 => .ok (s.setCtl n { c with coalesce := (bits v 0 8, bits v 8 8) })
  | 0x09 =>
    let iv := bits v 0 16
    if c.vectors ≤ iv then .error .invalidField
    else .ok (s.setCtl n { c with
      uncoalesced := if bit v 16 then (if c.uncoalesced.contains iv then c.uncoalesced else c.uncoalesced ++ [iv])
        else c.uncoalesced.filter fun x => x ≠ iv })
  | 0x0A => .ok (s.setCtl n { c with features := sset 0 c.features 0x0A v })
  | 0x0B => .ok (s.setCtl n { c with wanted := wantedEvents v, features := sset 0 c.features 0x0B v })
  | 0x0E => .ok { s with nvme := { s.nvme with timestamp := leNat (data.take 6) } }
  | 0x16 => .ok s
  | 0x19 => if bits v 0 9 ≠ 0 then .error .invalidField else .ok s
  | 0x81 => .ok (s.setCtl n { c with hostId := leNat (data.take (if bit v 0 then 16 else 8)) })
  | 0x82 => eachNs s nsid fun x => { x with resMask := sset 0 x.resMask n (bits v 1 3 * 2) }
  | 0x83 => eachNs s nsid fun x => { x with persist := bit v 0 }
  | _ => .error .invalidField

/-- Move a namespace's ownership (R326): the old owner's zone writes end first. -/
def moveOwner (s : State) (k nsid ctrl : Nat) : State :=
  if nsid = 0 || 64 < nsid then endCmd s k .invalidNamespaceOrFormat
  else match s.ns (nsid - 1) with
    | none => endCmd s k .invalidField
    | some n =>
      if n.moving.isSome then s
      else if !n.attached.contains ctrl then endCmd s k .invalidField
      else if n.owner = some ctrl then endCmd s k .success
      else settleMoves (startSlot (s.modNs (nsid - 1) fun n => { n with moving := some (ctrl, some k) }) k)

/-- What of a feature is saved for itself (R354): Arbitration, Interrupt Coalescing and Asynchronous Event Configuration for each
controller, the Reservation Notification Mask for each namespace and controller, each sensor's two thresholds, the others for
the device: identifier + 256 x which. -/
def savedKeys (s : State) (n fid nsid v : Nat) : List Nat :=
  if fid = 0x01 || fid = 0x08 || fid = 0x0B then [fid + 256 * n]
  else if fid = 0x82 then
    (if nsid = 0xFFFFFFFF then (allNs s).map (·.1) else [nsid - 1]).map fun x => fid + 256 * (2 * x + n)
  else if fid = 0x04 then
    (if bits v 16 4 = 15 then [0, 1, 2] else [bits v 16 4]).map fun i => fid + 256 * (4 * i + bits v 20 2)
  else [fid]

/-- Save a feature's value (R354): a threshold with the sensor and the limit it is for. -/
def saveFeature (s : State) (n fid nsid v : Nat) : State :=
  let put := fun (m : Sparse (Option Nat)) (k : Nat) =>
    sset none m k (some (if fid = 0x04 then bits v 0 16 + k / 256 / 4 * 2 ^ 16 + k / 256 % 4 * 2 ^ 20 else v))
  { s with nvme := { s.nvme with saved := (savedKeys s n fid nsid v).foldl put s.nvme.saved } }

/-- The saved value of a feature, none where nothing has been saved (R354). -/
def savedValue (s : State) (n fid nsid v : Nat) : Option Nat :=
  (savedKeys s n fid nsid v).head?.bind fun k => sget none s.nvme.saved k

/-- SET_FEATURES (R302, R354). A save of what is not saveable changes nothing. -/
def execSetFeatures (slot : Fin 4096) (fid : BitVec 8) (nsid : BitVec 32) (save : Bool) (dw11 : BitVec 32)
    (data : List Byte) (s : State) : Result :=
  .next (onAdmin s slot.val fun s n =>
    let k := slot.val
    let f := fid.toNat
    if !featureIds.contains f then endCmd s k .invalidField
    else if save && !saveable f then endCmd s k .notSaveable
    else if f = 0xC0 then moveOwner s k nsid.toNat (dw11.toNat % 2)
    else match setFeature s n f nsid.toNat dw11.toNat (data.map (·.toNat)) with
      | .error e => endCmd s k e
      | .ok s => endCmd (if save then saveFeature s n f nsid.toNat dw11.toNat else s) k .success (if f = 7 then 0x07FE07FE else 0))

/-- ANA_OWNER_SET (R326, R354). -/
def execAnaOwnerSet (slot : Fin 4096) (nsid : BitVec 32) (ctrl : Fin 2) (s : State) : Result :=
  .next (onAdmin s slot.val fun s _ => moveOwner s slot.val nsid.toNat ctrl.val)

/-- The current value of a feature of controller `n`; `v` is Dword 11 of the Get (R354). -/
def featureValue (s : State) (n fid nsid v : Nat) : Except HostStatus Nat :=
  let c := s.ctl n
  let ofNs := fun (f : Ns → Nat) => if nsid = 0 || 64 < nsid then Except.error HostStatus.invalidNamespaceOrFormat
    else match s.ns (nsid - 1) with
      | some x => Except.ok (f x)
      | none => Except.error HostStatus.invalidField
  match fid with
  | 0x01 => .ok (s.get HQ.ARB.AB n + s.get HQ.ARB.LPW n * 2 ^ 8 + s.get HQ.ARB.MPW n * 2 ^ 16 + s.get HQ.ARB.HPW n * 2 ^ 24)
  | 0x02 => .ok s.nvme.power
  | 0x04 =>
    if 2 < bits v 16 4 || 1 < bits v 20 2 then .error .invalidField
    else .ok (sget (featureDefault 0x04 v) s.nvme.features (thresholdKey v))
  | 0x05 => .ok 0
  | 0x06 => .ok (if s.nvme.cacheOff then 0 else 1)
  | 0x07 => .ok 0x07FE07FE
  | 0x08 => .ok (c.coalesce.1 + c.coalesce.2 * 2 ^ 8)
  | 0x09 => .ok (bits v 0 16 + (if c.uncoalesced.contains (bits v 0 16) then 2 ^ 16 else 0))
  | 0x0A => .ok (sget 0 c.features 0x0A)
  | 0x0B => .ok (sget 0 c.features 0x0B)
  | 0x0E => .ok s.nvme.timestamp
  | 0x16 => .ok 0
  | 0x19 => .ok 0
  | 0x81 => .ok c.hostId
  | 0x82 => ofNs fun x => sget 0 x.resMask n
  | 0x83 => ofNs fun x => if x.persist then 1 else 0
  | 0xC0 => ofNs fun x => x.owner.getD 0
  | _ => .error .invalidField

/-- A feature is kept per namespace. -/
def featureOfNs (fid : Nat) : Bool := fid = 0x82 || fid = 0x83 || fid = 0xC0

/-- GET_FEATURES (R354): capabilities are bit 0 saveable, bit 1 per namespace, bit 2 changeable. -/
def execGetFeatures (slot : Fin 4096) (fid : BitVec 8) (nsid : BitVec 32) (sel : BitVec 3) (dw11 : BitVec 32) (s : State) :
    Result :=
  .next (onAdmin (s.reply 0 []) slot.val fun s n =>
    let k := slot.val
    let f := fid.toNat
    let give := fun (v : Nat) => endWith s k [v] (v % 2 ^ 32)
    if !featureIds.contains f || 3 < sel.toNat then endCmd s k .invalidField
    else if sel.toNat = 1 then give (featureDefault f dw11.toNat)
    else if sel.toNat = 2 then give ((savedValue s n f nsid.toNat dw11.toNat).getD (featureDefault f dw11.toNat))
    else if sel.toNat = 3 then give ((if saveable f then 1 else 0) + (if featureOfNs f then 2 else 0) + 4)
    else match featureValue s n f nsid.toNat dw11.toNat with
      | .ok v => give v
      | .error e => endCmd s k e)

/-- Load the saved features at a start (R354). -/
def loadSaved (s : State) : State :=
  s.nvme.saved.foldl (fun s e => match e.2 with
    | none => s
    | some v =>
      let fid := e.1 % 256
      let x := e.1 / 256
      match setFeature s (if fid = 0x04 then 0 else x % 2) fid (x / 2 + 1) v [] with
      | .ok s => s
      | .error _ => s) s

/-! Namespaces (R85, R267, R326, R337-R339). -/

/-- KIND of a namespace by its command set and WEAVE (R337, R338). -/
def kindOf (csi weave : Nat) : Nat := if csi = 0 then 3 else weave

/-- Band `j` of rate band `k` lies where the format puts conventional bands (R82). -/
def convPlace (k j : Nat) : Bool :=
  (21 ≤ k && k ≤ 27 && k ≠ 24 && decide (j < 22)) || (k = 24 && 8 ≤ j && decide (j < 30))

/-- It lies where the format puts spare bands (R82). -/
def sparePlace (k j : Nat) : Bool := 314 ≤ j && j < 320 && k ≠ 24

/-- It lies where the format puts refuge or system bands (R82). -/
def keptPlace (k j : Nat) : Bool := (j = 160 && [4, 16, 28, 40].contains k) || (k = 24 && decide (j < 8))

/-- A band may hold a strand of a zone of this kind: free, on a head that exists, where the format puts bands of its kind, or a
spare band that was taken and given back (R82, R85, R88). -/
def bandFits (s : State) (kind head band : Nat) : Bool :=
  let n := s.get FMT.BANDS_PER_RB.COUNT
  let k := band / max 1 n
  let j := band % max 1 n
  bit (s.get FMT.HEAD_EN.EN) head && head < 32 && decide (band < n * 48) && (readBand s head band).1.1.kind = 0 &&
    (sparePlace k j || (if kind = 3 then convPlace k j else !convPlace k j && !keptPlace k j))

/-- The bands firmware takes for a zone may hold it (R82, R85, R88, R267): strand s of a woven zone on actuator s mod 4,
twelve heads. -/
def placeOk (s : State) (kind : Nat) (l : List (Nat × Nat)) : Bool :=
  l.length = (if woven kind then 12 else 1) && (l.all fun e => bandFits s kind e.1 e.2) &&
    (!woven kind || ((List.zip (List.range 12) l).all (fun e => e.2.1 / 8 = e.1 % 4) && (l.map (·.1)).eraseDups.length = 12))

/-- The populated heads with the bands on each that may hold a strand of this kind. -/
def freeOn (s : State) (kind : Nat) : List (Nat × List Nat) :=
  (bitList 32 (s.get FMT.HEAD_EN.EN)).map fun h =>
    (h, (List.range (s.get FMT.BANDS_PER_RB.COUNT * 48)).filter fun b => bandFits s kind h b)

/-- Of the heads that satisfy `p`, one with the most bands left: head and band. -/
def mostLeft (l : List (Nat × List Nat)) (p : Nat → Bool) : Option (Nat × Nat) :=
  let best := (l.filter fun e => p e.1).foldl (fun (m : Nat × List Nat) e => if m.2.length < e.2.length then e else m) (0, [])
  best.2.head?.map fun b => (best.1, b)

/-- Bands for the strands `ws` of a zone, the strands before them on the heads `used`; and what is left (R267). -/
def findStrands (each : Bool) : List Nat → List Nat → List (Nat × List Nat) → Option (List (Nat × Nat) × List (Nat × List Nat))
  | [], _, l => some ([], l)
  | w :: ws, used, l =>
    match mostLeft l fun h => !each || (h / 8 = w % 4 && !used.contains h) with
    | none => none
    | some x =>
      let l := l.map fun e => if e.1 = x.1 then (e.1, e.2.drop 1) else e
      (findStrands each ws (x.1 :: used) l).map fun r => (x :: r.1, r.2)

/-- Bands for `n` zones: on each actuator the heads with the most bands left are taken, so that none is found only where there
is none (R267, R338). -/
def findPlace (kind : Nat) : Nat → List (Nat × List Nat) → Option (List (List (Nat × Nat)))
  | 0, _ => some []
  | n + 1, l =>
    match findStrands (woven kind) (List.range (if woven kind then 12 else 1)) [] l with
    | none => none
    | some r => (findPlace kind n r.2).map fun p => r.1 :: p

/-- The bands that `n` zones of a new namespace take (R338): those firmware names, if they fit, else others that do. -/
def createPlace (s : State) (kind n : Nat) (place : List (List (Nat × Nat))) : Option (List (List (Nat × Nat))) :=
  if place.length = n && place.all (placeOk s kind) && place.flatten.eraseDups.length = place.flatten.length then some place
  else findPlace kind n (freeOn s kind)

/-- Device zones no namespace holds, lowest first. -/
def freeZones (s : State) (n : Nat) : List Nat :=
  let used := (allNs s).flatMap fun e => e.2.zones
  ((List.range (min (s.get FMT.ZONE_COUNT.COUNT) 524288)).filter fun z => !used.contains z).take n

/-- Write a new zone's map entry, Empty, and its bands' table entries (R87, R88). -/
def makeZone (nsx kind : Nat) (verified : Bool) (s : State) (e : Nat × List (Nat × Nat)) : State :=
  let bands := e.2.map fun x => x.1 * 2 ^ 27 + x.2 * 2 ^ 12
  let bytes := [zsEmpty + 16 * kind, nsx + (if verified then 64 else 0), 0, 0] ++ List.replicate 12 0 ++
    (bands ++ List.replicate (12 - bands.length) 0).flatMap (leBytes 4)
  let s := rewriteEntry s e.1 0 bytes
  e.2.foldl (fun s x =>
    let b := readBand s x.1 x.2
    memWrite b.2 (bandEntryAddr b.2 x.1 x.2) { b.1.1 with kind := if kind = 3 then 2 else 1, zone := e.1 }.bytes) s

/-- What a create is checked for, in order (R338, R340). -/
def createCheck (s : State) (csi nsze ncap flbas dps weave : Nat) (place : List (List (Nat × Nat))) : Option HostStatus :=
  let kind := kindOf csi weave
  let n := nsze / zoneSize kind
  if (csi ≠ 0 && csi ≠ 2) || (csi = 2 && weave = 3) then some .invalidField
  else if ncap ≠ nsze || nsze = 0 || nsze % zoneSize kind ≠ 0 then some .invalidField
  else if 3 < flbas % 16 || flbas / 32 ≠ 0 then some .invalidFormat
  else if 3 < dps % 8 || (flbas % 16 = 0 && dps % 8 ≠ 0) || (flbas % 16 = 1 && bit dps 3) then some .invalidField
  else if (createPlace s kind n place).isNone || (freeZones s n).length ≠ n then some .insufficientCapacity
  else if ((List.range 64).find? fun k => (s.ns k).isNone).isNone then some .idUnavailable
  else none

/-- NS_CREATE (R267, R325, R337, R338, R340): Dword 0 gives the NSID. -/
def execNsCreate (slot : Fin 4096) (csi : BitVec 8) (nsze ncap : BitVec 64) (flbas dps : BitVec 8) (weave : BitVec 2)
    (verified : Bool) (place : List (List (Nat × Nat))) (s : State) : Result :=
  .next (onPrimary s slot.val fun s =>
    let k := slot.val
    let kind := kindOf csi.toNat weave.toNat
    match createCheck s csi.toNat nsze.toNat ncap.toNat flbas.toNat dps.toNat weave.toNat place,
        (List.range 64).find? fun k => (s.ns k).isNone with
    | some st, _ => endCmd s k st
    | none, none => endCmd s k .idUnavailable
    | none, some x =>
      let place := (createPlace s kind (nsze.toNat / zoneSize kind) place).getD []
      let zones := freeZones s place.length
      let s := (List.zip zones place).foldl (makeZone x kind verified) s
      let s := s.setNs x (some { kind := kind, verified := verified, lbaf := flbas.toNat % 16, prot := dps.toNat % 16, ext := bit flbas.toNat 4
                                 zones := zones })
      endCmd (nsAttributeChanged (replaceKey s x) x) k .success (x + 1))

/-- NS_DELETE (R339): it completes after every command to the namespaces that holds a slot. -/
def execNsDelete (slot : Fin 4096) (nsid : BitVec 32) (s : State) : Result :=
  .next (onPrimary s slot.val fun s =>
    let k := slot.val
    let l := if nsid.toNat = 0xFFFFFFFF then (allNs s).map (·.1) else [nsid.toNat - 1]
    if nsid.toNat ≠ 0xFFFFFFFF && (nsid.toNat = 0 || 64 < nsid.toNat) then endCmd s k .invalidNamespaceOrFormat
    else if !l.all fun x => (s.ns x).isSome then endCmd s k .invalidField
    else if l.any fun x => match s.ns x with | some n => n.deleting | none => false then
      endCmd s k .invalidNamespaceOrFormat
    else if l.any fun x => match s.ns x with | some n => n.conflict (hostOf s k) true | none => false then
      endCmd s k .reservationConflict
    else
      let s := l.foldl (fun s x =>
        let older := nsCommands s k x
        s.modNs x fun n => { n with deleting := true, older := older }) s
      let s := enterOrder s { slot := k, op := .nsDelete l, nsx := l.headD 64, zone := 2 ^ 19, first := 0, count := 0, lba := 0 }
      settleHost s (2 ^ 19))

/-- Act on an attachment command of a namespace that exists (R339). -/
def onAttach (s : State) (k nsid : Nat) (ctrls : List Nat) (f : State → Nat → Ns → State) : State :=
  onPrimary s k fun s =>
    if nsid = 0 || 64 < nsid then endCmd s k .invalidNamespaceOrFormat
    else match s.ns (nsid - 1) with
      | none => endCmd s k .invalidField
      | some n =>
        if n.deleting then endCmd s k .invalidNamespaceOrFormat
        else if ctrls.isEmpty then endCmd s k .controllerListInvalid
        else if n.conflict (hostOf s k) true then endCmd s k .reservationConflict
        else f s (nsid - 1) n

/-- NS_ATTACH (R326, R339): the first controller attached owns the namespace. -/
def execNsAttach (slot : Fin 4096) (nsid : BitVec 32) (ctrls : List (Fin 2)) (s : State) : Result :=
  .next (
    let l := (ctrls.map (·.val)).eraseDups
    onAttach s slot.val nsid.toNat l fun s x n =>
      if l.any n.attached.contains then endCmd s slot.val .alreadyAttached
      else
        let s := s.modNs x fun n => { n with
          attached := n.attached ++ l
          owner := if n.attached.isEmpty then l.head? else n.owner }
        endCmd (nsAttributeChanged s x) slot.val .success)

/-- NS_DETACH (R326, R339): detaching the owner moves ownership as disabling it does. -/
def execNsDetach (slot : Fin 4096) (nsid : BitVec 32) (ctrls : List (Fin 2)) (s : State) : Result :=
  .next (
    let l := (ctrls.map (·.val)).eraseDups
    onAttach s slot.val nsid.toNat l fun s x n =>
      if !l.all n.attached.contains then endCmd s slot.val .notAttached
      else
        let s := s.modNs x fun n => { n with attached := n.attached.filter fun c => !l.contains c }
        let s := l.foldl (fun s c => ownerLeaves s c x) s
        let s := s.modNs x fun n => if n.attached.isEmpty then { n with owner := none } else n
        endCmd (nsAttributeChanged s x) slot.val .success)

/-! Format, self-test, sanitize (R356, R360, R361). -/

/-- A Format NVM (R340, R360): commands that arrive meanwhile end with Format In Progress. -/
def formatCmd (s : State) (k nsid lbaf prot : Nat) (first ext erase : Bool) : State :=
  onAdminIdle s k fun s _ =>
    if nsid = 0 || 64 < nsid then endCmd s k .invalidNamespaceOrFormat
    else match s.ns (nsid - 1) with
      | none => endCmd s k .invalidField
      | some n =>
        if n.deleting then endCmd s k .invalidNamespaceOrFormat
        else if n.formatting then endCmd s k .formatInProgress
        else if n.conflict (hostOf s k) true then endCmd s k .reservationConflict
        else if 3 < lbaf || 3 < prot || (lbaf = 0 && prot ≠ 0) then endCmd s k .invalidFormat
        else if lbaf = 1 && first then endCmd s k .invalidField
        else
          let older := nsCommands s k (nsid - 1)
          let s := s.modNs (nsid - 1) fun n => { n with formatting := true, older := older }
          let s := enterOrder s { slot := k, op := .format lbaf (prot + (if first then 8 else 0)) ext erase, nsx := nsid - 1
                                  zone := 2 ^ 19, first := 0, count := 0, lba := 0 }
          settleHost s (2 ^ 19)

/-- FORMAT_NVM (R360). -/
def execFormatNvm (slot : Fin 4096) (nsid : BitVec 32) (lbaf : BitVec 6) (prot : BitVec 3) (first ext : Bool) (s : State) :
    Result :=
  .next (formatCmd s slot.val nsid.toNat lbaf.toNat prot.toNat first ext false)

/-- FORMAT_NVM_CRYPTO_ERASE (R360): the key is replaced too. -/
def execFormatNvmCryptoErase (slot : Fin 4096) (nsid : BitVec 32) (lbaf : BitVec 6) (prot : BitVec 3) (first ext : Bool)
    (s : State) : Result :=
  .next (formatCmd s slot.val nsid.toNat lbaf.toNat prot.toNat first ext true)

/-- Start a self-test of a namespace, of all that are attached, or of none (R356): it runs beside other work. -/
def selfTest (s : State) (k code nsid : Nat) : State :=
  onAdminIdle s k fun s n =>
    let here := (allNs s).filterMap fun e => if e.2.attached.contains n then some e.1 else none
    if s.nvme.selfTest.isSome then endCmd s k .selfTestInProgress
    else if nsid ≠ 0 && nsid ≠ 0xFFFFFFFF && !here.contains (nsid - 1) then endCmd s k .invalidNamespaceOrFormat
    else
      let nss := if nsid = 0 then [] else if nsid = 0xFFFFFFFF then here else [nsid - 1]
      let s : State := { s with nvme := { s.nvme with selfTest := some { code := code, nss := nss } } }
      schSettle (endCmd s k .success) []

/-- SELF_TEST_SHORT (R356). -/
def execSelfTestShort (slot : Fin 4096) (nsid : BitVec 32) (s : State) : Result :=
  .next (selfTest s slot.val 1 nsid.toNat)

/-- SELF_TEST_EXTENDED (R356). -/
def execSelfTestExtended (slot : Fin 4096) (nsid : BitVec 32) (s : State) : Result :=
  .next (selfTest s slot.val 2 nsid.toNat)

/-- SELF_TEST_ABORT (R356): the test ends at the next sector boundary, with result 1, aborted by a command (PRESUMED, log 35). -/
def execSelfTestAbort (slot : Fin 4096) (s : State) : Result :=
  .next (onAdmin s slot.val fun s _ =>
    endCmd (testStep (testMap s fun t => { t with stop := true })) slot.val .success)

/-- What every sanitize erases (R361, R374): keys replaced, the write cache and refuge emptied, every zone Empty; host
commands in progress end with Sanitize In Progress. -/
def eraseAll (s : State) : State :=
  let s := (s.nvme.cmds.filterMap fun c => if c.slot < 4096 then some c.slot else none).foldl
    (fun s k => killCmd s k .sanitizeInProgress) s
  let s := cancelProv s fun _ => true
  let s := (allNs s).foldl (fun s e => replaceKey (e.2.zones.foldl (fun s z => emptyZone s e.1 z) s) e.1) s
  let s := { s with media := { s.media with refuge := [] } }
  s.schMap fun x => { x with pl := { x.pl with runs := [], sealed := [], index := [] } }

/-- A sector that an overwrite writes over: in a data, conventional, refuge or spare band (R88, R361). -/
def overwritten (s : State) (psa : Nat) : Bool :=
  match trackPlace s (psaTrack psa) with
  | some (band, _) => [1, 2, 3, 5].contains (readBand s (psaHead psa) band).1.1.kind
  | none => false

/-- The woven zones whose lost strands survive a sanitize (R361). -/
def strandsLeft (s : State) : List Nat :=
  (allNs s).flatMap fun e => e.2.zones.filter fun z =>
    let x := (readEntry s z).1
    x.state = zsEmpty && woven x.kind && !x.lostStrands.isEmpty

/-- A Sanitize starts (R361): the command completes at once, the sanitize goes on. -/
def startSanitize (s : State) (k : Nat) (passes pattern : Nat) (invert : Bool) : State :=
  onPrimary s k fun s =>
    let s := eraseAll (selfTestEnds s 9)
    let s := if passes = 0 then s else { s with media := { s.media with frames := s.media.frames.filter fun e => !overwritten s e.1 } }
    endCmd { s with nvme := { s.nvme with sanitize := { s.nvme.sanitize with
      running := true, passes := passes, pattern := pattern, invert := invert, zones := strandsLeft s } } } k .success

/-- A sanitize ends. -/
def sanitizeEnds (s : State) : State :=
  if s.nvme.sanitize.running then
    { s with nvme := { s.nvme with sanitize := { s.nvme.sanitize with
      running := false, completed := s.nvme.sanitize.completed + 1 } } }
  else s

/-- SANITIZE_CRYPTO_ERASE (R361). -/
def execSanitizeCryptoErase (slot : Fin 4096) (s : State) : Result := .next (startSanitize s slot.val 0 0 false)

/-- SANITIZE_OVERWRITE (R361). -/
def execSanitizeOverwrite (slot : Fin 4096) (passes : BitVec 4) (pattern : BitVec 32) (invert : Bool) (s : State) :
    Result :=
  .next (startSanitize s slot.val (if passes.toNat = 0 then 16 else passes.toNat) pattern.toNat invert)

/-! Security (R539). -/

/-- SECURITY_PROTOCOL_LIST (R539). -/
def execSecurityProtocolList (slot : Fin 4096) (s : State) : Result :=
  .next (onAdmin (s.reply 0 []) slot.val fun s _ => endWith s slot.val [0x00, 0xF0])

/-- The length a DER sequence's first four bytes give; no certificate begins otherwise (R531; log 51). -/
def derLength (b : List Nat) : Nat :=
  if b.headD 0 = 0x30 && (b[1]?).getD 0 = 0x82 then 4 + 256 * (b[2]?).getD 0 + (b[3]?).getD 0 else 0

/-- The identity certificate, from Keel units 742-745 (R531). -/
def identityCert (s : State) : List Nat := storedBytes s 742 (derLength (storedBytes s 742 4))

/-- SECURITY_CERT_CHAIN (R531, R538, R539): the identity certificate's bytes, then the alias certificate's public key,
serial number, CYCLES and bank 0. -/
def execSecurityCertChain (slot : Fin 4096) (s : State) : Result :=
  .next (onAdmin (s.reply 0 []) slot.val fun s _ =>
    endWith s slot.val (identityCert s ++ match s.sec.alias_ with
      | some a => [a.1, s.fuses.serial, a.2.1, a.2.2]
      | none => []))

/-- SECURITY_ATTEST_REPORT (R539): serial, CYCLES, SECONDS, banks 0-3, nonce, MIN_SVN 0-6, lock level, the versions of the
parts in force, then the signature, a free value. -/
def execSecurityAttestReport (slot : Fin 4096) (nonce : BitVec 256) (s : State) : Result :=
  .next (onAdmin (s.reply 0 []) slot.val fun s _ =>
    if s.get SEC.SEC_STAT.ALIAS_READY = 0 then endCmd s slot.val .operationDenied
    else
      let ver := (List.range 7).flatMap fun k => match sget none s.sec.versions k with
        | some v => [k, v.1, v.2.1, v.2.2]
        | none => []
      let sig := s.free
      endWith s.drawn slot.val ([s.fuses.serial, s.get EVR.CYCLES.COUNT, operatingSeconds s] ++
        (List.range 4).map (fun b => sget 0 s.sec.banks b) ++ [nonce.toNat] ++ (List.range 7).map (minSvn s) ++
        [lockLevel s] ++ ver ++ [sig]))

/-- SECURITY_UNLOCK_NONCE (R539, R544): NONCE0-7, zero where no nonce stands. -/
def execSecurityUnlockNonce (slot : Fin 4096) (s : State) : Result :=
  .next (onAdmin (s.reply 0 []) slot.val fun s _ =>
    endWith s slot.val ((List.range 8).map fun i => bits (s.sec.nonce.getD 0) (32 * i) 32))

end Sys2Proof.Machine
end

