-- ==== Sys2Proof/Machine/Cache.lean ====
section
/-! DEFINITION. The L2 cache (chapter "Processors, caches and messages"). -/

namespace Sys2Proof.Machine

open Sys2Proof

/-- The page of L2C. -/
def l2cPage : Page := ⟨.l2c, 0⟩

/-- MODE codes (R445). -/
def l2On : Nat := 1
/-- DRAINING. -/
def l2Draining : Nat := 2
/-- BYPASS. -/
def l2Bypass : Nat := 3
/-- L2_STAT.MODE. -/
def l2Mode (s : State) : Nat := s.get L2C.L2_STAT.MODE

/-- The line at place `k` = 16 x set + way. -/
def State.l2Line (s : State) (k : Nat) : Option L2Line := sget none s.l2.lines k
/-- Set the line at place `k`. -/
def State.setL2Line (s : State) (k : Nat) (v : Option L2Line) : State :=
  { s with l2 := { s.l2 with lines := sset none s.l2.lines k v } }

/-- The places of a line's set (R437). -/
def l2Places (line : Nat) : List Nat := (List.range 16).map (· + 16 * (line % 2048))
/-- Where a line is held, if it is. -/
def l2Find (s : State) (line : Nat) : Option Nat := (l2Places line).find? fun k => (s.l2Line k).any fun x => x.line = line
/-- Way of a place locked (R440). -/
def l2Locked (s : State) (k : Nat) : Bool := bit (s.get L2C.LOCK.WAYS) (k % 16)
/-- Dirty lines (L2_STAT.DIRTY, R445). -/
def l2Dirty (s : State) : Nat := (s.l2.lines.filter fun x => x.2.any (·.dirty)).length

/-- Write a line's granules to the buffer with their marks (R436). -/
def l2Put (s : State) (x : L2Line) (poison : Bool) : State :=
  wholeWrite (wholeWrite s (2 * x.line) (x.bytes.take 32) (x.lo || poison)) (2 * x.line + 1) (x.bytes.drop 32)
    (x.hi || poison)

/-- Write back the line at a place if it is dirty. -/
def l2WriteBack (s : State) (k : Nat) : State :=
  match s.l2Line k with
  | some x => if x.dirty then (l2Put s x false).setL2Line k (some { x with dirty := false }) else s
  | none => s

/-- A counter of parity events; EV064 at multiples of 256 and at saturation (R446). -/
def l2Count (s : State) (F : Fld) : State :=
  let before := s.get F
  let s := s.bump F
  let v := s.get F
  raiseIf (v ≠ before && (v % 256 = 0 || v = 0xFFFF)) s l2cPage 0 1

/-- A dirty line fails parity (R441): every other dirty line is written back, one that fails too with the poison
syndrome; the cache is bypassed until a reset. -/
def l2Fault (s : State) (k : Nat) (bad : List Nat) : State :=
  let line := ((s.l2Line k).map (·.line)).getD 0
  let s := s.l2.lines.foldl (fun s x => match x.2 with
    | some y => if y.dirty && x.1 ≠ k then l2Put s y (bad.contains x.1) else s
    | none => s) s
  let s : State := { s with l2 := { s.l2 with lines := [] } }
  let s := (((s.bump L2C.PAR_CNT.DIRTY).put L2C.PAR_LAST.ADDR line).put L2C.L2_STAT.MODE l2Bypass)
  pageFault s l2cPage 1 4

/-- The place a fill takes among `cands` of a set, and the state after ageing (R438): the lowest invalid one, else the
lowest of age 3; else every unlocked valid line of the places `all` ages. -/
def l2Victim (cands all : List Nat) : Nat → State → Option Nat × State
  | 0, s => (none, s)
  | f + 1, s =>
    match cands.find? fun k => (s.l2Line k).isNone with
    | some k => (some k, s)
    | none => match cands.find? fun k => (s.l2Line k).any fun x => x.age = 3 with
      | some k => (some k, s)
      | none => l2Victim cands all f ((all.filter fun k => !l2Locked s k).foldl (fun s k =>
          s.setL2Line k ((s.l2Line k).map fun x => { x with age := min 3 (x.age + 1) })) s)

/-- Fill a line into a place from the buffer (R438, R440). -/
def l2Fill (s : State) (k line age : Nat) : State :=
  let r := bufGranules s [2 * line, 2 * line + 1]
  match r.1 with
  | [a, b] => r.2.setL2Line k (some ⟨line, false, age, a.1 ++ b.1, a.2, b.2⟩)
  | _ => r.2

/-- The parity of the line at a place fails a read (R437, R445). -/
def l2Bad (s : State) (bad : List Nat) (k : Nat) : Bool := s.get L2C.L2_CTL.PAR_EN = 1 && bad.contains k

/-- A fill is a streaming fill (R439). -/
def l2Stream (s : State) (line : Nat) (pre : Bool) : Bool :=
  (pre && s.get L2C.L2_CTL.PREFETCH_EN = 1) || (List.range 4).any fun i =>
    decide (s.get L2C.STREAM.ADDR 0 (2 * i) ≤ line / 64 ∧ line / 64 ≤ s.get L2C.STREAM.ADDR 0 (2 * i + 1))

/-- An access past the cache (R441, R444). -/
def l2Direct (s : State) (a n : Nat) (w : Option (List Nat)) (pre : Bool) : State :=
  match w with
  | some bs => (memWrite s a bs).reply 0 []
  | none =>
    if pre then s.reply 0 []
    else
      let r := memRead s .core a n
      if r.1.poison then r.2.reply 1 [] else r.2.reply 0 r.1.bytes

/-- Bytes of a load from a held line; poison takes a data abort (R436). -/
def l2Load (s : State) (x : L2Line) (a n : Nat) (pre : Bool) : State :=
  let o := a % 64
  if pre then s.reply 0 []
  else if x.lo && decide (o < 32) then (consumePoison s .core (2 * x.line)).reply 1 []
  else if x.hi && decide (32 < o + n) then (consumePoison s .core (2 * x.line + 1)).reply 1 []
  else s.reply 0 ((x.bytes.drop o).take n)

/-- A granule's mark after `bs` is stored at offset `o` of the line: a whole granule clears it (R436). -/
def l2Mark (old : Bool) (o n g : Nat) : Bool := old && !(o ≤ 32 * g && decide (32 * g + 32 ≤ o + n))

/-- A store to a held line (R436, R437); while draining it also goes to DRAM and leaves the line clean (R444). -/
def l2Store (s : State) (k : Nat) (x : L2Line) (a : Nat) (bs : List Nat) : State :=
  let o := a % 64
  let y := { x with
    bytes := x.bytes.take o ++ bs ++ x.bytes.drop (o + bs.length)
    lo := l2Mark x.lo o bs.length 0, hi := l2Mark x.hi o bs.length 1, age := 0, dirty := l2Mode s ≠ l2Draining }
  let s := if l2Mode s = l2Draining then l2Put s y false else s
  (s.setL2Line k (some y)).reply 0 []

/-- An access to a held line. -/
def l2Hit (s : State) (k : Nat) (x : L2Line) (a n : Nat) (w : Option (List Nat)) (pre : Bool) : State :=
  match w with
  | some bs => l2Store s k x a bs
  | none => l2Load (s.setL2Line k (some { x with age := 0 })) x a n pre

/-- An access that misses (R438, R439, R444). -/
def l2Miss (s : State) (a n : Nat) (w : Option (List Nat)) (pre : Bool) (bad : List Nat) : State :=
  let s := s.bump L2C.MISS_CNT.COUNT
  let line := a / 64
  if l2Mode s = l2Draining then l2Direct s a n w pre
  else
    let places := l2Places line
    match l2Victim (places.filter fun k => !l2Locked s k) places 5 s with
    | (none, s) => l2Direct s a n w pre
    | (some k, s) =>
      if l2Bad s bad k && (s.l2Line k).any (·.dirty) then l2Direct (l2Fault s k bad) a n w pre
      else
        let age := if l2Stream s line pre then 3 else 0
        let s := l2Fill ((l2WriteBack s k).setL2Line k none) k line age
        match s.l2Line k, w with
        | some x, some bs => l2Store s k x a bs
        | some x, none => l2Load s x a n pre
        | none, _ => s

/-- L2_ACCESS (R433, R435-R444). A load or store beyond the buffer takes a data abort, answered as status 1. -/
def execL2Access (addr : BitVec 38) (n : Nat) (w : Option (List Byte)) (pre : Bool) (l1 : Bool) (bad : List Nat)
    (s : State) : Result :=
  .next (
    let a := addr.toNat
    let w := w.map fun bs => bs.map (·.toNat)
    let s := if l1 then l2Count s L2C.L1_ERR.COUNT else s
    let m := l2Mode s
    if usableBytes s < a + n then s.reply 1 []
    else if !domainLive s l2cPage.domain || (m ≠ l2On && m ≠ l2Draining) then l2Direct s a n w pre
    else match l2Find s (a / 64) with
      | none => l2Miss s a n w pre bad
      | some k => match s.l2Line k with
        | none => s
        | some x =>
          let s := s.bump L2C.HIT_CNT.COUNT
          if l2Bad s bad k && w.isNone then
            if x.dirty then
              let s := l2Fault s k bad
              if pre then s.reply 0 [] else (consumePoison s .core (a / 32)).reply 1 []
            else
              let s := (l2Count s L2C.PAR_CNT.CLEAN).put L2C.PAR_LAST.ADDR x.line
              let s := l2Fill s k x.line 0
              match s.l2Line k with
              | some y => l2Hit s k y a n none pre
              | none => s
          else l2Hit s k x a n w pre)

/-- A write of PRELOAD_CTL (R440, R445). -/
def l2PreloadWrite (q : Req) (w : Word) (s : State) : State :=
  let busy := s.get L2C.PRELOAD_CTL.BUSY = 1
  let s := plainWrite s q l2cPage 0x074 w
  if L2C.PRELOAD_CTL.GO.of w = 0 || busy then s
  else if l2Mode s ≠ l2On then raise (s.put L2C.PRELOAD_CTL.RESULT 1) l2cPage 3 7
  else
    let job := (s.get L2C.PRELOAD_ADDR.ADDR * 64, 64 * min 384 (max 1 (s.get L2C.PRELOAD_CTL.PAGES)),
      s.get L2C.PRELOAD_CTL.WAYS)
    ({ s with l2 := { s.l2 with preload := some job } } : State).put L2C.PRELOAD_CTL.BUSY 1

/-- L2_PRELOAD_START (R440). -/
def execL2PreloadStart (q : Req) (w : BitVec 32) (s : State) : Result :=
  .next (guarded s q l2cPage 0x074 w (l2PreloadWrite q w))

/-- Fill lines into the named ways, which alone age (R438, R440); a set whose named ways all hold locked lines stops it. A
line the cache holds already stays where it is (log 27). -/
def l2PreloadLines (ways : Nat) : Nat → Nat → State → Bool × State
  | 0, _, s => (true, s)
  | n + 1, line, s =>
    if (l2Find s line).isSome then l2PreloadLines ways n (line + 1) s
    else
      let places := l2Places line
      let cands := places.filter fun k => bit ways (k % 16) && !(l2Locked s k && (s.l2Line k).isSome)
      match l2Victim cands cands 5 s with
      | (none, s) => (false, s)
      | (some k, s) => l2PreloadLines ways n (line + 1) (l2Fill ((l2WriteBack s k).setL2Line k none) k line 0)

/-- L2_PRELOAD_COMPLETE (R440); with MODE no longer ON it has been refused (log 80). -/
def execL2PreloadComplete (s : State) : Result :=
  .next (match s.l2.preload with
    | none => s
    | some (line, n, ways) =>
      let on := l2Mode s = l2On
      let r := if on then l2PreloadLines ways n line s else (false, s)
      let s : State := { r.2 with l2 := { r.2.l2 with preload := none } }
      raise ((s.put L2C.PRELOAD_CTL.RESULT (if r.1 then 0 else if on then 2 else 1)).put L2C.PRELOAD_CTL.BUSY 0) l2cPage 3 7)

/-- A write of MAINT_CMD (R442, R445). -/
def l2MaintWrite (q : Req) (w : Word) (s : State) : State :=
  let busy := s.get L2C.MAINT_CMD.BUSY = 1
  let s := plainWrite s q l2cPage 0x07C w
  if L2C.MAINT_CMD.GO.of w = 0 || busy then s
  else
    let n := s.get L2C.MAINT_CMD.LINES
    let job := (s.get L2C.MAINT_CMD.OP, s.get L2C.MAINT_ADDR.ADDR, if n = 0 then 65536 else n)
    ({ s with l2 := { s.l2 with maint := some job } } : State).put L2C.MAINT_CMD.BUSY 1

/-- L2_CLEAN_ALL (R442). -/
def execL2CleanAll (q : Req) (w : BitVec 32) (s : State) : Result :=
  .next (guarded s q l2cPage 0x07C w (l2MaintWrite q w))
/-- L2_CLEAN (R442). -/
def execL2Clean (q : Req) (w : BitVec 32) (s : State) : Result :=
  .next (guarded s q l2cPage 0x07C w (l2MaintWrite q w))
/-- L2_INVALIDATE (R442). -/
def execL2Invalidate (q : Req) (w : BitVec 32) (s : State) : Result :=
  .next (guarded s q l2cPage 0x07C w (l2MaintWrite q w))
/-- L2_CLEAN_INVALIDATE (R442). -/
def execL2CleanInvalidate (q : Req) (w : BitVec 32) (s : State) : Result :=
  .next (guarded s q l2cPage 0x07C w (l2MaintWrite q w))

/-- L2_MAINT_COMPLETE (R442): the operation has acted on its lines. -/
def execL2MaintComplete (s : State) : Result :=
  .next (match s.l2.maint with
    | none => s
    | some (op, line, n) =>
      let hit := s.l2.lines.filter fun x => x.2.any fun y => op = 0 || (line ≤ y.line && decide (y.line < line + n))
      let s := hit.foldl (fun s x =>
        let s := if op = 2 then s else l2WriteBack s x.1
        if op = 2 || op = 3 then s.setL2Line x.1 none else s) s
      raise (({ s with l2 := { s.l2 with maint := none } } : State).put L2C.MAINT_CMD.BUSY 0) l2cPage 4 7)

/-- A drain begins (R444). -/
def l2BeginDrain (s : State) : State := if l2Mode s = l2On then s.put L2C.L2_STAT.MODE l2Draining else s

/-- Every dirty line is written back and every line invalidated; LOCK and MODE read 0 (R444). -/
def l2Empty (s : State) : State :=
  let s := s.l2.lines.foldl (fun s x => l2WriteBack s x.1) s
  (({ s with l2 := { s.l2 with lines := [] } } : State).put L2C.LOCK.WAYS 0).put L2C.L2_STAT.MODE 0

/-- L2_DRAIN_COMPLETE (R17, R444, R611): a disabled page reads OFF, an easing one HOLD. -/
def execL2DrainComplete (s : State) : Result :=
  .next (if l2Mode s ≠ l2Draining then s
  else
    let s := raise (l2Empty s) l2cPage 2 7
    if s.get HDR.PAGE_CTL.ENABLE l2cPage.index = 0 then pageOff s l2cPage
    else if pageState s l2cPage = stEasing then setPageState s l2cPage stHold
    else s)

/-- A write of LOCK: more than 12 bits is discarded (R440). -/
def l2LockWrite (q : Req) (w : Word) (s : State) : State :=
  if 12 < (bitList 16 (L2C.LOCK.WAYS.of w)).length then s else plainWrite s q l2cPage 0x048 w

/-- A write of any L2C register (R445). -/
def l2cWrite (q : Req) (off : Nat) (w : Word) (s : State) : State :=
  if off = 0x048 then l2LockWrite q w s
  else if off = 0x074 then l2PreloadWrite q w s
  else if off = 0x07C then l2MaintWrite q w s
  else plainWrite s q l2cPage off w

end Sys2Proof.Machine
end

