-- ==== Sys2Proof/Machine/Dmc.lean ====
section
/-! DEFINITION. DMC and BUF as commands: reads and writes of buffer memory, merge flushes, scrub, buckets, flip masks, the
buffer test, training (chapter "Scheduling, buffer and power-loss writing"). -/

namespace Sys2Proof.Machine

open Sys2Proof

/-- The page of DMC. -/
def dmcPage : Page := ⟨.dmc, 0⟩

/-- Soft errors change what is stored (R390). -/
def softErrors (s : State) (l : List (Nat × BitVec 288)) : State :=
  s.setDram { s.dram with
    err := l.foldl (fun m e => sset 0 m e.1 (sget 0 m e.1 ^^^ e.2.toNat)) s.dram.err }

/-- An access beyond USABLE reaches no buffer memory (R389): a core's takes a data abort (R433), status 2; an engine's
goes on with bytes the spec does not give (log 60). -/
def beyondRead (s : State) (c : Consumer) (n : Nat) : State :=
  if c = .core then s.reply 2 []
  else { s with fresh := s.fresh + n }.reply 0 ((List.range n).map fun i => Config.freeValue (s.fresh + i) % 256)

/-- BUFFER_READ (R389-R392): the bytes, and the poison mark as status 1; a core that meets poison takes a data abort, status 2,
and gets no bytes. -/
def execBufferRead (c : Consumer) (addr : BitVec 44) (n : Nat) (soft : List (Nat × BitVec 288)) (s : State) : Result :=
  .next (
    if usableBytes s < addr.toNat + n then beyondRead s c n
    else
      let r := memRead (softErrors s soft) c addr.toNat n
      if r.1.poison && c = .core then r.2.reply 2 [] else r.2.reply (if r.1.poison then 1 else 0) r.1.bytes)

/-- MERGE_FLUSH_TIMEOUT (R392). -/
def execMergeFlushTimeout (s : State) : Result :=
  .next (match s.dram.merge with
    | [] => s
    | m :: _ => flushEntry s m)

/-- A write of MERGE_CTL (R392). -/
def mergeCtlWrite (q : Req) (w : Word) (s : State) : State :=
  let s := plainWrite s q bufPage 0x058 w
  if BUF.MERGE_CTL.FLUSH.of w = 1 then flushMerge s else s

/-- MERGE_FLUSH (R392). -/
def execMergeFlush (q : Req) (w : BitVec 32) (s : State) : Result :=
  .next (guarded s q bufPage 0x058 w (mergeCtlWrite q w))

/-- A write of any BUF register: LINE_COUNT is discarded while ENABLE is 1 (R398). -/
def bufWrite (q : Req) (off : Nat) (w : Word) (s : State) : State :=
  if off = 0x058 then mergeCtlWrite q w s
  else if off = 0x044 && s.get HDR.PAGE_CTL.ENABLE bufPage.index = 1 then s
  else if off = 0x048 && s.get HDR.PAGE_CTL.ENABLE bufPage.index = 1 then writeDirectory (plainWrite s q bufPage off w)
  else plainWrite s q bufPage off w

/-! Scrub (R393). -/

/-- Scrub one granule: a corrected granule is written back, an uncorrectable one poisoned. -/
def scrubGranule (s : State) (g : Nat) : State :=
  let r := readGranule s g
  if r.1.ce then putGranule r.2 g r.1.bytes false 0 else r.2

/-- SCRUB_STEP (R393). -/
def execScrubStep (soft : BitVec 288) (s : State) : Result :=
  .next (
    let top := usableBytes s / 32
    if s.get DMC.DMC_CTL.SCRUB_EN = 0 || !running s dmcPage || !domainLive s dmcPage.domain || top = 0 then s
    else
      let g := s.get DMC.SCRUB_POS.GRANULE
      let s := scrubGranule (softErrors s [(g, soft)]) g
      if top ≤ g + 1 then raise (s.put DMC.SCRUB_POS.GRANULE 0) dmcPage 3 7 else s.put DMC.SCRUB_POS.GRANULE (g + 1))

/-- BUCKET_LEAK (R394, R449): the level of a channel's bucket, or of the TCM's, falls by one unless it is 0. -/
def execBucketLeak (bucket : Fin 3) (s : State) : Result :=
  .next (
    if bucket.val = 2 then s.put TCM.CE_LEVEL.LEVEL (s.get TCM.CE_LEVEL.LEVEL - 1)
    else s.put DMC.CE_LEVEL.LEVEL (s.get DMC.CE_LEVEL.LEVEL 0 bucket.val - 1) 0 bucket.val)

/-! Registers and the test. -/

/-- A write of FLIP_CTL (R395). -/
def flipCtlWrite (q : Req) (w : Word) (s : State) : State :=
  let s := plainWrite s q dmcPage 0x078 w
  if DMC.FLIP_CTL.ARM.of w = 1 then s.put DMC.FLIP_CTL.ARM 1 else s

/-- DMC_FLIP_ARM (R395). -/
def execDmcFlipArm (q : Req) (w : BitVec 32) (s : State) : Result :=
  .next (guarded s q dmcPage 0x078 w (flipCtlWrite q w))

/-- A write of TEST_CTL (R617): GO is ignored while BUSY and refused while ENABLE is 1. -/
def testCtlWrite (q : Req) (w : Word) (s : State) : State :=
  let busy := s.get DMC.TEST_CTL.BUSY = 1
  let s := plainWrite s q dmcPage 0x088 w
  if DMC.TEST_CTL.GO.of w = 0 || busy then s
  else if s.get HDR.PAGE_CTL.ENABLE dmcPage.index = 1 then s.put DMC.TEST_CTL.RESULT 2
  else (s.setDram { s.dram with testing := s.get DMC.TEST_CTL.PATTERN }).put DMC.TEST_CTL.BUSY 1

/-- BUFFER_TEST_START (R617). -/
def execBufferTestStart (q : Req) (w : BitVec 32) (s : State) : Result :=
  .next (guarded s q dmcPage 0x088 w (testCtlWrite q w))

/-- The patterns of a PATTERN code, in the order they run (R617). -/
def testPatterns (s : State) (code : Nat) : List Fill :=
  let r := Fill.random (s.dram.tests + 1)
  match code with
  | 0 => [.address]
  | 1 => [.checker]
  | 2 => [r]
  | _ => [.address, .checker, r]

/-- Every granule below USABLE holds a pattern, with valid check bits (R617). -/
def fillMemory (s : State) (f : Fill) : State :=
  let u := usableBytes s
  let d := s.dram
  s.setDram { d with
    fills := (f, u) :: d.fills.filter fun x => decide (u < x.2)
    cells := d.cells.filter fun c => decide (u ≤ c.1)
    poison := d.poison.filter fun g => decide (u ≤ 32 * g)
    err := d.err.filter fun e => decide (u ≤ 32 * e.1)
    merge := d.merge.filter fun m => decide (u ≤ 32 * m.granule)
    tests := d.tests + 1 }

/-- The test ends (R617): each pattern is written everywhere before it is read back, so the pattern that fails stands. -/
def testEnds (s : State) (code : Nat) (fail : Option (Nat × Nat)) : State :=
  let l := testPatterns s code
  match fail with
  | some (k, g) =>
    match l[k]? with
    | some f => ((fillMemory s f).put DMC.TEST_CTL.RESULT 1).put DMC.TEST_FAIL.GRANULE g
    | none => (fillMemory s (l.getLastD .address)).put DMC.TEST_CTL.RESULT 0
  | none => (fillMemory s (l.getLastD .address)).put DMC.TEST_CTL.RESULT 0

/-- BUFFER_TEST_COMPLETE (R617). -/
def execBufferTestComplete (fail : Option (Fin 3 × BitVec 28)) (s : State) : Result :=
  .next (if s.get DMC.TEST_CTL.BUSY = 0 then s
    else (testEnds s s.dram.testing (fail.map fun x => (x.1.val, x.2.toNat))).put DMC.TEST_CTL.BUSY 0)

/-! Training and refresh (R389). -/

/-- DRAM_TRAINING_COMPLETE (R389, R401). -/
def execDramTrainingComplete (ok : BitVec 2) (s : State) : Result :=
  .next (
    let en := s.get DMC.DMC_CTL.CH_EN
    let good := en &&& ok.toNat
    raiseIf (good ≠ en) (s.put DMC.DMC_STAT.TRAINED good) dmcPage 5 1)

/-- DRAM_RETRAIN (R389, R401): TRAINED clears and the channel is trained again. -/
def execDramRetrain (channel : Fin 2) (ok : Bool) (s : State) : Result :=
  .next (
    let c := channel.val
    if !bit (s.get DMC.DMC_CTL.CH_EN) c then s
    else raiseIf (!ok) (s.put DMC.DMC_STAT.TRAINED (setBit (s.get DMC.DMC_STAT.TRAINED) c ok)) dmcPage 5 1)

/-- DRAM_REFRESH_RATE_CHANGE (R389, R401): the multiplier is the highest report of an enabled channel. -/
def execDramRefreshRateChange (channel : Fin 2) (rate : Fin 3) (s : State) : Result :=
  .next (
    let s := s.setDram { s.dram with refresh := sset 0 s.dram.refresh channel.val rate.val }
    let l := (bitList 2 (s.get DMC.DMC_CTL.CH_EN)).map (sget 0 s.dram.refresh)
    let new := l.foldl max 0
    let old := s.get DMC.DMC_STAT.REFRESH
    raiseIf (old = 0 && 0 < new) (s.put DMC.DMC_STAT.REFRESH new) dmcPage 6 7)

/-- DMC samples CH_EN, SIZE and SPEED when ENABLE is written to 1; a new SIZE or CH_EN restarts the scrub's position
(R389, R393). -/
def dmcEnable (s : State) : State :=
  let new := (s.get DMC.DMC_CTL.CH_EN, s.get DMC.DMC_CFG.SIZE, s.get DMC.DMC_CFG.SPEED)
  let same := match s.dram.sampled with
    | some x => x.1 = new.1 && x.2.1 = new.2.1
    | none => false
  let s := s.setDram { s.dram with sampled := some new }
  if same then s else s.put DMC.SCRUB_POS.GRANULE 0

/-- A write of any DMC register (R389, R400). -/
def dmcWrite (q : Req) (off : Nat) (w : Word) (s : State) : State :=
  let on := s.get HDR.PAGE_CTL.ENABLE dmcPage.index = 1
  if off = 0x078 then flipCtlWrite q w s
  else if off = 0x088 then testCtlWrite q w s
  else if off = 0x048 then (if on then s else plainWrite s q dmcPage off w)
  else if off = 0x040 then
    let en := s.get DMC.DMC_CTL.CH_EN
    let s := plainWrite s q dmcPage off w
    if on then s.put DMC.DMC_CTL.CH_EN en
    else s.put DMC.DMC_STAT.TRAINED (s.get DMC.DMC_STAT.TRAINED &&& s.get DMC.DMC_CTL.CH_EN)
  else plainWrite s q dmcPage off w

end Sys2Proof.Machine
end

