-- ==== Sys2Proof/Machine/PowerLoss.lean ====
section
/-! DEFINITION. SCH's power-loss sequence, the refuge records and index, and SCH's registers (chapter
"Scheduling, buffer and power-loss writing"). -/

namespace Sys2Proof.Machine

open Sys2Proof

/-- Change the sequence's own state. -/
def State.plMap (s : State) (f : Pl → Pl) : State := s.schMap fun x => { x with pl := f x.pl }

/-- A sequence or a test run starts (R381, R388): admission and fetching stop, every tag is aborted, the merge buffer
flushes, EV032. -/
def plStart (s : State) (test : Bool) : State :=
  let s := setPlState (s.plMap fun p => { number := p.number, test := test }) 1
  let a := s.answer
  let s := (List.range 8).foldl (fun s n =>
    ((List.range 32).filter fun t => (s.tag n t).open' || (s.tag n t).st = .fetching).foldl (fun s t => lqAbort n t s) s) s
  raise (flushMerge { s with answer := a }) schPage 0 7

/-- PFAIL starts the sequence, in place of a test run (R381, R386): ARM is 1 and SCH runs or eases. Otherwise none runs, a test
run ends, and Rigger retracts. -/
def plOnPfail (s : State) : State :=
  if plState s ≠ 0 && !s.sch.pl.test then flushMerge s
  else if s.get SCH.PL_CTL.ARM = 1 && working s schPage && domainLive s schPage.domain then plStart s false
  else retractAll (setPlState (flushMerge s) 0)

/-- A refuge target that a sequence may write (R84, R381): VALID, a refuge band of the actuator's own heads, and with
nothing in it that is still to be restored. -/
def targetOk (s : State) (a k : Nat) : Bool :=
  let head := s.get SCH.PL_TGT.HEAD 0 (4 * a + k)
  let band := s.get SCH.PL_TGT.BAND 0 (4 * a + k)
  s.get SCH.PL_TGT.VALID 0 (4 * a + k) = 1 && head / 8 = a && (readBand s head band).1.1.kind = 3 &&
    sget 0 s.media.refuge (head * 32768 + band) = 0

/-- An actuator's targets, the one nearest its current track first, the others rising (R381). -/
def plTargets (s : State) (a : Nat) : List Nat :=
  let l := (List.range 4).filter (targetOk s a)
  let bpr := max 1 (s.get FMT.BANDS_PER_RB.COUNT)
  let here := s.get SRV.POS.POS a ((s.srv a).active.headD 0) / 1024
  let far := fun (k : Nat) =>
    let b := s.get SCH.PL_TGT.BAND 0 (4 * a + k)
    let t := physicalTrack s (b / bpr) (b % bpr) 0
    (t - here) + (here - t)
  match l with
  | [] => []
  | x :: xs =>
    let n := xs.foldl (fun m k => if far k < far m then k else m) x
    n :: l.filter fun k => k ≠ n

/-- The seek of the sequence to an actuator's nearest refuge target, on the full profile where a permit is granted under
R367 (R381, R383), if the actuator can seek: its heads loaded and following, or on their way. -/
def refugeSeek (s : State) (a : Nat) : State :=
  match plTargets s a with
  | [] => s
  | k :: _ =>
    let now := strokeAt s (a / 2 + 1)
    let bpr := max 1 (s.get FMT.BANDS_PER_RB.COUNT)
    let head := s.get SCH.PL_TGT.HEAD 0 (4 * a + k) % 8
    let band := s.get SCH.PL_TGT.BAND 0 (4 * a + k)
    let target := physicalTrack s (band / bpr) (band % bpr) 0 * 1024
    let grant := permitRoom s (bitList 4 (s.get SCH.PERMIT_STAT.SEEK)) a
    let dist : Int := (target : Int) - s.get SRV.POS.POS a head
    let v := s.srv a
    let s := s.setSrv a { v with seeks := (v.seeks.filter (·.started)) ++
      [{ stroke := now + 2, head := head, target := target, committed := true, full := grant, dist := dist }] }
    let s := if grant then
        let s := s.put SCH.PERMIT_STAT.SEEK (setBit (s.get SCH.PERMIT_STAT.SEEK) a true)
        (s.put SRV.SRV_STAT.PERMIT 1 a).put VCM.VCM_STAT.FULL (1 - s.get VCM.VCM_STAT.CLAMPED a) a
      else s
    let s : State := { s with rgt := { s.rgt with out := s.rgt.out ++ [⟨a, now + 2, dist, grant⟩] } }
    s.plMap fun p => { p with seeking := p.seeking ++ [a] }

/-- An actuator whose servo can seek: its heads are loaded and it follows, settles or seeks (R208). -/
def canSeek (s : State) (a : Nat) : Bool :=
  (s.vcm a).loaded && running s (srvPage a) && (srvState s a = svFollow || srvState s a = svSettle || srvState s a = svSeek)

/-- What the sequence asks a lane to write: a sector or fills at a slot, verified class, data kind 3 (R84, R251, R381). -/
def refugeTag (psa op count : Nat) : Tag := { entry := leBytes 5 psa ++ [0x30 + op, 1, 0] ++ leBytes 2 count }

/-- Put one sector on a refuge band, with the fills and trial slots of its place in the pass (R70, R166, R381). -/
def refugeSector (s : State) (a psa band : Nat) (bs : List Nat) (marked : Bool) : State :=
  let f := fillsBefore s (psaHead psa) band psa
  let s := f.1.foldl (fun s y =>
    let t := refugeTag y.1 3 y.2
    (writeFrames s t).foldl (fun s slot => writeFrame s t slot 0 0) s) f.2
  let t := refugeTag psa 1 1
  (writeFrames s t).foldl (fun s slot =>
    let p := psaOf (psaHead psa) (psaTrack psa) slot
    let s := trimLater s p
    if isTrial slot then writeTrial s p
    else writeBits s p (payloadFrame (scramble p (sectorPayload t p (strokeAt s (a / 2 + 1)) bs marked)))) s

/-- A record's header: record number, power-cycle count and data sector count in bytes 0-11, zeros up to 15, then the
directory entries (R382; the places DESIGN CHOICE, log 45). -/
def refugeHeader (s : State) (number : Nat) (lines : List Nat) : List Nat :=
  (leBytes 4 number ++ leBytes 4 (s.get EVR.CYCLES.COUNT) ++ leBytes 4 lines.length ++ [0, 0, 0, 0] ++
    (lines.flatMap fun i => lineEntry (s.line i)) ++ List.replicate 4112 0).take 4112

/-- Where an actuator's writing stands: targets left, next sector of the first, runs so far, sectors written so far and
which of them fail their trailing verify. -/
structure RefugePlace where
  act : Nat
  targets : List Nat
  next : Nat := 0
  runs : List RefugeRun := []
  wrote : Nat := 0
  bad : List Nat := []
  deriving DecidableEq, Repr

/-- Count one more sector of the present run. -/
def RefugePlace.grow (p : RefugePlace) (head band psa : Nat) : RefugePlace :=
  match p.runs with
  | r :: rs => if r.head = head && r.band = band then { p with next := p.next + 1, runs := { r with count := r.count + 1 } :: rs }
    else { p with next := p.next + 1, runs := ⟨p.act, head, band, psaSlot psa, 1⟩ :: r :: rs }
  | [] => { p with next := p.next + 1, runs := [⟨p.act, head, band, psaSlot psa, 1⟩] }

/-- A refuge band's write pointer moves; a test run leaves nothing to restore (R84, R388; log 73). -/
def refugeMoved (s : State) (head band n : Nat) : State :=
  if s.sch.pl.test then s
  else { s with media := { s.media with refuge := sset 0 s.media.refuge (head * 32768 + band) n } }

/-- Put a slot that failed its verify on its band's skip list; the answer is no command's (R184, R384). -/
def refugeSkip (s : State) (head band psa : Nat) : State :=
  match trackPlace s (psaTrack psa) with
  | some (_, w) =>
    let b := rateBand s (band / s.get FMT.BANDS_PER_RB.COUNT)
    let e := readBand s head band
    { appendSkip e.2 head band (w * b.spt + psaSlot psa) e.1.1 b with answer := e.2.answer }
  | none => s

/-- Write one sector at the next place, in the next target where a band is full; none without a place (R381). A slot
whose verify fails is skipped, and the sector written again at the next (R184, R384). -/
def refugePut (bs : List Nat) (marked : Bool) : Nat → RefugePlace → State → Option (RefugePlace × State)
  | 0, _, _ => none
  | f + 1, p, s =>
    match p.targets with
    | [] => none
    | k :: ks =>
      let head := s.get SCH.PL_TGT.HEAD 0 (4 * p.act + k)
      let band := s.get SCH.PL_TGT.BAND 0 (4 * p.act + k)
      let x := translateBand s 0 0 head band p.next false
      if p.next < 65536 && x.1.status = .ok then
        let s := refugeSector x.2 p.act x.1.psa band bs marked
        let p' := { p with wrote := p.wrote + 1 }
        if p.bad.contains p.wrote then refugePut bs marked f p' (refugeSkip s head band x.1.psa)
        else some (p'.grow head band x.1.psa, refugeMoved s head band (p.next + 1))
      else refugePut bs marked f { p with targets := ks, next := 0 } x.2

/-- Write the data sectors of a record: how many there was room for (R382). -/
def refugeData : List Nat → RefugePlace → State → Nat × RefugePlace × State
  | [], p, s => (0, p, s)
  | i :: is, p, s =>
    let m := memRead s .sch (lineAddr s i) 4112
    let marked := ((s.line i).map (·.marked)).getD false
    match refugePut m.1.bytes (marked || m.1.poison) (5 + p.bad.length) p m.2 with
    | none => (0, p, m.2)
    | some (p, s) => let r := refugeData is p s; (r.1 + 1, r.2)

/-- Write records of up to 255 lines, poisoned ones marked (R379), until the lines or the room end: how many lines were written (R382). -/
def refugeRecords : Nat → Nat → List Nat → RefugePlace → State → Nat × RefugePlace × State
  | 0, _, _, p, s => (0, p, s)
  | f + 1, number, lines, p, s =>
    if lines.isEmpty then (0, p, s)
    else
      let now := lines.take 255
      let s := now.foldl markLine s
      match refugePut (refugeHeader s number now) false (5 + p.bad.length) p s with
      | none => (0, p, s)
      | some (p, s) =>
        let r := refugeData now p s
        if r.1 < now.length then r
        else
          let t := refugeRecords f (number + 1) (lines.drop 255) r.2.1 r.2.2
          (r.1 + t.1, t.2)

/-- The sealed lines of an actuator. -/
def plLines (s : State) (a : Nat) : List Nat := (s.sch.pl.sealed.filter fun e => e.1 = a).map (·.2)

/-- The actuator's even lane has written a run, and its arm stands on the run's band: neither lane stands on a track of
SCH's any more (R364, R371, R381). -/
def refugeLeft (s : State) (a : Nat) (r : RefugeRun) : State :=
  let bpr := max 1 (s.get FMT.BANDS_PER_RB.COUNT)
  let place := psaOf r.head (physicalTrack s (r.band / bpr) (r.band % bpr) 0) r.slot
  let s := s.schMap fun x => { x with places := sset 0 (sset 0 x.places (2 * a) place) (2 * a + 1) place }
  dropTrails (dropTrails s (2 * a)) (2 * a + 1)

/-- An actuator's writing ends after `n` of its sealed lines; in a real sequence it retracts (R381, R385). `bad`: the
sectors, counted as it writes them, that fail their trailing verify (R384). -/
def plWrote (s : State) (a n : Nat) (bad : List Nat) : State :=
  let lines := plLines s a
  let r := refugeRecords (lines.length + 1) 0 (lines.take n) { act := a, targets := plTargets s a, bad := bad } s
  let left := lines.length - r.1
  let s := r.2.2.plMap fun p => { p with
    sealed := p.sealed.filter fun e => e.1 ≠ a, ended := p.ended ++ [a], runs := p.runs ++ r.2.1.runs.reverse.take 4
    saved := if p.test then p.saved else p.saved ++ lines.take r.1
    seeking := p.seeking.filter (· ≠ a), unwritten := sset 0 p.unwritten a left }
  let s := match r.2.1.runs with
    | x :: _ => refugeLeft s a x
    | [] => s
  if s.sch.pl.test then s else retract s a

/-- The refuge index (R382, R385, R388): sequence number, power-cycle count, PL_STATE with the TEST mark in bit 31, the
lines left unwritten by actuator, four runs for each actuator, a CRC-32C at the end (the places DESIGN CHOICE, log 45). -/
def refugeIndex (s : State) : List Nat :=
  let p := s.sch.pl
  let head := leBytes 4 p.number ++ leBytes 4 (s.get EVR.CYCLES.COUNT) ++
    leBytes 4 (plState s + (if p.test then 2 ^ 31 else 0)) ++
    (List.range 4).flatMap fun a => leBytes 4 (sget 0 p.unwritten a)
  let runs := (List.range 4).flatMap fun a =>
    let l := (p.runs.filter fun r => r.act = a).take 4
    ((l.flatMap fun (r : RefugeRun) => leBytes 4 r.head ++ leBytes 4 r.band ++ leBytes 4 r.slot ++ leBytes 4 r.count) ++
      List.replicate 64 0).take 64
  let b := (head ++ runs ++ List.replicate 4092 0).take 4092
  b ++ leBytes 4 (crc32c b)

/-- With every actuator's writing ended, the index comes next; with no seek left, the others write (R381). -/
def plSettle (s : State) : State :=
  if s.sch.pl.sealed.isEmpty then
    let s := if plState s = 7 then s else setPlState s 4
    let s := s.plMap fun p => { p with number := p.number + 1 }
    nvNext (s.plMap fun p => { p with index := refugeIndex s })
  else if plState s = 2 && s.sch.pl.seeking.isEmpty then setPlState s 3
  else s

/-- Put a line into a list of lines in rising order of SEQ: a line's SEQ, the actuator it is charged to, its number. -/
def sealLine (acc : List (Nat × Nat × Nat)) (e : Nat × Nat × Nat) : List (Nat × Nat × Nat) :=
  acc.takeWhile (fun x => x.1 ≤ e.1) ++ [e] ++ acc.dropWhile (fun x => x.1 ≤ e.1)

/-- What PL seals: the CACHED and TRAIL lines in order of SEQ, each with the actuator it is charged to; a binding line is
charged to none (R375, R381). -/
def plSealed (s : State) : List (Nat × Nat) :=
  let l := (linesThat s fun x => x.kind = lkCached || (x.kind = lkTrail && !bit x.offset 31)).map fun i =>
    (((s.line i).map (·.seq)).getD 0, ((s.line i).map (·.charge)).getD 0, i)
  (l.foldl sealLine []).map (·.2)

/-- PL_SEAL (R381-R383): once no tag is left, the CACHED and TRAIL lines are sealed in SEQ order and every actuator with
charge and a target seeks to it, the lower number first in line for a permit; one that has no target, or whose servo
cannot seek, ends without writing (R378; log 93). -/
def execPlSeal (s : State) : Result :=
  .next (
    if plState s ≠ 1 || !s.tagRecs.isEmpty || (List.range 8).any (fun n => (List.range 32).any fun t =>
        (s.tag n t).open' || (s.tag n t).st = .fetching) then s
    else
      let s := setPlState (s.plMap fun p => { p with sealed := plSealed s }) 2
      let goes := fun (a : Nat) => !(plLines s a).isEmpty && !(plTargets s a).isEmpty && canSeek s a
      let u := ((List.range 4).filter goes).foldl refugeSeek s
      plSettle (((List.range 4).filter fun a => !goes a).foldl (fun s a => plWrote s a 0 []) u))

/-- PL_REFUGE_WRITE_DONE (R381, R384): an actuator whose seek has settled has written its sealed lines on its even lane;
one whose servo fails while it seeks writes none (log 93). `bad`: the sectors written, by number, that failed their
trailing verify. -/
def execPlRefugeWriteDone (act : Fin 4) (bad : List Nat) (s : State) : Result :=
  .next (
    let a := act.val
    let lines := plLines s a
    if (plState s ≠ 2 && plState s ≠ 3) || lines.isEmpty then s
    else if s.sch.pl.seeking.contains a then (if canSeek s a then s else plSettle (plWrote s a 0 []))
    else plSettle (plWrote s a lines.length bad))

/-- The floor notice reaches SCH (R385): writing stops at the next sector boundary. -/
def plFloorStop (written : List Nat) (bad : List (List Nat)) (s : State) : State :=
  if !s.spn.floorNotice then s
  else
    let s := s.spnMap fun x => { x with floorNotice := false }
    if 1 ≤ plState s && decide (plState s ≤ 3) then
      let s := setPlState s 7
      let acts := (List.range 4).filter fun a => !(plLines s a).isEmpty
      plSettle (acts.foldl (fun s a =>
        plWrote s a (if s.sch.pl.seeking.contains a then 0 else written.getD a 0) (bad.getD a [])) s)
    else s

/-- PL_FLOOR_STOP (R384, R385); `written`: the data sectors each actuator had written by then; `bad`: the sectors it
wrote, by number, that failed their trailing verify. -/
def execPlFloorStop (written : List Nat) (bad : List (List Nat)) (s : State) : Result := .next (plFloorStop written bad s)

/-- A blank 128-word block of units 674-677, the first there is (R485). -/
def indexBlock (s : State) : Option Nat :=
  ((List.range 4).flatMap fun u => (List.range 15).map fun b => (674 + u) * unitWords + 1 + 128 * b).find? fun w =>
    (List.range 128).all fun i => nvBlank s (w + i)

/-- Program the index into a block, 128 words of 32 bytes (R485). -/
def programIndex (s : State) (w : Nat) : State :=
  (List.range 128).foldl (fun s i => nvProgram s (w + i) (leNat ((s.sch.pl.index.drop (32 * i)).take 32))) s

/-- The index is programmed, or lost (R381, R388, R396, R397). A real sequence waits for its retracts, and one that
reached the floor, whose retracts are Rigger's own, stays there; a test run notes its duration and what it left, and
normal work goes on. -/
def plEnd (s : State) (ms : Nat) : State :=
  let s := s.plMap fun p => { p with index := [] }
  if s.sch.pl.test then
    let s := (s.put SCH.PL_STAT.LAST_MS ms).put SCH.PL_STAT.UNWRITTEN (min (plUnwritten s) 65535)
    schSettle (setPlState (plEvent s) 0) []
  else if plState s = 7 then plEvent s
  else plDone (setPlState s 5)

/-- NVS serves the port: it has begun to, or no operation and no scan keeps it from it (R476, R478). -/
def indexServed (s : State) : Bool :=
  match s.nv.op with
  | some o => o.owner = 2
  | none => s.get NVS.NVS_STAT.SCANNING = 0 && !s.nv.due

/-- The port's operation ends, and NVS goes on (R478). -/
def indexEnd (s : State) : State := if s.nv.op.any fun o => o.owner = 2 then nvEnd s else s

/-- REFUGE_INDEX_PROGRAM (R28, R29, R381, R478, R485): NVS has programmed the index; without a blank block, or where Keel
answers DOMAIN_RESET, it is lost (log 61). One that a new sequence has overtaken leaves the port at its end. -/
def execRefugeIndexProgram (ms : BitVec 16) (s : State) : Result :=
  .next (
    if s.sch.pl.index.isEmpty then indexEnd s
    else if dieTraining s 4 || (dieUp s 4 && domainLive s nvsPage.domain && !indexServed s) then s
    else if !dieUp s 4 || !domainLive s nvsPage.domain then plEnd s ms.toNat
    else
      indexEnd (plEnd (match indexBlock s with
        | some w => programIndex s w
        | none => s) ms.toNat))

/-- A write of PL_CTL (R388, R396): TEST of a keeper starts a test run unless a sequence runs. -/
def plCtlWrite (q : Req) (w : Word) (s : State) : State :=
  let s := plainWrite s q schPage 0x080 w
  if SCH.PL_CTL.TEST.of w = 1 && keeper q && plState s = 0 && working s schPage then plStart s true else s

/-- PL_TEST_START (R388). -/
def execPlTestStart (q : Req) (w : BitVec 32) (s : State) : Result := .next (guarded s q schPage 0x080 w (plCtlWrite q w))

/-- A write of any SCH register (R396): what it changes in limits, targets and the hold takes effect at once. -/
def schWrite (q : Req) (off : Nat) (w : Word) (s : State) : State :=
  if off = 0x080 then plCtlWrite q w s
  else
    let s := plainWrite s q schPage off w
    if 0x0A0 ≤ off then settleCharge s else fillLanes (checkHi s)

/-- A computed SCH register (R396): SCH_STAT and CHARGE. -/
def schRead (s : State) (off : Nat) : Option Nat :=
  let tags := ((List.range 8).map fun n => ((List.range 32).filter fun t => (s.tag n t).st ≠ .free).length).sum
  if off = 0x044 then some (plState s * 2 ^ 29 + tags * 2 ^ 16 + inServiceMask s)
  else if 0x060 ≤ off && off ≤ 0x06C then some (chargeOf s ((off - 0x060) / 4))
  else none

/-- A computed BUF register (R398): POOL_STAT, PROV_STAT, MERGE_STAT. -/
def bufRead (s : State) (off : Nat) : Option Nat :=
  if off = 0x04C then some (freeCount s)
  else if off = 0x054 then some (provCount s)
  else if off = 0x05C then some s.dram.merge.length
  else none

end Sys2Proof.Machine
end

