-- ==== Sys2Proof/Machine/Links.lean ====
section
/-! DEFINITION. The Burez links (chapter "Architecture and the stroke"): flits and their CRC, trainings, loss of a link,
and the BRZ registers. -/

namespace Sys2Proof.Machine

open Sys2Proof

/-- LINK_UP of link `n`. -/
def linkUp (s : State) (n : Nat) : Bool := bit (s.get BRZ.BRZ_STAT.LINK_UP) n
/-- TRAINING of link `n`. -/
def linkTraining (s : State) (n : Nat) : Bool := bit (s.get BRZ.BRZ_STAT.TRAINING) n
/-- Set LINK_UP of link `n`. -/
def setLinkUp (s : State) (n : Nat) (v : Bool) : State :=
  s.put BRZ.BRZ_STAT.LINK_UP (setBit (s.get BRZ.BRZ_STAT.LINK_UP) n v)
/-- Set TRAINING of link `n`. -/
def setTraining (s : State) (n : Nat) (v : Bool) : State :=
  s.put BRZ.BRZ_STAT.TRAINING (setBit (s.get BRZ.BRZ_STAT.TRAINING) n v)

/-- A training or retraining of link `n` starts (R28): TRAINING reads 1 and the failed flits are counted afresh. -/
def startTraining (s : State) (n : Nat) : State :=
  setTraining (s.setLink n { s.link n with failIn := 0, failOut := 0, attempts := 0 }) n true

/-- The record with which SCH learns that an operation of a lane is lost (R29, R253). -/
def lostRecord (s : State) (n t : Nat) (o : PlanOp) : TagRec :=
  { lane := n, tag := t, status := 11, reason := 0, prior := false, kept := false
    epoch := (s.dom (lanePage n).domain).epoch, done := 0, index := 0, psa := o.psa, stroke := 0 }

/-- Every operation SCH has on a lane that can no longer answer completes to SCH with DOMAIN_RESET (R29). -/
def loseLane (s : State) (n : Nat) : State :=
  let lost := ((postedOps s).filter fun e => e.1 = n).map fun e => lostRecord s n e.2.1 e.2.2
  { s with tagRecs := (s.tagRecs.filter fun r => r.lane ≠ n) ++ lost }

/-- The lanes of a die. -/
def dieLanes (die : Nat) : List Nat :=
  if die = 1 then [0, 1, 2, 3] else if die = 2 then [4, 5, 6, 7] else []

/-- A read that waited for the link is answered with zero, a write is discarded (R29). -/
def waitsLost (s : State) (n : Nat) : State :=
  let reads := s.waiting.filter fun x => x.why = .link n && x.value.isNone
  let s := { s with waiting := s.waiting.filter fun x => x.why ≠ .link n }
  if reads.isEmpty then s else s.reply 0 (reads.map fun _ => 0)

/-- EVR's work and the refuge port's at Keel complete to them with DOMAIN_RESET (R29): a commit stops with its record, a
word or unit at work has unpredictable content, and the refuge index counts as not programmed (log 61). -/
def keelLost (s : State) : State :=
  let s := match s.nv.op with
    | none => s
    | some o =>
      if o.owner = 0 then s
      else
        let s := if o.kind = 2 then nvCut s (o.word / unitWords) else nvBreak s o.word
        s.nvMap fun x => { x with op := none }
  let evr := s.evr.cur.isSome
  let s := nvsSync (s.nvMap fun x => { x with waiting := x.waiting.filter fun o => o.owner = 0 })
  let s := if evr then commitEnd (s.evrMap fun x => { x with cur := none, erasing := none }) else s
  if s.sch.pl.index.isEmpty then s else plEnd s (s.get SCH.PL_STAT.LAST_MS)

/-- The combined replays on a die that can no longer answer complete to SCH with DOMAIN_RESET: their reads take step 8
(R29, R148). -/
def loseCombined (s : State) (die : Nat) : State :=
  (s.sch.combined.filter fun e => e.2 / 4 + 1 = die).foldl (fun s e =>
    stepEight (releaseKept (s.schMap fun y => { y with combined := y.combined.erase e }) e.1) e.1.line) s

/-- The link that a waiting work request is for. -/
def askLink : Ask → Nat
  | .word e _ => domainDie (endDomain e) - 1
  | .wake d => domainDie d - 1
  | .trim h _ _ => h / 16
  | .vcox _ => 2
  | .dom _ _ d => domainDie d - 1

/-- DOM's operation waits for the link: it completes refused (R29, R613). -/
def domAskLost (s : State) (n : Nat) : State :=
  if s.asks.any (fun x => match x with | .dom _ _ d => domainDie d = n + 1 | _ => false) then
    (s.put DOM.DOM_CMD.BUSY 0).put DOM.DOM_CMD.RESULT 1
  else s

/-- Link `n` is lost (R28, R29): LINK_UP clears, flits on it are lost, accesses that waited for it are answered, and the
die's work completes with DOMAIN_RESET; Rigger retracts loaded actuators (R227). -/
def linkLost (s : State) (n : Nat) : State :=
  let s := domAskLost (setTraining (setLinkUp (s.setLink n {}) n false) n false) n
  let s := waitsLost { s with
    notices := s.notices.filter fun x => (pageOf x.page).map Page.die ≠ some (n + 1)
    asks := s.asks.filter fun x => askLink x ≠ n } n
  let s := (dieLanes (n + 1)).foldl loseLane (if n < 2 then s.setLdp n { s.ldp n with reports := [] } else s)
  let s := loseCombined s (n + 1)
  let s := if n = 3 then keelLost s else s
  if n = 2 then retractAll s else s

/-- Link `n` goes down after failed training, a fault that makes its die unreachable (level 5), or because LINK_EN is
written 0, which is none (level 7): EV090 (R28, R29, R33, R49). -/
def linkDown (s : State) (n level : Nat) : State := raise (linkLost s n) ⟨.brz, 0⟩ 0 level

/-- A flit of one direction fails its CRC (R28): it is replayed and counted; the sixteenth in a row makes the link
retrain in both directions. EV092 at each multiple of 1,024 and on saturation (R49). -/
def flitFails (s : State) (n : Nat) (toCox : Bool) : State :=
  let x := s.link n
  let before := s.get BRZ.LINK_ERR.RETRY_CNT 0 n
  let s := s.bump BRZ.LINK_ERR.RETRY_CNT 1 0 n
  let c := s.get BRZ.LINK_ERR.RETRY_CNT 0 n
  let s := raiseIf (c ≠ before && (c % 1024 = 0 || c = 0xFFFF)) s ⟨.brz, 0⟩ 2 7
  let k := (if toCox then x.failIn else x.failOut) + 1
  if 16 ≤ k then startTraining s n
  else s.setLink n (if toCox then { x with failIn := k } else { x with failOut := k })

/-- A good flit restarts its direction's count; a reply whose epoch is no longer that of the domain that issued the
request is discarded and counted (R28, R30). -/
def flitGood (s : State) (n : Nat) (toCox : Bool) (c : FlitClass) (d epoch : Nat) : State :=
  let x := s.link n
  let s := s.setLink n (if toCox then { x with failIn := 0 } else { x with failOut := 0 })
  if toCox && c = .reply && epoch ≠ (s.dom d).epoch then
    raise (s.bump BRZ.LINK_ERR.STALE_CNT 1 0 n) ⟨.brz, 0⟩ 3 7
  else s

/-- FLIT_RECEIVE (R27, R28, R30): a flit arrives only where none of an earlier class waits to be sent. -/
def execFlitReceive (link : Fin 4) (toCox good : Bool) (cls : FlitClass) (dom : Fin 96) (epoch : BitVec 8)
    (s : State) : Result :=
  .next (
    let n := link.val
    if !linkUp s n || linkTraining s n || !flitTurn s n toCox cls then s
    else if good then flitGood s n toCox cls dom.val epoch.toNat
    else flitFails s n toCox)

/-- A training ends well (R28): the link is up and EV091 is raised. -/
def trained (s : State) (n : Nat) : State :=
  raise (setTraining (setLinkUp (s.setLink n { s.link n with failIn := 0, failOut := 0, attempts := 0 }) n true) n false)
    ⟨.brz, 0⟩ 1 7

/-- LINK_TRAINING_FAIL (R28): the next attempt begins, and the third failure in a row leaves the link down. -/
def execLinkTrainingFail (link : Fin 4) (s : State) : Result :=
  .next (
    let n := link.val
    if !linkTraining s n then s
    else
      let k := (s.link n).attempts + 1
      if 3 ≤ k then linkDown s n 5 else s.setLink n { s.link n with attempts := k })

/-- A LINK_EN bit changes (R29, R48): 0 to 1 starts the link's training, 1 to 0 takes the link down. -/
def linkSwitch (old new : Nat) (s : State) (n : Nat) : State :=
  if !bit old n && bit new n then startTraining s n
  else if bit old n && !bit new n && (linkUp s n || linkTraining s n) then linkDown s n 7
  else s

/-- A write of BRZ_CTL (R48). -/
def brzCtlWrite (q : Req) (w : Word) (s : State) : State :=
  let old := s.get BRZ.BRZ_CTL.LINK_EN
  let s := plainWrite s q ⟨.brz, 0⟩ 0x040 w
  (List.range 4).foldl (linkSwitch old (s.get BRZ.BRZ_CTL.LINK_EN)) s

/-- LINK_ENABLE (R48): a write of BRZ.BRZ_CTL. -/
def execLinkEnable (q : Req) (w : BitVec 32) (s : State) : Result :=
  .next (guarded s q ⟨.brz, 0⟩ 0x040 w (brzCtlWrite q w))

/-- LINK_DISABLE (R29): a write of BRZ.BRZ_CTL. -/
def execLinkDisable (q : Req) (w : BitVec 32) (s : State) : Result :=
  .next (guarded s q ⟨.brz, 0⟩ 0x040 w (brzCtlWrite q w))

/-- A write of any BRZ register (R48). -/
def brzWrite (q : Req) (off : Nat) (w : Word) (s : State) : State :=
  if off = 0x040 then brzCtlWrite q w s else plainWrite s q ⟨.brz, 0⟩ off w

end Sys2Proof.Machine
end

