-- ==== Sys2Proof/Machine/Sequencer.lean ====
section
/-! DEFINITION. Stroke sequencers: the words they run, launches, stroke budgets, loading and authentication of control
stores (chapter "Stroke sequencers and control stores"). The function of an ALU, MEM, REG, LAUNCH, TAG or MSG word is
named by FN, whose codes the spec does not give: the command names it (log 16). -/

namespace Sys2Proof.Machine

open Sys2Proof

/-! Control stores (R240, R259). -/

/-- CORR counts; EV103 / EV135 at multiples of 256 and at saturation (R265). -/
def countCorrected (s : State) (d : Nat) : State :=
  let before := s.get SEQ.ECC_CNT.CORR d
  let s := s.bump SEQ.ECC_CNT.CORR 1 d
  let v := s.get SEQ.ECC_CNT.CORR d
  raiseIf (v ≠ before && (v % 256 = 0 || v = 0xFFFF)) s (seqPage d) 7 0

/-- A store word read through SECDED (R240): none when it is uncorrectable. Three or more wrong bits are beyond the
code's guarantee: a free value says whether the word is detected, passes as stored or is changed further. -/
def readStore (s : State) (u w : Nat) : Option Nat × State :=
  let c := sget {} (s.sqr u).store w
  let d := unitSeq u
  let n := (bitList 137 c.err).length
  if n = 0 then (some c.data, s)
  else if n = 1 then (some c.data, countCorrected s d)
  else if n = 2 then (none, s.bump SEQ.ECC_CNT.UNCORR 1 d)
  else
    let v := s.free
    let s := s.drawn
    if v % 3 = 0 then (none, s.bump SEQ.ECC_CNT.UNCORR 1 d)
    else if v % 3 = 1 then (some (c.data ^^^ (c.err % 2 ^ 128)), s)
    else (some (s.free % 2 ^ 128), countCorrected s.drawn d)

/-- Soft errors change a stored word. -/
def disturb (s : State) (u w e : Nat) : State :=
  let x := s.sqr u
  let c := sget {} x.store w
  s.setSqr u { x with store := sset {} x.store w { c with err := c.err ^^^ e } }

/-- AUTH bit of a unit (R261). -/
def authOf (s : State) (u : Nat) : Bool := bit (s.get SEQ.SEQ_STAT.AUTH (unitSeq u)) (unitIdx u)
/-- Set AUTH of a unit. -/
def setAuth (s : State) (u : Nat) (v : Bool) : State :=
  s.put SEQ.SEQ_STAT.AUTH (setBit (s.get SEQ.SEQ_STAT.AUTH (unitSeq u)) (unitIdx u) v) (unitSeq u)

/-! Running words. -/

/-- The address in SQ_STAT.PC. -/
def pcOf (s : State) (u : Nat) : Nat := s.get SEQ.SQ_STAT.PC (unitSeq u) (unitIdx u)
/-- Set SQ_STAT.PC. -/
def setPc (s : State) (u v : Nat) : State := s.put SEQ.SQ_STAT.PC v (unitSeq u) (unitIdx u)

/-- A unit holds no tag and none is posted to its lane, and no launch of its own waits for its stroke (R247, R258): a
seek waits, committed or not, until its motion begins. -/
def idleUnit (s : State) (u : Nat) : Bool :=
  (7 < u || ((openTags s u).isEmpty && (s.lq u).order.isEmpty)) && !(s.launches.any fun x => x.unit = some u) &&
    !((s.srv (unitActuator u)).seeks.any fun k => !k.started &&
      (match k.tag with | some (n, _) => n = u | none => decide (7 < u)))

/-- The next address of a word (R244): sampled in the state before its effects; the fault of a push onto a full stack or
a pop from an empty one. -/
def nextAddress (s0 s : State) (u w : Nat) : State :=
  let x := s.sqr u
  let after := (pcOf s u + 1) % 4096
  let go := fun (s : State) (stack : List Nat) (a : Nat) =>
    setPc ((s.setSqr u { s.sqr u with stack := stack }).put SEQ.SQ_STAT.DEPTH stack.length (unitSeq u) (unitIdx u)) u a
  match wNxt w with
  | 0 => go s x.stack after
  | 1 => go s x.stack (jumpAddress s0 u w)
  | 2 => if 4 ≤ x.stack.length then seqFault s u .stack else go s (after :: x.stack) (jumpAddress s0 u w)
  | _ => match x.stack with
    | [] => seqFault s u .stack
    | a :: r => go s r a

/-- One more busy clock of the stroke (R249). -/
def countBusy (s : State) (u : Nat) : State :=
  let x := s.sqr u
  let s := s.setSqr u { x with busy := x.busy + 1 }
  s.put SEQ.SQ_BUDGET.BUSY_MAX (max (s.get SEQ.SQ_BUDGET.BUSY_MAX (unitSeq u) (unitIdx u)) (min (x.busy + 1) 0xFFFF))
    (unitSeq u) (unitIdx u)

/-- A word that is a safe point ends the count of R248; an easing sequencer that holds nothing enters HOLD before it
executes (R247): none then. -/
def safePoint (s : State) (u w : Nat) : Option State :=
  if !wSafe w then some s
  else
    let s := s.setSqr u { s.sqr u with sinceSafe := 0 }
    if s.get SEQ.SQ_CTL.EASY (unitSeq u) (unitIdx u) = 1 && idleUnit s u then none else some s

/-- Fetch the word at PC, `e` being what soft errors have changed in it, and run it as a word of class `op` (R240-R247):
`body` is its effect, which may fault. A word of another class is not this command's (log 16). -/
def fetchRun (s : State) (u e op : Nat) (body : Nat → State → State) : State :=
  if !working' s u then s
  else
    let r := readStore (disturb s u (pcOf s u) e) u (pcOf s u)
    let s := r.2
    match r.1 with
    | none => seqFault s u .uncorr
    | some w =>
      match safePoint s u w with
      | none => setUnitState (s.setSqr u { s.sqr u with sinceSafe := 0, waiting := false }) u stHold
      | some s =>
        if !opListed (wOp w) then seqFault s u .illegal
        else if wOp w ≠ op then s
        else body w s
where
  /-- the sequencer runs: its domain is live and its STATE is RUN or EASING -/
  working' (s : State) (u : Nat) : Bool :=
    domainLive s (unitDomain u) && (unitState s u = stRun || unitState s u = stEasing)

/-- A word of class `op` with effect `body`, then its next address; a word whose effect faults has none. -/
def runWord (s : State) (u e op : Nat) (body : Nat → State → State) : State :=
  fetchRun s u e op fun w s0 =>
    let s := s0.setSqr u { clearSampled w (s0.sqr u) with waiting := false }
    let s := body w (countBusy s u)
    if unitState s u = stFault then s else nextAddress s0 s u w

/-- SEQ_NOP (R243, R244, R247). -/
def execSeqNop (u : Fin 12) (e : BitVec 137) (s : State) : Result :=
  .next (runWord s u.val e.toNat 0x00 fun _ s => s)

/-! ALU words (R240, R243). -/

/-- An ALU word: `f` gives the result and C and V; no result is written for a compare. -/
def aluWord (s : State) (u e : Nat) (write : Bool) (f : Nat → Nat → State → Nat × Bool × Bool × State) : State :=
  runWord s u e 0x01 fun w s =>
    let x := s.sqr u
    let r := f (x.srcA w) (x.aluB w) s
    let x := { (r.2.2.2.sqr u).setZN r.1 with c := r.2.1, v := r.2.2.1 }
    r.2.2.2.setSqr u (if write then x.setReg (wDst w) r.1 else x)

/-- A result with free C and V (log 24). -/
def freeCV (r : Nat) (s : State) : Nat × Bool × Bool × State :=
  (r, freeFlag s.free, freeFlag s.drawn.free, s.drawn.drawn)

/-- A shift by up to 31 places; a greater amount gives a free result (log 24). -/
def shiftBy (f : Nat → Nat → Nat) (a b : Nat) (s : State) : Nat × Bool × Bool × State :=
  if b < 32 then freeCV (f a b) s else freeCV (s.free % 2 ^ 32) s.drawn

/-- ALU_ADD. -/
def execAluAdd (u : Fin 12) (e : BitVec 137) (s : State) : Result :=
  .next (aluWord s u.val e.toNat true fun a b s => ((a + b) % 2 ^ 32, addCarry a b, addOverflow a b, s))
/-- ALU_SUBTRACT: which way C goes is not stated (log 24). -/
def execAluSubtract (u : Fin 12) (e : BitVec 137) (s : State) : Result :=
  .next (aluWord s u.val e.toNat true fun a b s => (diff32 a b, freeFlag s.free, subOverflow a b, s.drawn))
/-- ALU_AND. -/
def execAluAnd (u : Fin 12) (e : BitVec 137) (s : State) : Result :=
  .next (aluWord s u.val e.toNat true fun a b s => freeCV (a &&& b) s)
/-- ALU_OR. -/
def execAluOr (u : Fin 12) (e : BitVec 137) (s : State) : Result :=
  .next (aluWord s u.val e.toNat true fun a b s => freeCV (a ||| b) s)
/-- ALU_XOR. -/
def execAluXor (u : Fin 12) (e : BitVec 137) (s : State) : Result :=
  .next (aluWord s u.val e.toNat true fun a b s => freeCV (a ^^^ b) s)
/-- ALU_SHIFT_LEFT. -/
def execAluShiftLeft (u : Fin 12) (e : BitVec 137) (s : State) : Result :=
  .next (aluWord s u.val e.toNat true (shiftBy fun a b => a * 2 ^ b % 2 ^ 32))
/-- ALU_SHIFT_RIGHT. -/
def execAluShiftRight (u : Fin 12) (e : BitVec 137) (s : State) : Result :=
  .next (aluWord s u.val e.toNat true (shiftBy fun a b => a / 2 ^ b))
/-- ALU_ARITH_SHIFT_RIGHT. -/
def execAluArithShiftRight (u : Fin 12) (e : BitVec 137) (s : State) : Result :=
  .next (aluWord s u.val e.toNat true (shiftBy fun a b => unsigned 32 (signed 32 a / 2 ^ b)))
/-- ALU_COMPARE: the flags of a subtraction, no result written (log 24). -/
def execAluCompare (u : Fin 12) (e : BitVec 137) (s : State) : Result :=
  .next (aluWord s u.val e.toNat false fun a b s => (diff32 a b, freeFlag s.free, subOverflow a b, s.drawn))

/-! MEM words (R240, R243): IMM[8:0] + SRCA; beyond word 511 the effect is free (log 25). -/

/-- The local RAM index of a MEM word. -/
def memIndex (x : Sqr) (w : Nat) : Nat := wImm w % 512 + x.srcA w

/-- MEM_LOAD. -/
def execMemLoad (u : Fin 12) (e : BitVec 137) (s : State) : Result :=
  .next (runWord s u.val e.toNat 0x10 fun w s =>
    let x := s.sqr u.val
    let k := memIndex x w
    if k < 512 then s.setSqr u.val (x.setReg (wDst w) (sget 0 x.ram k))
    else s.drawn.setSqr u.val (x.setReg (wDst w) s.free))

/-- MEM_STORE: SRCB is stored (log 25). -/
def execMemStore (u : Fin 12) (e : BitVec 137) (s : State) : Result :=
  .next (runWord s u.val e.toNat 0x10 fun w s =>
    let x := s.sqr u.val
    let k := memIndex x w
    if k < 512 then s.setSqr u.val { x with ram := sset 0 x.ram k (x.srcB w) }
    else s.drawn.setSqr u.val { x with ram := sset 0 x.ram (s.free % 512) (x.srcB w) })

/-! Launches (R41, R43, R44, R174, R211, R243, R252). -/

/-- A launch that is late or UNLOCKED at a sequencer counts; a late one raises (R43, R264, R265). -/
def countLaunch (s : State) (u st : Nat) : State :=
  let s := if st = statusLate || st = statusUnlocked then
    s.bump SEQ.SQ_ERR.LATE_CNT 1 (unitSeq u) (unitIdx u) else s
  raiseIf (st = statusLate) s (seqPage (unitSeq u)) 5 7

/-- Lane `m` serves head `h`: its sequencer's tag, a TAKEN tag, a launch of a gate that waits, or its write is on that
head (R36). -/
def laneServes (s : State) (m h : Nat) : Bool :=
  (match (s.sqr m).tag with
    | some t => decide (psaHead (s.tag m t).psa % 8 = h)
    | none => false) ||
  ((List.range 32).any fun t => (s.tag m t).st = .taken && decide (psaHead (s.tag m t).psa % 8 = h)) ||
  (s.launches.any fun x => (x.kind = .readGate || x.kind = .writeGate) && x.inst = m && x.head = h) ||
  (s.lane m).write.any fun j => decide (j.head = h)

/-- The other lane of the actuator serves head `h` (R36). -/
def otherLaneOn (s : State) (n h : Nat) : Bool := (lanesOf (n / 2)).any fun m => m ≠ n && laneServes s m h

/-- A gate launch of lane `n` for tag `t` (R36, R41, R43, R57, R167, R179, R211): its status. -/
def launchGate (s : State) (k : LaunchKind) (n t low phase : Nat) : Nat × State :=
  let a := n / 2
  let x := s.tag n t
  let h := psaHead x.psa % 8
  if !x.open' || otherLaneOn s n h then (statusRefused, s)
  else if (if k = .writeGate then !locked s || accelerating s else s.get BRZ.STROKE_STAT.MODE = 2) then (statusUnlocked, s)
  else if k = .writeGate && (headFaulty s a h || writeW s a h < 80 || 224 < writeW s a h) then (statusHeadFault, s)
  else match launchStroke (strokeAt s (n / 4 + 1)) low with
    | none => (statusLate, s)
    | some m =>
      if joinRefusal s a h (psaTrack x.psa) ≠ 0 then (joinRefusal s a h (psaTrack x.psa), s)
      else
        let y : Launch := { kind := k, inst := n, head := h, stroke := m, phase := phase, tag := some t, unit := some n }
        (0, joinHead (takeTag { s with launches := s.launches ++ [y] } n t) a h (psaTrack x.psa))

/-- An assist step of head `h` for rate band `band` (R41, R43, R172, R174, R179): its status. -/
def launchStep (s : State) (a h band low phase : Nat) (unit : Option Nat) : Nat × State :=
  if !locked s || accelerating s then (statusUnlocked, s)
  else if headFaulty s a h then (statusHeadFault, s)
  else match launchStroke (strokeAt s (a / 2 + 1)) low with
    | none => (statusLate, raise (s.bump AST.STEP_ERR.LATE_CNT 1 a) (astPage a) 3 7)
    | some m =>
      if !stepFits s a (armFrames (takeWords s a h) a h band).length phase then
        (statusNoFit, raise (s.bump AST.STEP_ERR.NOFIT_CNT 1 a) (astPage a) 3 7)
      else (0, { s with launches := s.launches ++
        [{ kind := .assistStep, inst := a, head := h, stroke := m, phase := phase, band := band, unit := unit }] })

/-- A load or an unload of actuator `a` (R43, R225, R226): its status. -/
def launchHeads (s : State) (k : LaunchKind) (a h low phase : Nat) (unit : Option Nat) : Nat × State :=
  if !locked s || accelerating s then (statusUnlocked, s)
  else match launchStroke (strokeAt s (a / 2 + 1)) low with
  | none => (statusLate, raise s (srvPage a) 2 7)
  | some m => (0, { s with launches := s.launches ++
      [{ kind := k, inst := a, head := h, stroke := m, phase := phase, unit := unit }] })

/-- A LAUNCH word (R243): the status goes to DST, and condition 20 says whether it was refused. -/
def launchWord (s : State) (u e : Nat) (f : Nat → Nat → State → Nat × State) : State :=
  runWord s u e 0x18 fun w s =>
    let r := f ((s.sqr u).srcA w % 2 ^ 16) (wImm w % 4096) s
    let s := countLaunch r.2 u r.1
    s.setSqr u { (s.sqr u).setReg (wDst w) r.1 with refused := decide (r.1 ≠ 0) }

/-- With the current tag of a lane sequencer; a servo sequencer, or one without a tag, is refused. -/
def withTag (s : State) (u : Nat) (f : Nat → Nat × State) : Nat × State :=
  match (s.sqr u).tag with
  | some t => if u < 8 then f t else (statusRefused, s)
  | none => (statusRefused, s)

/-- LAUNCH_READ_GATE (R36, R43, R57, R211, R243). -/
def execLaunchReadGate (u : Fin 12) (e : BitVec 137) (s : State) : Result :=
  .next (launchWord s u.val e.toNat fun low phase s =>
    withTag s u.val fun t => launchGate s .readGate u.val t low phase)

/-- LAUNCH_WRITE_GATE (R41, R43, R167, R179, R243). -/
def execLaunchWriteGate (u : Fin 12) (e : BitVec 137) (s : State) : Result :=
  .next (launchWord s u.val e.toNat fun low phase s =>
    withTag s u.val fun t => launchGate s .writeGate u.val t low phase)

/-- LAUNCH_ASSIST_STEP (R41, R43, R172, R174, R243): the head and rate band of the lane's current tag. -/
def execLaunchAssistStep (u : Fin 12) (e : BitVec 137) (s : State) : Result :=
  .next (launchWord s u.val e.toNat fun low phase s =>
    withTag s u.val fun t =>
      let psa := (s.tag u.val t).psa
      launchStep s (u.val / 2) (psaHead psa % 8) (psaBand s psa) low phase (some u.val))

/-- LAUNCH_SEEK (R209, R243): a lane sequencer seeks to its tag's track, a servo sequencer to SEEK_TGT. -/
def execLaunchSeek (u : Fin 12) (e : BitVec 137) (s : State) : Result :=
  .next (launchWord s u.val e.toNat fun low _ s =>
    if u.val < 8 then withTag s u.val fun t =>
      let x := s.tag u.val t
      if x.open' then seekLaunch s (u.val / 2) (psaHead x.psa % 8) (psaTrack x.psa * 1024) low true (some (u.val, t))
      else (statusRefused, s)
    else
      let a := u.val - 8
      seekLaunch s a (s.get SRV.SEEK_REQ.HEAD a) (s.get SRV.SEEK_TGT.POS a) low (s.get SRV.SEEK_REQ.FULL a = 1) none)

/-- LAUNCH_LOAD (R225, R243): servo sequencers load heads. -/
def execLaunchLoad (u : Fin 12) (e : BitVec 137) (s : State) : Result :=
  .next (launchWord s u.val e.toNat fun low phase s =>
    if u.val < 8 then (statusRefused, s)
    else launchHeads s .load (u.val - 8) (s.get SRV.SEEK_REQ.HEAD (u.val - 8)) low phase (some u.val))

/-- LAUNCH_UNLOAD (R226, R243). -/
def execLaunchUnload (u : Fin 12) (e : BitVec 137) (s : State) : Result :=
  .next (launchWord s u.val e.toNat fun low phase s =>
    if u.val < 8 then (statusRefused, s) else launchHeads s .unload (u.val - 8) 0 low phase (some u.val))

/-! WAIT words (R243, R245). -/

/-- The clock after the one in which a WAIT ends, TMO then being `tmo` (R245): the next address is formed of the
conditions as they stand in that clock, and those it samples clear. -/
def waitEnds (s : State) (u w : Nat) (tmo : Bool) : State :=
  let s1 := s.setSqr u { s.sqr u with waiting := false, tmo := tmo }
  nextAddress s1 (s1.setSqr u (clearSampled w (s1.sqr u))) u w

/-- SEQ_WAIT: one clock of a WAIT samples its condition; it ends when that is 1, else the word repeats. -/
def execSeqWait (u : Fin 12) (e : BitVec 137) (s : State) : Result :=
  .next (fetchRun s u.val e.toNat 0x1C fun w s0 =>
    let s := s0.setSqr u.val (clearCond (wCsel w 0) (s0.sqr u.val))
    if wordCond s0 u.val w 0 then waitEnds s u.val w false
    else s.setSqr u.val { s.sqr u.val with waiting := true })

/-- WAIT_TIMEOUT: IMM[31:0] clocks have passed and the condition is still 0. -/
def execWaitTimeout (u : Fin 12) (e : BitVec 137) (s : State) : Result :=
  .next (fetchRun s u.val e.toNat 0x1C fun w s0 =>
    if wordCond s0 u.val w 0 then s0
    else waitEnds (s0.setSqr u.val (clearCond (wCsel w 0) (s0.sqr u.val))) u.val w true)

/-! TAG words (R243, R252-R255). -/

/-- A TAG word ends the count of condition 16 (R246). -/
def tagWord (s : State) (u e : Nat) (body : Nat → State → State) : State :=
  runWord s u e 0x20 fun w s =>
    if u < 8 then body w (s.setLane u { s.lane u with frameDone := false }) else s

/-- A START_STROKE that has passed lies up to 32,768 strokes behind (R43, R252). -/
def strokePassed (now low : Nat) : Bool := decide (32767 < (low + 2 ^ 16 - now % 2 ^ 16) % 2 ^ 16)

/-- TAG_TAKE (R36, R211, R252): the oldest POSTED tag becomes the sequencer's; one whose START_STROKE has passed
completes LATE. A tag of a head the other lane works on waits, and so does every tag behind one whose entry is still to
come. -/
def execTagTake (u : Fin 12) (e : BitVec 137) (s : State) : Result :=
  .next (tagWord s u.val e.toNat fun _ s =>
    let n := u.val
    match (s.lq n).order with
    | [] => s
    | t :: _ =>
      let x := s.tag n t
      if x.st ≠ .posted || otherLaneOn s n (psaHead x.psa % 8) then s
      else if strokePassed (strokeAt s (n / 4 + 1)) x.startStroke then completeTag s n t { status := 7 }
      else
        let s := s.setSqr n { s.sqr n with tag := some t }
        let v := s.srv (n / 2)
        if x.paired then s.setSrv (n / 2) { v with flags := setBit v.flags 1 true } else s)

/-- TAG_READ_FIELD: the 32-bit word of the entry at byte IMM[4:0] (log 25). -/
def execTagReadField (u : Fin 12) (e : BitVec 137) (s : State) : Result :=
  .next (tagWord s u.val e.toNat fun w s =>
    match (s.sqr u.val).tag with
    | none => s
    | some t => s.setSqr u.val ((s.sqr u.val).setReg (wDst w)
        (leNat (((s.tag u.val t).entry.drop (wImm w % 32)).take 4))))

/-- TAG_WRITE_RESULT (R251-R255): the oldest read result of the lane goes to its record's place, its accepted payload
to its sector's. -/
def execTagWriteResult (u : Fin 12) (e : BitVec 137) (s : State) : Result :=
  .next (tagWord s u.val e.toNat fun _ s =>
    let n := u.val
    let d := n / 4
    let s := dropStale s d
    let l := s.ldp d
    match (s.sqr n).tag, l.results.find? (fun r => r.lane = n % 4 && !r.verify && !bit r.record 117) with
    | some t, some r =>
      let s := s.setLdp d { l with results := l.results.erase r }
      let x := s.tag n t
      match sectorIndex s x (psaSlot (bits r.record 0 40)) with
      | none => s
      | some i =>
        let st := bits r.record 40 4
        let s := memWrite s (x.resAddr + 16 * i) (leBytes 16 r.record)
        let s := if st = 0 && x.op ≠ 2 then memWrite s (x.bufAddr + 4128 * i) (r.payload.take 4112) else s
        let s := if x.op = 2 && st ≠ 5 then countVerify s (n / 2) (psaHead x.psa % 8) r.record else s
        s.setTag n t { x with
          done := x.done + 1, incomplete := x.incomplete || decide (st ≠ 0)
          requeue := if st = 5 && x.requeue.isNone then some 4 else x.requeue }
    | _, _ => s)

/-- TAG_COMPLETE (R253-R255): STATUS in SRCA[3:0], REASON in SRCA[6:4] (log 25). A write first ends its frame and
waits for its verify results, a read gate closes. -/
def execTagComplete (u : Fin 12) (e : BitVec 137) (s : State) : Result :=
  .next (tagWord s u.val e.toNat fun w s =>
    let n := u.val
    match (s.sqr n).tag with
    | none => s
    | some t =>
      let v := (s.sqr n).srcA w
      stopTag (closeReadGate s n) n t (v % 16) (v / 16 % 8))

/-! MSG and SIG words. -/

/-- A word that a unit's sequencer pushes: over a link that trains it waits, over one that is down it is discarded (R28,
R29, R463). -/
def unitPush (s : State) (u w : Nat) : State :=
  let die := unitSeq u + 1
  if dieTraining s die then s.ask (.word (unitEndpoint u) w)
  else if dieUp s die && domainLive s mbxPage.domain then outPush s (unitEndpoint u) w
  else s

/-- MSG_SEND (R243, R463, R464): a word of SRCA to the outbound queue (log 25). -/
def execMsgSend (u : Fin 12) (e : BitVec 137) (s : State) : Result :=
  .next (runWord s u.val e.toNat 0x24 fun w s => unitPush s u.val ((s.sqr u.val).srcA w))

/-- MSG_RECEIVE (R243, R463): the oldest inbound word to DST. While the link trains the word waits for its reply (R28);
over a link that is down it reads zero (R29). -/
def execMsgReceive (u : Fin 12) (e : BitVec 137) (s : State) : Result :=
  .next (
    if dieTraining s (unitSeq u.val + 1) then s
    else runWord s u.val e.toNat 0x24 fun w s =>
      let r := if dieUp s (unitSeq u.val + 1) then inPop s (unitEndpoint u.val) else (0, s)
      r.2.setSqr u.val ((r.2.sqr u.val).setReg (wDst w) r.1))

/-- SEQ_SIG (R243). -/
def execSeqSig (u : Fin 12) (e : BitVec 137) (s : State) : Result :=
  .next (runWord s u.val e.toNat 0x28 fun w s =>
    let t := wImm w % 8
    if t < 6 then
      let v := seqUnit (unitSeq u.val) t
      s.setSqr v { s.sqr v with sig := true }
    else s)

/-! Safe points and budget (R248, R249). -/

/-- SEQ_WATCHDOG (R248): the catches since the last safe point reach SAFE_LIMIT. -/
def execSeqWatchdog (u : Fin 12) (s : State) : Result :=
  .next (
    let lim := max 1 (s.get SEQ.SQ_ERR.SAFE_LIMIT (unitSeq u.val) (unitIdx u.val))
    if fetchRun.working' s u.val && decide (lim ≤ (s.sqr u.val).sinceSafe) then seqFault s u.val .watchdog else s)

/-- SEQ_BUDGET_OVERRUN (R249): counted once in a stroke, and the sequencer continues. -/
def execSeqBudgetOverrun (u : Fin 12) (s : State) : Result :=
  .next (
    let d := unitSeq u.val
    let x := s.sqr u.val
    if !x.overran && decide (s.get SEQ.SQ_BUDGET.BUDGET d (unitIdx u.val) ≤ x.busy) then
      raise ((s.setSqr u.val { x with overran := true }).bump SEQ.SQ_ERR.OVERRUN_CNT 1 d (unitIdx u.val)) (seqPage d) 4 7
    else s)

/-! Loading and authentication (R260-R263). -/

/-- A store may be written: STATE is HOLD or OFF (R260). -/
def storeOpen (s : State) (u : Nat) : Bool := unitState s u = stHold || unitState s u = stOff

/-- Put a whole word, with valid check bits. -/
def putWord (s : State) (u w v : Nat) : State :=
  let x := s.sqr u
  setAuth (s.setSqr u { x with store := sset {} x.store w ⟨v, 0⟩ }) u false

/-- A load ends with a RESULT (R260, R264). -/
def loadEnd (s : State) (d r : Nat) : State :=
  let b := sget {} s.seqs d
  let s := { s with seqs := sset {} s.seqs d { b with load := none } }
  raise ((s.put SEQ.LOAD_CTL.RESULT r d).put SEQ.LOAD_CTL.BUSY 0 d) (seqPage d) 2 7

/-- A write of LOAD_CTL (R260, R264). -/
def loadCtlWrite (q : Req) (d : Nat) (w : Word) (s : State) : State :=
  let busy := s.get SEQ.LOAD_CTL.BUSY d = 1
  let s := plainWrite s q (seqPage d) 0x04C w
  if SEQ.LOAD_CTL.GO.of w = 0 || busy then s
  else
    let k := SEQ.LOAD_CTL.Q.of w
    let first := SEQ.LOAD_CTL.FIRST.of w
    let c := SEQ.LOAD_CTL.COUNT.of w
    let count := if c = 0 then 4096 else c
    if 5 < k || 4096 < first + count || !storeOpen s (seqUnit d k) then loadEnd s d 1
    else
      let b := sget {} s.seqs d
      let s := { s with
        seqs := sset {} s.seqs d { b with load := some (k, first, count, s.get SEQ.LOAD_ADDR.ADDR d * 4096) } }
      s.put SEQ.LOAD_CTL.BUSY 1 d

/-- SEQ_LOAD_START (R260). -/
def execSeqLoadStart (q : Req) (seq : Fin 2) (w : BitVec 32) (s : State) : Result :=
  .next (guarded s q (seqPage seq.val) 0x04C w (loadCtlWrite q seq.val w))

/-- Words of a load from buffer memory in index order; a poisoned one stops it (R260). Answers whether it was stopped. -/
def loadWords (u a : Nat) : Nat → Nat → State → Bool × State
  | 0, _, s => (false, s)
  | n + 1, w, s =>
    let r := memRead s .other a 16
    if r.1.poison then (true, r.2) else loadWords u (a + 16) n (w + 1) (putWord r.2 u w (leNat r.1.bytes))

/-- SEQ_LOAD_COMPLETE (R260). A store that is no longer in HOLD or OFF takes no words. -/
def execSeqLoadComplete (seq : Fin 2) (s : State) : Result :=
  .next (
    let d := seq.val
    match (sget {} s.seqs d).load with
    | none => s
    | some (k, first, count, a) =>
      if !storeOpen s (seqUnit d k) then loadEnd s d 1
      else
        let r := loadWords (seqUnit d k) a count first s
        loadEnd r.2 d (if r.1 then 2 else 0))

/-- PART rises after an access to CS_DATA, WORD after part 3 (R264). -/
def csStep (s : State) (d : Nat) : State :=
  let p := s.get SEQ.CS_WIN.PART d
  let s := s.put SEQ.CS_WIN.PART (p + 1) d
  if p = 3 then s.put SEQ.CS_WIN.WORD (s.get SEQ.CS_WIN.WORD d + 1) d else s

/-- A write of CS_DATA (R260): a part of the word CS_WIN selects, which gets fresh check bits. -/
def csDataWrite (d : Nat) (w : Word) (s : State) : State :=
  let k := s.get SEQ.CS_WIN.Q d
  let u := seqUnit d k
  if 5 < k || !storeOpen s u then csStep s d
  else
    let word := s.get SEQ.CS_WIN.WORD d
    let p := s.get SEQ.CS_WIN.PART d
    let r := readStore s u word
    let old := r.1.getD (sget {} (s.sqr u).store word).data
    csStep (putWord r.2 u word (old - bits old (32 * p) 32 * 2 ^ (32 * p) + w.toNat * 2 ^ (32 * p))) d

/-- A read of CS_DATA. An uncorrectable word reads as stored. -/
def csDataRead (d : Nat) (s : State) : Nat × State :=
  let k := s.get SEQ.CS_WIN.Q d
  if 5 < k then (0, csStep s d)
  else
    let word := s.get SEQ.CS_WIN.WORD d
    let c := sget {} (s.sqr (seqUnit d k)).store word
    let r := readStore s (seqUnit d k) word
    (bits (r.1.getD (c.data ^^^ (c.err % 2 ^ 128))) (32 * s.get SEQ.CS_WIN.PART d) 32, csStep r.2 d)

/-- CS_DATA_ACCESS (R260). -/
def execCsDataAccess (q : Req) (seq : Fin 2) (w : Option (BitVec 32)) (s : State) : Result :=
  .next (match w with
    | some w => guarded s q (seqPage seq.val) 0x054 w (csDataWrite seq.val w)
    | none => guardedRead s q (seqPage seq.val) 0x054 (csDataRead seq.val))

/-- A write of DIG_CTL (R261): ignored while a load or a digest runs. -/
def digCtlWrite (q : Req) (d : Nat) (w : Word) (s : State) : State :=
  let busy := s.get SEQ.LOAD_CTL.BUSY d = 1 || s.get SEQ.DIG_CTL.BUSY d = 1
  let s := plainWrite s q (seqPage d) 0x058 w
  let k := SEQ.DIG_CTL.Q.of w
  if SEQ.DIG_CTL.GO.of w = 0 || busy || 5 < k then s
  else
    let b := sget {} s.seqs d
    ({ s with seqs := sset {} s.seqs d { b with digest := some k } } : State).put SEQ.DIG_CTL.BUSY 1 d

/-- DIGEST_START (R261). -/
def execDigestStart (q : Req) (seq : Fin 2) (w : BitVec 32) (s : State) : Result :=
  .next (guarded s q (seqPage seq.val) 0x058 w (digCtlWrite q seq.val w))

/-- The bytes of a store, least significant first, each word as SECDED delivers it (R260, R261). -/
def storeBytes (s : State) (u : Nat) : Nat → Nat → List Nat × State
  | 0, _ => ([], s)
  | n + 1, w =>
    let c := sget {} (s.sqr u).store w
    let r := readStore s u w
    let t := storeBytes r.2 u n (w + 1)
    (leBytes 16 (r.1.getD (c.data ^^^ (c.err % 2 ^ 128))) ++ t.1, t.2)

/-- DIGEST_COMPLETE (R261). -/
def execDigestComplete (seq : Fin 2) (s : State) : Result :=
  .next (
    let d := seq.val
    let b := sget {} s.seqs d
    match b.digest with
    | none => s
    | some k =>
      let r := storeBytes s (seqUnit d k) 4096 0
      let h := leNat (shake256 r.1)
      let s : State := { r.2 with seqs := sset {} r.2.seqs d { b with digest := none } }
      let s := (List.range 8).foldl (fun s i => s.put SEQ.DIGEST.DIGEST (bits h (32 * i) 32) d i) s
      let ok := (List.range 8).all fun i => s.get SEQ.DIGEST.DIGEST d i = s.get SEQ.EXPECT.EXPECT d i
      let s := raise ((setAuth s (seqUnit d k) ok).put SEQ.DIG_CTL.BUSY 0 d) (seqPage d) 2 7
      raiseIf (!ok) s (seqPage d) 3 7)

/-! SQ_CTL (R258, R262, R264, R611). -/

/-- A sequencer starts at SQ_ENTRY and reads RUN (R262). -/
def startUnit (s : State) (u : Nat) : State :=
  let d := unitSeq u
  let k := unitIdx u
  let x := s.sqr u
  let s := s.setSqr u { x with stack := [], sinceSafe := 0, waiting := false, disabling := false }
  setUnitState (setPc (s.put SEQ.SQ_STAT.DEPTH 0 d k) u (s.get SEQ.SQ_ENTRY.ADDR d k)) u stRun

/-- A HOLD_REL of a sequencer (R19, R262). -/
def releaseUnit (s : State) (u : Nat) : State :=
  if !authOf s u then raise s (seqPage (unitSeq u)) 3 7
  else if unitState s u = stHold && s.get SEQ.SQ_CTL.EASY (unitSeq u) (unitIdx u) = 0 then startUnit s u
  else s

/-- ENABLE goes to 0 while the sequencer runs (R257, R258): TAKEN tags end at their next sector boundary and POSTED
tags at once, with REQUEUE reason 5. -/
def disableUnit (s : State) (u : Nat) : State :=
  let s := s.setSqr u { s.sqr u with disabling := true }
  let s := if u < 8 then
      let s := ((List.range 32).filter fun t => (s.tag u t).st = .taken).foldl (fun s t =>
        s.setTag u t { s.tag u t with requeue := some 5 }) s
      endPosted s u 1 5
    else s
  settleDisable s u

/-- The state change of a write of SQ_CTL (R611): `en` and `ez` are the fields' old values. DESIGN CHOICE: only a change
of ENABLE from 1 to 0 takes a sequencer out of HOLD to OFF, so one that a reset has left in HOLD with ENABLE 0 stays
there when 0 is written again (log 84). -/
def sqTransition (s : State) (u en ez : Nat) : State :=
  let d := unitSeq u
  let k := unitIdx u
  let st := unitState s u
  let en' := s.get SEQ.SQ_CTL.ENABLE d k
  let ez' := s.get SEQ.SQ_CTL.EASY d k
  if st = stFault then s
  else if (s.sqr u).disabling then s.put SEQ.SQ_CTL.ENABLE 0 d k
  else if st = stOff then
    if en = 0 && en' = 1 then (if ez' = 1 then setUnitState s u stHold else startUnit s u) else s
  else if en = 1 && en' = 0 then (if st = stHold then setUnitState s u stOff else disableUnit s u)
  else if st = stRun && ez = 0 && ez' = 1 then setUnitState s u stEasing
  else if st = stEasing && ez' = 0 then setUnitState s u stRun
  else s

/-- A write of a sequencer's SQ_CTL (R53, R262, R264, R611). -/
def sqCtlWrite (q : Req) (u : Nat) (w : Word) (s : State) : State :=
  let d := unitSeq u
  let k := unitIdx u
  if !domainLive s (unitDomain u) then s
  else
    let en := s.get SEQ.SQ_CTL.ENABLE d k
    let ez := s.get SEQ.SQ_CTL.EASY d k
    let s := sqTransition (plainWrite s q (seqPage d) (0x100 + 0x20 * k) w) u en ez
    if SEQ.SQ_CTL.HOLD_REL.of w = 1 then releaseUnit s u else s

/-- A guarded write of a unit's SQ_CTL. -/
def sqCtlAccess (q : Req) (u : Nat) (w : Word) (s : State) : State :=
  guarded s q (seqPage (unitSeq u)) (0x100 + 0x20 * unitIdx u) w (sqCtlWrite q u w)

/-- SQ_ENABLE_SET (R611). -/
def execSqEnableSet (q : Req) (u : Fin 12) (w : BitVec 32) (s : State) : Result := .next (sqCtlAccess q u.val w s)
/-- SQ_ENABLE_CLEAR (R258). -/
def execSqEnableClear (q : Req) (u : Fin 12) (w : BitVec 32) (s : State) : Result := .next (sqCtlAccess q u.val w s)
/-- SQ_EASY_SET (R258). -/
def execSqEasySet (q : Req) (u : Fin 12) (w : BitVec 32) (s : State) : Result := .next (sqCtlAccess q u.val w s)
/-- SQ_EASY_CLEAR (R611). -/
def execSqEasyClear (q : Req) (u : Fin 12) (w : BitVec 32) (s : State) : Result := .next (sqCtlAccess q u.val w s)
/-- SQ_HOLD_REL (R262). -/
def execSqHoldRel (q : Req) (u : Fin 12) (w : BitVec 32) (s : State) : Result := .next (sqCtlAccess q u.val w s)

/-! Registers. -/

/-- LQ_BUSY as computed (R264). -/
def lqBusy (s : State) (n : Nat) : Nat :=
  ((List.range 32).filter fun t => (s.tag n t).st ≠ .free).foldl (fun m t => m + 2 ^ t) 0

/-- A write of any SEQ register but SEQ_CTL (R264). -/
def seqWrite (q : Req) (d off : Nat) (w : Word) (s : State) : State :=
  if off = 0x04C then loadCtlWrite q d w s
  else if off = 0x054 then csDataWrite d w s
  else if off = 0x058 then digCtlWrite q d w s
  else if 0x100 ≤ off && off < 0x1C0 && off % 0x20 = 0 then sqCtlWrite q (seqUnit d ((off - 0x100) / 0x20)) w s
  else if 0x200 ≤ off && off < 0x240 && off % 0x10 = 4 then lqCmdWrite (4 * d + (off - 0x204) / 0x10) w s
  else plainWrite s q (seqPage d) off w

end Sys2Proof.Machine
end

