-- ==== Sys2Proof/Machine/Stroke.lean ====
section
/-! DEFINITION. The stroke: Rigger's catches, tokens, the local timers of Cox and the Oar dies, launches and their
overruns, and the WINH wire at the Oar dies (chapter "Architecture and the stroke"). -/

namespace Sys2Proof.Machine

open Sys2Proof

/-! Rigger's catch. -/

/-- The stroke that a catch begins (R40, R414): a waiting period takes effect, and up to 32 phase units of phase error
are removed by the stroke's length. -/
def strokeLength (s : State) : State :=
  let g := s.gen
  let base := g.nextPeriod.getD g.base
  let shift := clampI (-32) 32 g.phaseErr
  let s := { s with gen := { g with base := base, nextPeriod := none, phaseErr := g.phaseErr - shift } }
  s.put BRZ.STROKE_PERIOD.PERIOD ((base : Int) + rdiv (base * shift) 4096).toNat

/-- Rigger sends an actuator's part of the stroke's sense flit (R199): the measured current and back-EMF are free values
(log 2), the rotational mean is that of the stroke's samples. -/
def senseFlit (s : State) (a : Nat) : State :=
  let cur := signed 16 s.free
  let emf := signed 16 s.drawn.free
  sendIn s.drawn.drawn 2 (.sense a cur emf (rotMean s.mac))

/-- STROKE_CATCH (R39, R40, R199, R414, R571). -/
def execStrokeCatch (s : State) : Result :=
  .next (
    let s := strokeLength { s with gen := { s.gen with stroke := (s.gen.stroke + 1) % 2 ^ 48 } }
    let s := if s.get BRZ.STROKE_STAT.MODE = 2 then tryLock s else s
    let s := (List.range 4).foldl senseFlit s
    if domainLive s rgtPage.domain then rgtCatch s else s)

/-! Tokens. -/

/-- CATCH_TOKEN_SEND (R42): the token for the next catch goes to Cox. -/
def execCatchTokenSend (s : State) : Result :=
  .next (
    let m := (s.gen.stroke + 1) % 2 ^ 48
    sendToken { s with gen := { s.gen with token := some m } } 2 true m)

/-- The field of CATCH_SKEW of a die. -/
def skewField (die : Nat) : Fld :=
  if die = 0 then BRZ.CATCH_SKEW.COX else if die = 1 then BRZ.CATCH_SKEW.OAR0 else BRZ.CATCH_SKEW.OAR1

/-- A die's timer takes a token (R39, R42): the first gives it its stroke number; each later one realigns it, and is in
time if its catch is still to come. -/
def timerTakes (s : State) (die n : Nat) (skew : Int) : State :=
  let t := s.timer die
  let t := match t.stroke with
    | none => { t with stroke := some ((n + 2 ^ 48 - 1) % 2 ^ 48), gotToken := true, adjust := 0 }
    | some m => { t with gotToken := t.gotToken || (m + 1) % 2 ^ 48 = n, adjust := skew }
  (s.setTimer die t).put (skewField die) (unsigned 8 (clampI (-128) 127 skew))

/-- The link and the sender from which a die takes its tokens: Cox those of Rigger, an Oar those that Cox sends on. -/
def tokenWay (die : Nat) : Nat × Bool := if die = 0 then (2, true) else (die - 1, false)

/-! Local catches. -/

/-- A sequencer stands in a WAIT that is a safe point, which it executes in every clock (R243, R248; log 76). -/
def waitsSafe (s : State) (u : Nat) : Bool := (s.sqr u).waiting && wSafe (sget {} (s.sqr u).store (pcOf s u)).data

/-- A sequencer sees the catch (R246, R248, R249): it counts every one since the last safe point. -/
def unitCatch (s : State) (u : Nat) : State :=
  let x := s.sqr u
  s.setSqr u { x with
    catchSeen := true, sinceSafe := if waitsSafe s u then 0 else x.sinceSafe + 1, busy := 0, overran := false }

/-- What takes effect at a catch on an Oar die (R45, R137, R175, R202). -/
def oarCatch (s : State) (d n : Nat) : State :=
  let s := ldpExchange s d n
  let s := [2 * d, 2 * d + 1].foldl (fun s a => trimFrames (trimApply (srvExchange s a n) a n) a (n + 1)) s
  ((List.range 12).filter fun u => unitSeq u = d).foldl unitCatch s

/-- A token that has not come by the catch it announces is late, whatever the cause, unless the die's own link is down;
Cox, the hub, has none of its own (R42; log 83). -/
def tokenLate (s : State) (die : Nat) : State :=
  if (s.timer die).gotToken || !dieUp s die then s else s.bump BRZ.STROKE_STAT.TOKEN_MISS

/-- LOCAL_CATCH (R39, R42, R45). -/
def execLocalCatch (die : Fin 3) (s : State) : Result :=
  .next (
    match (s.timer die.val).stroke with
    | none => s
    | some n =>
      let s := tokenLate s die.val
      let m := (n + 1) % 2 ^ 48
      let s := s.setTimer die.val { stroke := some m }
      if die.val = 0 then s else oarCatch s (die.val - 1) m)

/-! Launches that reach their block (R41, R43, R44). -/

/-- A servo sample launched for a stroke (R41, R43): its status. -/
def launchSample (s : State) (a low phase : Nat) : Nat × State :=
  if !locked s then (statusUnlocked, s)
  else match launchStroke (strokeAt s (a / 2 + 1)) low with
    | none => (statusLate, raise s (srvPage a) 2 7)
    | some m => (0, { s with launches := s.launches ++
        [{ kind := .servoSample, inst := a, head := 0, stroke := m, phase := phase }] })

/-- The block a launch is for. -/
def launchPage (k : LaunchKind) (inst : Nat) : Page :=
  match k with
  | .readGate | .writeGate => lanePage inst
  | .assistStep => astPage (inst % 4)
  | _ => srvPage (inst % 4)

/-- A launch at its block: the status it returns (R43). -/
def actionLaunch (s : State) (k : LaunchKind) (inst t h band low phase : Nat) : Nat × State :=
  if !domainLive s (launchPage k inst).domain then (domainResetStatus, s)
  else match k with
    | .servoSample => launchSample s (inst % 4) low phase
    | .readGate | .writeGate =>
      let r := launchGate s k inst t low phase
      (r.1, countLaunch r.2 inst r.1)
    | .assistStep => launchStep s (inst % 4) h band low phase none
    | .seek =>
      let a := inst % 4
      seekLaunch s a h (s.get SRV.SEEK_TGT.POS a) low (s.get SRV.SEEK_REQ.FULL a = 1) none
    | .load | .unload => launchHeads s k (inst % 4) h low phase none

/-- ACTION_LAUNCH (R43). -/
def execActionLaunch (kind : LaunchKind) (inst : Fin 8) (tag : Fin 32) (head : Fin 8) (band : Fin 48)
    (low : BitVec 16) (phase : BitVec 12) (s : State) : Result :=
  .next (
    let r := actionLaunch s kind inst.val tag.val head.val band.val low.toNat phase.toNat
    r.2.reply r.1 [])

/-! Overruns (R46, R198; log 46). -/

/-- The write of a lane that serves the head ends with write gate low (R46). -/
def gateLow (a h : Nat) (s : State) (n : Nat) : State :=
  if (s.lane n).write.any fun j => j.head = h then tearWrite s n 7 else s

/-- A gate's action is not complete at the catch: both gates go low, a write's element stands at STANDBY, and the tag
that was being served ends LATE with the lane sequencer's late event, which is raised without a tag too. -/
def gateOverrun (s : State) (n : Nat) (x : Launch) : State :=
  let a := n / 2
  let s := if x.kind = .writeGate then elemToStandby (tearWrite s n 7) a x.head else s
  let s := closeGates s n
  match x.tag with
  | some t => if (s.tag n t).open' then completeTag s n t { status := 7 } else raise s (seqPage (n / 4)) 5 7
  | none => raise s (seqPage (n / 4)) 5 7

/-- An assist power step is not complete at the catch: write gate goes low on the head, its element stands at STANDBY. -/
def stepOverrun (s : State) (x : Launch) : State :=
  raise (elemToStandby ((lanesOf x.inst).foldl (gateLow x.inst x.head) s) x.inst x.head) (astPage x.inst) 3 7

/-- The outcome of an overrun by kind. -/
def overrun (s : State) (x : Launch) : State :=
  match x.kind with
  | .readGate | .writeGate => gateOverrun s x.inst x
  | .assistStep => stepOverrun s x
  | .servoSample => raise (s.bump SRV.LOOP_ERR.OVERRUN 1 x.inst) (srvPage x.inst) 2 7
  | .seek | .load | .unload => raise s (srvPage x.inst) 2 7

/-- The die an action runs on. -/
def launchDie (x : Launch) : Nat :=
  match x.kind with
  | .readGate | .writeGate => x.inst / 4 + 1
  | _ => x.inst / 2 + 1

/-- ACTION_OVERRUN (R46): the oldest action of the kind and unit whose stroke has passed. -/
def execActionOverrun (kind : LaunchKind) (inst : Fin 8) (s : State) : Result :=
  .next (
    match s.launches.find? fun x => x.kind = kind && x.inst = inst.val && decide (x.stroke < strokeAt s (launchDie x)) with
    | none => s
    | some x => overrun { s with launches := s.launches.erase x } x)

/-! WINH at the Oar dies. -/

/-- WINH inhibits an actuator's writes and is counted on its AST page (R185, R189). -/
def winhInhibit (s : State) (a : Nat) : State :=
  let s := inhibit s a .winh
  if domainLive s (astPage a).domain then s.bump AST.INH_CNT.WINH_CNT 1 a else s

/-- WINH_ASSERT (R24, R25, R185): every lane drops write gate. -/
def execWinhAssert (s : State) : Result :=
  .next (
    if s.wires.winh.isEmpty || s.wires.winhSeen then s
    else (List.range 4).foldl winhInhibit { s with wires := { s.wires with winhSeen := true } })

/-- WINH_RELEASE (R186): the releases begin. -/
def execWinhRelease (s : State) : Result :=
  .next (
    if !s.wires.winh.isEmpty || !s.wires.winhSeen then s
    else (List.range 4).foldl (fun s a => startRelease s a .winh) { s with wires := { s.wires with winhSeen := false } })

end Sys2Proof.Machine
end

