-- ==== Sys2Proof/Machine/PageControl.lean ====
section
/-! DEFINITION. Page headers: PAGE_CTL and the page state it drives, block disables, HOLD, and EV_CLR (rules R16-R21,
R555, R611). -/

namespace Sys2Proof.Machine

open Sys2Proof

/-- PAGE_CTL.ENABLE of a page. -/
def pageEnabled (s : State) (p : Page) : Bool := s.get HDR.PAGE_CTL.ENABLE p.index = 1
/-- PAGE_CTL.EASY of a page. -/
def pageEasy (s : State) (p : Page) : Bool := s.get HDR.PAGE_CTL.EASY p.index = 1
/-- Set PAGE_CTL.EASY of a page. -/
def setEasy (s : State) (p : Page) (v : Nat) : State := s.put HDR.PAGE_CTL.EASY v p.index

/-! What a block does when its page changes state. -/

/-- ENABLE is written from 0 to 1 (R363, R389, R584). -/
def pageEnables (s : State) (p : Page) : State :=
  match p.blk with
  | .dmc => dmcEnable s
  | .buf => writeDirectory s
  | .rgt => rgtEnable s
  | _ => s

/-- The page enters RUN (R444, R555): the L2 is on, SCH goes on with what waits. -/
def pageRuns (s : State) (p : Page) : State :=
  let s := setPageState s p stRun
  let s := s.setDom p.domain { s.dom p.domain with state := stOff }
  match p.blk with
  | .l2c => s.put L2C.L2_STAT.MODE l2On
  | .ast => astRuns s p.inst
  | .hq => settleEnable s p.inst
  | .sch => schSettle s (s.nvme.cmds.map (·.zone)).eraseDups
  | _ => s

/-- The page begins to ease (R185, R444, R555). -/
def pageEases (s : State) (p : Page) : State :=
  let s := setPageState s p stEasing
  match p.blk with
  | .l2c => l2BeginDrain s
  | .ast => inhibit s p.inst .notRun
  | .sch => fillLanes s
  | _ => s

/-- The disable effect of a block (R17): most blocks name none and read OFF at once. -/
def pageDisables (s : State) (p : Page) : State :=
  match p.blk with
  | .ldp => ldpDisable s p.inst
  | .srv => srvDisable s p.inst
  | .ast => setPageState (astStop s p.inst) p stOff
  | .cal => calDisable s
  | .l2c => let s := l2BeginDrain s
            if l2Mode s = l2Draining then s else setPageState s p stOff
  | .rgt => setPageState (rgtDisable s) p stOff
  | .wev => wevDisable s
  | _ => setPageState s p stOff

/-- A page in HOLD is disabled: it holds no work and reads OFF at once (R611), with what a disable ends in besides
(R185, R297, R530). -/
def pageHeldOff (s : State) (p : Page) : State :=
  match p.blk with
  | .ast => setPageState (astStop s p.inst) p stOff
  | .wev => wevOff s
  | .cal => calOff s
  | _ => setPageState s p stOff

/-! Writes of PAGE_CTL (R19, R611). -/

/-- PCX1 is off in single-port mode: its STATE reads OFF whatever ENABLE says (R298). -/
def pageAbsent (s : State) (p : Page) : Bool := s.straps.port && decide (p = ⟨.pcx, 1⟩)

/-- The state change of a write that gives ENABLE and EASY the values `en` and `ez`. DESIGN CHOICE: EASY written while
the disable of R17 is in progress, for which the table has no row, is stored and leaves STATE as it is (log 84). -/
def pageTransition (s : State) (p : Page) (en ez rel : Bool) : State :=
  let st := pageState s p
  let was := pageEnabled s p
  let store := (s.put HDR.PAGE_CTL.ENABLE (if en then 1 else 0) p.index).put HDR.PAGE_CTL.EASY (if ez then 1 else 0) p.index
  if st = stFault then store
  else if st = stOff then
    if en && !was && !pageAbsent s p then
      let s := pageEnables store p
      if ez then setPageState s p stHold else pageRuns s p
    else store
  else if !was then setEasy s p (if ez then 1 else 0)
  else if !en then
    (if st = stHold then pageHeldOff store p else pageDisables store p)
  else if st = stRun then (if ez then pageEases store p else store)
  else if st = stEasing then (if ez then store else pageRuns store p)
  else if rel && !ez then pageRuns store p
  else store

/-- When EASY of every page of a domain has been written 0 before HOLD, the domain's easy request ends (R556). -/
def easyWithdrawn (s : State) (d : Nat) : State :=
  let x := s.dom d
  if x.easing && (domainPages d).all fun p => !pageEasy s p then
    s.setDom d { x with easing := false, state := if x.state = stEasing then stOff else x.state }
  else s

/-- A write of PAGE_CTL (R16, R611). -/
def pageCtlWrite (p : Page) (w : Word) (s : State) : State :=
  easyWithdrawn (pageTransition s p (HDR.PAGE_CTL.ENABLE.of w = 1) (HDR.PAGE_CTL.EASY.of w = 1)
    (HDR.PAGE_CTL.HOLD_REL.of w = 1)) p.domain

/-- The page in a page slot, if a block occupies it. -/
def pageAt (slot : Nat) : Option Page := pageOf (slot * 0x1000)

/-- A guarded write of PAGE_CTL of the page in a slot; an empty slot discards it (R8). -/
def pageCtlAccess (q : Req) (slot : Nat) (w : Word) (s : State) : State :=
  match pageAt slot with
  | some p => guarded s q p 0x008 w (pageCtlWrite p w)
  | none => s.reply 0 []

/-- ENABLE_SET (R17, R611). -/
def execEnableSet (q : Req) (slot : BitVec 14) (w : BitVec 32) (s : State) : Result :=
  .next (pageCtlAccess q slot.toNat w s)
/-- ENABLE_CLEAR (R17, R611). -/
def execEnableClear (q : Req) (slot : BitVec 14) (w : BitVec 32) (s : State) : Result :=
  .next (pageCtlAccess q slot.toNat w s)
/-- EASY_SET (R611). -/
def execEasySet (q : Req) (slot : BitVec 14) (w : BitVec 32) (s : State) : Result :=
  .next (pageCtlAccess q slot.toNat w s)
/-- EASY_CLEAR (R611). -/
def execEasyClear (q : Req) (slot : BitVec 14) (w : BitVec 32) (s : State) : Result :=
  .next (pageCtlAccess q slot.toNat w s)
/-- HOLD_REL (R19, R611). -/
def execHoldRel (q : Req) (slot : BitVec 14) (w : BitVec 32) (s : State) : Result :=
  .next (pageCtlAccess q slot.toNat w s)

/-! What a page still holds (R247, R388, R555). -/

/-- An LDP holds a codeword or a firmware replay. -/
def ldpHolds (l : Ldp) : Bool :=
  !(l.online.isEmpty && l.replays.isEmpty && l.ready.isEmpty && l.restarts.isEmpty && l.fw.isNone &&
    ((List.range 6).all fun k => (sget none l.cores k).isNone) && (List.range 2).all fun k => (sget none l.det k).isNone)

/-- The page holds work it accepted (R388, R444, R555; log 47). -/
def pageHolds (s : State) (p : Page) : Bool :=
  match p.blk with
  | .sch => chargeAll s ≠ 0 || (List.range 8).any fun n => !(openTags s n).isEmpty
  | .l2c => l2Mode s = l2On || l2Mode s = l2Draining
  | .evr => s.evr.cur.isSome || !s.evr.queue.isEmpty
  | .wev => s.wev.cur.isSome
  | .ldp => ldpHolds (s.ldp p.inst)
  | .wrk => s.wrk.copy.isSome || s.wrk.rings.any fun e => !e.2.done.isEmpty
  | .nvs => s.nv.op.isSome || !s.nv.waiting.isEmpty || s.nv.xfer.isSome
  | .buf => !s.dram.merge.isEmpty
  | .dmc => s.get DMC.TEST_CTL.BUSY = 1
  | .seq => (s.seqs.any fun e => e.1 = p.inst && (e.2.digest.isSome || e.2.load.isSome))
  | .lane => (s.lane p.inst).readGate || (s.lane p.inst).write.isSome || !(s.lane p.inst).judging.isEmpty
  | .srv => !(s.srv p.inst).seeks.isEmpty || (s.srv p.inst).inj.isSome || (s.srv p.inst).capRun.isSome
  | .ast => !(s.ast p.inst).frames.isEmpty
  | .cal => s.cal.commit0.isSome || s.cal.commit1.isSome
  | .sec => s.sec.op.isSome
  | .hq => slotsHeld s p.inst ≠ 0 || (s.ctl p.inst).cqs.any fun e => e.2.any fun c => !c.waiting.isEmpty
  | .rgt => !s.rgt.queue.isEmpty || !s.rgt.forward.isEmpty
  | .spn => s.spn.starting
  | .vcm => vcmState s p.inst = 2
  | _ => false

/-- A disable effect that is complete (R17): the page reads OFF. -/
def disableEnds (s : State) (p : Page) : State :=
  match p.blk with
  | .ldp => ldpSettle s p.inst
  | .srv => if (s.vcm p.inst).loaded then s
            else pageOff (s.setSrv p.inst { s.srv p.inst with disabling := false }) p
  | .cal => calSettle s
  | .l2c => if l2Mode s = l2Draining then s else pageOff s p
  | .wev => if s.wev.cur.isSome then s else wevOff s
  | _ => pageOff s p

/-- DISABLE_COMPLETE (R17). -/
def execDisableComplete (page : BitVec 14) (s : State) : Result :=
  .next (
    match pageAt page.toNat with
    | some p => if domainLive s p.domain && working s p && !pageEnabled s p then disableEnds s p else s
    | none => s)

/-- An easing page that holds nothing more reads HOLD. -/
def pageHeld (s : State) (p : Page) : State :=
  if pageState s p = stEasing && pageEnabled s p then setPageState s p stHold else s

/-- No page of the domain holds anything any more (R555). -/
def domainHolds (s : State) (d : Nat) : Bool :=
  (domainPages d).any fun p => pageState s p = stEasing && pageHolds s p

/-- The domain's easing pages read HOLD; entries of a ring to its engine are completed by WRK (R456, R555, R560). -/
def holdDomain (s : State) (d : Nat) : State :=
  let s := (domainPages d).foldl pageHeld s
  let s := if (s.dom d).state = stEasing then setDomState s d stHold else s
  let s := if domainState s d = stHold then s.setDom d { s.dom d with easing := false } else s
  ringsResetComplete s d

/-- HOLD_REACHED (R555): nothing of the easing domain is held any more. A sequencer domain reaches HOLD at a safe point
of its sequencer instead (R247). -/
def execHoldReached (dom : Fin 96) (s : State) : Result :=
  .next (
    if !domainLive s dom.val || domainHolds s dom.val then s else holdDomain s dom.val)

/-! EV_CLR (R16, R20). -/

/-- A write of EV_CLR; `same`: the events of the page that occur in the same clock stay set. -/
def evClrWrite (p : Page) (w : Word) (same : Nat) (s : State) : State :=
  s.put HDR.EV_RAW.RAW ((s.get HDR.EV_RAW.RAW p.index &&& (2 ^ 32 - 1 - w.toNat)) ||| (same % 2 ^ p.evCount)) p.index

/-- EV_CLR (R20). -/
def execEvClr (q : Req) (slot : BitVec 14) (w : BitVec 32) (same : BitVec 32) (s : State) : Result :=
  .next (
    match pageAt slot.toNat with
    | some p => guarded s q p 0x01C w (evClrWrite p w same.toNat)
    | none => s.reply 0 [])

/-- EV_EN is written (R16, R21): bits of events the page does not own read zero. -/
def evEnWrite (p : Page) (w : Word) (s : State) : State := s.put HDR.EV_EN.EN (w.toNat % 2 ^ p.evCount) p.index

/-- A write of a header register (R16). -/
def headerWrite (p : Page) (off : Nat) (w : Word) (s : State) : State :=
  if off = 0x008 then pageCtlWrite p w s
  else if off = 0x014 then evEnWrite p w s
  else if off = 0x01C then evClrWrite p w 0 s
  else s

end Sys2Proof.Machine
end

