-- ==== Sys2Proof/Machine/Ports.lean ====
section
/-! DEFINITION. The PCI Express ports and the management endpoint (chapter "Host transport and queues", R298-R300,
R328-R334). -/

namespace Sys2Proof.Machine

open Sys2Proof

/-! Ports. -/

/-- The controllers whose functions a port carries (R298). -/
def portCtls (s : State) (p : Nat) : List Nat := [0, 1].filter fun n => portOf s n = p

/-- The port runs: in single-port mode PCX1 is off (R298). -/
def portLive (s : State) (p : Nat) : Bool :=
  domainLive s (pcxPage p).domain && !(s.straps.port && p = 1) && !s.start.coxReset

/-- Lanes the strap gives a port (R298). -/
def portLanes (s : State) : Nat := if s.straps.port then 4 else 2

/-- The power domains of a port's lanes (R551). -/
def portPhys (s : State) (p : Nat) : List Nat := if s.straps.port then [19, 20] else [19 + p]

/-- The speed limit of a port: MAX_SPEED 0, 6 and 7 act as 5 (R333). -/
def portSpeed (s : State) (p : Nat) : Nat :=
  let v := s.get PCX.PCX_CTL.MAX_SPEED p
  if v = 0 || 5 < v then 5 else v

/-- What a function keeps for its host is lost in a reset of the function: vectors enabled, unmasked and pending
(R317, R318). -/
def resetFunction (s : State) (n : Nat) : State :=
  let s := controllerDisable s n
  s.setCtl n { s.ctl n with vectors := 1, unmasked := [], pendingBits := [] }

/-- A port's link is down. LTSSM shows a training state whose code the spec does not give: a free value (log 2). -/
def portLinkOff (s : State) (p : Nat) : State :=
  ((((s.put PCX.PCX_STAT.LINK_UP 0 p).put PCX.PCX_STAT.WIDTH 0 p).put PCX.PCX_STAT.SPEED 0 p).put PCX.PCX_STAT.LTSSM
    s.free p).drawn

/-- Every function of the port goes through the controller disable, then the link goes down (R300). -/
def portDown (s : State) (p : Nat) : State := portLinkOff ((portCtls s p).foldl resetFunction s) p

/-- The link leaves L0 or L1 without a request of the host (R300, R334). -/
def portLost (s : State) (p : Nat) : State :=
  if s.get PCX.PCX_STAT.LINK_UP p = 1 then portDown (raise s (pcxPage p) 1 7) p else s

/-- PERST_ASSERT (R300, R334). -/
def execPerstAssert (port : Fin 2) (s : State) : Result :=
  .next (
    let p := port.val
    if portLive s p then portDown (raise (s.put PCX.PCX_STAT.PERST 1 p) (pcxPage p) 1 7) p else s)

/-- PERST_DEASSERT (R300): the link may train again. -/
def execPerstDeassert (port : Fin 2) (s : State) : Result :=
  .next (if portLive s port.val then s.put PCX.PCX_STAT.PERST 0 port.val else s)

/-- PCIE_LINK_LOSS (R300). -/
def execPcieLinkLoss (port : Fin 2) (s : State) : Result :=
  .next (if portLive s port.val then portLost s port.val else s)

/-- What a function advertises to its host (R299, R333): the vendor and device identifiers of the fuses, the class code, the
subsystem identifiers of the configuration image (a free value), Max_Payload_Size and Max_Read_Request_Size in bytes, the
non-posted requests it keeps outstanding, and ASPM support (bit 1 L1, bit 2 L1.1), which L1_EN permits. -/
def functionData (s : State) (p : Nat) : List Nat :=
  [s.fuses.vendor, s.fuses.device, 0x010802, Sys2Proof.Config.subsystemId, 512, 4096, 512,
    if s.get PCX.PCX_CTL.L1_EN p = 1 then 6 else 0]

/-- PCIE_LINK_UP (R299, R300, R333, R334): the link of an enabled port comes up at no more than its limits. -/
def execPcieLinkUp (port : Fin 2) (speed width : BitVec 3) (s : State) : Result :=
  .next (
    let p := port.val
    if !portLive s p || s.get PCX.PCX_CTL.LINK_EN p = 0 || s.get PCX.PCX_STAT.PERST p = 1 ||
        s.get PCX.PCX_STAT.LINK_UP p = 1 || (portPhys s p).any (fun d => !domainLive s d) then s
    else
      let v := min (max 1 speed.toNat) (portSpeed s p)
      let w := min (if width.toNat < 2 then 1 else if width.toNat < 4 then 2 else 4) (portLanes s)
      let s := (((s.put PCX.PCX_STAT.LINK_UP 1 p).put PCX.PCX_STAT.SPEED v p).put PCX.PCX_STAT.WIDTH w p)
      let s := (s.put PCX.PCX_STAT.LTSSM s.free p).drawn
      let s := s.reply 0 (functionData s p)
      raiseIf (decide (v < portSpeed s p) || decide (w < portLanes s)) (raise s (pcxPage p) 0 7) (pcxPage p) 2 7)

/-- A UNC_STAT bit sets (R333, R334). -/
def uncSet (s : State) (p : Nat) (F : Fld) : State :=
  if !portLive s p then s else raiseIf (s.get F p = 0) (s.put F 1 p) (pcxPage p) 4 7

/-- An ERR_CNT field counts, with its event where it reaches a multiple of 1,024 or saturates (R333, R334). -/
def errCount (s : State) (p : Nat) (F : Fld) : State :=
  if !portLive s p then s
  else
    let v := s.get F p + 1
    raiseIf (v % 1024 = 0 || v = 0xFFFF) (s.bump F 1 p) (pcxPage p) 3 7

/-- PCIE_TLP_ERROR (R333, R334). -/
def execPcieTlpError (port : Fin 2) (kind : TlpError) (s : State) : Result :=
  .next (match kind with
    | .ecrc => uncSet s port.val PCX.UNC_STAT.ECRC
    | .malformed => uncSet s port.val PCX.UNC_STAT.MALFORMED
    | .unexpected => uncSet s port.val PCX.UNC_STAT.UNEXP_CPL
    | .poisoned => uncSet s port.val PCX.UNC_STAT.POISONED
    | .receiver => errCount s port.val PCX.ERR_CNT.RCV_ERR
    | .replay => errCount s port.val PCX.ERR_CNT.REPLAY)

/-- PCIE_COMPLETION_TIMEOUT (R333). -/
def execPcieCompletionTimeout (port : Fin 2) (s : State) : Result := .next (uncSet s port.val PCX.UNC_STAT.CPL_TIMEOUT)

/-! The management endpoint (R329, R330). -/

/-- A core runs: it serves what is sent to it (R330, R555). -/
def coreServes (s : State) (c : Nat) : Bool :=
  let st := domainState s (coreDomain c)
  st = stRun || st = stEasing

/-- The management bus interface takes messages (R329, R551). -/
def miOn (s : State) : Bool :=
  domainLive s 23 && domainLive s (pcxPage 0).domain && s.get PCX.MI_CTL.MI_EN = 1 && !s.start.coxReset

/-- A real-time core serves the endpoint (R330). -/
def miServed (s : State) : Bool := miOn s && (coreServes s 4 || coreServes s 5)

/-- MCTP_PACKET_ERROR (R333, R334). -/
def execMctpPacketError (s : State) : Result :=
  .next (if miOn s then raise (s.bump PCX.MI_STAT.MI_ERR) (pcxPage 0) 7 7 else s)

/-- Serve an NVMe-MI command with response data, if a real-time core runs (R330). -/
def miReply (s : State) (data : List Nat) : State := if miServed s then s.reply 0 data else s

/-- MI_READ_DATA_STRUCTURE (R329), with the contents of NVMe-MI 1.2 that the spec gives a value for (PRESUMED, log 35):
ports and version; a port's kind and lanes; the controllers; a controller's identifiers; no optional commands. -/
def execMiReadDataStructure (item : MiStructure) (s : State) : Result :=
  .next (miReply s (match item with
    | .subsystem => [if s.straps.port then 1 else 2, 1, 2]
    | .port n => if s.straps.port && n.val = 1 then [0] else [1, 5, portLanes s, 64]
    | .controllers => [0, 1]
    | .controller n => [portOf s n.val, s.fuses.vendor, s.fuses.device]
    | .optional => []))

/-- MI_SUBSYSTEM_HEALTH_POLL (R329): the subsystem's links, and SMART / Health as R352 gives it. -/
def execMiSubsystemHealthPoll (s : State) : Result :=
  .next (miReply s ([s.get PCX.PCX_STAT.LINK_UP 0, s.get PCX.PCX_STAT.LINK_UP 1] ++ smartData s))

/-- MI_CONTROLLER_HEALTH_POLL (R329): RDY, CFS and SHST of the controller, and SMART / Health. -/
def execMiControllerHealthPoll (ctrl : Fin 2) (s : State) : Result :=
  .next (miReply s ([s.get HQ.HQ_STAT.RDY ctrl.val, s.get HQ.HQ_STAT.CFS ctrl.val, s.get HQ.HQ_STAT.SHST ctrl.val] ++
    smartData s))

/-- The value of a configuration item until it is set. -/
def miDefault : MiConfig → Nat
  | .frequency => 1 | .healthChange => 0 | .unitSize => 64

/-- Where a configuration item is kept. -/
def miKey : MiConfig → Nat
  | .frequency => 1 | .healthChange => 2 | .unitSize => 3

/-- The value of a configuration item: SMBus frequency 1 to 3 for 100 kHz, 400 kHz and 1 MHz, 1 until it is set, 0 under I3C;
the transmission unit is 64 bytes until it is set (R329; the codes PRESUMED, log 35). -/
def miValue (s : State) (item : MiConfig) : Nat :=
  match item with
  | .unitSize => sget (miDefault item) s.nvme.miConfig 3
  | .frequency => if s.straps.mgmt then 0 else sget (miDefault item) s.nvme.miConfig 1
  | .healthChange => sget (miDefault item) s.nvme.miConfig 2

/-- MI_CONFIGURATION_GET (R329). -/
def execMiConfigurationGet (item : MiConfig) (s : State) : Result := .next (miReply s [miValue s item])

/-- MI_CONFIGURATION_SET (R329): the management strap selects the bus, and a frequency that it does not run is an invalid
parameter (4; PRESUMED, log 35). -/
def execMiConfigurationSet (item : MiConfig) (value : BitVec 32) (s : State) : Result :=
  .next (if !miServed s then s
  else if item = .frequency && (s.straps.mgmt || value.toNat = 0 || decide (3 < value.toNat)) then s.reply 4 []
  else
    ({ s with nvme := { s.nvme with miConfig := sset (miDefault item) s.nvme.miConfig (miKey item) value.toNat } } : State).reply 0 [])

/-- MI_VPD_READ (R329). -/
def execMiVpdRead (offset len : BitVec 16) (s : State) : Result :=
  .next (miReply s ((List.range len.toNat).map fun i => sget 0 s.nvme.vpd (offset.toNat + i)))

/-- MI_VPD_WRITE (R329). -/
def execMiVpdWrite (offset : BitVec 16) (bytes : List Byte) (s : State) : Result :=
  .next (if !miServed s then s
  else
    let v := (bytes.foldl (fun (a : Sparse Nat × Nat) (b : Byte) => (sset 0 a.1 a.2 b.toNat, a.2 + 1)) (s.nvme.vpd, offset.toNat)).1
    ({ s with nvme := { s.nvme with vpd := v } } : State).reply 0 [])

/-- A tunnelled command as controller 0 would answer it: status 0 and data, or the status of the failure (R329). -/
def tunnelled (s : State) (c : MiAdmin) : Nat × List Nat :=
  let r := match c with
    | .identify cns nsid => identifyData s 0 cns nsid 0 0
    | .getLog lid => logData s 0 lid 0xFFFFFFFF
    | .getFeatures fid nsid => (featureValue s 0 fid nsid 0).map fun v => [v]
  match r with
  | .ok l => (0, l)
  | .error e => (e.code, [])

/-- The application cores serve the tunnelled commands that wait, oldest first, each in a slot of controller 0's admin
reserve, which is free again at once with its occupancy counted; the answers come back together (R329, R330; log 50). -/
def serveTunnel (s : State) : State :=
  if s.nvme.tunnel.isEmpty || !(List.range 4).any (coreServes s) || slotsFor s 0 true = 0 then s
  else
    let l := s.nvme.tunnel.map (tunnelled s)
    let s : State := { s with nvme := { s.nvme with tunnel := [] } }
    let s := match freeSlot s with
      | some k => s.setSlot k { s.slot k with gen := (s.slot k).gen + l.length }
      | none => s
    s.reply ((l.map (·.1)).headD 0) (l.flatMap (·.2))

/-- COMPLETION_POST (R312): the slot becomes FREE, and a tunnelled command that waited for one is served (R330). -/
def execCompletionPost (ctrl : Fin 2) (queue : Fin 2048) (s : State) : Result :=
  .next (
    let s := postEntry (s.reply 0 []) ctrl.val queue.val
    let a := s.answer
    let s := serveTunnel s
    { s with answer := { s.answer with posted := a.posted } })

/-- MI_TUNNELLED_ADMIN (R329, R330): a fifth command is answered with Internal Error (2; PRESUMED, log 35) and EV007. -/
def execMiTunnelledAdmin (cmd : MiAdmin) (s : State) : Result :=
  .next (
    let s := s.reply 0 []
    if !miServed s then s
    else if 4 ≤ s.nvme.tunnel.length then raise (s.reply 2 []) (pcxPage 0) 7 7
    else serveTunnel { s with nvme := { s.nvme with tunnel := s.nvme.tunnel ++ [cmd] } })

/-- A write of any PCX register (R333): PCX1 has no DIAG and MI registers; LINK_EN 0 holds the link in Detect. -/
def pcxWrite (q : Req) (n off : Nat) (w : Word) (s : State) : State :=
  if n = 1 && 0x054 ≤ off && off ≤ 0x060 then s
  else
    let s := plainWrite s q (pcxPage n) off w
    if off = 0x040 && s.get PCX.PCX_CTL.LINK_EN n = 0 then portLost s n else s

/-- DIAG_CTL.ACTIVE (R328): BAR2 of controller 0's function is implemented. -/
def diagActive (s : State) : Bool := s.get PCX.DIAG_CTL.EN = 1 && decide (lockLevel s < 2)

/-- A computed PCX register (R333). -/
def pcxRead (s : State) (n off : Nat) : Option Nat :=
  if off = 0x044 then some (fieldsWord s (pcxPage n) off + (if s.straps.port then 2 ^ 18 else 0))
  else if n = 1 && 0x054 ≤ off && off ≤ 0x060 then some 0
  else if off = 0x054 then some (s.get PCX.DIAG_CTL.EN + (if diagActive s then 2 else 0))
  else if off = 0x05C then some (fieldsWord s (pcxPage n) off + (if s.straps.mgmt then 2 ^ 8 else 0))
  else if off = 0x060 then some (s.get PCX.MI_STAT.MI_ERR * 2 ^ 8 + s.nvme.tunnel.length)
  else none

end Sys2Proof.Machine
end

