-- ==== Sys2Proof/Machine/Domains.lean ====
section
/-! DEFINITION. Power domains: easy and hold, reset, power, and image loads (rules R551-R562, R613). -/

namespace Sys2Proof.Machine

open Sys2Proof

/-- The page of DOM. -/
def domPage : Page := ⟨.dom, 0⟩

/-! The conditions of R551. -/

/-- A sequencer is in HOLD or OFF, or in FAULT where that counts. -/
def unitStill (s : State) (u : Nat) (fault : Bool) : Bool :=
  let st := unitState s u
  !domainLive s (unitDomain u) || st = stHold || st = stOff || (fault && st = stFault)

/-- A VCM reads PARKED, OFF or FAULT (R612). -/
def vcmStill (s : State) (a : Nat) : Bool := vcmState s a = 0 || vcmState s a = 3 || vcmState s a = 4

/-- The condition a domain carries holds (R551). -/
def domainMayReset (s : State) (d : Nat) : Bool :=
  if isNeverDomain d then false
  else if 24 ≤ d && d ≤ 28 then chargeAll s = 0
  else if 40 ≤ d && d < 80 then
    let die := (d - 40) / 20
    let x := (d - 40) % 20
    if x = 1 then (List.range 6).all fun q => unitStill s (seqUnit die q) false
    else if 2 ≤ x && x ≤ 7 then unitStill s (seqUnit die (x - 2)) true
    else if 8 ≤ x && x ≤ 11 then unitStill s (seqUnit die (x - 8)) true
    else if x = 13 || x = 14 then vcmStill s (2 * die + (x - 13))
    else if x = 18 || x = 19 then
      let a := 2 * die + (x - 18)
      outOfService s a && (lanesOf a).all fun n => (openTags s n).isEmpty
    else true
  else if d = 82 then spn s = spStopped || spn s = spFault
  else if d = 84 then (List.range 4).all (vcmStill s)
  else if 85 ≤ d && d ≤ 88 then vcmStill s (d - 85)
  else if 91 ≤ d then s.nv.op.isNone
  else true

/-! What a reset takes from the unit of a domain (log 50). -/

/-- LDPd ends every codeword it holds with NOT_DECODED (R155). -/
def ldpDropAll (s : State) (d : Nat) : State :=
  let l := s.ldp d
  let held := (List.range 6).filterMap (fun k => sget none l.cores k) ++
    l.restarts
  ldpDropWaiting (s.setLdp d { l with online := l.online ++ held, restarts := [], cores := [] }) d

/-- SCH loses what it has posted: its operations are planned anew, and their tags are aborted (R560; log 50). -/
def schDropPosted (s : State) : State :=
  let l := postedOps s
  let s := s.schMap fun x => { x with
    plan := l.map (·.2.2) ++ x.plan, posted := [], ends := [], places := [], leads := [], lastRead := [] }
  l.foldl (fun s e => lqAbort e.1 e.2.1 s) (setPlState (s.plMap fun _ => {}) 0)

/-- A ring after a reset of WRK (R460): base, consumer, byte, direction, place and sizes stand. -/
def Ring.warmed (x : Ring) : Ring :=
  { x with en := false, state := 0, err := 0, fetch := 0, cpl := 0, fetched := [], started := [], done := [] }

/-- The unit `u` loses its tags and what it was doing; store, RAM, general registers and AUTH stay (R258, R263). -/
def unitDrop (s : State) (u : Nat) : State :=
  let s := if u < 8 then completeTags s u (openTags s u) { status := 11 } else s
  let x := s.sqr u
  let s := s.setSqr u { store := x.store, g := x.g, ram := x.ram, z := x.z, n := x.n, c := x.c, v := x.v, tmo := x.tmo }
  { s with launches := s.launches.filter fun y => y.unit ≠ some u }

/-- What the reset of an Oar domain does to its unit (R124, R138, R155, R188, R202, R258, R261,
R595). -/
def dropOar (s : State) (die x : Nat) : State :=
  if x = 1 then { s with seqs := sset {} s.seqs die {} }
  else if 2 ≤ x && x ≤ 7 then unitDrop s (seqUnit die (x - 2))
  else if 8 ≤ x && x ≤ 11 then s.setLane (4 * die + (x - 8)) { frames := (s.lane (4 * die + (x - 8))).frames }
  else if x = 12 then
    let s := ldpDropAll s die
    s.setLdp die { coef := (s.ldp die).coef, results := (s.ldp die).results, reports := (s.ldp die).reports }
  else if x = 13 || x = 14 then
    let a := 2 * die + (x - 13)
    let s := dropSeekPermit (setActive s a []) a
    s.setSrv a { coef := (s.srv a).coef, cap := (s.srv a).cap, loadFails := (s.srv a).loadFails }
  else if x = 15 || x = 16 then
    let a := 2 * die + (x - 15)
    let x := (astStop s a).ast a
    let wired := x.inh.filter fun i => (i = .winh || i = .preampFault) && !x.isReleasing i
    (astStop s a).setAst a { table := x.table, inh := wired, preamp := x.preamp, selected := x.selected }
  else if x = 18 || x = 19 then
    let a := 2 * die + (x - 18)
    let s := if s.get AST.PFLT_STAT.LINE a = 1 then lineReleased s a else s
    s.setAst a { s.ast a with preamp := [], frames := [], selected := 0 }
  else s

/-- A VCM or SPN leaves FAULT through a reset; SPN only for a fault whose bits are clear (R18, R229, R427). -/
def dropRigger (s : State) (d : Nat) : State :=
  if d = 82 then
    let none := (fieldsOf .spn).all fun F => F.off ≠ SPN.SPN_FAULT.OPEN.off || s.get F = 0
    if spn s = spFault && none then setSpn (s.spnMap fun x => { x with fails := 0 }) spStopped else s
  else if d = 83 then
    let s := rgtDisable s
    { s with rgt := { routes := s.rgt.routes } }
  else if d = 84 then { s with mac := {} }
  else if 85 ≤ d && d ≤ 88 then
    let a := d - 85
    let v := s.vcm a
    let s := s.setVcm a { loaded := v.loaded, stranded := v.stranded }
    if vcmState s a = 4 then setVcmState s a (if s.get VCM.VCM_CTL.DRV_EN a = 1 && !v.loaded then 3 else 0) else s
  else s

/-- A reset of WEV: the request of SCH's port that it ran waits in SCH again (R286). -/
def wevReset (s : State) : State :=
  let s : State := { s with wev := {} }
  match s.sch.portRun with
  | some (e, r, _, _) => s.schMap fun x => { x with port := (e, r) :: x.port, portRun := none }
  | none => s

/-- What the reset of a domain takes from its unit (R392, R444, R456, R459, R468, R492, R522, R527, R541; log 50). -/
def dropUnit (s : State) (d : Nat) : State :=
  if d = 1 then secReset s
  else if d = 2 then evrReset s
  else if d = 3 then s.tmpMap fun x => { x with val := [], med := [], confirm := [], calm := 0, hit := [] }
  else if d = 4 then s.calMap fun x => { x with
    commit0 := none, commit1 := none, ending := false, heads := x.heads.map fun e => (e.1, { e.2 with pass := none }) }
  else if isCoreDomain d then dropPartial s (d - 5)
  else if d = 11 then { s with l2 := {} }
  else if d = 16 then
    { s with wrk := { s.wrk with rings := s.wrk.rings.map fun e => (e.1, e.2.warmed), copy := none } }
  else if d = 17 || d = 18 then portDown s (d - 17)
  else if d = 19 || d = 20 then portLost s (if s.straps.port then 0 else d - 19)
  else if d = 21 || d = 22 then
    let s := controllerLost s (d - 21)
    let c := s.ctl (d - 21)
    s.setCtl (d - 21) { c with
      sqs := [], cqs := [], served := [], credits := (0, 0, 0), aborts := [], aers := [], events := [], muted := []
      errors := [] }
  else if d = 24 then schDropPosted s
  else if d = 25 then flushMerge s
  else if d = 29 then { s with fmt := { s.fmt with deferred := [] } }
  else if d = 30 then wevReset s
  else if d = 31 then { s with wrk := { s.wrk with crypto := none } }
  else if d = 32 then s.secMap fun x => { x with op := none }
  else if 40 ≤ d && d < 80 then dropOar s ((d - 40) / 20) ((d - 40) % 20)
  else if 80 ≤ d && d < 90 then dropRigger s d
  else if d = 91 then nvsStop s
  else s

/-- What else a power-down loses: stores and AUTH, L1 caches, TCM banks, images, preamplifier codes (R263, R448, R558). -/
def loseUnit (s : State) (d : Nat) : State :=
  if 12 ≤ d && d ≤ 15 then tcmLoseBank s d
  else if isImageDomain d then s.setDom d { s.dom d with image := none, imgResult := none }
  else match domainSeq d with
    | some (die, q) => setAuth (s.setSqr (seqUnit die q) {}) (seqUnit die q) false
    | none => s

/-! Registers (R14). -/

/-- Put a field of a block, every place of it, to a value. -/
def putAll (v : Fld → Option Nat) (i : Nat) (s : State) (F : Fld) : State :=
  match v F with
  | some n => (List.range (max 1 F.count)).foldl (fun s k => s.put F n i k) s
  | none => s

/-- The registers of a page at the values of the Warm column (R14); on SEQ the sequencers' own belong to their domains. -/
def warmBlock (s : State) (p : Page) : State :=
  let l := (fieldsOf p.blk).filter fun F => !(p.blk = .seq && 0x100 ≤ F.off && decide (F.off < 0x200))
  l.foldl (putAll Fld.warm p.inst) s

/-- A page after a reset of its domain: header and registers (R14, R16). -/
def warmPage (s : State) (p : Page) : State := warmBlock (HDR.fields.foldl (putAll Fld.warm p.index) s) p

/-- The registers of one sequencer on its SEQ page at Warm. -/
def warmUnit (s : State) (die q : Nat) : State :=
  (SEQ.fields.filter fun F => 0x100 ≤ F.off && decide (F.off < 0x200)).foldl (fun s F =>
    match F.warm with
    | some n => s.put F n die q
    | none => s) s

/-- Every register of a domain at Warm. -/
def warmDomain (s : State) (d : Nat) : State :=
  let s := (domainPages d).foldl warmPage s
  let s := s.setDom d { s.dom d with state := stOff }
  match domainSeq d with
  | some (die, q) => (warmUnit s die q).put SEQ.SQ_STAT.STATE stOff die q
  | none => s

/-! Reset and power. -/

/-- A domain goes into reset (R553, R557): its work ends, its registers take their Warm values, and WRK completes the
entries of its engine. -/
def enterReset (s : State) (d : Nat) : State :=
  let s := warmDomain (dropUnit s d) d
  let s := s.setDom d { s.dom d with inReset := true, easing := false }
  ringsResetComplete s d

/-- A domain leaves reset (R553, R558): its epoch rises, a controller domain returns to HOLD. HV_EN stands through a
reset of MAC, and its rail with it (R232). -/
def leaveReset (s : State) (d : Nat) : State :=
  let x := s.dom d
  let s := s.setDom d { x with inReset := false, epoch := (x.epoch + 1) % 256 }
  let s := if d = 84 then railFollows s else s
  if isCoreDomain d || isImageDomain d then setDomState s d stHold
  else match domainSeq d with
    | some (die, q) => setUnitState s (seqUnit die q) stHold
    | none => s

/-- A whole reset at once, as a start runs it (R563). -/
def resetDomain (s : State) (d : Nat) : State := leaveReset (enterReset s d) d

/-- A domain powers down (R558). -/
def powerDown (s : State) (d : Nat) : State :=
  let s := loseUnit (warmDomain (dropUnit s d) d) d
  let s := s.setDom d { s.dom d with powered := false, easing := false }
  ringsResetComplete s d

/-! The operations of DOM_CMD (R613). -/

/-- RESULT codes. -/
def drOk : Nat := 0
/-- REFUSED. -/
def drRefused : Nat := 1
/-- NOT_HELD. -/
def drNotHeld : Nat := 2
/-- BUSY. -/
def drBusy : Nat := 3

/-- DOM_WIN.DOMAIN: above 95 acts as 95. -/
def domWin (s : State) : Nat := min 95 (s.get DOM.DOM_WIN.DOMAIN)

/-- An operation answers with a RESULT. -/
def domResult (r : Nat) (s : State) : State := s.put DOM.DOM_CMD.RESULT r

/-- EASY of a page (R555, R611). -/
def easePage (s : State) (p : Page) : State :=
  if pageState s p = stRun || pageState s p = stOff then pageTransition s p (pageEnabled s p) true false else s

/-- Step 1 of R555 on a domain that reads RUN or OFF. -/
def easeDomain (s : State) (d : Nat) : State :=
  let s := (domainPages d).foldl easePage s
  let s := match domainSeq d with
    | some (die, q) =>
      let en := s.get SEQ.SQ_CTL.ENABLE die q
      let ez := s.get SEQ.SQ_CTL.EASY die q
      sqTransition (s.put SEQ.SQ_CTL.EASY 1 die q) (seqUnit die q) en ez
    | none => s
  let own := membersState s d = stOff && (domainState s d = stOff || domainState s d = stRun)
  let s := if own then setDomState s d stEasing else s
  if domainState s d = stEasing then s.setDom d { s.dom d with easing := true } else s

/-- RELEASE of a page: EASY 0 and HOLD_REL 1 (R19, R555). -/
def releasePage (s : State) (p : Page) : State := pageTransition s p (pageEnabled s p) false true

/-- Step 4 of R555 on a domain in HOLD. -/
def releaseDomain (s : State) (d : Nat) : State :=
  let s := s.setDom d { s.dom d with easing := false }
  let s := (domainPages d).foldl releasePage s
  match domainSeq d with
  | some (die, q) =>
    releaseUnit ((s.setDom d { s.dom d with state := stOff }).put SEQ.SQ_CTL.EASY 0 die q) (seqUnit die q)
  | none => setDomState s d (if (domainPages d).isEmpty then stRun else stOff)

/-- A FORCE_RESET of a core domain by its own core is refused (R561). -/
def ownCore (q : Req) (d : Nat) : Bool := q.cls.val ≤ 2 && isCoreDomain d && q.unit.val = d - 5

/-- The RESULT of R613 for operation `op` on domain `d`; R551 limits what the table accepts. -/
def domVerdict (s : State) (q : Req) (op d : Nat) : Nat :=
  let on := (s.dom d).powered && !(s.dom d).inReset
  let st := domainState s d
  if !dieUp s (domainDie d) || s.wires.drst.contains (domainDie d) then drRefused
  else if isNeverDomain d && (op = 1 || op = 3 || op = 4 || op = 6) then drRefused
  else if op = 1 then (if !on || st = stFault then drRefused else drOk)
  else if op = 2 then
    (if !on || st ≠ stHold || (isImageDomain d && (s.dom d).imgResult ≠ some 0) then drRefused else drOk)
  else if op = 5 then (if (s.dom d).powered then drRefused else drOk)
  else if !on then drRefused
  else if op ≠ 6 && st ≠ stHold && st ≠ stOff && st ≠ stFault then drNotHeld
  else if !domainMayReset s d || (op = 6 && ownCore q d) then drRefused
  else drOk

/-- A reset that DOM runs begins (R557, R567, R568). -/
def domBeginReset (s : State) (op d : Nat) : State :=
  let s := s.bump DOM.DOM_CNT.RESETS
  let s := if op = 6 then raise (s.bump DOM.DOM_CNT.FORCED) domPage 2 4 else s
  let s := enterReset s d
  ({ s with domOp := ⟨op, d⟩ } : State).put DOM.DOM_CMD.BUSY 1

/-- The effect of an accepted operation. -/
def domEffect (s : State) (op d : Nat) : State :=
  let st := domainState s d
  if op = 1 then (if st = stEasing || st = stHold then s else easeDomain s d)
  else if op = 2 then serveTunnel (releaseDomain s d)
  else if op = 4 then powerDown s d
  else if op = 5 then serveTunnel (powerUp s d)
  else domBeginReset s op d

/-- An operation of DOM on a domain it can reach or refuse (R613). -/
def domRuns (q : Req) (op d : Nat) (s : State) : State :=
  let v := domVerdict s q op d
  domResult v (if v = drOk then domEffect s op d else s)

/-- A write of DOM_CMD (R559, R567, R613): without keeper privilege nothing happens; while an operation runs RESULT
reads BUSY; OP 0 and 7 have no effect. An operation on a domain of a die whose link trains waits, with BUSY 1 (R28). -/
def domCmdWrite (q : Req) (w : Word) (s : State) : State :=
  let go := DOM.DOM_CMD.GO.of w = 1 && keeper q
  let op := DOM.DOM_CMD.OP.of w
  let die := domainDie (domWin s)
  if s.get DOM.DOM_CMD.BUSY = 1 then (if go then domResult drBusy s else s)
  else
    let s := plainWrite s q domPage 0x050 w
    if !go || op = 0 || op = 7 then s
    else if dieTraining s die then (s.ask (.dom q op (domWin s))).put DOM.DOM_CMD.BUSY 1
    else domRuns q op (domWin s) s

/-- A guarded write of DOM_CMD. -/
def domCmdAccess (q : Req) (w : Word) (s : State) : State := guarded s q domPage 0x050 w (domCmdWrite q w)

/-- DOM_EASY (R555, R613). -/
def execDomEasy (q : Req) (w : BitVec 32) (s : State) : Result := .next (domCmdAccess q w s)
/-- DOM_RELEASE (R555, R613). -/
def execDomRelease (q : Req) (w : BitVec 32) (s : State) : Result := .next (domCmdAccess q w s)
/-- DOM_RESET (R557, R613). -/
def execDomReset (q : Req) (w : BitVec 32) (s : State) : Result := .next (domCmdAccess q w s)
/-- DOM_POWER_OFF (R557, R613). -/
def execDomPowerOff (q : Req) (w : BitVec 32) (s : State) : Result := .next (domCmdAccess q w s)
/-- DOM_POWER_ON (R558, R613). -/
def execDomPowerOn (q : Req) (w : BitVec 32) (s : State) : Result := .next (domCmdAccess q w s)
/-- DOM_FORCE_RESET (R557, R561, R613). -/
def execDomForceReset (q : Req) (w : BitVec 32) (s : State) : Result := .next (domCmdAccess q w s)

/-- The domain whose requests carry a requester class: a core's, a port's for the diagnostic BAR, the management
endpoint's, the debug port's; a sequencer's accesses do not leave its die (R241, R545, R551). -/
def requesterDomain (q : Req) : Nat :=
  match q.cls.val with
  | 0 | 1 | 2 => 5 + min q.unit.val 5
  | 5 => 17
  | 6 => 23
  | 7 => 37
  | _ => 0

/-- The domain a waiting flit comes from: SRV's for the control law's outputs; tokens and sense flits come from Rigger's
always-on domain (R551). -/
def flitDomain : Flit → Nat
  | .token _ | .sense .. => 80
  | .coil a _ _ => (srvPage a).domain

/-- A flit of the domain is still on its way (R554): a completion record of its lane, a notice of its page on another
die, an access of its requester that waits for a link, or a servo flit. -/
def flitsLeft (s : State) (d : Nat) : Bool :=
  (s.tagRecs.any fun r => unitDomain r.lane = d || (lanePage r.lane).domain = d) ||
  (s.notices.any fun x => match pageOf x.page with
    | some p => p.die ≠ 0 && p.domain = d
    | none => false) ||
  (s.waiting.any fun x => match x.why with
    | .link _ => requesterDomain x.req = d
    | _ => false) ||
  (List.range 4).any fun n =>
    (flitQueue s n true).any (fun f => flitDomain f = d) || (flitQueue s n false).any fun f => flitDomain f = d

/-- DOM_RESET_COMPLETE (R532, R553, R554): RST_MIN has passed and no flit of the domain remains. -/
def execDomResetComplete (testsPass : Bool) (s : State) : Result :=
  .next (
    let d := s.domOp.dom
    if s.domOp.op = 0 || flitsLeft s d then s
    else
      let s := leaveReset ({ s with domOp := {} } : State) d
      let s := if d = 32 && testsPass then s.put SEC.ENT_STAT.FAIL 0 else s
      s.put DOM.DOM_CMD.BUSY 0)

/-! EASY_LIMIT (R556). -/

/-- The work a domain still holds completes to its senders with DOMAIN_RESET (R556; log 50). -/
def yieldUnit (s : State) (d : Nat) : State :=
  if d = 1 then (s.secMap fun x => { x with op := none }).put SEC.KEY_CMD.BUSY 0
  else if d = 2 then commitEnd (s.evrMap fun x => { x with cur := none })
  else if d = 11 then l2Empty s
  else if d = 21 || d = 22 then (ctlCmds s (d - 21)).foldl (fun s k => killCmd s k .internalError) s
  else if d = 48 || d = 49 || d = 50 || d = 51 || (68 ≤ d && d ≤ 71) then
    let n := if d < 60 then d - 48 else d - 64
    let s := match (s.lane n).write with
      | some j => completeTag (finishFrame s n) n j.tag { status := 11 }
      | none => s
    closeReadGate s n
  else if d = 52 || d = 72 then ldpDropAll s ((d - 52) / 20)
  else if d = 53 || d = 54 || d = 73 || d = 74 then
    let a := (d - 53) / 20 * 2 + (d - 53) % 20
    s.setSrv a { s.srv a with seeks := [], inj := none, capRun := none }
  else if d = 55 || d = 56 || d = 75 || d = 76 then
    let a := (d - 55) / 20 * 2 + (d - 55) % 20
    s.setAst a { s.ast a with frames := [] }
  else if d = 83 then { s with rgt := { s.rgt with queue := [], forward := [] } }
  else if d = 91 then (nvsStop s).nvMap fun x => { x with due := s.nv.due }
  else if d = 4 || d = 16 || d = 30 || d = 31 then dropUnit s d
  else s

/-- EASY_TIMEOUT (R556): EV085; but for sequencers and PD24-PD28 the domain is taken to HOLD. -/
def execEasyTimeout (dom : Fin 96) (s : State) : Result :=
  .next (
    let d := dom.val
    if !(s.dom d).easing || !domainLive s d || domainState s d ≠ stEasing then s
    else
      let s := raise (s.bump DOM.DOM_CNT.EASY_TO) domPage 1 4
      let s := s.setDom d { s.dom d with easing := false }
      if (domainSeq d).isSome || (24 ≤ d && d ≤ 28) then s else holdDomain (yieldUnit s d) d)

/-! Image loads (R562). -/

/-- Greatest image of a controller domain, KiB. -/
def imageLimit (d : Nat) : Nat := if d = 89 then 256 else 512

/-- A write of IMG_CTL (R562, R567). -/
def imgCtlWrite (q : Req) (w : Word) (s : State) : State :=
  let busy := s.get DOM.IMG_CTL.BUSY = 1
  let s := plainWrite s q domPage 0x07C w
  if DOM.IMG_CTL.GO.of w = 0 || !keeper q || busy then s
  else
    let d := domWin s
    let kib := max 1 (DOM.IMG_CTL.KIB.of w)
    if !isImageDomain d || domainState s d ≠ stHold ||
        !(dieUp s (domainDie d) || dieTraining s (domainDie d)) || imageLimit d < kib then
      let s := s.put DOM.IMG_CTL.RESULT 1
      if isImageDomain d then s.setDom d { s.dom d with imgResult := some 1 } else s
    else (s.setDom d { s.dom d with imgKib := kib, imgAddr := s.get DOM.IMG_ADDR.ADDR * 4096 }).put DOM.IMG_CTL.BUSY 1

/-- IMAGE_LOAD (R562). -/
def execImageLoad (q : Req) (w : BitVec 32) (s : State) : Result := .next (guarded s q domPage 0x07C w (imgCtlWrite q w))

/-- The load that runs. -/
def imageDomain (s : State) : Option Nat := [57, 77, 89].find? fun d => (s.dom d).imgKib ≠ 0

/-- IMAGE_LOAD_COMPLETE (R28, R29, R562): the digest is compared with IMG_EXPECT. A controller that has left HOLD or whose
link is down takes nothing; while its link trains the load waits. -/
def execImageLoadComplete (s : State) : Result :=
  .next (
    match imageDomain s with
    | none => s
    | some d =>
      if dieTraining s (domainDie d) then s else
      let n := (s.dom d).imgKib * 1024
      let r := memRead s .other (s.dom d).imgAddr n
      let s := r.2
      let h := leNat (shake256 r.1.bytes)
      let want := leNat ((List.range 8).flatMap fun k => leBytes 4 (s.get DOM.IMG_EXPECT.EXPECT 0 k))
      let res := if domainState s d ≠ stHold || !dieUp s (domainDie d) then 1 else if r.1.poison then 2 else if h = want then 0 else 3
      let x := s.dom d
      let s := s.setDom d { x with imgKib := 0, imgResult := some res, image := if res = 0 then some h else x.image }
      (s.put DOM.IMG_CTL.RESULT res).put DOM.IMG_CTL.BUSY 0)

end Sys2Proof.Machine
end

