-- ==== Sys2Proof/Machine/Starts.lean ====
section
/-! DEFINITION. Starts, supplies and whole-die resets: cold and warm starts, safe and recovery starts, the cache restore,
PFAIL, DRST and the rails (rules R24, R387, R419-R426, R563-R566, R614). -/

namespace Sys2Proof.Machine

open Sys2Proof

/-! Firmware slots as the boot ROM reads them (R474, R534; log 51). -/

/-- The boot ROM accepts a slot's image (R534, R535): the SVN check does not apply to slot 1. -/
def slotGood (s : State) (slot : Nat) : Bool := imageCheck s (slotImage s slot) slot (slot ≠ 1) = 0

/-- The slot a normal start takes: the one a Commit has named, else the one in force, else the first of slots 2-4 that
holds an image the boot ROM accepts, else slot 1 (R358, R564; log 51). -/
def bootSlot (s : State) : Nat :=
  match s.nvme.nextSlot with
  | some k => k
  | none => if s.nvme.activeSlot ≠ 0 then s.nvme.activeSlot else ([2, 3, 4].find? (slotGood s)).getD 1

/-- Images are copied and measured (R534, R535, R537): a warm start extends bank 0 alone, slot 1 loads kind 0 alone. -/
def loadParts (s : State) (slot : Nat) (warm : Bool) : State :=
  ((imageParts (slotImage s slot)).filter fun p => p.kind = 0 || !(warm || slot = 1)).foldl measurePart s

/-- Cores that a start sets running: the application cores, and the real-time cores but for a safe start; AC0 alone in a
recovery start (R565, R566). -/
def startCores (s : State) (kind : Nat) : State :=
  let l := if kind = 3 then [0] else if kind = 2 then [0, 1, 2, 3] else [0, 1, 2, 3, 4, 5]
  l.foldl (fun s c => setDomState s (coreDomain c) stRun) s

/-- A start runs from a slot; the boot ROM's reads power up the array's quarters (R552). -/
def runStart (s : State) (kind slot : Nat) : State :=
  let s := s.put DOM.DOM_STAT.START_KIND kind
  let s := if kind = 3 then s else (loadParts (quartersUp s) slot (kind = 1)).put SEC.SEC_STAT.BOOT_SLOT slot
  let s := { s with
    start := { watchdog := kind ≠ 3, slot := slot, safe := 2 ≤ kind, coxReset := false }
    nvme := { s.nvme with activeSlot := if kind = 3 then s.nvme.activeSlot else slot, nextSlot := none, activation := none } }
  loadSaved (startCores (raiseIf (2 ≤ kind) s domPage 3 7) kind)

/-- A failed start is counted (R564). -/
def startFails (s : State) : State := raise (s.bump DOM.DOM_STAT.FAIL_CNT) domPage 3 6

/-- The boot ROM's choice (R564-R566): images that fail their checks fail the start, Cox is reset and starts again; with
FAIL_CNT at 3 or more the start is a safe start, or a recovery start without an acceptable slot 1. -/
def bootRom : Nat → Nat → State → State
  | 0, _, s => runStart s 3 0
  | f + 1, kind, s =>
    if 3 ≤ s.get DOM.DOM_STAT.FAIL_CNT then (if slotGood s 1 then runStart s 2 1 else runStart s 3 0)
    else
      let k := bootSlot s
      if slotGood s k then runStart s kind k else bootRom f kind (startFails s)

/-! Cold starts (R14, R563). -/

/-- What a namespace keeps over a cold start: its reservation where it persists (R351); open zones are closed. -/
def coldNs (n : Ns) : Ns :=
  { n with
    moving := none, formatting := false, deleting := false, implicit := [], explicit := []
    closed := (n.closed ++ n.implicit ++ n.explicit).eraseDups, changed := [], resLog := [], resMask := []
    registrants := if n.persist then n.registrants else []
    reservation := if n.persist then n.reservation else none }

/-- What the host interface keeps over a cold start (R351, R352, R354, R356, R358, R361). -/
def coldNvme (x : Nvme) : Nvme :=
  { vpd := x.vpd, nss := x.nss.map fun e => (e.1, e.2.map coldNs), saved := x.saved, nextSlot := x.nextSlot
    activeSlot := x.activeSlot, sanitize := x.sanitize
    testLog := ((x.selfTest.toList.map fun t => (⟨t.code, 2, t.failed.getD 0, 0, t.sector⟩ : TestResult)) ++ x.testLog).take 20 }

/-- What Keel keeps while it has no power (R471, R486). -/
def coldNv (x : Nv) : Nv :=
  { words := x.words, broken := x.broken, cut := x.cut, half := x.half, level := x.level, lowering := x.lowering
    openWord := x.openWord, closedWord := x.closedWord }

/-- The directory entries of the acknowledged lines that power is lost under (R378, R385-R387): CACHED, and not written to
refuge. -/
def lostEntries (s : State) : List (List Nat) :=
  ((linesThat s fun x => x.kind = lkCached).filter fun i => !s.sch.pl.saved.contains i).map fun i => lineEntry (s.line i)

/-- The links that are enabled train (R28, R425). -/
def trainLinks (s : State) : State :=
  (List.range 4).foldl (fun s n => if bit (s.get BRZ.BRZ_CTL.LINK_EN) n then startTraining s n else s) s

/-- The state in which the rails have just come up: every register at its Cold value, what is not volatile kept, heads
where they were left (R14, R229, R421). -/
def coldState (s : State) (straps : Straps) : State :=
  lockSync { State.reset with
    pending := s.pending
    fresh := s.fresh
    straps := straps
    fuses := s.fuses
    media := { s.media with lost := s.media.lost ++ lostEntries s }
    nv := coldNv s.nv
    nvme := coldNvme s.nvme
    vcms := s.vcms.map fun e => (e.1, { loaded := e.2.loaded, stranded := e.2.stranded })
    start := { watchdog := true, coxReset := straps.test } }

/-- A cold start (R425, R563, R589): Cox trains its links and boots, unless TEST holds it in reset. -/
def coldStart (s : State) (straps : Straps) : State :=
  let s := coldState s straps
  if straps.test then s else bootRom 4 0 (trainLinks s)

/-! Resets of Cox (R563). -/

/-- PCI Express goes down before a start (R300). -/
def portsDown (s : State) : State := [0, 1].foldl portDown s

/-- What DOM was doing ends with a reset of Cox. -/
def domQuiet (s : State) : State :=
  let s := if s.domOp.op = 0 then s else leaveReset { s with domOp := {} } s.domOp.dom
  { s with doms := s.doms.map fun e => (e.1, { e.2 with imgKib := 0 }), waiting := [], shadow := [] }

/-- The domains a warm start resets (R388, R563). -/
def warmDomains (s : State) : List Nat :=
  (List.range 19).map (· + 5) ++ (if chargeAll s = 0 then [24, 25, 26, 27, 28] else []) ++ [29, 30, 31]

/-- A warm start (R563): the L2 is drained, the links stay up, the rest of the device runs on. -/
def warmStart (s : State) : State :=
  let s := domQuiet (portsDown s)
  let s := if l2Mode s = l2Bypass then s else l2Empty s
  let s := (warmDomains s).foldl (fun s d => if (s.dom d).powered then resetDomain s d else powerUp s d) s
  let s := [(⟨.dom, 0⟩ : Page), ⟨.clk, 0⟩, ⟨.mbx, 0⟩].foldl warmBlock s
  bootRom 4 1 (s.tmpMap fun x => { x with tripped := false, held := 0 })

/-- A field of the dies other than Cox, FAIL_CNT, which only the loss of every rail clears (R564), or what BRZ shows of
Rigger's generator (R40). -/
def keptField (key : Nat) : Bool :=
  0x01000000 * 32 ≤ key || key = DOM.DOM_STAT.FAIL_CNT.key 0 0 || key = BRZ.STROKE_STAT.MODE.key 0 0 ||
    key = BRZ.STROKE_PERIOD.PERIOD.key 0 0

/-- A reset of Cox with the spindle not in RUN (R563): the steps of a cold start with the rails up. Cox begins anew, the
other dies keep their state, and Rigger retracts while its link is down (R227). -/
def coxCold (s : State) : State :=
  let c := coldState s s.straps
  let c := { c with
    flds := s.flds.filter fun e => keptField e.1
    wires := s.wires, gen := s.gen, timers := s.timers.filter fun e => e.1 ≠ 0
    lanes := s.lanes, ldps := s.ldps, lqs := s.lqs, sqrs := s.sqrs, seqs := s.seqs, asts := s.asts, srvs := s.srvs
    vcms := s.vcms, mac := s.mac, rgt := s.rgt, spn := s.spn, launches := s.launches
    doms := s.doms.filter fun e => 40 ≤ e.1 }
  bootRom 4 0 (trainLinks (retractAll c))

/-- Cox is reset (R563): a warm start where SPN STATE reads RUN, else the steps of a cold start. -/
def coxRestart (s : State) : State := if spn s = spRun then warmStart s else coxCold s

/-- COX_RESET (R563-R566). While a rail of Cox is bad or TEST is high Cox stays in reset. -/
def execCoxReset (s : State) : Result := .next (if s.start.coxReset then s else coxRestart s)

/-- START_WATCHDOG_EXPIRE (R564). -/
def execStartWatchdogExpire (s : State) : Result :=
  .next (if s.start.watchdog && !s.start.coxReset then coxRestart (startFails s) else s)

/-! The cache restore (R387). -/

/-- A refuge index block as programmed, if its CRC-32C holds. -/
def indexAt (s : State) (w : Nat) : Option (List Nat) :=
  if nvBlank s w then none
  else
    let b := (List.range 128).flatMap fun i => leBytes 32 (nvData s (w + i))
    if crc32c (b.take 4092) = leNat (b.drop 4092) then some b else none

/-- The newest index of the power cycle before this one that is no test's (R382, R387, R388). -/
def refugeFound (s : State) : Option (List Nat) :=
  let l := (List.range 4).flatMap fun u => (List.range 15).map fun b => (674 + u) * unitWords + 1 + 128 * b
  let n := fun (b : List Nat) (k : Nat) => leNat ((b.drop k).take 4)
  ((l.filterMap (indexAt s)).filter fun b =>
    n b 4 + 1 = s.get EVR.CYCLES.COUNT && decide (n b 8 < 2 ^ 31)).foldl (fun best b => match best with
      | none => some b
      | some x => if n x 0 < n b 0 then some b else some x) none

/-- The runs of an actuator: head, band, sectors. Without an index its targets, each to the end of its records. -/
def refugeRuns (s : State) (index : Option (List Nat)) (a : Nat) : List (Nat × Nat × Nat) :=
  match index with
  | some b =>
    (List.range 4).filterMap fun k =>
      let n := fun (i : Nat) => leNat ((b.drop (28 + 64 * a + 16 * k + 4 * i)).take 4)
      if n 3 = 0 then none else some (n 0, n 1, n 3)
  | none => (List.range 4).filterMap fun k =>
      if s.get SCH.PL_TGT.VALID 0 (4 * a + k) = 1 then
        some (s.get SCH.PL_TGT.HEAD 0 (4 * a + k), s.get SCH.PL_TGT.BAND 0 (4 * a + k), 65536)
      else none

/-- The user part of the sector at a place, if steps 0-7 recover it: what lies on the media there, with a sound internal
tag (R140, R387); of a sector written marked, whose tag never passes, what was written (R379). -/
def sectorAt (s : State) (x : Xlat) (marked : Bool) : Option (List Nat) :=
  if x.status = .ok then
    match (mediaPayload s.media x.psa).map (scramble x.psa) with
    | some p => if marked || tagStatus x.psa p = 0 then some (p.take 4112) else none
    | none => none
  else none

/-- The user part of refuge sector `i` of a run (R387). -/
def refugeAt (s : State) (r : Nat × Nat × Nat) (i : Nat) (marked : Bool) : Option (List Nat) :=
  sectorAt s (translateBand s 0 0 r.1 r.2.1 i false).1 marked

/-- The line of a directory entry, CACHED again (R363, R387). -/
def entryLine (entry : List Nat) : Line :=
  let b := fun (k n : Nat) => leNat ((entry.drop k).take n)
  { kind := lkCached, charge := bits (b 0 1) 3 2, marked := bit (b 0 1) 5, nsx := b 1 1 % 64, zone := b 4 4 % 2 ^ 19
    offset := b 8 4, seq := b 12 4 }

/-- What lies on the media in a line's own place, unless its strand is lost (R387). -/
def onMedia (s : State) (x : Line) : Option (List Nat) :=
  let e := readEntry s x.zone
  if woven e.1.kind && e.1.lost (lineSector e.1.kind x).1 then none
  else sectorAt s (translate e.2 x.zone x.offset).1 false

/-- A restored sector becomes CACHED again with its directory entry; it needs no second write where its own place holds
it (log 51). Of one that is not recovered a woven zone's own sector serves, if it is on the media; without it the zone
turns Offline, with a record whose code the spec does not give (R387). -/
def restoreLine (s : State) (entry : List Nat) (bytes : Option (List Nat)) : State :=
  let k := entry.headD 0 % 8
  let x := entryLine entry
  if k ≠ lkCached && k ≠ lkTrail then s
  else
    let there := onMedia s x
    let held := bytes.or (if woven (readEntry s x.zone).1.kind then there else none)
    match held, freeLines s 1 with
    | some bs, some [i] =>
      let s := (memWrite s (lineAddr s i) (bs ++ List.replicate 16 0)).setLine i
        (some { x with written := decide (there = some bs) })
      { s with buf := { s.buf with seq := max s.buf.seq (x.seq + 1) } }
    | _, _ =>
      let s := (report s ⟨0, 0, 0x1FF, s.free % 65536, leBytes 4 x.zone ++ List.replicate 6 0⟩).drawn
      offlineZone s x.nsx x.zone

/-- One sector of a run: inside a record a data sector, else a header, whose record number counts up (R382). Held: the
entries still to come, the next record number, and whether the run has ended. -/
def restoreStep (r : Nat × Nat × Nat) (a : List (List Nat) × Nat × Bool × State) (i : Nat) :
    List (List Nat) × Nat × Bool × State :=
  let s := a.2.2.2
  if a.2.2.1 then a
  else match a.1 with
    | e :: es => (es, a.2.1, false, restoreLine s e (refugeAt s r i (bit (e.headD 0) 5)))
    | [] =>
      match refugeAt s r i false with
      | none => ([], a.2.1, true, s)
      | some b =>
        let n := fun (k : Nat) => leNat ((b.drop k).take 4)
        if n 0 = a.2.1 && n 4 + 1 = s.get EVR.CYCLES.COUNT && decide (n 8 ≤ 255) then
          ((List.range (n 8)).map (fun k => (b.drop (16 + 16 * k)).take 16), a.2.1 + 1, false, s)
        else ([], a.2.1, true, s)

/-- Restore an actuator's runs in order; a record may go on in the next run. -/
def restoreActuator (index : Option (List Nat)) (s : State) (a : Nat) : State :=
  ((refugeRuns s index a).foldl (fun (x : List (List Nat) × Nat × Bool × State) r =>
    (List.range r.2.2).foldl (restoreStep r) (x.1, x.2.1, false, x.2.2.2)) ([], 0, false, s)).2.2.2

/-- The restore (R84, R387): every actuator's refuge sectors, the refuge bands' write pointers, then the plan for the lines
that are not on the media, in SEQ order (log 51). -/
def restoreCache (s : State) : State :=
  let index := refugeFound s
  let s := (List.range 4).foldl (restoreActuator index) s
  let s := s.media.lost.foldl (fun s e => restoreLine s e none) s
  let s := { s with media := { s.media with refuge := [], lost := [] } }
  let s := planWrites s .cached none (((plSealed s).map (·.2)).filter fun i => !lineDone s i)
  schSettle (settleCharge s) ((s.buf.lines.filterMap fun e => e.2.map (·.zone)).eraseDups)

/-! DOM_CTL (R564, R567). -/

/-- START_OK (R564): the watchdog stops, a slot other than slot 1 clears FAIL_CNT; a cold start's cache restore is done
by then (R387; log 51). -/
def startOk (s : State) : State :=
  let restore := s.start.watchdog && s.get DOM.DOM_STAT.START_KIND = 0
  let s := { s with start := { s.start with watchdog := false } }
  let s := if s.start.slot = 1 then s else s.put DOM.DOM_STAT.FAIL_CNT 0
  if restore then restoreCache s else s

/-- A write of DOM_CTL (R564, R567): a keeper's bits act, WARM last. -/
def domCtlWrite (q : Req) (w : Word) (s : State) : State :=
  if !keeper q then s
  else
    let s := if DOM.DOM_CTL.START_OK.of w = 1 then startOk s else s
    let s := if DOM.DOM_CTL.FAIL_CLR.of w = 1 then s.put DOM.DOM_STAT.FAIL_CNT 0 else s
    if DOM.DOM_CTL.WARM.of w = 1 then coxRestart s else s

/-- A guarded write of DOM_CTL. -/
def domCtlAccess (q : Req) (w : Word) (s : State) : State := guarded s q domPage 0x040 w (domCtlWrite q w)

/-- WARM_START (R563, R567). -/
def execWarmStart (q : Req) (w : BitVec 32) (s : State) : Result := .next (domCtlAccess q w s)
/-- START_OK (R564). -/
def execStartOk (q : Req) (w : BitVec 32) (s : State) : Result := .next (domCtlAccess q w s)
/-- FAIL_CLR (R564). -/
def execFailClr (q : Req) (w : BitVec 32) (s : State) : Result := .next (domCtlAccess q w s)

/-- A write of any DOM register (R567): DOM_CFG and BOOT_ADDR belong to the domain of DOM_WIN. -/
def domWrite (q : Req) (off : Nat) (w : Word) (s : State) : State :=
  let d := domWin s
  let x := s.dom d
  if off = 0x040 then domCtlWrite q w s
  else if off = 0x050 then domCmdWrite q w s
  else if off = 0x058 then
    s.setDom d { x with easyLimit := DOM.DOM_CFG.EASY_LIMIT.of w, rstMin := DOM.DOM_CFG.RST_MIN.of w }
  else if off = 0x05C then (if isCoreDomain d then s.setDom d { x with bootAddr := w.toNat } else s)
  else if off = 0x07C then imgCtlWrite q w s
  else plainWrite s q domPage off w

/-- A computed DOM register (R553, R567). -/
def domRead (s : State) (off : Nat) : Option Nat :=
  let d := domWin s
  let x := s.dom d
  let mask := fun (m : Nat) (p : Nat → Bool) => (List.range 32).foldl (fun v i => if p (32 * m + i) then v + 2 ^ i else v) 0
  if off = 0x054 then some ((if x.powered then 2 ^ 16 else 0) + x.epoch * 2 ^ 8 + domainState s d)
  else if off = 0x058 then some (x.easyLimit * 2 ^ 16 + x.rstMin)
  else if off = 0x05C then some x.bootAddr
  else if 0x060 ≤ off && off ≤ 0x068 then some (mask ((off - 0x060) / 4) fun k => (s.dom k).powered)
  else if 0x06C ≤ off && off ≤ 0x074 then some (mask ((off - 0x06C) / 4) fun k => domainState s k = stHold)
  else none

/-! PFAIL (R419, R614). -/

/-- PFAIL asserts: every receiver acts by itself (R25, R614); a controlled spin-down gives way to hold-up (R419). -/
def pfailAssert (s : State) : State :=
  let s := { s with wires := { s.wires with pfail := true } }
  let s := (((s.put PWR.PWR_STAT.PFAIL 1).put PWR.PWR_STAT.HOLDUP 1).put PWR.PWR_STAT.FLOOR 0).put PWR.PWR_STAT.IN12_OK 0
  let s := raise (s.bump PWR.PWR_CNT.PFAIL_CNT) pwrPage 0 7
  let s := s.spnMap fun x => { x with stopping := false }
  let turns := [spAccel, spRun, spSpeed].contains (spn s) || (spn s = spSpindown && !s.spn.rebrake)
  let s := if turns then setSpn s spHoldup else s
  let s := evrPfail (nvsPfail (starterStop s))
  plOnPfail s

/-- PFAIL_ASSERT (R419, R614). -/
def execPfailAssert (s : State) : Result := .next (if pfailed s then s else pfailAssert s)

/-- PFAIL_DEASSERT (R423): before the rails are released, the isolation switch closes and the spindle accelerates back to its target. -/
def execPfailDeassert (ms : BitVec 16) (s : State) : Result :=
  .next (if pfailed s && s.get PWR.PWR_STAT.IN12_OK = 1 && s.get PWR.PWR_STAT.RAIL_PG ≠ 0 && (List.range 4).all (fun a => !(s.vcm a).loaded) then
    let s := { s with wires := { s.wires with pfail := false } }
    let s := (s.put PWR.PWR_STAT.PFAIL 0).put PWR.PWR_STAT.HOLDUP 0
    let s := (s.put PWR.HUP_STAT.LAST_MS ms.toNat).put PWR.HUP_STAT.END_RPM (s.get SPN.SPN_SPEED.RPM / 65536)
    nvNext (if spn s = spHoldup then setSpn s spSpeed else s)
  else s)

/-! DRST (R24, R551). -/

/-- The power domains of a die. -/
def dieDomains (die : Nat) : List Nat :=
  (List.range 96).filter fun d => domainDie d = die

/-- A whole die is reset and its link trains for the first time again (R24, R28, R551). -/
def dieReset (s : State) (die : Nat) : State :=
  let s := { s with wires := { s.wires with drst := s.wires.drst.filter fun d => d ≠ die } }
  let s := (dieDomains die).foldl (fun s d => if (s.dom d).powered then resetDomain s d else powerUp s d) s
  let s := linkLost s (die - 1)
  if bit (s.get BRZ.BRZ_CTL.LINK_EN) (die - 1) then startTraining s (die - 1) else s

/-- DRST_ASSERT (R24). -/
def execDrstAssert (die : Fin 4) (s : State) : Result :=
  .next (if s.start.coxReset then s else dieReset s (die.val + 1))

/-! Rails (R421, R425, R426). -/

/-- Without power the dies that hang on the rails are held and their links are down. -/
def railsOff (s : State) : State :=
  let s := retractAll (nvsStop s)
  let s := { s with
    start := { s.start with coxReset := true }
    wires := { s.wires with drst := [1, 2, 4] } }
  ((s.put PWR.PWR_STAT.RAIL_PG 0).put BRZ.BRZ_STAT.LINK_UP 0).put BRZ.BRZ_STAT.TRAINING 0

/-- RAILS_RELEASE (R421): with every actuator parked and the sequence done or stopped at the floor, or with HUP below
8.0 V. -/
def execRailsRelease (low : Bool) (ms : BitVec 16) (s : State) : Result :=
  .next (
    let done := (List.range 4).all (fun a => vcmState s a = 3) && (plState s = 6 || plState s = 7)
    if !pfailed s || !(low || done) then s
    else
      let s := (s.put PWR.HUP_STAT.LAST_MS ms.toNat).put PWR.HUP_STAT.END_RPM (s.get SPN.SPN_SPEED.RPM / 65536)
      let s := if spn s = spStopped || spn s = spFault then s else setSpn s spCoast
      railsOff s)

/-- A cold start with the shock sensors' self-tests (R236): `failed` has a bit for each that fails. -/
def testedStart (s : State) (straps : Straps) (failed : Nat) : State :=
  (bitList 3 failed).foldl suspectSensor (coldStart s straps)

/-- RAILS_POWER_UP (R236, R425, R563, R589). -/
def execRailsPowerUp (port mgmt test : Bool) (failed : BitVec 3) (s : State) : Result :=
  .next (testedStart s { port := port, mgmt := mgmt, test := test } failed.toNat)

/-- The level of a rail's fault (R426; VPHY, which the table leaves out, as a rail of one interface: log 52). -/
def railLevel (r : Nat) : Nat :=
  if r = 0 || r = 5 || r = 6 then 5 else if 1 ≤ r && r ≤ 4 then 6 else if r = 7 then 3 else 1

/-- The outcome of a rail's fault (R426). -/
def railOutcome (s : State) (r : Nat) : State :=
  if r = 5 || r = 6 then
    let s := linkLost (linkLost s 0) 1
    { s with wires := { s.wires with drst := (s.wires.drst ++ [1, 2]).eraseDups } }
  else if r = 0 then nvsStop s
  else if 1 ≤ r && r ≤ 4 then
    let s := (List.range 4).foldl linkLost s
    (retractAll { s with start := { s.start with coxReset := true } }).spnMap fun x => { x with cycle := true }
  else if 8 ≤ r then
    let s := (List.range 4).foldl (fun s a => inhibit s a .preampFault) s
    if r = 8 then (List.range 8).foldl closeReadGate s else s
  else s

/-- RAIL_FAULT (R426). -/
def execRailFault (rail : Fin 10) (recent : Bool) (s : State) : Result :=
  .next (
    let r := rail.val
    if !bit (s.get PWR.PWR_STAT.RAIL_PG) r then s
    else
      let s := s.put PWR.PWR_STAT.RAIL_PG (setBit (s.get PWR.PWR_STAT.RAIL_PG) r false)
      let s := s.put PWR.RAIL_FAULT.FAULT (setBit (s.get PWR.RAIL_FAULT.FAULT) r true)
      let n := (if recent then sget 0 s.spn.railFails r else 0) + 1
      let s := s.spnMap fun x => { x with railFails := sset 0 x.railFails r n }
      railOutcome (raise s pwrPage 6 (railLevel r)) r)

/-- RAIL_GOOD (R426): a rail that has failed three times is left off. -/
def execRailGood (rail : Fin 10) (s : State) : Result :=
  .next (
    let r := rail.val
    if bit (s.get PWR.PWR_STAT.RAIL_PG) r || 3 ≤ sget 0 s.spn.railFails r || s.start.coxReset then s
    else
      let s := s.put PWR.PWR_STAT.RAIL_PG (setBit (s.get PWR.PWR_STAT.RAIL_PG) r true)
      let good := bit (s.get PWR.PWR_STAT.RAIL_PG)
      if (r = 5 || r = 6) && good 5 && good 6 then dieReset (dieReset s 1) 2
      else if r = 0 then scanStart (scanDue s)
      else if 8 ≤ r && good 8 && good 9 then
        (List.range 4).foldl (fun s a => if s.get AST.PFLT_STAT.LINE a = 0 then startRelease s a .preampFault else s) s
      else s)

/-- RAIL_CYCLE (R236, R426): every rail is cycled once, which is a cold start. -/
def execRailCycle (failed : BitVec 3) (s : State) : Result :=
  .next (if s.spn.cycle then testedStart s s.straps failed.toNat else s)

end Sys2Proof.Machine
end

