-- ==== Sys2Proof/Machine/Firmware.lean ====
section
/-! DEFINITION. Firmware slots and activation, the controller disable and Function Level Reset as commands (rules R318,
R320, R334, R357-R359, R474, R480, R534, R535, R561-R566). -/

namespace Sys2Proof.Machine

open Sys2Proof

/-! The pending image (R357). -/

/-- The bytes of the pending image: its pieces must follow one another from byte 0; otherwise none (log 53). -/
def pendingImage (l : List (Nat × List Nat)) : List Nat :=
  let sorted := l.mergeSort fun a b => decide (a.1 ≤ b.1)
  let r := sorted.foldl (fun (a : Nat × Bool) e => (a.1 + e.2.length, a.2 && e.1 = a.1)) (0, true)
  if r.2 then sorted.flatMap (·.2) else []

/-- Two runs of bytes share a byte. -/
def overlaps (a n b m : Nat) : Bool := decide (a < b + m) && decide (b < a + n)

/-- FW_IMAGE_DOWNLOAD (R357): pieces in units of 4 KiB, at most 32 MiB in all, none over another. -/
def execFwImageDownload (slot : Fin 4096) (offset : BitVec 32) (bytes : List Byte) (s : State) : Result :=
  .next (onAdminIdle s slot.val fun s _ =>
    let k := slot.val
    let a := offset.toNat * 4
    let b := bytes.map (·.toNat)
    if a % 4096 ≠ 0 || b.length % 4096 ≠ 0 || b.isEmpty || 33554432 < a + b.length then endCmd s k .invalidField
    else if s.nvme.pieces.any fun e => overlaps a b.length e.1 e.2.length then endCmd s k .overlappingRange
    else endCmd { s with nvme := { s.nvme with pieces := s.nvme.pieces ++ [(a, b)] } } k .success)

/-! Storing (R358, R473, R474, R480-R482). -/

/-- Erase a unit with its journal records; firmware first erases the other journal unit when the active one is full
(R481, R482). -/
def eraseUnit (s : State) (u : Nat) : State :=
  let go := fun (s : State) (u : Nat) =>
    let s := beginErase s { owner := 0, kind := 2, word := u * unitWords }
    match s.nv.op with
    | some o => eraseDone (s.nvMap fun x => { x with op := none }) o
    | none => s
  go (if journalRoom s < 2 then go s (1 - s.get NVS.JOURNAL.ACTIVE) else s) u

/-- Word `i` of an image of 32-byte words. -/
def imageWord (img : List Nat) (i : Nat) : Nat := leNat ((img.drop (32 * i)).take 32)

/-- Program an image into a slot through NVS (R358, R474): its units are erased where they are not blank, then written in
order. Every operation verifies (log 53). -/
def storeImage (s : State) (slot : Nat) (img : List Nat) : State :=
  let n := (img.length + 31) / 32
  let units := (List.range ((n + 2046) / 2047)).map (· + (slotUnits slot).1)
  let used := units.filter fun u => !(nvUnit s u).isEmpty || s.nv.broken.any (fun w => w / unitWords = u) || s.nv.cut.contains u
  let s := used.foldl eraseUnit (units.foldl (fun s u => quarterUp s (u * unitWords)) s)
  nvsSync (nvsResult ((List.range n).foldl (fun s i => nvProgram s (slotWord slot i) (imageWord img i)) s) 0)

/-- The slot a Commit names, 0 for one the device picks: the first of slots 2-4 that is not in force (PRESUMED, log 35). -/
def commitSlot (s : State) (fs : Nat) : Nat :=
  if fs ≠ 0 then fs else ([2, 3, 4].find? fun k => decide (k ≠ s.nvme.activeSlot)).getD 2

/-- A slot that a Commit may write (R357, R566): slot 1 only in a recovery start, at lock level 0 or while the open word
stands alone. -/
def slotWritable (s : State) (slot : Nat) : Bool :=
  (2 ≤ slot && decide (slot ≤ 4)) ||
    (slot = 1 && recovering s && (s.nv.level = 0 || (s.nv.openWord && !s.nv.closedWord)))

/-- Verify the pending image and store it in a slot, then go on; a Commit waits in its slot while NVS is not free
(R357, R358, R534, R535; log 53). -/
def storeThen (s : State) (k slot : Nat) (f : State → State) : State :=
  if !slotWritable s slot then endCmd s k .invalidFirmwareSlot
  else if !nvFree s || s.wires.pfail then s
  else
    let img := pendingImage s.nvme.pieces
    let used : State := { s with nvme := { s.nvme with pieces := [] } }
    match imageCheck s img slot (slot ≠ 1) with
    | 0 => f (storeImage used slot (img.take (imageTotal img)))
    | 1 => endCmd used k .invalidImage
    | _ => endCmd used k .activationProhibited

/-- Name the slot of the next start (R358); in a safe start the firmware writes FAIL_CLR, and in a recovery start Cox is
reset as well (R565, R566). -/
def activateNext (s : State) (k slot : Nat) : State :=
  let s := endCmd { s with nvme := { s.nvme with nextSlot := some slot } } k .success
  if !safeStart s then s
  else
    let s := s.put DOM.DOM_STAT.FAIL_CNT 0
    if recovering s then coxRestart s else s

/-- A Commit in a recovery start has CA 0 or 1 alone (R566; its status is PRESUMED, log 35). -/
def onCommit (s : State) (k : Nat) (recovery : Bool) (f : State → State) : State :=
  onAdminIdle s k fun s _ => if recovering s && !recovery then endCmd s k .invalidField else f s

/-- FW_COMMIT_STORE (R358). -/
def execFwCommitStore (slot : Fin 4096) (fs : BitVec 3) (s : State) : Result :=
  .next (onCommit s slot.val true fun s =>
    storeThen s slot.val (commitSlot s fs.toNat) fun s => endCmd s slot.val .success)

/-- FW_COMMIT_STORE_ACTIVATE (R358, R565, R566). -/
def execFwCommitStoreActivate (slot : Fin 4096) (fs : BitVec 3) (s : State) : Result :=
  .next (onCommit s slot.val true fun s =>
    let t := commitSlot s fs.toNat
    storeThen s slot.val t fun s => activateNext s slot.val t)

/-- Go on with a slot whose stored image the checks accept (R357, R534). -/
def withStored (s : State) (k slot : Nat) (f : State → State) : State :=
  if slot = 0 || 4 < slot then endCmd s k .invalidFirmwareSlot
  else match imageCheck s (slotImage s slot) slot (slot ≠ 1) with
    | 0 => f s
    | 1 => endCmd s k .invalidImage
    | _ => endCmd s k .activationProhibited

/-- FW_COMMIT_ACTIVATE (R358, R565). -/
def execFwCommitActivate (slot : Fin 4096) (fs : BitVec 3) (s : State) : Result :=
  .next (onCommit s slot.val false fun s =>
    withStored s slot.val fs.toNat fun s => activateNext s slot.val fs.toNat)

/-! Immediate activation (R359, R561, R562). -/

/-- New microcode for one sequencer in HOLD or OFF (R260-R264): the words of the part, the digest, AUTH, the version
registers. -/
def replaceStore (img : List Nat) (p : Part) (s : State) (u : Nat) : State :=
  let d := unitSeq u
  let k := unitIdx u
  let b := partBytes img p
  let s := s.setSqr u { s.sqr u with store := [] }
  let s := (List.range 4096).foldl (fun s i => putWord s u i (leNat ((b.drop (16 * i)).take 16))) s
  let s := (List.range 8).foldl (fun s i =>
    (s.put SEQ.EXPECT.EXPECT (bits p.digest (32 * i) 32) d i).put SEQ.DIGEST.DIGEST (bits p.digest (32 * i) 32) d i) s
  let s := ((s.put SEQ.SQ_VER.MAJOR p.major d k).put SEQ.SQ_VER.MINOR p.minor d k).put SEQ.SQ_VER.BUILD p.build d k
  setAuth (s.put SEQ.SQ_SVN.SVN p.svn d k) u true

/-- New firmware for a controller domain (R359, R562): image, reset, image again, release. -/
def replaceImage (p : Part) (s : State) (d : Nat) : State :=
  if !domainLive s d then s
  else
    let s := resetDomain s d
    let s := (List.range 8).foldl (fun s i => s.put DOM.IMG_EXPECT.EXPECT (bits p.digest (32 * i) 32) 0 i) s
    let s := (s.put DOM.IMG_CTL.RESULT 0).bump DOM.DOM_CNT.RESETS
    setDomState (s.setDom d { s.dom d with image := some p.digest, imgResult := some 0 }) d stRun

/-- New firmware for a core: it is reset and released (R561). -/
def replaceCore (s : State) (c : Nat) : State :=
  let d := coreDomain c
  if domainLive s d then setDomState (resetDomain (s.bump DOM.DOM_CNT.RESETS) d) d stRun else s

/-- Ask a sequencer to ease (R247, R611). -/
def easeUnit (s : State) (u : Nat) : State :=
  let d := unitSeq u
  let k := unitIdx u
  sqTransition (s.put SEQ.SQ_CTL.EASY 1 d k) u (s.get SEQ.SQ_CTL.ENABLE d k) (s.get SEQ.SQ_CTL.EASY d k)

/-- What the parts of an image replace, in order (R359): lane sequencers, servo sequencers, Oar firmware, Rigger firmware, the
real-time cores, the application cores, AC0 last (R561; real-time cores and other parts: log 53). -/
def activationOrder (img : List Nat) : List (Nat × Nat) :=
  let has := fun (kind : Nat) => (imageParts img).any fun p => p.kind = kind
  let places : List (Nat × List Nat) :=
    [(2, [0, 1, 2, 3, 4, 5, 6, 7]), (3, [8, 9, 10, 11]), (4, [57, 77]), (5, [89]), (6, [0]),
      (1, [coreDomain 4, coreDomain 5]), (0, [coreDomain 1, coreDomain 2, coreDomain 3, coreDomain 0])]
  places.flatMap fun e => if has e.1 then e.2.map fun x => (e.1, x) else []

/-- Replace the firmware of one sequencer or domain, in HOLD, OFF or FAULT (R260, R359, R561, R562). A sequencer in FAULT takes
no words and keeps what it has; one that was eased for this starts again at SQ_ENTRY (log 53). -/
def replaceAt (img : List Nat) (p : Part) (a : Activation) (s : State) (x : Nat) : State :=
  if p.kind = 2 || p.kind = 3 then
    let s := if storeOpen s x then replaceStore img p s x else s
    if !a.easing then s
    else
      let s := s.put SEQ.SQ_CTL.EASY 0 (unitSeq x) (unitIdx x)
      if unitState s x = stHold then startUnit s x else s
  else if p.kind = 4 then replaceImage p s x
  else if p.kind = 5 then
    let s := replaceImage p s x
    let s := ((s.put PWR.RFW_VER.MAJOR p.major).put PWR.RFW_VER.MINOR p.minor).put PWR.RFW_VER.BUILD p.build
    s.put PWR.RFW_SVN.SVN p.svn
  else if p.kind = 0 || p.kind = 1 then replaceCore s x
  else s

/-- The state of a sequencer or a domain that is to be replaced, OFF for one that is not there to be eased. -/
def placeState (s : State) (kind x : Nat) : Nat :=
  if kind = 2 || kind = 3 then (if domainLive s (unitDomain x) then unitState s x else stOff)
  else if kind = 6 || 7 ≤ kind then stOff
  else if domainLive s x then domainState s x else stOff

/-- A sequencer or a domain whose domain has power and its link (R29, R359): others keep what they have. -/
def placeLive (s : State) (kind x : Nat) : Bool :=
  if kind = 2 || kind = 3 then domainLive s (unitDomain x) else kind = 6 || domainLive s x

/-- Change the activation in progress. -/
def activationMap (s : State) (f : Activation → Activation) : State :=
  { s with nvme := { s.nvme with activation := s.nvme.activation.map f } }

/-- One step of the activation in progress (R247, R359): each sequencer and domain in turn is asked to ease, and replaced once it
holds. Before the application cores Firmware Activation Starting is sent and command processing pauses; at the end the Commit
completes. A part is measured as its last place is replaced (R537). -/
def activationStep (s : State) : State :=
  match s.nvme.activation with
  | none => s
  | some a =>
    match a.todo with
    | [] =>
      let s : State := { s with nvme := { s.nvme with activation := none, activeSlot := a.image } }
      if (s.slot a.slot).gen = a.gen then endCmd s a.slot .success else s
    | (kind, x) :: rest =>
      let img := slotImage s a.image
      if kind = 0 && !a.pausing then asyncBoth (activationMap s fun a => { a with pausing := true }) .firmwareActivation
      else if placeState s kind x = stRun && !a.easing then
        activationMap (if kind = 2 || kind = 3 then easeUnit s x else easeDomain s x) fun a => { a with easing := true }
      else if placeState s kind x = stEasing || placeState s kind x = stRun then s
      else
        let next := activationMap s fun a => { a with todo := rest, easing := false }
        match (imageParts img).find? fun p => p.kind = kind with
        | none => next
        | some p =>
          let s := if placeLive s kind x then replaceAt img p a next x else next
          if rest.any fun e => e.1 = kind then s else measurePart s p

/-- FW_COMMIT_ACTIVATE_NOW (R358, R359, R565): the image is stored if pieces of one wait. A second one waits until the first has
ended. -/
def execFwCommitActivateNow (slot : Fin 4096) (fs : BitVec 3) (s : State) : Result :=
  .next (onCommit s slot.val false fun s =>
    let k := slot.val
    let starts := fun (t : Nat) (s : State) =>
      let new : Activation := ⟨k, (s.slot k).gen, t, activationOrder (slotImage s t), false, false⟩
      activationStep (startSlot { s with nvme := { s.nvme with activation := some new } } k)
    let go := fun (t : Nat) (s : State) =>
      withStored s k t fun s => if safeStart s then activateNext s k t else starts t s
    if s.nvme.activation.isSome then s
    else if s.nvme.pieces.isEmpty then go fs.toNat s
    else
      let t := commitSlot s fs.toNat
      storeThen s k t (go t))

/-! Controllers (R318, R320, R334). -/

/-- CONTROLLER_DISABLE (R318, R320): after a fault the device resets HQ's domain, and HQ runs again where it was
enabled (log 53). -/
def execControllerDisable (ctrl : Fin 2) (s : State) : Result :=
  .next (
    let n := ctrl.val
    let d := (hqPage n).domain
    if !domainLive s d || s.get HQ.HQ_STAT.CC_EN n = 0 then s
    else
      let failed := s.get HQ.HQ_STAT.CFS n = 1
      let s := controllerDisable s n
      if !failed then s
      else
        let on := pageEnabled s (hqPage n)
        let s := (resetDomain (s.bump DOM.DOM_CNT.RESETS) d).put HQ.HQ_STAT.CFS 0 n
        if on then setPageState (s.put HDR.PAGE_CTL.ENABLE 1 (hqPage n).index) (hqPage n) stRun else s)

/-- FUNCTION_LEVEL_RESET (R318, R334): the function's bit of FUNC_STAT on its port, the event, the controller disable. -/
def execFunctionLevelReset (ctrl : Fin 2) (s : State) : Result :=
  .next (
    let n := ctrl.val
    let p := portOf s n
    if !portLive s p then s
    else
      let f := if s.straps.port then n else 0
      let s := s.put PCX.FUNC_STAT.FLR (setBit (s.get PCX.FUNC_STAT.FLR p) f true) p
      resetFunction (raise s (pcxPage p) 5 7) n)

end Sys2Proof.Machine
end

