-- ==== Sys2Proof/Machine/RegisterAccess.lean ====
section
/-! DEFINITION. The control space as a whole: what a read of any register returns and clears, what a write of any
register does, shadows of wide quantities, sequencer accesses, and the diagnostic BAR (rules R7-R13, R16, R53, R241,
R243, R328). -/

namespace Sys2Proof.Machine

open Sys2Proof

/-! Registers that are computed as they are read. -/

/-- A stored word with one computed field in it. -/
def withField (s : State) (p : Page) (off : Nat) (F : Fld) (v : Nat) : Nat :=
  fieldsWord s p off + v % 2 ^ F.wid * 2 ^ F.lsb

/-- SLOT_DATA.STATE codes (R306). -/
def slotCode : SlotSt → Nat
  | .free => 0 | .fetched => 1 | .started => 2 | .aborting => 3 | .posting => 4

/-- HQ registers that are computed (R306, R331). -/
def hqRead (s : State) (n off : Nat) : Option Nat :=
  let p := hqPage n
  let c := s.ctl n
  if off = 0x044 then some (withField s p off HQ.HQ_STAT.SLOTS (slotsHeld s n))
  else if off = 0x054 then
    some ((c.cqs.filter fun e => e.2.isSome).length % 2048 * 2 ^ 16 + (c.sqs.filter fun e => e.2.isSome).length % 2048)
  else if off = 0x05C then some c.aborts.length
  else if off = 0x064 then
    let x := s.slot (s.get HQ.SLOT_WIN.SLOT n)
    some (slotCode x.st * 2 ^ 29 + (if x.media then 2 ^ 28 else 0) + x.ctrl % 2 * 2 ^ 27 + x.sqid % 2048 * 2 ^ 16 +
      x.cid % 2 ^ 16)
  else none

/-- LDP_STAT as computed (R159). -/
def ldpStat (s : State) (d : Nat) : Nat :=
  let l := s.ldp d
  let busy := ((List.range 6).filter fun k => (sget none l.cores k).isSome).foldl (fun m k => m + 2 ^ k) 0
  s.get LDP.LDP_STAT.CORE_FAULT d * 2 ^ 24 + busy * 2 ^ 16 + min 63 (l.replays.length + l.ready.length) * 2 ^ 8 + l.online.length % 16

/-- The value of a block register that State keeps elsewhere than in its fields; none for one it keeps there. -/
def computed (s : State) (p : Page) (off : Nat) : Option Nat :=
  let i := p.inst
  match p.blk with
  | .dom => domRead s off
  | .brz => if off = 0x058 then some (strokeAt s 0 % 2 ^ 32) else if off = 0x05C then some (strokeAt s 0 / 2 ^ 32 % 2 ^ 16) else none
  | .sec => secRead s off
  | .evr => if off = 0x084 then some (recData s) else none
  | .tmp => if off = 0x05C then some (sensData s) else if off = 0x060 then some (sensOfs s) else none
  | .cal => if 0x058 ≤ off && off ≤ 0x060 then some (calRead s off) else none
  | .l2c => if off = 0x044 then some (withField s p off L2C.L2_STAT.DIRTY (l2Dirty s)) else none
  | .wrk =>
    let x := s.ring (s.get WRK.RING_WIN.RING)
    if off = 0x044 then some x.base
    else if off = 0x048 then some (ringCfgWord x)
    else if off = 0x04C then some (ringStatWord x)
    else if off = 0x054 then some x.cpl
    else none
  | .mbx =>
    if off = 0x04C then some (sget 0 s.mbx.routes (min 287 (s.get MBX.ROUTE_WIN.EVENT)))
    else if 0x050 ≤ off && off ≤ 0x064 then some (claimWord s ((off - 0x050) / 4))
    else if 0x100 ≤ off && off < 0x340 && off % 0x20 = 8 then some (qStat s ((off - 0x100) / 0x20))
    else none
  | .pcx => pcxRead s i off
  | .hq => hqRead s i off
  | .sch => schRead s off
  | .buf => bufRead s off
  | .dmc => if off = 0x04C then some (usableMib s) else none
  | .fmt =>
    if off = 0x044 then some (withField s p off FMT.FMT_STAT.FORMAT_OK (if formatOk s then 1 else 0))
    else if 0x200 ≤ off && off ≤ 0x2BC then some (rbGeomWord s ((off - 0x200) / 4))
    else if 0x300 ≤ off && off ≤ 0x3BC then some (firstTrack s ((off - 0x300) / 4) % 2 ^ 22)
    else none
  | .wev => if off = 0x060 then some (codeData s) else none
  | .seq =>
    if 0x200 ≤ off && off < 0x240 && off % 0x10 = 8 then some (lqBusy s (4 * i + (off - 0x200) / 0x10)) else none
  | .ldp => if off = 0x044 then some (ldpStat s i) else none
  | .lane =>
    if off = 0x098 then some (withField s p off LANE.SBUF_STAT.PIN_CNT (pinCount (s.lane i)))
    else if 0x0A0 ≤ off && off ≤ 0x0A8 then some (pinMap (s.lane i) ((off - 0x0A0) / 4))
    else none
  | .ast => if off = 0x044 then some (astStat s i) else none
  | .rgt =>
    if off = 0x044 then some (fieldsWord s p off % 2 ^ 29 + rgtRoleRead s * 2 ^ 29)
    else if off = 0x064 then some (routeRead s)
    else none
  | .nvs =>
    if off = 0x0AC then some (unitInfo s)
    else if off = 0x0BC then some (wearStat s)
    else if 0x0D0 ≤ off && off ≤ 0x0DC then some (bits s.fuses.serial (32 * ((off - 0x0D0) / 4)) 32)
    else if off = 0x0E0 then some (s.fuses.device % 2 ^ 16 * 2 ^ 16 + s.fuses.vendor % 2 ^ 16)
    else none
  | _ => none

/-- A header register as `q` reads it (R16). -/
def headerWord (s : State) (q : Req) (p : Page) (off : Nat) : Nat :=
  if off = 0x000 then p.id
  else if off = 0x004 then p.cap
  else if off = 0x00C then (s.dom p.domain).epoch * 2 ^ 8 + pageState s p
  else if off = 0x018 then s.get HDR.EV_RAW.RAW p.index &&& s.get HDR.EV_EN.EN p.index
  else if off = 0x020 then q.cls.val * 16 + (if (if q.cls.val = 3 then seqMay q p else mayWrite s q p) then 1 else 0)
  else fieldsWord s p off

/-- The value of a register whose read has no effect of its own (R10, R11). -/
def regWord (s : State) (q : Req) (p : Page) (off : Nat) : Nat :=
  if off < 0x40 then headerWord s q p off else (computed s p off).getD (fieldsWord s p off)

/-! Wide quantities (R9; log 54). -/

/-- A wide quantity: the block, the offset of its least significant word, its words. -/
def wideAt : List (Blk × Nat × Nat) :=
  [(.brz, 0x058, 2), (.fmt, 0x080, 2), (.lane, 0x090, 2), (.evr, 0x048, 2), (.nvs, 0x078, 8), (.nvs, 0x0D0, 4)] ++
  [(.ldp, 0x080, 4), (.ldp, 0x090, 4), (.seq, 0x060, 8), (.seq, 0x080, 8), (.dom, 0x080, 8), (.sec, 0x0A0, 8)] ++
  [(.tcm, 0x05C, 2)]

/-- How many more words a read of this register latches. -/
def wideTail (p : Page) (off : Nat) : Nat :=
  match wideAt.find? fun e => e.1 = p.blk && e.2.1 = off with
  | some e => e.2.2 - 1
  | none => 0

/-- An upper word of a wide quantity. -/
def wideUpper (p : Page) (off : Nat) : Bool :=
  wideAt.any fun e => e.1 = p.blk && decide (e.2.1 < off) && decide (off < e.2.1 + 4 * e.2.2)

/-! Reads. -/

/-- A read of an endpoint's register by another requester, for which it does not act (R463). -/
def foreignEndpoint (q : Req) (p : Page) (off : Nat) : Bool :=
  p.blk = .mbx && decide (0x100 ≤ off) && !ownEndpoint q ((off - 0x100) / 0x20)

/-- Clear the RC fields of a register that was read, but not for the debug port (R11, R12). -/
def clearRead (s : State) (q : Req) (p : Page) (off : Nat) : State :=
  if q.cls.val = 7 || foreignEndpoint q p off then s
  else (pageFields p off).foldl (fun s e => if e.1.acc = .rc then s.put e.1 0 e.2.1 e.2.2 else s) s

/-- A value measured at the moment of the read: free within its width (log 2). -/
def sampledRead (n : Nat) (s : State) : Nat × State := (s.free % 2 ^ n, s.drawn)

/-- STROKE_PHASE: 0 until Cox has seen a stroke token (R42, R48). -/
def phaseRead (s : State) : Nat × State := if (s.timer 0).stroke.isSome then sampledRead 12 s else (0, s)

/-- A head's driver holds 0 V (R232): the head is inactive, HV_OK is 0, or the driver is off. -/
def holdsZero (s : State) (h : Nat) : Bool := !mactOn s h || !(s.srv (h / 8)).active.contains (h % 8)

/-- MAC_OUT (R232, R237): the head's applied command and its measured output, which is 0 V where the driver holds it
there. -/
def macOutRead (s : State) : Nat × State :=
  let h := s.get MAC.MAC_WIN.HEAD
  let r := if holdsZero s h then (0, s) else sampledRead 12 s
  (r.1 * 2 ^ 16 + unsigned 12 (sget 0 s.mac.cmd h), r.2)

/-- Registers whose read acts, or gives what only a measurement gives. -/
def actingRead (q : Req) (p : Page) (off : Nat) : Option (State → Nat × State) :=
  let i := p.inst
  match p.blk with
  | .brz => if off = 0x060 then some phaseRead else none
  | .sec => if off = 0x084 then some measRead else none
  | .lane => if off = 0x0B0 then some (sbufDataRead i) else none
  | .ldp => if off = 0x064 then some (ldpCoefRead i) else none
  | .srv => if off = 0x090 then some (srvCoefRead i) else if off = 0x0BC then some (capRead i) else none
  | .ast => if off = 0x06C then some (headDataRead i) else none
  | .seq => if off = 0x054 then some (csDataRead i) else none
  | .vcm => if off = 0x054 || off = 0x058 then some (sampledRead 16) else none
  | .mac => if off = 0x070 then some macOutRead else none
  | .nvs => if off = 0x078 then some (wordRead q 0) else none
  | .mbx =>
    if 0x100 ≤ off && off < 0x340 && off % 0x20 = 4 then
      some fun s => if ownEndpoint q ((off - 0x100) / 0x20) then inPop s ((off - 0x100) / 0x20) else (0, s)
    else none
  | _ => none

/-- A read of a register that its page serves (R9, R11, R12). -/
def regRead (q : Req) (p : Page) (off : Nat) (s : State) : Nat × State :=
  match actingRead q p off with
  | some f => f s
  | none =>
    match (if wideUpper p off then sget none s.shadow (shadowKey q (p.base + off)) else none) with
    | some v => (v, s)
    | none =>
      let v := regWord s q p off
      let ws := (List.range (wideTail p off)).map fun k => regWord s q p (off + 4 * (k + 1))
      (v, clearRead (latchWords s q (p.base + off + 4) ws) q p off)

/-- What the die's always-on domain answers for a page whose own domain is off (R53). -/
def offWord (s : State) (p : Page) (off : Nat) : Nat :=
  if off = 0x000 then p.id else if off = 0x004 then p.cap
  else if off = 0x00C then (s.dom p.domain).epoch * 2 ^ 8 else 0

/-- A read of `size` bytes at a control-space offset (R7, R8, R28, R29, R53, R476). -/
def readAccess (q : Req) (addr size : Nat) (s : State) : State :=
  if size ≠ 4 || addr % 4 ≠ 0 then s.reply 0 [0]
  else match pageOf addr with
    | none => s.reply 0 [0]
    | some p =>
      let off := addr - p.base
      if !portOpen s q p off || (q.cls.val = 3 && !seqMay q p) then s.reply 0 [0]
      else if reach s q p = .dropped && !domainLive s p.domain && (q.cls.val = 3 || dieUp s p.die) then
        s.reply 0 [offWord s p off]
      else if p.blk = .nvs && off = 0x078 && reach s q p = .reached && arrayBusy s && arrayOpen s q then
        (s.reply 0 []).wait ⟨.keel, q, addr, none⟩
      else guardedRead s q p off (regRead q p off)

/-! Writes. -/

/-- A write of a block's register (R11). -/
def blockWrite (q : Req) (p : Page) (off : Nat) (w : Word) (s : State) : State :=
  let i := p.inst
  match p.blk with
  | .hdr => s
  | .dom => domWrite q off w s
  | .clk => clkWrite q off w s
  | .brz => brzWrite q off w s
  | .sec => secWrite q off w s
  | .evr => evrWrite q off w s
  | .tmp => tmpWrite q off w s
  | .cal => calWrite q off w s
  | .l2c => l2cWrite q off w s
  | .tcm => tcmRegWrite q off w s
  | .wrk => wrkWrite q off w s
  | .mbx => mbxWrite q off w s
  | .pcx => pcxWrite q i off w s
  | .hq => plainWrite s q p off w
  | .sch => schWrite q off w s
  | .buf => bufWrite q off w s
  | .dmc => dmcWrite q off w s
  | .fmt => fmtWrite q off w s
  | .wev => wevWrite q off w s
  | .seq => if off = 0x040 then oosWrite q i w s else seqWrite q i off w s
  | .ldp => ldpWrite q i off w s
  | .lane => laneWrite q i off w s
  | .srv => srvWrite q i off w s
  | .ast => astWrite q i off w s
  | .pwr => pwrWrite q off w s
  | .spn => spnWrite q off w s
  | .rgt => rgtWrite q off w s
  | .mac => macWrite q off w s
  | .vcm => vcmWrite q i off w s
  | .nvs => nvsWrite q off w s

/-- A write of any register of a page (R11, R16). -/
def regWrite (q : Req) (p : Page) (off : Nat) (w : Word) (s : State) : State :=
  if off < 0x40 then headerWrite p off w s else blockWrite q p off w s

/-- A write of `size` bytes at a control-space offset (R7, R8, R13, R28, R29, R53, R546). -/
def writeAccess (q : Req) (addr size : Nat) (w : Word) (s : State) : State :=
  if size ≠ 4 || addr % 4 ≠ 0 then s.reply 0 []
  else match pageOf addr with
    | none => s.reply 0 []
    | some p => guarded s q p (addr - p.base) w (regWrite q p (addr - p.base) w)

/-- A read or a write. -/
def anyAccess (q : Req) (addr size : Nat) (w : Option Word) (s : State) : State :=
  match w with
  | some w => writeAccess q addr size w s
  | none => readAccess q addr size s

/-- A read at an address of the requester (R50). A core's access outside the control space is no register's: it takes a
data abort here, status 1 (R433; the core's other targets have commands of their own). -/
def addressRead (q : Req) (a size : Nat) (s : State) : State :=
  match controlOffset q a with
  | some off => readAccess q off size s
  | none => s.reply 1 []

/-- A write at an address of the requester (R50, R433). -/
def addressWrite (q : Req) (a size : Nat) (w : Word) (s : State) : State :=
  match controlOffset q a with
  | some off => writeAccess q off size w s
  | none => s.reply 1 []

/-- REGISTER_WRITE (R7, R8, R11, R50). -/
def execRegisterWrite (q : Req) (addr : BitVec 32) (size : Nat) (w : BitVec 32) (s : State) : Result :=
  .next (addressWrite q addr.toNat size w s)

/-- REGISTER_READ_CLEAR (R7, R8, R11, R12, R50). -/
def execRegisterReadClear (q : Req) (addr : BitVec 32) (size : Nat) (s : State) : Result :=
  .next (addressRead q addr.toNat size s)

/-- WIDE_READ_LATCH (R9, R50). -/
def execWideReadLatch (q : Req) (addr : BitVec 32) (s : State) : Result := .next (addressRead q addr.toNat 4 s)

/-! Accesses that waited. -/

/-- Serve every access that waited for this (R28, R492). One that has to wait again joins the end. -/
def serveWaits (why : WaitWhy) (s : State) : State :=
  State.serveEach (s.waiting.filter fun x => x.why = why) (fun s x => anyAccess x.req x.addr 4 x.value s)
    { s with waiting := s.waiting.filter fun x => x.why ≠ why }

/-! Sequencers (R241, R243). -/

/-- A REG word: an access to a page R241 does not allow faults with PAGE before it leaves the sequencer. -/
def regWordOf (u e : Nat) (write : Bool) (s : State) : State :=
  runWord s u e 0x14 fun w s =>
    let addr := wImm w % 2 ^ 32
    let q : Req := ⟨3, Fin.ofNat 16 u⟩
    match pageOf addr with
    | none => seqFault s u .page
    | some p =>
      if !seqMay q p then seqFault s u .page
      else if write then writeAccess q addr 4 (BitVec.ofNat 32 ((s.sqr u).srcB w)) s
      else
        let s := readAccess q addr 4 s
        s.setSqr u ((s.sqr u).setReg (wDst w) (s.answer.data.headD 0))

/-- SEQ_REG_READ (R241, R243). -/
def execSeqRegRead (u : Fin 12) (e : BitVec 137) (s : State) : Result := .next (regWordOf u.val e.toNat false s)

/-- SEQ_REG_WRITE (R241, R243): SRCB is written (log 25). -/
def execSeqRegWrite (u : Fin 12) (e : BitVec 137) (s : State) : Result := .next (regWordOf u.val e.toNat true s)

/-! The diagnostic BAR (R328). -/

/-- The requester of an access through BAR2. -/
def diagReq : Req := ⟨5, 0⟩

/-- A write through BAR2 that the grant table refuses counts in DIAG_CNT and raises EV006 (R328, R334). -/
def diagRefused (addr : Nat) (w : Option Word) (s : State) : State :=
  match w, pageOf addr with
  | some _, some p =>
    if writeGate s diagReq p (addr - p.base) = .denied then raise (s.bump PCX.DIAG_CNT.REFUSED) (pcxPage 0) 6 7 else s
  | _, _ => s

/-- DIAG_BAR_ACCESS (R7, R8, R12, R52, R328): while BAR2 is not implemented the answer is Unsupported Request, status 1. -/
def execDiagBarAccess (addr : BitVec 26) (size : Nat) (w : Option (BitVec 32)) (s : State) : Result :=
  .next (
    if !diagActive s || !domainLive s (pcxPage 0).domain then s.reply 1 []
    else
      let s := if size = 4 && addr.toNat % 4 = 0 then diagRefused addr.toNat w s else s
      anyAccess diagReq addr.toNat size w s)

end Sys2Proof.Machine
end

