-- ==== Sys2Proof/Machine/Service.lean ====
section
/-! DEFINITION. Link trainings that end, event notices and records as Cox serves them, and faults fatal to a block
(rules R18, R28, R31-R33, R54, R55, R462, R490-R493, R615). -/

namespace Sys2Proof.Machine

open Sys2Proof

/-- A work request that waited for its link reaches its die (R28). -/
def serveAsk (s : State) (x : Ask) : State :=
  match x with
  | .word e w => if domainLive s mbxPage.domain then outPush s e w else s
  | .wake d => wakeDomain s d
  | .trim h step low =>
    let was := s.answer
    { calTrim s (h / 8) (h % 8) step low with answer := was }
  | .vcox mv => s.put PWR.VCOX.MV mv
  | .dom q op d => domRuns q op d (s.put DOM.DOM_CMD.BUSY 0)

/-- The work requests that waited for link `n` go on, oldest first (R28). -/
def serveAsks (s : State) (n : Nat) : State :=
  (s.asks.filter fun x => askLink x = n).foldl serveAsk { s with asks := s.asks.filter fun x => askLink x ≠ n }

/-- CAL's commit for an Oar whose link is up again, and Keel's operations for EVR (R28, R478, R520). -/
def workGoesOn (s : State) (n : Nat) : State :=
  if n = 3 then nvNext s else if n < 2 && running s calPage then commitOar s n else s

/-- The accesses that waited for link `n` go on once no earlier flit waits there (R27, R28). -/
def serveLink (n : Nat) (s : State) : State := if requestTurn s n && !linkTraining s n then serveWaits (.link n) s else s

/-- LINK_TRAINING_COMPLETE (R28): the link is up, and what waited for it goes on. -/
def execLinkTrainingComplete (link : Fin 4) (s : State) : Result :=
  .next (
    let n := link.val
    if !linkTraining s n then s
    else
      let s := workGoesOn (serveAsks (serveLink n (moveAllFlits (trained s n))) n) n
      schSettle s (s.nvme.cmds.map (·.zone)).eraseDups)

/-- CATCH_TOKEN_RECEIVE (R27, R39, R42): the oldest token on its way to the die arrives; Cox sends it on to both Oar
dies, and what waited behind it goes on. -/
def execCatchTokenReceive (die : Fin 3) (skew : Int) (s : State) : Result :=
  .next (
    let w := tokenWay die.val
    match (if dieTraining s (w.1 + 1) then none else tokenWaiting s w.1 w.2) with
    | none => s
    | some n =>
      let s := timerTakes (takeToken s w.1 w.2 n) die.val n skew
      let s := if die.val = 0 then sendToken (sendToken s 0 false n) 1 false n else s
      (List.range 3).foldl (fun s n => serveLink n s) (moveAllFlits s))

/-- A notice's page is on a die whose link carries it, and no flit of an earlier class waits there (R27, R55). -/
def noticeMoves (s : State) (x : Notice) : Bool :=
  match pageOf x.page with
  | some p => p.die = 0 || (!dieTraining s p.die && flitTurn s (p.die - 1) true .reply)
  | none => true

/-- The record of an event notice (R490): code 0x0001, the page's offset and its PAGE_STAT. -/
def noticeRecord (x : Notice) : Rec := ⟨0, x.level, x.event, 0x0001, leBytes 4 x.page ++ leBytes 4 x.stat⟩

/-- EVENT_NOTICE (R54, R55, R462, R491): the oldest notice whose link carries it reaches Cox. -/
def execEventNotice (s : State) : Result :=
  .next (
    match s.notices.find? (noticeMoves s) with
    | none => s
    | some x =>
      let s := eventWake { s with notices := s.notices.erase x } x.event
      if recMasked s x.event then report s (noticeRecord x) else s)

/-- Writes that waited for the recorder go on while it has room (R492). -/
def serveRecorder (s : State) : State := if recorderRoom s then serveWaits .recorder s else s

/-- EVR_RECORD_ACCEPT (R490-R492). -/
def execEvrRecordAccept (s : State) : Result := .next (serveRecorder (evrAccept s))

/-- EVR_COMMIT_WORD_DONE (R492, R493): Keel's reply to EVR, which waits while their link trains (R28). -/
def execEvrCommitWordDone (verified : Bool) (s : State) : Result :=
  .next (if dieTraining s 4 then s else serveRecorder (evrWordDone s verified))

/-- EVR_REGION_READ (R615). -/
def execEvrRegionRead (s : State) : Result := .next (serveRecorder (evrRegionRead s))

/-- A fault that a block's chapter names as fatal to it, as the block takes it; a block whose chapter names none has
none (R18, R32; log 54). The kinds that have a command of their own carry more of what was found. -/
def fatalFault (s : State) (p : Page) : State :=
  match p.blk with
  | .hq => hqFault s p.inst
  | .l2c => l2Fault s 0 []
  | .ldp => pageFault s p 7 3
  | .srv => srvFault s p.inst
  | .wev => pageFault ({ s with wev := { s.wev with disabling := false } } : State) p 5 3
  | .vcm => retractEnded (pageFault (setVcmState (s.setVcm p.inst { s.vcm p.inst with next := none, nextMact := [] }) p.inst 4) p 0 3)
  | .spn => spnFaults s
  | _ => s

/-- BLOCK_FAULT (R18, R32): FAULT is left only through a reset of the page's domain. -/
def execBlockFault (page : BitVec 14) (s : State) : Result :=
  .next (
    match pageAt page.toNat with
    | some p => if domainLive s p.domain && pageState s p ≠ stFault then fatalFault s p else s
    | none => s)

/-! What happens while no command waits (log 55). -/

/-- A self-test in progress goes on (R356). -/
def idleTest (s : State) : State := if s.nvme.selfTest.isSome then schSettle s [] else s

/-- A change of power state goes on (R355). -/
def idlePower (s : State) : State := if s.nvme.asleep then fillLanes (powerStep s) else s

/-- One idle step: a sanitize that runs comes to its end; an activation, a change of power state and a self-test go on. -/
def idleStep (s : State) : State := idleTest (idlePower (activationStep (sanitizeEnds s)))

end Sys2Proof.Machine
end

