-- ==== Sys2Proof/Machine/Dispatch.lean ====
section
/-! DEFINITION. Each command runs its meaning: one arm per constructor. -/

namespace Sys2Proof.Machine

open Sys2Proof

/-- The meaning of a command: its effect on everything but the queue. -/
def exec (i : Instr) (s : State) : Host.Outcome State Fault Refusal :=
  match i with
  | .registerWrite q addr size w => Sys2Proof.Machine.execRegisterWrite q addr size w s
  | .registerReadClear q addr size => Sys2Proof.Machine.execRegisterReadClear q addr size s
  | .wideReadLatch q addr => Sys2Proof.Machine.execWideReadLatch q addr s
  | .enableSet q slot w => Sys2Proof.Machine.execEnableSet q slot w s
  | .enableClear q slot w => Sys2Proof.Machine.execEnableClear q slot w s
  | .disableComplete page => Sys2Proof.Machine.execDisableComplete page s
  | .easySet q slot w => Sys2Proof.Machine.execEasySet q slot w s
  | .easyClear q slot w => Sys2Proof.Machine.execEasyClear q slot w s
  | .holdRel q slot w => Sys2Proof.Machine.execHoldRel q slot w s
  | .holdReached dom => Sys2Proof.Machine.execHoldReached dom s
  | .evClr q slot w same => Sys2Proof.Machine.execEvClr q slot w same s
  | .eventNotice => Sys2Proof.Machine.execEventNotice s
  | .blockFault page => Sys2Proof.Machine.execBlockFault page s
  | .pfailAssert => Sys2Proof.Machine.execPfailAssert s
  | .pfailDeassert ms => Sys2Proof.Machine.execPfailDeassert ms s
  | .winhAssert => Sys2Proof.Machine.execWinhAssert s
  | .winhRelease => Sys2Proof.Machine.execWinhRelease s
  | .drstAssert die => Sys2Proof.Machine.execDrstAssert die s
  | .flitReceive link toCox good cls dom epoch => Sys2Proof.Machine.execFlitReceive link toCox good cls dom epoch s
  | .linkTrainingComplete link => Sys2Proof.Machine.execLinkTrainingComplete link s
  | .linkTrainingFail link => Sys2Proof.Machine.execLinkTrainingFail link s
  | .linkEnable q w => Sys2Proof.Machine.execLinkEnable q w s
  | .linkDisable q w => Sys2Proof.Machine.execLinkDisable q w s
  | .strokeCatch => Sys2Proof.Machine.execStrokeCatch s
  | .catchTokenSend => Sys2Proof.Machine.execCatchTokenSend s
  | .catchTokenReceive die skew => Sys2Proof.Machine.execCatchTokenReceive die skew s
  | .localCatch die => Sys2Proof.Machine.execLocalCatch die s
  | .actionLaunch kind inst tag head band low phase => Sys2Proof.Machine.execActionLaunch kind inst tag head band low phase s
  | .actionOverrun kind inst => Sys2Proof.Machine.execActionOverrun kind inst s
  | .supplyCurrentMeasure ma hup in12 => Sys2Proof.Machine.execSupplyCurrentMeasure ma hup in12 s
  | .fmtTranslate zone off => Sys2Proof.Machine.execFmtTranslate zone off s
  | .skipListAppend head band slot => Sys2Proof.Machine.execSkipListAppend head band slot s
  | .mwpUpdate zone mwp => Sys2Proof.Machine.execMwpUpdate zone mwp s
  | .entryLockAcquire q w => Sys2Proof.Machine.execEntryLockAcquire q w s
  | .entryLockRelease q w => Sys2Proof.Machine.execEntryLockRelease q w s
  | .mapScanStart q w => Sys2Proof.Machine.execMapScanStart q w s
  | .mapScanComplete racing => Sys2Proof.Machine.execMapScanComplete racing s
  | .xlatTest q w => Sys2Proof.Machine.execXlatTest q w s
  | .readGateOpen lane => Sys2Proof.Machine.execReadGateOpen lane s
  | .frameRead lane f => Sys2Proof.Machine.execFrameRead lane f s
  | .sbufPin q lane w => Sys2Proof.Machine.execSbufPin q lane w s
  | .sbufUnpin q lane w => Sys2Proof.Machine.execSbufUnpin q lane w s
  | .sbufUnpinAll q lane w => Sys2Proof.Machine.execSbufUnpinAll q lane w s
  | .sbufDataRead q lane => Sys2Proof.Machine.execSbufDataRead q lane s
  | .detectionComplete ldp lane aged => Sys2Proof.Machine.execDetectionComplete ldp lane aged s
  | .decodeComplete ldp core aged => Sys2Proof.Machine.execDecodeComplete ldp core aged s
  | .replayPassComplete ldp det aged => Sys2Proof.Machine.execReplayPassComplete ldp det aged s
  | .sectorAbortEnd ldp aged => Sys2Proof.Machine.execSectorAbortEnd ldp aged s
  | .coreParityFault ldp core aged => Sys2Proof.Machine.execCoreParityFault ldp core aged s
  | .ldpCoefDataAccess q ldp w => Sys2Proof.Machine.execLdpCoefDataAccess q ldp w s
  | .ldpCoefCommit q ldp w => Sys2Proof.Machine.execLdpCoefCommit q ldp w s
  | .fwReplayStart q ldp w => Sys2Proof.Machine.execFwReplayStart q ldp w s
  | .fwReplayComplete ldp => Sys2Proof.Machine.execFwReplayComplete ldp s
  | .writeGateOpen lane rwo => Sys2Proof.Machine.execWriteGateOpen lane rwo s
  | .writeWedgeCross lane => Sys2Proof.Machine.execWriteWedgeCross lane s
  | .assistArm ast => Sys2Proof.Machine.execAssistArm ast s
  | .pbusFrameSend ast rd => Sys2Proof.Machine.execPbusFrameSend ast rd s
  | .pbusReadback ast codes => Sys2Proof.Machine.execPbusReadback ast codes s
  | .pbusCmdSend q ast w => Sys2Proof.Machine.execPbusCmdSend q ast w s
  | .assistIdleOff ast head => Sys2Proof.Machine.execAssistIdleOff ast head s
  | .trimStepRequest q ast w cal => Sys2Proof.Machine.execTrimStepRequest q ast w cal s
  | .preampFaultAssert ast => Sys2Proof.Machine.execPreampFaultAssert ast s
  | .preampStatusRead ast status => Sys2Proof.Machine.execPreampStatusRead ast status s
  | .preampFaultDeassert ast => Sys2Proof.Machine.execPreampFaultDeassert ast s
  | .verifyResult lane => Sys2Proof.Machine.execVerifyResult lane s
  | .pesInhibitCheck ast head => Sys2Proof.Machine.execPesInhibitCheck ast head s
  | .forceInhibitSet q ast w => Sys2Proof.Machine.execForceInhibitSet q ast w s
  | .forceInhibitClear q ast w => Sys2Proof.Machine.execForceInhibitClear q ast w s
  | .astHeadDataAccess q ast w => Sys2Proof.Machine.execAstHeadDataAccess q ast w s
  | .servoSample srv wedges => Sys2Proof.Machine.execServoSample srv wedges s
  | .controlOverrun srv => Sys2Proof.Machine.execControlOverrun srv s
  | .vcmCommandApply vcm => Sys2Proof.Machine.execVcmCommandApply vcm s
  | .srvCoefDataAccess q srv w => Sys2Proof.Machine.execSrvCoefDataAccess q srv w s
  | .srvCoefCommit q srv w => Sys2Proof.Machine.execSrvCoefCommit q srv w s
  | .notchEstimate srv notch code => Sys2Proof.Machine.execNotchEstimate srv notch code s
  | .notchWrite srv => Sys2Proof.Machine.execNotchWrite srv s
  | .regattaIntentApply srv => Sys2Proof.Machine.execRegattaIntentApply srv s
  | .seekLaunch q srv w => Sys2Proof.Machine.execSeekLaunch q srv w s
  | .seekCommit srv => Sys2Proof.Machine.execSeekCommit srv s
  | .autoClear q srv w => Sys2Proof.Machine.execAutoClear q srv w s
  | .autoSet q srv w => Sys2Proof.Machine.execAutoSet q srv w s
  | .injectionStart q srv w => Sys2Proof.Machine.execInjectionStart q srv w s
  | .injectionStop q srv w => Sys2Proof.Machine.execInjectionStop q srv w s
  | .injectionEnd srv => Sys2Proof.Machine.execInjectionEnd srv s
  | .captureStart q srv w => Sys2Proof.Machine.execCaptureStart q srv w s
  | .captureStop q srv w => Sys2Proof.Machine.execCaptureStop q srv w s
  | .capDataRead q srv => Sys2Proof.Machine.execCapDataRead q srv s
  | .srvParityFault srv shadow => Sys2Proof.Machine.execSrvParityFault srv shadow s
  | .headLoad vcm reversed => Sys2Proof.Machine.execHeadLoad vcm reversed s
  | .loadTimeout vcm => Sys2Proof.Machine.execLoadTimeout vcm s
  | .headUnload srv => Sys2Proof.Machine.execHeadUnload srv s
  | .vcmRetract q vcm w => Sys2Proof.Machine.execVcmRetract q vcm w s
  | .retractParked vcm => Sys2Proof.Machine.execRetractParked vcm s
  | .retractTimeout vcm => Sys2Proof.Machine.execRetractTimeout vcm s
  | .vcmDrvEnable q vcm w => Sys2Proof.Machine.execVcmDrvEnable q vcm w s
  | .vcmDrvDisable q vcm w => Sys2Proof.Machine.execVcmDrvDisable q vcm w s
  | .vcmFaultDetect vcm kind => Sys2Proof.Machine.execVcmFaultDetect vcm kind s
  | .macDriverFault head => Sys2Proof.Machine.execMacDriverFault head s
  | .shockSample lx ly rot => Sys2Proof.Machine.execShockSample lx ly rot s
  | .seqNop u e => Sys2Proof.Machine.execSeqNop u e s
  | .aluAdd u e => Sys2Proof.Machine.execAluAdd u e s
  | .aluSubtract u e => Sys2Proof.Machine.execAluSubtract u e s
  | .aluAnd u e => Sys2Proof.Machine.execAluAnd u e s
  | .aluOr u e => Sys2Proof.Machine.execAluOr u e s
  | .aluXor u e => Sys2Proof.Machine.execAluXor u e s
  | .aluShiftLeft u e => Sys2Proof.Machine.execAluShiftLeft u e s
  | .aluShiftRight u e => Sys2Proof.Machine.execAluShiftRight u e s
  | .aluArithShiftRight u e => Sys2Proof.Machine.execAluArithShiftRight u e s
  | .aluCompare u e => Sys2Proof.Machine.execAluCompare u e s
  | .memLoad u e => Sys2Proof.Machine.execMemLoad u e s
  | .memStore u e => Sys2Proof.Machine.execMemStore u e s
  | .seqRegRead u e => Sys2Proof.Machine.execSeqRegRead u e s
  | .seqRegWrite u e => Sys2Proof.Machine.execSeqRegWrite u e s
  | .launchReadGate u e => Sys2Proof.Machine.execLaunchReadGate u e s
  | .launchWriteGate u e => Sys2Proof.Machine.execLaunchWriteGate u e s
  | .launchAssistStep u e => Sys2Proof.Machine.execLaunchAssistStep u e s
  | .launchSeek u e => Sys2Proof.Machine.execLaunchSeek u e s
  | .launchLoad u e => Sys2Proof.Machine.execLaunchLoad u e s
  | .launchUnload u e => Sys2Proof.Machine.execLaunchUnload u e s
  | .seqWait u e => Sys2Proof.Machine.execSeqWait u e s
  | .waitTimeout u e => Sys2Proof.Machine.execWaitTimeout u e s
  | .tagTake u e => Sys2Proof.Machine.execTagTake u e s
  | .tagReadField u e => Sys2Proof.Machine.execTagReadField u e s
  | .tagWriteResult u e => Sys2Proof.Machine.execTagWriteResult u e s
  | .tagComplete u e => Sys2Proof.Machine.execTagComplete u e s
  | .msgSend u e => Sys2Proof.Machine.execMsgSend u e s
  | .msgReceive u e => Sys2Proof.Machine.execMsgReceive u e s
  | .seqSig u e => Sys2Proof.Machine.execSeqSig u e s
  | .seqWatchdog u => Sys2Proof.Machine.execSeqWatchdog u s
  | .seqBudgetOverrun u => Sys2Proof.Machine.execSeqBudgetOverrun u s
  | .lqPost q lane w => Sys2Proof.Machine.execLqPost q lane w s
  | .tagEntryFetch lane tag => Sys2Proof.Machine.execTagEntryFetch lane tag s
  | .lqAbort q lane w => Sys2Proof.Machine.execLqAbort q lane w s
  | .lqRelease q lane w => Sys2Proof.Machine.execLqRelease q lane w s
  | .actuatorOosSet q seq w => Sys2Proof.Machine.execActuatorOosSet q seq w s
  | .actuatorOosClear q seq w => Sys2Proof.Machine.execActuatorOosClear q seq w s
  | .seqLoadStart q seq w => Sys2Proof.Machine.execSeqLoadStart q seq w s
  | .seqLoadComplete seq => Sys2Proof.Machine.execSeqLoadComplete seq s
  | .csDataAccess q seq w => Sys2Proof.Machine.execCsDataAccess q seq w s
  | .digestStart q seq w => Sys2Proof.Machine.execDigestStart q seq w s
  | .digestComplete seq => Sys2Proof.Machine.execDigestComplete seq s
  | .sqEnableSet q u w => Sys2Proof.Machine.execSqEnableSet q u w s
  | .sqEnableClear q u w => Sys2Proof.Machine.execSqEnableClear q u w s
  | .sqEasySet q u w => Sys2Proof.Machine.execSqEasySet q u w s
  | .sqEasyClear q u w => Sys2Proof.Machine.execSqEasyClear q u w s
  | .sqHoldRel q u w => Sys2Proof.Machine.execSqHoldRel q u w s
  | .wevEncode => Sys2Proof.Machine.execWevEncode s
  | .wevAccum => Sys2Proof.Machine.execWevAccum s
  | .wevRecon => Sys2Proof.Machine.execWevRecon s
  | .wevVerify => Sys2Proof.Machine.execWevVerify s
  | .wevParityFault => Sys2Proof.Machine.execWevParityFault s
  | .eraseInjArm q w => Sys2Proof.Machine.execEraseInjArm q w s
  | .sqTailDoorbell ctrl queue value => Sys2Proof.Machine.execSqTailDoorbell ctrl queue value s
  | .cqHeadDoorbell ctrl queue value => Sys2Proof.Machine.execCqHeadDoorbell ctrl queue value s
  | .commandFetch entries => Sys2Proof.Machine.execCommandFetch entries s
  | .outStart ctrl => Sys2Proof.Machine.execOutStart ctrl s
  | .outComplete ctrl => Sys2Proof.Machine.execOutComplete ctrl s
  | .completionPost ctrl queue => Sys2Proof.Machine.execCompletionPost ctrl queue s
  | .cqFullTimeout ctrl queue => Sys2Proof.Machine.execCqFullTimeout ctrl queue s
  | .interruptCoalesceTimeout ctrl queue => Sys2Proof.Machine.execInterruptCoalesceTimeout ctrl queue s
  | .controllerEnable ctrl ams mps css asq acq irq mask vectors => Sys2Proof.Machine.execControllerEnable ctrl ams mps css asq acq irq mask vectors s
  | .controllerDisable ctrl => Sys2Proof.Machine.execControllerDisable ctrl s
  | .shutdownNotify ctrl => Sys2Proof.Machine.execShutdownNotify ctrl s
  | .functionLevelReset ctrl => Sys2Proof.Machine.execFunctionLevelReset ctrl s
  | .perstAssert port => Sys2Proof.Machine.execPerstAssert port s
  | .pcieLinkLoss port => Sys2Proof.Machine.execPcieLinkLoss port s
  | .pcieLinkUp port speed width => Sys2Proof.Machine.execPcieLinkUp port speed width s
  | .hqFault ctrl => Sys2Proof.Machine.execHqFault ctrl s
  | .diagBarAccess addr size w => Sys2Proof.Machine.execDiagBarAccess addr size w s
  | .miReadDataStructure item => Sys2Proof.Machine.execMiReadDataStructure item s
  | .miSubsystemHealthPoll => Sys2Proof.Machine.execMiSubsystemHealthPoll s
  | .miControllerHealthPoll ctrl => Sys2Proof.Machine.execMiControllerHealthPoll ctrl s
  | .miConfigurationGet item => Sys2Proof.Machine.execMiConfigurationGet item s
  | .miConfigurationSet item value => Sys2Proof.Machine.execMiConfigurationSet item value s
  | .miVpdRead offset len => Sys2Proof.Machine.execMiVpdRead offset len s
  | .miVpdWrite offset bytes => Sys2Proof.Machine.execMiVpdWrite offset bytes s
  | .miTunnelledAdmin cmd => Sys2Proof.Machine.execMiTunnelledAdmin cmd s
  | .createIoCq slot qid qsize pc ien iv prp1 => Sys2Proof.Machine.execCreateIoCq slot qid qsize pc ien iv prp1 s
  | .createIoSq slot qid qsize pc prio cqid prp1 => Sys2Proof.Machine.execCreateIoSq slot qid qsize pc prio cqid prp1 s
  | .deleteIoSq slot qid => Sys2Proof.Machine.execDeleteIoSq slot qid s
  | .deleteIoCq slot qid => Sys2Proof.Machine.execDeleteIoCq slot qid s
  | .getLogPage slot lid nsid offset numd rae => Sys2Proof.Machine.execGetLogPage slot lid nsid offset numd rae s
  | .identify slot cns nsid csi cntid => Sys2Proof.Machine.execIdentify slot cns nsid csi cntid s
  | .abort slot sqid cid entries => Sys2Proof.Machine.execAbort slot sqid cid entries s
  | .setFeatures slot fid nsid save dw11 data => Sys2Proof.Machine.execSetFeatures slot fid nsid save dw11 data s
  | .getFeatures slot fid nsid sel dw11 => Sys2Proof.Machine.execGetFeatures slot fid nsid sel dw11 s
  | .anaOwnerSet slot nsid ctrl => Sys2Proof.Machine.execAnaOwnerSet slot nsid ctrl s
  | .asyncEventRequest slot => Sys2Proof.Machine.execAsyncEventRequest slot s
  | .nsCreate slot csi nsze ncap flbas dps weave verified place => Sys2Proof.Machine.execNsCreate slot csi nsze ncap flbas dps weave verified place s
  | .nsDelete slot nsid => Sys2Proof.Machine.execNsDelete slot nsid s
  | .nsAttach slot nsid ctrls => Sys2Proof.Machine.execNsAttach slot nsid ctrls s
  | .nsDetach slot nsid ctrls => Sys2Proof.Machine.execNsDetach slot nsid ctrls s
  | .fwImageDownload slot offset bytes => Sys2Proof.Machine.execFwImageDownload slot offset bytes s
  | .fwCommitStore slot fs => Sys2Proof.Machine.execFwCommitStore slot fs s
  | .fwCommitStoreActivate slot fs => Sys2Proof.Machine.execFwCommitStoreActivate slot fs s
  | .fwCommitActivate slot fs => Sys2Proof.Machine.execFwCommitActivate slot fs s
  | .fwCommitActivateNow slot fs => Sys2Proof.Machine.execFwCommitActivateNow slot fs s
  | .selfTestShort slot nsid => Sys2Proof.Machine.execSelfTestShort slot nsid s
  | .selfTestExtended slot nsid => Sys2Proof.Machine.execSelfTestExtended slot nsid s
  | .selfTestAbort slot => Sys2Proof.Machine.execSelfTestAbort slot s
  | .formatNvm slot nsid lbaf prot first ext => Sys2Proof.Machine.execFormatNvm slot nsid lbaf prot first ext s
  | .formatNvmCryptoErase slot nsid lbaf prot first ext => Sys2Proof.Machine.execFormatNvmCryptoErase slot nsid lbaf prot first ext s
  | .securityProtocolList slot => Sys2Proof.Machine.execSecurityProtocolList slot s
  | .securityCertChain slot => Sys2Proof.Machine.execSecurityCertChain slot s
  | .securityAttestReport slot nonce => Sys2Proof.Machine.execSecurityAttestReport slot nonce s
  | .securityUnlockNonce slot => Sys2Proof.Machine.execSecurityUnlockNonce slot s
  | .sanitizeCryptoErase slot => Sys2Proof.Machine.execSanitizeCryptoErase slot s
  | .sanitizeOverwrite slot passes pattern invert => Sys2Proof.Machine.execSanitizeOverwrite slot passes pattern invert s
  | .nvmRead slot nsid slba nlb pi => Sys2Proof.Machine.execNvmRead slot nsid slba nlb pi s
  | .nvmWrite slot nsid slba nlb fua data md pi => Sys2Proof.Machine.execNvmWrite slot nsid slba nlb fua data md pi s
  | .writeZeroes slot nsid slba nlb fua pi => Sys2Proof.Machine.execWriteZeroes slot nsid slba nlb fua pi s
  | .nvmFlush slot nsid => Sys2Proof.Machine.execNvmFlush slot nsid s
  | .nvmVerify slot nsid slba nlb pi => Sys2Proof.Machine.execNvmVerify slot nsid slba nlb pi s
  | .reservationRegister slot nsid action iekey cptpl crkey nrkey => Sys2Proof.Machine.execReservationRegister slot nsid action iekey cptpl crkey nrkey s
  | .reservationReport slot nsid => Sys2Proof.Machine.execReservationReport slot nsid s
  | .reservationAcquire slot nsid action iekey rtype crkey prkey => Sys2Proof.Machine.execReservationAcquire slot nsid action iekey rtype crkey prkey s
  | .reservationRelease slot nsid action iekey rtype crkey => Sys2Proof.Machine.execReservationRelease slot nsid action iekey rtype crkey s
  | .zoneAppend slot nsid zslba nlb fua data md pi => Sys2Proof.Machine.execZoneAppend slot nsid zslba nlb fua data md pi s
  | .zoneOpen slot nsid slba all => Sys2Proof.Machine.execZoneOpen slot nsid slba all s
  | .zoneClose slot nsid slba all => Sys2Proof.Machine.execZoneClose slot nsid slba all s
  | .zoneFinish slot nsid slba all => Sys2Proof.Machine.execZoneFinish slot nsid slba all s
  | .zoneReset slot nsid slba all bands => Sys2Proof.Machine.execZoneReset slot nsid slba all bands s
  | .zoneOffline slot nsid slba all => Sys2Proof.Machine.execZoneOffline slot nsid slba all s
  | .zoneSetDescExt slot nsid slba => Sys2Proof.Machine.execZoneSetDescExt slot nsid slba s
  | .zoneReport slot nsid slba extended option partialReport entries => Sys2Proof.Machine.execZoneReport slot nsid slba extended option partialReport entries s
  | .tagCompletionReceive => Sys2Proof.Machine.execTagCompletionReceive s
  | .operationAged age => Sys2Proof.Machine.execOperationAged age s
  | .writeAdmitResume => Sys2Proof.Machine.execWriteAdmitResume s
  | .plSeal => Sys2Proof.Machine.execPlSeal s
  | .plRefugeWriteDone act bad => Sys2Proof.Machine.execPlRefugeWriteDone act bad s
  | .plFloorStop written bad => Sys2Proof.Machine.execPlFloorStop written bad s
  | .plTestStart q w => Sys2Proof.Machine.execPlTestStart q w s
  | .refugeIndexProgram ms => Sys2Proof.Machine.execRefugeIndexProgram ms s
  | .bufferRead c addr n soft => Sys2Proof.Machine.execBufferRead c addr n soft s
  | .bufferWrite addr bytes poison => Sys2Proof.Machine.execBufferWrite addr bytes poison s
  | .mergeFlushTimeout => Sys2Proof.Machine.execMergeFlushTimeout s
  | .mergeFlush q w => Sys2Proof.Machine.execMergeFlush q w s
  | .scrubStep soft => Sys2Proof.Machine.execScrubStep soft s
  | .bucketLeak bucket => Sys2Proof.Machine.execBucketLeak bucket s
  | .dmcFlipArm q w => Sys2Proof.Machine.execDmcFlipArm q w s
  | .bufferTestStart q w => Sys2Proof.Machine.execBufferTestStart q w s
  | .bufferTestComplete fail => Sys2Proof.Machine.execBufferTestComplete fail s
  | .dramTrainingComplete ok => Sys2Proof.Machine.execDramTrainingComplete ok s
  | .dramRetrain channel ok => Sys2Proof.Machine.execDramRetrain channel ok s
  | .spinStart q w => Sys2Proof.Machine.execSpinStart q w s
  | .detectComplete backward rpm => Sys2Proof.Machine.execDetectComplete backward rpm s
  | .zeroCrossing backward phase interval mean peak => Sys2Proof.Machine.execZeroCrossing backward phase interval mean peak s
  | .windowEmpty => Sys2Proof.Machine.execWindowEmpty s
  | .catchMeasureComplete rpm error => Sys2Proof.Machine.execCatchMeasureComplete rpm error s
  | .recatchTimeout => Sys2Proof.Machine.execRecatchTimeout s
  | .startAttemptTimeout => Sys2Proof.Machine.execStartAttemptTimeout s
  | .startRetry => Sys2Proof.Machine.execStartRetry s
  | .reverseBrakeDone => Sys2Proof.Machine.execReverseBrakeDone s
  | .spinStop q w => Sys2Proof.Machine.execSpinStop q w s
  | .spindownComplete => Sys2Proof.Machine.execSpindownComplete s
  | .speedChangeRequest q w => Sys2Proof.Machine.execSpeedChangeRequest q w s
  | .speedTargetReached rpm elapsed => Sys2Proof.Machine.execSpeedTargetReached rpm elapsed s
  | .chopperGate hup => Sys2Proof.Machine.execChopperGate hup s
  | .chopperCurrentCheck ma => Sys2Proof.Machine.execChopperCurrentCheck ma s
  | .chopperTimeout => Sys2Proof.Machine.execChopperTimeout s
  | .hupOv1 => Sys2Proof.Machine.execHupOv1 s
  | .hupOv2 => Sys2Proof.Machine.execHupOv2 s
  | .ovRecover => Sys2Proof.Machine.execOvRecover s
  | .ovRetractTimeout => Sys2Proof.Machine.execOvRetractTimeout s
  | .in5Loss => Sys2Proof.Machine.execIn5Loss s
  | .holdupFloor rpm hup => Sys2Proof.Machine.execHoldupFloor rpm hup s
  | .railsRelease low ms => Sys2Proof.Machine.execRailsRelease low ms s
  | .in12Return => Sys2Proof.Machine.execIn12Return s
  | .railsPowerUp port mgmt test failed => Sys2Proof.Machine.execRailsPowerUp port mgmt test failed s
  | .railFault rail recent => Sys2Proof.Machine.execRailFault rail recent s
  | .railCycle failed => Sys2Proof.Machine.execRailCycle failed s
  | .spnTerminalFault kind => Sys2Proof.Machine.execSpnTerminalFault kind s
  | .l2Access addr n w pre l1 bad => Sys2Proof.Machine.execL2Access addr n w pre l1 bad s
  | .l2PreloadStart q w => Sys2Proof.Machine.execL2PreloadStart q w s
  | .l2PreloadComplete => Sys2Proof.Machine.execL2PreloadComplete s
  | .l2CleanAll q w => Sys2Proof.Machine.execL2CleanAll q w s
  | .l2Clean q w => Sys2Proof.Machine.execL2Clean q w s
  | .l2Invalidate q w => Sys2Proof.Machine.execL2Invalidate q w s
  | .l2CleanInvalidate q w => Sys2Proof.Machine.execL2CleanInvalidate q w s
  | .l2MaintComplete => Sys2Proof.Machine.execL2MaintComplete s
  | .l2DrainComplete => Sys2Proof.Machine.execL2DrainComplete s
  | .tcmAccess off n w e => Sys2Proof.Machine.execTcmAccess off n w e s
  | .tcmClearStart q w => Sys2Proof.Machine.execTcmClearStart q w s
  | .tcmClearComplete => Sys2Proof.Machine.execTcmClearComplete s
  | .tcmFlipArm q w => Sys2Proof.Machine.execTcmFlipArm q w s
  | .ringDoorbell q ring w => Sys2Proof.Machine.execRingDoorbell q ring w s
  | .ringEntryFetch ring => Sys2Proof.Machine.execRingEntryFetch ring s
  | .ringCompletion ring => Sys2Proof.Machine.execRingCompletion ring s
  | .ringDisable q w => Sys2Proof.Machine.execRingDisable q w s
  | .ringEnable q w => Sys2Proof.Machine.execRingEnable q w s
  | .ringDrainComplete ring => Sys2Proof.Machine.execRingDrainComplete ring s
  | .ringResume q w => Sys2Proof.Machine.execRingResume q w s
  | .copyCopy ring => Sys2Proof.Machine.execCopyCopy ring s
  | .copyFill ring => Sys2Proof.Machine.execCopyFill ring s
  | .copyCrc ring => Sys2Proof.Machine.execCopyCrc ring s
  | .cryptoEncrypt ring => Sys2Proof.Machine.execCryptoEncrypt ring s
  | .cryptoDecrypt ring => Sys2Proof.Machine.execCryptoDecrypt ring s
  | .cryptoRetweak ring => Sys2Proof.Machine.execCryptoRetweak ring s
  | .mbxOutWrite q endpoint w => Sys2Proof.Machine.execMbxOutWrite q endpoint w s
  | .mbxDeliver sender => Sys2Proof.Machine.execMbxDeliver sender s
  | .mbxInRead q endpoint => Sys2Proof.Machine.execMbxInRead q endpoint s
  | .mbxWithdraw q endpoint w => Sys2Proof.Machine.execMbxWithdraw q endpoint w s
  | .mbxWaitWarn sender => Sys2Proof.Machine.execMbxWaitWarn sender s
  | .nvsKeyWrite q w => Sys2Proof.Machine.execNvsKeyWrite q w s
  | .nvsCmdWrite q w => Sys2Proof.Machine.execNvsCmdWrite q w s
  | .nvsAddrWrite q w => Sys2Proof.Machine.execNvsAddrWrite q w s
  | .nvsDataWrite q n w => Sys2Proof.Machine.execNvsDataWrite q n w s
  | .nvsSeqTimeout => Sys2Proof.Machine.execNvsSeqTimeout s
  | .nvsProgramComplete verified => Sys2Proof.Machine.execNvsProgramComplete verified s
  | .nvsEraseComplete verified => Sys2Proof.Machine.execNvsEraseComplete verified s
  | .lockRaiseComplete => Sys2Proof.Machine.execLockRaiseComplete s
  | .lockLowerComplete => Sys2Proof.Machine.execLockLowerComplete s
  | .nvsScanStart write => Sys2Proof.Machine.execNvsScanStart write s
  | .nvsScanComplete rough => Sys2Proof.Machine.execNvsScanComplete rough s
  | .nvsWordRead q error => Sys2Proof.Machine.execNvsWordRead q error s
  | .nvsTransferStart q w => Sys2Proof.Machine.execNvsTransferStart q w s
  | .nvsTransferComplete errors => Sys2Proof.Machine.execNvsTransferComplete errors s
  | .slot1Close q w => Sys2Proof.Machine.execSlot1Close q w s
  | .evrRecordAccept => Sys2Proof.Machine.execEvrRecordAccept s
  | .firmwareLog q w => Sys2Proof.Machine.execFirmwareLog q w s
  | .evrCommitStart elapsed => Sys2Proof.Machine.execEvrCommitStart elapsed s
  | .evrCommitWordDone verified => Sys2Proof.Machine.execEvrCommitWordDone verified s
  | .evrReclaim q w => Sys2Proof.Machine.execEvrReclaim q w s
  | .secondsTick => Sys2Proof.Machine.execSecondsTick s
  | .secondsHiWrite q w => Sys2Proof.Machine.execSecondsHiWrite q w s
  | .secondsLoWrite q w => Sys2Proof.Machine.execSecondsLoWrite q w s
  | .cyclesWrite q w => Sys2Proof.Machine.execCyclesWrite q w s
  | .evrRegionRead => Sys2Proof.Machine.execEvrRegionRead s
  | .commitEnable q w => Sys2Proof.Machine.execCommitEnable q w s
  | .tmpSample readings th0 th1 => Sys2Proof.Machine.execTmpSample readings th0 th1 s
  | .recalPassCatch oar => Sys2Proof.Machine.execRecalPassCatch oar s
  | .avsEvaluate margins => Sys2Proof.Machine.execAvsEvaluate margins s
  | .trialReport ldp => Sys2Proof.Machine.execTrialReport ldp s
  | .deltaClear q w => Sys2Proof.Machine.execDeltaClear q w s
  | .svnRaise q w => Sys2Proof.Machine.execSvnRaise q w s
  | .keyGenerate q w => Sys2Proof.Machine.execKeyGenerate q w s
  | .keyDestroy q w => Sys2Proof.Machine.execKeyDestroy q w s
  | .keyLoad q w => Sys2Proof.Machine.execKeyLoad q w s
  | .keyCmdComplete => Sys2Proof.Machine.execKeyCmdComplete s
  | .measDataAccess q w => Sys2Proof.Machine.execMeasDataAccess q w s
  | .measExtend q w => Sys2Proof.Machine.execMeasExtend q w s
  | .unlockNewNonce q w => Sys2Proof.Machine.execUnlockNewNonce q w s
  | .unlockCheck q w => Sys2Proof.Machine.execUnlockCheck q w s
  | .unlockDataWrite q w => Sys2Proof.Machine.execUnlockDataWrite q w s
  | .unlockExpire => Sys2Proof.Machine.execUnlockExpire s
  | .grantChange q w => Sys2Proof.Machine.execGrantChange q w s
  | .entropyHealthFail => Sys2Proof.Machine.execEntropyHealthFail s
  | .aliasCertIssue => Sys2Proof.Machine.execAliasCertIssue s
  | .domEasy q w => Sys2Proof.Machine.execDomEasy q w s
  | .domRelease q w => Sys2Proof.Machine.execDomRelease q w s
  | .domReset q w => Sys2Proof.Machine.execDomReset q w s
  | .domPowerOff q w => Sys2Proof.Machine.execDomPowerOff q w s
  | .domPowerOn q w => Sys2Proof.Machine.execDomPowerOn q w s
  | .domForceReset q w => Sys2Proof.Machine.execDomForceReset q w s
  | .domResetComplete testsPass => Sys2Proof.Machine.execDomResetComplete testsPass s
  | .easyTimeout dom => Sys2Proof.Machine.execEasyTimeout dom s
  | .imageLoad q w => Sys2Proof.Machine.execImageLoad q w s
  | .imageLoadComplete => Sys2Proof.Machine.execImageLoadComplete s
  | .warmStart q w => Sys2Proof.Machine.execWarmStart q w s
  | .coxReset => Sys2Proof.Machine.execCoxReset s
  | .startOk q w => Sys2Proof.Machine.execStartOk q w s
  | .failClr q w => Sys2Proof.Machine.execFailClr q w s
  | .startWatchdogExpire => Sys2Proof.Machine.execStartWatchdogExpire s
  | .regattaFrameReceive cells phase => Sys2Proof.Machine.execRegattaFrameReceive cells phase s
  | .starterClaim => Sys2Proof.Machine.execStarterClaim s
  | .starterLost => Sys2Proof.Machine.execStarterLost s
  | .regattaIntentQueue => Sys2Proof.Machine.execRegattaIntentQueue s
  | .regattaSlotContend settled slotEnd outcome => Sys2Proof.Machine.execRegattaSlotContend settled slotEnd outcome s
  | .regattaSlotReceive cells slotEnd => Sys2Proof.Machine.execRegattaSlotReceive cells slotEnd s
  | .regattaWireStuck syn => Sys2Proof.Machine.execRegattaWireStuck syn s
  | .perstDeassert port => Sys2Proof.Machine.execPerstDeassert port s
  | .railGood rail => Sys2Proof.Machine.execRailGood rail s
  | .chopperRelease hup => Sys2Proof.Machine.execChopperRelease hup s
  | .chopperStuckOn => Sys2Proof.Machine.execChopperStuckOn s
  | .spnBridgeOvertemp => Sys2Proof.Machine.execSpnBridgeOvertemp s
  | .hvOkLoss => Sys2Proof.Machine.execHvOkLoss s
  | .dramRefreshRateChange channel rate => Sys2Proof.Machine.execDramRefreshRateChange channel rate s
  | .pcieTlpError port kind => Sys2Proof.Machine.execPcieTlpError port kind s
  | .pcieCompletionTimeout port => Sys2Proof.Machine.execPcieCompletionTimeout port s
  | .mctpPacketError => Sys2Proof.Machine.execMctpPacketError s
  | .msixVectorUnmask ctrl vector => Sys2Proof.Machine.execMsixVectorUnmask ctrl vector s
  | .regattaWireRecover => Sys2Proof.Machine.execRegattaWireRecover s
  | .in5Return => Sys2Proof.Machine.execIn5Return s
  | .spindleStopped => Sys2Proof.Machine.execSpindleStopped s

end Sys2Proof.Machine
end

