-- ==== Sys2Proof/WellFormed.lean ====
section
/-! DEFINITION. Which commands are well formed: what a command's operands cannot be whatever state the block is in. -/

namespace Sys2Proof

/-- A requester (R545): a Cox core 0-5 in classes 0-2, a sequencer 0-11 in class 3; the other classes have one each. -/
def reqOk (q : Req) : Bool :=
  if q.cls.val ≤ 2 then decide (q.unit.val ≤ 5) else if q.cls.val = 3 then decide (q.unit.val ≤ 11) else q.unit.val = 0

/-- The size of an access in bytes (R7). -/
def sizeOk (n : Nat) : Bool := n = 1 || n = 2 || n = 4

/-- Submission queue entries have 64 bytes (R308). -/
def entriesOk (l : List (List Byte)) : Bool := l.all fun e => e.length = 64

/-- What a lane sees of a frame: at most 38,272 samples of each reader (R118), reader B's with 8 bits before and after
them (R98), and 32 of each in every resume field (R64). -/
def frameOk (f : FrameIn) : Bool :=
  f.a.length ≤ 38272 && f.b.length = f.a.length + 16 && f.wedges.all fun g => g.a.length = 32 && g.b.length = 32

/-- A Firmware Image Download moves whole dwords (R357). -/
def wholeDwords (l : List Byte) : Bool := !l.isEmpty && l.length % 4 = 0

/-- An access of one 64-byte line (R437). -/
def inLine (addr : BitVec 38) (n : Nat) (w : Option (List Byte)) : Bool :=
  0 < n && addr.toNat % 64 + n ≤ 64 && w.all fun l => l.length = n

/-- An access of one 8-byte TCM word (R446). -/
def inWord (off : BitVec 22) (n : Nat) : Bool := 0 < n && off.toNat % 8 + n ≤ 8

/-- A well-formed command. -/
def wellFormed : Instr → Bool
  | .registerWrite q _ size _ => reqOk q && sizeOk size
  | .registerReadClear q _ size => reqOk q && sizeOk size
  | .wideReadLatch q _ => reqOk q
  | .enableSet q _ _ => reqOk q
  | .enableClear q _ _ => reqOk q
  | .disableComplete .. => true
  | .easySet q _ _ => reqOk q
  | .easyClear q _ _ => reqOk q
  | .holdRel q _ _ => reqOk q
  | .holdReached .. => true
  | .evClr q _ _ _ => reqOk q
  | .eventNotice => true
  | .blockFault .. => true
  | .pfailAssert => true
  | .pfailDeassert .. => true
  | .winhAssert => true
  | .winhRelease => true
  | .drstAssert .. => true
  | .flitReceive .. => true
  | .linkTrainingComplete .. => true
  | .linkTrainingFail .. => true
  | .linkEnable q _ => reqOk q
  | .linkDisable q _ => reqOk q
  | .strokeCatch => true
  | .catchTokenSend => true
  | .catchTokenReceive .. => true
  | .localCatch .. => true
  | .actionLaunch .. => true
  | .actionOverrun .. => true
  | .supplyCurrentMeasure .. => true
  | .fmtTranslate .. => true
  | .skipListAppend .. => true
  | .mwpUpdate .. => true
  | .entryLockAcquire q _ => reqOk q
  | .entryLockRelease q _ => reqOk q
  | .mapScanStart q _ => reqOk q
  | .mapScanComplete .. => true
  | .xlatTest q _ => reqOk q
  | .readGateOpen .. => true
  | .frameRead _ f => frameOk f
  | .sbufPin q _ _ => reqOk q
  | .sbufUnpin q _ _ => reqOk q
  | .sbufUnpinAll q _ _ => reqOk q
  | .sbufDataRead q _ => reqOk q
  | .detectionComplete .. => true
  | .decodeComplete .. => true
  | .replayPassComplete .. => true
  | .sectorAbortEnd .. => true
  | .coreParityFault .. => true
  | .ldpCoefDataAccess q _ _ => reqOk q
  | .ldpCoefCommit q _ _ => reqOk q
  | .fwReplayStart q _ _ => reqOk q
  | .fwReplayComplete .. => true
  | .writeGateOpen .. => true
  | .writeWedgeCross .. => true
  | .assistArm .. => true
  | .pbusFrameSend .. => true
  | .pbusReadback .. => true
  | .pbusCmdSend q _ _ => reqOk q
  | .assistIdleOff .. => true
  | .trimStepRequest q _ _ _ => reqOk q
  | .preampFaultAssert .. => true
  | .preampStatusRead .. => true
  | .preampFaultDeassert .. => true
  | .verifyResult .. => true
  | .pesInhibitCheck .. => true
  | .forceInhibitSet q _ _ => reqOk q
  | .forceInhibitClear q _ _ => reqOk q
  | .astHeadDataAccess q _ _ => reqOk q
  | .servoSample .. => true
  | .controlOverrun .. => true
  | .vcmCommandApply .. => true
  | .srvCoefDataAccess q _ _ => reqOk q
  | .srvCoefCommit q _ _ => reqOk q
  | .notchEstimate .. => true
  | .notchWrite .. => true
  | .regattaIntentApply .. => true
  | .seekLaunch q _ _ => reqOk q
  | .seekCommit .. => true
  | .autoClear q _ _ => reqOk q
  | .autoSet q _ _ => reqOk q
  | .injectionStart q _ _ => reqOk q
  | .injectionStop q _ _ => reqOk q
  | .injectionEnd .. => true
  | .captureStart q _ _ => reqOk q
  | .captureStop q _ _ => reqOk q
  | .capDataRead q _ => reqOk q
  | .srvParityFault .. => true
  | .headLoad .. => true
  | .loadTimeout .. => true
  | .headUnload .. => true
  | .vcmRetract q _ _ => reqOk q
  | .retractParked .. => true
  | .retractTimeout .. => true
  | .vcmDrvEnable q _ _ => reqOk q
  | .vcmDrvDisable q _ _ => reqOk q
  | .vcmFaultDetect .. => true
  | .macDriverFault .. => true
  | .shockSample .. => true
  | .seqNop .. => true
  | .aluAdd .. => true
  | .aluSubtract .. => true
  | .aluAnd .. => true
  | .aluOr .. => true
  | .aluXor .. => true
  | .aluShiftLeft .. => true
  | .aluShiftRight .. => true
  | .aluArithShiftRight .. => true
  | .aluCompare .. => true
  | .memLoad .. => true
  | .memStore .. => true
  | .seqRegRead .. => true
  | .seqRegWrite .. => true
  | .launchReadGate .. => true
  | .launchWriteGate .. => true
  | .launchAssistStep .. => true
  | .launchSeek .. => true
  | .launchLoad .. => true
  | .launchUnload .. => true
  | .seqWait .. => true
  | .waitTimeout .. => true
  | .tagTake .. => true
  | .tagReadField .. => true
  | .tagWriteResult .. => true
  | .tagComplete .. => true
  | .msgSend .. => true
  | .msgReceive .. => true
  | .seqSig .. => true
  | .seqWatchdog .. => true
  | .seqBudgetOverrun .. => true
  | .lqPost q _ _ => reqOk q
  | .tagEntryFetch .. => true
  | .lqAbort q _ _ => reqOk q
  | .lqRelease q _ _ => reqOk q
  | .actuatorOosSet q _ _ => reqOk q
  | .actuatorOosClear q _ _ => reqOk q
  | .seqLoadStart q _ _ => reqOk q
  | .seqLoadComplete .. => true
  | .csDataAccess q _ _ => reqOk q
  | .digestStart q _ _ => reqOk q
  | .digestComplete .. => true
  | .sqEnableSet q _ _ => reqOk q
  | .sqEnableClear q _ _ => reqOk q
  | .sqEasySet q _ _ => reqOk q
  | .sqEasyClear q _ _ => reqOk q
  | .sqHoldRel q _ _ => reqOk q
  | .wevEncode => true
  | .wevAccum => true
  | .wevRecon => true
  | .wevVerify => true
  | .wevParityFault => true
  | .eraseInjArm q _ => reqOk q
  | .sqTailDoorbell .. => true
  | .cqHeadDoorbell .. => true
  | .commandFetch entries => entriesOk entries
  | .outStart .. => true
  | .outComplete .. => true
  | .completionPost .. => true
  | .cqFullTimeout .. => true
  | .interruptCoalesceTimeout .. => true
  | .controllerEnable .. => true
  | .controllerDisable .. => true
  | .shutdownNotify .. => true
  | .functionLevelReset .. => true
  | .perstAssert .. => true
  | .pcieLinkLoss .. => true
  | .pcieLinkUp .. => true
  | .hqFault .. => true
  | .diagBarAccess _ size _ => sizeOk size
  | .miReadDataStructure .. => true
  | .miSubsystemHealthPoll => true
  | .miControllerHealthPoll .. => true
  | .miConfigurationGet .. => true
  | .miConfigurationSet .. => true
  | .miVpdRead .. => true
  | .miVpdWrite .. => true
  | .miTunnelledAdmin .. => true
  | .createIoCq .. => true
  | .createIoSq .. => true
  | .deleteIoSq .. => true
  | .deleteIoCq .. => true
  | .getLogPage .. => true
  | .identify .. => true
  | .abort _ _ _ entries => entriesOk entries
  | .setFeatures .. => true
  | .getFeatures .. => true
  | .anaOwnerSet .. => true
  | .asyncEventRequest .. => true
  | .nsCreate .. => true
  | .nsDelete .. => true
  | .nsAttach .. => true
  | .nsDetach .. => true
  | .fwImageDownload _ _ bytes => wholeDwords bytes
  | .fwCommitStore .. => true
  | .fwCommitStoreActivate .. => true
  | .fwCommitActivate .. => true
  | .fwCommitActivateNow .. => true
  | .selfTestShort .. => true
  | .selfTestExtended .. => true
  | .selfTestAbort .. => true
  | .formatNvm .. => true
  | .formatNvmCryptoErase .. => true
  | .securityProtocolList .. => true
  | .securityCertChain .. => true
  | .securityAttestReport .. => true
  | .securityUnlockNonce .. => true
  | .sanitizeCryptoErase .. => true
  | .sanitizeOverwrite .. => true
  | .nvmRead .. => true
  | .nvmWrite .. => true
  | .writeZeroes .. => true
  | .nvmFlush .. => true
  | .nvmVerify .. => true
  | .reservationRegister .. => true
  | .reservationReport .. => true
  | .reservationAcquire .. => true
  | .reservationRelease .. => true
  | .zoneAppend .. => true
  | .zoneOpen .. => true
  | .zoneClose .. => true
  | .zoneFinish .. => true
  | .zoneReset .. => true
  | .zoneOffline .. => true
  | .zoneSetDescExt .. => true
  | .zoneReport .. => true
  | .tagCompletionReceive => true
  | .operationAged .. => true
  | .writeAdmitResume => true
  | .plSeal => true
  | .plRefugeWriteDone .. => true
  | .plFloorStop .. => true
  | .plTestStart q _ => reqOk q
  | .refugeIndexProgram .. => true
  | .bufferRead _ _ n _ => 0 < n
  | .bufferWrite _ bytes _ => !bytes.isEmpty
  | .mergeFlushTimeout => true
  | .mergeFlush q _ => reqOk q
  | .scrubStep .. => true
  | .bucketLeak .. => true
  | .dmcFlipArm q _ => reqOk q
  | .bufferTestStart q _ => reqOk q
  | .bufferTestComplete .. => true
  | .dramTrainingComplete .. => true
  | .dramRetrain .. => true
  | .spinStart q _ => reqOk q
  | .detectComplete .. => true
  | .zeroCrossing .. => true
  | .windowEmpty => true
  | .catchMeasureComplete .. => true
  | .recatchTimeout => true
  | .startAttemptTimeout => true
  | .startRetry => true
  | .reverseBrakeDone => true
  | .spinStop q _ => reqOk q
  | .spindownComplete => true
  | .speedChangeRequest q _ => reqOk q
  | .speedTargetReached .. => true
  | .chopperGate .. => true
  | .chopperCurrentCheck .. => true
  | .chopperTimeout => true
  | .hupOv1 => true
  | .hupOv2 => true
  | .ovRecover => true
  | .ovRetractTimeout => true
  | .in5Loss => true
  | .holdupFloor .. => true
  | .railsRelease .. => true
  | .in12Return => true
  | .railsPowerUp .. => true
  | .railFault .. => true
  | .railCycle .. => true
  | .spnTerminalFault .. => true
  | .l2Access addr n w _ _ _ => inLine addr n w
  | .l2PreloadStart q _ => reqOk q
  | .l2PreloadComplete => true
  | .l2CleanAll q _ => reqOk q
  | .l2Clean q _ => reqOk q
  | .l2Invalidate q _ => reqOk q
  | .l2CleanInvalidate q _ => reqOk q
  | .l2MaintComplete => true
  | .l2DrainComplete => true
  | .tcmAccess off n _ _ => inWord off n
  | .tcmClearStart q _ => reqOk q
  | .tcmClearComplete => true
  | .tcmFlipArm q _ => reqOk q
  | .ringDoorbell q _ _ => reqOk q
  | .ringEntryFetch .. => true
  | .ringCompletion .. => true
  | .ringDisable q _ => reqOk q
  | .ringEnable q _ => reqOk q
  | .ringDrainComplete .. => true
  | .ringResume q _ => reqOk q
  | .copyCopy .. => true
  | .copyFill .. => true
  | .copyCrc .. => true
  | .cryptoEncrypt .. => true
  | .cryptoDecrypt .. => true
  | .cryptoRetweak .. => true
  | .mbxOutWrite q _ _ => reqOk q
  | .mbxDeliver .. => true
  | .mbxInRead q _ => reqOk q
  | .mbxWithdraw q _ _ => reqOk q
  | .mbxWaitWarn .. => true
  | .nvsKeyWrite q _ => reqOk q
  | .nvsCmdWrite q _ => reqOk q
  | .nvsAddrWrite q _ => reqOk q
  | .nvsDataWrite q _ _ => reqOk q
  | .nvsSeqTimeout => true
  | .nvsProgramComplete .. => true
  | .nvsEraseComplete .. => true
  | .lockRaiseComplete => true
  | .lockLowerComplete => true
  | .nvsScanStart write => (write.all fun x => reqOk x.1)
  | .nvsScanComplete .. => true
  | .nvsWordRead q _ => reqOk q
  | .nvsTransferStart q _ => reqOk q
  | .nvsTransferComplete .. => true
  | .slot1Close q _ => reqOk q
  | .evrRecordAccept => true
  | .firmwareLog q _ => reqOk q
  | .evrCommitStart .. => true
  | .evrCommitWordDone .. => true
  | .evrReclaim q _ => reqOk q
  | .secondsTick => true
  | .secondsHiWrite q _ => reqOk q
  | .secondsLoWrite q _ => reqOk q
  | .cyclesWrite q _ => reqOk q
  | .evrRegionRead => true
  | .commitEnable q _ => reqOk q
  | .tmpSample .. => true
  | .recalPassCatch .. => true
  | .avsEvaluate .. => true
  | .trialReport .. => true
  | .deltaClear q _ => reqOk q
  | .svnRaise q _ => reqOk q
  | .keyGenerate q _ => reqOk q
  | .keyDestroy q _ => reqOk q
  | .keyLoad q _ => reqOk q
  | .keyCmdComplete => true
  | .measDataAccess q _ => reqOk q
  | .measExtend q _ => reqOk q
  | .unlockNewNonce q _ => reqOk q
  | .unlockCheck q _ => reqOk q
  | .unlockDataWrite q _ => reqOk q
  | .unlockExpire => true
  | .grantChange q _ => reqOk q
  | .entropyHealthFail => true
  | .aliasCertIssue => true
  | .domEasy q _ => reqOk q
  | .domRelease q _ => reqOk q
  | .domReset q _ => reqOk q
  | .domPowerOff q _ => reqOk q
  | .domPowerOn q _ => reqOk q
  | .domForceReset q _ => reqOk q
  | .domResetComplete .. => true
  | .easyTimeout .. => true
  | .imageLoad q _ => reqOk q
  | .imageLoadComplete => true
  | .warmStart q _ => reqOk q
  | .coxReset => true
  | .startOk q _ => reqOk q
  | .failClr q _ => reqOk q
  | .startWatchdogExpire => true
  | .regattaFrameReceive .. => true
  | .starterClaim => true
  | .starterLost => true
  | .regattaIntentQueue => true
  | .regattaSlotContend .. => true
  | .regattaSlotReceive .. => true
  | .regattaWireStuck .. => true
  | .perstDeassert .. => true
  | .railGood .. => true
  | .chopperRelease .. => true
  | .chopperStuckOn => true
  | .spnBridgeOvertemp => true
  | .hvOkLoss => true
  | .dramRefreshRateChange .. => true
  | .pcieTlpError .. => true
  | .pcieCompletionTimeout .. => true
  | .mctpPacketError => true
  | .msixVectorUnmask .. => true
  | .regattaWireRecover => true
  | .in5Return => true
  | .spindleStopped => true

/-- The requester that a command names, if it names one. -/
def requesterOf : Instr → Option Req
  | .registerWrite q _ _ _ => some q
  | .registerReadClear q _ _ => some q
  | .wideReadLatch q _ => some q
  | .enableSet q _ _ => some q
  | .enableClear q _ _ => some q
  | .easySet q _ _ => some q
  | .easyClear q _ _ => some q
  | .holdRel q _ _ => some q
  | .evClr q _ _ _ => some q
  | .linkEnable q _ => some q
  | .linkDisable q _ => some q
  | .entryLockAcquire q _ => some q
  | .entryLockRelease q _ => some q
  | .mapScanStart q _ => some q
  | .xlatTest q _ => some q
  | .sbufPin q _ _ => some q
  | .sbufUnpin q _ _ => some q
  | .sbufUnpinAll q _ _ => some q
  | .sbufDataRead q _ => some q
  | .ldpCoefDataAccess q _ _ => some q
  | .ldpCoefCommit q _ _ => some q
  | .fwReplayStart q _ _ => some q
  | .pbusCmdSend q _ _ => some q
  | .trimStepRequest q _ _ _ => some q
  | .forceInhibitSet q _ _ => some q
  | .forceInhibitClear q _ _ => some q
  | .astHeadDataAccess q _ _ => some q
  | .srvCoefDataAccess q _ _ => some q
  | .srvCoefCommit q _ _ => some q
  | .seekLaunch q _ _ => some q
  | .autoClear q _ _ => some q
  | .autoSet q _ _ => some q
  | .injectionStart q _ _ => some q
  | .injectionStop q _ _ => some q
  | .captureStart q _ _ => some q
  | .captureStop q _ _ => some q
  | .capDataRead q _ => some q
  | .vcmRetract q _ _ => some q
  | .vcmDrvEnable q _ _ => some q
  | .vcmDrvDisable q _ _ => some q
  | .lqPost q _ _ => some q
  | .lqAbort q _ _ => some q
  | .lqRelease q _ _ => some q
  | .actuatorOosSet q _ _ => some q
  | .actuatorOosClear q _ _ => some q
  | .seqLoadStart q _ _ => some q
  | .csDataAccess q _ _ => some q
  | .digestStart q _ _ => some q
  | .sqEnableSet q _ _ => some q
  | .sqEnableClear q _ _ => some q
  | .sqEasySet q _ _ => some q
  | .sqEasyClear q _ _ => some q
  | .sqHoldRel q _ _ => some q
  | .eraseInjArm q _ => some q
  | .plTestStart q _ => some q
  | .mergeFlush q _ => some q
  | .dmcFlipArm q _ => some q
  | .bufferTestStart q _ => some q
  | .spinStart q _ => some q
  | .spinStop q _ => some q
  | .speedChangeRequest q _ => some q
  | .l2PreloadStart q _ => some q
  | .l2CleanAll q _ => some q
  | .l2Clean q _ => some q
  | .l2Invalidate q _ => some q
  | .l2CleanInvalidate q _ => some q
  | .tcmClearStart q _ => some q
  | .tcmFlipArm q _ => some q
  | .ringDoorbell q _ _ => some q
  | .ringDisable q _ => some q
  | .ringEnable q _ => some q
  | .ringResume q _ => some q
  | .mbxOutWrite q _ _ => some q
  | .mbxInRead q _ => some q
  | .mbxWithdraw q _ _ => some q
  | .nvsKeyWrite q _ => some q
  | .nvsCmdWrite q _ => some q
  | .nvsAddrWrite q _ => some q
  | .nvsDataWrite q _ _ => some q
  | .nvsWordRead q _ => some q
  | .nvsTransferStart q _ => some q
  | .slot1Close q _ => some q
  | .firmwareLog q _ => some q
  | .evrReclaim q _ => some q
  | .secondsHiWrite q _ => some q
  | .secondsLoWrite q _ => some q
  | .cyclesWrite q _ => some q
  | .commitEnable q _ => some q
  | .deltaClear q _ => some q
  | .svnRaise q _ => some q
  | .keyGenerate q _ => some q
  | .keyDestroy q _ => some q
  | .keyLoad q _ => some q
  | .measDataAccess q _ => some q
  | .measExtend q _ => some q
  | .unlockNewNonce q _ => some q
  | .unlockCheck q _ => some q
  | .unlockDataWrite q _ => some q
  | .grantChange q _ => some q
  | .domEasy q _ => some q
  | .domRelease q _ => some q
  | .domReset q _ => some q
  | .domPowerOff q _ => some q
  | .domPowerOn q _ => some q
  | .domForceReset q _ => some q
  | .imageLoad q _ => some q
  | .warmStart q _ => some q
  | .startOk q _ => some q
  | .failClr q _ => some q
  | _ => none

end Sys2Proof
end

