-- ==== Sys2Proof/Safety.lean ====
section
/-! DEFINITION. What claims about the block are stated in: a command that completes, and what no command may do to the
fuses and to buffer memory. -/

namespace Sys2Proof.Machine

open Sys2Proof

/-- The command completes in `s`, and its next state satisfies `P`. -/
def Completes (i : Instr) (s : State) (P : State → Prop) : Prop := ∃ t, exec i s = .next t ∧ P t

/-- Every fuse bank of R536 holds a count from 0 to 63, and no kind beyond 6 has one; the banks are in canonical form. -/
def FusesSound (f : Fuses) : Prop :=
  Sparse.wf 0 f.minSvn = true ∧ (∀ k, sget 0 f.minSvn k ≤ 63) ∧ ∀ k, 7 ≤ k → sget 0 f.minSvn k = 0

/-- From `f` to `g` nothing made at manufacture has changed (R531) and no MIN_SVN is lower (R536). -/
def FusesRise (f g : Fuses) : Prop :=
  g.serial = f.serial ∧ g.device = f.device ∧ g.vendor = f.vendor ∧ g.revoked = f.revoked ∧
    g.rootDigest = f.rootDigest ∧ g.wrapSecret = f.wrapSecret ∧ ∀ k, sget 0 f.minSvn k ≤ sget 0 g.minSvn k

/-- A write by `q` of the register at offset `off` of page `p` that is let through whole: the debug port is open to it
(R486), the grant table allows it (R546), the page answers (R28, R29, R53), and no field of the register is a keeper's
that `q` may not write (R13). -/
def Admits (s : State) (q : Req) (p : Page) (off : Nat) : Prop :=
  writeGate s q p off = .reached ∧ (hasKp p off = true → keeper q = true)

/-- A read by `q` of the register at offset `off` of page `p` that the page serves (R28, R29, R53, R241, R486). -/
def Serves (s : State) (q : Req) (p : Page) (off : Nat) : Prop :=
  portOpen s q p off = true ∧ (q.cls.val = 3 → seqMay q p = true) ∧ reach s q p = .reached

/-- Unit `u`, whose store word has been disturbed by `e`, reads the word `w` of class `op` at its PC and may execute it,
in state `t`: its sequencer runs, the word is correctable (R240), it is of a listed class, an easing sequencer has work
left at a safe point (R247), and a push finds room on the stack and a pop an address (R244). -/
def Runs (s : State) (u e op w : Nat) (t : State) : Prop :=
  fetchRun.working' s u = true ∧
    (∃ r, readStore (disturb s u (pcOf s u) e) u (pcOf s u) = (some w, r) ∧ safePoint r u w = some t) ∧
    opListed (wOp w) = true ∧ wOp w = op ∧
    (wNxt w = 2 → (t.sqr u).stack.length < 4) ∧ (wNxt w = 3 → (t.sqr u).stack ≠ [])

/-- What a word with effect `body` leaves (R243, R244, R249): the busy clock counts, the effect happens, and the PC goes
to the next address, sampled before the effect; a word whose effect faults the sequencer has no next address. -/
def wordResult (body : State → State) (t : State) (u w : Nat) : State :=
  let s := body (countBusy (t.setSqr u { clearSampled w (t.sqr u) with waiting := false }) u)
  if unitState s u = stFault then s else nextAddress t s u w

/-- An ALU word's result goes to DST, Z and N follow it, C and V are set (R243). -/
def aluSets (s : State) (u w r : Nat) (c v : Bool) : State :=
  s.setSqr u (({ (s.sqr u).setZN r with c := c, v := v } : Sqr).setReg (wDst w) r)

/-- An I/O command of slot `k` for NSID `nsid` reaches its namespace: the slot waits for its start, no sanitize operation
runs, and the NSID names namespace `n`, of index `x`, for its controller, whose ownership does not move (R326, R339, R360,
R361). -/
def TakesIo (s : State) (k nsid x : Nat) (n : Ns) : Prop :=
  serves s k false = true ∧ s.nvme.sanitize.running = false ∧ activeNs s (s.slot k).ctrl nsid k = .ok (x, n) ∧
    n.moving = none

/-- A Zone Management Send of slot `k` reaches the zones `zones` of namespace `x`: those it selects in a state that
accepts the action, in service, and with no Zone Reset waiting (R346, R350). -/
def TakesZones (s : State) (k nsid slba : Nat) (all : Bool) (accepts : Nat → Bool) (x : Nat) (zones : List Nat) : Prop :=
  ∃ n, TakesIo s k nsid x n ∧ n.kind ≠ 3 ∧ n.conflict (hostOf s k) true = false ∧
    (all = true → zones = n.zones.filter fun z =>
      accepts (readEntry s z).1.state && (offlineStatus s z).isNone && !resetPending s x z) ∧
    (all = false → ∃ zone, zones = [zone] ∧ blockAt n slba = some (zone, 0) ∧ resetPending s x zone = false ∧
      offlineStatus s zone = none ∧ accepts (readEntry s zone).1.state = true)

/-- The stores of data hold what they held: every byte of buffer memory and of its merge buffer, every word of the TCM,
every line of the L2, every sector on the media, every word of the flash array, every line of the buffer manager. -/
def StoresKept (s t : State) : Prop :=
  (∀ a, t.dram.byte a = s.dram.byte a) ∧ t.dram = s.dram ∧ t.tcm = s.tcm ∧ t.l2 = s.l2 ∧ t.media = s.media ∧
    t.nv = s.nv ∧ t.buf = s.buf

/-- The byte a read of buffer memory would find at an address without an error: the merge buffer's where its entry has one,
else the stored one (R392). -/
def bufferByte (s : State) (a : Nat) : Byte :=
  match s.dram.merge.find? (·.granule = a / 32) with
  | some m => if m.mask.getD (a % 32) false then m.bytes.getD (a % 32) 0 else s.dram.byte a
  | none => s.dram.byte a

/-- The merge buffer as R392 has it: each entry holds 32 bytes and a mask of 32, and no granule has two. -/
def MergeSound (d : Dram) : Prop :=
  (∀ m ∈ d.merge, m.bytes.length = 32 ∧ m.mask.length = 32) ∧ d.merge.Pairwise fun a b => a.granule ≠ b.granule

/-- The commands that leave every store as it is: reads of registers and headers, flits and the stroke, the servo, the
actuators, the spindle, the rails and the regatta, the host's queues, ports and most of its administration, the rings'
control, the mailboxes, the recorder's clocks, identity and protection. -/
def keepsStores : Instr → Bool
  | .registerReadClear .. | .wideReadLatch .. | .disableComplete .. | .evClr .. | .eventNotice .. | .winhRelease ..
  | .flitReceive .. | .strokeCatch .. | .catchTokenSend .. | .supplyCurrentMeasure .. | .mapScanStart ..
  | .readGateOpen .. | .frameRead .. | .assistArm .. | .getLogPage .. | .sbufPin .. | .sbufUnpin ..
  | .sbufUnpinAll .. | .sbufDataRead .. | .ldpCoefDataAccess .. | .ldpCoefCommit .. | .pbusFrameSend ..
  | .pbusCmdSend .. | .assistIdleOff .. | .preampFaultDeassert .. | .astHeadDataAccess .. | .controlOverrun ..
  | .vcmCommandApply .. | .srvCoefDataAccess .. | .srvCoefCommit .. | .notchEstimate .. | .notchWrite ..
  | .regattaIntentApply .. | .seekLaunch .. | .autoClear .. | .autoSet .. | .injectionStart .. | .injectionStop ..
  | .injectionEnd .. | .captureStart .. | .captureStop .. | .capDataRead .. | .srvParityFault .. | .headLoad ..
  | .loadTimeout .. | .headUnload .. | .vcmRetract .. | .retractTimeout .. | .vcmDrvEnable .. | .vcmDrvDisable ..
  | .vcmFaultDetect .. | .shockSample .. | .seqBudgetOverrun .. | .seqLoadStart .. | .csDataAccess ..
  | .digestStart .. | .digestComplete .. | .sqEnableSet .. | .sqEnableClear .. | .sqEasySet .. | .sqEasyClear ..
  | .sqHoldRel .. | .eraseInjArm .. | .sqTailDoorbell .. | .cqHeadDoorbell .. | .outStart .. | .outComplete ..
  | .cqFullTimeout .. | .interruptCoalesceTimeout .. | .controllerEnable .. | .shutdownNotify .. | .pcieLinkUp ..
  | .miReadDataStructure .. | .miConfigurationGet .. | .miConfigurationSet .. | .miVpdRead .. | .miVpdWrite ..
  | .createIoCq .. | .createIoSq .. | .deleteIoSq .. | .deleteIoCq .. | .identify .. | .setFeatures ..
  | .getFeatures .. | .anaOwnerSet .. | .asyncEventRequest .. | .nsAttach .. | .nsDetach .. | .fwImageDownload ..
  | .securityProtocolList .. | .securityCertChain .. | .securityAttestReport .. | .securityUnlockNonce ..
  | .nvmFlush .. | .reservationRegister .. | .reservationReport .. | .reservationRelease .. | .bucketLeak ..
  | .dmcFlipArm .. | .dramTrainingComplete .. | .dramRetrain .. | .spinStart .. | .detectComplete ..
  | .zeroCrossing .. | .windowEmpty .. | .catchMeasureComplete .. | .recatchTimeout .. | .startAttemptTimeout ..
  | .startRetry .. | .reverseBrakeDone .. | .spinStop .. | .spindownComplete .. | .speedChangeRequest ..
  | .speedTargetReached .. | .chopperGate .. | .chopperCurrentCheck .. | .chopperTimeout .. | .hupOv1 .. | .hupOv2 ..
  | .ovRecover .. | .ovRetractTimeout .. | .in5Loss .. | .holdupFloor .. | .in12Return .. | .spnTerminalFault ..
  | .tcmClearComplete .. | .tcmFlipArm .. | .ringDoorbell .. | .ringDisable .. | .ringEnable ..
  | .ringDrainComplete .. | .mbxOutWrite .. | .mbxDeliver .. | .mbxInRead .. | .mbxWithdraw .. | .mbxWaitWarn ..
  | .nvsWordRead .. | .firmwareLog .. | .secondsTick .. | .secondsHiWrite .. | .secondsLoWrite .. | .cyclesWrite ..
  | .avsEvaluate .. | .deltaClear .. | .keyGenerate .. | .keyDestroy .. | .keyLoad .. | .measDataAccess ..
  | .measExtend .. | .unlockNewNonce .. | .unlockCheck .. | .unlockDataWrite .. | .unlockExpire .. | .grantChange ..
  | .entropyHealthFail .. | .aliasCertIssue .. | .domResetComplete .. | .imageLoad .. | .regattaFrameReceive ..
  | .starterClaim .. | .starterLost .. | .regattaIntentQueue .. | .regattaSlotContend .. | .regattaSlotReceive ..
  | .regattaWireStuck .. | .perstDeassert .. | .chopperRelease .. | .chopperStuckOn .. | .spnBridgeOvertemp ..
  | .hvOkLoss .. | .pcieTlpError .. | .pcieCompletionTimeout .. | .mctpPacketError .. | .msixVectorUnmask ..
  | .regattaWireRecover .. | .in5Return .. | .spindleStopped .. => true
  | _ => false

/-- Nothing of the register file, the units, buffer memory and the flash changes but the answer. -/
def sameButAnswer (s t : State) : Prop := { t with answer := s.answer } = s

end Sys2Proof.Machine
end

