-- ==== Sys2Proof/Certificates/Slice0/Obligations.lean ====
section
/-! DEFINITION. The statements for the provers. Those named after a family of commands say where each of its commands
completes and what it leaves; the others say what holds of every command or of every step. -/

open Sys2Proof Sys2Proof.Machine

/-- A step takes the command at the front of the queue and runs it on the state with the rest of the queue. -/
def Obligations.StepRunsTheFrontCommand : Prop :=
  ∀ (s : State) (c : Instr) (cs : List Instr),
    step { s with pending := c :: cs } = exec c { s with pending := cs }

/-- With no command waiting the block is idle: the step answers, and it changes nothing unless a sanitize operation
runs, which then ends, or an activation, power state 2 or a device self-test is under way, which then goes a step on
(R353, R355, R356, R359; that they go on then is the model's choice, log 55). -/
def Obligations.IdleStepOnlyEndsOperations : Prop :=
  ∀ s : State, s.pending = [] →
    step s = .next (idleStep s) ∧ (s.nvme.sanitize.running = false → s.nvme.activation = none → s.nvme.asleep = false →
      s.nvme.selfTest = none → step s = .next s)

/-- The queue of waiting commands is the sender's alone: a step takes the command at its front and no more, whatever
that command does. -/
def Obligations.StepTakesOnlyTheFront : Prop :=
  ∀ s t : State, step s = .next t → t.pending = s.pending.tail

/-- The machine right after reset (R14, R264, R536, R546): every register field reads its Cold value, but for the
budgets of sequencers 4 and 5 of each Oar die, which read 12,000; every grant mask reads 0x11; no command waits; the
fuse banks are sound, buffer memory is in canonical form and its merge buffer sound. -/
def Obligations.ResetLeavesTheColdValues : Prop :=
  (∀ (F : Fld) (i k : Nat), (∀ d < 2, ∀ n ∈ [4, 5], F.key i k ≠ SEQ.SQ_BUDGET.BUDGET.key d n) →
    State.reset.get F i k = F.cold) ∧
  (∀ d < 2, ∀ n ∈ [4, 5], State.reset.get SEQ.SQ_BUDGET.BUDGET d n = 12000) ∧
  (∀ page, grantMask State.reset page = 0x11) ∧ State.reset.pending = [] ∧ FusesSound State.reset.fuses ∧
  Memory.wf State.reset.dram = true ∧ MergeSound State.reset.dram

/-- From every state, no step lowers a MIN_SVN or changes any other fuse (R531, R536), and a step from a state whose
fuse banks are sound, each MIN_SVN a count from 0 to 63 and none beyond kind 6, leaves them sound. -/
def Obligations.FusesOnlyRise : Prop :=
  ∀ s t : State, step s = .next t → FusesRise s.fuses t.fuses ∧ (FusesSound s.fuses → FusesSound t.fuses)

/-- Accesses that meet no register (R7, R8, R50). A read of a page slot that no block occupies answers zero, and a
write to it is discarded; so is every narrower or unaligned access. By a requester of any class, a core at the core
address of the offset, and by the diagnostic BAR, nothing but the answer changes. (A sequencer's word that names such
a slot is never issued: R241.) -/
def Obligations.AccessesBesideRegisters : Prop :=
  ∀ (s : State) (q : Req) (a : BitVec 32) (addr : BitVec 26) (size : Nat) (w : BitVec 32),
    (pageOf addr.toNat = none ∨ size ≠ 4 ∨ addr.toNat % 4 ≠ 0) →
    (a.toNat = addr.toNat + (if q.cls.val ≤ 2 then 0x40000000 else 0) →
      exec (.registerReadClear q a size) s = .next (s.reply 0 [0]) ∧
      exec (.registerWrite q a size w) s = .next (s.reply 0 []) ∧
      (size = 4 → exec (.wideReadLatch q a) s = .next (s.reply 0 [0]))) ∧
    (diagActive s = true → domainLive s (pcxPage 0).domain = true →
      exec (.diagBarAccess addr size none) s = .next (s.reply 0 [0]) ∧
      exec (.diagBarAccess addr size (some w)) s = .next (s.reply 0 []))

/-- Register accesses (R7-R13, R16, R50, R52, R53, R241, R243, R328, R546). A write let through whole does what the
register's fields say; a read that a page serves answers the register, latches the upper words of a wide quantity for
its requester and clears the read-to-clear fields; an upper word is read from the shadow; a sequencer's REG words do
the same with the class of a sequencer, and the diagnostic BAR with the class of the host. A core names a register by
its core address, which is 0x4000_0000 above the control-space offset (R50). -/
def Obligations.RegisterAccessCommands : Prop :=
  ∀ (s : State) (q : Req) (a : BitVec 32) (addr : BitVec 26) (w : BitVec 32) (p : Page),
    pageOf addr.toNat = some p → addr.toNat % 4 = 0 →
    a.toNat = addr.toNat + (if q.cls.val ≤ 2 then 0x40000000 else 0) →
    let off := addr.toNat - p.base
    let stores (q : Req) (w : BitVec 32) (s : State) : State := regWrite q p off w (s.reply 0 [])
    let word := regWord s q p off
    let tail := (List.range (wideTail p off)).map fun k => regWord s q p (off + 4 * (k + 1))
    let reads (q : Req) : State := (clearRead (latchWords s q (addr.toNat + 4) tail) q p off).reply 0 [word]
    (Admits s q p off → exec (.registerWrite q a 4 w) s = .next (stores q w s)) ∧
    (Serves s q p off → actingRead q p off = none →
      (wideUpper p off = true → sget none s.shadow (shadowKey q addr.toNat) = none) →
      exec (.registerReadClear q a 4) s = .next (reads q) ∧ exec (.wideReadLatch q a) s = .next (reads q)) ∧
    (∀ v, Serves s q p off → actingRead q p off = none → wideUpper p off = true →
      sget none s.shadow (shadowKey q addr.toNat) = some v →
      exec (.registerReadClear q a 4) s = .next (s.reply 0 [v]) ∧
      exec (.wideReadLatch q a) s = .next (s.reply 0 [v])) ∧
    (∀ f, Serves s q p off → actingRead q p off = some f → (p.blk = .nvs → arrayBusy s = false) →
      exec (.registerReadClear q a 4) s = .next ((f s).2.reply 0 [(f s).1])) ∧
    (diagActive s = true → domainLive s (pcxPage 0).domain = true → Admits s diagReq p off →
      exec (.diagBarAccess addr 4 (some w)) s = .next (stores diagReq w s)) ∧
    ∀ (u : Fin 12) (e : BitVec 137) (x : Nat) (t : State), Runs s u.val e.toNat 0x14 x t →
      wImm x % 2 ^ 32 = addr.toNat → seqMay ⟨3, Fin.ofNat 16 u.val⟩ p = true →
      exec (.seqRegWrite u e) s = .next (wordResult (fun s =>
        writeAccess ⟨3, Fin.ofNat 16 u.val⟩ addr.toNat 4 (BitVec.ofNat 32 ((s.sqr u.val).srcB x)) s) t u.val x) ∧
      exec (.seqRegRead u e) s = .next (wordResult (fun s =>
        let s := readAccess ⟨3, Fin.ofNat 16 u.val⟩ addr.toNat 4 s
        s.setSqr u.val ((s.sqr u.val).setReg (wDst x) (s.answer.data.headD 0))) t u.val x)

/-- Reads of read-to-clear fields (R12). A read through the debug port leaves every RC field of the register it reads
as it was. A read of the same register that its page serves, by a Cox core or through the diagnostic BAR, clears them.
-/
def Obligations.ReadsThatClear : Prop :=
  ∀ (s : State) (q : Req) (a : BitVec 32) (addr : BitVec 26) (p : Page) (e : Fld × Nat × Nat),
    a.toNat = addr.toNat + (if q.cls.val ≤ 2 then 0x40000000 else 0) → pageOf addr.toNat = some p → e ∈ pageFields p (addr.toNat - p.base) → e.1.acc = .rc →
    (q.cls = 7 → ∀ (size : Nat) (t : State),
      (exec (.registerReadClear q a size) s = .next t ∨ exec (.wideReadLatch q a) s = .next t) →
      t.get e.1 e.2.1 e.2.2 = s.get e.1 e.2.1 e.2.2) ∧
    (q.cls.val ≤ 2 → actingRead q p (addr.toNat - p.base) = none → addr.toNat % 4 = 0 → Serves s q p (addr.toNat - p.base) →
      Completes (.registerReadClear q a 4) s fun t => t.get e.1 e.2.1 e.2.2 = 0) ∧
    (diagActive s = true → domainLive s (pcxPage 0).domain = true → actingRead diagReq p (addr.toNat - p.base) = none →
      addr.toNat % 4 = 0 → Serves s diagReq p (addr.toNat - p.base) →
      Completes (.diagBarAccess addr 4 none) s fun t => t.get e.1 e.2.1 e.2.2 = 0)

/-- Refused writes (R13, R546, R548). A write of any register that the grant table refuses is counted in
DENY_CNT.GRANT, one of a register that only a keeper writes, without keeper privilege, in DENY_CNT.KP while the
recorder has room; DENY_LAST names the class and the page, EV081 is raised, and a record of the write goes to the
recorder. No other register field changes and no store (SVN_RAISE and KEY_CMD, whose RESULT then reads PRIV, are not
meant here). -/
def Obligations.RefusedWritesOnlyCount : Prop :=
  ∀ (s : State) (q : Req) (a : BitVec 32) (addr : BitVec 26) (w : BitVec 32) (p : Page),
    a.toNat = addr.toNat + (if q.cls.val ≤ 2 then 0x40000000 else 0) →
    pageOf addr.toNat = some p → addr.toNat % 4 = 0 → domainLive s 1 = true →
    let off := addr.toNat - p.base
    let sec : Page := ⟨.sec, 0⟩
    let leaves (F : Fld) (code : Nat) (t : State) : Prop :=
      t.get F = min (s.get F + 1) 0xFFFF ∧ t.get SEC.DENY_LAST.CLASS = q.cls.val ∧
      t.get SEC.DENY_LAST.PAGE = p.index % 0x4000 ∧ bit (t.get HDR.EV_RAW.RAW sec.index) 1 = true ∧
      t.evr = { s.evr with arriving := s.evr.arriving ++ [⟨4, 7, 0x1FF, code, denyData q p off w⟩] } ∧
      (∀ (G : Fld) (i k : Nat), G.key i k ≠ F.key 0 0 → G.key i k ≠ SEC.DENY_LAST.CLASS.key 0 0 →
        G.key i k ≠ SEC.DENY_LAST.PAGE.key 0 0 → G.key i k ≠ HDR.EV_RAW.RAW.key sec.index 0 →
        t.get G i k = s.get G i k) ∧ StoresKept s t ∧ t.grants = s.grants ∧ t.fuses = s.fuses
    (writeGate s q p off = .denied →
      Completes (.registerWrite q a 4 w) s (leaves SEC.DENY_CNT.GRANT 0x0402)) ∧
    (writeGate s q p off = .reached → hasKp p off = true → keeper q = false → recorderRoom s = true →
      ((pageFields p off).all fun e => e.1.acc = .kp || e.1.acc = .kgo || e.1.acc = .ro) = true →
      (p = sec → off ≠ 0x07C ∧ off ≠ 0x090) →
      Completes (.registerWrite q a 4 w) s (leaves SEC.DENY_CNT.KP 0x0403))

/-- An event that occurs in the same clock as a write of EV_CLR that clears its bit leaves the bit set (R20). -/
def Obligations.SameClockEventStays : Prop :=
  ∀ (s : State) (q : Req) (slot : BitVec 14) (w same : BitVec 32) (p : Page) (n : Nat), pageAt slot.toNat = some p →
    Admits s q p 0x01C → n < p.evCount → bit same.toNat n = true → bit w.toNat n = true →
    Completes (.evClr q slot w same) s fun t => bit (t.get HDR.EV_RAW.RAW p.index) n = true

/-- PAGE_CTL (R17, R19, R20, R247, R555, R611), EV_CLR (R20), the end of a block's disable (R17) and a domain's HOLD
(R555): what each completed command does. In OFF, writing ENABLE 1 with EASY 0 starts the block and the page runs,
with EASY 1 it holds; from RUN, ENABLE 0 begins the disable and EASY 1 the easing; in EASING, EASY 0 goes back to RUN;
in HOLD, ENABLE 0 ends the block (an assist's elements go off) and HOLD_REL with EASY 0 goes on. A write of EV_CLR
clears the events it names but those of the same clock. -/
def Obligations.PageControlCommands : Prop :=
  ∀ (s : State) (q : Req) (slot : BitVec 14) (w same : BitVec 32) (p : Page), pageAt slot.toNat = some p →
    let en := HDR.PAGE_CTL.ENABLE.of w
    let ez := HDR.PAGE_CTL.EASY.of w
    let stored := ((s.reply 0 []).put HDR.PAGE_CTL.ENABLE en p.index).put HDR.PAGE_CTL.EASY ez p.index
    (Admits s q p 0x008 →
      (pageState s p = stOff → pageEnabled s p = false → pageAbsent s p = false → en = 1 → ez = 0 →
        exec (.enableSet q slot w) s = .next (easyWithdrawn (pageRuns (pageEnables stored p) p) p.domain)) ∧
      (pageState s p = stOff → pageEnabled s p = false → pageAbsent s p = false → en = 1 → ez = 1 →
        exec (.enableSet q slot w) s =
          .next (easyWithdrawn (setPageState (pageEnables stored p) p stHold) p.domain)) ∧
      (pageState s p = stOff → pageAbsent s p = true →
        exec (.enableSet q slot w) s = .next (easyWithdrawn stored p.domain)) ∧
      (pageState s p = stRun → pageEnabled s p = true → en = 0 →
        exec (.enableClear q slot w) s = .next (easyWithdrawn (pageDisables stored p) p.domain)) ∧
      (pageState s p = stHold → pageEnabled s p = true → en = 0 →
        let held (t : State) : State := setPageState t p stOff
        exec (.enableClear q slot w) s = .next (easyWithdrawn (match p.blk with
          | .ast => held (astStop stored p.inst)
          | .wev => wevOff stored
          | .cal => calOff stored
          | _ => held stored) p.domain)) ∧
      (pageState s p = stRun → pageEnabled s p = true → en = 1 → ez = 1 →
        exec (.easySet q slot w) s = .next (easyWithdrawn (pageEases stored p) p.domain)) ∧
      (pageState s p = stEasing → pageEnabled s p = true → en = 1 → ez = 0 →
        exec (.easyClear q slot w) s = .next (easyWithdrawn (pageRuns stored p) p.domain)) ∧
      (pageState s p = stHold → pageEnabled s p = true → en = 1 → ez = 0 → HDR.PAGE_CTL.HOLD_REL.of w = 1 →
        exec (.holdRel q slot w) s = .next (easyWithdrawn (pageRuns stored p) p.domain))) ∧
    (Admits s q p 0x01C →
      exec (.evClr q slot w same) s = .next ((s.reply 0 []).put HDR.EV_RAW.RAW
        ((s.get HDR.EV_RAW.RAW p.index &&& (2 ^ 32 - 1 - w.toNat)) ||| (same.toNat % 2 ^ p.evCount)) p.index)) ∧
    (domainLive s p.domain = true → working s p = true → pageEnabled s p = false →
      exec (.disableComplete slot) s = .next (disableEnds s p)) ∧
    ∀ dom : Fin 96, domainLive s dom.val = true → domainHolds s dom.val = false →
      exec (.holdReached dom) s = .next (holdDomain s dom.val)

/-- The commands that `keepsStores` lists, which store nothing, leave every byte of buffer memory and of the TCM,
every line of the L2 and of the buffer manager, every sector of the media and every word of the flash array as it was.
-/
def Obligations.CommandsThatStoreNothing : Prop :=
  ∀ (i : Instr) (s t : State), keepsStores i = true → exec i s = .next t → StoresKept s t

/-- A buffer write stores its bytes and nothing else (R389, R392). With no stored error, no armed flip mask and a
sound merge buffer, a write within USABLE_TOP completes; afterwards each byte of the range it names reads as written,
whether it went to memory or waits in the merge buffer, and every other byte of buffer memory reads as before. -/
def Obligations.BufferWriteStoresItsBytes : Prop :=
  ∀ (s : State) (addr : BitVec 44) (bytes : List Byte) (poison : Bool), MergeSound s.dram →
    (∀ g, sget 0 s.dram.err g = 0) → s.get DMC.FLIP_CTL.ARM = 0 → addr.toNat + bytes.length ≤ usableBytes s →
    Completes (.bufferWrite addr bytes poison) s fun t =>
      (∀ a, a < addr.toNat ∨ addr.toNat + bytes.length ≤ a → bufferByte t a = bufferByte s a) ∧
      ∀ k, k < bytes.length → bufferByte t (addr.toNat + k) = bytes.getD k 0

/-- Buffer memory keeps its form (R392). Each command of the buffer and its DRAM keeps the cells in canonical form,
strictly rising with none equal to what an unlisted byte reads as, and the merge buffer sound: 32 bytes and a mask of
32 for each entry, and no granule with two. -/
def Obligations.BufferMemoryKeepsItsForm : Prop :=
  ∀ (s t : State) (c : Consumer) (addr : BitVec 44) (n : Nat) (soft : List (Nat × BitVec 288)) (bytes : List Byte)
    (poison : Bool) (q : Req) (w : BitVec 32) (e : BitVec 288) (fail : Option (Fin 3 × BitVec 28)) (ch : Fin 2)
    (rate bucket : Fin 3), Memory.wf s.dram = true → MergeSound s.dram →
    ∀ i ∈ [Instr.bufferRead c addr n soft, .bufferWrite addr bytes poison, .mergeFlushTimeout, .mergeFlush q w,
      .scrubStep e, .bufferTestStart q w, .bufferTestComplete fail, .dramRefreshRateChange ch rate, .bucketLeak bucket,
      .dmcFlipArm q w], exec i s = .next t → Memory.wf t.dram = true ∧ MergeSound t.dram

/-- Buffer memory and its DRAM (R389-R395, R401, R433, R617). A read answers its bytes and whether one is poisoned, a
write stores them; beyond USABLE_TOP a core's read takes a data abort, an engine's completes, and a write stores
nothing (the answers there are the model's choice, log 60); partial writes are merged and flushed; the scrubber
corrects the granule at its position; the leaky buckets leak; a test starts and ends; channels train, and the refresh
rate follows. -/
def Obligations.BufferCommands : Prop :=
  ∀ (s : State) (c : Consumer) (addr : BitVec 44) (len : Nat) (soft : List (Nat × BitVec 288)) (bytes : List Byte)
    (poison : Bool) (q : Req) (w : BitVec 32) (ch : Fin 2),
    let a := addr.toNat
    (a + len ≤ usableBytes s →
      let r := memRead (softErrors s soft) c a len
      (r.1.poison = true → c = .core → exec (.bufferRead c addr len soft) s = .next (r.2.reply 2 [])) ∧
      (r.1.poison = false ∨ c ≠ .core → exec (.bufferRead c addr len soft) s =
        .next (r.2.reply (if r.1.poison then 1 else 0) r.1.bytes))) ∧
    (usableBytes s < a + len → (c = .core → exec (.bufferRead c addr len soft) s = .next (s.reply 2 [])) ∧
      (c ≠ .core → Completes (.bufferRead c addr len soft) s fun t =>
        StoresKept s t ∧ t.answer.status = 0 ∧ t.answer.data.length = len)) ∧
    (a + bytes.length ≤ usableBytes s →
      exec (.bufferWrite addr bytes poison) s =
        .next (memWrite (bandsWritten s a bytes.length) a (bytes.map (·.toNat)) poison)) ∧
    (usableBytes s < a + bytes.length → exec (.bufferWrite addr bytes poison) s = .next (s.reply 2 [])) ∧
    (∀ m ms, s.dram.merge = m :: ms → exec .mergeFlushTimeout s = .next (flushEntry s m)) ∧
    (Admits s q bufPage 0x058 → BUF.MERGE_CTL.FLUSH.of w = 1 →
      exec (.mergeFlush q w) s = .next (flushMerge (plainWrite (s.reply 0 []) q bufPage 0x058 w))) ∧
    (∀ e : BitVec 288, s.get DMC.DMC_CTL.SCRUB_EN ≠ 0 → running s dmcPage = true → domainLive s dmcPage.domain = true →
      usableBytes s / 32 ≠ 0 →
      let g := s.get DMC.SCRUB_POS.GRANULE
      let t := scrubGranule (softErrors s [(g, e)]) g
      (g + 1 < usableBytes s / 32 → exec (.scrubStep e) s = .next (t.put DMC.SCRUB_POS.GRANULE (g + 1))) ∧
      (usableBytes s / 32 ≤ g + 1 →
        exec (.scrubStep e) s = .next (raise (t.put DMC.SCRUB_POS.GRANULE 0) dmcPage 3 7))) ∧
    exec (.bucketLeak 2) s = .next (s.put TCM.CE_LEVEL.LEVEL (s.get TCM.CE_LEVEL.LEVEL - 1)) ∧
    (∀ bucket : Fin 3, bucket ≠ 2 → exec (.bucketLeak bucket) s =
      .next (s.put DMC.CE_LEVEL.LEVEL (s.get DMC.CE_LEVEL.LEVEL 0 bucket.val - 1) 0 bucket.val)) ∧
    (Admits s q dmcPage 0x078 → DMC.FLIP_CTL.ARM.of w = 1 →
      exec (.dmcFlipArm q w) s = .next ((plainWrite (s.reply 0 []) q dmcPage 0x078 w).put DMC.FLIP_CTL.ARM 1)) ∧
    (Admits s q dmcPage 0x088 → DMC.TEST_CTL.GO.of w ≠ 0 → s.get DMC.TEST_CTL.BUSY ≠ 1 →
      let t := plainWrite (s.reply 0 []) q dmcPage 0x088 w
      t.get HDR.PAGE_CTL.ENABLE dmcPage.index ≠ 1 → exec (.bufferTestStart q w) s =
        .next ((t.setDram { t.dram with testing := t.get DMC.TEST_CTL.PATTERN }).put DMC.TEST_CTL.BUSY 1)) ∧
    (∀ fail : Option (Fin 3 × BitVec 28), s.get DMC.TEST_CTL.BUSY ≠ 0 → exec (.bufferTestComplete fail) s =
      .next ((testEnds s s.dram.testing (fail.map fun x => (x.1.val, x.2.toNat))).put DMC.TEST_CTL.BUSY 0)) ∧
    (∀ ok : BitVec 2,
      let good := s.get DMC.DMC_CTL.CH_EN &&& ok.toNat
      exec (.dramTrainingComplete ok) s = .next (raiseIf (good ≠ s.get DMC.DMC_CTL.CH_EN)
        (s.put DMC.DMC_STAT.TRAINED good) dmcPage 5 1)) ∧
    (∀ ok : Bool, bit (s.get DMC.DMC_CTL.CH_EN) ch.val = true → exec (.dramRetrain ch ok) s = .next (raiseIf (!ok)
      (s.put DMC.DMC_STAT.TRAINED (setBit (s.get DMC.DMC_STAT.TRAINED) ch.val ok)) dmcPage 5 1)) ∧
    ∀ rate : Fin 3,
      let t := s.setDram { s.dram with refresh := sset 0 s.dram.refresh ch.val rate.val }
      let top := ((bitList 2 (t.get DMC.DMC_CTL.CH_EN)).map (sget 0 t.dram.refresh)).foldl max 0
      exec (.dramRefreshRateChange ch rate) s = .next (raiseIf
        (t.get DMC.DMC_STAT.REFRESH = 0 && 0 < top) (t.put DMC.DMC_STAT.REFRESH top) dmcPage 6 7)

/-- The L2 cache (R17, R433, R435-R444, R611). An access beyond USABLE_TOP answers an error; one that hits is served
by its line, one that misses allocates; a preload and a maintenance operation start, and complete with their events;
the drain of a disabling cache ends in OFF. -/
def Obligations.CacheCommands : Prop :=
  ∀ (s : State) (addr : BitVec 38) (len : Nat) (data : Option (List Byte)) (pre l1 : Bool) (bad : List Nat) (q : Req)
    (w : BitVec 32),
    let a := addr.toNat
    let bytes := data.map fun bs => bs.map (·.toNat)
    let t := if l1 then l2Count s L2C.L1_ERR.COUNT else s
    (usableBytes t < a + len → exec (.l2Access addr len data pre l1 bad) s = .next (t.reply 1 [])) ∧
    (a + len ≤ usableBytes t → domainLive t l2cPage.domain = true → l2Mode t = l2On →
      (l2Find t (a / 64) = none →
        exec (.l2Access addr len data pre l1 bad) s = .next (l2Miss t a len bytes pre bad)) ∧
      ∀ k x, l2Find t (a / 64) = some k → t.l2Line k = some x →
        let u := t.bump L2C.HIT_CNT.COUNT
        (data.isSome = true ∨ l2Bad u bad k = false →
          exec (.l2Access addr len data pre l1 bad) s = .next (l2Hit u k x a len bytes pre)) ∧
        (data = none → l2Bad u bad k = true → x.dirty = true → pre = false →
          exec (.l2Access addr len data pre l1 bad) s =
            .next ((consumePoison (l2Fault u k bad) .core (a / 32)).reply 1 []))) ∧
    (a + len ≤ usableBytes t → l2Mode t ≠ l2On → l2Mode t ≠ l2Draining →
      exec (.l2Access addr len data pre l1 bad) s = .next (l2Direct t a len bytes pre)) ∧
    (Admits s q l2cPage 0x074 → s.get L2C.PRELOAD_CTL.BUSY ≠ 1 → L2C.PRELOAD_CTL.GO.of w ≠ 0 →
      let u := plainWrite (s.reply 0 []) q l2cPage 0x074 w
      let job := (u.get L2C.PRELOAD_ADDR.ADDR * 64, 64 * min 384 (max 1 (u.get L2C.PRELOAD_CTL.PAGES)),
        u.get L2C.PRELOAD_CTL.WAYS)
      l2Mode u = l2On → exec (.l2PreloadStart q w) s =
        .next (({ u with l2 := { u.l2 with preload := some job } } : State).put L2C.PRELOAD_CTL.BUSY 1)) ∧
    (∀ line n ways, s.l2.preload = some (line, n, ways) →
      let r := if l2Mode s = l2On then l2PreloadLines ways n line s else (false, s)
      exec .l2PreloadComplete s = .next (raise ((({ r.2 with l2 := { r.2.l2 with preload := none } } : State).put
        L2C.PRELOAD_CTL.RESULT (if r.1 then 0 else if l2Mode s = l2On then 2 else 1)).put L2C.PRELOAD_CTL.BUSY 0) l2cPage 3 7)) ∧
    (Admits s q l2cPage 0x07C → s.get L2C.MAINT_CMD.BUSY ≠ 1 → L2C.MAINT_CMD.GO.of w ≠ 0 →
      let u := plainWrite (s.reply 0 []) q l2cPage 0x07C w
      let n := u.get L2C.MAINT_CMD.LINES
      let job := (u.get L2C.MAINT_CMD.OP, u.get L2C.MAINT_ADDR.ADDR, if n = 0 then 65536 else n)
      let t := ({ u with l2 := { u.l2 with maint := some job } } : State).put L2C.MAINT_CMD.BUSY 1
      exec (.l2CleanAll q w) s = .next t ∧ exec (.l2Clean q w) s = .next t ∧ exec (.l2Invalidate q w) s = .next t ∧
        exec (.l2CleanInvalidate q w) s = .next t) ∧
    (∀ op line n, s.l2.maint = some (op, line, n) →
      let hit := s.l2.lines.filter fun x => x.2.any fun y => op = 0 || (line ≤ y.line && decide (y.line < line + n))
      let t := hit.foldl (fun s x =>
        let s := if op = 2 then s else l2WriteBack s x.1
        if op = 2 || op = 3 then s.setL2Line x.1 none else s) s
      exec .l2MaintComplete s = .next (raise
        (({ t with l2 := { t.l2 with maint := none } } : State).put L2C.MAINT_CMD.BUSY 0) l2cPage 4 7)) ∧
    (l2Mode s = l2Draining →
      let t := raise (l2Empty s) l2cPage 2 7
      (t.get HDR.PAGE_CTL.ENABLE l2cPage.index = 0 → exec .l2DrainComplete s = .next (pageOff t l2cPage)) ∧
      (t.get HDR.PAGE_CTL.ENABLE l2cPage.index ≠ 0 → pageState t l2cPage = stEasing →
        exec .l2DrainComplete s = .next (setPageState t l2cPage stHold)))

/-- Tightly coupled memory (R433, R436, R447-R450). A write stores its bytes; a read answers them, and answers an
error when a word it takes is poisoned; soft errors change the stored word first. CLEAR zeroes its pages at once and
is busy until it is complete; ARM arms the flip. -/
def Obligations.TcmCommands : Prop :=
  ∀ (s : State) (off : BitVec 22) (n : Nat) (e : BitVec 72) (q : Req) (w : BitVec 32),
    let a := off.toNat
    let x := s.tcmWord (a / 8)
    let struck := if x.valid then s.setTcmWord (a / 8) { x with err := x.err ^^^ e.toNat } else s
    let r := tcmRead struck a n
    (∀ v : BitVec 64, exec (.tcmAccess off n (some v) e) s = .next ((tcmWrite struck a (leBytes n v.toNat)).reply 0 [])) ∧
    (r.1.2 = false → exec (.tcmAccess off n none e) s = .next (r.2.reply 0 [leNat r.1.1])) ∧
    (r.1.2 = true → exec (.tcmAccess off n none e) s = .next ((tcmPoison r.2 .core).reply 1 [])) ∧
    (Admits s q tcmPage 0x044 → s.get TCM.CLEAR_CTL.BUSY = 0 → TCM.CLEAR_CTL.GO.of w = 1 →
      let t := plainWrite (s.reply 0 []) q tcmPage 0x044 w
      let lo := t.get TCM.CLEAR_ADDR.PAGE * 512
      let hi := lo + max 1 (t.get TCM.CLEAR_CTL.PAGES) * 512
      exec (.tcmClearStart q w) s = .next (({ t with tcm := { t.tcm with
        words := t.tcm.words.filter fun x => !(lo ≤ x.1 && decide (x.1 < hi)) } } : State).put TCM.CLEAR_CTL.BUSY 1)) ∧
    exec .tcmClearComplete s = .next (s.put TCM.CLEAR_CTL.BUSY 0) ∧
    (Admits s q tcmPage 0x058 → TCM.FLIP_CTL.ARM.of w = 1 →
      exec (.tcmFlipArm q w) s = .next ((plainWrite (s.reply 0 []) q tcmPage 0x058 w).put TCM.FLIP_CTL.ARM 1))

/-- Burez links and events (R18, R27-R30, R32, R48, R54, R55, R462, R491). A good or a failed flit, which arrives only
where no flit of an earlier class waits, the end of training either way, LINK_EN; an event's notice that can move
wakes its subscribers and is reported unless masked; a block fault takes its page to FAULT. -/
def Obligations.LinkAndEventCommands : Prop :=
  ∀ (s : State) (link : Fin 4) (q : Req) (w : BitVec 32),
    let n := link.val
    (∀ toCox cls (dom : Fin 96) (epoch : BitVec 8), linkUp s n = true → linkTraining s n = false →
      (flitTurn s n toCox cls = true →
        exec (.flitReceive link toCox true cls dom epoch) s = .next (flitGood s n toCox cls dom.val epoch.toNat) ∧
        exec (.flitReceive link toCox false cls dom epoch) s = .next (flitFails s n toCox)) ∧
      (∀ f ∈ flitQueue s n toCox, flitRank (flitClass f) < flitRank cls →
        exec (.flitReceive link toCox true cls dom epoch) s = .next s)) ∧
    (linkTraining s n = true →
      ((s.link n).attempts + 1 < 3 → exec (.linkTrainingFail link) s =
        .next (s.setLink n { s.link n with attempts := (s.link n).attempts + 1 })) ∧
      (3 ≤ (s.link n).attempts + 1 → exec (.linkTrainingFail link) s = .next (linkDown s n 5)) ∧
      let t := workGoesOn (serveAsks (serveLink n (moveAllFlits (trained s n))) n) n
      exec (.linkTrainingComplete link) s = .next (schSettle t (t.nvme.cmds.map (·.zone)).eraseDups)) ∧
    (Admits s q ⟨.brz, 0⟩ 0x040 →
      let t := plainWrite (s.reply 0 []) q ⟨.brz, 0⟩ 0x040 w
      let u := (List.range 4).foldl (linkSwitch (s.get BRZ.BRZ_CTL.LINK_EN) (t.get BRZ.BRZ_CTL.LINK_EN)) t
      exec (.linkEnable q w) s = .next u ∧ exec (.linkDisable q w) s = .next u) ∧
    (∀ x, s.notices.find? (noticeMoves s) = some x →
      let t := eventWake { s with notices := s.notices.erase x } x.event
      exec .eventNotice s = .next (if recMasked t x.event then report t (noticeRecord x) else t)) ∧
    ∀ (page : BitVec 14) p, pageAt page.toNat = some p → domainLive s p.domain = true → pageState s p ≠ stFault →
      exec (.blockFault page) s = .next (fatalFault s p)

/-- The master stroke (R24, R25, R27, R39, R40, R42, R43, R45, R46, R185, R186, R199, R414, R571). A catch counts the
stroke and takes its length; tokens carry it to the dies, which count their own; an action is launched in its unit, or
overruns; WINH inhibits every actuator and releases them. -/
def Obligations.StrokeCommands : Prop :=
  ∀ (s : State) (die : Fin 3) (skew : Int),
    let d := die.val
    let next := (s.gen.stroke + 1) % 2 ^ 48
    (let t := strokeLength { s with gen := { s.gen with stroke := next } };
      let t := if t.get BRZ.STROKE_STAT.MODE = 2 then tryLock t else t;
      let t := (List.range 4).foldl senseFlit t;
      (domainLive t rgtPage.domain = true → exec .strokeCatch s = .next (rgtCatch t)) ∧
      (domainLive t rgtPage.domain = false → exec .strokeCatch s = .next t)) ∧
    exec .catchTokenSend s = .next (sendToken { s with gen := { s.gen with token := some next } } 2 true next) ∧
    (∀ n, dieTraining s ((tokenWay d).1 + 1) = false → tokenWaiting s (tokenWay d).1 (tokenWay d).2 = some n →
      let r := takeToken s (tokenWay d).1 (tokenWay d).2 n
      let x := r.timer d
      let u := skewField d
      let v := unsigned 8 (clampI (-128) 127 skew)
      let sent (t : State) : State := moveAllFlits (if d = 0 then sendToken (sendToken t 0 false n) 1 false n else t)
      let on (t : State) : State := (List.range 3).foldl (fun s n => serveLink n s) (sent t)
      (x.stroke = none → exec (.catchTokenReceive die skew) s = .next (on ((r.setTimer d { x with
        stroke := some ((n + 2 ^ 48 - 1) % 2 ^ 48), gotToken := true, adjust := 0 }).put u v))) ∧
      (∀ m, x.stroke = some m → exec (.catchTokenReceive die skew) s = .next (on ((r.setTimer d { x with
        gotToken := x.gotToken || (m + 1) % 2 ^ 48 = n, adjust := skew }).put u v)))) ∧
    (∀ n, (s.timer d).stroke = some n →
      let m := (n + 1) % 2 ^ 48
      let t := (tokenLate s d).setTimer d { stroke := some m }
      (d = 0 → exec (.localCatch die) s = .next t) ∧ (d ≠ 0 → exec (.localCatch die) s = .next (oarCatch t (d - 1) m))) ∧
    (∀ kind (inst : Fin 8) (tag : Fin 32) (head : Fin 8) (band : Fin 48) (low : BitVec 16) (phase : BitVec 12),
      let r := actionLaunch s kind inst.val tag.val head.val band.val low.toNat phase.toNat
      exec (.actionLaunch kind inst tag head band low phase) s = .next (r.2.reply r.1 [])) ∧
    (∀ kind (inst : Fin 8) x, s.launches.find? (fun x => x.kind = kind && x.inst = inst.val &&
        decide (x.stroke < strokeAt s (launchDie x))) = some x →
      exec (.actionOverrun kind inst) s = .next (overrun { s with launches := s.launches.erase x } x)) ∧
    (s.wires.winh ≠ [] → s.wires.winhSeen = false → exec .winhAssert s =
      .next ((List.range 4).foldl winhInhibit { s with wires := { s.wires with winhSeen := true } })) ∧
    (s.wires.winh = [] → s.wires.winhSeen = true → exec .winhRelease s = .next ((List.range 4).foldl
      (fun s a => startRelease s a .winh) { s with wires := { s.wires with winhSeen := false } }))

/-- The formatter (R75, R77, R78, R81, R89-R91, R93, R271, R560). A translation answers its status, physical address
and strand; a skip joins its band's list in rising order, or is remapped; the media write pointer is written, or waits
for its entry's lock; a lock is taken and released; the map scan runs and ends; XLAT_REQ translates for firmware. -/
def Obligations.FormatCommands : Prop :=
  ∀ (s : State) (zone : Nat) (off : BitVec 32) (head : Fin 32) (band slot : Nat) (q : Req) (w : BitVec 32)
    (racing : List Nat),
    (running s fmtPage = true → domainLive s fmtPage.domain = true →
      let r := translate s zone off.toNat
      exec (.fmtTranslate zone off) s = .next (r.2.reply r.1.status.code [r.1.psa, r.1.strand])) ∧
    (formatOk s = true → band < s.get FMT.BANDS_PER_RB.COUNT * 48 →
      let r := readBand s head.val band
      let e := r.1.1
      let b := rateBand s (band / s.get FMT.BANDS_PER_RB.COUNT)
      (e.kind = 2 → ∀ x y, nthUsable b [] (bandTracks b true) (16384 + e.count) = some (x, y) →
        let dst := x * b.spt + y
        let t := (readRemaps r.2 e).2
        let t := memWrite t (skipListAddr t e + 8 * e.count) (leBytes 8 (slot % 2 ^ 19 + dst * 2 ^ 32))
        let t := memWrite t (bandEntryAddr t head.val band) { e with count := e.count + 1 }.bytes
        exec (.skipListAppend head band slot) s =
          .next ((warnSlack t head.val band (e.count + 1) (bandSlack b true)).reply 0 [dst])) ∧
      (e.kind ≠ 2 →
        let l := readSkips r.2 e
        let skips := insertRising slot l.1.1
        skips.length ≤ bandSlack b false →
        let t := memWrite l.2 (skipListAddr l.2 e) (skips.flatMap (leBytes 4))
        let t := memWrite t (bandEntryAddr t head.val band) { e with count := skips.length }.bytes
        exec (.skipListAppend head band slot) s =
          .next ((warnSlack t head.val band skips.length (bandSlack b false)).reply 0 []))) ∧
    (zoneLocked s zone = true → exec (.mwpUpdate zone off) s = .next (State.reply
      { s with fmt := { s.fmt with deferred := s.fmt.deferred ++ [(zone, off.toNat)] } } 0 [])) ∧
    (zoneLocked s zone = false → exec (.mwpUpdate zone off) s = .next ((writeMwp s zone off.toNat).reply 0 [])) ∧
    (Admits s q fmtPage 0x068 →
      let t := plainWrite (s.reply 0 []) q fmtPage 0x068 w
      (s.get FMT.ENTRY_LOCK.VALID ≠ 1 → exec (.entryLockAcquire q w) s = .next t) ∧
      (s.get FMT.ENTRY_LOCK.VALID = 1 → s.get FMT.ENTRY_LOCK.ZONE = FMT.ENTRY_LOCK.ZONE.of w →
        t.get FMT.ENTRY_LOCK.VALID = 0 → exec (.entryLockRelease q w) s = .next (applyDeferred t))) ∧
    (Admits s q fmtPage 0x040 → FMT.FMT_CTL.SCAN.of w = 1 →
      exec (.mapScanStart q w) s = .next (((plainWrite (s.reply 0 []) q fmtPage 0x040 w).put FMT.FMT_CTL.SCAN 1).put
        FMT.FMT_STAT.SCAN_BUSY 1)) ∧
    (s.get FMT.FMT_STAT.SCAN_BUSY = 1 →
      let r := mapScan racing s
      exec (.mapScanComplete racing) s =
        .next (((r.2.put FMT.SCAN_RES.FAIL_CNT r.1).put FMT.FMT_CTL.SCAN 0).put FMT.FMT_STAT.SCAN_BUSY 0)) ∧
    (Admits s q fmtPage 0x078 → FMT.XLAT_REQ.GO.of w = 1 →
      let t := plainWrite (s.reply 0 []) q fmtPage 0x078 w
      let r := translate t (t.get FMT.XLAT_REQ.ZONE) (t.get FMT.XLAT_OFF.OFFSET)
      let u := r.2.put FMT.XLAT_HI.STATUS r.1.status.code
      (r.1.status = .ok → exec (.xlatTest q w) s =
        .next (((u.put FMT.XLAT_LO.PSA_LO (r.1.psa % 2 ^ 32)).put FMT.XLAT_HI.PSA_HI (r.1.psa / 2 ^ 32)).put
          FMT.XLAT_HI.STRAND r.1.strand)) ∧
      (r.1.status ≠ .ok → exec (.xlatTest q w) s = .next u))

/-- The channel front end (R99, R100, R116, R120, R122, R123, R128, R134, R181, R251). A frame is read while read gate
is open or a write waits for its verify, and goes to its detector unless its read stopped; READ_GATE opens at its
stroke, with the offset of a re-read; SBUF_CMD pins and unpins entries of the sample buffer and answers in RESULT;
SBUF_DATA reads the selected samples. -/
def Obligations.FrontEndCommands : Prop :=
  ∀ (s : State) (q : Req) (lane : Fin 8) (w : BitVec 32),
    let n := lane.val
    let entry := LANE.SBUF_CMD.ENTRY.of w
    let x := (s.lane n).entry entry
    (∀ f : FrameIn, mayRead s n f = true →
      let t := readFrame s n f
      (frameStopped f = true → exec (.frameRead lane f) s = .next t) ∧
      (frameStopped f = false → exec (.frameRead lane f) s = .next (t.setLane n { t.lane n with
        passes := (t.lane n).passes ++ [onlinePass t n (runFrame s n f) (nextEntry (s.lane n))] }))) ∧
    (∀ x t, takeLaunch s .readGate n (n / 4 + 1) = some (x, t) → pre5Good t = true →
      let u := serveHead (closeReadGate t n) n x.head
      let u := (u.setLane n { u.lane n with readGate := true, serves := x.tag }).put LANE.FE_STAT.STATE 1 n
      (rereading u n = none → exec (.readGateOpen lane) s = .next u) ∧
      (∀ g, rereading u n = some g → exec (.readGateOpen lane) s =
        .next (setOffset u (n / 2) x.head (rdiv (signed 8 (g.byte 7) * 16384) 100)))) ∧
    (Admits s q (lanePage n) 0x09C →
      (LANE.SBUF_CMD.OP.of w = 1 → entry < 72 →
        (LANE.SBUF_CMD.GEN_CHK.of w = 1 → x.gen = LANE.SBUF_CMD.GEN.of w) → (x.pinned = true ∨ pinCount (s.lane n) < 8) →
        exec (.sbufPin q lane w) s =
          .next (((s.reply 0 []).setLane n ((s.lane n).setEntry entry { x with fwPin := true })).put
            LANE.SBUF_STAT.RESULT 0 n)) ∧
      (LANE.SBUF_CMD.OP.of w = 2 → entry < 72 → x.fwPin = true →
        exec (.sbufUnpin q lane w) s =
          .next (((s.reply 0 []).setLane n ((s.lane n).setEntry entry { x with fwPin := false })).put
            LANE.SBUF_STAT.RESULT 0 n)) ∧
      (LANE.SBUF_CMD.OP.of w = 3 →
        exec (.sbufUnpinAll q lane w) s =
          .next (((s.reply 0 []).setLane n (sbufUnpinAll (s.lane n))).put LANE.SBUF_STAT.RESULT 0 n))) ∧
    (Serves s q (lanePage n) 0x0B0 →
      exec (.sbufDataRead q lane) s =
        .next ((sbufDataRead n s).2.reply 0 [(sbufDataRead n s).1]))

/-- Unpinning frames (R128). OP 0b10 for an entry that firmware has not pinned reads NOT_PINNED and changes no entry;
neither it nor OP 0b11 releases a pin held by LDP, and OP 0b11 releases every firmware pin. -/
def Obligations.UnpinReleasesOnlyFirmwarePins : Prop :=
  ∀ (s : State) (q : Req) (lane : Fin 8) (w : BitVec 32), Admits s q (lanePage lane.val) 0x09C →
    let n := lane.val
    let entry := LANE.SBUF_CMD.ENTRY.of w
    (LANE.SBUF_CMD.OP.of w = 2 → entry < 72 → ((s.lane n).entry entry).fwPin = false →
      Completes (.sbufUnpin q lane w) s fun t => t.get LANE.SBUF_STAT.RESULT n = 3 ∧ ∀ m, t.lane m = s.lane m) ∧
    (LANE.SBUF_CMD.OP.of w = 2 → Completes (.sbufUnpin q lane w) s fun t =>
      ∀ m e, ((t.lane m).entry e).ldpPin = ((s.lane m).entry e).ldpPin) ∧
    (LANE.SBUF_CMD.OP.of w = 3 → Completes (.sbufUnpinAll q lane w) s fun t =>
      (∀ m e, ((t.lane m).entry e).ldpPin = ((s.lane m).entry e).ldpPin) ∧
      (∀ e, e < 72 → ((t.lane n).entry e).fwPin = false) ∧ ∀ m, m ≠ n → t.lane m = s.lane m)

/-- Detection, decoding and replay (R134, R137, R139-R141, R144, R145, R149, R156-R160). The end of a detection, a
decode, a replay pass and an abort pass the codeword on and dispatch the next work; a parity fault disables its core;
COEF_DATA, COEF_COMMIT and a firmware replay do what their registers say; a firmware replay ends with its record and
its data. -/
def Obligations.DetectionCommands : Prop :=
  ∀ (s : State) (ldp : Fin 2) (aged : Nat) (q : Req) (w : BitVec 32),
    let n := ldp.val
    let l := s.ldp n
    (∀ (lane : Fin 4) p rest, (s.lane (laneNo n lane.val)).passes = p :: rest →
      let m := laneNo n lane.val
      exec (.detectionComplete ldp lane aged) s = .next (dispatch (detectionEnds
        (s.setLane m { s.lane m with passes := rest }) n
        { codewordOf lane.val p with aborted := tagAborted s m p.tag }) n aged)) ∧
    (∀ (core : Fin 6) c, sget none l.cores core.val = some c → exec (.decodeComplete ldp core aged) s =
      .next (ldpSettle (dispatch (decodeEnds (s.setLdp n { l with cores := sset none l.cores core.val none }) n c) n
        aged) n)) ∧
    (∀ (det : Fin 2) c, sget none l.det det.val = some c →
      let t := s.setLdp n { l with det := sset none l.det det.val none }
      (onlineBackward c = true →
        exec (.replayPassComplete ldp det aged) s = .next (dispatch (joinOnline t n c) n aged)) ∧
      (onlineBackward c = false →
        exec (.replayPassComplete ldp det aged) s = .next (dispatch (t.setLdp n { t.ldp n with
          ready := (t.ldp n).ready ++ [{ c with llr := c.step ≤ 2 }] }) n aged))) ∧
    (∀ c, l.all.find? (fun c => c.aborted && decide (0 < c.step)) = some c →
      let held := l.cores.any fun e => e.2 = some c
      exec (.sectorAbortEnd ldp aged) s = .next (ldpSettle (dispatch
        (endSector (s.setLdp n (removeCodeword l c)) n (if held then c else lastRun c) 6 0xFFFF) n aged) n)) ∧
    (∀ core : Fin 6,
      let held := (sget none l.cores core.val).toList
      let en := setBit (s.get LDP.CORE_EN.EN n) core.val false
      let t := s.setLdp n { l with cores := sset none l.cores core.val none, restarts := l.restarts ++ held }
      let t := (t.put LDP.CORE_EN.EN en n).bump LDP.CORE_ERR.PARITY_CNT 1 n
      let t := t.put LDP.LDP_STAT.CORE_FAULT (setBit (t.get LDP.LDP_STAT.CORE_FAULT n) core.val true) n
      (en = 0 → exec (.coreParityFault ldp core aged) s = .next (pageFault t (ldpPage n) 7 3)) ∧
      (en ≠ 0 → exec (.coreParityFault ldp core aged) s = .next (dispatch (raise t (ldpPage n) 7 1) n aged))) ∧
    (Admits s q (ldpPage n) 0x064 →
      exec (.ldpCoefDataAccess q ldp (some w)) s = .next (ldpCoefWrite n w (s.reply 0 []))) ∧
    (Serves s q (ldpPage n) 0x064 → exec (.ldpCoefDataAccess q ldp none) s =
      .next ((ldpCoefStep s n).reply 0 [sget 0 l.coef (ldpCoefKey s n)])) ∧
    (Admits s q (ldpPage n) 0x068 → LDP.COEF_COMMIT.GO.of w = 1 →
      let t := spoil (s.reply 0 []) n (s.get LDP.COEF_MASK.HEADS n)
      exec (.ldpCoefCommit q ldp w) s =
        .next (ldpCommit n (LDP.COEF_COMMIT.STROKE.of w) (t.get LDP.COEF_MASK.HEADS n) t)) ∧
    (Admits s q (ldpPage n) 0x07C → LDP.RP_CMD.GO.of w = 1 → s.get LDP.RP_CMD.BUSY n ≠ 1 →
      let e := s.get LDP.RP_DESC0.ENTRY n
      let m := laneNo n (s.get LDP.RP_DESC0.LANE n)
      let t := if e ≤ 71 && ((s.lane m).entry e).age = 0 then unknownEntry (s.reply 0 []) m e else s.reply 0 []
      let x := (t.lane m).entry e
      (71 < e → exec (.fwReplayStart q ldp w) s = .next (fwReplayEnd t n 9)) ∧
      (e ≤ 71 → s.get LDP.RP_DESC0.GEN_CHK n = 1 → x.gen ≠ s.get LDP.RP_DESC0.GEN n →
        exec (.fwReplayStart q ldp w) s = .next (fwReplayEnd t n 8)) ∧
      (e ≤ 71 → (s.get LDP.RP_DESC0.GEN_CHK n = 1 → x.gen = s.get LDP.RP_DESC0.GEN n) →
        metaSrc x.words ≠ 3 → ldpStarts t n = true → exec (.fwReplayStart q ldp w) s =
          .next ((t.setLdp n { t.ldp n with fw := some (fwCodeword t n) }).put LDP.RP_CMD.BUSY 1 n))) ∧
    (∀ c, l.fw = some c →
      let llr := window c.soft (framingOfs c.words + c.adj)
      let x := decode llr (max 1 (s.get LDP.RP_DESC1.ITER n))
      let status := decodeStatus c.psa (16 * n + c.head) c.trialSector x.1
      let r := resultRecord c status x.2 c.adj (syndromeWeight x.1) (if status = 0 then rawErrors llr x.1 else 0xFFFF)
        false + ((if c.spans then 2 else 0) + (if c.trial = 1 then 4 else 0)) * 2 ^ 112
      let t := countTagFail ((s.setLdp n { l with fw := none }).bump LDP.CW_TOTAL.COUNT 1 n) n c status
      let t := if status = 0 then countAccepted t n c x.2 else t
      let t := (List.range 4).foldl (fun s k => s.put LDP.RP_RES.RECORD (bits r (32 * k) 32) n k) t
      (t.get LDP.RP_DEST.ADDR n = 0 → exec (.fwReplayComplete ldp) s = .next (fwReplayEnd t n status)) ∧
      (t.get LDP.RP_DEST.ADDR n ≠ 0 → exec (.fwReplayComplete ldp) s = .next (fwReplayEnd
        (memWrite t (t.get LDP.RP_DEST.ADDR n * 4096)
          (if c.trialSector then payloadBytes x.1 else scramble c.psa (payloadBytes x.1))) n status)))

/-- Write gates (R58, R162, R164, R165, R172, R179, R181, R182, R185-R187, R367). A gate that its launch opens passes
the checks of R191 and begins; at a wedge the segment counts on; a position error beyond its limit inhibits; forced
inhibit holds and goes; a verify result is judged. -/
def Obligations.WriteGateCommands : Prop :=
  ∀ (s : State) (ast : Fin 4) (head : Fin 8) (lane : Fin 8) (q : Req) (w : BitVec 32) (rwo : Int),
    let a := ast.val
    let h := head.val
    let n := lane.val
    let d := n / 4
    (∀ x t tg, takeLaunch s .writeGate n (d + 1) = some (x, t) → x.tag = some tg → (s.tag n tg).st = .taken →
      (s.tag n tg).writes = true → (s.lane n).job tg = none →
      laneHolds (s.lane n) (trackKey (s.tag n tg).psa) = false →
      let band := psaBand s (s.tag n tg).psa
      gateRefusal s (n / 2) x.head x.stroke band = 0 → preampLive s (n / 2) = true →
      let u := if (s.tag n tg).fullAssist then takeAssistPermit t n tg else t
      (fullPower s (n / 2) x.head band = true → bit (u.get SCH.PERMIT_STAT.ASSIST) n = true) →
      exec (.writeGateOpen lane rwo) s = .next (openGate u n x.head tg rwo)) ∧
    (∀ j, (s.lane n).write = some j → (s.lane n).writeGate = true →
      let sl := segBits s (psaTrack j.key)
      let j' := j.cross sl (strokeAt s (d + 1))
      exec (.writeWedgeCross lane) s = .next (advanceWrite n sl (j.frames.length + 1) j'
        (s.setLane n { s.lane n with write := some j' }))) ∧
    (∀ j, (lanesOf a).findSome? (fun n => (s.lane n).write.filter fun j => j.head = h) = some j →
      s.get SRV.PES.VALID a h ≠ 0 → wedgeWithin s a h (inhLimit s a j.conv) = false →
      let x := s.ast a
      let t := s.setAst a { x with
        inhPes := if x.inhPes.contains h then x.inhPes else x.inhPes ++ [h], good := sset 0 x.good h 0
        inhConv := if j.conv then (x.inhConv.erase h) ++ [h] else x.inhConv.erase h }
      let t := (t.bump AST.INH_CNT.PES_CNT 1 a).put AST.AST_STAT.INH_SRC 1 a
      exec (.pesInhibitCheck ast head) s = .next (dropGates (raise t (astPage a) 0 7) a (some h))) ∧
    (Admits s q (astPage a) 0x040 →
      let t := plainWrite (s.reply 0 []) q (astPage a) 0x040 w
      (s.get AST.AST_CTL.FORCE_INH a = 0 → t.get AST.AST_CTL.FORCE_INH a = 1 →
        exec (.forceInhibitSet q ast w) s = .next (inhibit t a .force)) ∧
      (s.get AST.AST_CTL.FORCE_INH a = 1 → t.get AST.AST_CTL.FORCE_INH a = 0 →
        exec (.forceInhibitClear q ast w) s = .next (t.setAst a { t.ast a with inh := (t.ast a).inh.erase .force }))) ∧
    ∀ r, ((dropStale s d).ldp d).results.find? (fun r => r.lane = n % 4 && r.verify) = some r →
      let t := dropStale s d
      let t := t.setLdp d { t.ldp d with results := (t.ldp d).results.erase r }
      (∀ j, verifyJob (t.lane n) (bits r.record 0 40) = some j →
        let slot := psaSlot (bits r.record 0 40)
        (isTrial slot = true → exec (.verifyResult lane) s = .next (verifyTrial t n j slot)) ∧
        (isTrial slot = false → exec (.verifyResult lane) s = .next (verifyJudge t n j r.record))) ∧
      (verifyJob (t.lane n) (bits r.record 0 40) = none → exec (.verifyResult lane) s = .next t)

/-- The assist and the preamp bus (R172, R173, R175, R177-R179, R185, R186, R190). A launch arms its head's elements
and queues its frames; an idle element goes off; a trim step waits for its stroke; frames leave in order; a read back
that differs is a head fault; firmware sends a frame; the fault line inhibits until it is released and its status
read; HEAD_DATA reads and writes its window. -/
def Obligations.AssistCommands : Prop :=
  ∀ (s : State) (ast : Fin 4) (head : Fin 8) (q : Req) (w : BitVec 32),
    let a := ast.val
    let x := s.ast a
    (∀ l t, takeLaunch s .assistStep a (a / 2 + 1) = some (l, t) → headFaulty t a l.head = false →
      assistKind t a l.head ≠ 0 → running t (astPage a) = true →
      let u := takeWords t a l.head
      let e := (u.ast a).elem l.head
      let now := strokeAt u (a / 2 + 1)
      let frames := armFrames u a l.head l.band
      (stepFits u a frames.length l.phase = true → exec (.assistArm ast) s = .next (u.setAst a
        { (u.ast a).setElem l.head { e with
            band := l.band, armStroke := if e.st = .armed then e.armStroke else now, idle := now } with
          frames := (u.ast a).frames ++ frames })) ∧
      (stepFits u a frames.length l.phase = false →
        exec (.assistArm ast) s = .next (raise (t.bump AST.STEP_ERR.NOFIT_CNT 1 a) (astPage a) 3 7))) ∧
    (s.get AST.AST_CTL.IDLE_OFF a ≠ 0 → (x.elem head.val).st ≠ .off →
      (x.elem head.val).idle + 512 * s.get AST.AST_CTL.IDLE_OFF a ≤ strokeAt s (a / 2 + 1) →
      exec (.assistIdleOff ast head) s = .next (elemOff s a head.val)) ∧
    (let t := plainWrite (s.reply 0 []) q (astPage a) 0x078 w;
      let step (t : State) (cal : Bool) : State := trimRequest t a (AST.TRIM_STEP.HEAD.of w)
        (signed 8 (AST.TRIM_STEP.STEP.of w)) (AST.TRIM_STEP.STROKE.of w) cal;
      (Admits s q (astPage a) 0x078 → AST.TRIM_STEP.GO.of w = 1 →
        exec (.trimStepRequest q ast w false) s = .next (step t false)) ∧
      (dieTraining s (astPage a).die = true → exec (.trimStepRequest q ast w true) s =
        .next (s.ask (.trim (8 * a + AST.TRIM_STEP.HEAD.of w) (signed 8 (AST.TRIM_STEP.STEP.of w))
          (AST.TRIM_STEP.STROKE.of w)))) ∧
      (dieTraining s (astPage a).die = false →
        (dieUp s (astPage a).die = true → working s (astPage a) = true → domainLive s (astPage a).domain = true →
          exec (.trimStepRequest q ast w true) s = .next (step s true)) ∧
        (dieUp s (astPage a).die = false →
          exec (.trimStepRequest q ast w true) s = .next (s.reply domainResetStatus [])))) ∧
    (∀ f (rd : BitVec 16), nextFrame x.frames = some f → working s (astPage a) = true → preampLive s a = true →
      (f.kind = .firmware → readbackDue s a = false) → exec (.pbusFrameSend ast rd) s = .next (frameSent s a f rd.toNat)) ∧
    (∀ codes, working s (astPage a) = true → preampLive s a = true → (∀ f ∈ x.frames, f.kind = .firmware) →
      let full := (armedHeads x).all fun h => codes.any fun c => c.1.val = h
      exec (.pbusReadback ast codes) s = .next (codes.foldl (readbackOne a)
        (if full then s.setAst a { x with readAt := strokeAt s (a / 2 + 1) } else s))) ∧
    (Admits s q (astPage a) 0x058 → s.get AST.PBUS_CMD.BUSY a ≠ 1 → AST.PBUS_CMD.GO.of w ≠ 0 →
      let t := plainWrite (s.reply 0 []) q (astPage a) 0x058 w
      (AST.PBUS_CMD.READ.of w = 1 ∨ ∀ h < 8, ((t.ast a).elem h).st = .off) →
      exec (.pbusCmdSend q ast w) s = .next ((t.setAst a { t.ast a with frames := (t.ast a).frames ++
        [⟨.firmware, AST.PBUS_CMD.HEAD.of w, AST.PBUS_CMD.ADDR.of w, AST.PBUS_CMD.DATA.of w,
          decide (AST.PBUS_CMD.READ.of w = 1)⟩] }).put AST.PBUS_CMD.BUSY 1 a)) ∧
    (s.get AST.PFLT_STAT.LINE a ≠ 1 → domainLive s (astPage a).domain = true → preampLive s a = true →
      let t := (s.put AST.PFLT_STAT.LINE 1 a).bump AST.INH_CNT.PFLT_CNT 1 a
      let f : PFrame := ⟨.status, (t.ast a).selected, t.get AST.PBUS_CFG.STAT_ADDR a % 128, 0, true⟩
      exec (.preampFaultAssert ast) s = .next (inhibit (raise (t.setAst a { t.ast a with
        frames := (t.ast a).frames ++ [f], lineFault := false }) (astPage a) 1 2) a .preampFault)) ∧
    (∀ st : BitVec 16, s.get AST.PFLT_STAT.LINE a ≠ 0 →
      let fa := decide (st.toNat &&& s.get AST.PFLT_MASK.ASSIST_MASK a ≠ 0)
      let fw := decide (st.toNat &&& s.get AST.PFLT_MASK.WRITER_MASK a ≠ 0)
      let t := s.setAst a { x with frames := x.frames.filter fun f => f.kind ≠ .status
                                   lineFault := x.lineFault || fa || fw }
      let t := (t.put AST.PFLT_STAT.STATUS st.toNat a).put AST.PFLT_STAT.HEAD x.selected a
      let t := if fa || fw then t.put AST.PFLT_STAT.MISMATCH 0 a else t
      exec (.preampStatusRead ast st) s = .next (setHeadFault t a x.selected fa fw)) ∧
    (let t := s.put AST.PFLT_STAT.LINE 0 a;
      (x.lineFault = true → exec (.preampFaultDeassert ast) s = .next t) ∧
      (x.lineFault = false → exec (.preampFaultDeassert ast) s = .next (startRelease t a .preampFault))) ∧
    (Admits s q (astPage a) 0x06C →
      let v := w.toNat &&& headMask (s.get AST.HEAD_WIN.WORD a)
      exec (.astHeadDataAccess q ast (some w)) s = .next (headWinStep
        ((s.reply 0 []).setAst a { x with table := sset 0 x.table (headWinKey s a) v }) a)) ∧
    (Serves s q (astPage a) 0x06C → exec (.astHeadDataAccess q ast none) s =
      .next ((headWinStep s a).reply 0 [sget 0 x.table (headWinKey s a)]))

/-- Servo control (R41, R186, R196, R198, R200, R204, R208, R216-R220, R222, R225, R226, R228). A sample acquires or
follows; an overrun holds the command and counts; the adaptive notches move; AUTO hands the coil over and takes it
back; injection and capture start at their stroke and end; a parity fault in the loop stops its page; an unload takes
its head to the ramp. -/
def Obligations.ServoCommands : Prop :=
  ∀ (s : State) (srv : Fin 4) (q : Req) (w : BitVec 32),
    let a := srv.val
    let p := srvPage a
    let v := s.srv a
    let now := strokeAt s (a / 2 + 1)
    (∀ wedges : List WedgeIn,
      let t := ((takeLaunch s .servoSample a (a / 2 + 1)).map (·.2)).getD s
      locked t = true → working t p = true → domainLive t p.domain = true →
      (srvState s a = svLoading ∨ srvState s a = svAcquire →
        (∀ x xs, wedges = x :: xs → exec (.servoSample srv wedges) s =
          .next (acquireWedge t.drawn a now x t.free)) ∧
        (wedges = [] → exec (.servoSample srv wedges) s =
          .next (sendCommand (setSrvState t a svAcquire) a (t.srv a).coil []))) ∧
      (srvState s a ≠ svLoading → srvState s a ≠ svAcquire → srvState s a ≠ svParked → srvState s a ≠ svLost →
        exec (.servoSample srv wedges) s = .next (loopSample t a now wedges))) ∧
    (working s p = true → exec (.controlOverrun srv) s = .next (raise
      ((s.setVcm a { s.vcm a with next := none, nextMact := [] }).bump SRV.LOOP_ERR.OVERRUN 1 a) p 2 7)) ∧
    (∀ (notch : Fin 4) (code : BitVec 8),
      let lim := srvCoef s a (376 + 2 * notch.val)
      let c := max (bits lim 0 8) (min code.toNat (bits lim 8 8))
      bit (s.get SRV.NOTCH_CTL.ADAPT a) notch.val = true → working s p = true → 512 ≤ sget 0 v.notchAge notch.val →
      let v' := { v with notchAge := sset 0 v.notchAge notch.val 0 }
      let moved := s.get SRV.NOTCH_CTL.F_TOL a < ((c : Int) - notchCentre s a notch.val).natAbs
      (moved → exec (.notchEstimate srv notch code) s = .next (s.setSrv a { v' with
        notch := (v.notch.filter fun e => e.1 ≠ notch.val) ++ [(notch.val, c, now + 2)] })) ∧
      (¬moved → exec (.notchEstimate srv notch code) s = .next (s.setSrv a v'))) ∧
    (∀ j c k, v.notch.find? (fun e => decide (e.2.2 ≤ now)) = some (j, c, k) →
      let t := s.setSrv a { v with notch := v.notch.erase (j, c, k) }
      (v.commit ≠ some k → v.exchanged ≠ some k → exec (.notchWrite srv) s = .next (writeNotch t a j c)) ∧
      (v.commit = some k ∨ v.exchanged = some k → exec (.notchWrite srv) s = .next t)) ∧
    (domainLive s p.domain = true →
      exec (.srvParityFault srv true) s = .next (raise (s.bump SRV.LOOP_ERR.OVERRUN 1 a) p 2 0) ∧
      let t := s.setVcm a { s.vcm a with next := none, nextMact := [] }
      exec (.srvParityFault srv false) s = .next (pageFault (t.setSrv a { t.srv a with disabling := false }) p 0 3)) ∧
    (v.disabling = true → seekCommitted s a = false → (∀ n ∈ lanesOf a, openTags s n = []) →
      exec (.headUnload srv) s = .next (beginUnload s a)) ∧
    (∀ k ∈ v.seeks, k.committed = true → k.started = false → exec (.headUnload srv) s = .next s) ∧
    (∀ x t, v.disabling = false → (∀ k ∈ v.seeks, k.committed = true → k.started = true) →
      takeLaunch s .unload a (a / 2 + 1) = some (x, t) → locked t = true →
      exec (.headUnload srv) s = .next (beginUnload t a)) ∧
    (Admits s q p 0x040 →
      let auto := s.get SRV.SRV_CTL.AUTO a
      let t := plainWrite (s.reply 0 []) q p 0x040 w
      let t := if t.get SRV.SRV_CTL.PAIR_EN a = 0 then partPair t a else t
      let t := t.put SRV.SRV_CTL.BANK (s.get SRV.SRV_CTL.BANK a) a
      (srvState s a = svFollow → auto = 1 → t.get SRV.SRV_CTL.AUTO a = 0 →
        exec (.autoClear q srv w) s =
          .next (setSrvState (t.put SRV.MAN_CMD.CURRENT (unsigned 16 (t.srv a).coil) a) a svManual)) ∧
      (srvState s a = svManual → auto = 0 → t.get SRV.SRV_CTL.AUTO a = 1 →
        exec (.autoSet q srv w) s = .next (enterSettle (t.setSrv a { t.srv a with
          target := (t.srv a).active.foldl (fun m h => sset 0 m h (t.get SRV.POS.POS a h)) (t.srv a).target
          ufb := (t.srv a).coil * 2 ^ 13 }) a))) ∧
    (Admits s q p 0x0A0 →
      let t := plainWrite (s.reply 0 []) q p 0x0A0 w
      (SRV.INJ_CTL.STOP.of w = 1 → SRV.INJ_CTL.GO.of w = 0 →
        exec (.injectionStop q srv w) s = .next (injectEnd t a)) ∧
      (∀ k, SRV.INJ_CTL.STOP.of w ≠ 1 → SRV.INJ_CTL.GO.of w ≠ 0 →
        let u := t.put SRV.INJ_CTL.LATE 0 a
        launchStroke (strokeAt u (a / 2 + 1)) (SRV.INJ_CTL.STROKE.of w) = some k →
        exec (.injectionStart q srv w) s = .next (u.setSrv a { u.srv a with injAt := some k }))) ∧
    (∀ x, v.inj = some (0, x) → exec (.injectionEnd srv) s = .next (injectEnd s a)) ∧
    (Admits s q p 0x0B0 →
      let t := plainWrite (s.reply 0 []) q p 0x0B0 w
      (SRV.CAP_CTL.STOP.of w = 1 → SRV.CAP_CTL.GO.of w = 0 → exec (.captureStop q srv w) s =
        .next ((t.setSrv a { t.srv a with capRun := none, capAt := none }).put SRV.CAP_CTL.BUSY 0 a)) ∧
      (∀ k, SRV.CAP_CTL.STOP.of w ≠ 1 → SRV.CAP_CTL.GO.of w ≠ 0 →
        let u := t.put SRV.CAP_CTL.LATE 0 a
        launchStroke (strokeAt u (a / 2 + 1)) (SRV.CAP_CTL.STROKE.of w) = some k →
        exec (.captureStart q srv w) s = .next (((u.setSrv a { u.srv a with capAt := some k }).put
          SRV.CAP_CTL.BUSY 1 a).put SRV.CAP_STAT.COUNT 0 a))) ∧
    (Serves s q p 0x0BC → s.get SRV.CAP_CTL.BUSY a ≠ 1 →
      let i := s.get SRV.CAP_WIN.WORD a
      exec (.capDataRead q srv) s = .next ((s.put SRV.CAP_WIN.WORD (i + 1) a).reply 0
        [bits (sget 0 v.cap (i / 2)) (32 * (i % 2)) 32]))

/-- Servo coefficients, seeks and feedforward (R58, R202, R205, R206, R209, R252, R367, R582). COEF_DATA reads and
writes its window; COEF_COMMIT waits for its stroke; a seek that is launched is committed at its stroke, with the
permit, its distance and its intent; a forwarded intent becomes a template. -/
def Obligations.SeekCommands : Prop :=
  ∀ (s : State) (srv : Fin 4) (q : Req) (w : BitVec 32),
    let a := srv.val
    let p := srvPage a
    let v := s.srv a
    (Admits s q p 0x090 → exec (.srvCoefDataAccess q srv (some w)) s = .next (srvCoefWrite a w (s.reply 0 []))) ∧
    (Serves s q p 0x090 → exec (.srvCoefDataAccess q srv none) s =
      .next ((srvWinStep s a).reply 0 [sget 0 v.coef (srvWinKey s a)])) ∧
    (Admits s q p 0x094 → SRV.COEF_COMMIT.GO.of w = 1 → v.commit = none →
      let t := (plainWrite (s.reply 0 []) q p 0x094 w).put SRV.COEF_COMMIT.LATE 0 a
      ∀ k, launchStroke (strokeAt t (a / 2 + 1)) (SRV.COEF_COMMIT.STROKE.of w) = some k →
        exec (.srvCoefCommit q srv w) s =
          .next ((t.setSrv a { t.srv a with commit := some k }).put SRV.COEF_COMMIT.PENDING 1 a)) ∧
    (Admits s q p 0x080 → SRV.SEEK_REQ.GO.of w ≠ 0 →
      let t := (plainWrite (s.reply 0 []) q p 0x080 w).put SRV.SEEK_REQ.LATE 0 a
      let r := seekLaunch t a (SRV.SEEK_REQ.HEAD.of w) (t.get SRV.SEEK_TGT.POS a) (SRV.SEEK_REQ.STROKE.of w)
        (SRV.SEEK_REQ.FULL.of w = 1) none
      exec (.seekLaunch q srv w) s = .next (r.2.reply r.1 [])) ∧
    (∀ k, v.seeks.find? (fun k => !k.committed && decide (k.stroke ≤ strokeAt s (a / 2 + 1) + 2)) = some k →
      k.stroke < strokeAt s (a / 2 + 1) + 2 → exec (.seekCommit srv) s = .next (seekLate s a k)) ∧
    (∀ k, v.seeks.find? (fun k => !k.committed && decide (k.stroke ≤ strokeAt s (a / 2 + 1) + 2)) = some k →
      k.stroke = strokeAt s (a / 2 + 1) + 2 →
      let grant := k.full && seekPermitFree s a
      let dist : Int := (k.target : Int) - s.get SRV.POS.POS a k.head
      let seeks := v.seeks.map fun x => if x = k then { k with committed := true, full := grant, dist := dist } else x
      let t := s.setSrv a { v with seeks := seeks, flags := setBit v.flags 0 false }
      let full := t.put SCH.PERMIT_STAT.SEEK (setBit (t.get SCH.PERMIT_STAT.SEEK) a true)
      let t := if grant then (full.put SRV.SRV_STAT.PERMIT 1 a).put VCM.VCM_STAT.FULL
        (1 - full.get VCM.VCM_STAT.CLAMPED a) a else t
      let t := if (t.srv a).seeks.any fun x => !x.committed then t else t.put SRV.SEEK_REQ.PENDING 0 a
      let t : State := { t with rgt := { t.rgt with out := t.rgt.out ++ [⟨a, k.stroke, dist, grant⟩] } }
      (k.tag = none → exec (.seekCommit srv) s = .next t) ∧
      (∀ n j, k.tag = some (n, j) → exec (.seekCommit srv) s = .next (takeTag t n j))) ∧
    (∀ e, s.rgt.forward.find? (·.1 = a) = some e → running s p = true →
      let t : State := { s with rgt := { s.rgt with forward := s.rgt.forward.erase e } }
      let live := liveTemplates v (strokeAt s (a / 2 + 1))
      (live.length < 8 → strokeAt s (a / 2 + 1) ≤ e.2.stroke → exec (.regattaIntentApply srv) s =
        .next (t.setSrv a { v with templates := live ++ [⟨e.2.template, e.2.neg, e.2.stroke⟩] })) ∧
      (8 ≤ live.length ∨ e.2.stroke < strokeAt s (a / 2 + 1) →
        exec (.regattaIntentApply srv) s = .next (t.bump SRV.LOOP_ERR.FF_DROP 1 a)))

/-- Coils and actuator drivers (R198, R203, R223-R225, R227, R228, R232-R236, R427, R612). A coil command is applied,
at the limit, or held; a load begins; a load that takes too long fails and the head retracts; the driver's enable and
RETRACT; a driver's fault takes its command away; a shock sample sets the three axes and what passes their thresholds.
-/
def Obligations.CoilCommands : Prop :=
  ∀ (s : State) (vcm : Fin 4) (q : Req) (w : BitVec 32),
    let a := vcm.val
    let v := s.vcm a
    (vcmState s a = 1 → domainLive s (vcmPage a).domain = true →
      (locked s = false → exec (.vcmCommandApply vcm) s =
        .next ((applyMact s a []).put VCM.CMD_LAST.CMD (unsigned 16 (coilBias v)) a)) ∧
      (locked s = true →
        (∀ u, v.next = some u →
          let u := clampI (-coilLimit s a) (coilLimit s a) u
          exec (.vcmCommandApply vcm) s = .next ((applyMact (s.setVcm a { v with
            next := none, nextMact := [], hold := 0, applied := (u :: v.applied).take 64 }) a v.nextMact).put
              VCM.CMD_LAST.CMD (unsigned 16 u) a)) ∧
        (v.next = none →
          let t := (s.setVcm a { v with hold := v.hold + 1 }).bump VCM.VCM_CNT.HOLD_CNT 1 a
          let t := raiseIf (t.get VCM.VCM_CNT.HOLD_CNT a ≠ s.get VCM.VCM_CNT.HOLD_CNT a) t (vcmPage a) 4 7
          (v.loaded = true → max 1 (t.get VCM.APPLY.HOLD_LIMIT a) ≤ v.hold + 1 →
            exec (.vcmCommandApply vcm) s = .next (retract t a)) ∧
          (v.loaded = false → exec (.vcmCommandApply vcm) s = .next t)))) ∧
    (∀ x t reversed, takeLaunch s .load a (a / 2 + 1) = some (x, t) → locked t = true → accelerating t = false → bankMatches t a = true →
      running t (srvPage a) = true → running t (vcmPage a) = true → vcmState t a = 3 → (t.vcm a).loaded = false →
      exec (.headLoad vcm reversed) s = .next (beginLoad t a x.head reversed)) ∧
    (srvState s a = svLoading ∨ srvState s a = svAcquire →
      exec (.loadTimeout vcm) s = .next (loadFails (setSrvState (setActive (retract s a) a []) a svLost) a)) ∧
    (Admits s q (vcmPage a) 0x040 →
      let t := plainWrite (s.reply 0 []) q (vcmPage a) 0x040 w
      let on := t.get VCM.VCM_CTL.DRV_EN a
      (VCM.VCM_CTL.RETRACT.of w = 1 → on = s.get VCM.VCM_CTL.DRV_EN a →
        exec (.vcmRetract q vcm w) s = .next (retract t a)) ∧
      (VCM.VCM_CTL.RETRACT.of w ≠ 1 →
        (s.get VCM.VCM_CTL.DRV_EN a = 0 → on = 1 → vcmState t a = 0 → (t.vcm a).loaded = false →
          exec (.vcmDrvEnable q vcm w) s =
            .next (setVcmState (t.setVcm a { t.vcm a with offAtPark := false }) a 3)) ∧
        (s.get VCM.VCM_CTL.DRV_EN a = 1 → on = 0 →
          (vcmState t a = 1 ∨ vcmState t a = 2 → exec (.vcmDrvDisable q vcm w) s =
            .next (retract (t.setVcm a { t.vcm a with offAtPark := true }) a)) ∧
          (vcmState t a = 3 → exec (.vcmDrvDisable q vcm w) s = .next (setVcmState t a 0))))) ∧
    (∀ head : Fin 32, domainLive s macPage.domain = true →
      let t := s.put MAC.MAC_FAULT.FAULT (setBit (s.get MAC.MAC_FAULT.FAULT) head.val true)
      let t := raise { t with mac := { t.mac with cmd := sset 0 t.mac.cmd head.val 0 } } macPage 0 1
      let b := head.val / 8
      let h := head.val % 8
      (headJob s b h = none → exec (.macDriverFault head) s = .next (headStopsFollowing t b h)) ∧
      (∀ j, headJob s b h = some j →
        exec (.macDriverFault head) s = .next (headStopsFollowing (offTrack t b h j) b h))) ∧
    ∀ lx ly rot : BitVec 12, domainLive s macPage.domain = true →
      let t := ((s.put MAC.SHOCK_LX.VALUE lx.toNat).put MAC.SHOCK_LY.VALUE ly.toNat).put MAC.SHOCK_ROT.VALUE rot.toNat
      let t := countFull (countFull (countFull t 0 lx) 1 ly) 2 rot
      let lin := t.get MAC.SHOCK_THR.LIN_THR
      let hard := t.get MAC.SHOCK_HARD.HARD_THR
      let x := aboveThr t 0 lx lin
      let y := aboveThr t 1 ly lin
      let r := aboveThr t 2 rot (t.get MAC.SHOCK_THR.ROT_THR)
      let u := t.put MAC.MAC_STAT.TRIG ((if x then 1 else 0) + (if y then 2 else 0) + (if r then 4 else 0))
      let u := shockTrigger u (x || y) r (aboveThr u 0 lx hard || aboveThr u 1 ly hard)
      exec (.shockSample lx ly rot) s = .next (shockCalm u (!(x || y || r))
        (if bit (u.get MAC.MAC_STAT.SUSPECT) 2 then 0 else rot.toInt))

/-- Arithmetic words of a sequencer (R243, R244, R247, R249). ADD and SUBTRACT wrap at 32 bits; the logical operations
and the shifts by less than 32 give their result, a shift by 32 or more a free value; Z and N follow the result, C and
V where the spec does not give them are free; COMPARE sets the flags alone; NOP does nothing. -/
def Obligations.ArithmeticWords : Prop :=
  ∀ (s : State) (u : Fin 12) (e : BitVec 137) (x : Nat) (t : State),
    let k := u.val
    let alu (r : Nat → Nat → State → State) : Host.Outcome State Fault Refusal :=
      .next (wordResult (fun s => r ((s.sqr k).srcA x) ((s.sqr k).aluB x) s) t k x)
    let logic (r : Nat → Nat → Nat) : Host.Outcome State Fault Refusal := alu fun a b s =>
      aluSets s.drawn.drawn k x (r a b) (freeFlag s.free) (freeFlag s.drawn.free)
    let shift (r : Nat → Nat → Nat) : Host.Outcome State Fault Refusal := alu fun a b s =>
      if b < 32 then aluSets s.drawn.drawn k x (r a b) (freeFlag s.free) (freeFlag s.drawn.free)
      else aluSets s.drawn.drawn.drawn k x (s.free % 2 ^ 32) (freeFlag s.drawn.free) (freeFlag s.drawn.drawn.free)
    (Runs s k e.toNat 0x00 x t → exec (.seqNop u e) s = .next (wordResult (fun s => s) t k x)) ∧
    (Runs s k e.toNat 0x01 x t →
      exec (.aluAdd u e) s =
        alu (fun a b s => aluSets s k x ((a + b) % 2 ^ 32) (addCarry a b) (addOverflow a b)) ∧
      exec (.aluSubtract u e) s =
        alu (fun a b s => aluSets s.drawn k x (diff32 a b) (freeFlag s.free) (subOverflow a b)) ∧
      exec (.aluCompare u e) s = alu (fun a b s => s.drawn.setSqr k
        { (s.sqr k).setZN (diff32 a b) with c := freeFlag s.free, v := subOverflow a b }) ∧
      exec (.aluAnd u e) s = logic (· &&& ·) ∧ exec (.aluOr u e) s = logic (· ||| ·) ∧
      exec (.aluXor u e) s = logic (· ^^^ ·) ∧
      exec (.aluShiftLeft u e) s = shift (fun a b => a * 2 ^ b % 2 ^ 32) ∧
      exec (.aluShiftRight u e) s = shift (fun a b => a / 2 ^ b) ∧
      exec (.aluArithShiftRight u e) s = shift (fun a b => unsigned 32 (signed 32 a / 2 ^ b)))

/-- Memory, message, signal, wait and tag words (R36, R211, R243, R251-R255, R463, R464). LOAD and STORE use the
unit's RAM, beyond it with free values; SEND and RECEIVE use the mailbox, whose serving waits while the Oar's link
retrains (R28) and is dropped and reads 0 while it is down (R29); SIG signals its sequencer; WAIT goes on when its
condition holds; the tag words take, read and complete the unit's tag. -/
def Obligations.MemoryAndTagWords : Prop :=
  ∀ (s : State) (u : Fin 12) (e : BitVec 137) (x : Nat) (t : State),
    let k := u.val
    let word (body : State → State) : Host.Outcome State Fault Refusal := .next (wordResult body t k x)
    (Runs s k e.toNat 0x10 x t →
      exec (.memLoad u e) s = word (fun s =>
        let i := memIndex (s.sqr k) x
        if i < 512 then s.setSqr k ((s.sqr k).setReg (wDst x) (sget 0 (s.sqr k).ram i))
        else s.drawn.setSqr k ((s.sqr k).setReg (wDst x) s.free)) ∧
      exec (.memStore u e) s = word (fun s =>
        let i := memIndex (s.sqr k) x
        let v := (s.sqr k).srcB x
        if i < 512 then s.setSqr k { s.sqr k with ram := sset 0 (s.sqr k).ram i v }
        else s.drawn.setSqr k { s.sqr k with ram := sset 0 (s.sqr k).ram (s.free % 512) v })) ∧
    (Runs s k e.toNat 0x24 x t →
      exec (.msgSend u e) s = word (fun s =>
        let die := unitSeq k + 1
        if dieTraining s die then s.ask (.word (unitEndpoint k) ((s.sqr k).srcA x))
        else if dieUp s die && domainLive s mbxPage.domain then outPush s (unitEndpoint k) ((s.sqr k).srcA x) else s) ∧
      (dieTraining s (unitSeq k + 1) = true → exec (.msgReceive u e) s = .next s) ∧
      (dieTraining s (unitSeq k + 1) = false → exec (.msgReceive u e) s = word (fun s =>
        let r := if dieUp s (unitSeq k + 1) then inPop s (unitEndpoint k) else (0, s)
        r.2.setSqr k ((r.2.sqr k).setReg (wDst x) r.1)))) ∧
    (Runs s k e.toNat 0x28 x t → exec (.seqSig u e) s = word (fun s =>
      if wImm x % 8 < 6 then
        s.setSqr (seqUnit (unitSeq k) (wImm x % 8)) { s.sqr (seqUnit (unitSeq k) (wImm x % 8)) with sig := true }
      else s)) ∧
    (Runs s k e.toNat 0x1C x t →
      let y := clearCond (wCsel x 0) (t.sqr k)
      let ends (tmo : Bool) : State :=
        let after := t.setSqr k { y with waiting := false, tmo := tmo }
        nextAddress after (after.setSqr k (clearSampled x (after.sqr k))) k x
      (wordCond t k x 0 = true → exec (.seqWait u e) s = .next (ends false)) ∧
      (wordCond t k x 0 = false →
        exec (.seqWait u e) s = .next (t.setSqr k { y with waiting := true }) ∧
        exec (.waitTimeout u e) s = .next (ends true))) ∧
    (Runs s k e.toNat 0x20 x t → k < 8 →
      let tagged (body : State → State) : Host.Outcome State Fault Refusal :=
        word fun s => body (s.setLane k { s.lane k with frameDone := false })
      let d := k / 4
      exec (.tagTake u e) s = tagged (fun s =>
        match (s.lq k).order with
        | [] => s
        | j :: _ =>
          if (s.tag k j).st ≠ .posted || otherLaneOn s k (psaHead (s.tag k j).psa % 8) then s
          else if strokePassed (strokeAt s (d + 1)) (s.tag k j).startStroke then completeTag s k j { status := 7 }
          else
            let s' := s.setSqr k { s.sqr k with tag := some j }
            let v := s'.srv (k / 2)
            if (s.tag k j).paired then s'.setSrv (k / 2) { v with flags := setBit v.flags 1 true } else s') ∧
      exec (.tagReadField u e) s = tagged (fun s => ((s.sqr k).tag.map fun j =>
        s.setSqr k ((s.sqr k).setReg (wDst x) (leNat (((s.tag k j).entry.drop (wImm x % 32)).take 4)))).getD s) ∧
      exec (.tagComplete u e) s = tagged (fun s => ((s.sqr k).tag.map fun j =>
        let v := (s.sqr k).srcA x
        stopTag (closeReadGate s k) k j (v % 16) (v / 16 % 8)).getD s) ∧
      exec (.tagWriteResult u e) s = tagged (fun s =>
        let s := dropStale s d
        match (s.sqr k).tag, (s.ldp d).results.find? (fun r => r.lane = k % 4 && !r.verify && !bit r.record 117) with
        | some j, some r =>
          let s' := s.setLdp d { s.ldp d with results := (s.ldp d).results.erase r }
          let y := s'.tag k j
          let st := bits r.record 40 4
          match sectorIndex s' y (psaSlot (bits r.record 0 40)) with
          | none => s'
          | some i =>
            let m := memWrite s' (y.resAddr + 16 * i) (leBytes 16 r.record)
            let m := if st = 0 && y.op ≠ 2 then memWrite m (y.bufAddr + 4128 * i) (r.payload.take 4112) else m
            let m := if y.op = 2 && st ≠ 5 then countVerify m (k / 2) (psaHead y.psa % 8) r.record else m
            m.setTag k j { y with done := y.done + 1, incomplete := y.incomplete || decide (st ≠ 0)
                                  requeue := if st = 5 && y.requeue.isNone then some 4 else y.requeue }
        | _, _ => s))

/-- Launch words (R36, R41, R43, R57, R167, R172, R174, R179, R209, R211, R225, R226, R243). Each launches its action
for the unit's tag (the actuator, on a unit of an actuator), writes the status to DST, notes a refusal and counts a
late launch. -/
def Obligations.LaunchWords : Prop :=
  ∀ (s : State) (u : Fin 12) (e : BitVec 137) (x : Nat) (t : State), Runs s u.val e.toNat 0x18 x t →
    let k := u.val
    let launch (f : Nat → Nat → State → Nat × State) : Host.Outcome State Fault Refusal :=
      .next (wordResult (fun s =>
        let r := f ((s.sqr k).srcA x % 2 ^ 16) (wImm x % 4096) s
        let c := countLaunch r.2 k r.1
        c.setSqr k { (c.sqr k).setReg (wDst x) r.1 with refused := decide (r.1 ≠ 0) }) t k x)
    let tagged (s : State) (f : Nat → Nat × State) : Nat × State := ((s.sqr k).tag.map f).getD (statusRefused, s)
    (k < 8 →
      exec (.launchReadGate u e) s = launch (fun low phase s => tagged s fun j => launchGate s .readGate k j low phase) ∧
      exec (.launchWriteGate u e) s = launch (fun low phase s => tagged s fun j => launchGate s .writeGate k j low phase) ∧
      exec (.launchAssistStep u e) s = launch (fun low phase s => tagged s fun j =>
        let psa := (s.tag k j).psa
        launchStep s (k / 2) (psaHead psa % 8) (psaBand s psa) low phase (some k)) ∧
      exec (.launchSeek u e) s = launch (fun low _ s => tagged s fun j =>
        let y := s.tag k j
        if y.open' then seekLaunch s (k / 2) (psaHead y.psa % 8) (psaTrack y.psa * 1024) low true (some (k, j))
        else (statusRefused, s))) ∧
    (8 ≤ k →
      let a := k - 8
      exec (.launchSeek u e) s = launch (fun low _ s => seekLaunch s a (s.get SRV.SEEK_REQ.HEAD a)
        (s.get SRV.SEEK_TGT.POS a) low (s.get SRV.SEEK_REQ.FULL a = 1) none) ∧
      exec (.launchLoad u e) s =
        launch (fun low phase s => launchHeads s .load a (s.get SRV.SEEK_REQ.HEAD a) low phase (some k)) ∧
      exec (.launchUnload u e) s = launch (fun low phase s => launchHeads s .unload a 0 low phase (some k)))

/-- Control of the sequencers (R248, R249, R258, R260-R262, R264, R611). The watchdog, the budget, loads of the
control store, its window and its digest, and the control register of a unit. -/
def Obligations.SequencerControl : Prop :=
  ∀ (s : State) (u : Fin 12) (q : Req) (seq : Fin 2) (w : BitVec 32),
    let k := u.val
    let d := seq.val
    let p := seqPage d
    (fetchRun.working' s k = true → max 1 (s.get SEQ.SQ_ERR.SAFE_LIMIT (unitSeq k) (unitIdx k)) ≤ (s.sqr k).sinceSafe →
      exec (.seqWatchdog u) s = .next (seqFault s k .watchdog)) ∧
    ((s.sqr k).overran = false → s.get SEQ.SQ_BUDGET.BUDGET (unitSeq k) (unitIdx k) ≤ (s.sqr k).busy →
      exec (.seqBudgetOverrun u) s = .next (raise ((s.setSqr k { s.sqr k with overran := true }).bump
        SEQ.SQ_ERR.OVERRUN_CNT 1 (unitSeq k) (unitIdx k)) (seqPage (unitSeq k)) 4 7)) ∧
    (Admits s q p 0x04C → SEQ.LOAD_CTL.GO.of w ≠ 0 → s.get SEQ.LOAD_CTL.BUSY d ≠ 1 →
      let t := plainWrite (s.reply 0 []) q p 0x04C w
      let n := SEQ.LOAD_CTL.Q.of w
      let first := SEQ.LOAD_CTL.FIRST.of w
      let c := SEQ.LOAD_CTL.COUNT.of w
      let count := if c = 0 then 4096 else c
      n ≤ 5 → first + count ≤ 4096 → storeOpen t (seqUnit d n) = true →
      exec (.seqLoadStart q seq w) s = .next (({ t with seqs := sset {} t.seqs d { sget {} t.seqs d with
        load := some (n, first, count, t.get SEQ.LOAD_ADDR.ADDR d * 4096) } } : State).put SEQ.LOAD_CTL.BUSY 1 d)) ∧
    (∀ n first count a, (sget {} s.seqs d).load = some (n, first, count, a) →
      (storeOpen s (seqUnit d n) = true →
        let r := loadWords (seqUnit d n) a count first s
        exec (.seqLoadComplete seq) s = .next (loadEnd r.2 d (if r.1 then 2 else 0))) ∧
      (storeOpen s (seqUnit d n) = false → exec (.seqLoadComplete seq) s = .next (loadEnd s d 1))) ∧
    (let n := s.get SEQ.CS_WIN.Q d;
      let word := s.get SEQ.CS_WIN.WORD d;
      let part := s.get SEQ.CS_WIN.PART d;
      let v := seqUnit d n;
      n ≤ 5 →
      (Admits s q p 0x054 → storeOpen s v = true →
        let r := readStore (s.reply 0 []) v word
        let old := r.1.getD (sget {} (s.sqr v).store word).data
        exec (.csDataAccess q seq (some w)) s = .next (csStep (putWord r.2 v word
          (old - bits old (32 * part) 32 * 2 ^ (32 * part) + w.toNat * 2 ^ (32 * part))) d)) ∧
      (Serves s q p 0x054 →
        let c := sget {} (s.sqr v).store word
        let r := readStore s v word
        exec (.csDataAccess q seq none) s = .next ((csStep r.2 d).reply 0
          [bits (r.1.getD (c.data ^^^ (c.err % 2 ^ 128))) (32 * part) 32]))) ∧
    (Admits s q p 0x058 → SEQ.DIG_CTL.GO.of w ≠ 0 → SEQ.DIG_CTL.Q.of w ≤ 5 → s.get SEQ.LOAD_CTL.BUSY d ≠ 1 →
      s.get SEQ.DIG_CTL.BUSY d ≠ 1 →
      let t := plainWrite (s.reply 0 []) q p 0x058 w
      exec (.digestStart q seq w) s = .next (({ t with seqs := sset {} t.seqs d { sget {} t.seqs d with
        digest := some (SEQ.DIG_CTL.Q.of w) } } : State).put SEQ.DIG_CTL.BUSY 1 d)) ∧
    (∀ n, (sget {} s.seqs d).digest = some n →
      let v := seqUnit d n
      let r := storeBytes s v 4096 0
      let h := leNat (shake256 r.1)
      let t : State := { r.2 with seqs := sset {} r.2.seqs d { sget {} s.seqs d with digest := none } }
      let t := (List.range 8).foldl (fun s i => s.put SEQ.DIGEST.DIGEST (bits h (32 * i) 32) d i) t
      let ok := (List.range 8).all fun i => t.get SEQ.DIGEST.DIGEST d i = t.get SEQ.EXPECT.EXPECT d i
      exec (.digestComplete seq) s =
        .next (raiseIf (!ok) (raise ((setAuth t v ok).put SEQ.DIG_CTL.BUSY 0 d) p 2 7) p 3 7)) ∧
    (domainLive s (unitDomain k) = true → Admits s q (seqPage (unitSeq k)) (0x100 + 0x20 * unitIdx k) →
      let i := unitSeq k
      let j := unitIdx k
      let t := plainWrite (s.reply 0 []) q (seqPage i) (0x100 + 0x20 * j) w
      let en := s.get SEQ.SQ_CTL.ENABLE i j
      let en' := t.get SEQ.SQ_CTL.ENABLE i j
      let ez := s.get SEQ.SQ_CTL.EASY i j
      let ez' := t.get SEQ.SQ_CTL.EASY i j
      (t.sqr k).disabling = false →
      (SEQ.SQ_CTL.HOLD_REL.of w ≠ 1 →
        (unitState t k = stOff → en = 0 → en' = 1 →
          (ez' = 1 → exec (.sqEnableSet q u w) s = .next (setUnitState t k stHold)) ∧
          (ez' ≠ 1 → exec (.sqEnableSet q u w) s = .next (startUnit t k))) ∧
        (en = 1 → en' = 0 →
          (unitState t k = stHold → exec (.sqEnableClear q u w) s = .next (setUnitState t k stOff)) ∧
          (unitState t k = stRun → exec (.sqEnableClear q u w) s = .next (disableUnit t k))) ∧
        (unitState t k = stRun → en' = 1 → ez = 0 → ez' = 1 →
          exec (.sqEasySet q u w) s = .next (setUnitState t k stEasing)) ∧
        (unitState t k = stEasing → en' = 1 → ez' = 0 →
          exec (.sqEasyClear q u w) s = .next (setUnitState t k stRun))) ∧
      (SEQ.SQ_CTL.HOLD_REL.of w = 1 → unitState t k = stHold → en' = 1 → ez' = 0 → authOf t k = true →
        exec (.sqHoldRel q u w) s = .next (startUnit t k)))

/-- Logical queues (R251, R252, R256, R257, R321-R323, R332). A fetched entry is posted, or completes with the status
its entry, its post or an abort named (a sequencer fault before an abort, R255); POST fetches a free tag, takes its
place in the order and names how it ends where its lane cannot take it; ABORT completes a posted tag with status 2,
marks a fetching one, and marks a taken one and ends its sectors' decodes; RELEASE frees a done tag and unpins its
frames; SEQ_CTL.OOS takes actuators out of service and puts them back. -/
def Obligations.TagCommands : Prop :=
  ∀ (s : State) (lane : Fin 8) (tag : Fin 32) (q : Req) (w : BitVec 32) (seq : Fin 2),
    let n := lane.val
    let k := tag.val
    let p := seqPage (n / 4)
    let off := 0x204 + 0x10 * (n % 4)
    ((s.tag n k).st = .fetching →
      let r := memRead s .sch (s.get SEQ.LQ_BASE.ADDR (n / 4) (n % 4) * 4096 + 32 * k) 32
      let x := { r.2.tag n k with entry := r.1.bytes }
      let t := r.2.setTag n k { x with st := .posted }
      (r.1.poison = true ∨ malformed n x = true → exec (.tagEntryFetch lane tag) s =
        .next (completeTag t n k { status := 12 })) ∧
      (r.1.poison = false → malformed n x = false →
        (∀ reason, x.ending = some (10, reason) → exec (.tagEntryFetch lane tag) s =
          .next (completeTag t n k { status := 10, reason := reason })) ∧
        ((∀ reason, x.ending ≠ some (10, reason)) →
          (x.abort = true → exec (.tagEntryFetch lane tag) s = .next (completeTag t n k { status := 2 })) ∧
          (x.abort = false → (x.ending = none → exec (.tagEntryFetch lane tag) s = .next t) ∧
            ∀ status reason, x.ending = some (status, reason) → exec (.tagEntryFetch lane tag) s =
              .next (completeTag t n k { status := status, reason := reason }))))) ∧
    (Admits s q p off →
      let y := SEQ.LQ_CMD.TAG.of w
      let t := s.reply 0 []
      (SEQ.LQ_CMD.OP.of w = 1 → (s.tag n y).st = .free →
        exec (.lqPost q lane w) s = .next (t.setLq n { (s.lq n).setTag y
          { st := .fetching, ending := postEnding t n } with order := (s.lq n).order ++ [y] })) ∧
      (SEQ.LQ_CMD.OP.of w = 2 →
        ((s.tag n y).st = .posted →
          exec (.lqAbort q lane w) s = .next ((completeTag t n y { status := 2 }).reply 1 [])) ∧
        ((s.tag n y).st = .fetching →
          exec (.lqAbort q lane w) s = .next ((t.setTag n y { s.tag n y with abort := true }).reply 1 [])) ∧
        ((s.tag n y).st = .taken → exec (.lqAbort q lane w) s = .next ((if (s.tag n y).abort then t
          else ldpAbort (t.setTag n y { s.tag n y with abort := true }) n y).reply 1 [])) ∧
        ((s.tag n y).st = .free ∨ (s.tag n y).st = .done → exec (.lqAbort q lane w) s = .next t)) ∧
      (SEQ.LQ_CMD.OP.of w = 3 → (s.tag n y).st = .done → exec (.lqRelease q lane w) s =
        .next (((s.tag n y).pins.foldl (fun s e => ldpUnpin s n e) t).setTag n y {}))) ∧
    (Admits s q (seqPage seq.val) 0x040 →
      let t := s.reply 0 []
      let v := SEQ.SEQ_CTL.OOS.of w
      (v = 3 → exec (.actuatorOosSet q seq w) s = .next (schSettle (settleCharge (plainWrite
        (setOos (setOos t (2 * seq.val)) (2 * seq.val + 1)) q (seqPage seq.val) 0x040 w)) [])) ∧
      (v = 2 → exec (.actuatorOosSet q seq w) s = .next (schSettle (settleCharge (plainWrite
        (setOos t (2 * seq.val + 1)) q (seqPage seq.val) 0x040 w)) [])) ∧
      (v = 1 → exec (.actuatorOosSet q seq w) s = .next (schSettle (settleCharge (plainWrite
        (setOos t (2 * seq.val)) q (seqPage seq.val) 0x040 w)) [])) ∧
      (v = 0 → exec (.actuatorOosClear q seq w) s =
        .next (schSettle (settleCharge (plainWrite t q (seqPage seq.val) 0x040 w)) [])))

/-- The weave engine (R280-R286, R296). It serves the descriptor it picks from its rings as an encode, an accumulate,
a verify or a reconstruction, by the descriptor's operation; SCH's reconstruct port comes before its rings, its
descriptor shown as source 4 while it runs; a parity fault ends the running descriptor with status 6, spoils what it
wrote and faults the page; ARM arms the erasure injection. -/
def Obligations.WeaveCommands : Prop :=
  ∀ (s : State) (q : Req) (w : BitVec 32),
    (∀ m taken x t, wevTakes s = true → portFirst s = false → wevPick s = some (m, taken) →
      ringStart s (s.get WEV.RING.RING 0 m) 1 = some (x, t) →
      let op := ((ringPeek s (s.get WEV.RING.RING 0 m)).getD []).headD 0 % 16
      (op ≠ 2 → op ≠ 3 → op ≠ 4 → exec .wevEncode s = .next (wevServe s fun _ => true)) ∧
      (op = 2 → exec .wevAccum s = .next (wevServe s fun _ => true)) ∧
      (op = 4 → exec .wevVerify s = .next (wevServe s fun _ => true)) ∧
      (op = 3 → s.sch.portRun = none → exec .wevRecon s = .next (wevServe s fun _ => true))) ∧
    (∀ e r rest, s.sch.portRun = none → s.sch.port = (e, r) :: rest → portFirst s = true → wevTakes s = true →
      let t := s.schMap fun x => { x with port := rest }
      let t : State := { t with wev := { t.wev with portBusy := true } }
      let o := wevRun (((t.put WEV.WEV_STAT.SRC 4).put WEV.WEV_STAT.OP (descOp e)).put WEV.WEV_STAT.ZONE (descZone e)) e
      exec .wevRecon s = .next (o.2.2.schMap fun x => { x with portRun := some (e, r, o.1, o.2.1.poisoned) })) ∧
    (∀ e r st poisoned, s.sch.portRun = some (e, r, st, poisoned) →
      let t := wevIdle (wevCount (s.schMap fun x => { x with portRun := none }) e st poisoned)
      exec .wevRecon s =
        .next (schSettle (reconDone (if t.wev.disabling then wevOff t else t) r st) [r.zone])) ∧
    (domainLive s wevPage.domain = true → pageState (s.bump WEV.PARITY.PARITY_CNT) wevPage ≠ stFault →
      let t := s.bump WEV.PARITY.PARITY_CNT
      let faults (t : State) : State := pageFault { t with wev := { t.wev with disabling := false } } wevPage 5 3
      (s.wev.cur = none → s.sch.portRun = none → exec .wevParityFault s = .next (faults t)) ∧
      (∀ c, s.wev.cur = some c → s.sch.portRun = none →
        let x := t.ring c.ring
        exec .wevParityFault s = .next (faults (wevSpoil (t.setRing c.ring { x with
          done := x.done.map fun d => if d.n = c.n then
            { d with status := 6, bytes := [(0, wevCompletion 6 { poisoned := d.poisoned } d.byte1)] } else d }) c.entry))) ∧
      ∀ e r st p, s.wev.cur = none → s.sch.portRun = some (e, r, st, p) →
        exec .wevParityFault s = .next (faults (wevSpoil { t with sch := { t.sch with portRun := some (e, r, 6, p) } } e))) ∧
    (Admits s q wevPage 0x064 → WEV.ERASE_INJ.ARM.of w = 1 →
      exec (.eraseInjArm q w) s = .next ((plainWrite (s.reply 0 []) q wevPage 0x064 w).put WEV.ERASE_INJ.ARM 1))

/-- Queues of a controller (R301, R304, R310-R312, R317, R319, R320, R332). A doorbell that names a live queue and a
value within it moves the tail or head; completions post to their queue with their submission queue's head, and the
slot they free serves a waiting management request; a full queue that waits too long warns; a coalesced interrupt and
an unmasked vector signal; a controller becomes ready and shuts down. -/
def Obligations.QueueCommands : Prop :=
  ∀ (s : State) (ctrl : Fin 2) (queue : Fin 2048) (value : BitVec 32),
    let n := ctrl.val
    let c := s.ctl n
    let y := queue.val
    (∀ q, domainLive s (hqPage n).domain = true → c.sq y = some q → q.deleting = none → value.toNat < q.size →
      q.unfetched ≤ ringGap q.size value.toNat q.head →
      exec (.sqTailDoorbell ctrl queue value) s =
        .next (s.setCtl n (c.setSq y (some { q with tail := value.toNat })))) ∧
    (∀ q, domainLive s (hqPage n).domain = true → c.cq y = some q → value.toNat < q.size →
      ringGap q.size value.toNat q.head ≤ ringGap q.size q.tail q.head →
      exec (.cqHeadDoorbell ctrl queue value) s =
        .next (s.setCtl n (c.setCq y (some { q with head := value.toNat
                                                    warned := q.warned && ({ q with head := value.toNat } : Cq).full })))) ∧
    (∀ q e es, c.cq y = some q → q.waiting = e :: es → q.full = false → s.get HQ.HQ_STAT.CFS n ≠ 1 →
      working s (hqPage n) = true →
      let t := { q with tail := (q.tail + 1) % max 1 q.size, waiting := es, fresh := q.fresh + 1 }
      let r := if signalsNow c y t then signalCq c y t else (false, c.setCq y (some t))
      let named := { e with sqHead := ((c.sq e.sqid).map (·.head)).getD 0 }
      let u := countMoved (((s.reply 0 []).setCtl n r.2).setSlot e.slot { gen := (s.slot e.slot).gen }) (portOf s n) true 16
      let v := settleShutdown (settleDeletes (answerAborts
        { u with answer := { u.answer with posted := u.answer.posted ++ [(n, y, q.tail, named, r.1)] } } n e.slot) n) n
      let z := serveTunnel v
      exec (.completionPost ctrl queue) s =
        .next { z with answer := { z.answer with posted := v.answer.posted } }) ∧
    (∀ q, c.cq y = some q → q.full = true → q.warned = false →
      exec (.cqFullTimeout ctrl queue) s = .next (raise ((s.setCtl n (c.setCq y (some { q with warned := true }))).bump
        HQ.WAIT_CNT.CQ_FULL 1 n) (hqPage n) 6 7)) ∧
    (∀ q, c.cq y = some q → q.fresh ≠ 0 → q.ien = true →
      exec (.interruptCoalesceTimeout ctrl queue) s =
        .next ((s.setCtl n (signalCq c y q).2).reply (if (signalCq c y q).1 then 1 else 0) [])) ∧
    exec (.msixVectorUnmask ctrl queue) s = .next ((s.setCtl n { c with
      unmasked := if c.unmasked.contains y then c.unmasked else c.unmasked ++ [y]
      pendingBits := c.pendingBits.filter fun v => v ≠ y }).reply (if c.pendingBits.contains y then 1 else 0) []) ∧
    (∀ ams mps css asq acq irq mask vectors, domainLive s (hqPage n).domain = true → s.get HQ.HQ_STAT.CC_EN n ≠ 1 →
      ¬(s.get DOM.DOM_STAT.START_KIND = 3 ∧ n = 1) →
      let t := raise ((s.put HQ.HQ_STAT.CC_EN 1 n).put HQ.ARB.AMS ams.toNat n) (hqPage n) 0 7
      let set : Ctl := { t.ctl n with mps := mps.val, css := css.toNat, irq := irq, intMask := mask.toNat
                                      vectors := if irq = .msix then vectors else 1 }
      let opens := { set with opening := some (asq, acq) }
      let u := (t.setCtl n opens).reply 0 ctlRegisters
      (running t (hqPage n) = false ∨ c.closing = true →
        exec (.controllerEnable ctrl ams mps css asq acq irq mask vectors) s = .next u) ∧
      (running t (hqPage n) = true → c.closing = false →
        exec (.controllerEnable ctrl ams mps css asq acq irq mask vectors) s = .next (((u.setCtl n
          ((({ opens with opening := none } : Ctl).setSq 0 (some { size := asq, cq := 0 })).setCq 0
            (some { size := acq, ien := true }))).put HQ.HQ_STAT.RDY 1 n).put HQ.HQ_STAT.SHST 0 n))) ∧
    (domainLive s (hqPage n).domain = true →
      exec (.shutdownNotify ctrl) s =
        .next (settleShutdown ((raise s (hqPage n) 1 7).put HQ.HQ_STAT.SHST 1 n) n))

/-- Command transport (R303-R308, R310, R314, R315, R327, R335, R353). Entries of the picked submission queue are
fetched in its turn; OUT start marks its command started and OUT complete posts its completion; the queue management
commands create, delete and answer; an asynchronous event request waits or takes the oldest event of a type that is
not masked. -/
def Obligations.TransportCommands : Prop :=
  ∀ (s : State) (ctrl : Fin 2) (slot : Fin 4096) (qid qsize : BitVec 16) (entries : List (List Byte)),
    let n := ctrl.val
    let k := slot.val
    let m := (s.slot k).ctrl
    let c := s.ctl m
    let y := qid.toNat
    let ring := s.get HQ.OUT_RING.RING n
    (∀ e x t, ringPeek s ring = some e → working s (hqPage n) = true → s.get HQ.HQ_STAT.CFS n ≠ 1 →
      ringStart s ring (3 + 2 * n) = some (x, t) → ∀ j, outOwned t n x.2 = some j →
      (e.headD 0 = 1 → (t.slot j).st = .fetched →
        exec (.outStart ctrl) s = .next (ringDone (t.setSlot j { t.slot j with st := .started }) ring
          { n := x.1, bytes := [(0, [0])], status := 0, entry := x.2 })) ∧
      (e.headD 0 = 2 → x.2.headD 0 = 2 →
        exec (.outComplete ctrl) s = .next (ringDone (acceptCqe t j
          (.word (leNat ((x.2.drop 4).take 4) % 2 ^ 15)) (leNat ((x.2.drop 8).take 4)) (leNat ((x.2.drop 12).take 4)))
          ring { n := x.1, bytes := [(0, [0])], status := 0, entry := x.2 }))) ∧
    (serves s k true = true →
      (∀ pc ien (iv : BitVec 16) (prp : BitVec 64), pc = true → pageAligned c prp.toNat = true → y ≠ 0 → y ≤ 2047 → (c.cq y).isNone = true →
        qsize.toNat ≠ 0 → qsize.toNat ≤ 0xFFF → (ien = true → iv.toNat < c.vectors) →
        exec (.createIoCq slot qid qsize pc ien iv prp) s = .next (endCmd (s.setCtl m (c.setCq y
          (some { size := qsize.toNat + 1, iv := iv.toNat, ien := ien }))) k .success)) ∧
      (∀ pc prio (cqid : BitVec 16) (prp : BitVec 64), pc = true → pageAligned c prp.toNat = true → y ≠ 0 → y ≤ 2047 → (c.sq y).isNone = true →
        qsize.toNat ≠ 0 → qsize.toNat ≤ 0xFFF → cqid.toNat ≠ 0 → (c.cq cqid.toNat).isSome = true →
        exec (.createIoSq slot qid qsize pc prio cqid prp) s = .next (endCmd (s.setCtl m (c.setSq y
          (some { size := qsize.toNat + 1, cq := cqid.toNat, prio := prio.val }))) k .success)) ∧
      (y ≠ 0 → (c.cq y).isSome = true →
        (∀ e ∈ c.sqs, ∀ q, e.2 = some q → q.cq ≠ y) →
        exec (.deleteIoCq slot qid) s = .next (endCmd (s.setCtl m (c.setCq y none)) k .success)) ∧
      (∀ q, y ≠ 0 → c.sq y = some q → q.deleting = none →
        let t := s.setCtl m (c.setSq y (some { q with deleting := some k }))
        let l := heldSlots t m fun x => x.sqid = y && x.st = .fetched
        exec (.deleteIoSq slot qid) s = .next (settleDeletes (raiseIf (!l.isEmpty)
          (l.foldl (fun s k => endCmd (s.bump HQ.ABORT_CNT.SQ_DEL 1 m) k .abortedSqDeletion) t) (hqPage m) 3 7) m)) ∧
      (c.aers.contains k = false → c.aers.length < 16 →
        let t := s.setCtl m { c with aers := c.aers ++ [k] }
        let d := t.ctl m
        let open' := d.events.find? fun e => !(d.muted.any fun x => x.type = e.type)
        (open' = none → exec (.asyncEventRequest slot) s = .next t) ∧
        ∀ e, open' = some e → d.aers ≠ [] → exec (.asyncEventRequest slot) s =
          .next (asyncEvent (t.setCtl m { d with events := d.events.filter fun x => x ≠ e }) m e))) ∧
    (∀ i u p, (takesTurn s (turnOrder s).1 = true ∧ i = (turnOrder s).1 ∧ u = s) ∨
        (takesTurn s (turnOrder s).1 = false ∧ i = (turnOrder s).2 ∧ u = countStall s (turnOrder s).1 ∧
          takesTurn u i = true) →
      pickQueue u i = some p →
      let free := min p.left (turnLeft u i)
      let want := min (min (min 8 p.q.unfetched) (min (p.q.size - p.q.head) (slotsFor u i (p.y = 0)))) free
      let last := sget (0, 0) (u.ctl i).served p.cls
      let used := if last.1 = p.y && decide (last.2 < burstOf u i) then last.2 else 0
      let r := fetchRunOf i p.y ((entries.take want).map fun e => e.map (·.toNat)) (0, u)
      let turn := (i, max 1 (u.get HQ.CTRL_WEIGHT.WEIGHT i) - turnLeft u i + r.1)
      let v : State := { r.2 with nvme := { r.2.nvme with turn := turn } }
      exec (.commandFetch entries) s = .next (if p.y = 0 then v else v.setCtl i { v.ctl i with
        served := sset (0, 0) (v.ctl i).served p.cls (p.y, used + r.1), credits := p.after r.1 }))

/-- Controllers and ports (R318, R320-R323, R332, R334). A controller fault, an abort by what it finds, disable (of a
failed controller, with the reset of its host-queue domain), function level reset. -/
def Obligations.ControllerCommands : Prop :=
  ∀ (s : State) (ctrl : Fin 2) (slot : Fin 4096) (sqid cid : BitVec 16) (entries : List (List Byte)),
    let n := ctrl.val
    let k := slot.val
    let m := (s.slot k).ctrl
    (domainLive s (hqPage n).domain = true → exec (.hqFault ctrl) s = .next (hqFault s n)) ∧
    (serves s k true = true →
      let t := raise s (hqPage m) 4 7
      (t.ctl m).aborts.length < 16 →
      (∀ j, findCommand t m sqid.toNat cid.toNat = some j →
        exec (.abort slot sqid cid entries) s =
          .next (schSettle (decideAbort t m k j) (t.nvme.cmds.map (·.zone)).eraseDups)) ∧
      (findCommand t m sqid.toNat cid.toNat = none →
        let u := fetchNamed t m sqid.toNat entries
        (∀ j, findCommand u m sqid.toNat cid.toNat = some j →
          exec (.abort slot sqid cid entries) s = .next (decideAbort u m k j)) ∧
        (findCommand u m sqid.toNat cid.toNat = none →
          exec (.abort slot sqid cid entries) s = .next (abortMissed u m k)))) ∧
    (domainLive s (hqPage n).domain = true → s.get HQ.HQ_STAT.CC_EN n ≠ 0 → s.get HQ.HQ_STAT.CFS n ≠ 1 →
      exec (.controllerDisable ctrl) s = .next (controllerDisable s n)) ∧
    (domainLive s (hqPage n).domain = true → s.get HQ.HQ_STAT.CC_EN n ≠ 0 → s.get HQ.HQ_STAT.CFS n = 1 →
      let t := controllerDisable s n
      let u := (resetDomain (t.bump DOM.DOM_CNT.RESETS) (hqPage n).domain).put HQ.HQ_STAT.CFS 0 n
      exec (.controllerDisable ctrl) s = .next (if pageEnabled t (hqPage n)
        then setPageState (u.put HDR.PAGE_CTL.ENABLE 1 (hqPage n).index) (hqPage n) stRun else u)) ∧
    (portLive s (portOf s n) = true →
      let f := if s.straps.port then n else 0
      exec (.functionLevelReset ctrl) s = .next (resetFunction (raise (s.put PCX.FUNC_STAT.FLR
        (setBit (s.get PCX.FUNC_STAT.FLR (portOf s n)) f true) (portOf s n)) (pcxPage (portOf s n)) 5 7) n))

/-- PCIe ports (R299, R300, R333, R334): PERST, loss and training of the link, and its uncorrectable errors. -/
def Obligations.PortCommands : Prop :=
  ∀ (s : State) (port : Fin 2) (speed width : BitVec 3),
    let p := port.val
    (portLive s p = true →
      exec (.perstAssert port) s = .next (portDown (raise (s.put PCX.PCX_STAT.PERST 1 p) (pcxPage p) 1 7) p) ∧
      exec (.perstDeassert port) s = .next (s.put PCX.PCX_STAT.PERST 0 p) ∧
      exec (.pcieLinkLoss port) s = .next (portLost s p)) ∧
    (portLive s p = true → s.get PCX.PCX_CTL.LINK_EN p ≠ 0 → s.get PCX.PCX_STAT.PERST p ≠ 1 →
      s.get PCX.PCX_STAT.LINK_UP p ≠ 1 → (∀ d ∈ portPhys s p, domainLive s d = true) →
      let v := min (max 1 speed.toNat) (portSpeed s p)
      let l := min (if width.toNat < 2 then 1 else if width.toNat < 4 then 2 else 4) (portLanes s)
      let t := ((s.put PCX.PCX_STAT.LINK_UP 1 p).put PCX.PCX_STAT.SPEED v p).put PCX.PCX_STAT.WIDTH l p
      let t := (t.put PCX.PCX_STAT.LTSSM t.free p).drawn
      let u := t.reply 0 (functionData t p)
      exec (.pcieLinkUp port speed width) s =
        .next (raiseIf (decide (v < portSpeed u p) || decide (l < portLanes u)) (raise u (pcxPage p) 0 7) (pcxPage p) 2 7)) ∧
    exec (.pcieTlpError port .ecrc) s = .next (uncSet s p PCX.UNC_STAT.ECRC) ∧
    exec (.pcieTlpError port .malformed) s = .next (uncSet s p PCX.UNC_STAT.MALFORMED) ∧
    exec (.pcieTlpError port .unexpected) s = .next (uncSet s p PCX.UNC_STAT.UNEXP_CPL) ∧
    exec (.pcieTlpError port .poisoned) s = .next (uncSet s p PCX.UNC_STAT.POISONED) ∧
    exec (.pcieTlpError port .receiver) s = .next (errCount s p PCX.ERR_CNT.RCV_ERR) ∧
    exec (.pcieTlpError port .replay) s = .next (errCount s p PCX.ERR_CNT.REPLAY) ∧
    exec (.pcieCompletionTimeout port) s = .next (uncSet s p PCX.UNC_STAT.CPL_TIMEOUT)

/-- The management interface (R329, R330, R333, R334, R352): its requests are answered from the registers, the
strapped ports, the configuration and the VPD; a packet error is counted; a tunnelled admin command waits in a queue
of four. -/
def Obligations.ManagementCommands : Prop :=
  ∀ (s : State) (ctrl : Fin 2), miServed s = true →
    (∀ n : Fin 2, exec (.miReadDataStructure .subsystem) s =
        .next (miReply s [if s.straps.port then 1 else 2, 1, 2]) ∧
      exec (.miReadDataStructure (.port n)) s =
        .next (miReply s (if s.straps.port && n.val = 1 then [0] else [1, 5, portLanes s, 64])) ∧
      exec (.miReadDataStructure .controllers) s = .next (miReply s [0, 1]) ∧
      exec (.miReadDataStructure (.controller n)) s =
        .next (miReply s [portOf s n.val, s.fuses.vendor, s.fuses.device])) ∧
    exec (.miReadDataStructure .optional) s = .next (miReply s []) ∧
    exec (.miSubsystemHealthPoll) s =
      .next (miReply s ([s.get PCX.PCX_STAT.LINK_UP 0, s.get PCX.PCX_STAT.LINK_UP 1] ++ smartData s)) ∧
    exec (.miControllerHealthPoll ctrl) s = .next (miReply s ([s.get HQ.HQ_STAT.RDY ctrl.val,
      s.get HQ.HQ_STAT.CFS ctrl.val, s.get HQ.HQ_STAT.SHST ctrl.val] ++ smartData s)) ∧
    exec (.miConfigurationGet .unitSize) s = .next (miReply s [sget 64 s.nvme.miConfig 3]) ∧
    exec (.miConfigurationGet .frequency) s =
      .next (miReply s [if s.straps.mgmt then 0 else sget 1 s.nvme.miConfig 1]) ∧
    exec (.miConfigurationGet .healthChange) s = .next (miReply s [sget 0 s.nvme.miConfig 2]) ∧
    (∀ item (v : BitVec 32),
      (item = .frequency → s.straps.mgmt = true ∨ v = 0 ∨ 3 < v.toNat →
        exec (.miConfigurationSet item v) s = .next (s.reply 4 [])) ∧
      ((item = .frequency → s.straps.mgmt = false ∧ v ≠ 0 ∧ v.toNat ≤ 3) →
        exec (.miConfigurationSet item v) s = .next (({ s with nvme := { s.nvme with
          miConfig := sset (miDefault item) s.nvme.miConfig (miKey item) v.toNat } } : State).reply 0 []))) ∧
    (∀ off len : BitVec 16, exec (.miVpdRead off len) s =
      .next (miReply s ((List.range len.toNat).map fun i => sget 0 s.nvme.vpd (off.toNat + i)))) ∧
    (∀ (off : BitVec 16) (bytes : List Byte), exec (.miVpdWrite off bytes) s =
      .next (({ s with nvme := { s.nvme with vpd := (bytes.foldl (fun (a : Sparse Nat × Nat) (b : Byte) =>
        (sset 0 a.1 a.2 b.toNat, a.2 + 1)) (s.nvme.vpd, off.toNat)).1 } } : State).reply 0 [])) ∧
    (∀ cmd, s.nvme.tunnel.length < 4 → exec (.miTunnelledAdmin cmd) s =
      .next (serveTunnel { s.reply 0 [] with nvme := { s.nvme with tunnel := s.nvme.tunnel ++ [cmd] } })) ∧
    (miOn s = true → exec .mctpPacketError s = .next (raise (s.bump PCX.MI_STAT.MI_ERR) (pcxPage 0) 7 7))

/-- Admin commands that report or set (R302, R326, R335, R336, R352, R354, R356, R361, R538, R539, R544): Identify,
Get Log Page, Set and Get Features, an ownership move, self-tests, sanitizes, and the security protocols. -/
def Obligations.AdminCommands : Prop :=
  ∀ (s : State) (slot : Fin 4096) (nsid : BitVec 32), serves s slot.val true = true →
    let k := slot.val
    let n := (s.slot k).ctrl
    let s' := s.reply 0 []
    (∀ (cns csi : BitVec 8) (cntid : BitVec 16) d, identifyData s' n cns.toNat nsid.toNat csi.toNat cntid.toNat = .ok d →
      exec (.identify slot cns nsid csi cntid) s = .next (endWith (countMoved s' (portOf s' n) true 4096) k d)) ∧
    (∀ (lid : BitVec 8) (offset : BitVec 64) (numd : BitVec 32) rae d, offset.toNat % 4 = 0 →
      logData s' n lid.toNat nsid.toNat = .ok d → offset.toNat ≤ d.length →
      let part := (d.drop offset.toNat).take (4 * (numd.toNat + 1))
      exec (.getLogPage slot lid nsid offset numd rae) s = .next (endWith
        (countMoved (logRead s' n lid.toNat nsid.toNat rae) (portOf s' n) true part.length) k part)) ∧
    (∀ (fid : BitVec 8) (w : BitVec 32) save (data : List Byte) t, featureIds.contains fid.toNat = true → fid ≠ 0xC0 →
      (save = true → saveable fid.toNat = true) →
      setFeature s n fid.toNat nsid.toNat w.toNat (data.map (·.toNat)) = .ok t →
      exec (.setFeatures slot fid nsid save w data) s =
        .next (endCmd (if save then saveFeature t n fid.toNat nsid.toNat w.toNat else t) k .success (if fid = 7 then 0x07FE07FE else 0))) ∧
    (∀ (fid : BitVec 8) (w : BitVec 32), featureIds.contains fid.toNat = true →
      let f := fid.toNat
      let give (v : Nat) : State := endWith s' k [v] (v % 2 ^ 32)
      (∀ v, featureValue s' n f nsid.toNat w.toNat = .ok v → exec (.getFeatures slot fid nsid 0 w) s = .next (give v)) ∧
      exec (.getFeatures slot fid nsid 1 w) s = .next (give (featureDefault f w.toNat)) ∧
      exec (.getFeatures slot fid nsid 2 w) s = .next (give ((savedValue s n f nsid.toNat w.toNat).getD (featureDefault f w.toNat))) ∧
      exec (.getFeatures slot fid nsid 3 w) s =
        .next (give ((if saveable f then 1 else 0) + (if featureOfNs f then 2 else 0) + 4))) ∧
    (∀ (ctrl : Fin 2) x, nsid.toNat ≠ 0 → nsid.toNat ≤ 64 → s.ns (nsid.toNat - 1) = some x → x.moving = none →
      x.attached.contains ctrl.val = true →
      (x.owner = some ctrl.val → exec (.anaOwnerSet slot nsid ctrl) s = .next (endCmd s k .success)) ∧
      (x.owner ≠ some ctrl.val → exec (.anaOwnerSet slot nsid ctrl) s = .next (settleMoves (startSlot
        (s.modNs (nsid.toNat - 1) fun n => { n with moving := some (ctrl.val, some k) }) k)))) ∧
    (s.nvme.sanitize.running = false → s.nvme.selfTest = none → nsid.toNat = 0 ∨ nsid.toNat = 0xFFFFFFFF →
      let here := (allNs s).filterMap fun e => if e.2.attached.contains n then some e.1 else none
      let tests (code : Nat) : State := schSettle (endCmd { s with nvme := { s.nvme with
        selfTest := some { code := code, nss := if nsid.toNat = 0 then [] else here } } } k .success) []
      exec (.selfTestShort slot nsid) s = .next (tests 1) ∧ exec (.selfTestExtended slot nsid) s = .next (tests 2)) ∧
    exec (.selfTestAbort slot) s = .next (endCmd (testStep (testMap s fun t => { t with stop := true })) k .success) ∧
    (s.nvme.sanitize.running = false → n = 0 → ∀ (passes : BitVec 4) (pattern : BitVec 32) (invert : Bool),
      let starts (t : State) (passes pattern : Nat) (invert : Bool) : State :=
        { t with nvme := { t.nvme with sanitize := { t.nvme.sanitize with
          running := true, passes := passes, pattern := pattern, invert := invert, zones := strandsLeft t } } }
      let u := eraseAll (selfTestEnds s 9)
      exec (.sanitizeCryptoErase slot) s = .next (endCmd (starts u 0 0 false) k .success) ∧
      exec (.sanitizeOverwrite slot passes pattern invert) s = .next (endCmd (starts
        { u with media := { u.media with frames := u.media.frames.filter fun x => !overwritten u x.1 } }
        (if passes.toNat = 0 then 16 else passes.toNat) pattern.toNat invert) k .success)) ∧
    exec (.securityProtocolList slot) s = .next (endWith s' k [0x00, 0xF0]) ∧
    (s.sec.alias_ = none → exec (.securityCertChain slot) s = .next (endWith s' k (identityCert s))) ∧
    (∀ a, s.sec.alias_ = some a → exec (.securityCertChain slot) s =
      .next (endWith s' k (identityCert s ++ [a.1, s.fuses.serial, a.2.1, a.2.2]))) ∧
    (∀ nonce : BitVec 256, s.get SEC.SEC_STAT.ALIAS_READY ≠ 0 →
      let versions := (List.range 7).flatMap fun k =>
        (sget none s.sec.versions k).elim [] fun v => [k, v.1, v.2.1, v.2.2]
      exec (.securityAttestReport slot nonce) s =
      .next (endWith s'.drawn k ([s.fuses.serial, s.get EVR.CYCLES.COUNT, operatingSeconds s] ++
        (List.range 4).map (fun b => sget 0 s.sec.banks b) ++ [nonce.toNat] ++ (List.range 7).map (minSvn s) ++
        [lockLevel s] ++ versions ++ [s'.free]))) ∧
    exec (.securityUnlockNonce slot) s =
      .next (endWith s' k ((List.range 8).map fun i => bits (s.sec.nonce.getD 0) (32 * i) 32))

/-- Namespace management (R267, R325, R326, R337-R340, R360): create, delete, attach, detach and format, once every
check of the command passes. -/
def Obligations.NamespaceCommands : Prop :=
  ∀ (s : State) (slot : Fin 4096) (nsid : BitVec 32) (ctrls : List (Fin 2)),
    let k := slot.val
    let y := nsid.toNat
    let l := (ctrls.map (·.val)).eraseDups
    serves s k true = true → s.nvme.sanitize.running = false →
    (∀ y n (lbaf : BitVec 6) (prot : BitVec 3) (first ext : Bool), y = nsid.toNat → y ≠ 0 → y ≤ 64 → s.ns (y - 1) = some n →
      n.deleting = false → n.formatting = false → n.conflict (hostOf s k) true = false → lbaf.toNat ≤ 3 →
      prot.toNat ≤ 3 → (lbaf = 0 → prot = 0) → (lbaf = 1 → first = false) →
      let starts (erase : Bool) : State := settleHost (enterOrder
        (s.modNs (y - 1) fun n => { n with formatting := true, older := nsCommands s k (y - 1) })
        { slot := k, op := .format lbaf.toNat (prot.toNat + (if first then 8 else 0)) ext erase, nsx := y - 1
          zone := 2 ^ 19, first := 0, count := 0, lba := 0 }) (2 ^ 19)
      exec (.formatNvm slot nsid lbaf prot first ext) s = .next (starts false) ∧
      exec (.formatNvmCryptoErase slot nsid lbaf prot first ext) s = .next (starts true)) ∧
    ((s.slot k).ctrl = 0 →
      (∀ (csi : BitVec 8) (nsze ncap : BitVec 64) (flbas dps : BitVec 8) (weave : BitVec 2) verified place x,
        createCheck s csi.toNat nsze.toNat ncap.toNat flbas.toNat dps.toNat weave.toNat place = none →
        (List.range 64).find? (fun k => (s.ns k).isNone) = some x →
        let kind := kindOf csi.toNat weave.toNat
        let bands := (createPlace s kind (nsze.toNat / zoneSize kind) place).getD []
        let zones := freeZones s bands.length
        let t := ((zones.zip bands).foldl (makeZone x kind verified) s).setNs x (some
          { kind := kind, verified := verified, lbaf := flbas.toNat % 16, prot := dps.toNat % 16
            ext := bit flbas.toNat 4, zones := zones })
        exec (.nsCreate slot csi nsze ncap flbas dps weave verified place) s =
          .next (endCmd (nsAttributeChanged (replaceKey t x) x) k .success (x + 1))) ∧
      (∀ xs, (y ≠ 0xFFFFFFFF → y ≠ 0 ∧ y ≤ 64 ∧ xs = [y - 1]) → (y = 0xFFFFFFFF → xs = (allNs s).map (·.1)) →
        (∀ x ∈ xs, ∃ n, s.ns x = some n ∧ n.deleting = false ∧ n.conflict (hostOf s k) true = false) →
        exec (.nsDelete slot nsid) s = .next (settleHost (enterOrder
          (xs.foldl (fun s x => s.modNs x fun n => { n with deleting := true, older := nsCommands s k x }) s)
          { slot := k, op := .nsDelete xs, nsx := xs.headD 64, zone := 2 ^ 19, first := 0, count := 0, lba := 0 }) (2 ^ 19))) ∧
      ∀ n, y ≠ 0 → y ≤ 64 → s.ns (y - 1) = some n → n.deleting = false → ctrls ≠ [] →
        n.conflict (hostOf s k) true = false →
        (l.any n.attached.contains = false → exec (.nsAttach slot nsid ctrls) s =
          .next (endCmd (nsAttributeChanged (s.modNs (y - 1) fun n => { n with
            attached := n.attached ++ l, owner := if n.attached.isEmpty then l.head? else n.owner }) (y - 1)) k .success)) ∧
        (l.all n.attached.contains = true →
          let t := l.foldl (fun s c => ownerLeaves s c (y - 1))
            (s.modNs (y - 1) fun n => { n with attached := n.attached.filter fun c => !l.contains c })
          exec (.nsDetach slot nsid ctrls) s = .next (endCmd (nsAttributeChanged
            (t.modNs (y - 1) fun n => if n.attached.isEmpty then { n with owner := none } else n) (y - 1)) k .success)))

/-- Firmware slots (R357-R359, R565, R566). A download keeps its piece; a commit verifies the pending image, stores it
and names it for the next start or replaces the running parts. -/
def Obligations.FirmwareCommands : Prop :=
  ∀ (s : State) (slot : Fin 4096) (offset : BitVec 32) (bytes : List Byte) (fs : BitVec 3),
    let k := slot.val
    let a := offset.toNat * 4
    let pick := commitSlot s fs.toNat
    let img := pendingImage s.nvme.pieces
    let stored (t : Nat) : State :=
      storeImage { s with nvme := { s.nvme with pieces := [] } } t (img.take (imageTotal img))
    let mayStore (t : Nat) : Prop := slotWritable s t = true ∧ nvFree s = true ∧ s.wires.pfail = false ∧
      imageCheck s img t (t ≠ 1) = 0
    let standing (s : State) (t : Nat) : Prop := 1 ≤ t ∧ t ≤ 4 ∧ imageCheck s (slotImage s t) t (t ≠ 1) = 0
    serves s k true = true → s.nvme.sanitize.running = false →
    (a % 4096 = 0 → bytes.length % 4096 = 0 → bytes ≠ [] → a + bytes.length ≤ 33554432 →
      s.nvme.pieces.any (fun e => overlaps a bytes.length e.1 e.2.length) = false →
      exec (.fwImageDownload slot offset bytes) s = .next (endCmd { s with nvme := { s.nvme with
        pieces := s.nvme.pieces ++ [(a, bytes.map (·.toNat))] } } k .success)) ∧
    (mayStore pick →
      exec (.fwCommitStore slot fs) s = .next (endCmd (stored pick) k .success) ∧
      exec (.fwCommitStoreActivate slot fs) s = .next (activateNext (stored pick) k pick)) ∧
    (recovering s = false →
      (standing s fs.toNat → exec (.fwCommitActivate slot fs) s = .next (activateNext s k fs.toNat)) ∧
      (s.nvme.activation = none →
        let starts (t : State) (i : Nat) : State :=
          let new : Activation := ⟨k, (t.slot k).gen, i, activationOrder (slotImage t i), false, false⟩
          if safeStart t then activateNext t k i
          else activationStep (startSlot { t with nvme := { t.nvme with activation := some new } } k)
        (s.nvme.pieces = [] → standing s fs.toNat →
          exec (.fwCommitActivateNow slot fs) s = .next (starts s fs.toNat)) ∧
        (s.nvme.pieces ≠ [] → mayStore pick → standing (stored pick) pick →
          exec (.fwCommitActivateNow slot fs) s = .next (starts (stored pick) pick))))

/-- Reads, writes and flushes of a namespace (R341-R343, R346, R347). Once every check of the command passes, a read
or verify takes lines for the blocks it needs and enters the order; a write or Zone Append enters the order at its
zone's write pointer; a flush completes at once. -/
def Obligations.ReadWriteCommands : Prop :=
  ∀ (s : State) (slot : Fin 4096) (nsid : BitVec 32) (lba : BitVec 64) (nlb : BitVec 16) (fua : Bool)
    (data md : List Byte) (pi : PiIn) (x : Nat) (n : Ns),
    let k := slot.val
    let count := nlb.toNat + 1
    let s' := s.reply 0 []
    let blocks (ref : Nat) : List (List Nat) := hostBlocks n pi ref (data.map (·.toNat)) (md.map (·.toNat)) count
    TakesIo s k nsid.toNat x n →
    (∀ zone first lines t, schEasing s' = false → blockAt n lba.toNat = some (zone, first) →
      let bs := blocksOf n lba.toNat count
      let need := bs.filter (needsRead s' x n)
      allocLines s' need.length (fun i q => { kind := lkRead, nsx := x, zone := ((need[i]?).getD (0, 0)).1
                                              offset := ((need[i]?).getD (0, 0)).2, seq := q, slot := some k }) =
        (some lines, t) →
      let r := readParts x n k bs lines t
      let spoiled := (need.zip lines).filterMap fun e => if copySpoiled t n e.1 then some e.2 else none
      let wanted := lines.filter fun i => !spoiled.contains i
      let begun (op : HostOp) : State :=
        let u := spoiled.foldl stepEight (enterOrder (startSlot r.2 k) { slot := k, op := op, nsx := x, zone := zone
                                                                         first := first, count := count
                                                                         lba := lba.toNat, parts := r.1, pi := pi })
        if wanted.isEmpty then u else planReads u .hostRead (some k) wanted
      (readCheck s' k n .read lba.toNat count = none → exec (.nvmRead slot nsid lba nlb pi) s =
        .next (settleHost (readAhead (begun .read) x zone n.kind first count) zone)) ∧
      (readCheck s' k n .verify lba.toNat count = none → exec (.nvmVerify slot nsid lba nlb pi) s =
        .next (settleHost (begun .verify) zone))) ∧
    (∀ zone off, blockAt n lba.toNat = some (zone, off) → resetPending s' x zone = false →
      (let b := blocks pi.ref.toNat;
        writeCheck s' k n lba.toNat count (blocksFailure n pi pi.ref.toNat b) = none → count ≤ 256 →
        (n.kind ≠ 3 → exec (.nvmWrite slot nsid lba nlb fua data md pi) s =
          .next (writeZone s' k x n .write zone off lba.toNat fua pi b)) ∧
        (n.kind = 3 → exec (.nvmWrite slot nsid lba nlb fua data md pi) s =
          .next (takeWrite s' k x .write zone off lba.toNat fua pi b none))) ∧
      (let b := hostBlocks n pi pi.ref.toNat [] [] count;
        writeCheck s' k n lba.toNat count none = none →
        (n.kind ≠ 3 → exec (.writeZeroes slot nsid lba nlb fua pi) s =
          .next (writeZone s' k x n .zeroes zone off lba.toNat fua pi b)) ∧
        (n.kind = 3 → exec (.writeZeroes slot nsid lba nlb fua pi) s =
          .next (takeWrite s' k x .zeroes zone off lba.toNat fua pi b none))) ∧
      (let b := blocks lba.toNat;
        appendCheck s' k n lba.toNat count (blocksFailure n pi lba.toNat b) = none → n.kind ≠ 3 →
        let wp := (readEntry s' zone).1.wp
        let placed := ((List.range b.length).zip b).map fun e => rebase n (lba.toNat + wp + e.1) e.2
        exec (.zoneAppend slot nsid lba nlb fua data md pi) s =
          .next (writeZone s' k x n .append zone wp (lba.toNat + wp) fua pi placed))) ∧
    (nsid.toNat ≠ 0xFFFFFFFF → n.conflict (hostOf s k) true = false →
      exec (.nvmFlush slot nsid) s = .next (endCmd s k .success))

/-- Zone management (R275, R289, R344, R346, R347, R350, R374, R380): Open, Close, Finish, Reset and Offline act on
the zone named, or with Select All on every zone whose state accepts the action; Set Zone Descriptor Extension ends
Invalid Field in Command; Zone Management Receive answers the zones its option names from the one that the LBA lies
in. -/
def Obligations.ZoneCommands : Prop :=
  ∀ (s : State) (slot : Fin 4096) (nsid : BitVec 32) (lba : BitVec 64) (all : Bool) (x : Nat),
    let k := slot.val
    let s' := s.reply 0 []
    (∀ zs t, TakesZones s k nsid.toNat lba.toNat all (fun st => 1 ≤ st && st ≤ 4) x zs →
      openZones x zs s = .ok t → exec (.zoneOpen slot nsid lba all) s = .next (endCmd t k .success)) ∧
    (∀ zs, TakesZones s k nsid.toNat lba.toNat all
        (fun st => st = zsImplicit || st = zsExplicit || st = zsClosed) x zs →
      exec (.zoneClose slot nsid lba all) s = .next (endCmd (zs.foldl (fun s z =>
        if (readEntry s z).1.state = zsClosed then s else enterZoneState s x z zsClosed) s) k .success)) ∧
    (∀ zs, TakesZones s k nsid.toNat lba.toNat all
        (fun st => (1 ≤ st && st ≤ 4) || st = zsFull) x zs →
      let t := zs.foldl (fun s z => if (readEntry s z).1.state = zsFull then s else enterZoneState s x z zsFull)
        (cancelProv s fun l => zs.contains l.zone)
      let t := enterOrder (startSlot t k) { slot := k, op := .finish zs, nsx := x, zone := zs.headD (2 ^ 19), first := 0
                                            count := 0, lba := lba.toNat }
      exec (.zoneFinish slot nsid lba all) s = .next (schSettle t (zs ++ t.nvme.cmds.map (·.zone)).eraseDups)) ∧
    (∀ zs bands, TakesZones s k nsid.toNat lba.toNat all
        (fun st => (1 ≤ st && st ≤ 4) || st = zsFull) x zs →
      let t := enterOrder (cancelProv s fun l => zs.contains l.zone)
        { slot := k, op := .reset zs bands, nsx := x, zone := zs.headD (2 ^ 19), first := 0, count := 0, lba := lba.toNat }
      exec (.zoneReset slot nsid lba all bands) s =
        .next (schSettle t (zs ++ t.nvme.cmds.map (·.zone)).eraseDups)) ∧
    (∀ zs, TakesZones s k nsid.toNat lba.toNat all (fun st => st = zsReadOnly) x zs →
      exec (.zoneOffline slot nsid lba all) s = .next (endCmd (zs.foldl (fun s z =>
        enterZoneState (discardZone s z) x z zsOffline) s) k .success)) ∧
    (∀ zs, TakesZones s k nsid.toNat lba.toNat false (fun _ => true) x zs →
      exec (.zoneSetDescExt slot nsid lba) s = .next (endCmd s k .invalidField)) ∧
    ∀ (n : Ns) (option : BitVec 8) (short : Bool) (entries : Nat) (want : Option Nat),
      TakesIo s k nsid.toNat x n → n.kind ≠ 3 → n.conflict (hostOf s k) false = false →
      lba.toNat < n.zones.length * zoneSize n.kind → reportState option.toNat = .ok want →
      let size := zoneSize n.kind
      let zs := (((List.range n.zones.length).zip n.zones).drop (lba.toNat / size)).filter fun e =>
        want.all fun st => (readEntry s' e.2).1.state = st
      let shown := zs.take entries
      let t := countMoved s' (portOf s (s.slot k).ctrl) true (64 + 64 * shown.length)
      exec (.zoneReport slot nsid lba false option short entries) s = .next (endCmd { t with answer := { t.answer with
        data := (if short then shown.length else zs.length) :: shown.flatMap fun e =>
          [(readEntry t e.2).1.state, zoneCapacity n.kind, e.1 * size, e.1 * size + (readEntry t e.2).1.wp] } } k .success)

/-- Reservations (R351). Register adds, removes or replaces the host's key; Report answers the generation, the type
and the registrants; Acquire takes a free reservation, or preempts; Release ends it, or clears it with every
registration. -/
def Obligations.ReservationCommands : Prop :=
  ∀ (s : State) (slot : Fin 4096) (nsid : BitVec 32) (iekey : Bool) (x : Nat) (n : Ns),
    let k := slot.val
    let host := hostOf s k
    let key := (n.registrants.find? fun r => r.1 = host).map (·.2)
    let done (t : State) : State := endCmd (resCount t x) k .success
    TakesIo s k nsid.toNat x n →
    (∀ (cptpl : BitVec 2) (old new : BitVec 64),
      let persisted (t : State) : State := done (setPersist t x cptpl.toNat)
      (key = none → exec (.reservationRegister slot nsid 0 iekey cptpl old new) s =
        .next (persisted (s.modNs x fun n => { n with
          registrants := n.registrants.filter (fun r => r.1 ≠ host) ++ [(host, new.toNat)] }))) ∧
      (key = some new.toNat → exec (.reservationRegister slot nsid 0 iekey cptpl old new) s = .next (persisted s)) ∧
      (∀ v, key = some v → iekey = true ∨ v = old.toNat →
        exec (.reservationRegister slot nsid 1 iekey cptpl old new) s =
          .next (persisted (unregister s x fun r => r.1 = host))) ∧
      (iekey = true ∨ key = some old.toNat →
        exec (.reservationRegister slot nsid 2 iekey cptpl old new) s =
          .next (persisted (s.modNs x fun n => { n with
            registrants := if n.registered host then n.registrants.map fun r => if r.1 = host then (host, new.toNat) else r
              else n.registrants ++ [(host, new.toNat)] })))) ∧
    exec (.reservationReport slot nsid) s = .next (endCmd ({ s with answer := { (s.reply 0 []).answer with
      data := [n.resGen, (n.reservation.map (·.1)).getD 0, n.registrants.length, if n.persist then 1 else 0] ++
        n.registrants.flatMap fun r => [if n.holds r.1 then 1 else 0, r.1, r.2] } }) k .success) ∧
    (∀ (action : BitVec 3) (rtype : BitVec 8) (mine other : BitVec 64),
      n.registrants.contains (host, mine.toNat) = true → 1 ≤ rtype.toNat → rtype.toNat ≤ 6 →
      let abort := action.toNat = 2
      let named (r : Nat × Nat) : Bool := decide (r.2 = other.toNat)
      (n.reservation = none → exec (.reservationAcquire slot nsid 0 false rtype mine other) s =
        .next (endCmd (s.modNs x fun n => { n with reservation := some (rtype.toNat, host) }) k .success)) ∧
      (action = 1 ∨ action = 2 →
        (n.reservation = none → n.registrants.any named = true →
          exec (.reservationAcquire slot nsid action false rtype mine other) s =
            .next (done (preempt s x host abort named))) ∧
        (∀ u h, n.reservation = some (u, h) → u = 5 ∨ u = 6 → other.toNat = 0 →
          exec (.reservationAcquire slot nsid action false rtype mine other) s =
            .next (done (preemptTake s x host rtype.toNat abort fun _ => true))) ∧
        (∀ u h, n.reservation = some (u, h) → u ≠ 5 → u ≠ 6 →
          (n.registrants.find? fun r => r.1 = h).map (·.2) = some other.toNat →
          exec (.reservationAcquire slot nsid action false rtype mine other) s =
            .next (done (preemptTake s x host rtype.toNat abort named))))) ∧
    ∀ (rtype : BitVec 8) (mine : BitVec 64), n.registrants.contains (host, mine.toNat) = true →
      (exec (.reservationRelease slot nsid 1 false rtype mine) s = .next (done (notifyHosts
        (s.modNs x fun n => { n with reservation := none, registrants := [] }) x 3
        ((n.registrants.map (·.1)).filter fun h => h ≠ host)))) ∧
      (n.reservation = none → exec (.reservationRelease slot nsid 0 false rtype mine) s =
        .next (endCmd s k .success)) ∧
      ∀ h, n.reservation = some (rtype.toNat, h) → n.holds host = true →
        exec (.reservationRelease slot nsid 0 false rtype mine) s =
          .next (endCmd (releaseReservation s x host) k .success)

/-- The scheduler (R30, R253, R364, R365, R368, R376). A tag completion record of the same epoch is acted on by its
status, one of an earlier epoch is dropped and counted; an operation past its age limit is chosen first; writes that
wait are admitted. -/
def Obligations.SchedulerCommands : Prop :=
  ∀ s : State,
    let t := if s.sch.combined.isEmpty then s else combinedResults s
    let all (s : State) : List Nat := s.nvme.cmds.map (·.zone)
    (∀ r, t.tagRecs.find? (fun r => !dieTraining t (r.lane / 4 + 1) && flitTurn t (r.lane / 4) true .reply) = some r →
      let u : State := { t with tagRecs := t.tagRecs.erase r }
      (r.epoch ≠ (t.dom (lanePage r.lane).domain).epoch → exec .tagCompletionReceive s =
        .next (raise (u.bump BRZ.LINK_ERR.STALE_CNT 1 0 (r.lane / 4)) ⟨.brz, 0⟩ 3 7)) ∧
      (r.epoch = (t.dom (lanePage r.lane).domain).epoch →
        (postedOp u r.lane r.tag = none → exec .tagCompletionReceive s = .next (lqRelease r.lane r.tag u)) ∧
        ∀ o, postedOp u r.lane r.tag = some o →
          let v := opReturned (u.schMap fun x => { x with posted := sset none x.posted (32 * r.lane + r.tag) none }) r o
          let v := if o.step = 7 && r.kept then v else lqRelease r.lane r.tag v
          exec .tagCompletionReceive s = .next (schSettle v (o.zone :: all v).eraseDups))) ∧
    (t.tagRecs = [] → exec .tagCompletionReceive s = .next (schSettle t (all t ++ cachedZones t).eraseDups)) ∧
    (∀ age o, s.sch.plan.find? (fun o => o.age = age && !o.aged) = some o →
      let u := s.schMap fun x => { x with plan := x.plan.map fun y => if y = o then { y with aged := true } else y }
      exec (.operationAged age) s = .next (fillLanes (raise (u.bump SCH.PLAN_CNT.AGED) schPage 7 7))) ∧
    exec .writeAdmitResume s = .next (fillLanes (admitWaiting s))

/-- Power-loss writing (R378, R381, R382, R385, R388, R485). Once the lanes are quiet PL seals its lines in charge
order; each actuator's refuge write ends; at the floor notice each actuator has written what it names; the index is
programmed into a blank block and PL ends; a test starts it from an idle scheduler. -/
def Obligations.PowerLossCommands : Prop :=
  ∀ (s : State) (act : Fin 4) (written bad : List Nat) (bads : List (List Nat)) (ms : BitVec 16) (q : Req) (w : BitVec 32),
    (plState s = 1 → s.tagRecs = [] → (∀ n < 8, ∀ t < 32, (s.tag n t).open' = false ∧ (s.tag n t).st ≠ .fetching) →
      let t := setPlState (s.plMap fun p => { p with sealed := plSealed s }) 2
      let goes (a : Nat) : Bool := !(plLines t a).isEmpty && !(plTargets t a).isEmpty && canSeek t a
      let u := ((List.range 4).filter goes).foldl refugeSeek t
      exec .plSeal s = .next (plSettle (((List.range 4).filter fun a => !goes a).foldl (fun s a => plWrote s a 0 []) u))) ∧
    (plState s = 2 ∨ plState s = 3 → plLines s act.val ≠ [] →
      (s.sch.pl.seeking.contains act.val = false → exec (.plRefugeWriteDone act bad) s =
        .next (plSettle (plWrote s act.val (plLines s act.val).length bad))) ∧
      (s.sch.pl.seeking.contains act.val = true → canSeek s act.val = false →
        exec (.plRefugeWriteDone act bad) s = .next (plSettle (plWrote s act.val 0 [])))) ∧
    (s.spn.floorNotice = true → 1 ≤ plState s → plState s ≤ 3 →
      let t := setPlState (s.spnMap fun x => { x with floorNotice := false }) 7
      exec (.plFloorStop written bads) s = .next (plSettle (((List.range 4).filter fun a => !(plLines t a).isEmpty).foldl
        (fun s a => plWrote s a (if s.sch.pl.seeking.contains a then 0 else written.getD a 0) (bads.getD a [])) t))) ∧
    (s.sch.pl.index ≠ [] →
      (domainLive s nvsPage.domain = true → dieUp s 4 = true → dieTraining s 4 = false → indexServed s = true →
        (∀ b, indexBlock s = some b →
          exec (.refugeIndexProgram ms) s = .next (indexEnd (plEnd (programIndex s b) ms.toNat))) ∧
        (indexBlock s = none → exec (.refugeIndexProgram ms) s = .next (indexEnd (plEnd s ms.toNat)))) ∧
      (dieTraining s 4 = false → dieUp s 4 = false ∨ domainLive s nvsPage.domain = false →
        exec (.refugeIndexProgram ms) s = .next (plEnd s ms.toNat))) ∧
    (Admits s q schPage 0x080 → SCH.PL_CTL.TEST.of w = 1 → keeper q = true →
      let t := plainWrite (s.reply 0 []) q schPage 0x080 w
      plState t = 0 → working t schPage = true → exec (.plTestStart q w) s = .next (plStart t true))

/-- The spindle's start (R60, R227, R403, R404, R406-R412, R414, R415, R422, R577, R612). START detects the rotor; a
detection starts, catches or waits for a reverse rotor to brake; crossings and empty windows move the start and the
loop on; catch and retry; a start attempt that ends without lock fails, three fail the start; the target speed is
reached and the spindle coasts to a stop; STOP spins it down. -/
def Obligations.SpindleCommands : Prop :=
  ∀ (s : State) (q : Req) (w : BitVec 32) (rpm : BitVec 32) (backward : Bool),
    let n := rpm.toNat
    (Admits s q spnPage 0x040 →
      let t := (plainWrite (s.reply 0 []) q spnPage 0x040 w).put SPN.SPN_CTL.SPEED (s.get SPN.SPN_CTL.SPEED)
      let t := speedWrite t (SPN.SPN_CTL.SPEED.of w)
      let start := SPN.SPN_CTL.START.of w
      let stop := SPN.SPN_CTL.STOP.of w
      (start = 0 → stop = 0 → exec (.speedChangeRequest q w) s = .next t) ∧
      (start ≠ 0 → stop = 0 → spn t = spStopped → t.spn.reverse = false → running t spnPage = true → pfailed t = false →
        exec (.spinStart q w) s = .next (beginStart t)) ∧
      (start = 0 → stop ≠ 0 → spn t ≠ spFault → spn t ≠ spStopped → spn t ≠ spSpindown →
        exec (.spinStop q w) s = .next (spinDown t))) ∧
    (spnLive s = true →
      (spn s = spDetect →
        (n ≤ rpm16 60 →
          let t := s.spnMap fun x => { x with rest := true, reverse := false, fore := 0, back := 0, good := 0, empty := 0 }
          (s.spn.rest = false → exec (.detectComplete backward rpm) s = .next (setSpn (t.bump SPN.SPN_CNT.STARTS) spStart)) ∧
          (s.spn.rest = true → exec (.detectComplete backward rpm) s = .next (setSpn t spStart))) ∧
        (rpm16 60 < n →
          exec (.detectComplete true rpm) s =
            .next (raise (setSpn (s.spnMap fun x => { x with reverse := true }) spWaitRev) spnPage 9 7) ∧
          exec (.detectComplete false rpm) s = .next (setSpn ((s.put SPN.SPN_SPEED.RPM n).spnMap fun x =>
            { x with reverse := false, fromDetect := true }) spCatch))) ∧
      (spn s = spWaitRev → exec .reverseBrakeDone s =
        .next (setSpn (s.spnMap fun x => { x with reverse := false, fore := 0, back := 0 }) spDetect)) ∧
      (∀ (phase : Int) (interval : BitVec 48) (mean peak : BitVec 16),
        let close := decide (phase.natAbs * 16 < 65536)
        let t := (s.put SPN.SPN_ISENSE.MEAN mean.toNat).put SPN.SPN_ISENSE.PEAK peak.toNat
        let t := followCrossing t interval.toNat
        (phase.natAbs * 100 ≤ windowPercent s * 65536 →
          (spn s = spStart →
            exec (.zeroCrossing backward phase interval mean peak) s = .next (startCrossing t backward close)) ∧
          (spn s ≠ spStart → observes s = true →
            exec (.zeroCrossing backward phase interval mean peak) s = .next (loopCrossing t close))) ∧
        (windowPercent s * 65536 < phase.natAbs * 100 →
          exec (.zeroCrossing backward phase interval mean peak) s = .next s)) ∧
      (spn s = spStart → exec .windowEmpty s = .next (s.spnMap fun x => { x with fore := 0, back := 0, good := 0 })) ∧
      (spn s ≠ spStart → observes s = true →
        let t := raise (winhSet (s.bump SPN.OBS_CNT.EMPTY) .emptyWindow) spnPage 1 7
        let t := t.spnMap fun x => { x with empty := x.empty + 1, good := 0 }
        (t.spn.empty < 3 → exec .windowEmpty s = .next t) ∧ (3 ≤ t.spn.empty → exec .windowEmpty s = .next (rotorLost t))) ∧
      (∀ e : Int, spn s = spCatch → rpm16 60 ≤ n →
        let t : State := { s.put SPN.SPN_SPEED.RPM n with gen := { s.gen with phaseErr := e } }
        let t := t.spnMap fun x => { x with good := 0, empty := 0 }
        let target := rpm16 (targetRpm t)
        (s.spn.fromDetect = true → exec (.catchMeasureComplete rpm e) s = .next (setSpn (attemptMade t)
          (if n < target then spAccel else if target * 10002 < n * 10000 then spSpeed else spRun))) ∧
        (s.spn.fromDetect = false → exec (.catchMeasureComplete rpm e) s = .next (setSpn t (backTo t)))) ∧
      (locked s = false → s.spn.fromDetect = true → spn s ≠ spCatch → s.get SPN.SPN_STAT.LOCK = 0 →
        exec .recatchTimeout s = .next (startCatchFails (s.spnMap fun x => { x with starting := true }))) ∧
      (locked s = false → s.spn.fromDetect = false → s.spn.lost = true →
        exec .recatchTimeout s = .next (recatchFails s)) ∧
      (s.spn.starting = true →
        let t := raise (s.spnMap fun x => { x with
          fails := x.fails + 1, starting := false, rebrake := false, fromDetect := false }) spnPage 5 7
        (t.spn.fails < 3 →
          exec .startAttemptTimeout s = .next (setSpn (t.spnMap fun x => { x with retry := true }) spCoast)) ∧
        (3 ≤ t.spn.fails → exec .startAttemptTimeout s =
          .next (raise (setPageState (setSpn (t.put SPN.SPN_FAULT.START_FAIL 1) spFault) spnPage stFault) spnPage 6 3))) ∧
      (s.spn.retry = true → exec .startRetry s = .next (beginDetect s)) ∧
      (spn s = spSpindown → s.spn.rebrake = true → exec .spindownComplete s = .next (beginDetect s)) ∧
      (spn s = spSpindown → s.spn.rebrake = false →
        let t := endTimedOut (setSpn (enterUnlocked s) spStopped)
        (t.spn.restart = false → exec .spindownComplete s = .next t) ∧
        (t.spn.restart = true → pfailed t = false →
          exec .spindownComplete s = .next (beginStart (t.bump SPN.SPN_CNT.RESTARTS)))) ∧
      (∀ ms : BitVec 16, spn s = spAccel ∨ spn s = spSpeed → atTarget s n = true →
        let t := s.put SPN.SPN_SPEED.RPM n
        let t := if s.spn.rest then (t.put SPN.SPIN_TIME.MS ms.toNat).spnMap fun x => { x with rest := false } else t
        exec (.speedTargetReached rpm ms) s = .next (setSpn t spRun))) ∧
    (let t := endTimedOut s;
      spnLive t = true → spn t = spCoast → t.spn.retry = false →
        exec .spindleStopped s = .next (setSpn (t.spnMap fun x => { x with ov := false }) spStopped))

/-- Faults of the coils and the supply (R59, R226, R227, R229, R232, R238, R416-R420, R423, R427, R428, R612).
Terminal faults and an overheated bridge stop the spindle; a retract ends or times out; a coil fault takes its driver
away; the chopper's gate is watched; overvoltage brakes, coasts and recovers; IN5 and IN12 go and return; at the floor
every head retracts; PFAIL ends; HV_OK is lost; the supply current clamps and releases the coils. -/
def Obligations.SupplyCommands : Prop :=
  ∀ (s : State) (vcm : Fin 4) (ma hup in12 : BitVec 16) (rpm : BitVec 32),
    let a := vcm.val
    let v := s.vcm a
    (spnLive s = true →
      exec (.spnTerminalFault .shortGround) s = .next (spnFaults (s.put SPN.SPN_FAULT.SHORT_GND 1)) ∧
      exec (.spnTerminalFault .shortSupply) s = .next (spnFaults (s.put SPN.SPN_FAULT.SHORT_SUP 1)) ∧
      exec (.spnTerminalFault .shortPhase) s = .next (spnFaults (s.put SPN.SPN_FAULT.SHORT_PH 1)) ∧
      exec (.spnTerminalFault .overCurrent) s = .next (spnFaults (s.put SPN.SPN_FAULT.OVERCURRENT 1)) ∧
      (∀ n : Fin 3, exec (.spnTerminalFault (.openPhase n)) s =
        .next (spnFaults (s.put SPN.SPN_FAULT.OPEN (setBit (s.get SPN.SPN_FAULT.OPEN) n.val true)))) ∧
      exec .spnBridgeOvertemp s = .next (spnFaults (s.put SPN.SPN_FAULT.OVERTEMP 1))) ∧
    (v.stranded = false → vcmState s a = 2 ∨ (s.srv a).unloading = true ∨ (vcmState s a = 4 ∧ v.loaded = true) →
      exec (.retractParked vcm) s = .next (retractEnded (parked s a))) ∧
    (vcmState s a = 2 ∨ (vcmState s a = 4 ∧ v.loaded = true ∧ v.stranded = false) → v.timedOut = false →
      exec (.retractTimeout vcm) s = .next (retractEnded
        (raise ((s.setVcm a { v with timedOut := true }).put VCM.VCM_FAULT.RET_TIMEOUT 1 a) (vcmPage a) 3 7))) ∧
    (∀ kind, domainLive s (vcmPage a).domain = true →
      let rail := kind = .shortGnd ∨ kind = .shortSup
      let coil := kind = .openCoil ∨ kind = .shortCoil
      let faulted (b : Bool) : State :=
        let t := s.setVcm a { v with next := none, nextMact := [], stranded := b }
        pageFault (setVcmState (t.put (coilFaultField kind) 1 a) a 4) (vcmPage a) 0 3
      (coil → v.loaded = true → exec (.vcmFaultDetect vcm kind) s = .next (retractEnded (faulted true))) ∧
      (rail → v.loaded = true → exec (.vcmFaultDetect vcm kind) s = .next (retractEnded (raise
        ((faulted v.stranded).bump VCM.VCM_CNT.RETRACT_CNT 1 a) (vcmPage a) 1 7))) ∧
      (v.loaded = false ∨ kind = .overTemp →
        exec (.vcmFaultDetect vcm kind) s = .next (retractEnded (faulted v.stranded)))) ∧
    (let u := s.put PWR.VOLT.HUP hup.toNat;
      (s.get PWR.PWR_CTL.CHOP_EN = 1 → s.get PWR.CHOP_STAT.CODE = 0 →
        100 * min 136 (s.get PWR.CHOP_CFG.CHOP_ON) < hup.toNat →
        exec (.chopperGate hup) s = .next (u.spnMap fun x => { x with gated := true })) ∧
      (hup.toNat ≤ 100 * min 136 (s.get PWR.CHOP_CFG.CHOP_ON) → exec (.chopperGate hup) s = .next u) ∧
      (hup.toNat < 100 * s.get PWR.CHOP_CFG.CHOP_OFF →
        exec (.chopperRelease hup) s = .next (u.spnMap fun x => { x with gated := false })) ∧
      (100 * s.get PWR.CHOP_CFG.CHOP_OFF ≤ hup.toNat → exec (.chopperRelease hup) s = .next u) ∧
      (s.spn.gated = true →
        let t := s.put PWR.CHOP_STAT.I_LAST ma.toNat
        let low := 100 * t.get PWR.CHOP_CFG.CHOP_MIN
        (ma.toNat < low → exec (.chopperCurrentCheck ma) s = .next (chopFault t 1)) ∧
        (low ≤ ma.toNat → 6000 < ma.toNat →
          exec (.chopperCurrentCheck ma) s = .next (chopFault (t.spnMap fun x => { x with gated := false }) 2)) ∧
        (low ≤ ma.toNat → ma.toNat ≤ 6000 → exec (.chopperCurrentCheck ma) s = .next t) ∧
        exec .chopperTimeout s = .next (chopFault (s.spnMap fun x => { x with gated := false }) 4)) ∧
      (s.spn.gated = false → exec .chopperStuckOn s = .next (chopFault s 3))) ∧
    exec .hupOv1 s = .next (ovBrake (raise (winhSet ((s.put PWR.PWR_STAT.OV1 1).bump PWR.PWR_CNT.OV1_CNT) .overvoltage)
      pwrPage 3 7)) ∧
    (let t := raise ((s.put PWR.PWR_STAT.OV2 1).bump PWR.PWR_CNT.OV2_CNT) pwrPage 4 7;
      (spnLive t = true → spn t ≠ spStopped → spn t ≠ spCoast → spn t ≠ spFault →
        let left := if spn t = spBrake then t.spn.left else spn t
        exec .hupOv2 s =
          .next (raise (setSpn (t.spnMap fun x => { x with left := left, ov := true }) spCoast) spnPage 8 7)) ∧
      (spnLive t = false ∨ spn t = spStopped ∨ spn t = spCoast ∨ spn t = spFault → exec .hupOv2 s = .next t)) ∧
    (let t := winhClear ((s.put PWR.PWR_STAT.OV1 0).put PWR.PWR_STAT.OV2 0) .overvoltage;
      (spnLive t = true → t.spn.ov = true → spn t = spBrake ∨ spn t = spCoast →
        exec .ovRecover s = .next (settleStop (setSpn (t.spnMap fun x => { x with ov := false }) (backTo t)))) ∧
      (t.spn.ov = false → exec .ovRecover s = .next t)) ∧
    (s.get PWR.PWR_STAT.OV1 = 1 → exec .ovRetractTimeout s = .next (retractAll s)) ∧
    exec .in5Loss s = .next (raiseIf (s.get PWR.PWR_STAT.IN5_OK = 1) (s.put PWR.PWR_STAT.IN5_OK 0) pwrPage 8 7) ∧
    exec .in5Return s = .next (s.put PWR.PWR_STAT.IN5_OK 1) ∧
    (s.get PWR.PWR_STAT.HOLDUP = 1 → s.get PWR.PWR_STAT.FLOOR = 0 →
      let low := rpm.toNat < rpm16 (max 3000 (s.get PWR.HUP_CFG.FLOOR_RPM)) ∨
        hup.toNat < 100 * s.get PWR.HUP_CFG.FLOOR_V
      (low → exec (.holdupFloor rpm hup) s = .next (retractAll
        ((raise ((s.put PWR.VOLT.HUP hup.toNat).put PWR.PWR_STAT.FLOOR 1) pwrPage 1 7).spnMap fun x =>
          { x with floorNotice := dieUp s 3 }))) ∧
      (¬low → exec (.holdupFloor rpm hup) s = .next s)) ∧
    (s.get PWR.PWR_STAT.IN12_OK = 0 →
      exec .in12Return s = .next (raiseIf (pfailed s) (s.put PWR.PWR_STAT.IN12_OK 1) pwrPage 2 7)) ∧
    (pfailed s = true → s.get PWR.PWR_STAT.IN12_OK = 1 → s.get PWR.PWR_STAT.RAIL_PG ≠ 0 →
      (∀ a < 4, (s.vcm a).loaded = false) →
      let t : State := { s with wires := { s.wires with pfail := false } }
      let t := (t.put PWR.PWR_STAT.PFAIL 0).put PWR.PWR_STAT.HOLDUP 0
      let t := (t.put PWR.HUP_STAT.LAST_MS ma.toNat).put PWR.HUP_STAT.END_RPM (t.get SPN.SPN_SPEED.RPM / 65536)
      (spn t = spHoldup → exec (.pfailDeassert ma) s = .next (nvNext (setSpn t spSpeed))) ∧
      (spn t ≠ spHoldup → exec (.pfailDeassert ma) s = .next (nvNext t))) ∧
    (s.get MAC.MAC_CTL.HV_EN = 1 → s.get MAC.MAC_STAT.HV_OK = 1 → exec .hvOkLoss s =
      .next (raise { s.put MAC.MAC_STAT.HV_OK 0 with mac := { s.mac with cmd := [] } } macPage 1 7)) ∧
    let t := ((s.put PWR.I12.MEAN ma.toNat).put PWR.VOLT.HUP hup.toNat).put PWR.VOLT.IN12 in12.toNat
    let t := t.spnMap fun x => { x with overCount := if 2600 < ma.toNat then min 8 (x.overCount + 1) else 0
                                        under := if ma.toNat < 2400 then min 4 (x.under + 1) else 0 }
    (t.get PWR.I12.CLAMP = 0 →
      (t.spn.overCount = 8 → exec (.supplyCurrentMeasure ma hup in12) s = .next (raise (clampCoils t 1) pwrPage 7 7)) ∧
      (t.spn.overCount ≠ 8 → exec (.supplyCurrentMeasure ma hup in12) s = .next t)) ∧
    (t.get PWR.I12.CLAMP ≠ 0 →
      (t.spn.under = 4 → exec (.supplyCurrentMeasure ma hup in12) s = .next (clampCoils t 0)) ∧
      (t.spn.under ≠ 4 → exec (.supplyCurrentMeasure ma hup in12) s = .next t))

/-- Descriptor rings (R282, R453-R457, R459). The producer's doorbell moves the doorbell index; an entry is fetched
into the ring's queue; RING_CFG enables an off ring and drains an enabled one; a drained ring is off; RESUME restarts
a halted ring; the copy engine serves copy, fill and CRC entries; a completion is written back in its ring. -/
def Obligations.RingCommands : Prop :=
  ∀ (s : State) (q : Req) (ring : Fin 256) (w : BitVec 32),
    let r := ring.val
    let x := s.ring r
    let d := w.toNat % 65536
    let sel := s.get WRK.RING_WIN.RING
    let y := s.ring sel
    (Admits s q wrkPage (0x400 + 4 * r) → (x.dir = true ∨ (ahead d (pubOf s r) ≤ x.size ∧ x.fetched.length ≤ ahead d (pubOf s r))) →
      exec (.ringDoorbell q ring w) s = .next ((s.reply 0 []).put WRK.DOORBELL.INDEX d 0 r)) ∧
    (x.dir = false → x.state = rgRun → running s wrkPage = true → engineDown s x.engine = false →
      engineEasing s x.engine = false → x.fetched.length < 4 →
      ahead x.fetch (pubOf s r) < ahead (doorbellOf s r) (pubOf s r) →
      let e := spaceRead s x.loc .other (x.addr x.fetch) x.bytes
      e.1.poison = false → exec (.ringEntryFetch ring) s = .next (e.2.setRing r
        { x with fetched := x.fetched ++ [(x.fetch, e.1.bytes)], fetch := (x.fetch + 1) % 65536 })) ∧
    (Admits s q wrkPage 0x048 →
      (WRK.RING_CFG.EN.of w = 1 → y.en = false → y.state = rgOff →
        exec (.ringEnable q w) s = .next ((s.reply 0 []).setRing sel
          { y with consumer := WRK.RING_CFG.CONSUMER.of w, rst := WRK.RING_CFG.RST_BYTE.of w,
                   dir := WRK.RING_CFG.DIR.of w = 1, loc := WRK.RING_CFG.LOC.of w = 1, esize := WRK.RING_CFG.ESIZE.of w,
                   log2 := WRK.RING_CFG.LOG2.of w, en := true, state := rgRun, err := 0, fetch := pubOf s sel })) ∧
      (WRK.RING_CFG.EN.of w = 0 → y.en = true → y.state ≠ rgOff →
        let t := (s.reply 0 []).bump WRK.DISCARD_CNT.COUNT y.fetched.length
        exec (.ringDisable q w) s = .next (t.setRing sel
          { y with en := false, state := rgDraining, fetched := [], fetch := pubOf t sel }))) ∧
    (x.state = rgDraining → x.started = [] →
      exec (.ringDrainComplete ring) s =
        .next (raise (s.setRing r { x with state := rgOff, fetch := pubOf s r }) wrkPage 2 7)) ∧
    (Admits s q wrkPage 0x050 → WRK.RING_CMD.RESUME.of w = 1 → y.state = rgHalted →
      exec (.ringResume q w) s =
        .next (ringFetch ((s.reply 0 []).setRing sel { y with state := rgRun, err := 0 }) sel)) ∧
    (∀ x t, s.wrk.copy = none → working s wrkPage = true → ringStart s r 6 = some (x, t) →
      let op := x.2.headD 0 % 8
      let o := copyRun t x.2
      let u := ringDone { o.2.2 with wrk := { o.2.2.wrk with copy := some r } } r (copyDone x.1 x.2 o.1 o.2.1)
      (op ≠ 2 → op ≠ 3 → exec (.copyCopy ring) s = .next u) ∧ (op = 2 → exec (.copyFill ring) s = .next u) ∧
        (op = 3 → exec (.copyCrc ring) s = .next u)) ∧
    (∀ d l, x.done = d :: l → domainLive s wrkPage.domain = true →
      exec (.ringCompletion ring) s = .next (engineCompleted (ringWriteBack s r d) x.engine d))

/-- The mailbox (R463-R465, R467-R469). Words go into the sender's outgoing queue, a finished message is delivered
when its destination runs and has room and no lower sender's message can go there, words leave the incoming queue in
order; a message that waits warns once; a withdrawal empties the outgoing queue. Only the owner of an endpoint moves
its words. -/
def Obligations.MailboxCommands : Prop :=
  ∀ (s : State) (e : Fin 18) (q : Req) (w : BitVec 32),
    let n := e.val
    let x := s.endpoint n
    (∀ m ms, x.out = m :: ms → outranked s n m.dest = true → exec (.mbxDeliver e) s = .next s) ∧
    (∀ m ms, x.out = m :: ms → deliverable s n = true → outranked s n m.dest = false →
      let t := (s.setEndpoint n { x with out := ms }).bump MBX.Q_CNT.SENT 1 0 n
      let y := t.endpoint m.dest
      let u := t.setEndpoint m.dest { y with inq := y.inq ++ m.words }
      (m.dest < 6 → y.inq = [] → exec (.mbxDeliver e) s = .next (outEmptied (raise
        { u with mbx := { u.mbx with inCores := owners u 0 u.mbx.inCores m.dest } } mbxPage 0 7) n)) ∧
      (6 ≤ m.dest ∨ y.inq ≠ [] → exec (.mbxDeliver e) s = .next (outEmptied u n))) ∧
    (Admits s q mbxPage (0x100 + 0x20 * n) →
      (ownEndpoint q n = true → exec (.mbxOutWrite q e w) s = .next (outPush (s.reply 0 []) n w.toNat)) ∧
      (ownEndpoint q n = false → exec (.mbxOutWrite q e w) s = .next (s.reply 0 []))) ∧
    (Serves s q mbxPage (0x104 + 0x20 * n) →
      (∀ v vs, ownEndpoint q n = true → x.inq = v :: vs →
        exec (.mbxInRead q e) s = .next ((s.setEndpoint n { x with inq := vs }).reply 0 [v])) ∧
      (ownEndpoint q n = false ∨ x.inq = [] → exec (.mbxInRead q e) s = .next (s.reply 0 [0]))) ∧
    (Admits s q mbxPage (0x10C + 0x20 * n) → ownEndpoint q n = true → MBX.OUT_CTL.WITHDRAW.of w ≠ 0 → x.out ≠ [] →
      exec (.mbxWithdraw q e w) s = .next (outEmptied (raise (((s.reply 0 []).setEndpoint n { x with
        out := [], part := [] }).bump MBX.Q_CNT.WITHDRAWN x.out.length 0 n) mbxPage 3 7) n)) ∧
    ∀ m ms, x.out = m :: ms → m.warned = false → deliverable s n = false →
      exec (.mbxWaitWarn e) s =
        .next (raise (s.setEndpoint n { x with out := { m with warned := true } :: ms }) mbxPage 2 7)

/-- Nonvolatile storage (R9, R475-R483, R487, R493, R544, R552). The unlock sequence goes on register by register,
another requester's write is refused; a word read and a transfer; the ends of a program, of an erase and of the lock
changes; a scan starts and ends; SLOT1_CLOSE. -/
def Obligations.NvsCommands : Prop :=
  ∀ (s : State) (q : Req) (w : BitVec 32),
    let t := s.reply 0 []
    let here (off : Nat) : Prop := Admits s q nvsPage off
    (here 0x048 → s.nv.seq = none → w.toNat = 0x6B1D →
      exec (.nvsKeyWrite q w) s = .next (seqGoes t { req := q, step := 1 })) ∧
    (∀ x, s.nv.seq = some x →
      (x.req ≠ q → (here 0x048 → exec (.nvsKeyWrite q w) s = .next (t.bump NVS.REFUSE_CNT.OTHER)) ∧
        (here 0x04C → exec (.nvsCmdWrite q w) s = .next (t.bump NVS.REFUSE_CNT.OTHER))) ∧
      (x.req = q →
        (here 0x048 → x.step = 1 → w.toNat = 0x94E2 →
          exec (.nvsKeyWrite q w) s = .next (seqGoes t { x with step := 2 })) ∧
        (here 0x04C → x.step = 2 → 1 ≤ NVS.NVS_CMD.OP.of w → NVS.NVS_CMD.OP.of w ≤ 4 →
          exec (.nvsCmdWrite q w) s = .next (seqGoes t { x with step := 3, op := NVS.NVS_CMD.OP.of w })) ∧
        (here 0x050 → x.step = 3 → exec (.nvsAddrWrite q w) s =
          .next (seqGoes (t.put NVS.NVS_ADDR.WORD (NVS.NVS_ADDR.WORD.of w)) { x with step := 4, word := w.toNat })) ∧
        (∀ n : Fin 8, here (0x054 + 4 * n.val) → x.op = 1 → x.step = 4 + n.val → exec (.nvsDataWrite q n w) s =
          .next (seqGoes t { x with step := 5 + n.val, data := x.data ++ [w.toNat] })))) ∧
    (s.nv.seq.isSome = true → exec .nvsSeqTimeout s = .next (seqError s)) ∧
    (∀ e : BitVec 272, arrayOpen s q = true → arrayBusy s = false → Serves s q nvsPage 0x078 →
      let a := s.get NVS.RD_ADDR.WORD
      let r := nvReadWord (quarterUp s a) a e.toNat
      let u := (r.2.put NVS.RD_STAT.ECC r.1.2.1).put NVS.RD_STAT.BLANK (if r.1.2.2 then 1 else 0)
      let u := (List.range 8).foldl (fun s k => s.put NVS.RD_DATA.DATA (bits r.1.1 (32 * k) 32) 0 k) u
      let ws := (List.range 8).map fun k => bits r.1.1 (32 * k) 32
      exec (.nvsWordRead q e) s =
        .next ((latchWords u q (nvsPage.base + 0x07C) (ws.drop 1)).reply 0 [bits r.1.1 0 32])) ∧
    (∀ e : BitVec 272, arrayOpen s q = true → arrayBusy s = true → reach s q nvsPage = .reached →
      exec (.nvsWordRead q e) s = .next (t.wait ⟨.keel, q, nvsPage.base + 0x078, none⟩)) ∧
    (here 0x0A4 → NVS.XFER_CTL.GO.of w = 1 → s.get NVS.XFER_CTL.BUSY ≠ 1 →
      let u := plainWrite t q nvsPage 0x0A4 w
      let src := u.get NVS.XFER_SRC.WORD
      let n := if u.get NVS.XFER_CTL.WORDS = 0 then 65536 else u.get NVS.XFER_CTL.WORDS
      let dst := u.get NVS.XFER_DST.ADDR * 32
      let tcm : Bool := decide (u.get NVS.XFER_CTL.DST_TCM = 1)
      src + n ≤ nvWords → dst + 32 * n ≤ (if tcm then 4194304 else usableBytes u) → arrayOpen u q = true →
      exec (.nvsTransferStart q w) s =
        .next ((u.put NVS.XFER_CTL.BUSY 1).nvMap fun x => { x with xfer := some (src, n, dst, tcm) })) ∧
    (∀ errors src n dst tcm, s.nv.xfer = some (src, n, dst, tcm) → arrayBusy s = false →
      domainLive s nvsPage.domain = true →
      let r := xferCopy errors tcm s ((List.range n).map (· + src)) dst false
      exec (.nvsTransferComplete errors) s = .next (((r.2.put NVS.XFER_CTL.BUSY 0).put NVS.XFER_CTL.RESULT
        (if r.1 then 1 else 0)).nvMap fun x => { x with xfer := none })) ∧
    (∀ o, s.nv.op = some o →
      (o.owner = 0 → o.kind = 1 →
        exec (.nvsProgramComplete true) s = .next (fwEnd (nvProgram s o.word o.data) 0) ∧
        exec (.nvsProgramComplete false) s =
          .next (fwEnd ((nvBreak s o.word).bump NVS.REFUSE_CNT.VERIFY_FAIL) 2)) ∧
      (o.owner ≠ 1 → o.kind = 2 → exec (.nvsEraseComplete true) s = .next (fwEnd (eraseDone s o) 0) ∧
        exec (.nvsEraseComplete false) s = .next (fwEnd (eraseFails s o) 2)) ∧
      (∀ ok, o.owner = 1 → o.kind = 2 →
        (dieTraining s 4 = true → exec (.nvsEraseComplete ok) s = .next s) ∧
        (dieTraining s 4 = false → exec (.nvsEraseComplete ok) s = .next (evrEraseDone s o ok))) ∧
      (o.kind = 3 → exec .lockRaiseComplete s =
        .next (fwEnd (raise (lockSync (s.nvMap fun x => { x with level := o.word % 4 })) nvsPage 6 7) 0)) ∧
      (o.kind = 4 → exec .lockLowerComplete s = .next (fwEnd (lowered s (o.word % 4)) 0))) ∧
    (s.nv.due = true → s.nv.op = none → s.get NVS.NVS_STAT.SCANNING = 0 → domainLive s nvsPage.domain = true →
      exec (.nvsScanStart none) s =
        .next (nvsSync (((quartersUp s).put NVS.NVS_STAT.SCANNING 1).nvMap fun x => { x with due := false }))) ∧
    (here 0x040 → NVS.NVS_CTL.SCAN.of w = 1 → NVS.NVS_CTL.SLOT1_CLOSE.of w ≠ 1 → s.get NVS.NVS_STAT.SCANNING ≠ 1 →
      exec (.nvsScanStart (some (q, w))) s = .next (scanStart (scanDue t))) ∧
    (here 0x040 → NVS.NVS_CTL.SCAN.of w ≠ 1 → NVS.NVS_CTL.SLOT1_CLOSE.of w = 1 → keeper q = true →
      exec (.slot1Close q w) s = .next (lockSync (t.nvMap fun x => { x with closedWord := true }))) ∧
    ∀ rough : List (Fin 1024), s.get NVS.NVS_STAT.SCANNING ≠ 0 → s.nv.lowering = none →
      let u := journalScan s
      let named := ((nvIntents u 0 ++ nvIntents u 1).map (·.1)).eraseDups
      let half := named.filter fun x => scanHalf u x || rough.any fun r => r.val = x
      let u := u.nvMap fun x => { x with half := half }
      let u := half.foldl (fun s _ => raise s nvsPage 2 0) (u.put NVS.HALF_CNT.UNITS half.length)
      exec (.nvsScanComplete rough) s = .next (nvNext (serveStalled (nvsSync (u.put NVS.NVS_STAT.SCANNING 0))))

/-- The event recorder (R490-R493, R495, R615). A commit of what is due starts; RECLAIM and COMMIT_EN; firmware
reports an event; the operating time counts a second, and its counters are loaded once, high part first, with the
cycle count. -/
def Obligations.RecorderCommands : Prop :=
  ∀ (s : State) (q : Req) (w : BitVec 32),
    let t := s.reply 0 []
    let p := evrPage
    (∀ elapsed : Bool,
      let n := s.evr.stage.length + (if s.get EVR.EVR_CTL.STAGE_EN = 0 then s.evr.queue.length else 0) +
        (if s.evr.cur.isSome && !((s.evr.cur.map fun c => c.2.2).getD true) then 1 else 0)
      max 1 (s.get EVR.STAGE_CFG.COMMIT_CNT) ≤ n ∨ ((elapsed = true ∨ s.wires.pfail = true) ∧ 0 < n) →
      evrCommits s = true → s.get EVR.EVR_STAT.COMMITTING ≠ 1 → s.evr.erasing = none →
      exec (.evrCommitStart elapsed) s =
        .next (commitStep ((s.put EVR.EVR_STAT.COMMITTING 1).evrMap fun x => { x with left := n }))) ∧
    (Admits s q p 0x040 →
      let u := plainWrite t q p 0x040 w
      (EVR.EVR_CTL.RECLAIM.of w = 1 → s.get EVR.EVR_CTL.COMMIT_EN = 1 → u.get EVR.EVR_CTL.AUTO_RECLAIM ≠ 1 →
        exec (.evrReclaim q w) s = .next (evrPass (evrReclaim u))) ∧
      (EVR.EVR_CTL.RECLAIM.of w ≠ 1 → s.get EVR.EVR_CTL.COMMIT_EN = 0 → u.get EVR.EVR_CTL.COMMIT_EN = 1 →
        u.get EVR.EVR_CTL.AUTO_RECLAIM ≠ 1 →
        exec (.commitEnable q w) s = .next (evrPass (u.evrMap fun x => { x with reading := true })))) ∧
    (Admits s q p 0x07C → EVR.LOG_CMD.GO.of w ≠ 0 → ∀ n, logSource q = some n →
      let u := plainWrite t q p 0x07C w
      let d (k : Nat) : Nat := u.get EVR.LOG_DATA.DATA 0 k
      exec (.firmwareLog q w) s = .next (report u ⟨n, u.get EVR.LOG_CMD.LEVEL, 0x1FF, u.get EVR.LOG_CMD.CODE,
        leBytes 4 (d 0) ++ leBytes 4 (d 1) ++ leBytes 2 (d 2)⟩)) ∧
    (s.evr.loDone = true → domainLive s 2 = true →
      let n := (s.get EVR.SECONDS_LO.SECONDS + 2 ^ 32 * s.get EVR.SECONDS_HI.SECONDS + 1) % 2 ^ 40
      exec .secondsTick s = .next ((s.put EVR.SECONDS_LO.SECONDS n).put EVR.SECONDS_HI.SECONDS (n / 2 ^ 32))) ∧
    (keeper q = true →
      (Admits s q p 0x04C → s.evr.loDone = false → s.evr.hiHeld = none →
        exec (.secondsHiWrite q w) s = .next (t.evrMap fun x => { x with hiHeld := some (w.toNat % 256) })) ∧
      (Admits s q p 0x048 → s.evr.loDone = false →
        exec (.secondsLoWrite q w) s = .next (loadedSync (((t.put EVR.SECONDS_LO.SECONDS w.toNat).put
          EVR.SECONDS_HI.SECONDS (s.evr.hiHeld.getD 0)).evrMap fun x => { x with loDone := true }))) ∧
      (Admits s q p 0x050 → s.evr.cyclesDone = false →
        exec (.cyclesWrite q w) s =
          .next (loadedSync ((t.put EVR.CYCLES.COUNT w.toNat).evrMap fun x => { x with cyclesDone := true }))))

/-- The recorder's own work (R490-R493, R615). The oldest arriving record joins the queue, or is dropped where the
queue is full or the recorder takes none; a committed word moves on the head and the newest sequence number, a word
that fails is passed over; the region is read at a start. Each then serves the writes that waited for room. -/
def Obligations.RecorderServiceCommands : Prop :=
  ∀ s : State,
    (∀ r l, s.evr.arriving = r :: l →
      let t := s.evrMap fun x => { x with arriving := l }
      (domainLive t 2 = false → exec .evrRecordAccept s = .next (serveRecorder t)) ∧
      (domainLive t 2 = true → recorderOpen t = false →
        exec .evrRecordAccept s = .next (serveRecorder (evrDrop t))) ∧
      (recorderOpen t = true →
        (t.evr.queue.length < 64 → exec .evrRecordAccept s =
          .next (serveRecorder (evrPass (t.evrMap fun x => { x with queue := x.queue ++ [r] })))) ∧
        (64 ≤ t.evr.queue.length → exec .evrRecordAccept s = .next (serveRecorder (evrDrop t))))) ∧
    (dieTraining s 4 = true → ∀ ok, exec (.evrCommitWordDone ok) s = .next s) ∧
    (∀ o, s.nv.op = some o → o.owner = 1 → o.kind = 1 → dieTraining s 4 = false →
      (nvsRefuses s o = none →
        let t := (nvProgram s o.word o.data).evrMap fun x => { x with
          stage := x.stage.filter (· ≠ bits o.data 72 32), cur := none, left := x.left - 1 }
        exec (.evrCommitWordDone true) s = .next (serveRecorder (evrNvEnd (evrPass (headAdvance
          (setOldest (t.put EVR.NEWEST.SEQ (bits o.data 72 32))))) commitStep)) ∧
        exec (.evrCommitWordDone false) s = .next (serveRecorder (evrNvEnd (headAdvance
          (raise ((nvBreak s o.word).bump NVS.REFUSE_CNT.VERIFY_FAIL) evrPage 3 0)) commitStep))) ∧
      (∀ ok r, nvsRefuses s o = some r →
        (r = 6 → exec (.evrCommitWordDone ok) s =
          .next (serveRecorder (evrNvEnd ((raise s evrPage 3 0).put EVR.HEAD.WORD 1) regionFull))) ∧
        (r ≠ 6 → exec (.evrCommitWordDone ok) s =
          .next (serveRecorder (evrNvEnd (headAdvance (raise s evrPage 3 0)) commitStep))))) ∧
    (s.evr.reading = true → s.nv.due = false → s.get NVS.NVS_STAT.SCANNING ≠ 1 → domainLive s 2 = true →
      dieUp s 4 = true → dieTraining s 4 = false → domainLive s nvsPage.domain = true →
      let ends (t : State) : State := serveRecorder (evrPass (checkAhead
        ((t.put EVR.EVR_STAT.READY 1).evrMap fun x => { x with reading := false, blocked := false })))
      (evrRecords s = [] →
        let t := (((s.put EVR.OLDEST.SEQ 0).put EVR.NEWEST.SEQ 0).put EVR.HEAD.WORD 1)
        exec .evrRegionRead s = .next (ends (t.put EVR.HEAD.UNIT (evrRegion t).1))) ∧
      (∀ e l, evrRecords s = e :: l →
        let seqs := l.map (·.1)
        let new := seqs.foldl max e.1
        let at_ := (((e :: l).find? fun (x : Nat × Nat) => x.1 = new).map fun (x : Nat × Nat) => x.2).getD 0
        let t := s.put EVR.NEWEST.SEQ new
        let t := t.put EVR.SEQ_NEXT.SEQ (max (s.get EVR.SEQ_NEXT.SEQ) ((new + 1) % 2 ^ 32))
        let t := (t.put EVR.OLDEST.SEQ (seqs.foldl min e.1)).put EVR.HEAD.UNIT (at_ / unitWords)
        exec .evrRegionRead s = .next (ends (headAdvance (t.put EVR.HEAD.WORD (at_ % unitWords))))))

/-- Measurement and calibration (R507, R511, R520, R523-R526, R529). AVS compares the least margin with its floor,
below which it raises every domain at once, and with its target, a step up or down. A thermal sample updates its
readings and the calibration; a pass commits a corrected set for its heads; a trial report trains or monitors;
DELTA_CLR clears the corrections of its heads. -/
def Obligations.CalibrationCommands : Prop :=
  ∀ (s : State) (oar : Fin 2) (q : Req) (w : BitVec 32),
    (∀ margins : Vector (BitVec 8) 16, s.get CLK.CLK_CTL.AVS_EN = 1 →
      let m := leastMargin margins
      let t := s.put CLK.AVS_STAT.MARGIN m
      let target := t.get CLK.AVS_CFG.TARGET
      let hyst := t.get CLK.AVS_CFG.HYST
      (m < t.get CLK.AVS_CFG.FLOOR → exec (.avsEvaluate margins) s = .next (avsEmergency t)) ∧
      (t.get CLK.AVS_CFG.FLOOR ≤ m → (avsRelease t m).wires.pfail = false → dieUp (avsRelease t m) 3 = true →
        (m + hyst < target → exec (.avsEvaluate margins) s = .next (avsUp (avsRelease t m))) ∧
        (target + hyst < m → exec (.avsEvaluate margins) s = .next (avsDown (avsRelease t m))) ∧
        (target ≤ m + hyst → m ≤ target + hyst → exec (.avsEvaluate margins) s = .next (avsRelease t m)))) ∧
    (∀ (readings : Vector (BitVec 16) 40) (a b : BitVec 12), working s tmpPage = true →
      exec (.tmpSample readings a b) s = .next (thermalWarning (calSample (sampleAll readings a.toNat b.toNat s)))) ∧
    (∀ k, calCommit s oar.val = some k → k ≤ strokeAt s (oar.val + 1) →
      let t := calSettle ((oarHeads oar.val).foldl headCatch (setCalCommit s oar.val none))
      (running t calPage = true → exec (.recalPassCatch oar) s = .next (commitOar t oar.val)) ∧
      (running t calPage = false → exec (.recalPassCatch oar) s = .next t)) ∧
    (∀ r l, (s.ldp oar.val).reports = r :: l → dieUp s (oar.val + 1) = true → dieTraining s (oar.val + 1) = false →
      flitTurn s oar.val true .reply = true →
      let t := s.setLdp oar.val { s.ldp oar.val with reports := l }
      let h := psaHead r.psa
      (r.epoch ≠ ldpEpoch t oar.val → exec (.trialReport oar) s =
        .next (raise (t.bump BRZ.LINK_ERR.STALE_CNT 1 0 oar.val) ⟨.brz, 0⟩ 3 7)) ∧
      (r.epoch = ldpEpoch t oar.val → running t calPage = true →
        (r.failed = true ∨ r.suspect = true → exec (.trialReport oar) s =
          .next (freezeCheck (t.bump CAL.TRIAL_CNT.REJECTED) h r.failed)) ∧
        (r.failed = false → r.suspect = false →
          let u := freezeCheck (t.bump CAL.TRIAL_CNT.ACCEPTED) h false
          let u := if r.verify then u else trainReport u h r.grads
          exec (.trialReport oar) s = .next (monitorReport u h r.psa r.eHi r.eLo r.gainA r.gainB r.verify)))) ∧
    (Admits s q calPage 0x074 → exec (.deltaClear q w) s = .next ((bitList 32 w.toNat).foldl
      (fun s h => s.mapHead h fun x => { x with delta := [] }) (s.reply 0 [])))

/-- Measurement, identity and the fuses (R532, R536-R538, R540, R544, R547, R549, R616). MEAS_DATA and EXTEND, the
alias certificate, a health failure of the entropy source, MIN_SVN, key commands, the unlock token and the grants. The
crypto engine (R541, R542). A ring's encrypt, decrypt or retweak entry is served while the engine is free, and its
result is written to the ring. -/
def Obligations.TrustAndCryptoCommands : Prop :=
  (∀ (s : State) (q : Req) (w : BitVec 32), keeper q = true →
    let t := s.reply 0 []
    let p := secPage
    (Admits s q p 0x084 → exec (.measDataAccess q (some w)) s = .next (measStep
      (t.secMap fun x => { x with input := sset 0 x.input (s.get SEC.MEAS_WIN.WORD) w.toNat }))) ∧
    (Serves s q p 0x084 → exec (.measDataAccess q none) s = .next ((measStep s).reply 0
      [bits (sget 0 s.sec.banks (s.get SEC.MEAS_WIN.BANK)) (32 * s.get SEC.MEAS_WIN.WORD) 32])) ∧
    (Admits s q p 0x088 → SEC.MEAS_CMD.EXTEND.of w = 1 →
      exec (.measExtend q w) s = .next (extendBank t (t.get SEC.MEAS_WIN.BANK) (extendInput t))) ∧
    (s.get SEC.SEC_STAT.ALIAS_READY ≠ 1 → s.sec.measured = true → s.get EVR.EVR_STAT.LOADED ≠ 0 →
      domainLive s 1 = true →
      (entropyOk s = false → exec .aliasCertIssue s = .next (raise s p 2 7)) ∧
      (entropyOk s = true → exec .aliasCertIssue s = .next (((s.secMap fun x => { x with
        alias_ := some (s.free, s.get EVR.CYCLES.COUNT, sget 0 s.sec.banks 0) }).put SEC.SEC_STAT.ALIAS_READY 1).drawn))) ∧
    (domainLive s 32 = true → exec .entropyHealthFail s =
      .next (raise ((s.bump SEC.ENT_STAT.HEALTH_CNT).put SEC.ENT_STAT.FAIL 1) p 2 1)) ∧
    (Admits s q p 0x07C → SEC.SVN_RAISE.GO.of w = 1 →
      let u := plainWrite t q p 0x07C w
      let k := SEC.SVN_RAISE.KIND.of w
      let v := SEC.SVN_RAISE.SVN.of w
      let old := minSvn u k
      (k ≤ 6 → old < v → exec (.svnRaise q w) s = .next (raise (report
        (({ u with fuses := { u.fuses with minSvn := sset 0 u.fuses.minSvn k v } } : State).put SEC.SVN_RAISE.RESULT 0)
        (secRecord 0x0404 k v old 0 (originByte q))) p 3 7)) ∧
      (6 < k ∨ v ≤ old → exec (.svnRaise q w) s = .next (u.put SEC.SVN_RAISE.RESULT 1))) ∧
    (Admits s q p 0x090 → SEC.KEY_CMD.GO.of w = 1 → SEC.KEY_CMD.OP.of w ≠ 0 →
      let u := plainWrite t q p 0x090 w
      u.sec.op = none →
      let x := (u.secMap fun x => { x with op := some ⟨SEC.KEY_CMD.OP.of w, SEC.KEY_CMD.SLOT.of w, q.cls.val,
        u.get SEC.KEY_ADDR.ADDR * 32⟩ }).put SEC.KEY_CMD.BUSY 1
      exec (.keyGenerate q w) s = .next x ∧ exec (.keyDestroy q w) s = .next x ∧ exec (.keyLoad q w) s = .next x) ∧
    (∀ o, s.sec.op = some o →
      let u := s.secMap fun x => { x with op := none }
      (o.op = 1 → exec .keyCmdComplete s = .next (keyGenerate u o.slot o.addr)) ∧
      (o.op = 2 → exec .keyCmdComplete s = .next (keyDestroy u o.slot o.cls)) ∧
      (o.op = 3 → exec .keyCmdComplete s = .next (keyLoad u o.slot o.addr))) ∧
    (Admits s q p 0x0C4 → exec (.unlockDataWrite q w) s = .next ((t.secMap fun x => { x with
      token := sset 0 x.token (s.get SEC.UNLOCK_WIN.BYTE) w.toNat }).put SEC.UNLOCK_WIN.BYTE
        (s.get SEC.UNLOCK_WIN.BYTE + 1))) ∧
    (Admits s q p 0x0C8 →
      let u := plainWrite t q p 0x0C8 w
      (SEC.UNLOCK_CMD.CHECK.of w ≠ 1 → SEC.UNLOCK_CMD.NEW.of w = 1 →
        exec (.unlockNewNonce q w) s = .next (newNonce u)) ∧
      (SEC.UNLOCK_CMD.CHECK.of w = 1 → SEC.UNLOCK_CMD.NEW.of w ≠ 1 →
        exec (.unlockCheck q w) s = .next (unlockCheck q u))) ∧
    exec .unlockExpire s = .next (s.put SEC.SEC_STAT.UNLOCK_OK 0) ∧
    (Admits s q p 0x050 →
      (recorderRoom t = true → exec (.grantChange q w) s = .next (grantApply q w t)) ∧
      (recorderRoom t = false → exec (.grantChange q w) s = .next (t.wait ⟨.recorder, q, p.base + 0x050, some w⟩)))) ∧
  (∀ (s : State) (ring : Fin 256) e x t, ringPeek s ring.val = some e → s.wrk.crypto = none → domainLive s 31 = true →
    ringStart s ring.val 7 = some (x, t) →
    let o := cryptEntry t x.2
    let r := ringDone { o.2 with wrk := { o.2.wrk with crypto := some ring.val } } ring.val
      { n := x.1, bytes := [(0, [o.1])], status := o.1, entry := x.2 }
    (e.headD 0 ≠ 2 → e.headD 0 ≠ 3 → exec (.cryptoEncrypt ring) s = .next r) ∧
    (e.headD 0 = 2 → exec (.cryptoDecrypt ring) s = .next r) ∧
    (e.headD 0 = 3 → exec (.cryptoRetweak ring) s = .next r))

/-- Domains (R532, R553-R558, R561, R562, R613). Each operation of DOM_CMD answers its verdict, and acts when it is
OK; a reset completes once the domain's flits are gone; a domain that does not ease in time is held; an image loads
and its digest is compared. -/
def Obligations.DomainCommands : Prop :=
  ∀ (s : State) (q : Req) (w : BitVec 32), keeper q = true →
    let t := s.reply 0 []
    (Admits s q domPage 0x050 → DOM.DOM_CMD.GO.of w = 1 → s.get DOM.DOM_CMD.BUSY ≠ 1 →
      let u := plainWrite t q domPage 0x050 w
      let op := DOM.DOM_CMD.OP.of w
      let d := domWin u
      dieTraining u (domainDie d) = false → domVerdict u q op d = drOk →
      let ends (x : State) : State := domResult drOk x
      (op = 1 → domainState u d ≠ stEasing → domainState u d ≠ stHold →
        exec (.domEasy q w) s = .next (ends (easeDomain u d))) ∧
      (op = 2 → exec (.domRelease q w) s = .next (ends (serveTunnel (releaseDomain u d)))) ∧
      (op = 3 → exec (.domReset q w) s = .next (ends (domBeginReset u 3 d))) ∧
      (op = 4 → exec (.domPowerOff q w) s = .next (ends (powerDown u d))) ∧
      (op = 5 → exec (.domPowerOn q w) s = .next (ends (serveTunnel (powerUp u d)))) ∧
      (op = 6 → exec (.domForceReset q w) s = .next (ends (domBeginReset u 6 d)))) ∧
    (∀ pass : Bool, s.domOp.op ≠ 0 → flitsLeft s s.domOp.dom = false →
      let u := leaveReset ({ s with domOp := {} } : State) s.domOp.dom
      (s.domOp.dom = 32 → pass = true →
        exec (.domResetComplete pass) s = .next ((u.put SEC.ENT_STAT.FAIL 0).put DOM.DOM_CMD.BUSY 0)) ∧
      (s.domOp.dom ≠ 32 → exec (.domResetComplete pass) s = .next (u.put DOM.DOM_CMD.BUSY 0))) ∧
    (∀ dom : Fin 96,
      let d := dom.val
      (s.dom d).easing = true → domainLive s d = true → domainState s d = stEasing →
      let u := raise (s.bump DOM.DOM_CNT.EASY_TO) domPage 1 4
      let u := u.setDom d { u.dom d with easing := false }
      ((domainSeq d).isSome = true ∨ (24 ≤ d ∧ d ≤ 28) → exec (.easyTimeout dom) s = .next u) ∧
      (domainSeq d = none → d < 24 ∨ 28 < d → exec (.easyTimeout dom) s = .next (holdDomain (yieldUnit u d) d))) ∧
    (Admits s q domPage 0x07C → DOM.IMG_CTL.GO.of w ≠ 0 → s.get DOM.IMG_CTL.BUSY ≠ 1 →
      let u := plainWrite t q domPage 0x07C w
      let d := domWin u
      let kib := max 1 (DOM.IMG_CTL.KIB.of w)
      isImageDomain d = true → domainState u d = stHold →
      dieUp u (domainDie d) = true ∨ dieTraining u (domainDie d) = true → kib ≤ imageLimit d →
      exec (.imageLoad q w) s = .next ((u.setDom d { u.dom d with
        imgKib := kib, imgAddr := u.get DOM.IMG_ADDR.ADDR * 4096 }).put DOM.IMG_CTL.BUSY 1)) ∧
    (∀ d, imageDomain s = some d → dieTraining s (domainDie d) = false →
      let r := memRead s .other (s.dom d).imgAddr ((s.dom d).imgKib * 1024)
      let h := leNat (shake256 r.1.bytes)
      let want := leNat ((List.range 8).flatMap fun k => leBytes 4 (r.2.get DOM.IMG_EXPECT.EXPECT 0 k))
      let res := if domainState r.2 d ≠ stHold || !dieUp r.2 (domainDie d) then 1
        else if r.1.poison then 2 else if h = want then 0 else 3
      let x := { r.2.dom d with
        imgKib := 0, imgResult := some res, image := if res = 0 then some h else (r.2.dom d).image }
      exec .imageLoadComplete s = .next (((r.2.setDom d x).put DOM.IMG_CTL.RESULT res).put DOM.IMG_CTL.BUSY 0))

/-- Starts, rails and supplies (R24, R419, R421, R425, R426, R563-R567, R589, R614). Cox restarts warm over a running
spindle, else cold; DOM_CTL names a good start, clears its count and restarts; PFAIL and DRST; the rails go and come,
each with what it takes with it. -/
def Obligations.StartCommands : Prop :=
  ∀ (s : State) (q : Req) (w : BitVec 32) (ms : BitVec 16) (rail : Fin 10),
    let r := rail.val
    let t := s.reply 0 []
    (s.start.coxReset = false →
      (spn s = spRun → exec .coxReset s = .next (warmStart s)) ∧
      (spn s ≠ spRun → exec .coxReset s = .next (coxCold s)) ∧
      (s.start.watchdog = true → exec .startWatchdogExpire s = .next (coxRestart (startFails s))) ∧
      ∀ die : Fin 4, exec (.drstAssert die) s = .next (dieReset s (die.val + 1))) ∧
    (Admits s q domPage 0x040 → keeper q = true →
      let ok := DOM.DOM_CTL.START_OK.of w
      let clr := DOM.DOM_CTL.FAIL_CLR.of w
      let warm := DOM.DOM_CTL.WARM.of w
      (ok = 1 → clr ≠ 1 → warm ≠ 1 → exec (.startOk q w) s = .next (startOk t)) ∧
      (ok ≠ 1 → clr = 1 → warm ≠ 1 → exec (.failClr q w) s = .next (t.put DOM.DOM_STAT.FAIL_CNT 0)) ∧
      (ok ≠ 1 → clr ≠ 1 → warm = 1 → exec (.warmStart q w) s = .next (coxRestart t))) ∧
    (pfailed s = false → exec .pfailAssert s = .next (pfailAssert s)) ∧
    (∀ low : Bool, pfailed s = true → low = true ∨ ((∀ a < 4, vcmState s a = 3) ∧ (plState s = 6 ∨ plState s = 7)) →
      let u := (s.put PWR.HUP_STAT.LAST_MS ms.toNat).put PWR.HUP_STAT.END_RPM (s.get SPN.SPN_SPEED.RPM / 65536)
      (spn u = spStopped ∨ spn u = spFault → exec (.railsRelease low ms) s = .next (railsOff u)) ∧
      (spn u ≠ spStopped → spn u ≠ spFault → exec (.railsRelease low ms) s = .next (railsOff (setSpn u spCoast)))) ∧
    (∀ port mgmt test (failed : BitVec 3), exec (.railsPowerUp port mgmt test failed) s = .next ((bitList 3 failed.toNat).foldl
      suspectSensor (coldStart s { port := port, mgmt := mgmt, test := test }))) ∧
    (∀ recent : Bool, bit (s.get PWR.PWR_STAT.RAIL_PG) r = true →
      let u := s.put PWR.PWR_STAT.RAIL_PG (setBit (s.get PWR.PWR_STAT.RAIL_PG) r false)
      let u := u.put PWR.RAIL_FAULT.FAULT (setBit (u.get PWR.RAIL_FAULT.FAULT) r true)
      let n := (if recent then sget 0 s.spn.railFails r else 0) + 1
      let u := u.spnMap fun x => { x with railFails := sset 0 x.railFails r n }
      exec (.railFault rail recent) s = .next (railOutcome (raise u pwrPage 6 (railLevel r)) r)) ∧
    (bit (s.get PWR.PWR_STAT.RAIL_PG) r = false → sget 0 s.spn.railFails r < 3 → s.start.coxReset = false →
      let u := s.put PWR.PWR_STAT.RAIL_PG (setBit (s.get PWR.PWR_STAT.RAIL_PG) r true)
      let good := bit (u.get PWR.PWR_STAT.RAIL_PG)
      (r = 5 ∨ r = 6 → good 5 = true → good 6 = true → exec (.railGood rail) s = .next (dieReset (dieReset u 1) 2)) ∧
      (r = 5 ∨ r = 6 → (good 5 && good 6) = false → exec (.railGood rail) s = .next u) ∧
      (r = 8 ∨ r = 9 → (good 8 && good 9) = false → exec (.railGood rail) s = .next u) ∧
      (r = 0 → exec (.railGood rail) s = .next (scanStart (scanDue u))) ∧
      (r = 8 ∨ r = 9 → good 8 = true → good 9 = true → exec (.railGood rail) s = .next ((List.range 4).foldl
        (fun s a => if s.get AST.PFLT_STAT.LINE a = 0 then startRelease s a .preampFault else s) u)) ∧
      (1 ≤ r → r ≤ 4 ∨ r = 7 → exec (.railGood rail) s = .next u)) ∧
    (s.spn.cycle = true → ∀ failed : BitVec 3, exec (.railCycle failed) s =
      .next ((bitList 3 failed.toNat).foldl suspectSensor (coldStart s s.straps)))

/-- The Regatta wire (R62, R572-R576, R578-R583). A starter's frame is accepted when its check is right, and ends the
receiver's own role unless it is its own; a starter claims, or is lost; an intent far enough queues; a slot carries
the oldest intent or drops a late one, and a collision ends transmitting; a received intent is routed; a stuck wire is
noted and recovers. -/
def Obligations.RegattaCommands : Prop :=
  ∀ s : State,
    (∀ (cells : BitVec 22) (phase : BitVec 12), working s rgtPage = true → domainLive s 83 = true →
      rgtRole s = 4 → bits cells.toNat 17 5 = s.get RGT.RGT_CTL.ADDR →
      let ok : Bool := decide (crc6 (cells.toNat / 64) 16 0 = cells.toNat % 64)
      let t : State := { s with rgt := { s.rgt with frameOk := ok } }
      exec (.regattaFrameReceive cells phase) s = .next (if ok then t else rgtCrcError t)) ∧
    (∀ (cells : BitVec 22) (phase : BitVec 12), working s rgtPage = true → domainLive s 83 = true →
      ¬(rgtRole s = 4 ∧ bits cells.toNat 17 5 = s.get RGT.RGT_CTL.ADDR) →
      let t := (starterStop s).put RGT.RGT_STAT.ROLE 3
      let t : State := { t with rgt := { t.rgt with frameOk := false } }
      (crc6 (cells.toNat / 64) 16 0 = cells.toNat % 64 → exec (.regattaFrameReceive cells phase) s = .next
        (frameAccepted t (bits cells.toNat 17 5) (bits cells.toNat 8 9) (bit cells.toNat 7) phase.toNat)) ∧
      (crc6 (cells.toNat / 64) 16 0 ≠ cells.toNat % 64 →
        exec (.regattaFrameReceive cells phase) s = .next (rgtCrcError t))) ∧
    (mayClaim s = true → rgtRole s = 1 →
      exec .starterClaim s = .next { s with rgt := { s.rgt with claimed := true } }) ∧
    (working s rgtPage = true → rgtRole s = 3 →
      let t : State := { s with rgt := { s.rgt with following := none, frameOk := false } }
      exec .starterLost s =
        .next (rgtSettle (raise ((t.put RGT.RGT_STAT.ROLE 1).bump RGT.LOSS_CNT.STARTER_LOSS) rgtPage 1 7))) ∧
    (∀ x r, s.rgt.out = x :: r → running s rgtPage = true → 1024 * s.get RGT.TX_CFG.TX_MIN ≤ x.dist.natAbs →
      exec .regattaIntentQueue s = .next { s with rgt := { s.rgt with out := r, queue := s.rgt.queue ++
        [⟨x.act, x.stroke, intentTemplate { s with rgt := { s.rgt with out := r } } x.dist.natAbs x.full,
          decide (0 < x.dist)⟩] } }) ∧
    (∀ (settled : Bool) (slotEnd : BitVec 14) x r, s.rgt.queue = x :: r →
      let t : State := { s.reply 0 [] with rgt := { s.rgt with won := false } }
      let d := intentDelay t x slotEnd.toNat
      (∀ outcome, d < 1 → exec (.regattaSlotContend settled slotEnd outcome) s = .next (raise
        (({ t with rgt := { t.rgt with queue := r } } : State).bump RGT.TX_CNT.TX_DROP) rgtPage 7 7)) ∧
      (1 ≤ d → d ≤ 31 → s.rgt.won = false → settled = true → s.rgt.frameOk = true → s.get RGT.RGT_CTL.TX_EN ≠ 0 →
        s.get RGT.RGT_STAT.STUCK ≠ 1 → working s rgtPage = true →
        exec (.regattaSlotContend settled slotEnd .lost) s = .next t ∧
        exec (.regattaSlotContend settled slotEnd .won) s = .next (({ t.reply 1 [slotCells t x d.toNat] with
          rgt := { t.rgt with queue := r, won := true } } : State).bump RGT.TX_CNT.SENT) ∧
        exec (.regattaSlotContend settled slotEnd .collision) s =
          .next (raise ((t.bump RGT.LOSS_CNT.COLLIDE).put RGT.RGT_CTL.TX_EN 0) rgtPage 6 7))) ∧
    (∀ (cells : BitVec 32) (slotEnd : BitVec 14),
      let c := cells.toNat
      working s rgtPage = true → s.rgt.frameOk = true → s.get RGT.RGT_STAT.STUCK ≠ 1 →
      s.get RGT.RGT_CTL.RX_EN ≠ 0 → bit c 31 = false → crc6 (bits c 15 16) 16 0 = bits c 9 6 →
      bits c 26 5 ≠ s.get RGT.RGT_CTL.ADDR →
      exec (.regattaSlotReceive cells slotEnd) s = .next (forwardIntent (s.bump RGT.RX_CNT.ACCEPTED)
        (sget 0 s.rgt.routes (4 * bits c 26 5 + bits c 24 2))
        ⟨bits c 24 2, s.gen.stroke + (slotEnd.toNat + bits c 15 5 * 512 + 4095) / 4096, bits c 21 3, bit c 20⟩)) ∧
    (∀ syn : Bool, working s rgtPage = true →
      let t := if syn then starterStop s else s
      exec (.regattaWireStuck syn) s =
        .next (raiseIf (t.get RGT.RGT_STAT.STUCK = 0) (t.put RGT.RGT_STAT.STUCK 1) rgtPage 9 7)) ∧
    (domainLive s 83 = true → exec .regattaWireRecover s = .next (s.put RGT.RGT_STAT.STUCK 0))

/-- A frame on the Regatta bus whose HCRC fails is not accepted (R572): it counts in RX_CNT.CRC_ERR, no slot that
follows changes anything, and it gives no phase sample: the drive follows whom it followed, and of the register fields
only the count, the role and the events may change. -/
def Obligations.BadFrameIsNotAccepted : Prop :=
  ∀ (s : State) (cells : BitVec 22) (phase : BitVec 12), working s rgtPage = true → domainLive s 83 = true →
    crc6 (cells.toNat / 64) 16 0 ≠ cells.toNat % 64 →
    Completes (.regattaFrameReceive cells phase) s fun t =>
      t.get RGT.RX_CNT.CRC_ERR = min (s.get RGT.RX_CNT.CRC_ERR + 1) 0xFFFF ∧
      t.rgt.following = s.rgt.following ∧ t.rgt.within = s.rgt.within ∧
      (∀ (G : Fld) (i k : Nat), G.key i k ≠ RGT.RX_CNT.CRC_ERR.key 0 0 → G.key i k ≠ RGT.RGT_STAT.ROLE.key 0 0 →
        G.key i k ≠ HDR.EV_RAW.RAW.key rgtPage.index 0 → t.get G i k = s.get G i k) ∧
      ∀ (slot : BitVec 32) (slotEnd : BitVec 14), exec (.regattaSlotReceive slot slotEnd) t = .next t
end

