-- ==== Sys2Proof/Laws/Sparse.lean ====
section
/-! SUPPORT. The sparse container: a read after a write, and the canonical form that every write keeps. -/

namespace Sys2Proof.Machine

open Sys2Proof

variable {α : Type} {d : α} {m : Sparse α}

theorem sget_sdel_same (k : Nat) : sget d (sdel m k) k = d := by
  induction m with
  | nil => rfl
  | cons e m ih =>
    obtain ⟨j, v⟩ := e
    by_cases h : j = k
    · simpa [sdel, h] using ih
    · simpa [sdel, h, sget] using ih

theorem sget_sdel_other {k j : Nat} (h : j ≠ k) : sget d (sdel m k) j = sget d m j := by
  induction m with
  | nil => rfl
  | cons e m ih =>
    obtain ⟨i, v⟩ := e
    by_cases hi : i = k
    · subst hi
      simpa [sdel, sget, Ne.symm h] using ih
    · have hs : sdel ((i, v) :: m) k = (i, v) :: sdel m k := by simp [sdel, hi]
      rw [hs]
      by_cases hj : i = j
      · simp [sget, hj]
      · simpa [sget, hj] using ih

theorem sget_sins_same (k : Nat) (v : α) (h : ∀ e ∈ m, e.1 ≠ k) : sget d (sins m k v) k = v := by
  induction m with
  | nil => simp [sins, sget]
  | cons e m ih =>
    obtain ⟨j, w⟩ := e
    by_cases hj : k < j
    · simp [sins, hj, sget]
    · have hne : j ≠ k := h (j, w) (by simp)
      simp [sins, hj, sget, hne, ih fun e he => h e (by simp [he])]

theorem sget_sins_other {k j : Nat} (v : α) (h : j ≠ k) : sget d (sins m k v) j = sget d m j := by
  induction m with
  | nil => simp [sins, sget, Ne.symm h]
  | cons e m ih =>
    obtain ⟨i, w⟩ := e
    by_cases hj : k < i
    · simp [sins, hj, sget, Ne.symm h]
    · simp [sins, hj, sget, ih]

theorem sdel_ne (k : Nat) : ∀ e ∈ sdel m k, e.1 ≠ k := by
  simp [sdel]

/-- A read after a write to the same key. -/
theorem sget_sset_same [DecidableEq α] (k : Nat) (v : α) : sget d (sset d m k v) k = v := by
  unfold sset
  split
  · next h => rw [sget_sdel_same, h]
  · exact sget_sins_same k v (sdel_ne k)

/-- A write leaves every other key alone. -/
theorem sget_sset_other [DecidableEq α] {k j : Nat} (v : α) (h : j ≠ k) : sget d (sset d m k v) j = sget d m j := by
  unfold sset
  split
  · exact sget_sdel_other h
  · rw [sget_sins_other v h, sget_sdel_other h]

theorem wf_iff [DecidableEq α] : Sparse.wf d m = true ↔ m.Pairwise (fun a b => a.1 < b.1) ∧ ∀ e ∈ m, e.2 ≠ d := by
  simp [Sparse.wf]

theorem wf_nil [DecidableEq α] : Sparse.wf d ([] : Sparse α) = true := rfl

theorem wf_sdel [DecidableEq α] (k : Nat) (h : Sparse.wf d m = true) : Sparse.wf d (sdel m k) = true := by
  rw [wf_iff] at h ⊢
  refine ⟨h.1.filter _, fun e he => h.2 e ?_⟩
  simp only [sdel, List.mem_filter] at he
  exact he.1

theorem mem_sins {k : Nat} {v : α} {e : Nat × α} (h : e ∈ sins m k v) : e = (k, v) ∨ e ∈ m := by
  induction m with
  | nil => simpa [sins] using h
  | cons x m ih =>
    obtain ⟨j, w⟩ := x
    by_cases hj : k < j
    · simpa [sins, hj] using h
    · simp only [sins, hj, if_false, List.mem_cons] at h
      rcases h with h | h
      · simp [h]
      · rcases ih h with h | h <;> simp [h]

theorem pairwise_sins {k : Nat} {v : α} (h : m.Pairwise fun a b => a.1 < b.1) (hk : ∀ e ∈ m, e.1 ≠ k) :
    (sins m k v).Pairwise fun a b => a.1 < b.1 := by
  induction m with
  | nil => simp [sins]
  | cons x m ih =>
    obtain ⟨j, w⟩ := x
    rw [List.pairwise_cons] at h
    by_cases hj : k < j
    · simp only [sins, hj, if_true, List.pairwise_cons, List.mem_cons]
      refine ⟨?_, h⟩
      rintro e (rfl | he)
      · exact hj
      · exact Nat.lt_trans hj (h.1 e he)
    · simp only [sins, hj, if_false, List.pairwise_cons]
      refine ⟨fun e he => ?_, ih h.2 fun e he => hk e (by simp [he])⟩
      rcases mem_sins he with rfl | he
      · have := hk (j, w) (by simp)
        simp only at this
        omega
      · exact h.1 e he

/-- A write keeps the canonical form. -/
theorem wf_sset [DecidableEq α] (k : Nat) (v : α) (h : Sparse.wf d m = true) : Sparse.wf d (sset d m k v) = true := by
  unfold sset
  split
  · exact wf_sdel k h
  · next hv =>
    have hd := wf_sdel k h
    rw [wf_iff] at hd ⊢
    refine ⟨pairwise_sins hd.1 (sdel_ne k), fun e he => ?_⟩
    rcases mem_sins he with rfl | he
    · exact hv
    · exact hd.2 e he

end Sys2Proof.Machine
end

