-- ==== Sys2Proof/Laws/State.lean ====
section
/-! SUPPORT. What each shared update leaves of each field of State, so that no proof unfolds a record update. -/

namespace Sys2Proof.Machine

open Sys2Proof

variable (s : State)

@[simp] theorem State.put_pending (F : Fld) (v i k : Nat) : (s.put F v i k).pending = s.pending := rfl
@[simp] theorem State.put_fresh (F : Fld) (v i k : Nat) : (s.put F v i k).fresh = s.fresh := rfl
@[simp] theorem State.put_answer (F : Fld) (v i k : Nat) : (s.put F v i k).answer = s.answer := rfl
@[simp] theorem State.put_shadow (F : Fld) (v i k : Nat) : (s.put F v i k).shadow = s.shadow := rfl
@[simp] theorem State.put_waiting (F : Fld) (v i k : Nat) : (s.put F v i k).waiting = s.waiting := rfl
@[simp] theorem State.put_notices (F : Fld) (v i k : Nat) : (s.put F v i k).notices = s.notices := rfl
@[simp] theorem State.put_asks (F : Fld) (v i k : Nat) : (s.put F v i k).asks = s.asks := rfl
@[simp] theorem State.put_wires (F : Fld) (v i k : Nat) : (s.put F v i k).wires = s.wires := rfl
@[simp] theorem State.put_links (F : Fld) (v i k : Nat) : (s.put F v i k).links = s.links := rfl
@[simp] theorem State.put_gen (F : Fld) (v i k : Nat) : (s.put F v i k).gen = s.gen := rfl
@[simp] theorem State.put_timers (F : Fld) (v i k : Nat) : (s.put F v i k).timers = s.timers := rfl
@[simp] theorem State.put_lanes (F : Fld) (v i k : Nat) : (s.put F v i k).lanes = s.lanes := rfl
@[simp] theorem State.put_ldps (F : Fld) (v i k : Nat) : (s.put F v i k).ldps = s.ldps := rfl
@[simp] theorem State.put_lqs (F : Fld) (v i k : Nat) : (s.put F v i k).lqs = s.lqs := rfl
@[simp] theorem State.put_sqrs (F : Fld) (v i k : Nat) : (s.put F v i k).sqrs = s.sqrs := rfl
@[simp] theorem State.put_seqs (F : Fld) (v i k : Nat) : (s.put F v i k).seqs = s.seqs := rfl
@[simp] theorem State.put_tagRecs (F : Fld) (v i k : Nat) : (s.put F v i k).tagRecs = s.tagRecs := rfl
@[simp] theorem State.put_asts (F : Fld) (v i k : Nat) : (s.put F v i k).asts = s.asts := rfl
@[simp] theorem State.put_srvs (F : Fld) (v i k : Nat) : (s.put F v i k).srvs = s.srvs := rfl
@[simp] theorem State.put_vcms (F : Fld) (v i k : Nat) : (s.put F v i k).vcms = s.vcms := rfl
@[simp] theorem State.put_mac (F : Fld) (v i k : Nat) : (s.put F v i k).mac = s.mac := rfl
@[simp] theorem State.put_media (F : Fld) (v i k : Nat) : (s.put F v i k).media = s.media := rfl
@[simp] theorem State.put_mbx (F : Fld) (v i k : Nat) : (s.put F v i k).mbx = s.mbx := rfl
@[simp] theorem State.put_rgt (F : Fld) (v i k : Nat) : (s.put F v i k).rgt = s.rgt := rfl
@[simp] theorem State.put_sch (F : Fld) (v i k : Nat) : (s.put F v i k).sch = s.sch := rfl
@[simp] theorem State.put_tcm (F : Fld) (v i k : Nat) : (s.put F v i k).tcm = s.tcm := rfl
@[simp] theorem State.put_l2 (F : Fld) (v i k : Nat) : (s.put F v i k).l2 = s.l2 := rfl
@[simp] theorem State.put_wrk (F : Fld) (v i k : Nat) : (s.put F v i k).wrk = s.wrk := rfl
@[simp] theorem State.put_wev (F : Fld) (v i k : Nat) : (s.put F v i k).wev = s.wev := rfl
@[simp] theorem State.put_buf (F : Fld) (v i k : Nat) : (s.put F v i k).buf = s.buf := rfl
@[simp] theorem State.put_nvme (F : Fld) (v i k : Nat) : (s.put F v i k).nvme = s.nvme := rfl
@[simp] theorem State.put_spn (F : Fld) (v i k : Nat) : (s.put F v i k).spn = s.spn := rfl
@[simp] theorem State.put_nv (F : Fld) (v i k : Nat) : (s.put F v i k).nv = s.nv := rfl
@[simp] theorem State.put_tmp (F : Fld) (v i k : Nat) : (s.put F v i k).tmp = s.tmp := rfl
@[simp] theorem State.put_cal (F : Fld) (v i k : Nat) : (s.put F v i k).cal = s.cal := rfl
@[simp] theorem State.put_sec (F : Fld) (v i k : Nat) : (s.put F v i k).sec = s.sec := rfl
@[simp] theorem State.put_launches (F : Fld) (v i k : Nat) : (s.put F v i k).launches = s.launches := rfl
@[simp] theorem State.put_doms (F : Fld) (v i k : Nat) : (s.put F v i k).doms = s.doms := rfl
@[simp] theorem State.put_domOp (F : Fld) (v i k : Nat) : (s.put F v i k).domOp = s.domOp := rfl
@[simp] theorem State.put_start (F : Fld) (v i k : Nat) : (s.put F v i k).start = s.start := rfl
@[simp] theorem State.put_fuses (F : Fld) (v i k : Nat) : (s.put F v i k).fuses = s.fuses := rfl
@[simp] theorem State.put_straps (F : Fld) (v i k : Nat) : (s.put F v i k).straps = s.straps := rfl
@[simp] theorem State.put_evr (F : Fld) (v i k : Nat) : (s.put F v i k).evr = s.evr := rfl
@[simp] theorem State.put_dram (F : Fld) (v i k : Nat) : (s.put F v i k).dram = s.dram := rfl
@[simp] theorem State.put_fmt (F : Fld) (v i k : Nat) : (s.put F v i k).fmt = s.fmt := rfl
@[simp] theorem State.put_grants (F : Fld) (v i k : Nat) : (s.put F v i k).grants = s.grants := rfl

@[simp] theorem State.reply_pending (c : Nat) (l : List Nat) : (s.reply c l).pending = s.pending := rfl
@[simp] theorem State.reply_fresh (c : Nat) (l : List Nat) : (s.reply c l).fresh = s.fresh := rfl
@[simp] theorem State.reply_flds (c : Nat) (l : List Nat) : (s.reply c l).flds = s.flds := rfl
@[simp] theorem State.reply_shadow (c : Nat) (l : List Nat) : (s.reply c l).shadow = s.shadow := rfl
@[simp] theorem State.reply_waiting (c : Nat) (l : List Nat) : (s.reply c l).waiting = s.waiting := rfl
@[simp] theorem State.reply_notices (c : Nat) (l : List Nat) : (s.reply c l).notices = s.notices := rfl
@[simp] theorem State.reply_asks (c : Nat) (l : List Nat) : (s.reply c l).asks = s.asks := rfl
@[simp] theorem State.reply_wires (c : Nat) (l : List Nat) : (s.reply c l).wires = s.wires := rfl
@[simp] theorem State.reply_links (c : Nat) (l : List Nat) : (s.reply c l).links = s.links := rfl
@[simp] theorem State.reply_gen (c : Nat) (l : List Nat) : (s.reply c l).gen = s.gen := rfl
@[simp] theorem State.reply_timers (c : Nat) (l : List Nat) : (s.reply c l).timers = s.timers := rfl
@[simp] theorem State.reply_lanes (c : Nat) (l : List Nat) : (s.reply c l).lanes = s.lanes := rfl
@[simp] theorem State.reply_ldps (c : Nat) (l : List Nat) : (s.reply c l).ldps = s.ldps := rfl
@[simp] theorem State.reply_lqs (c : Nat) (l : List Nat) : (s.reply c l).lqs = s.lqs := rfl
@[simp] theorem State.reply_sqrs (c : Nat) (l : List Nat) : (s.reply c l).sqrs = s.sqrs := rfl
@[simp] theorem State.reply_seqs (c : Nat) (l : List Nat) : (s.reply c l).seqs = s.seqs := rfl
@[simp] theorem State.reply_tagRecs (c : Nat) (l : List Nat) : (s.reply c l).tagRecs = s.tagRecs := rfl
@[simp] theorem State.reply_asts (c : Nat) (l : List Nat) : (s.reply c l).asts = s.asts := rfl
@[simp] theorem State.reply_srvs (c : Nat) (l : List Nat) : (s.reply c l).srvs = s.srvs := rfl
@[simp] theorem State.reply_vcms (c : Nat) (l : List Nat) : (s.reply c l).vcms = s.vcms := rfl
@[simp] theorem State.reply_mac (c : Nat) (l : List Nat) : (s.reply c l).mac = s.mac := rfl
@[simp] theorem State.reply_media (c : Nat) (l : List Nat) : (s.reply c l).media = s.media := rfl
@[simp] theorem State.reply_mbx (c : Nat) (l : List Nat) : (s.reply c l).mbx = s.mbx := rfl
@[simp] theorem State.reply_rgt (c : Nat) (l : List Nat) : (s.reply c l).rgt = s.rgt := rfl
@[simp] theorem State.reply_sch (c : Nat) (l : List Nat) : (s.reply c l).sch = s.sch := rfl
@[simp] theorem State.reply_tcm (c : Nat) (l : List Nat) : (s.reply c l).tcm = s.tcm := rfl
@[simp] theorem State.reply_l2 (c : Nat) (l : List Nat) : (s.reply c l).l2 = s.l2 := rfl
@[simp] theorem State.reply_wrk (c : Nat) (l : List Nat) : (s.reply c l).wrk = s.wrk := rfl
@[simp] theorem State.reply_wev (c : Nat) (l : List Nat) : (s.reply c l).wev = s.wev := rfl
@[simp] theorem State.reply_buf (c : Nat) (l : List Nat) : (s.reply c l).buf = s.buf := rfl
@[simp] theorem State.reply_nvme (c : Nat) (l : List Nat) : (s.reply c l).nvme = s.nvme := rfl
@[simp] theorem State.reply_spn (c : Nat) (l : List Nat) : (s.reply c l).spn = s.spn := rfl
@[simp] theorem State.reply_nv (c : Nat) (l : List Nat) : (s.reply c l).nv = s.nv := rfl
@[simp] theorem State.reply_tmp (c : Nat) (l : List Nat) : (s.reply c l).tmp = s.tmp := rfl
@[simp] theorem State.reply_cal (c : Nat) (l : List Nat) : (s.reply c l).cal = s.cal := rfl
@[simp] theorem State.reply_sec (c : Nat) (l : List Nat) : (s.reply c l).sec = s.sec := rfl
@[simp] theorem State.reply_launches (c : Nat) (l : List Nat) : (s.reply c l).launches = s.launches := rfl
@[simp] theorem State.reply_doms (c : Nat) (l : List Nat) : (s.reply c l).doms = s.doms := rfl
@[simp] theorem State.reply_domOp (c : Nat) (l : List Nat) : (s.reply c l).domOp = s.domOp := rfl
@[simp] theorem State.reply_start (c : Nat) (l : List Nat) : (s.reply c l).start = s.start := rfl
@[simp] theorem State.reply_fuses (c : Nat) (l : List Nat) : (s.reply c l).fuses = s.fuses := rfl
@[simp] theorem State.reply_straps (c : Nat) (l : List Nat) : (s.reply c l).straps = s.straps := rfl
@[simp] theorem State.reply_evr (c : Nat) (l : List Nat) : (s.reply c l).evr = s.evr := rfl
@[simp] theorem State.reply_dram (c : Nat) (l : List Nat) : (s.reply c l).dram = s.dram := rfl
@[simp] theorem State.reply_fmt (c : Nat) (l : List Nat) : (s.reply c l).fmt = s.fmt := rfl
@[simp] theorem State.reply_grants (c : Nat) (l : List Nat) : (s.reply c l).grants = s.grants := rfl

@[simp] theorem State.drawn_pending : (s.drawn).pending = s.pending := rfl
@[simp] theorem State.drawn_answer : (s.drawn).answer = s.answer := rfl
@[simp] theorem State.drawn_flds : (s.drawn).flds = s.flds := rfl
@[simp] theorem State.drawn_shadow : (s.drawn).shadow = s.shadow := rfl
@[simp] theorem State.drawn_waiting : (s.drawn).waiting = s.waiting := rfl
@[simp] theorem State.drawn_notices : (s.drawn).notices = s.notices := rfl
@[simp] theorem State.drawn_asks : (s.drawn).asks = s.asks := rfl
@[simp] theorem State.drawn_wires : (s.drawn).wires = s.wires := rfl
@[simp] theorem State.drawn_links : (s.drawn).links = s.links := rfl
@[simp] theorem State.drawn_gen : (s.drawn).gen = s.gen := rfl
@[simp] theorem State.drawn_timers : (s.drawn).timers = s.timers := rfl
@[simp] theorem State.drawn_lanes : (s.drawn).lanes = s.lanes := rfl
@[simp] theorem State.drawn_ldps : (s.drawn).ldps = s.ldps := rfl
@[simp] theorem State.drawn_lqs : (s.drawn).lqs = s.lqs := rfl
@[simp] theorem State.drawn_sqrs : (s.drawn).sqrs = s.sqrs := rfl
@[simp] theorem State.drawn_seqs : (s.drawn).seqs = s.seqs := rfl
@[simp] theorem State.drawn_tagRecs : (s.drawn).tagRecs = s.tagRecs := rfl
@[simp] theorem State.drawn_asts : (s.drawn).asts = s.asts := rfl
@[simp] theorem State.drawn_srvs : (s.drawn).srvs = s.srvs := rfl
@[simp] theorem State.drawn_vcms : (s.drawn).vcms = s.vcms := rfl
@[simp] theorem State.drawn_mac : (s.drawn).mac = s.mac := rfl
@[simp] theorem State.drawn_media : (s.drawn).media = s.media := rfl
@[simp] theorem State.drawn_mbx : (s.drawn).mbx = s.mbx := rfl
@[simp] theorem State.drawn_rgt : (s.drawn).rgt = s.rgt := rfl
@[simp] theorem State.drawn_sch : (s.drawn).sch = s.sch := rfl
@[simp] theorem State.drawn_tcm : (s.drawn).tcm = s.tcm := rfl
@[simp] theorem State.drawn_l2 : (s.drawn).l2 = s.l2 := rfl
@[simp] theorem State.drawn_wrk : (s.drawn).wrk = s.wrk := rfl
@[simp] theorem State.drawn_wev : (s.drawn).wev = s.wev := rfl
@[simp] theorem State.drawn_buf : (s.drawn).buf = s.buf := rfl
@[simp] theorem State.drawn_nvme : (s.drawn).nvme = s.nvme := rfl
@[simp] theorem State.drawn_spn : (s.drawn).spn = s.spn := rfl
@[simp] theorem State.drawn_nv : (s.drawn).nv = s.nv := rfl
@[simp] theorem State.drawn_tmp : (s.drawn).tmp = s.tmp := rfl
@[simp] theorem State.drawn_cal : (s.drawn).cal = s.cal := rfl
@[simp] theorem State.drawn_sec : (s.drawn).sec = s.sec := rfl
@[simp] theorem State.drawn_launches : (s.drawn).launches = s.launches := rfl
@[simp] theorem State.drawn_doms : (s.drawn).doms = s.doms := rfl
@[simp] theorem State.drawn_domOp : (s.drawn).domOp = s.domOp := rfl
@[simp] theorem State.drawn_start : (s.drawn).start = s.start := rfl
@[simp] theorem State.drawn_fuses : (s.drawn).fuses = s.fuses := rfl
@[simp] theorem State.drawn_straps : (s.drawn).straps = s.straps := rfl
@[simp] theorem State.drawn_evr : (s.drawn).evr = s.evr := rfl
@[simp] theorem State.drawn_dram : (s.drawn).dram = s.dram := rfl
@[simp] theorem State.drawn_fmt : (s.drawn).fmt = s.fmt := rfl
@[simp] theorem State.drawn_grants : (s.drawn).grants = s.grants := rfl

@[simp] theorem State.setLink_pending (n : Nat) (v : Link) : (s.setLink n v).pending = s.pending := rfl
@[simp] theorem State.setLink_fresh (n : Nat) (v : Link) : (s.setLink n v).fresh = s.fresh := rfl
@[simp] theorem State.setLink_answer (n : Nat) (v : Link) : (s.setLink n v).answer = s.answer := rfl
@[simp] theorem State.setLink_flds (n : Nat) (v : Link) : (s.setLink n v).flds = s.flds := rfl
@[simp] theorem State.setLink_shadow (n : Nat) (v : Link) : (s.setLink n v).shadow = s.shadow := rfl
@[simp] theorem State.setLink_waiting (n : Nat) (v : Link) : (s.setLink n v).waiting = s.waiting := rfl
@[simp] theorem State.setLink_notices (n : Nat) (v : Link) : (s.setLink n v).notices = s.notices := rfl
@[simp] theorem State.setLink_asks (n : Nat) (v : Link) : (s.setLink n v).asks = s.asks := rfl
@[simp] theorem State.setLink_wires (n : Nat) (v : Link) : (s.setLink n v).wires = s.wires := rfl
@[simp] theorem State.setLink_gen (n : Nat) (v : Link) : (s.setLink n v).gen = s.gen := rfl
@[simp] theorem State.setLink_timers (n : Nat) (v : Link) : (s.setLink n v).timers = s.timers := rfl
@[simp] theorem State.setLink_lanes (n : Nat) (v : Link) : (s.setLink n v).lanes = s.lanes := rfl
@[simp] theorem State.setLink_ldps (n : Nat) (v : Link) : (s.setLink n v).ldps = s.ldps := rfl
@[simp] theorem State.setLink_lqs (n : Nat) (v : Link) : (s.setLink n v).lqs = s.lqs := rfl
@[simp] theorem State.setLink_sqrs (n : Nat) (v : Link) : (s.setLink n v).sqrs = s.sqrs := rfl
@[simp] theorem State.setLink_seqs (n : Nat) (v : Link) : (s.setLink n v).seqs = s.seqs := rfl
@[simp] theorem State.setLink_tagRecs (n : Nat) (v : Link) : (s.setLink n v).tagRecs = s.tagRecs := rfl
@[simp] theorem State.setLink_asts (n : Nat) (v : Link) : (s.setLink n v).asts = s.asts := rfl
@[simp] theorem State.setLink_srvs (n : Nat) (v : Link) : (s.setLink n v).srvs = s.srvs := rfl
@[simp] theorem State.setLink_vcms (n : Nat) (v : Link) : (s.setLink n v).vcms = s.vcms := rfl
@[simp] theorem State.setLink_mac (n : Nat) (v : Link) : (s.setLink n v).mac = s.mac := rfl
@[simp] theorem State.setLink_media (n : Nat) (v : Link) : (s.setLink n v).media = s.media := rfl
@[simp] theorem State.setLink_mbx (n : Nat) (v : Link) : (s.setLink n v).mbx = s.mbx := rfl
@[simp] theorem State.setLink_rgt (n : Nat) (v : Link) : (s.setLink n v).rgt = s.rgt := rfl
@[simp] theorem State.setLink_sch (n : Nat) (v : Link) : (s.setLink n v).sch = s.sch := rfl
@[simp] theorem State.setLink_tcm (n : Nat) (v : Link) : (s.setLink n v).tcm = s.tcm := rfl
@[simp] theorem State.setLink_l2 (n : Nat) (v : Link) : (s.setLink n v).l2 = s.l2 := rfl
@[simp] theorem State.setLink_wrk (n : Nat) (v : Link) : (s.setLink n v).wrk = s.wrk := rfl
@[simp] theorem State.setLink_wev (n : Nat) (v : Link) : (s.setLink n v).wev = s.wev := rfl
@[simp] theorem State.setLink_buf (n : Nat) (v : Link) : (s.setLink n v).buf = s.buf := rfl
@[simp] theorem State.setLink_nvme (n : Nat) (v : Link) : (s.setLink n v).nvme = s.nvme := rfl
@[simp] theorem State.setLink_spn (n : Nat) (v : Link) : (s.setLink n v).spn = s.spn := rfl
@[simp] theorem State.setLink_nv (n : Nat) (v : Link) : (s.setLink n v).nv = s.nv := rfl
@[simp] theorem State.setLink_tmp (n : Nat) (v : Link) : (s.setLink n v).tmp = s.tmp := rfl
@[simp] theorem State.setLink_cal (n : Nat) (v : Link) : (s.setLink n v).cal = s.cal := rfl
@[simp] theorem State.setLink_sec (n : Nat) (v : Link) : (s.setLink n v).sec = s.sec := rfl
@[simp] theorem State.setLink_launches (n : Nat) (v : Link) : (s.setLink n v).launches = s.launches := rfl
@[simp] theorem State.setLink_doms (n : Nat) (v : Link) : (s.setLink n v).doms = s.doms := rfl
@[simp] theorem State.setLink_domOp (n : Nat) (v : Link) : (s.setLink n v).domOp = s.domOp := rfl
@[simp] theorem State.setLink_start (n : Nat) (v : Link) : (s.setLink n v).start = s.start := rfl
@[simp] theorem State.setLink_fuses (n : Nat) (v : Link) : (s.setLink n v).fuses = s.fuses := rfl
@[simp] theorem State.setLink_straps (n : Nat) (v : Link) : (s.setLink n v).straps = s.straps := rfl
@[simp] theorem State.setLink_evr (n : Nat) (v : Link) : (s.setLink n v).evr = s.evr := rfl
@[simp] theorem State.setLink_dram (n : Nat) (v : Link) : (s.setLink n v).dram = s.dram := rfl
@[simp] theorem State.setLink_fmt (n : Nat) (v : Link) : (s.setLink n v).fmt = s.fmt := rfl
@[simp] theorem State.setLink_grants (n : Nat) (v : Link) : (s.setLink n v).grants = s.grants := rfl

@[simp] theorem State.setTimer_pending (n : Nat) (v : Timer) : (s.setTimer n v).pending = s.pending := rfl
@[simp] theorem State.setTimer_fresh (n : Nat) (v : Timer) : (s.setTimer n v).fresh = s.fresh := rfl
@[simp] theorem State.setTimer_answer (n : Nat) (v : Timer) : (s.setTimer n v).answer = s.answer := rfl
@[simp] theorem State.setTimer_flds (n : Nat) (v : Timer) : (s.setTimer n v).flds = s.flds := rfl
@[simp] theorem State.setTimer_shadow (n : Nat) (v : Timer) : (s.setTimer n v).shadow = s.shadow := rfl
@[simp] theorem State.setTimer_waiting (n : Nat) (v : Timer) : (s.setTimer n v).waiting = s.waiting := rfl
@[simp] theorem State.setTimer_notices (n : Nat) (v : Timer) : (s.setTimer n v).notices = s.notices := rfl
@[simp] theorem State.setTimer_asks (n : Nat) (v : Timer) : (s.setTimer n v).asks = s.asks := rfl
@[simp] theorem State.setTimer_wires (n : Nat) (v : Timer) : (s.setTimer n v).wires = s.wires := rfl
@[simp] theorem State.setTimer_links (n : Nat) (v : Timer) : (s.setTimer n v).links = s.links := rfl
@[simp] theorem State.setTimer_gen (n : Nat) (v : Timer) : (s.setTimer n v).gen = s.gen := rfl
@[simp] theorem State.setTimer_lanes (n : Nat) (v : Timer) : (s.setTimer n v).lanes = s.lanes := rfl
@[simp] theorem State.setTimer_ldps (n : Nat) (v : Timer) : (s.setTimer n v).ldps = s.ldps := rfl
@[simp] theorem State.setTimer_lqs (n : Nat) (v : Timer) : (s.setTimer n v).lqs = s.lqs := rfl
@[simp] theorem State.setTimer_sqrs (n : Nat) (v : Timer) : (s.setTimer n v).sqrs = s.sqrs := rfl
@[simp] theorem State.setTimer_seqs (n : Nat) (v : Timer) : (s.setTimer n v).seqs = s.seqs := rfl
@[simp] theorem State.setTimer_tagRecs (n : Nat) (v : Timer) : (s.setTimer n v).tagRecs = s.tagRecs := rfl
@[simp] theorem State.setTimer_asts (n : Nat) (v : Timer) : (s.setTimer n v).asts = s.asts := rfl
@[simp] theorem State.setTimer_srvs (n : Nat) (v : Timer) : (s.setTimer n v).srvs = s.srvs := rfl
@[simp] theorem State.setTimer_vcms (n : Nat) (v : Timer) : (s.setTimer n v).vcms = s.vcms := rfl
@[simp] theorem State.setTimer_mac (n : Nat) (v : Timer) : (s.setTimer n v).mac = s.mac := rfl
@[simp] theorem State.setTimer_media (n : Nat) (v : Timer) : (s.setTimer n v).media = s.media := rfl
@[simp] theorem State.setTimer_mbx (n : Nat) (v : Timer) : (s.setTimer n v).mbx = s.mbx := rfl
@[simp] theorem State.setTimer_rgt (n : Nat) (v : Timer) : (s.setTimer n v).rgt = s.rgt := rfl
@[simp] theorem State.setTimer_sch (n : Nat) (v : Timer) : (s.setTimer n v).sch = s.sch := rfl
@[simp] theorem State.setTimer_tcm (n : Nat) (v : Timer) : (s.setTimer n v).tcm = s.tcm := rfl
@[simp] theorem State.setTimer_l2 (n : Nat) (v : Timer) : (s.setTimer n v).l2 = s.l2 := rfl
@[simp] theorem State.setTimer_wrk (n : Nat) (v : Timer) : (s.setTimer n v).wrk = s.wrk := rfl
@[simp] theorem State.setTimer_wev (n : Nat) (v : Timer) : (s.setTimer n v).wev = s.wev := rfl
@[simp] theorem State.setTimer_buf (n : Nat) (v : Timer) : (s.setTimer n v).buf = s.buf := rfl
@[simp] theorem State.setTimer_nvme (n : Nat) (v : Timer) : (s.setTimer n v).nvme = s.nvme := rfl
@[simp] theorem State.setTimer_spn (n : Nat) (v : Timer) : (s.setTimer n v).spn = s.spn := rfl
@[simp] theorem State.setTimer_nv (n : Nat) (v : Timer) : (s.setTimer n v).nv = s.nv := rfl
@[simp] theorem State.setTimer_tmp (n : Nat) (v : Timer) : (s.setTimer n v).tmp = s.tmp := rfl
@[simp] theorem State.setTimer_cal (n : Nat) (v : Timer) : (s.setTimer n v).cal = s.cal := rfl
@[simp] theorem State.setTimer_sec (n : Nat) (v : Timer) : (s.setTimer n v).sec = s.sec := rfl
@[simp] theorem State.setTimer_launches (n : Nat) (v : Timer) : (s.setTimer n v).launches = s.launches := rfl
@[simp] theorem State.setTimer_doms (n : Nat) (v : Timer) : (s.setTimer n v).doms = s.doms := rfl
@[simp] theorem State.setTimer_domOp (n : Nat) (v : Timer) : (s.setTimer n v).domOp = s.domOp := rfl
@[simp] theorem State.setTimer_start (n : Nat) (v : Timer) : (s.setTimer n v).start = s.start := rfl
@[simp] theorem State.setTimer_fuses (n : Nat) (v : Timer) : (s.setTimer n v).fuses = s.fuses := rfl
@[simp] theorem State.setTimer_straps (n : Nat) (v : Timer) : (s.setTimer n v).straps = s.straps := rfl
@[simp] theorem State.setTimer_evr (n : Nat) (v : Timer) : (s.setTimer n v).evr = s.evr := rfl
@[simp] theorem State.setTimer_dram (n : Nat) (v : Timer) : (s.setTimer n v).dram = s.dram := rfl
@[simp] theorem State.setTimer_fmt (n : Nat) (v : Timer) : (s.setTimer n v).fmt = s.fmt := rfl
@[simp] theorem State.setTimer_grants (n : Nat) (v : Timer) : (s.setTimer n v).grants = s.grants := rfl

@[simp] theorem State.setDom_pending (n : Nat) (v : Dom) : (s.setDom n v).pending = s.pending := rfl
@[simp] theorem State.setDom_fresh (n : Nat) (v : Dom) : (s.setDom n v).fresh = s.fresh := rfl
@[simp] theorem State.setDom_answer (n : Nat) (v : Dom) : (s.setDom n v).answer = s.answer := rfl
@[simp] theorem State.setDom_flds (n : Nat) (v : Dom) : (s.setDom n v).flds = s.flds := rfl
@[simp] theorem State.setDom_shadow (n : Nat) (v : Dom) : (s.setDom n v).shadow = s.shadow := rfl
@[simp] theorem State.setDom_waiting (n : Nat) (v : Dom) : (s.setDom n v).waiting = s.waiting := rfl
@[simp] theorem State.setDom_notices (n : Nat) (v : Dom) : (s.setDom n v).notices = s.notices := rfl
@[simp] theorem State.setDom_asks (n : Nat) (v : Dom) : (s.setDom n v).asks = s.asks := rfl
@[simp] theorem State.setDom_wires (n : Nat) (v : Dom) : (s.setDom n v).wires = s.wires := rfl
@[simp] theorem State.setDom_links (n : Nat) (v : Dom) : (s.setDom n v).links = s.links := rfl
@[simp] theorem State.setDom_gen (n : Nat) (v : Dom) : (s.setDom n v).gen = s.gen := rfl
@[simp] theorem State.setDom_timers (n : Nat) (v : Dom) : (s.setDom n v).timers = s.timers := rfl
@[simp] theorem State.setDom_lanes (n : Nat) (v : Dom) : (s.setDom n v).lanes = s.lanes := rfl
@[simp] theorem State.setDom_ldps (n : Nat) (v : Dom) : (s.setDom n v).ldps = s.ldps := rfl
@[simp] theorem State.setDom_lqs (n : Nat) (v : Dom) : (s.setDom n v).lqs = s.lqs := rfl
@[simp] theorem State.setDom_sqrs (n : Nat) (v : Dom) : (s.setDom n v).sqrs = s.sqrs := rfl
@[simp] theorem State.setDom_seqs (n : Nat) (v : Dom) : (s.setDom n v).seqs = s.seqs := rfl
@[simp] theorem State.setDom_tagRecs (n : Nat) (v : Dom) : (s.setDom n v).tagRecs = s.tagRecs := rfl
@[simp] theorem State.setDom_asts (n : Nat) (v : Dom) : (s.setDom n v).asts = s.asts := rfl
@[simp] theorem State.setDom_srvs (n : Nat) (v : Dom) : (s.setDom n v).srvs = s.srvs := rfl
@[simp] theorem State.setDom_vcms (n : Nat) (v : Dom) : (s.setDom n v).vcms = s.vcms := rfl
@[simp] theorem State.setDom_mac (n : Nat) (v : Dom) : (s.setDom n v).mac = s.mac := rfl
@[simp] theorem State.setDom_media (n : Nat) (v : Dom) : (s.setDom n v).media = s.media := rfl
@[simp] theorem State.setDom_mbx (n : Nat) (v : Dom) : (s.setDom n v).mbx = s.mbx := rfl
@[simp] theorem State.setDom_rgt (n : Nat) (v : Dom) : (s.setDom n v).rgt = s.rgt := rfl
@[simp] theorem State.setDom_sch (n : Nat) (v : Dom) : (s.setDom n v).sch = s.sch := rfl
@[simp] theorem State.setDom_tcm (n : Nat) (v : Dom) : (s.setDom n v).tcm = s.tcm := rfl
@[simp] theorem State.setDom_l2 (n : Nat) (v : Dom) : (s.setDom n v).l2 = s.l2 := rfl
@[simp] theorem State.setDom_wrk (n : Nat) (v : Dom) : (s.setDom n v).wrk = s.wrk := rfl
@[simp] theorem State.setDom_wev (n : Nat) (v : Dom) : (s.setDom n v).wev = s.wev := rfl
@[simp] theorem State.setDom_buf (n : Nat) (v : Dom) : (s.setDom n v).buf = s.buf := rfl
@[simp] theorem State.setDom_nvme (n : Nat) (v : Dom) : (s.setDom n v).nvme = s.nvme := rfl
@[simp] theorem State.setDom_spn (n : Nat) (v : Dom) : (s.setDom n v).spn = s.spn := rfl
@[simp] theorem State.setDom_nv (n : Nat) (v : Dom) : (s.setDom n v).nv = s.nv := rfl
@[simp] theorem State.setDom_tmp (n : Nat) (v : Dom) : (s.setDom n v).tmp = s.tmp := rfl
@[simp] theorem State.setDom_cal (n : Nat) (v : Dom) : (s.setDom n v).cal = s.cal := rfl
@[simp] theorem State.setDom_sec (n : Nat) (v : Dom) : (s.setDom n v).sec = s.sec := rfl
@[simp] theorem State.setDom_launches (n : Nat) (v : Dom) : (s.setDom n v).launches = s.launches := rfl
@[simp] theorem State.setDom_domOp (n : Nat) (v : Dom) : (s.setDom n v).domOp = s.domOp := rfl
@[simp] theorem State.setDom_start (n : Nat) (v : Dom) : (s.setDom n v).start = s.start := rfl
@[simp] theorem State.setDom_fuses (n : Nat) (v : Dom) : (s.setDom n v).fuses = s.fuses := rfl
@[simp] theorem State.setDom_straps (n : Nat) (v : Dom) : (s.setDom n v).straps = s.straps := rfl
@[simp] theorem State.setDom_evr (n : Nat) (v : Dom) : (s.setDom n v).evr = s.evr := rfl
@[simp] theorem State.setDom_dram (n : Nat) (v : Dom) : (s.setDom n v).dram = s.dram := rfl
@[simp] theorem State.setDom_fmt (n : Nat) (v : Dom) : (s.setDom n v).fmt = s.fmt := rfl
@[simp] theorem State.setDom_grants (n : Nat) (v : Dom) : (s.setDom n v).grants = s.grants := rfl

@[simp] theorem State.wait_pending (x : Waiting) : (s.wait x).pending = s.pending := rfl
@[simp] theorem State.wait_fresh (x : Waiting) : (s.wait x).fresh = s.fresh := rfl
@[simp] theorem State.wait_answer (x : Waiting) : (s.wait x).answer = s.answer := rfl
@[simp] theorem State.wait_flds (x : Waiting) : (s.wait x).flds = s.flds := rfl
@[simp] theorem State.wait_shadow (x : Waiting) : (s.wait x).shadow = s.shadow := rfl
@[simp] theorem State.wait_notices (x : Waiting) : (s.wait x).notices = s.notices := rfl
@[simp] theorem State.wait_asks (x : Waiting) : (s.wait x).asks = s.asks := rfl
@[simp] theorem State.wait_wires (x : Waiting) : (s.wait x).wires = s.wires := rfl
@[simp] theorem State.wait_links (x : Waiting) : (s.wait x).links = s.links := rfl
@[simp] theorem State.wait_gen (x : Waiting) : (s.wait x).gen = s.gen := rfl
@[simp] theorem State.wait_timers (x : Waiting) : (s.wait x).timers = s.timers := rfl
@[simp] theorem State.wait_lanes (x : Waiting) : (s.wait x).lanes = s.lanes := rfl
@[simp] theorem State.wait_ldps (x : Waiting) : (s.wait x).ldps = s.ldps := rfl
@[simp] theorem State.wait_lqs (x : Waiting) : (s.wait x).lqs = s.lqs := rfl
@[simp] theorem State.wait_sqrs (x : Waiting) : (s.wait x).sqrs = s.sqrs := rfl
@[simp] theorem State.wait_seqs (x : Waiting) : (s.wait x).seqs = s.seqs := rfl
@[simp] theorem State.wait_tagRecs (x : Waiting) : (s.wait x).tagRecs = s.tagRecs := rfl
@[simp] theorem State.wait_asts (x : Waiting) : (s.wait x).asts = s.asts := rfl
@[simp] theorem State.wait_srvs (x : Waiting) : (s.wait x).srvs = s.srvs := rfl
@[simp] theorem State.wait_vcms (x : Waiting) : (s.wait x).vcms = s.vcms := rfl
@[simp] theorem State.wait_mac (x : Waiting) : (s.wait x).mac = s.mac := rfl
@[simp] theorem State.wait_media (x : Waiting) : (s.wait x).media = s.media := rfl
@[simp] theorem State.wait_mbx (x : Waiting) : (s.wait x).mbx = s.mbx := rfl
@[simp] theorem State.wait_rgt (x : Waiting) : (s.wait x).rgt = s.rgt := rfl
@[simp] theorem State.wait_sch (x : Waiting) : (s.wait x).sch = s.sch := rfl
@[simp] theorem State.wait_tcm (x : Waiting) : (s.wait x).tcm = s.tcm := rfl
@[simp] theorem State.wait_l2 (x : Waiting) : (s.wait x).l2 = s.l2 := rfl
@[simp] theorem State.wait_wrk (x : Waiting) : (s.wait x).wrk = s.wrk := rfl
@[simp] theorem State.wait_wev (x : Waiting) : (s.wait x).wev = s.wev := rfl
@[simp] theorem State.wait_buf (x : Waiting) : (s.wait x).buf = s.buf := rfl
@[simp] theorem State.wait_nvme (x : Waiting) : (s.wait x).nvme = s.nvme := rfl
@[simp] theorem State.wait_spn (x : Waiting) : (s.wait x).spn = s.spn := rfl
@[simp] theorem State.wait_nv (x : Waiting) : (s.wait x).nv = s.nv := rfl
@[simp] theorem State.wait_tmp (x : Waiting) : (s.wait x).tmp = s.tmp := rfl
@[simp] theorem State.wait_cal (x : Waiting) : (s.wait x).cal = s.cal := rfl
@[simp] theorem State.wait_sec (x : Waiting) : (s.wait x).sec = s.sec := rfl
@[simp] theorem State.wait_launches (x : Waiting) : (s.wait x).launches = s.launches := rfl
@[simp] theorem State.wait_doms (x : Waiting) : (s.wait x).doms = s.doms := rfl
@[simp] theorem State.wait_domOp (x : Waiting) : (s.wait x).domOp = s.domOp := rfl
@[simp] theorem State.wait_start (x : Waiting) : (s.wait x).start = s.start := rfl
@[simp] theorem State.wait_fuses (x : Waiting) : (s.wait x).fuses = s.fuses := rfl
@[simp] theorem State.wait_straps (x : Waiting) : (s.wait x).straps = s.straps := rfl
@[simp] theorem State.wait_evr (x : Waiting) : (s.wait x).evr = s.evr := rfl
@[simp] theorem State.wait_dram (x : Waiting) : (s.wait x).dram = s.dram := rfl
@[simp] theorem State.wait_fmt (x : Waiting) : (s.wait x).fmt = s.fmt := rfl
@[simp] theorem State.wait_grants (x : Waiting) : (s.wait x).grants = s.grants := rfl

@[simp] theorem report_pending (r : Rec) : (report s r).pending = s.pending := rfl
@[simp] theorem report_fresh (r : Rec) : (report s r).fresh = s.fresh := rfl
@[simp] theorem report_answer (r : Rec) : (report s r).answer = s.answer := rfl
@[simp] theorem report_flds (r : Rec) : (report s r).flds = s.flds := rfl
@[simp] theorem report_shadow (r : Rec) : (report s r).shadow = s.shadow := rfl
@[simp] theorem report_waiting (r : Rec) : (report s r).waiting = s.waiting := rfl
@[simp] theorem report_notices (r : Rec) : (report s r).notices = s.notices := rfl
@[simp] theorem report_asks (r : Rec) : (report s r).asks = s.asks := rfl
@[simp] theorem report_wires (r : Rec) : (report s r).wires = s.wires := rfl
@[simp] theorem report_links (r : Rec) : (report s r).links = s.links := rfl
@[simp] theorem report_gen (r : Rec) : (report s r).gen = s.gen := rfl
@[simp] theorem report_timers (r : Rec) : (report s r).timers = s.timers := rfl
@[simp] theorem report_lanes (r : Rec) : (report s r).lanes = s.lanes := rfl
@[simp] theorem report_ldps (r : Rec) : (report s r).ldps = s.ldps := rfl
@[simp] theorem report_lqs (r : Rec) : (report s r).lqs = s.lqs := rfl
@[simp] theorem report_sqrs (r : Rec) : (report s r).sqrs = s.sqrs := rfl
@[simp] theorem report_seqs (r : Rec) : (report s r).seqs = s.seqs := rfl
@[simp] theorem report_tagRecs (r : Rec) : (report s r).tagRecs = s.tagRecs := rfl
@[simp] theorem report_asts (r : Rec) : (report s r).asts = s.asts := rfl
@[simp] theorem report_srvs (r : Rec) : (report s r).srvs = s.srvs := rfl
@[simp] theorem report_vcms (r : Rec) : (report s r).vcms = s.vcms := rfl
@[simp] theorem report_mac (r : Rec) : (report s r).mac = s.mac := rfl
@[simp] theorem report_media (r : Rec) : (report s r).media = s.media := rfl
@[simp] theorem report_mbx (r : Rec) : (report s r).mbx = s.mbx := rfl
@[simp] theorem report_rgt (r : Rec) : (report s r).rgt = s.rgt := rfl
@[simp] theorem report_sch (r : Rec) : (report s r).sch = s.sch := rfl
@[simp] theorem report_tcm (r : Rec) : (report s r).tcm = s.tcm := rfl
@[simp] theorem report_l2 (r : Rec) : (report s r).l2 = s.l2 := rfl
@[simp] theorem report_wrk (r : Rec) : (report s r).wrk = s.wrk := rfl
@[simp] theorem report_wev (r : Rec) : (report s r).wev = s.wev := rfl
@[simp] theorem report_buf (r : Rec) : (report s r).buf = s.buf := rfl
@[simp] theorem report_nvme (r : Rec) : (report s r).nvme = s.nvme := rfl
@[simp] theorem report_spn (r : Rec) : (report s r).spn = s.spn := rfl
@[simp] theorem report_nv (r : Rec) : (report s r).nv = s.nv := rfl
@[simp] theorem report_tmp (r : Rec) : (report s r).tmp = s.tmp := rfl
@[simp] theorem report_cal (r : Rec) : (report s r).cal = s.cal := rfl
@[simp] theorem report_sec (r : Rec) : (report s r).sec = s.sec := rfl
@[simp] theorem report_launches (r : Rec) : (report s r).launches = s.launches := rfl
@[simp] theorem report_doms (r : Rec) : (report s r).doms = s.doms := rfl
@[simp] theorem report_domOp (r : Rec) : (report s r).domOp = s.domOp := rfl
@[simp] theorem report_start (r : Rec) : (report s r).start = s.start := rfl
@[simp] theorem report_fuses (r : Rec) : (report s r).fuses = s.fuses := rfl
@[simp] theorem report_straps (r : Rec) : (report s r).straps = s.straps := rfl
@[simp] theorem report_dram (r : Rec) : (report s r).dram = s.dram := rfl
@[simp] theorem report_fmt (r : Rec) : (report s r).fmt = s.fmt := rfl
@[simp] theorem report_grants (r : Rec) : (report s r).grants = s.grants := rfl

@[simp] theorem State.setDram_pending (v : Dram) : (s.setDram v).pending = s.pending := rfl
@[simp] theorem State.setDram_fresh (v : Dram) : (s.setDram v).fresh = s.fresh := rfl
@[simp] theorem State.setDram_answer (v : Dram) : (s.setDram v).answer = s.answer := rfl
@[simp] theorem State.setDram_flds (v : Dram) : (s.setDram v).flds = s.flds := rfl
@[simp] theorem State.setDram_shadow (v : Dram) : (s.setDram v).shadow = s.shadow := rfl
@[simp] theorem State.setDram_waiting (v : Dram) : (s.setDram v).waiting = s.waiting := rfl
@[simp] theorem State.setDram_notices (v : Dram) : (s.setDram v).notices = s.notices := rfl
@[simp] theorem State.setDram_asks (v : Dram) : (s.setDram v).asks = s.asks := rfl
@[simp] theorem State.setDram_wires (v : Dram) : (s.setDram v).wires = s.wires := rfl
@[simp] theorem State.setDram_links (v : Dram) : (s.setDram v).links = s.links := rfl
@[simp] theorem State.setDram_gen (v : Dram) : (s.setDram v).gen = s.gen := rfl
@[simp] theorem State.setDram_timers (v : Dram) : (s.setDram v).timers = s.timers := rfl
@[simp] theorem State.setDram_lanes (v : Dram) : (s.setDram v).lanes = s.lanes := rfl
@[simp] theorem State.setDram_ldps (v : Dram) : (s.setDram v).ldps = s.ldps := rfl
@[simp] theorem State.setDram_lqs (v : Dram) : (s.setDram v).lqs = s.lqs := rfl
@[simp] theorem State.setDram_sqrs (v : Dram) : (s.setDram v).sqrs = s.sqrs := rfl
@[simp] theorem State.setDram_seqs (v : Dram) : (s.setDram v).seqs = s.seqs := rfl
@[simp] theorem State.setDram_tagRecs (v : Dram) : (s.setDram v).tagRecs = s.tagRecs := rfl
@[simp] theorem State.setDram_asts (v : Dram) : (s.setDram v).asts = s.asts := rfl
@[simp] theorem State.setDram_srvs (v : Dram) : (s.setDram v).srvs = s.srvs := rfl
@[simp] theorem State.setDram_vcms (v : Dram) : (s.setDram v).vcms = s.vcms := rfl
@[simp] theorem State.setDram_mac (v : Dram) : (s.setDram v).mac = s.mac := rfl
@[simp] theorem State.setDram_media (v : Dram) : (s.setDram v).media = s.media := rfl
@[simp] theorem State.setDram_mbx (v : Dram) : (s.setDram v).mbx = s.mbx := rfl
@[simp] theorem State.setDram_rgt (v : Dram) : (s.setDram v).rgt = s.rgt := rfl
@[simp] theorem State.setDram_sch (v : Dram) : (s.setDram v).sch = s.sch := rfl
@[simp] theorem State.setDram_tcm (v : Dram) : (s.setDram v).tcm = s.tcm := rfl
@[simp] theorem State.setDram_l2 (v : Dram) : (s.setDram v).l2 = s.l2 := rfl
@[simp] theorem State.setDram_wrk (v : Dram) : (s.setDram v).wrk = s.wrk := rfl
@[simp] theorem State.setDram_wev (v : Dram) : (s.setDram v).wev = s.wev := rfl
@[simp] theorem State.setDram_buf (v : Dram) : (s.setDram v).buf = s.buf := rfl
@[simp] theorem State.setDram_nvme (v : Dram) : (s.setDram v).nvme = s.nvme := rfl
@[simp] theorem State.setDram_spn (v : Dram) : (s.setDram v).spn = s.spn := rfl
@[simp] theorem State.setDram_nv (v : Dram) : (s.setDram v).nv = s.nv := rfl
@[simp] theorem State.setDram_tmp (v : Dram) : (s.setDram v).tmp = s.tmp := rfl
@[simp] theorem State.setDram_cal (v : Dram) : (s.setDram v).cal = s.cal := rfl
@[simp] theorem State.setDram_sec (v : Dram) : (s.setDram v).sec = s.sec := rfl
@[simp] theorem State.setDram_launches (v : Dram) : (s.setDram v).launches = s.launches := rfl
@[simp] theorem State.setDram_doms (v : Dram) : (s.setDram v).doms = s.doms := rfl
@[simp] theorem State.setDram_domOp (v : Dram) : (s.setDram v).domOp = s.domOp := rfl
@[simp] theorem State.setDram_start (v : Dram) : (s.setDram v).start = s.start := rfl
@[simp] theorem State.setDram_fuses (v : Dram) : (s.setDram v).fuses = s.fuses := rfl
@[simp] theorem State.setDram_straps (v : Dram) : (s.setDram v).straps = s.straps := rfl
@[simp] theorem State.setDram_evr (v : Dram) : (s.setDram v).evr = s.evr := rfl
@[simp] theorem State.setDram_fmt (v : Dram) : (s.setDram v).fmt = s.fmt := rfl
@[simp] theorem State.setDram_grants (v : Dram) : (s.setDram v).grants = s.grants := rfl

@[simp] theorem State.ask_pending (x : Ask) : (s.ask x).pending = s.pending := rfl
@[simp] theorem State.ask_fresh (x : Ask) : (s.ask x).fresh = s.fresh := rfl
@[simp] theorem State.ask_answer (x : Ask) : (s.ask x).answer = s.answer := rfl
@[simp] theorem State.ask_flds (x : Ask) : (s.ask x).flds = s.flds := rfl
@[simp] theorem State.ask_shadow (x : Ask) : (s.ask x).shadow = s.shadow := rfl
@[simp] theorem State.ask_notices (x : Ask) : (s.ask x).notices = s.notices := rfl
@[simp] theorem State.ask_waiting (x : Ask) : (s.ask x).waiting = s.waiting := rfl
@[simp] theorem State.ask_wires (x : Ask) : (s.ask x).wires = s.wires := rfl
@[simp] theorem State.ask_links (x : Ask) : (s.ask x).links = s.links := rfl
@[simp] theorem State.ask_gen (x : Ask) : (s.ask x).gen = s.gen := rfl
@[simp] theorem State.ask_timers (x : Ask) : (s.ask x).timers = s.timers := rfl
@[simp] theorem State.ask_lanes (x : Ask) : (s.ask x).lanes = s.lanes := rfl
@[simp] theorem State.ask_ldps (x : Ask) : (s.ask x).ldps = s.ldps := rfl
@[simp] theorem State.ask_lqs (x : Ask) : (s.ask x).lqs = s.lqs := rfl
@[simp] theorem State.ask_sqrs (x : Ask) : (s.ask x).sqrs = s.sqrs := rfl
@[simp] theorem State.ask_seqs (x : Ask) : (s.ask x).seqs = s.seqs := rfl
@[simp] theorem State.ask_tagRecs (x : Ask) : (s.ask x).tagRecs = s.tagRecs := rfl
@[simp] theorem State.ask_asts (x : Ask) : (s.ask x).asts = s.asts := rfl
@[simp] theorem State.ask_srvs (x : Ask) : (s.ask x).srvs = s.srvs := rfl
@[simp] theorem State.ask_vcms (x : Ask) : (s.ask x).vcms = s.vcms := rfl
@[simp] theorem State.ask_mac (x : Ask) : (s.ask x).mac = s.mac := rfl
@[simp] theorem State.ask_media (x : Ask) : (s.ask x).media = s.media := rfl
@[simp] theorem State.ask_mbx (x : Ask) : (s.ask x).mbx = s.mbx := rfl
@[simp] theorem State.ask_rgt (x : Ask) : (s.ask x).rgt = s.rgt := rfl
@[simp] theorem State.ask_sch (x : Ask) : (s.ask x).sch = s.sch := rfl
@[simp] theorem State.ask_tcm (x : Ask) : (s.ask x).tcm = s.tcm := rfl
@[simp] theorem State.ask_l2 (x : Ask) : (s.ask x).l2 = s.l2 := rfl
@[simp] theorem State.ask_wrk (x : Ask) : (s.ask x).wrk = s.wrk := rfl
@[simp] theorem State.ask_wev (x : Ask) : (s.ask x).wev = s.wev := rfl
@[simp] theorem State.ask_buf (x : Ask) : (s.ask x).buf = s.buf := rfl
@[simp] theorem State.ask_nvme (x : Ask) : (s.ask x).nvme = s.nvme := rfl
@[simp] theorem State.ask_spn (x : Ask) : (s.ask x).spn = s.spn := rfl
@[simp] theorem State.ask_nv (x : Ask) : (s.ask x).nv = s.nv := rfl
@[simp] theorem State.ask_tmp (x : Ask) : (s.ask x).tmp = s.tmp := rfl
@[simp] theorem State.ask_cal (x : Ask) : (s.ask x).cal = s.cal := rfl
@[simp] theorem State.ask_sec (x : Ask) : (s.ask x).sec = s.sec := rfl
@[simp] theorem State.ask_launches (x : Ask) : (s.ask x).launches = s.launches := rfl
@[simp] theorem State.ask_doms (x : Ask) : (s.ask x).doms = s.doms := rfl
@[simp] theorem State.ask_domOp (x : Ask) : (s.ask x).domOp = s.domOp := rfl
@[simp] theorem State.ask_start (x : Ask) : (s.ask x).start = s.start := rfl
@[simp] theorem State.ask_fuses (x : Ask) : (s.ask x).fuses = s.fuses := rfl
@[simp] theorem State.ask_straps (x : Ask) : (s.ask x).straps = s.straps := rfl
@[simp] theorem State.ask_evr (x : Ask) : (s.ask x).evr = s.evr := rfl
@[simp] theorem State.ask_dram (x : Ask) : (s.ask x).dram = s.dram := rfl
@[simp] theorem State.ask_fmt (x : Ask) : (s.ask x).fmt = s.fmt := rfl
@[simp] theorem State.ask_grants (x : Ask) : (s.ask x).grants = s.grants := rfl
@[simp] theorem State.ask_asks (x : Ask) : (s.ask x).asks = s.asks ++ [x] := rfl
@[simp] theorem State.wait_waiting (x : Waiting) : (s.wait x).waiting = s.waiting ++ [x] := rfl
@[simp] theorem State.reply_answer (c : Nat) (l : List Nat) : (s.reply c l).answer = { status := c, data := l } := rfl
@[simp] theorem State.drawn_fresh : s.drawn.fresh = s.fresh + 1 := rfl

end Sys2Proof.Machine
end

