-- ==== Sys2Proof/Laws/Access.lean ====
section
/-! SUPPORT. What a guarded access does: let through, it is its effect; answers change nothing that is read; a field reads
what was put into it, and no other field changes. -/

namespace Sys2Proof.Machine

open Sys2Proof

/-- A write that is let through whole is its effect on the answered state. -/
theorem guarded_admitted {s : State} {q : Req} {p : Page} {off : Nat} (h : Admits s q p off) (w : Word)
    (eff : State → State) : guarded s q p off w eff = eff (s.reply 0 []) := by
  have hg : writeGate (s.reply 0 []) q p off = .reached := h.1
  unfold guarded
  dsimp only
  rw [hg]
  dsimp only
  split
  · rename_i hk
    simp only [Bool.and_eq_true, Bool.not_eq_true'] at hk
    exact absurd (h.2 hk.1) (by rw [hk.2]; decide)
  · rfl

/-- A read that its page serves answers what the register reads. -/
theorem guardedRead_served {s : State} {q : Req} {p : Page} {off : Nat} (h : Serves s q p off)
    (rd : State → Nat × State) : guardedRead s q p off rd = (rd s).2.reply 0 [(rd s).1] := by
  unfold guardedRead
  have h3 : (q.cls.val = 3 && !seqMay q p) = false := by
    by_cases hc : q.cls.val = 3
    · simp [h.2.1 hc]
    · simp [hc]
  rw [h.1, h3, h.2.2]
  rfl

/-- A word that may execute executes. -/
theorem fetchRun_runs {s t : State} {u e op w : Nat} (h : Runs s u e op w t) (body : Nat → State → State) :
    fetchRun s u e op body = body w t := by
  obtain ⟨hw, ⟨r, hr, hs⟩, hl, ho, -, -⟩ := h
  unfold fetchRun
  rw [hw, hr]
  simp only [Bool.not_true, Bool.false_eq_true, if_false, hs]
  rw [hl, ho]
  simp only [Bool.not_true, Bool.false_eq_true, if_false, ne_eq, not_true_eq_false]

/-- A word that may execute leaves its result. -/
theorem runWord_runs {s t : State} {u e op w : Nat} (h : Runs s u e op w t) (body : Nat → State → State) :
    runWord s u e op body = wordResult (body w) t u w := by
  unfold runWord
  rw [fetchRun_runs h]
  rfl

/-- Every page begins at a multiple of 4 KiB (R7). -/
theorem pages_aligned : ∀ p ∈ pages, p.base = p.index * 0x1000 := by decide

/-- A page begins at or below the addresses it occupies. -/
theorem pageOf_base_le {a : Nat} {p : Page} (h : pageOf a = some p) : p.base ≤ a := by
  have h1 := List.find?_some h
  have h2 := pages_aligned p (List.mem_of_find?_eq_some h)
  simp only [decide_eq_true_eq] at h1
  rw [h2, h1]
  exact Nat.div_mul_le_self a 0x1000

/-- A field reads the value put into it, cut to its width. -/
theorem get_put_same (s : State) (F : Fld) (v i k : Nat) : (s.put F v i k).get F i k = v % 2 ^ F.wid := by
  show sget F.cold (sset F.cold s.flds (F.key i k) (v % 2 ^ F.wid)) (F.key i k) = _
  rw [sget_sset_same]

/-- A write of a field leaves every field that lies elsewhere. -/
theorem get_put_other (s : State) (F G : Fld) (v i k j l : Nat) (h : G.key j l ≠ F.key i k) :
    (s.put F v i k).get G j l = s.get G j l := by
  have other : ∀ (d e : Nat) (m : Sparse Nat) (a b x : Nat), b ≠ a → sget e (sset d m a x) b = sget e m b := by
    intro d e m a b x hb
    unfold sset
    split
    · exact sget_sdel_other hb
    · rw [sget_sins_other _ hb, sget_sdel_other hb]
  exact other F.cold G.cold s.flds (F.key i k) (G.key j l) (v % 2 ^ F.wid) h

@[simp] theorem get_reply (s : State) (c : Nat) (l : List Nat) (F : Fld) (i k : Nat) :
    (s.reply c l).get F i k = s.get F i k := Eq.trans rfl rfl
@[simp] theorem pageState_reply (s : State) (c : Nat) (l : List Nat) (p : Page) :
    pageState (s.reply c l) p = pageState s p := Eq.trans rfl rfl
@[simp] theorem domainLive_reply (s : State) (c : Nat) (l : List Nat) (d : Nat) :
    domainLive (s.reply c l) d = domainLive s d := Eq.trans rfl rfl
@[simp] theorem strokeAt_reply (s : State) (c : Nat) (l : List Nat) (d : Nat) :
    strokeAt (s.reply c l) d = strokeAt s d := Eq.trans rfl rfl

end Sys2Proof.Machine
end

