-- ==== Sys2Proof/Laws/Kept.lean ====
section
/-! SUPPORT. What is left of the fuses, the queue and the stores of data by choices, folds and record updates: the ground
for the frame laws of every family. -/

namespace Sys2Proof.Machine

open Sys2Proof

/-- The stores of data the block holds: buffer memory, the TCM, the lines of the L2, the media, the flash array and the
lines of the buffer manager. -/
def State.stores (s : State) : Dram × Tcm × L2 × Media × Nv × Buf := (s.dram, s.tcm, s.l2, s.media, s.nv, s.buf)

/-- What a command leaves: the fuses and the queue, and where `lv` says so the stores too. -/
def State.kept (s : State) (lv : Bool) : Fuses × List Instr × Option (Dram × Tcm × L2 × Media × Nv × Buf) :=
  (s.fuses, s.pending, if lv then some s.stores else none)

variable {lv : Bool}

/-- The value of `kept` from the parts of a state. -/
def keptOf (lv : Bool) (f : Fuses) (p : List Instr) (d : Dram) (t : Tcm) (l : L2) (m : Media) (n : Nv) (b : Buf) :
    Fuses × List Instr × Option (Dram × Tcm × L2 × Media × Nv × Buf) :=
  (f, p, if lv then some (d, t, l, m, n, b) else none)

theorem kept_fold0 (s : State) : ((s.fuses, s.pending, none) : Fuses × List Instr × Option (Dram × Tcm × L2 × Media × Nv × Buf)) =
    s.kept false := Eq.trans rfl rfl

theorem kept_fold (s : State) : keptOf lv s.fuses s.pending s.dram s.tcm s.l2 s.media s.nv s.buf = s.kept lv := Eq.trans rfl rfl
theorem kept_ite (c : Prop) [Decidable c] (s t : State) :
    (if c then s else t).kept lv = if c then s.kept lv else t.kept lv := by split <;> rfl
theorem kept_snd_ite {α : Type} (c : Prop) [Decidable c] (s t : α × State) :
    (if c then s else t).2.kept lv = if c then s.2.kept lv else t.2.kept lv := by split <;> rfl
theorem next_inj (s t : State) : (Host.Outcome.next s : Result) = .next t ↔ s = t := by simp
theorem foldl_kept {α : Type} (f : State → α → State) (h : ∀ s x, (f s x).kept lv = s.kept lv) (l : List α) (s : State) :
    (l.foldl f s).kept lv = s.kept lv := by
  induction l generalizing s with
  | nil => rfl
  | cons a l ih => rw [List.foldl_cons, ih, h]
theorem foldl_snd_kept {α β : Type} (f : β × State → α → β × State) (h : ∀ r x, (f r x).2.kept lv = r.2.kept lv) (l : List α)
    (r : β × State) : (l.foldl f r).2.kept lv = r.2.kept lv := by
  induction l generalizing r with
  | nil => rfl
  | cons a l ih => rw [List.foldl_cons, ih, h]

theorem foldl_proj {α β : Type} (g : β → State) (f : β → α → β) (h : ∀ r x, (g (f r x)).kept lv = (g r).kept lv) (l : List α)
    (r : β) : (g (l.foldl f r)).kept lv = (g r).kept lv := by
  induction l generalizing r with
  | nil => rfl
  | cons a l ih => rw [List.foldl_cons, ih, h]
theorem kept_of_eq {α : Type} {x : α × State} {a : α} {s : State} (h : x = (a, s)) : s.kept lv = x.2.kept lv := by rw [h]
theorem kept_of_eq3 {α β : Type} {x : α × β × State} {a : α} {b : β} {s : State} (h : x = (a, b, s)) :
    s.kept lv = x.2.2.kept lv := by rw [h]

theorem kept_mk x0 x1 x2 x3 x4 x5 x6 x7 x8 x9 x10 x11 x12 x13 x14 x15 x16 x17 x18 x19 x20 x21 x22 x23 x24 x25 x26 x27 x28 x29 x30 x31 x32 x33 x34 x35 x36 x37 x38 x39 x40 x41 x42 x43 x44 x45 x46 :
    (State.mk x0 x1 x2 x3 x4 x5 x6 x7 x8 x9 x10 x11 x12 x13 x14 x15 x16 x17 x18 x19 x20 x21 x22 x23 x24 x25 x26 x27 x28 x29 x30 x31 x32 x33 x34 x35 x36 x37 x38 x39 x40 x41 x42 x43 x44 x45 x46).kept lv = keptOf lv x41 x0 x44 x26 x27 x22 x33 x30 := Eq.trans rfl rfl
theorem kept_mk0 x0 x1 x2 x3 x4 x5 x6 x7 x8 x9 x10 x11 x12 x13 x14 x15 x16 x17 x18 x19 x20 x21 x22 x23 x24 x25 x26 x27 x28 x29 x30 x31 x32 x33 x34 x35 x36 x37 x38 x39 x40 x41 x42 x43 x44 x45 x46 :
    (State.mk x0 x1 x2 x3 x4 x5 x6 x7 x8 x9 x10 x11 x12 x13 x14 x15 x16 x17 x18 x19 x20 x21 x22 x23 x24 x25 x26 x27 x28 x29 x30 x31 x32 x33 x34 x35 x36 x37 x38 x39 x40 x41 x42 x43 x44 x45 x46).kept false = (x41, x0, none) := Eq.trans rfl rfl

end Sys2Proof.Machine
end

