-- ==== Sys2Proof/Laws/KeptOps.lean ====
section
/-! SUPPORT. Frame laws of Machine/Ops.lean: each operation and command there leaves the fuses and the queue
as they are, and the stores too where the law says so of every level. -/

namespace Sys2Proof.Machine

open Sys2Proof

set_option maxRecDepth 4000
set_option linter.all false

variable {lv : Bool}

theorem State.put_kept (s : State) (F : Fld) (v : Nat) (i : Nat) (k : Nat) :
    (State.put s F v i k).kept lv = s.kept lv := by
  unfold State.put
  repeat' first
    | with_reducible rfl | simp only [kept_fold, kept_mk] | dsimp only
theorem State.bump_kept (s : State) (F : Fld) (n : Nat) (i : Nat) (k : Nat) :
    (State.bump s F n i k).kept lv = s.kept lv := by
  unfold State.bump
  repeat' first
    | with_reducible rfl | simp only [State.put_kept] | dsimp only
theorem State.reply_kept (s : State) (status : Nat) (data : List Nat) :
    (State.reply s status data).kept lv = s.kept lv := by
  unfold State.reply
  repeat' first
    | with_reducible rfl | simp only [kept_fold, kept_mk] | dsimp only
theorem State.serveEach_kept (l : List Waiting) (f : State → Waiting → State) (s : State) (hf : ∀ (a0 : State) (a1 : Waiting), (f a0 a1).kept lv = a0.kept lv) :
    (State.serveEach l f s).kept lv = s.kept lv := by
  unfold State.serveEach
  repeat' first
    | with_reducible rfl
    | simp only [implies_true, kept_ite, kept_snd_ite, ite_self, foldl_kept, foldl_snd_kept, hf, State.reply_kept]
    | with_reducible refine (foldl_kept _ (fun _ _ => ?_) _ _).trans ?_
    | with_reducible refine (foldl_snd_kept _ (fun _ _ => ?_) _ _).trans ?_ | split | dsimp only
theorem State.serveEach_ho {l : List Waiting} {f : State → Waiting → State} {s : State} (hf : ∀ (a0 : State) (a1 : Waiting), (f a0 a1).kept lv = a0.kept lv) :
    (State.serveEach l f s).kept lv = s.kept lv := State.serveEach_kept l f s hf
theorem State.drawn_kept (s : State) :
    (State.drawn s).kept lv = s.kept lv := by
  unfold State.drawn
  repeat' first
    | with_reducible rfl | simp only [kept_fold, kept_mk] | dsimp only
theorem State.setLink_kept (s : State) (n : Nat) (v : Link) :
    (State.setLink s n v).kept lv = s.kept lv := by
  unfold State.setLink
  repeat' first
    | with_reducible rfl | simp only [kept_fold, kept_mk] | dsimp only
theorem State.setTimer_kept (s : State) (n : Nat) (v : Timer) :
    (State.setTimer s n v).kept lv = s.kept lv := by
  unfold State.setTimer
  repeat' first
    | with_reducible rfl | simp only [kept_fold, kept_mk] | dsimp only
theorem State.setDom_kept (s : State) (d : Nat) (v : Dom) :
    (State.setDom s d v).kept lv = s.kept lv := by
  unfold State.setDom
  repeat' first
    | with_reducible rfl | simp only [kept_fold, kept_mk] | dsimp only
theorem State.ask_kept (s : State) (x : Ask) :
    (State.ask s x).kept lv = s.kept lv := by
  unfold State.ask
  repeat' first
    | with_reducible rfl
    | simp only [id_eq, implies_true, kept_ite, kept_snd_ite, ite_self, kept_fold, kept_mk, foldl_kept, foldl_snd_kept]
    | split
    | dsimp only
theorem report_kept (s : State) (r : Rec) :
    (report s r).kept lv = s.kept lv := by
  unfold report
  repeat' first
    | with_reducible rfl | simp only [kept_fold, kept_mk] | dsimp only
theorem raise_kept (s : State) (p : Page) (b level : Nat) :
    (raise s p b level).kept lv = s.kept lv := by
  unfold raise
  repeat' first
    | with_reducible rfl | simp only [kept_ite, kept_snd_ite, ite_self, kept_fold, kept_mk, State.put_kept]
    | split | dsimp only
theorem raiseIf_kept (c : Bool) (s : State) (p : Page) (b level : Nat) :
    (raiseIf c s p b level).kept lv = s.kept lv := by
  unfold raiseIf
  repeat' first
    | with_reducible rfl | simp only [kept_ite, kept_snd_ite, ite_self, raise_kept] | split | dsimp only
theorem domainEdge_kept (before : Nat) (s : State) (d : Nat) :
    (domainEdge before s d).kept lv = s.kept lv := by
  unfold domainEdge
  repeat' first
    | with_reducible rfl | simp only [raiseIf_kept] | dsimp only
theorem setPageState_kept (s : State) (p : Page) (v : Nat) :
    (setPageState s p v).kept lv = s.kept lv := by
  unfold setPageState
  repeat' first
    | with_reducible rfl | simp only [State.put_kept, domainEdge_kept] | dsimp only
theorem pageOff_kept (s : State) (p : Page) :
    (pageOff s p).kept lv = s.kept lv := by
  unfold pageOff
  repeat' first
    | with_reducible rfl
    | simp only [id_eq, implies_true, kept_ite, kept_snd_ite, ite_self, kept_fold, kept_mk, foldl_kept, foldl_snd_kept, setPageState_kept]
    | split
    | dsimp only
theorem pageFault_kept (s : State) (p : Page) (b level : Nat) :
    (pageFault s p b level).kept lv = s.kept lv := by
  unfold pageFault
  repeat' first
    | with_reducible rfl | simp only [raise_kept, setPageState_kept] | dsimp only
theorem denied_kept (s : State) (q : Req) (p : Page) :
    (denied s q p).kept lv = s.kept lv := by
  unfold denied
  repeat' first
    | with_reducible rfl | simp only [State.put_kept, raise_kept] | dsimp only
theorem grantRefused_kept (s : State) (q : Req) (p : Page) (off : Nat) (w : Word) :
    (grantRefused s q p off w).kept lv = s.kept lv := by
  unfold grantRefused
  repeat' first
    | with_reducible rfl | simp only [State.bump_kept, denied_kept, report_kept] | dsimp only
theorem kpRefused_kept (s : State) (q : Req) (p : Page) (off : Nat) (w : Word) :
    (kpRefused s q p off w).kept lv = s.kept lv := by
  unfold kpRefused
  repeat' first
    | with_reducible rfl | simp only [State.bump_kept, denied_kept, report_kept] | dsimp only
theorem writeField_kept (q : Req) (w : Word) (s : State) (e : Fld × Nat × Nat) :
    (writeField q w s e).kept lv = s.kept lv := by
  unfold writeField
  repeat' first
    | with_reducible rfl | simp only [kept_ite, kept_snd_ite, ite_self, kept_fold, kept_mk, State.put_kept]
    | with_reducible refine (kept_of_eq ‹_›).trans ?_ | with_reducible refine (kept_of_eq3 ‹_›).trans ?_ | split
    | dsimp only
theorem plainWrite_kept (s : State) (q : Req) (p : Page) (off : Nat) (w : Word) :
    (plainWrite s q p off w).kept lv = s.kept lv := by
  unfold plainWrite
  repeat' first
    | with_reducible rfl | simp only [implies_true, foldl_kept, foldl_snd_kept, writeField_kept]
    | with_reducible refine (foldl_kept _ (fun _ _ => ?_) _ _).trans ?_
    | with_reducible refine (foldl_snd_kept _ (fun _ _ => ?_) _ _).trans ?_ | dsimp only
theorem State.wait_kept (s : State) (x : Waiting) :
    (State.wait s x).kept lv = s.kept lv := by
  unfold State.wait
  repeat' first
    | with_reducible rfl | simp only [kept_fold, kept_mk] | dsimp only
theorem guarded_kept (s : State) (q : Req) (p : Page) (off : Nat) (w : Word) (eff : State → State) (heff : ∀ (a0 : State), (eff a0).kept lv = a0.kept lv) :
    (guarded s q p off w eff).kept lv = s.kept lv := by
  unfold guarded
  repeat' first
    | with_reducible rfl
    | simp only [kept_ite, kept_snd_ite, ite_self, kept_fold, kept_mk, heff, State.reply_kept, State.wait_kept, denied_kept, grantRefused_kept, kpRefused_kept]
    | with_reducible refine (kept_of_eq ‹_›).trans ?_ | with_reducible refine (kept_of_eq3 ‹_›).trans ?_ | split
    | dsimp only
theorem guarded_ho {s : State} {q : Req} {p : Page} {off : Nat} {w : Word} {eff : State → State} (heff : ∀ (a0 : State), (eff a0).kept lv = a0.kept lv) :
    (guarded s q p off w eff).kept lv = s.kept lv := guarded_kept s q p off w eff heff
theorem railFollows_kept (s : State) :
    (railFollows s).kept lv = s.kept lv := by
  unfold railFollows
  repeat' first
    | with_reducible rfl
    | simp only [id_eq, implies_true, kept_ite, kept_snd_ite, ite_self, kept_fold, kept_mk, foldl_kept, foldl_snd_kept, State.put_kept]
    | split
    | dsimp only
theorem latchWords_kept (s : State) (q : Req) (a : Nat) (l : List Nat) : (latchWords s q a l).kept lv = s.kept lv := by
  induction l generalizing s a with
  | nil => rfl
  | cons w l ih => simp only [latchWords, ih]; rfl
end Sys2Proof.Machine
end

