-- ==== Sys2Proof/Laws/KeptMemory.lean ====
section
/-! SUPPORT. Frame laws of Machine/Memory.lean: each operation and command there leaves the fuses and the queue
as they are, and the stores too where the law says so of every level. -/

namespace Sys2Proof.Machine

open Sys2Proof

set_option maxRecDepth 4000
set_option linter.all false

variable {lv : Bool}

theorem State.setDram_kept (s : State) (d : Dram) :
    (State.setDram s d).kept false = s.kept false := by
  unfold State.setDram
  repeat' first
    | with_reducible rfl | simp only [kept_fold0, kept_mk0] | dsimp only
theorem putGranule_kept (s : State) (g : Nat) (bytes : List Nat) (poison : Bool) (err : Nat) :
    (putGranule s g bytes poison err).kept false = s.kept false := by
  unfold putGranule
  repeat' first
    | with_reducible rfl
    | simp only [kept_ite, kept_snd_ite, ite_self, kept_fold0, kept_mk0, State.setDram_kept] | split
    | dsimp only
theorem storeGranule_kept (s : State) (g : Nat) (bytes : List Nat) (poison : Bool) :
    (storeGranule s g bytes poison).kept false = s.kept false := by
  unfold storeGranule
  repeat' first
    | with_reducible rfl
    | simp only [kept_ite, kept_snd_ite, ite_self, State.put_kept, putGranule_kept, raise_kept] | split
    | dsimp only
theorem correctedError_kept (s : State) (g : Nat) :
    (correctedError s g).kept lv = s.kept lv := by
  unfold correctedError
  repeat' first
    | with_reducible rfl
    | simp only [kept_ite, kept_snd_ite, ite_self, State.bump_kept, State.put_kept, raise_kept] | split
    | dsimp only
theorem uncorrectable_kept (s : State) (g : Nat) (raw : List Nat) :
    (uncorrectable s g raw).kept false = s.kept false := by
  unfold uncorrectable
  repeat' first
    | with_reducible rfl | simp only [State.bump_kept, State.put_kept, putGranule_kept, raise_kept] | dsimp only
theorem readGranule_kept (s : State) (g : Nat) :
    (readGranule s g).2.kept false = s.kept false := by
  unfold readGranule
  repeat' first
    | with_reducible rfl
    | simp only [kept_ite, kept_snd_ite, ite_self, State.drawn_kept, correctedError_kept, uncorrectable_kept]
    | split | dsimp only
theorem flushEntry_kept (s : State) (m : Merge) :
    (flushEntry s m).kept false = s.kept false := by
  unfold flushEntry
  repeat' first
    | with_reducible rfl
    | simp only [id_eq, kept_ite, kept_snd_ite, ite_self, kept_fold0, kept_mk0, State.bump_kept, State.setDram_kept, raise_kept, readGranule_kept, storeGranule_kept]
    | split | dsimp only
theorem flushMerge_kept (s : State) :
    (flushMerge s).kept false = s.kept false := by
  unfold flushMerge
  repeat' first
    | with_reducible rfl | simp only [implies_true, foldl_kept, foldl_snd_kept, flushEntry_kept]
    | with_reducible refine (foldl_kept _ (fun _ _ => ?_) _ _).trans ?_
    | with_reducible refine (foldl_snd_kept _ (fun _ _ => ?_) _ _).trans ?_ | dsimp only
theorem flushGranule_kept (s : State) (g : Nat) :
    (flushGranule s g).kept false = s.kept false := by
  unfold flushGranule
  repeat' first
    | with_reducible rfl | simp only [kept_fold0, kept_mk0, flushEntry_kept]
    | with_reducible refine (kept_of_eq ‹_›).trans ?_ | with_reducible refine (kept_of_eq3 ‹_›).trans ?_ | split
    | dsimp only
theorem mergeWrite_kept (s : State) (g : Nat) (bytes : List Nat) (mask : List Bool) (poison : Bool) :
    (mergeWrite s g bytes mask poison).kept false = s.kept false := by
  unfold mergeWrite
  repeat' first
    | with_reducible rfl
    | simp only [id_eq, kept_ite, kept_snd_ite, ite_self, kept_fold0, kept_mk0, State.setDram_kept, flushEntry_kept]
    | with_reducible refine (kept_of_eq ‹_›).trans ?_ | with_reducible refine (kept_of_eq3 ‹_›).trans ?_ | split
    | dsimp only
theorem wholeWrite_kept (s : State) (g : Nat) (bytes : List Nat) (poison : Bool) :
    (wholeWrite s g bytes poison).kept false = s.kept false := by
  unfold wholeWrite
  repeat' first
    | with_reducible rfl | simp only [kept_fold0, kept_mk0, State.setDram_kept, storeGranule_kept] | dsimp only
theorem writeInGranule_kept (a : Nat) (bytes : List Nat) (poison : Bool) (s : State) (g : Nat) :
    (writeInGranule a bytes poison s g).kept false = s.kept false := by
  unfold writeInGranule
  repeat' first
    | with_reducible rfl | simp only [id_eq, kept_ite, kept_snd_ite, ite_self, mergeWrite_kept, wholeWrite_kept]
    | split | dsimp only
theorem memWrite_kept (s : State) (a : Nat) (bytes : List Nat) (poison : Bool) :
    (memWrite s a bytes poison).kept false = s.kept false := by
  unfold memWrite
  repeat' first
    | with_reducible rfl | simp only [implies_true, foldl_kept, foldl_snd_kept, writeInGranule_kept]
    | with_reducible refine (foldl_kept _ (fun _ _ => ?_) _ _).trans ?_
    | with_reducible refine (foldl_snd_kept _ (fun _ _ => ?_) _ _).trans ?_ | dsimp only
theorem readGranules_kept (s : State) (l : List Nat) : (readGranules s l).2.2.kept false = s.kept false := by
  induction l generalizing s with
  | nil => rfl
  | cons g l ih => simp only [readGranules, ih, readGranule_kept, flushGranule_kept]
theorem consumePoison_kept (s : State) (c : Consumer) (g : Nat) :
    (consumePoison s c g).kept false = s.kept false := by
  unfold consumePoison
  repeat' first
    | with_reducible rfl | simp only [kept_fold0, kept_mk0, State.bump_kept, State.put_kept, raise_kept]
    | with_reducible refine (kept_of_eq ‹_›).trans ?_ | with_reducible refine (kept_of_eq3 ‹_›).trans ?_ | split
    | dsimp only
theorem memRead_kept (s : State) (c : Consumer) (a n : Nat) :
    (memRead s c a n).2.kept false = s.kept false := by
  unfold memRead
  repeat' first
    | with_reducible rfl | simp only [kept_fold0, kept_mk0, consumePoison_kept, readGranules_kept]
    | with_reducible refine (kept_of_eq ‹_›).trans ?_ | with_reducible refine (kept_of_eq3 ‹_›).trans ?_ | split
    | dsimp only
end Sys2Proof.Machine
end

