-- ==== Sys2Proof/Laws/KeptFormat.lean ====
section
/-! SUPPORT. Frame laws of Machine/Format.lean: each operation and command there leaves the fuses and the queue
as they are, and the stores too where the law says so of every level. -/

namespace Sys2Proof.Machine

open Sys2Proof

set_option maxRecDepth 4000
set_option linter.all false

variable {lv : Bool}

theorem readEntry_kept (s : State) (zone : Nat) :
    (readEntry s zone).2.kept false = s.kept false := by
  unfold readEntry
  repeat' first
    | with_reducible rfl | simp only [memRead_kept] | dsimp only
theorem rewriteEntry_kept (s : State) (zone off : Nat) (new : List Nat) :
    (rewriteEntry s zone off new).kept false = s.kept false := by
  unfold rewriteEntry
  repeat' first
    | with_reducible rfl | simp only [memWrite_kept, readEntry_kept] | dsimp only
theorem fmtFail_kept (s : State) (st : FmtStatus) (zone : Nat) :
    (fmtFail s st zone).kept lv = s.kept lv := by
  unfold fmtFail
  repeat' first
    | with_reducible rfl | simp only [kept_fold, kept_mk, State.bump_kept, State.put_kept, raise_kept]
    | with_reducible refine (kept_of_eq ‹_›).trans ?_ | with_reducible refine (kept_of_eq3 ‹_›).trans ?_ | split
    | dsimp only
theorem readBand_kept (s : State) (head band : Nat) :
    (readBand s head band).2.kept false = s.kept false := by
  unfold readBand
  repeat' first
    | with_reducible rfl | simp only [memRead_kept] | dsimp only
theorem readSkips_kept (s : State) (e : BandEntry) :
    (readSkips s e).2.kept false = s.kept false := by
  unfold readSkips
  repeat' first
    | with_reducible rfl | simp only [memRead_kept] | dsimp only
theorem readRemaps_kept (s : State) (e : BandEntry) :
    (readRemaps s e).2.kept false = s.kept false := by
  unfold readRemaps
  repeat' first
    | with_reducible rfl | simp only [memRead_kept] | dsimp only
theorem warnSlack_kept (s : State) (head band count slack : Nat) :
    (warnSlack s head band count slack).kept lv = s.kept lv := by
  unfold warnSlack
  repeat' first
    | with_reducible rfl | simp only [kept_ite, kept_snd_ite, ite_self, kept_fold, kept_mk, raise_kept] | split
    | dsimp only
theorem translateBand_kept (s : State) (zone strand head band n : Nat) (conv : Bool) :
    (translateBand s zone strand head band n conv).2.kept false = s.kept false := by
  unfold translateBand
  repeat' first
    | with_reducible rfl
    | simp only [kept_ite, kept_snd_ite, ite_self, kept_fold0, kept_mk0, fmtFail_kept, readBand_kept, readRemaps_kept, readSkips_kept, warnSlack_kept]
    | with_reducible refine (kept_of_eq ‹_›).trans ?_ | with_reducible refine (kept_of_eq3 ‹_›).trans ?_ | split
    | dsimp only
theorem translate_kept (s : State) (zone off : Nat) :
    (translate s zone off).2.kept false = s.kept false := by
  unfold translate
  repeat' first
    | with_reducible rfl
    | simp only [kept_ite, kept_snd_ite, ite_self, kept_fold0, kept_mk0, fmtFail_kept, readEntry_kept, translateBand_kept]
    | with_reducible refine (kept_of_eq ‹_›).trans ?_ | with_reducible refine (kept_of_eq3 ‹_›).trans ?_ | split
    | dsimp only
theorem execFmtTranslate_kept (zone : Nat) (off : BitVec 32) (s : State) :
    ∀ t, execFmtTranslate zone off s = .next t → t.kept false = s.kept false := by
  intro t h
  unfold execFmtTranslate at h
  injection h with h
  subst h
  repeat' first
    | with_reducible rfl | simp only [kept_ite, kept_snd_ite, ite_self, State.reply_kept, translate_kept]
    | split | dsimp only
theorem appendSkip_kept (s : State) (head band slot : Nat) (e : BandEntry) (b : RateBand) :
    (appendSkip s head band slot e b).kept false = s.kept false := by
  unfold appendSkip
  repeat' first
    | with_reducible rfl
    | simp only [kept_ite, kept_snd_ite, ite_self, kept_fold0, kept_mk0, State.reply_kept, fmtFail_kept, memWrite_kept, readSkips_kept, warnSlack_kept]
    | split | dsimp only
theorem appendRemap_kept (s : State) (head band slot : Nat) (e : BandEntry) (b : RateBand) :
    (appendRemap s head band slot e b).kept false = s.kept false := by
  unfold appendRemap
  repeat' first
    | with_reducible rfl
    | simp only [kept_fold0, kept_mk0, State.reply_kept, fmtFail_kept, memWrite_kept, readRemaps_kept, warnSlack_kept]
    | with_reducible refine (kept_of_eq ‹_›).trans ?_ | with_reducible refine (kept_of_eq3 ‹_›).trans ?_ | split
    | dsimp only
theorem execSkipListAppend_kept (head : Fin 32) (band slot : Nat) (s : State) :
    ∀ t, execSkipListAppend head band slot s = .next t → t.kept false = s.kept false := by
  intro t h
  unfold execSkipListAppend at h
  injection h with h
  subst h
  repeat' first
    | with_reducible rfl
    | simp only [kept_ite, kept_snd_ite, ite_self, State.reply_kept, appendRemap_kept, appendSkip_kept, fmtFail_kept, readBand_kept]
    | split | dsimp only
theorem writeMwp_kept (s : State) (zone mwp : Nat) :
    (writeMwp s zone mwp).kept false = s.kept false := by
  unfold writeMwp
  repeat' first
    | with_reducible rfl | simp only [rewriteEntry_kept] | dsimp only
theorem updateMwp_kept (s : State) (zone mwp : Nat) :
    (updateMwp s zone mwp).kept false = s.kept false := by
  unfold updateMwp
  repeat' first
    | with_reducible rfl | simp only [kept_ite, kept_snd_ite, ite_self, kept_fold0, kept_mk0, writeMwp_kept]
    | split | dsimp only
theorem execMwpUpdate_kept (zone : Nat) (mwp : BitVec 32) (s : State) :
    ∀ t, execMwpUpdate zone mwp s = .next t → t.kept false = s.kept false := by
  intro t h
  unfold execMwpUpdate at h
  injection h with h
  subst h
  repeat' first
    | with_reducible rfl | simp only [State.reply_kept, updateMwp_kept] | dsimp only
theorem applyDeferred_kept (s : State) :
    (applyDeferred s).kept false = s.kept false := by
  unfold applyDeferred
  repeat' first
    | with_reducible rfl
    | simp only [implies_true, kept_fold0, kept_mk0, foldl_kept, foldl_snd_kept, writeMwp_kept]
    | with_reducible refine (foldl_kept _ (fun _ _ => ?_) _ _).trans ?_
    | with_reducible refine (foldl_snd_kept _ (fun _ _ => ?_) _ _).trans ?_ | dsimp only
theorem entryLockWrite_kept (q : Req) (w : Word) (s : State) :
    (entryLockWrite q w s).kept false = s.kept false := by
  unfold entryLockWrite
  repeat' first
    | with_reducible rfl | simp only [kept_ite, kept_snd_ite, ite_self, applyDeferred_kept, plainWrite_kept]
    | split | dsimp only
theorem execEntryLockAcquire_kept (q : Req) (w : BitVec 32) (s : State) :
    ∀ t, execEntryLockAcquire q w s = .next t → t.kept false = s.kept false := by
  intro t h
  unfold execEntryLockAcquire at h
  injection h with h
  subst h
  repeat' first
    | with_reducible rfl | simp only [implies_true, entryLockWrite_kept, guarded_kept]
    | with_reducible refine (guarded_ho (fun _ => ?_)).trans ?_ | dsimp only
theorem execEntryLockRelease_kept (q : Req) (w : BitVec 32) (s : State) :
    ∀ t, execEntryLockRelease q w s = .next t → t.kept false = s.kept false := by
  intro t h
  unfold execEntryLockRelease at h
  injection h with h
  subst h
  repeat' first
    | with_reducible rfl | simp only [implies_true, entryLockWrite_kept, guarded_kept]
    | with_reducible refine (guarded_ho (fun _ => ?_)).trans ?_ | dsimp only
theorem fmtCtlWrite_kept (q : Req) (w : Word) (s : State) :
    (fmtCtlWrite q w s).kept lv = s.kept lv := by
  unfold fmtCtlWrite
  repeat' first
    | with_reducible rfl | simp only [kept_ite, kept_snd_ite, ite_self, State.put_kept, plainWrite_kept] | split
    | dsimp only
theorem execMapScanStart_kept (q : Req) (w : BitVec 32) (s : State) :
    ∀ t, execMapScanStart q w s = .next t → t.kept lv = s.kept lv := by
  intro t h
  unfold execMapScanStart at h
  injection h with h
  subst h
  repeat' first
    | with_reducible rfl | simp only [implies_true, fmtCtlWrite_kept, guarded_kept]
    | with_reducible refine (guarded_ho (fun _ => ?_)).trans ?_ | dsimp only
theorem scanEntry_kept (l : List Nat) (a : Nat × State) (z : Nat) : (scanEntry l a z).2.kept false = a.2.kept false := by
  unfold scanEntry; repeat' first
            | with_reducible rfl | simp only [kept_ite, kept_snd_ite, ite_self, readEntry_kept] | split | dsimp only
theorem mapScan_kept (racing : List Nat) (s : State) :
    (mapScan racing s).2.kept false = s.kept false := by
  unfold mapScan
  repeat' first
    | with_reducible rfl | simp only [implies_true, foldl_kept, foldl_snd_kept, scanEntry_kept]
    | with_reducible refine (foldl_kept _ (fun _ _ => ?_) _ _).trans ?_
    | with_reducible refine (foldl_snd_kept _ (fun _ _ => ?_) _ _).trans ?_ | dsimp only
theorem execMapScanComplete_kept (racing : List Nat) (s : State) :
    ∀ t, execMapScanComplete racing s = .next t → t.kept false = s.kept false := by
  intro t h
  unfold execMapScanComplete at h
  injection h with h
  subst h
  repeat' first
    | with_reducible rfl | simp only [kept_ite, kept_snd_ite, ite_self, State.put_kept, mapScan_kept] | split
    | dsimp only
theorem xlatReqWrite_kept (q : Req) (w : Word) (s : State) :
    (xlatReqWrite q w s).kept false = s.kept false := by
  unfold xlatReqWrite
  repeat' first
    | with_reducible rfl
    | simp only [kept_ite, kept_snd_ite, ite_self, State.put_kept, plainWrite_kept, translate_kept] | split
    | dsimp only
theorem execXlatTest_kept (q : Req) (w : BitVec 32) (s : State) :
    ∀ t, execXlatTest q w s = .next t → t.kept false = s.kept false := by
  intro t h
  unfold execXlatTest at h
  injection h with h
  subst h
  repeat' first
    | with_reducible rfl | simp only [implies_true, guarded_kept, xlatReqWrite_kept]
    | with_reducible refine (guarded_ho (fun _ => ?_)).trans ?_ | dsimp only
theorem fmtWrite_kept (q : Req) (off : Nat) (w : Word) (s : State) :
    (fmtWrite q off w s).kept false = s.kept false := by
  unfold fmtWrite
  repeat' first
    | with_reducible rfl
    | simp only [kept_ite, kept_snd_ite, ite_self, entryLockWrite_kept, fmtCtlWrite_kept, plainWrite_kept, xlatReqWrite_kept]
    | split | dsimp only
end Sys2Proof.Machine
end

