-- ==== Sys2Proof/Laws/KeptLdpc.lean ====
section
/-! SUPPORT. Frame laws of Machine/Ldpc.lean: each operation and command there leaves the fuses and the queue
as they are, and the stores too where the law says so of every level. -/

namespace Sys2Proof.Machine

open Sys2Proof

set_option maxRecDepth 4000
set_option linter.all false

variable {lv : Bool}

theorem writeBits_kept (s : State) (psa v : Nat) :
    (writeBits s psa v).kept false = s.kept false := by
  unfold writeBits
  repeat' first
    | with_reducible rfl
    | simp only [id_eq, implies_true, kept_ite, kept_snd_ite, ite_self, kept_fold0, kept_mk0, foldl_kept, foldl_snd_kept]
    | split
    | dsimp only
theorem eraseBits_kept (s : State) (psa : Nat) :
    (eraseBits s psa).kept false = s.kept false := by
  unfold eraseBits
  repeat' first
    | with_reducible rfl
    | simp only [id_eq, implies_true, kept_ite, kept_snd_ite, ite_self, kept_fold0, kept_mk0, foldl_kept, foldl_snd_kept]
    | split
    | dsimp only
end Sys2Proof.Machine
end

