-- ==== Sys2Proof/Laws/KeptFrontEnd.lean ====
section
/-! SUPPORT. Frame laws of Machine/FrontEnd.lean: each operation and command there leaves the fuses and the queue
as they are, and the stores too where the law says so of every level. -/

namespace Sys2Proof.Machine

open Sys2Proof

set_option maxRecDepth 4000
set_option linter.all false

variable {lv : Bool}

theorem State.setLane_kept (s : State) (n : Nat) (v : Lane) :
    (State.setLane s n v).kept lv = s.kept lv := by
  unfold State.setLane
  repeat' first
    | with_reducible rfl | simp only [kept_fold, kept_mk] | dsimp only
theorem countFrame_kept (s : State) (n idx : Nat) (k : FrameCount) :
    (countFrame s n idx k).kept lv = s.kept lv := by
  unfold countFrame
  repeat' first
    | with_reducible rfl
    | simp only [id_eq, implies_true, kept_ite, kept_snd_ite, ite_self, kept_fold, kept_mk, foldl_kept, foldl_snd_kept, State.bump_kept, foldl_kept, raiseIf_kept, raise_kept]
    | with_reducible refine (foldl_kept _ (fun _ _ => ?_) _ _).trans ?_
    | with_reducible refine (foldl_snd_kept _ (fun _ _ => ?_) _ _).trans ?_
    | split
    | dsimp only
theorem showLoops_kept (s : State) (n : Nat) (f : Frame) :
    (showLoops s n f).kept lv = s.kept lv := by
  unfold showLoops
  repeat' first
    | with_reducible rfl
    | simp only [id_eq, implies_true, kept_ite, kept_snd_ite, ite_self, kept_fold, kept_mk, foldl_kept, foldl_snd_kept, State.put_kept]
    | split
    | dsimp only
theorem lastAmended_kept (s : State) (n : Nat) (l : Lane) :
    (lastAmended s n l).kept lv = s.kept lv := by
  unfold lastAmended
  repeat' first
    | with_reducible rfl
    | simp only [id_eq, implies_true, kept_ite, kept_snd_ite, ite_self, kept_fold, kept_mk, foldl_kept, foldl_snd_kept, State.put_kept]
    | with_reducible refine (kept_of_eq ‹_›).trans ?_
    | with_reducible refine (kept_of_eq3 ‹_›).trans ?_
    | split
    | dsimp only
theorem readFrame_kept (s : State) (n : Nat) (f : FrameIn) :
    (readFrame s n f).kept lv = s.kept lv := by
  unfold readFrame
  repeat' first
    | with_reducible rfl
    | simp only [id_eq, implies_true, kept_ite, kept_snd_ite, ite_self, kept_fold, kept_mk, foldl_kept, foldl_snd_kept, State.put_kept, State.reply_kept, State.setLane_kept, countFrame_kept, lastAmended_kept, showLoops_kept]
    | split
    | dsimp only
theorem serveHead_kept (s : State) (n h : Nat) :
    (serveHead s n h).kept lv = s.kept lv := by
  unfold serveHead
  repeat' first
    | with_reducible rfl
    | simp only [id_eq, implies_true, kept_ite, kept_snd_ite, ite_self, kept_fold, kept_mk, foldl_kept, foldl_snd_kept, State.put_kept, State.setLane_kept]
    | split
    | dsimp only
theorem takeLaunch_some {s : State} {k : LaunchKind} {i d : Nat} {a : Launch} {t : State} (h : takeLaunch s k i d = some (a, t)) : t.kept lv = s.kept lv := by
  unfold takeLaunch at h
  (try dsimp only at h)
  repeat' (first | contradiction | (simp only [Option.map_eq_some_iff] at h; obtain ⟨_, _, h⟩ := h) | split at h)
  all_goals (try cases h)
  all_goals (repeat' first
            | with_reducible rfl | simp only [kept_fold, kept_mk] | with_reducible refine (kept_of_eq ‹_›).trans ?_
            | with_reducible refine (kept_of_eq3 ‹_›).trans ?_ | split | dsimp only)
theorem sbufCmdWrite_kept (n : Nat) (w : Word) (s : State) :
    (sbufCmdWrite n w s).kept lv = s.kept lv := by
  unfold sbufCmdWrite
  repeat' first
    | with_reducible rfl | simp only [kept_ite, kept_snd_ite, ite_self, State.put_kept, State.setLane_kept]
    | split | dsimp only
theorem execSbufPin_kept (q : Req) (lane : Fin 8) (w : BitVec 32) (s : State) :
    ∀ t, execSbufPin q lane w s = .next t → t.kept lv = s.kept lv := by
  intro t h
  unfold execSbufPin at h
  injection h with h
  subst h
  repeat' first
    | with_reducible rfl | simp only [implies_true, guarded_kept, sbufCmdWrite_kept]
    | with_reducible refine (guarded_ho (fun _ => ?_)).trans ?_ | dsimp only
theorem execSbufUnpin_kept (q : Req) (lane : Fin 8) (w : BitVec 32) (s : State) :
    ∀ t, execSbufUnpin q lane w s = .next t → t.kept lv = s.kept lv := by
  intro t h
  unfold execSbufUnpin at h
  injection h with h
  subst h
  repeat' first
    | with_reducible rfl | simp only [implies_true, guarded_kept, sbufCmdWrite_kept]
    | with_reducible refine (guarded_ho (fun _ => ?_)).trans ?_ | dsimp only
theorem execSbufUnpinAll_kept (q : Req) (lane : Fin 8) (w : BitVec 32) (s : State) :
    ∀ t, execSbufUnpinAll q lane w s = .next t → t.kept lv = s.kept lv := by
  intro t h
  unfold execSbufUnpinAll at h
  injection h with h
  subst h
  repeat' first
    | with_reducible rfl | simp only [implies_true, guarded_kept, sbufCmdWrite_kept]
    | with_reducible refine (guarded_ho (fun _ => ?_)).trans ?_ | dsimp only
theorem unknownEntry_kept (s : State) (n e : Nat) :
    (unknownEntry s n e).kept lv = s.kept lv := by
  unfold unknownEntry
  repeat' first
    | with_reducible rfl
    | simp only [id_eq, implies_true, kept_ite, kept_snd_ite, ite_self, kept_fold, kept_mk, foldl_kept, foldl_snd_kept, State.setLane_kept]
    | split
    | dsimp only
theorem sbufDataRead_kept (n : Nat) (s : State) :
    (sbufDataRead n s).2.kept lv = s.kept lv := by
  unfold sbufDataRead
  repeat' first
    | with_reducible rfl
    | simp only [id_eq, implies_true, kept_ite, kept_snd_ite, ite_self, kept_fold, kept_mk, foldl_kept, foldl_snd_kept, State.drawn_kept, State.put_kept, State.setLane_kept]
    | split
    | dsimp only
theorem guardedRead_kept (s : State) (q : Req) (p : Page) (off : Nat) (rd : State → Nat × State) (hrd : ∀ (a0 : State), (rd a0).2.kept lv = a0.kept lv) :
    (guardedRead s q p off rd).kept lv = s.kept lv := by
  unfold guardedRead
  repeat' first
    | with_reducible rfl
    | simp only [kept_ite, kept_snd_ite, ite_self, kept_fold, kept_mk, hrd, State.reply_kept, State.wait_kept]
    | with_reducible refine (kept_of_eq ‹_›).trans ?_ | with_reducible refine (kept_of_eq3 ‹_›).trans ?_ | split
    | dsimp only
theorem guardedRead_ho {s : State} {q : Req} {p : Page} {off : Nat} {rd : State → Nat × State} (hrd : ∀ (a0 : State), (rd a0).2.kept lv = a0.kept lv) :
    (guardedRead s q p off rd).kept lv = s.kept lv := guardedRead_kept s q p off rd hrd
theorem execSbufDataRead_kept (q : Req) (lane : Fin 8) (s : State) :
    ∀ t, execSbufDataRead q lane s = .next t → t.kept lv = s.kept lv := by
  intro t h
  unfold execSbufDataRead at h
  injection h with h
  subst h
  repeat' first
    | with_reducible rfl | simp only [implies_true, guardedRead_kept, sbufDataRead_kept]
    | with_reducible refine (guardedRead_ho (fun _ => ?_)).trans ?_ | dsimp only
theorem laneWrite_kept (q : Req) (n off : Nat) (w : Word) (s : State) :
    (laneWrite q n off w s).kept lv = s.kept lv := by
  unfold laneWrite
  repeat' first
    | with_reducible rfl
    | simp only [id_eq, implies_true, kept_ite, kept_snd_ite, ite_self, kept_fold, kept_mk, foldl_kept, foldl_snd_kept, State.setLane_kept, plainWrite_kept, sbufCmdWrite_kept]
    | split
    | dsimp only
end Sys2Proof.Machine
end

