-- ==== Sys2Proof/Laws/KeptDetector.lean ====
section
/-! SUPPORT. Frame laws of Machine/Detector.lean: each operation and command there leaves the fuses and the queue
as they are, and the stores too where the law says so of every level. -/

namespace Sys2Proof.Machine

open Sys2Proof

set_option maxRecDepth 4000
set_option linter.all false

variable {lv : Bool}

theorem State.setLdp_kept (s : State) (d : Nat) (v : Ldp) :
    (State.setLdp s d v).kept lv = s.kept lv := by
  unfold State.setLdp
  repeat' first
    | with_reducible rfl
    | simp only [id_eq, implies_true, kept_ite, kept_snd_ite, ite_self, kept_fold, kept_mk, foldl_kept, foldl_snd_kept]
    | split
    | dsimp only
theorem execFrameRead_kept (lane : Fin 8) (f : FrameIn) (s : State) :
    ∀ t, execFrameRead lane f s = .next t → t.kept lv = s.kept lv := by
  intro t h
  unfold execFrameRead at h
  injection h with h
  subst h
  repeat' first
    | with_reducible rfl
    | simp only [id_eq, implies_true, kept_ite, kept_snd_ite, ite_self, kept_fold, kept_mk, foldl_kept, foldl_snd_kept, State.setLane_kept, readFrame_kept]
    | split
    | dsimp only
end Sys2Proof.Machine
end

