-- ==== Sys2Proof/Laws/KeptDetection.lean ====
section
/-! SUPPORT. Frame laws of Machine/Detection.lean: each operation and command there leaves the fuses and the queue
as they are, and the stores too where the law says so of every level. -/

namespace Sys2Proof.Machine

open Sys2Proof

set_option maxRecDepth 4000
set_option linter.all false

variable {lv : Bool}

theorem sendReport_kept (s : State) (d : Nat) (c : Codeword) (status : Nat) (cw : Option Nat) :
    (sendReport s d c status cw).kept lv = s.kept lv := by
  unfold sendReport
  repeat' first
    | with_reducible rfl
    | simp only [id_eq, implies_true, kept_ite, kept_snd_ite, ite_self, kept_fold, kept_mk, foldl_kept, foldl_snd_kept, State.drawn_kept, State.setLdp_kept]
    | split
    | dsimp only
theorem sendResult_kept (s : State) (d : Nat) (c : Codeword) (status raw : Nat) (pinned : Bool) (cw : Option Nat := none) :
    (sendResult s d c status raw pinned cw).kept lv = s.kept lv := by
  unfold sendResult
  repeat' first
    | with_reducible rfl
    | simp only [id_eq, implies_true, kept_ite, kept_snd_ite, ite_self, kept_fold, kept_mk, foldl_kept, foldl_snd_kept, State.put_kept, State.setLdp_kept, foldl_kept, sendReport_kept]
    | with_reducible refine (foldl_kept _ (fun _ _ => ?_) _ _).trans ?_
    | with_reducible refine (foldl_snd_kept _ (fun _ _ => ?_) _ _).trans ?_
    | with_reducible refine (kept_of_eq ‹_›).trans ?_
    | with_reducible refine (kept_of_eq3 ‹_›).trans ?_
    | split
    | dsimp only
theorem dropStale_kept (s : State) (d : Nat) :
    (dropStale s d).kept lv = s.kept lv := by
  unfold dropStale
  repeat' first
    | with_reducible rfl
    | simp only [id_eq, implies_true, kept_ite, kept_snd_ite, ite_self, kept_fold, kept_mk, foldl_kept, foldl_snd_kept, State.bump_kept, State.setLdp_kept, raise_kept]
    | with_reducible refine (foldl_kept _ (fun _ _ => ?_) _ _).trans ?_
    | with_reducible refine (foldl_snd_kept _ (fun _ _ => ?_) _ _).trans ?_
    | split
    | dsimp only
theorem ldpPin_kept (s : State) (n e gen : Nat) :
    (ldpPin s n e gen).2.kept lv = s.kept lv := by
  unfold ldpPin
  repeat' first
    | with_reducible rfl | simp only [kept_ite, kept_snd_ite, ite_self, kept_fold, kept_mk, State.setLane_kept]
    | split | dsimp only
theorem ldpUnpin_kept (s : State) (n e : Nat) :
    (ldpUnpin s n e).kept lv = s.kept lv := by
  unfold ldpUnpin
  repeat' first
    | with_reducible rfl | simp only [kept_fold, kept_mk, State.setLane_kept, ldpPin_kept] | dsimp only
theorem endSector_kept (s : State) (d : Nat) (c : Codeword) (status raw : Nat) (cw : Option Nat := none) :
    (endSector s d c status raw cw).kept lv = s.kept lv := by
  unfold endSector
  repeat' first
    | with_reducible rfl
    | simp only [id_eq, implies_true, kept_ite, kept_snd_ite, ite_self, kept_fold, kept_mk, foldl_kept, foldl_snd_kept, foldl_kept, ldpUnpin_kept, sendResult_kept]
    | with_reducible refine (foldl_kept _ (fun _ _ => ?_) _ _).trans ?_
    | with_reducible refine (foldl_snd_kept _ (fun _ _ => ?_) _ _).trans ?_
    | split
    | dsimp only
theorem dispatchDet_kept (s : State) (d f : Nat) : (dispatchDet s d f).kept false = s.kept false := by
  induction f generalizing s with
  | zero => unfold dispatchDet; repeat' first
            | with_reducible rfl | simp only [kept_fold0, kept_mk0, State.setLdp_kept]
            | with_reducible refine (kept_of_eq ‹_›).trans ?_ | with_reducible refine (kept_of_eq3 ‹_›).trans ?_ | split
            | dsimp only
  | succ n ih => unfold dispatchDet; repeat' first
            | with_reducible rfl | simp only [kept_fold0, kept_mk0, ih, State.setLdp_kept]
            | with_reducible refine (kept_of_eq ‹_›).trans ?_ | with_reducible refine (kept_of_eq3 ‹_›).trans ?_ | split
            | dsimp only
theorem dispatchCores_kept (s : State) (d a f : Nat) : (dispatchCores s d a f).kept lv = s.kept lv := by
  induction f generalizing s a with
  | zero => unfold dispatchCores; repeat' first
            | with_reducible rfl | simp only [kept_ite, kept_snd_ite, ite_self, kept_fold, kept_mk, State.setLdp_kept]
            | with_reducible refine (kept_of_eq ‹_›).trans ?_ | with_reducible refine (kept_of_eq3 ‹_›).trans ?_ | split
            | dsimp only
  | succ n ih => unfold dispatchCores; repeat' first
            | with_reducible rfl
            | simp only [kept_ite, kept_snd_ite, ite_self, kept_fold, kept_mk, ih, State.setLdp_kept]
            | with_reducible refine (kept_of_eq ‹_›).trans ?_ | with_reducible refine (kept_of_eq3 ‹_›).trans ?_ | split
            | dsimp only
theorem dispatch_kept (s : State) (d aged : Nat) :
    (dispatch s d aged).kept false = s.kept false := by
  unfold dispatch
  repeat' first
    | with_reducible rfl | simp only [kept_ite, kept_snd_ite, ite_self, dispatchCores_kept, dispatchDet_kept]
    | split | dsimp only
theorem queueTrial_kept (s : State) (d : Nat) (c : Codeword) :
    (queueTrial s d c).kept false = s.kept false := by
  unfold queueTrial
  repeat' first
    | with_reducible rfl | simp only [kept_ite, kept_snd_ite, ite_self, kept_fold0, kept_mk0, State.setLdp_kept]
    | split | dsimp only
theorem countHead_kept (s : State) (d : Nat) (F : Fld) (k m b : Nat) :
    (countHead s d F k m b).kept lv = s.kept lv := by
  unfold countHead
  repeat' first
    | with_reducible rfl | simp only [State.bump_kept, raiseIf_kept] | dsimp only
theorem ladderFailed_kept (s : State) (d : Nat) (c : Codeword) (status : Nat) :
    (ladderFailed s d c status).kept lv = s.kept lv := by
  unfold ladderFailed
  repeat' first
    | with_reducible rfl
    | simp only [id_eq, implies_true, kept_ite, kept_snd_ite, ite_self, kept_fold, kept_mk, foldl_kept, foldl_snd_kept, State.bump_kept, endSector_kept, raise_kept]
    | split
    | dsimp only
theorem ladderAdvance_kept (s : State) (d : Nat) (c : Codeword) (status : Nat) :
    (ladderAdvance s d c status).kept false = s.kept false := by
  unfold ladderAdvance
  repeat' first
    | with_reducible rfl
    | simp only [id_eq, implies_true, kept_ite, kept_snd_ite, ite_self, kept_fold0, kept_mk0, foldl_kept, foldl_snd_kept, endSector_kept, ladderFailed_kept, ldpPin_kept, queueTrial_kept]
    | with_reducible refine (kept_of_eq ‹_›).trans ?_
    | with_reducible refine (kept_of_eq3 ‹_›).trans ?_
    | split
    | dsimp only
theorem countAccepted_kept (s : State) (d : Nat) (c : Codeword) (iter : Nat) :
    (countAccepted s d c iter).kept false = s.kept false := by
  unfold countAccepted
  repeat' first
    | with_reducible rfl | simp only [kept_ite, kept_snd_ite, ite_self, State.bump_kept, countHead_kept] | split
    | dsimp only
theorem countTagFail_kept (s : State) (d : Nat) (c : Codeword) (status : Nat) :
    (countTagFail s d c status).kept lv = s.kept lv := by
  unfold countTagFail
  repeat' first
    | with_reducible rfl
    | simp only [id_eq, implies_true, kept_ite, kept_snd_ite, ite_self, kept_fold, kept_mk, foldl_kept, foldl_snd_kept, State.bump_kept, raise_kept]
    | split
    | dsimp only
theorem decodeFailed_kept (s : State) (d : Nat) (c : Codeword) (status cw : Nat) :
    (decodeFailed s d c status cw).kept false = s.kept false := by
  unfold decodeFailed
  repeat' first
    | with_reducible rfl
    | simp only [id_eq, implies_true, kept_ite, kept_snd_ite, ite_self, kept_fold0, kept_mk0, foldl_kept, foldl_snd_kept, countHead_kept, countTagFail_kept, endSector_kept, ladderAdvance_kept, ladderFailed_kept]
    | split
    | dsimp only
theorem decodeEnds_kept (s : State) (d : Nat) (c : Codeword) :
    (decodeEnds s d c).kept false = s.kept false := by
  unfold decodeEnds
  repeat' first
    | with_reducible rfl
    | simp only [id_eq, implies_true, kept_ite, kept_snd_ite, ite_self, kept_fold0, kept_mk0, foldl_kept, foldl_snd_kept, State.bump_kept, countAccepted_kept, decodeFailed_kept, endSector_kept]
    | split
    | dsimp only
theorem ldpSettle_kept (s : State) (d : Nat) :
    (ldpSettle s d).kept lv = s.kept lv := by
  unfold ldpSettle
  repeat' first
    | with_reducible rfl | simp only [kept_ite, kept_snd_ite, ite_self, setPageState_kept] | split | dsimp only
theorem deferOldest_kept (s : State) (d k : Nat) :
    (deferOldest s d k).kept false = s.kept false := by
  unfold deferOldest
  repeat' first
    | with_reducible rfl
    | simp only [id_eq, implies_true, kept_ite, kept_snd_ite, ite_self, kept_fold0, kept_mk0, foldl_kept, foldl_snd_kept, State.setLdp_kept, endSector_kept, ladderFailed_kept, ldpPin_kept, raise_kept]
    | with_reducible refine (kept_of_eq ‹_›).trans ?_
    | with_reducible refine (kept_of_eq3 ‹_›).trans ?_
    | split
    | dsimp only
theorem joinOnline_kept (s : State) (d : Nat) (c : Codeword) :
    (joinOnline s d c).kept false = s.kept false := by
  unfold joinOnline
  repeat' first
    | with_reducible rfl
    | simp only [kept_ite, kept_snd_ite, ite_self, kept_fold0, kept_mk0, State.setLdp_kept, deferOldest_kept]
    | split | dsimp only
theorem nominalFrame_kept (s : State) (d : Nat) (c : Codeword) :
    (nominalFrame s d c).kept false = s.kept false := by
  unfold nominalFrame
  repeat' first
    | with_reducible rfl
    | simp only [id_eq, implies_true, kept_ite, kept_snd_ite, ite_self, kept_fold0, kept_mk0, foldl_kept, foldl_snd_kept, endSector_kept, ladderFailed_kept, ldpPin_kept, queueTrial_kept]
    | with_reducible refine (kept_of_eq ‹_›).trans ?_
    | with_reducible refine (kept_of_eq3 ‹_›).trans ?_
    | split
    | dsimp only
theorem detectionEnds_kept (s : State) (d : Nat) (c : Codeword) :
    (detectionEnds s d c).kept false = s.kept false := by
  unfold detectionEnds
  repeat' first
    | with_reducible rfl
    | simp only [id_eq, implies_true, kept_ite, kept_snd_ite, ite_self, kept_fold0, kept_mk0, foldl_kept, foldl_snd_kept, State.setLdp_kept, joinOnline_kept, nominalFrame_kept, sendResult_kept]
    | split
    | dsimp only
theorem execDetectionComplete_kept (ldp : Fin 2) (lane : Fin 4) (aged : Nat) (s : State) :
    ∀ t, execDetectionComplete ldp lane aged s = .next t → t.kept false = s.kept false := by
  intro t h
  unfold execDetectionComplete at h
  injection h with h
  subst h
  repeat' first
    | with_reducible rfl
    | simp only [id_eq, implies_true, kept_ite, kept_snd_ite, ite_self, kept_fold0, kept_mk0, foldl_kept, foldl_snd_kept, State.setLane_kept, detectionEnds_kept, dispatch_kept]
    | with_reducible refine (kept_of_eq ‹_›).trans ?_
    | with_reducible refine (kept_of_eq3 ‹_›).trans ?_
    | split
    | dsimp only
theorem execDecodeComplete_kept (ldp : Fin 2) (core : Fin 6) (aged : Nat) (s : State) :
    ∀ t, execDecodeComplete ldp core aged s = .next t → t.kept false = s.kept false := by
  intro t h
  unfold execDecodeComplete at h
  injection h with h
  subst h
  repeat' first
    | with_reducible rfl
    | simp only [id_eq, implies_true, kept_ite, kept_snd_ite, ite_self, kept_fold0, kept_mk0, foldl_kept, foldl_snd_kept, State.setLdp_kept, decodeEnds_kept, dispatch_kept, ldpSettle_kept]
    | with_reducible refine (kept_of_eq ‹_›).trans ?_
    | with_reducible refine (kept_of_eq3 ‹_›).trans ?_
    | split
    | dsimp only
theorem execReplayPassComplete_kept (ldp : Fin 2) (det : Fin 2) (aged : Nat) (s : State) :
    ∀ t, execReplayPassComplete ldp det aged s = .next t → t.kept false = s.kept false := by
  intro t h
  unfold execReplayPassComplete at h
  injection h with h
  subst h
  repeat' first
    | with_reducible rfl
    | simp only [kept_ite, kept_snd_ite, ite_self, kept_fold0, kept_mk0, State.setLdp_kept, dispatch_kept, joinOnline_kept]
    | with_reducible refine (kept_of_eq ‹_›).trans ?_ | with_reducible refine (kept_of_eq3 ‹_›).trans ?_ | split
    | dsimp only
theorem execSectorAbortEnd_kept (ldp : Fin 2) (aged : Nat) (s : State) :
    ∀ t, execSectorAbortEnd ldp aged s = .next t → t.kept false = s.kept false := by
  intro t h
  unfold execSectorAbortEnd at h
  injection h with h
  subst h
  repeat' first
    | with_reducible rfl
    | simp only [kept_fold0, kept_mk0, State.setLdp_kept, dispatch_kept, endSector_kept, ldpSettle_kept]
    | with_reducible refine (kept_of_eq ‹_›).trans ?_ | with_reducible refine (kept_of_eq3 ‹_›).trans ?_ | split
    | dsimp only
theorem execCoreParityFault_kept (ldp : Fin 2) (core : Fin 6) (aged : Nat) (s : State) :
    ∀ t, execCoreParityFault ldp core aged s = .next t → t.kept false = s.kept false := by
  intro t h
  unfold execCoreParityFault at h
  injection h with h
  subst h
  repeat' first
    | with_reducible rfl
    | simp only [kept_ite, kept_snd_ite, ite_self, kept_fold0, kept_mk0, State.bump_kept, State.put_kept, State.setLdp_kept, dispatch_kept, pageFault_kept, raise_kept]
    | with_reducible refine (kept_of_eq ‹_›).trans ?_ | with_reducible refine (kept_of_eq3 ‹_›).trans ?_ | split
    | dsimp only
theorem ldpCoefStep_kept (s : State) (d : Nat) :
    (ldpCoefStep s d).kept lv = s.kept lv := by
  unfold ldpCoefStep
  repeat' first
    | with_reducible rfl | simp only [State.put_kept] | dsimp only
theorem spoilHead_kept (d : Nat) (s : State) (k : Nat) :
    (spoilHead d s k).kept lv = s.kept lv := by
  unfold spoilHead
  repeat' first
    | with_reducible rfl
    | simp only [implies_true, kept_ite, kept_snd_ite, ite_self, kept_fold, kept_mk, foldl_kept, foldl_snd_kept, State.drawn_kept, State.setLdp_kept]
    | with_reducible refine (foldl_kept _ (fun _ _ => ?_) _ _).trans ?_
    | with_reducible refine (foldl_snd_kept _ (fun _ _ => ?_) _ _).trans ?_ | split | dsimp only
theorem spoil_kept (s : State) (d mask : Nat) :
    (spoil s d mask).kept lv = s.kept lv := by
  unfold spoil
  repeat' first
    | with_reducible rfl
    | simp only [implies_true, kept_ite, kept_snd_ite, ite_self, foldl_kept, foldl_snd_kept, spoilHead_kept]
    | with_reducible refine (foldl_kept _ (fun _ _ => ?_) _ _).trans ?_
    | with_reducible refine (foldl_snd_kept _ (fun _ _ => ?_) _ _).trans ?_ | split | dsimp only
theorem ldpCoefWrite_kept (d : Nat) (w : Word) (s : State) :
    (ldpCoefWrite d w s).kept lv = s.kept lv := by
  unfold ldpCoefWrite
  repeat' first
    | with_reducible rfl
    | simp only [kept_ite, kept_snd_ite, ite_self, kept_fold, kept_mk, State.setLdp_kept, ldpCoefStep_kept, spoil_kept]
    | split | dsimp only
theorem ldpCoefRead_kept (d : Nat) (s : State) :
    (ldpCoefRead d s).2.kept lv = s.kept lv := by
  unfold ldpCoefRead
  repeat' first
    | with_reducible rfl | simp only [ldpCoefStep_kept] | dsimp only
theorem execLdpCoefDataAccess_kept (q : Req) (ldp : Fin 2) (w : Option (BitVec 32)) (s : State) :
    ∀ t, execLdpCoefDataAccess q ldp w s = .next t → t.kept lv = s.kept lv := by
  intro t h
  unfold execLdpCoefDataAccess at h
  injection h with h
  subst h
  repeat' first
    | with_reducible rfl
    | simp only [implies_true, kept_fold, kept_mk, guardedRead_kept, guarded_kept, ldpCoefRead_kept, ldpCoefWrite_kept]
    | with_reducible refine (guardedRead_ho (fun _ => ?_)).trans ?_
    | with_reducible refine (guarded_ho (fun _ => ?_)).trans ?_
    | with_reducible refine (kept_of_eq ‹_›).trans ?_ | with_reducible refine (kept_of_eq3 ‹_›).trans ?_ | split
    | dsimp only
theorem ldpCommit_kept (d low mask : Nat) (s : State) :
    (ldpCommit d low mask s).kept lv = s.kept lv := by
  unfold ldpCommit
  repeat' first
    | with_reducible rfl
    | simp only [kept_ite, kept_snd_ite, ite_self, kept_fold, kept_mk, State.put_kept, State.reply_kept, State.setLdp_kept, raise_kept]
    | with_reducible refine (kept_of_eq ‹_›).trans ?_ | with_reducible refine (kept_of_eq3 ‹_›).trans ?_ | split
    | dsimp only
theorem ldpCommitWrite_kept (q : Req) (d : Nat) (w : Word) (s : State) :
    (ldpCommitWrite q d w s).kept lv = s.kept lv := by
  unfold ldpCommitWrite
  repeat' first
    | with_reducible rfl
    | simp only [kept_ite, kept_snd_ite, ite_self, ldpCommit_kept, plainWrite_kept, spoil_kept] | split
    | dsimp only
theorem execLdpCoefCommit_kept (q : Req) (ldp : Fin 2) (w : BitVec 32) (s : State) :
    ∀ t, execLdpCoefCommit q ldp w s = .next t → t.kept lv = s.kept lv := by
  intro t h
  unfold execLdpCoefCommit at h
  injection h with h
  subst h
  repeat' first
    | with_reducible rfl | simp only [implies_true, guarded_kept, ldpCommitWrite_kept]
    | with_reducible refine (guarded_ho (fun _ => ?_)).trans ?_ | dsimp only
theorem spoilExchange_kept (s : State) (d stroke mask : Nat) :
    (spoilExchange s d stroke mask).kept lv = s.kept lv := by
  unfold spoilExchange
  repeat' first
    | with_reducible rfl
    | simp only [implies_true, kept_ite, kept_snd_ite, ite_self, kept_fold, kept_mk, foldl_kept, foldl_snd_kept, spoilHead_kept]
    | with_reducible refine (foldl_kept _ (fun _ _ => ?_) _ _).trans ?_
    | with_reducible refine (foldl_snd_kept _ (fun _ _ => ?_) _ _).trans ?_ | split | dsimp only
theorem ldpExchange_kept (s : State) (d stroke : Nat) :
    (ldpExchange s d stroke).kept lv = s.kept lv := by
  unfold ldpExchange
  repeat' first
    | with_reducible rfl
    | simp only [implies_true, kept_ite, kept_snd_ite, ite_self, kept_fold, kept_mk, foldl_kept, foldl_snd_kept, State.put_kept, State.setLdp_kept, spoilExchange_kept]
    | with_reducible refine (foldl_kept _ (fun _ _ => ?_) _ _).trans ?_
    | with_reducible refine (foldl_snd_kept _ (fun _ _ => ?_) _ _).trans ?_
    | with_reducible refine (kept_of_eq ‹_›).trans ?_ | with_reducible refine (kept_of_eq3 ‹_›).trans ?_ | split
    | dsimp only
theorem fwReplayEnd_kept (s : State) (d result : Nat) :
    (fwReplayEnd s d result).kept lv = s.kept lv := by
  unfold fwReplayEnd
  repeat' first
    | with_reducible rfl | simp only [State.put_kept, raise_kept] | dsimp only
theorem fwReplayDrop_kept (s : State) (d : Nat) :
    (fwReplayDrop s d).kept lv = s.kept lv := by
  unfold fwReplayDrop
  repeat' first
    | with_reducible rfl
    | simp only [id_eq, implies_true, kept_ite, kept_snd_ite, ite_self, kept_fold, kept_mk, foldl_kept, foldl_snd_kept, State.setLdp_kept, fwReplayEnd_kept]
    | split
    | dsimp only
theorem ldpDropWaiting_kept (s : State) (d : Nat) :
    (ldpDropWaiting s d).kept false = s.kept false := by
  unfold ldpDropWaiting
  repeat' first
    | with_reducible rfl
    | simp only [id_eq, implies_true, kept_ite, kept_snd_ite, ite_self, kept_fold0, kept_mk0, foldl_kept, foldl_snd_kept, State.setLdp_kept, foldl_kept, fwReplayDrop_kept, ldpPin_kept, ldpUnpin_kept, sendResult_kept]
    | with_reducible refine (foldl_kept _ (fun _ _ => ?_) _ _).trans ?_
    | with_reducible refine (foldl_snd_kept _ (fun _ _ => ?_) _ _).trans ?_
    | split
    | dsimp only
theorem ldpDisable_kept (s : State) (d : Nat) :
    (ldpDisable s d).kept false = s.kept false := by
  unfold ldpDisable
  repeat' first
    | with_reducible rfl
    | simp only [id_eq, implies_true, kept_ite, kept_snd_ite, ite_self, kept_fold0, kept_mk0, foldl_kept, foldl_snd_kept, ldpDropWaiting_kept, ldpSettle_kept]
    | split
    | dsimp only
theorem rpCmdWrite_kept (d : Nat) (w : Word) (s : State) :
    (rpCmdWrite d w s).kept lv = s.kept lv := by
  unfold rpCmdWrite
  repeat' first
    | with_reducible rfl
    | simp only [id_eq, implies_true, kept_ite, kept_snd_ite, ite_self, kept_fold, kept_mk, foldl_kept, foldl_snd_kept, State.put_kept, State.setLdp_kept, fwReplayEnd_kept, unknownEntry_kept]
    | split
    | dsimp only
theorem execFwReplayStart_kept (q : Req) (ldp : Fin 2) (w : BitVec 32) (s : State) :
    ∀ t, execFwReplayStart q ldp w s = .next t → t.kept false = s.kept false := by
  intro t h
  unfold execFwReplayStart at h
  injection h with h
  subst h
  repeat' first
    | with_reducible rfl | simp only [implies_true, guarded_kept, rpCmdWrite_kept]
    | with_reducible refine (guarded_ho (fun _ => ?_)).trans ?_ | dsimp only
theorem execFwReplayComplete_kept (ldp : Fin 2) (s : State) :
    ∀ t, execFwReplayComplete ldp s = .next t → t.kept false = s.kept false := by
  intro t h
  unfold execFwReplayComplete at h
  injection h with h
  subst h
  repeat' first
    | with_reducible rfl
    | simp only [id_eq, implies_true, kept_ite, kept_snd_ite, ite_self, kept_fold0, kept_mk0, foldl_kept, foldl_snd_kept, State.bump_kept, State.put_kept, State.setLdp_kept, countAccepted_kept, countTagFail_kept, foldl_kept, fwReplayEnd_kept, memWrite_kept]
    | with_reducible refine (foldl_kept _ (fun _ _ => ?_) _ _).trans ?_
    | with_reducible refine (foldl_snd_kept _ (fun _ _ => ?_) _ _).trans ?_
    | with_reducible refine (kept_of_eq ‹_›).trans ?_
    | with_reducible refine (kept_of_eq3 ‹_›).trans ?_
    | split
    | dsimp only
theorem ldpWrite_kept (q : Req) (d off : Nat) (w : Word) (s : State) :
    (ldpWrite q d off w s).kept false = s.kept false := by
  unfold ldpWrite
  repeat' first
    | with_reducible rfl
    | simp only [kept_ite, kept_snd_ite, ite_self, dispatch_kept, ldpCoefWrite_kept, ldpCommitWrite_kept, plainWrite_kept, rpCmdWrite_kept, spoil_kept]
    | split | dsimp only
end Sys2Proof.Machine
end

