-- ==== Sys2Proof/Laws/KeptLines.lean ====
section
/-! SUPPORT. Frame laws of Machine/Lines.lean: each operation and command there leaves the fuses and the queue
as they are, and the stores too where the law says so of every level. -/

namespace Sys2Proof.Machine

open Sys2Proof

set_option maxRecDepth 4000
set_option linter.all false

variable {lv : Bool}

theorem writeDirectory_kept (s : State) :
    (writeDirectory s).kept false = s.kept false := by
  unfold writeDirectory
  repeat' first
    | with_reducible rfl
    | simp only [id_eq, implies_true, kept_ite, kept_snd_ite, ite_self, kept_fold0, kept_mk0, foldl_kept, foldl_snd_kept, foldl_kept, memWrite_kept]
    | with_reducible refine (foldl_kept _ (fun _ _ => ?_) _ _).trans ?_
    | with_reducible refine (foldl_snd_kept _ (fun _ _ => ?_) _ _).trans ?_
    | split
    | dsimp only
theorem State.setLine_kept (s : State) (n : Nat) (x : Option Line) :
    (State.setLine s n x).kept false = s.kept false := by
  unfold State.setLine
  repeat' first
    | with_reducible rfl | simp only [kept_ite, kept_snd_ite, ite_self, kept_fold0, kept_mk0, memWrite_kept]
    | split | dsimp only
theorem State.modLine_kept (s : State) (n : Nat) (f : Line → Line) :
    (State.modLine s n f).kept false = s.kept false := by
  unfold State.modLine
  repeat' first
    | with_reducible rfl | simp only [kept_fold0, kept_mk0, State.setLine_kept]
    | with_reducible refine (kept_of_eq ‹_›).trans ?_ | with_reducible refine (kept_of_eq3 ‹_›).trans ?_ | split
    | dsimp only
theorem shedLanded_kept (s : State) (f : Nat) : (shedLanded s f).kept false = s.kept false := by
  induction f generalizing s with
  | zero => unfold shedLanded; repeat' first
            | with_reducible rfl
            | simp only [implies_true, kept_ite, kept_snd_ite, ite_self, kept_fold0, kept_mk0, foldl_kept, foldl_snd_kept, State.setLine_kept]
            | with_reducible refine (foldl_kept _ (fun _ _ => ?_) _ _).trans ?_
            | with_reducible refine (foldl_snd_kept _ (fun _ _ => ?_) _ _).trans ?_
            | with_reducible refine (kept_of_eq ‹_›).trans ?_ | with_reducible refine (kept_of_eq3 ‹_›).trans ?_ | split
            | dsimp only
  | succ n ih => unfold shedLanded; repeat' first
            | with_reducible rfl
            | simp only [implies_true, kept_ite, kept_snd_ite, ite_self, kept_fold0, kept_mk0, foldl_kept, foldl_snd_kept, ih, State.setLine_kept]
            | with_reducible refine (foldl_kept _ (fun _ _ => ?_) _ _).trans ?_
            | with_reducible refine (foldl_snd_kept _ (fun _ _ => ?_) _ _).trans ?_
            | with_reducible refine (kept_of_eq ‹_›).trans ?_ | with_reducible refine (kept_of_eq3 ‹_›).trans ?_ | split
            | dsimp only
theorem allocLines_kept (s : State) (n : Nat) (mk : Nat → Nat → Line) :
    (allocLines s n mk).2.kept false = s.kept false := by
  unfold allocLines
  repeat' first
    | with_reducible rfl
    | simp only [implies_true, kept_fold0, kept_mk0, foldl_kept, foldl_snd_kept, State.setLine_kept, raiseIf_kept, raise_kept, shedLanded_kept]
    | with_reducible refine (foldl_kept _ (fun _ _ => ?_) _ _).trans ?_
    | with_reducible refine (foldl_snd_kept _ (fun _ _ => ?_) _ _).trans ?_
    | with_reducible refine (kept_of_eq ‹_›).trans ?_ | with_reducible refine (kept_of_eq3 ‹_›).trans ?_ | split
    | dsimp only
theorem checkHi_kept (s : State) :
    (checkHi s).kept lv = s.kept lv := by
  unfold checkHi
  repeat' first
    | with_reducible rfl | simp only [kept_fold, kept_mk, raiseIf_kept] | dsimp only
theorem moveCharge_kept (s : State) (a : Nat) :
    (moveCharge s a).kept false = s.kept false := by
  unfold moveCharge
  repeat' first
    | with_reducible rfl
    | simp only [implies_true, kept_ite, kept_snd_ite, ite_self, kept_fold0, kept_mk0, foldl_kept, foldl_snd_kept, State.modLine_kept, raise_kept]
    | with_reducible refine (foldl_kept _ (fun _ _ => ?_) _ _).trans ?_
    | with_reducible refine (foldl_snd_kept _ (fun _ _ => ?_) _ _).trans ?_ | split | dsimp only
theorem settleCharge_kept (s : State) :
    (settleCharge s).kept false = s.kept false := by
  unfold settleCharge
  repeat' first
    | with_reducible rfl
    | simp only [implies_true, kept_fold0, kept_mk0, foldl_kept, foldl_snd_kept, moveCharge_kept]
    | with_reducible refine (foldl_kept _ (fun _ _ => ?_) _ _).trans ?_
    | with_reducible refine (foldl_snd_kept _ (fun _ _ => ?_) _ _).trans ?_ | dsimp only
theorem freeLine_kept (s : State) (n : Nat) :
    (freeLine s n).kept false = s.kept false := by
  unfold freeLine
  repeat' first
    | with_reducible rfl | simp only [State.setLine_kept, checkHi_kept] | dsimp only
end Sys2Proof.Machine
end

