-- ==== Sys2Proof/Laws/KeptTags.lean ====
section
/-! SUPPORT. Frame laws of Machine/Tags.lean: each operation and command there leaves the fuses and the queue
as they are, and the stores too where the law says so of every level. -/

namespace Sys2Proof.Machine

open Sys2Proof

set_option maxRecDepth 4000
set_option linter.all false

variable {lv : Bool}

theorem State.setLq_kept (s : State) (n : Nat) (v : Lq) :
    (State.setLq s n v).kept lv = s.kept lv := by
  unfold State.setLq
  repeat' first
    | with_reducible rfl | simp only [kept_fold, kept_mk] | dsimp only
theorem State.setTag_kept (s : State) (n t : Nat) (v : Tag) :
    (State.setTag s n t v).kept lv = s.kept lv := by
  unfold State.setTag
  repeat' first
    | with_reducible rfl | simp only [State.setLq_kept] | dsimp only
theorem State.setSqr_kept (s : State) (u : Nat) (v : Sqr) :
    (State.setSqr s u v).kept lv = s.kept lv := by
  unfold State.setSqr
  repeat' first
    | with_reducible rfl | simp only [kept_fold, kept_mk] | dsimp only
theorem State.setAst_kept (s : State) (a : Nat) (v : Ast) :
    (State.setAst s a v).kept lv = s.kept lv := by
  unfold State.setAst
  repeat' first
    | with_reducible rfl | simp only [kept_fold, kept_mk] | dsimp only
theorem setUnitState_kept (s : State) (u v : Nat) :
    (setUnitState s u v).kept lv = s.kept lv := by
  unfold setUnitState
  repeat' first
    | with_reducible rfl | simp only [State.put_kept, domainEdge_kept, raiseIf_kept] | dsimp only
theorem driveElem_kept (s : State) (a h : Nat) :
    (driveElem s a h).kept lv = s.kept lv := by
  unfold driveElem
  repeat' first
    | with_reducible rfl
    | simp only [id_eq, implies_true, kept_ite, kept_snd_ite, ite_self, kept_fold, kept_mk, foldl_kept, foldl_snd_kept, State.setAst_kept]
    | split
    | dsimp only
theorem setGate_kept (s : State) (n : Nat) (high : Bool) :
    (setGate s n high).kept lv = s.kept lv := by
  unfold setGate
  repeat' first
    | with_reducible rfl
    | simp only [id_eq, implies_true, kept_ite, kept_snd_ite, ite_self, kept_fold, kept_mk, foldl_kept, foldl_snd_kept, State.setLane_kept, driveElem_kept]
    | with_reducible refine (kept_of_eq ‹_›).trans ?_
    | with_reducible refine (kept_of_eq3 ‹_›).trans ?_
    | split
    | dsimp only
theorem elemStandby_kept (s : State) (a h : Nat) :
    (elemStandby s a h).kept lv = s.kept lv := by
  unfold elemStandby
  repeat' first
    | with_reducible rfl | simp only [kept_ite, kept_snd_ite, ite_self, kept_fold, kept_mk, State.setAst_kept]
    | split | dsimp only
theorem elemToStandby_kept (s : State) (a h : Nat) :
    (elemToStandby s a h).kept lv = s.kept lv := by
  unfold elemToStandby
  repeat' first
    | with_reducible rfl
    | simp only [id_eq, implies_true, kept_ite, kept_snd_ite, ite_self, kept_fold, kept_mk, foldl_kept, foldl_snd_kept, State.setAst_kept]
    | split
    | dsimp only
theorem State.setSrv_kept (s : State) (a : Nat) (v : Srv) :
    (State.setSrv s a v).kept lv = s.kept lv := by
  unfold State.setSrv
  repeat' first
    | with_reducible rfl | simp only [kept_fold, kept_mk] | dsimp only
theorem setOffset_kept (s : State) (a h : Nat) (v : Int) :
    (setOffset s a h v).kept lv = s.kept lv := by
  unfold setOffset
  repeat' first
    | with_reducible rfl
    | simp only [id_eq, implies_true, kept_ite, kept_snd_ite, ite_self, kept_fold, kept_mk, foldl_kept, foldl_snd_kept, State.setSrv_kept]
    | split
    | dsimp only
theorem closeReadGate_kept (s : State) (n : Nat) :
    (closeReadGate s n).kept lv = s.kept lv := by
  unfold closeReadGate
  repeat' first
    | with_reducible rfl
    | simp only [id_eq, implies_true, kept_ite, kept_snd_ite, ite_self, kept_fold, kept_mk, foldl_kept, foldl_snd_kept, State.put_kept, State.setLane_kept, setOffset_kept]
    | with_reducible refine (kept_of_eq ‹_›).trans ?_
    | with_reducible refine (kept_of_eq3 ‹_›).trans ?_
    | split
    | dsimp only
theorem closeGates_kept (s : State) (n : Nat) :
    (closeGates s n).kept lv = s.kept lv := by
  unfold closeGates
  repeat' first
    | with_reducible rfl
    | simp only [id_eq, implies_true, kept_ite, kept_snd_ite, ite_self, kept_fold, kept_mk, foldl_kept, foldl_snd_kept, closeReadGate_kept, setGate_kept]
    | split
    | dsimp only
theorem execReadGateOpen_kept (lane : Fin 8) (s : State) :
    ∀ t, execReadGateOpen lane s = .next t → t.kept lv = s.kept lv := by
  intro t h
  unfold execReadGateOpen at h
  injection h with h
  subst h
  repeat' first
    | with_reducible rfl
    | simp only [id_eq, implies_true, kept_ite, kept_snd_ite, ite_self, kept_fold, kept_mk, foldl_kept, foldl_snd_kept, State.put_kept, State.setLane_kept, closeReadGate_kept, serveHead_kept, setOffset_kept]
    | with_reducible refine (takeLaunch_some ‹_›).trans ?_
    | with_reducible refine (kept_of_eq ‹_›).trans ?_
    | with_reducible refine (kept_of_eq3 ‹_›).trans ?_
    | split
    | dsimp only
theorem endWrite_kept (s : State) (n : Nat) :
    (endWrite s n).kept lv = s.kept lv := by
  unfold endWrite
  repeat' first
    | with_reducible rfl
    | simp only [id_eq, implies_true, kept_ite, kept_snd_ite, ite_self, kept_fold, kept_mk, foldl_kept, foldl_snd_kept, State.setLane_kept, elemStandby_kept, setGate_kept, setOffset_kept]
    | with_reducible refine (kept_of_eq ‹_›).trans ?_
    | with_reducible refine (kept_of_eq3 ‹_›).trans ?_
    | split
    | dsimp only
theorem elemOff_kept (s : State) (a h : Nat) :
    (elemOff s a h).kept lv = s.kept lv := by
  unfold elemOff
  repeat' first
    | with_reducible rfl | simp only [kept_fold, kept_mk, State.setAst_kept] | dsimp only
theorem setActive_kept (s : State) (a : Nat) (l : List Nat) :
    (setActive s a l).kept lv = s.kept lv := by
  unfold setActive
  repeat' first
    | with_reducible rfl
    | simp only [implies_true, kept_ite, kept_snd_ite, ite_self, kept_fold, kept_mk, foldl_kept, foldl_snd_kept, State.put_kept, State.setSrv_kept, elemOff_kept]
    | with_reducible refine (foldl_kept _ (fun _ _ => ?_) _ _).trans ?_
    | with_reducible refine (foldl_snd_kept _ (fun _ _ => ?_) _ _).trans ?_
    | with_reducible refine (kept_of_eq ‹_›).trans ?_ | with_reducible refine (kept_of_eq3 ‹_›).trans ?_ | split
    | dsimp only
theorem leavePair_kept (s : State) (n t : Nat) :
    (leavePair s n t).kept lv = s.kept lv := by
  unfold leavePair
  repeat' first
    | with_reducible rfl | simp only [kept_ite, kept_snd_ite, ite_self, setActive_kept] | split | dsimp only
theorem checkDrained_kept (s : State) (a : Nat) :
    (checkDrained s a).kept lv = s.kept lv := by
  unfold checkDrained
  repeat' first
    | with_reducible rfl | simp only [raiseIf_kept] | dsimp only
theorem settleDisable_kept (s : State) (u : Nat) :
    (settleDisable s u).kept lv = s.kept lv := by
  unfold settleDisable
  repeat' first
    | with_reducible rfl
    | simp only [kept_ite, kept_snd_ite, ite_self, kept_fold, kept_mk, State.setSqr_kept, setUnitState_kept]
    | split | dsimp only
theorem seekServesNone_kept (s : State) (n t : Nat) :
    (seekServesNone s n t).kept lv = s.kept lv := by
  unfold seekServesNone
  repeat' first
    | with_reducible rfl
    | simp only [id_eq, implies_true, kept_ite, kept_snd_ite, ite_self, kept_fold, kept_mk, foldl_kept, foldl_snd_kept, State.setSrv_kept]
    | split
    | dsimp only
theorem completeTag_kept (s : State) (n t : Nat) (e : Ending) :
    (completeTag s n t e).kept lv = s.kept lv := by
  unfold completeTag
  repeat' first
    | with_reducible rfl
    | simp only [id_eq, implies_true, kept_ite, kept_snd_ite, ite_self, kept_fold, kept_mk, foldl_kept, foldl_snd_kept, State.bump_kept, State.put_kept, State.setLane_kept, State.setLq_kept, State.setSqr_kept, State.setTag_kept, checkDrained_kept, endWrite_kept, leavePair_kept, raise_kept, seekServesNone_kept, settleDisable_kept]
    | split
    | dsimp only
theorem completeTags_kept (s : State) (n : Nat) (l : List Nat) (e : Ending) :
    (completeTags s n l e).kept lv = s.kept lv := by
  unfold completeTags
  repeat' first
    | with_reducible rfl | simp only [implies_true, foldl_kept, foldl_snd_kept, completeTag_kept]
    | with_reducible refine (foldl_kept _ (fun _ _ => ?_) _ _).trans ?_
    | with_reducible refine (foldl_snd_kept _ (fun _ _ => ?_) _ _).trans ?_ | dsimp only
theorem markMedia_kept (s : State) (n t : Nat) :
    (markMedia s n t).kept false = s.kept false := by
  unfold markMedia
  repeat' first
    | with_reducible rfl | simp only [kept_ite, kept_snd_ite, ite_self, kept_fold0, kept_mk0]
    | with_reducible refine (kept_of_eq ‹_›).trans ?_ | with_reducible refine (kept_of_eq3 ‹_›).trans ?_ | split
    | dsimp only
theorem takeTag_kept (s : State) (n t : Nat) :
    (takeTag s n t).kept false = s.kept false := by
  unfold takeTag
  repeat' first
    | with_reducible rfl
    | simp only [kept_ite, kept_snd_ite, ite_self, kept_fold0, kept_mk0, State.setLq_kept, State.setTag_kept, markMedia_kept]
    | split | dsimp only
theorem trimLater_kept (s : State) (psa : Nat) :
    (trimLater s psa).kept false = s.kept false := by
  unfold trimLater
  repeat' first
    | with_reducible rfl | simp only [kept_fold0, kept_mk0] | with_reducible refine (kept_of_eq ‹_›).trans ?_
    | with_reducible refine (kept_of_eq3 ‹_›).trans ?_ | split | dsimp only
theorem writeTrial_kept (s : State) (psa : Nat) :
    (writeTrial s psa).kept false = s.kept false := by
  unfold writeTrial
  repeat' first
    | with_reducible rfl
    | simp only [id_eq, implies_true, kept_ite, kept_snd_ite, ite_self, kept_fold0, kept_mk0, foldl_kept, foldl_snd_kept, writeBits_kept]
    | split
    | dsimp only
theorem writeFrame_kept (s : State) (t : Tag) (slot idx stroke : Nat) :
    (writeFrame s t slot idx stroke).kept false = s.kept false := by
  unfold writeFrame
  repeat' first
    | with_reducible rfl
    | simp only [id_eq, implies_true, kept_ite, kept_snd_ite, ite_self, kept_fold0, kept_mk0, foldl_kept, foldl_snd_kept, memRead_kept, trimLater_kept, writeBits_kept, writeTrial_kept]
    | split
    | dsimp only
theorem completeFrame_kept (s : State) (n : Nat) (j : WriteJob) :
    (completeFrame s n j).2.kept false = s.kept false := by
  unfold completeFrame
  repeat' first
    | with_reducible rfl
    | simp only [kept_ite, kept_snd_ite, ite_self, kept_fold0, kept_mk0, State.setLane_kept, State.setTag_kept, writeFrame_kept]
    | with_reducible refine (kept_of_eq ‹_›).trans ?_ | with_reducible refine (kept_of_eq3 ‹_›).trans ?_ | split
    | dsimp only
theorem advanceWrite_kept (n sl f : Nat) (j : WriteJob) (s : State) : (advanceWrite n sl f j s).kept false = s.kept false := by
  induction f generalizing j s with
  | zero => unfold advanceWrite; rfl
  | succ n ih => unfold advanceWrite; repeat' first
            | with_reducible rfl
            | simp only [kept_ite, kept_snd_ite, ite_self, kept_fold0, kept_mk0, ih, State.setLane_kept, setGate_kept, completeFrame_kept]
            | with_reducible refine (kept_of_eq ‹_›).trans ?_ | with_reducible refine (kept_of_eq3 ‹_›).trans ?_ | split
            | dsimp only
theorem finishFrame_kept (s : State) (n : Nat) :
    (finishFrame s n).kept false = s.kept false := by
  unfold finishFrame
  repeat' first
    | with_reducible rfl
    | simp only [id_eq, implies_true, kept_ite, kept_snd_ite, ite_self, kept_fold0, kept_mk0, foldl_kept, foldl_snd_kept, State.setLane_kept, completeFrame_kept, setGate_kept]
    | with_reducible refine (kept_of_eq ‹_›).trans ?_
    | with_reducible refine (kept_of_eq3 ‹_›).trans ?_
    | split
    | dsimp only
theorem stopTag_kept (s : State) (n t st reason : Nat) :
    (stopTag s n t st reason).kept false = s.kept false := by
  unfold stopTag
  repeat' first
    | with_reducible rfl
    | simp only [id_eq, implies_true, kept_ite, kept_snd_ite, ite_self, kept_fold0, kept_mk0, foldl_kept, foldl_snd_kept, State.setLane_kept, completeTag_kept, finishFrame_kept]
    | with_reducible refine (kept_of_eq ‹_›).trans ?_
    | with_reducible refine (kept_of_eq3 ‹_›).trans ?_
    | split
    | dsimp only
theorem tearFrame_kept (s : State) (n : Nat) (j : WriteJob) :
    (tearFrame s n j).kept false = s.kept false := by
  unfold tearFrame
  repeat' first
    | with_reducible rfl
    | simp only [id_eq, implies_true, kept_ite, kept_snd_ite, ite_self, kept_fold0, kept_mk0, foldl_kept, foldl_snd_kept, eraseBits_kept]
    | with_reducible refine (kept_of_eq ‹_›).trans ?_
    | with_reducible refine (kept_of_eq3 ‹_›).trans ?_
    | split
    | dsimp only
theorem tearWrite_kept (s : State) (n : Nat) (status : Nat) :
    (tearWrite s n status).kept false = s.kept false := by
  unfold tearWrite
  repeat' first
    | with_reducible rfl
    | simp only [id_eq, implies_true, kept_ite, kept_snd_ite, ite_self, kept_fold0, kept_mk0, foldl_kept, foldl_snd_kept, completeTag_kept, setGate_kept, tearFrame_kept]
    | with_reducible refine (kept_of_eq ‹_›).trans ?_
    | with_reducible refine (kept_of_eq3 ‹_›).trans ?_
    | split
    | dsimp only
theorem endPosted_kept (s : State) (n st reason : Nat) :
    (endPosted s n st reason).kept lv = s.kept lv := by
  unfold endPosted
  repeat' first
    | with_reducible rfl
    | simp only [id_eq, implies_true, kept_ite, kept_snd_ite, ite_self, kept_fold, kept_mk, foldl_kept, foldl_snd_kept, State.setTag_kept, completeTags_kept, foldl_kept]
    | with_reducible refine (foldl_kept _ (fun _ _ => ?_) _ _).trans ?_
    | with_reducible refine (foldl_snd_kept _ (fun _ _ => ?_) _ _).trans ?_
    | split
    | dsimp only
theorem setOos_kept (s : State) (a : Nat) :
    (setOos s a).kept false = s.kept false := by
  unfold setOos
  repeat' first
    | with_reducible rfl
    | simp only [id_eq, implies_true, kept_ite, kept_snd_ite, ite_self, kept_fold0, kept_mk0, foldl_kept, foldl_snd_kept, State.put_kept, State.setTag_kept, checkDrained_kept, endPosted_kept, foldl_kept, settleCharge_kept]
    | with_reducible refine (foldl_kept _ (fun _ _ => ?_) _ _).trans ?_
    | with_reducible refine (foldl_snd_kept _ (fun _ _ => ?_) _ _).trans ?_
    | split
    | dsimp only
theorem seqFault_kept (s : State) (u : Nat) (c : SeqFault) :
    (seqFault s u c).kept false = s.kept false := by
  unfold seqFault
  repeat' first
    | with_reducible rfl
    | simp only [id_eq, implies_true, kept_ite, kept_snd_ite, ite_self, kept_fold0, kept_mk0, foldl_kept, foldl_snd_kept, State.put_kept, State.setSqr_kept, closeGates_kept, completeTags_kept, elemToStandby_kept, endPosted_kept, raise_kept, setOos_kept, setUnitState_kept, tearWrite_kept]
    | with_reducible refine (foldl_kept _ (fun _ _ => ?_) _ _).trans ?_
    | with_reducible refine (foldl_snd_kept _ (fun _ _ => ?_) _ _).trans ?_
    | split
    | dsimp only
theorem lqPost_kept (n t : Nat) (s : State) :
    (lqPost n t s).kept lv = s.kept lv := by
  unfold lqPost
  repeat' first
    | with_reducible rfl
    | simp only [id_eq, implies_true, kept_ite, kept_snd_ite, ite_self, kept_fold, kept_mk, foldl_kept, foldl_snd_kept, State.bump_kept, State.setLq_kept, State.setTag_kept]
    | split
    | dsimp only
theorem tagFetched_kept (n t : Nat) (s : State) :
    (tagFetched n t s).kept false = s.kept false := by
  unfold tagFetched
  repeat' first
    | with_reducible rfl
    | simp only [kept_ite, kept_snd_ite, ite_self, kept_fold0, kept_mk0, State.setLq_kept, State.setTag_kept, completeTag_kept, memRead_kept]
    | with_reducible refine (kept_of_eq ‹_›).trans ?_ | with_reducible refine (kept_of_eq3 ‹_›).trans ?_ | split
    | dsimp only
theorem execTagEntryFetch_kept (lane : Fin 8) (tag : Fin 32) (s : State) :
    ∀ t, execTagEntryFetch lane tag s = .next t → t.kept false = s.kept false := by
  intro t h
  unfold execTagEntryFetch at h
  injection h with h
  subst h
  repeat' first
    | with_reducible rfl | simp only [tagFetched_kept] | dsimp only
theorem ldpAbort_kept (s : State) (n t : Nat) :
    (ldpAbort s n t).kept lv = s.kept lv := by
  unfold ldpAbort
  repeat' first
    | with_reducible rfl
    | simp only [id_eq, implies_true, kept_ite, kept_snd_ite, ite_self, kept_fold, kept_mk, foldl_kept, foldl_snd_kept, State.setLdp_kept]
    | split
    | dsimp only
theorem lqAbort_kept (n t : Nat) (s : State) :
    (lqAbort n t s).kept lv = s.kept lv := by
  unfold lqAbort
  repeat' first
    | with_reducible rfl
    | simp only [id_eq, implies_true, kept_ite, kept_snd_ite, ite_self, kept_fold, kept_mk, foldl_kept, foldl_snd_kept, State.reply_kept, State.setTag_kept, completeTag_kept, ldpAbort_kept]
    | with_reducible refine (kept_of_eq ‹_›).trans ?_
    | with_reducible refine (kept_of_eq3 ‹_›).trans ?_
    | split
    | dsimp only
theorem lqRelease_kept (n t : Nat) (s : State) :
    (lqRelease n t s).kept lv = s.kept lv := by
  unfold lqRelease
  repeat' first
    | with_reducible rfl
    | simp only [implies_true, kept_ite, kept_snd_ite, ite_self, foldl_kept, foldl_snd_kept, State.bump_kept, State.setTag_kept, ldpUnpin_kept]
    | with_reducible refine (foldl_kept _ (fun _ _ => ?_) _ _).trans ?_
    | with_reducible refine (foldl_snd_kept _ (fun _ _ => ?_) _ _).trans ?_ | split | dsimp only
theorem lqCmdWrite_kept (n : Nat) (w : Word) (s : State) :
    (lqCmdWrite n w s).kept false = s.kept false := by
  unfold lqCmdWrite
  repeat' first
    | with_reducible rfl | simp only [kept_fold0, kept_mk0, lqAbort_kept, lqPost_kept, lqRelease_kept]
    | with_reducible refine (kept_of_eq ‹_›).trans ?_ | with_reducible refine (kept_of_eq3 ‹_›).trans ?_ | split
    | dsimp only
theorem execLqPost_kept (q : Req) (lane : Fin 8) (w : BitVec 32) (s : State) :
    ∀ t, execLqPost q lane w s = .next t → t.kept false = s.kept false := by
  intro t h
  unfold execLqPost at h
  injection h with h
  subst h
  repeat' first
    | with_reducible rfl | simp only [implies_true, guarded_kept, lqCmdWrite_kept]
    | with_reducible refine (guarded_ho (fun _ => ?_)).trans ?_ | dsimp only
theorem execLqAbort_kept (q : Req) (lane : Fin 8) (w : BitVec 32) (s : State) :
    ∀ t, execLqAbort q lane w s = .next t → t.kept false = s.kept false := by
  intro t h
  unfold execLqAbort at h
  injection h with h
  subst h
  repeat' first
    | with_reducible rfl | simp only [implies_true, guarded_kept, lqCmdWrite_kept]
    | with_reducible refine (guarded_ho (fun _ => ?_)).trans ?_ | dsimp only
theorem execLqRelease_kept (q : Req) (lane : Fin 8) (w : BitVec 32) (s : State) :
    ∀ t, execLqRelease q lane w s = .next t → t.kept false = s.kept false := by
  intro t h
  unfold execLqRelease at h
  injection h with h
  subst h
  repeat' first
    | with_reducible rfl | simp only [implies_true, guarded_kept, lqCmdWrite_kept]
    | with_reducible refine (guarded_ho (fun _ => ?_)).trans ?_ | dsimp only
theorem seqCtlWrite_kept (q : Req) (d : Nat) (w : Word) (s : State) :
    (seqCtlWrite q d w s).kept false = s.kept false := by
  unfold seqCtlWrite
  repeat' first
    | with_reducible rfl
    | simp only [implies_true, kept_ite, kept_snd_ite, ite_self, foldl_kept, foldl_snd_kept, plainWrite_kept, setOos_kept, settleCharge_kept]
    | with_reducible refine (foldl_kept _ (fun _ _ => ?_) _ _).trans ?_
    | with_reducible refine (foldl_snd_kept _ (fun _ _ => ?_) _ _).trans ?_ | split | dsimp only
end Sys2Proof.Machine
end

