-- ==== Sys2Proof/Laws/KeptAssist.lean ====
section
/-! SUPPORT. Frame laws of Machine/Assist.lean: each operation and command there leaves the fuses and the queue
as they are, and the stores too where the law says so of every level. -/

namespace Sys2Proof.Machine

open Sys2Proof

set_option maxRecDepth 4000
set_option linter.all false

variable {lv : Bool}

theorem takeWords_kept (s : State) (a h : Nat) :
    (takeWords s a h).kept lv = s.kept lv := by
  unfold takeWords
  repeat' first
    | with_reducible rfl
    | simp only [id_eq, implies_true, kept_ite, kept_snd_ite, ite_self, kept_fold, kept_mk, foldl_kept, foldl_snd_kept, State.setAst_kept, foldl_kept]
    | with_reducible refine (foldl_kept _ (fun _ _ => ?_) _ _).trans ?_
    | with_reducible refine (foldl_snd_kept _ (fun _ _ => ?_) _ _).trans ?_
    | split
    | dsimp only
theorem setTrim_kept (s : State) (a h : Nat) (v : Int) :
    (setTrim s a h v).kept lv = s.kept lv := by
  unfold setTrim
  repeat' first
    | with_reducible rfl | simp only [kept_ite, kept_snd_ite, ite_self, State.put_kept] | split | dsimp only
theorem dropGates_kept (s : State) (a : Nat) (h : Option Nat) :
    (dropGates s a h).kept false = s.kept false := by
  unfold dropGates
  repeat' first
    | with_reducible rfl
    | simp only [implies_true, kept_ite, kept_snd_ite, ite_self, kept_fold0, kept_mk0, foldl_kept, foldl_snd_kept, tearWrite_kept]
    | with_reducible refine (foldl_kept _ (fun _ _ => ?_) _ _).trans ?_
    | with_reducible refine (foldl_snd_kept _ (fun _ _ => ?_) _ _).trans ?_
    | with_reducible refine (kept_of_eq ‹_›).trans ?_ | with_reducible refine (kept_of_eq3 ‹_›).trans ?_ | split
    | dsimp only
theorem inhibit_kept (s : State) (a : Nat) (src : InhSrc) :
    (inhibit s a src).kept false = s.kept false := by
  unfold inhibit
  repeat' first
    | with_reducible rfl
    | simp only [kept_ite, kept_snd_ite, ite_self, kept_fold0, kept_mk0, State.put_kept, State.setAst_kept, dropGates_kept, raiseIf_kept]
    | split | dsimp only
theorem startRelease_kept (s : State) (a : Nat) (src : InhSrc) :
    (startRelease s a src).kept lv = s.kept lv := by
  unfold startRelease
  repeat' first
    | with_reducible rfl | simp only [kept_ite, kept_snd_ite, ite_self, kept_fold, kept_mk, State.setAst_kept]
    | split | dsimp only
theorem offTrack_kept (s : State) (a h : Nat) (j : WriteJob) :
    (offTrack s a h j).kept false = s.kept false := by
  unfold offTrack
  repeat' first
    | with_reducible rfl
    | simp only [id_eq, implies_true, kept_ite, kept_snd_ite, ite_self, kept_fold0, kept_mk0, foldl_kept, foldl_snd_kept, State.bump_kept, State.put_kept, State.setAst_kept, dropGates_kept, raise_kept]
    | split
    | dsimp only
theorem execPesInhibitCheck_kept (ast : Fin 4) (head : Fin 8) (s : State) :
    ∀ t, execPesInhibitCheck ast head s = .next t → t.kept false = s.kept false := by
  intro t h
  unfold execPesInhibitCheck at h
  injection h with h
  subst h
  repeat' first
    | with_reducible rfl
    | simp only [id_eq, implies_true, kept_ite, kept_snd_ite, ite_self, kept_fold0, kept_mk0, foldl_kept, foldl_snd_kept, offTrack_kept]
    | with_reducible refine (kept_of_eq ‹_›).trans ?_
    | with_reducible refine (kept_of_eq3 ‹_›).trans ?_
    | split
    | dsimp only
theorem astWedge_kept (s : State) (a h lead : Nat) :
    (astWedge s a h lead).kept lv = s.kept lv := by
  unfold astWedge
  repeat' first
    | with_reducible rfl | simp only [kept_ite, kept_snd_ite, ite_self, kept_fold, kept_mk, State.setAst_kept]
    | split | dsimp only
theorem forceWrite_kept (q : Req) (a : Nat) (w : Word) (s : State) :
    (forceWrite q a w s).kept false = s.kept false := by
  unfold forceWrite
  repeat' first
    | with_reducible rfl
    | simp only [kept_ite, kept_snd_ite, ite_self, kept_fold0, kept_mk0, State.setAst_kept, inhibit_kept, plainWrite_kept]
    | split | dsimp only
theorem execForceInhibitSet_kept (q : Req) (ast : Fin 4) (w : BitVec 32) (s : State) :
    ∀ t, execForceInhibitSet q ast w s = .next t → t.kept false = s.kept false := by
  intro t h
  unfold execForceInhibitSet at h
  injection h with h
  subst h
  repeat' first
    | with_reducible rfl | simp only [implies_true, forceWrite_kept, guarded_kept]
    | with_reducible refine (guarded_ho (fun _ => ?_)).trans ?_ | dsimp only
theorem execForceInhibitClear_kept (q : Req) (ast : Fin 4) (w : BitVec 32) (s : State) :
    ∀ t, execForceInhibitClear q ast w s = .next t → t.kept false = s.kept false := by
  intro t h
  unfold execForceInhibitClear at h
  injection h with h
  subst h
  repeat' first
    | with_reducible rfl | simp only [implies_true, forceWrite_kept, guarded_kept]
    | with_reducible refine (guarded_ho (fun _ => ?_)).trans ?_ | dsimp only
theorem astStop_kept (s : State) (a : Nat) :
    (astStop s a).kept false = s.kept false := by
  unfold astStop
  repeat' first
    | with_reducible rfl
    | simp only [id_eq, implies_true, kept_ite, kept_snd_ite, ite_self, kept_fold0, kept_mk0, foldl_kept, foldl_snd_kept, elemOff_kept, foldl_kept, inhibit_kept]
    | with_reducible refine (foldl_kept _ (fun _ _ => ?_) _ _).trans ?_
    | with_reducible refine (foldl_snd_kept _ (fun _ _ => ?_) _ _).trans ?_
    | split
    | dsimp only
theorem astRuns_kept (s : State) (a : Nat) :
    (astRuns s a).kept lv = s.kept lv := by
  unfold astRuns
  repeat' first
    | with_reducible rfl
    | simp only [id_eq, implies_true, kept_ite, kept_snd_ite, ite_self, kept_fold, kept_mk, foldl_kept, foldl_snd_kept, State.setAst_kept]
    | split
    | dsimp only
theorem countGateRefusal_kept (s : State) (a st : Nat) :
    (countGateRefusal s a st).kept lv = s.kept lv := by
  unfold countGateRefusal
  repeat' first
    | with_reducible rfl | simp only [kept_ite, kept_snd_ite, ite_self, State.bump_kept, raise_kept] | split
    | dsimp only
theorem takeAssistPermit_kept (s : State) (n tg : Nat) :
    (takeAssistPermit s n tg).kept lv = s.kept lv := by
  unfold takeAssistPermit
  repeat' first
    | with_reducible rfl
    | simp only [id_eq, implies_true, kept_ite, kept_snd_ite, ite_self, kept_fold, kept_mk, foldl_kept, foldl_snd_kept, State.put_kept]
    | split
    | dsimp only
theorem openGate_kept (s : State) (n h tg : Nat) (rwo : Int) :
    (openGate s n h tg rwo).kept false = s.kept false := by
  unfold openGate
  repeat' first
    | with_reducible rfl
    | simp only [id_eq, implies_true, kept_ite, kept_snd_ite, ite_self, kept_fold0, kept_mk0, foldl_kept, foldl_snd_kept, State.setAst_kept, State.setLane_kept, advanceWrite_kept, serveHead_kept, setGate_kept, setOffset_kept]
    | split
    | dsimp only
theorem execWriteGateOpen_kept (lane : Fin 8) (rwo : Int) (s : State) :
    ∀ t, execWriteGateOpen lane rwo s = .next t → t.kept false = s.kept false := by
  intro t h
  unfold execWriteGateOpen at h
  injection h with h
  subst h
  repeat' first
    | with_reducible rfl
    | simp only [id_eq, implies_true, kept_ite, kept_snd_ite, ite_self, kept_fold0, kept_mk0, foldl_kept, foldl_snd_kept, completeTag_kept, countGateRefusal_kept, openGate_kept, takeAssistPermit_kept]
    | with_reducible refine (takeLaunch_some ‹_›).trans ?_
    | with_reducible refine (kept_of_eq ‹_›).trans ?_
    | with_reducible refine (kept_of_eq3 ‹_›).trans ?_
    | split
    | dsimp only
theorem execWriteWedgeCross_kept (lane : Fin 8) (s : State) :
    ∀ t, execWriteWedgeCross lane s = .next t → t.kept false = s.kept false := by
  intro t h
  unfold execWriteWedgeCross at h
  injection h with h
  subst h
  repeat' first
    | with_reducible rfl
    | simp only [kept_ite, kept_snd_ite, ite_self, kept_fold0, kept_mk0, State.setLane_kept, advanceWrite_kept]
    | with_reducible refine (kept_of_eq ‹_›).trans ?_ | with_reducible refine (kept_of_eq3 ‹_›).trans ?_ | split
    | dsimp only
theorem execAssistArm_kept (ast : Fin 4) (s : State) :
    ∀ t, execAssistArm ast s = .next t → t.kept lv = s.kept lv := by
  intro t h
  unfold execAssistArm at h
  injection h with h
  subst h
  repeat' first
    | with_reducible rfl
    | simp only [id_eq, implies_true, kept_ite, kept_snd_ite, ite_self, kept_fold, kept_mk, foldl_kept, foldl_snd_kept, State.bump_kept, State.setAst_kept, raise_kept, takeWords_kept]
    | with_reducible refine (takeLaunch_some ‹_›).trans ?_
    | with_reducible refine (kept_of_eq ‹_›).trans ?_
    | with_reducible refine (kept_of_eq3 ‹_›).trans ?_
    | split
    | dsimp only
theorem execAssistIdleOff_kept (ast : Fin 4) (head : Fin 8) (s : State) :
    ∀ t, execAssistIdleOff ast head s = .next t → t.kept lv = s.kept lv := by
  intro t h
  unfold execAssistIdleOff at h
  injection h with h
  subst h
  repeat' first
    | with_reducible rfl | simp only [kept_ite, kept_snd_ite, ite_self, elemOff_kept] | split | dsimp only
theorem trimLate_kept (s : State) (a : Nat) (cal : Bool) :
    (trimLate s a cal).kept lv = s.kept lv := by
  unfold trimLate
  repeat' first
    | with_reducible rfl
    | simp only [kept_ite, kept_snd_ite, ite_self, State.bump_kept, State.put_kept, raise_kept] | split
    | dsimp only
theorem trimRequest_kept (s : State) (a h : Nat) (step : Int) (low : Nat) (cal : Bool) :
    (trimRequest s a h step low cal).kept false = s.kept false := by
  unfold trimRequest
  repeat' first
    | with_reducible rfl
    | simp only [kept_ite, kept_snd_ite, ite_self, kept_fold0, kept_mk0, State.put_kept, State.reply_kept, State.setAst_kept, trimLate_kept]
    | with_reducible refine (kept_of_eq ‹_›).trans ?_ | with_reducible refine (kept_of_eq3 ‹_›).trans ?_ | split
    | dsimp only
theorem trimWrite_kept (q : Req) (a : Nat) (w : Word) (s : State) :
    (trimWrite q a w s).kept false = s.kept false := by
  unfold trimWrite
  repeat' first
    | with_reducible rfl | simp only [kept_ite, kept_snd_ite, ite_self, plainWrite_kept, trimRequest_kept]
    | split | dsimp only
theorem trimFrames_kept (s : State) (a n : Nat) :
    (trimFrames s a n).kept false = s.kept false := by
  unfold trimFrames
  repeat' first
    | with_reducible rfl | simp only [kept_ite, kept_snd_ite, ite_self, kept_fold0, kept_mk0, State.setAst_kept]
    | split | dsimp only
theorem trimOne_kept (s : State) (a : Nat) (t : Trim) :
    (trimOne s a t).kept lv = s.kept lv := by
  unfold trimOne
  repeat' first
    | with_reducible rfl
    | simp only [id_eq, implies_true, kept_ite, kept_snd_ite, ite_self, kept_fold, kept_mk, foldl_kept, foldl_snd_kept, State.bump_kept, State.setAst_kept, driveElem_kept, raise_kept, setTrim_kept]
    | split
    | dsimp only
theorem calTrim_kept (s : State) (a h : Nat) (step : Int) (low : Nat) :
    (calTrim s a h step low).kept false = s.kept false := by
  unfold calTrim
  repeat' first
    | with_reducible rfl
    | simp only [id_eq, implies_true, kept_ite, kept_snd_ite, ite_self, kept_fold0, kept_mk0, foldl_kept, foldl_snd_kept, State.ask_kept, State.reply_kept, trimRequest_kept]
    | split
    | dsimp only
theorem execTrimStepRequest_kept (q : Req) (ast : Fin 4) (w : BitVec 32) (cal : Bool) (s : State) :
    ∀ t, execTrimStepRequest q ast w cal s = .next t → t.kept false = s.kept false := by
  intro t h
  unfold execTrimStepRequest at h
  injection h with h
  subst h
  repeat' first
    | with_reducible rfl
    | simp only [id_eq, implies_true, kept_ite, kept_snd_ite, ite_self, kept_fold0, kept_mk0, foldl_kept, foldl_snd_kept, calTrim_kept, guarded_kept, trimWrite_kept]
    | with_reducible refine (guarded_ho (fun _ => ?_)).trans ?_
    | split
    | dsimp only
theorem trimApply_kept (s : State) (a n : Nat) :
    (trimApply s a n).kept false = s.kept false := by
  unfold trimApply
  repeat' first
    | with_reducible rfl
    | simp only [implies_true, kept_ite, kept_snd_ite, ite_self, kept_fold0, kept_mk0, foldl_kept, foldl_snd_kept, State.put_kept, State.setAst_kept, trimOne_kept]
    | with_reducible refine (foldl_kept _ (fun _ _ => ?_) _ _).trans ?_
    | with_reducible refine (foldl_snd_kept _ (fun _ _ => ?_) _ _).trans ?_ | split | dsimp only
theorem frameSent_kept (s : State) (a : Nat) (f : PFrame) (rd : Nat) :
    (frameSent s a f rd).kept lv = s.kept lv := by
  unfold frameSent
  repeat' first
    | with_reducible rfl
    | simp only [id_eq, implies_true, kept_ite, kept_snd_ite, ite_self, kept_fold, kept_mk, foldl_kept, foldl_snd_kept, State.put_kept, State.setAst_kept, driveElem_kept]
    | with_reducible refine (kept_of_eq ‹_›).trans ?_
    | with_reducible refine (kept_of_eq3 ‹_›).trans ?_
    | split
    | dsimp only
theorem execPbusFrameSend_kept (ast : Fin 4) (rd : BitVec 16) (s : State) :
    ∀ t, execPbusFrameSend ast rd s = .next t → t.kept lv = s.kept lv := by
  intro t h
  unfold execPbusFrameSend at h
  injection h with h
  subst h
  repeat' first
    | with_reducible rfl | simp only [kept_ite, kept_snd_ite, ite_self, kept_fold, kept_mk, frameSent_kept]
    | with_reducible refine (kept_of_eq ‹_›).trans ?_ | with_reducible refine (kept_of_eq3 ‹_›).trans ?_ | split
    | dsimp only
theorem faultWrites_kept (s : State) (a h : Nat) :
    (faultWrites s a h).kept false = s.kept false := by
  unfold faultWrites
  repeat' first
    | with_reducible rfl
    | simp only [id_eq, implies_true, kept_ite, kept_snd_ite, ite_self, kept_fold0, kept_mk0, foldl_kept, foldl_snd_kept, foldl_kept, stopTag_kept]
    | with_reducible refine (foldl_kept _ (fun _ _ => ?_) _ _).trans ?_
    | with_reducible refine (foldl_snd_kept _ (fun _ _ => ?_) _ _).trans ?_
    | with_reducible refine (kept_of_eq ‹_›).trans ?_
    | with_reducible refine (kept_of_eq3 ‹_›).trans ?_
    | split
    | dsimp only
theorem setHeadFault_kept (s : State) (a h : Nat) (assist writer : Bool) :
    (setHeadFault s a h assist writer).kept false = s.kept false := by
  unfold setHeadFault
  repeat' first
    | with_reducible rfl
    | simp only [id_eq, implies_true, kept_ite, kept_snd_ite, ite_self, kept_fold0, kept_mk0, foldl_kept, foldl_snd_kept, State.put_kept, elemOff_kept, faultWrites_kept, raiseIf_kept]
    | split
    | dsimp only
theorem readbackOne_kept (a : Nat) (s : State) (c : Fin 8 × Nat × Nat) :
    (readbackOne a s c).kept false = s.kept false := by
  unfold readbackOne
  repeat' first
    | with_reducible rfl
    | simp only [id_eq, implies_true, kept_ite, kept_snd_ite, ite_self, kept_fold0, kept_mk0, foldl_kept, foldl_snd_kept, State.put_kept, setHeadFault_kept]
    | split
    | dsimp only
theorem execPbusReadback_kept (ast : Fin 4) (codes : List (Fin 8 × Nat × Nat)) (s : State) :
    ∀ t, execPbusReadback ast codes s = .next t → t.kept false = s.kept false := by
  intro t h
  unfold execPbusReadback at h
  injection h with h
  subst h
  repeat' first
    | with_reducible rfl
    | simp only [id_eq, implies_true, kept_ite, kept_snd_ite, ite_self, kept_fold0, kept_mk0, foldl_kept, foldl_snd_kept, State.setAst_kept, readbackOne_kept]
    | with_reducible refine (foldl_kept _ (fun _ _ => ?_) _ _).trans ?_
    | with_reducible refine (foldl_snd_kept _ (fun _ _ => ?_) _ _).trans ?_
    | split
    | dsimp only
theorem pbusCmdWrite_kept (q : Req) (a : Nat) (w : Word) (s : State) :
    (pbusCmdWrite q a w s).kept lv = s.kept lv := by
  unfold pbusCmdWrite
  repeat' first
    | with_reducible rfl
    | simp only [kept_ite, kept_snd_ite, ite_self, kept_fold, kept_mk, State.put_kept, State.setAst_kept, plainWrite_kept]
    | split | dsimp only
theorem execPbusCmdSend_kept (q : Req) (ast : Fin 4) (w : BitVec 32) (s : State) :
    ∀ t, execPbusCmdSend q ast w s = .next t → t.kept lv = s.kept lv := by
  intro t h
  unfold execPbusCmdSend at h
  injection h with h
  subst h
  repeat' first
    | with_reducible rfl | simp only [implies_true, guarded_kept, pbusCmdWrite_kept]
    | with_reducible refine (guarded_ho (fun _ => ?_)).trans ?_ | dsimp only
theorem execPreampFaultAssert_kept (ast : Fin 4) (s : State) :
    ∀ t, execPreampFaultAssert ast s = .next t → t.kept false = s.kept false := by
  intro t h
  unfold execPreampFaultAssert at h
  injection h with h
  subst h
  repeat' first
    | with_reducible rfl
    | simp only [kept_ite, kept_snd_ite, ite_self, kept_fold0, kept_mk0, State.bump_kept, State.put_kept, State.setAst_kept, inhibit_kept, raise_kept]
    | split | dsimp only
theorem execPreampStatusRead_kept (ast : Fin 4) (status : BitVec 16) (s : State) :
    ∀ t, execPreampStatusRead ast status s = .next t → t.kept false = s.kept false := by
  intro t h
  unfold execPreampStatusRead at h
  injection h with h
  subst h
  repeat' first
    | with_reducible rfl
    | simp only [kept_ite, kept_snd_ite, ite_self, kept_fold0, kept_mk0, State.put_kept, State.setAst_kept, setHeadFault_kept]
    | split | dsimp only
theorem lineReleased_kept (s : State) (a : Nat) :
    (lineReleased s a).kept lv = s.kept lv := by
  unfold lineReleased
  repeat' first
    | with_reducible rfl
    | simp only [id_eq, implies_true, kept_ite, kept_snd_ite, ite_self, kept_fold, kept_mk, foldl_kept, foldl_snd_kept, State.put_kept, startRelease_kept]
    | split
    | dsimp only
theorem execPreampFaultDeassert_kept (ast : Fin 4) (s : State) :
    ∀ t, execPreampFaultDeassert ast s = .next t → t.kept lv = s.kept lv := by
  intro t h
  unfold execPreampFaultDeassert at h
  injection h with h
  subst h
  repeat' first
    | with_reducible rfl
    | simp only [id_eq, implies_true, kept_ite, kept_snd_ite, ite_self, kept_fold, kept_mk, foldl_kept, foldl_snd_kept, lineReleased_kept]
    | split
    | dsimp only
theorem headFaultWrite_kept (q : Req) (a : Nat) (w : Word) (s : State) :
    (headFaultWrite q a w s).kept lv = s.kept lv := by
  unfold headFaultWrite
  repeat' first
    | with_reducible rfl
    | simp only [kept_ite, kept_snd_ite, ite_self, kept_fold, kept_mk, State.setAst_kept, plainWrite_kept, startRelease_kept]
    | split | dsimp only
theorem countVerifyFail_kept (s : State) (a h : Nat) :
    (countVerifyFail s a h).kept lv = s.kept lv := by
  unfold countVerifyFail
  repeat' first
    | with_reducible rfl
    | simp only [id_eq, implies_true, kept_ite, kept_snd_ite, ite_self, kept_fold, kept_mk, foldl_kept, foldl_snd_kept, State.bump_kept, raiseIf_kept]
    | split
    | dsimp only
theorem countVerify_kept (s : State) (a h record : Nat) :
    (countVerify s a h record).kept lv = s.kept lv := by
  unfold countVerify
  repeat' first
    | with_reducible rfl
    | simp only [id_eq, implies_true, kept_ite, kept_snd_ite, ite_self, kept_fold, kept_mk, foldl_kept, foldl_snd_kept, State.bump_kept, countVerifyFail_kept]
    | split
    | dsimp only
theorem verifyRemap_kept (s : State) (n tg idx psa : Nat) :
    (verifyRemap s n tg idx psa).kept false = s.kept false := by
  unfold verifyRemap
  repeat' first
    | with_reducible rfl
    | simp only [id_eq, kept_fold0, kept_mk0, State.reply_kept, appendRemap_kept, readBand_kept]
    | with_reducible refine (kept_of_eq ‹_›).trans ?_ | with_reducible refine (kept_of_eq3 ‹_›).trans ?_ | split
    | dsimp only
theorem jobSettled_kept (s : State) (n : Nat) (j : WriteJob) :
    (jobSettled s n j).kept lv = s.kept lv := by
  unfold jobSettled
  repeat' first
    | with_reducible rfl
    | simp only [id_eq, implies_true, kept_ite, kept_snd_ite, ite_self, kept_fold, kept_mk, foldl_kept, foldl_snd_kept, completeTag_kept]
    | with_reducible refine (kept_of_eq ‹_›).trans ?_
    | with_reducible refine (kept_of_eq3 ‹_›).trans ?_
    | split
    | dsimp only
theorem verifyJudge_kept (s : State) (n : Nat) (j : WriteJob) (record : Nat) :
    (verifyJudge s n j record).kept false = s.kept false := by
  unfold verifyJudge
  repeat' first
    | with_reducible rfl
    | simp only [id_eq, implies_true, kept_ite, kept_snd_ite, ite_self, kept_fold0, kept_mk0, foldl_kept, foldl_snd_kept, State.setLane_kept, State.setTag_kept, completeTag_kept, countVerify_kept, finishFrame_kept, jobSettled_kept, verifyRemap_kept]
    | split
    | dsimp only
theorem verifyTrial_kept (s : State) (n : Nat) (j : WriteJob) (slot : Nat) :
    (verifyTrial s n j slot).kept lv = s.kept lv := by
  unfold verifyTrial
  repeat' first
    | with_reducible rfl
    | simp only [id_eq, implies_true, kept_ite, kept_snd_ite, ite_self, kept_fold, kept_mk, foldl_kept, foldl_snd_kept, State.setLane_kept, jobSettled_kept]
    | split
    | dsimp only
theorem execVerifyResult_kept (lane : Fin 8) (s : State) :
    ∀ t, execVerifyResult lane s = .next t → t.kept false = s.kept false := by
  intro t h
  unfold execVerifyResult at h
  injection h with h
  subst h
  repeat' first
    | with_reducible rfl
    | simp only [id_eq, implies_true, kept_ite, kept_snd_ite, ite_self, kept_fold0, kept_mk0, foldl_kept, foldl_snd_kept, State.setLdp_kept, dropStale_kept, verifyJudge_kept, verifyTrial_kept]
    | with_reducible refine (kept_of_eq ‹_›).trans ?_
    | with_reducible refine (kept_of_eq3 ‹_›).trans ?_
    | split
    | dsimp only
theorem headWinStep_kept (s : State) (a : Nat) :
    (headWinStep s a).kept lv = s.kept lv := by
  unfold headWinStep
  repeat' first
    | with_reducible rfl | simp only [State.put_kept] | dsimp only
theorem headDataWrite_kept (a : Nat) (w : Word) (s : State) :
    (headDataWrite a w s).kept lv = s.kept lv := by
  unfold headDataWrite
  repeat' first
    | with_reducible rfl | simp only [kept_fold, kept_mk, State.setAst_kept, headWinStep_kept] | dsimp only
theorem headDataRead_kept (a : Nat) (s : State) :
    (headDataRead a s).2.kept lv = s.kept lv := by
  unfold headDataRead
  repeat' first
    | with_reducible rfl | simp only [headWinStep_kept] | dsimp only
theorem execAstHeadDataAccess_kept (q : Req) (ast : Fin 4) (w : Option (BitVec 32)) (s : State) :
    ∀ t, execAstHeadDataAccess q ast w s = .next t → t.kept lv = s.kept lv := by
  intro t h
  unfold execAstHeadDataAccess at h
  injection h with h
  subst h
  repeat' first
    | with_reducible rfl
    | simp only [implies_true, kept_fold, kept_mk, guardedRead_kept, guarded_kept, headDataRead_kept, headDataWrite_kept]
    | with_reducible refine (guardedRead_ho (fun _ => ?_)).trans ?_
    | with_reducible refine (guarded_ho (fun _ => ?_)).trans ?_
    | with_reducible refine (kept_of_eq ‹_›).trans ?_ | with_reducible refine (kept_of_eq3 ‹_›).trans ?_ | split
    | dsimp only
theorem astWrite_kept (q : Req) (a off : Nat) (w : Word) (s : State) :
    (astWrite q a off w s).kept false = s.kept false := by
  unfold astWrite
  repeat' first
    | with_reducible rfl
    | simp only [kept_ite, kept_snd_ite, ite_self, forceWrite_kept, headDataWrite_kept, headFaultWrite_kept, pbusCmdWrite_kept, plainWrite_kept, trimWrite_kept]
    | split | dsimp only
end Sys2Proof.Machine
end

