-- ==== Sys2Proof/Laws/KeptCoil.lean ====
section
/-! SUPPORT. Frame laws of Machine/Coil.lean: each operation and command there leaves the fuses and the queue
as they are, and the stores too where the law says so of every level. -/

namespace Sys2Proof.Machine

open Sys2Proof

set_option maxRecDepth 4000
set_option linter.all false

variable {lv : Bool}

theorem State.setVcm_kept (s : State) (a : Nat) (v : Vcm) :
    (State.setVcm s a v).kept lv = s.kept lv := by
  unfold State.setVcm
  repeat' first
    | with_reducible rfl | simp only [kept_fold, kept_mk] | dsimp only
theorem setVcmState_kept (s : State) (a v : Nat) :
    (setVcmState s a v).kept lv = s.kept lv := by
  unfold setVcmState
  repeat' first
    | with_reducible rfl | simp only [State.put_kept] | dsimp only
theorem setSrvState_kept (s : State) (a v : Nat) :
    (setSrvState s a v).kept lv = s.kept lv := by
  unfold setSrvState
  repeat' first
    | with_reducible rfl | simp only [State.put_kept] | dsimp only
theorem dropSeekPermit_kept (s : State) (a : Nat) :
    (dropSeekPermit s a).kept lv = s.kept lv := by
  unfold dropSeekPermit
  repeat' first
    | with_reducible rfl | simp only [State.put_kept] | dsimp only
theorem retract_kept (s : State) (a : Nat) :
    (retract s a).kept lv = s.kept lv := by
  unfold retract
  repeat' first
    | with_reducible rfl
    | simp only [kept_ite, kept_snd_ite, ite_self, kept_fold, kept_mk, State.bump_kept, State.setVcm_kept, raise_kept, setVcmState_kept]
    | split | dsimp only
theorem retractAll_kept (s : State) :
    (retractAll s).kept lv = s.kept lv := by
  unfold retractAll
  repeat' first
    | with_reducible rfl
    | simp only [implies_true, kept_ite, kept_snd_ite, ite_self, foldl_kept, foldl_snd_kept, retract_kept]
    | with_reducible refine (foldl_kept _ (fun _ _ => ?_) _ _).trans ?_
    | with_reducible refine (foldl_snd_kept _ (fun _ _ => ?_) _ _).trans ?_ | split | dsimp only
theorem applyMact_kept (s : State) (a : Nat) (m : Sparse Int) :
    (applyMact s a m).kept lv = s.kept lv := by
  unfold applyMact
  repeat' first
    | with_reducible rfl
    | simp only [implies_true, kept_ite, kept_snd_ite, ite_self, kept_fold, kept_mk, foldl_kept, foldl_snd_kept]
    | with_reducible refine (foldl_kept _ (fun _ _ => ?_) _ _).trans ?_
    | with_reducible refine (foldl_snd_kept _ (fun _ _ => ?_) _ _).trans ?_ | split | dsimp only
theorem execVcmCommandApply_kept (vcm : Fin 4) (s : State) :
    ∀ t, execVcmCommandApply vcm s = .next t → t.kept lv = s.kept lv := by
  intro t h
  unfold execVcmCommandApply at h
  injection h with h
  subst h
  repeat' first
    | with_reducible rfl
    | simp only [kept_ite, kept_snd_ite, ite_self, kept_fold, kept_mk, State.bump_kept, State.put_kept, State.setVcm_kept, applyMact_kept, raiseIf_kept, retract_kept]
    | with_reducible refine (kept_of_eq ‹_›).trans ?_ | with_reducible refine (kept_of_eq3 ‹_›).trans ?_ | split
    | dsimp only
theorem loadFails_kept (s : State) (a : Nat) :
    (loadFails s a).kept lv = s.kept lv := by
  unfold loadFails
  repeat' first
    | with_reducible rfl
    | simp only [kept_fold, kept_mk, State.put_kept, State.setSrv_kept, raise_kept, setSrvState_kept]
    | dsimp only
theorem beginLoad_kept (s : State) (a h : Nat) (reversed : Bool) :
    (beginLoad s a h reversed).kept lv = s.kept lv := by
  unfold beginLoad
  repeat' first
    | with_reducible rfl
    | simp only [kept_ite, kept_snd_ite, ite_self, kept_fold, kept_mk, State.put_kept, State.setSrv_kept, State.setVcm_kept, loadFails_kept, raise_kept, setActive_kept, setSrvState_kept, setVcmState_kept]
    | split | dsimp only
theorem loadGoes_kept (s : State) (a h : Nat) (reversed : Bool) :
    (loadGoes s a h reversed).kept lv = s.kept lv := by
  unfold loadGoes
  repeat' first
    | with_reducible rfl
    | simp only [id_eq, implies_true, kept_ite, kept_snd_ite, ite_self, kept_fold, kept_mk, foldl_kept, foldl_snd_kept, State.put_kept, State.setVcm_kept, beginLoad_kept]
    | split
    | dsimp only
theorem execHeadLoad_kept (vcm : Fin 4) (reversed : Bool) (s : State) :
    ∀ t, execHeadLoad vcm reversed s = .next t → t.kept lv = s.kept lv := by
  intro t h
  unfold execHeadLoad at h
  injection h with h
  subst h
  repeat' first
    | with_reducible rfl
    | simp only [id_eq, implies_true, kept_ite, kept_snd_ite, ite_self, kept_fold, kept_mk, foldl_kept, foldl_snd_kept, loadGoes_kept]
    | with_reducible refine (takeLaunch_some ‹_›).trans ?_
    | with_reducible refine (kept_of_eq ‹_›).trans ?_
    | with_reducible refine (kept_of_eq3 ‹_›).trans ?_
    | split
    | dsimp only
theorem execLoadTimeout_kept (vcm : Fin 4) (s : State) :
    ∀ t, execLoadTimeout vcm s = .next t → t.kept lv = s.kept lv := by
  intro t h
  unfold execLoadTimeout at h
  injection h with h
  subst h
  repeat' first
    | with_reducible rfl
    | simp only [id_eq, implies_true, kept_ite, kept_snd_ite, ite_self, kept_fold, kept_mk, foldl_kept, foldl_snd_kept, loadFails_kept, retract_kept, setActive_kept, setSrvState_kept]
    | split
    | dsimp only
theorem vcmCtlWrite_kept (q : Req) (a : Nat) (w : Word) (s : State) :
    (vcmCtlWrite q a w s).kept lv = s.kept lv := by
  unfold vcmCtlWrite
  repeat' first
    | with_reducible rfl
    | simp only [kept_ite, kept_snd_ite, ite_self, kept_fold, kept_mk, State.setVcm_kept, plainWrite_kept, retract_kept, setVcmState_kept]
    | split | dsimp only
theorem execVcmRetract_kept (q : Req) (vcm : Fin 4) (w : BitVec 32) (s : State) :
    ∀ t, execVcmRetract q vcm w s = .next t → t.kept lv = s.kept lv := by
  intro t h
  unfold execVcmRetract at h
  injection h with h
  subst h
  repeat' first
    | with_reducible rfl | simp only [implies_true, guarded_kept, vcmCtlWrite_kept]
    | with_reducible refine (guarded_ho (fun _ => ?_)).trans ?_ | dsimp only
theorem execVcmDrvEnable_kept (q : Req) (vcm : Fin 4) (w : BitVec 32) (s : State) :
    ∀ t, execVcmDrvEnable q vcm w s = .next t → t.kept lv = s.kept lv := by
  intro t h
  unfold execVcmDrvEnable at h
  injection h with h
  subst h
  repeat' first
    | with_reducible rfl | simp only [implies_true, guarded_kept, vcmCtlWrite_kept]
    | with_reducible refine (guarded_ho (fun _ => ?_)).trans ?_ | dsimp only
theorem execVcmDrvDisable_kept (q : Req) (vcm : Fin 4) (w : BitVec 32) (s : State) :
    ∀ t, execVcmDrvDisable q vcm w s = .next t → t.kept lv = s.kept lv := by
  intro t h
  unfold execVcmDrvDisable at h
  injection h with h
  subst h
  repeat' first
    | with_reducible rfl | simp only [implies_true, guarded_kept, vcmCtlWrite_kept]
    | with_reducible refine (guarded_ho (fun _ => ?_)).trans ?_ | dsimp only
theorem parked_kept (s : State) (a : Nat) :
    (parked s a).kept false = s.kept false := by
  unfold parked
  repeat' first
    | with_reducible rfl
    | simp only [id_eq, implies_true, kept_ite, kept_snd_ite, ite_self, kept_fold0, kept_mk0, foldl_kept, foldl_snd_kept, State.put_kept, State.setSrv_kept, State.setVcm_kept, applyMact_kept, dropSeekPermit_kept, loadGoes_kept, pageOff_kept, raise_kept, setActive_kept, setOos_kept, setSrvState_kept, setVcmState_kept]
    | with_reducible refine (kept_of_eq ‹_›).trans ?_
    | with_reducible refine (kept_of_eq3 ‹_›).trans ?_
    | split
    | dsimp only
theorem vcmWrite_kept (q : Req) (a off : Nat) (w : Word) (s : State) :
    (vcmWrite q a off w s).kept lv = s.kept lv := by
  unfold vcmWrite
  repeat' first
    | with_reducible rfl | simp only [kept_ite, kept_snd_ite, ite_self, plainWrite_kept, vcmCtlWrite_kept]
    | split | dsimp only
theorem suspectSensor_kept (s : State) (k : Nat) :
    (suspectSensor s k).kept lv = s.kept lv := by
  unfold suspectSensor
  repeat' first
    | with_reducible rfl
    | simp only [id_eq, implies_true, kept_ite, kept_snd_ite, ite_self, kept_fold, kept_mk, foldl_kept, foldl_snd_kept, State.put_kept, raise_kept]
    | split
    | dsimp only
theorem countFull_kept (s : State) (k : Nat) (v : BitVec 12) :
    (countFull s k v).kept lv = s.kept lv := by
  unfold countFull
  repeat' first
    | with_reducible rfl
    | simp only [id_eq, implies_true, kept_ite, kept_snd_ite, ite_self, kept_fold, kept_mk, foldl_kept, foldl_snd_kept, suspectSensor_kept]
    | split
    | dsimp only
theorem countShock_kept (s : State) (F : Fld) (on : Bool) :
    (countShock s F on).kept lv = s.kept lv := by
  unfold countShock
  repeat' first
    | with_reducible rfl | simp only [kept_ite, kept_snd_ite, ite_self, State.bump_kept, raiseIf_kept] | split
    | dsimp only
theorem shockTrigger_kept (s : State) (lin rot hard : Bool) :
    (shockTrigger s lin rot hard).kept lv = s.kept lv := by
  unfold shockTrigger
  repeat' first
    | with_reducible rfl
    | simp only [kept_ite, kept_snd_ite, ite_self, kept_fold, kept_mk, State.bump_kept, State.put_kept, countShock_kept, raiseIf_kept, raise_kept, retractAll_kept]
    | split | dsimp only
theorem shockCalm_kept (s : State) (quiet : Bool) (rot : Int) :
    (shockCalm s quiet rot).kept lv = s.kept lv := by
  unfold shockCalm
  repeat' first
    | with_reducible rfl | simp only [kept_ite, kept_snd_ite, ite_self, kept_fold, kept_mk, raise_kept] | split
    | dsimp only
theorem execShockSample_kept (lx ly rot : BitVec 12) (s : State) :
    ∀ t, execShockSample lx ly rot s = .next t → t.kept lv = s.kept lv := by
  intro t h
  unfold execShockSample at h
  injection h with h
  subst h
  repeat' first
    | with_reducible rfl
    | simp only [kept_ite, kept_snd_ite, ite_self, State.put_kept, countFull_kept, shockCalm_kept, shockTrigger_kept]
    | split | dsimp only
theorem macCtlWrite_kept (q : Req) (w : Word) (s : State) :
    (macCtlWrite q w s).kept lv = s.kept lv := by
  unfold macCtlWrite
  repeat' first
    | with_reducible rfl
    | simp only [id_eq, implies_true, kept_ite, kept_snd_ite, ite_self, kept_fold, kept_mk, foldl_kept, foldl_snd_kept, plainWrite_kept, railFollows_kept]
    | split
    | dsimp only
theorem macWrite_kept (q : Req) (off : Nat) (w : Word) (s : State) :
    (macWrite q off w s).kept lv = s.kept lv := by
  unfold macWrite
  repeat' first
    | with_reducible rfl | simp only [kept_ite, kept_snd_ite, ite_self, macCtlWrite_kept, plainWrite_kept]
    | split | dsimp only
end Sys2Proof.Machine
end

