-- ==== Sys2Proof/Laws/KeptFlits.lean ====
section
/-! SUPPORT. Frame laws of Machine/Flits.lean: each operation and command there leaves the fuses and the queue
as they are, and the stores too where the law says so of every level. -/

namespace Sys2Proof.Machine

open Sys2Proof

set_option maxRecDepth 4000
set_option linter.all false

variable {lv : Bool}

theorem setFlits_kept (s : State) (n : Nat) (toCox : Bool) (l : List Flit) :
    (setFlits s n toCox l).kept lv = s.kept lv := by
  unfold setFlits
  repeat' first
    | with_reducible rfl
    | simp only [id_eq, implies_true, kept_ite, kept_snd_ite, ite_self, kept_fold, kept_mk, foldl_kept, foldl_snd_kept, State.setLink_kept]
    | split
    | dsimp only
theorem waitFlit_kept (s : State) (n : Nat) (toCox : Bool) (f : Flit) :
    (waitFlit s n toCox f).kept lv = s.kept lv := by
  unfold waitFlit
  repeat' first
    | with_reducible rfl
    | simp only [id_eq, implies_true, kept_ite, kept_snd_ite, ite_self, kept_fold, kept_mk, foldl_kept, foldl_snd_kept, setFlits_kept]
    | split
    | dsimp only
theorem flitTaken_kept (s : State) (f : Flit) :
    (flitTaken s f).kept lv = s.kept lv := by
  unfold flitTaken
  repeat' first
    | with_reducible rfl
    | simp only [id_eq, implies_true, kept_ite, kept_snd_ite, ite_self, kept_fold, kept_mk, foldl_kept, foldl_snd_kept, State.setSrv_kept, State.setVcm_kept]
    | with_reducible refine (kept_of_eq ‹_›).trans ?_
    | with_reducible refine (kept_of_eq3 ‹_›).trans ?_
    | split
    | dsimp only
theorem sendOut_kept (s : State) (f : Flit) :
    (sendOut s f).kept lv = s.kept lv := by
  unfold sendOut
  repeat' first
    | with_reducible rfl
    | simp only [id_eq, implies_true, kept_ite, kept_snd_ite, ite_self, kept_fold, kept_mk, foldl_kept, foldl_snd_kept, flitTaken_kept, waitFlit_kept]
    | split
    | dsimp only
theorem sendIn_kept (s : State) (n : Nat) (f : Flit) :
    (sendIn s n f).kept lv = s.kept lv := by
  unfold sendIn
  repeat' first
    | with_reducible rfl
    | simp only [id_eq, implies_true, kept_ite, kept_snd_ite, ite_self, kept_fold, kept_mk, foldl_kept, foldl_snd_kept, sendOut_kept, waitFlit_kept]
    | split
    | dsimp only
theorem moveFlits_kept (s : State) (n : Nat) (toCox : Bool) :
    (moveFlits s n toCox).kept lv = s.kept lv := by
  unfold moveFlits
  repeat' first
    | with_reducible rfl
    | simp only [id_eq, implies_true, kept_ite, kept_snd_ite, ite_self, kept_fold, kept_mk, foldl_kept, foldl_snd_kept, flitTaken_kept, sendOut_kept, setFlits_kept]
    | with_reducible refine (foldl_kept _ (fun _ _ => ?_) _ _).trans ?_
    | with_reducible refine (foldl_snd_kept _ (fun _ _ => ?_) _ _).trans ?_
    | split
    | dsimp only
theorem moveAllFlits_kept (s : State) :
    (moveAllFlits s).kept lv = s.kept lv := by
  unfold moveAllFlits
  repeat' first
    | with_reducible rfl
    | simp only [id_eq, implies_true, kept_ite, kept_snd_ite, ite_self, kept_fold, kept_mk, foldl_kept, foldl_snd_kept, foldl_kept, moveFlits_kept]
    | with_reducible refine (foldl_kept _ (fun _ _ => ?_) _ _).trans ?_
    | with_reducible refine (foldl_snd_kept _ (fun _ _ => ?_) _ _).trans ?_
    | split
    | dsimp only
theorem sendToken_kept (s : State) (n : Nat) (toCox : Bool) (m : Nat) :
    (sendToken s n toCox m).kept lv = s.kept lv := by
  unfold sendToken
  repeat' first
    | with_reducible rfl
    | simp only [id_eq, implies_true, kept_ite, kept_snd_ite, ite_self, kept_fold, kept_mk, foldl_kept, foldl_snd_kept, waitFlit_kept]
    | split
    | dsimp only
theorem takeToken_kept (s : State) (n : Nat) (toCox : Bool) (m : Nat) :
    (takeToken s n toCox m).kept lv = s.kept lv := by
  unfold takeToken
  repeat' first
    | with_reducible rfl
    | simp only [id_eq, implies_true, kept_ite, kept_snd_ite, ite_self, kept_fold, kept_mk, foldl_kept, foldl_snd_kept, setFlits_kept]
    | split
    | dsimp only
end Sys2Proof.Machine
end

