-- ==== Sys2Proof/Laws/KeptThermal.lean ====
section
/-! SUPPORT. Frame laws of Machine/Thermal.lean: each operation and command there leaves the fuses and the queue
as they are, and the stores too where the law says so of every level. -/

namespace Sys2Proof.Machine

open Sys2Proof

set_option maxRecDepth 4000
set_option linter.all false

variable {lv : Bool}

theorem State.tmpMap_kept (s : State) (f : Tmp → Tmp) :
    (State.tmpMap s f).kept lv = s.kept lv := by
  unfold State.tmpMap
  repeat' first
    | with_reducible rfl | simp only [kept_fold, kept_mk] | dsimp only
theorem markSuspect_kept (s : State) (i : Nat) :
    (markSuspect s i).kept lv = s.kept lv := by
  unfold markSuspect
  repeat' first
    | with_reducible rfl
    | simp only [id_eq, implies_true, kept_ite, kept_snd_ite, ite_self, kept_fold, kept_mk, foldl_kept, foldl_snd_kept, State.bump_kept, State.put_kept, raise_kept]
    | split
    | dsimp only
theorem checkSensor_kept (s0 s : State) (i : Nat) : (checkSensor s0 s i).kept lv = s.kept lv := by
  unfold checkSensor; repeat' first
            | with_reducible rfl | simp only [kept_ite, kept_snd_ite, ite_self, kept_fold, kept_mk, State.tmpMap_kept]
            | with_reducible refine (kept_of_eq ‹_›).trans ?_ | with_reducible refine (kept_of_eq3 ‹_›).trans ?_ | split
            | dsimp only
theorem markDie_kept (s : State) (l : List Nat) :
    (markDie s l).kept lv = s.kept lv := by
  unfold markDie
  repeat' first
    | with_reducible rfl
    | simp only [implies_true, kept_ite, kept_snd_ite, ite_self, kept_fold, kept_mk, foldl_kept, foldl_snd_kept, State.tmpMap_kept, markSuspect_kept, raise_kept]
    | with_reducible refine (foldl_kept _ (fun _ _ => ?_) _ _).trans ?_
    | with_reducible refine (foldl_snd_kept _ (fun _ _ => ?_) _ _).trans ?_ | split | dsimp only
theorem markTherm_kept (s : State) (i : Nat) (valid : Bool) :
    (markTherm s i valid).kept lv = s.kept lv := by
  unfold markTherm
  repeat' first
    | with_reducible rfl | simp only [kept_ite, kept_snd_ite, ite_self, markSuspect_kept, raise_kept] | split
    | dsimp only
theorem crossCheck_kept (s : State) (ok0 ok1 : Bool) :
    (crossCheck s ok0 ok1).kept lv = s.kept lv := by
  unfold crossCheck
  repeat' first
    | with_reducible rfl
    | simp only [implies_true, foldl_kept, foldl_snd_kept, checkSensor_kept, markDie_kept, markTherm_kept]
    | with_reducible refine (foldl_kept _ (fun _ _ => ?_) _ _).trans ?_
    | with_reducible refine (foldl_snd_kept _ (fun _ _ => ?_) _ _).trans ?_ | dsimp only
theorem limitCheck_kept (l : List Int) (s : State) (k : Nat) :
    (limitCheck l s k).kept lv = s.kept lv := by
  unfold limitCheck
  repeat' first
    | with_reducible rfl
    | simp only [kept_ite, kept_snd_ite, ite_self, kept_fold, kept_mk, State.tmpMap_kept, raise_kept] | split
    | dsimp only
theorem fastCheck_kept (l : List Int) (s : State) :
    (fastCheck l s).kept lv = s.kept lv := by
  unfold fastCheck
  repeat' first
    | with_reducible rfl
    | simp only [kept_ite, kept_snd_ite, ite_self, kept_fold, kept_mk, State.bump_kept, State.put_kept, State.tmpMap_kept, raise_kept]
    | split | dsimp only
theorem composite_kept (s : State) :
    (composite s).kept lv = s.kept lv := by
  unfold composite
  repeat' first
    | with_reducible rfl
    | simp only [implies_true, kept_ite, kept_snd_ite, ite_self, kept_fold, kept_mk, foldl_kept, foldl_snd_kept, State.drawn_kept, State.put_kept]
    | with_reducible refine (foldl_kept _ (fun _ _ => ?_) _ _).trans ?_
    | with_reducible refine (foldl_snd_kept _ (fun _ _ => ?_) _ _).trans ?_
    | with_reducible refine (kept_of_eq ‹_›).trans ?_ | with_reducible refine (kept_of_eq3 ‹_›).trans ?_ | split
    | dsimp only
theorem throttleSync_kept (s : State) :
    (throttleSync s).kept lv = s.kept lv := by
  unfold throttleSync
  repeat' first
    | with_reducible rfl
    | simp only [kept_ite, kept_snd_ite, ite_self, State.bump_kept, State.put_kept, raise_kept] | split
    | dsimp only
theorem tripCheck_kept (l : List Int) (s : State) :
    (tripCheck l s).kept lv = s.kept lv := by
  unfold tripCheck
  repeat' first
    | with_reducible rfl | simp only [kept_fold, kept_mk, State.tmpMap_kept, throttleSync_kept] | dsimp only
theorem putPivot_kept (s : State) (p : Nat) (v : Option Int) :
    (putPivot s p v).kept lv = s.kept lv := by
  unfold putPivot
  repeat' first
    | with_reducible rfl
    | simp only [kept_ite, kept_snd_ite, ite_self, kept_fold, kept_mk, State.drawn_kept, State.put_kept]
    | with_reducible refine (kept_of_eq ‹_›).trans ?_ | with_reducible refine (kept_of_eq3 ‹_›).trans ?_ | split
    | dsimp only
theorem headStackSync_kept (s : State) :
    (headStackSync s).kept lv = s.kept lv := by
  unfold headStackSync
  repeat' first
    | with_reducible rfl | simp only [State.put_kept, putPivot_kept, raiseIf_kept] | dsimp only
theorem xoCorrect_kept (s : State) :
    (xoCorrect s).kept lv = s.kept lv := by
  unfold xoCorrect
  repeat' first
    | with_reducible rfl | simp only [kept_ite, kept_snd_ite, ite_self, State.put_kept] | split | dsimp only
theorem calRecord_kept (s : State) (at_ : Nat) :
    (calRecord s at_).2.kept false = s.kept false := by
  unfold calRecord
  repeat' first
    | with_reducible rfl
    | simp only [kept_ite, kept_snd_ite, ite_self, State.bump_kept, memRead_kept, raise_kept] | split
    | dsimp only
theorem trimAdjust_kept (s : State) :
    (trimAdjust s).kept false = s.kept false := by
  unfold trimAdjust
  repeat' first
    | with_reducible rfl
    | simp only [implies_true, kept_ite, kept_snd_ite, ite_self, kept_fold0, kept_mk0, foldl_kept, foldl_snd_kept, State.tmpMap_kept, calRecord_kept]
    | with_reducible refine (foldl_kept _ (fun _ _ => ?_) _ _).trans ?_
    | with_reducible refine (foldl_snd_kept _ (fun _ _ => ?_) _ _).trans ?_
    | with_reducible refine (kept_of_eq ‹_›).trans ?_ | with_reducible refine (kept_of_eq3 ‹_›).trans ?_ | split
    | dsimp only
theorem takeReading_kept (readings : Vector (BitVec 16) 40) (s : State) (i : Fin 40) :
    (takeReading readings s i).kept lv = s.kept lv := by
  unfold takeReading
  repeat' first
    | with_reducible rfl
    | simp only [kept_ite, kept_snd_ite, ite_self, kept_fold, kept_mk, State.drawn_kept, State.tmpMap_kept]
    | split | dsimp only
theorem takeTherm_kept (s : State) (i : Nat) (v : Option Int) :
    (takeTherm s i v).kept lv = s.kept lv := by
  unfold takeTherm
  repeat' first
    | with_reducible rfl | simp only [kept_fold, kept_mk, State.tmpMap_kept]
    | with_reducible refine (kept_of_eq ‹_›).trans ?_ | with_reducible refine (kept_of_eq3 ‹_›).trans ?_ | split
    | dsimp only
theorem sampleAll_kept (readings : Vector (BitVec 16) 40) (c0 c1 : Nat) (s : State) :
    (sampleAll readings c0 c1 s).kept false = s.kept false := by
  unfold sampleAll
  repeat' first
    | with_reducible rfl
    | simp only [implies_true, kept_ite, kept_snd_ite, ite_self, foldl_kept, foldl_snd_kept, State.put_kept, composite_kept, crossCheck_kept, fastCheck_kept, headStackSync_kept, limitCheck_kept, raiseIf_kept, takeReading_kept, takeTherm_kept, trimAdjust_kept, tripCheck_kept, xoCorrect_kept]
    | with_reducible refine (foldl_kept _ (fun _ _ => ?_) _ _).trans ?_
    | with_reducible refine (foldl_snd_kept _ (fun _ _ => ?_) _ _).trans ?_ | split | dsimp only
theorem tmpWrite_kept (q : Req) (off : Nat) (w : Word) (s : State) :
    (tmpWrite q off w s).kept lv = s.kept lv := by
  unfold tmpWrite
  repeat' first
    | with_reducible rfl
    | simp only [kept_ite, kept_snd_ite, ite_self, kept_fold, kept_mk, State.tmpMap_kept, plainWrite_kept]
    | split | dsimp only
theorem requestVcox_kept (s : State) (mv : Nat) :
    (requestVcox s mv).kept lv = s.kept lv := by
  unfold requestVcox
  repeat' first
    | with_reducible rfl
    | simp only [id_eq, implies_true, kept_ite, kept_snd_ite, ite_self, kept_fold, kept_mk, foldl_kept, foldl_snd_kept, State.ask_kept, State.put_kept]
    | split
    | dsimp only
theorem avsEmergency_kept (s : State) :
    (avsEmergency s).kept lv = s.kept lv := by
  unfold avsEmergency
  repeat' first
    | with_reducible rfl
    | simp only [kept_fold, kept_mk, State.bump_kept, State.put_kept, State.tmpMap_kept, raise_kept, requestVcox_kept, throttleSync_kept]
    | dsimp only
theorem avsRelease_kept (s : State) (m : Nat) :
    (avsRelease s m).kept lv = s.kept lv := by
  unfold avsRelease
  repeat' first
    | with_reducible rfl
    | simp only [kept_ite, kept_snd_ite, ite_self, kept_fold, kept_mk, State.put_kept, State.tmpMap_kept, throttleSync_kept]
    | split | dsimp only
theorem avsUp_kept (s : State) :
    (avsUp s).kept lv = s.kept lv := by
  unfold avsUp
  repeat' first
    | with_reducible rfl
    | simp only [kept_ite, kept_snd_ite, ite_self, State.bump_kept, State.put_kept, raise_kept, requestVcox_kept]
    | split | dsimp only
theorem avsDown_kept (s : State) :
    (avsDown s).kept lv = s.kept lv := by
  unfold avsDown
  repeat' first
    | with_reducible rfl | simp only [kept_ite, kept_snd_ite, ite_self, State.put_kept, requestVcox_kept]
    | split | dsimp only
theorem avsEvaluate_kept (m : Nat) (s : State) :
    (avsEvaluate m s).kept lv = s.kept lv := by
  unfold avsEvaluate
  repeat' first
    | with_reducible rfl
    | simp only [kept_ite, kept_snd_ite, ite_self, State.put_kept, avsDown_kept, avsEmergency_kept, avsRelease_kept, avsUp_kept]
    | split | dsimp only
theorem execAvsEvaluate_kept (margins : Vector (BitVec 8) 16) (s : State) :
    ∀ t, execAvsEvaluate margins s = .next t → t.kept lv = s.kept lv := by
  intro t h
  unfold execAvsEvaluate at h
  injection h with h
  subst h
  repeat' first
    | with_reducible rfl | simp only [kept_ite, kept_snd_ite, ite_self, avsEvaluate_kept] | split | dsimp only
theorem clkWrite_kept (q : Req) (off : Nat) (w : Word) (s : State) :
    (clkWrite q off w s).kept lv = s.kept lv := by
  unfold clkWrite
  repeat' first
    | with_reducible rfl
    | simp only [kept_ite, kept_snd_ite, ite_self, kept_fold, kept_mk, State.tmpMap_kept, plainWrite_kept, throttleSync_kept]
    | split | dsimp only
end Sys2Proof.Machine
end

