-- ==== Sys2Proof/Laws/KeptCalibrate.lean ====
section
/-! SUPPORT. Frame laws of Machine/Calibrate.lean: each operation and command there leaves the fuses and the queue
as they are, and the stores too where the law says so of every level. -/

namespace Sys2Proof.Machine

open Sys2Proof

set_option maxRecDepth 4000
set_option linter.all false

variable {lv : Bool}

theorem State.calMap_kept (s : State) (f : Cal → Cal) :
    (State.calMap s f).kept lv = s.kept lv := by
  unfold State.calMap
  repeat' first
    | with_reducible rfl | simp only [kept_fold, kept_mk] | dsimp only
theorem State.mapHead_kept (s : State) (h : Nat) (f : CalHead → CalHead) :
    (State.mapHead s h f).kept lv = s.kept lv := by
  unfold State.mapHead
  repeat' first
    | with_reducible rfl | simp only [kept_fold, kept_mk, State.calMap_kept] | dsimp only
theorem setCalCommit_kept (s : State) (d : Nat) (v : Option Nat) :
    (setCalCommit s d v).kept lv = s.kept lv := by
  unfold setCalCommit
  repeat' first
    | with_reducible rfl
    | simp only [kept_ite, kept_snd_ite, ite_self, kept_fold, kept_mk, State.calMap_kept, State.put_kept]
    | split | dsimp only
theorem headRecords_kept (s : State) (h k : Nat) :
    (headRecords s h k).2.kept false = s.kept false := by
  unfold headRecords
  repeat' first
    | with_reducible rfl | simp only [kept_fold0, kept_mk0, calRecord_kept]
    | with_reducible refine (kept_of_eq ‹_›).trans ?_ | with_reducible refine (kept_of_eq3 ‹_›).trans ?_ | split
    | dsimp only
theorem putShadow_kept (s : State) (h set_ : Nat) (words : List Nat) :
    (putShadow s h set_ words).kept lv = s.kept lv := by
  unfold putShadow
  repeat' first
    | with_reducible rfl
    | simp only [implies_true, kept_fold, kept_mk, foldl_kept, foldl_snd_kept, State.setLdp_kept]
    | with_reducible refine (foldl_kept _ (fun _ _ => ?_) _ _).trans ?_
    | with_reducible refine (foldl_snd_kept _ (fun _ _ => ?_) _ _).trans ?_ | dsimp only
theorem putAst_kept (s : State) (h : Nat) (words : List Nat) :
    (putAst s h words).kept lv = s.kept lv := by
  unfold putAst
  repeat' first
    | with_reducible rfl
    | simp only [implies_true, kept_fold, kept_mk, foldl_kept, foldl_snd_kept, State.setAst_kept]
    | with_reducible refine (foldl_kept _ (fun _ _ => ?_) _ _).trans ?_
    | with_reducible refine (foldl_snd_kept _ (fun _ _ => ?_) _ _).trans ?_ | dsimp only
theorem computePass_kept (s : State) (h stroke : Nat) :
    (computePass s h stroke).2.kept false = s.kept false := by
  unfold computePass
  repeat' first
    | with_reducible rfl
    | simp only [kept_ite, kept_snd_ite, ite_self, kept_fold0, kept_mk0, State.mapHead_kept, State.drawn_kept, headRecords_kept, memWrite_kept, putAst_kept, putShadow_kept, raise_kept]
    | with_reducible refine (kept_of_eq ‹_›).trans ?_ | with_reducible refine (kept_of_eq3 ‹_›).trans ?_ | split
    | dsimp only
theorem computeTraining_kept (s : State) (h : Nat) :
    (computeTraining s h).2.kept false = s.kept false := by
  unfold computeTraining
  repeat' first
    | with_reducible rfl
    | simp only [implies_true, kept_fold0, kept_mk0, foldl_kept, foldl_snd_kept, State.mapHead_kept, State.put_kept, headRecords_kept, putShadow_kept]
    | with_reducible refine (foldl_kept _ (fun _ _ => ?_) _ _).trans ?_
    | with_reducible refine (foldl_snd_kept _ (fun _ _ => ?_) _ _).trans ?_
    | with_reducible refine (kept_of_eq ‹_›).trans ?_ | with_reducible refine (kept_of_eq3 ‹_›).trans ?_ | split
    | dsimp only
theorem computeHead_kept (s : State) (h stroke : Nat) :
    (computeHead s h stroke).2.kept false = s.kept false := by
  unfold computeHead
  repeat' first
    | with_reducible rfl | simp only [kept_ite, kept_snd_ite, ite_self, computePass_kept, computeTraining_kept]
    | split | dsimp only
theorem commitOar_kept (s : State) (d : Nat) :
    (commitOar s d).kept false = s.kept false := by
  unfold commitOar
  repeat' first
    | with_reducible rfl
    | simp only [implies_true, kept_ite, kept_snd_ite, ite_self, kept_fold0, kept_mk0, foldl_kept, foldl_snd_kept, State.bump_kept, State.mapHead_kept, computeHead_kept, ldpCommit_kept, raise_kept, setCalCommit_kept]
    | with_reducible refine (foldl_kept _ (fun _ _ => ?_) _ _).trans ?_
    | with_reducible refine (foldl_snd_kept _ (fun _ _ => ?_) _ _).trans ?_ | split | dsimp only
theorem headCompare_kept (s : State) (h : Nat) :
    (headCompare s h).kept lv = s.kept lv := by
  unfold headCompare
  repeat' first
    | with_reducible rfl
    | simp only [kept_ite, kept_snd_ite, ite_self, kept_fold, kept_mk, State.mapHead_kept, raiseIf_kept, raise_kept]
    | with_reducible refine (kept_of_eq ‹_›).trans ?_ | with_reducible refine (kept_of_eq3 ‹_›).trans ?_ | split
    | dsimp only
theorem calSample_kept (s : State) :
    (calSample s).kept false = s.kept false := by
  unfold calSample
  repeat' first
    | with_reducible rfl
    | simp only [implies_true, kept_ite, kept_snd_ite, ite_self, foldl_kept, foldl_snd_kept, commitOar_kept, headCompare_kept]
    | with_reducible refine (foldl_kept _ (fun _ _ => ?_) _ _).trans ?_
    | with_reducible refine (foldl_snd_kept _ (fun _ _ => ?_) _ _).trans ?_ | split | dsimp only
theorem headCatch_kept (s : State) (h : Nat) :
    (headCatch s h).kept lv = s.kept lv := by
  unfold headCatch
  repeat' first
    | with_reducible rfl
    | simp only [kept_fold, kept_mk, State.bump_kept, State.mapHead_kept, State.put_kept, raise_kept]
    | with_reducible refine (kept_of_eq ‹_›).trans ?_ | with_reducible refine (kept_of_eq3 ‹_›).trans ?_ | split
    | dsimp only
theorem calOff_kept (s : State) :
    (calOff s).kept lv = s.kept lv := by
  unfold calOff
  repeat' first
    | with_reducible rfl
    | simp only [id_eq, implies_true, kept_ite, kept_snd_ite, ite_self, kept_fold, kept_mk, foldl_kept, foldl_snd_kept, State.calMap_kept, pageOff_kept, raise_kept]
    | split
    | dsimp only
theorem calSettle_kept (s : State) :
    (calSettle s).kept lv = s.kept lv := by
  unfold calSettle
  repeat' first
    | with_reducible rfl
    | simp only [id_eq, implies_true, kept_ite, kept_snd_ite, ite_self, kept_fold, kept_mk, foldl_kept, foldl_snd_kept, calOff_kept]
    | split
    | dsimp only
theorem calDisable_kept (s : State) :
    (calDisable s).kept lv = s.kept lv := by
  unfold calDisable
  repeat' first
    | with_reducible rfl
    | simp only [implies_true, kept_ite, kept_snd_ite, ite_self, kept_fold, kept_mk, foldl_kept, foldl_snd_kept, State.calMap_kept, State.mapHead_kept, calSettle_kept]
    | with_reducible refine (foldl_kept _ (fun _ _ => ?_) _ _).trans ?_
    | with_reducible refine (foldl_snd_kept _ (fun _ _ => ?_) _ _).trans ?_ | split | dsimp only
theorem execRecalPassCatch_kept (oar : Fin 2) (s : State) :
    ∀ t, execRecalPassCatch oar s = .next t → t.kept false = s.kept false := by
  intro t h
  unfold execRecalPassCatch at h
  injection h with h
  subst h
  repeat' first
    | with_reducible rfl
    | simp only [implies_true, kept_ite, kept_snd_ite, ite_self, kept_fold0, kept_mk0, foldl_kept, foldl_snd_kept, calSettle_kept, commitOar_kept, headCatch_kept, setCalCommit_kept]
    | with_reducible refine (foldl_kept _ (fun _ _ => ?_) _ _).trans ?_
    | with_reducible refine (foldl_snd_kept _ (fun _ _ => ?_) _ _).trans ?_
    | with_reducible refine (kept_of_eq ‹_›).trans ?_ | with_reducible refine (kept_of_eq3 ‹_›).trans ?_ | split
    | dsimp only
theorem freezeCheck_kept (s : State) (h : Nat) (failed : Bool) :
    (freezeCheck s h failed).kept lv = s.kept lv := by
  unfold freezeCheck
  repeat' first
    | with_reducible rfl
    | simp only [id_eq, kept_ite, kept_snd_ite, ite_self, kept_fold, kept_mk, State.mapHead_kept, State.put_kept, raise_kept]
    | split | dsimp only
theorem trainReport_kept (s : State) (h : Nat) (grads : List Int) :
    (trainReport s h grads).kept false = s.kept false := by
  unfold trainReport
  repeat' first
    | with_reducible rfl
    | simp only [kept_ite, kept_snd_ite, ite_self, kept_fold0, kept_mk0, State.mapHead_kept, commitOar_kept]
    | split | dsimp only
theorem monitorStep_kept (s : State) (h : Nat) (step : Int) (b : Option Nat) :
    (monitorStep s h step b).kept false = s.kept false := by
  unfold monitorStep
  repeat' first
    | with_reducible rfl
    | simp only [id_eq, implies_true, kept_ite, kept_snd_ite, ite_self, kept_fold0, kept_mk0, foldl_kept, foldl_snd_kept, calTrim_kept, raiseIf_kept, raise_kept]
    | with_reducible refine (kept_of_eq ‹_›).trans ?_
    | with_reducible refine (kept_of_eq3 ‹_›).trans ?_
    | split
    | dsimp only
theorem monitorDecide_kept (s : State) (h : Nat) :
    (monitorDecide s h).kept false = s.kept false := by
  unfold monitorDecide
  repeat' first
    | with_reducible rfl
    | simp only [kept_ite, kept_snd_ite, ite_self, kept_fold0, kept_mk0, State.drawn_kept, monitorStep_kept]
    | with_reducible refine (kept_of_eq ‹_›).trans ?_ | with_reducible refine (kept_of_eq3 ‹_›).trans ?_ | split
    | dsimp only
theorem dfhOf_kept (s : State) (h psa eHi eLo : Nat) :
    (dfhOf s h psa eHi eLo).2.kept lv = s.kept lv := by
  unfold dfhOf
  repeat' first
    | with_reducible rfl | simp only [kept_fold, kept_mk, State.drawn_kept]
    | with_reducible refine (kept_of_eq ‹_›).trans ?_ | with_reducible refine (kept_of_eq3 ‹_›).trans ?_ | split
    | dsimp only
theorem monitorReport_kept (s : State) (h psa eHi eLo gainA gainB : Nat) (verify : Bool) :
    (monitorReport s h psa eHi eLo gainA gainB verify).kept false = s.kept false := by
  unfold monitorReport
  repeat' first
    | with_reducible rfl
    | simp only [kept_ite, kept_snd_ite, ite_self, kept_fold0, kept_mk0, State.mapHead_kept, dfhOf_kept, monitorDecide_kept]
    | split | dsimp only
theorem takeReport_kept (s : State) (r : TrialReport) :
    (takeReport s r).kept false = s.kept false := by
  unfold takeReport
  repeat' first
    | with_reducible rfl
    | simp only [id_eq, implies_true, kept_ite, kept_snd_ite, ite_self, kept_fold0, kept_mk0, foldl_kept, foldl_snd_kept, State.bump_kept, freezeCheck_kept, monitorReport_kept, trainReport_kept]
    | split
    | dsimp only
theorem execTrialReport_kept (ldp : Fin 2) (s : State) :
    ∀ t, execTrialReport ldp s = .next t → t.kept false = s.kept false := by
  intro t h
  unfold execTrialReport at h
  injection h with h
  subst h
  repeat' first
    | with_reducible rfl
    | simp only [id_eq, implies_true, kept_ite, kept_snd_ite, ite_self, kept_fold0, kept_mk0, foldl_kept, foldl_snd_kept, State.bump_kept, State.reply_kept, State.setLdp_kept, raise_kept, takeReport_kept]
    | with_reducible refine (kept_of_eq ‹_›).trans ?_
    | with_reducible refine (kept_of_eq3 ‹_›).trans ?_
    | split
    | dsimp only
theorem deltaClear_kept (w : Word) (s : State) :
    (deltaClear w s).kept lv = s.kept lv := by
  unfold deltaClear
  repeat' first
    | with_reducible rfl
    | simp only [implies_true, kept_fold, kept_mk, foldl_kept, foldl_snd_kept, State.mapHead_kept]
    | with_reducible refine (foldl_kept _ (fun _ _ => ?_) _ _).trans ?_
    | with_reducible refine (foldl_snd_kept _ (fun _ _ => ?_) _ _).trans ?_ | dsimp only
theorem execDeltaClear_kept (q : Req) (w : BitVec 32) (s : State) :
    ∀ t, execDeltaClear q w s = .next t → t.kept lv = s.kept lv := by
  intro t h
  unfold execDeltaClear at h
  injection h with h
  subst h
  repeat' first
    | with_reducible rfl | simp only [implies_true, deltaClear_kept, guarded_kept]
    | with_reducible refine (guarded_ho (fun _ => ?_)).trans ?_ | dsimp only
theorem calWrite_kept (q : Req) (off : Nat) (w : Word) (s : State) :
    (calWrite q off w s).kept lv = s.kept lv := by
  unfold calWrite
  repeat' first
    | with_reducible rfl | simp only [kept_ite, kept_snd_ite, ite_self, deltaClear_kept, plainWrite_kept]
    | split | dsimp only
end Sys2Proof.Machine
end

