-- ==== Sys2Proof/Laws/KeptTcm.lean ====
section
/-! SUPPORT. Frame laws of Machine/Tcm.lean: each operation and command there leaves the fuses and the queue
as they are, and the stores too where the law says so of every level. -/

namespace Sys2Proof.Machine

open Sys2Proof

set_option maxRecDepth 4000
set_option linter.all false

variable {lv : Bool}

theorem State.setTcmWord_kept (s : State) (k : Nat) (v : TcmWord) :
    (State.setTcmWord s k v).kept false = s.kept false := by
  unfold State.setTcmWord
  repeat' first
    | with_reducible rfl | simp only [kept_fold0, kept_mk0] | dsimp only
theorem tcmCorrected_kept (s : State) (k : Nat) :
    (tcmCorrected s k).kept lv = s.kept lv := by
  unfold tcmCorrected
  repeat' first
    | with_reducible rfl
    | simp only [kept_ite, kept_snd_ite, ite_self, State.bump_kept, State.put_kept, raise_kept] | split
    | dsimp only
theorem tcmUncorrectable_kept (s : State) (k : Nat) :
    (tcmUncorrectable s k).kept lv = s.kept lv := by
  unfold tcmUncorrectable
  repeat' first
    | with_reducible rfl | simp only [State.bump_kept, State.put_kept, raise_kept] | dsimp only
theorem tcmReadWord_kept (s : State) (k : Nat) :
    (tcmReadWord s k).2.kept false = s.kept false := by
  unfold tcmReadWord
  repeat' first
    | with_reducible rfl
    | simp only [kept_ite, kept_snd_ite, ite_self, kept_fold0, kept_mk0, State.drawn_kept, State.setTcmWord_kept, tcmCorrected_kept, tcmUncorrectable_kept]
    | split | dsimp only
theorem tcmStore_kept (s : State) (k v : Nat) (poison : Bool) :
    (tcmStore s k v poison).kept false = s.kept false := by
  unfold tcmStore
  repeat' first
    | with_reducible rfl
    | simp only [kept_ite, kept_snd_ite, ite_self, State.put_kept, State.setTcmWord_kept, raise_kept] | split
    | dsimp only
theorem tcmWriteWord_kept (a : Nat) (bs : List Nat) (poison : Bool) (s : State) (k : Nat) :
    (tcmWriteWord a bs poison s k).kept false = s.kept false := by
  unfold tcmWriteWord
  repeat' first
    | with_reducible rfl | simp only [id_eq, kept_ite, kept_snd_ite, ite_self, tcmReadWord_kept, tcmStore_kept]
    | split | dsimp only
theorem tcmWrite_kept (s : State) (a : Nat) (bs : List Nat) (poison : Bool) :
    (tcmWrite s a bs poison).kept false = s.kept false := by
  unfold tcmWrite
  repeat' first
    | with_reducible rfl | simp only [implies_true, foldl_kept, foldl_snd_kept, tcmWriteWord_kept]
    | with_reducible refine (foldl_kept _ (fun _ _ => ?_) _ _).trans ?_
    | with_reducible refine (foldl_snd_kept _ (fun _ _ => ?_) _ _).trans ?_ | dsimp only
theorem tcmReadWords_kept (s : State) (l : List Nat) : (tcmReadWords s l).2.kept false = s.kept false := by
  induction l generalizing s with
  | nil => unfold tcmReadWords; repeat' first
            | with_reducible rfl | simp only [tcmReadWord_kept] | with_reducible refine (kept_of_eq ‹_›).trans ?_
            | with_reducible refine (kept_of_eq3 ‹_›).trans ?_ | split | dsimp only
  | cons x l ih => unfold tcmReadWords; repeat' first
            | with_reducible rfl | simp only [ih, tcmReadWord_kept] | with_reducible refine (kept_of_eq ‹_›).trans ?_
            | with_reducible refine (kept_of_eq3 ‹_›).trans ?_ | split | dsimp only
theorem tcmRead_kept (s : State) (a n : Nat) :
    (tcmRead s a n).2.kept false = s.kept false := by
  unfold tcmRead
  repeat' first
    | with_reducible rfl | simp only [tcmReadWords_kept] | dsimp only
theorem tcmPoison_kept (s : State) (c : Consumer) :
    (tcmPoison s c).kept false = s.kept false := by
  unfold tcmPoison
  repeat' first
    | with_reducible rfl | simp only [kept_fold0, kept_mk0, State.bump_kept, raise_kept]
    | with_reducible refine (kept_of_eq ‹_›).trans ?_ | with_reducible refine (kept_of_eq3 ‹_›).trans ?_ | split
    | dsimp only
theorem execTcmAccess_kept (off : BitVec 22) (n : Nat) (w : Option (BitVec 64)) (e : BitVec 72) (s : State) :
    ∀ t, execTcmAccess off n w e s = .next t → t.kept false = s.kept false := by
  intro t h
  unfold execTcmAccess at h
  injection h with h
  subst h
  repeat' first
    | with_reducible rfl
    | simp only [kept_ite, kept_snd_ite, ite_self, kept_fold0, kept_mk0, State.reply_kept, State.setTcmWord_kept, tcmPoison_kept, tcmRead_kept, tcmWrite_kept]
    | with_reducible refine (kept_of_eq ‹_›).trans ?_ | with_reducible refine (kept_of_eq3 ‹_›).trans ?_ | split
    | dsimp only
theorem tcmClearWrite_kept (q : Req) (w : Word) (s : State) :
    (tcmClearWrite q w s).kept false = s.kept false := by
  unfold tcmClearWrite
  repeat' first
    | with_reducible rfl
    | simp only [kept_ite, kept_snd_ite, ite_self, kept_fold0, kept_mk0, State.put_kept, plainWrite_kept]
    | split | dsimp only
theorem execTcmClearStart_kept (q : Req) (w : BitVec 32) (s : State) :
    ∀ t, execTcmClearStart q w s = .next t → t.kept false = s.kept false := by
  intro t h
  unfold execTcmClearStart at h
  injection h with h
  subst h
  repeat' first
    | with_reducible rfl | simp only [implies_true, guarded_kept, tcmClearWrite_kept]
    | with_reducible refine (guarded_ho (fun _ => ?_)).trans ?_ | dsimp only
theorem execTcmClearComplete_kept (s : State) :
    ∀ t, execTcmClearComplete s = .next t → t.kept lv = s.kept lv := by
  intro t h
  unfold execTcmClearComplete at h
  injection h with h
  subst h
  repeat' first
    | with_reducible rfl | simp only [State.put_kept] | dsimp only
theorem tcmFlipWrite_kept (q : Req) (w : Word) (s : State) :
    (tcmFlipWrite q w s).kept lv = s.kept lv := by
  unfold tcmFlipWrite
  repeat' first
    | with_reducible rfl | simp only [kept_ite, kept_snd_ite, ite_self, State.put_kept, plainWrite_kept] | split
    | dsimp only
theorem execTcmFlipArm_kept (q : Req) (w : BitVec 32) (s : State) :
    ∀ t, execTcmFlipArm q w s = .next t → t.kept lv = s.kept lv := by
  intro t h
  unfold execTcmFlipArm at h
  injection h with h
  subst h
  repeat' first
    | with_reducible rfl | simp only [implies_true, guarded_kept, tcmFlipWrite_kept]
    | with_reducible refine (guarded_ho (fun _ => ?_)).trans ?_ | dsimp only
theorem tcmLoseBank_kept (s : State) (d : Nat) :
    (tcmLoseBank s d).kept false = s.kept false := by
  unfold tcmLoseBank
  repeat' first
    | with_reducible rfl | simp only [kept_fold0, kept_mk0] | dsimp only
theorem tcmRegWrite_kept (q : Req) (off : Nat) (w : Word) (s : State) :
    (tcmRegWrite q off w s).kept false = s.kept false := by
  unfold tcmRegWrite
  repeat' first
    | with_reducible rfl
    | simp only [kept_ite, kept_snd_ite, ite_self, plainWrite_kept, tcmClearWrite_kept, tcmFlipWrite_kept]
    | split | dsimp only
theorem bufGranules_kept (s : State) (l : List Nat) : (bufGranules s l).2.kept false = s.kept false := by
  induction l generalizing s with
  | nil => unfold bufGranules; repeat' first
            | with_reducible rfl | simp only [flushGranule_kept, readGranule_kept]
            | with_reducible refine (kept_of_eq ‹_›).trans ?_ | with_reducible refine (kept_of_eq3 ‹_›).trans ?_ | split
            | dsimp only
  | cons x l ih => unfold bufGranules; repeat' first
            | with_reducible rfl | simp only [ih, flushGranule_kept, readGranule_kept]
            | with_reducible refine (kept_of_eq ‹_›).trans ?_ | with_reducible refine (kept_of_eq3 ‹_›).trans ?_ | split
            | dsimp only
theorem tcmGranules_kept (s : State) (l : List Nat) : (tcmGranules s l).2.kept false = s.kept false := by
  induction l generalizing s with
  | nil => unfold tcmGranules; repeat' first
            | with_reducible rfl | simp only [tcmRead_kept] | with_reducible refine (kept_of_eq ‹_›).trans ?_
            | with_reducible refine (kept_of_eq3 ‹_›).trans ?_ | split | dsimp only
  | cons x l ih => unfold tcmGranules; repeat' first
            | with_reducible rfl | simp only [ih, tcmRead_kept] | with_reducible refine (kept_of_eq ‹_›).trans ?_
            | with_reducible refine (kept_of_eq3 ‹_›).trans ?_ | split | dsimp only
theorem spaceGranules_kept (s : State) (tcm : Bool) (gs : List Nat) :
    (spaceGranules s tcm gs).2.kept false = s.kept false := by
  unfold spaceGranules
  repeat' first
    | with_reducible rfl | simp only [kept_ite, kept_snd_ite, ite_self, bufGranules_kept, tcmGranules_kept]
    | split | dsimp only
theorem spaceRead_kept (s : State) (tcm : Bool) (c : Consumer) (a n : Nat) :
    (spaceRead s tcm c a n).2.kept false = s.kept false := by
  unfold spaceRead
  repeat' first
    | with_reducible rfl
    | simp only [kept_ite, kept_snd_ite, ite_self, memRead_kept, tcmPoison_kept, tcmRead_kept] | split
    | dsimp only
theorem spaceWrite_kept (s : State) (tcm : Bool) (a : Nat) (bs : List Nat) (poison : Bool) :
    (spaceWrite s tcm a bs poison).kept false = s.kept false := by
  unfold spaceWrite
  repeat' first
    | with_reducible rfl | simp only [kept_ite, kept_snd_ite, ite_self, memWrite_kept, tcmWrite_kept] | split
    | dsimp only
theorem spaceWriteAll_kept (s : State) (tcm : Bool) (a : Nat) (l : List (List Nat × Bool)) : (spaceWriteAll s tcm a l).kept false = s.kept false := by
  induction l generalizing s a with
  | nil => unfold spaceWriteAll; repeat' first
            | with_reducible rfl | simp only [spaceWrite_kept] | with_reducible refine (kept_of_eq ‹_›).trans ?_
            | with_reducible refine (kept_of_eq3 ‹_›).trans ?_ | split | dsimp only
  | cons x l ih => unfold spaceWriteAll; repeat' first
            | with_reducible rfl | simp only [ih, spaceWrite_kept] | with_reducible refine (kept_of_eq ‹_›).trans ?_
            | with_reducible refine (kept_of_eq3 ‹_›).trans ?_ | split | dsimp only
end Sys2Proof.Machine
end

