-- ==== Sys2Proof/Laws/KeptRings.lean ====
section
/-! SUPPORT. Frame laws of Machine/Rings.lean: each operation and command there leaves the fuses and the queue
as they are, and the stores too where the law says so of every level. -/

namespace Sys2Proof.Machine

open Sys2Proof

set_option maxRecDepth 4000
set_option linter.all false

variable {lv : Bool}

theorem State.setRing_kept (s : State) (r : Nat) (v : Ring) :
    (State.setRing s r v).kept lv = s.kept lv := by
  unfold State.setRing
  repeat' first
    | with_reducible rfl | simp only [kept_fold, kept_mk] | dsimp only
theorem setPub_kept (s : State) (r v : Nat) :
    (setPub s r v).kept lv = s.kept lv := by
  unfold setPub
  repeat' first
    | with_reducible rfl | simp only [State.put_kept] | dsimp only
theorem ringResetComplete_kept (s : State) (r : Nat) :
    (ringResetComplete s r).kept false = s.kept false := by
  unfold ringResetComplete
  repeat' first
    | with_reducible rfl
    | simp only [implies_true, kept_ite, kept_snd_ite, ite_self, kept_fold0, kept_mk0, foldl_kept, foldl_snd_kept, State.setRing_kept, setPub_kept, spaceWrite_kept]
    | with_reducible refine (foldl_kept _ (fun _ _ => ?_) _ _).trans ?_
    | with_reducible refine (foldl_snd_kept _ (fun _ _ => ?_) _ _).trans ?_ | split | dsimp only
theorem ringsResetComplete_kept (s : State) (d : Nat) :
    (ringsResetComplete s d).kept false = s.kept false := by
  unfold ringsResetComplete
  repeat' first
    | with_reducible rfl
    | simp only [implies_true, kept_ite, kept_snd_ite, ite_self, foldl_kept, foldl_snd_kept, ringResetComplete_kept]
    | with_reducible refine (foldl_kept _ (fun _ _ => ?_) _ _).trans ?_
    | with_reducible refine (foldl_snd_kept _ (fun _ _ => ?_) _ _).trans ?_ | split | dsimp only
theorem doorbellWrite_kept (r : Nat) (w : Word) (s : State) :
    (doorbellWrite r w s).kept lv = s.kept lv := by
  unfold doorbellWrite
  repeat' first
    | with_reducible rfl
    | simp only [kept_ite, kept_snd_ite, ite_self, State.bump_kept, State.put_kept, raise_kept] | split
    | dsimp only
theorem execRingDoorbell_kept (q : Req) (ring : Fin 256) (w : BitVec 32) (s : State) :
    ∀ t, execRingDoorbell q ring w s = .next t → t.kept lv = s.kept lv := by
  intro t h
  unfold execRingDoorbell at h
  injection h with h
  subst h
  repeat' first
    | with_reducible rfl | simp only [implies_true, doorbellWrite_kept, guarded_kept]
    | with_reducible refine (guarded_ho (fun _ => ?_)).trans ?_ | dsimp only
theorem ringFetch_kept (s : State) (r : Nat) :
    (ringFetch s r).kept false = s.kept false := by
  unfold ringFetch
  repeat' first
    | with_reducible rfl
    | simp only [kept_ite, kept_snd_ite, ite_self, kept_fold0, kept_mk0, State.put_kept, State.setRing_kept, raise_kept, ringResetComplete_kept, spaceRead_kept]
    | split | dsimp only
theorem execRingEntryFetch_kept (ring : Fin 256) (s : State) :
    ∀ t, execRingEntryFetch ring s = .next t → t.kept false = s.kept false := by
  intro t h
  unfold execRingEntryFetch at h
  injection h with h
  subst h
  repeat' first
    | with_reducible rfl | simp only [ringFetch_kept] | dsimp only
theorem ringStart_some {s : State} {r c : Nat} {a : Nat × List Nat} {t : State} (h : ringStart s r c = some (a, t)) : t.kept lv = s.kept lv := by
  unfold ringStart at h
  (try dsimp only at h)
  repeat' (first | contradiction | (simp only [Option.map_eq_some_iff] at h; obtain ⟨_, _, h⟩ := h) | split at h)
  all_goals (try cases h)
  all_goals (repeat' first
            | with_reducible rfl
            | simp only [kept_ite, kept_snd_ite, ite_self, kept_fold, kept_mk, State.setRing_kept, setPub_kept]
            | with_reducible refine (kept_of_eq ‹_›).trans ?_ | with_reducible refine (kept_of_eq3 ‹_›).trans ?_ | split
            | dsimp only)
theorem ringDone_kept (s : State) (r : Nat) (d : RingDone) :
    (ringDone s r d).kept lv = s.kept lv := by
  unfold ringDone
  repeat' first
    | with_reducible rfl | simp only [kept_fold, kept_mk, State.setRing_kept] | dsimp only
theorem ringPut_some {s : State} {r : Nat} {bs : List Nat} {t : State} (h : ringPut s r bs = some t) : t.kept false = s.kept false := by
  unfold ringPut at h
  (try dsimp only at h)
  repeat' (first | contradiction | (simp only [Option.map_eq_some_iff] at h; obtain ⟨_, _, h⟩ := h) | split at h)
  all_goals (try cases h)
  all_goals (repeat' first
            | with_reducible rfl | simp only [kept_ite, kept_snd_ite, ite_self, setPub_kept, spaceWrite_kept] | split
            | dsimp only)
theorem ringWriteBack_kept (s : State) (r : Nat) (d : RingDone) :
    (ringWriteBack s r d).kept false = s.kept false := by
  unfold ringWriteBack
  repeat' first
    | with_reducible rfl
    | simp only [implies_true, kept_fold0, kept_mk0, foldl_kept, foldl_snd_kept, State.setRing_kept, spaceWrite_kept]
    | with_reducible refine (foldl_kept _ (fun _ _ => ?_) _ _).trans ?_
    | with_reducible refine (foldl_snd_kept _ (fun _ _ => ?_) _ _).trans ?_ | dsimp only
theorem ringCfgWrite_kept (w : Word) (s : State) :
    (ringCfgWrite w s).kept lv = s.kept lv := by
  unfold ringCfgWrite
  repeat' first
    | with_reducible rfl
    | simp only [kept_ite, kept_snd_ite, ite_self, kept_fold, kept_mk, State.bump_kept, State.setRing_kept]
    | split | dsimp only
theorem execRingDisable_kept (q : Req) (w : BitVec 32) (s : State) :
    ∀ t, execRingDisable q w s = .next t → t.kept lv = s.kept lv := by
  intro t h
  unfold execRingDisable at h
  injection h with h
  subst h
  repeat' first
    | with_reducible rfl | simp only [implies_true, guarded_kept, ringCfgWrite_kept]
    | with_reducible refine (guarded_ho (fun _ => ?_)).trans ?_ | dsimp only
theorem execRingEnable_kept (q : Req) (w : BitVec 32) (s : State) :
    ∀ t, execRingEnable q w s = .next t → t.kept lv = s.kept lv := by
  intro t h
  unfold execRingEnable at h
  injection h with h
  subst h
  repeat' first
    | with_reducible rfl | simp only [implies_true, guarded_kept, ringCfgWrite_kept]
    | with_reducible refine (guarded_ho (fun _ => ?_)).trans ?_ | dsimp only
theorem execRingDrainComplete_kept (ring : Fin 256) (s : State) :
    ∀ t, execRingDrainComplete ring s = .next t → t.kept lv = s.kept lv := by
  intro t h
  unfold execRingDrainComplete at h
  injection h with h
  subst h
  repeat' first
    | with_reducible rfl
    | simp only [kept_ite, kept_snd_ite, ite_self, kept_fold, kept_mk, State.setRing_kept, raise_kept] | split
    | dsimp only
theorem ringCmdWrite_kept (w : Word) (s : State) :
    (ringCmdWrite w s).kept false = s.kept false := by
  unfold ringCmdWrite
  repeat' first
    | with_reducible rfl
    | simp only [kept_ite, kept_snd_ite, ite_self, kept_fold0, kept_mk0, State.setRing_kept, ringFetch_kept]
    | split | dsimp only
theorem execRingResume_kept (q : Req) (w : BitVec 32) (s : State) :
    ∀ t, execRingResume q w s = .next t → t.kept false = s.kept false := by
  intro t h
  unfold execRingResume at h
  injection h with h
  subst h
  repeat' first
    | with_reducible rfl | simp only [implies_true, guarded_kept, ringCmdWrite_kept]
    | with_reducible refine (guarded_ho (fun _ => ?_)).trans ?_ | dsimp only
theorem copyRun_kept (s : State) (e : List Nat) :
    (copyRun s e).2.2.kept false = s.kept false := by
  unfold copyRun
  repeat' first
    | with_reducible rfl
    | simp only [kept_ite, kept_snd_ite, ite_self, spaceGranules_kept, spaceWriteAll_kept, spaceWrite_kept]
    | split | dsimp only
theorem copyServe_kept (s : State) (r : Nat) (mine : Nat → Bool) :
    (copyServe s r mine).kept false = s.kept false := by
  unfold copyServe
  repeat' first
    | with_reducible rfl
    | simp only [kept_ite, kept_snd_ite, ite_self, kept_fold0, kept_mk0, copyRun_kept, ringDone_kept]
    | with_reducible refine (ringStart_some ‹_›).trans ?_ | with_reducible refine (kept_of_eq ‹_›).trans ?_
    | with_reducible refine (kept_of_eq3 ‹_›).trans ?_ | split | dsimp only
theorem execCopyCopy_kept (ring : Fin 256) (s : State) :
    ∀ t, execCopyCopy ring s = .next t → t.kept false = s.kept false := by
  intro t h
  unfold execCopyCopy at h
  injection h with h
  subst h
  repeat' first
    | with_reducible rfl | simp only [copyServe_kept] | dsimp only
theorem execCopyFill_kept (ring : Fin 256) (s : State) :
    ∀ t, execCopyFill ring s = .next t → t.kept false = s.kept false := by
  intro t h
  unfold execCopyFill at h
  injection h with h
  subst h
  repeat' first
    | with_reducible rfl | simp only [copyServe_kept] | dsimp only
theorem execCopyCrc_kept (ring : Fin 256) (s : State) :
    ∀ t, execCopyCrc ring s = .next t → t.kept false = s.kept false := by
  intro t h
  unfold execCopyCrc at h
  injection h with h
  subst h
  repeat' first
    | with_reducible rfl | simp only [copyServe_kept] | dsimp only
theorem ringBaseWrite_kept (w : Word) (s : State) :
    (ringBaseWrite w s).kept lv = s.kept lv := by
  unfold ringBaseWrite
  repeat' first
    | with_reducible rfl | simp only [kept_ite, kept_snd_ite, ite_self, kept_fold, kept_mk, State.setRing_kept]
    | split | dsimp only
theorem wrkWrite_kept (q : Req) (off : Nat) (w : Word) (s : State) :
    (wrkWrite q off w s).kept false = s.kept false := by
  unfold wrkWrite
  repeat' first
    | with_reducible rfl
    | simp only [kept_ite, kept_snd_ite, ite_self, doorbellWrite_kept, plainWrite_kept, ringBaseWrite_kept, ringCfgWrite_kept, ringCmdWrite_kept]
    | split | dsimp only
end Sys2Proof.Machine
end

