-- ==== Sys2Proof/Laws/KeptWeave.lean ====
section
/-! SUPPORT. Frame laws of Machine/Weave.lean: each operation and command there leaves the fuses and the queue
as they are, and the stores too where the law says so of every level. -/

namespace Sys2Proof.Machine

open Sys2Proof

set_option maxRecDepth 4000
set_option linter.all false

variable {lv : Bool}

theorem readStrands_kept (e : List Nat) (i inj : Nat) (l : List Nat) (s : State) : (readStrands e i inj l s).2.kept false = s.kept false := by
  induction l generalizing s with
  | nil => unfold readStrands; repeat' first
            | with_reducible rfl | simp only [memRead_kept] | with_reducible refine (kept_of_eq ‹_›).trans ?_
            | with_reducible refine (kept_of_eq3 ‹_›).trans ?_ | split | dsimp only
  | cons x l ih => unfold readStrands; repeat' first
            | with_reducible rfl | simp only [ih, memRead_kept] | with_reducible refine (kept_of_eq ‹_›).trans ?_
            | with_reducible refine (kept_of_eq3 ‹_›).trans ?_ | split | dsimp only
theorem writeStrand_kept (e : List Nat) (i : Nat) (s : State) (w : Nat) (v : Option (List Nat)) :
    (writeStrand e i s w v).kept false = s.kept false := by
  unfold writeStrand
  repeat' first
    | with_reducible rfl | simp only [memWrite_kept] | dsimp only
theorem wevPosition_kept (e : List Nat) (inj i : Nat) (o : WevOut) (s : State) :
    (wevPosition e inj i o s).2.kept false = s.kept false := by
  unfold wevPosition
  repeat' first
    | with_reducible rfl
    | simp only [implies_true, kept_ite, kept_snd_ite, ite_self, kept_fold0, kept_mk0, foldl_kept, foldl_snd_kept, readStrands_kept, writeStrand_kept]
    | with_reducible refine (foldl_kept _ (fun _ _ => ?_) _ _).trans ?_
    | with_reducible refine (foldl_snd_kept _ (fun _ _ => ?_) _ _).trans ?_
    | with_reducible refine (kept_of_eq ‹_›).trans ?_ | with_reducible refine (kept_of_eq3 ‹_›).trans ?_ | split
    | dsimp only
theorem wevPositions_kept (e : List Nat) (inj f i : Nat) (o : WevOut) (s : State) : (wevPositions e inj f i o s).2.kept false = s.kept false := by
  induction f generalizing i o s with
  | zero => unfold wevPositions; repeat' first
            | with_reducible rfl | simp only [wevPosition_kept] | with_reducible refine (kept_of_eq ‹_›).trans ?_
            | with_reducible refine (kept_of_eq3 ‹_›).trans ?_ | split | dsimp only
  | succ n ih => unfold wevPositions; repeat' first
            | with_reducible rfl | simp only [ih, wevPosition_kept] | with_reducible refine (kept_of_eq ‹_›).trans ?_
            | with_reducible refine (kept_of_eq3 ‹_›).trans ?_ | split | dsimp only
theorem wevRun_kept (s : State) (e : List Nat) :
    (wevRun s e).2.2.kept false = s.kept false := by
  unfold wevRun
  repeat' first
    | with_reducible rfl
    | simp only [kept_ite, kept_snd_ite, ite_self, State.bump_kept, State.put_kept, wevPositions_kept] | split
    | dsimp only
theorem wevCount_kept (s : State) (e : List Nat) (st poisoned : Nat) :
    (wevCount s e st poisoned).kept lv = s.kept lv := by
  unfold wevCount
  repeat' first
    | with_reducible rfl
    | simp only [kept_ite, kept_snd_ite, ite_self, kept_fold, kept_mk, State.bump_kept, State.put_kept, raiseIf_kept, raise_kept]
    | with_reducible refine (kept_of_eq ‹_›).trans ?_ | with_reducible refine (kept_of_eq3 ‹_›).trans ?_ | split
    | dsimp only
theorem wevIdle_kept (s : State) :
    (wevIdle s).kept lv = s.kept lv := by
  unfold wevIdle
  repeat' first
    | with_reducible rfl | simp only [kept_fold, kept_mk, State.put_kept] | dsimp only
theorem wevOff_kept (s : State) :
    (wevOff s).kept lv = s.kept lv := by
  unfold wevOff
  repeat' first
    | with_reducible rfl | simp only [kept_fold, kept_mk, raise_kept, setPageState_kept] | dsimp only
theorem wevDisable_kept (s : State) :
    (wevDisable s).kept lv = s.kept lv := by
  unfold wevDisable
  repeat' first
    | with_reducible rfl | simp only [kept_ite, kept_snd_ite, ite_self, kept_fold, kept_mk, wevOff_kept] | split
    | dsimp only
theorem wevServe_kept (s : State) (mine : Nat → Bool) :
    (wevServe s mine).kept false = s.kept false := by
  unfold wevServe
  repeat' first
    | with_reducible rfl
    | simp only [kept_ite, kept_snd_ite, ite_self, kept_fold0, kept_mk0, State.put_kept, State.drawn_kept, ringDone_kept, wevRun_kept]
    | with_reducible refine (ringStart_some ‹_›).trans ?_ | with_reducible refine (kept_of_eq ‹_›).trans ?_
    | with_reducible refine (kept_of_eq3 ‹_›).trans ?_ | split | dsimp only
theorem execWevEncode_kept (s : State) :
    ∀ t, execWevEncode s = .next t → t.kept false = s.kept false := by
  intro t h
  unfold execWevEncode at h
  injection h with h
  subst h
  repeat' first
    | with_reducible rfl | simp only [wevServe_kept] | dsimp only
theorem execWevAccum_kept (s : State) :
    ∀ t, execWevAccum s = .next t → t.kept false = s.kept false := by
  intro t h
  unfold execWevAccum at h
  injection h with h
  subst h
  repeat' first
    | with_reducible rfl | simp only [wevServe_kept] | dsimp only
theorem execWevVerify_kept (s : State) :
    ∀ t, execWevVerify s = .next t → t.kept false = s.kept false := by
  intro t h
  unfold execWevVerify at h
  injection h with h
  subst h
  repeat' first
    | with_reducible rfl | simp only [wevServe_kept] | dsimp only
theorem wevSpoil_kept (s : State) (e : List Nat) :
    (wevSpoil s e).kept false = s.kept false := by
  unfold wevSpoil
  repeat' first
    | with_reducible rfl
    | simp only [implies_true, kept_ite, kept_snd_ite, ite_self, foldl_kept, foldl_snd_kept, writeStrand_kept]
    | with_reducible refine (foldl_kept _ (fun _ _ => ?_) _ _).trans ?_
    | with_reducible refine (foldl_snd_kept _ (fun _ _ => ?_) _ _).trans ?_ | split | dsimp only
theorem execWevParityFault_kept (s : State) :
    ∀ t, execWevParityFault s = .next t → t.kept false = s.kept false := by
  intro t h
  unfold execWevParityFault at h
  injection h with h
  subst h
  repeat' first
    | with_reducible rfl
    | simp only [kept_ite, kept_snd_ite, ite_self, kept_fold0, kept_mk0, State.bump_kept, State.setRing_kept, pageFault_kept, wevSpoil_kept]
    | with_reducible refine (kept_of_eq ‹_›).trans ?_ | with_reducible refine (kept_of_eq3 ‹_›).trans ?_ | split
    | dsimp only
theorem eraseInjWrite_kept (q : Req) (w : Word) (s : State) :
    (eraseInjWrite q w s).kept lv = s.kept lv := by
  unfold eraseInjWrite
  repeat' first
    | with_reducible rfl | simp only [kept_ite, kept_snd_ite, ite_self, State.put_kept, plainWrite_kept] | split
    | dsimp only
theorem execEraseInjArm_kept (q : Req) (w : BitVec 32) (s : State) :
    ∀ t, execEraseInjArm q w s = .next t → t.kept lv = s.kept lv := by
  intro t h
  unfold execEraseInjArm at h
  injection h with h
  subst h
  repeat' first
    | with_reducible rfl | simp only [implies_true, eraseInjWrite_kept, guarded_kept]
    | with_reducible refine (guarded_ho (fun _ => ?_)).trans ?_ | dsimp only
theorem wevWrite_kept (q : Req) (off : Nat) (w : Word) (s : State) :
    (wevWrite q off w s).kept lv = s.kept lv := by
  unfold wevWrite
  repeat' first
    | with_reducible rfl | simp only [kept_ite, kept_snd_ite, ite_self, eraseInjWrite_kept, plainWrite_kept]
    | split | dsimp only
theorem engineCompleted_kept (s : State) (c : Nat) (d : RingDone) :
    (engineCompleted s c d).kept lv = s.kept lv := by
  unfold engineCompleted
  repeat' first
    | with_reducible rfl
    | simp only [kept_ite, kept_snd_ite, ite_self, kept_fold, kept_mk, raiseIf_kept, wevCount_kept, wevIdle_kept, wevOff_kept]
    | split | dsimp only
theorem execRingCompletion_kept (ring : Fin 256) (s : State) :
    ∀ t, execRingCompletion ring s = .next t → t.kept false = s.kept false := by
  intro t h
  unfold execRingCompletion at h
  injection h with h
  subst h
  repeat' first
    | with_reducible rfl
    | simp only [kept_ite, kept_snd_ite, ite_self, kept_fold0, kept_mk0, engineCompleted_kept, ringWriteBack_kept]
    | with_reducible refine (kept_of_eq ‹_›).trans ?_ | with_reducible refine (kept_of_eq3 ‹_›).trans ?_ | split
    | dsimp only
end Sys2Proof.Machine
end

