-- ==== Sys2Proof/Laws/KeptHost.lean ====
section
/-! SUPPORT. Frame laws of Machine/Host.lean: each operation and command there leaves the fuses and the queue
as they are, and the stores too where the law says so of every level. -/

namespace Sys2Proof.Machine

open Sys2Proof

set_option maxRecDepth 4000
set_option linter.all false

variable {lv : Bool}

theorem State.setSlot_kept (s : State) (k : Nat) (v : Slot) :
    (State.setSlot s k v).kept lv = s.kept lv := by
  unfold State.setSlot
  repeat' first
    | with_reducible rfl | simp only [kept_fold, kept_mk] | dsimp only
theorem State.setCtl_kept (s : State) (n : Nat) (v : Ctl) :
    (State.setCtl s n v).kept lv = s.kept lv := by
  unfold State.setCtl
  repeat' first
    | with_reducible rfl | simp only [kept_fold, kept_mk] | dsimp only
theorem countMoved_kept (s : State) (port : Nat) (write : Bool) (n : Nat) :
    (countMoved s port write n).kept lv = s.kept lv := by
  unfold countMoved
  repeat' first
    | with_reducible rfl
    | simp only [id_eq, implies_true, kept_ite, kept_snd_ite, ite_self, kept_fold, kept_mk, foldl_kept, foldl_snd_kept, State.bump_kept]
    | split
    | dsimp only
theorem acceptCqe_kept (s : State) (k : Nat) (status : CplStatus) (dw0 dw1 : Nat) :
    (acceptCqe s k status dw0 dw1).kept lv = s.kept lv := by
  unfold acceptCqe
  repeat' first
    | with_reducible rfl
    | simp only [kept_ite, kept_snd_ite, ite_self, kept_fold, kept_mk, State.setCtl_kept, State.setSlot_kept]
    | with_reducible refine (kept_of_eq ‹_›).trans ?_ | with_reducible refine (kept_of_eq3 ‹_›).trans ?_ | split
    | dsimp only
theorem endCmd_kept (s : State) (k : Nat) (st : HostStatus) (dw0 dw1 : Nat) :
    (endCmd s k st dw0 dw1).kept lv = s.kept lv := by
  unfold endCmd
  repeat' first
    | with_reducible rfl | simp only [acceptCqe_kept] | dsimp only
theorem asyncEvent_kept (s : State) (n : Nat) (e : HostEvent) :
    (asyncEvent s n e).kept lv = s.kept lv := by
  unfold asyncEvent
  repeat' first
    | with_reducible rfl
    | simp only [kept_ite, kept_snd_ite, ite_self, kept_fold, kept_mk, State.setCtl_kept, endCmd_kept]
    | with_reducible refine (kept_of_eq ‹_›).trans ?_ | with_reducible refine (kept_of_eq3 ‹_›).trans ?_ | split
    | dsimp only
theorem reportWaiting_kept (s : State) (n : Nat) :
    (reportWaiting s n).kept lv = s.kept lv := by
  unfold reportWaiting
  repeat' first
    | with_reducible rfl
    | simp only [id_eq, implies_true, kept_ite, kept_snd_ite, ite_self, kept_fold, kept_mk, foldl_kept, foldl_snd_kept, State.setCtl_kept, asyncEvent_kept]
    | with_reducible refine (kept_of_eq ‹_›).trans ?_
    | with_reducible refine (kept_of_eq3 ‹_›).trans ?_
    | split
    | dsimp only
theorem asyncBoth_kept (s : State) (e : HostEvent) :
    (asyncBoth s e).kept lv = s.kept lv := by
  unfold asyncBoth
  repeat' first
    | with_reducible rfl | simp only [asyncEvent_kept] | dsimp only
theorem doorbellRefused_kept (s : State) (n : Nat) (reg : Bool) :
    (doorbellRefused s n reg).kept lv = s.kept lv := by
  unfold doorbellRefused
  repeat' first
    | with_reducible rfl
    | simp only [kept_ite, kept_snd_ite, ite_self, State.bump_kept, asyncEvent_kept, raise_kept] | split
    | dsimp only
theorem execSqTailDoorbell_kept (ctrl : Fin 2) (queue : Fin 2048) (value : BitVec 32) (s : State) :
    ∀ t, execSqTailDoorbell ctrl queue value s = .next t → t.kept lv = s.kept lv := by
  intro t h
  unfold execSqTailDoorbell at h
  injection h with h
  subst h
  repeat' first
    | with_reducible rfl
    | simp only [kept_ite, kept_snd_ite, ite_self, kept_fold, kept_mk, State.setCtl_kept, doorbellRefused_kept]
    | with_reducible refine (kept_of_eq ‹_›).trans ?_ | with_reducible refine (kept_of_eq3 ‹_›).trans ?_ | split
    | dsimp only
theorem execCqHeadDoorbell_kept (ctrl : Fin 2) (queue : Fin 2048) (value : BitVec 32) (s : State) :
    ∀ t, execCqHeadDoorbell ctrl queue value s = .next t → t.kept lv = s.kept lv := by
  intro t h
  unfold execCqHeadDoorbell at h
  injection h with h
  subst h
  repeat' first
    | with_reducible rfl
    | simp only [kept_ite, kept_snd_ite, ite_self, kept_fold, kept_mk, State.setCtl_kept, doorbellRefused_kept]
    | with_reducible refine (kept_of_eq ‹_›).trans ?_ | with_reducible refine (kept_of_eq3 ‹_›).trans ?_ | split
    | dsimp only
theorem fetchOne_some {s : State} {n y : Nat} {e : List Nat} {t : State} (h : fetchOne s n y e = some t) : t.kept false = s.kept false := by
  unfold fetchOne at h
  split at h
  · rename_i q k _ _
    extract_lets cid op gen conflict slot taken at h
    have tk : ∀ s, (taken s).kept false = s.kept false := fun s => by
      simp only [taken, countMoved_kept, State.bump_kept, State.setSlot_kept, State.setCtl_kept]
    clear_value taken
    split at h
    · cases h; simp only [raise_kept, endCmd_kept, State.bump_kept, tk]
    · split at h
      · cases h
      · obtain ⟨x, hx, h⟩ := Option.map_eq_some_iff.1 h
        subst h
        refine Eq.trans ?_ (ringPut_some hx)
        simp only [kept_ite, endCmd_kept, tk, ite_self]
  · cases h
theorem fetchRunOf_kept (n y : Nat) (l : List (List Nat)) (a : Nat × State) :
    (fetchRunOf n y l a).2.kept false = a.2.kept false := by
  induction l generalizing a with
  | nil => unfold fetchRunOf; rfl
  | cons x l ih => obtain ⟨c, s⟩ := a; unfold fetchRunOf; repeat' first
            | with_reducible rfl | simp only [kept_fold0, kept_mk0, ih]
            | with_reducible refine (fetchOne_some ‹_›).trans ?_ | with_reducible refine (kept_of_eq ‹_›).trans ?_
            | with_reducible refine (kept_of_eq3 ‹_›).trans ?_ | split | dsimp only
theorem countStall_kept (s : State) (n : Nat) :
    (countStall s n).kept lv = s.kept lv := by
  unfold countStall
  repeat' first
    | with_reducible rfl | simp only [kept_ite, kept_snd_ite, ite_self, State.bump_kept, raise_kept] | split
    | dsimp only
theorem fetchFrom_kept (s : State) (n : Nat) (entries : List (List Nat)) :
    (fetchFrom s n entries).kept false = s.kept false := by
  unfold fetchFrom
  repeat' first
    | with_reducible rfl
    | simp only [id_eq, implies_true, kept_ite, kept_snd_ite, ite_self, kept_fold0, kept_mk0, foldl_kept, foldl_snd_kept, State.setCtl_kept, fetchRunOf_kept]
    | with_reducible refine (kept_of_eq ‹_›).trans ?_
    | with_reducible refine (kept_of_eq3 ‹_›).trans ?_
    | split
    | dsimp only
theorem execCommandFetch_kept (entries : List (List Byte)) (s : State) :
    ∀ t, execCommandFetch entries s = .next t → t.kept false = s.kept false := by
  intro t h
  unfold execCommandFetch at h
  injection h with h
  subst h
  repeat' first
    | with_reducible rfl
    | simp only [id_eq, implies_true, kept_ite, kept_snd_ite, ite_self, kept_fold0, kept_mk0, foldl_kept, foldl_snd_kept, countStall_kept, fetchFrom_kept]
    | split
    | dsimp only
theorem outServe_ho {s : State} {n : Nat} {mine : Nat → Bool} {f : State → List Nat → Nat → Option State}
    (hf : ∀ (a0 : State) (a1 : List Nat) (a2 : Nat) (t : State), f a0 a1 a2 = some t → t.kept lv = a0.kept lv) :
    (outServe s n mine f).kept lv = s.kept lv := by
  unfold outServe
  dsimp only
  repeat' split
  all_goals first | with_reducible rfl | simp only [raise_kept, ringDone_kept]
  · rename_i h
    obtain ⟨_, _, h⟩ := Option.bind_eq_some_iff.1 h
    rw [hf _ _ _ _ h]
    exact ringStart_some ‹_›
  · exact ringStart_some ‹_›
theorem execOutStart_kept (c : Fin 2) (s t : State) (h : execOutStart c s = .next t) : t.kept lv = s.kept lv := by
  cases h
  refine outServe_ho fun s _ k t h => ?_
  cases h
  split <;> simp only [State.setSlot_kept]
theorem execOutComplete_kept (c : Fin 2) (s t : State) (h : execOutComplete c s = .next t) : t.kept lv = s.kept lv := by
  cases h
  refine outServe_ho fun s _ k t h => ?_
  split at h <;> cases h
  repeat' first
            | with_reducible rfl | simp only [implies_true, kept_ite, kept_snd_ite, ite_self, acceptCqe_kept]
            | with_reducible refine (outServe_ho (fun _ _ _ _ _ => ?_)).trans ?_ | split | dsimp only
theorem settleDeletes_kept (s : State) (n : Nat) :
    (settleDeletes s n).kept lv = s.kept lv := by
  unfold settleDeletes
  repeat' first
    | with_reducible rfl
    | simp only [implies_true, kept_ite, kept_snd_ite, ite_self, kept_fold, kept_mk, foldl_kept, foldl_snd_kept, State.setCtl_kept, endCmd_kept]
    | with_reducible refine (foldl_kept _ (fun _ _ => ?_) _ _).trans ?_
    | with_reducible refine (foldl_snd_kept _ (fun _ _ => ?_) _ _).trans ?_
    | with_reducible refine (kept_of_eq ‹_›).trans ?_ | with_reducible refine (kept_of_eq3 ‹_›).trans ?_ | split
    | dsimp only
theorem settleShutdown_kept (s : State) (n : Nat) :
    (settleShutdown s n).kept lv = s.kept lv := by
  unfold settleShutdown
  repeat' first
    | with_reducible rfl | simp only [kept_ite, kept_snd_ite, ite_self, State.put_kept] | split | dsimp only
theorem answerAborts_kept (s : State) (n k : Nat) :
    (answerAborts s n k).kept lv = s.kept lv := by
  unfold answerAborts
  repeat' first
    | with_reducible rfl
    | simp only [implies_true, kept_fold, kept_mk, foldl_kept, foldl_snd_kept, State.setCtl_kept, endCmd_kept]
    | with_reducible refine (foldl_kept _ (fun _ _ => ?_) _ _).trans ?_
    | with_reducible refine (foldl_snd_kept _ (fun _ _ => ?_) _ _).trans ?_ | dsimp only
theorem postEntry_kept (s : State) (n y : Nat) :
    (postEntry s n y).kept lv = s.kept lv := by
  unfold postEntry
  repeat' first
    | with_reducible rfl
    | simp only [id_eq, implies_true, kept_ite, kept_snd_ite, ite_self, kept_fold, kept_mk, foldl_kept, foldl_snd_kept, State.setCtl_kept, State.setSlot_kept, answerAborts_kept, countMoved_kept, settleDeletes_kept, settleShutdown_kept]
    | with_reducible refine (kept_of_eq ‹_›).trans ?_
    | with_reducible refine (kept_of_eq3 ‹_›).trans ?_
    | split
    | dsimp only
theorem execCqFullTimeout_kept (ctrl : Fin 2) (queue : Fin 2048) (s : State) :
    ∀ t, execCqFullTimeout ctrl queue s = .next t → t.kept lv = s.kept lv := by
  intro t h
  unfold execCqFullTimeout at h
  injection h with h
  subst h
  repeat' first
    | with_reducible rfl
    | simp only [kept_ite, kept_snd_ite, ite_self, kept_fold, kept_mk, State.bump_kept, State.setCtl_kept, raise_kept]
    | with_reducible refine (kept_of_eq ‹_›).trans ?_ | with_reducible refine (kept_of_eq3 ‹_›).trans ?_ | split
    | dsimp only
theorem execInterruptCoalesceTimeout_kept (ctrl : Fin 2) (queue : Fin 2048) (s : State) :
    ∀ t, execInterruptCoalesceTimeout ctrl queue s = .next t → t.kept lv = s.kept lv := by
  intro t h
  unfold execInterruptCoalesceTimeout at h
  injection h with h
  subst h
  repeat' first
    | with_reducible rfl
    | simp only [kept_ite, kept_snd_ite, ite_self, kept_fold, kept_mk, State.reply_kept, State.setCtl_kept]
    | with_reducible refine (kept_of_eq ‹_›).trans ?_ | with_reducible refine (kept_of_eq3 ‹_›).trans ?_ | split
    | dsimp only
theorem execMsixVectorUnmask_kept (ctrl : Fin 2) (vector : Fin 2048) (s : State) :
    ∀ t, execMsixVectorUnmask ctrl vector s = .next t → t.kept lv = s.kept lv := by
  intro t h
  unfold execMsixVectorUnmask at h
  injection h with h
  subst h
  repeat' first
    | with_reducible rfl
    | simp only [kept_ite, kept_snd_ite, ite_self, kept_fold, kept_mk, State.reply_kept, State.setCtl_kept]
    | split | dsimp only
theorem settleEnable_kept (s : State) (n : Nat) :
    (settleEnable s n).kept lv = s.kept lv := by
  unfold settleEnable
  repeat' first
    | with_reducible rfl
    | simp only [id_eq, implies_true, kept_ite, kept_snd_ite, ite_self, kept_fold, kept_mk, foldl_kept, foldl_snd_kept, State.put_kept, State.setCtl_kept]
    | with_reducible refine (kept_of_eq ‹_›).trans ?_
    | with_reducible refine (kept_of_eq3 ‹_›).trans ?_
    | split
    | dsimp only
theorem execControllerEnable_kept (ctrl : Fin 2) (ams : BitVec 2) (mps : Fin 5) (css : BitVec 3) (asq acq : Nat) (irq : IrqMode) (mask : BitVec 32) (vectors : Nat) (s : State) :
    ∀ t, execControllerEnable ctrl ams mps css asq acq irq mask vectors s = .next t → t.kept lv = s.kept lv := by
  intro t h
  unfold execControllerEnable at h
  injection h with h
  subst h
  repeat' first
    | with_reducible rfl
    | simp only [id_eq, implies_true, kept_ite, kept_snd_ite, ite_self, kept_fold, kept_mk, foldl_kept, foldl_snd_kept, State.put_kept, State.reply_kept, State.setCtl_kept, raise_kept, settleEnable_kept]
    | split
    | dsimp only
theorem execShutdownNotify_kept (ctrl : Fin 2) (s : State) :
    ∀ t, execShutdownNotify ctrl s = .next t → t.kept lv = s.kept lv := by
  intro t h
  unfold execShutdownNotify at h
  injection h with h
  subst h
  repeat' first
    | with_reducible rfl
    | simp only [kept_ite, kept_snd_ite, ite_self, State.put_kept, raise_kept, settleShutdown_kept] | split
    | dsimp only
theorem onAdmin_kept (s : State) (k : Nat) (f : State → Nat → State) (hf : ∀ (a0 : State) (a1 : Nat), (f a0 a1).kept lv = a0.kept lv) :
    (onAdmin s k f).kept lv = s.kept lv := by
  unfold onAdmin
  repeat' first
    | with_reducible rfl | simp only [kept_ite, kept_snd_ite, ite_self, hf] | split | dsimp only
theorem onAdmin_ho {s : State} {k : Nat} {f : State → Nat → State} (hf : ∀ (a0 : State) (a1 : Nat), (f a0 a1).kept lv = a0.kept lv) :
    (onAdmin s k f).kept lv = s.kept lv := onAdmin_kept s k f hf
theorem execCreateIoCq_kept (slot : Fin 4096) (qid qsize : BitVec 16) (pc ien : Bool) (iv : BitVec 16) (prp1 : BitVec 64) (s : State) :
    ∀ t, execCreateIoCq slot qid qsize pc ien iv prp1 s = .next t → t.kept lv = s.kept lv := by
  intro t h
  unfold execCreateIoCq at h
  injection h with h
  subst h
  repeat' first
    | with_reducible rfl
    | simp only [id_eq, implies_true, kept_ite, kept_snd_ite, ite_self, kept_fold, kept_mk, foldl_kept, foldl_snd_kept, State.setCtl_kept, endCmd_kept, onAdmin_kept]
    | with_reducible refine (onAdmin_ho (fun _ _ => ?_)).trans ?_
    | split
    | dsimp only
theorem execCreateIoSq_kept (slot : Fin 4096) (qid qsize : BitVec 16) (pc : Bool) (prio : Fin 4) (cqid : BitVec 16) (prp1 : BitVec 64) (s : State) :
    ∀ t, execCreateIoSq slot qid qsize pc prio cqid prp1 s = .next t → t.kept lv = s.kept lv := by
  intro t h
  unfold execCreateIoSq at h
  injection h with h
  subst h
  repeat' first
    | with_reducible rfl
    | simp only [id_eq, implies_true, kept_ite, kept_snd_ite, ite_self, kept_fold, kept_mk, foldl_kept, foldl_snd_kept, State.setCtl_kept, endCmd_kept, onAdmin_kept]
    | with_reducible refine (onAdmin_ho (fun _ _ => ?_)).trans ?_
    | split
    | dsimp only
theorem execDeleteIoCq_kept (slot : Fin 4096) (qid : BitVec 16) (s : State) :
    ∀ t, execDeleteIoCq slot qid s = .next t → t.kept lv = s.kept lv := by
  intro t h
  unfold execDeleteIoCq at h
  injection h with h
  subst h
  repeat' first
    | with_reducible rfl
    | simp only [implies_true, kept_ite, kept_snd_ite, ite_self, kept_fold, kept_mk, State.setCtl_kept, endCmd_kept, onAdmin_kept]
    | with_reducible refine (onAdmin_ho (fun _ _ => ?_)).trans ?_
    | with_reducible refine (kept_of_eq ‹_›).trans ?_ | with_reducible refine (kept_of_eq3 ‹_›).trans ?_ | split
    | dsimp only
theorem execDeleteIoSq_kept (slot : Fin 4096) (qid : BitVec 16) (s : State) :
    ∀ t, execDeleteIoSq slot qid s = .next t → t.kept lv = s.kept lv := by
  intro t h
  unfold execDeleteIoSq at h
  injection h with h
  subst h
  repeat' first
    | with_reducible rfl
    | simp only [implies_true, kept_ite, kept_snd_ite, ite_self, kept_fold, kept_mk, foldl_kept, foldl_snd_kept, State.bump_kept, State.setCtl_kept, endCmd_kept, onAdmin_kept, raiseIf_kept, settleDeletes_kept]
    | with_reducible refine (foldl_kept _ (fun _ _ => ?_) _ _).trans ?_
    | with_reducible refine (foldl_snd_kept _ (fun _ _ => ?_) _ _).trans ?_
    | with_reducible refine (onAdmin_ho (fun _ _ => ?_)).trans ?_
    | with_reducible refine (kept_of_eq ‹_›).trans ?_ | with_reducible refine (kept_of_eq3 ‹_›).trans ?_ | split
    | dsimp only
theorem execAsyncEventRequest_kept (slot : Fin 4096) (s : State) :
    ∀ t, execAsyncEventRequest slot s = .next t → t.kept lv = s.kept lv := by
  intro t h
  unfold execAsyncEventRequest at h
  injection h with h
  subst h
  repeat' first
    | with_reducible rfl
    | simp only [id_eq, implies_true, kept_ite, kept_snd_ite, ite_self, kept_fold, kept_mk, foldl_kept, foldl_snd_kept, State.setCtl_kept, endCmd_kept, onAdmin_kept, reportWaiting_kept]
    | with_reducible refine (onAdmin_ho (fun _ _ => ?_)).trans ?_
    | split
    | dsimp only
end Sys2Proof.Machine
end

