-- ==== Sys2Proof/Laws/KeptMailbox.lean ====
section
/-! SUPPORT. Frame laws of Machine/Mailbox.lean: each operation and command there leaves the fuses and the queue
as they are, and the stores too where the law says so of every level. -/

namespace Sys2Proof.Machine

open Sys2Proof

set_option maxRecDepth 4000
set_option linter.all false

variable {lv : Bool}

theorem setDomState_kept (s : State) (d v : Nat) :
    (setDomState s d v).kept lv = s.kept lv := by
  unfold setDomState
  repeat' first
    | with_reducible rfl | simp only [kept_fold, kept_mk, State.setDom_kept, domainEdge_kept] | dsimp only
theorem powerUp_kept (s : State) (d : Nat) :
    (powerUp s d).kept lv = s.kept lv := by
  unfold powerUp
  repeat' first
    | with_reducible rfl
    | simp only [id_eq, implies_true, kept_ite, kept_snd_ite, ite_self, kept_fold, kept_mk, foldl_kept, foldl_snd_kept, State.setDom_kept, railFollows_kept, setDomState_kept, setUnitState_kept]
    | with_reducible refine (kept_of_eq ‹_›).trans ?_
    | with_reducible refine (kept_of_eq3 ‹_›).trans ?_
    | split
    | dsimp only
theorem wakeDomain_kept (s : State) (d : Nat) :
    (wakeDomain s d).kept lv = s.kept lv := by
  unfold wakeDomain
  repeat' first
    | with_reducible rfl
    | simp only [id_eq, implies_true, kept_ite, kept_snd_ite, ite_self, kept_fold, kept_mk, foldl_kept, foldl_snd_kept, State.ask_kept, powerUp_kept]
    | split
    | dsimp only
theorem eventWake_kept (s : State) (ev : Nat) :
    (eventWake s ev).kept lv = s.kept lv := by
  unfold eventWake
  repeat' first
    | with_reducible rfl
    | simp only [implies_true, kept_ite, kept_snd_ite, ite_self, foldl_kept, foldl_snd_kept, wakeDomain_kept]
    | with_reducible refine (foldl_kept _ (fun _ _ => ?_) _ _).trans ?_
    | with_reducible refine (foldl_snd_kept _ (fun _ _ => ?_) _ _).trans ?_ | split | dsimp only
theorem State.setEndpoint_kept (s : State) (e : Nat) (v : Endpoint) :
    (State.setEndpoint s e v).kept lv = s.kept lv := by
  unfold State.setEndpoint
  repeat' first
    | with_reducible rfl | simp only [kept_fold, kept_mk] | dsimp only
theorem commitMsg_kept (s : State) (e : Nat) (ws : List Nat) :
    (commitMsg s e ws).kept lv = s.kept lv := by
  unfold commitMsg
  repeat' first
    | with_reducible rfl
    | simp only [kept_ite, kept_snd_ite, ite_self, kept_fold, kept_mk, State.setEndpoint_kept, wakeDomain_kept]
    | split | dsimp only
theorem outPush_kept (s : State) (e w : Nat) :
    (outPush s e w).kept lv = s.kept lv := by
  unfold outPush
  repeat' first
    | with_reducible rfl
    | simp only [kept_ite, kept_snd_ite, ite_self, kept_fold, kept_mk, State.bump_kept, State.setEndpoint_kept, commitMsg_kept, raise_kept]
    | with_reducible refine (kept_of_eq ‹_›).trans ?_ | with_reducible refine (kept_of_eq3 ‹_›).trans ?_ | split
    | dsimp only
theorem outEmptied_kept (s : State) (e : Nat) :
    (outEmptied s e).kept lv = s.kept lv := by
  unfold outEmptied
  repeat' first
    | with_reducible rfl | simp only [kept_ite, kept_snd_ite, ite_self, kept_fold, kept_mk, raise_kept] | split
    | dsimp only
theorem execMbxDeliver_kept (sender : Fin 18) (s : State) :
    ∀ t, execMbxDeliver sender s = .next t → t.kept lv = s.kept lv := by
  intro t h
  unfold execMbxDeliver at h
  injection h with h
  subst h
  repeat' first
    | with_reducible rfl
    | simp only [kept_ite, kept_snd_ite, ite_self, kept_fold, kept_mk, State.bump_kept, State.setEndpoint_kept, outEmptied_kept, raise_kept]
    | with_reducible refine (kept_of_eq ‹_›).trans ?_ | with_reducible refine (kept_of_eq3 ‹_›).trans ?_ | split
    | dsimp only
theorem execMbxOutWrite_kept (q : Req) (endpoint : Fin 18) (w : BitVec 32) (s : State) :
    ∀ t, execMbxOutWrite q endpoint w s = .next t → t.kept lv = s.kept lv := by
  intro t h
  unfold execMbxOutWrite at h
  injection h with h
  subst h
  repeat' first
    | with_reducible rfl
    | simp only [implies_true, kept_ite, kept_snd_ite, ite_self, guarded_kept, outPush_kept]
    | with_reducible refine (guarded_ho (fun _ => ?_)).trans ?_ | split | dsimp only
theorem inPop_kept (s : State) (e : Nat) :
    (inPop s e).2.kept lv = s.kept lv := by
  unfold inPop
  repeat' first
    | with_reducible rfl | simp only [kept_fold, kept_mk, State.setEndpoint_kept]
    | with_reducible refine (kept_of_eq ‹_›).trans ?_ | with_reducible refine (kept_of_eq3 ‹_›).trans ?_ | split
    | dsimp only
theorem execMbxInRead_kept (q : Req) (endpoint : Fin 18) (s : State) :
    ∀ t, execMbxInRead q endpoint s = .next t → t.kept lv = s.kept lv := by
  intro t h
  unfold execMbxInRead at h
  injection h with h
  subst h
  repeat' first
    | with_reducible rfl
    | simp only [implies_true, kept_ite, kept_snd_ite, ite_self, guardedRead_kept, inPop_kept]
    | with_reducible refine (guardedRead_ho (fun _ => ?_)).trans ?_ | split | dsimp only
theorem outCtlWrite_kept (e : Nat) (w : Word) (s : State) :
    (outCtlWrite e w s).kept lv = s.kept lv := by
  unfold outCtlWrite
  repeat' first
    | with_reducible rfl
    | simp only [kept_ite, kept_snd_ite, ite_self, kept_fold, kept_mk, State.bump_kept, State.setEndpoint_kept, outEmptied_kept, raise_kept]
    | split | dsimp only
theorem execMbxWithdraw_kept (q : Req) (endpoint : Fin 18) (w : BitVec 32) (s : State) :
    ∀ t, execMbxWithdraw q endpoint w s = .next t → t.kept lv = s.kept lv := by
  intro t h
  unfold execMbxWithdraw at h
  injection h with h
  subst h
  repeat' first
    | with_reducible rfl
    | simp only [implies_true, kept_ite, kept_snd_ite, ite_self, guarded_kept, outCtlWrite_kept]
    | with_reducible refine (guarded_ho (fun _ => ?_)).trans ?_ | split | dsimp only
theorem execMbxWaitWarn_kept (sender : Fin 18) (s : State) :
    ∀ t, execMbxWaitWarn sender s = .next t → t.kept lv = s.kept lv := by
  intro t h
  unfold execMbxWaitWarn at h
  injection h with h
  subst h
  repeat' first
    | with_reducible rfl
    | simp only [kept_ite, kept_snd_ite, ite_self, kept_fold, kept_mk, State.setEndpoint_kept, raise_kept]
    | with_reducible refine (kept_of_eq ‹_›).trans ?_ | with_reducible refine (kept_of_eq3 ‹_›).trans ?_ | split
    | dsimp only
theorem dropPartial_kept (s : State) (e : Nat) :
    (dropPartial s e).kept lv = s.kept lv := by
  unfold dropPartial
  repeat' first
    | with_reducible rfl | simp only [kept_fold, kept_mk, State.setEndpoint_kept] | dsimp only
theorem mbxWrite_kept (q : Req) (off : Nat) (w : Word) (s : State) :
    (mbxWrite q off w s).kept lv = s.kept lv := by
  unfold mbxWrite
  repeat' first
    | with_reducible rfl
    | simp only [kept_ite, kept_snd_ite, ite_self, kept_fold, kept_mk, outCtlWrite_kept, outPush_kept, plainWrite_kept]
    | split | dsimp only
end Sys2Proof.Machine
end

