-- ==== Sys2Proof/Laws/KeptServo.lean ====
section
/-! SUPPORT. Frame laws of Machine/Servo.lean: each operation and command there leaves the fuses and the queue
as they are, and the stores too where the law says so of every level. -/

namespace Sys2Proof.Machine

open Sys2Proof

set_option maxRecDepth 4000
set_option linter.all false

variable {lv : Bool}

theorem countDemod_kept (s : State) (a : Nat) (F : Fld) (on : Bool) :
    (countDemod s a F on).kept lv = s.kept lv := by
  unfold countDemod
  repeat' first
    | with_reducible rfl | simp only [kept_ite, kept_snd_ite, ite_self, State.bump_kept, raiseIf_kept] | split
    | dsimp only
theorem showWedge_kept (s : State) (a lead h : Nat) (d : Demod) :
    (showWedge s a lead h d).kept lv = s.kept lv := by
  unfold showWedge
  repeat' first
    | with_reducible rfl
    | simp only [kept_ite, kept_snd_ite, ite_self, State.put_kept, astWedge_kept, countDemod_kept] | split
    | dsimp only
theorem refStep_kept (s : State) (a target : Nat) :
    (refStep s a target).kept lv = s.kept lv := by
  unfold refStep
  repeat' first
    | with_reducible rfl | simp only [kept_ite, kept_snd_ite, ite_self, kept_fold, kept_mk, State.setSrv_kept]
    | split | dsimp only
theorem injectStep_kept (s : State) (a : Nat) :
    (injectStep s a).2.kept lv = s.kept lv := by
  unfold injectStep
  repeat' first
    | with_reducible rfl | simp only [kept_ite, kept_snd_ite, ite_self, kept_fold, kept_mk, State.setSrv_kept]
    | with_reducible refine (kept_of_eq ‹_›).trans ?_ | with_reducible refine (kept_of_eq3 ‹_›).trans ?_ | split
    | dsimp only
theorem startTests_kept (s : State) (a stroke : Nat) :
    (startTests s a stroke).kept lv = s.kept lv := by
  unfold startTests
  repeat' first
    | with_reducible rfl
    | simp only [kept_ite, kept_snd_ite, ite_self, kept_fold, kept_mk, State.put_kept, State.setSrv_kept]
    | split | dsimp only
theorem captureStep_kept (s : State) (a : Nat) (entry : Nat) :
    (captureStep s a entry).kept lv = s.kept lv := by
  unfold captureStep
  repeat' first
    | with_reducible rfl
    | simp only [kept_ite, kept_snd_ite, ite_self, kept_fold, kept_mk, State.put_kept, State.setSrv_kept]
    | with_reducible refine (kept_of_eq ‹_›).trans ?_ | with_reducible refine (kept_of_eq3 ‹_›).trans ?_ | split
    | dsimp only
theorem controlLaw_kept (s : State) (a st : Nat) (hs : List (Nat × Int)) (i : Int) :
    (controlLaw s a st hs i).2.kept lv = s.kept lv := by
  unfold controlLaw
  extract_lets
  rename_i s1 s2
  have h1 : s1.kept lv = s.kept lv := State.setSrv_kept _ _ _
  show s2.kept lv = s.kept lv
  simp only [s2, kept_ite, State.bump_kept, ite_self, h1]
theorem sendCommand_kept (s : State) (a : Nat) (u : Int) (m : Sparse Int) :
    (sendCommand s a u m).kept lv = s.kept lv := by
  unfold sendCommand
  repeat' first
    | with_reducible rfl
    | simp only [id_eq, implies_true, kept_ite, kept_snd_ite, ite_self, kept_fold, kept_mk, foldl_kept, foldl_snd_kept, sendIn_kept]
    | split
    | dsimp only
theorem enterLost_kept (s : State) (a : Nat) :
    (enterLost s a).kept lv = s.kept lv := by
  unfold enterLost
  repeat' first
    | with_reducible rfl
    | simp only [kept_ite, kept_snd_ite, ite_self, kept_fold, kept_mk, State.put_kept, State.setSrv_kept, State.setVcm_kept, dropSeekPermit_kept, raise_kept, retract_kept, setSrvState_kept]
    | split | dsimp only
theorem enterSettle_kept (s : State) (a : Nat) :
    (enterSettle s a).kept lv = s.kept lv := by
  unfold enterSettle
  repeat' first
    | with_reducible rfl
    | simp only [kept_fold, kept_mk, State.setSrv_kept, dropSeekPermit_kept, setSrvState_kept] | dsimp only
theorem updateSeekTime_kept (s : State) (a : Nat) (k : Seek) (strokes : Nat) :
    (updateSeekTime s a k strokes).kept lv = s.kept lv := by
  unfold updateSeekTime
  repeat' first
    | with_reducible rfl | simp only [kept_ite, kept_snd_ite, ite_self, kept_fold, kept_mk, State.setSrv_kept]
    | split | dsimp only
theorem beginSeek_kept (s : State) (a : Nat) (k : Seek) :
    (beginSeek s a k).kept lv = s.kept lv := by
  unfold beginSeek
  repeat' first
    | with_reducible rfl
    | simp only [kept_ite, kept_snd_ite, ite_self, kept_fold, kept_mk, State.put_kept, State.setSrv_kept, dropSeekPermit_kept, enterSettle_kept, setActive_kept, setSrvState_kept]
    | split | dsimp only
theorem beginDueSeek_kept (s : State) (a stroke : Nat) :
    (beginDueSeek s a stroke).kept lv = s.kept lv := by
  unfold beginDueSeek
  repeat' first
    | with_reducible rfl | simp only [kept_ite, kept_snd_ite, ite_self, kept_fold, kept_mk, beginSeek_kept]
    | with_reducible refine (kept_of_eq ‹_›).trans ?_ | with_reducible refine (kept_of_eq3 ‹_›).trans ?_ | split
    | dsimp only
theorem planned_kept (s : State) (b stroke : Nat) :
    (planned s b stroke).kept lv = s.kept lv := by
  unfold planned
  repeat' first
    | with_reducible rfl
    | simp only [id_eq, implies_true, kept_ite, kept_snd_ite, ite_self, kept_fold, kept_mk, foldl_kept, foldl_snd_kept, beginDueSeek_kept, refStep_kept]
    | split
    | dsimp only
theorem settleOos_kept (s : State) (a : Nat) :
    (settleOos s a).kept false = s.kept false := by
  unfold settleOos
  repeat' first
    | with_reducible rfl
    | simp only [id_eq, implies_true, kept_ite, kept_snd_ite, ite_self, kept_fold0, kept_mk0, foldl_kept, foldl_snd_kept, setOos_kept]
    | split
    | dsimp only
theorem refugeReached_kept (s : State) (a : Nat) :
    (refugeReached s a).kept lv = s.kept lv := by
  unfold refugeReached
  repeat' first
    | with_reducible rfl
    | simp only [id_eq, implies_true, kept_ite, kept_snd_ite, ite_self, kept_fold, kept_mk, foldl_kept, foldl_snd_kept, State.put_kept]
    | split
    | dsimp only
theorem enterFollow_kept (s : State) (a stroke : Nat) :
    (enterFollow s a stroke).kept lv = s.kept lv := by
  unfold enterFollow
  repeat' first
    | with_reducible rfl
    | simp only [id_eq, implies_true, kept_ite, kept_snd_ite, ite_self, kept_fold, kept_mk, foldl_kept, foldl_snd_kept, State.put_kept, State.setSrv_kept, refugeReached_kept, setSrvState_kept, updateSeekTime_kept]
    | with_reducible refine (kept_of_eq ‹_›).trans ?_
    | with_reducible refine (kept_of_eq3 ‹_›).trans ?_
    | split
    | dsimp only
theorem headLeaves_kept (s : State) (a h : Nat) :
    (headLeaves s a h).kept lv = s.kept lv := by
  unfold headLeaves
  repeat' first
    | with_reducible rfl
    | simp only [id_eq, implies_true, kept_ite, kept_snd_ite, ite_self, kept_fold, kept_mk, foldl_kept, foldl_snd_kept, State.setSrv_kept, State.setTag_kept, foldl_kept, setActive_kept]
    | with_reducible refine (foldl_kept _ (fun _ _ => ?_) _ _).trans ?_
    | with_reducible refine (foldl_snd_kept _ (fun _ _ => ?_) _ _).trans ?_
    | split
    | dsimp only
theorem partPair_kept (s : State) (a : Nat) :
    (partPair s a).kept lv = s.kept lv := by
  unfold partPair
  repeat' first
    | with_reducible rfl
    | simp only [id_eq, implies_true, kept_ite, kept_snd_ite, ite_self, kept_fold, kept_mk, foldl_kept, foldl_snd_kept, headLeaves_kept]
    | with_reducible refine (kept_of_eq ‹_›).trans ?_
    | with_reducible refine (kept_of_eq3 ‹_›).trans ?_
    | split
    | dsimp only
theorem endPairing_kept (s : State) (a : Nat) :
    (endPairing s a).kept lv = s.kept lv := by
  unfold endPairing
  repeat' first
    | with_reducible rfl
    | simp only [id_eq, implies_true, kept_ite, kept_snd_ite, ite_self, kept_fold, kept_mk, foldl_kept, foldl_snd_kept, State.bump_kept, State.setSrv_kept, partPair_kept, raise_kept]
    | split
    | dsimp only
theorem countSat_kept (s : State) (a : Nat) (m : Sparse Int) :
    (countSat s a m).kept lv = s.kept lv := by
  unfold countSat
  repeat' first
    | with_reducible rfl
    | simp only [implies_true, kept_ite, kept_snd_ite, ite_self, kept_fold, kept_mk, foldl_kept, foldl_snd_kept, State.setSrv_kept, endPairing_kept]
    | with_reducible refine (foldl_kept _ (fun _ _ => ?_) _ _).trans ?_
    | with_reducible refine (foldl_snd_kept _ (fun _ _ => ?_) _ _).trans ?_ | split | dsimp only
theorem countSettle_kept (s : State) (a stroke : Nat) (pes : Int) :
    (countSettle s a stroke pes).kept lv = s.kept lv := by
  unfold countSettle
  repeat' first
    | with_reducible rfl
    | simp only [id_eq, implies_true, kept_ite, kept_snd_ite, ite_self, kept_fold, kept_mk, foldl_kept, foldl_snd_kept, State.setSrv_kept, enterFollow_kept]
    | split
    | dsimp only
theorem acquireWedge_kept (s : State) (a stroke : Nat) (x : WedgeIn) (z : Nat) :
    (acquireWedge s a stroke x z).kept lv = s.kept lv := by
  unfold acquireWedge
  repeat' first
    | with_reducible rfl
    | simp only [kept_ite, kept_snd_ite, ite_self, kept_fold, kept_mk, State.put_kept, State.setSrv_kept, countDemod_kept, enterSettle_kept, sendCommand_kept, setSrvState_kept]
    | split | dsimp only
theorem demodAll_kept (s : State) (a st : Nat) (r : Option Int) (i : Int) (ws : List WedgeIn) :
    (demodAll s a st r i ws).2.kept lv = s.kept lv := by
  unfold demodAll; repeat' first
            | with_reducible rfl | simp only [implies_true, foldl_kept, foldl_snd_kept, State.drawn_kept]
            | with_reducible refine (foldl_kept _ (fun _ _ => ?_) _ _).trans ?_
            | with_reducible refine (foldl_snd_kept _ (fun _ _ => ?_) _ _).trans ?_ | dsimp only
theorem countMiss_kept (s : State) (a : Nat) (d : List (Nat × Demod)) :
    (countMiss s a d).kept lv = s.kept lv := by
  unfold countMiss
  repeat' first
    | with_reducible rfl
    | simp only [kept_ite, kept_snd_ite, ite_self, kept_fold, kept_mk, State.setSrv_kept, enterLost_kept]
    | with_reducible refine (kept_of_eq ‹_›).trans ?_ | with_reducible refine (kept_of_eq3 ‹_›).trans ?_ | split
    | dsimp only
theorem closedLoop_kept (s : State) (a stroke : Nat) (ws : List WedgeIn) :
    (closedLoop s a stroke ws).kept lv = s.kept lv := by
  unfold closedLoop
  repeat' first
    | with_reducible rfl
    | simp only [id_eq, implies_true, kept_ite, kept_snd_ite, ite_self, kept_fold, kept_mk, foldl_kept, foldl_snd_kept, State.put_kept, State.setSrv_kept, beginDueSeek_kept, captureStep_kept, controlLaw_kept, countMiss_kept, countSat_kept, countSettle_kept, demodAll_kept, enterSettle_kept, foldl_kept, injectStep_kept, refStep_kept, sendCommand_kept, showWedge_kept, startTests_kept]
    | with_reducible refine (foldl_kept _ (fun _ _ => ?_) _ _).trans ?_
    | with_reducible refine (foldl_snd_kept _ (fun _ _ => ?_) _ _).trans ?_
    | with_reducible refine (kept_of_eq ‹_›).trans ?_
    | with_reducible refine (kept_of_eq3 ‹_›).trans ?_
    | split
    | dsimp only
theorem loopSample_kept (s : State) (a stroke : Nat) (ws : List WedgeIn) :
    (loopSample s a stroke ws).kept false = s.kept false := by
  unfold loopSample
  repeat' first
    | with_reducible rfl
    | simp only [id_eq, implies_true, kept_ite, kept_snd_ite, ite_self, kept_fold0, kept_mk0, foldl_kept, foldl_snd_kept, closedLoop_kept, settleOos_kept]
    | split
    | dsimp only
theorem execServoSample_kept (srv : Fin 4) (wedges : List WedgeIn) (s : State) :
    ∀ t, execServoSample srv wedges s = .next t → t.kept false = s.kept false := by
  intro t h
  unfold execServoSample at h
  injection h with h
  subst h
  repeat' first
    | with_reducible rfl
    | simp only [id_eq, implies_true, kept_ite, kept_snd_ite, ite_self, kept_fold0, kept_mk0, foldl_kept, foldl_snd_kept, State.drawn_kept, acquireWedge_kept, loopSample_kept, sendCommand_kept, setSrvState_kept]
    | with_reducible refine (takeLaunch_some ‹_›).trans ?_
    | with_reducible refine (kept_of_eq ‹_›).trans ?_
    | with_reducible refine (kept_of_eq3 ‹_›).trans ?_
    | split
    | dsimp only
theorem execControlOverrun_kept (srv : Fin 4) (s : State) :
    ∀ t, execControlOverrun srv s = .next t → t.kept lv = s.kept lv := by
  intro t h
  unfold execControlOverrun at h
  injection h with h
  subst h
  repeat' first
    | with_reducible rfl
    | simp only [kept_ite, kept_snd_ite, ite_self, kept_fold, kept_mk, State.bump_kept, State.setVcm_kept, raise_kept]
    | split | dsimp only
theorem reacquire_kept (s : State) (a : Nat) :
    (reacquire s a).kept lv = s.kept lv := by
  unfold reacquire
  repeat' first
    | with_reducible rfl
    | simp only [kept_ite, kept_snd_ite, ite_self, kept_fold, kept_mk, State.put_kept, State.setSrv_kept, setSrvState_kept]
    | split | dsimp only
theorem srvWinStep_kept (s : State) (a : Nat) :
    (srvWinStep s a).kept lv = s.kept lv := by
  unfold srvWinStep
  repeat' first
    | with_reducible rfl | simp only [State.put_kept] | dsimp only
theorem srvCoefWrite_kept (a : Nat) (w : Word) (s : State) :
    (srvCoefWrite a w s).kept lv = s.kept lv := by
  unfold srvCoefWrite
  repeat' first
    | with_reducible rfl
    | simp only [kept_ite, kept_snd_ite, ite_self, kept_fold, kept_mk, State.setSrv_kept, srvWinStep_kept]
    | split | dsimp only
theorem srvCoefRead_kept (a : Nat) (s : State) :
    (srvCoefRead a s).2.kept lv = s.kept lv := by
  unfold srvCoefRead
  repeat' first
    | with_reducible rfl | simp only [srvWinStep_kept] | dsimp only
theorem execSrvCoefDataAccess_kept (q : Req) (srv : Fin 4) (w : Option (BitVec 32)) (s : State) :
    ∀ t, execSrvCoefDataAccess q srv w s = .next t → t.kept lv = s.kept lv := by
  intro t h
  unfold execSrvCoefDataAccess at h
  injection h with h
  subst h
  repeat' first
    | with_reducible rfl
    | simp only [implies_true, kept_fold, kept_mk, guardedRead_kept, guarded_kept, srvCoefRead_kept, srvCoefWrite_kept]
    | with_reducible refine (guardedRead_ho (fun _ => ?_)).trans ?_
    | with_reducible refine (guarded_ho (fun _ => ?_)).trans ?_
    | with_reducible refine (kept_of_eq ‹_›).trans ?_ | with_reducible refine (kept_of_eq3 ‹_›).trans ?_ | split
    | dsimp only
theorem srvLate_kept (s : State) (a : Nat) (F : Fld) :
    (srvLate s a F).kept lv = s.kept lv := by
  unfold srvLate
  repeat' first
    | with_reducible rfl | simp only [State.put_kept, State.reply_kept, raise_kept] | dsimp only
theorem srvCommitWrite_kept (q : Req) (a : Nat) (w : Word) (s : State) :
    (srvCommitWrite q a w s).kept lv = s.kept lv := by
  unfold srvCommitWrite
  repeat' first
    | with_reducible rfl
    | simp only [kept_ite, kept_snd_ite, ite_self, kept_fold, kept_mk, State.put_kept, State.reply_kept, State.setSrv_kept, plainWrite_kept, srvLate_kept]
    | with_reducible refine (kept_of_eq ‹_›).trans ?_ | with_reducible refine (kept_of_eq3 ‹_›).trans ?_ | split
    | dsimp only
theorem execSrvCoefCommit_kept (q : Req) (srv : Fin 4) (w : BitVec 32) (s : State) :
    ∀ t, execSrvCoefCommit q srv w s = .next t → t.kept lv = s.kept lv := by
  intro t h
  unfold execSrvCoefCommit at h
  injection h with h
  subst h
  repeat' first
    | with_reducible rfl | simp only [implies_true, guarded_kept, srvCommitWrite_kept]
    | with_reducible refine (guarded_ho (fun _ => ?_)).trans ?_ | dsimp only
theorem srvExchange_kept (s : State) (a stroke : Nat) :
    (srvExchange s a stroke).kept lv = s.kept lv := by
  unfold srvExchange
  repeat' first
    | with_reducible rfl
    | simp only [implies_true, kept_ite, kept_snd_ite, ite_self, kept_fold, kept_mk, foldl_kept, foldl_snd_kept, State.put_kept, State.setSrv_kept]
    | with_reducible refine (foldl_kept _ (fun _ _ => ?_) _ _).trans ?_
    | with_reducible refine (foldl_snd_kept _ (fun _ _ => ?_) _ _).trans ?_ | split | dsimp only
theorem execNotchEstimate_kept (srv : Fin 4) (notch : Fin 4) (code : BitVec 8) (s : State) :
    ∀ t, execNotchEstimate srv notch code s = .next t → t.kept lv = s.kept lv := by
  intro t h
  unfold execNotchEstimate at h
  injection h with h
  subst h
  repeat' first
    | with_reducible rfl | simp only [kept_ite, kept_snd_ite, ite_self, kept_fold, kept_mk, State.setSrv_kept]
    | split | dsimp only
theorem writeNotch_kept (s : State) (a j code : Nat) :
    (writeNotch s a j code).kept lv = s.kept lv := by
  unfold writeNotch
  repeat' first
    | with_reducible rfl
    | simp only [implies_true, kept_fold, kept_mk, foldl_kept, foldl_snd_kept, State.put_kept, State.setSrv_kept]
    | with_reducible refine (foldl_kept _ (fun _ _ => ?_) _ _).trans ?_
    | with_reducible refine (foldl_snd_kept _ (fun _ _ => ?_) _ _).trans ?_ | dsimp only
theorem execNotchWrite_kept (srv : Fin 4) (s : State) :
    ∀ t, execNotchWrite srv s = .next t → t.kept lv = s.kept lv := by
  intro t h
  unfold execNotchWrite at h
  injection h with h
  subst h
  repeat' first
    | with_reducible rfl
    | simp only [kept_ite, kept_snd_ite, ite_self, kept_fold, kept_mk, State.setSrv_kept, writeNotch_kept]
    | with_reducible refine (kept_of_eq ‹_›).trans ?_ | with_reducible refine (kept_of_eq3 ‹_›).trans ?_ | split
    | dsimp only
theorem execRegattaIntentApply_kept (srv : Fin 4) (s : State) :
    ∀ t, execRegattaIntentApply srv s = .next t → t.kept lv = s.kept lv := by
  intro t h
  unfold execRegattaIntentApply at h
  injection h with h
  subst h
  repeat' first
    | with_reducible rfl
    | simp only [kept_ite, kept_snd_ite, ite_self, kept_fold, kept_mk, State.bump_kept, State.setSrv_kept]
    | with_reducible refine (kept_of_eq ‹_›).trans ?_ | with_reducible refine (kept_of_eq3 ‹_›).trans ?_ | split
    | dsimp only
theorem seekResult_kept (s : State) (a r status : Nat) :
    (seekResult s a r status).2.kept lv = s.kept lv := by
  unfold seekResult
  repeat' first
    | with_reducible rfl | simp only [State.put_kept] | dsimp only
theorem seekLaunch_kept (s : State) (a head target low : Nat) (full : Bool) (tag : Option (Nat × Nat)) :
    (seekLaunch s a head target low full tag).2.kept lv = s.kept lv := by
  unfold seekLaunch
  repeat' first
    | with_reducible rfl
    | simp only [kept_ite, kept_snd_ite, ite_self, kept_fold, kept_mk, State.put_kept, State.setSrv_kept, raise_kept, seekResult_kept]
    | with_reducible refine (kept_of_eq ‹_›).trans ?_ | with_reducible refine (kept_of_eq3 ‹_›).trans ?_ | split
    | dsimp only
theorem seekReqWrite_kept (q : Req) (a : Nat) (w : Word) (s : State) :
    (seekReqWrite q a w s).kept lv = s.kept lv := by
  unfold seekReqWrite
  repeat' first
    | with_reducible rfl
    | simp only [kept_ite, kept_snd_ite, ite_self, State.put_kept, State.reply_kept, plainWrite_kept, seekLaunch_kept]
    | split | dsimp only
theorem execSeekLaunch_kept (q : Req) (srv : Fin 4) (w : BitVec 32) (s : State) :
    ∀ t, execSeekLaunch q srv w s = .next t → t.kept lv = s.kept lv := by
  intro t h
  unfold execSeekLaunch at h
  injection h with h
  subst h
  repeat' first
    | with_reducible rfl | simp only [implies_true, guarded_kept, seekReqWrite_kept]
    | with_reducible refine (guarded_ho (fun _ => ?_)).trans ?_ | dsimp only
theorem seekLate_kept (s : State) (a : Nat) (k : Seek) :
    (seekLate s a k).kept lv = s.kept lv := by
  unfold seekLate
  repeat' first
    | with_reducible rfl
    | simp only [id_eq, implies_true, kept_ite, kept_snd_ite, ite_self, kept_fold, kept_mk, foldl_kept, foldl_snd_kept, State.put_kept, State.setSrv_kept, completeTag_kept, raise_kept]
    | with_reducible refine (kept_of_eq ‹_›).trans ?_
    | with_reducible refine (kept_of_eq3 ‹_›).trans ?_
    | split
    | dsimp only
theorem execSeekCommit_kept (srv : Fin 4) (s : State) :
    ∀ t, execSeekCommit srv s = .next t → t.kept false = s.kept false := by
  intro t h
  unfold execSeekCommit at h
  injection h with h
  subst h
  repeat' first
    | with_reducible rfl
    | simp only [id_eq, implies_true, kept_ite, kept_snd_ite, ite_self, kept_fold0, kept_mk0, foldl_kept, foldl_snd_kept, State.put_kept, State.setSrv_kept, seekLate_kept, takeTag_kept]
    | with_reducible refine (kept_of_eq ‹_›).trans ?_
    | with_reducible refine (kept_of_eq3 ‹_›).trans ?_
    | split
    | dsimp only
theorem srvCtlWrite_kept (q : Req) (a : Nat) (w : Word) (s : State) :
    (srvCtlWrite q a w s).kept lv = s.kept lv := by
  unfold srvCtlWrite
  repeat' first
    | with_reducible rfl
    | simp only [id_eq, implies_true, kept_ite, kept_snd_ite, ite_self, kept_fold, kept_mk, foldl_kept, foldl_snd_kept, State.put_kept, State.setSrv_kept, enterSettle_kept, partPair_kept, plainWrite_kept, setSrvState_kept]
    | with_reducible refine (foldl_kept _ (fun _ _ => ?_) _ _).trans ?_
    | with_reducible refine (foldl_snd_kept _ (fun _ _ => ?_) _ _).trans ?_
    | split
    | dsimp only
theorem execAutoClear_kept (q : Req) (srv : Fin 4) (w : BitVec 32) (s : State) :
    ∀ t, execAutoClear q srv w s = .next t → t.kept lv = s.kept lv := by
  intro t h
  unfold execAutoClear at h
  injection h with h
  subst h
  repeat' first
    | with_reducible rfl | simp only [implies_true, guarded_kept, srvCtlWrite_kept]
    | with_reducible refine (guarded_ho (fun _ => ?_)).trans ?_ | dsimp only
theorem execAutoSet_kept (q : Req) (srv : Fin 4) (w : BitVec 32) (s : State) :
    ∀ t, execAutoSet q srv w s = .next t → t.kept lv = s.kept lv := by
  intro t h
  unfold execAutoSet at h
  injection h with h
  subst h
  repeat' first
    | with_reducible rfl | simp only [implies_true, guarded_kept, srvCtlWrite_kept]
    | with_reducible refine (guarded_ho (fun _ => ?_)).trans ?_ | dsimp only
theorem injectEnd_kept (s : State) (a : Nat) :
    (injectEnd s a).kept lv = s.kept lv := by
  unfold injectEnd
  repeat' first
    | with_reducible rfl | simp only [kept_fold, kept_mk, State.put_kept, State.setSrv_kept] | dsimp only
theorem injCtlWrite_kept (q : Req) (a : Nat) (w : Word) (s : State) :
    (injCtlWrite q a w s).kept lv = s.kept lv := by
  unfold injCtlWrite
  repeat' first
    | with_reducible rfl
    | simp only [kept_ite, kept_snd_ite, ite_self, kept_fold, kept_mk, State.put_kept, State.setSrv_kept, injectEnd_kept, plainWrite_kept, srvLate_kept]
    | with_reducible refine (kept_of_eq ‹_›).trans ?_ | with_reducible refine (kept_of_eq3 ‹_›).trans ?_ | split
    | dsimp only
theorem execInjectionStart_kept (q : Req) (srv : Fin 4) (w : BitVec 32) (s : State) :
    ∀ t, execInjectionStart q srv w s = .next t → t.kept lv = s.kept lv := by
  intro t h
  unfold execInjectionStart at h
  injection h with h
  subst h
  repeat' first
    | with_reducible rfl | simp only [implies_true, guarded_kept, injCtlWrite_kept]
    | with_reducible refine (guarded_ho (fun _ => ?_)).trans ?_ | dsimp only
theorem execInjectionStop_kept (q : Req) (srv : Fin 4) (w : BitVec 32) (s : State) :
    ∀ t, execInjectionStop q srv w s = .next t → t.kept lv = s.kept lv := by
  intro t h
  unfold execInjectionStop at h
  injection h with h
  subst h
  repeat' first
    | with_reducible rfl | simp only [implies_true, guarded_kept, injCtlWrite_kept]
    | with_reducible refine (guarded_ho (fun _ => ?_)).trans ?_ | dsimp only
theorem execInjectionEnd_kept (srv : Fin 4) (s : State) :
    ∀ t, execInjectionEnd srv s = .next t → t.kept lv = s.kept lv := by
  intro t h
  unfold execInjectionEnd at h
  injection h with h
  subst h
  repeat' first
    | with_reducible rfl | simp only [kept_fold, kept_mk, injectEnd_kept]
    | with_reducible refine (kept_of_eq ‹_›).trans ?_ | with_reducible refine (kept_of_eq3 ‹_›).trans ?_ | split
    | dsimp only
theorem capCtlWrite_kept (q : Req) (a : Nat) (w : Word) (s : State) :
    (capCtlWrite q a w s).kept lv = s.kept lv := by
  unfold capCtlWrite
  repeat' first
    | with_reducible rfl
    | simp only [kept_ite, kept_snd_ite, ite_self, kept_fold, kept_mk, State.put_kept, State.setSrv_kept, plainWrite_kept, srvLate_kept]
    | with_reducible refine (kept_of_eq ‹_›).trans ?_ | with_reducible refine (kept_of_eq3 ‹_›).trans ?_ | split
    | dsimp only
theorem execCaptureStart_kept (q : Req) (srv : Fin 4) (w : BitVec 32) (s : State) :
    ∀ t, execCaptureStart q srv w s = .next t → t.kept lv = s.kept lv := by
  intro t h
  unfold execCaptureStart at h
  injection h with h
  subst h
  repeat' first
    | with_reducible rfl | simp only [implies_true, capCtlWrite_kept, guarded_kept]
    | with_reducible refine (guarded_ho (fun _ => ?_)).trans ?_ | dsimp only
theorem execCaptureStop_kept (q : Req) (srv : Fin 4) (w : BitVec 32) (s : State) :
    ∀ t, execCaptureStop q srv w s = .next t → t.kept lv = s.kept lv := by
  intro t h
  unfold execCaptureStop at h
  injection h with h
  subst h
  repeat' first
    | with_reducible rfl | simp only [implies_true, capCtlWrite_kept, guarded_kept]
    | with_reducible refine (guarded_ho (fun _ => ?_)).trans ?_ | dsimp only
theorem capRead_kept (a : Nat) (s : State) :
    (capRead a s).2.kept lv = s.kept lv := by
  unfold capRead
  repeat' first
    | with_reducible rfl | simp only [kept_ite, kept_snd_ite, ite_self, State.drawn_kept, State.put_kept]
    | split | dsimp only
theorem execCapDataRead_kept (q : Req) (srv : Fin 4) (s : State) :
    ∀ t, execCapDataRead q srv s = .next t → t.kept lv = s.kept lv := by
  intro t h
  unfold execCapDataRead at h
  injection h with h
  subst h
  repeat' first
    | with_reducible rfl | simp only [implies_true, capRead_kept, guardedRead_kept]
    | with_reducible refine (guardedRead_ho (fun _ => ?_)).trans ?_ | dsimp only
theorem srvFault_kept (s : State) (a : Nat) :
    (srvFault s a).kept lv = s.kept lv := by
  unfold srvFault
  repeat' first
    | with_reducible rfl
    | simp only [id_eq, implies_true, kept_ite, kept_snd_ite, ite_self, kept_fold, kept_mk, foldl_kept, foldl_snd_kept, State.setSrv_kept, State.setVcm_kept, pageFault_kept]
    | split
    | dsimp only
theorem execSrvParityFault_kept (srv : Fin 4) (shadow : Bool) (s : State) :
    ∀ t, execSrvParityFault srv shadow s = .next t → t.kept lv = s.kept lv := by
  intro t h
  unfold execSrvParityFault at h
  injection h with h
  subst h
  repeat' first
    | with_reducible rfl
    | simp only [id_eq, implies_true, kept_ite, kept_snd_ite, ite_self, kept_fold, kept_mk, foldl_kept, foldl_snd_kept, State.bump_kept, raise_kept, srvFault_kept]
    | split
    | dsimp only
theorem beginUnload_kept (s : State) (a : Nat) :
    (beginUnload s a).kept lv = s.kept lv := by
  unfold beginUnload
  repeat' first
    | with_reducible rfl
    | simp only [kept_ite, kept_snd_ite, ite_self, kept_fold, kept_mk, State.setSrv_kept, beginSeek_kept]
    | split | dsimp only
theorem execHeadUnload_kept (srv : Fin 4) (s : State) :
    ∀ t, execHeadUnload srv s = .next t → t.kept lv = s.kept lv := by
  intro t h
  unfold execHeadUnload at h
  injection h with h
  subst h
  repeat' first
    | with_reducible rfl
    | simp only [kept_ite, kept_snd_ite, ite_self, kept_fold, kept_mk, State.put_kept, beginUnload_kept]
    | with_reducible refine (takeLaunch_some ‹_›).trans ?_ | with_reducible refine (kept_of_eq ‹_›).trans ?_
    | with_reducible refine (kept_of_eq3 ‹_›).trans ?_ | split | dsimp only
theorem srvDisable_kept (s : State) (a : Nat) :
    (srvDisable s a).kept false = s.kept false := by
  unfold srvDisable
  repeat' first
    | with_reducible rfl
    | simp only [id_eq, implies_true, kept_ite, kept_snd_ite, ite_self, kept_fold0, kept_mk0, foldl_kept, foldl_snd_kept, State.put_kept, State.setSrv_kept, injectEnd_kept, setOos_kept, setPageState_kept, settleOos_kept]
    | split
    | dsimp only
theorem joinHead_kept (s : State) (a h track : Nat) :
    (joinHead s a h track).kept lv = s.kept lv := by
  unfold joinHead
  repeat' first
    | with_reducible rfl
    | simp only [kept_ite, kept_snd_ite, ite_self, kept_fold, kept_mk, State.setSrv_kept, setActive_kept]
    | split | dsimp only
theorem pairCtlWrite_kept (q : Req) (a : Nat) (w : Word) (s : State) :
    (pairCtlWrite q a w s).kept lv = s.kept lv := by
  unfold pairCtlWrite
  repeat' first
    | with_reducible rfl
    | simp only [id_eq, implies_true, kept_ite, kept_snd_ite, ite_self, kept_fold, kept_mk, foldl_kept, foldl_snd_kept, partPair_kept, plainWrite_kept]
    | with_reducible refine (kept_of_eq ‹_›).trans ?_
    | with_reducible refine (kept_of_eq3 ‹_›).trans ?_
    | split
    | dsimp only
theorem headStopsFollowing_kept (s : State) (a h : Nat) :
    (headStopsFollowing s a h).kept lv = s.kept lv := by
  unfold headStopsFollowing
  repeat' first
    | with_reducible rfl
    | simp only [id_eq, implies_true, kept_ite, kept_snd_ite, ite_self, kept_fold, kept_mk, foldl_kept, foldl_snd_kept, enterSettle_kept, headLeaves_kept]
    | with_reducible refine (kept_of_eq ‹_›).trans ?_
    | with_reducible refine (kept_of_eq3 ‹_›).trans ?_
    | split
    | dsimp only
theorem execMacDriverFault_kept (head : Fin 32) (s : State) :
    ∀ t, execMacDriverFault head s = .next t → t.kept false = s.kept false := by
  intro t h
  unfold execMacDriverFault at h
  injection h with h
  subst h
  repeat' first
    | with_reducible rfl
    | simp only [id_eq, implies_true, kept_ite, kept_snd_ite, ite_self, kept_fold0, kept_mk0, foldl_kept, foldl_snd_kept, State.put_kept, headStopsFollowing_kept, offTrack_kept, raise_kept]
    | with_reducible refine (kept_of_eq ‹_›).trans ?_
    | with_reducible refine (kept_of_eq3 ‹_›).trans ?_
    | split
    | dsimp only
theorem srvWrite_kept (q : Req) (a off : Nat) (w : Word) (s : State) :
    (srvWrite q a off w s).kept lv = s.kept lv := by
  unfold srvWrite
  repeat' first
    | with_reducible rfl
    | simp only [id_eq, implies_true, kept_ite, kept_snd_ite, ite_self, kept_fold, kept_mk, foldl_kept, foldl_snd_kept, capCtlWrite_kept, injCtlWrite_kept, pairCtlWrite_kept, plainWrite_kept, seekReqWrite_kept, srvCoefWrite_kept, srvCommitWrite_kept, srvCtlWrite_kept]
    | split
    | dsimp only
end Sys2Proof.Machine
end

