-- ==== Sys2Proof/Laws/KeptRegatta.lean ====
section
/-! SUPPORT. Frame laws of Machine/Regatta.lean: each operation and command there leaves the fuses and the queue
as they are, and the stores too where the law says so of every level. -/

namespace Sys2Proof.Machine

open Sys2Proof

set_option maxRecDepth 4000
set_option linter.all false

variable {lv : Bool}

theorem stopSampling_kept (s : State) (lock : Nat) :
    (stopSampling s lock).kept lv = s.kept lv := by
  unfold stopSampling
  repeat' first
    | with_reducible rfl | simp only [kept_fold, kept_mk, State.put_kept, raiseIf_kept] | dsimp only
theorem rgtSettle_kept (s : State) :
    (rgtSettle s).kept lv = s.kept lv := by
  unfold rgtSettle
  repeat' first
    | with_reducible rfl | simp only [kept_ite, kept_snd_ite, ite_self, stopSampling_kept] | split | dsimp only
theorem starterStop_kept (s : State) :
    (starterStop s).kept lv = s.kept lv := by
  unfold starterStop
  repeat' first
    | with_reducible rfl | simp only [kept_ite, kept_snd_ite, ite_self, kept_fold, kept_mk, State.put_kept]
    | split | dsimp only
theorem rgtEnable_kept (s : State) :
    (rgtEnable s).kept lv = s.kept lv := by
  unfold rgtEnable
  repeat' first
    | with_reducible rfl | simp only [State.put_kept] | dsimp only
theorem rgtDisable_kept (s : State) :
    (rgtDisable s).kept lv = s.kept lv := by
  unfold rgtDisable
  repeat' first
    | with_reducible rfl | simp only [kept_fold, kept_mk, State.put_kept, starterStop_kept, stopSampling_kept]
    | dsimp only
theorem rgtCatch_kept (s : State) :
    (rgtCatch s).kept lv = s.kept lv := by
  unfold rgtCatch
  repeat' first
    | with_reducible rfl
    | simp only [kept_ite, kept_snd_ite, ite_self, kept_fold, kept_mk, State.put_kept, raise_kept, rgtSettle_kept]
    | split | dsimp only
theorem rgtCrcError_kept (s : State) :
    (rgtCrcError s).kept lv = s.kept lv := by
  unfold rgtCrcError
  repeat' first
    | with_reducible rfl | simp only [State.bump_kept, raiseIf_kept] | dsimp only
theorem phaseSample_kept (s : State) (p sstroke : Nat) :
    (phaseSample s p sstroke).kept lv = s.kept lv := by
  unfold phaseSample
  repeat' first
    | with_reducible rfl
    | simp only [kept_ite, kept_snd_ite, ite_self, kept_fold, kept_mk, State.put_kept, raise_kept] | split
    | dsimp only
theorem frameAccepted_kept (s : State) (saddr sstroke : Nat) (glide : Bool) (phase : Nat) :
    (frameAccepted s saddr sstroke glide phase).kept lv = s.kept lv := by
  unfold frameAccepted
  repeat' first
    | with_reducible rfl
    | simp only [kept_ite, kept_snd_ite, ite_self, kept_fold, kept_mk, State.put_kept, phaseSample_kept, raiseIf_kept, rgtSettle_kept]
    | split | dsimp only
theorem execRegattaFrameReceive_kept (cells : BitVec 22) (phase : BitVec 12) (s : State) :
    ∀ t, execRegattaFrameReceive cells phase s = .next t → t.kept lv = s.kept lv := by
  intro t h
  unfold execRegattaFrameReceive at h
  injection h with h
  subst h
  repeat' first
    | with_reducible rfl
    | simp only [kept_ite, kept_snd_ite, ite_self, kept_fold, kept_mk, State.put_kept, frameAccepted_kept, rgtCrcError_kept, starterStop_kept]
    | split | dsimp only
theorem execStarterClaim_kept (s : State) :
    ∀ t, execStarterClaim s = .next t → t.kept lv = s.kept lv := by
  intro t h
  unfold execStarterClaim at h
  injection h with h
  subst h
  repeat' first
    | with_reducible rfl | simp only [kept_ite, kept_snd_ite, ite_self, kept_fold, kept_mk] | split | dsimp only
theorem execStarterLost_kept (s : State) :
    ∀ t, execStarterLost s = .next t → t.kept lv = s.kept lv := by
  intro t h
  unfold execStarterLost at h
  injection h with h
  subst h
  repeat' first
    | with_reducible rfl
    | simp only [kept_ite, kept_snd_ite, ite_self, kept_fold, kept_mk, State.bump_kept, State.put_kept, raise_kept, rgtSettle_kept]
    | split | dsimp only
theorem execRegattaIntentQueue_kept (s : State) :
    ∀ t, execRegattaIntentQueue s = .next t → t.kept lv = s.kept lv := by
  intro t h
  unfold execRegattaIntentQueue at h
  injection h with h
  subst h
  repeat' first
    | with_reducible rfl | simp only [kept_ite, kept_snd_ite, ite_self, kept_fold, kept_mk]
    | with_reducible refine (kept_of_eq ‹_›).trans ?_ | with_reducible refine (kept_of_eq3 ‹_›).trans ?_ | split
    | dsimp only
theorem execRegattaSlotContend_kept (settled : Bool) (slotEnd : BitVec 14) (outcome : SlotOutcome) (s : State) :
    ∀ t, execRegattaSlotContend settled slotEnd outcome s = .next t → t.kept lv = s.kept lv := by
  intro t h
  unfold execRegattaSlotContend at h
  injection h with h
  subst h
  repeat' first
    | with_reducible rfl
    | simp only [kept_ite, kept_snd_ite, ite_self, kept_fold, kept_mk, State.bump_kept, State.put_kept, State.reply_kept, raise_kept]
    | with_reducible refine (kept_of_eq ‹_›).trans ?_ | with_reducible refine (kept_of_eq3 ‹_›).trans ?_ | split
    | dsimp only
theorem forwardIntent_kept (s : State) (route : Nat) (x : Intent) :
    (forwardIntent s route x).kept lv = s.kept lv := by
  unfold forwardIntent
  repeat' first
    | with_reducible rfl
    | simp only [implies_true, kept_ite, kept_snd_ite, ite_self, kept_fold, kept_mk, foldl_kept, foldl_snd_kept]
    | with_reducible refine (foldl_kept _ (fun _ _ => ?_) _ _).trans ?_
    | with_reducible refine (foldl_snd_kept _ (fun _ _ => ?_) _ _).trans ?_ | split | dsimp only
theorem execRegattaSlotReceive_kept (cells : BitVec 32) (slotEnd : BitVec 14) (s : State) :
    ∀ t, execRegattaSlotReceive cells slotEnd s = .next t → t.kept lv = s.kept lv := by
  intro t h
  unfold execRegattaSlotReceive at h
  injection h with h
  subst h
  repeat' first
    | with_reducible rfl
    | simp only [kept_ite, kept_snd_ite, ite_self, State.bump_kept, forwardIntent_kept, rgtCrcError_kept]
    | split | dsimp only
theorem execRegattaWireStuck_kept (syn : Bool) (s : State) :
    ∀ t, execRegattaWireStuck syn s = .next t → t.kept lv = s.kept lv := by
  intro t h
  unfold execRegattaWireStuck at h
  injection h with h
  subst h
  repeat' first
    | with_reducible rfl
    | simp only [kept_ite, kept_snd_ite, ite_self, State.put_kept, raiseIf_kept, starterStop_kept] | split
    | dsimp only
theorem execRegattaWireRecover_kept (s : State) :
    ∀ t, execRegattaWireRecover s = .next t → t.kept lv = s.kept lv := by
  intro t h
  unfold execRegattaWireRecover at h
  injection h with h
  subst h
  repeat' first
    | with_reducible rfl | simp only [kept_ite, kept_snd_ite, ite_self, State.put_kept] | split | dsimp only
theorem rgtCtlWrite_kept (q : Req) (w : Word) (s : State) :
    (rgtCtlWrite q w s).kept lv = s.kept lv := by
  unfold rgtCtlWrite
  repeat' first
    | with_reducible rfl
    | simp only [kept_ite, kept_snd_ite, ite_self, State.put_kept, plainWrite_kept, rgtSettle_kept, starterStop_kept]
    | split | dsimp only
theorem rgtWrite_kept (q : Req) (off : Nat) (w : Word) (s : State) :
    (rgtWrite q off w s).kept lv = s.kept lv := by
  unfold rgtWrite
  repeat' first
    | with_reducible rfl
    | simp only [kept_ite, kept_snd_ite, ite_self, kept_fold, kept_mk, plainWrite_kept, rgtCtlWrite_kept]
    | split | dsimp only
end Sys2Proof.Machine
end

