-- ==== Sys2Proof/Laws/KeptSpindle.lean ====
section
/-! SUPPORT. Frame laws of Machine/Spindle.lean: each operation and command there leaves the fuses and the queue
as they are, and the stores too where the law says so of every level. -/

namespace Sys2Proof.Machine

open Sys2Proof

set_option maxRecDepth 4000
set_option linter.all false

variable {lv : Bool}

theorem setSpn_kept (s : State) (v : Nat) :
    (setSpn s v).kept lv = s.kept lv := by
  unfold setSpn
  repeat' first
    | with_reducible rfl | simp only [State.put_kept, raiseIf_kept, rgtSettle_kept] | dsimp only
theorem State.spnMap_kept (s : State) (f : Spn → Spn) :
    (State.spnMap s f).kept lv = s.kept lv := by
  unfold State.spnMap
  repeat' first
    | with_reducible rfl | simp only [kept_fold, kept_mk] | dsimp only
theorem followCrossing_kept (s : State) (interval : Nat) :
    (followCrossing s interval).kept lv = s.kept lv := by
  unfold followCrossing
  repeat' first
    | with_reducible rfl
    | simp only [id_eq, implies_true, kept_ite, kept_snd_ite, ite_self, kept_fold, kept_mk, foldl_kept, foldl_snd_kept, State.put_kept, State.spnMap_kept]
    | split
    | dsimp only
theorem winhSet_kept (s : State) (c : WinhSrc) :
    (winhSet s c).kept lv = s.kept lv := by
  unfold winhSet
  repeat' first
    | with_reducible rfl | simp only [kept_ite, kept_snd_ite, ite_self, kept_fold, kept_mk] | split | dsimp only
theorem winhClear_kept (s : State) (c : WinhSrc) :
    (winhClear s c).kept lv = s.kept lv := by
  unfold winhClear
  repeat' first
    | with_reducible rfl | simp only [kept_fold, kept_mk] | dsimp only
theorem suspendMedia_kept (s : State) :
    (suspendMedia s).kept lv = s.kept lv := by
  unfold suspendMedia
  repeat' first
    | with_reducible rfl
    | simp only [id_eq, implies_true, kept_ite, kept_snd_ite, ite_self, kept_fold, kept_mk, foldl_kept, foldl_snd_kept, closeReadGate_kept, completeTags_kept, foldl_kept, starterStop_kept]
    | with_reducible refine (foldl_kept _ (fun _ _ => ?_) _ _).trans ?_
    | with_reducible refine (foldl_snd_kept _ (fun _ _ => ?_) _ _).trans ?_
    | split
    | dsimp only
theorem enterHoldover_kept (s : State) :
    (enterHoldover s).kept lv = s.kept lv := by
  unfold enterHoldover
  repeat' first
    | with_reducible rfl
    | simp only [kept_ite, kept_snd_ite, ite_self, kept_fold, kept_mk, State.put_kept, State.spnMap_kept, raise_kept, suspendMedia_kept, winhSet_kept]
    | split | dsimp only
theorem enterUnlocked_kept (s : State) :
    (enterUnlocked s).kept lv = s.kept lv := by
  unfold enterUnlocked
  repeat' first
    | with_reducible rfl
    | simp only [kept_fold, kept_mk, State.put_kept, State.spnMap_kept, starterStop_kept, winhClear_kept]
    | dsimp only
theorem tryLock_kept (s : State) :
    (tryLock s).kept lv = s.kept lv := by
  unfold tryLock
  repeat' first
    | with_reducible rfl
    | simp only [implies_true, kept_ite, kept_snd_ite, ite_self, kept_fold, kept_mk, foldl_kept, foldl_snd_kept, State.put_kept, State.spnMap_kept, raiseIf_kept, raise_kept, reacquire_kept, winhClear_kept]
    | with_reducible refine (foldl_kept _ (fun _ _ => ?_) _ _).trans ?_
    | with_reducible refine (foldl_snd_kept _ (fun _ _ => ?_) _ _).trans ?_ | split | dsimp only
theorem setPlState_kept (s : State) (v : Nat) :
    (setPlState s v).kept lv = s.kept lv := by
  unfold setPlState
  repeat' first
    | with_reducible rfl
    | simp only [id_eq, implies_true, kept_ite, kept_snd_ite, ite_self, kept_fold, kept_mk, foldl_kept, foldl_snd_kept, State.put_kept]
    | split
    | dsimp only
theorem plEvent_kept (s : State) :
    (plEvent s).kept lv = s.kept lv := by
  unfold plEvent
  repeat' first
    | with_reducible rfl
    | simp only [id_eq, implies_true, kept_ite, kept_snd_ite, ite_self, kept_fold, kept_mk, foldl_kept, foldl_snd_kept, raise_kept]
    | split
    | dsimp only
theorem plDone_kept (s : State) :
    (plDone s).kept lv = s.kept lv := by
  unfold plDone
  repeat' first
    | with_reducible rfl
    | simp only [id_eq, implies_true, kept_ite, kept_snd_ite, ite_self, kept_fold, kept_mk, foldl_kept, foldl_snd_kept, plEvent_kept, setPlState_kept]
    | split
    | dsimp only
theorem settleStop_kept (s : State) :
    (settleStop s).kept lv = s.kept lv := by
  unfold settleStop
  repeat' first
    | with_reducible rfl
    | simp only [kept_ite, kept_snd_ite, ite_self, kept_fold, kept_mk, State.spnMap_kept, setSpn_kept] | split
    | dsimp only
theorem spinDown_kept (s : State) :
    (spinDown s).kept lv = s.kept lv := by
  unfold spinDown
  repeat' first
    | with_reducible rfl
    | simp only [kept_fold, kept_mk, State.spnMap_kept, retractAll_kept, settleStop_kept, stopSampling_kept]
    | dsimp only
theorem beginDetect_kept (s : State) :
    (beginDetect s).kept lv = s.kept lv := by
  unfold beginDetect
  repeat' first
    | with_reducible rfl | simp only [kept_fold, kept_mk, State.spnMap_kept, setSpn_kept] | dsimp only
theorem beginStart_kept (s : State) :
    (beginStart s).kept lv = s.kept lv := by
  unfold beginStart
  repeat' first
    | with_reducible rfl | simp only [kept_fold, kept_mk, State.spnMap_kept, beginDetect_kept] | dsimp only
theorem spnRefused_kept (s : State) (why : Nat) :
    (spnRefused s why).kept lv = s.kept lv := by
  unfold spnRefused
  repeat' first
    | with_reducible rfl | simp only [State.put_kept, raise_kept] | dsimp only
theorem speedWrite_kept (s : State) (v : Nat) :
    (speedWrite s v).kept lv = s.kept lv := by
  unfold speedWrite
  repeat' first
    | with_reducible rfl
    | simp only [kept_ite, kept_snd_ite, ite_self, State.put_kept, setSpn_kept, spnRefused_kept, stopSampling_kept]
    | split | dsimp only
theorem spnCtlWrite_kept (q : Req) (w : Word) (s : State) :
    (spnCtlWrite q w s).kept lv = s.kept lv := by
  unfold spnCtlWrite
  repeat' first
    | with_reducible rfl
    | simp only [kept_ite, kept_snd_ite, ite_self, State.put_kept, beginStart_kept, plainWrite_kept, speedWrite_kept, spinDown_kept, spnRefused_kept]
    | split | dsimp only
theorem execSpinStart_kept (q : Req) (w : BitVec 32) (s : State) :
    ∀ t, execSpinStart q w s = .next t → t.kept lv = s.kept lv := by
  intro t h
  unfold execSpinStart at h
  injection h with h
  subst h
  repeat' first
    | with_reducible rfl | simp only [implies_true, guarded_kept, spnCtlWrite_kept]
    | with_reducible refine (guarded_ho (fun _ => ?_)).trans ?_ | dsimp only
theorem execSpinStop_kept (q : Req) (w : BitVec 32) (s : State) :
    ∀ t, execSpinStop q w s = .next t → t.kept lv = s.kept lv := by
  intro t h
  unfold execSpinStop at h
  injection h with h
  subst h
  repeat' first
    | with_reducible rfl | simp only [implies_true, guarded_kept, spnCtlWrite_kept]
    | with_reducible refine (guarded_ho (fun _ => ?_)).trans ?_ | dsimp only
theorem execSpeedChangeRequest_kept (q : Req) (w : BitVec 32) (s : State) :
    ∀ t, execSpeedChangeRequest q w s = .next t → t.kept lv = s.kept lv := by
  intro t h
  unfold execSpeedChangeRequest at h
  injection h with h
  subst h
  repeat' first
    | with_reducible rfl | simp only [implies_true, guarded_kept, spnCtlWrite_kept]
    | with_reducible refine (guarded_ho (fun _ => ?_)).trans ?_ | dsimp only
theorem execDetectComplete_kept (backward : Bool) (rpm : BitVec 32) (s : State) :
    ∀ t, execDetectComplete backward rpm s = .next t → t.kept lv = s.kept lv := by
  intro t h
  unfold execDetectComplete at h
  injection h with h
  subst h
  repeat' first
    | with_reducible rfl
    | simp only [kept_ite, kept_snd_ite, ite_self, kept_fold, kept_mk, State.bump_kept, State.put_kept, State.spnMap_kept, raise_kept, setSpn_kept]
    | split | dsimp only
theorem execReverseBrakeDone_kept (s : State) :
    ∀ t, execReverseBrakeDone s = .next t → t.kept lv = s.kept lv := by
  intro t h
  unfold execReverseBrakeDone at h
  injection h with h
  subst h
  repeat' first
    | with_reducible rfl
    | simp only [kept_ite, kept_snd_ite, ite_self, kept_fold, kept_mk, State.spnMap_kept, setSpn_kept] | split
    | dsimp only
theorem attemptMade_kept (s : State) :
    (attemptMade s).kept lv = s.kept lv := by
  unfold attemptMade
  repeat' first
    | with_reducible rfl | simp only [kept_fold, kept_mk, State.spnMap_kept] | dsimp only
theorem startCrossing_kept (s : State) (backward close : Bool) :
    (startCrossing s backward close).kept lv = s.kept lv := by
  unfold startCrossing
  repeat' first
    | with_reducible rfl
    | simp only [kept_ite, kept_snd_ite, ite_self, kept_fold, kept_mk, State.put_kept, State.spnMap_kept, attemptMade_kept, raise_kept, setSpn_kept]
    | split | dsimp only
theorem loopCrossing_kept (s : State) (close : Bool) :
    (loopCrossing s close).kept lv = s.kept lv := by
  unfold loopCrossing
  repeat' first
    | with_reducible rfl
    | simp only [kept_ite, kept_snd_ite, ite_self, kept_fold, kept_mk, State.put_kept, State.spnMap_kept, tryLock_kept, winhClear_kept]
    | split | dsimp only
theorem execZeroCrossing_kept (backward : Bool) (phase : Int) (interval : BitVec 48) (mean peak : BitVec 16) (s : State) :
    ∀ t, execZeroCrossing backward phase interval mean peak s = .next t → t.kept lv = s.kept lv := by
  intro t h
  unfold execZeroCrossing at h
  injection h with h
  subst h
  repeat' first
    | with_reducible rfl
    | simp only [id_eq, implies_true, kept_ite, kept_snd_ite, ite_self, kept_fold, kept_mk, foldl_kept, foldl_snd_kept, State.put_kept, followCrossing_kept, loopCrossing_kept, startCrossing_kept]
    | split
    | dsimp only
theorem rotorLost_kept (s : State) :
    (rotorLost s).kept lv = s.kept lv := by
  unfold rotorLost
  repeat' first
    | with_reducible rfl
    | simp only [kept_ite, kept_snd_ite, ite_self, kept_fold, kept_mk, State.bump_kept, State.spnMap_kept, enterHoldover_kept, raise_kept, setSpn_kept]
    | split | dsimp only
theorem execWindowEmpty_kept (s : State) :
    ∀ t, execWindowEmpty s = .next t → t.kept lv = s.kept lv := by
  intro t h
  unfold execWindowEmpty at h
  injection h with h
  subst h
  repeat' first
    | with_reducible rfl
    | simp only [kept_ite, kept_snd_ite, ite_self, kept_fold, kept_mk, State.bump_kept, State.spnMap_kept, raise_kept, rotorLost_kept, winhSet_kept]
    | split | dsimp only
theorem startCatchFails_kept (s : State) :
    (startCatchFails s).kept lv = s.kept lv := by
  unfold startCatchFails
  repeat' first
    | with_reducible rfl | simp only [kept_fold, kept_mk, State.spnMap_kept, setSpn_kept] | dsimp only
theorem recatchFails_kept (s : State) :
    (recatchFails s).kept lv = s.kept lv := by
  unfold recatchFails
  repeat' first
    | with_reducible rfl
    | simp only [kept_fold, kept_mk, State.bump_kept, State.spnMap_kept, raise_kept, spinDown_kept] | dsimp only
theorem execCatchMeasureComplete_kept (rpm : BitVec 32) (error : Int) (s : State) :
    ∀ t, execCatchMeasureComplete rpm error s = .next t → t.kept lv = s.kept lv := by
  intro t h
  unfold execCatchMeasureComplete at h
  injection h with h
  subst h
  repeat' first
    | with_reducible rfl
    | simp only [kept_ite, kept_snd_ite, ite_self, kept_fold, kept_mk, State.put_kept, State.spnMap_kept, attemptMade_kept, recatchFails_kept, setSpn_kept, startCatchFails_kept]
    | split | dsimp only
theorem execRecatchTimeout_kept (s : State) :
    ∀ t, execRecatchTimeout s = .next t → t.kept lv = s.kept lv := by
  intro t h
  unfold execRecatchTimeout at h
  injection h with h
  subst h
  repeat' first
    | with_reducible rfl
    | simp only [kept_ite, kept_snd_ite, ite_self, kept_fold, kept_mk, State.spnMap_kept, recatchFails_kept, startCatchFails_kept]
    | split | dsimp only
theorem execStartAttemptTimeout_kept (s : State) :
    ∀ t, execStartAttemptTimeout s = .next t → t.kept lv = s.kept lv := by
  intro t h
  unfold execStartAttemptTimeout at h
  injection h with h
  subst h
  repeat' first
    | with_reducible rfl
    | simp only [id_eq, implies_true, kept_ite, kept_snd_ite, ite_self, kept_fold, kept_mk, foldl_kept, foldl_snd_kept, State.put_kept, State.spnMap_kept, raise_kept, setPageState_kept, setSpn_kept]
    | split
    | dsimp only
theorem execStartRetry_kept (s : State) :
    ∀ t, execStartRetry s = .next t → t.kept lv = s.kept lv := by
  intro t h
  unfold execStartRetry at h
  injection h with h
  subst h
  repeat' first
    | with_reducible rfl | simp only [kept_ite, kept_snd_ite, ite_self, beginDetect_kept] | split | dsimp only
theorem endTimedOut_kept (s : State) :
    (endTimedOut s).kept lv = s.kept lv := by
  unfold endTimedOut
  repeat' first
    | with_reducible rfl
    | simp only [implies_true, kept_ite, kept_snd_ite, ite_self, foldl_kept, foldl_snd_kept, setVcmState_kept]
    | with_reducible refine (foldl_kept _ (fun _ _ => ?_) _ _).trans ?_
    | with_reducible refine (foldl_snd_kept _ (fun _ _ => ?_) _ _).trans ?_ | split | dsimp only
theorem execSpindownComplete_kept (s : State) :
    ∀ t, execSpindownComplete s = .next t → t.kept lv = s.kept lv := by
  intro t h
  unfold execSpindownComplete at h
  injection h with h
  subst h
  repeat' first
    | with_reducible rfl
    | simp only [kept_ite, kept_snd_ite, ite_self, State.bump_kept, beginDetect_kept, beginStart_kept, endTimedOut_kept, enterUnlocked_kept, setSpn_kept]
    | split | dsimp only
theorem execSpeedTargetReached_kept (rpm : BitVec 32) (elapsed : BitVec 16) (s : State) :
    ∀ t, execSpeedTargetReached rpm elapsed s = .next t → t.kept lv = s.kept lv := by
  intro t h
  unfold execSpeedTargetReached at h
  injection h with h
  subst h
  repeat' first
    | with_reducible rfl
    | simp only [kept_ite, kept_snd_ite, ite_self, kept_fold, kept_mk, State.put_kept, State.spnMap_kept, setSpn_kept]
    | split | dsimp only
theorem execSpindleStopped_kept (s : State) :
    ∀ t, execSpindleStopped s = .next t → t.kept lv = s.kept lv := by
  intro t h
  unfold execSpindleStopped at h
  injection h with h
  subst h
  repeat' first
    | with_reducible rfl
    | simp only [kept_ite, kept_snd_ite, ite_self, kept_fold, kept_mk, State.spnMap_kept, endTimedOut_kept, setSpn_kept]
    | split | dsimp only
theorem spnFaults_kept (s : State) :
    (spnFaults s).kept lv = s.kept lv := by
  unfold spnFaults
  repeat' first
    | with_reducible rfl
    | simp only [id_eq, implies_true, kept_ite, kept_snd_ite, ite_self, kept_fold, kept_mk, foldl_kept, foldl_snd_kept, State.put_kept, State.spnMap_kept, enterHoldover_kept, raise_kept, retractAll_kept, setPageState_kept, setSpn_kept]
    | split
    | dsimp only
theorem execSpnTerminalFault_kept (kind : SpnFault) (s : State) :
    ∀ t, execSpnTerminalFault kind s = .next t → t.kept lv = s.kept lv := by
  intro t h
  unfold execSpnTerminalFault at h
  injection h with h
  subst h
  repeat' first
    | with_reducible rfl
    | simp only [kept_ite, kept_snd_ite, ite_self, kept_fold, kept_mk, State.put_kept, spnFaults_kept]
    | with_reducible refine (kept_of_eq ‹_›).trans ?_ | with_reducible refine (kept_of_eq3 ‹_›).trans ?_ | split
    | dsimp only
theorem execSpnBridgeOvertemp_kept (s : State) :
    ∀ t, execSpnBridgeOvertemp s = .next t → t.kept lv = s.kept lv := by
  intro t h
  unfold execSpnBridgeOvertemp at h
  injection h with h
  subst h
  repeat' first
    | with_reducible rfl | simp only [kept_ite, kept_snd_ite, ite_self, State.put_kept, spnFaults_kept] | split
    | dsimp only
theorem spnWrite_kept (q : Req) (off : Nat) (w : Word) (s : State) :
    (spnWrite q off w s).kept lv = s.kept lv := by
  unfold spnWrite
  repeat' first
    | with_reducible rfl
    | simp only [kept_ite, kept_snd_ite, ite_self, State.put_kept, plainWrite_kept, spnCtlWrite_kept] | split
    | dsimp only
theorem retractEnded_kept (s : State) :
    (retractEnded s).kept lv = s.kept lv := by
  unfold retractEnded
  repeat' first
    | with_reducible rfl
    | simp only [id_eq, implies_true, kept_ite, kept_snd_ite, ite_self, kept_fold, kept_mk, foldl_kept, foldl_snd_kept, plDone_kept, settleStop_kept]
    | split
    | dsimp only
theorem execRetractParked_kept (vcm : Fin 4) (s : State) :
    ∀ t, execRetractParked vcm s = .next t → t.kept false = s.kept false := by
  intro t h
  unfold execRetractParked at h
  injection h with h
  subst h
  repeat' first
    | with_reducible rfl
    | simp only [id_eq, implies_true, kept_ite, kept_snd_ite, ite_self, kept_fold0, kept_mk0, foldl_kept, foldl_snd_kept, parked_kept, retractEnded_kept]
    | split
    | dsimp only
theorem execRetractTimeout_kept (vcm : Fin 4) (s : State) :
    ∀ t, execRetractTimeout vcm s = .next t → t.kept lv = s.kept lv := by
  intro t h
  unfold execRetractTimeout at h
  injection h with h
  subst h
  repeat' first
    | with_reducible rfl
    | simp only [id_eq, implies_true, kept_ite, kept_snd_ite, ite_self, kept_fold, kept_mk, foldl_kept, foldl_snd_kept, State.put_kept, State.setVcm_kept, raise_kept, retractEnded_kept]
    | split
    | dsimp only
theorem execVcmFaultDetect_kept (vcm : Fin 4) (kind : CoilFault) (s : State) :
    ∀ t, execVcmFaultDetect vcm kind s = .next t → t.kept lv = s.kept lv := by
  intro t h
  unfold execVcmFaultDetect at h
  injection h with h
  subst h
  repeat' first
    | with_reducible rfl
    | simp only [kept_ite, kept_snd_ite, ite_self, kept_fold, kept_mk, State.bump_kept, State.put_kept, State.setVcm_kept, pageFault_kept, raise_kept, setVcmState_kept, retractEnded_kept]
    | split | dsimp only
theorem ovBrake_kept (s : State) :
    (ovBrake s).kept lv = s.kept lv := by
  unfold ovBrake
  repeat' first
    | with_reducible rfl
    | simp only [kept_ite, kept_snd_ite, ite_self, kept_fold, kept_mk, State.spnMap_kept, raise_kept, setSpn_kept]
    | split | dsimp only
theorem chopFault_kept (s : State) (code : Nat) :
    (chopFault s code).kept lv = s.kept lv := by
  unfold chopFault
  repeat' first
    | with_reducible rfl | simp only [State.put_kept, ovBrake_kept, raise_kept] | dsimp only
theorem execChopperGate_kept (hup : BitVec 16) (s : State) :
    ∀ t, execChopperGate hup s = .next t → t.kept lv = s.kept lv := by
  intro t h
  unfold execChopperGate at h
  injection h with h
  subst h
  repeat' first
    | with_reducible rfl
    | simp only [id_eq, implies_true, kept_ite, kept_snd_ite, ite_self, kept_fold, kept_mk, foldl_kept, foldl_snd_kept, State.put_kept, State.spnMap_kept]
    | split
    | dsimp only
theorem execChopperCurrentCheck_kept (ma : BitVec 16) (s : State) :
    ∀ t, execChopperCurrentCheck ma s = .next t → t.kept lv = s.kept lv := by
  intro t h
  unfold execChopperCurrentCheck at h
  injection h with h
  subst h
  repeat' first
    | with_reducible rfl
    | simp only [kept_ite, kept_snd_ite, ite_self, kept_fold, kept_mk, State.put_kept, State.spnMap_kept, chopFault_kept]
    | split | dsimp only
theorem execChopperTimeout_kept (s : State) :
    ∀ t, execChopperTimeout s = .next t → t.kept lv = s.kept lv := by
  intro t h
  unfold execChopperTimeout at h
  injection h with h
  subst h
  repeat' first
    | with_reducible rfl
    | simp only [kept_ite, kept_snd_ite, ite_self, kept_fold, kept_mk, State.spnMap_kept, chopFault_kept]
    | split | dsimp only
theorem execChopperRelease_kept (hup : BitVec 16) (s : State) :
    ∀ t, execChopperRelease hup s = .next t → t.kept lv = s.kept lv := by
  intro t h
  unfold execChopperRelease at h
  injection h with h
  subst h
  repeat' first
    | with_reducible rfl
    | simp only [id_eq, implies_true, kept_ite, kept_snd_ite, ite_self, kept_fold, kept_mk, foldl_kept, foldl_snd_kept, State.put_kept, State.spnMap_kept]
    | split
    | dsimp only
theorem execChopperStuckOn_kept (s : State) :
    ∀ t, execChopperStuckOn s = .next t → t.kept lv = s.kept lv := by
  intro t h
  unfold execChopperStuckOn at h
  injection h with h
  subst h
  repeat' first
    | with_reducible rfl | simp only [kept_ite, kept_snd_ite, ite_self, chopFault_kept] | split | dsimp only
theorem execHupOv1_kept (s : State) :
    ∀ t, execHupOv1 s = .next t → t.kept lv = s.kept lv := by
  intro t h
  unfold execHupOv1 at h
  injection h with h
  subst h
  repeat' first
    | with_reducible rfl | simp only [State.bump_kept, State.put_kept, ovBrake_kept, raise_kept, winhSet_kept]
    | dsimp only
theorem execHupOv2_kept (s : State) :
    ∀ t, execHupOv2 s = .next t → t.kept lv = s.kept lv := by
  intro t h
  unfold execHupOv2 at h
  injection h with h
  subst h
  repeat' first
    | with_reducible rfl
    | simp only [kept_ite, kept_snd_ite, ite_self, kept_fold, kept_mk, State.bump_kept, State.put_kept, State.spnMap_kept, raise_kept, setSpn_kept]
    | split | dsimp only
theorem execOvRecover_kept (s : State) :
    ∀ t, execOvRecover s = .next t → t.kept lv = s.kept lv := by
  intro t h
  unfold execOvRecover at h
  injection h with h
  subst h
  repeat' first
    | with_reducible rfl
    | simp only [id_eq, implies_true, kept_ite, kept_snd_ite, ite_self, kept_fold, kept_mk, foldl_kept, foldl_snd_kept, State.put_kept, State.spnMap_kept, setSpn_kept, settleStop_kept, winhClear_kept]
    | split
    | dsimp only
theorem execOvRetractTimeout_kept (s : State) :
    ∀ t, execOvRetractTimeout s = .next t → t.kept lv = s.kept lv := by
  intro t h
  unfold execOvRetractTimeout at h
  injection h with h
  subst h
  repeat' first
    | with_reducible rfl | simp only [kept_ite, kept_snd_ite, ite_self, retractAll_kept] | split | dsimp only
theorem execIn5Loss_kept (s : State) :
    ∀ t, execIn5Loss s = .next t → t.kept lv = s.kept lv := by
  intro t h
  unfold execIn5Loss at h
  injection h with h
  subst h
  repeat' first
    | with_reducible rfl | simp only [State.put_kept, raiseIf_kept] | dsimp only
theorem execIn5Return_kept (s : State) :
    ∀ t, execIn5Return s = .next t → t.kept lv = s.kept lv := by
  intro t h
  unfold execIn5Return at h
  injection h with h
  subst h
  repeat' first
    | with_reducible rfl | simp only [State.put_kept] | dsimp only
theorem execHoldupFloor_kept (rpm : BitVec 32) (hup : BitVec 16) (s : State) :
    ∀ t, execHoldupFloor rpm hup s = .next t → t.kept lv = s.kept lv := by
  intro t h
  unfold execHoldupFloor at h
  injection h with h
  subst h
  repeat' first
    | with_reducible rfl
    | simp only [id_eq, implies_true, kept_ite, kept_snd_ite, ite_self, kept_fold, kept_mk, foldl_kept, foldl_snd_kept, State.put_kept, State.spnMap_kept, raise_kept, retractAll_kept]
    | split
    | dsimp only
theorem execIn12Return_kept (s : State) :
    ∀ t, execIn12Return s = .next t → t.kept lv = s.kept lv := by
  intro t h
  unfold execIn12Return at h
  injection h with h
  subst h
  repeat' first
    | with_reducible rfl | simp only [kept_ite, kept_snd_ite, ite_self, State.put_kept, raiseIf_kept] | split
    | dsimp only
theorem execHvOkLoss_kept (s : State) :
    ∀ t, execHvOkLoss s = .next t → t.kept lv = s.kept lv := by
  intro t h
  unfold execHvOkLoss at h
  injection h with h
  subst h
  repeat' first
    | with_reducible rfl
    | simp only [kept_ite, kept_snd_ite, ite_self, kept_fold, kept_mk, State.put_kept, raise_kept] | split
    | dsimp only
theorem clampCoil_kept (v : Nat) (s : State) (a : Nat) :
    (clampCoil v s a).kept lv = s.kept lv := by
  unfold clampCoil
  repeat' first
    | with_reducible rfl
    | simp only [id_eq, implies_true, kept_ite, kept_snd_ite, ite_self, kept_fold, kept_mk, foldl_kept, foldl_snd_kept, State.put_kept]
    | split
    | dsimp only
theorem clampCoils_kept (s : State) (v : Nat) :
    (clampCoils s v).kept lv = s.kept lv := by
  unfold clampCoils
  repeat' first
    | with_reducible rfl
    | simp only [id_eq, implies_true, kept_ite, kept_snd_ite, ite_self, kept_fold, kept_mk, foldl_kept, foldl_snd_kept, State.put_kept, clampCoil_kept, foldl_kept]
    | with_reducible refine (foldl_kept _ (fun _ _ => ?_) _ _).trans ?_
    | with_reducible refine (foldl_snd_kept _ (fun _ _ => ?_) _ _).trans ?_
    | split
    | dsimp only
theorem execSupplyCurrentMeasure_kept (ma hup in12 : BitVec 16) (s : State) :
    ∀ t, execSupplyCurrentMeasure ma hup in12 s = .next t → t.kept lv = s.kept lv := by
  intro t h
  unfold execSupplyCurrentMeasure at h
  injection h with h
  subst h
  repeat' first
    | with_reducible rfl
    | simp only [kept_ite, kept_snd_ite, ite_self, kept_fold, kept_mk, State.put_kept, State.spnMap_kept, clampCoils_kept, raise_kept]
    | split | dsimp only
theorem pwrWrite_kept (q : Req) (off : Nat) (w : Word) (s : State) :
    (pwrWrite q off w s).kept lv = s.kept lv := by
  unfold pwrWrite
  repeat' first
    | with_reducible rfl
    | simp only [id_eq, implies_true, kept_ite, kept_snd_ite, ite_self, kept_fold, kept_mk, foldl_kept, foldl_snd_kept, State.put_kept, State.spnMap_kept, plainWrite_kept]
    | split
    | dsimp only
end Sys2Proof.Machine
end

