-- ==== Sys2Proof/Laws/KeptNvs.lean ====
section
/-! SUPPORT. Frame laws of Machine/Nvs.lean: each operation and command there leaves the fuses and the queue
as they are, and the stores too where the law says so of every level. -/

namespace Sys2Proof.Machine

open Sys2Proof

set_option maxRecDepth 4000
set_option linter.all false

variable {lv : Bool}

theorem State.nvMap_kept (s : State) (f : Nv → Nv) :
    (State.nvMap s f).kept false = s.kept false := by
  unfold State.nvMap
  repeat' first
    | with_reducible rfl | simp only [kept_fold0, kept_mk0] | dsimp only
theorem nvProgram_kept (s : State) (w data : Nat) :
    (nvProgram s w data).kept false = s.kept false := by
  unfold nvProgram
  repeat' first
    | with_reducible rfl | simp only [kept_fold0, kept_mk0, State.nvMap_kept] | dsimp only
theorem nvBreak_kept (s : State) (w : Nat) :
    (nvBreak s w).kept false = s.kept false := by
  unfold nvBreak
  repeat' first
    | with_reducible rfl | simp only [kept_ite, kept_snd_ite, ite_self, kept_fold0, kept_mk0, State.nvMap_kept]
    | split | dsimp only
theorem nvErase_kept (s : State) (u : Nat) :
    (nvErase s u).kept false = s.kept false := by
  unfold nvErase
  repeat' first
    | with_reducible rfl | simp only [kept_fold0, kept_mk0, State.nvMap_kept] | dsimp only
theorem nvCut_kept (s : State) (u : Nat) :
    (nvCut s u).kept false = s.kept false := by
  unfold nvCut
  repeat' first
    | with_reducible rfl | simp only [kept_fold0, kept_mk0, State.nvMap_kept, nvErase_kept] | dsimp only
theorem journalScan_kept (s : State) :
    (journalScan s).kept lv = s.kept lv := by
  unfold journalScan
  repeat' first
    | with_reducible rfl | simp only [kept_ite, kept_snd_ite, ite_self, State.put_kept] | split | dsimp only
theorem lockSync_kept (s : State) :
    (lockSync s).kept lv = s.kept lv := by
  unfold lockSync
  repeat' first
    | with_reducible rfl | simp only [kept_ite, kept_snd_ite, ite_self, State.put_kept] | split | dsimp only
theorem lowered_kept (s : State) (level : Nat) :
    (lowered s level).kept false = s.kept false := by
  unfold lowered
  repeat' first
    | with_reducible rfl
    | simp only [kept_fold0, kept_mk0, State.nvMap_kept, State.put_kept, journalScan_kept, lockSync_kept, raise_kept]
    | dsimp only
theorem nvsSync_kept (s : State) :
    (nvsSync s).kept lv = s.kept lv := by
  unfold nvsSync
  repeat' first
    | with_reducible rfl | simp only [kept_ite, kept_snd_ite, ite_self, kept_fold, kept_mk, State.put_kept]
    | with_reducible refine (kept_of_eq ‹_›).trans ?_ | with_reducible refine (kept_of_eq3 ‹_›).trans ?_ | split
    | dsimp only
theorem nvsResult_kept (s : State) (r : Nat) :
    (nvsResult s r).kept lv = s.kept lv := by
  unfold nvsResult
  repeat' first
    | with_reducible rfl
    | simp only [kept_ite, kept_snd_ite, ite_self, State.bump_kept, State.put_kept, raise_kept] | split
    | dsimp only
theorem quarterUp_kept (s : State) (w : Nat) :
    (quarterUp s w).kept lv = s.kept lv := by
  unfold quarterUp
  repeat' first
    | with_reducible rfl
    | simp only [id_eq, implies_true, kept_ite, kept_snd_ite, ite_self, kept_fold, kept_mk, foldl_kept, foldl_snd_kept, powerUp_kept]
    | split
    | dsimp only
theorem nvRun_kept (s : State) (o : NvOp) :
    (nvRun s o).kept false = s.kept false := by
  unfold nvRun
  repeat' first
    | with_reducible rfl | simp only [kept_fold0, kept_mk0, State.nvMap_kept, nvsSync_kept] | dsimp only
theorem beginErase_kept (s : State) (o : NvOp) :
    (beginErase s o).kept false = s.kept false := by
  unfold beginErase
  repeat' first
    | with_reducible rfl
    | simp only [kept_fold0, kept_mk0, State.put_kept, nvProgram_kept, nvRun_kept, quarterUp_kept] | dsimp only
theorem beginLock_kept (s : State) (o : NvOp) :
    (beginLock s o).kept false = s.kept false := by
  unfold beginLock
  repeat' first
    | with_reducible rfl
    | simp only [kept_ite, kept_snd_ite, ite_self, kept_fold0, kept_mk0, State.nvMap_kept, State.put_kept, nvRun_kept, nvsResult_kept]
    | split | dsimp only
theorem nvBegin_kept (s : State) (o : NvOp) :
    (nvBegin s o).kept false = s.kept false := by
  unfold nvBegin
  repeat' first
    | with_reducible rfl
    | simp only [kept_ite, kept_snd_ite, ite_self, kept_fold0, kept_mk0, beginErase_kept, beginLock_kept, nvRun_kept, nvsResult_kept, quarterUp_kept]
    | with_reducible refine (kept_of_eq ‹_›).trans ?_ | with_reducible refine (kept_of_eq3 ‹_›).trans ?_ | split
    | dsimp only
theorem abortPending_kept (s : State) :
    (abortPending s).kept false = s.kept false := by
  unfold abortPending
  repeat' first
    | with_reducible rfl
    | simp only [implies_true, kept_fold0, kept_mk0, foldl_kept, foldl_snd_kept, State.nvMap_kept, nvsResult_kept]
    | with_reducible refine (foldl_kept _ (fun _ _ => ?_) _ _).trans ?_
    | with_reducible refine (foldl_snd_kept _ (fun _ _ => ?_) _ _).trans ?_ | dsimp only
theorem nvNext_kept (s : State) :
    (nvNext s).kept false = s.kept false := by
  unfold nvNext
  repeat' first
    | with_reducible rfl
    | simp only [id_eq, implies_true, kept_ite, kept_snd_ite, ite_self, kept_fold0, kept_mk0, foldl_kept, foldl_snd_kept, State.nvMap_kept, foldl_kept, nvBegin_kept, nvRun_kept, nvsSync_kept, quarterUp_kept]
    | with_reducible refine (foldl_kept _ (fun _ _ => ?_) _ _).trans ?_
    | with_reducible refine (foldl_snd_kept _ (fun _ _ => ?_) _ _).trans ?_
    | with_reducible refine (kept_of_eq ‹_›).trans ?_
    | with_reducible refine (kept_of_eq3 ‹_›).trans ?_
    | split
    | dsimp only
theorem nvSubmit_kept (s : State) (o : NvOp) :
    (nvSubmit s o).kept false = s.kept false := by
  unfold nvSubmit
  repeat' first
    | with_reducible rfl
    | simp only [kept_ite, kept_snd_ite, ite_self, kept_fold0, kept_mk0, State.nvMap_kept, nvNext_kept, nvsResult_kept]
    | split | dsimp only
theorem seqError_kept (s : State) :
    (seqError s).kept false = s.kept false := by
  unfold seqError
  repeat' first
    | with_reducible rfl | simp only [kept_fold0, kept_mk0, State.nvMap_kept, nvsResult_kept, nvsSync_kept]
    | dsimp only
theorem seqGoes_kept (s : State) (x : NvSeq) :
    (seqGoes s x).kept false = s.kept false := by
  unfold seqGoes
  repeat' first
    | with_reducible rfl
    | simp only [kept_ite, kept_snd_ite, ite_self, kept_fold0, kept_mk0, State.nvMap_kept, nvSubmit_kept, nvsSync_kept]
    | split | dsimp only
theorem nvSeqWrite_kept (s : State) (q : Req) (ok : NvSeq → Bool) (upd : NvSeq → NvSeq) :
    (nvSeqWrite s q ok upd).kept false = s.kept false := by
  unfold nvSeqWrite
  repeat' first
    | with_reducible rfl
    | simp only [kept_ite, kept_snd_ite, ite_self, kept_fold0, kept_mk0, State.bump_kept, seqError_kept, seqGoes_kept]
    | with_reducible refine (kept_of_eq ‹_›).trans ?_ | with_reducible refine (kept_of_eq3 ‹_›).trans ?_ | split
    | dsimp only
theorem nvsKeyWrite_kept (q : Req) (w : Word) (s : State) :
    (nvsKeyWrite q w s).kept false = s.kept false := by
  unfold nvsKeyWrite
  repeat' first
    | with_reducible rfl | simp only [id_eq, kept_ite, kept_snd_ite, ite_self, nvSeqWrite_kept, seqGoes_kept]
    | split | dsimp only
theorem nvsCmdWrite_kept (q : Req) (w : Word) (s : State) :
    (nvsCmdWrite q w s).kept false = s.kept false := by
  unfold nvsCmdWrite
  repeat' first
    | with_reducible rfl | simp only [kept_fold0, kept_mk0, nvSeqWrite_kept] | dsimp only
theorem nvsAddrWrite_kept (q : Req) (w : Word) (s : State) :
    (nvsAddrWrite q w s).kept false = s.kept false := by
  unfold nvsAddrWrite
  repeat' first
    | with_reducible rfl
    | simp only [kept_ite, kept_snd_ite, ite_self, kept_fold0, kept_mk0, State.put_kept, nvSeqWrite_kept]
    | split | dsimp only
theorem nvsDataWrite_kept (q : Req) (n : Nat) (w : Word) (s : State) :
    (nvsDataWrite q n w s).kept false = s.kept false := by
  unfold nvsDataWrite
  repeat' first
    | with_reducible rfl | simp only [kept_fold0, kept_mk0, nvSeqWrite_kept] | dsimp only
theorem execNvsKeyWrite_kept (q : Req) (w : BitVec 32) (s : State) :
    ∀ t, execNvsKeyWrite q w s = .next t → t.kept false = s.kept false := by
  intro t h
  unfold execNvsKeyWrite at h
  injection h with h
  subst h
  repeat' first
    | with_reducible rfl | simp only [implies_true, guarded_kept, nvsKeyWrite_kept]
    | with_reducible refine (guarded_ho (fun _ => ?_)).trans ?_ | dsimp only
theorem execNvsCmdWrite_kept (q : Req) (w : BitVec 32) (s : State) :
    ∀ t, execNvsCmdWrite q w s = .next t → t.kept false = s.kept false := by
  intro t h
  unfold execNvsCmdWrite at h
  injection h with h
  subst h
  repeat' first
    | with_reducible rfl | simp only [implies_true, guarded_kept, nvsCmdWrite_kept]
    | with_reducible refine (guarded_ho (fun _ => ?_)).trans ?_ | dsimp only
theorem execNvsAddrWrite_kept (q : Req) (w : BitVec 32) (s : State) :
    ∀ t, execNvsAddrWrite q w s = .next t → t.kept false = s.kept false := by
  intro t h
  unfold execNvsAddrWrite at h
  injection h with h
  subst h
  repeat' first
    | with_reducible rfl | simp only [implies_true, guarded_kept, nvsAddrWrite_kept]
    | with_reducible refine (guarded_ho (fun _ => ?_)).trans ?_ | dsimp only
theorem execNvsDataWrite_kept (q : Req) (n : Fin 8) (w : BitVec 32) (s : State) :
    ∀ t, execNvsDataWrite q n w s = .next t → t.kept false = s.kept false := by
  intro t h
  unfold execNvsDataWrite at h
  injection h with h
  subst h
  repeat' first
    | with_reducible rfl | simp only [implies_true, guarded_kept, nvsDataWrite_kept]
    | with_reducible refine (guarded_ho (fun _ => ?_)).trans ?_ | dsimp only
theorem execNvsSeqTimeout_kept (s : State) :
    ∀ t, execNvsSeqTimeout s = .next t → t.kept false = s.kept false := by
  intro t h
  unfold execNvsSeqTimeout at h
  injection h with h
  subst h
  repeat' first
    | with_reducible rfl | simp only [kept_ite, kept_snd_ite, ite_self, seqError_kept] | split | dsimp only
theorem nvCorrected_kept (s : State) :
    (nvCorrected s).kept lv = s.kept lv := by
  unfold nvCorrected
  repeat' first
    | with_reducible rfl | simp only [State.bump_kept, raiseIf_kept] | dsimp only
theorem nvUncorrectable_kept (s : State) :
    (nvUncorrectable s).kept lv = s.kept lv := by
  unfold nvUncorrectable
  repeat' first
    | with_reducible rfl | simp only [State.bump_kept, raise_kept] | dsimp only
theorem free256_kept (s : State) :
    (free256 s).2.kept lv = s.kept lv := by
  unfold free256
  repeat' first
    | with_reducible rfl | simp only [kept_fold, kept_mk] | dsimp only
theorem nvReadWord_kept (s : State) (w : Nat) (err : Nat) :
    (nvReadWord s w err).2.kept lv = s.kept lv := by
  unfold nvReadWord
  repeat' first
    | with_reducible rfl
    | simp only [kept_ite, kept_snd_ite, ite_self, kept_fold, kept_mk, State.drawn_kept, free256_kept, nvCorrected_kept, nvUncorrectable_kept]
    | split | dsimp only
theorem wordRead_kept (q : Req) (err : Nat) (s : State) :
    (wordRead q err s).2.kept lv = s.kept lv := by
  unfold wordRead
  repeat' first
    | with_reducible rfl
    | simp only [implies_true, kept_ite, kept_snd_ite, ite_self, foldl_kept, foldl_snd_kept, State.put_kept, latchWords_kept, nvReadWord_kept, quarterUp_kept]
    | with_reducible refine (foldl_kept _ (fun _ _ => ?_) _ _).trans ?_
    | with_reducible refine (foldl_snd_kept _ (fun _ _ => ?_) _ _).trans ?_ | split | dsimp only
theorem execNvsWordRead_kept (q : Req) (error : BitVec 272) (s : State) :
    ∀ t, execNvsWordRead q error s = .next t → t.kept lv = s.kept lv := by
  intro t h
  unfold execNvsWordRead at h
  injection h with h
  subst h
  repeat' first
    | with_reducible rfl
    | simp only [implies_true, kept_ite, kept_snd_ite, ite_self, State.reply_kept, State.wait_kept, guardedRead_kept, wordRead_kept]
    | with_reducible refine (guardedRead_ho (fun _ => ?_)).trans ?_ | split | dsimp only
theorem serveStalled_kept (s : State) :
    (serveStalled s).kept lv = s.kept lv := by
  unfold serveStalled
  repeat' first
    | with_reducible rfl
    | simp only [implies_true, kept_ite, kept_snd_ite, ite_self, kept_fold, kept_mk, State.reply_kept, State.serveEach_kept, wordRead_kept]
    | with_reducible refine (State.serveEach_ho (fun _ _ => ?_)).trans ?_ | split | dsimp only
theorem nvEnd_kept (s : State) :
    (nvEnd s).kept false = s.kept false := by
  unfold nvEnd
  repeat' first
    | with_reducible rfl
    | simp only [kept_fold0, kept_mk0, State.nvMap_kept, nvNext_kept, nvsSync_kept, serveStalled_kept]
    | dsimp only
theorem xferWrite_kept (q : Req) (w : Word) (s : State) :
    (xferWrite q w s).kept false = s.kept false := by
  unfold xferWrite
  repeat' first
    | with_reducible rfl
    | simp only [kept_ite, kept_snd_ite, ite_self, kept_fold0, kept_mk0, State.nvMap_kept, State.put_kept, plainWrite_kept]
    | split | dsimp only
theorem execNvsTransferStart_kept (q : Req) (w : BitVec 32) (s : State) :
    ∀ t, execNvsTransferStart q w s = .next t → t.kept false = s.kept false := by
  intro t h
  unfold execNvsTransferStart at h
  injection h with h
  subst h
  repeat' first
    | with_reducible rfl | simp only [implies_true, guarded_kept, xferWrite_kept]
    | with_reducible refine (guarded_ho (fun _ => ?_)).trans ?_ | dsimp only
theorem xferCopy_kept (er : List (Nat × BitVec 272)) (tcm : Bool) (s : State) (l : List Nat) (d : Nat) (b : Bool) :
    (xferCopy er tcm s l d b).2.kept false = s.kept false := by
  induction l generalizing s d b with
  | nil => unfold xferCopy; repeat' first
            | with_reducible rfl | simp only [nvReadWord_kept, quarterUp_kept, spaceWrite_kept]
            | with_reducible refine (kept_of_eq ‹_›).trans ?_ | with_reducible refine (kept_of_eq3 ‹_›).trans ?_ | split
            | dsimp only
  | cons x l ih => unfold xferCopy; repeat' first
            | with_reducible rfl | simp only [ih, nvReadWord_kept, quarterUp_kept, spaceWrite_kept]
            | with_reducible refine (kept_of_eq ‹_›).trans ?_ | with_reducible refine (kept_of_eq3 ‹_›).trans ?_ | split
            | dsimp only
theorem execNvsTransferComplete_kept (errors : List (Nat × BitVec 272)) (s : State) :
    ∀ t, execNvsTransferComplete errors s = .next t → t.kept false = s.kept false := by
  intro t h
  unfold execNvsTransferComplete at h
  injection h with h
  subst h
  repeat' first
    | with_reducible rfl
    | simp only [kept_ite, kept_snd_ite, ite_self, kept_fold0, kept_mk0, State.nvMap_kept, State.put_kept, xferCopy_kept]
    | with_reducible refine (kept_of_eq ‹_›).trans ?_ | with_reducible refine (kept_of_eq3 ‹_›).trans ?_ | split
    | dsimp only
theorem fwEnd_kept (s : State) (r : Nat) :
    (fwEnd s r).kept false = s.kept false := by
  unfold fwEnd
  repeat' first
    | with_reducible rfl | simp only [nvEnd_kept, nvsResult_kept] | dsimp only
theorem execNvsProgramComplete_kept (verified : Bool) (s : State) :
    ∀ t, execNvsProgramComplete verified s = .next t → t.kept false = s.kept false := by
  intro t h
  unfold execNvsProgramComplete at h
  injection h with h
  subst h
  repeat' first
    | with_reducible rfl
    | simp only [kept_ite, kept_snd_ite, ite_self, kept_fold0, kept_mk0, State.bump_kept, fwEnd_kept, nvBreak_kept, nvProgram_kept]
    | with_reducible refine (kept_of_eq ‹_›).trans ?_ | with_reducible refine (kept_of_eq3 ‹_›).trans ?_ | split
    | dsimp only
theorem eraseDone_kept (s : State) (o : NvOp) :
    (eraseDone s o).kept false = s.kept false := by
  unfold eraseDone
  repeat' first
    | with_reducible rfl
    | simp only [kept_ite, kept_snd_ite, ite_self, State.put_kept, nvErase_kept, nvProgram_kept, raiseIf_kept]
    | split | dsimp only
theorem eraseFails_kept (s : State) (o : NvOp) :
    (eraseFails s o).kept false = s.kept false := by
  unfold eraseFails
  repeat' first
    | with_reducible rfl | simp only [State.bump_kept, State.put_kept, nvCut_kept] | dsimp only
theorem execLockRaiseComplete_kept (s : State) :
    ∀ t, execLockRaiseComplete s = .next t → t.kept false = s.kept false := by
  intro t h
  unfold execLockRaiseComplete at h
  injection h with h
  subst h
  repeat' first
    | with_reducible rfl
    | simp only [kept_ite, kept_snd_ite, ite_self, kept_fold0, kept_mk0, State.nvMap_kept, fwEnd_kept, lockSync_kept, raise_kept]
    | with_reducible refine (kept_of_eq ‹_›).trans ?_ | with_reducible refine (kept_of_eq3 ‹_›).trans ?_ | split
    | dsimp only
theorem execLockLowerComplete_kept (s : State) :
    ∀ t, execLockLowerComplete s = .next t → t.kept false = s.kept false := by
  intro t h
  unfold execLockLowerComplete at h
  injection h with h
  subst h
  repeat' first
    | with_reducible rfl
    | simp only [kept_ite, kept_snd_ite, ite_self, kept_fold0, kept_mk0, fwEnd_kept, lowered_kept]
    | with_reducible refine (kept_of_eq ‹_›).trans ?_ | with_reducible refine (kept_of_eq3 ‹_›).trans ?_ | split
    | dsimp only
theorem quartersUp_kept (s : State) :
    (quartersUp s).kept lv = s.kept lv := by
  unfold quartersUp
  repeat' first
    | with_reducible rfl
    | simp only [id_eq, implies_true, kept_ite, kept_snd_ite, ite_self, kept_fold, kept_mk, foldl_kept, foldl_snd_kept, foldl_kept, quarterUp_kept]
    | with_reducible refine (foldl_kept _ (fun _ _ => ?_) _ _).trans ?_
    | with_reducible refine (foldl_snd_kept _ (fun _ _ => ?_) _ _).trans ?_
    | split
    | dsimp only
theorem scanDue_kept (s : State) :
    (scanDue s).kept false = s.kept false := by
  unfold scanDue
  repeat' first
    | with_reducible rfl | simp only [kept_fold0, kept_mk0, State.nvMap_kept] | dsimp only
theorem scanStart_kept (s : State) :
    (scanStart s).kept false = s.kept false := by
  unfold scanStart
  repeat' first
    | with_reducible rfl
    | simp only [id_eq, implies_true, kept_ite, kept_snd_ite, ite_self, kept_fold0, kept_mk0, foldl_kept, foldl_snd_kept, State.nvMap_kept, State.put_kept, nvsSync_kept, quartersUp_kept]
    | split
    | dsimp only
theorem nvsCtlWrite_kept (q : Req) (w : Word) (s : State) :
    (nvsCtlWrite q w s).kept false = s.kept false := by
  unfold nvsCtlWrite
  repeat' first
    | with_reducible rfl
    | simp only [kept_ite, kept_snd_ite, ite_self, kept_fold0, kept_mk0, State.nvMap_kept, lockSync_kept, scanDue_kept, scanStart_kept]
    | split | dsimp only
theorem execNvsScanStart_kept (write : Option (Req × BitVec 32)) (s : State) :
    ∀ t, execNvsScanStart write s = .next t → t.kept false = s.kept false := by
  intro t h
  unfold execNvsScanStart at h
  injection h with h
  subst h
  repeat' first
    | with_reducible rfl
    | simp only [implies_true, kept_fold0, kept_mk0, guarded_kept, nvsCtlWrite_kept, scanStart_kept]
    | with_reducible refine (guarded_ho (fun _ => ?_)).trans ?_
    | with_reducible refine (kept_of_eq ‹_›).trans ?_ | with_reducible refine (kept_of_eq3 ‹_›).trans ?_ | split
    | dsimp only
theorem execSlot1Close_kept (q : Req) (w : BitVec 32) (s : State) :
    ∀ t, execSlot1Close q w s = .next t → t.kept false = s.kept false := by
  intro t h
  unfold execSlot1Close at h
  injection h with h
  subst h
  repeat' first
    | with_reducible rfl | simp only [implies_true, guarded_kept, nvsCtlWrite_kept]
    | with_reducible refine (guarded_ho (fun _ => ?_)).trans ?_ | dsimp only
theorem execNvsScanComplete_kept (rough : List (Fin 1024)) (s : State) :
    ∀ t, execNvsScanComplete rough s = .next t → t.kept false = s.kept false := by
  intro t h
  unfold execNvsScanComplete at h
  injection h with h
  subst h
  repeat' first
    | with_reducible rfl
    | simp only [implies_true, kept_ite, kept_snd_ite, ite_self, kept_fold0, kept_mk0, foldl_kept, foldl_snd_kept, State.nvMap_kept, State.put_kept, journalScan_kept, lowered_kept, nvNext_kept, nvsSync_kept, raise_kept, serveStalled_kept]
    | with_reducible refine (foldl_kept _ (fun _ _ => ?_) _ _).trans ?_
    | with_reducible refine (foldl_snd_kept _ (fun _ _ => ?_) _ _).trans ?_
    | with_reducible refine (kept_of_eq ‹_›).trans ?_ | with_reducible refine (kept_of_eq3 ‹_›).trans ?_ | split
    | dsimp only
theorem nvAbort_kept (s : State) :
    (nvAbort s).kept false = s.kept false := by
  unfold nvAbort
  repeat' first
    | with_reducible rfl
    | simp only [kept_ite, kept_snd_ite, ite_self, kept_fold0, kept_mk0, State.nvMap_kept, State.put_kept, nvBreak_kept, nvCut_kept, nvsResult_kept, nvsSync_kept, raise_kept]
    | with_reducible refine (kept_of_eq ‹_›).trans ?_ | with_reducible refine (kept_of_eq3 ‹_›).trans ?_ | split
    | dsimp only
theorem nvsPfail_kept (s : State) :
    (nvsPfail s).kept false = s.kept false := by
  unfold nvsPfail
  repeat' first
    | with_reducible rfl
    | simp only [kept_ite, kept_snd_ite, ite_self, kept_fold0, kept_mk0, abortPending_kept, nvAbort_kept, nvNext_kept, serveStalled_kept]
    | with_reducible refine (kept_of_eq ‹_›).trans ?_ | with_reducible refine (kept_of_eq3 ‹_›).trans ?_ | split
    | dsimp only
theorem nvsStop_kept (s : State) :
    (nvsStop s).kept false = s.kept false := by
  unfold nvsStop
  repeat' first
    | with_reducible rfl
    | simp only [kept_fold0, kept_mk0, State.nvMap_kept, State.put_kept, abortPending_kept, nvAbort_kept, nvsSync_kept]
    | dsimp only
theorem nvsWrite_kept (q : Req) (off : Nat) (w : Word) (s : State) :
    (nvsWrite q off w s).kept false = s.kept false := by
  unfold nvsWrite
  repeat' first
    | with_reducible rfl
    | simp only [kept_ite, kept_snd_ite, ite_self, nvsAddrWrite_kept, nvsCmdWrite_kept, nvsCtlWrite_kept, nvsDataWrite_kept, nvsKeyWrite_kept, plainWrite_kept, xferWrite_kept]
    | split | dsimp only
end Sys2Proof.Machine
end

