-- ==== Sys2Proof/Laws/KeptRecorder.lean ====
section
/-! SUPPORT. Frame laws of Machine/Recorder.lean: each operation and command there leaves the fuses and the queue
as they are, and the stores too where the law says so of every level. -/

namespace Sys2Proof.Machine

open Sys2Proof

set_option maxRecDepth 4000
set_option linter.all false

variable {lv : Bool}

theorem State.evrMap_kept (s : State) (f : Evr → Evr) :
    (State.evrMap s f).kept lv = s.kept lv := by
  unfold State.evrMap
  repeat' first
    | with_reducible rfl | simp only [kept_fold, kept_mk] | dsimp only
theorem stagedSync_kept (s : State) :
    (stagedSync s).kept lv = s.kept lv := by
  unfold stagedSync
  repeat' first
    | with_reducible rfl | simp only [kept_ite, kept_snd_ite, ite_self, State.put_kept] | split | dsimp only
theorem takeSeq_kept (s : State) :
    (takeSeq s).2.kept lv = s.kept lv := by
  unfold takeSeq
  repeat' first
    | with_reducible rfl | simp only [State.put_kept] | dsimp only
theorem stageOne_kept (s : State) :
    (stageOne s).kept false = s.kept false := by
  unfold stageOne
  repeat' first
    | with_reducible rfl
    | simp only [kept_ite, kept_snd_ite, ite_self, kept_fold0, kept_mk0, State.evrMap_kept, memWrite_kept, takeSeq_kept]
    | with_reducible refine (kept_of_eq ‹_›).trans ?_ | with_reducible refine (kept_of_eq3 ‹_›).trans ?_ | split
    | dsimp only
theorem evrPass_kept (s : State) :
    (evrPass s).kept false = s.kept false := by
  unfold evrPass
  repeat' first
    | with_reducible rfl | simp only [implies_true, foldl_kept, foldl_snd_kept, stageOne_kept, stagedSync_kept]
    | with_reducible refine (foldl_kept _ (fun _ _ => ?_) _ _).trans ?_
    | with_reducible refine (foldl_snd_kept _ (fun _ _ => ?_) _ _).trans ?_ | dsimp only
theorem evrDrop_kept (s : State) :
    (evrDrop s).kept lv = s.kept lv := by
  unfold evrDrop
  repeat' first
    | with_reducible rfl | simp only [State.bump_kept, raise_kept] | dsimp only
theorem evrAccept_kept (s : State) :
    (evrAccept s).kept false = s.kept false := by
  unfold evrAccept
  repeat' first
    | with_reducible rfl
    | simp only [kept_ite, kept_snd_ite, ite_self, kept_fold0, kept_mk0, State.evrMap_kept, evrDrop_kept, evrPass_kept]
    | with_reducible refine (kept_of_eq ‹_›).trans ?_ | with_reducible refine (kept_of_eq3 ‹_›).trans ?_ | split
    | dsimp only
theorem setOldest_kept (s : State) :
    (setOldest s).kept lv = s.kept lv := by
  unfold setOldest
  repeat' first
    | with_reducible rfl
    | simp only [implies_true, kept_fold, kept_mk, foldl_kept, foldl_snd_kept, State.put_kept]
    | with_reducible refine (foldl_kept _ (fun _ _ => ?_) _ _).trans ?_
    | with_reducible refine (foldl_snd_kept _ (fun _ _ => ?_) _ _).trans ?_
    | with_reducible refine (kept_of_eq ‹_›).trans ?_ | with_reducible refine (kept_of_eq3 ‹_›).trans ?_ | split
    | dsimp only
theorem checkAhead_kept (s : State) :
    (checkAhead s).kept lv = s.kept lv := by
  unfold checkAhead
  repeat' first
    | with_reducible rfl
    | simp only [kept_ite, kept_snd_ite, ite_self, kept_fold, kept_mk, State.evrMap_kept, raiseIf_kept] | split
    | dsimp only
theorem headAdvance_kept (s : State) :
    (headAdvance s).kept lv = s.kept lv := by
  unfold headAdvance
  repeat' first
    | with_reducible rfl | simp only [kept_ite, kept_snd_ite, ite_self, State.put_kept, checkAhead_kept] | split
    | dsimp only
theorem commitEnd_kept (s : State) :
    (commitEnd s).kept lv = s.kept lv := by
  unfold commitEnd
  repeat' first
    | with_reducible rfl | simp only [kept_fold, kept_mk, State.evrMap_kept, State.put_kept, stagedSync_kept]
    | dsimp only
theorem stagedRead_kept (s : State) (seq : Nat) :
    (stagedRead s seq).2.kept false = s.kept false := by
  unfold stagedRead
  repeat' first
    | with_reducible rfl | simp only [kept_ite, kept_snd_ite, ite_self, memRead_kept] | split | dsimp only
theorem commitTake_kept (n : Nat) (s : State) : (commitTake n s).kept false = s.kept false := by
  induction n generalizing s with
  | zero => unfold commitTake; repeat' first
            | with_reducible rfl
            | simp only [kept_ite, kept_snd_ite, ite_self, kept_fold0, kept_mk0, State.evrMap_kept, evrDrop_kept, stagedRead_kept, takeSeq_kept]
            | with_reducible refine (kept_of_eq ‹_›).trans ?_ | with_reducible refine (kept_of_eq3 ‹_›).trans ?_ | split
            | dsimp only
  | succ n ih => unfold commitTake; repeat' first
            | with_reducible rfl
            | simp only [kept_ite, kept_snd_ite, ite_self, kept_fold0, kept_mk0, ih, State.evrMap_kept, evrDrop_kept, stagedRead_kept, takeSeq_kept]
            | with_reducible refine (kept_of_eq ‹_›).trans ?_ | with_reducible refine (kept_of_eq3 ‹_›).trans ?_ | split
            | dsimp only
theorem regionFull_kept (s : State) :
    (regionFull s).kept false = s.kept false := by
  unfold regionFull
  repeat' first
    | with_reducible rfl
    | simp only [kept_ite, kept_snd_ite, ite_self, kept_fold0, kept_mk0, State.bump_kept, State.evrMap_kept, commitEnd_kept, nvSubmit_kept, raise_kept]
    | split | dsimp only
theorem commitStep_kept (s : State) :
    (commitStep s).kept false = s.kept false := by
  unfold commitStep
  repeat' first
    | with_reducible rfl
    | simp only [kept_ite, kept_snd_ite, ite_self, kept_fold0, kept_mk0, commitEnd_kept, commitTake_kept, nvSubmit_kept, regionFull_kept]
    | with_reducible refine (kept_of_eq ‹_›).trans ?_ | with_reducible refine (kept_of_eq3 ‹_›).trans ?_ | split
    | dsimp only
theorem execEvrCommitStart_kept (elapsed : Bool) (s : State) :
    ∀ t, execEvrCommitStart elapsed s = .next t → t.kept false = s.kept false := by
  intro t h
  unfold execEvrCommitStart at h
  injection h with h
  subst h
  repeat' first
    | with_reducible rfl
    | simp only [kept_ite, kept_snd_ite, ite_self, kept_fold0, kept_mk0, State.evrMap_kept, State.put_kept, commitStep_kept]
    | split | dsimp only
theorem evrNvEnd_kept (s : State) (f : State → State) (hf : ∀ (a0 : State), (f a0).kept false = a0.kept false) :
    (evrNvEnd s f).kept false = s.kept false := by
  unfold evrNvEnd
  repeat' first
    | with_reducible rfl
    | simp only [kept_fold0, kept_mk0, hf, State.nvMap_kept, nvNext_kept, nvsSync_kept, serveStalled_kept]
    | dsimp only
theorem evrNvEnd_ho {s : State} {f : State → State} (hf : ∀ (a0 : State), (f a0).kept false = a0.kept false) :
    (evrNvEnd s f).kept false = s.kept false := evrNvEnd_kept s f hf
theorem evrWordDone_kept (s : State) (verified : Bool) :
    (evrWordDone s verified).kept false = s.kept false := by
  unfold evrWordDone
  repeat' first
    | with_reducible rfl
    | simp only [implies_true, kept_ite, kept_snd_ite, ite_self, kept_fold0, kept_mk0, State.bump_kept, State.evrMap_kept, State.put_kept, commitStep_kept, evrNvEnd_kept, evrPass_kept, headAdvance_kept, nvBreak_kept, nvProgram_kept, raise_kept, regionFull_kept, setOldest_kept]
    | with_reducible refine (evrNvEnd_ho (fun _ => ?_)).trans ?_
    | with_reducible refine (kept_of_eq ‹_›).trans ?_ | with_reducible refine (kept_of_eq3 ‹_›).trans ?_ | split
    | dsimp only
theorem evrEraseDone_kept (s : State) (o : NvOp) (verified : Bool) :
    (evrEraseDone s o verified).kept false = s.kept false := by
  unfold evrEraseDone
  repeat' first
    | with_reducible rfl
    | simp only [implies_true, id_eq, kept_ite, kept_snd_ite, ite_self, kept_fold0, kept_mk0, State.evrMap_kept, checkAhead_kept, commitEnd_kept, commitStep_kept, eraseDone_kept, eraseFails_kept, evrNvEnd_kept, setOldest_kept]
    | with_reducible refine (evrNvEnd_ho (fun _ => ?_)).trans ?_ | split | dsimp only
theorem execNvsEraseComplete_kept (verified : Bool) (s : State) :
    ∀ t, execNvsEraseComplete verified s = .next t → t.kept false = s.kept false := by
  intro t h
  unfold execNvsEraseComplete at h
  injection h with h
  subst h
  repeat' first
    | with_reducible rfl
    | simp only [kept_ite, kept_snd_ite, ite_self, kept_fold0, kept_mk0, eraseDone_kept, eraseFails_kept, evrEraseDone_kept, fwEnd_kept]
    | with_reducible refine (kept_of_eq ‹_›).trans ?_ | with_reducible refine (kept_of_eq3 ‹_›).trans ?_ | split
    | dsimp only
theorem evrReclaim_kept (s : State) :
    (evrReclaim s).kept false = s.kept false := by
  unfold evrReclaim
  repeat' first
    | with_reducible rfl
    | simp only [kept_ite, kept_snd_ite, ite_self, kept_fold0, kept_mk0, State.evrMap_kept, nvSubmit_kept]
    | with_reducible refine (kept_of_eq ‹_›).trans ?_ | with_reducible refine (kept_of_eq3 ‹_›).trans ?_ | split
    | dsimp only
theorem evrCtlWrite_kept (q : Req) (w : Word) (s : State) :
    (evrCtlWrite q w s).kept false = s.kept false := by
  unfold evrCtlWrite
  repeat' first
    | with_reducible rfl
    | simp only [kept_ite, kept_snd_ite, ite_self, kept_fold0, kept_mk0, State.evrMap_kept, evrPass_kept, evrReclaim_kept, plainWrite_kept]
    | split | dsimp only
theorem execEvrReclaim_kept (q : Req) (w : BitVec 32) (s : State) :
    ∀ t, execEvrReclaim q w s = .next t → t.kept false = s.kept false := by
  intro t h
  unfold execEvrReclaim at h
  injection h with h
  subst h
  repeat' first
    | with_reducible rfl | simp only [implies_true, evrCtlWrite_kept, guarded_kept]
    | with_reducible refine (guarded_ho (fun _ => ?_)).trans ?_ | dsimp only
theorem execCommitEnable_kept (q : Req) (w : BitVec 32) (s : State) :
    ∀ t, execCommitEnable q w s = .next t → t.kept false = s.kept false := by
  intro t h
  unfold execCommitEnable at h
  injection h with h
  subst h
  repeat' first
    | with_reducible rfl | simp only [implies_true, evrCtlWrite_kept, guarded_kept]
    | with_reducible refine (guarded_ho (fun _ => ?_)).trans ?_ | dsimp only
theorem evrRegionRead_kept (s : State) :
    (evrRegionRead s).kept false = s.kept false := by
  unfold evrRegionRead
  repeat' first
    | with_reducible rfl
    | simp only [implies_true, kept_ite, kept_snd_ite, ite_self, kept_fold0, kept_mk0, foldl_kept, foldl_snd_kept, State.evrMap_kept, State.put_kept, checkAhead_kept, evrPass_kept, headAdvance_kept]
    | with_reducible refine (foldl_kept _ (fun _ _ => ?_) _ _).trans ?_
    | with_reducible refine (foldl_snd_kept _ (fun _ _ => ?_) _ _).trans ?_
    | with_reducible refine (kept_of_eq ‹_›).trans ?_ | with_reducible refine (kept_of_eq3 ‹_›).trans ?_ | split
    | dsimp only
theorem logCmdWrite_kept (q : Req) (w : Word) (s : State) :
    (logCmdWrite q w s).kept lv = s.kept lv := by
  unfold logCmdWrite
  repeat' first
    | with_reducible rfl
    | simp only [kept_ite, kept_snd_ite, ite_self, kept_fold, kept_mk, plainWrite_kept, report_kept]
    | with_reducible refine (kept_of_eq ‹_›).trans ?_ | with_reducible refine (kept_of_eq3 ‹_›).trans ?_ | split
    | dsimp only
theorem execFirmwareLog_kept (q : Req) (w : BitVec 32) (s : State) :
    ∀ t, execFirmwareLog q w s = .next t → t.kept lv = s.kept lv := by
  intro t h
  unfold execFirmwareLog at h
  injection h with h
  subst h
  repeat' first
    | with_reducible rfl | simp only [implies_true, guarded_kept, logCmdWrite_kept]
    | with_reducible refine (guarded_ho (fun _ => ?_)).trans ?_ | dsimp only
theorem loadedSync_kept (s : State) :
    (loadedSync s).kept lv = s.kept lv := by
  unfold loadedSync
  repeat' first
    | with_reducible rfl | simp only [kept_ite, kept_snd_ite, ite_self, State.put_kept] | split | dsimp only
theorem execSecondsTick_kept (s : State) :
    ∀ t, execSecondsTick s = .next t → t.kept lv = s.kept lv := by
  intro t h
  unfold execSecondsTick at h
  injection h with h
  subst h
  repeat' first
    | with_reducible rfl | simp only [kept_ite, kept_snd_ite, ite_self, State.put_kept] | split | dsimp only
theorem secondsHiWrite_kept (q : Req) (w : Word) (s : State) :
    (secondsHiWrite q w s).kept lv = s.kept lv := by
  unfold secondsHiWrite
  repeat' first
    | with_reducible rfl | simp only [kept_ite, kept_snd_ite, ite_self, kept_fold, kept_mk, State.evrMap_kept]
    | split | dsimp only
theorem secondsLoWrite_kept (q : Req) (w : Word) (s : State) :
    (secondsLoWrite q w s).kept lv = s.kept lv := by
  unfold secondsLoWrite
  repeat' first
    | with_reducible rfl
    | simp only [kept_ite, kept_snd_ite, ite_self, kept_fold, kept_mk, State.evrMap_kept, State.put_kept, loadedSync_kept]
    | split | dsimp only
theorem cyclesWrite_kept (q : Req) (w : Word) (s : State) :
    (cyclesWrite q w s).kept lv = s.kept lv := by
  unfold cyclesWrite
  repeat' first
    | with_reducible rfl
    | simp only [kept_ite, kept_snd_ite, ite_self, kept_fold, kept_mk, State.evrMap_kept, State.put_kept, loadedSync_kept]
    | split | dsimp only
theorem execSecondsHiWrite_kept (q : Req) (w : BitVec 32) (s : State) :
    ∀ t, execSecondsHiWrite q w s = .next t → t.kept lv = s.kept lv := by
  intro t h
  unfold execSecondsHiWrite at h
  injection h with h
  subst h
  repeat' first
    | with_reducible rfl | simp only [implies_true, guarded_kept, secondsHiWrite_kept]
    | with_reducible refine (guarded_ho (fun _ => ?_)).trans ?_ | dsimp only
theorem execSecondsLoWrite_kept (q : Req) (w : BitVec 32) (s : State) :
    ∀ t, execSecondsLoWrite q w s = .next t → t.kept lv = s.kept lv := by
  intro t h
  unfold execSecondsLoWrite at h
  injection h with h
  subst h
  repeat' first
    | with_reducible rfl | simp only [implies_true, guarded_kept, secondsLoWrite_kept]
    | with_reducible refine (guarded_ho (fun _ => ?_)).trans ?_ | dsimp only
theorem execCyclesWrite_kept (q : Req) (w : BitVec 32) (s : State) :
    ∀ t, execCyclesWrite q w s = .next t → t.kept lv = s.kept lv := by
  intro t h
  unfold execCyclesWrite at h
  injection h with h
  subst h
  repeat' first
    | with_reducible rfl | simp only [implies_true, cyclesWrite_kept, guarded_kept]
    | with_reducible refine (guarded_ho (fun _ => ?_)).trans ?_ | dsimp only
theorem evrWrite_kept (q : Req) (off : Nat) (w : Word) (s : State) :
    (evrWrite q off w s).kept false = s.kept false := by
  unfold evrWrite
  repeat' first
    | with_reducible rfl
    | simp only [kept_ite, kept_snd_ite, ite_self, kept_fold0, kept_mk0, State.evrMap_kept, checkAhead_kept, cyclesWrite_kept, evrCtlWrite_kept, evrPass_kept, logCmdWrite_kept, plainWrite_kept, secondsHiWrite_kept, secondsLoWrite_kept]
    | split | dsimp only
theorem evrReset_kept (s : State) :
    (evrReset s).kept lv = s.kept lv := by
  unfold evrReset
  repeat' first
    | with_reducible rfl | simp only [kept_fold, kept_mk, State.bump_kept, State.evrMap_kept, commitEnd_kept]
    | dsimp only
theorem evrPfail_kept (s : State) :
    (evrPfail s).kept lv = s.kept lv := by
  unfold evrPfail
  repeat' first
    | with_reducible rfl
    | simp only [kept_ite, kept_snd_ite, ite_self, kept_fold, kept_mk, State.evrMap_kept, commitEnd_kept]
    | split | dsimp only
end Sys2Proof.Machine
end

