-- ==== Sys2Proof/Laws/KeptTrust.lean ====
section
/-! SUPPORT. Frame laws of Machine/Trust.lean: each operation and command there leaves the fuses and the queue
as they are, and the stores too where the law says so of every level. -/

namespace Sys2Proof.Machine

open Sys2Proof

set_option maxRecDepth 4000
set_option linter.all false

variable {lv : Bool}

theorem State.secMap_kept (s : State) (f : Sec → Sec) :
    (State.secMap s f).kept lv = s.kept lv := by
  unfold State.secMap
  repeat' first
    | with_reducible rfl | simp only [kept_fold, kept_mk] | dsimp only
theorem extendBank_kept (s : State) (b digest : Nat) :
    (extendBank s b digest).kept lv = s.kept lv := by
  unfold extendBank
  repeat' first
    | with_reducible rfl | simp only [kept_fold, kept_mk, State.secMap_kept] | dsimp only
theorem measurePart_kept (s : State) (p : Part) :
    (measurePart s p).kept lv = s.kept lv := by
  unfold measurePart
  repeat' first
    | with_reducible rfl | simp only [kept_fold, kept_mk, State.secMap_kept, extendBank_kept] | dsimp only
theorem measStep_kept (s : State) :
    (measStep s).kept lv = s.kept lv := by
  unfold measStep
  repeat' first
    | with_reducible rfl | simp only [State.put_kept] | dsimp only
theorem measWrite_kept (q : Req) (w : Word) (s : State) :
    (measWrite q w s).kept lv = s.kept lv := by
  unfold measWrite
  repeat' first
    | with_reducible rfl
    | simp only [kept_ite, kept_snd_ite, ite_self, kept_fold, kept_mk, State.secMap_kept, measStep_kept] | split
    | dsimp only
theorem measRead_kept (s : State) :
    (measRead s).2.kept lv = s.kept lv := by
  unfold measRead
  repeat' first
    | with_reducible rfl | simp only [measStep_kept] | dsimp only
theorem execMeasDataAccess_kept (q : Req) (w : Option (BitVec 32)) (s : State) :
    ∀ t, execMeasDataAccess q w s = .next t → t.kept lv = s.kept lv := by
  intro t h
  unfold execMeasDataAccess at h
  injection h with h
  subst h
  repeat' first
    | with_reducible rfl
    | simp only [implies_true, kept_fold, kept_mk, guardedRead_kept, guarded_kept, measRead_kept, measWrite_kept]
    | with_reducible refine (guardedRead_ho (fun _ => ?_)).trans ?_
    | with_reducible refine (guarded_ho (fun _ => ?_)).trans ?_
    | with_reducible refine (kept_of_eq ‹_›).trans ?_ | with_reducible refine (kept_of_eq3 ‹_›).trans ?_ | split
    | dsimp only
theorem measExtend_kept (q : Req) (w : Word) (s : State) :
    (measExtend q w s).kept lv = s.kept lv := by
  unfold measExtend
  repeat' first
    | with_reducible rfl | simp only [kept_ite, kept_snd_ite, ite_self, extendBank_kept] | split | dsimp only
theorem execMeasExtend_kept (q : Req) (w : BitVec 32) (s : State) :
    ∀ t, execMeasExtend q w s = .next t → t.kept lv = s.kept lv := by
  intro t h
  unfold execMeasExtend at h
  injection h with h
  subst h
  repeat' first
    | with_reducible rfl | simp only [implies_true, guarded_kept, measExtend_kept]
    | with_reducible refine (guarded_ho (fun _ => ?_)).trans ?_ | dsimp only
theorem execAliasCertIssue_kept (s : State) :
    ∀ t, execAliasCertIssue s = .next t → t.kept lv = s.kept lv := by
  intro t h
  unfold execAliasCertIssue at h
  injection h with h
  subst h
  repeat' first
    | with_reducible rfl
    | simp only [kept_ite, kept_snd_ite, ite_self, kept_fold, kept_mk, State.drawn_kept, State.put_kept, State.secMap_kept, raise_kept]
    | split | dsimp only
theorem execEntropyHealthFail_kept (s : State) :
    ∀ t, execEntropyHealthFail s = .next t → t.kept lv = s.kept lv := by
  intro t h
  unfold execEntropyHealthFail at h
  injection h with h
  subst h
  repeat' first
    | with_reducible rfl
    | simp only [kept_ite, kept_snd_ite, ite_self, State.bump_kept, State.put_kept, raise_kept] | split
    | dsimp only
theorem keyResult_kept (s : State) (r : Nat) :
    (keyResult s r).kept lv = s.kept lv := by
  unfold keyResult
  repeat' first
    | with_reducible rfl | simp only [State.put_kept, raiseIf_kept] | dsimp only
theorem keyWrite_kept (q : Req) (w : Word) (s : State) :
    (keyWrite q w s).kept lv = s.kept lv := by
  unfold keyWrite
  repeat' first
    | with_reducible rfl
    | simp only [kept_ite, kept_snd_ite, ite_self, kept_fold, kept_mk, State.put_kept, State.secMap_kept, plainWrite_kept, raise_kept]
    | split | dsimp only
theorem execKeyGenerate_kept (q : Req) (w : BitVec 32) (s : State) :
    ∀ t, execKeyGenerate q w s = .next t → t.kept lv = s.kept lv := by
  intro t h
  unfold execKeyGenerate at h
  injection h with h
  subst h
  repeat' first
    | with_reducible rfl | simp only [implies_true, guarded_kept, keyWrite_kept]
    | with_reducible refine (guarded_ho (fun _ => ?_)).trans ?_ | dsimp only
theorem execKeyDestroy_kept (q : Req) (w : BitVec 32) (s : State) :
    ∀ t, execKeyDestroy q w s = .next t → t.kept lv = s.kept lv := by
  intro t h
  unfold execKeyDestroy at h
  injection h with h
  subst h
  repeat' first
    | with_reducible rfl | simp only [implies_true, guarded_kept, keyWrite_kept]
    | with_reducible refine (guarded_ho (fun _ => ?_)).trans ?_ | dsimp only
theorem execKeyLoad_kept (q : Req) (w : BitVec 32) (s : State) :
    ∀ t, execKeyLoad q w s = .next t → t.kept lv = s.kept lv := by
  intro t h
  unfold execKeyLoad at h
  injection h with h
  subst h
  repeat' first
    | with_reducible rfl | simp only [implies_true, guarded_kept, keyWrite_kept]
    | with_reducible refine (guarded_ho (fun _ => ?_)).trans ?_ | dsimp only
theorem setSlot_kept (s : State) (slot : Nat) (v : Option Nat) :
    (setSlot s slot v).kept lv = s.kept lv := by
  unfold setSlot
  repeat' first
    | with_reducible rfl | simp only [kept_fold, kept_mk, State.put_kept, State.secMap_kept] | dsimp only
theorem keyGenerate_kept (s : State) (slot addr : Nat) :
    (keyGenerate s slot addr).kept false = s.kept false := by
  unfold keyGenerate
  repeat' first
    | with_reducible rfl
    | simp only [kept_ite, kept_snd_ite, ite_self, State.drawn_kept, keyResult_kept, memWrite_kept, setSlot_kept]
    | split | dsimp only
theorem keyDestroy_kept (s : State) (slot cls : Nat) :
    (keyDestroy s slot cls).kept lv = s.kept lv := by
  unfold keyDestroy
  repeat' first
    | with_reducible rfl | simp only [keyResult_kept, report_kept, setSlot_kept] | dsimp only
theorem keyLoad_kept (s : State) (slot addr : Nat) :
    (keyLoad s slot addr).kept false = s.kept false := by
  unfold keyLoad
  repeat' first
    | with_reducible rfl
    | simp only [kept_ite, kept_snd_ite, ite_self, kept_fold0, kept_mk0, keyResult_kept, memRead_kept, setSlot_kept]
    | with_reducible refine (kept_of_eq ‹_›).trans ?_ | with_reducible refine (kept_of_eq3 ‹_›).trans ?_ | split
    | dsimp only
theorem execKeyCmdComplete_kept (s : State) :
    ∀ t, execKeyCmdComplete s = .next t → t.kept false = s.kept false := by
  intro t h
  unfold execKeyCmdComplete at h
  injection h with h
  subst h
  repeat' first
    | with_reducible rfl
    | simp only [kept_ite, kept_snd_ite, ite_self, kept_fold0, kept_mk0, State.secMap_kept, keyDestroy_kept, keyGenerate_kept, keyLoad_kept]
    | with_reducible refine (kept_of_eq ‹_›).trans ?_ | with_reducible refine (kept_of_eq3 ‹_›).trans ?_ | split
    | dsimp only
theorem cryptAt_kept (op pair old new a : Nat) (s : State) :
    (cryptAt op pair old new a s).2.kept false = s.kept false := by
  unfold cryptAt
  repeat' first
    | with_reducible rfl | simp only [bufGranules_kept, spaceWriteAll_kept] | dsimp only
theorem cryptRun_kept (op pair n o w a : Nat) (x : Bool × State) : (cryptRun op pair n o w a x).2.kept false = x.2.kept false := by
  induction n generalizing o w a x with
  | zero => unfold cryptRun; repeat' first
            | with_reducible rfl | simp only [cryptAt_kept] | with_reducible refine (kept_of_eq ‹_›).trans ?_
            | with_reducible refine (kept_of_eq3 ‹_›).trans ?_ | split | dsimp only
  | succ n ih => unfold cryptRun; repeat' first
            | with_reducible rfl | simp only [ih, cryptAt_kept] | with_reducible refine (kept_of_eq ‹_›).trans ?_
            | with_reducible refine (kept_of_eq3 ‹_›).trans ?_ | split | dsimp only
theorem retweaked_kept (s : State) (a n : Nat) :
    (retweaked s a n).kept false = s.kept false := by
  unfold retweaked
  repeat' first
    | with_reducible rfl | simp only [kept_fold0, kept_mk0] | dsimp only
theorem cryptEntry_kept (s : State) (e : List Nat) :
    (cryptEntry s e).2.kept false = s.kept false := by
  unfold cryptEntry
  repeat' first
    | with_reducible rfl
    | simp only [kept_ite, kept_snd_ite, ite_self, kept_fold0, kept_mk0, cryptRun_kept, retweaked_kept]
    | with_reducible refine (kept_of_eq ‹_›).trans ?_ | with_reducible refine (kept_of_eq3 ‹_›).trans ?_ | split
    | dsimp only
theorem cryptServe_kept (s : State) (r : Nat) (mine : Nat → Bool) :
    (cryptServe s r mine).kept false = s.kept false := by
  unfold cryptServe
  repeat' first
    | with_reducible rfl
    | simp only [kept_ite, kept_snd_ite, ite_self, kept_fold0, kept_mk0, cryptEntry_kept, ringDone_kept]
    | with_reducible refine (ringStart_some ‹_›).trans ?_ | with_reducible refine (kept_of_eq ‹_›).trans ?_
    | with_reducible refine (kept_of_eq3 ‹_›).trans ?_ | split | dsimp only
theorem execCryptoEncrypt_kept (ring : Fin 256) (s : State) :
    ∀ t, execCryptoEncrypt ring s = .next t → t.kept false = s.kept false := by
  intro t h
  unfold execCryptoEncrypt at h
  injection h with h
  subst h
  repeat' first
    | with_reducible rfl | simp only [cryptServe_kept] | dsimp only
theorem execCryptoDecrypt_kept (ring : Fin 256) (s : State) :
    ∀ t, execCryptoDecrypt ring s = .next t → t.kept false = s.kept false := by
  intro t h
  unfold execCryptoDecrypt at h
  injection h with h
  subst h
  repeat' first
    | with_reducible rfl | simp only [cryptServe_kept] | dsimp only
theorem execCryptoRetweak_kept (ring : Fin 256) (s : State) :
    ∀ t, execCryptoRetweak ring s = .next t → t.kept false = s.kept false := by
  intro t h
  unfold execCryptoRetweak at h
  injection h with h
  subst h
  repeat' first
    | with_reducible rfl | simp only [cryptServe_kept] | dsimp only
theorem unlockData_kept (w : Word) (s : State) :
    (unlockData w s).kept lv = s.kept lv := by
  unfold unlockData
  repeat' first
    | with_reducible rfl | simp only [kept_fold, kept_mk, State.put_kept, State.secMap_kept] | dsimp only
theorem execUnlockDataWrite_kept (q : Req) (w : BitVec 32) (s : State) :
    ∀ t, execUnlockDataWrite q w s = .next t → t.kept lv = s.kept lv := by
  intro t h
  unfold execUnlockDataWrite at h
  injection h with h
  subst h
  repeat' first
    | with_reducible rfl | simp only [implies_true, guarded_kept, unlockData_kept]
    | with_reducible refine (guarded_ho (fun _ => ?_)).trans ?_ | dsimp only
theorem unlockCheck_kept (q : Req) (s : State) :
    (unlockCheck q s).kept lv = s.kept lv := by
  unfold unlockCheck
  repeat' first
    | with_reducible rfl | simp only [kept_ite, kept_snd_ite, ite_self, State.put_kept, raise_kept, report_kept]
    | split | dsimp only
theorem newNonce_kept (s : State) :
    (newNonce s).kept lv = s.kept lv := by
  unfold newNonce
  repeat' first
    | with_reducible rfl
    | simp only [implies_true, kept_ite, kept_snd_ite, ite_self, kept_fold, kept_mk, foldl_kept, foldl_snd_kept, State.drawn_kept, State.put_kept, State.secMap_kept, raise_kept]
    | with_reducible refine (foldl_kept _ (fun _ _ => ?_) _ _).trans ?_
    | with_reducible refine (foldl_snd_kept _ (fun _ _ => ?_) _ _).trans ?_ | split | dsimp only
theorem unlockCmd_kept (q : Req) (w : Word) (s : State) :
    (unlockCmd q w s).kept lv = s.kept lv := by
  unfold unlockCmd
  repeat' first
    | with_reducible rfl
    | simp only [kept_ite, kept_snd_ite, ite_self, newNonce_kept, plainWrite_kept, unlockCheck_kept] | split
    | dsimp only
theorem execUnlockNewNonce_kept (q : Req) (w : BitVec 32) (s : State) :
    ∀ t, execUnlockNewNonce q w s = .next t → t.kept lv = s.kept lv := by
  intro t h
  unfold execUnlockNewNonce at h
  injection h with h
  subst h
  repeat' first
    | with_reducible rfl | simp only [implies_true, guarded_kept, unlockCmd_kept]
    | with_reducible refine (guarded_ho (fun _ => ?_)).trans ?_ | dsimp only
theorem execUnlockCheck_kept (q : Req) (w : BitVec 32) (s : State) :
    ∀ t, execUnlockCheck q w s = .next t → t.kept lv = s.kept lv := by
  intro t h
  unfold execUnlockCheck at h
  injection h with h
  subst h
  repeat' first
    | with_reducible rfl | simp only [implies_true, guarded_kept, unlockCmd_kept]
    | with_reducible refine (guarded_ho (fun _ => ?_)).trans ?_ | dsimp only
theorem execUnlockExpire_kept (s : State) :
    ∀ t, execUnlockExpire s = .next t → t.kept lv = s.kept lv := by
  intro t h
  unfold execUnlockExpire at h
  injection h with h
  subst h
  repeat' first
    | with_reducible rfl | simp only [State.put_kept] | dsimp only
theorem grantApply_kept (q : Req) (w : Word) (s : State) :
    (grantApply q w s).kept lv = s.kept lv := by
  unfold grantApply
  repeat' first
    | with_reducible rfl | simp only [kept_fold, kept_mk, State.bump_kept, raise_kept, report_kept] | dsimp only
theorem grantWrite_kept (q : Req) (w : Word) (s : State) :
    (grantWrite q w s).kept lv = s.kept lv := by
  unfold grantWrite
  repeat' first
    | with_reducible rfl | simp only [kept_ite, kept_snd_ite, ite_self, State.wait_kept, grantApply_kept]
    | split | dsimp only
theorem execGrantChange_kept (q : Req) (w : BitVec 32) (s : State) :
    ∀ t, execGrantChange q w s = .next t → t.kept lv = s.kept lv := by
  intro t h
  unfold execGrantChange at h
  injection h with h
  subst h
  repeat' first
    | with_reducible rfl | simp only [implies_true, grantWrite_kept, guarded_kept]
    | with_reducible refine (guarded_ho (fun _ => ?_)).trans ?_ | dsimp only
theorem secReset_kept (s : State) :
    (secReset s).kept lv = s.kept lv := by
  unfold secReset
  repeat' first
    | with_reducible rfl | simp only [kept_fold, kept_mk, State.secMap_kept] | dsimp only
end Sys2Proof.Machine
end

