-- ==== Sys2Proof/Laws/KeptHosted.lean ====
section
/-! SUPPORT. Frame laws of Machine/Hosted.lean: each operation and command there leaves the fuses and the queue
as they are, and the stores too where the law says so of every level. -/

namespace Sys2Proof.Machine

open Sys2Proof

set_option maxRecDepth 4000
set_option linter.all false

variable {lv : Bool}

theorem State.setNs_kept (s : State) (k : Nat) (v : Option Ns) :
    (State.setNs s k v).kept lv = s.kept lv := by
  unfold State.setNs
  repeat' first
    | with_reducible rfl | simp only [kept_fold, kept_mk] | dsimp only
theorem State.modNs_kept (s : State) (k : Nat) (f : Ns → Ns) :
    (State.modNs s k f).kept lv = s.kept lv := by
  unfold State.modNs
  repeat' first
    | with_reducible rfl | simp only [kept_fold, kept_mk, State.setNs_kept]
    | with_reducible refine (kept_of_eq ‹_›).trans ?_ | with_reducible refine (kept_of_eq3 ‹_›).trans ?_ | split
    | dsimp only
theorem State.setCmds_kept (s : State) (l : List HostCmd) :
    (State.setCmds s l).kept lv = s.kept lv := by
  unfold State.setCmds
  repeat' first
    | with_reducible rfl | simp only [kept_fold, kept_mk] | dsimp only
theorem State.modCmd_kept (s : State) (k : Nat) (f : HostCmd → HostCmd) :
    (State.modCmd s k f).kept lv = s.kept lv := by
  unfold State.modCmd
  repeat' first
    | with_reducible rfl | simp only [kept_ite, kept_snd_ite, ite_self, State.setCmds_kept] | split | dsimp only
theorem State.schMap_kept (s : State) (f : Sch → Sch) :
    (State.schMap s f).kept lv = s.kept lv := by
  unfold State.schMap
  repeat' first
    | with_reducible rfl | simp only [kept_fold, kept_mk] | dsimp only
theorem putZoneState_kept (s : State) (zone st : Nat) :
    (putZoneState s zone st).kept false = s.kept false := by
  unfold putZoneState
  repeat' first
    | with_reducible rfl | simp only [readEntry_kept, rewriteEntry_kept] | dsimp only
theorem putZoneWp_kept (s : State) (zone wp : Nat) :
    (putZoneWp s zone wp).kept false = s.kept false := by
  unfold putZoneWp
  repeat' first
    | with_reducible rfl | simp only [rewriteEntry_kept] | dsimp only
theorem enterZoneState_kept (s : State) (nsx zone st : Nat) :
    (enterZoneState s nsx zone st).kept false = s.kept false := by
  unfold enterZoneState
  repeat' first
    | with_reducible rfl
    | simp only [kept_ite, kept_snd_ite, ite_self, kept_fold0, kept_mk0, State.modNs_kept, putZoneState_kept]
    | split | dsimp only
theorem criticalWarning_kept (s : State) (b : Nat) :
    (criticalWarning s b).kept lv = s.kept lv := by
  unfold criticalWarning
  repeat' first
    | with_reducible rfl | simp only [kept_ite, kept_snd_ite, ite_self, kept_fold, kept_mk, asyncBoth_kept]
    | split | dsimp only
theorem zoneChanged_kept (s : State) (nsx zone : Nat) :
    (zoneChanged s nsx zone).kept lv = s.kept lv := by
  unfold zoneChanged
  repeat' first
    | with_reducible rfl
    | simp only [implies_true, kept_ite, kept_snd_ite, ite_self, kept_fold, kept_mk, foldl_kept, foldl_snd_kept, State.modNs_kept, asyncEvent_kept]
    | with_reducible refine (foldl_kept _ (fun _ _ => ?_) _ _).trans ?_
    | with_reducible refine (foldl_snd_kept _ (fun _ _ => ?_) _ _).trans ?_ | split | dsimp only
theorem dropLine_kept (s : State) (i : Nat) :
    (dropLine s i).kept false = s.kept false := by
  unfold dropLine
  repeat' first
    | with_reducible rfl
    | simp only [kept_ite, kept_snd_ite, ite_self, kept_fold0, kept_mk0, State.modLine_kept, checkHi_kept, freeLine_kept]
    | split | dsimp only
theorem releaseLine_kept (s : State) (i : Nat) :
    (releaseLine s i).kept false = s.kept false := by
  unfold releaseLine
  repeat' first
    | with_reducible rfl
    | simp only [kept_ite, kept_snd_ite, ite_self, kept_fold0, kept_mk0, State.modLine_kept, checkHi_kept, freeLine_kept]
    | split | dsimp only
theorem cancelProv_kept (s : State) (p : Line → Bool) :
    (cancelProv s p).kept false = s.kept false := by
  unfold cancelProv
  repeat' first
    | with_reducible rfl
    | simp only [implies_true, kept_fold0, kept_mk0, foldl_kept, foldl_snd_kept, State.modLine_kept, freeLine_kept]
    | with_reducible refine (foldl_kept _ (fun _ _ => ?_) _ _).trans ?_
    | with_reducible refine (foldl_snd_kept _ (fun _ _ => ?_) _ _).trans ?_ | dsimp only
theorem forgetSlot_kept (s : State) (k : Nat) :
    (forgetSlot s k).kept false = s.kept false := by
  unfold forgetSlot
  repeat' first
    | with_reducible rfl
    | simp only [implies_true, kept_ite, kept_snd_ite, ite_self, kept_fold0, kept_mk0, foldl_kept, foldl_snd_kept, State.modLine_kept, State.schMap_kept]
    | with_reducible refine (foldl_kept _ (fun _ _ => ?_) _ _).trans ?_
    | with_reducible refine (foldl_snd_kept _ (fun _ _ => ?_) _ _).trans ?_ | split | dsimp only
theorem abortOps_kept (s : State) (p : PlanOp → Bool) :
    (abortOps s p).kept false = s.kept false := by
  unfold abortOps
  repeat' first
    | with_reducible rfl
    | simp only [implies_true, kept_ite, kept_snd_ite, ite_self, kept_fold0, kept_mk0, foldl_kept, foldl_snd_kept, lqAbort_kept]
    | with_reducible refine (foldl_kept _ (fun _ _ => ?_) _ _).trans ?_
    | with_reducible refine (foldl_snd_kept _ (fun _ _ => ?_) _ _).trans ?_ | split | dsimp only
theorem releaseKept_kept (s : State) (o : PlanOp) :
    (releaseKept s o).kept lv = s.kept lv := by
  unfold releaseKept
  repeat' first
    | with_reducible rfl
    | simp only [id_eq, implies_true, kept_ite, kept_snd_ite, ite_self, kept_fold, kept_mk, foldl_kept, foldl_snd_kept, lqRelease_kept]
    | with_reducible refine (foldl_kept _ (fun _ _ => ?_) _ _).trans ?_
    | with_reducible refine (foldl_snd_kept _ (fun _ _ => ?_) _ _).trans ?_
    | split
    | dsimp only
theorem unplan_kept (s : State) (p : PlanOp → Bool) :
    (unplan s p).kept lv = s.kept lv := by
  unfold unplan
  repeat' first
    | with_reducible rfl
    | simp only [id_eq, implies_true, kept_ite, kept_snd_ite, ite_self, kept_fold, kept_mk, foldl_kept, foldl_snd_kept, State.schMap_kept, releaseKept_kept]
    | with_reducible refine (foldl_kept _ (fun _ _ => ?_) _ _).trans ?_
    | with_reducible refine (foldl_snd_kept _ (fun _ _ => ?_) _ _).trans ?_
    | split
    | dsimp only
theorem readBlock_kept (s : State) (n : Ns) (c : HostCmd) (i : Nat) (p : ReadFrom) :
    (readBlock s n c i p).2.kept false = s.kept false := by
  unfold readBlock
  repeat' first
    | with_reducible rfl
    | simp only [id_eq, implies_true, kept_ite, kept_snd_ite, ite_self, kept_fold0, kept_mk0, foldl_kept, foldl_snd_kept, memRead_kept]
    | with_reducible refine (kept_of_eq ‹_›).trans ?_
    | with_reducible refine (kept_of_eq3 ‹_›).trans ?_
    | split
    | dsimp only
theorem readBlocks_kept (n : Ns) (c : HostCmd) (i : Nat) (l : List ReadFrom) (s : State) :
    (readBlocks n c i l s).2.kept false = s.kept false := by
  induction l generalizing i s with
  | nil => unfold readBlocks; repeat' first
            | with_reducible rfl | simp only [kept_fold0, kept_mk0, readBlock_kept]
            | with_reducible refine (kept_of_eq ‹_›).trans ?_ | with_reducible refine (kept_of_eq3 ‹_›).trans ?_ | split
            | dsimp only
  | cons x l ih => unfold readBlocks; repeat' first
            | with_reducible rfl | simp only [kept_fold0, kept_mk0, ih, readBlock_kept]
            | with_reducible refine (kept_of_eq ‹_›).trans ?_ | with_reducible refine (kept_of_eq3 ‹_›).trans ?_ | split
            | dsimp only
theorem servedLine_kept (s : State) (k i : Nat) :
    (servedLine s k i).kept false = s.kept false := by
  unfold servedLine
  repeat' first
    | with_reducible rfl | simp only [kept_fold0, kept_mk0, State.modLine_kept, dropLine_kept]
    | with_reducible refine (kept_of_eq ‹_›).trans ?_ | with_reducible refine (kept_of_eq3 ‹_›).trans ?_ | split
    | dsimp only
theorem finishRead_kept (s : State) (c : HostCmd) :
    (finishRead s c).kept false = s.kept false := by
  unfold finishRead
  repeat' first
    | with_reducible rfl
    | simp only [id_eq, implies_true, kept_ite, kept_snd_ite, ite_self, kept_fold0, kept_mk0, foldl_kept, foldl_snd_kept, countMoved_kept, endCmd_kept, forgetSlot_kept, readBlocks_kept, servedLine_kept]
    | with_reducible refine (foldl_kept _ (fun _ _ => ?_) _ _).trans ?_
    | with_reducible refine (foldl_snd_kept _ (fun _ _ => ?_) _ _).trans ?_
    | with_reducible refine (kept_of_eq ‹_›).trans ?_
    | with_reducible refine (kept_of_eq3 ‹_›).trans ?_
    | split
    | dsimp only
theorem finishWrite_kept (s : State) (c : HostCmd) :
    (finishWrite s c).kept false = s.kept false := by
  unfold finishWrite
  repeat' first
    | with_reducible rfl
    | simp only [implies_true, kept_ite, kept_snd_ite, ite_self, kept_fold0, kept_mk0, foldl_kept, foldl_snd_kept, State.modLine_kept, checkHi_kept, endCmd_kept, forgetSlot_kept, releaseLine_kept]
    | with_reducible refine (foldl_kept _ (fun _ _ => ?_) _ _).trans ?_
    | with_reducible refine (foldl_snd_kept _ (fun _ _ => ?_) _ _).trans ?_ | split | dsimp only
theorem weaveMark_kept (s : State) :
    (weaveMark s).kept lv = s.kept lv := by
  unfold weaveMark
  repeat' first
    | with_reducible rfl
    | simp only [id_eq, implies_true, kept_ite, kept_snd_ite, ite_self, kept_fold, kept_mk, foldl_kept, foldl_snd_kept, State.schMap_kept]
    | split
    | dsimp only
theorem weaveTell_kept (s : State) :
    (weaveTell s).kept lv = s.kept lv := by
  unfold weaveTell
  repeat' first
    | with_reducible rfl
    | simp only [id_eq, implies_true, kept_ite, kept_snd_ite, ite_self, kept_fold, kept_mk, foldl_kept, foldl_snd_kept, State.schMap_kept, asyncBoth_kept, criticalWarning_kept]
    | with_reducible refine (kept_of_eq ‹_›).trans ?_
    | with_reducible refine (kept_of_eq3 ‹_›).trans ?_
    | split
    | dsimp only
theorem bandsWritten_kept (s : State) (a n : Nat) :
    (bandsWritten s a n).kept lv = s.kept lv := by
  unfold bandsWritten
  repeat' first
    | with_reducible rfl
    | simp only [id_eq, implies_true, kept_ite, kept_snd_ite, ite_self, kept_fold, kept_mk, foldl_kept, foldl_snd_kept, weaveMark_kept]
    | split
    | dsimp only
theorem execBufferWrite_kept (addr : BitVec 44) (bytes : List Byte) (poison : Bool) (s : State) :
    ∀ t, execBufferWrite addr bytes poison s = .next t → t.kept false = s.kept false := by
  intro t h
  unfold execBufferWrite at h
  injection h with h
  subst h
  repeat' first
    | with_reducible rfl
    | simp only [id_eq, implies_true, kept_ite, kept_snd_ite, ite_self, kept_fold0, kept_mk0, foldl_kept, foldl_snd_kept, State.reply_kept, bandsWritten_kept, memWrite_kept]
    | split
    | dsimp only
theorem testMap_kept (s : State) (f : SelfTest → SelfTest) :
    (testMap s f).kept lv = s.kept lv := by
  unfold testMap
  repeat' first
    | with_reducible rfl
    | simp only [id_eq, implies_true, kept_ite, kept_snd_ite, ite_self, kept_fold, kept_mk, foldl_kept, foldl_snd_kept]
    | split
    | dsimp only
theorem selfTestEnds_kept (s : State) (result : Nat) :
    (selfTestEnds s result).kept false = s.kept false := by
  unfold selfTestEnds
  repeat' first
    | with_reducible rfl
    | simp only [id_eq, implies_true, kept_ite, kept_snd_ite, ite_self, kept_fold0, kept_mk0, foldl_kept, foldl_snd_kept, dropLine_kept, unplan_kept]
    | with_reducible refine (kept_of_eq ‹_›).trans ?_
    | with_reducible refine (kept_of_eq3 ‹_›).trans ?_
    | split
    | dsimp only
theorem testLeaves_kept (s : State) (nsx result : Nat) :
    (testLeaves s nsx result).kept false = s.kept false := by
  unfold testLeaves
  repeat' first
    | with_reducible rfl
    | simp only [id_eq, implies_true, kept_ite, kept_snd_ite, ite_self, kept_fold0, kept_mk0, foldl_kept, foldl_snd_kept, selfTestEnds_kept]
    | split
    | dsimp only
theorem putBand_kept (s : State) (head band kind zone : Nat) :
    (putBand s head band kind zone).kept false = s.kept false := by
  unfold putBand
  repeat' first
    | with_reducible rfl
    | simp only [id_eq, implies_true, kept_ite, kept_snd_ite, ite_self, kept_fold0, kept_mk0, foldl_kept, foldl_snd_kept, memWrite_kept, readBand_kept, weaveMark_kept]
    | split
    | dsimp only
theorem stopRebuild_kept (s : State) (b : Rebuild) (kind : Nat) :
    (stopRebuild s b kind).kept false = s.kept false := by
  unfold stopRebuild
  repeat' first
    | with_reducible rfl
    | simp only [id_eq, implies_true, kept_ite, kept_snd_ite, ite_self, kept_fold0, kept_mk0, foldl_kept, foldl_snd_kept, State.put_kept, State.schMap_kept, abortOps_kept, dropLine_kept, foldl_kept, putBand_kept, unplan_kept, weaveMark_kept]
    | with_reducible refine (foldl_kept _ (fun _ _ => ?_) _ _).trans ?_
    | with_reducible refine (foldl_snd_kept _ (fun _ _ => ?_) _ _).trans ?_
    | split
    | dsimp only
theorem endRebuild_kept (s : State) (zone : Nat) :
    (endRebuild s zone).kept false = s.kept false := by
  unfold endRebuild
  repeat' first
    | with_reducible rfl
    | simp only [id_eq, implies_true, kept_ite, kept_snd_ite, ite_self, kept_fold0, kept_mk0, foldl_kept, foldl_snd_kept, stopRebuild_kept]
    | with_reducible refine (kept_of_eq ‹_›).trans ?_
    | with_reducible refine (kept_of_eq3 ‹_›).trans ?_
    | split
    | dsimp only
theorem discardZone_kept (s : State) (zone : Nat) :
    (discardZone s zone).kept false = s.kept false := by
  unfold discardZone
  repeat' first
    | with_reducible rfl
    | simp only [id_eq, implies_true, kept_ite, kept_snd_ite, ite_self, kept_fold0, kept_mk0, foldl_kept, foldl_snd_kept, State.schMap_kept, abortOps_kept, dropLine_kept, endRebuild_kept, unplan_kept]
    | with_reducible refine (foldl_kept _ (fun _ _ => ?_) _ _).trans ?_
    | with_reducible refine (foldl_snd_kept _ (fun _ _ => ?_) _ _).trans ?_
    | split
    | dsimp only
theorem emptyZone_kept (s : State) (nsx zone : Nat) :
    (emptyZone s nsx zone).kept false = s.kept false := by
  unfold emptyZone
  repeat' first
    | with_reducible rfl | simp only [discardZone_kept, enterZoneState_kept, putZoneWp_kept, updateMwp_kept]
    | dsimp only
theorem offlineZone_kept (s : State) (nsx zone : Nat) :
    (offlineZone s nsx zone).kept false = s.kept false := by
  unfold offlineZone
  repeat' first
    | with_reducible rfl
    | simp only [criticalWarning_kept, discardZone_kept, enterZoneState_kept, zoneChanged_kept] | dsimp only
theorem putStrand_kept (s : State) (zone w head band : Nat) (lost : Bool) :
    (putStrand s zone w head band lost).kept false = s.kept false := by
  unfold putStrand
  repeat' first
    | with_reducible rfl
    | simp only [id_eq, implies_true, kept_ite, kept_snd_ite, ite_self, kept_fold0, kept_mk0, foldl_kept, foldl_snd_kept, readEntry_kept, rewriteEntry_kept, weaveMark_kept]
    | split
    | dsimp only
theorem weaveLost_kept (s : State) (nsx zone : Nat) :
    (weaveLost s nsx zone).kept false = s.kept false := by
  unfold weaveLost
  repeat' first
    | with_reducible rfl
    | simp only [id_eq, implies_true, kept_ite, kept_snd_ite, ite_self, kept_fold0, kept_mk0, foldl_kept, foldl_snd_kept, offlineZone_kept, weaveMark_kept]
    | split
    | dsimp only
theorem lossOutcome_kept (s : State) (nsx zone : Nat) :
    (lossOutcome s nsx zone).kept false = s.kept false := by
  unfold lossOutcome
  repeat' first
    | with_reducible rfl
    | simp only [id_eq, implies_true, kept_ite, kept_snd_ite, ite_self, kept_fold0, kept_mk0, foldl_kept, foldl_snd_kept, enterZoneState_kept, readEntry_kept, weaveLost_kept, zoneChanged_kept]
    | split
    | dsimp only
theorem spareWarning_kept (s : State) :
    (spareWarning s).kept lv = s.kept lv := by
  unfold spareWarning
  repeat' first
    | with_reducible rfl
    | simp only [id_eq, implies_true, kept_ite, kept_snd_ite, ite_self, kept_fold, kept_mk, foldl_kept, foldl_snd_kept, criticalWarning_kept]
    | split
    | dsimp only
theorem replaceStrand_kept (s : State) (zone w head band : Nat) :
    (replaceStrand s zone w head band).kept false = s.kept false := by
  unfold replaceStrand
  repeat' first
    | with_reducible rfl
    | simp only [id_eq, implies_true, kept_ite, kept_snd_ite, ite_self, kept_fold0, kept_mk0, foldl_kept, foldl_snd_kept, putBand_kept, putStrand_kept, readEntry_kept, spareWarning_kept]
    | split
    | dsimp only
theorem resetZone_kept (bands : List (Nat × Nat × Nat × Nat)) (nsx : Nat) (s : State) (zone : Nat) :
    (resetZone bands nsx s zone).kept false = s.kept false := by
  unfold resetZone
  repeat' first
    | with_reducible rfl
    | simp only [id_eq, implies_true, kept_ite, kept_snd_ite, ite_self, kept_fold0, kept_mk0, foldl_kept, foldl_snd_kept, emptyZone_kept, readEntry_kept, replaceStrand_kept, weaveLost_kept]
    | with_reducible refine (foldl_kept _ (fun _ _ => ?_) _ _).trans ?_
    | with_reducible refine (foldl_snd_kept _ (fun _ _ => ?_) _ _).trans ?_
    | with_reducible refine (kept_of_eq ‹_›).trans ?_
    | with_reducible refine (kept_of_eq3 ‹_›).trans ?_
    | split
    | dsimp only
theorem headLost_kept (s : State) (head : Nat) :
    (headLost s head).2.kept false = s.kept false := by
  unfold headLost
  repeat' first
    | with_reducible rfl
    | simp only [id_eq, implies_true, kept_ite, kept_snd_ite, ite_self, kept_fold0, kept_mk0, foldl_kept, foldl_snd_kept, asyncBoth_kept, enterZoneState_kept, lossOutcome_kept, putStrand_kept, readEntry_kept, zoneChanged_kept]
    | with_reducible refine (foldl_kept _ (fun _ _ => ?_) _ _).trans ?_
    | with_reducible refine (foldl_snd_kept _ (fun _ _ => ?_) _ _).trans ?_
    | with_reducible refine (kept_of_eq ‹_›).trans ?_
    | with_reducible refine (kept_of_eq3 ‹_›).trans ?_
    | split
    | dsimp only
theorem freeBands_kept (s : State) (zone : Nat) :
    (freeBands s zone).kept false = s.kept false := by
  unfold freeBands
  repeat' first
    | with_reducible rfl
    | simp only [implies_true, kept_ite, kept_snd_ite, ite_self, kept_fold0, kept_mk0, foldl_kept, foldl_snd_kept, memWrite_kept, readBand_kept, readEntry_kept]
    | with_reducible refine (foldl_kept _ (fun _ _ => ?_) _ _).trans ?_
    | with_reducible refine (foldl_snd_kept _ (fun _ _ => ?_) _ _).trans ?_ | split | dsimp only
theorem freshKey_kept (s : State) :
    (freshKey s).2.kept lv = s.kept lv := by
  unfold freshKey
  repeat' first
    | with_reducible rfl | simp only [State.drawn_kept] | dsimp only
theorem replaceKey_kept (s : State) (nsx : Nat) :
    (replaceKey s nsx).kept lv = s.kept lv := by
  unfold replaceKey
  repeat' first
    | with_reducible rfl | simp only [freshKey_kept, setSlot_kept] | dsimp only
theorem nsAttributeChanged_kept (s : State) (nsx : Nat) :
    (nsAttributeChanged s nsx).kept lv = s.kept lv := by
  unfold nsAttributeChanged
  repeat' first
    | with_reducible rfl | simp only [kept_ite, kept_snd_ite, ite_self, kept_fold, kept_mk, asyncBoth_kept]
    | split | dsimp only
theorem formatNs_kept (s : State) (nsx lbaf prot : Nat) (ext erase : Bool) :
    (formatNs s nsx lbaf prot ext erase).kept false = s.kept false := by
  unfold formatNs
  repeat' first
    | with_reducible rfl
    | simp only [id_eq, implies_true, kept_ite, kept_snd_ite, ite_self, kept_fold0, kept_mk0, foldl_kept, foldl_snd_kept, State.modNs_kept, cancelProv_kept, emptyZone_kept, replaceKey_kept, testLeaves_kept]
    | with_reducible refine (foldl_kept _ (fun _ _ => ?_) _ _).trans ?_
    | with_reducible refine (foldl_snd_kept _ (fun _ _ => ?_) _ _).trans ?_
    | with_reducible refine (kept_of_eq ‹_›).trans ?_
    | with_reducible refine (kept_of_eq3 ‹_›).trans ?_
    | split
    | dsimp only
theorem deleteNs_kept (s : State) (nsx : Nat) :
    (deleteNs s nsx).kept false = s.kept false := by
  unfold deleteNs
  repeat' first
    | with_reducible rfl
    | simp only [id_eq, implies_true, kept_ite, kept_snd_ite, ite_self, kept_fold0, kept_mk0, foldl_kept, foldl_snd_kept, State.setNs_kept, State.setSlot_kept, cancelProv_kept, discardZone_kept, freeBands_kept, nsAttributeChanged_kept, putZoneState_kept, setSlot_kept, testLeaves_kept, weaveMark_kept]
    | with_reducible refine (foldl_kept _ (fun _ _ => ?_) _ _).trans ?_
    | with_reducible refine (foldl_snd_kept _ (fun _ _ => ?_) _ _).trans ?_
    | with_reducible refine (kept_of_eq ‹_›).trans ?_
    | with_reducible refine (kept_of_eq3 ‹_›).trans ?_
    | split
    | dsimp only
theorem finishCmd_kept (s : State) (c : HostCmd) :
    (finishCmd s c).kept false = s.kept false := by
  unfold finishCmd
  repeat' first
    | with_reducible rfl
    | simp only [implies_true, kept_fold0, kept_mk0, foldl_kept, foldl_snd_kept, deleteNs_kept, endCmd_kept, finishRead_kept, finishWrite_kept, formatNs_kept, resetZone_kept]
    | with_reducible refine (foldl_kept _ (fun _ _ => ?_) _ _).trans ?_
    | with_reducible refine (foldl_snd_kept _ (fun _ _ => ?_) _ _).trans ?_
    | with_reducible refine (kept_of_eq ‹_›).trans ?_ | with_reducible refine (kept_of_eq3 ‹_›).trans ?_ | split
    | dsimp only
theorem forgetAdmin_kept (s : State) (k : Nat) :
    (forgetAdmin s k).kept lv = s.kept lv := by
  unfold forgetAdmin
  repeat' first
    | with_reducible rfl
    | simp only [id_eq, implies_true, kept_ite, kept_snd_ite, ite_self, kept_fold, kept_mk, foldl_kept, foldl_snd_kept, State.setCtl_kept, foldl_kept]
    | with_reducible refine (foldl_kept _ (fun _ _ => ?_) _ _).trans ?_
    | with_reducible refine (foldl_snd_kept _ (fun _ _ => ?_) _ _).trans ?_
    | with_reducible refine (kept_of_eq ‹_›).trans ?_
    | with_reducible refine (kept_of_eq3 ‹_›).trans ?_
    | split
    | dsimp only
theorem freeSlotOf_kept (s : State) (k : Nat) :
    (freeSlotOf s k).kept lv = s.kept lv := by
  unfold freeSlotOf
  repeat' first
    | with_reducible rfl
    | simp only [id_eq, implies_true, kept_ite, kept_snd_ite, ite_self, kept_fold, kept_mk, foldl_kept, foldl_snd_kept, State.setSlot_kept, forgetAdmin_kept, setSlot_kept]
    | split
    | dsimp only
theorem settleClosing_kept (s : State) (n : Nat) :
    (settleClosing s n).kept lv = s.kept lv := by
  unfold settleClosing
  repeat' first
    | with_reducible rfl
    | simp only [id_eq, implies_true, kept_ite, kept_snd_ite, ite_self, kept_fold, kept_mk, foldl_kept, foldl_snd_kept, State.put_kept, State.setCtl_kept, foldl_kept, freeSlotOf_kept, settleEnable_kept]
    | with_reducible refine (foldl_kept _ (fun _ _ => ?_) _ _).trans ?_
    | with_reducible refine (foldl_snd_kept _ (fun _ _ => ?_) _ _).trans ?_
    | split
    | dsimp only
theorem passOwner_kept (s : State) (nsx new : Nat) (slot : Option Nat) :
    (passOwner s nsx new slot).kept lv = s.kept lv := by
  unfold passOwner
  repeat' first
    | with_reducible rfl | simp only [kept_fold, kept_mk, State.modNs_kept, asyncBoth_kept, endCmd_kept]
    | with_reducible refine (kept_of_eq ‹_›).trans ?_ | with_reducible refine (kept_of_eq3 ‹_›).trans ?_ | split
    | dsimp only
theorem settleMoves_kept (s : State) :
    (settleMoves s).kept lv = s.kept lv := by
  unfold settleMoves
  repeat' first
    | with_reducible rfl
    | simp only [implies_true, kept_ite, kept_snd_ite, ite_self, kept_fold, kept_mk, foldl_kept, foldl_snd_kept, passOwner_kept]
    | with_reducible refine (foldl_kept _ (fun _ _ => ?_) _ _).trans ?_
    | with_reducible refine (foldl_snd_kept _ (fun _ _ => ?_) _ _).trans ?_
    | with_reducible refine (kept_of_eq ‹_›).trans ?_ | with_reducible refine (kept_of_eq3 ‹_›).trans ?_ | split
    | dsimp only
theorem settleCmds_kept (s : State) (n : Nat) : (settleCmds s n).kept false = s.kept false := by
  induction n generalizing s with
  | zero => unfold settleCmds; repeat' first
            | with_reducible rfl
            | simp only [kept_fold0, kept_mk0, State.setCmds_kept, finishCmd_kept, settleMoves_kept]
            | with_reducible refine (kept_of_eq ‹_›).trans ?_ | with_reducible refine (kept_of_eq3 ‹_›).trans ?_ | split
            | dsimp only
  | succ n ih => unfold settleCmds; repeat' first
            | with_reducible rfl
            | simp only [kept_fold0, kept_mk0, ih, State.setCmds_kept, finishCmd_kept, settleMoves_kept]
            | with_reducible refine (kept_of_eq ‹_›).trans ?_ | with_reducible refine (kept_of_eq3 ‹_›).trans ?_ | split
            | dsimp only
theorem startSlot_kept (s : State) (k : Nat) :
    (startSlot s k).kept lv = s.kept lv := by
  unfold startSlot
  repeat' first
    | with_reducible rfl | simp only [kept_ite, kept_snd_ite, ite_self, kept_fold, kept_mk, State.setSlot_kept]
    | split | dsimp only
end Sys2Proof.Machine
end

