-- ==== Sys2Proof/Laws/KeptScheduler.lean ====
section
/-! SUPPORT. Frame laws of Machine/Scheduler.lean: each operation and command there leaves the fuses and the queue
as they are, and the stores too where the law says so of every level. -/

namespace Sys2Proof.Machine

open Sys2Proof

set_option maxRecDepth 4000
set_option linter.all false

variable {lv : Bool}

theorem addOps_kept (s : State) (l : List PlanOp) :
    (addOps s l).kept lv = s.kept lv := by
  unfold addOps
  repeat' first
    | with_reducible rfl
    | simp only [implies_true, kept_fold, kept_mk, foldl_kept, foldl_snd_kept, State.schMap_kept]
    | with_reducible refine (foldl_kept _ (fun _ _ => ?_) _ _).trans ?_
    | with_reducible refine (foldl_snd_kept _ (fun _ _ => ?_) _ _).trans ?_ | dsimp only
theorem returnOps_kept (s : State) (l : List PlanOp) :
    (returnOps s l).kept lv = s.kept lv := by
  unfold returnOps
  repeat' first
    | with_reducible rfl
    | simp only [id_eq, implies_true, kept_ite, kept_snd_ite, ite_self, kept_fold, kept_mk, foldl_kept, foldl_snd_kept, State.schMap_kept]
    | with_reducible refine (kept_of_eq ‹_›).trans ?_
    | with_reducible refine (kept_of_eq3 ‹_›).trans ?_
    | split
    | dsimp only
theorem newAge_kept (s : State) :
    (newAge s).2.kept lv = s.kept lv := by
  unfold newAge
  repeat' first
    | with_reducible rfl | simp only [kept_fold, kept_mk, State.schMap_kept] | dsimp only
theorem fillsBefore_kept (s : State) (head band psa : Nat) : (fillsBefore s head band psa).2.kept false = s.kept false := by
  unfold fillsBefore
  extract_lets e
  have he : e.2.kept false = s.kept false := readBand_kept _ _ _
  clear_value e
  split
  · exact he
  · have hl : (readSkips e.2 e.1.1).2.kept false = s.kept false := (readSkips_kept _ _).trans he
    split
    · exact hl
    · exact hl
theorem slackOut_kept (s : State) (i head band : Nat) :
    (slackOut s i head band).kept false = s.kept false := by
  unfold slackOut
  repeat' first
    | with_reducible rfl
    | simp only [id_eq, implies_true, kept_ite, kept_snd_ite, ite_self, kept_fold0, kept_mk0, foldl_kept, foldl_snd_kept, State.modLine_kept, State.schMap_kept]
    | split
    | dsimp only
theorem planWriteLine_kept (u : OpFor) (k : Option Nat) (g : Nat) (a : List PlanOp × State) (i : Nat) :
    (planWriteLine u k g a i).2.kept false = a.2.kept false := by
  unfold planWriteLine; repeat' first
            | with_reducible rfl
            | simp only [implies_true, kept_ite, kept_snd_ite, ite_self, kept_fold0, kept_mk0, foldl_kept, foldl_snd_kept, State.modLine_kept, fillsBefore_kept, readEntry_kept, translate_kept, translateBand_kept, slackOut_kept]
            | with_reducible refine (foldl_kept _ (fun _ _ => ?_) _ _).trans ?_
            | with_reducible refine (foldl_snd_kept _ (fun _ _ => ?_) _ _).trans ?_
            | with_reducible refine (kept_of_eq ‹_›).trans ?_ | with_reducible refine (kept_of_eq3 ‹_›).trans ?_ | split
            | dsimp only
theorem planWritesAt_kept (s : State) (use : OpFor) (slot : Option Nat) (age : Nat) (lines : List Nat) :
    (planWritesAt s use slot age lines).kept false = s.kept false := by
  unfold planWritesAt
  repeat' first
    | with_reducible rfl
    | simp only [id_eq, implies_true, kept_ite, kept_snd_ite, ite_self, kept_fold0, kept_mk0, foldl_kept, foldl_snd_kept, addOps_kept, planWriteLine_kept]
    | with_reducible refine (foldl_kept _ (fun _ _ => ?_) _ _).trans ?_
    | with_reducible refine (foldl_snd_kept _ (fun _ _ => ?_) _ _).trans ?_
    | split
    | dsimp only
theorem planWrites_kept (s : State) (use : OpFor) (slot : Option Nat) (lines : List Nat) :
    (planWrites s use slot lines).kept false = s.kept false := by
  unfold planWrites
  repeat' first
    | with_reducible rfl
    | simp only [id_eq, implies_true, kept_ite, kept_snd_ite, ite_self, kept_fold0, kept_mk0, foldl_kept, foldl_snd_kept, newAge_kept, planWritesAt_kept]
    | split
    | dsimp only
theorem replanZone_kept (s : State) (zone : Nat) :
    (replanZone s zone).kept false = s.kept false := by
  unfold replanZone
  repeat' first
    | with_reducible rfl
    | simp only [id_eq, implies_true, kept_ite, kept_snd_ite, ite_self, kept_fold0, kept_mk0, foldl_kept, foldl_snd_kept, planWritesAt_kept, unplan_kept]
    | with_reducible refine (foldl_kept _ (fun _ _ => ?_) _ _).trans ?_
    | with_reducible refine (foldl_snd_kept _ (fun _ _ => ?_) _ _).trans ?_
    | split
    | dsimp only
theorem refreshMwp_kept (s : State) (zone : Nat) :
    (refreshMwp s zone).kept false = s.kept false := by
  unfold refreshMwp
  repeat' first
    | with_reducible rfl | simp only [kept_ite, kept_snd_ite, ite_self, readEntry_kept, updateMwp_kept] | split
    | dsimp only
theorem bindPosition_kept (kind zone row : Nat) (strands lines : List Nat) (s : State) (pos : Nat) :
    (bindPosition kind zone row strands lines s pos).kept false = s.kept false := by
  unfold bindPosition
  repeat' first
    | with_reducible rfl
    | simp only [id_eq, implies_true, kept_ite, kept_snd_ite, ite_self, kept_fold0, kept_mk0, foldl_kept, foldl_snd_kept, memWrite_kept, wevCount_kept, wevRun_kept]
    | with_reducible refine (foldl_kept _ (fun _ _ => ?_) _ _).trans ?_
    | with_reducible refine (foldl_snd_kept _ (fun _ _ => ?_) _ _).trans ?_
    | split
    | dsimp only
theorem spoilPosition_kept (s : State) (strands lines : List Nat) (pos : Nat) :
    (spoilPosition s strands lines pos).kept false = s.kept false := by
  unfold spoilPosition
  repeat' first
    | with_reducible rfl
    | simp only [id_eq, implies_true, kept_ite, kept_snd_ite, ite_self, kept_fold0, kept_mk0, foldl_kept, foldl_snd_kept, State.modLine_kept, foldl_kept]
    | with_reducible refine (foldl_kept _ (fun _ _ => ?_) _ _).trans ?_
    | with_reducible refine (foldl_snd_kept _ (fun _ _ => ?_) _ _).trans ?_
    | split
    | dsimp only
theorem bindRow_kept (s : State) (zone row : Nat) :
    (bindRow s zone row).kept false = s.kept false := by
  unfold bindRow
  repeat' first
    | with_reducible rfl
    | simp only [id_eq, implies_true, kept_ite, kept_snd_ite, ite_self, kept_fold0, kept_mk0, foldl_kept, foldl_snd_kept, State.schMap_kept, allocLines_kept, bindPosition_kept, planWrites_kept, readEntry_kept, spoilPosition_kept]
    | with_reducible refine (foldl_kept _ (fun _ _ => ?_) _ _).trans ?_
    | with_reducible refine (foldl_snd_kept _ (fun _ _ => ?_) _ _).trans ?_
    | with_reducible refine (kept_of_eq ‹_›).trans ?_
    | with_reducible refine (kept_of_eq3 ‹_›).trans ?_
    | split
    | dsimp only
theorem bindRows_kept (s : State) (zone : Nat) :
    (bindRows s zone).kept false = s.kept false := by
  unfold bindRows
  repeat' first
    | with_reducible rfl
    | simp only [id_eq, implies_true, kept_ite, kept_snd_ite, ite_self, kept_fold0, kept_mk0, foldl_kept, foldl_snd_kept, bindRow_kept, readEntry_kept]
    | with_reducible refine (foldl_kept _ (fun _ _ => ?_) _ _).trans ?_
    | with_reducible refine (foldl_snd_kept _ (fun _ _ => ?_) _ _).trans ?_
    | split
    | dsimp only
theorem settleRows_kept (s : State) (zone : Nat) :
    (settleRows s zone).kept false = s.kept false := by
  unfold settleRows
  repeat' first
    | with_reducible rfl
    | simp only [implies_true, kept_ite, kept_snd_ite, ite_self, kept_fold0, kept_mk0, foldl_kept, foldl_snd_kept, State.schMap_kept, readEntry_kept, releaseLine_kept]
    | with_reducible refine (foldl_kept _ (fun _ _ => ?_) _ _).trans ?_
    | with_reducible refine (foldl_snd_kept _ (fun _ _ => ?_) _ _).trans ?_ | split | dsimp only
theorem settleLines_kept (s : State) (zone : Nat) :
    (settleLines s zone).kept false = s.kept false := by
  unfold settleLines
  repeat' first
    | with_reducible rfl
    | simp only [implies_true, kept_ite, kept_snd_ite, ite_self, foldl_kept, foldl_snd_kept, readEntry_kept, releaseLine_kept]
    | with_reducible refine (foldl_kept _ (fun _ _ => ?_) _ _).trans ?_
    | with_reducible refine (foldl_snd_kept _ (fun _ _ => ?_) _ _).trans ?_ | split | dsimp only
theorem chargeLine_kept (s : State) (i : Nat) :
    (chargeLine s i).kept false = s.kept false := by
  unfold chargeLine
  repeat' first
    | with_reducible rfl
    | simp only [id_eq, implies_true, kept_ite, kept_snd_ite, ite_self, kept_fold0, kept_mk0, foldl_kept, foldl_snd_kept, State.setLine_kept, checkHi_kept]
    | with_reducible refine (kept_of_eq ‹_›).trans ?_
    | with_reducible refine (kept_of_eq3 ‹_›).trans ?_
    | split
    | dsimp only
theorem chargeWritten_kept (s : State) (zone : Nat) :
    (chargeWritten s zone).kept false = s.kept false := by
  unfold chargeWritten
  repeat' first
    | with_reducible rfl
    | simp only [id_eq, implies_true, kept_ite, kept_snd_ite, ite_self, kept_fold0, kept_mk0, foldl_kept, foldl_snd_kept, chargeLine_kept, foldl_kept, readEntry_kept]
    | with_reducible refine (foldl_kept _ (fun _ _ => ?_) _ _).trans ?_
    | with_reducible refine (foldl_snd_kept _ (fun _ _ => ?_) _ _).trans ?_
    | split
    | dsimp only
theorem settleZone_kept (s : State) (zone : Nat) :
    (settleZone s zone).kept false = s.kept false := by
  unfold settleZone
  repeat' first
    | with_reducible rfl
    | simp only [id_eq, implies_true, kept_ite, kept_snd_ite, ite_self, kept_fold0, kept_mk0, foldl_kept, foldl_snd_kept, bindRows_kept, chargeWritten_kept, refreshMwp_kept, settleCmds_kept, settleLines_kept, settleRows_kept]
    | split
    | dsimp only
theorem feedCmd_kept (s : State) (c : HostCmd) (n : Ns) (blocks : List (List Nat)) :
    (feedCmd s c n blocks).kept false = s.kept false := by
  unfold feedCmd
  repeat' first
    | with_reducible rfl
    | simp only [id_eq, implies_true, kept_ite, kept_snd_ite, ite_self, kept_fold0, kept_mk0, foldl_kept, foldl_snd_kept, State.modCmd_kept, allocLines_kept, cancelProv_kept, countMoved_kept, foldl_kept, memWrite_kept, planWrites_kept]
    | with_reducible refine (foldl_kept _ (fun _ _ => ?_) _ _).trans ?_
    | with_reducible refine (foldl_snd_kept _ (fun _ _ => ?_) _ _).trans ?_
    | with_reducible refine (kept_of_eq ‹_›).trans ?_
    | with_reducible refine (kept_of_eq3 ‹_›).trans ?_
    | split
    | dsimp only
theorem admitLine_kept (s : State) (i : Nat) :
    (admitLine s i).2.kept false = s.kept false := by
  unfold admitLine
  repeat' first
    | with_reducible rfl
    | simp only [kept_ite, kept_snd_ite, ite_self, kept_fold0, kept_mk0, State.setLine_kept, checkHi_kept]
    | with_reducible refine (kept_of_eq ‹_›).trans ?_ | with_reducible refine (kept_of_eq3 ‹_›).trans ?_ | split
    | dsimp only
theorem admitRun_kept (l : List Nat) (s : State) : (admitRun l s).2.kept false = s.kept false := by
  induction l generalizing s with
  | nil => unfold admitRun; repeat' first
            | with_reducible rfl | simp only [kept_ite, kept_snd_ite, ite_self, admitLine_kept]
            | with_reducible refine (kept_of_eq ‹_›).trans ?_ | with_reducible refine (kept_of_eq3 ‹_›).trans ?_ | split
            | dsimp only
  | cons x l ih => unfold admitRun; repeat' first
            | with_reducible rfl | simp only [kept_ite, kept_snd_ite, ite_self, ih, admitLine_kept]
            | with_reducible refine (kept_of_eq ‹_›).trans ?_ | with_reducible refine (kept_of_eq3 ‹_›).trans ?_ | split
            | dsimp only
theorem admitCmd_kept (s : State) (k : Nat) :
    (admitCmd s k).kept false = s.kept false := by
  unfold admitCmd
  repeat' first
    | with_reducible rfl
    | simp only [id_eq, implies_true, kept_ite, kept_snd_ite, ite_self, kept_fold0, kept_mk0, foldl_kept, foldl_snd_kept, State.wait_kept, admitRun_kept, planWrites_kept]
    | with_reducible refine (kept_of_eq ‹_›).trans ?_
    | with_reducible refine (kept_of_eq3 ‹_›).trans ?_
    | split
    | dsimp only
theorem noteWait_kept (s : State) (c : HostCmd) :
    (noteWait s c).kept lv = s.kept lv := by
  unfold noteWait
  repeat' first
    | with_reducible rfl
    | simp only [id_eq, implies_true, kept_ite, kept_snd_ite, ite_self, kept_fold, kept_mk, foldl_kept, foldl_snd_kept, State.modCmd_kept, raise_kept]
    | split
    | dsimp only
theorem admitAll_kept (s : State) (l : List HostCmd) : (admitAll s l).kept false = s.kept false := by
  induction l generalizing s with
  | nil => unfold admitAll; repeat' first
            | with_reducible rfl | simp only [kept_ite, kept_snd_ite, ite_self, kept_fold0, kept_mk0, admitCmd_kept]
            | with_reducible refine (foldl_kept _ (fun _ _ => ?_) _ _).trans ?_
            | with_reducible refine (kept_of_eq ‹_›).trans ?_ | with_reducible refine (kept_of_eq3 ‹_›).trans ?_ | split
            | dsimp only
  | cons x l ih => unfold admitAll; repeat' first
            | with_reducible rfl | simp only [kept_ite, kept_snd_ite, ite_self, kept_fold0, kept_mk0, ih, admitCmd_kept, foldl_kept, noteWait_kept, implies_true]
            | with_reducible refine (foldl_kept _ (fun _ _ => ?_) _ _).trans ?_
            | with_reducible refine (kept_of_eq ‹_›).trans ?_ | with_reducible refine (kept_of_eq3 ‹_›).trans ?_ | split
            | dsimp only
theorem admitWaiting_kept (s : State) :
    (admitWaiting s).kept false = s.kept false := by
  unfold admitWaiting
  repeat' first
    | with_reducible rfl
    | simp only [id_eq, implies_true, kept_ite, kept_snd_ite, ite_self, kept_fold0, kept_mk0, foldl_kept, foldl_snd_kept, admitAll_kept, noteWait_kept, settleZone_kept]
    | with_reducible refine (foldl_kept _ (fun _ _ => ?_) _ _).trans ?_
    | with_reducible refine (foldl_snd_kept _ (fun _ _ => ?_) _ _).trans ?_
    | split
    | dsimp only
theorem markBinding_kept (s : State) (j : Nat) :
    (markBinding s j).kept false = s.kept false := by
  unfold markBinding
  repeat' first
    | with_reducible rfl
    | simp only [id_eq, implies_true, kept_ite, kept_snd_ite, ite_self, kept_fold0, kept_mk0, foldl_kept, foldl_snd_kept, State.modLine_kept, memWrite_kept, planWrites_kept]
    | with_reducible refine (foldl_kept _ (fun _ _ => ?_) _ _).trans ?_
    | with_reducible refine (foldl_snd_kept _ (fun _ _ => ?_) _ _).trans ?_
    | split
    | dsimp only
theorem markPosition_kept (s : State) (x : Line) :
    (markPosition s x).kept false = s.kept false := by
  unfold markPosition
  repeat' first
    | with_reducible rfl
    | simp only [id_eq, implies_true, kept_ite, kept_snd_ite, ite_self, kept_fold0, kept_mk0, foldl_kept, foldl_snd_kept, foldl_kept, markBinding_kept, readEntry_kept]
    | with_reducible refine (foldl_kept _ (fun _ _ => ?_) _ _).trans ?_
    | with_reducible refine (foldl_snd_kept _ (fun _ _ => ?_) _ _).trans ?_
    | with_reducible refine (kept_of_eq ‹_›).trans ?_
    | with_reducible refine (kept_of_eq3 ‹_›).trans ?_
    | split
    | dsimp only
theorem markLine_kept (s : State) (i : Nat) :
    (markLine s i).kept false = s.kept false := by
  unfold markLine
  repeat' first
    | with_reducible rfl
    | simp only [id_eq, implies_true, kept_ite, kept_snd_ite, ite_self, kept_fold0, kept_mk0, foldl_kept, foldl_snd_kept, State.bump_kept, State.modCmd_kept, State.modLine_kept, markPosition_kept, memRead_kept, raise_kept]
    | with_reducible refine (kept_of_eq ‹_›).trans ?_
    | with_reducible refine (kept_of_eq3 ‹_›).trans ?_
    | split
    | dsimp only
theorem postOp_kept (s : State) (n : Nat) (o : PlanOp) (paired : Bool) :
    (postOp s n o paired).kept false = s.kept false := by
  unfold postOp
  repeat' first
    | with_reducible rfl
    | simp only [implies_true, kept_ite, kept_snd_ite, ite_self, kept_fold0, kept_mk0, foldl_kept, foldl_snd_kept, State.schMap_kept, lqPost_kept, markLine_kept, memWrite_kept, startSlot_kept]
    | with_reducible refine (foldl_kept _ (fun _ _ => ?_) _ _).trans ?_
    | with_reducible refine (foldl_snd_kept _ (fun _ _ => ?_) _ _).trans ?_
    | with_reducible refine (kept_of_eq ‹_›).trans ?_ | with_reducible refine (kept_of_eq3 ‹_›).trans ?_ | split
    | dsimp only
theorem fillOne_some {s : State} {a : Nat} {t : State} (h : fillOne s a = some t) : t.kept false = s.kept false := by
  unfold fillOne at h
  (try dsimp only at h)
  repeat' (first | contradiction | (simp only [Option.map_eq_some_iff] at h; obtain ⟨_, _, h⟩ := h) | split at h)
  all_goals (try cases h)
  all_goals (repeat' first
            | with_reducible rfl | simp only [kept_ite, kept_snd_ite, ite_self, kept_fold0, kept_mk0, postOp_kept]
            | with_reducible refine (kept_of_eq ‹_›).trans ?_ | with_reducible refine (kept_of_eq3 ‹_›).trans ?_ | split
            | dsimp only)
theorem fillActuator_kept (a f : Nat) (s : State) : (fillActuator a f s).kept false = s.kept false := by
  induction f generalizing s with
  | zero => unfold fillActuator; repeat' first
            | with_reducible rfl | simp only [kept_fold0, kept_mk0] | with_reducible refine (fillOne_some ‹_›).trans ?_
            | with_reducible refine (kept_of_eq ‹_›).trans ?_ | with_reducible refine (kept_of_eq3 ‹_›).trans ?_ | split
            | dsimp only
  | succ n ih => unfold fillActuator; repeat' first
            | with_reducible rfl | simp only [kept_fold0, kept_mk0, ih]
            | with_reducible refine (fillOne_some ‹_›).trans ?_ | with_reducible refine (kept_of_eq ‹_›).trans ?_
            | with_reducible refine (kept_of_eq3 ‹_›).trans ?_ | split | dsimp only
theorem fillLanes_kept (s : State) :
    (fillLanes s).kept false = s.kept false := by
  unfold fillLanes
  repeat' first
    | with_reducible rfl
    | simp only [implies_true, kept_ite, kept_snd_ite, ite_self, foldl_kept, foldl_snd_kept, fillActuator_kept]
    | with_reducible refine (foldl_kept _ (fun _ _ => ?_) _ _).trans ?_
    | with_reducible refine (foldl_snd_kept _ (fun _ _ => ?_) _ _).trans ?_ | split | dsimp only
theorem replaceParts_kept (s : State) (i : Nat) (p : ReadFrom) :
    (replaceParts s i p).kept lv = s.kept lv := by
  unfold replaceParts
  repeat' first
    | with_reducible rfl | simp only [kept_ite, kept_snd_ite, ite_self, kept_fold, kept_mk, State.setCmds_kept]
    | split | dsimp only
theorem testSector_kept (s : State) (i : Nat) (ok : Bool) :
    (testSector s i ok).kept false = s.kept false := by
  unfold testSector
  repeat' first
    | with_reducible rfl
    | simp only [id_eq, implies_true, kept_ite, kept_snd_ite, ite_self, kept_fold0, kept_mk0, foldl_kept, foldl_snd_kept, freeLine_kept, testMap_kept]
    | with_reducible refine (kept_of_eq ‹_›).trans ?_
    | with_reducible refine (kept_of_eq3 ‹_›).trans ?_
    | split
    | dsimp only
theorem rebuildReady_kept (s : State) (i : Nat) :
    (rebuildReady s i).kept lv = s.kept lv := by
  unfold rebuildReady
  repeat' first
    | with_reducible rfl
    | simp only [id_eq, implies_true, kept_ite, kept_snd_ite, ite_self, kept_fold, kept_mk, foldl_kept, foldl_snd_kept, State.schMap_kept]
    | split
    | dsimp only
theorem rebuildSpoiled_kept (s : State) (i : Nat) :
    (rebuildSpoiled s i).kept false = s.kept false := by
  unfold rebuildSpoiled
  repeat' first
    | with_reducible rfl
    | simp only [id_eq, implies_true, kept_ite, kept_snd_ite, ite_self, kept_fold0, kept_mk0, foldl_kept, foldl_snd_kept, memWrite_kept, rebuildReady_kept]
    | split
    | dsimp only
theorem unrecovered_kept (s : State) (i : Nat) :
    (unrecovered s i).kept false = s.kept false := by
  unfold unrecovered
  repeat' first
    | with_reducible rfl
    | simp only [id_eq, implies_true, kept_ite, kept_snd_ite, ite_self, kept_fold0, kept_mk0, foldl_kept, foldl_snd_kept, State.bump_kept, dropLine_kept, raise_kept, rebuildSpoiled_kept, replaceParts_kept, testSector_kept]
    | split
    | dsimp only
theorem addSource_kept (e : ZoneEntry) (rc : Recon × State) (w : Nat) : (addSource e rc w).2.kept false = rc.2.kept false := by
  unfold addSource; repeat' first
            | with_reducible rfl
            | simp only [kept_ite, kept_snd_ite, ite_self, kept_fold0, kept_mk0, addOps_kept, allocLines_kept, memRead_kept, memWrite_kept, newAge_kept, translate_kept]
            | with_reducible refine (kept_of_eq ‹_›).trans ?_ | with_reducible refine (kept_of_eq3 ‹_›).trans ?_ | split
            | dsimp only
theorem dropSources_kept (s : State) (r : Recon) :
    (dropSources s r).kept false = s.kept false := by
  unfold dropSources
  repeat' first
    | with_reducible rfl | simp only [implies_true, foldl_kept, foldl_snd_kept, dropLine_kept, unplan_kept]
    | with_reducible refine (foldl_kept _ (fun _ _ => ?_) _ _).trans ?_
    | with_reducible refine (foldl_snd_kept _ (fun _ _ => ?_) _ _).trans ?_ | dsimp only
theorem settleRecon_kept (s : State) (r : Recon) :
    (settleRecon s r).kept false = s.kept false := by
  unfold settleRecon
  repeat' first
    | with_reducible rfl
    | simp only [implies_true, kept_ite, kept_snd_ite, ite_self, kept_fold0, kept_mk0, foldl_kept, foldl_snd_kept, State.bump_kept, State.schMap_kept, addSource_kept, dropSources_kept, readEntry_kept, unrecovered_kept]
    | with_reducible refine (foldl_kept _ (fun _ _ => ?_) _ _).trans ?_
    | with_reducible refine (foldl_snd_kept _ (fun _ _ => ?_) _ _).trans ?_ | split | dsimp only
theorem retryRecons_kept (s : State) :
    (retryRecons s).kept false = s.kept false := by
  unfold retryRecons
  repeat' first
    | with_reducible rfl
    | simp only [implies_true, kept_fold0, kept_mk0, foldl_kept, foldl_snd_kept, State.schMap_kept, settleRecon_kept]
    | with_reducible refine (foldl_kept _ (fun _ _ => ?_) _ _).trans ?_
    | with_reducible refine (foldl_snd_kept _ (fun _ _ => ?_) _ _).trans ?_ | dsimp only
theorem stepEight_kept (s : State) (i : Nat) :
    (stepEight s i).kept false = s.kept false := by
  unfold stepEight
  repeat' first
    | with_reducible rfl
    | simp only [id_eq, implies_true, kept_ite, kept_snd_ite, ite_self, kept_fold0, kept_mk0, foldl_kept, foldl_snd_kept, readEntry_kept, settleRecon_kept, testSector_kept, unrecovered_kept]
    | with_reducible refine (kept_of_eq ‹_›).trans ?_
    | with_reducible refine (kept_of_eq3 ‹_›).trans ?_
    | split
    | dsimp only
theorem sourceResult_kept (s : State) (i : Nat) (ok : Bool) :
    (sourceResult s i ok).kept false = s.kept false := by
  unfold sourceResult
  repeat' first
    | with_reducible rfl
    | simp only [kept_ite, kept_snd_ite, ite_self, kept_fold0, kept_mk0, State.schMap_kept, dropLine_kept, settleRecon_kept]
    | with_reducible refine (kept_of_eq ‹_›).trans ?_ | with_reducible refine (kept_of_eq3 ‹_›).trans ?_ | split
    | dsimp only
theorem failCmd_kept (s : State) (k : Nat) (st : HostStatus) :
    (failCmd s k st).kept false = s.kept false := by
  unfold failCmd
  repeat' first
    | with_reducible rfl
    | simp only [implies_true, kept_fold0, kept_mk0, foldl_kept, foldl_snd_kept, State.schMap_kept, State.setCmds_kept, dropLine_kept, endCmd_kept, servedLine_kept, unplan_kept]
    | with_reducible refine (foldl_kept _ (fun _ _ => ?_) _ _).trans ?_
    | with_reducible refine (foldl_snd_kept _ (fun _ _ => ?_) _ _).trans ?_
    | with_reducible refine (kept_of_eq ‹_›).trans ?_ | with_reducible refine (kept_of_eq3 ‹_›).trans ?_ | split
    | dsimp only
theorem planReadLine_kept (u : OpFor) (k : Option Nat) (g : Nat) (a : List PlanOp × State) (i : Nat) :
    (planReadLine u k g a i).2.kept false = a.2.kept false := by
  unfold planReadLine; repeat' first
            | with_reducible rfl
            | simp only [kept_ite, kept_snd_ite, ite_self, kept_fold0, kept_mk0, failCmd_kept, freeLine_kept, readEntry_kept, stepEight_kept, translate_kept, unrecovered_kept]
            | with_reducible refine (kept_of_eq ‹_›).trans ?_ | with_reducible refine (kept_of_eq3 ‹_›).trans ?_ | split
            | dsimp only
theorem planReads_kept (s : State) (use : OpFor) (slot : Option Nat) (lines : List Nat) :
    (planReads s use slot lines).kept false = s.kept false := by
  unfold planReads
  repeat' first
    | with_reducible rfl
    | simp only [implies_true, foldl_kept, foldl_snd_kept, addOps_kept, newAge_kept, planReadLine_kept]
    | with_reducible refine (foldl_kept _ (fun _ _ => ?_) _ _).trans ?_
    | with_reducible refine (foldl_snd_kept _ (fun _ _ => ?_) _ _).trans ?_ | dsimp only
theorem provFreed_kept (s : State) (i : Nat) :
    (provFreed s i).kept false = s.kept false := by
  unfold provFreed
  repeat' first
    | with_reducible rfl | simp only [kept_fold0, kept_mk0, State.modLine_kept, dropLine_kept, planReads_kept]
    | with_reducible refine (kept_of_eq ‹_›).trans ?_ | with_reducible refine (kept_of_eq3 ‹_›).trans ?_ | split
    | dsimp only
theorem sectorResult_kept (s : State) (n t i : Nat) :
    (sectorResult s n t i).2.kept false = s.kept false := by
  unfold sectorResult
  repeat' first
    | with_reducible rfl | simp only [kept_ite, kept_snd_ite, ite_self, memRead_kept] | split | dsimp only
theorem combineOrEight_kept (s : State) (o : PlanOp) :
    (combineOrEight s o).kept false = s.kept false := by
  unfold combineOrEight
  repeat' first
    | with_reducible rfl
    | simp only [kept_ite, kept_snd_ite, ite_self, kept_fold0, kept_mk0, State.schMap_kept, queueTrial_kept, releaseKept_kept, stepEight_kept]
    | with_reducible refine (kept_of_eq ‹_›).trans ?_ | with_reducible refine (kept_of_eq3 ‹_›).trans ?_ | split
    | dsimp only
theorem landLine_kept (s : State) (use : OpFor) (i : Nat) :
    (landLine s use i).kept false = s.kept false := by
  unfold landLine
  repeat' first
    | with_reducible rfl
    | simp only [id_eq, implies_true, kept_ite, kept_snd_ite, ite_self, kept_fold0, kept_mk0, foldl_kept, foldl_snd_kept, State.modLine_kept, freeLine_kept, provFreed_kept, rebuildReady_kept, sourceResult_kept, stepEight_kept, testSector_kept]
    | with_reducible refine (kept_of_eq ‹_›).trans ?_
    | with_reducible refine (kept_of_eq3 ‹_›).trans ?_
    | split
    | dsimp only
theorem sectorFailed_kept (s : State) (o : PlanOp) (mismatch : Bool) (kept : List (Nat × Nat × Nat)) :
    (sectorFailed s o mismatch kept).kept false = s.kept false := by
  unfold sectorFailed
  repeat' first
    | with_reducible rfl
    | simp only [kept_ite, kept_snd_ite, ite_self, kept_fold0, kept_mk0, addOps_kept, combineOrEight_kept, freeLine_kept, provFreed_kept, readEntry_kept, releaseKept_kept, sourceResult_kept, stepEight_kept]
    | with_reducible refine (kept_of_eq ‹_›).trans ?_ | with_reducible refine (kept_of_eq3 ‹_›).trans ?_ | split
    | dsimp only
theorem readSector_kept (n t : Nat) (o : PlanOp) (s : State) (i : Nat) :
    (readSector n t o s i).kept false = s.kept false := by
  unfold readSector
  repeat' first
    | with_reducible rfl
    | simp only [id_eq, implies_true, kept_ite, kept_snd_ite, ite_self, kept_fold0, kept_mk0, foldl_kept, foldl_snd_kept, addOps_kept, landLine_kept, releaseKept_kept, sectorFailed_kept, sectorResult_kept]
    | split
    | dsimp only
theorem keepTrails_kept (s : State) (n : Nat) (keep : List (Nat × Nat)) :
    (keepTrails s n keep).kept false = s.kept false := by
  unfold keepTrails
  repeat' first
    | with_reducible rfl
    | simp only [id_eq, implies_true, kept_ite, kept_snd_ite, ite_self, kept_fold0, kept_mk0, foldl_kept, foldl_snd_kept, State.schMap_kept, foldl_kept, freeLine_kept]
    | with_reducible refine (foldl_kept _ (fun _ _ => ?_) _ _).trans ?_
    | with_reducible refine (foldl_snd_kept _ (fun _ _ => ?_) _ _).trans ?_
    | with_reducible refine (kept_of_eq ‹_›).trans ?_
    | with_reducible refine (kept_of_eq3 ‹_›).trans ?_
    | split
    | dsimp only
theorem dropTrails_kept (s : State) (n : Nat) :
    (dropTrails s n).kept false = s.kept false := by
  unfold dropTrails
  repeat' first
    | with_reducible rfl
    | simp only [id_eq, implies_true, kept_ite, kept_snd_ite, ite_self, kept_fold0, kept_mk0, foldl_kept, foldl_snd_kept, keepTrails_kept]
    | split
    | dsimp only
theorem sectorsWritten_kept (s : State) (n t : Nat) (o : PlanOp) (d : Nat) :
    (sectorsWritten s n t o d).kept false = s.kept false := by
  unfold sectorsWritten
  repeat' first
    | with_reducible rfl
    | simp only [id_eq, implies_true, kept_ite, kept_snd_ite, ite_self, kept_fold0, kept_mk0, foldl_kept, foldl_snd_kept, State.modLine_kept, freeLine_kept, keepTrails_kept]
    | with_reducible refine (foldl_kept _ (fun _ _ => ?_) _ _).trans ?_
    | with_reducible refine (foldl_snd_kept _ (fun _ _ => ?_) _ _).trans ?_
    | with_reducible refine (kept_of_eq ‹_›).trans ?_
    | with_reducible refine (kept_of_eq3 ‹_›).trans ?_
    | split
    | dsimp only
theorem leaveTrack_kept (s : State) (n psa : Nat) :
    (leaveTrack s n psa).kept false = s.kept false := by
  unfold leaveTrack
  repeat' first
    | with_reducible rfl | simp only [kept_ite, kept_snd_ite, ite_self, kept_fold0, kept_mk0, dropTrails_kept]
    | with_reducible refine (kept_of_eq ‹_›).trans ?_ | with_reducible refine (kept_of_eq3 ‹_›).trans ?_ | split
    | dsimp only
theorem rewriteTrail_kept (s : State) (n : Nat) (o : PlanOp) (psa : Nat) :
    (rewriteTrail s n o psa).kept lv = s.kept lv := by
  unfold rewriteTrail
  repeat' first
    | with_reducible rfl
    | simp only [id_eq, implies_true, kept_ite, kept_snd_ite, ite_self, kept_fold, kept_mk, foldl_kept, foldl_snd_kept, State.bump_kept, raise_kept, returnOps_kept]
    | split
    | dsimp only
theorem backToPlan_kept (s : State) (o : PlanOp) :
    (backToPlan s o).kept false = s.kept false := by
  unfold backToPlan
  repeat' first
    | with_reducible rfl
    | simp only [id_eq, implies_true, kept_ite, kept_snd_ite, ite_self, kept_fold0, kept_mk0, foldl_kept, foldl_snd_kept, freeLine_kept, releaseKept_kept, returnOps_kept]
    | with_reducible refine (foldl_kept _ (fun _ _ => ?_) _ _).trans ?_
    | with_reducible refine (foldl_snd_kept _ (fun _ _ => ?_) _ _).trans ?_
    | with_reducible refine (kept_of_eq ‹_›).trans ?_
    | with_reducible refine (kept_of_eq3 ‹_›).trans ?_
    | split
    | dsimp only
theorem toOtherLane_kept (s : State) (n : Nat) (o : PlanOp) :
    (toOtherLane s n o).kept false = s.kept false := by
  unfold toOtherLane
  repeat' first
    | with_reducible rfl | simp only [kept_fold0, kept_mk0, backToPlan_kept] | dsimp only
theorem actuatorGone_kept (s : State) (o : PlanOp) :
    (actuatorGone s o).kept false = s.kept false := by
  unfold actuatorGone
  repeat' first
    | with_reducible rfl
    | simp only [id_eq, implies_true, kept_ite, kept_snd_ite, ite_self, kept_fold0, kept_mk0, foldl_kept, foldl_snd_kept, backToPlan_kept, failCmd_kept, freeLine_kept, provFreed_kept, readEntry_kept, sourceResult_kept, stepEight_kept, testSector_kept]
    | with_reducible refine (foldl_kept _ (fun _ _ => ?_) _ _).trans ?_
    | with_reducible refine (foldl_snd_kept _ (fun _ _ => ?_) _ _).trans ?_
    | with_reducible refine (kept_of_eq ‹_›).trans ?_
    | with_reducible refine (kept_of_eq3 ‹_›).trans ?_
    | split
    | dsimp only
theorem verifyFailed_kept (s : State) (psa : Nat) (o : PlanOp) :
    (verifyFailed s psa o).kept false = s.kept false := by
  unfold verifyFailed
  repeat' first
    | with_reducible rfl
    | simp only [id_eq, implies_true, kept_ite, kept_snd_ite, ite_self, kept_fold0, kept_mk0, foldl_kept, foldl_snd_kept, appendSkip_kept, backToPlan_kept, readBand_kept, replanZone_kept]
    | with_reducible refine (kept_of_eq ‹_›).trans ?_
    | with_reducible refine (kept_of_eq3 ‹_›).trans ?_
    | split
    | dsimp only
theorem remapRewrites_kept (s : State) (n t : Nat) (o : PlanOp) :
    (remapRewrites s n t o).kept false = s.kept false := by
  unfold remapRewrites
  repeat' first
    | with_reducible rfl
    | simp only [id_eq, implies_true, kept_ite, kept_snd_ite, ite_self, kept_fold0, kept_mk0, foldl_kept, foldl_snd_kept, State.modLine_kept, State.schMap_kept, planWritesAt_kept]
    | with_reducible refine (foldl_kept _ (fun _ _ => ?_) _ _).trans ?_
    | with_reducible refine (foldl_snd_kept _ (fun _ _ => ?_) _ _).trans ?_
    | split
    | dsimp only
theorem headFaulted_kept (s : State) (o : PlanOp) :
    (headFaulted s o).kept false = s.kept false := by
  unfold headFaulted
  repeat' first
    | with_reducible rfl
    | simp only [implies_true, kept_fold0, kept_mk0, foldl_kept, foldl_snd_kept, backToPlan_kept, headLost_kept, replanZone_kept, settleZone_kept]
    | with_reducible refine (foldl_kept _ (fun _ _ => ?_) _ _).trans ?_
    | with_reducible refine (foldl_snd_kept _ (fun _ _ => ?_) _ _).trans ?_ | dsimp only
theorem passSector_kept (s : State) (n record : Nat) (rest : PlanOp) :
    (passSector s n record rest).2.kept false = s.kept false := by
  unfold passSector
  repeat' first
    | with_reducible rfl
    | simp only [id_eq, implies_true, kept_ite, kept_snd_ite, ite_self, kept_fold0, kept_mk0, foldl_kept, foldl_snd_kept, State.modLine_kept, appendRemap_kept, planWritesAt_kept, readBand_kept, returnOps_kept, verifyFailed_kept]
    | with_reducible refine (kept_of_eq ‹_›).trans ?_
    | with_reducible refine (kept_of_eq3 ‹_›).trans ?_
    | split
    | dsimp only
theorem passSectors_kept (n t : Nat) (o : PlanOp) (m i : Nat) (s : State) : (passSectors n t o m i s).kept false = s.kept false := by
  induction m generalizing i s with
  | zero => unfold passSectors; rfl
  | succ m ih => unfold passSectors; repeat' first
            | with_reducible rfl
            | simp only [kept_ite, ite_self, ih, passSector_kept, sectorResult_kept]
            | split
            | dsimp only
theorem writeReturned_kept (s : State) (r : TagRec) (o : PlanOp) :
    (writeReturned s r o).kept false = s.kept false := by
  unfold writeReturned
  repeat' first
    | with_reducible rfl
    | simp only [id_eq, implies_true, kept_ite, kept_snd_ite, ite_self, kept_fold0, kept_mk0, foldl_kept, foldl_snd_kept, actuatorGone_kept, backToPlan_kept, headFaulted_kept, remapRewrites_kept, returnOps_kept, rewriteTrail_kept, sectorsWritten_kept, toOtherLane_kept, verifyFailed_kept]
    | with_reducible refine (kept_of_eq ‹_›).trans ?_
    | with_reducible refine (kept_of_eq3 ‹_›).trans ?_
    | split
    | dsimp only
theorem readReturned_kept (s : State) (r : TagRec) (o : PlanOp) :
    (readReturned s r o).kept false = s.kept false := by
  unfold readReturned
  repeat' first
    | with_reducible rfl
    | simp only [id_eq, implies_true, kept_ite, kept_snd_ite, ite_self, kept_fold0, kept_mk0, foldl_kept, foldl_snd_kept, actuatorGone_kept, backToPlan_kept, foldl_kept, passSectors_kept, readSector_kept, toOtherLane_kept]
    | with_reducible refine (foldl_kept _ (fun _ _ => ?_) _ _).trans ?_
    | with_reducible refine (foldl_snd_kept _ (fun _ _ => ?_) _ _).trans ?_
    | with_reducible refine (kept_of_eq ‹_›).trans ?_
    | with_reducible refine (kept_of_eq3 ‹_›).trans ?_
    | split
    | dsimp only
theorem rebaseLines_kept (s : State) (c : HostCmd) (lba : Nat) :
    (rebaseLines s c lba).kept false = s.kept false := by
  unfold rebaseLines
  repeat' first
    | with_reducible rfl
    | simp only [id_eq, implies_true, kept_ite, kept_snd_ite, ite_self, kept_fold0, kept_mk0, foldl_kept, foldl_snd_kept, foldl_kept, memRead_kept, memWrite_kept]
    | with_reducible refine (foldl_kept _ (fun _ _ => ?_) _ _).trans ?_
    | with_reducible refine (foldl_snd_kept _ (fun _ _ => ?_) _ _).trans ?_
    | with_reducible refine (kept_of_eq ‹_›).trans ?_
    | with_reducible refine (kept_of_eq3 ‹_›).trans ?_
    | split
    | dsimp only
theorem reassign_kept (s : State) (z n w : Nat) (l : List HostCmd) : (reassign s z n w l).kept false = s.kept false := by
  induction l generalizing s w with
  | nil => unfold reassign; repeat' first
            | with_reducible rfl
            | simp only [implies_true, kept_ite, kept_snd_ite, ite_self, kept_fold0, kept_mk0, foldl_kept, foldl_snd_kept, State.modCmd_kept, State.modLine_kept, failCmd_kept, planWrites_kept, putZoneWp_kept, rebaseLines_kept, unplan_kept]
            | with_reducible refine (foldl_kept _ (fun _ _ => ?_) _ _).trans ?_
            | with_reducible refine (foldl_snd_kept _ (fun _ _ => ?_) _ _).trans ?_
            | with_reducible refine (kept_of_eq ‹_›).trans ?_ | with_reducible refine (kept_of_eq3 ‹_›).trans ?_ | split
            | dsimp only
  | cons x l ih => unfold reassign; repeat' first
            | with_reducible rfl
            | simp only [implies_true, kept_ite, kept_snd_ite, ite_self, kept_fold0, kept_mk0, foldl_kept, foldl_snd_kept, ih, State.modCmd_kept, State.modLine_kept, failCmd_kept, planWrites_kept, putZoneWp_kept, rebaseLines_kept, unplan_kept]
            | with_reducible refine (foldl_kept _ (fun _ _ => ?_) _ _).trans ?_
            | with_reducible refine (foldl_snd_kept _ (fun _ _ => ?_) _ _).trans ?_
            | with_reducible refine (kept_of_eq ‹_›).trans ?_ | with_reducible refine (kept_of_eq3 ‹_›).trans ?_ | split
            | dsimp only
theorem reopen_kept (s : State) (zone nsx : Nat) (l : List HostCmd) :
    (reopen s zone nsx l).kept false = s.kept false := by
  unfold reopen
  repeat' first
    | with_reducible rfl
    | simp only [id_eq, implies_true, kept_ite, kept_snd_ite, ite_self, kept_fold0, kept_mk0, foldl_kept, foldl_snd_kept, enterZoneState_kept, readEntry_kept]
    | with_reducible refine (kept_of_eq ‹_›).trans ?_
    | with_reducible refine (kept_of_eq3 ‹_›).trans ?_
    | split
    | dsimp only
theorem rollback_kept (s : State) (c : HostCmd) :
    (rollback s c).kept false = s.kept false := by
  unfold rollback
  repeat' first
    | with_reducible rfl
    | simp only [id_eq, implies_true, kept_ite, kept_snd_ite, ite_self, kept_fold0, kept_mk0, foldl_kept, foldl_snd_kept, readEntry_kept, reassign_kept, reopen_kept]
    | split
    | dsimp only
theorem settleStopped_kept (s : State) (c : HostCmd) :
    (settleStopped s c).kept false = s.kept false := by
  unfold settleStopped
  repeat' first
    | with_reducible rfl
    | simp only [implies_true, kept_ite, kept_snd_ite, ite_self, kept_fold0, kept_mk0, foldl_kept, foldl_snd_kept, State.modCmd_kept, State.modLine_kept, failCmd_kept, releaseLine_kept, rollback_kept, settleZone_kept]
    | with_reducible refine (foldl_kept _ (fun _ _ => ?_) _ _).trans ?_
    | with_reducible refine (foldl_snd_kept _ (fun _ _ => ?_) _ _).trans ?_ | split | dsimp only
theorem settleAborts_kept (s : State) (n : Nat) : (settleAborts s n).kept false = s.kept false := by
  induction n generalizing s with
  | zero => unfold settleAborts; repeat' first
            | with_reducible rfl | simp only [kept_fold0, kept_mk0, settleStopped_kept]
            | with_reducible refine (kept_of_eq ‹_›).trans ?_ | with_reducible refine (kept_of_eq3 ‹_›).trans ?_ | split
            | dsimp only
  | succ n ih => unfold settleAborts; repeat' first
            | with_reducible rfl | simp only [kept_fold0, kept_mk0, ih, settleStopped_kept]
            | with_reducible refine (kept_of_eq ‹_›).trans ?_ | with_reducible refine (kept_of_eq3 ‹_›).trans ?_ | split
            | dsimp only
theorem stopCmd_kept (s : State) (k : Nat) :
    (stopCmd s k).kept false = s.kept false := by
  unfold stopCmd
  repeat' first
    | with_reducible rfl
    | simp only [kept_fold0, kept_mk0, State.schMap_kept, abortOps_kept, settleAborts_kept, unplan_kept]
    | dsimp only
theorem dropLost_kept (s : State) :
    (dropLost s).kept false = s.kept false := by
  unfold dropLost
  repeat' first
    | with_reducible rfl
    | simp only [id_eq, implies_true, kept_ite, kept_snd_ite, ite_self, kept_fold0, kept_mk0, foldl_kept, foldl_snd_kept, State.modLine_kept, actuatorGone_kept, foldl_kept, unplan_kept]
    | with_reducible refine (foldl_kept _ (fun _ _ => ?_) _ _).trans ?_
    | with_reducible refine (foldl_snd_kept _ (fun _ _ => ?_) _ _).trans ?_
    | split
    | dsimp only
theorem dropAway_kept (s : State) :
    (dropAway s).kept false = s.kept false := by
  unfold dropAway
  repeat' first
    | with_reducible rfl
    | simp only [id_eq, implies_true, kept_ite, kept_snd_ite, ite_self, kept_fold0, kept_mk0, foldl_kept, foldl_snd_kept, actuatorGone_kept, foldl_kept, readEntry_kept, releaseKept_kept, unplan_kept]
    | with_reducible refine (foldl_kept _ (fun _ _ => ?_) _ _).trans ?_
    | with_reducible refine (foldl_snd_kept _ (fun _ _ => ?_) _ _).trans ?_
    | split
    | dsimp only
theorem retrySlack_kept (s : State) (x : Nat × Nat × Nat) :
    (retrySlack s x).kept false = s.kept false := by
  unfold retrySlack
  repeat' first
    | with_reducible rfl
    | simp only [id_eq, implies_true, kept_ite, kept_snd_ite, ite_self, kept_fold0, kept_mk0, foldl_kept, foldl_snd_kept, State.modLine_kept, State.schMap_kept, State.wait_kept, asyncBoth_kept, enterZoneState_kept, lossOutcome_kept, planWrites_kept, putStrand_kept, readEntry_kept, slackOut_kept, zoneChanged_kept]
    | with_reducible refine (kept_of_eq ‹_›).trans ?_
    | with_reducible refine (kept_of_eq3 ‹_›).trans ?_
    | split
    | dsimp only
theorem retrySlacks_kept (s : State) :
    (retrySlacks s).kept false = s.kept false := by
  unfold retrySlacks
  repeat' first
    | with_reducible rfl
    | simp only [id_eq, implies_true, kept_ite, kept_snd_ite, ite_self, kept_fold0, kept_mk0, foldl_kept, foldl_snd_kept, State.schMap_kept, retrySlack_kept, slackOut_kept]
    | with_reducible refine (foldl_kept _ (fun _ _ => ?_) _ _).trans ?_
    | with_reducible refine (foldl_snd_kept _ (fun _ _ => ?_) _ _).trans ?_
    | split
    | dsimp only
theorem donate_kept (s : State) (nsx zone : Nat) :
    (donate s nsx zone).kept false = s.kept false := by
  unfold donate
  repeat' first
    | with_reducible rfl
    | simp only [id_eq, implies_true, kept_ite, kept_snd_ite, ite_self, kept_fold0, kept_mk0, foldl_kept, foldl_snd_kept, State.schMap_kept, foldl_kept, offlineZone_kept, putBand_kept, readEntry_kept, weaveMark_kept]
    | with_reducible refine (foldl_kept _ (fun _ _ => ?_) _ _).trans ?_
    | with_reducible refine (foldl_snd_kept _ (fun _ _ => ?_) _ _).trans ?_
    | split
    | dsimp only
theorem beginRebuild_some {s : State} {nsx zone : Nat} {e : ZoneEntry} {w : Nat} {t : State}
    (h : beginRebuild s nsx zone e w = some t) : t.kept false = s.kept false := by
  unfold beginRebuild at h
  simp only [Option.map_eq_some_iff] at h
  obtain ⟨_, _, h⟩ := h
  subst h
  repeat' first
    | with_reducible rfl
    | simp only [kept_ite, ite_self, kept_fold0, kept_mk0, State.schMap_kept, spareWarning_kept, putBand_kept, donate_kept]
    | split
    | dsimp only
theorem nextRebuild_kept (s : State) : (nextRebuild s).kept false = s.kept false := by
  unfold nextRebuild
  extract_lets l
  cases h : l.findSome? fun x => (toRebuild s x.2.2).findSome? fun w => beginRebuild s x.1 x.2.1 x.2.2 w with
  | none => rfl
  | some t =>
    obtain ⟨_, _, h⟩ := List.exists_of_findSome?_eq_some h
    obtain ⟨_, _, h⟩ := List.exists_of_findSome?_eq_some h
    exact beginRebuild_some h
theorem copySector_kept (b : Rebuild) (e : ZoneEntry) (s : State) (x : Nat × Nat) :
    (copySector b e s x).kept false = s.kept false := by
  unfold copySector
  repeat' first
    | with_reducible rfl
    | simp only [id_eq, implies_true, kept_ite, kept_snd_ite, ite_self, kept_fold0, kept_mk0, foldl_kept, foldl_snd_kept, addOps_kept, newAge_kept, stepEight_kept, translateBand_kept]
    | split
    | dsimp only
theorem rebuildRow_kept (s : State) (b : Rebuild) (e : ZoneEntry) :
    (rebuildRow s b e).kept false = s.kept false := by
  unfold rebuildRow
  repeat' first
    | with_reducible rfl
    | simp only [id_eq, implies_true, kept_ite, kept_snd_ite, ite_self, kept_fold0, kept_mk0, foldl_kept, foldl_snd_kept, State.schMap_kept, allocLines_kept, copySector_kept, foldl_kept, planned_kept, stepEight_kept]
    | with_reducible refine (foldl_kept _ (fun _ _ => ?_) _ _).trans ?_
    | with_reducible refine (foldl_snd_kept _ (fun _ _ => ?_) _ _).trans ?_
    | with_reducible refine (kept_of_eq ‹_›).trans ?_
    | with_reducible refine (kept_of_eq3 ‹_›).trans ?_
    | split
    | dsimp only
theorem rebuildRowDone_kept (s : State) (b : Rebuild) :
    (rebuildRowDone s b).kept false = s.kept false := by
  unfold rebuildRowDone
  repeat' first
    | with_reducible rfl
    | simp only [id_eq, implies_true, kept_ite, kept_snd_ite, ite_self, kept_fold0, kept_mk0, foldl_kept, foldl_snd_kept, State.schMap_kept, freeLine_kept, planned_kept]
    | with_reducible refine (foldl_kept _ (fun _ _ => ?_) _ _).trans ?_
    | with_reducible refine (foldl_snd_kept _ (fun _ _ => ?_) _ _).trans ?_
    | split
    | dsimp only
theorem writeMissed_kept (s : State) (b : Rebuild) (kind : Nat) :
    (writeMissed s b kind).kept false = s.kept false := by
  unfold writeMissed
  repeat' first
    | with_reducible rfl
    | simp only [id_eq, implies_true, kept_ite, kept_snd_ite, ite_self, kept_fold0, kept_mk0, foldl_kept, foldl_snd_kept, State.modLine_kept, planWrites_kept]
    | with_reducible refine (foldl_kept _ (fun _ _ => ?_) _ _).trans ?_
    | with_reducible refine (foldl_snd_kept _ (fun _ _ => ?_) _ _).trans ?_
    | with_reducible refine (kept_of_eq ‹_›).trans ?_
    | with_reducible refine (kept_of_eq3 ‹_›).trans ?_
    | split
    | dsimp only
theorem switchStrand_kept (s : State) (b : Rebuild) :
    (switchStrand s b).kept false = s.kept false := by
  unfold switchStrand
  repeat' first
    | with_reducible rfl
    | simp only [id_eq, implies_true, kept_ite, kept_snd_ite, ite_self, kept_fold0, kept_mk0, foldl_kept, foldl_snd_kept, State.put_kept, State.schMap_kept, putBand_kept, putStrand_kept, readEntry_kept, replanZone_kept, weaveMark_kept, writeMissed_kept]
    | split
    | dsimp only
theorem rebuildHold_kept (s : State) (b : Rebuild) :
    (rebuildHold s b).kept lv = s.kept lv := by
  unfold rebuildHold
  repeat' first
    | with_reducible rfl
    | simp only [id_eq, implies_true, kept_ite, kept_snd_ite, ite_self, kept_fold, kept_mk, foldl_kept, foldl_snd_kept, State.put_kept, State.schMap_kept]
    | split
    | dsimp only
theorem rebuildStep_kept (s : State) :
    (rebuildStep s).kept false = s.kept false := by
  unfold rebuildStep
  repeat' first
    | with_reducible rfl
    | simp only [id_eq, implies_true, kept_ite, kept_snd_ite, ite_self, kept_fold0, kept_mk0, foldl_kept, foldl_snd_kept, State.schMap_kept, nextRebuild_kept, planWrites_kept, readEntry_kept, rebuildHold_kept, rebuildRowDone_kept, rebuildRow_kept, stopRebuild_kept, switchStrand_kept]
    | with_reducible refine (kept_of_eq ‹_›).trans ?_
    | with_reducible refine (kept_of_eq3 ‹_›).trans ?_
    | split
    | dsimp only
theorem zoneRetired_kept (s : State) (x : Nat × Nat × ZoneEntry) :
    (zoneRetired s x).kept false = s.kept false := by
  unfold zoneRetired
  repeat' first
    | with_reducible rfl
    | simp only [id_eq, implies_true, kept_ite, kept_snd_ite, ite_self, kept_fold0, kept_mk0, foldl_kept, foldl_snd_kept, lossOutcome_kept, offlineZone_kept, putStrand_kept, readBand_kept]
    | with_reducible refine (foldl_kept _ (fun _ _ => ?_) _ _).trans ?_
    | with_reducible refine (foldl_snd_kept _ (fun _ _ => ?_) _ _).trans ?_
    | split
    | dsimp only
theorem zoneSetOffline_kept (s : State) (x : Nat × Nat × ZoneEntry) :
    (zoneSetOffline s x).kept false = s.kept false := by
  unfold zoneSetOffline
  repeat' first
    | with_reducible rfl
    | simp only [id_eq, implies_true, kept_ite, kept_snd_ite, ite_self, kept_fold0, kept_mk0, foldl_kept, foldl_snd_kept, offlineZone_kept]
    | split
    | dsimp only
theorem firmwareLosses_kept (s : State) :
    (firmwareLosses s).kept false = s.kept false := by
  unfold firmwareLosses
  repeat' first
    | with_reducible rfl
    | simp only [id_eq, implies_true, kept_ite, kept_snd_ite, ite_self, kept_fold0, kept_mk0, foldl_kept, foldl_snd_kept, foldl_kept, readEntry_kept, zoneRetired_kept, zoneSetOffline_kept]
    | with_reducible refine (foldl_kept _ (fun _ _ => ?_) _ _).trans ?_
    | with_reducible refine (foldl_snd_kept _ (fun _ _ => ?_) _ _).trans ?_
    | split
    | dsimp only
theorem testRead_kept (s : State) (psa : Nat) :
    (testRead s psa).kept false = s.kept false := by
  unfold testRead
  repeat' first
    | with_reducible rfl
    | simp only [id_eq, implies_true, kept_ite, kept_snd_ite, ite_self, kept_fold0, kept_mk0, foldl_kept, foldl_snd_kept, addOps_kept, allocLines_kept, newAge_kept, testMap_kept]
    | with_reducible refine (kept_of_eq ‹_›).trans ?_
    | with_reducible refine (kept_of_eq3 ‹_›).trans ?_
    | split
    | dsimp only
theorem testStep_kept (s : State) :
    (testStep s).kept false = s.kept false := by
  unfold testStep
  repeat' first
    | with_reducible rfl
    | simp only [id_eq, implies_true, kept_ite, kept_snd_ite, ite_self, kept_fold0, kept_mk0, foldl_kept, foldl_snd_kept, freeLine_kept, selfTestEnds_kept, testMap_kept, testRead_kept]
    | with_reducible refine (kept_of_eq ‹_›).trans ?_
    | with_reducible refine (kept_of_eq3 ‹_›).trans ?_
    | split
    | dsimp only
theorem wakeHead_kept (s : State) (a : Nat) :
    (wakeHead s a).kept lv = s.kept lv := by
  unfold wakeHead
  repeat' first
    | with_reducible rfl
    | simp only [id_eq, implies_true, kept_ite, kept_snd_ite, ite_self, kept_fold, kept_mk, foldl_kept, foldl_snd_kept, State.put_kept, loadGoes_kept]
    | split
    | dsimp only
theorem powerStep_kept (s : State) :
    (powerStep s).kept lv = s.kept lv := by
  unfold powerStep
  repeat' first
    | with_reducible rfl
    | simp only [id_eq, implies_true, kept_ite, kept_snd_ite, ite_self, kept_fold, kept_mk, foldl_kept, foldl_snd_kept, beginUnload_kept, foldl_kept, speedWrite_kept, wakeHead_kept]
    | with_reducible refine (foldl_kept _ (fun _ _ => ?_) _ _).trans ?_
    | with_reducible refine (foldl_snd_kept _ (fun _ _ => ?_) _ _).trans ?_
    | split
    | dsimp only
theorem followMoves_kept (s : State) :
    (followMoves s).kept false = s.kept false := by
  unfold followMoves
  repeat' first
    | with_reducible rfl
    | simp only [id_eq, implies_true, kept_ite, kept_snd_ite, ite_self, kept_fold0, kept_mk0, foldl_kept, foldl_snd_kept, foldl_kept, replanZone_kept]
    | with_reducible refine (foldl_kept _ (fun _ _ => ?_) _ _).trans ?_
    | with_reducible refine (foldl_snd_kept _ (fun _ _ => ?_) _ _).trans ?_
    | split
    | dsimp only
theorem feedHeld_kept (s : State) (l : List HostCmd) : (feedHeld s l).kept false = s.kept false := by
  induction l generalizing s with
  | nil => rfl
  | cons c l ih =>
    unfold feedHeld
    repeat' first
      | with_reducible rfl
      | simp only [kept_ite, ite_self, ih, feedCmd_kept]
      | split
theorem schSettle_kept (s : State) (zones : List Nat) :
    (schSettle s zones).kept false = s.kept false := by
  unfold schSettle
  repeat' first
    | with_reducible rfl
    | simp only [id_eq, implies_true, kept_ite, kept_snd_ite, ite_self, kept_fold0, kept_mk0, foldl_kept, foldl_snd_kept, admitWaiting_kept, dropAway_kept, dropLost_kept, feedHeld_kept, fillLanes_kept, firmwareLosses_kept, followMoves_kept, rebuildStep_kept, retryRecons_kept, retrySlacks_kept, settleAborts_kept, settleClosing_kept, settleCmds_kept, settleZone_kept, testStep_kept, weaveTell_kept]
    | with_reducible refine (foldl_kept _ (fun _ _ => ?_) _ _).trans ?_
    | with_reducible refine (foldl_snd_kept _ (fun _ _ => ?_) _ _).trans ?_
    | split
    | dsimp only
theorem opReturned_kept (s : State) (r : TagRec) (o : PlanOp) :
    (opReturned s r o).kept false = s.kept false := by
  unfold opReturned
  repeat' first
    | with_reducible rfl
    | simp only [kept_ite, kept_snd_ite, ite_self, State.bump_kept, leaveTrack_kept, readReturned_kept, writeReturned_kept]
    | split | dsimp only
theorem combinedResult_kept (s : State) (d : Nat) (x : SectorResult) :
    (combinedResult s d x).kept false = s.kept false := by
  unfold combinedResult
  repeat' first
    | with_reducible rfl
    | simp only [kept_ite, kept_snd_ite, ite_self, kept_fold0, kept_mk0, State.schMap_kept, State.setLdp_kept, landLine_kept, memWrite_kept, releaseKept_kept, stepEight_kept]
    | with_reducible refine (kept_of_eq ‹_›).trans ?_ | with_reducible refine (kept_of_eq3 ‹_›).trans ?_ | split
    | dsimp only
theorem combinedResults_kept (s : State) :
    (combinedResults s).kept false = s.kept false := by
  unfold combinedResults
  repeat' first
    | with_reducible rfl
    | simp only [id_eq, implies_true, kept_ite, kept_snd_ite, ite_self, kept_fold0, kept_mk0, foldl_kept, foldl_snd_kept, combinedResult_kept, dropStale_kept, foldl_kept]
    | with_reducible refine (foldl_kept _ (fun _ _ => ?_) _ _).trans ?_
    | with_reducible refine (foldl_snd_kept _ (fun _ _ => ?_) _ _).trans ?_
    | split
    | dsimp only
theorem execTagCompletionReceive_kept (s : State) :
    ∀ t, execTagCompletionReceive s = .next t → t.kept false = s.kept false := by
  intro t h
  unfold execTagCompletionReceive at h
  injection h with h
  subst h
  repeat' first
    | with_reducible rfl
    | simp only [kept_ite, kept_snd_ite, ite_self, kept_fold0, kept_mk0, State.bump_kept, State.schMap_kept, combinedResults_kept, lqRelease_kept, opReturned_kept, raise_kept, schSettle_kept]
    | with_reducible refine (kept_of_eq ‹_›).trans ?_ | with_reducible refine (kept_of_eq3 ‹_›).trans ?_ | split
    | dsimp only
theorem execOperationAged_kept (age : Nat) (s : State) :
    ∀ t, execOperationAged age s = .next t → t.kept false = s.kept false := by
  intro t h
  unfold execOperationAged at h
  injection h with h
  subst h
  repeat' first
    | with_reducible rfl
    | simp only [kept_ite, kept_snd_ite, ite_self, kept_fold0, kept_mk0, State.bump_kept, State.schMap_kept, fillLanes_kept, raise_kept]
    | with_reducible refine (kept_of_eq ‹_›).trans ?_ | with_reducible refine (kept_of_eq3 ‹_›).trans ?_ | split
    | dsimp only
theorem execWriteAdmitResume_kept (s : State) :
    ∀ t, execWriteAdmitResume s = .next t → t.kept false = s.kept false := by
  intro t h
  unfold execWriteAdmitResume at h
  injection h with h
  subst h
  repeat' first
    | with_reducible rfl | simp only [admitWaiting_kept, fillLanes_kept] | dsimp only
theorem reconDone_kept (s : State) (r : Recon) (st : Nat) :
    (reconDone s r st).kept false = s.kept false := by
  unfold reconDone
  repeat' first
    | with_reducible rfl
    | simp only [id_eq, implies_true, kept_ite, kept_snd_ite, ite_self, kept_fold0, kept_mk0, foldl_kept, foldl_snd_kept, State.modLine_kept, State.schMap_kept, dropSources_kept, freeLine_kept, rebuildReady_kept, rebuildSpoiled_kept, unrecovered_kept]
    | with_reducible refine (kept_of_eq ‹_›).trans ?_
    | with_reducible refine (kept_of_eq3 ‹_›).trans ?_
    | split
    | dsimp only
theorem portDone_kept (s : State) :
    (portDone s).kept false = s.kept false := by
  unfold portDone
  repeat' first
    | with_reducible rfl
    | simp only [id_eq, implies_true, kept_ite, kept_snd_ite, ite_self, kept_fold0, kept_mk0, foldl_kept, foldl_snd_kept, State.schMap_kept, reconDone_kept, schSettle_kept, wevCount_kept, wevIdle_kept, wevOff_kept]
    | with_reducible refine (kept_of_eq ‹_›).trans ?_
    | with_reducible refine (kept_of_eq3 ‹_›).trans ?_
    | split
    | dsimp only
theorem portStart_kept (s : State) (e : List Nat) (r : Recon) :
    (portStart s e r).kept false = s.kept false := by
  unfold portStart
  repeat' first
    | with_reducible rfl
    | simp only [id_eq, implies_true, kept_ite, kept_snd_ite, ite_self, kept_fold0, kept_mk0, foldl_kept, foldl_snd_kept, State.put_kept, State.schMap_kept, wevRun_kept]
    | split
    | dsimp only
theorem execWevRecon_kept (s : State) :
    ∀ t, execWevRecon s = .next t → t.kept false = s.kept false := by
  intro t h
  unfold execWevRecon at h
  injection h with h
  subst h
  repeat' first
    | with_reducible rfl
    | simp only [id_eq, implies_true, kept_ite, kept_snd_ite, ite_self, kept_fold0, kept_mk0, foldl_kept, foldl_snd_kept, portDone_kept, portStart_kept, wevServe_kept]
    | with_reducible refine (kept_of_eq ‹_›).trans ?_
    | with_reducible refine (kept_of_eq3 ‹_›).trans ?_
    | split
    | dsimp only
theorem oosWrite_kept (q : Req) (d : Nat) (w : Word) (s : State) :
    (oosWrite q d w s).kept false = s.kept false := by
  unfold oosWrite
  repeat' first
    | with_reducible rfl
    | simp only [id_eq, implies_true, kept_ite, kept_snd_ite, ite_self, kept_fold0, kept_mk0, foldl_kept, foldl_snd_kept, schSettle_kept, seqCtlWrite_kept]
    | split
    | dsimp only
theorem execActuatorOosSet_kept (q : Req) (seq : Fin 2) (w : BitVec 32) (s : State) :
    ∀ t, execActuatorOosSet q seq w s = .next t → t.kept false = s.kept false := by
  intro t h
  unfold execActuatorOosSet at h
  injection h with h
  subst h
  repeat' first
    | with_reducible rfl
    | simp only [id_eq, implies_true, kept_ite, kept_snd_ite, ite_self, kept_fold0, kept_mk0, foldl_kept, foldl_snd_kept, guarded_kept, oosWrite_kept]
    | with_reducible refine (guarded_ho (fun _ => ?_)).trans ?_
    | split
    | dsimp only
theorem execActuatorOosClear_kept (q : Req) (seq : Fin 2) (w : BitVec 32) (s : State) :
    ∀ t, execActuatorOosClear q seq w s = .next t → t.kept false = s.kept false := by
  intro t h
  unfold execActuatorOosClear at h
  injection h with h
  subst h
  repeat' first
    | with_reducible rfl
    | simp only [id_eq, implies_true, kept_ite, kept_snd_ite, ite_self, kept_fold0, kept_mk0, foldl_kept, foldl_snd_kept, guarded_kept, oosWrite_kept]
    | with_reducible refine (guarded_ho (fun _ => ?_)).trans ?_
    | split
    | dsimp only
end Sys2Proof.Machine
end

