-- ==== Sys2Proof/Laws/KeptController.lean ====
section
/-! SUPPORT. Frame laws of Machine/Controller.lean: each operation and command there leaves the fuses and the queue
as they are, and the stores too where the law says so of every level. -/

namespace Sys2Proof.Machine

open Sys2Proof

set_option maxRecDepth 4000
set_option linter.all false

variable {lv : Bool}

theorem clearFlags_kept (s : State) (c : HostCmd) :
    (clearFlags s c).kept lv = s.kept lv := by
  unfold clearFlags
  repeat' first
    | with_reducible rfl
    | simp only [implies_true, kept_fold, kept_mk, foldl_kept, foldl_snd_kept, State.modNs_kept]
    | with_reducible refine (foldl_kept _ (fun _ _ => ?_) _ _).trans ?_
    | with_reducible refine (foldl_snd_kept _ (fun _ _ => ?_) _ _).trans ?_
    | with_reducible refine (kept_of_eq ‹_›).trans ?_ | with_reducible refine (kept_of_eq3 ‹_›).trans ?_ | split
    | dsimp only
theorem orphanCmd_kept (s : State) (k : Nat) (holds : Bool := false) :
    (orphanCmd s k holds).kept false = s.kept false := by
  unfold orphanCmd
  repeat' first
    | with_reducible rfl
    | simp only [id_eq, implies_true, kept_ite, kept_snd_ite, ite_self, kept_fold0, kept_mk0, foldl_kept, foldl_snd_kept, State.modCmd_kept, State.modLine_kept, State.schMap_kept, clearFlags_kept, newAge_kept, stopCmd_kept]
    | with_reducible refine (foldl_kept _ (fun _ _ => ?_) _ _).trans ?_
    | with_reducible refine (foldl_snd_kept _ (fun _ _ => ?_) _ _).trans ?_
    | with_reducible refine (kept_of_eq ‹_›).trans ?_
    | with_reducible refine (kept_of_eq3 ‹_›).trans ?_
    | split
    | dsimp only
theorem killCmd_kept (s : State) (k : Nat) (st : HostStatus) :
    (killCmd s k st).kept false = s.kept false := by
  unfold killCmd
  repeat' first
    | with_reducible rfl | simp only [endCmd_kept, forgetAdmin_kept, orphanCmd_kept] | dsimp only
theorem ownerLeaves_kept (s : State) (n nsx : Nat) :
    (ownerLeaves s n nsx).kept lv = s.kept lv := by
  unfold ownerLeaves
  repeat' first
    | with_reducible rfl
    | simp only [kept_ite, kept_snd_ite, ite_self, kept_fold, kept_mk, State.modNs_kept, endCmd_kept]
    | with_reducible refine (kept_of_eq ‹_›).trans ?_ | with_reducible refine (kept_of_eq3 ‹_›).trans ?_ | split
    | dsimp only
theorem allOwnersLeave_kept (s : State) (n : Nat) :
    (allOwnersLeave s n).kept lv = s.kept lv := by
  unfold allOwnersLeave
  repeat' first
    | with_reducible rfl | simp only [implies_true, foldl_kept, foldl_snd_kept, ownerLeaves_kept]
    | with_reducible refine (foldl_kept _ (fun _ _ => ?_) _ _).trans ?_
    | with_reducible refine (foldl_snd_kept _ (fun _ _ => ?_) _ _).trans ?_ | dsimp only
theorem controllerDisable_kept (s : State) (n : Nat) :
    (controllerDisable s n).kept false = s.kept false := by
  unfold controllerDisable
  repeat' first
    | with_reducible rfl
    | simp only [id_eq, implies_true, kept_ite, kept_snd_ite, ite_self, kept_fold0, kept_mk0, foldl_kept, foldl_snd_kept, State.put_kept, State.setCtl_kept, State.setSlot_kept, allOwnersLeave_kept, orphanCmd_kept, raiseIf_kept, schSettle_kept]
    | with_reducible refine (foldl_kept _ (fun _ _ => ?_) _ _).trans ?_
    | with_reducible refine (foldl_snd_kept _ (fun _ _ => ?_) _ _).trans ?_
    | split
    | dsimp only
theorem controllerLost_kept (s : State) (n : Nat) :
    (controllerLost s n).kept false = s.kept false := by
  unfold controllerLost
  repeat' first
    | with_reducible rfl
    | simp only [id_eq, implies_true, kept_ite, kept_snd_ite, ite_self, kept_fold0, kept_mk0, foldl_kept, foldl_snd_kept, State.setCmds_kept, controllerDisable_kept, settleClosing_kept]
    | split
    | dsimp only
theorem hqFault_kept (s : State) (n : Nat) :
    (hqFault s n).kept false = s.kept false := by
  unfold hqFault
  repeat' first
    | with_reducible rfl
    | simp only [implies_true, foldl_kept, foldl_snd_kept, State.put_kept, orphanCmd_kept, schSettle_kept, setPageState_kept]
    | with_reducible refine (foldl_kept _ (fun _ _ => ?_) _ _).trans ?_
    | with_reducible refine (foldl_snd_kept _ (fun _ _ => ?_) _ _).trans ?_ | dsimp only
theorem execHqFault_kept (ctrl : Fin 2) (s : State) :
    ∀ t, execHqFault ctrl s = .next t → t.kept false = s.kept false := by
  intro t h
  unfold execHqFault at h
  injection h with h
  subst h
  repeat' first
    | with_reducible rfl | simp only [kept_ite, kept_snd_ite, ite_self, hqFault_kept] | split | dsimp only
theorem fetchNamed_kept (s : State) (n y : Nat) (entries : List (List Byte)) :
    (fetchNamed s n y entries).kept false = s.kept false := by
  unfold fetchNamed
  repeat' first
    | with_reducible rfl | simp only [kept_ite, kept_snd_ite, ite_self, kept_fold0, kept_mk0, fetchRunOf_kept]
    | with_reducible refine (kept_of_eq ‹_›).trans ?_ | with_reducible refine (kept_of_eq3 ‹_›).trans ?_ | split
    | dsimp only
theorem abortDone_kept (s : State) (n k : Nat) :
    (abortDone s n k).kept lv = s.kept lv := by
  unfold abortDone
  repeat' first
    | with_reducible rfl | simp only [State.bump_kept, endCmd_kept] | dsimp only
theorem abortMissed_kept (s : State) (n k : Nat) :
    (abortMissed s n k).kept lv = s.kept lv := by
  unfold abortMissed
  repeat' first
    | with_reducible rfl | simp only [State.bump_kept, endCmd_kept] | dsimp only
theorem abortWaits_kept (s : State) (n k j : Nat) :
    (abortWaits s n k j).kept lv = s.kept lv := by
  unfold abortWaits
  repeat' first
    | with_reducible rfl | simp only [kept_fold, kept_mk, State.bump_kept, State.setCtl_kept] | dsimp only
theorem decideAbort_kept (s : State) (n k j : Nat) :
    (decideAbort s n k j).kept false = s.kept false := by
  unfold decideAbort
  repeat' first
    | with_reducible rfl
    | simp only [kept_ite, kept_snd_ite, ite_self, kept_fold0, kept_mk0, State.setSlot_kept, abortDone_kept, abortMissed_kept, abortWaits_kept, killCmd_kept, setSlot_kept, stopCmd_kept]
    | with_reducible refine (kept_of_eq ‹_›).trans ?_ | with_reducible refine (kept_of_eq3 ‹_›).trans ?_ | split
    | dsimp only
theorem execAbort_kept (slot : Fin 4096) (sqid cid : BitVec 16) (entries : List (List Byte)) (s : State) :
    ∀ t, execAbort slot sqid cid entries s = .next t → t.kept false = s.kept false := by
  intro t h
  unfold execAbort at h
  injection h with h
  subst h
  repeat' first
    | with_reducible rfl
    | simp only [implies_true, kept_ite, kept_snd_ite, ite_self, kept_fold0, kept_mk0, State.bump_kept, abortMissed_kept, decideAbort_kept, endCmd_kept, fetchNamed_kept, onAdmin_kept, raise_kept, schSettle_kept]
    | with_reducible refine (onAdmin_ho (fun _ _ => ?_)).trans ?_
    | with_reducible refine (kept_of_eq ‹_›).trans ?_ | with_reducible refine (kept_of_eq3 ‹_›).trans ?_ | split
    | dsimp only
end Sys2Proof.Machine
end

