-- ==== Sys2Proof/Laws/KeptZones.lean ====
section
/-! SUPPORT. Frame laws of Machine/Zones.lean: each operation and command there leaves the fuses and the queue
as they are, and the stores too where the law says so of every level. -/

namespace Sys2Proof.Machine

open Sys2Proof

set_option maxRecDepth 4000
set_option linter.all false

variable {lv : Bool}

theorem onNs_kept (s : State) (k : Nat) (nsid : Nat) (f : State → Nat → Ns → State) (hf : ∀ (a0 : State) (a1 : Nat) (a2 : Ns), (f a0 a1 a2).kept lv = a0.kept lv) :
    (onNs s k nsid f).kept lv = s.kept lv := by
  unfold onNs
  repeat' first
    | with_reducible rfl | simp only [kept_ite, kept_snd_ite, ite_self, kept_fold, kept_mk, hf, endCmd_kept]
    | with_reducible refine (kept_of_eq ‹_›).trans ?_ | with_reducible refine (kept_of_eq3 ‹_›).trans ?_ | split
    | dsimp only
theorem onNs_ho {s : State} {k : Nat} {nsid : Nat} {f : State → Nat → Ns → State} (hf : ∀ (a0 : State) (a1 : Nat) (a2 : Ns), (f a0 a1 a2).kept lv = a0.kept lv) :
    (onNs s k nsid f).kept lv = s.kept lv := onNs_kept s k nsid f hf
theorem enterOrder_kept (s : State) (c : HostCmd) :
    (enterOrder s c).kept lv = s.kept lv := by
  unfold enterOrder
  repeat' first
    | with_reducible rfl | simp only [State.setCmds_kept] | dsimp only
theorem settleHost_kept (s : State) (zone : Nat) :
    (settleHost s zone).kept false = s.kept false := by
  unfold settleHost
  repeat' first
    | with_reducible rfl | simp only [schSettle_kept] | dsimp only
theorem readParts_kept (x : Nat) (n : Ns) (k : Nat) (bs : List (Nat × Nat)) (ls : List Nat) (s : State) : (readParts x n k bs ls s).2.kept false = s.kept false := by
  induction bs generalizing ls s with
  | nil => unfold readParts; repeat' first
            | with_reducible rfl
            | simp only [kept_ite, kept_snd_ite, ite_self, kept_fold0, kept_mk0, State.modLine_kept, memRead_kept]
            | with_reducible refine (kept_of_eq ‹_›).trans ?_ | with_reducible refine (kept_of_eq3 ‹_›).trans ?_ | split
            | dsimp only
  | cons x l ih => unfold readParts; repeat' first
            | with_reducible rfl
            | simp only [kept_ite, kept_snd_ite, ite_self, kept_fold0, kept_mk0, ih, State.modLine_kept, memRead_kept]
            | with_reducible refine (kept_of_eq ‹_›).trans ?_ | with_reducible refine (kept_of_eq3 ‹_›).trans ?_ | split
            | dsimp only
theorem readAhead_kept (s : State) (nsx zone kind first count : Nat) :
    (readAhead s nsx zone kind first count).kept false = s.kept false := by
  unfold readAhead
  repeat' first
    | with_reducible rfl
    | simp only [kept_ite, kept_snd_ite, ite_self, kept_fold0, kept_mk0, State.schMap_kept, allocLines_kept, planReads_kept, readEntry_kept]
    | with_reducible refine (kept_of_eq ‹_›).trans ?_ | with_reducible refine (kept_of_eq3 ‹_›).trans ?_ | split
    | dsimp only
theorem readCmd_kept (s : State) (k : Nat) (nsx : Nat) (n : Ns) (op : HostOp) (lba count : Nat) (pi : PiIn) :
    (readCmd s k nsx n op lba count pi).kept false = s.kept false := by
  unfold readCmd
  repeat' first
    | with_reducible rfl
    | simp only [id_eq, implies_true, kept_ite, kept_snd_ite, ite_self, kept_fold0, kept_mk0, foldl_kept, foldl_snd_kept, allocLines_kept, endCmd_kept, enterOrder_kept, planReads_kept, readAhead_kept, readParts_kept, settleHost_kept, startSlot_kept, stepEight_kept]
    | with_reducible refine (foldl_kept _ (fun _ _ => ?_) _ _).trans ?_
    | with_reducible refine (foldl_snd_kept _ (fun _ _ => ?_) _ _).trans ?_
    | with_reducible refine (kept_of_eq ‹_›).trans ?_
    | with_reducible refine (kept_of_eq3 ‹_›).trans ?_
    | split
    | dsimp only
theorem execNvmRead_kept (slot : Fin 4096) (nsid : BitVec 32) (slba : BitVec 64) (nlb : BitVec 16) (pi : PiIn) (s : State) :
    ∀ t, execNvmRead slot nsid slba nlb pi s = .next t → t.kept false = s.kept false := by
  intro t h
  unfold execNvmRead at h
  injection h with h
  subst h
  repeat' first
    | with_reducible rfl
    | simp only [id_eq, implies_true, kept_ite, kept_snd_ite, ite_self, kept_fold0, kept_mk0, foldl_kept, foldl_snd_kept, State.reply_kept, onNs_kept, readCmd_kept]
    | with_reducible refine (onNs_ho (fun _ _ _ => ?_)).trans ?_
    | split
    | dsimp only
theorem execNvmVerify_kept (slot : Fin 4096) (nsid : BitVec 32) (slba : BitVec 64) (nlb : BitVec 16) (pi : PiIn) (s : State) :
    ∀ t, execNvmVerify slot nsid slba nlb pi s = .next t → t.kept false = s.kept false := by
  intro t h
  unfold execNvmVerify at h
  injection h with h
  subst h
  repeat' first
    | with_reducible rfl
    | simp only [id_eq, implies_true, kept_ite, kept_snd_ite, ite_self, kept_fold0, kept_mk0, foldl_kept, foldl_snd_kept, State.reply_kept, onNs_kept, readCmd_kept]
    | with_reducible refine (onNs_ho (fun _ _ _ => ?_)).trans ?_
    | split
    | dsimp only
theorem takeWrite_kept (s : State) (k nsx : Nat) (op : HostOp) (zone first lba : Nat) (fua : Bool) (pi : PiIn) (blocks : List (List Nat)) (filled : Option Nat) :
    (takeWrite s k nsx op zone first lba fua pi blocks filled).kept false = s.kept false := by
  unfold takeWrite
  repeat' first
    | with_reducible rfl
    | simp only [id_eq, implies_true, kept_ite, kept_snd_ite, ite_self, kept_fold0, kept_mk0, foldl_kept, foldl_snd_kept, enterOrder_kept, raiseIf_kept, settleHost_kept, startSlot_kept]
    | split
    | dsimp only
theorem replaceLeft_kept (s : State) (nsx zone : Nat) :
    (replaceLeft s nsx zone).2.kept false = s.kept false := by
  unfold replaceLeft
  repeat' first
    | with_reducible rfl
    | simp only [id_eq, implies_true, kept_ite, kept_snd_ite, ite_self, kept_fold0, kept_mk0, foldl_kept, foldl_snd_kept, readEntry_kept, replaceStrand_kept, weaveLost_kept]
    | with_reducible refine (foldl_kept _ (fun _ _ => ?_) _ _).trans ?_
    | with_reducible refine (foldl_snd_kept _ (fun _ _ => ?_) _ _).trans ?_
    | with_reducible refine (kept_of_eq ‹_›).trans ?_
    | with_reducible refine (kept_of_eq3 ‹_›).trans ?_
    | split
    | dsimp only
theorem openForWrite_some {s : State} {n z st : Nat} {t : State} (h : openForWrite s n z st = .ok t) : t.kept false = s.kept false := by
  unfold openForWrite at h
  (try dsimp only at h)
  repeat' (first | contradiction | (simp only [Option.map_eq_some_iff] at h; obtain ⟨_, _, h⟩ := h) | split at h)
  all_goals (try cases h)
  all_goals (repeat' first
            | with_reducible rfl
            | simp only [kept_ite, kept_snd_ite, ite_self, kept_fold0, kept_mk0, enterZoneState_kept]
            | with_reducible refine (kept_of_eq ‹_›).trans ?_ | with_reducible refine (kept_of_eq3 ‹_›).trans ?_ | split
            | dsimp only)
theorem writeZone_kept (s : State) (k nsx : Nat) (n : Ns) (op : HostOp) (zone first lba : Nat) (fua : Bool) (pi : PiIn) (blocks : List (List Nat)) :
    (writeZone s k nsx n op zone first lba fua pi blocks).kept false = s.kept false := by
  unfold writeZone
  repeat' first
    | with_reducible rfl
    | simp only [id_eq, implies_true, kept_ite, kept_snd_ite, ite_self, kept_fold0, kept_mk0, foldl_kept, foldl_snd_kept, endCmd_kept, enterZoneState_kept, putZoneWp_kept, readEntry_kept, replaceLeft_kept, takeWrite_kept]
    | with_reducible refine (openForWrite_some ‹_›).trans ?_
    | with_reducible refine (kept_of_eq ‹_›).trans ?_
    | with_reducible refine (kept_of_eq3 ‹_›).trans ?_
    | split
    | dsimp only
theorem writeCmd_kept (s : State) (k nsx : Nat) (n : Ns) (op : HostOp) (lba : Nat) (fua : Bool) (pi : PiIn) (blocks : List (List Nat)) (bad : Option HostStatus) :
    (writeCmd s k nsx n op lba fua pi blocks bad).kept false = s.kept false := by
  unfold writeCmd
  repeat' first
    | with_reducible rfl
    | simp only [id_eq, implies_true, kept_ite, kept_snd_ite, ite_self, kept_fold0, kept_mk0, foldl_kept, foldl_snd_kept, endCmd_kept, takeWrite_kept, writeZone_kept]
    | with_reducible refine (kept_of_eq ‹_›).trans ?_
    | with_reducible refine (kept_of_eq3 ‹_›).trans ?_
    | split
    | dsimp only
theorem execNvmWrite_kept (slot : Fin 4096) (nsid : BitVec 32) (slba : BitVec 64) (nlb : BitVec 16) (fua : Bool) (data md : List Byte) (pi : PiIn) (s : State) :
    ∀ t, execNvmWrite slot nsid slba nlb fua data md pi s = .next t → t.kept false = s.kept false := by
  intro t h
  unfold execNvmWrite at h
  injection h with h
  subst h
  repeat' first
    | with_reducible rfl
    | simp only [id_eq, implies_true, kept_ite, kept_snd_ite, ite_self, kept_fold0, kept_mk0, foldl_kept, foldl_snd_kept, State.reply_kept, endCmd_kept, onNs_kept, writeCmd_kept]
    | with_reducible refine (onNs_ho (fun _ _ _ => ?_)).trans ?_
    | split
    | dsimp only
theorem execWriteZeroes_kept (slot : Fin 4096) (nsid : BitVec 32) (slba : BitVec 64) (nlb : BitVec 16) (fua : Bool) (pi : PiIn) (s : State) :
    ∀ t, execWriteZeroes slot nsid slba nlb fua pi s = .next t → t.kept false = s.kept false := by
  intro t h
  unfold execWriteZeroes at h
  injection h with h
  subst h
  repeat' first
    | with_reducible rfl
    | simp only [id_eq, implies_true, kept_ite, kept_snd_ite, ite_self, kept_fold0, kept_mk0, foldl_kept, foldl_snd_kept, State.reply_kept, onNs_kept, writeCmd_kept]
    | with_reducible refine (onNs_ho (fun _ _ _ => ?_)).trans ?_
    | split
    | dsimp only
theorem execZoneAppend_kept (slot : Fin 4096) (nsid : BitVec 32) (zslba : BitVec 64) (nlb : BitVec 16) (fua : Bool) (data md : List Byte) (pi : PiIn) (s : State) :
    ∀ t, execZoneAppend slot nsid zslba nlb fua data md pi s = .next t → t.kept false = s.kept false := by
  intro t h
  unfold execZoneAppend at h
  injection h with h
  subst h
  repeat' first
    | with_reducible rfl
    | simp only [id_eq, implies_true, kept_ite, kept_snd_ite, ite_self, kept_fold0, kept_mk0, foldl_kept, foldl_snd_kept, State.reply_kept, endCmd_kept, onNs_kept, readEntry_kept, writeZone_kept]
    | with_reducible refine (onNs_ho (fun _ _ _ => ?_)).trans ?_
    | with_reducible refine (kept_of_eq ‹_›).trans ?_
    | with_reducible refine (kept_of_eq3 ‹_›).trans ?_
    | split
    | dsimp only
theorem execNvmFlush_kept (slot : Fin 4096) (nsid : BitVec 32) (s : State) :
    ∀ t, execNvmFlush slot nsid s = .next t → t.kept lv = s.kept lv := by
  intro t h
  unfold execNvmFlush at h
  injection h with h
  subst h
  repeat' first
    | with_reducible rfl | simp only [implies_true, kept_ite, kept_snd_ite, ite_self, endCmd_kept, onNs_kept]
    | with_reducible refine (onNs_ho (fun _ _ _ => ?_)).trans ?_ | split | dsimp only
theorem onZones_kept (s : State) (k : Nat) (nsid : Nat) (slba : Nat) (all : Bool) (accepts : Nat → Bool) (f : State → Nat → List Nat → State) (hf : ∀ (a0 : State) (a1 : Nat) (a2 : List Nat), (f a0 a1 a2).kept false = a0.kept false) :
    (onZones s k nsid slba all accepts f).kept false = s.kept false := by
  unfold onZones
  repeat' first
    | with_reducible rfl
    | simp only [implies_true, kept_ite, kept_snd_ite, ite_self, kept_fold0, kept_mk0, hf, endCmd_kept, onNs_kept, readEntry_kept]
    | with_reducible refine (onNs_ho (fun _ _ _ => ?_)).trans ?_
    | with_reducible refine (kept_of_eq ‹_›).trans ?_ | with_reducible refine (kept_of_eq3 ‹_›).trans ?_ | split
    | dsimp only
theorem onZones_ho {s : State} {k : Nat} {nsid : Nat} {slba : Nat} {all : Bool} {accepts : Nat → Bool} {f : State → Nat → List Nat → State} (hf : ∀ (a0 : State) (a1 : Nat) (a2 : List Nat), (f a0 a1 a2).kept false = a0.kept false) :
    (onZones s k nsid slba all accepts f).kept false = s.kept false := onZones_kept s k nsid slba all accepts f hf
theorem openZone_some {s : State} {n z : Nat} {t : State} (h : openZone s n z = .ok t) : t.kept false = s.kept false := by
  unfold openZone at h
  (try dsimp only at h)
  repeat' (first | contradiction | (simp only [Option.map_eq_some_iff] at h; obtain ⟨_, _, h⟩ := h) | split at h)
  all_goals (try cases h)
  all_goals (repeat' first
            | with_reducible rfl
            | simp only [kept_ite, kept_snd_ite, ite_self, kept_fold0, kept_mk0, enterZoneState_kept, readEntry_kept]
            | with_reducible refine (kept_of_eq ‹_›).trans ?_ | with_reducible refine (kept_of_eq3 ‹_›).trans ?_ | split
            | dsimp only)
theorem openZones_some {n : Nat} {l : List Nat} {s t : State} (h : openZones n l s = .ok t) : t.kept false = s.kept false := by
  induction l generalizing s with
  | nil => unfold openZones at h; cases h; rfl
  | cons z l ih =>
    unfold openZones at h
    split at h
    · exact (ih h).trans (openZone_some ‹_›)
    · cases h
theorem execZoneOpen_kept (slot : Fin 4096) (nsid : BitVec 32) (slba : BitVec 64) (all : Bool) (s : State) :
    ∀ t, execZoneOpen slot nsid slba all s = .next t → t.kept false = s.kept false := by
  intro t h
  unfold execZoneOpen at h
  injection h with h
  subst h
  repeat' first
    | with_reducible rfl
    | simp only [implies_true, kept_ite, kept_snd_ite, ite_self, kept_fold0, kept_mk0, endCmd_kept, onZones_kept]
    | with_reducible refine (openZones_some ‹_›).trans ?_
    | with_reducible refine (onZones_ho (fun _ _ _ => ?_)).trans ?_
    | with_reducible refine (kept_of_eq ‹_›).trans ?_ | with_reducible refine (kept_of_eq3 ‹_›).trans ?_ | split
    | dsimp only
theorem execZoneClose_kept (slot : Fin 4096) (nsid : BitVec 32) (slba : BitVec 64) (all : Bool) (s : State) :
    ∀ t, execZoneClose slot nsid slba all s = .next t → t.kept false = s.kept false := by
  intro t h
  unfold execZoneClose at h
  injection h with h
  subst h
  repeat' first
    | with_reducible rfl
    | simp only [implies_true, kept_ite, kept_snd_ite, ite_self, foldl_kept, foldl_snd_kept, endCmd_kept, enterZoneState_kept, onZones_kept, readEntry_kept]
    | with_reducible refine (foldl_kept _ (fun _ _ => ?_) _ _).trans ?_
    | with_reducible refine (foldl_snd_kept _ (fun _ _ => ?_) _ _).trans ?_
    | with_reducible refine (onZones_ho (fun _ _ _ => ?_)).trans ?_ | split | dsimp only
theorem execZoneFinish_kept (slot : Fin 4096) (nsid : BitVec 32) (slba : BitVec 64) (all : Bool) (s : State) :
    ∀ t, execZoneFinish slot nsid slba all s = .next t → t.kept false = s.kept false := by
  intro t h
  unfold execZoneFinish at h
  injection h with h
  subst h
  repeat' first
    | with_reducible rfl
    | simp only [implies_true, kept_ite, kept_snd_ite, ite_self, foldl_kept, foldl_snd_kept, cancelProv_kept, enterOrder_kept, enterZoneState_kept, onZones_kept, readEntry_kept, schSettle_kept, startSlot_kept]
    | with_reducible refine (foldl_kept _ (fun _ _ => ?_) _ _).trans ?_
    | with_reducible refine (foldl_snd_kept _ (fun _ _ => ?_) _ _).trans ?_
    | with_reducible refine (onZones_ho (fun _ _ _ => ?_)).trans ?_ | split | dsimp only
theorem execZoneReset_kept (slot : Fin 4096) (nsid : BitVec 32) (slba : BitVec 64) (all : Bool) (bands : List (Nat × Nat × Nat × Nat)) (s : State) :
    ∀ t, execZoneReset slot nsid slba all bands s = .next t → t.kept false = s.kept false := by
  intro t h
  unfold execZoneReset at h
  injection h with h
  subst h
  repeat' first
    | with_reducible rfl
    | simp only [implies_true, kept_ite, kept_snd_ite, ite_self, cancelProv_kept, enterOrder_kept, onZones_kept, schSettle_kept]
    | with_reducible refine (onZones_ho (fun _ _ _ => ?_)).trans ?_ | split | dsimp only
theorem execZoneOffline_kept (slot : Fin 4096) (nsid : BitVec 32) (slba : BitVec 64) (all : Bool) (s : State) :
    ∀ t, execZoneOffline slot nsid slba all s = .next t → t.kept false = s.kept false := by
  intro t h
  unfold execZoneOffline at h
  injection h with h
  subst h
  repeat' first
    | with_reducible rfl
    | simp only [implies_true, foldl_kept, foldl_snd_kept, discardZone_kept, endCmd_kept, enterZoneState_kept, onZones_kept]
    | with_reducible refine (foldl_kept _ (fun _ _ => ?_) _ _).trans ?_
    | with_reducible refine (foldl_snd_kept _ (fun _ _ => ?_) _ _).trans ?_
    | with_reducible refine (onZones_ho (fun _ _ _ => ?_)).trans ?_ | dsimp only
theorem execZoneSetDescExt_kept (slot : Fin 4096) (nsid : BitVec 32) (slba : BitVec 64) (s : State) :
    ∀ t, execZoneSetDescExt slot nsid slba s = .next t → t.kept false = s.kept false := by
  intro t h
  unfold execZoneSetDescExt at h
  injection h with h
  subst h
  repeat' first
    | with_reducible rfl
    | simp only [id_eq, implies_true, kept_ite, kept_snd_ite, ite_self, kept_fold0, kept_mk0, foldl_kept, foldl_snd_kept, endCmd_kept, onZones_kept]
    | with_reducible refine (onZones_ho (fun _ _ _ => ?_)).trans ?_
    | split
    | dsimp only
theorem execZoneReport_kept (slot : Fin 4096) (nsid : BitVec 32) (slba : BitVec 64) (extended : Bool) (option : BitVec 8) (partialReport : Bool) (entries : Nat) (s : State) :
    ∀ t, execZoneReport slot nsid slba extended option partialReport entries s = .next t → t.kept false = s.kept false := by
  intro t h
  unfold execZoneReport at h
  injection h with h
  subst h
  repeat' first
    | with_reducible rfl
    | simp only [implies_true, kept_ite, kept_snd_ite, ite_self, kept_fold0, kept_mk0, State.reply_kept, countMoved_kept, endCmd_kept, onNs_kept, readEntry_kept]
    | with_reducible refine (onNs_ho (fun _ _ _ => ?_)).trans ?_
    | with_reducible refine (kept_of_eq ‹_›).trans ?_ | with_reducible refine (kept_of_eq3 ‹_›).trans ?_ | split
    | dsimp only
theorem notifyHosts_kept (s : State) (nsx kind : Nat) (hosts : List Nat) :
    (notifyHosts s nsx kind hosts).kept lv = s.kept lv := by
  unfold notifyHosts
  repeat' first
    | with_reducible rfl
    | simp only [implies_true, kept_ite, kept_snd_ite, ite_self, kept_fold, kept_mk, foldl_kept, foldl_snd_kept, State.modNs_kept]
    | with_reducible refine (foldl_kept _ (fun _ _ => ?_) _ _).trans ?_
    | with_reducible refine (foldl_snd_kept _ (fun _ _ => ?_) _ _).trans ?_ | split | dsimp only
theorem releaseReservation_kept (s : State) (nsx host : Nat) :
    (releaseReservation s nsx host).kept lv = s.kept lv := by
  unfold releaseReservation
  repeat' first
    | with_reducible rfl
    | simp only [kept_ite, kept_snd_ite, ite_self, kept_fold, kept_mk, State.modNs_kept, notifyHosts_kept]
    | with_reducible refine (kept_of_eq ‹_›).trans ?_ | with_reducible refine (kept_of_eq3 ‹_›).trans ?_ | split
    | dsimp only
theorem resCount_kept (s : State) (nsx : Nat) :
    (resCount s nsx).kept lv = s.kept lv := by
  unfold resCount
  repeat' first
    | with_reducible rfl | simp only [kept_fold, kept_mk, State.modNs_kept] | dsimp only
theorem setPersist_kept (s : State) (nsx cptpl : Nat) :
    (setPersist s nsx cptpl).kept lv = s.kept lv := by
  unfold setPersist
  repeat' first
    | with_reducible rfl | simp only [kept_ite, kept_snd_ite, ite_self, kept_fold, kept_mk, State.modNs_kept]
    | split | dsimp only
theorem unregister_kept (s : State) (nsx : Nat) (p : Nat × Nat → Bool) :
    (unregister s nsx p).kept lv = s.kept lv := by
  unfold unregister
  repeat' first
    | with_reducible rfl
    | simp only [kept_ite, kept_snd_ite, ite_self, kept_fold, kept_mk, State.modNs_kept, releaseReservation_kept]
    | with_reducible refine (kept_of_eq ‹_›).trans ?_ | with_reducible refine (kept_of_eq3 ‹_›).trans ?_ | split
    | dsimp only
theorem execReservationRegister_kept (slot : Fin 4096) (nsid : BitVec 32) (action : BitVec 3) (iekey : Bool) (cptpl : BitVec 2) (crkey nrkey : BitVec 64) (s : State) :
    ∀ t, execReservationRegister slot nsid action iekey cptpl crkey nrkey s = .next t → t.kept lv = s.kept lv := by
  intro t h
  unfold execReservationRegister at h
  injection h with h
  subst h
  repeat' first
    | with_reducible rfl
    | simp only [implies_true, kept_ite, kept_snd_ite, ite_self, kept_fold, kept_mk, State.modNs_kept, endCmd_kept, onNs_kept, resCount_kept, setPersist_kept, unregister_kept]
    | with_reducible refine (onNs_ho (fun _ _ _ => ?_)).trans ?_
    | with_reducible refine (kept_of_eq ‹_›).trans ?_ | with_reducible refine (kept_of_eq3 ‹_›).trans ?_ | split
    | dsimp only
theorem execReservationReport_kept (slot : Fin 4096) (nsid : BitVec 32) (s : State) :
    ∀ t, execReservationReport slot nsid s = .next t → t.kept lv = s.kept lv := by
  intro t h
  unfold execReservationReport at h
  injection h with h
  subst h
  repeat' first
    | with_reducible rfl
    | simp only [implies_true, kept_ite, kept_snd_ite, ite_self, kept_fold, kept_mk, State.reply_kept, endCmd_kept, onNs_kept]
    | with_reducible refine (onNs_ho (fun _ _ _ => ?_)).trans ?_ | split | dsimp only
theorem preempt_kept (s : State) (nsx host : Nat) (abort : Bool) (p : Nat × Nat → Bool) :
    (preempt s nsx host abort p).kept false = s.kept false := by
  unfold preempt
  repeat' first
    | with_reducible rfl
    | simp only [implies_true, kept_ite, kept_snd_ite, ite_self, kept_fold0, kept_mk0, foldl_kept, foldl_snd_kept, State.modNs_kept, killCmd_kept, notifyHosts_kept]
    | with_reducible refine (foldl_kept _ (fun _ _ => ?_) _ _).trans ?_
    | with_reducible refine (foldl_snd_kept _ (fun _ _ => ?_) _ _).trans ?_
    | with_reducible refine (kept_of_eq ‹_›).trans ?_ | with_reducible refine (kept_of_eq3 ‹_›).trans ?_ | split
    | dsimp only
theorem preemptTake_kept (s : State) (nsx host rtype : Nat) (abort : Bool) (p : Nat × Nat → Bool) :
    (preemptTake s nsx host rtype abort p).kept false = s.kept false := by
  unfold preemptTake
  repeat' first
    | with_reducible rfl
    | simp only [kept_ite, kept_snd_ite, ite_self, kept_fold0, kept_mk0, State.modNs_kept, notifyHosts_kept, preempt_kept]
    | with_reducible refine (kept_of_eq ‹_›).trans ?_ | with_reducible refine (kept_of_eq3 ‹_›).trans ?_ | split
    | dsimp only
theorem execReservationAcquire_kept (slot : Fin 4096) (nsid : BitVec 32) (action : BitVec 3) (iekey : Bool) (rtype : BitVec 8) (crkey prkey : BitVec 64) (s : State) :
    ∀ t, execReservationAcquire slot nsid action iekey rtype crkey prkey s = .next t → t.kept false = s.kept false := by
  intro t h
  unfold execReservationAcquire at h
  injection h with h
  subst h
  repeat' first
    | with_reducible rfl
    | simp only [implies_true, kept_ite, kept_snd_ite, ite_self, kept_fold0, kept_mk0, State.modNs_kept, endCmd_kept, onNs_kept, preemptTake_kept, preempt_kept, resCount_kept]
    | with_reducible refine (onNs_ho (fun _ _ _ => ?_)).trans ?_
    | with_reducible refine (kept_of_eq ‹_›).trans ?_ | with_reducible refine (kept_of_eq3 ‹_›).trans ?_ | split
    | dsimp only
theorem execReservationRelease_kept (slot : Fin 4096) (nsid : BitVec 32) (action : BitVec 3) (iekey : Bool) (rtype : BitVec 8) (crkey : BitVec 64) (s : State) :
    ∀ t, execReservationRelease slot nsid action iekey rtype crkey s = .next t → t.kept lv = s.kept lv := by
  intro t h
  unfold execReservationRelease at h
  injection h with h
  subst h
  repeat' first
    | with_reducible rfl
    | simp only [implies_true, kept_ite, kept_snd_ite, ite_self, kept_fold, kept_mk, State.modNs_kept, endCmd_kept, notifyHosts_kept, onNs_kept, releaseReservation_kept, resCount_kept]
    | with_reducible refine (onNs_ho (fun _ _ _ => ?_)).trans ?_
    | with_reducible refine (kept_of_eq ‹_›).trans ?_ | with_reducible refine (kept_of_eq3 ‹_›).trans ?_ | split
    | dsimp only
end Sys2Proof.Machine
end

