-- ==== Sys2Proof/Laws/KeptAdmin.lean ====
section
/-! SUPPORT. Frame laws of Machine/Admin.lean: each operation and command there leaves the fuses and the queue
as they are, and the stores too where the law says so of every level. -/

namespace Sys2Proof.Machine

open Sys2Proof

set_option maxRecDepth 4000
set_option linter.all false

variable {lv : Bool}

theorem onAdminIdle_kept (s : State) (k : Nat) (f : State → Nat → State) (hf : ∀ (a0 : State) (a1 : Nat), (f a0 a1).kept lv = a0.kept lv) :
    (onAdminIdle s k f).kept lv = s.kept lv := by
  unfold onAdminIdle
  repeat' first
    | with_reducible rfl
    | simp only [implies_true, kept_ite, kept_snd_ite, ite_self, hf, endCmd_kept, onAdmin_kept]
    | with_reducible refine (onAdmin_ho (fun _ _ => ?_)).trans ?_ | split | dsimp only
theorem onAdminIdle_ho {s : State} {k : Nat} {f : State → Nat → State} (hf : ∀ (a0 : State) (a1 : Nat), (f a0 a1).kept lv = a0.kept lv) :
    (onAdminIdle s k f).kept lv = s.kept lv := onAdminIdle_kept s k f hf
theorem onPrimary_kept (s : State) (k : Nat) (f : State → State) (hf : ∀ (a0 : State), (f a0).kept lv = a0.kept lv) :
    (onPrimary s k f).kept lv = s.kept lv := by
  unfold onPrimary
  repeat' first
    | with_reducible rfl
    | simp only [implies_true, kept_ite, kept_snd_ite, ite_self, hf, endCmd_kept, onAdminIdle_kept]
    | with_reducible refine (onAdminIdle_ho (fun _ _ => ?_)).trans ?_ | split | dsimp only
theorem onPrimary_ho {s : State} {k : Nat} {f : State → State} (hf : ∀ (a0 : State), (f a0).kept lv = a0.kept lv) :
    (onPrimary s k f).kept lv = s.kept lv := onPrimary_kept s k f hf
theorem endWith_kept (s : State) (k : Nat) (data : List Nat) (dw0 : Nat) :
    (endWith s k data dw0).kept lv = s.kept lv := by
  unfold endWith
  repeat' first
    | with_reducible rfl | simp only [kept_fold, kept_mk, endCmd_kept] | dsimp only
theorem execIdentify_kept (slot : Fin 4096) (cns : BitVec 8) (nsid : BitVec 32) (csi : BitVec 8) (cntid : BitVec 16) (s : State) :
    ∀ t, execIdentify slot cns nsid csi cntid s = .next t → t.kept lv = s.kept lv := by
  intro t h
  unfold execIdentify at h
  injection h with h
  subst h
  repeat' first
    | with_reducible rfl
    | simp only [id_eq, implies_true, kept_ite, kept_snd_ite, ite_self, kept_fold, kept_mk, foldl_kept, foldl_snd_kept, State.reply_kept, countMoved_kept, endCmd_kept, endWith_kept, onAdmin_kept]
    | with_reducible refine (onAdmin_ho (fun _ _ => ?_)).trans ?_
    | with_reducible refine (kept_of_eq ‹_›).trans ?_
    | with_reducible refine (kept_of_eq3 ‹_›).trans ?_
    | split
    | dsimp only
theorem logRead_kept (s : State) (n lid nsid : Nat) (rae : Bool) :
    (logRead s n lid nsid rae).kept lv = s.kept lv := by
  unfold logRead
  repeat' first
    | with_reducible rfl
    | simp only [id_eq, implies_true, kept_ite, kept_snd_ite, ite_self, kept_fold, kept_mk, foldl_kept, foldl_snd_kept, State.drawn_kept, State.modNs_kept, State.setCtl_kept, reportWaiting_kept]
    | with_reducible refine (kept_of_eq ‹_›).trans ?_
    | with_reducible refine (kept_of_eq3 ‹_›).trans ?_
    | split
    | dsimp only
theorem execGetLogPage_kept (slot : Fin 4096) (lid : BitVec 8) (nsid : BitVec 32) (offset : BitVec 64) (numd : BitVec 32) (rae : Bool) (s : State) :
    ∀ t, execGetLogPage slot lid nsid offset numd rae s = .next t → t.kept lv = s.kept lv := by
  intro t h
  unfold execGetLogPage at h
  injection h with h
  subst h
  repeat' first
    | with_reducible rfl
    | simp only [id_eq, implies_true, kept_ite, kept_snd_ite, ite_self, kept_fold, kept_mk, foldl_kept, foldl_snd_kept, State.reply_kept, countMoved_kept, endCmd_kept, endWith_kept, logRead_kept, onAdmin_kept]
    | with_reducible refine (onAdmin_ho (fun _ _ => ?_)).trans ?_
    | with_reducible refine (kept_of_eq ‹_›).trans ?_
    | with_reducible refine (kept_of_eq3 ‹_›).trans ?_
    | split
    | dsimp only
theorem keepFeature_kept (s : State) (key v : Nat) :
    (keepFeature s key v).kept lv = s.kept lv := by
  unfold keepFeature
  repeat' first
    | with_reducible rfl | simp only [kept_fold, kept_mk] | dsimp only
theorem thermalWarning_kept (s : State) :
    (thermalWarning s).kept lv = s.kept lv := by
  unfold thermalWarning
  repeat' first
    | with_reducible rfl
    | simp only [id_eq, implies_true, kept_ite, kept_snd_ite, ite_self, kept_fold, kept_mk, foldl_kept, foldl_snd_kept, criticalWarning_kept]
    | split
    | dsimp only
theorem execTmpSample_kept (readings : Vector (BitVec 16) 40) (th0 th1 : BitVec 12) (s : State) :
    ∀ t, execTmpSample readings th0 th1 s = .next t → t.kept false = s.kept false := by
  intro t h
  unfold execTmpSample at h
  injection h with h
  subst h
  repeat' first
    | with_reducible rfl
    | simp only [id_eq, implies_true, kept_ite, kept_snd_ite, ite_self, kept_fold0, kept_mk0, foldl_kept, foldl_snd_kept, calSample_kept, sampleAll_kept, thermalWarning_kept]
    | split
    | dsimp only
theorem eachNs_some {s : State} {n : Nat} {f : Ns → Ns} {t : State} (h : eachNs s n f = .ok t) : t.kept lv = s.kept lv := by
  unfold eachNs at h
  (try dsimp only at h)
  repeat' (first | contradiction | (simp only [Option.map_eq_some_iff] at h; obtain ⟨_, _, h⟩ := h) | split at h)
  all_goals (try cases h)
  all_goals (repeat' first
            | with_reducible rfl
            | simp only [implies_true, kept_ite, kept_snd_ite, ite_self, kept_fold, kept_mk, foldl_kept, foldl_snd_kept, State.modNs_kept]
            | with_reducible refine (foldl_kept _ (fun _ _ => ?_) _ _).trans ?_
            | with_reducible refine (foldl_snd_kept _ (fun _ _ => ?_) _ _).trans ?_
            | with_reducible refine (kept_of_eq ‹_›).trans ?_ | with_reducible refine (kept_of_eq3 ‹_›).trans ?_ | split
            | dsimp only)
theorem setFeature_some {s : State} {n fid nsid v : Nat} {data : List Nat} {t : State} (h : setFeature s n fid nsid v data = .ok t) : t.kept lv = s.kept lv := by
  unfold setFeature at h
  (try dsimp only at h)
  repeat' (first | contradiction | (simp only [Option.map_eq_some_iff] at h; obtain ⟨_, _, h⟩ := h) | split at h)
  all_goals (try cases h)
  all_goals (repeat' first
            | with_reducible rfl
            | simp only [implies_true, kept_ite, kept_snd_ite, ite_self, kept_fold, kept_mk, foldl_kept, foldl_snd_kept, State.put_kept, State.setCtl_kept, keepFeature_kept, thermalWarning_kept]
            | with_reducible refine (foldl_kept _ (fun _ _ => ?_) _ _).trans ?_
            | with_reducible refine (foldl_snd_kept _ (fun _ _ => ?_) _ _).trans ?_
            | with_reducible refine (eachNs_some ‹_›).trans ?_ | with_reducible refine (kept_of_eq ‹_›).trans ?_
            | with_reducible refine (kept_of_eq3 ‹_›).trans ?_ | split | dsimp only)
theorem moveOwner_kept (s : State) (k nsid ctrl : Nat) :
    (moveOwner s k nsid ctrl).kept lv = s.kept lv := by
  unfold moveOwner
  repeat' first
    | with_reducible rfl
    | simp only [kept_ite, kept_snd_ite, ite_self, kept_fold, kept_mk, State.modNs_kept, endCmd_kept, settleMoves_kept, startSlot_kept]
    | with_reducible refine (kept_of_eq ‹_›).trans ?_ | with_reducible refine (kept_of_eq3 ‹_›).trans ?_ | split
    | dsimp only
theorem saveFeature_kept (s : State) (n fid nsid v : Nat) :
    (saveFeature s n fid nsid v).kept lv = s.kept lv := by
  unfold saveFeature
  repeat' first
    | with_reducible rfl
    | simp only [id_eq, implies_true, kept_ite, kept_snd_ite, ite_self, kept_fold, kept_mk, foldl_kept, foldl_snd_kept, State.put_kept]
    | with_reducible refine (foldl_kept _ (fun _ _ => ?_) _ _).trans ?_
    | with_reducible refine (foldl_snd_kept _ (fun _ _ => ?_) _ _).trans ?_
    | split
    | dsimp only
theorem execSetFeatures_kept (slot : Fin 4096) (fid : BitVec 8) (nsid : BitVec 32) (save : Bool) (dw11 : BitVec 32) (data : List Byte) (s : State) :
    ∀ t, execSetFeatures slot fid nsid save dw11 data s = .next t → t.kept lv = s.kept lv := by
  intro t h
  unfold execSetFeatures at h
  injection h with h
  subst h
  repeat' first
    | with_reducible rfl
    | simp only [id_eq, implies_true, kept_ite, kept_snd_ite, ite_self, kept_fold, kept_mk, foldl_kept, foldl_snd_kept, endCmd_kept, moveOwner_kept, onAdmin_kept, saveFeature_kept]
    | with_reducible refine (onAdmin_ho (fun _ _ => ?_)).trans ?_
    | with_reducible refine (setFeature_some ‹_›).trans ?_
    | with_reducible refine (kept_of_eq ‹_›).trans ?_
    | with_reducible refine (kept_of_eq3 ‹_›).trans ?_
    | split
    | dsimp only
theorem execAnaOwnerSet_kept (slot : Fin 4096) (nsid : BitVec 32) (ctrl : Fin 2) (s : State) :
    ∀ t, execAnaOwnerSet slot nsid ctrl s = .next t → t.kept lv = s.kept lv := by
  intro t h
  unfold execAnaOwnerSet at h
  injection h with h
  subst h
  repeat' first
    | with_reducible rfl | simp only [implies_true, moveOwner_kept, onAdmin_kept]
    | with_reducible refine (onAdmin_ho (fun _ _ => ?_)).trans ?_ | dsimp only
theorem execGetFeatures_kept (slot : Fin 4096) (fid : BitVec 8) (nsid : BitVec 32) (sel : BitVec 3) (dw11 : BitVec 32) (s : State) :
    ∀ t, execGetFeatures slot fid nsid sel dw11 s = .next t → t.kept lv = s.kept lv := by
  intro t h
  unfold execGetFeatures at h
  injection h with h
  subst h
  repeat' first
    | with_reducible rfl
    | simp only [implies_true, kept_ite, kept_snd_ite, ite_self, kept_fold, kept_mk, State.reply_kept, endCmd_kept, endWith_kept, onAdmin_kept]
    | with_reducible refine (onAdmin_ho (fun _ _ => ?_)).trans ?_
    | with_reducible refine (kept_of_eq ‹_›).trans ?_ | with_reducible refine (kept_of_eq3 ‹_›).trans ?_ | split
    | dsimp only
theorem loadSaved_kept (s : State) :
    (loadSaved s).kept lv = s.kept lv := by
  unfold loadSaved
  repeat' first
    | with_reducible rfl | simp only [implies_true, kept_fold, kept_mk, foldl_kept, foldl_snd_kept]
    | with_reducible refine (foldl_kept _ (fun _ _ => ?_) _ _).trans ?_
    | with_reducible refine (foldl_snd_kept _ (fun _ _ => ?_) _ _).trans ?_
    | with_reducible refine (setFeature_some ‹_›).trans ?_ | with_reducible refine (kept_of_eq ‹_›).trans ?_
    | with_reducible refine (kept_of_eq3 ‹_›).trans ?_ | split | dsimp only
theorem makeZone_kept (nsx kind : Nat) (verified : Bool) (s : State) (e : Nat × List (Nat × Nat)) :
    (makeZone nsx kind verified s e).kept false = s.kept false := by
  unfold makeZone
  repeat' first
    | with_reducible rfl
    | simp only [implies_true, kept_ite, kept_snd_ite, ite_self, kept_fold0, kept_mk0, foldl_kept, foldl_snd_kept, memWrite_kept, readBand_kept, rewriteEntry_kept]
    | with_reducible refine (foldl_kept _ (fun _ _ => ?_) _ _).trans ?_
    | with_reducible refine (foldl_snd_kept _ (fun _ _ => ?_) _ _).trans ?_ | split | dsimp only
theorem execNsCreate_kept (slot : Fin 4096) (csi : BitVec 8) (nsze ncap : BitVec 64) (flbas dps : BitVec 8) (weave : BitVec 2) (verified : Bool) (place : List (List (Nat × Nat))) (s : State) :
    ∀ t, execNsCreate slot csi nsze ncap flbas dps weave verified place s = .next t → t.kept false = s.kept false := by
  intro t h
  unfold execNsCreate at h
  injection h with h
  subst h
  repeat' first
    | with_reducible rfl
    | simp only [implies_true, kept_fold0, kept_mk0, foldl_kept, foldl_snd_kept, State.setNs_kept, endCmd_kept, makeZone_kept, nsAttributeChanged_kept, onPrimary_kept, replaceKey_kept]
    | with_reducible refine (foldl_kept _ (fun _ _ => ?_) _ _).trans ?_
    | with_reducible refine (foldl_snd_kept _ (fun _ _ => ?_) _ _).trans ?_
    | with_reducible refine (onPrimary_ho (fun _ => ?_)).trans ?_
    | with_reducible refine (kept_of_eq ‹_›).trans ?_ | with_reducible refine (kept_of_eq3 ‹_›).trans ?_ | split
    | dsimp only
theorem execNsDelete_kept (slot : Fin 4096) (nsid : BitVec 32) (s : State) :
    ∀ t, execNsDelete slot nsid s = .next t → t.kept false = s.kept false := by
  intro t h
  unfold execNsDelete at h
  injection h with h
  subst h
  repeat' first
    | with_reducible rfl
    | simp only [implies_true, kept_ite, kept_snd_ite, ite_self, kept_fold0, kept_mk0, foldl_kept, foldl_snd_kept, State.modNs_kept, endCmd_kept, enterOrder_kept, onPrimary_kept, settleHost_kept]
    | with_reducible refine (foldl_kept _ (fun _ _ => ?_) _ _).trans ?_
    | with_reducible refine (foldl_snd_kept _ (fun _ _ => ?_) _ _).trans ?_
    | with_reducible refine (onPrimary_ho (fun _ => ?_)).trans ?_
    | with_reducible refine (kept_of_eq ‹_›).trans ?_ | with_reducible refine (kept_of_eq3 ‹_›).trans ?_ | split
    | dsimp only
theorem onAttach_kept (s : State) (k nsid : Nat) (ctrls : List Nat) (f : State → Nat → Ns → State) (hf : ∀ (a0 : State) (a1 : Nat) (a2 : Ns), (f a0 a1 a2).kept lv = a0.kept lv) :
    (onAttach s k nsid ctrls f).kept lv = s.kept lv := by
  unfold onAttach
  repeat' first
    | with_reducible rfl
    | simp only [implies_true, kept_ite, kept_snd_ite, ite_self, kept_fold, kept_mk, hf, endCmd_kept, onPrimary_kept]
    | with_reducible refine (onPrimary_ho (fun _ => ?_)).trans ?_
    | with_reducible refine (kept_of_eq ‹_›).trans ?_ | with_reducible refine (kept_of_eq3 ‹_›).trans ?_ | split
    | dsimp only
theorem onAttach_ho {s : State} {k nsid : Nat} {ctrls : List Nat} {f : State → Nat → Ns → State} (hf : ∀ (a0 : State) (a1 : Nat) (a2 : Ns), (f a0 a1 a2).kept lv = a0.kept lv) :
    (onAttach s k nsid ctrls f).kept lv = s.kept lv := onAttach_kept s k nsid ctrls f hf
theorem execNsAttach_kept (slot : Fin 4096) (nsid : BitVec 32) (ctrls : List (Fin 2)) (s : State) :
    ∀ t, execNsAttach slot nsid ctrls s = .next t → t.kept lv = s.kept lv := by
  intro t h
  unfold execNsAttach at h
  injection h with h
  subst h
  repeat' first
    | with_reducible rfl
    | simp only [implies_true, kept_ite, kept_snd_ite, ite_self, kept_fold, kept_mk, State.modNs_kept, endCmd_kept, nsAttributeChanged_kept, onAttach_kept]
    | with_reducible refine (onAttach_ho (fun _ _ _ => ?_)).trans ?_ | split | dsimp only
theorem execNsDetach_kept (slot : Fin 4096) (nsid : BitVec 32) (ctrls : List (Fin 2)) (s : State) :
    ∀ t, execNsDetach slot nsid ctrls s = .next t → t.kept lv = s.kept lv := by
  intro t h
  unfold execNsDetach at h
  injection h with h
  subst h
  repeat' first
    | with_reducible rfl
    | simp only [implies_true, kept_ite, kept_snd_ite, ite_self, kept_fold, kept_mk, foldl_kept, foldl_snd_kept, State.modNs_kept, endCmd_kept, nsAttributeChanged_kept, onAttach_kept, ownerLeaves_kept]
    | with_reducible refine (foldl_kept _ (fun _ _ => ?_) _ _).trans ?_
    | with_reducible refine (foldl_snd_kept _ (fun _ _ => ?_) _ _).trans ?_
    | with_reducible refine (onAttach_ho (fun _ _ _ => ?_)).trans ?_ | split | dsimp only
theorem formatCmd_kept (s : State) (k nsid lbaf prot : Nat) (first ext erase : Bool) :
    (formatCmd s k nsid lbaf prot first ext erase).kept false = s.kept false := by
  unfold formatCmd
  repeat' first
    | with_reducible rfl
    | simp only [id_eq, implies_true, kept_ite, kept_snd_ite, ite_self, kept_fold0, kept_mk0, foldl_kept, foldl_snd_kept, State.modNs_kept, endCmd_kept, enterOrder_kept, onAdminIdle_kept, settleHost_kept]
    | with_reducible refine (onAdminIdle_ho (fun _ _ => ?_)).trans ?_
    | with_reducible refine (kept_of_eq ‹_›).trans ?_
    | with_reducible refine (kept_of_eq3 ‹_›).trans ?_
    | split
    | dsimp only
theorem execFormatNvm_kept (slot : Fin 4096) (nsid : BitVec 32) (lbaf : BitVec 6) (prot : BitVec 3) (first ext : Bool) (s : State) :
    ∀ t, execFormatNvm slot nsid lbaf prot first ext s = .next t → t.kept false = s.kept false := by
  intro t h
  unfold execFormatNvm at h
  injection h with h
  subst h
  repeat' first
    | with_reducible rfl
    | simp only [id_eq, implies_true, kept_ite, kept_snd_ite, ite_self, kept_fold0, kept_mk0, foldl_kept, foldl_snd_kept, formatCmd_kept]
    | split
    | dsimp only
theorem execFormatNvmCryptoErase_kept (slot : Fin 4096) (nsid : BitVec 32) (lbaf : BitVec 6) (prot : BitVec 3) (first ext : Bool) (s : State) :
    ∀ t, execFormatNvmCryptoErase slot nsid lbaf prot first ext s = .next t → t.kept false = s.kept false := by
  intro t h
  unfold execFormatNvmCryptoErase at h
  injection h with h
  subst h
  repeat' first
    | with_reducible rfl
    | simp only [id_eq, implies_true, kept_ite, kept_snd_ite, ite_self, kept_fold0, kept_mk0, foldl_kept, foldl_snd_kept, formatCmd_kept]
    | split
    | dsimp only
theorem selfTest_kept (s : State) (k code nsid : Nat) :
    (selfTest s k code nsid).kept false = s.kept false := by
  unfold selfTest
  repeat' first
    | with_reducible rfl
    | simp only [id_eq, implies_true, kept_ite, kept_snd_ite, ite_self, kept_fold0, kept_mk0, foldl_kept, foldl_snd_kept, endCmd_kept, onAdminIdle_kept, schSettle_kept]
    | with_reducible refine (onAdminIdle_ho (fun _ _ => ?_)).trans ?_
    | split
    | dsimp only
theorem execSelfTestShort_kept (slot : Fin 4096) (nsid : BitVec 32) (s : State) :
    ∀ t, execSelfTestShort slot nsid s = .next t → t.kept false = s.kept false := by
  intro t h
  unfold execSelfTestShort at h
  injection h with h
  subst h
  repeat' first
    | with_reducible rfl
    | simp only [id_eq, implies_true, kept_ite, kept_snd_ite, ite_self, kept_fold0, kept_mk0, foldl_kept, foldl_snd_kept, selfTest_kept]
    | split
    | dsimp only
theorem execSelfTestExtended_kept (slot : Fin 4096) (nsid : BitVec 32) (s : State) :
    ∀ t, execSelfTestExtended slot nsid s = .next t → t.kept false = s.kept false := by
  intro t h
  unfold execSelfTestExtended at h
  injection h with h
  subst h
  repeat' first
    | with_reducible rfl
    | simp only [id_eq, implies_true, kept_ite, kept_snd_ite, ite_self, kept_fold0, kept_mk0, foldl_kept, foldl_snd_kept, selfTest_kept]
    | split
    | dsimp only
theorem execSelfTestAbort_kept (slot : Fin 4096) (s : State) :
    ∀ t, execSelfTestAbort slot s = .next t → t.kept false = s.kept false := by
  intro t h
  unfold execSelfTestAbort at h
  injection h with h
  subst h
  repeat' first
    | with_reducible rfl
    | simp only [id_eq, implies_true, kept_ite, kept_snd_ite, ite_self, kept_fold0, kept_mk0, foldl_kept, foldl_snd_kept, endCmd_kept, onAdmin_kept, testMap_kept, testStep_kept]
    | with_reducible refine (onAdmin_ho (fun _ _ => ?_)).trans ?_
    | split
    | dsimp only
theorem eraseAll_kept (s : State) :
    (eraseAll s).kept false = s.kept false := by
  unfold eraseAll
  repeat' first
    | with_reducible rfl
    | simp only [implies_true, kept_ite, kept_snd_ite, ite_self, kept_fold0, kept_mk0, foldl_kept, foldl_snd_kept, State.schMap_kept, cancelProv_kept, emptyZone_kept, killCmd_kept, replaceKey_kept]
    | with_reducible refine (foldl_kept _ (fun _ _ => ?_) _ _).trans ?_
    | with_reducible refine (foldl_snd_kept _ (fun _ _ => ?_) _ _).trans ?_ | split | dsimp only
theorem startSanitize_kept (s : State) (k : Nat) (passes pattern : Nat) (invert : Bool) :
    (startSanitize s k passes pattern invert).kept false = s.kept false := by
  unfold startSanitize
  repeat' first
    | with_reducible rfl
    | simp only [id_eq, implies_true, kept_ite, kept_snd_ite, ite_self, kept_fold0, kept_mk0, foldl_kept, foldl_snd_kept, endCmd_kept, eraseAll_kept, onPrimary_kept, selfTestEnds_kept]
    | with_reducible refine (onPrimary_ho (fun _ => ?_)).trans ?_
    | split
    | dsimp only
theorem sanitizeEnds_kept (s : State) :
    (sanitizeEnds s).kept lv = s.kept lv := by
  unfold sanitizeEnds
  repeat' first
    | with_reducible rfl | simp only [kept_ite, kept_snd_ite, ite_self, kept_fold, kept_mk] | split | dsimp only
theorem execSanitizeCryptoErase_kept (slot : Fin 4096) (s : State) :
    ∀ t, execSanitizeCryptoErase slot s = .next t → t.kept false = s.kept false := by
  intro t h
  unfold execSanitizeCryptoErase at h
  injection h with h
  subst h
  repeat' first
    | with_reducible rfl | simp only [startSanitize_kept] | dsimp only
theorem execSanitizeOverwrite_kept (slot : Fin 4096) (passes : BitVec 4) (pattern : BitVec 32) (invert : Bool) (s : State) :
    ∀ t, execSanitizeOverwrite slot passes pattern invert s = .next t → t.kept false = s.kept false := by
  intro t h
  unfold execSanitizeOverwrite at h
  injection h with h
  subst h
  repeat' first
    | with_reducible rfl | simp only [kept_ite, kept_snd_ite, ite_self, startSanitize_kept] | split | dsimp only
theorem execSecurityProtocolList_kept (slot : Fin 4096) (s : State) :
    ∀ t, execSecurityProtocolList slot s = .next t → t.kept lv = s.kept lv := by
  intro t h
  unfold execSecurityProtocolList at h
  injection h with h
  subst h
  repeat' first
    | with_reducible rfl | simp only [implies_true, State.reply_kept, endWith_kept, onAdmin_kept]
    | with_reducible refine (onAdmin_ho (fun _ _ => ?_)).trans ?_ | dsimp only
theorem execSecurityCertChain_kept (slot : Fin 4096) (s : State) :
    ∀ t, execSecurityCertChain slot s = .next t → t.kept lv = s.kept lv := by
  intro t h
  unfold execSecurityCertChain at h
  injection h with h
  subst h
  repeat' first
    | with_reducible rfl
    | simp only [implies_true, kept_fold, kept_mk, State.drawn_kept, State.reply_kept, endWith_kept, onAdmin_kept]
    | with_reducible refine (onAdmin_ho (fun _ _ => ?_)).trans ?_
    | with_reducible refine (kept_of_eq ‹_›).trans ?_ | with_reducible refine (kept_of_eq3 ‹_›).trans ?_ | split
    | dsimp only
theorem execSecurityAttestReport_kept (slot : Fin 4096) (nonce : BitVec 256) (s : State) :
    ∀ t, execSecurityAttestReport slot nonce s = .next t → t.kept lv = s.kept lv := by
  intro t h
  unfold execSecurityAttestReport at h
  injection h with h
  subst h
  repeat' first
    | with_reducible rfl
    | simp only [implies_true, kept_ite, kept_snd_ite, ite_self, kept_fold, kept_mk, State.drawn_kept, State.reply_kept, endCmd_kept, endWith_kept, onAdmin_kept]
    | with_reducible refine (onAdmin_ho (fun _ _ => ?_)).trans ?_
    | with_reducible refine (kept_of_eq ‹_›).trans ?_ | with_reducible refine (kept_of_eq3 ‹_›).trans ?_ | split
    | dsimp only
theorem execSecurityUnlockNonce_kept (slot : Fin 4096) (s : State) :
    ∀ t, execSecurityUnlockNonce slot s = .next t → t.kept lv = s.kept lv := by
  intro t h
  unfold execSecurityUnlockNonce at h
  injection h with h
  subst h
  repeat' first
    | with_reducible rfl | simp only [implies_true, State.reply_kept, endWith_kept, onAdmin_kept]
    | with_reducible refine (onAdmin_ho (fun _ _ => ?_)).trans ?_ | dsimp only
end Sys2Proof.Machine
end

