-- ==== Sys2Proof/Laws/KeptCache.lean ====
section
/-! SUPPORT. Frame laws of Machine/Cache.lean: each operation and command there leaves the fuses and the queue
as they are, and the stores too where the law says so of every level. -/

namespace Sys2Proof.Machine

open Sys2Proof

set_option maxRecDepth 4000
set_option linter.all false

variable {lv : Bool}

theorem State.setL2Line_kept (s : State) (k : Nat) (v : Option L2Line) :
    (State.setL2Line s k v).kept false = s.kept false := by
  unfold State.setL2Line
  repeat' first
    | with_reducible rfl | simp only [kept_fold0, kept_mk0] | dsimp only
theorem l2Put_kept (s : State) (x : L2Line) (poison : Bool) :
    (l2Put s x poison).kept false = s.kept false := by
  unfold l2Put
  repeat' first
    | with_reducible rfl | simp only [wholeWrite_kept] | dsimp only
theorem l2WriteBack_kept (s : State) (k : Nat) :
    (l2WriteBack s k).kept false = s.kept false := by
  unfold l2WriteBack
  repeat' first
    | with_reducible rfl
    | simp only [kept_ite, kept_snd_ite, ite_self, kept_fold0, kept_mk0, State.setL2Line_kept, l2Put_kept]
    | with_reducible refine (kept_of_eq ‹_›).trans ?_ | with_reducible refine (kept_of_eq3 ‹_›).trans ?_ | split
    | dsimp only
theorem l2Count_kept (s : State) (F : Fld) :
    (l2Count s F).kept lv = s.kept lv := by
  unfold l2Count
  repeat' first
    | with_reducible rfl | simp only [State.bump_kept, raiseIf_kept] | dsimp only
theorem l2Fault_kept (s : State) (k : Nat) (bad : List Nat) :
    (l2Fault s k bad).kept false = s.kept false := by
  unfold l2Fault
  repeat' first
    | with_reducible rfl
    | simp only [implies_true, kept_ite, kept_snd_ite, ite_self, kept_fold0, kept_mk0, foldl_kept, foldl_snd_kept, State.bump_kept, State.put_kept, l2Put_kept, pageFault_kept]
    | with_reducible refine (foldl_kept _ (fun _ _ => ?_) _ _).trans ?_
    | with_reducible refine (foldl_snd_kept _ (fun _ _ => ?_) _ _).trans ?_
    | with_reducible refine (kept_of_eq ‹_›).trans ?_ | with_reducible refine (kept_of_eq3 ‹_›).trans ?_ | split
    | dsimp only
theorem l2Victim_kept (c a : List Nat) (f : Nat) (s : State) : (l2Victim c a f s).2.kept false = s.kept false := by
  induction f generalizing s with
  | zero => unfold l2Victim; repeat' first
            | with_reducible rfl
            | simp only [implies_true, kept_fold0, kept_mk0, foldl_kept, foldl_snd_kept, State.setL2Line_kept]
            | with_reducible refine (foldl_kept _ (fun _ _ => ?_) _ _).trans ?_
            | with_reducible refine (foldl_snd_kept _ (fun _ _ => ?_) _ _).trans ?_
            | with_reducible refine (kept_of_eq ‹_›).trans ?_ | with_reducible refine (kept_of_eq3 ‹_›).trans ?_ | split
            | dsimp only
  | succ n ih => unfold l2Victim; repeat' first
            | with_reducible rfl
            | simp only [implies_true, kept_fold0, kept_mk0, foldl_kept, foldl_snd_kept, ih, State.setL2Line_kept]
            | with_reducible refine (foldl_kept _ (fun _ _ => ?_) _ _).trans ?_
            | with_reducible refine (foldl_snd_kept _ (fun _ _ => ?_) _ _).trans ?_
            | with_reducible refine (kept_of_eq ‹_›).trans ?_ | with_reducible refine (kept_of_eq3 ‹_›).trans ?_ | split
            | dsimp only
theorem l2Victim_some {c a : List Nat} {f : Nat} {s t : State} {o : Option Nat} (h : l2Victim c a f s = (o, t)) :
    t.kept false = s.kept false := by
  rw [← l2Victim_kept c a f s, h]
theorem l2Fill_kept (s : State) (k line age : Nat) :
    (l2Fill s k line age).kept false = s.kept false := by
  unfold l2Fill
  repeat' first
    | with_reducible rfl | simp only [kept_fold0, kept_mk0, State.setL2Line_kept, bufGranules_kept]
    | with_reducible refine (kept_of_eq ‹_›).trans ?_ | with_reducible refine (kept_of_eq3 ‹_›).trans ?_ | split
    | dsimp only
theorem l2Direct_kept (s : State) (a n : Nat) (w : Option (List Nat)) (pre : Bool) :
    (l2Direct s a n w pre).kept false = s.kept false := by
  unfold l2Direct
  repeat' first
    | with_reducible rfl
    | simp only [kept_ite, kept_snd_ite, ite_self, kept_fold0, kept_mk0, State.reply_kept, memRead_kept, memWrite_kept]
    | with_reducible refine (kept_of_eq ‹_›).trans ?_ | with_reducible refine (kept_of_eq3 ‹_›).trans ?_ | split
    | dsimp only
theorem l2Load_kept (s : State) (x : L2Line) (a n : Nat) (pre : Bool) :
    (l2Load s x a n pre).kept false = s.kept false := by
  unfold l2Load
  repeat' first
    | with_reducible rfl | simp only [kept_ite, kept_snd_ite, ite_self, State.reply_kept, consumePoison_kept]
    | split | dsimp only
theorem l2Store_kept (s : State) (k : Nat) (x : L2Line) (a : Nat) (bs : List Nat) :
    (l2Store s k x a bs).kept false = s.kept false := by
  unfold l2Store
  repeat' first
    | with_reducible rfl
    | simp only [kept_ite, kept_snd_ite, ite_self, kept_fold0, kept_mk0, State.reply_kept, State.setL2Line_kept, l2Put_kept]
    | split | dsimp only
theorem l2Hit_kept (s : State) (k : Nat) (x : L2Line) (a n : Nat) (w : Option (List Nat)) (pre : Bool) :
    (l2Hit s k x a n w pre).kept false = s.kept false := by
  unfold l2Hit
  repeat' first
    | with_reducible rfl | simp only [kept_fold0, kept_mk0, State.setL2Line_kept, l2Load_kept, l2Store_kept]
    | with_reducible refine (kept_of_eq ‹_›).trans ?_ | with_reducible refine (kept_of_eq3 ‹_›).trans ?_ | split
    | dsimp only
theorem l2Miss_kept (s : State) (a n : Nat) (w : Option (List Nat)) (pre : Bool) (bad : List Nat) :
    (l2Miss s a n w pre bad).kept false = s.kept false := by
  unfold l2Miss
  repeat' first
    | with_reducible rfl
    | simp only [kept_ite, kept_snd_ite, ite_self, kept_fold0, kept_mk0, State.bump_kept, State.setL2Line_kept, l2Direct_kept, l2Fault_kept, l2Fill_kept, l2Load_kept, l2Store_kept, l2Victim_kept, l2WriteBack_kept]
    | with_reducible refine (l2Victim_some ‹_›).trans ?_ | with_reducible refine (kept_of_eq ‹_›).trans ?_
    | with_reducible refine (kept_of_eq3 ‹_›).trans ?_ | split | dsimp only
theorem execL2Access_kept (addr : BitVec 38) (n : Nat) (w : Option (List Byte)) (pre : Bool) (l1 : Bool) (bad : List Nat) (s : State) :
    ∀ t, execL2Access addr n w pre l1 bad s = .next t → t.kept false = s.kept false := by
  intro t h
  unfold execL2Access at h
  injection h with h
  subst h
  repeat' first
    | with_reducible rfl
    | simp only [kept_ite, kept_snd_ite, ite_self, kept_fold0, kept_mk0, State.bump_kept, State.put_kept, State.reply_kept, consumePoison_kept, l2Count_kept, l2Direct_kept, l2Fault_kept, l2Fill_kept, l2Hit_kept, l2Miss_kept]
    | with_reducible refine (kept_of_eq ‹_›).trans ?_ | with_reducible refine (kept_of_eq3 ‹_›).trans ?_ | split
    | dsimp only
theorem l2PreloadWrite_kept (q : Req) (w : Word) (s : State) :
    (l2PreloadWrite q w s).kept false = s.kept false := by
  unfold l2PreloadWrite
  repeat' first
    | with_reducible rfl
    | simp only [kept_ite, kept_snd_ite, ite_self, kept_fold0, kept_mk0, State.put_kept, plainWrite_kept, raise_kept]
    | split | dsimp only
theorem execL2PreloadStart_kept (q : Req) (w : BitVec 32) (s : State) :
    ∀ t, execL2PreloadStart q w s = .next t → t.kept false = s.kept false := by
  intro t h
  unfold execL2PreloadStart at h
  injection h with h
  subst h
  repeat' first
    | with_reducible rfl | simp only [implies_true, guarded_kept, l2PreloadWrite_kept]
    | with_reducible refine (guarded_ho (fun _ => ?_)).trans ?_ | dsimp only
theorem l2PreloadLines_kept (w n l : Nat) (s : State) : (l2PreloadLines w n l s).2.kept false = s.kept false := by
  induction n generalizing l s with
  | zero => unfold l2PreloadLines; repeat' first
            | with_reducible rfl
            | simp only [kept_ite, kept_snd_ite, ite_self, kept_fold0, kept_mk0, State.setL2Line_kept, l2Fill_kept, l2Victim_kept, l2WriteBack_kept]
            | with_reducible refine (l2Victim_some ‹_›).trans ?_ | with_reducible refine (kept_of_eq ‹_›).trans ?_
            | with_reducible refine (kept_of_eq3 ‹_›).trans ?_ | split | dsimp only
  | succ n ih => unfold l2PreloadLines; repeat' first
            | with_reducible rfl
            | simp only [kept_ite, kept_snd_ite, ite_self, kept_fold0, kept_mk0, ih, State.setL2Line_kept, l2Fill_kept, l2Victim_kept, l2WriteBack_kept]
            | with_reducible refine (l2Victim_some ‹_›).trans ?_ | with_reducible refine (kept_of_eq ‹_›).trans ?_
            | with_reducible refine (kept_of_eq3 ‹_›).trans ?_ | split | dsimp only
theorem execL2PreloadComplete_kept (s : State) :
    ∀ t, execL2PreloadComplete s = .next t → t.kept false = s.kept false := by
  intro t h
  unfold execL2PreloadComplete at h
  injection h with h
  subst h
  repeat' first
    | with_reducible rfl
    | simp only [kept_ite, kept_snd_ite, ite_self, kept_fold0, kept_mk0, State.put_kept, l2PreloadLines_kept, raise_kept]
    | with_reducible refine (kept_of_eq ‹_›).trans ?_ | with_reducible refine (kept_of_eq3 ‹_›).trans ?_ | split
    | dsimp only
theorem l2MaintWrite_kept (q : Req) (w : Word) (s : State) :
    (l2MaintWrite q w s).kept false = s.kept false := by
  unfold l2MaintWrite
  repeat' first
    | with_reducible rfl
    | simp only [kept_ite, kept_snd_ite, ite_self, kept_fold0, kept_mk0, State.put_kept, plainWrite_kept]
    | split | dsimp only
theorem execL2CleanAll_kept (q : Req) (w : BitVec 32) (s : State) :
    ∀ t, execL2CleanAll q w s = .next t → t.kept false = s.kept false := by
  intro t h
  unfold execL2CleanAll at h
  injection h with h
  subst h
  repeat' first
    | with_reducible rfl | simp only [implies_true, guarded_kept, l2MaintWrite_kept]
    | with_reducible refine (guarded_ho (fun _ => ?_)).trans ?_ | dsimp only
theorem execL2Clean_kept (q : Req) (w : BitVec 32) (s : State) :
    ∀ t, execL2Clean q w s = .next t → t.kept false = s.kept false := by
  intro t h
  unfold execL2Clean at h
  injection h with h
  subst h
  repeat' first
    | with_reducible rfl | simp only [implies_true, guarded_kept, l2MaintWrite_kept]
    | with_reducible refine (guarded_ho (fun _ => ?_)).trans ?_ | dsimp only
theorem execL2Invalidate_kept (q : Req) (w : BitVec 32) (s : State) :
    ∀ t, execL2Invalidate q w s = .next t → t.kept false = s.kept false := by
  intro t h
  unfold execL2Invalidate at h
  injection h with h
  subst h
  repeat' first
    | with_reducible rfl | simp only [implies_true, guarded_kept, l2MaintWrite_kept]
    | with_reducible refine (guarded_ho (fun _ => ?_)).trans ?_ | dsimp only
theorem execL2CleanInvalidate_kept (q : Req) (w : BitVec 32) (s : State) :
    ∀ t, execL2CleanInvalidate q w s = .next t → t.kept false = s.kept false := by
  intro t h
  unfold execL2CleanInvalidate at h
  injection h with h
  subst h
  repeat' first
    | with_reducible rfl | simp only [implies_true, guarded_kept, l2MaintWrite_kept]
    | with_reducible refine (guarded_ho (fun _ => ?_)).trans ?_ | dsimp only
theorem execL2MaintComplete_kept (s : State) :
    ∀ t, execL2MaintComplete s = .next t → t.kept false = s.kept false := by
  intro t h
  unfold execL2MaintComplete at h
  injection h with h
  subst h
  repeat' first
    | with_reducible rfl
    | simp only [implies_true, kept_ite, kept_snd_ite, ite_self, kept_fold0, kept_mk0, foldl_kept, foldl_snd_kept, State.put_kept, State.setL2Line_kept, l2WriteBack_kept, raise_kept]
    | with_reducible refine (foldl_kept _ (fun _ _ => ?_) _ _).trans ?_
    | with_reducible refine (foldl_snd_kept _ (fun _ _ => ?_) _ _).trans ?_
    | with_reducible refine (kept_of_eq ‹_›).trans ?_ | with_reducible refine (kept_of_eq3 ‹_›).trans ?_ | split
    | dsimp only
theorem l2BeginDrain_kept (s : State) :
    (l2BeginDrain s).kept lv = s.kept lv := by
  unfold l2BeginDrain
  repeat' first
    | with_reducible rfl | simp only [kept_ite, kept_snd_ite, ite_self, State.put_kept] | split | dsimp only
theorem l2Empty_kept (s : State) :
    (l2Empty s).kept false = s.kept false := by
  unfold l2Empty
  repeat' first
    | with_reducible rfl
    | simp only [implies_true, kept_fold0, kept_mk0, foldl_kept, foldl_snd_kept, State.put_kept, l2WriteBack_kept]
    | with_reducible refine (foldl_kept _ (fun _ _ => ?_) _ _).trans ?_
    | with_reducible refine (foldl_snd_kept _ (fun _ _ => ?_) _ _).trans ?_ | dsimp only
theorem execL2DrainComplete_kept (s : State) :
    ∀ t, execL2DrainComplete s = .next t → t.kept false = s.kept false := by
  intro t h
  unfold execL2DrainComplete at h
  injection h with h
  subst h
  repeat' first
    | with_reducible rfl
    | simp only [id_eq, implies_true, kept_ite, kept_snd_ite, ite_self, kept_fold0, kept_mk0, foldl_kept, foldl_snd_kept, l2Empty_kept, pageOff_kept, raise_kept, setPageState_kept]
    | split
    | dsimp only
theorem l2LockWrite_kept (q : Req) (w : Word) (s : State) :
    (l2LockWrite q w s).kept lv = s.kept lv := by
  unfold l2LockWrite
  repeat' first
    | with_reducible rfl | simp only [kept_ite, kept_snd_ite, ite_self, plainWrite_kept] | split | dsimp only
theorem l2cWrite_kept (q : Req) (off : Nat) (w : Word) (s : State) :
    (l2cWrite q off w s).kept false = s.kept false := by
  unfold l2cWrite
  repeat' first
    | with_reducible rfl
    | simp only [kept_ite, kept_snd_ite, ite_self, l2LockWrite_kept, l2MaintWrite_kept, l2PreloadWrite_kept, plainWrite_kept]
    | split | dsimp only
end Sys2Proof.Machine
end

