-- ==== Sys2Proof/Laws/KeptDmc.lean ====
section
/-! SUPPORT. Frame laws of Machine/Dmc.lean: each operation and command there leaves the fuses and the queue
as they are, and the stores too where the law says so of every level. -/

namespace Sys2Proof.Machine

open Sys2Proof

set_option maxRecDepth 4000
set_option linter.all false

variable {lv : Bool}

theorem softErrors_kept (s : State) (l : List (Nat × BitVec 288)) :
    (softErrors s l).kept false = s.kept false := by
  unfold softErrors
  repeat' first
    | with_reducible rfl
    | simp only [implies_true, kept_fold0, kept_mk0, foldl_kept, foldl_snd_kept, State.setDram_kept]
    | with_reducible refine (foldl_kept _ (fun _ _ => ?_) _ _).trans ?_
    | with_reducible refine (foldl_snd_kept _ (fun _ _ => ?_) _ _).trans ?_ | dsimp only
theorem beyondRead_kept (s : State) (c : Consumer) (n : Nat) :
    (beyondRead s c n).kept lv = s.kept lv := by
  unfold beyondRead
  repeat' first
    | with_reducible rfl
    | simp only [id_eq, implies_true, kept_ite, kept_snd_ite, ite_self, kept_fold, kept_mk, foldl_kept, foldl_snd_kept, State.reply_kept]
    | split
    | dsimp only
theorem execBufferRead_kept (c : Consumer) (addr : BitVec 44) (n : Nat) (soft : List (Nat × BitVec 288)) (s : State) :
    ∀ t, execBufferRead c addr n soft s = .next t → t.kept false = s.kept false := by
  intro t h
  unfold execBufferRead at h
  injection h with h
  subst h
  repeat' first
    | with_reducible rfl
    | simp only [id_eq, implies_true, kept_ite, kept_snd_ite, ite_self, kept_fold0, kept_mk0, foldl_kept, foldl_snd_kept, State.reply_kept, beyondRead_kept, memRead_kept, softErrors_kept]
    | split
    | dsimp only
theorem execMergeFlushTimeout_kept (s : State) :
    ∀ t, execMergeFlushTimeout s = .next t → t.kept false = s.kept false := by
  intro t h
  unfold execMergeFlushTimeout at h
  injection h with h
  subst h
  repeat' first
    | with_reducible rfl | simp only [kept_fold0, kept_mk0, flushEntry_kept]
    | with_reducible refine (kept_of_eq ‹_›).trans ?_ | with_reducible refine (kept_of_eq3 ‹_›).trans ?_ | split
    | dsimp only
theorem mergeCtlWrite_kept (q : Req) (w : Word) (s : State) :
    (mergeCtlWrite q w s).kept false = s.kept false := by
  unfold mergeCtlWrite
  repeat' first
    | with_reducible rfl | simp only [kept_ite, kept_snd_ite, ite_self, flushMerge_kept, plainWrite_kept]
    | split | dsimp only
theorem execMergeFlush_kept (q : Req) (w : BitVec 32) (s : State) :
    ∀ t, execMergeFlush q w s = .next t → t.kept false = s.kept false := by
  intro t h
  unfold execMergeFlush at h
  injection h with h
  subst h
  repeat' first
    | with_reducible rfl | simp only [implies_true, guarded_kept, mergeCtlWrite_kept]
    | with_reducible refine (guarded_ho (fun _ => ?_)).trans ?_ | dsimp only
theorem bufWrite_kept (q : Req) (off : Nat) (w : Word) (s : State) :
    (bufWrite q off w s).kept false = s.kept false := by
  unfold bufWrite
  repeat' first
    | with_reducible rfl
    | simp only [id_eq, implies_true, kept_ite, kept_snd_ite, ite_self, kept_fold0, kept_mk0, foldl_kept, foldl_snd_kept, mergeCtlWrite_kept, plainWrite_kept, writeDirectory_kept]
    | split
    | dsimp only
theorem scrubGranule_kept (s : State) (g : Nat) :
    (scrubGranule s g).kept false = s.kept false := by
  unfold scrubGranule
  repeat' first
    | with_reducible rfl | simp only [kept_ite, kept_snd_ite, ite_self, putGranule_kept, readGranule_kept]
    | split | dsimp only
theorem execScrubStep_kept (soft : BitVec 288) (s : State) :
    ∀ t, execScrubStep soft s = .next t → t.kept false = s.kept false := by
  intro t h
  unfold execScrubStep at h
  injection h with h
  subst h
  repeat' first
    | with_reducible rfl
    | simp only [kept_ite, kept_snd_ite, ite_self, State.put_kept, raise_kept, scrubGranule_kept, softErrors_kept]
    | split | dsimp only
theorem execBucketLeak_kept (bucket : Fin 3) (s : State) :
    ∀ t, execBucketLeak bucket s = .next t → t.kept lv = s.kept lv := by
  intro t h
  unfold execBucketLeak at h
  injection h with h
  subst h
  repeat' first
    | with_reducible rfl
    | simp only [id_eq, implies_true, kept_ite, kept_snd_ite, ite_self, kept_fold, kept_mk, foldl_kept, foldl_snd_kept, State.put_kept]
    | split
    | dsimp only
theorem flipCtlWrite_kept (q : Req) (w : Word) (s : State) :
    (flipCtlWrite q w s).kept lv = s.kept lv := by
  unfold flipCtlWrite
  repeat' first
    | with_reducible rfl | simp only [kept_ite, kept_snd_ite, ite_self, State.put_kept, plainWrite_kept] | split
    | dsimp only
theorem execDmcFlipArm_kept (q : Req) (w : BitVec 32) (s : State) :
    ∀ t, execDmcFlipArm q w s = .next t → t.kept lv = s.kept lv := by
  intro t h
  unfold execDmcFlipArm at h
  injection h with h
  subst h
  repeat' first
    | with_reducible rfl | simp only [implies_true, flipCtlWrite_kept, guarded_kept]
    | with_reducible refine (guarded_ho (fun _ => ?_)).trans ?_ | dsimp only
theorem testCtlWrite_kept (q : Req) (w : Word) (s : State) :
    (testCtlWrite q w s).kept false = s.kept false := by
  unfold testCtlWrite
  repeat' first
    | with_reducible rfl
    | simp only [kept_ite, kept_snd_ite, ite_self, kept_fold0, kept_mk0, State.put_kept, State.setDram_kept, plainWrite_kept]
    | split | dsimp only
theorem execBufferTestStart_kept (q : Req) (w : BitVec 32) (s : State) :
    ∀ t, execBufferTestStart q w s = .next t → t.kept false = s.kept false := by
  intro t h
  unfold execBufferTestStart at h
  injection h with h
  subst h
  repeat' first
    | with_reducible rfl | simp only [implies_true, guarded_kept, testCtlWrite_kept]
    | with_reducible refine (guarded_ho (fun _ => ?_)).trans ?_ | dsimp only
theorem fillMemory_kept (s : State) (f : Fill) :
    (fillMemory s f).kept false = s.kept false := by
  unfold fillMemory
  repeat' first
    | with_reducible rfl | simp only [kept_fold0, kept_mk0, State.setDram_kept] | dsimp only
theorem testEnds_kept (s : State) (code : Nat) (fail : Option (Nat × Nat)) :
    (testEnds s code fail).kept false = s.kept false := by
  unfold testEnds
  repeat' first
    | with_reducible rfl | simp only [kept_fold0, kept_mk0, State.put_kept, fillMemory_kept]
    | with_reducible refine (kept_of_eq ‹_›).trans ?_ | with_reducible refine (kept_of_eq3 ‹_›).trans ?_ | split
    | dsimp only
theorem execBufferTestComplete_kept (fail : Option (Fin 3 × BitVec 28)) (s : State) :
    ∀ t, execBufferTestComplete fail s = .next t → t.kept false = s.kept false := by
  intro t h
  unfold execBufferTestComplete at h
  injection h with h
  subst h
  repeat' first
    | with_reducible rfl | simp only [kept_ite, kept_snd_ite, ite_self, State.put_kept, testEnds_kept] | split
    | dsimp only
theorem execDramTrainingComplete_kept (ok : BitVec 2) (s : State) :
    ∀ t, execDramTrainingComplete ok s = .next t → t.kept lv = s.kept lv := by
  intro t h
  unfold execDramTrainingComplete at h
  injection h with h
  subst h
  repeat' first
    | with_reducible rfl | simp only [State.put_kept, raiseIf_kept] | dsimp only
theorem execDramRetrain_kept (channel : Fin 2) (ok : Bool) (s : State) :
    ∀ t, execDramRetrain channel ok s = .next t → t.kept lv = s.kept lv := by
  intro t h
  unfold execDramRetrain at h
  injection h with h
  subst h
  repeat' first
    | with_reducible rfl | simp only [kept_ite, kept_snd_ite, ite_self, State.put_kept, raiseIf_kept] | split
    | dsimp only
theorem execDramRefreshRateChange_kept (channel : Fin 2) (rate : Fin 3) (s : State) :
    ∀ t, execDramRefreshRateChange channel rate s = .next t → t.kept false = s.kept false := by
  intro t h
  unfold execDramRefreshRateChange at h
  injection h with h
  subst h
  repeat' first
    | with_reducible rfl
    | simp only [implies_true, kept_fold0, kept_mk0, foldl_kept, foldl_snd_kept, State.put_kept, State.setDram_kept, raiseIf_kept]
    | with_reducible refine (foldl_kept _ (fun _ _ => ?_) _ _).trans ?_
    | with_reducible refine (foldl_snd_kept _ (fun _ _ => ?_) _ _).trans ?_ | dsimp only
theorem dmcEnable_kept (s : State) :
    (dmcEnable s).kept false = s.kept false := by
  unfold dmcEnable
  repeat' first
    | with_reducible rfl
    | simp only [kept_ite, kept_snd_ite, ite_self, kept_fold0, kept_mk0, State.put_kept, State.setDram_kept]
    | with_reducible refine (kept_of_eq ‹_›).trans ?_ | with_reducible refine (kept_of_eq3 ‹_›).trans ?_ | split
    | dsimp only
theorem dmcWrite_kept (q : Req) (off : Nat) (w : Word) (s : State) :
    (dmcWrite q off w s).kept false = s.kept false := by
  unfold dmcWrite
  repeat' first
    | with_reducible rfl
    | simp only [kept_ite, kept_snd_ite, ite_self, State.put_kept, flipCtlWrite_kept, plainWrite_kept, testCtlWrite_kept]
    | split | dsimp only
end Sys2Proof.Machine
end

