-- ==== Sys2Proof/Laws/KeptPowerLoss.lean ====
section
/-! SUPPORT. Frame laws of Machine/PowerLoss.lean: each operation and command there leaves the fuses and the queue
as they are, and the stores too where the law says so of every level. -/

namespace Sys2Proof.Machine

open Sys2Proof

set_option maxRecDepth 4000
set_option linter.all false

variable {lv : Bool}

theorem State.plMap_kept (s : State) (f : Pl → Pl) :
    (State.plMap s f).kept lv = s.kept lv := by
  unfold State.plMap
  repeat' first
    | with_reducible rfl | simp only [kept_fold, kept_mk, State.schMap_kept] | dsimp only
theorem plStart_kept (s : State) (test : Bool) :
    (plStart s test).kept false = s.kept false := by
  unfold plStart
  repeat' first
    | with_reducible rfl
    | simp only [implies_true, kept_fold0, kept_mk0, foldl_kept, foldl_snd_kept, State.plMap_kept, flushMerge_kept, lqAbort_kept, raise_kept, setPlState_kept]
    | with_reducible refine (foldl_kept _ (fun _ _ => ?_) _ _).trans ?_
    | with_reducible refine (foldl_snd_kept _ (fun _ _ => ?_) _ _).trans ?_ | dsimp only
theorem plOnPfail_kept (s : State) :
    (plOnPfail s).kept false = s.kept false := by
  unfold plOnPfail
  repeat' first
    | with_reducible rfl
    | simp only [id_eq, implies_true, kept_ite, kept_snd_ite, ite_self, kept_fold0, kept_mk0, foldl_kept, foldl_snd_kept, flushMerge_kept, plStart_kept, retractAll_kept, setPlState_kept]
    | split
    | dsimp only
theorem refugeSeek_kept (s : State) (a : Nat) :
    (refugeSeek s a).kept lv = s.kept lv := by
  unfold refugeSeek
  repeat' first
    | with_reducible rfl
    | simp only [id_eq, implies_true, kept_ite, kept_snd_ite, ite_self, kept_fold, kept_mk, foldl_kept, foldl_snd_kept, State.plMap_kept, State.put_kept, State.setSrv_kept]
    | with_reducible refine (kept_of_eq ‹_›).trans ?_
    | with_reducible refine (kept_of_eq3 ‹_›).trans ?_
    | split
    | dsimp only
theorem refugeSector_kept (s : State) (a psa band : Nat) (bs : List Nat) (marked : Bool) :
    (refugeSector s a psa band bs marked).kept false = s.kept false := by
  unfold refugeSector
  repeat' first
    | with_reducible rfl
    | simp only [id_eq, implies_true, kept_ite, kept_snd_ite, ite_self, kept_fold0, kept_mk0, foldl_kept, foldl_snd_kept, fillsBefore_kept, foldl_kept, trimLater_kept, writeBits_kept, writeFrame_kept, writeTrial_kept]
    | with_reducible refine (foldl_kept _ (fun _ _ => ?_) _ _).trans ?_
    | with_reducible refine (foldl_snd_kept _ (fun _ _ => ?_) _ _).trans ?_
    | split
    | dsimp only
theorem refugeMoved_kept (s : State) (head band n : Nat) :
    (refugeMoved s head band n).kept false = s.kept false := by
  unfold refugeMoved
  repeat' first
    | with_reducible rfl
    | simp only [id_eq, implies_true, kept_ite, kept_snd_ite, ite_self, kept_fold0, kept_mk0, foldl_kept, foldl_snd_kept]
    | split
    | dsimp only
theorem refugeSkip_kept (s : State) (head band psa : Nat) :
    (refugeSkip s head band psa).kept false = s.kept false := by
  unfold refugeSkip
  repeat' first
    | with_reducible rfl
    | simp only [id_eq, implies_true, kept_ite, kept_snd_ite, ite_self, kept_fold0, kept_mk0, foldl_kept, foldl_snd_kept, appendSkip_kept, readBand_kept]
    | with_reducible refine (kept_of_eq ‹_›).trans ?_
    | with_reducible refine (kept_of_eq3 ‹_›).trans ?_
    | split
    | dsimp only
theorem refugePut_some {bs : List Nat} {m : Bool} {f : Nat} {p p' : RefugePlace} {s t : State}
    (h : refugePut bs m f p s = some (p', t)) : t.kept false = s.kept false := by
  induction f generalizing p s with
  | zero => unfold refugePut at h; cases h
  | succ n ih =>
    unfold refugePut at h
    dsimp only at h
    split at h
    · cases h
    · split at h
      · split at h
        · refine (ih h).trans ?_; repeat' first
            | with_reducible rfl
            | simp only [kept_ite, kept_snd_ite, ite_self, kept_fold0, kept_mk0, refugeSector_kept, translateBand_kept, refugeMoved_kept, refugeSkip_kept]
            | with_reducible refine (kept_of_eq ‹_›).trans ?_ | with_reducible refine (kept_of_eq3 ‹_›).trans ?_ | split
            | dsimp only
        · cases h; repeat' first
            | with_reducible rfl
            | simp only [kept_ite, kept_snd_ite, ite_self, kept_fold0, kept_mk0, refugeSector_kept, translateBand_kept, refugeMoved_kept, refugeSkip_kept]
            | with_reducible refine (kept_of_eq ‹_›).trans ?_ | with_reducible refine (kept_of_eq3 ‹_›).trans ?_ | split
            | dsimp only
      · refine (ih h).trans ?_; repeat' first
            | with_reducible rfl
            | simp only [kept_ite, kept_snd_ite, ite_self, kept_fold0, kept_mk0, refugeSector_kept, translateBand_kept, refugeMoved_kept, refugeSkip_kept]
            | with_reducible refine (kept_of_eq ‹_›).trans ?_ | with_reducible refine (kept_of_eq3 ‹_›).trans ?_ | split
            | dsimp only
theorem refugeData_kept (l : List Nat) (p : RefugePlace) (s : State) : (refugeData l p s).2.2.kept false = s.kept false := by
  induction l generalizing p s with
  | nil => unfold refugeData; repeat' first
            | with_reducible rfl | simp only [kept_fold0, kept_mk0, memRead_kept]
            | with_reducible refine (refugePut_some ‹_›).trans ?_ | with_reducible refine (kept_of_eq ‹_›).trans ?_
            | with_reducible refine (kept_of_eq3 ‹_›).trans ?_ | split | dsimp only
  | cons x l ih => unfold refugeData; repeat' first
            | with_reducible rfl | simp only [kept_fold0, kept_mk0, ih, memRead_kept]
            | with_reducible refine (refugePut_some ‹_›).trans ?_ | with_reducible refine (kept_of_eq ‹_›).trans ?_
            | with_reducible refine (kept_of_eq3 ‹_›).trans ?_ | split | dsimp only
theorem refugeRecords_kept (f n : Nat) (l : List Nat) (p : RefugePlace) (s : State) : (refugeRecords f n l p s).2.2.kept false = s.kept false := by
  induction f generalizing n l p s with
  | zero => unfold refugeRecords; repeat' first
            | with_reducible rfl | simp only [kept_ite, kept_snd_ite, ite_self, kept_fold0, kept_mk0, refugeData_kept, markLine_kept]
            | with_reducible refine (foldl_kept _ (fun _ _ => ?_) _ _).trans ?_
            | with_reducible refine (refugePut_some ‹_›).trans ?_ | with_reducible refine (kept_of_eq ‹_›).trans ?_
            | with_reducible refine (kept_of_eq3 ‹_›).trans ?_ | split | dsimp only
  | succ n ih => unfold refugeRecords; repeat' first
            | with_reducible rfl
            | simp only [kept_ite, kept_snd_ite, ite_self, kept_fold0, kept_mk0, ih, foldl_kept, markLine_kept, refugeData_kept, markLine_kept]
            | with_reducible refine (foldl_kept _ (fun _ _ => ?_) _ _).trans ?_
            | with_reducible refine (refugePut_some ‹_›).trans ?_ | with_reducible refine (kept_of_eq ‹_›).trans ?_
            | with_reducible refine (kept_of_eq3 ‹_›).trans ?_ | split | dsimp only
theorem refugeLeft_kept (s : State) (a : Nat) (r : RefugeRun) :
    (refugeLeft s a r).kept false = s.kept false := by
  unfold refugeLeft
  repeat' first
    | with_reducible rfl
    | simp only [id_eq, implies_true, kept_ite, kept_snd_ite, ite_self, kept_fold0, kept_mk0, foldl_kept, foldl_snd_kept, State.schMap_kept, dropTrails_kept]
    | split
    | dsimp only
theorem plWrote_kept (s : State) (a n : Nat) (bad : List Nat) :
    (plWrote s a n bad).kept false = s.kept false := by
  unfold plWrote
  repeat' first
    | with_reducible rfl
    | simp only [id_eq, implies_true, kept_ite, kept_snd_ite, ite_self, kept_fold0, kept_mk0, foldl_kept, foldl_snd_kept, State.plMap_kept, refugeLeft_kept, refugeRecords_kept, retract_kept]
    | with_reducible refine (kept_of_eq ‹_›).trans ?_
    | with_reducible refine (kept_of_eq3 ‹_›).trans ?_
    | split
    | dsimp only
theorem plSettle_kept (s : State) :
    (plSettle s).kept false = s.kept false := by
  unfold plSettle
  repeat' first
    | with_reducible rfl
    | simp only [id_eq, implies_true, kept_ite, kept_snd_ite, ite_self, kept_fold0, kept_mk0, foldl_kept, foldl_snd_kept, State.plMap_kept, nvNext_kept, setPlState_kept]
    | split
    | dsimp only
theorem execPlSeal_kept (s : State) :
    ∀ t, execPlSeal s = .next t → t.kept false = s.kept false := by
  intro t h
  unfold execPlSeal at h
  injection h with h
  subst h
  repeat' first
    | with_reducible rfl
    | simp only [id_eq, implies_true, kept_ite, kept_snd_ite, ite_self, kept_fold0, kept_mk0, foldl_kept, foldl_snd_kept, State.plMap_kept, plSettle_kept, plWrote_kept, refugeSeek_kept, setPlState_kept]
    | with_reducible refine (foldl_kept _ (fun _ _ => ?_) _ _).trans ?_
    | with_reducible refine (foldl_snd_kept _ (fun _ _ => ?_) _ _).trans ?_
    | split
    | dsimp only
theorem execPlRefugeWriteDone_kept (act : Fin 4) (bad : List Nat) (s : State) :
    ∀ t, execPlRefugeWriteDone act bad s = .next t → t.kept false = s.kept false := by
  intro t h
  unfold execPlRefugeWriteDone at h
  injection h with h
  subst h
  repeat' first
    | with_reducible rfl
    | simp only [id_eq, implies_true, kept_ite, kept_snd_ite, ite_self, kept_fold0, kept_mk0, foldl_kept, foldl_snd_kept, plSettle_kept, plWrote_kept]
    | split
    | dsimp only
theorem plFloorStop_kept (written : List Nat) (bad : List (List Nat)) (s : State) :
    (plFloorStop written bad s).kept false = s.kept false := by
  unfold plFloorStop
  repeat' first
    | with_reducible rfl
    | simp only [id_eq, implies_true, kept_ite, kept_snd_ite, ite_self, kept_fold0, kept_mk0, foldl_kept, foldl_snd_kept, State.spnMap_kept, plSettle_kept, plWrote_kept, setPlState_kept]
    | with_reducible refine (foldl_kept _ (fun _ _ => ?_) _ _).trans ?_
    | with_reducible refine (foldl_snd_kept _ (fun _ _ => ?_) _ _).trans ?_
    | split
    | dsimp only
theorem execPlFloorStop_kept (written : List Nat) (bad : List (List Nat)) (s : State) :
    ∀ t, execPlFloorStop written bad s = .next t → t.kept false = s.kept false := by
  intro t h
  unfold execPlFloorStop at h
  injection h with h
  subst h
  repeat' first
    | with_reducible rfl
    | simp only [id_eq, implies_true, kept_ite, kept_snd_ite, ite_self, kept_fold0, kept_mk0, foldl_kept, foldl_snd_kept, plFloorStop_kept]
    | split
    | dsimp only
theorem programIndex_kept (s : State) (w : Nat) :
    (programIndex s w).kept false = s.kept false := by
  unfold programIndex
  repeat' first
    | with_reducible rfl | simp only [implies_true, foldl_kept, foldl_snd_kept, nvProgram_kept]
    | with_reducible refine (foldl_kept _ (fun _ _ => ?_) _ _).trans ?_
    | with_reducible refine (foldl_snd_kept _ (fun _ _ => ?_) _ _).trans ?_ | dsimp only
theorem plEnd_kept (s : State) (ms : Nat) :
    (plEnd s ms).kept false = s.kept false := by
  unfold plEnd
  repeat' first
    | with_reducible rfl
    | simp only [id_eq, implies_true, kept_ite, kept_snd_ite, ite_self, kept_fold0, kept_mk0, foldl_kept, foldl_snd_kept, State.plMap_kept, State.put_kept, plDone_kept, plEvent_kept, schSettle_kept, setPlState_kept]
    | split
    | dsimp only
theorem indexEnd_kept (s : State) :
    (indexEnd s).kept false = s.kept false := by
  unfold indexEnd
  repeat' first
    | with_reducible rfl
    | simp only [id_eq, implies_true, kept_ite, kept_snd_ite, ite_self, kept_fold0, kept_mk0, foldl_kept, foldl_snd_kept, nvEnd_kept]
    | split
    | dsimp only
theorem execRefugeIndexProgram_kept (ms : BitVec 16) (s : State) :
    ∀ t, execRefugeIndexProgram ms s = .next t → t.kept false = s.kept false := by
  intro t h
  unfold execRefugeIndexProgram at h
  injection h with h
  subst h
  repeat' first
    | with_reducible rfl
    | simp only [id_eq, implies_true, kept_ite, kept_snd_ite, ite_self, kept_fold0, kept_mk0, foldl_kept, foldl_snd_kept, indexEnd_kept, plEnd_kept, programIndex_kept]
    | with_reducible refine (kept_of_eq ‹_›).trans ?_
    | with_reducible refine (kept_of_eq3 ‹_›).trans ?_
    | split
    | dsimp only
theorem plCtlWrite_kept (q : Req) (w : Word) (s : State) :
    (plCtlWrite q w s).kept false = s.kept false := by
  unfold plCtlWrite
  repeat' first
    | with_reducible rfl | simp only [kept_ite, kept_snd_ite, ite_self, plStart_kept, plainWrite_kept] | split
    | dsimp only
theorem execPlTestStart_kept (q : Req) (w : BitVec 32) (s : State) :
    ∀ t, execPlTestStart q w s = .next t → t.kept false = s.kept false := by
  intro t h
  unfold execPlTestStart at h
  injection h with h
  subst h
  repeat' first
    | with_reducible rfl | simp only [implies_true, guarded_kept, plCtlWrite_kept]
    | with_reducible refine (guarded_ho (fun _ => ?_)).trans ?_ | dsimp only
theorem schWrite_kept (q : Req) (off : Nat) (w : Word) (s : State) :
    (schWrite q off w s).kept false = s.kept false := by
  unfold schWrite
  repeat' first
    | with_reducible rfl
    | simp only [kept_ite, kept_snd_ite, ite_self, checkHi_kept, fillLanes_kept, plCtlWrite_kept, plainWrite_kept, settleCharge_kept]
    | split | dsimp only
end Sys2Proof.Machine
end

