-- ==== Sys2Proof/Laws/KeptLinks.lean ====
section
/-! SUPPORT. Frame laws of Machine/Links.lean: each operation and command there leaves the fuses and the queue
as they are, and the stores too where the law says so of every level. -/

namespace Sys2Proof.Machine

open Sys2Proof

set_option maxRecDepth 4000
set_option linter.all false

variable {lv : Bool}

theorem setLinkUp_kept (s : State) (n : Nat) (v : Bool) :
    (setLinkUp s n v).kept lv = s.kept lv := by
  unfold setLinkUp
  repeat' first
    | with_reducible rfl | simp only [State.put_kept] | dsimp only
theorem setTraining_kept (s : State) (n : Nat) (v : Bool) :
    (setTraining s n v).kept lv = s.kept lv := by
  unfold setTraining
  repeat' first
    | with_reducible rfl | simp only [State.put_kept] | dsimp only
theorem startTraining_kept (s : State) (n : Nat) :
    (startTraining s n).kept lv = s.kept lv := by
  unfold startTraining
  repeat' first
    | with_reducible rfl | simp only [State.setLink_kept, setTraining_kept] | dsimp only
theorem loseLane_kept (s : State) (n : Nat) :
    (loseLane s n).kept lv = s.kept lv := by
  unfold loseLane
  repeat' first
    | with_reducible rfl | simp only [kept_fold, kept_mk] | dsimp only
theorem waitsLost_kept (s : State) (n : Nat) :
    (waitsLost s n).kept lv = s.kept lv := by
  unfold waitsLost
  repeat' first
    | with_reducible rfl
    | simp only [id_eq, implies_true, kept_ite, kept_snd_ite, ite_self, kept_fold, kept_mk, foldl_kept, foldl_snd_kept, State.reply_kept]
    | split
    | dsimp only
theorem keelLost_kept (s : State) :
    (keelLost s).kept false = s.kept false := by
  unfold keelLost
  repeat' first
    | with_reducible rfl
    | simp only [id_eq, implies_true, kept_ite, kept_snd_ite, ite_self, kept_fold0, kept_mk0, foldl_kept, foldl_snd_kept, State.evrMap_kept, State.nvMap_kept, commitEnd_kept, nvBreak_kept, nvCut_kept, nvsSync_kept, plEnd_kept]
    | with_reducible refine (kept_of_eq ‹_›).trans ?_
    | with_reducible refine (kept_of_eq3 ‹_›).trans ?_
    | split
    | dsimp only
theorem loseCombined_kept (s : State) (die : Nat) :
    (loseCombined s die).kept false = s.kept false := by
  unfold loseCombined
  repeat' first
    | with_reducible rfl
    | simp only [id_eq, implies_true, kept_ite, kept_snd_ite, ite_self, kept_fold0, kept_mk0, foldl_kept, foldl_snd_kept, State.schMap_kept, foldl_kept, releaseKept_kept, stepEight_kept]
    | with_reducible refine (foldl_kept _ (fun _ _ => ?_) _ _).trans ?_
    | with_reducible refine (foldl_snd_kept _ (fun _ _ => ?_) _ _).trans ?_
    | split
    | dsimp only
theorem domAskLost_kept (s : State) (n : Nat) :
    (domAskLost s n).kept lv = s.kept lv := by
  unfold domAskLost
  repeat' first
    | with_reducible rfl
    | simp only [id_eq, implies_true, kept_ite, kept_snd_ite, ite_self, kept_fold, kept_mk, foldl_kept, foldl_snd_kept, State.put_kept]
    | with_reducible refine (kept_of_eq ‹_›).trans ?_
    | with_reducible refine (kept_of_eq3 ‹_›).trans ?_
    | split
    | dsimp only
theorem linkLost_kept (s : State) (n : Nat) :
    (linkLost s n).kept false = s.kept false := by
  unfold linkLost
  repeat' first
    | with_reducible rfl
    | simp only [id_eq, implies_true, kept_ite, kept_snd_ite, ite_self, kept_fold0, kept_mk0, foldl_kept, foldl_snd_kept, State.setLdp_kept, State.setLink_kept, domAskLost_kept, keelLost_kept, loseCombined_kept, loseLane_kept, retractAll_kept, setLinkUp_kept, setTraining_kept, waitsLost_kept]
    | with_reducible refine (foldl_kept _ (fun _ _ => ?_) _ _).trans ?_
    | with_reducible refine (foldl_snd_kept _ (fun _ _ => ?_) _ _).trans ?_
    | split
    | dsimp only
theorem linkDown_kept (s : State) (n level : Nat) :
    (linkDown s n level).kept false = s.kept false := by
  unfold linkDown
  repeat' first
    | with_reducible rfl
    | simp only [id_eq, implies_true, kept_ite, kept_snd_ite, ite_self, kept_fold0, kept_mk0, foldl_kept, foldl_snd_kept, linkLost_kept, raise_kept]
    | split
    | dsimp only
theorem flitFails_kept (s : State) (n : Nat) (toCox : Bool) :
    (flitFails s n toCox).kept lv = s.kept lv := by
  unfold flitFails
  repeat' first
    | with_reducible rfl
    | simp only [kept_ite, kept_snd_ite, ite_self, kept_fold, kept_mk, State.bump_kept, State.setLink_kept, raiseIf_kept, startTraining_kept]
    | split | dsimp only
theorem flitGood_kept (s : State) (n : Nat) (toCox : Bool) (c : FlitClass) (d epoch : Nat) :
    (flitGood s n toCox c d epoch).kept lv = s.kept lv := by
  unfold flitGood
  repeat' first
    | with_reducible rfl
    | simp only [id_eq, implies_true, kept_ite, kept_snd_ite, ite_self, kept_fold, kept_mk, foldl_kept, foldl_snd_kept, State.bump_kept, State.reply_kept, State.setLink_kept, raise_kept]
    | split
    | dsimp only
theorem execFlitReceive_kept (link : Fin 4) (toCox good : Bool) (cls : FlitClass) (dom : Fin 96) (epoch : BitVec 8) (s : State) :
    ∀ t, execFlitReceive link toCox good cls dom epoch s = .next t → t.kept lv = s.kept lv := by
  intro t h
  unfold execFlitReceive at h
  injection h with h
  subst h
  repeat' first
    | with_reducible rfl
    | simp only [id_eq, implies_true, kept_ite, kept_snd_ite, ite_self, kept_fold, kept_mk, foldl_kept, foldl_snd_kept, flitFails_kept, flitGood_kept]
    | split
    | dsimp only
theorem trained_kept (s : State) (n : Nat) :
    (trained s n).kept lv = s.kept lv := by
  unfold trained
  repeat' first
    | with_reducible rfl | simp only [State.setLink_kept, raise_kept, setLinkUp_kept, setTraining_kept]
    | dsimp only
theorem execLinkTrainingFail_kept (link : Fin 4) (s : State) :
    ∀ t, execLinkTrainingFail link s = .next t → t.kept false = s.kept false := by
  intro t h
  unfold execLinkTrainingFail at h
  injection h with h
  subst h
  repeat' first
    | with_reducible rfl
    | simp only [id_eq, implies_true, kept_ite, kept_snd_ite, ite_self, kept_fold0, kept_mk0, foldl_kept, foldl_snd_kept, State.setLink_kept, linkDown_kept]
    | split
    | dsimp only
theorem linkSwitch_kept (old new : Nat) (s : State) (n : Nat) :
    (linkSwitch old new s n).kept false = s.kept false := by
  unfold linkSwitch
  repeat' first
    | with_reducible rfl
    | simp only [id_eq, implies_true, kept_ite, kept_snd_ite, ite_self, kept_fold0, kept_mk0, foldl_kept, foldl_snd_kept, linkDown_kept, startTraining_kept]
    | split
    | dsimp only
theorem brzCtlWrite_kept (q : Req) (w : Word) (s : State) :
    (brzCtlWrite q w s).kept false = s.kept false := by
  unfold brzCtlWrite
  repeat' first
    | with_reducible rfl
    | simp only [id_eq, implies_true, kept_ite, kept_snd_ite, ite_self, kept_fold0, kept_mk0, foldl_kept, foldl_snd_kept, foldl_kept, linkSwitch_kept, plainWrite_kept]
    | with_reducible refine (foldl_kept _ (fun _ _ => ?_) _ _).trans ?_
    | with_reducible refine (foldl_snd_kept _ (fun _ _ => ?_) _ _).trans ?_
    | split
    | dsimp only
theorem execLinkEnable_kept (q : Req) (w : BitVec 32) (s : State) :
    ∀ t, execLinkEnable q w s = .next t → t.kept false = s.kept false := by
  intro t h
  unfold execLinkEnable at h
  injection h with h
  subst h
  repeat' first
    | with_reducible rfl
    | simp only [id_eq, implies_true, kept_ite, kept_snd_ite, ite_self, kept_fold0, kept_mk0, foldl_kept, foldl_snd_kept, brzCtlWrite_kept, guarded_kept]
    | with_reducible refine (guarded_ho (fun _ => ?_)).trans ?_
    | with_reducible refine (guarded_ho (fun _ _ => ?_)).trans ?_
    | split
    | dsimp only
theorem execLinkDisable_kept (q : Req) (w : BitVec 32) (s : State) :
    ∀ t, execLinkDisable q w s = .next t → t.kept false = s.kept false := by
  intro t h
  unfold execLinkDisable at h
  injection h with h
  subst h
  repeat' first
    | with_reducible rfl
    | simp only [id_eq, implies_true, kept_ite, kept_snd_ite, ite_self, kept_fold0, kept_mk0, foldl_kept, foldl_snd_kept, brzCtlWrite_kept, guarded_kept]
    | with_reducible refine (guarded_ho (fun _ => ?_)).trans ?_
    | with_reducible refine (guarded_ho (fun _ _ => ?_)).trans ?_
    | split
    | dsimp only
theorem brzWrite_kept (q : Req) (off : Nat) (w : Word) (s : State) :
    (brzWrite q off w s).kept false = s.kept false := by
  unfold brzWrite
  repeat' first
    | with_reducible rfl
    | simp only [id_eq, implies_true, kept_ite, kept_snd_ite, ite_self, kept_fold0, kept_mk0, foldl_kept, foldl_snd_kept, brzCtlWrite_kept, plainWrite_kept]
    | split
    | dsimp only
end Sys2Proof.Machine
end

