-- ==== Sys2Proof/Laws/KeptSequencer.lean ====
section
/-! SUPPORT. Frame laws of Machine/Sequencer.lean: each operation and command there leaves the fuses and the queue
as they are, and the stores too where the law says so of every level. -/

namespace Sys2Proof.Machine

open Sys2Proof

set_option maxRecDepth 4000
set_option linter.all false

variable {lv : Bool}

theorem countCorrected_kept (s : State) (d : Nat) :
    (countCorrected s d).kept lv = s.kept lv := by
  unfold countCorrected
  repeat' first
    | with_reducible rfl | simp only [State.bump_kept, raiseIf_kept] | dsimp only
theorem readStore_kept (s : State) (u w : Nat) :
    (readStore s u w).2.kept lv = s.kept lv := by
  unfold readStore
  repeat' first
    | with_reducible rfl
    | simp only [kept_ite, kept_snd_ite, ite_self, State.bump_kept, State.drawn_kept, countCorrected_kept]
    | split | dsimp only
theorem disturb_kept (s : State) (u w e : Nat) :
    (disturb s u w e).kept lv = s.kept lv := by
  unfold disturb
  repeat' first
    | with_reducible rfl | simp only [kept_fold, kept_mk, State.setSqr_kept] | dsimp only
theorem setAuth_kept (s : State) (u : Nat) (v : Bool) :
    (setAuth s u v).kept lv = s.kept lv := by
  unfold setAuth
  repeat' first
    | with_reducible rfl | simp only [State.put_kept] | dsimp only
theorem setPc_kept (s : State) (u v : Nat) :
    (setPc s u v).kept lv = s.kept lv := by
  unfold setPc
  repeat' first
    | with_reducible rfl | simp only [State.put_kept] | dsimp only
theorem nextAddress_kept (s0 s : State) (u w : Nat) : (nextAddress s0 s u w).kept false = s.kept false := by
  unfold nextAddress; repeat' first
            | with_reducible rfl
            | simp only [kept_ite, kept_snd_ite, ite_self, kept_fold0, kept_mk0, State.put_kept, State.setSqr_kept, seqFault_kept, setPc_kept]
            | with_reducible refine (kept_of_eq ‹_›).trans ?_ | with_reducible refine (kept_of_eq3 ‹_›).trans ?_ | split
            | dsimp only
theorem countBusy_kept (s : State) (u : Nat) :
    (countBusy s u).kept lv = s.kept lv := by
  unfold countBusy
  repeat' first
    | with_reducible rfl | simp only [kept_fold, kept_mk, State.put_kept, State.setSqr_kept] | dsimp only
theorem safePoint_some {s : State} {u w : Nat} {t : State} (h : safePoint s u w = some t) : t.kept lv = s.kept lv := by
  unfold safePoint at h
  (try dsimp only at h)
  repeat' (first | contradiction | (simp only [Option.map_eq_some_iff] at h; obtain ⟨_, _, h⟩ := h) | split at h)
  all_goals (try cases h)
  all_goals (repeat' first
            | with_reducible rfl
            | simp only [id_eq, kept_ite, kept_snd_ite, ite_self, kept_fold, kept_mk, State.setSqr_kept] | split
            | dsimp only)
theorem fetchRun_kept (s : State) (u e op : Nat) (body : Nat → State → State) (hbody : ∀ (a0 : Nat) (a1 : State), (body a0 a1).kept false = a1.kept false) :
    (fetchRun s u e op body).kept false = s.kept false := by
  unfold fetchRun
  repeat' first
    | with_reducible rfl
    | simp only [kept_ite, kept_snd_ite, ite_self, kept_fold0, kept_mk0, hbody, State.setSqr_kept, disturb_kept, readStore_kept, seqFault_kept, setUnitState_kept]
    | with_reducible refine (safePoint_some ‹_›).trans ?_ | with_reducible refine (kept_of_eq ‹_›).trans ?_
    | with_reducible refine (kept_of_eq3 ‹_›).trans ?_ | split | dsimp only
theorem fetchRun_ho {s : State} {u e op : Nat} {body : Nat → State → State} (hbody : ∀ (a0 : Nat) (a1 : State), (body a0 a1).kept false = a1.kept false) :
    (fetchRun s u e op body).kept false = s.kept false := fetchRun_kept s u e op body hbody
theorem runWord_kept (s : State) (u e op : Nat) (body : Nat → State → State) (hbody : ∀ (a0 : Nat) (a1 : State), (body a0 a1).kept false = a1.kept false) :
    (runWord s u e op body).kept false = s.kept false := by
  unfold runWord
  repeat' first
    | with_reducible rfl
    | simp only [implies_true, kept_ite, kept_snd_ite, ite_self, kept_fold0, kept_mk0, hbody, State.setSqr_kept, countBusy_kept, fetchRun_kept, nextAddress_kept]
    | with_reducible refine (fetchRun_ho (fun _ _ => ?_)).trans ?_ | split | dsimp only
theorem runWord_ho {s : State} {u e op : Nat} {body : Nat → State → State} (hbody : ∀ (a0 : Nat) (a1 : State), (body a0 a1).kept false = a1.kept false) :
    (runWord s u e op body).kept false = s.kept false := runWord_kept s u e op body hbody
theorem execSeqNop_kept (u : Fin 12) (e : BitVec 137) (s : State) :
    ∀ t, execSeqNop u e s = .next t → t.kept false = s.kept false := by
  intro t h
  unfold execSeqNop at h
  injection h with h
  subst h
  repeat' first
    | with_reducible rfl | simp only [implies_true, runWord_kept]
    | with_reducible refine (runWord_ho (fun _ _ => ?_)).trans ?_ | dsimp only
theorem aluWord_kept (s : State) (u e : Nat) (write : Bool) (f : Nat → Nat → State → Nat × Bool × Bool × State) (hf : ∀ (a0 : Nat) (a1 : Nat) (a2 : State), (f a0 a1 a2).2.2.2.kept false = a2.kept false) :
    (aluWord s u e write f).kept false = s.kept false := by
  unfold aluWord
  repeat' first
    | with_reducible rfl
    | simp only [implies_true, kept_ite, kept_snd_ite, ite_self, kept_fold0, kept_mk0, hf, State.setSqr_kept, runWord_kept]
    | with_reducible refine (runWord_ho (fun _ _ => ?_)).trans ?_ | split | dsimp only
theorem aluWord_ho {s : State} {u e : Nat} {write : Bool} {f : Nat → Nat → State → Nat × Bool × Bool × State} (hf : ∀ (a0 : Nat) (a1 : Nat) (a2 : State), (f a0 a1 a2).2.2.2.kept false = a2.kept false) :
    (aluWord s u e write f).kept false = s.kept false := aluWord_kept s u e write f hf
theorem freeCV_kept (r : Nat) (s : State) :
    (freeCV r s).2.2.2.kept lv = s.kept lv := by
  unfold freeCV
  repeat' first
    | with_reducible rfl | simp only [State.drawn_kept] | dsimp only
theorem shiftBy_kept (f : Nat → Nat → Nat) (a b : Nat) (s : State) :
    (shiftBy f a b s).2.2.2.kept lv = s.kept lv := by
  unfold shiftBy
  repeat' first
    | with_reducible rfl | simp only [kept_ite, kept_snd_ite, ite_self, State.drawn_kept, freeCV_kept] | split
    | dsimp only
theorem execAluAdd_kept (u : Fin 12) (e : BitVec 137) (s : State) :
    ∀ t, execAluAdd u e s = .next t → t.kept false = s.kept false := by
  intro t h
  unfold execAluAdd at h
  injection h with h
  subst h
  repeat' first
    | with_reducible rfl | simp only [implies_true, aluWord_kept]
    | with_reducible refine (aluWord_ho (fun _ _ _ => ?_)).trans ?_ | dsimp only
theorem execAluSubtract_kept (u : Fin 12) (e : BitVec 137) (s : State) :
    ∀ t, execAluSubtract u e s = .next t → t.kept false = s.kept false := by
  intro t h
  unfold execAluSubtract at h
  injection h with h
  subst h
  repeat' first
    | with_reducible rfl | simp only [implies_true, State.drawn_kept, aluWord_kept]
    | with_reducible refine (aluWord_ho (fun _ _ _ => ?_)).trans ?_ | dsimp only
theorem execAluAnd_kept (u : Fin 12) (e : BitVec 137) (s : State) :
    ∀ t, execAluAnd u e s = .next t → t.kept false = s.kept false := by
  intro t h
  unfold execAluAnd at h
  injection h with h
  subst h
  repeat' first
    | with_reducible rfl | simp only [implies_true, aluWord_kept, freeCV_kept]
    | with_reducible refine (aluWord_ho (fun _ _ _ => ?_)).trans ?_ | dsimp only
theorem execAluOr_kept (u : Fin 12) (e : BitVec 137) (s : State) :
    ∀ t, execAluOr u e s = .next t → t.kept false = s.kept false := by
  intro t h
  unfold execAluOr at h
  injection h with h
  subst h
  repeat' first
    | with_reducible rfl | simp only [implies_true, aluWord_kept, freeCV_kept]
    | with_reducible refine (aluWord_ho (fun _ _ _ => ?_)).trans ?_ | dsimp only
theorem execAluXor_kept (u : Fin 12) (e : BitVec 137) (s : State) :
    ∀ t, execAluXor u e s = .next t → t.kept false = s.kept false := by
  intro t h
  unfold execAluXor at h
  injection h with h
  subst h
  repeat' first
    | with_reducible rfl | simp only [implies_true, aluWord_kept, freeCV_kept]
    | with_reducible refine (aluWord_ho (fun _ _ _ => ?_)).trans ?_ | dsimp only
theorem execAluShiftLeft_kept (u : Fin 12) (e : BitVec 137) (s : State) :
    ∀ t, execAluShiftLeft u e s = .next t → t.kept false = s.kept false := by
  intro t h
  unfold execAluShiftLeft at h
  injection h with h
  subst h
  repeat' first
    | with_reducible rfl | simp only [implies_true, aluWord_kept, shiftBy_kept]
    | with_reducible refine (aluWord_ho (fun _ _ _ => ?_)).trans ?_ | dsimp only
theorem execAluShiftRight_kept (u : Fin 12) (e : BitVec 137) (s : State) :
    ∀ t, execAluShiftRight u e s = .next t → t.kept false = s.kept false := by
  intro t h
  unfold execAluShiftRight at h
  injection h with h
  subst h
  repeat' first
    | with_reducible rfl | simp only [implies_true, aluWord_kept, shiftBy_kept]
    | with_reducible refine (aluWord_ho (fun _ _ _ => ?_)).trans ?_ | dsimp only
theorem execAluArithShiftRight_kept (u : Fin 12) (e : BitVec 137) (s : State) :
    ∀ t, execAluArithShiftRight u e s = .next t → t.kept false = s.kept false := by
  intro t h
  unfold execAluArithShiftRight at h
  injection h with h
  subst h
  repeat' first
    | with_reducible rfl | simp only [implies_true, aluWord_kept, shiftBy_kept]
    | with_reducible refine (aluWord_ho (fun _ _ _ => ?_)).trans ?_ | dsimp only
theorem execAluCompare_kept (u : Fin 12) (e : BitVec 137) (s : State) :
    ∀ t, execAluCompare u e s = .next t → t.kept false = s.kept false := by
  intro t h
  unfold execAluCompare at h
  injection h with h
  subst h
  repeat' first
    | with_reducible rfl | simp only [implies_true, State.drawn_kept, aluWord_kept]
    | with_reducible refine (aluWord_ho (fun _ _ _ => ?_)).trans ?_ | dsimp only
theorem execMemLoad_kept (u : Fin 12) (e : BitVec 137) (s : State) :
    ∀ t, execMemLoad u e s = .next t → t.kept false = s.kept false := by
  intro t h
  unfold execMemLoad at h
  injection h with h
  subst h
  repeat' first
    | with_reducible rfl
    | simp only [implies_true, kept_ite, kept_snd_ite, ite_self, State.drawn_kept, State.setSqr_kept, runWord_kept]
    | with_reducible refine (runWord_ho (fun _ _ => ?_)).trans ?_ | split | dsimp only
theorem execMemStore_kept (u : Fin 12) (e : BitVec 137) (s : State) :
    ∀ t, execMemStore u e s = .next t → t.kept false = s.kept false := by
  intro t h
  unfold execMemStore at h
  injection h with h
  subst h
  repeat' first
    | with_reducible rfl
    | simp only [implies_true, kept_ite, kept_snd_ite, ite_self, kept_fold0, kept_mk0, State.drawn_kept, State.setSqr_kept, runWord_kept]
    | with_reducible refine (runWord_ho (fun _ _ => ?_)).trans ?_ | split | dsimp only
theorem countLaunch_kept (s : State) (u st : Nat) :
    (countLaunch s u st).kept lv = s.kept lv := by
  unfold countLaunch
  repeat' first
    | with_reducible rfl | simp only [kept_ite, kept_snd_ite, ite_self, State.bump_kept, raiseIf_kept] | split
    | dsimp only
theorem launchGate_kept (s : State) (k : LaunchKind) (n t low phase : Nat) :
    (launchGate s k n t low phase).2.kept false = s.kept false := by
  unfold launchGate
  repeat' first
    | with_reducible rfl
    | simp only [kept_ite, kept_snd_ite, ite_self, kept_fold0, kept_mk0, joinHead_kept, takeTag_kept]
    | with_reducible refine (kept_of_eq ‹_›).trans ?_ | with_reducible refine (kept_of_eq3 ‹_›).trans ?_ | split
    | dsimp only
theorem launchStep_kept (s : State) (a h band low phase : Nat) (unit : Option Nat) :
    (launchStep s a h band low phase unit).2.kept false = s.kept false := by
  unfold launchStep
  repeat' first
    | with_reducible rfl
    | simp only [kept_ite, kept_snd_ite, ite_self, kept_fold0, kept_mk0, State.bump_kept, raise_kept]
    | with_reducible refine (kept_of_eq ‹_›).trans ?_ | with_reducible refine (kept_of_eq3 ‹_›).trans ?_ | split
    | dsimp only
theorem launchHeads_kept (s : State) (k : LaunchKind) (a h low phase : Nat) (unit : Option Nat) :
    (launchHeads s k a h low phase unit).2.kept lv = s.kept lv := by
  unfold launchHeads
  repeat' first
    | with_reducible rfl | simp only [kept_ite, kept_snd_ite, ite_self, kept_fold, kept_mk, raise_kept]
    | with_reducible refine (kept_of_eq ‹_›).trans ?_ | with_reducible refine (kept_of_eq3 ‹_›).trans ?_ | split
    | dsimp only
theorem launchWord_kept (s : State) (u e : Nat) (f : Nat → Nat → State → Nat × State) (hf : ∀ (a0 : Nat) (a1 : Nat) (a2 : State), (f a0 a1 a2).2.kept false = a2.kept false) :
    (launchWord s u e f).kept false = s.kept false := by
  unfold launchWord
  repeat' first
    | with_reducible rfl
    | simp only [implies_true, kept_fold0, kept_mk0, hf, State.setSqr_kept, countLaunch_kept, runWord_kept]
    | with_reducible refine (runWord_ho (fun _ _ => ?_)).trans ?_ | dsimp only
theorem launchWord_ho {s : State} {u e : Nat} {f : Nat → Nat → State → Nat × State} (hf : ∀ (a0 : Nat) (a1 : Nat) (a2 : State), (f a0 a1 a2).2.kept false = a2.kept false) :
    (launchWord s u e f).kept false = s.kept false := launchWord_kept s u e f hf
theorem withTag_ho {s : State} {u : Nat} {f : Nat → Nat × State} (h : ∀ t, (f t).2.kept lv = s.kept lv) :
    (withTag s u f).2.kept lv = s.kept lv := by
  unfold withTag
  split
  · split
    · exact h _
    · rfl
  · rfl
theorem execLaunchReadGate_kept (u : Fin 12) (e : BitVec 137) (s : State) :
    ∀ t, execLaunchReadGate u e s = .next t → t.kept false = s.kept false := by
  intro t h
  unfold execLaunchReadGate at h
  injection h with h
  subst h
  repeat' first
    | with_reducible rfl | simp only [implies_true, kept_fold0, kept_mk0, launchGate_kept, launchWord_kept]
    | with_reducible refine (launchWord_ho (fun _ _ _ => ?_)).trans ?_
    | with_reducible refine (withTag_ho (fun _ => ?_)).trans ?_ | dsimp only
theorem execLaunchWriteGate_kept (u : Fin 12) (e : BitVec 137) (s : State) :
    ∀ t, execLaunchWriteGate u e s = .next t → t.kept false = s.kept false := by
  intro t h
  unfold execLaunchWriteGate at h
  injection h with h
  subst h
  repeat' first
    | with_reducible rfl | simp only [implies_true, kept_fold0, kept_mk0, launchGate_kept, launchWord_kept]
    | with_reducible refine (launchWord_ho (fun _ _ _ => ?_)).trans ?_
    | with_reducible refine (withTag_ho (fun _ => ?_)).trans ?_ | dsimp only
theorem execLaunchAssistStep_kept (u : Fin 12) (e : BitVec 137) (s : State) :
    ∀ t, execLaunchAssistStep u e s = .next t → t.kept false = s.kept false := by
  intro t h
  unfold execLaunchAssistStep at h
  injection h with h
  subst h
  repeat' first
    | with_reducible rfl | simp only [implies_true, kept_fold0, kept_mk0, launchStep_kept, launchWord_kept]
    | with_reducible refine (launchWord_ho (fun _ _ _ => ?_)).trans ?_
    | with_reducible refine (withTag_ho (fun _ => ?_)).trans ?_ | dsimp only
theorem execLaunchSeek_kept (u : Fin 12) (e : BitVec 137) (s : State) :
    ∀ t, execLaunchSeek u e s = .next t → t.kept false = s.kept false := by
  intro t h
  unfold execLaunchSeek at h
  injection h with h
  subst h
  repeat' first
    | with_reducible rfl
    | simp only [implies_true, kept_ite, kept_snd_ite, ite_self, kept_fold0, kept_mk0, launchWord_kept, seekLaunch_kept]
    | with_reducible refine (launchWord_ho (fun _ _ _ => ?_)).trans ?_
    | with_reducible refine (withTag_ho (fun _ => ?_)).trans ?_ | split | dsimp only
theorem execLaunchLoad_kept (u : Fin 12) (e : BitVec 137) (s : State) :
    ∀ t, execLaunchLoad u e s = .next t → t.kept false = s.kept false := by
  intro t h
  unfold execLaunchLoad at h
  injection h with h
  subst h
  repeat' first
    | with_reducible rfl
    | simp only [implies_true, kept_ite, kept_snd_ite, ite_self, launchHeads_kept, launchWord_kept]
    | with_reducible refine (launchWord_ho (fun _ _ _ => ?_)).trans ?_ | split | dsimp only
theorem execLaunchUnload_kept (u : Fin 12) (e : BitVec 137) (s : State) :
    ∀ t, execLaunchUnload u e s = .next t → t.kept false = s.kept false := by
  intro t h
  unfold execLaunchUnload at h
  injection h with h
  subst h
  repeat' first
    | with_reducible rfl
    | simp only [implies_true, kept_ite, kept_snd_ite, ite_self, launchHeads_kept, launchWord_kept]
    | with_reducible refine (launchWord_ho (fun _ _ _ => ?_)).trans ?_ | split | dsimp only
theorem waitEnds_kept (s : State) (u w : Nat) (tmo : Bool) :
    (waitEnds s u w tmo).kept false = s.kept false := by
  unfold waitEnds
  repeat' first
    | with_reducible rfl
    | simp only [id_eq, implies_true, kept_ite, kept_snd_ite, ite_self, kept_fold0, kept_mk0, foldl_kept, foldl_snd_kept, State.setSqr_kept, nextAddress_kept]
    | split
    | dsimp only
theorem execSeqWait_kept (u : Fin 12) (e : BitVec 137) (s : State) :
    ∀ t, execSeqWait u e s = .next t → t.kept false = s.kept false := by
  intro t h
  unfold execSeqWait at h
  injection h with h
  subst h
  repeat' first
    | with_reducible rfl
    | simp only [id_eq, implies_true, kept_ite, kept_snd_ite, ite_self, kept_fold0, kept_mk0, foldl_kept, foldl_snd_kept, State.setSqr_kept, fetchRun_kept, waitEnds_kept]
    | with_reducible refine (fetchRun_ho (fun _ _ => ?_)).trans ?_
    | split
    | dsimp only
theorem execWaitTimeout_kept (u : Fin 12) (e : BitVec 137) (s : State) :
    ∀ t, execWaitTimeout u e s = .next t → t.kept false = s.kept false := by
  intro t h
  unfold execWaitTimeout at h
  injection h with h
  subst h
  repeat' first
    | with_reducible rfl
    | simp only [id_eq, implies_true, kept_ite, kept_snd_ite, ite_self, kept_fold0, kept_mk0, foldl_kept, foldl_snd_kept, State.setSqr_kept, fetchRun_kept, waitEnds_kept]
    | with_reducible refine (fetchRun_ho (fun _ _ => ?_)).trans ?_
    | split
    | dsimp only
theorem tagWord_kept (s : State) (u e : Nat) (body : Nat → State → State) (hbody : ∀ (a0 : Nat) (a1 : State), (body a0 a1).kept false = a1.kept false) :
    (tagWord s u e body).kept false = s.kept false := by
  unfold tagWord
  repeat' first
    | with_reducible rfl
    | simp only [implies_true, kept_ite, kept_snd_ite, ite_self, kept_fold0, kept_mk0, hbody, State.setLane_kept, runWord_kept]
    | with_reducible refine (runWord_ho (fun _ _ => ?_)).trans ?_ | split | dsimp only
theorem tagWord_ho {s : State} {u e : Nat} {body : Nat → State → State} (hbody : ∀ (a0 : Nat) (a1 : State), (body a0 a1).kept false = a1.kept false) :
    (tagWord s u e body).kept false = s.kept false := tagWord_kept s u e body hbody
theorem execTagTake_kept (u : Fin 12) (e : BitVec 137) (s : State) :
    ∀ t, execTagTake u e s = .next t → t.kept false = s.kept false := by
  intro t h
  unfold execTagTake at h
  injection h with h
  subst h
  repeat' first
    | with_reducible rfl
    | simp only [implies_true, kept_ite, kept_snd_ite, ite_self, kept_fold0, kept_mk0, State.setSqr_kept, State.setSrv_kept, completeTag_kept, tagWord_kept]
    | with_reducible refine (tagWord_ho (fun _ _ => ?_)).trans ?_
    | with_reducible refine (kept_of_eq ‹_›).trans ?_ | with_reducible refine (kept_of_eq3 ‹_›).trans ?_ | split
    | dsimp only
theorem execTagReadField_kept (u : Fin 12) (e : BitVec 137) (s : State) :
    ∀ t, execTagReadField u e s = .next t → t.kept false = s.kept false := by
  intro t h
  unfold execTagReadField at h
  injection h with h
  subst h
  repeat' first
    | with_reducible rfl | simp only [implies_true, kept_fold0, kept_mk0, State.setSqr_kept, tagWord_kept]
    | with_reducible refine (tagWord_ho (fun _ _ => ?_)).trans ?_
    | with_reducible refine (kept_of_eq ‹_›).trans ?_ | with_reducible refine (kept_of_eq3 ‹_›).trans ?_ | split
    | dsimp only
theorem execTagWriteResult_kept (u : Fin 12) (e : BitVec 137) (s : State) :
    ∀ t, execTagWriteResult u e s = .next t → t.kept false = s.kept false := by
  intro t h
  unfold execTagWriteResult at h
  injection h with h
  subst h
  repeat' first
    | with_reducible rfl
    | simp only [id_eq, implies_true, kept_ite, kept_snd_ite, ite_self, kept_fold0, kept_mk0, foldl_kept, foldl_snd_kept, State.setLdp_kept, State.setTag_kept, countVerify_kept, dropStale_kept, memWrite_kept, tagWord_kept]
    | with_reducible refine (tagWord_ho (fun _ _ => ?_)).trans ?_
    | with_reducible refine (kept_of_eq ‹_›).trans ?_
    | with_reducible refine (kept_of_eq3 ‹_›).trans ?_
    | split
    | dsimp only
theorem execTagComplete_kept (u : Fin 12) (e : BitVec 137) (s : State) :
    ∀ t, execTagComplete u e s = .next t → t.kept false = s.kept false := by
  intro t h
  unfold execTagComplete at h
  injection h with h
  subst h
  repeat' first
    | with_reducible rfl
    | simp only [id_eq, implies_true, kept_ite, kept_snd_ite, ite_self, kept_fold0, kept_mk0, foldl_kept, foldl_snd_kept, closeReadGate_kept, stopTag_kept, tagWord_kept]
    | with_reducible refine (tagWord_ho (fun _ _ => ?_)).trans ?_
    | with_reducible refine (kept_of_eq ‹_›).trans ?_
    | with_reducible refine (kept_of_eq3 ‹_›).trans ?_
    | split
    | dsimp only
theorem unitPush_kept (s : State) (u w : Nat) :
    (unitPush s u w).kept lv = s.kept lv := by
  unfold unitPush
  repeat' first
    | with_reducible rfl
    | simp only [id_eq, implies_true, kept_ite, kept_snd_ite, ite_self, kept_fold, kept_mk, foldl_kept, foldl_snd_kept, State.ask_kept, outPush_kept]
    | split
    | dsimp only
theorem execMsgSend_kept (u : Fin 12) (e : BitVec 137) (s : State) :
    ∀ t, execMsgSend u e s = .next t → t.kept false = s.kept false := by
  intro t h
  unfold execMsgSend at h
  injection h with h
  subst h
  repeat' first
    | with_reducible rfl
    | simp only [id_eq, implies_true, kept_ite, kept_snd_ite, ite_self, kept_fold0, kept_mk0, foldl_kept, foldl_snd_kept, runWord_kept, unitPush_kept]
    | with_reducible refine (runWord_ho (fun _ _ => ?_)).trans ?_
    | split
    | dsimp only
theorem execMsgReceive_kept (u : Fin 12) (e : BitVec 137) (s : State) :
    ∀ t, execMsgReceive u e s = .next t → t.kept false = s.kept false := by
  intro t h
  unfold execMsgReceive at h
  injection h with h
  subst h
  repeat' first
    | with_reducible rfl
    | simp only [id_eq, implies_true, kept_ite, kept_snd_ite, ite_self, kept_fold0, kept_mk0, foldl_kept, foldl_snd_kept, State.setSqr_kept, inPop_kept, runWord_kept]
    | with_reducible refine (runWord_ho (fun _ _ => ?_)).trans ?_
    | split
    | dsimp only
theorem execSeqSig_kept (u : Fin 12) (e : BitVec 137) (s : State) :
    ∀ t, execSeqSig u e s = .next t → t.kept false = s.kept false := by
  intro t h
  unfold execSeqSig at h
  injection h with h
  subst h
  repeat' first
    | with_reducible rfl
    | simp only [implies_true, kept_ite, kept_snd_ite, ite_self, kept_fold0, kept_mk0, State.setSqr_kept, runWord_kept]
    | with_reducible refine (runWord_ho (fun _ _ => ?_)).trans ?_ | split | dsimp only
theorem execSeqWatchdog_kept (u : Fin 12) (s : State) :
    ∀ t, execSeqWatchdog u s = .next t → t.kept false = s.kept false := by
  intro t h
  unfold execSeqWatchdog at h
  injection h with h
  subst h
  repeat' first
    | with_reducible rfl | simp only [kept_ite, kept_snd_ite, ite_self, seqFault_kept] | split | dsimp only
theorem execSeqBudgetOverrun_kept (u : Fin 12) (s : State) :
    ∀ t, execSeqBudgetOverrun u s = .next t → t.kept lv = s.kept lv := by
  intro t h
  unfold execSeqBudgetOverrun at h
  injection h with h
  subst h
  repeat' first
    | with_reducible rfl
    | simp only [kept_ite, kept_snd_ite, ite_self, kept_fold, kept_mk, State.bump_kept, State.setSqr_kept, raise_kept]
    | split | dsimp only
theorem putWord_kept (s : State) (u w v : Nat) :
    (putWord s u w v).kept lv = s.kept lv := by
  unfold putWord
  repeat' first
    | with_reducible rfl | simp only [kept_fold, kept_mk, State.setSqr_kept, setAuth_kept] | dsimp only
theorem loadEnd_kept (s : State) (d r : Nat) :
    (loadEnd s d r).kept lv = s.kept lv := by
  unfold loadEnd
  repeat' first
    | with_reducible rfl | simp only [kept_fold, kept_mk, State.put_kept, raise_kept] | dsimp only
theorem loadCtlWrite_kept (q : Req) (d : Nat) (w : Word) (s : State) :
    (loadCtlWrite q d w s).kept lv = s.kept lv := by
  unfold loadCtlWrite
  repeat' first
    | with_reducible rfl
    | simp only [kept_ite, kept_snd_ite, ite_self, kept_fold, kept_mk, State.put_kept, loadEnd_kept, plainWrite_kept]
    | split | dsimp only
theorem execSeqLoadStart_kept (q : Req) (seq : Fin 2) (w : BitVec 32) (s : State) :
    ∀ t, execSeqLoadStart q seq w s = .next t → t.kept lv = s.kept lv := by
  intro t h
  unfold execSeqLoadStart at h
  injection h with h
  subst h
  repeat' first
    | with_reducible rfl | simp only [implies_true, guarded_kept, loadCtlWrite_kept]
    | with_reducible refine (guarded_ho (fun _ => ?_)).trans ?_ | dsimp only
theorem loadWords_kept (u a n w : Nat) (s : State) : (loadWords u a n w s).2.kept false = s.kept false := by
  induction n generalizing a w s with
  | zero => unfold loadWords; repeat' first
            | with_reducible rfl | simp only [kept_ite, kept_snd_ite, ite_self, memRead_kept, putWord_kept]
            | with_reducible refine (kept_of_eq ‹_›).trans ?_ | with_reducible refine (kept_of_eq3 ‹_›).trans ?_ | split
            | dsimp only
  | succ n ih => unfold loadWords; repeat' first
            | with_reducible rfl | simp only [kept_ite, kept_snd_ite, ite_self, ih, memRead_kept, putWord_kept]
            | with_reducible refine (kept_of_eq ‹_›).trans ?_ | with_reducible refine (kept_of_eq3 ‹_›).trans ?_ | split
            | dsimp only
theorem execSeqLoadComplete_kept (seq : Fin 2) (s : State) :
    ∀ t, execSeqLoadComplete seq s = .next t → t.kept false = s.kept false := by
  intro t h
  unfold execSeqLoadComplete at h
  injection h with h
  subst h
  repeat' first
    | with_reducible rfl
    | simp only [kept_ite, kept_snd_ite, ite_self, kept_fold0, kept_mk0, loadEnd_kept, loadWords_kept]
    | with_reducible refine (kept_of_eq ‹_›).trans ?_ | with_reducible refine (kept_of_eq3 ‹_›).trans ?_ | split
    | dsimp only
theorem csStep_kept (s : State) (d : Nat) :
    (csStep s d).kept lv = s.kept lv := by
  unfold csStep
  repeat' first
    | with_reducible rfl | simp only [kept_ite, kept_snd_ite, ite_self, State.put_kept] | split | dsimp only
theorem csDataWrite_kept (d : Nat) (w : Word) (s : State) :
    (csDataWrite d w s).kept lv = s.kept lv := by
  unfold csDataWrite
  repeat' first
    | with_reducible rfl
    | simp only [kept_ite, kept_snd_ite, ite_self, csStep_kept, putWord_kept, readStore_kept] | split
    | dsimp only
theorem csDataRead_kept (d : Nat) (s : State) :
    (csDataRead d s).2.kept lv = s.kept lv := by
  unfold csDataRead
  repeat' first
    | with_reducible rfl | simp only [kept_ite, kept_snd_ite, ite_self, csStep_kept, readStore_kept] | split
    | dsimp only
theorem execCsDataAccess_kept (q : Req) (seq : Fin 2) (w : Option (BitVec 32)) (s : State) :
    ∀ t, execCsDataAccess q seq w s = .next t → t.kept lv = s.kept lv := by
  intro t h
  unfold execCsDataAccess at h
  injection h with h
  subst h
  repeat' first
    | with_reducible rfl
    | simp only [implies_true, kept_fold, kept_mk, csDataRead_kept, csDataWrite_kept, guardedRead_kept, guarded_kept]
    | with_reducible refine (guardedRead_ho (fun _ => ?_)).trans ?_
    | with_reducible refine (guarded_ho (fun _ => ?_)).trans ?_
    | with_reducible refine (kept_of_eq ‹_›).trans ?_ | with_reducible refine (kept_of_eq3 ‹_›).trans ?_ | split
    | dsimp only
theorem digCtlWrite_kept (q : Req) (d : Nat) (w : Word) (s : State) :
    (digCtlWrite q d w s).kept lv = s.kept lv := by
  unfold digCtlWrite
  repeat' first
    | with_reducible rfl
    | simp only [kept_ite, kept_snd_ite, ite_self, kept_fold, kept_mk, State.put_kept, plainWrite_kept] | split
    | dsimp only
theorem execDigestStart_kept (q : Req) (seq : Fin 2) (w : BitVec 32) (s : State) :
    ∀ t, execDigestStart q seq w s = .next t → t.kept lv = s.kept lv := by
  intro t h
  unfold execDigestStart at h
  injection h with h
  subst h
  repeat' first
    | with_reducible rfl | simp only [implies_true, digCtlWrite_kept, guarded_kept]
    | with_reducible refine (guarded_ho (fun _ => ?_)).trans ?_ | dsimp only
theorem storeBytes_kept (s : State) (u n w : Nat) : (storeBytes s u n w).2.kept lv = s.kept lv := by
  induction n generalizing s w with
  | zero => unfold storeBytes; repeat' first
            | with_reducible rfl | simp only [readStore_kept] | with_reducible refine (kept_of_eq ‹_›).trans ?_
            | with_reducible refine (kept_of_eq3 ‹_›).trans ?_ | split | dsimp only
  | succ n ih => unfold storeBytes; repeat' first
            | with_reducible rfl | simp only [ih, readStore_kept] | with_reducible refine (kept_of_eq ‹_›).trans ?_
            | with_reducible refine (kept_of_eq3 ‹_›).trans ?_ | split | dsimp only
theorem execDigestComplete_kept (q : Fin 2) (s t : State) (h : execDigestComplete q s = .next t) : t.kept lv = s.kept lv := by
  unfold execDigestComplete at h
  injection h with h
  subst h
  dsimp only
  split
  · rfl
  · rename_i k _
    have hr := storeBytes_kept (lv := lv) s (seqUnit q.val k) 4096 0
    generalize storeBytes s (seqUnit q.val k) 4096 0 = r at hr
    generalize leNat (shake256 r.1) = hh
    rw [← hr]
    repeat' first
            | with_reducible rfl
            | simp only [implies_true, kept_fold, kept_mk, foldl_kept, foldl_snd_kept, State.put_kept, raiseIf_kept, raise_kept, setAuth_kept, storeBytes_kept]
            | with_reducible refine (foldl_kept _ (fun _ _ => ?_) _ _).trans ?_
            | with_reducible refine (foldl_snd_kept _ (fun _ _ => ?_) _ _).trans ?_
            | with_reducible refine (kept_of_eq ‹_›).trans ?_ | with_reducible refine (kept_of_eq3 ‹_›).trans ?_ | split
            | dsimp only
theorem startUnit_kept (s : State) (u : Nat) :
    (startUnit s u).kept lv = s.kept lv := by
  unfold startUnit
  repeat' first
    | with_reducible rfl
    | simp only [kept_fold, kept_mk, State.put_kept, State.setSqr_kept, setPc_kept, setUnitState_kept]
    | dsimp only
theorem releaseUnit_kept (s : State) (u : Nat) :
    (releaseUnit s u).kept lv = s.kept lv := by
  unfold releaseUnit
  repeat' first
    | with_reducible rfl | simp only [kept_ite, kept_snd_ite, ite_self, raise_kept, startUnit_kept] | split
    | dsimp only
theorem disableUnit_kept (s : State) (u : Nat) :
    (disableUnit s u).kept lv = s.kept lv := by
  unfold disableUnit
  repeat' first
    | with_reducible rfl
    | simp only [id_eq, implies_true, kept_ite, kept_snd_ite, ite_self, kept_fold, kept_mk, foldl_kept, foldl_snd_kept, State.setSqr_kept, State.setTag_kept, endPosted_kept, foldl_kept, settleDisable_kept]
    | with_reducible refine (foldl_kept _ (fun _ _ => ?_) _ _).trans ?_
    | with_reducible refine (foldl_snd_kept _ (fun _ _ => ?_) _ _).trans ?_
    | split
    | dsimp only
theorem sqTransition_kept (s : State) (u en ez : Nat) :
    (sqTransition s u en ez).kept lv = s.kept lv := by
  unfold sqTransition
  repeat' first
    | with_reducible rfl
    | simp only [kept_ite, kept_snd_ite, ite_self, State.put_kept, disableUnit_kept, setUnitState_kept, startUnit_kept]
    | split | dsimp only
theorem sqCtlWrite_kept (q : Req) (u : Nat) (w : Word) (s : State) :
    (sqCtlWrite q u w s).kept lv = s.kept lv := by
  unfold sqCtlWrite
  repeat' first
    | with_reducible rfl
    | simp only [kept_ite, kept_snd_ite, ite_self, plainWrite_kept, releaseUnit_kept, sqTransition_kept] | split
    | dsimp only
theorem sqCtlAccess_kept (q : Req) (u : Nat) (w : Word) (s : State) :
    (sqCtlAccess q u w s).kept lv = s.kept lv := by
  unfold sqCtlAccess
  repeat' first
    | with_reducible rfl | simp only [implies_true, guarded_kept, sqCtlWrite_kept]
    | with_reducible refine (guarded_ho (fun _ => ?_)).trans ?_ | dsimp only
theorem execSqEnableSet_kept (q : Req) (u : Fin 12) (w : BitVec 32) (s : State) :
    ∀ t, execSqEnableSet q u w s = .next t → t.kept lv = s.kept lv := by
  intro t h
  unfold execSqEnableSet at h
  injection h with h
  subst h
  repeat' first
    | with_reducible rfl | simp only [sqCtlAccess_kept] | dsimp only
theorem execSqEnableClear_kept (q : Req) (u : Fin 12) (w : BitVec 32) (s : State) :
    ∀ t, execSqEnableClear q u w s = .next t → t.kept lv = s.kept lv := by
  intro t h
  unfold execSqEnableClear at h
  injection h with h
  subst h
  repeat' first
    | with_reducible rfl | simp only [sqCtlAccess_kept] | dsimp only
theorem execSqEasySet_kept (q : Req) (u : Fin 12) (w : BitVec 32) (s : State) :
    ∀ t, execSqEasySet q u w s = .next t → t.kept lv = s.kept lv := by
  intro t h
  unfold execSqEasySet at h
  injection h with h
  subst h
  repeat' first
    | with_reducible rfl | simp only [sqCtlAccess_kept] | dsimp only
theorem execSqEasyClear_kept (q : Req) (u : Fin 12) (w : BitVec 32) (s : State) :
    ∀ t, execSqEasyClear q u w s = .next t → t.kept lv = s.kept lv := by
  intro t h
  unfold execSqEasyClear at h
  injection h with h
  subst h
  repeat' first
    | with_reducible rfl | simp only [sqCtlAccess_kept] | dsimp only
theorem execSqHoldRel_kept (q : Req) (u : Fin 12) (w : BitVec 32) (s : State) :
    ∀ t, execSqHoldRel q u w s = .next t → t.kept lv = s.kept lv := by
  intro t h
  unfold execSqHoldRel at h
  injection h with h
  subst h
  repeat' first
    | with_reducible rfl | simp only [sqCtlAccess_kept] | dsimp only
theorem seqWrite_kept (q : Req) (d off : Nat) (w : Word) (s : State) :
    (seqWrite q d off w s).kept false = s.kept false := by
  unfold seqWrite
  repeat' first
    | with_reducible rfl
    | simp only [kept_ite, kept_snd_ite, ite_self, csDataWrite_kept, digCtlWrite_kept, loadCtlWrite_kept, lqCmdWrite_kept, plainWrite_kept, seqCtlWrite_kept, sqCtlWrite_kept]
    | split | dsimp only
end Sys2Proof.Machine
end

