-- ==== Sys2Proof/Laws/KeptStroke.lean ====
section
/-! SUPPORT. Frame laws of Machine/Stroke.lean: each operation and command there leaves the fuses and the queue
as they are, and the stores too where the law says so of every level. -/

namespace Sys2Proof.Machine

open Sys2Proof

set_option maxRecDepth 4000
set_option linter.all false

variable {lv : Bool}

theorem strokeLength_kept (s : State) :
    (strokeLength s).kept lv = s.kept lv := by
  unfold strokeLength
  repeat' first
    | with_reducible rfl | simp only [kept_fold, kept_mk, State.put_kept] | dsimp only
theorem senseFlit_kept (s : State) (a : Nat) :
    (senseFlit s a).kept lv = s.kept lv := by
  unfold senseFlit
  repeat' first
    | with_reducible rfl
    | simp only [id_eq, implies_true, kept_ite, kept_snd_ite, ite_self, kept_fold, kept_mk, foldl_kept, foldl_snd_kept, State.drawn_kept, sendIn_kept]
    | split
    | dsimp only
theorem execStrokeCatch_kept (s : State) :
    ∀ t, execStrokeCatch s = .next t → t.kept lv = s.kept lv := by
  intro t h
  unfold execStrokeCatch at h
  injection h with h
  subst h
  repeat' first
    | with_reducible rfl
    | simp only [implies_true, kept_ite, kept_snd_ite, ite_self, kept_fold, kept_mk, foldl_kept, foldl_snd_kept, rgtCatch_kept, senseFlit_kept, strokeLength_kept, tryLock_kept]
    | with_reducible refine (foldl_kept _ (fun _ _ => ?_) _ _).trans ?_
    | with_reducible refine (foldl_snd_kept _ (fun _ _ => ?_) _ _).trans ?_ | split | dsimp only
theorem execCatchTokenSend_kept (s : State) :
    ∀ t, execCatchTokenSend s = .next t → t.kept lv = s.kept lv := by
  intro t h
  unfold execCatchTokenSend at h
  injection h with h
  subst h
  repeat' first
    | with_reducible rfl
    | simp only [id_eq, implies_true, kept_ite, kept_snd_ite, ite_self, kept_fold, kept_mk, foldl_kept, foldl_snd_kept, sendToken_kept]
    | split
    | dsimp only
theorem timerTakes_kept (s : State) (die n : Nat) (skew : Int) :
    (timerTakes s die n skew).kept lv = s.kept lv := by
  unfold timerTakes
  repeat' first
    | with_reducible rfl
    | simp only [id_eq, implies_true, kept_ite, kept_snd_ite, ite_self, kept_fold, kept_mk, foldl_kept, foldl_snd_kept, State.put_kept, State.setTimer_kept]
    | with_reducible refine (kept_of_eq ‹_›).trans ?_
    | with_reducible refine (kept_of_eq3 ‹_›).trans ?_
    | split
    | dsimp only
theorem unitCatch_kept (s : State) (u : Nat) :
    (unitCatch s u).kept lv = s.kept lv := by
  unfold unitCatch
  repeat' first
    | with_reducible rfl | simp only [kept_ite, kept_snd_ite, ite_self, kept_fold, kept_mk, State.setSqr_kept]
    | split | dsimp only
theorem oarCatch_kept (s : State) (d n : Nat) :
    (oarCatch s d n).kept false = s.kept false := by
  unfold oarCatch
  repeat' first
    | with_reducible rfl
    | simp only [implies_true, foldl_kept, foldl_snd_kept, ldpExchange_kept, srvExchange_kept, trimApply_kept, trimFrames_kept, unitCatch_kept]
    | with_reducible refine (foldl_kept _ (fun _ _ => ?_) _ _).trans ?_
    | with_reducible refine (foldl_snd_kept _ (fun _ _ => ?_) _ _).trans ?_ | dsimp only
theorem tokenLate_kept (s : State) (die : Nat) :
    (tokenLate s die).kept lv = s.kept lv := by
  unfold tokenLate
  repeat' first
    | with_reducible rfl | simp only [kept_ite, kept_snd_ite, ite_self, State.bump_kept] | split | dsimp only
theorem execLocalCatch_kept (die : Fin 3) (s : State) :
    ∀ t, execLocalCatch die s = .next t → t.kept false = s.kept false := by
  intro t h
  unfold execLocalCatch at h
  injection h with h
  subst h
  repeat' first
    | with_reducible rfl
    | simp only [kept_ite, kept_snd_ite, ite_self, kept_fold0, kept_mk0, State.setTimer_kept, oarCatch_kept, tokenLate_kept]
    | with_reducible refine (kept_of_eq ‹_›).trans ?_ | with_reducible refine (kept_of_eq3 ‹_›).trans ?_ | split
    | dsimp only
theorem launchSample_kept (s : State) (a low phase : Nat) :
    (launchSample s a low phase).2.kept lv = s.kept lv := by
  unfold launchSample
  repeat' first
    | with_reducible rfl | simp only [kept_ite, kept_snd_ite, ite_self, kept_fold, kept_mk, raise_kept]
    | with_reducible refine (kept_of_eq ‹_›).trans ?_ | with_reducible refine (kept_of_eq3 ‹_›).trans ?_ | split
    | dsimp only
theorem actionLaunch_kept (s : State) (k : LaunchKind) (inst t h band low phase : Nat) :
    (actionLaunch s k inst t h band low phase).2.kept false = s.kept false := by
  unfold actionLaunch
  repeat' first
    | with_reducible rfl
    | simp only [kept_ite, kept_snd_ite, ite_self, kept_fold0, kept_mk0, countLaunch_kept, launchGate_kept, launchHeads_kept, launchSample_kept, launchStep_kept, seekLaunch_kept]
    | with_reducible refine (kept_of_eq ‹_›).trans ?_ | with_reducible refine (kept_of_eq3 ‹_›).trans ?_ | split
    | dsimp only
theorem execActionLaunch_kept (kind : LaunchKind) (inst : Fin 8) (tag : Fin 32) (head : Fin 8) (band : Fin 48) (low : BitVec 16) (phase : BitVec 12) (s : State) :
    ∀ t, execActionLaunch kind inst tag head band low phase s = .next t → t.kept false = s.kept false := by
  intro t h
  unfold execActionLaunch at h
  injection h with h
  subst h
  repeat' first
    | with_reducible rfl | simp only [State.reply_kept, actionLaunch_kept] | dsimp only
theorem gateLow_kept (a h : Nat) (s : State) (n : Nat) :
    (gateLow a h s n).kept false = s.kept false := by
  unfold gateLow
  repeat' first
    | with_reducible rfl
    | simp only [id_eq, implies_true, kept_ite, kept_snd_ite, ite_self, kept_fold0, kept_mk0, foldl_kept, foldl_snd_kept, tearWrite_kept]
    | split
    | dsimp only
theorem gateOverrun_kept (s : State) (n : Nat) (x : Launch) :
    (gateOverrun s n x).kept false = s.kept false := by
  unfold gateOverrun
  repeat' first
    | with_reducible rfl
    | simp only [id_eq, implies_true, kept_ite, kept_snd_ite, ite_self, kept_fold0, kept_mk0, foldl_kept, foldl_snd_kept, closeGates_kept, completeTag_kept, elemToStandby_kept, raise_kept, tearWrite_kept]
    | with_reducible refine (kept_of_eq ‹_›).trans ?_
    | with_reducible refine (kept_of_eq3 ‹_›).trans ?_
    | split
    | dsimp only
theorem stepOverrun_kept (s : State) (x : Launch) :
    (stepOverrun s x).kept false = s.kept false := by
  unfold stepOverrun
  repeat' first
    | with_reducible rfl
    | simp only [id_eq, implies_true, kept_ite, kept_snd_ite, ite_self, kept_fold0, kept_mk0, foldl_kept, foldl_snd_kept, elemToStandby_kept, foldl_kept, gateLow_kept, raise_kept]
    | with_reducible refine (foldl_kept _ (fun _ _ => ?_) _ _).trans ?_
    | with_reducible refine (foldl_snd_kept _ (fun _ _ => ?_) _ _).trans ?_
    | split
    | dsimp only
theorem overrun_kept (s : State) (x : Launch) :
    (overrun s x).kept false = s.kept false := by
  unfold overrun
  repeat' first
    | with_reducible rfl
    | simp only [id_eq, implies_true, kept_ite, kept_snd_ite, ite_self, kept_fold0, kept_mk0, foldl_kept, foldl_snd_kept, State.bump_kept, gateOverrun_kept, raise_kept, stepOverrun_kept]
    | with_reducible refine (kept_of_eq ‹_›).trans ?_
    | with_reducible refine (kept_of_eq3 ‹_›).trans ?_
    | split
    | dsimp only
theorem execActionOverrun_kept (kind : LaunchKind) (inst : Fin 8) (s : State) :
    ∀ t, execActionOverrun kind inst s = .next t → t.kept false = s.kept false := by
  intro t h
  unfold execActionOverrun at h
  injection h with h
  subst h
  repeat' first
    | with_reducible rfl | simp only [kept_fold0, kept_mk0, overrun_kept]
    | with_reducible refine (kept_of_eq ‹_›).trans ?_ | with_reducible refine (kept_of_eq3 ‹_›).trans ?_ | split
    | dsimp only
theorem winhInhibit_kept (s : State) (a : Nat) :
    (winhInhibit s a).kept false = s.kept false := by
  unfold winhInhibit
  repeat' first
    | with_reducible rfl | simp only [kept_ite, kept_snd_ite, ite_self, State.bump_kept, inhibit_kept] | split
    | dsimp only
theorem execWinhAssert_kept (s : State) :
    ∀ t, execWinhAssert s = .next t → t.kept false = s.kept false := by
  intro t h
  unfold execWinhAssert at h
  injection h with h
  subst h
  repeat' first
    | with_reducible rfl
    | simp only [implies_true, kept_ite, kept_snd_ite, ite_self, kept_fold0, kept_mk0, foldl_kept, foldl_snd_kept, winhInhibit_kept]
    | with_reducible refine (foldl_kept _ (fun _ _ => ?_) _ _).trans ?_
    | with_reducible refine (foldl_snd_kept _ (fun _ _ => ?_) _ _).trans ?_ | split | dsimp only
theorem execWinhRelease_kept (s : State) :
    ∀ t, execWinhRelease s = .next t → t.kept lv = s.kept lv := by
  intro t h
  unfold execWinhRelease at h
  injection h with h
  subst h
  repeat' first
    | with_reducible rfl
    | simp only [implies_true, kept_ite, kept_snd_ite, ite_self, kept_fold, kept_mk, foldl_kept, foldl_snd_kept, startRelease_kept]
    | with_reducible refine (foldl_kept _ (fun _ _ => ?_) _ _).trans ?_
    | with_reducible refine (foldl_snd_kept _ (fun _ _ => ?_) _ _).trans ?_ | split | dsimp only
end Sys2Proof.Machine
end

