-- ==== Sys2Proof/Laws/KeptPageControl.lean ====
section
/-! SUPPORT. Frame laws of Machine/PageControl.lean: each operation and command there leaves the fuses and the queue
as they are, and the stores too where the law says so of every level. -/

namespace Sys2Proof.Machine

open Sys2Proof

set_option maxRecDepth 4000
set_option linter.all false

variable {lv : Bool}

theorem setEasy_kept (s : State) (p : Page) (v : Nat) :
    (setEasy s p v).kept lv = s.kept lv := by
  unfold setEasy
  repeat' first
    | with_reducible rfl | simp only [State.put_kept] | dsimp only
theorem pageEnables_kept (s : State) (p : Page) :
    (pageEnables s p).kept false = s.kept false := by
  unfold pageEnables
  repeat' first
    | with_reducible rfl
    | simp only [id_eq, implies_true, kept_ite, kept_snd_ite, ite_self, kept_fold0, kept_mk0, foldl_kept, foldl_snd_kept, dmcEnable_kept, rgtEnable_kept, writeDirectory_kept]
    | with_reducible refine (kept_of_eq ‹_›).trans ?_
    | with_reducible refine (kept_of_eq3 ‹_›).trans ?_
    | split
    | dsimp only
theorem pageRuns_kept (s : State) (p : Page) :
    (pageRuns s p).kept false = s.kept false := by
  unfold pageRuns
  repeat' first
    | with_reducible rfl
    | simp only [id_eq, implies_true, kept_ite, kept_snd_ite, ite_self, kept_fold0, kept_mk0, foldl_kept, foldl_snd_kept, State.put_kept, State.setDom_kept, astRuns_kept, schSettle_kept, setPageState_kept, settleEnable_kept]
    | with_reducible refine (kept_of_eq ‹_›).trans ?_
    | with_reducible refine (kept_of_eq3 ‹_›).trans ?_
    | split
    | dsimp only
theorem pageEases_kept (s : State) (p : Page) :
    (pageEases s p).kept false = s.kept false := by
  unfold pageEases
  repeat' first
    | with_reducible rfl
    | simp only [id_eq, implies_true, kept_ite, kept_snd_ite, ite_self, kept_fold0, kept_mk0, foldl_kept, foldl_snd_kept, fillLanes_kept, inhibit_kept, l2BeginDrain_kept, setPageState_kept]
    | with_reducible refine (kept_of_eq ‹_›).trans ?_
    | with_reducible refine (kept_of_eq3 ‹_›).trans ?_
    | split
    | dsimp only
theorem pageDisables_kept (s : State) (p : Page) :
    (pageDisables s p).kept false = s.kept false := by
  unfold pageDisables
  repeat' first
    | with_reducible rfl
    | simp only [kept_ite, kept_snd_ite, ite_self, kept_fold0, kept_mk0, astStop_kept, calDisable_kept, l2BeginDrain_kept, ldpDisable_kept, rgtDisable_kept, setPageState_kept, srvDisable_kept, wevDisable_kept]
    | with_reducible refine (kept_of_eq ‹_›).trans ?_ | with_reducible refine (kept_of_eq3 ‹_›).trans ?_ | split
    | dsimp only
theorem pageHeldOff_kept (s : State) (p : Page) :
    (pageHeldOff s p).kept false = s.kept false := by
  unfold pageHeldOff
  repeat' first
    | with_reducible rfl
    | simp only [id_eq, implies_true, kept_ite, kept_snd_ite, ite_self, kept_fold0, kept_mk0, foldl_kept, foldl_snd_kept, astStop_kept, calOff_kept, setPageState_kept, wevOff_kept]
    | with_reducible refine (kept_of_eq ‹_›).trans ?_
    | with_reducible refine (kept_of_eq3 ‹_›).trans ?_
    | split
    | dsimp only
theorem pageTransition_kept (s : State) (p : Page) (en ez rel : Bool) :
    (pageTransition s p en ez rel).kept false = s.kept false := by
  unfold pageTransition
  repeat' first
    | with_reducible rfl
    | simp only [id_eq, implies_true, kept_ite, kept_snd_ite, ite_self, kept_fold0, kept_mk0, foldl_kept, foldl_snd_kept, State.put_kept, pageDisables_kept, pageEases_kept, pageEnables_kept, pageHeldOff_kept, pageRuns_kept, setEasy_kept, setPageState_kept]
    | split
    | dsimp only
theorem easyWithdrawn_kept (s : State) (d : Nat) :
    (easyWithdrawn s d).kept lv = s.kept lv := by
  unfold easyWithdrawn
  repeat' first
    | with_reducible rfl | simp only [kept_ite, kept_snd_ite, ite_self, kept_fold, kept_mk, State.setDom_kept]
    | split | dsimp only
theorem pageCtlWrite_kept (p : Page) (w : Word) (s : State) :
    (pageCtlWrite p w s).kept false = s.kept false := by
  unfold pageCtlWrite
  repeat' first
    | with_reducible rfl | simp only [easyWithdrawn_kept, pageTransition_kept] | dsimp only
theorem pageCtlAccess_kept (q : Req) (slot : Nat) (w : Word) (s : State) :
    (pageCtlAccess q slot w s).kept false = s.kept false := by
  unfold pageCtlAccess
  repeat' first
    | with_reducible rfl
    | simp only [implies_true, kept_fold0, kept_mk0, State.reply_kept, guarded_kept, pageCtlWrite_kept]
    | with_reducible refine (guarded_ho (fun _ => ?_)).trans ?_
    | with_reducible refine (kept_of_eq ‹_›).trans ?_ | with_reducible refine (kept_of_eq3 ‹_›).trans ?_ | split
    | dsimp only
theorem execEnableSet_kept (q : Req) (slot : BitVec 14) (w : BitVec 32) (s : State) :
    ∀ t, execEnableSet q slot w s = .next t → t.kept false = s.kept false := by
  intro t h
  unfold execEnableSet at h
  injection h with h
  subst h
  repeat' first
    | with_reducible rfl | simp only [pageCtlAccess_kept] | dsimp only
theorem execEnableClear_kept (q : Req) (slot : BitVec 14) (w : BitVec 32) (s : State) :
    ∀ t, execEnableClear q slot w s = .next t → t.kept false = s.kept false := by
  intro t h
  unfold execEnableClear at h
  injection h with h
  subst h
  repeat' first
    | with_reducible rfl | simp only [pageCtlAccess_kept] | dsimp only
theorem execEasySet_kept (q : Req) (slot : BitVec 14) (w : BitVec 32) (s : State) :
    ∀ t, execEasySet q slot w s = .next t → t.kept false = s.kept false := by
  intro t h
  unfold execEasySet at h
  injection h with h
  subst h
  repeat' first
    | with_reducible rfl | simp only [pageCtlAccess_kept] | dsimp only
theorem execEasyClear_kept (q : Req) (slot : BitVec 14) (w : BitVec 32) (s : State) :
    ∀ t, execEasyClear q slot w s = .next t → t.kept false = s.kept false := by
  intro t h
  unfold execEasyClear at h
  injection h with h
  subst h
  repeat' first
    | with_reducible rfl | simp only [pageCtlAccess_kept] | dsimp only
theorem execHoldRel_kept (q : Req) (slot : BitVec 14) (w : BitVec 32) (s : State) :
    ∀ t, execHoldRel q slot w s = .next t → t.kept false = s.kept false := by
  intro t h
  unfold execHoldRel at h
  injection h with h
  subst h
  repeat' first
    | with_reducible rfl | simp only [pageCtlAccess_kept] | dsimp only
theorem disableEnds_kept (s : State) (p : Page) :
    (disableEnds s p).kept lv = s.kept lv := by
  unfold disableEnds
  repeat' first
    | with_reducible rfl
    | simp only [id_eq, implies_true, kept_ite, kept_snd_ite, ite_self, kept_fold, kept_mk, foldl_kept, foldl_snd_kept, State.setSrv_kept, calSettle_kept, ldpSettle_kept, pageOff_kept, wevOff_kept]
    | with_reducible refine (kept_of_eq ‹_›).trans ?_
    | with_reducible refine (kept_of_eq3 ‹_›).trans ?_
    | split
    | dsimp only
theorem execDisableComplete_kept (page : BitVec 14) (s : State) :
    ∀ t, execDisableComplete page s = .next t → t.kept lv = s.kept lv := by
  intro t h
  unfold execDisableComplete at h
  injection h with h
  subst h
  repeat' first
    | with_reducible rfl | simp only [kept_ite, kept_snd_ite, ite_self, kept_fold, kept_mk, disableEnds_kept]
    | with_reducible refine (kept_of_eq ‹_›).trans ?_ | with_reducible refine (kept_of_eq3 ‹_›).trans ?_ | split
    | dsimp only
theorem pageHeld_kept (s : State) (p : Page) :
    (pageHeld s p).kept lv = s.kept lv := by
  unfold pageHeld
  repeat' first
    | with_reducible rfl | simp only [kept_ite, kept_snd_ite, ite_self, setPageState_kept] | split | dsimp only
theorem holdDomain_kept (s : State) (d : Nat) :
    (holdDomain s d).kept false = s.kept false := by
  unfold holdDomain
  repeat' first
    | with_reducible rfl
    | simp only [implies_true, kept_ite, kept_snd_ite, ite_self, kept_fold0, kept_mk0, foldl_kept, foldl_snd_kept, State.setDom_kept, pageHeld_kept, ringsResetComplete_kept, setDomState_kept]
    | with_reducible refine (foldl_kept _ (fun _ _ => ?_) _ _).trans ?_
    | with_reducible refine (foldl_snd_kept _ (fun _ _ => ?_) _ _).trans ?_ | split | dsimp only
theorem execHoldReached_kept (dom : Fin 96) (s : State) :
    ∀ t, execHoldReached dom s = .next t → t.kept false = s.kept false := by
  intro t h
  unfold execHoldReached at h
  injection h with h
  subst h
  repeat' first
    | with_reducible rfl | simp only [kept_ite, kept_snd_ite, ite_self, holdDomain_kept] | split | dsimp only
theorem evClrWrite_kept (p : Page) (w : Word) (same : Nat) (s : State) :
    (evClrWrite p w same s).kept lv = s.kept lv := by
  unfold evClrWrite
  repeat' first
    | with_reducible rfl | simp only [State.put_kept] | dsimp only
theorem execEvClr_kept (q : Req) (slot : BitVec 14) (w : BitVec 32) (same : BitVec 32) (s : State) :
    ∀ t, execEvClr q slot w same s = .next t → t.kept lv = s.kept lv := by
  intro t h
  unfold execEvClr at h
  injection h with h
  subst h
  repeat' first
    | with_reducible rfl
    | simp only [implies_true, kept_fold, kept_mk, State.reply_kept, evClrWrite_kept, guarded_kept]
    | with_reducible refine (guarded_ho (fun _ => ?_)).trans ?_
    | with_reducible refine (kept_of_eq ‹_›).trans ?_ | with_reducible refine (kept_of_eq3 ‹_›).trans ?_ | split
    | dsimp only
theorem evEnWrite_kept (p : Page) (w : Word) (s : State) :
    (evEnWrite p w s).kept lv = s.kept lv := by
  unfold evEnWrite
  repeat' first
    | with_reducible rfl | simp only [State.put_kept] | dsimp only
theorem headerWrite_kept (p : Page) (off : Nat) (w : Word) (s : State) :
    (headerWrite p off w s).kept false = s.kept false := by
  unfold headerWrite
  repeat' first
    | with_reducible rfl
    | simp only [kept_ite, kept_snd_ite, ite_self, evClrWrite_kept, evEnWrite_kept, pageCtlWrite_kept] | split
    | dsimp only
end Sys2Proof.Machine
end

