-- ==== Sys2Proof/Laws/KeptPorts.lean ====
section
/-! SUPPORT. Frame laws of Machine/Ports.lean: each operation and command there leaves the fuses and the queue
as they are, and the stores too where the law says so of every level. -/

namespace Sys2Proof.Machine

open Sys2Proof

set_option maxRecDepth 4000
set_option linter.all false

variable {lv : Bool}

theorem resetFunction_kept (s : State) (n : Nat) :
    (resetFunction s n).kept false = s.kept false := by
  unfold resetFunction
  repeat' first
    | with_reducible rfl | simp only [kept_fold0, kept_mk0, State.setCtl_kept, controllerDisable_kept]
    | dsimp only
theorem portLinkOff_kept (s : State) (p : Nat) :
    (portLinkOff s p).kept lv = s.kept lv := by
  unfold portLinkOff
  repeat' first
    | with_reducible rfl | simp only [State.drawn_kept, State.put_kept] | dsimp only
theorem portDown_kept (s : State) (p : Nat) :
    (portDown s p).kept false = s.kept false := by
  unfold portDown
  repeat' first
    | with_reducible rfl
    | simp only [implies_true, foldl_kept, foldl_snd_kept, portLinkOff_kept, resetFunction_kept]
    | with_reducible refine (foldl_kept _ (fun _ _ => ?_) _ _).trans ?_
    | with_reducible refine (foldl_snd_kept _ (fun _ _ => ?_) _ _).trans ?_ | dsimp only
theorem portLost_kept (s : State) (p : Nat) :
    (portLost s p).kept false = s.kept false := by
  unfold portLost
  repeat' first
    | with_reducible rfl | simp only [kept_ite, kept_snd_ite, ite_self, portDown_kept, raise_kept] | split
    | dsimp only
theorem execPerstAssert_kept (port : Fin 2) (s : State) :
    ∀ t, execPerstAssert port s = .next t → t.kept false = s.kept false := by
  intro t h
  unfold execPerstAssert at h
  injection h with h
  subst h
  repeat' first
    | with_reducible rfl
    | simp only [kept_ite, kept_snd_ite, ite_self, State.put_kept, portDown_kept, raise_kept] | split
    | dsimp only
theorem execPerstDeassert_kept (port : Fin 2) (s : State) :
    ∀ t, execPerstDeassert port s = .next t → t.kept lv = s.kept lv := by
  intro t h
  unfold execPerstDeassert at h
  injection h with h
  subst h
  repeat' first
    | with_reducible rfl | simp only [kept_ite, kept_snd_ite, ite_self, State.put_kept] | split | dsimp only
theorem execPcieLinkLoss_kept (port : Fin 2) (s : State) :
    ∀ t, execPcieLinkLoss port s = .next t → t.kept false = s.kept false := by
  intro t h
  unfold execPcieLinkLoss at h
  injection h with h
  subst h
  repeat' first
    | with_reducible rfl | simp only [kept_ite, kept_snd_ite, ite_self, portLost_kept] | split | dsimp only
theorem execPcieLinkUp_kept (port : Fin 2) (speed width : BitVec 3) (s : State) :
    ∀ t, execPcieLinkUp port speed width s = .next t → t.kept lv = s.kept lv := by
  intro t h
  unfold execPcieLinkUp at h
  injection h with h
  subst h
  repeat' first
    | with_reducible rfl
    | simp only [id_eq, implies_true, kept_ite, kept_snd_ite, ite_self, kept_fold, kept_mk, foldl_kept, foldl_snd_kept, State.drawn_kept, State.put_kept, State.reply_kept, raiseIf_kept, raise_kept]
    | split
    | dsimp only
theorem uncSet_kept (s : State) (p : Nat) (F : Fld) :
    (uncSet s p F).kept lv = s.kept lv := by
  unfold uncSet
  repeat' first
    | with_reducible rfl | simp only [kept_ite, kept_snd_ite, ite_self, State.put_kept, raiseIf_kept] | split
    | dsimp only
theorem errCount_kept (s : State) (p : Nat) (F : Fld) :
    (errCount s p F).kept lv = s.kept lv := by
  unfold errCount
  repeat' first
    | with_reducible rfl
    | simp only [id_eq, implies_true, kept_ite, kept_snd_ite, ite_self, kept_fold, kept_mk, foldl_kept, foldl_snd_kept, State.bump_kept, raiseIf_kept]
    | split
    | dsimp only
theorem execPcieTlpError_kept (port : Fin 2) (kind : TlpError) (s : State) :
    ∀ t, execPcieTlpError port kind s = .next t → t.kept lv = s.kept lv := by
  intro t h
  unfold execPcieTlpError at h
  injection h with h
  subst h
  repeat' first
    | with_reducible rfl
    | simp only [id_eq, implies_true, kept_ite, kept_snd_ite, ite_self, kept_fold, kept_mk, foldl_kept, foldl_snd_kept, errCount_kept, uncSet_kept]
    | with_reducible refine (kept_of_eq ‹_›).trans ?_
    | with_reducible refine (kept_of_eq3 ‹_›).trans ?_
    | split
    | dsimp only
theorem execPcieCompletionTimeout_kept (port : Fin 2) (s : State) :
    ∀ t, execPcieCompletionTimeout port s = .next t → t.kept lv = s.kept lv := by
  intro t h
  unfold execPcieCompletionTimeout at h
  injection h with h
  subst h
  repeat' first
    | with_reducible rfl | simp only [uncSet_kept] | dsimp only
theorem execMctpPacketError_kept (s : State) :
    ∀ t, execMctpPacketError s = .next t → t.kept lv = s.kept lv := by
  intro t h
  unfold execMctpPacketError at h
  injection h with h
  subst h
  repeat' first
    | with_reducible rfl | simp only [kept_ite, kept_snd_ite, ite_self, State.bump_kept, raise_kept] | split
    | dsimp only
theorem miReply_kept (s : State) (data : List Nat) :
    (miReply s data).kept lv = s.kept lv := by
  unfold miReply
  repeat' first
    | with_reducible rfl | simp only [kept_ite, kept_snd_ite, ite_self, State.reply_kept] | split | dsimp only
theorem execMiReadDataStructure_kept (item : MiStructure) (s : State) :
    ∀ t, execMiReadDataStructure item s = .next t → t.kept lv = s.kept lv := by
  intro t h
  unfold execMiReadDataStructure at h
  injection h with h
  subst h
  repeat' first
    | with_reducible rfl | simp only [kept_ite, kept_snd_ite, ite_self, kept_fold, kept_mk, miReply_kept]
    | with_reducible refine (kept_of_eq ‹_›).trans ?_ | with_reducible refine (kept_of_eq3 ‹_›).trans ?_ | split
    | dsimp only
theorem execMiSubsystemHealthPoll_kept (s : State) :
    ∀ t, execMiSubsystemHealthPoll s = .next t → t.kept false = s.kept false := by
  intro t h
  unfold execMiSubsystemHealthPoll at h
  injection h with h
  subst h
  repeat' first
    | with_reducible rfl | simp only [miReply_kept] | dsimp only
theorem execMiControllerHealthPoll_kept (ctrl : Fin 2) (s : State) :
    ∀ t, execMiControllerHealthPoll ctrl s = .next t → t.kept false = s.kept false := by
  intro t h
  unfold execMiControllerHealthPoll at h
  injection h with h
  subst h
  repeat' first
    | with_reducible rfl | simp only [miReply_kept] | dsimp only
theorem execMiConfigurationGet_kept (item : MiConfig) (s : State) :
    ∀ t, execMiConfigurationGet item s = .next t → t.kept lv = s.kept lv := by
  intro t h
  unfold execMiConfigurationGet at h
  injection h with h
  subst h
  repeat' first
    | with_reducible rfl | simp only [kept_ite, kept_snd_ite, ite_self, kept_fold, kept_mk, miReply_kept]
    | with_reducible refine (kept_of_eq ‹_›).trans ?_ | with_reducible refine (kept_of_eq3 ‹_›).trans ?_ | split
    | dsimp only
theorem execMiConfigurationSet_kept (item : MiConfig) (value : BitVec 32) (s : State) :
    ∀ t, execMiConfigurationSet item value s = .next t → t.kept lv = s.kept lv := by
  intro t h
  unfold execMiConfigurationSet at h
  injection h with h
  subst h
  repeat' first
    | with_reducible rfl | simp only [kept_ite, kept_snd_ite, ite_self, kept_fold, kept_mk, State.reply_kept]
    | split | dsimp only
theorem execMiVpdRead_kept (offset len : BitVec 16) (s : State) :
    ∀ t, execMiVpdRead offset len s = .next t → t.kept lv = s.kept lv := by
  intro t h
  unfold execMiVpdRead at h
  injection h with h
  subst h
  repeat' first
    | with_reducible rfl | simp only [miReply_kept] | dsimp only
theorem execMiVpdWrite_kept (offset : BitVec 16) (bytes : List Byte) (s : State) :
    ∀ t, execMiVpdWrite offset bytes s = .next t → t.kept lv = s.kept lv := by
  intro t h
  unfold execMiVpdWrite at h
  injection h with h
  subst h
  repeat' first
    | with_reducible rfl
    | simp only [implies_true, kept_ite, kept_snd_ite, ite_self, kept_fold, kept_mk, foldl_kept, foldl_snd_kept, State.reply_kept]
    | with_reducible refine (foldl_kept _ (fun _ _ => ?_) _ _).trans ?_
    | with_reducible refine (foldl_snd_kept _ (fun _ _ => ?_) _ _).trans ?_ | split | dsimp only
theorem serveTunnel_kept (s : State) :
    (serveTunnel s).kept lv = s.kept lv := by
  unfold serveTunnel
  repeat' first
    | with_reducible rfl
    | simp only [id_eq, implies_true, kept_ite, kept_snd_ite, ite_self, kept_fold, kept_mk, foldl_kept, foldl_snd_kept, State.reply_kept, State.setSlot_kept]
    | with_reducible refine (kept_of_eq ‹_›).trans ?_
    | with_reducible refine (kept_of_eq3 ‹_›).trans ?_
    | split
    | dsimp only
theorem execCompletionPost_kept (ctrl : Fin 2) (queue : Fin 2048) (s : State) :
    ∀ t, execCompletionPost ctrl queue s = .next t → t.kept false = s.kept false := by
  intro t h
  unfold execCompletionPost at h
  injection h with h
  subst h
  repeat' first
    | with_reducible rfl
    | simp only [id_eq, implies_true, kept_ite, kept_snd_ite, ite_self, kept_fold0, kept_mk0, foldl_kept, foldl_snd_kept, State.reply_kept, postEntry_kept, serveTunnel_kept]
    | split
    | dsimp only
theorem execMiTunnelledAdmin_kept (cmd : MiAdmin) (s : State) :
    ∀ t, execMiTunnelledAdmin cmd s = .next t → t.kept false = s.kept false := by
  intro t h
  unfold execMiTunnelledAdmin at h
  injection h with h
  subst h
  repeat' first
    | with_reducible rfl
    | simp only [kept_ite, kept_snd_ite, ite_self, kept_fold0, kept_mk0, State.reply_kept, raise_kept, serveTunnel_kept]
    | split | dsimp only
theorem pcxWrite_kept (q : Req) (n off : Nat) (w : Word) (s : State) :
    (pcxWrite q n off w s).kept false = s.kept false := by
  unfold pcxWrite
  repeat' first
    | with_reducible rfl | simp only [kept_ite, kept_snd_ite, ite_self, plainWrite_kept, portLost_kept] | split
    | dsimp only
end Sys2Proof.Machine
end

