-- ==== Sys2Proof/Laws/KeptDomains.lean ====
section
/-! SUPPORT. Frame laws of Machine/Domains.lean: each operation and command there leaves the fuses and the queue
as they are, and the stores too where the law says so of every level. -/

namespace Sys2Proof.Machine

open Sys2Proof

set_option maxRecDepth 4000
set_option linter.all false

variable {lv : Bool}

theorem ldpDropAll_kept (s : State) (d : Nat) :
    (ldpDropAll s d).kept false = s.kept false := by
  unfold ldpDropAll
  repeat' first
    | with_reducible rfl | simp only [kept_fold0, kept_mk0, State.setLdp_kept, ldpDropWaiting_kept] | dsimp only
theorem schDropPosted_kept (s : State) :
    (schDropPosted s).kept false = s.kept false := by
  unfold schDropPosted
  repeat' first
    | with_reducible rfl
    | simp only [implies_true, kept_fold0, kept_mk0, foldl_kept, foldl_snd_kept, State.plMap_kept, State.schMap_kept, lqAbort_kept, setPlState_kept]
    | with_reducible refine (foldl_kept _ (fun _ _ => ?_) _ _).trans ?_
    | with_reducible refine (foldl_snd_kept _ (fun _ _ => ?_) _ _).trans ?_ | dsimp only
theorem unitDrop_kept (s : State) (u : Nat) :
    (unitDrop s u).kept lv = s.kept lv := by
  unfold unitDrop
  repeat' first
    | with_reducible rfl
    | simp only [kept_ite, kept_snd_ite, ite_self, kept_fold, kept_mk, State.setSqr_kept, completeTags_kept]
    | split | dsimp only
theorem dropOar_kept (s : State) (die x : Nat) :
    (dropOar s die x).kept false = s.kept false := by
  unfold dropOar
  repeat' first
    | with_reducible rfl
    | simp only [id_eq, implies_true, kept_ite, kept_snd_ite, ite_self, kept_fold0, kept_mk0, foldl_kept, foldl_snd_kept, State.setAst_kept, State.setLane_kept, State.setLdp_kept, State.setSrv_kept, astStop_kept, dropSeekPermit_kept, ldpDropAll_kept, lineReleased_kept, loadFails_kept, setActive_kept, unitDrop_kept]
    | split
    | dsimp only
theorem dropRigger_kept (s : State) (d : Nat) :
    (dropRigger s d).kept lv = s.kept lv := by
  unfold dropRigger
  repeat' first
    | with_reducible rfl
    | simp only [kept_ite, kept_snd_ite, ite_self, kept_fold, kept_mk, State.setVcm_kept, State.spnMap_kept, rgtDisable_kept, setSpn_kept, setVcmState_kept]
    | split | dsimp only
theorem wevReset_kept (s : State) :
    (wevReset s).kept lv = s.kept lv := by
  unfold wevReset
  repeat' first
    | with_reducible rfl
    | simp only [id_eq, implies_true, kept_ite, kept_snd_ite, ite_self, kept_fold, kept_mk, foldl_kept, foldl_snd_kept, State.schMap_kept]
    | with_reducible refine (kept_of_eq ‹_›).trans ?_
    | with_reducible refine (kept_of_eq3 ‹_›).trans ?_
    | split
    | dsimp only
theorem dropUnit_kept (s : State) (d : Nat) :
    (dropUnit s d).kept false = s.kept false := by
  unfold dropUnit
  repeat' first
    | with_reducible rfl
    | simp only [id_eq, implies_true, kept_ite, kept_snd_ite, ite_self, kept_fold0, kept_mk0, foldl_kept, foldl_snd_kept, State.calMap_kept, State.secMap_kept, State.setCtl_kept, State.tmpMap_kept, controllerLost_kept, dropOar_kept, dropPartial_kept, dropRigger_kept, evrReset_kept, flushMerge_kept, nvsStop_kept, portDown_kept, portLost_kept, schDropPosted_kept, secReset_kept, wevReset_kept]
    | split
    | dsimp only
theorem loseUnit_kept (s : State) (d : Nat) :
    (loseUnit s d).kept false = s.kept false := by
  unfold loseUnit
  repeat' first
    | with_reducible rfl
    | simp only [kept_ite, kept_snd_ite, ite_self, kept_fold0, kept_mk0, State.setDom_kept, State.setSqr_kept, setAuth_kept, tcmLoseBank_kept]
    | with_reducible refine (kept_of_eq ‹_›).trans ?_ | with_reducible refine (kept_of_eq3 ‹_›).trans ?_ | split
    | dsimp only
theorem putAll_kept (v : Fld → Option Nat) (i : Nat) (s : State) (F : Fld) :
    (putAll v i s F).kept lv = s.kept lv := by
  unfold putAll
  repeat' first
    | with_reducible rfl
    | simp only [implies_true, kept_fold, kept_mk, foldl_kept, foldl_snd_kept, State.put_kept]
    | with_reducible refine (foldl_kept _ (fun _ _ => ?_) _ _).trans ?_
    | with_reducible refine (foldl_snd_kept _ (fun _ _ => ?_) _ _).trans ?_
    | with_reducible refine (kept_of_eq ‹_›).trans ?_ | with_reducible refine (kept_of_eq3 ‹_›).trans ?_ | split
    | dsimp only
theorem warmBlock_kept (s : State) (p : Page) :
    (warmBlock s p).kept lv = s.kept lv := by
  unfold warmBlock
  repeat' first
    | with_reducible rfl | simp only [implies_true, foldl_kept, foldl_snd_kept, putAll_kept]
    | with_reducible refine (foldl_kept _ (fun _ _ => ?_) _ _).trans ?_
    | with_reducible refine (foldl_snd_kept _ (fun _ _ => ?_) _ _).trans ?_ | dsimp only
theorem warmPage_kept (s : State) (p : Page) :
    (warmPage s p).kept lv = s.kept lv := by
  unfold warmPage
  repeat' first
    | with_reducible rfl | simp only [implies_true, foldl_kept, foldl_snd_kept, putAll_kept, warmBlock_kept]
    | with_reducible refine (foldl_kept _ (fun _ _ => ?_) _ _).trans ?_
    | with_reducible refine (foldl_snd_kept _ (fun _ _ => ?_) _ _).trans ?_ | dsimp only
theorem warmUnit_kept (s : State) (die q : Nat) :
    (warmUnit s die q).kept lv = s.kept lv := by
  unfold warmUnit
  repeat' first
    | with_reducible rfl
    | simp only [implies_true, kept_fold, kept_mk, foldl_kept, foldl_snd_kept, State.put_kept]
    | with_reducible refine (foldl_kept _ (fun _ _ => ?_) _ _).trans ?_
    | with_reducible refine (foldl_snd_kept _ (fun _ _ => ?_) _ _).trans ?_
    | with_reducible refine (kept_of_eq ‹_›).trans ?_ | with_reducible refine (kept_of_eq3 ‹_›).trans ?_ | split
    | dsimp only
theorem warmDomain_kept (s : State) (d : Nat) :
    (warmDomain s d).kept lv = s.kept lv := by
  unfold warmDomain
  repeat' first
    | with_reducible rfl
    | simp only [implies_true, kept_fold, kept_mk, foldl_kept, foldl_snd_kept, State.put_kept, State.setDom_kept, warmPage_kept, warmUnit_kept]
    | with_reducible refine (foldl_kept _ (fun _ _ => ?_) _ _).trans ?_
    | with_reducible refine (foldl_snd_kept _ (fun _ _ => ?_) _ _).trans ?_
    | with_reducible refine (kept_of_eq ‹_›).trans ?_ | with_reducible refine (kept_of_eq3 ‹_›).trans ?_ | split
    | dsimp only
theorem enterReset_kept (s : State) (d : Nat) :
    (enterReset s d).kept false = s.kept false := by
  unfold enterReset
  repeat' first
    | with_reducible rfl
    | simp only [kept_fold0, kept_mk0, State.setDom_kept, dropUnit_kept, ringsResetComplete_kept, warmDomain_kept]
    | dsimp only
theorem leaveReset_kept (s : State) (d : Nat) :
    (leaveReset s d).kept lv = s.kept lv := by
  unfold leaveReset
  repeat' first
    | with_reducible rfl
    | simp only [id_eq, implies_true, kept_ite, kept_snd_ite, ite_self, kept_fold, kept_mk, foldl_kept, foldl_snd_kept, State.setDom_kept, railFollows_kept, setDomState_kept, setUnitState_kept]
    | with_reducible refine (kept_of_eq ‹_›).trans ?_
    | with_reducible refine (kept_of_eq3 ‹_›).trans ?_
    | split
    | dsimp only
theorem resetDomain_kept (s : State) (d : Nat) :
    (resetDomain s d).kept false = s.kept false := by
  unfold resetDomain
  repeat' first
    | with_reducible rfl | simp only [enterReset_kept, leaveReset_kept] | dsimp only
theorem powerDown_kept (s : State) (d : Nat) :
    (powerDown s d).kept false = s.kept false := by
  unfold powerDown
  repeat' first
    | with_reducible rfl
    | simp only [kept_fold0, kept_mk0, State.setDom_kept, dropUnit_kept, loseUnit_kept, ringsResetComplete_kept, warmDomain_kept]
    | dsimp only
theorem domResult_kept (r : Nat) (s : State) :
    (domResult r s).kept lv = s.kept lv := by
  unfold domResult
  repeat' first
    | with_reducible rfl | simp only [State.put_kept] | dsimp only
theorem easePage_kept (s : State) (p : Page) :
    (easePage s p).kept false = s.kept false := by
  unfold easePage
  repeat' first
    | with_reducible rfl | simp only [kept_ite, kept_snd_ite, ite_self, pageTransition_kept] | split
    | dsimp only
theorem easeDomain_kept (s : State) (d : Nat) :
    (easeDomain s d).kept false = s.kept false := by
  unfold easeDomain
  repeat' first
    | with_reducible rfl
    | simp only [implies_true, kept_ite, kept_snd_ite, ite_self, kept_fold0, kept_mk0, foldl_kept, foldl_snd_kept, State.put_kept, State.setDom_kept, easePage_kept, setDomState_kept, sqTransition_kept]
    | with_reducible refine (foldl_kept _ (fun _ _ => ?_) _ _).trans ?_
    | with_reducible refine (foldl_snd_kept _ (fun _ _ => ?_) _ _).trans ?_
    | with_reducible refine (kept_of_eq ‹_›).trans ?_ | with_reducible refine (kept_of_eq3 ‹_›).trans ?_ | split
    | dsimp only
theorem releasePage_kept (s : State) (p : Page) :
    (releasePage s p).kept false = s.kept false := by
  unfold releasePage
  repeat' first
    | with_reducible rfl | simp only [pageTransition_kept] | dsimp only
theorem releaseDomain_kept (s : State) (d : Nat) :
    (releaseDomain s d).kept false = s.kept false := by
  unfold releaseDomain
  repeat' first
    | with_reducible rfl
    | simp only [implies_true, kept_ite, kept_snd_ite, ite_self, kept_fold0, kept_mk0, foldl_kept, foldl_snd_kept, State.put_kept, State.setDom_kept, releasePage_kept, releaseUnit_kept, setDomState_kept]
    | with_reducible refine (foldl_kept _ (fun _ _ => ?_) _ _).trans ?_
    | with_reducible refine (foldl_snd_kept _ (fun _ _ => ?_) _ _).trans ?_
    | with_reducible refine (kept_of_eq ‹_›).trans ?_ | with_reducible refine (kept_of_eq3 ‹_›).trans ?_ | split
    | dsimp only
theorem domBeginReset_kept (s : State) (op d : Nat) :
    (domBeginReset s op d).kept false = s.kept false := by
  unfold domBeginReset
  repeat' first
    | with_reducible rfl
    | simp only [kept_ite, kept_snd_ite, ite_self, kept_fold0, kept_mk0, State.bump_kept, State.put_kept, enterReset_kept, raise_kept]
    | split | dsimp only
theorem domEffect_kept (s : State) (op d : Nat) :
    (domEffect s op d).kept false = s.kept false := by
  unfold domEffect
  repeat' first
    | with_reducible rfl
    | simp only [kept_ite, kept_snd_ite, ite_self, domBeginReset_kept, easeDomain_kept, powerDown_kept, powerUp_kept, releaseDomain_kept, serveTunnel_kept]
    | split | dsimp only
theorem domRuns_kept (q : Req) (op d : Nat) (s : State) :
    (domRuns q op d s).kept false = s.kept false := by
  unfold domRuns
  repeat' first
    | with_reducible rfl
    | simp only [id_eq, implies_true, kept_ite, kept_snd_ite, ite_self, kept_fold0, kept_mk0, foldl_kept, foldl_snd_kept, domEffect_kept, domResult_kept]
    | split
    | dsimp only
theorem domCmdWrite_kept (q : Req) (w : Word) (s : State) :
    (domCmdWrite q w s).kept false = s.kept false := by
  unfold domCmdWrite
  repeat' first
    | with_reducible rfl
    | simp only [id_eq, implies_true, kept_ite, kept_snd_ite, ite_self, kept_fold0, kept_mk0, foldl_kept, foldl_snd_kept, State.ask_kept, State.put_kept, domResult_kept, domRuns_kept, plainWrite_kept]
    | split
    | dsimp only
theorem domCmdAccess_kept (q : Req) (w : Word) (s : State) :
    (domCmdAccess q w s).kept false = s.kept false := by
  unfold domCmdAccess
  repeat' first
    | with_reducible rfl | simp only [implies_true, domCmdWrite_kept, guarded_kept]
    | with_reducible refine (guarded_ho (fun _ => ?_)).trans ?_ | dsimp only
theorem execDomEasy_kept (q : Req) (w : BitVec 32) (s : State) :
    ∀ t, execDomEasy q w s = .next t → t.kept false = s.kept false := by
  intro t h
  unfold execDomEasy at h
  injection h with h
  subst h
  repeat' first
    | with_reducible rfl | simp only [domCmdAccess_kept] | dsimp only
theorem execDomRelease_kept (q : Req) (w : BitVec 32) (s : State) :
    ∀ t, execDomRelease q w s = .next t → t.kept false = s.kept false := by
  intro t h
  unfold execDomRelease at h
  injection h with h
  subst h
  repeat' first
    | with_reducible rfl | simp only [domCmdAccess_kept] | dsimp only
theorem execDomReset_kept (q : Req) (w : BitVec 32) (s : State) :
    ∀ t, execDomReset q w s = .next t → t.kept false = s.kept false := by
  intro t h
  unfold execDomReset at h
  injection h with h
  subst h
  repeat' first
    | with_reducible rfl | simp only [domCmdAccess_kept] | dsimp only
theorem execDomPowerOff_kept (q : Req) (w : BitVec 32) (s : State) :
    ∀ t, execDomPowerOff q w s = .next t → t.kept false = s.kept false := by
  intro t h
  unfold execDomPowerOff at h
  injection h with h
  subst h
  repeat' first
    | with_reducible rfl | simp only [domCmdAccess_kept] | dsimp only
theorem execDomPowerOn_kept (q : Req) (w : BitVec 32) (s : State) :
    ∀ t, execDomPowerOn q w s = .next t → t.kept false = s.kept false := by
  intro t h
  unfold execDomPowerOn at h
  injection h with h
  subst h
  repeat' first
    | with_reducible rfl | simp only [domCmdAccess_kept] | dsimp only
theorem execDomForceReset_kept (q : Req) (w : BitVec 32) (s : State) :
    ∀ t, execDomForceReset q w s = .next t → t.kept false = s.kept false := by
  intro t h
  unfold execDomForceReset at h
  injection h with h
  subst h
  repeat' first
    | with_reducible rfl | simp only [domCmdAccess_kept] | dsimp only
theorem execDomResetComplete_kept (testsPass : Bool) (s : State) :
    ∀ t, execDomResetComplete testsPass s = .next t → t.kept lv = s.kept lv := by
  intro t h
  unfold execDomResetComplete at h
  injection h with h
  subst h
  repeat' first
    | with_reducible rfl
    | simp only [kept_ite, kept_snd_ite, ite_self, kept_fold, kept_mk, State.put_kept, leaveReset_kept] | split
    | dsimp only
theorem yieldUnit_kept (s : State) (d : Nat) :
    (yieldUnit s d).kept false = s.kept false := by
  unfold yieldUnit
  repeat' first
    | with_reducible rfl
    | simp only [id_eq, implies_true, kept_ite, kept_snd_ite, ite_self, kept_fold0, kept_mk0, foldl_kept, foldl_snd_kept, State.evrMap_kept, State.nvMap_kept, State.put_kept, State.secMap_kept, State.setAst_kept, State.setSrv_kept, closeReadGate_kept, commitEnd_kept, completeTag_kept, dropUnit_kept, finishFrame_kept, foldl_kept, killCmd_kept, l2Empty_kept, ldpDropAll_kept, nvsStop_kept]
    | with_reducible refine (foldl_kept _ (fun _ _ => ?_) _ _).trans ?_
    | with_reducible refine (foldl_snd_kept _ (fun _ _ => ?_) _ _).trans ?_
    | with_reducible refine (kept_of_eq ‹_›).trans ?_
    | with_reducible refine (kept_of_eq3 ‹_›).trans ?_
    | split
    | dsimp only
theorem execEasyTimeout_kept (dom : Fin 96) (s : State) :
    ∀ t, execEasyTimeout dom s = .next t → t.kept false = s.kept false := by
  intro t h
  unfold execEasyTimeout at h
  injection h with h
  subst h
  repeat' first
    | with_reducible rfl
    | simp only [kept_ite, kept_snd_ite, ite_self, kept_fold0, kept_mk0, State.bump_kept, State.setDom_kept, holdDomain_kept, raise_kept, yieldUnit_kept]
    | split | dsimp only
theorem imgCtlWrite_kept (q : Req) (w : Word) (s : State) :
    (imgCtlWrite q w s).kept lv = s.kept lv := by
  unfold imgCtlWrite
  repeat' first
    | with_reducible rfl
    | simp only [kept_ite, kept_snd_ite, ite_self, kept_fold, kept_mk, State.put_kept, State.setDom_kept, plainWrite_kept]
    | split | dsimp only
theorem execImageLoad_kept (q : Req) (w : BitVec 32) (s : State) :
    ∀ t, execImageLoad q w s = .next t → t.kept lv = s.kept lv := by
  intro t h
  unfold execImageLoad at h
  injection h with h
  subst h
  repeat' first
    | with_reducible rfl | simp only [implies_true, guarded_kept, imgCtlWrite_kept]
    | with_reducible refine (guarded_ho (fun _ => ?_)).trans ?_ | dsimp only
theorem execImageLoadComplete_kept (s : State) :
    ∀ t, execImageLoadComplete s = .next t → t.kept false = s.kept false := by
  intro t h
  unfold execImageLoadComplete at h
  injection h with h
  subst h
  repeat' first
    | with_reducible rfl
    | simp only [kept_ite, kept_snd_ite, ite_self, kept_fold0, kept_mk0, State.put_kept, State.setDom_kept, memRead_kept]
    | with_reducible refine (kept_of_eq ‹_›).trans ?_ | with_reducible refine (kept_of_eq3 ‹_›).trans ?_ | split
    | dsimp only
end Sys2Proof.Machine
end

