-- ==== Sys2Proof/Laws/KeptStarts.lean ====
section
/-! SUPPORT. Frame laws of Machine/Starts.lean: each operation and command there leaves the fuses and the queue
as they are, and the stores too where the law says so of every level. -/

namespace Sys2Proof.Machine

open Sys2Proof

set_option maxRecDepth 4000
set_option linter.all false

variable {lv : Bool}

theorem loadParts_kept (s : State) (slot : Nat) (warm : Bool) :
    (loadParts s slot warm).kept lv = s.kept lv := by
  unfold loadParts
  repeat' first
    | with_reducible rfl | simp only [implies_true, foldl_kept, foldl_snd_kept, measurePart_kept]
    | with_reducible refine (foldl_kept _ (fun _ _ => ?_) _ _).trans ?_
    | with_reducible refine (foldl_snd_kept _ (fun _ _ => ?_) _ _).trans ?_ | dsimp only
theorem startCores_kept (s : State) (kind : Nat) :
    (startCores s kind).kept lv = s.kept lv := by
  unfold startCores
  repeat' first
    | with_reducible rfl
    | simp only [implies_true, kept_ite, kept_snd_ite, ite_self, foldl_kept, foldl_snd_kept, setDomState_kept]
    | with_reducible refine (foldl_kept _ (fun _ _ => ?_) _ _).trans ?_
    | with_reducible refine (foldl_snd_kept _ (fun _ _ => ?_) _ _).trans ?_ | split | dsimp only
theorem runStart_kept (s : State) (kind slot : Nat) :
    (runStart s kind slot).kept lv = s.kept lv := by
  unfold runStart
  repeat' first
    | with_reducible rfl
    | simp only [id_eq, implies_true, kept_ite, kept_snd_ite, ite_self, kept_fold, kept_mk, foldl_kept, foldl_snd_kept, State.put_kept, loadParts_kept, loadSaved_kept, quartersUp_kept, raiseIf_kept, startCores_kept]
    | split
    | dsimp only
theorem startFails_kept (s : State) :
    (startFails s).kept lv = s.kept lv := by
  unfold startFails
  repeat' first
    | with_reducible rfl | simp only [State.bump_kept, raise_kept] | dsimp only
theorem bootRom_kept (f k : Nat) (s : State) : (bootRom f k s).kept lv = s.kept lv := by
  induction f generalizing k s with
  | zero => unfold bootRom; repeat' first
            | with_reducible rfl | simp only [kept_ite, kept_snd_ite, ite_self, runStart_kept, startFails_kept]
            | with_reducible refine (kept_of_eq ‹_›).trans ?_ | with_reducible refine (kept_of_eq3 ‹_›).trans ?_ | split
            | dsimp only
  | succ n ih => unfold bootRom; repeat' first
            | with_reducible rfl | simp only [kept_ite, kept_snd_ite, ite_self, ih, runStart_kept, startFails_kept]
            | with_reducible refine (kept_of_eq ‹_›).trans ?_ | with_reducible refine (kept_of_eq3 ‹_›).trans ?_ | split
            | dsimp only
theorem trainLinks_kept (s : State) :
    (trainLinks s).kept lv = s.kept lv := by
  unfold trainLinks
  repeat' first
    | with_reducible rfl
    | simp only [implies_true, kept_ite, kept_snd_ite, ite_self, foldl_kept, foldl_snd_kept, startTraining_kept]
    | with_reducible refine (foldl_kept _ (fun _ _ => ?_) _ _).trans ?_
    | with_reducible refine (foldl_snd_kept _ (fun _ _ => ?_) _ _).trans ?_ | split | dsimp only
theorem coldState_kept (s : State) (straps : Straps) :
    (coldState s straps).kept false = s.kept false := by
  unfold coldState
  repeat' first
    | with_reducible rfl | simp only [kept_fold0, kept_mk0, lockSync_kept] | dsimp only
theorem coldStart_kept (s : State) (straps : Straps) :
    (coldStart s straps).kept false = s.kept false := by
  unfold coldStart
  repeat' first
    | with_reducible rfl
    | simp only [kept_ite, kept_snd_ite, ite_self, bootRom_kept, coldState_kept, trainLinks_kept] | split
    | dsimp only
theorem portsDown_kept (s : State) :
    (portsDown s).kept false = s.kept false := by
  unfold portsDown
  repeat' first
    | with_reducible rfl | simp only [implies_true, foldl_kept, foldl_snd_kept, portDown_kept]
    | with_reducible refine (foldl_kept _ (fun _ _ => ?_) _ _).trans ?_
    | with_reducible refine (foldl_snd_kept _ (fun _ _ => ?_) _ _).trans ?_ | dsimp only
theorem domQuiet_kept (s : State) :
    (domQuiet s).kept lv = s.kept lv := by
  unfold domQuiet
  repeat' first
    | with_reducible rfl | simp only [kept_ite, kept_snd_ite, ite_self, kept_fold, kept_mk, leaveReset_kept]
    | split | dsimp only
theorem warmStart_kept (s : State) :
    (warmStart s).kept false = s.kept false := by
  unfold warmStart
  repeat' first
    | with_reducible rfl
    | simp only [id_eq, implies_true, kept_ite, kept_snd_ite, ite_self, kept_fold0, kept_mk0, foldl_kept, foldl_snd_kept, State.tmpMap_kept, bootRom_kept, domQuiet_kept, foldl_kept, l2Empty_kept, portsDown_kept, powerUp_kept, resetDomain_kept, warmBlock_kept]
    | with_reducible refine (foldl_kept _ (fun _ _ => ?_) _ _).trans ?_
    | with_reducible refine (foldl_snd_kept _ (fun _ _ => ?_) _ _).trans ?_
    | split
    | dsimp only
theorem coxCold_kept (s : State) :
    (coxCold s).kept false = s.kept false := by
  unfold coxCold
  repeat' first
    | with_reducible rfl
    | simp only [kept_fold0, kept_mk0, bootRom_kept, coldState_kept, retractAll_kept, trainLinks_kept]
    | dsimp only
theorem coxRestart_kept (s : State) :
    (coxRestart s).kept false = s.kept false := by
  unfold coxRestart
  repeat' first
    | with_reducible rfl | simp only [kept_ite, kept_snd_ite, ite_self, coxCold_kept, warmStart_kept] | split
    | dsimp only
theorem execCoxReset_kept (s : State) :
    ∀ t, execCoxReset s = .next t → t.kept false = s.kept false := by
  intro t h
  unfold execCoxReset at h
  injection h with h
  subst h
  repeat' first
    | with_reducible rfl | simp only [kept_ite, kept_snd_ite, ite_self, coxRestart_kept] | split | dsimp only
theorem execStartWatchdogExpire_kept (s : State) :
    ∀ t, execStartWatchdogExpire s = .next t → t.kept false = s.kept false := by
  intro t h
  unfold execStartWatchdogExpire at h
  injection h with h
  subst h
  repeat' first
    | with_reducible rfl | simp only [kept_ite, kept_snd_ite, ite_self, coxRestart_kept, startFails_kept]
    | split | dsimp only
theorem restoreLine_kept (s : State) (entry : List Nat) (bytes : Option (List Nat)) :
    (restoreLine s entry bytes).kept false = s.kept false := by
  unfold restoreLine
  repeat' first
    | with_reducible rfl
    | simp only [kept_ite, kept_snd_ite, ite_self, kept_fold0, kept_mk0, State.drawn_kept, State.setLine_kept, memWrite_kept, offlineZone_kept, report_kept]
    | with_reducible refine (kept_of_eq ‹_›).trans ?_ | with_reducible refine (kept_of_eq3 ‹_›).trans ?_ | split
    | dsimp only
theorem restoreStep_kept (r : Nat × Nat × Nat) (a : List (List Nat) × Nat × Bool × State) (i : Nat) :
    (restoreStep r a i).2.2.2.kept false = a.2.2.2.kept false := by
  unfold restoreStep; repeat' first
            | with_reducible rfl | simp only [kept_ite, kept_snd_ite, ite_self, kept_fold0, kept_mk0, restoreLine_kept]
            | with_reducible refine (kept_of_eq ‹_›).trans ?_ | with_reducible refine (kept_of_eq3 ‹_›).trans ?_ | split
            | dsimp only
theorem restoreActuator_kept (i : Option (List Nat)) (s : State) (a : Nat) : (restoreActuator i s a).kept false = s.kept false := by
  unfold restoreActuator
  refine (foldl_proj (fun x : List (List Nat) × Nat × Bool × State => x.2.2.2) _ (fun r x => ?_) _ _).trans (by rfl)
  exact foldl_proj (fun x : List (List Nat) × Nat × Bool × State => x.2.2.2) _ (fun r x => restoreStep_kept _ _ _) _ _
theorem restoreCache_kept (s : State) :
    (restoreCache s).kept false = s.kept false := by
  unfold restoreCache
  repeat' first
    | with_reducible rfl
    | simp only [id_eq, implies_true, kept_ite, kept_snd_ite, ite_self, kept_fold0, kept_mk0, foldl_kept, foldl_snd_kept, planWrites_kept, restoreActuator_kept, restoreLine_kept, schSettle_kept, settleCharge_kept]
    | with_reducible refine (foldl_kept _ (fun _ _ => ?_) _ _).trans ?_
    | with_reducible refine (foldl_snd_kept _ (fun _ _ => ?_) _ _).trans ?_
    | split
    | dsimp only
theorem startOk_kept (s : State) :
    (startOk s).kept false = s.kept false := by
  unfold startOk
  repeat' first
    | with_reducible rfl
    | simp only [kept_ite, kept_snd_ite, ite_self, kept_fold0, kept_mk0, State.put_kept, restoreCache_kept]
    | split | dsimp only
theorem domCtlWrite_kept (q : Req) (w : Word) (s : State) :
    (domCtlWrite q w s).kept false = s.kept false := by
  unfold domCtlWrite
  repeat' first
    | with_reducible rfl
    | simp only [kept_ite, kept_snd_ite, ite_self, State.put_kept, coxRestart_kept, startOk_kept] | split
    | dsimp only
theorem domCtlAccess_kept (q : Req) (w : Word) (s : State) :
    (domCtlAccess q w s).kept false = s.kept false := by
  unfold domCtlAccess
  repeat' first
    | with_reducible rfl | simp only [implies_true, domCtlWrite_kept, guarded_kept]
    | with_reducible refine (guarded_ho (fun _ => ?_)).trans ?_ | dsimp only
theorem execWarmStart_kept (q : Req) (w : BitVec 32) (s : State) :
    ∀ t, execWarmStart q w s = .next t → t.kept false = s.kept false := by
  intro t h
  unfold execWarmStart at h
  injection h with h
  subst h
  repeat' first
    | with_reducible rfl | simp only [domCtlAccess_kept] | dsimp only
theorem execStartOk_kept (q : Req) (w : BitVec 32) (s : State) :
    ∀ t, execStartOk q w s = .next t → t.kept false = s.kept false := by
  intro t h
  unfold execStartOk at h
  injection h with h
  subst h
  repeat' first
    | with_reducible rfl | simp only [domCtlAccess_kept] | dsimp only
theorem execFailClr_kept (q : Req) (w : BitVec 32) (s : State) :
    ∀ t, execFailClr q w s = .next t → t.kept false = s.kept false := by
  intro t h
  unfold execFailClr at h
  injection h with h
  subst h
  repeat' first
    | with_reducible rfl | simp only [domCtlAccess_kept] | dsimp only
theorem domWrite_kept (q : Req) (off : Nat) (w : Word) (s : State) :
    (domWrite q off w s).kept false = s.kept false := by
  unfold domWrite
  repeat' first
    | with_reducible rfl
    | simp only [kept_ite, kept_snd_ite, ite_self, kept_fold0, kept_mk0, State.setDom_kept, domCmdWrite_kept, domCtlWrite_kept, imgCtlWrite_kept, plainWrite_kept]
    | split | dsimp only
theorem pfailAssert_kept (s : State) :
    (pfailAssert s).kept false = s.kept false := by
  unfold pfailAssert
  repeat' first
    | with_reducible rfl
    | simp only [id_eq, implies_true, kept_ite, kept_snd_ite, ite_self, kept_fold0, kept_mk0, foldl_kept, foldl_snd_kept, State.bump_kept, State.put_kept, State.spnMap_kept, evrPfail_kept, nvsPfail_kept, plOnPfail_kept, raise_kept, retractAll_kept, setSpn_kept, starterStop_kept]
    | split
    | dsimp only
theorem execPfailAssert_kept (s : State) :
    ∀ t, execPfailAssert s = .next t → t.kept false = s.kept false := by
  intro t h
  unfold execPfailAssert at h
  injection h with h
  subst h
  repeat' first
    | with_reducible rfl | simp only [kept_ite, kept_snd_ite, ite_self, pfailAssert_kept] | split | dsimp only
theorem execPfailDeassert_kept (ms : BitVec 16) (s : State) :
    ∀ t, execPfailDeassert ms s = .next t → t.kept false = s.kept false := by
  intro t h
  unfold execPfailDeassert at h
  injection h with h
  subst h
  repeat' first
    | with_reducible rfl
    | simp only [id_eq, implies_true, kept_ite, kept_snd_ite, ite_self, kept_fold0, kept_mk0, foldl_kept, foldl_snd_kept, State.put_kept, nvNext_kept, setSpn_kept]
    | split
    | dsimp only
theorem dieReset_kept (s : State) (die : Nat) :
    (dieReset s die).kept false = s.kept false := by
  unfold dieReset
  repeat' first
    | with_reducible rfl
    | simp only [id_eq, implies_true, kept_ite, kept_snd_ite, ite_self, kept_fold0, kept_mk0, foldl_kept, foldl_snd_kept, foldl_kept, linkLost_kept, powerUp_kept, resetDomain_kept, startTraining_kept]
    | with_reducible refine (foldl_kept _ (fun _ _ => ?_) _ _).trans ?_
    | with_reducible refine (foldl_snd_kept _ (fun _ _ => ?_) _ _).trans ?_
    | split
    | dsimp only
theorem execDrstAssert_kept (die : Fin 4) (s : State) :
    ∀ t, execDrstAssert die s = .next t → t.kept false = s.kept false := by
  intro t h
  unfold execDrstAssert at h
  injection h with h
  subst h
  repeat' first
    | with_reducible rfl | simp only [kept_ite, kept_snd_ite, ite_self, dieReset_kept] | split | dsimp only
theorem railsOff_kept (s : State) :
    (railsOff s).kept false = s.kept false := by
  unfold railsOff
  repeat' first
    | with_reducible rfl | simp only [kept_fold0, kept_mk0, State.put_kept, nvsStop_kept, retractAll_kept]
    | dsimp only
theorem execRailsRelease_kept (low : Bool) (ms : BitVec 16) (s : State) :
    ∀ t, execRailsRelease low ms s = .next t → t.kept false = s.kept false := by
  intro t h
  unfold execRailsRelease at h
  injection h with h
  subst h
  repeat' first
    | with_reducible rfl
    | simp only [kept_ite, kept_snd_ite, ite_self, State.put_kept, railsOff_kept, setSpn_kept] | split
    | dsimp only
theorem testedStart_kept (s : State) (straps : Straps) (failed : Nat) :
    (testedStart s straps failed).kept false = s.kept false := by
  unfold testedStart
  repeat' first
    | with_reducible rfl
    | simp only [id_eq, implies_true, kept_ite, kept_snd_ite, ite_self, kept_fold0, kept_mk0, foldl_kept, foldl_snd_kept, coldStart_kept, foldl_kept, suspectSensor_kept]
    | with_reducible refine (foldl_kept _ (fun _ _ => ?_) _ _).trans ?_
    | with_reducible refine (foldl_snd_kept _ (fun _ _ => ?_) _ _).trans ?_
    | split
    | dsimp only
theorem execRailsPowerUp_kept (port mgmt test : Bool) (failed : BitVec 3) (s : State) :
    ∀ t, execRailsPowerUp port mgmt test failed s = .next t → t.kept false = s.kept false := by
  intro t h
  unfold execRailsPowerUp at h
  injection h with h
  subst h
  repeat' first
    | with_reducible rfl
    | simp only [id_eq, implies_true, kept_ite, kept_snd_ite, ite_self, kept_fold0, kept_mk0, foldl_kept, foldl_snd_kept, testedStart_kept]
    | split
    | dsimp only
theorem railOutcome_kept (s : State) (r : Nat) :
    (railOutcome s r).kept false = s.kept false := by
  unfold railOutcome
  repeat' first
    | with_reducible rfl
    | simp only [id_eq, implies_true, kept_ite, kept_snd_ite, ite_self, kept_fold0, kept_mk0, foldl_kept, foldl_snd_kept, State.spnMap_kept, closeReadGate_kept, foldl_kept, inhibit_kept, linkLost_kept, nvsStop_kept, retractAll_kept]
    | with_reducible refine (foldl_kept _ (fun _ _ => ?_) _ _).trans ?_
    | with_reducible refine (foldl_snd_kept _ (fun _ _ => ?_) _ _).trans ?_
    | split
    | dsimp only
theorem execRailFault_kept (rail : Fin 10) (recent : Bool) (s : State) :
    ∀ t, execRailFault rail recent s = .next t → t.kept false = s.kept false := by
  intro t h
  unfold execRailFault at h
  injection h with h
  subst h
  repeat' first
    | with_reducible rfl
    | simp only [kept_ite, kept_snd_ite, ite_self, kept_fold0, kept_mk0, State.put_kept, State.spnMap_kept, railOutcome_kept, raise_kept]
    | split | dsimp only
theorem execRailGood_kept (rail : Fin 10) (s : State) :
    ∀ t, execRailGood rail s = .next t → t.kept false = s.kept false := by
  intro t h
  unfold execRailGood at h
  injection h with h
  subst h
  repeat' first
    | with_reducible rfl
    | simp only [implies_true, kept_ite, kept_snd_ite, ite_self, foldl_kept, foldl_snd_kept, State.put_kept, dieReset_kept, scanDue_kept, scanStart_kept, startRelease_kept]
    | with_reducible refine (foldl_kept _ (fun _ _ => ?_) _ _).trans ?_
    | with_reducible refine (foldl_snd_kept _ (fun _ _ => ?_) _ _).trans ?_ | split | dsimp only
theorem execRailCycle_kept (failed : BitVec 3) (s : State) :
    ∀ t, execRailCycle failed s = .next t → t.kept false = s.kept false := by
  intro t h
  unfold execRailCycle at h
  injection h with h
  subst h
  repeat' first
    | with_reducible rfl
    | simp only [id_eq, implies_true, kept_ite, kept_snd_ite, ite_self, kept_fold0, kept_mk0, foldl_kept, foldl_snd_kept, testedStart_kept]
    | split
    | dsimp only
end Sys2Proof.Machine
end

