-- ==== Sys2Proof/Laws/KeptFirmware.lean ====
section
/-! SUPPORT. Frame laws of Machine/Firmware.lean: each operation and command there leaves the fuses and the queue
as they are, and the stores too where the law says so of every level. -/

namespace Sys2Proof.Machine

open Sys2Proof

set_option maxRecDepth 4000
set_option linter.all false

variable {lv : Bool}

theorem execFwImageDownload_kept (slot : Fin 4096) (offset : BitVec 32) (bytes : List Byte) (s : State) :
    ∀ t, execFwImageDownload slot offset bytes s = .next t → t.kept lv = s.kept lv := by
  intro t h
  unfold execFwImageDownload at h
  injection h with h
  subst h
  repeat' first
    | with_reducible rfl
    | simp only [implies_true, kept_ite, kept_snd_ite, ite_self, kept_fold, kept_mk, endCmd_kept, onAdminIdle_kept]
    | with_reducible refine (onAdminIdle_ho (fun _ _ => ?_)).trans ?_ | split | dsimp only
theorem eraseUnit_kept (s : State) (u : Nat) :
    (eraseUnit s u).kept false = s.kept false := by
  unfold eraseUnit
  repeat' first
    | with_reducible rfl
    | simp only [kept_ite, kept_snd_ite, ite_self, kept_fold0, kept_mk0, State.nvMap_kept, beginErase_kept, eraseDone_kept]
    | with_reducible refine (kept_of_eq ‹_›).trans ?_ | with_reducible refine (kept_of_eq3 ‹_›).trans ?_ | split
    | dsimp only
theorem storeImage_kept (s : State) (slot : Nat) (img : List Nat) :
    (storeImage s slot img).kept false = s.kept false := by
  unfold storeImage
  repeat' first
    | with_reducible rfl
    | simp only [implies_true, foldl_kept, foldl_snd_kept, eraseUnit_kept, nvProgram_kept, nvsResult_kept, nvsSync_kept, quarterUp_kept]
    | with_reducible refine (foldl_kept _ (fun _ _ => ?_) _ _).trans ?_
    | with_reducible refine (foldl_snd_kept _ (fun _ _ => ?_) _ _).trans ?_ | dsimp only
theorem storeThen_kept (s : State) (k slot : Nat) (f : State → State) (hf : ∀ (a0 : State), (f a0).kept false = a0.kept false) :
    (storeThen s k slot f).kept false = s.kept false := by
  unfold storeThen
  repeat' first
    | with_reducible rfl
    | simp only [kept_ite, kept_snd_ite, ite_self, kept_fold0, kept_mk0, hf, endCmd_kept, storeImage_kept]
    | with_reducible refine (kept_of_eq ‹_›).trans ?_ | with_reducible refine (kept_of_eq3 ‹_›).trans ?_ | split
    | dsimp only
theorem storeThen_ho {s : State} {k slot : Nat} {f : State → State} (hf : ∀ (a0 : State), (f a0).kept false = a0.kept false) :
    (storeThen s k slot f).kept false = s.kept false := storeThen_kept s k slot f hf
theorem activateNext_kept (s : State) (k slot : Nat) :
    (activateNext s k slot).kept false = s.kept false := by
  unfold activateNext
  repeat' first
    | with_reducible rfl
    | simp only [kept_ite, kept_snd_ite, ite_self, kept_fold0, kept_mk0, State.put_kept, coxRestart_kept, endCmd_kept]
    | split | dsimp only
theorem onCommit_kept (s : State) (k : Nat) (recovery : Bool) (f : State → State) (hf : ∀ (a0 : State), (f a0).kept lv = a0.kept lv) :
    (onCommit s k recovery f).kept lv = s.kept lv := by
  unfold onCommit
  repeat' first
    | with_reducible rfl
    | simp only [implies_true, kept_ite, kept_snd_ite, ite_self, hf, endCmd_kept, onAdminIdle_kept]
    | with_reducible refine (onAdminIdle_ho (fun _ _ => ?_)).trans ?_ | split | dsimp only
theorem onCommit_ho {s : State} {k : Nat} {recovery : Bool} {f : State → State} (hf : ∀ (a0 : State), (f a0).kept lv = a0.kept lv) :
    (onCommit s k recovery f).kept lv = s.kept lv := onCommit_kept s k recovery f hf
theorem execFwCommitStore_kept (slot : Fin 4096) (fs : BitVec 3) (s : State) :
    ∀ t, execFwCommitStore slot fs s = .next t → t.kept false = s.kept false := by
  intro t h
  unfold execFwCommitStore at h
  injection h with h
  subst h
  repeat' first
    | with_reducible rfl | simp only [implies_true, endCmd_kept, onCommit_kept, storeThen_kept]
    | with_reducible refine (onCommit_ho (fun _ => ?_)).trans ?_
    | with_reducible refine (storeThen_ho (fun _ => ?_)).trans ?_ | dsimp only
theorem execFwCommitStoreActivate_kept (slot : Fin 4096) (fs : BitVec 3) (s : State) :
    ∀ t, execFwCommitStoreActivate slot fs s = .next t → t.kept false = s.kept false := by
  intro t h
  unfold execFwCommitStoreActivate at h
  injection h with h
  subst h
  repeat' first
    | with_reducible rfl | simp only [implies_true, activateNext_kept, onCommit_kept, storeThen_kept]
    | with_reducible refine (onCommit_ho (fun _ => ?_)).trans ?_
    | with_reducible refine (storeThen_ho (fun _ => ?_)).trans ?_ | dsimp only
theorem withStored_kept (s : State) (k slot : Nat) (f : State → State) (hf : ∀ (a0 : State), (f a0).kept lv = a0.kept lv) :
    (withStored s k slot f).kept lv = s.kept lv := by
  unfold withStored
  repeat' first
    | with_reducible rfl | simp only [kept_ite, kept_snd_ite, ite_self, kept_fold, kept_mk, hf, endCmd_kept]
    | with_reducible refine (kept_of_eq ‹_›).trans ?_ | with_reducible refine (kept_of_eq3 ‹_›).trans ?_ | split
    | dsimp only
theorem withStored_ho {s : State} {k slot : Nat} {f : State → State} (hf : ∀ (a0 : State), (f a0).kept lv = a0.kept lv) :
    (withStored s k slot f).kept lv = s.kept lv := withStored_kept s k slot f hf
theorem execFwCommitActivate_kept (slot : Fin 4096) (fs : BitVec 3) (s : State) :
    ∀ t, execFwCommitActivate slot fs s = .next t → t.kept false = s.kept false := by
  intro t h
  unfold execFwCommitActivate at h
  injection h with h
  subst h
  repeat' first
    | with_reducible rfl
    | simp only [implies_true, kept_fold0, kept_mk0, activateNext_kept, onCommit_kept, withStored_kept]
    | with_reducible refine (onCommit_ho (fun _ => ?_)).trans ?_
    | with_reducible refine (withStored_ho (fun _ => ?_)).trans ?_ | dsimp only
theorem replaceStore_kept (img : List Nat) (p : Part) (s : State) (u : Nat) :
    (replaceStore img p s u).kept lv = s.kept lv := by
  unfold replaceStore
  repeat' first
    | with_reducible rfl
    | simp only [id_eq, implies_true, kept_ite, kept_snd_ite, ite_self, kept_fold, kept_mk, foldl_kept, foldl_snd_kept, State.put_kept, State.setSqr_kept, foldl_kept, putWord_kept, setAuth_kept]
    | with_reducible refine (foldl_kept _ (fun _ _ => ?_) _ _).trans ?_
    | with_reducible refine (foldl_snd_kept _ (fun _ _ => ?_) _ _).trans ?_
    | split
    | dsimp only
theorem replaceImage_kept (p : Part) (s : State) (d : Nat) :
    (replaceImage p s d).kept false = s.kept false := by
  unfold replaceImage
  repeat' first
    | with_reducible rfl
    | simp only [implies_true, kept_ite, kept_snd_ite, ite_self, kept_fold0, kept_mk0, foldl_kept, foldl_snd_kept, State.bump_kept, State.put_kept, State.setDom_kept, resetDomain_kept, setDomState_kept]
    | with_reducible refine (foldl_kept _ (fun _ _ => ?_) _ _).trans ?_
    | with_reducible refine (foldl_snd_kept _ (fun _ _ => ?_) _ _).trans ?_ | split | dsimp only
theorem replaceCore_kept (s : State) (c : Nat) :
    (replaceCore s c).kept false = s.kept false := by
  unfold replaceCore
  repeat' first
    | with_reducible rfl
    | simp only [kept_ite, kept_snd_ite, ite_self, State.bump_kept, resetDomain_kept, setDomState_kept] | split
    | dsimp only
theorem easeUnit_kept (s : State) (u : Nat) :
    (easeUnit s u).kept lv = s.kept lv := by
  unfold easeUnit
  repeat' first
    | with_reducible rfl
    | simp only [id_eq, implies_true, kept_ite, kept_snd_ite, ite_self, kept_fold, kept_mk, foldl_kept, foldl_snd_kept, State.put_kept, sqTransition_kept]
    | split
    | dsimp only
theorem replaceAt_kept (img : List Nat) (p : Part) (a : Activation) (s : State) (x : Nat) :
    (replaceAt img p a s x).kept false = s.kept false := by
  unfold replaceAt
  repeat' first
    | with_reducible rfl
    | simp only [id_eq, implies_true, kept_ite, kept_snd_ite, ite_self, kept_fold0, kept_mk0, foldl_kept, foldl_snd_kept, State.put_kept, replaceCore_kept, replaceImage_kept, replaceStore_kept, startUnit_kept]
    | split
    | dsimp only
theorem activationMap_kept (s : State) (f : Activation → Activation) :
    (activationMap s f).kept lv = s.kept lv := by
  unfold activationMap
  repeat' first
    | with_reducible rfl
    | simp only [id_eq, implies_true, kept_ite, kept_snd_ite, ite_self, kept_fold, kept_mk, foldl_kept, foldl_snd_kept]
    | split
    | dsimp only
theorem activationStep_kept (s : State) :
    (activationStep s).kept false = s.kept false := by
  unfold activationStep
  repeat' first
    | with_reducible rfl
    | simp only [id_eq, implies_true, kept_ite, kept_snd_ite, ite_self, kept_fold0, kept_mk0, foldl_kept, foldl_snd_kept, activationMap_kept, asyncBoth_kept, easeDomain_kept, easeUnit_kept, endCmd_kept, measurePart_kept, replaceAt_kept]
    | with_reducible refine (kept_of_eq ‹_›).trans ?_
    | with_reducible refine (kept_of_eq3 ‹_›).trans ?_
    | split
    | dsimp only
theorem execFwCommitActivateNow_kept (slot : Fin 4096) (fs : BitVec 3) (s : State) :
    ∀ t, execFwCommitActivateNow slot fs s = .next t → t.kept false = s.kept false := by
  intro t h
  unfold execFwCommitActivateNow at h
  injection h with h
  subst h
  repeat' first
    | with_reducible rfl
    | simp only [id_eq, implies_true, kept_ite, kept_snd_ite, ite_self, kept_fold0, kept_mk0, foldl_kept, foldl_snd_kept, activateNext_kept, activationStep_kept, onCommit_kept, startSlot_kept, storeThen_kept, withStored_kept]
    | with_reducible refine (storeThen_ho (fun _ => ?_)).trans ?_
    | with_reducible refine (onCommit_ho (fun _ => ?_)).trans ?_
    | with_reducible refine (withStored_ho (fun _ => ?_)).trans ?_
    | split
    | dsimp only
theorem execControllerDisable_kept (ctrl : Fin 2) (s : State) :
    ∀ t, execControllerDisable ctrl s = .next t → t.kept false = s.kept false := by
  intro t h
  unfold execControllerDisable at h
  injection h with h
  subst h
  repeat' first
    | with_reducible rfl
    | simp only [kept_ite, kept_snd_ite, ite_self, State.bump_kept, State.put_kept, controllerDisable_kept, resetDomain_kept, setPageState_kept]
    | split | dsimp only
theorem execFunctionLevelReset_kept (ctrl : Fin 2) (s : State) :
    ∀ t, execFunctionLevelReset ctrl s = .next t → t.kept false = s.kept false := by
  intro t h
  unfold execFunctionLevelReset at h
  injection h with h
  subst h
  repeat' first
    | with_reducible rfl
    | simp only [kept_ite, kept_snd_ite, ite_self, State.put_kept, raise_kept, resetFunction_kept] | split
    | dsimp only
end Sys2Proof.Machine
end

