-- ==== Sys2Proof/Machine/Mirror.lean ====
section
/-! DEFINITION. Mirror images in the system bands: the header, which images are sound, and the newest of a kind (R83,
R488, R489). Firmware writes them and restores from them; what it reads is this. -/

namespace Sys2Proof.Machine

open Sys2Proof

/-- An image's header (R489). -/
structure MirrorHead where
  /-- 1 calibration sets, 2 identity certificates, 3 zone map checkpoint, 4 event recorder overflow -/
  kind : Nat
  /-- increasing per device and kind -/
  seq : Nat
  /-- content bytes -/
  length : Nat
  /-- content sectors -/
  sectors : Nat
  /-- power-cycle count when written -/
  cycle : Nat
  /-- first Keel unit copied, for kinds 1 and 2 -/
  source : Nat
  /-- CRC-32C over the content bytes -/
  crc : Nat
  deriving DecidableEq, Repr

/-- The header in a sector's first 64 user bytes, if MAGIC, KIND and HEADER_CRC are right (R489). -/
def mirrorHead (b : List Nat) : Option MirrorHead :=
  let n := fun (at_ k : Nat) => leNat ((b.drop at_).take k)
  if n 0 4 = 0x4D525231 && crc32c (b.take 60) = n 60 4 && 1 ≤ n 4 1 && decide (n 4 1 ≤ 4) then
    some ⟨n 4 1, n 8 8, n 16 4, n 20 4, n 24 4, n 28 4, n 32 4⟩
  else none

/-- The 64 bytes of a header (R489). -/
def MirrorHead.bytes (h : MirrorHead) : List Nat :=
  let b := leBytes 4 0x4D525231 ++ [h.kind % 256, 0, 0, 0] ++ leBytes 8 h.seq ++ leBytes 4 h.length ++ leBytes 4 h.sectors ++
    leBytes 4 h.cycle ++ leBytes 4 h.source ++ leBytes 4 h.crc ++ List.replicate 24 0
  b ++ leBytes 4 (crc32c b)

/-- The user bytes of sector `i` of a system band (R130, R489). -/
def mirrorSector (s : State) (head band i : Nat) : Option (List Nat) :=
  (sectorAt s (translateBand s 0 0 head band i false).1 false).map (·.take 4096)

/-- The content bytes after a header sector at place `i`, if every sector is there and CONTENT_CRC is right (R489). -/
def mirrorContent (s : State) (head band i : Nat) (h : MirrorHead) : Option (List Nat) :=
  let l := (List.range h.sectors).map fun k => mirrorSector s head band (i + 1 + k)
  if l.all (·.isSome) then
    let b := (l.flatMap fun x => x.getD []).take h.length
    if b.length = h.length && crc32c b = h.crc then some b else none
  else none

/-- The sound images of a kind in a band, in write order, from place `i` on; `fuel` bounds the images (R489). -/
def mirrorImages (s : State) (head band kind : Nat) : Nat → Nat → List (MirrorHead × List Nat)
  | 0, _ => []
  | fuel + 1, i => match (mirrorSector s head band i).bind mirrorHead with
    | none => []
    | some h =>
      let r := mirrorImages s head band kind fuel (i + 1 + h.sectors)
      match mirrorContent s head band i h with
      | some b => if h.kind = kind then (h, b) :: r else r
      | none => r

/-- The newest valid image: the highest SEQ (R489). -/
def newestMirror (l : List (MirrorHead × List Nat)) : Option (MirrorHead × List Nat) :=
  l.foldl (fun best x => match best with
    | none => some x
    | some y => if y.1.seq < x.1.seq then some x else some y) none

end Sys2Proof.Machine
end

