-- ==== Sys2Proof/Laws/KeptRegisterAccess.lean ====
section
/-! SUPPORT. Frame laws of Machine/RegisterAccess.lean: each operation and command there leaves the fuses and the queue
as they are, and the stores too where the law says so of every level. -/

namespace Sys2Proof.Machine

open Sys2Proof

set_option maxRecDepth 4000
set_option linter.all false

variable {lv : Bool}

theorem clearRead_kept (s : State) (q : Req) (p : Page) (off : Nat) :
    (clearRead s q p off).kept lv = s.kept lv := by
  unfold clearRead
  repeat' first
    | with_reducible rfl
    | simp only [implies_true, kept_ite, kept_snd_ite, ite_self, foldl_kept, foldl_snd_kept, State.put_kept]
    | with_reducible refine (foldl_kept _ (fun _ _ => ?_) _ _).trans ?_
    | with_reducible refine (foldl_snd_kept _ (fun _ _ => ?_) _ _).trans ?_ | split | dsimp only
theorem sampledRead_kept (n : Nat) (s : State) :
    (sampledRead n s).2.kept lv = s.kept lv := by
  unfold sampledRead
  repeat' first
    | with_reducible rfl | simp only [State.drawn_kept] | dsimp only
theorem phaseRead_kept (s : State) :
    (phaseRead s).2.kept lv = s.kept lv := by
  unfold phaseRead
  repeat' first
    | with_reducible rfl | simp only [kept_ite, kept_snd_ite, ite_self, sampledRead_kept] | split | dsimp only
theorem macOutRead_kept (s : State) :
    (macOutRead s).2.kept lv = s.kept lv := by
  unfold macOutRead
  repeat' first
    | with_reducible rfl
    | simp only [id_eq, implies_true, kept_ite, kept_snd_ite, ite_self, kept_fold, kept_mk, foldl_kept, foldl_snd_kept, sampledRead_kept]
    | split
    | dsimp only
theorem actingRead_kept {q : Req} {p : Page} {off : Nat} {f : State → Nat × State} (h : actingRead q p off = some f)
    (s : State) : (f s).2.kept lv = s.kept lv := by
  unfold actingRead at h
  dsimp only at h
  repeat' split at h
  all_goals first
    | (cases h; done)
    | (rw [← Option.some.inj h]; done)
    | (rw [← Option.some.inj h]; first
       | with_reducible exact phaseRead_kept _
       | with_reducible exact measRead_kept _
       | with_reducible exact sbufDataRead_kept _ _
       | with_reducible exact ldpCoefRead_kept _ _
       | with_reducible exact srvCoefRead_kept _ _
       | with_reducible exact capRead_kept _ _
       | with_reducible exact headDataRead_kept _ _
       | with_reducible exact csDataRead_kept _ _
       | with_reducible exact sampledRead_kept _ _
       | with_reducible exact macOutRead_kept _
       | with_reducible exact wordRead_kept _ _ _
       | with_reducible exact inPop_kept _ _
       )
theorem regRead_kept (q : Req) (p : Page) (off : Nat) (s : State) : (regRead q p off s).2.kept lv = s.kept lv := by
  unfold regRead
  split
  · exact actingRead_kept ‹_› s
  · split
    · rfl
    · exact (clearRead_kept _ _ _ _).trans (latchWords_kept _ _ _ _)
theorem readAccess_kept (q : Req) (addr size : Nat) (s : State) :
    (readAccess q addr size s).kept lv = s.kept lv := by
  unfold readAccess
  repeat' first
    | with_reducible rfl
    | simp only [implies_true, kept_ite, kept_snd_ite, ite_self, kept_fold, kept_mk, State.reply_kept, State.wait_kept, actingRead_kept, guardedRead_kept, regRead_kept]
    | with_reducible refine (guardedRead_ho (fun _ => ?_)).trans ?_
    | with_reducible refine (kept_of_eq ‹_›).trans ?_ | with_reducible refine (kept_of_eq3 ‹_›).trans ?_ | split
    | dsimp only
theorem addressRead_kept (q : Req) (a size : Nat) (s : State) :
    (addressRead q a size s).kept lv = s.kept lv := by
  unfold addressRead
  repeat' first
    | with_reducible rfl
    | simp only [id_eq, implies_true, kept_ite, kept_snd_ite, ite_self, kept_fold, kept_mk, foldl_kept, foldl_snd_kept, State.reply_kept, readAccess_kept]
    | with_reducible refine (kept_of_eq ‹_›).trans ?_
    | with_reducible refine (kept_of_eq3 ‹_›).trans ?_
    | split
    | dsimp only
theorem execRegisterReadClear_kept (q : Req) (addr : BitVec 32) (size : Nat) (s : State) :
    ∀ t, execRegisterReadClear q addr size s = .next t → t.kept lv = s.kept lv := by
  intro t h
  unfold execRegisterReadClear at h
  injection h with h
  subst h
  repeat' first
    | with_reducible rfl
    | simp only [id_eq, implies_true, kept_ite, kept_snd_ite, ite_self, kept_fold, kept_mk, foldl_kept, foldl_snd_kept, addressRead_kept]
    | split
    | dsimp only
theorem execWideReadLatch_kept (q : Req) (addr : BitVec 32) (s : State) :
    ∀ t, execWideReadLatch q addr s = .next t → t.kept lv = s.kept lv := by
  intro t h
  unfold execWideReadLatch at h
  injection h with h
  subst h
  repeat' first
    | with_reducible rfl
    | simp only [id_eq, implies_true, kept_ite, kept_snd_ite, ite_self, kept_fold, kept_mk, foldl_kept, foldl_snd_kept, addressRead_kept]
    | split
    | dsimp only
theorem diagRefused_kept (addr : Nat) (w : Option Word) (s : State) :
    (diagRefused addr w s).kept lv = s.kept lv := by
  unfold diagRefused
  repeat' first
    | with_reducible rfl
    | simp only [kept_ite, kept_snd_ite, ite_self, kept_fold, kept_mk, State.bump_kept, denied_kept, raise_kept]
    | with_reducible refine (kept_of_eq ‹_›).trans ?_ | with_reducible refine (kept_of_eq3 ‹_›).trans ?_ | split
    | dsimp only
end Sys2Proof.Machine
end

