-- ==== Sys2Proof/Laws/KeptService.lean ====
section
/-! SUPPORT. Frame laws of Machine/Service.lean: each operation and command there leaves the fuses and the queue
as they are, and the stores too where the law says so of every level. -/

namespace Sys2Proof.Machine

open Sys2Proof

set_option maxRecDepth 4000
set_option linter.all false

variable {lv : Bool}

theorem serveAsk_kept (s : State) (x : Ask) :
    (serveAsk s x).kept false = s.kept false := by
  unfold serveAsk
  repeat' first
    | with_reducible rfl
    | simp only [id_eq, implies_true, kept_ite, kept_snd_ite, ite_self, kept_fold0, kept_mk0, foldl_kept, foldl_snd_kept, State.put_kept, calTrim_kept, domRuns_kept, outPush_kept, wakeDomain_kept]
    | with_reducible refine (kept_of_eq ‹_›).trans ?_
    | with_reducible refine (kept_of_eq3 ‹_›).trans ?_
    | split
    | dsimp only
theorem serveAsks_kept (s : State) (n : Nat) :
    (serveAsks s n).kept false = s.kept false := by
  unfold serveAsks
  repeat' first
    | with_reducible rfl
    | simp only [id_eq, implies_true, kept_ite, kept_snd_ite, ite_self, kept_fold0, kept_mk0, foldl_kept, foldl_snd_kept, serveAsk_kept]
    | with_reducible refine (foldl_kept _ (fun _ _ => ?_) _ _).trans ?_
    | with_reducible refine (foldl_snd_kept _ (fun _ _ => ?_) _ _).trans ?_
    | split
    | dsimp only
theorem workGoesOn_kept (s : State) (n : Nat) :
    (workGoesOn s n).kept false = s.kept false := by
  unfold workGoesOn
  repeat' first
    | with_reducible rfl
    | simp only [id_eq, implies_true, kept_ite, kept_snd_ite, ite_self, kept_fold0, kept_mk0, foldl_kept, foldl_snd_kept, commitOar_kept, nvNext_kept]
    | split
    | dsimp only
theorem execEventNotice_kept (s : State) :
    ∀ t, execEventNotice s = .next t → t.kept lv = s.kept lv := by
  intro t h
  unfold execEventNotice at h
  injection h with h
  subst h
  repeat' first
    | with_reducible rfl
    | simp only [kept_ite, kept_snd_ite, ite_self, kept_fold, kept_mk, eventWake_kept, report_kept]
    | with_reducible refine (kept_of_eq ‹_›).trans ?_ | with_reducible refine (kept_of_eq3 ‹_›).trans ?_ | split
    | dsimp only
theorem fatalFault_kept (s : State) (p : Page) :
    (fatalFault s p).kept false = s.kept false := by
  unfold fatalFault
  repeat' first
    | with_reducible rfl
    | simp only [id_eq, implies_true, kept_ite, kept_snd_ite, ite_self, kept_fold0, kept_mk0, foldl_kept, foldl_snd_kept, State.setVcm_kept, hqFault_kept, l2Fault_kept, pageFault_kept, retractEnded_kept, setVcmState_kept, spnFaults_kept, srvFault_kept]
    | with_reducible refine (kept_of_eq ‹_›).trans ?_
    | with_reducible refine (kept_of_eq3 ‹_›).trans ?_
    | split
    | dsimp only
theorem execBlockFault_kept (page : BitVec 14) (s : State) :
    ∀ t, execBlockFault page s = .next t → t.kept false = s.kept false := by
  intro t h
  unfold execBlockFault at h
  injection h with h
  subst h
  repeat' first
    | with_reducible rfl | simp only [kept_ite, kept_snd_ite, ite_self, kept_fold0, kept_mk0, fatalFault_kept]
    | with_reducible refine (kept_of_eq ‹_›).trans ?_ | with_reducible refine (kept_of_eq3 ‹_›).trans ?_ | split
    | dsimp only
theorem idleTest_kept (s : State) :
    (idleTest s).kept false = s.kept false := by
  unfold idleTest
  repeat' first
    | with_reducible rfl
    | simp only [id_eq, implies_true, kept_ite, kept_snd_ite, ite_self, kept_fold0, kept_mk0, foldl_kept, foldl_snd_kept, schSettle_kept]
    | split
    | dsimp only
theorem idlePower_kept (s : State) :
    (idlePower s).kept false = s.kept false := by
  unfold idlePower
  repeat' first
    | with_reducible rfl
    | simp only [id_eq, implies_true, kept_ite, kept_snd_ite, ite_self, kept_fold0, kept_mk0, foldl_kept, foldl_snd_kept, fillLanes_kept, powerStep_kept]
    | split
    | dsimp only
theorem idleStep_kept (s : State) :
    (idleStep s).kept false = s.kept false := by
  unfold idleStep
  repeat' first
    | with_reducible rfl
    | simp only [id_eq, implies_true, kept_ite, kept_snd_ite, ite_self, kept_fold0, kept_mk0, foldl_kept, foldl_snd_kept, activationStep_kept, idlePower_kept, idleTest_kept, sanitizeEnds_kept]
    | split
    | dsimp only
end Sys2Proof.Machine
end

