-- ==== Sys2Proof/Laws/Memory.lean ====
section
/-! SUPPORT. Buffer memory: a byte reads what was written to it and no other byte changes; every operation keeps the
canonical form of the cells, and reset has it. -/

namespace Sys2Proof.Machine

open Sys2Proof

/-! Bytes. -/

theorem Dram.byte_setByte_same (d : Dram) (a : Nat) (b : Byte) : (d.setByte a b).byte a = b := by
  unfold Dram.setByte Dram.byte
  exact sget_sset_same a b

theorem Dram.byte_setByte_other (d : Dram) {a c : Nat} (b : Byte) (h : c ≠ a) : (d.setByte a b).byte c = d.byte c := by
  unfold Dram.setByte Dram.byte
  show sget (fillByte d.fills c) (sset (fillByte d.fills a) d.cells a b) c = _
  unfold sset
  split
  · exact sget_sdel_other h
  · rw [sget_sins_other _ h, sget_sdel_other h]

/-- Bytes written from an address on read back, and no other byte changes. -/
theorem Dram.byte_setBytes (l : List Nat) (d : Dram) (a c : Nat) :
    (d.setBytes a l).byte c =
      if a ≤ c ∧ c < a + l.length then BitVec.ofNat 8 (l.getD (c - a) 0) else d.byte c := by
  induction l generalizing d a with
  | nil => simp only [Dram.setBytes, List.length_nil]; rw [if_neg (by omega)]
  | cons b l ih =>
    rw [Dram.setBytes, ih, List.length_cons]
    by_cases h : a + 1 ≤ c ∧ c < a + 1 + l.length
    · rw [if_pos h, if_pos (by omega)]
      have e : c - a = c - (a + 1) + 1 := by omega
      rw [e, List.getD_cons_succ]
    · rw [if_neg h]
      by_cases e : c = a
      · subst e
        rw [if_pos (by omega), Dram.byte_setByte_same]
        simp
      · rw [if_neg (by omega), Dram.byte_setByte_other _ _ e]

/-- The other parts of buffer memory stay. -/
theorem Dram.setBytes_parts (l : List Nat) (d : Dram) (a : Nat) :
    d.setBytes a l = { d with cells := (d.setBytes a l).cells } := by
  induction l generalizing d a with
  | nil => rfl
  | cons b l ih => rw [Dram.setBytes, ih]; rfl

theorem Dram.length_bytes (d : Dram) (n a : Nat) : (d.bytes a n).length = n := by
  induction n generalizing a with
  | zero => rfl
  | succ n ih => rw [Dram.bytes, List.length_cons, ih]

theorem Dram.getD_bytes (d : Dram) (n a i : Nat) (h : i < n) : (d.bytes a n).getD i 0 = (d.byte (a + i)).toNat := by
  induction n generalizing a i with
  | zero => omega
  | succ n ih =>
    cases i with
    | zero => rw [Dram.bytes]; simp
    | succ i =>
      rw [Dram.bytes, List.getD_cons_succ, ih _ _ (by omega)]
      congr 2; omega

/-- What storing a granule leaves of buffer memory. -/
theorem storeGranule_dram (s : State) (g : Nat) (bytes : List Nat) (poison : Bool) :
    ∃ pl er, (storeGranule s g bytes poison).dram =
      { s.dram.setBytes (32 * g) bytes with poison := pl, err := sset 0 s.dram.err g er } := by
  have h : ∀ er, ∃ pl, (putGranule s g bytes poison er).dram =
      { s.dram.setBytes (32 * g) bytes with poison := pl, err := sset 0 s.dram.err g er } := by
    intro er
    refine ⟨(putGranule s g bytes poison er).dram.poison, ?_⟩
    have he : (s.dram.setBytes (32 * g) bytes).err = s.dram.err := by rw [Dram.setBytes_parts]
    rw [← he]
    rfl
  have hr : ∀ (s : State) p b l, (raise s p b l).dram = s.dram := by
    intro s p b l
    unfold raise
    split
    · dsimp only; split <;> rfl
    · rfl
  unfold storeGranule
  split
  · obtain ⟨pl, h⟩ := h (flipMask s)
    exact ⟨pl, _, by rw [hr]; exact h⟩
  · obtain ⟨pl, h⟩ := h 0
    exact ⟨pl, _, h⟩

/-! The canonical form. -/

theorem Memory.wf_iff (d : Dram) : Memory.wf d = true ↔
    d.cells.Pairwise (fun a b => a.1 < b.1) ∧ ∀ e ∈ d.cells, e.2 ≠ fillByte d.fills e.1 := by
  simp [Memory.wf]

/-- Only the cells and the patterns matter. -/
theorem Memory.wf_congr {d e : Dram} (hc : e.cells = d.cells) (hf : e.fills = d.fills) : Memory.wf e = Memory.wf d := by
  unfold Memory.wf; rw [hc, hf]

theorem Memory.wf_setByte {d : Dram} (a : Nat) (b : Byte) (h : Memory.wf d = true) :
    Memory.wf (d.setByte a b) = true := by
  rw [Memory.wf_iff] at h ⊢
  have hp : (sdel d.cells a).Pairwise (fun a b => a.1 < b.1) := h.1.filter _
  have hd : ∀ e ∈ sdel d.cells a, e.2 ≠ fillByte d.fills e.1 := fun e he => h.2 e (List.mem_filter.1 he).1
  unfold Dram.setByte sset
  split
  · exact ⟨hp, hd⟩
  · rename_i hb
    refine ⟨pairwise_sins hp (sdel_ne a), fun e he => ?_⟩
    rcases mem_sins he with rfl | he
    · exact hb
    · exact hd e he

theorem Memory.wf_setBytes (l : List Nat) {d : Dram} (a : Nat) (h : Memory.wf d = true) :
    Memory.wf (d.setBytes a l) = true := by
  induction l generalizing d a with
  | nil => exact h
  | cons b l ih => exact ih (a + 1) (Memory.wf_setByte a _ h)

theorem Memory.wf_put {s : State} (F : Fld) (v i k : Nat) : Memory.wf (s.put F v i k).dram = Memory.wf s.dram := rfl

theorem Memory.wf_bump {s : State} (F : Fld) (n i k : Nat) : Memory.wf (s.bump F n i k).dram = Memory.wf s.dram := rfl

theorem Memory.wf_raise (s : State) (p : Page) (b l : Nat) : Memory.wf (raise s p b l).dram = Memory.wf s.dram := by
  unfold raise
  split
  · dsimp only; split <;> rfl
  · rfl

theorem Memory.wf_putGranule {s : State} (g : Nat) (bytes : List Nat) (poison : Bool) (err : Nat)
    (h : Memory.wf s.dram = true) : Memory.wf (putGranule s g bytes poison err).dram = true :=
  (Memory.wf_congr rfl rfl).trans (Memory.wf_setBytes bytes (32 * g) h)

theorem Memory.wf_storeGranule {s : State} (g : Nat) (bytes : List Nat) (poison : Bool)
    (h : Memory.wf s.dram = true) : Memory.wf (storeGranule s g bytes poison).dram = true := by
  unfold storeGranule
  split
  · rw [Memory.wf_raise, Memory.wf_put]; exact Memory.wf_putGranule g bytes poison _ h
  · exact Memory.wf_putGranule g bytes poison _ h

theorem Memory.wf_correctedError (s : State) (g : Nat) :
    Memory.wf (correctedError s g).dram = Memory.wf s.dram := by
  unfold correctedError
  extract_lets c s1 l
  split
  · rw [Memory.wf_raise]; rfl
  · rfl

theorem Memory.wf_uncorrectable {s : State} (g : Nat) (raw : List Nat) (h : Memory.wf s.dram = true) :
    Memory.wf (uncorrectable s g raw).dram = true := by
  unfold uncorrectable
  rw [Memory.wf_raise]
  exact Memory.wf_putGranule g raw true 0 h

theorem Memory.wf_readGranule {s : State} (g : Nat) (h : Memory.wf s.dram = true) :
    Memory.wf (readGranule s g).2.dram = true := by
  unfold readGranule
  extract_lets good e raw n p v s1
  have h1 : Memory.wf s1.dram = true := h
  repeat' split
  · exact h
  · exact h
  · rw [Memory.wf_correctedError]; exact h
  · exact Memory.wf_uncorrectable g raw h
  · exact Memory.wf_uncorrectable g raw h1
  · rw [Memory.wf_correctedError]; exact h1
  · exact h1

theorem Memory.wf_flushEntry {s : State} (m : Merge) (h : Memory.wf s.dram = true) :
    Memory.wf (flushEntry s m).dram = true := by
  unfold flushEntry
  extract_lets d s1 new r s2 s3
  have h1 : Memory.wf s1.dram = true := (Memory.wf_congr rfl rfl).trans h
  have h3 : Memory.wf s3.dram = true :=
    Memory.wf_storeGranule _ _ _ ((Memory.wf_bump _ _ _ _).trans (Memory.wf_readGranule _ h1))
  split
  · exact Memory.wf_storeGranule _ _ _ h1
  · split
    · rw [Memory.wf_raise]; exact (Memory.wf_bump _ _ _ _).trans h3
    · exact h3

theorem Memory.wf_foldl {α : Type} (f : State → α → State)
    (hf : ∀ s x, Memory.wf s.dram = true → Memory.wf (f s x).dram = true) (l : List α) {s : State}
    (h : Memory.wf s.dram = true) : Memory.wf (l.foldl f s).dram = true := by
  induction l generalizing s with
  | nil => exact h
  | cons x l ih => exact ih (hf s x h)

theorem Memory.wf_flushMerge {s : State} (h : Memory.wf s.dram = true) : Memory.wf (flushMerge s).dram = true :=
  Memory.wf_foldl _ (fun _ m => Memory.wf_flushEntry m) _ h

theorem Memory.wf_flushGranule {s : State} (g : Nat) (h : Memory.wf s.dram = true) :
    Memory.wf (flushGranule s g).dram = true := by
  unfold flushGranule
  split
  · exact Memory.wf_flushEntry _ h
  · exact h

theorem Memory.wf_mergeWrite {s : State} (g : Nat) (bytes : List Nat) (mask : List Bool) (poison : Bool)
    (h : Memory.wf s.dram = true) : Memory.wf (mergeWrite s g bytes mask poison).dram = true := by
  unfold mergeWrite
  split
  · extract_lets m d s1
    have h1 : Memory.wf s1.dram = true := (Memory.wf_congr rfl rfl).trans h
    split
    · exact Memory.wf_flushEntry _ h1
    · exact h1
  · refine (Memory.wf_congr rfl rfl).trans (?_ : Memory.wf _ = true)
    split
    · split
      · exact Memory.wf_flushEntry _ h
      · exact h
    · exact h

theorem Memory.wf_writeInGranule {s : State} (a : Nat) (bytes : List Nat) (poison : Bool) (g : Nat)
    (h : Memory.wf s.dram = true) : Memory.wf (writeInGranule a bytes poison s g).dram = true := by
  unfold writeInGranule
  extract_lets at' mask new
  split
  · exact Memory.wf_storeGranule _ _ _ ((Memory.wf_congr rfl rfl).trans h)
  · exact Memory.wf_mergeWrite _ _ _ _ h

/-- A buffer write keeps the canonical form. -/
theorem Memory.wf_memWrite {s : State} (a : Nat) (bytes : List Nat) (poison : Bool) (h : Memory.wf s.dram = true) :
    Memory.wf (memWrite s a bytes poison).dram = true :=
  Memory.wf_foldl _ (fun _ g => Memory.wf_writeInGranule a bytes poison g) _ h

theorem Memory.wf_readGranules (l : List Nat) {s : State} (h : Memory.wf s.dram = true) :
    Memory.wf (readGranules s l).2.2.dram = true := by
  induction l generalizing s with
  | nil => exact h
  | cons g l ih => exact ih (Memory.wf_readGranule g (Memory.wf_flushGranule g h))

theorem Memory.wf_consumePoison (s : State) (c : Consumer) (g : Nat) :
    Memory.wf (consumePoison s c g).dram = Memory.wf s.dram := by
  unfold consumePoison
  rw [Memory.wf_raise]; rfl

/-- A buffer read keeps the canonical form. -/
theorem Memory.wf_memRead {s : State} (c : Consumer) (a n : Nat) (h : Memory.wf s.dram = true) :
    Memory.wf (memRead s c a n).2.dram = true := by
  unfold memRead
  extract_lets r bytes
  have hr : Memory.wf r.2.2.dram = true := Memory.wf_readGranules _ h
  split
  · exact hr
  · rw [Memory.wf_consumePoison]; exact hr

theorem Memory.wf_softErrors (s : State) (l : List (Nat × BitVec 288)) :
    Memory.wf (softErrors s l).dram = Memory.wf s.dram := Memory.wf_congr rfl rfl

theorem Memory.wf_scrubGranule {s : State} (g : Nat) (h : Memory.wf s.dram = true) :
    Memory.wf (scrubGranule s g).dram = true := by
  unfold scrubGranule
  extract_lets c r
  split
  · exact Memory.wf_putGranule _ _ _ _ (Memory.wf_readGranule g h)
  · exact Memory.wf_readGranule g h

/-- A pattern hides those it covers whole, and no byte beyond it changes. -/
theorem fillByte_filter (l : List (Fill × Nat)) (u a : Nat) (h : u ≤ a) :
    fillByte (l.filter fun x => decide (u < x.2)) a = fillByte l a := by
  induction l with
  | nil => rfl
  | cons x l ih =>
    by_cases hx : u < x.2
    · rw [List.filter_cons_of_pos (by simpa using hx)]
      simp only [fillByte, ih]
    · rw [List.filter_cons_of_neg (by simpa using hx), ih, fillByte, if_neg (by omega)]

/-- A buffer test's pattern keeps the canonical form. -/
theorem Memory.wf_fillMemory {s : State} (f : Fill) (h : Memory.wf s.dram = true) :
    Memory.wf (fillMemory s f).dram = true := by
  rw [Memory.wf_iff] at h ⊢
  refine ⟨h.1.filter _, fun e he => ?_⟩
  have he' := List.mem_filter.1 he
  have hu : usableBytes s ≤ e.1 := by simpa using he'.2
  show e.2 ≠ fillByte ((f, usableBytes s) :: s.dram.fills.filter fun x => decide (usableBytes s < x.2)) e.1
  rw [fillByte, if_neg (by omega), fillByte_filter _ _ _ hu]
  exact h.2 e he'.1

theorem Memory.wf_reset : Memory.wf State.reset.dram = true := by decide

end Sys2Proof.Machine
end

