-- ==== Sys2Proof/Laws/PerInstr.lean ====
section
/-! SUPPORT. For every command: if it is well formed, the requester it names exists (R545). -/

namespace Sys2Proof.Laws.Requester

open Sys2Proof

/-- A well-formed command names no requester that does not exist. -/
def Statement (i : Instr) : Prop := wellFormed i = true → ∀ q, requesterOf i = some q → reqOk q = true

theorem none_named {i : Instr} (h : requesterOf i = none) : Statement i := by
  intro _ q hq
  rw [h] at hq
  cases hq

theorem named {i : Instr} {q : Req} {b : Bool} (h : requesterOf i = some q) (w : wellFormed i = (reqOk q && b)) :
    Statement i := by
  intro hi p hp
  rw [h] at hp
  cases hp
  rw [w, Bool.and_eq_true] at hi
  exact hi.1

theorem named_only {i : Instr} {q : Req} (h : requesterOf i = some q) (w : wellFormed i = reqOk q) : Statement i :=
  named (b := true) h (by rw [w, Bool.and_true])

theorem registerWrite (q : Req) (addr : BitVec 32) (size : Nat) (w : BitVec 32) :
    Statement (.registerWrite q addr size w) := named rfl rfl
theorem registerReadClear (q : Req) (addr : BitVec 32) (size : Nat) :
    Statement (.registerReadClear q addr size) := named rfl rfl
theorem wideReadLatch (q : Req) (addr : BitVec 32) : Statement (.wideReadLatch q addr) := named_only rfl rfl
theorem enableSet (q : Req) (slot : BitVec 14) (w : BitVec 32) : Statement (.enableSet q slot w) := named_only rfl rfl
theorem enableClear (q : Req) (slot : BitVec 14) (w : BitVec 32) :
    Statement (.enableClear q slot w) := named_only rfl rfl
theorem disableComplete (page : BitVec 14) : Statement (.disableComplete page) := none_named rfl
theorem easySet (q : Req) (slot : BitVec 14) (w : BitVec 32) : Statement (.easySet q slot w) := named_only rfl rfl
theorem easyClear (q : Req) (slot : BitVec 14) (w : BitVec 32) : Statement (.easyClear q slot w) := named_only rfl rfl
theorem holdRel (q : Req) (slot : BitVec 14) (w : BitVec 32) : Statement (.holdRel q slot w) := named_only rfl rfl
theorem holdReached (dom : Fin 96) : Statement (.holdReached dom) := none_named rfl
theorem evClr (q : Req) (slot : BitVec 14) (w : BitVec 32) (same : BitVec 32) :
    Statement (.evClr q slot w same) := named_only rfl rfl
theorem eventNotice : Statement .eventNotice := none_named rfl
theorem blockFault (page : BitVec 14) : Statement (.blockFault page) := none_named rfl
theorem pfailAssert : Statement .pfailAssert := none_named rfl
theorem pfailDeassert (ms : BitVec 16) : Statement (.pfailDeassert ms) := none_named rfl
theorem winhAssert : Statement .winhAssert := none_named rfl
theorem winhRelease : Statement .winhRelease := none_named rfl
theorem drstAssert (die : Fin 4) : Statement (.drstAssert die) := none_named rfl
theorem flitReceive (link : Fin 4) (toCox : Bool) (good : Bool) (cls : FlitClass) (dom : Fin 96) (epoch : BitVec 8) :
    Statement (.flitReceive link toCox good cls dom epoch) := none_named rfl
theorem linkTrainingComplete (link : Fin 4) : Statement (.linkTrainingComplete link) := none_named rfl
theorem linkTrainingFail (link : Fin 4) : Statement (.linkTrainingFail link) := none_named rfl
theorem linkEnable (q : Req) (w : BitVec 32) : Statement (.linkEnable q w) := named_only rfl rfl
theorem linkDisable (q : Req) (w : BitVec 32) : Statement (.linkDisable q w) := named_only rfl rfl
theorem strokeCatch : Statement .strokeCatch := none_named rfl
theorem catchTokenSend : Statement .catchTokenSend := none_named rfl
theorem catchTokenReceive (die : Fin 3) (skew : Int) : Statement (.catchTokenReceive die skew) := none_named rfl
theorem localCatch (die : Fin 3) : Statement (.localCatch die) := none_named rfl
theorem actionLaunch (kind : LaunchKind) (inst : Fin 8) (tag : Fin 32) (head : Fin 8) (band : Fin 48) (low : BitVec 16) (phase : BitVec 12) :
    Statement (.actionLaunch kind inst tag head band low phase) := none_named rfl
theorem actionOverrun (kind : LaunchKind) (inst : Fin 8) : Statement (.actionOverrun kind inst) := none_named rfl
theorem supplyCurrentMeasure (ma : BitVec 16) (hup : BitVec 16) (in12 : BitVec 16) :
    Statement (.supplyCurrentMeasure ma hup in12) := none_named rfl
theorem fmtTranslate (zone : Nat) (off : BitVec 32) : Statement (.fmtTranslate zone off) := none_named rfl
theorem skipListAppend (head : Fin 32) (band : Nat) (slot : Nat) :
    Statement (.skipListAppend head band slot) := none_named rfl
theorem mwpUpdate (zone : Nat) (mwp : BitVec 32) : Statement (.mwpUpdate zone mwp) := none_named rfl
theorem entryLockAcquire (q : Req) (w : BitVec 32) : Statement (.entryLockAcquire q w) := named_only rfl rfl
theorem entryLockRelease (q : Req) (w : BitVec 32) : Statement (.entryLockRelease q w) := named_only rfl rfl
theorem mapScanStart (q : Req) (w : BitVec 32) : Statement (.mapScanStart q w) := named_only rfl rfl
theorem mapScanComplete (racing : List Nat) : Statement (.mapScanComplete racing) := none_named rfl
theorem xlatTest (q : Req) (w : BitVec 32) : Statement (.xlatTest q w) := named_only rfl rfl
theorem readGateOpen (lane : Fin 8) : Statement (.readGateOpen lane) := none_named rfl
theorem frameRead (lane : Fin 8) (f : FrameIn) : Statement (.frameRead lane f) := none_named rfl
theorem sbufPin (q : Req) (lane : Fin 8) (w : BitVec 32) : Statement (.sbufPin q lane w) := named_only rfl rfl
theorem sbufUnpin (q : Req) (lane : Fin 8) (w : BitVec 32) : Statement (.sbufUnpin q lane w) := named_only rfl rfl
theorem sbufUnpinAll (q : Req) (lane : Fin 8) (w : BitVec 32) :
    Statement (.sbufUnpinAll q lane w) := named_only rfl rfl
theorem sbufDataRead (q : Req) (lane : Fin 8) : Statement (.sbufDataRead q lane) := named_only rfl rfl
theorem detectionComplete (ldp : Fin 2) (lane : Fin 4) (aged : Nat) : Statement (.detectionComplete ldp lane aged) := none_named rfl
theorem decodeComplete (ldp : Fin 2) (core : Fin 6) (aged : Nat) : Statement (.decodeComplete ldp core aged) := none_named rfl
theorem replayPassComplete (ldp : Fin 2) (det : Fin 2) (aged : Nat) :
    Statement (.replayPassComplete ldp det aged) := none_named rfl
theorem sectorAbortEnd (ldp : Fin 2) (aged : Nat) : Statement (.sectorAbortEnd ldp aged) := none_named rfl
theorem coreParityFault (ldp : Fin 2) (core : Fin 6) (aged : Nat) :
    Statement (.coreParityFault ldp core aged) := none_named rfl
theorem ldpCoefDataAccess (q : Req) (ldp : Fin 2) (w : Option (BitVec 32)) :
    Statement (.ldpCoefDataAccess q ldp w) := named_only rfl rfl
theorem ldpCoefCommit (q : Req) (ldp : Fin 2) (w : BitVec 32) :
    Statement (.ldpCoefCommit q ldp w) := named_only rfl rfl
theorem fwReplayStart (q : Req) (ldp : Fin 2) (w : BitVec 32) :
    Statement (.fwReplayStart q ldp w) := named_only rfl rfl
theorem fwReplayComplete (ldp : Fin 2) : Statement (.fwReplayComplete ldp) := none_named rfl
theorem writeGateOpen (lane : Fin 8) (rwo : Int) : Statement (.writeGateOpen lane rwo) := none_named rfl
theorem writeWedgeCross (lane : Fin 8) : Statement (.writeWedgeCross lane) := none_named rfl
theorem assistArm (ast : Fin 4) : Statement (.assistArm ast) := none_named rfl
theorem pbusFrameSend (ast : Fin 4) (rd : BitVec 16) : Statement (.pbusFrameSend ast rd) := none_named rfl
theorem pbusReadback (ast : Fin 4) (codes : List (Fin 8 × Nat × Nat)) :
    Statement (.pbusReadback ast codes) := none_named rfl
theorem pbusCmdSend (q : Req) (ast : Fin 4) (w : BitVec 32) : Statement (.pbusCmdSend q ast w) := named_only rfl rfl
theorem assistIdleOff (ast : Fin 4) (head : Fin 8) : Statement (.assistIdleOff ast head) := none_named rfl
theorem trimStepRequest (q : Req) (ast : Fin 4) (w : BitVec 32) (cal : Bool) :
    Statement (.trimStepRequest q ast w cal) := named_only rfl rfl
theorem preampFaultAssert (ast : Fin 4) : Statement (.preampFaultAssert ast) := none_named rfl
theorem preampStatusRead (ast : Fin 4) (status : BitVec 16) :
    Statement (.preampStatusRead ast status) := none_named rfl
theorem preampFaultDeassert (ast : Fin 4) : Statement (.preampFaultDeassert ast) := none_named rfl
theorem verifyResult (lane : Fin 8) : Statement (.verifyResult lane) := none_named rfl
theorem pesInhibitCheck (ast : Fin 4) (head : Fin 8) : Statement (.pesInhibitCheck ast head) := none_named rfl
theorem forceInhibitSet (q : Req) (ast : Fin 4) (w : BitVec 32) :
    Statement (.forceInhibitSet q ast w) := named_only rfl rfl
theorem forceInhibitClear (q : Req) (ast : Fin 4) (w : BitVec 32) :
    Statement (.forceInhibitClear q ast w) := named_only rfl rfl
theorem astHeadDataAccess (q : Req) (ast : Fin 4) (w : Option (BitVec 32)) :
    Statement (.astHeadDataAccess q ast w) := named_only rfl rfl
theorem servoSample (srv : Fin 4) (wedges : List WedgeIn) : Statement (.servoSample srv wedges) := none_named rfl
theorem controlOverrun (srv : Fin 4) : Statement (.controlOverrun srv) := none_named rfl
theorem vcmCommandApply (vcm : Fin 4) : Statement (.vcmCommandApply vcm) := none_named rfl
theorem srvCoefDataAccess (q : Req) (srv : Fin 4) (w : Option (BitVec 32)) :
    Statement (.srvCoefDataAccess q srv w) := named_only rfl rfl
theorem srvCoefCommit (q : Req) (srv : Fin 4) (w : BitVec 32) :
    Statement (.srvCoefCommit q srv w) := named_only rfl rfl
theorem notchEstimate (srv : Fin 4) (notch : Fin 4) (code : BitVec 8) :
    Statement (.notchEstimate srv notch code) := none_named rfl
theorem notchWrite (srv : Fin 4) : Statement (.notchWrite srv) := none_named rfl
theorem regattaIntentApply (srv : Fin 4) : Statement (.regattaIntentApply srv) := none_named rfl
theorem seekLaunch (q : Req) (srv : Fin 4) (w : BitVec 32) : Statement (.seekLaunch q srv w) := named_only rfl rfl
theorem seekCommit (srv : Fin 4) : Statement (.seekCommit srv) := none_named rfl
theorem autoClear (q : Req) (srv : Fin 4) (w : BitVec 32) : Statement (.autoClear q srv w) := named_only rfl rfl
theorem autoSet (q : Req) (srv : Fin 4) (w : BitVec 32) : Statement (.autoSet q srv w) := named_only rfl rfl
theorem injectionStart (q : Req) (srv : Fin 4) (w : BitVec 32) :
    Statement (.injectionStart q srv w) := named_only rfl rfl
theorem injectionStop (q : Req) (srv : Fin 4) (w : BitVec 32) :
    Statement (.injectionStop q srv w) := named_only rfl rfl
theorem injectionEnd (srv : Fin 4) : Statement (.injectionEnd srv) := none_named rfl
theorem captureStart (q : Req) (srv : Fin 4) (w : BitVec 32) : Statement (.captureStart q srv w) := named_only rfl rfl
theorem captureStop (q : Req) (srv : Fin 4) (w : BitVec 32) : Statement (.captureStop q srv w) := named_only rfl rfl
theorem capDataRead (q : Req) (srv : Fin 4) : Statement (.capDataRead q srv) := named_only rfl rfl
theorem srvParityFault (srv : Fin 4) (shadow : Bool) : Statement (.srvParityFault srv shadow) := none_named rfl
theorem headLoad (vcm : Fin 4) (reversed : Bool) : Statement (.headLoad vcm reversed) := none_named rfl
theorem loadTimeout (vcm : Fin 4) : Statement (.loadTimeout vcm) := none_named rfl
theorem headUnload (srv : Fin 4) : Statement (.headUnload srv) := none_named rfl
theorem vcmRetract (q : Req) (vcm : Fin 4) (w : BitVec 32) : Statement (.vcmRetract q vcm w) := named_only rfl rfl
theorem retractParked (vcm : Fin 4) : Statement (.retractParked vcm) := none_named rfl
theorem retractTimeout (vcm : Fin 4) : Statement (.retractTimeout vcm) := none_named rfl
theorem vcmDrvEnable (q : Req) (vcm : Fin 4) (w : BitVec 32) : Statement (.vcmDrvEnable q vcm w) := named_only rfl rfl
theorem vcmDrvDisable (q : Req) (vcm : Fin 4) (w : BitVec 32) :
    Statement (.vcmDrvDisable q vcm w) := named_only rfl rfl
theorem vcmFaultDetect (vcm : Fin 4) (kind : CoilFault) : Statement (.vcmFaultDetect vcm kind) := none_named rfl
theorem macDriverFault (head : Fin 32) : Statement (.macDriverFault head) := none_named rfl
theorem shockSample (lx : BitVec 12) (ly : BitVec 12) (rot : BitVec 12) :
    Statement (.shockSample lx ly rot) := none_named rfl
theorem seqNop (u : Fin 12) (e : BitVec 137) : Statement (.seqNop u e) := none_named rfl
theorem aluAdd (u : Fin 12) (e : BitVec 137) : Statement (.aluAdd u e) := none_named rfl
theorem aluSubtract (u : Fin 12) (e : BitVec 137) : Statement (.aluSubtract u e) := none_named rfl
theorem aluAnd (u : Fin 12) (e : BitVec 137) : Statement (.aluAnd u e) := none_named rfl
theorem aluOr (u : Fin 12) (e : BitVec 137) : Statement (.aluOr u e) := none_named rfl
theorem aluXor (u : Fin 12) (e : BitVec 137) : Statement (.aluXor u e) := none_named rfl
theorem aluShiftLeft (u : Fin 12) (e : BitVec 137) : Statement (.aluShiftLeft u e) := none_named rfl
theorem aluShiftRight (u : Fin 12) (e : BitVec 137) : Statement (.aluShiftRight u e) := none_named rfl
theorem aluArithShiftRight (u : Fin 12) (e : BitVec 137) : Statement (.aluArithShiftRight u e) := none_named rfl
theorem aluCompare (u : Fin 12) (e : BitVec 137) : Statement (.aluCompare u e) := none_named rfl
theorem memLoad (u : Fin 12) (e : BitVec 137) : Statement (.memLoad u e) := none_named rfl
theorem memStore (u : Fin 12) (e : BitVec 137) : Statement (.memStore u e) := none_named rfl
theorem seqRegRead (u : Fin 12) (e : BitVec 137) : Statement (.seqRegRead u e) := none_named rfl
theorem seqRegWrite (u : Fin 12) (e : BitVec 137) : Statement (.seqRegWrite u e) := none_named rfl
theorem launchReadGate (u : Fin 12) (e : BitVec 137) : Statement (.launchReadGate u e) := none_named rfl
theorem launchWriteGate (u : Fin 12) (e : BitVec 137) : Statement (.launchWriteGate u e) := none_named rfl
theorem launchAssistStep (u : Fin 12) (e : BitVec 137) : Statement (.launchAssistStep u e) := none_named rfl
theorem launchSeek (u : Fin 12) (e : BitVec 137) : Statement (.launchSeek u e) := none_named rfl
theorem launchLoad (u : Fin 12) (e : BitVec 137) : Statement (.launchLoad u e) := none_named rfl
theorem launchUnload (u : Fin 12) (e : BitVec 137) : Statement (.launchUnload u e) := none_named rfl
theorem seqWait (u : Fin 12) (e : BitVec 137) : Statement (.seqWait u e) := none_named rfl
theorem waitTimeout (u : Fin 12) (e : BitVec 137) : Statement (.waitTimeout u e) := none_named rfl
theorem tagTake (u : Fin 12) (e : BitVec 137) : Statement (.tagTake u e) := none_named rfl
theorem tagReadField (u : Fin 12) (e : BitVec 137) : Statement (.tagReadField u e) := none_named rfl
theorem tagWriteResult (u : Fin 12) (e : BitVec 137) : Statement (.tagWriteResult u e) := none_named rfl
theorem tagComplete (u : Fin 12) (e : BitVec 137) : Statement (.tagComplete u e) := none_named rfl
theorem msgSend (u : Fin 12) (e : BitVec 137) : Statement (.msgSend u e) := none_named rfl
theorem msgReceive (u : Fin 12) (e : BitVec 137) : Statement (.msgReceive u e) := none_named rfl
theorem seqSig (u : Fin 12) (e : BitVec 137) : Statement (.seqSig u e) := none_named rfl
theorem seqWatchdog (u : Fin 12) : Statement (.seqWatchdog u) := none_named rfl
theorem seqBudgetOverrun (u : Fin 12) : Statement (.seqBudgetOverrun u) := none_named rfl
theorem lqPost (q : Req) (lane : Fin 8) (w : BitVec 32) : Statement (.lqPost q lane w) := named_only rfl rfl
theorem tagEntryFetch (lane : Fin 8) (tag : Fin 32) : Statement (.tagEntryFetch lane tag) := none_named rfl
theorem lqAbort (q : Req) (lane : Fin 8) (w : BitVec 32) : Statement (.lqAbort q lane w) := named_only rfl rfl
theorem lqRelease (q : Req) (lane : Fin 8) (w : BitVec 32) : Statement (.lqRelease q lane w) := named_only rfl rfl
theorem actuatorOosSet (q : Req) (seq : Fin 2) (w : BitVec 32) :
    Statement (.actuatorOosSet q seq w) := named_only rfl rfl
theorem actuatorOosClear (q : Req) (seq : Fin 2) (w : BitVec 32) :
    Statement (.actuatorOosClear q seq w) := named_only rfl rfl
theorem seqLoadStart (q : Req) (seq : Fin 2) (w : BitVec 32) : Statement (.seqLoadStart q seq w) := named_only rfl rfl
theorem seqLoadComplete (seq : Fin 2) : Statement (.seqLoadComplete seq) := none_named rfl
theorem csDataAccess (q : Req) (seq : Fin 2) (w : Option (BitVec 32)) :
    Statement (.csDataAccess q seq w) := named_only rfl rfl
theorem digestStart (q : Req) (seq : Fin 2) (w : BitVec 32) : Statement (.digestStart q seq w) := named_only rfl rfl
theorem digestComplete (seq : Fin 2) : Statement (.digestComplete seq) := none_named rfl
theorem sqEnableSet (q : Req) (u : Fin 12) (w : BitVec 32) : Statement (.sqEnableSet q u w) := named_only rfl rfl
theorem sqEnableClear (q : Req) (u : Fin 12) (w : BitVec 32) : Statement (.sqEnableClear q u w) := named_only rfl rfl
theorem sqEasySet (q : Req) (u : Fin 12) (w : BitVec 32) : Statement (.sqEasySet q u w) := named_only rfl rfl
theorem sqEasyClear (q : Req) (u : Fin 12) (w : BitVec 32) : Statement (.sqEasyClear q u w) := named_only rfl rfl
theorem sqHoldRel (q : Req) (u : Fin 12) (w : BitVec 32) : Statement (.sqHoldRel q u w) := named_only rfl rfl
theorem wevEncode : Statement .wevEncode := none_named rfl
theorem wevAccum : Statement .wevAccum := none_named rfl
theorem wevRecon : Statement .wevRecon := none_named rfl
theorem wevVerify : Statement .wevVerify := none_named rfl
theorem wevParityFault : Statement .wevParityFault := none_named rfl
theorem eraseInjArm (q : Req) (w : BitVec 32) : Statement (.eraseInjArm q w) := named_only rfl rfl
theorem sqTailDoorbell (ctrl : Fin 2) (queue : Fin 2048) (value : BitVec 32) :
    Statement (.sqTailDoorbell ctrl queue value) := none_named rfl
theorem cqHeadDoorbell (ctrl : Fin 2) (queue : Fin 2048) (value : BitVec 32) :
    Statement (.cqHeadDoorbell ctrl queue value) := none_named rfl
theorem commandFetch (entries : List (List Byte)) : Statement (.commandFetch entries) := none_named rfl
theorem outStart (ctrl : Fin 2) : Statement (.outStart ctrl) := none_named rfl
theorem outComplete (ctrl : Fin 2) : Statement (.outComplete ctrl) := none_named rfl
theorem completionPost (ctrl : Fin 2) (queue : Fin 2048) : Statement (.completionPost ctrl queue) := none_named rfl
theorem cqFullTimeout (ctrl : Fin 2) (queue : Fin 2048) : Statement (.cqFullTimeout ctrl queue) := none_named rfl
theorem interruptCoalesceTimeout (ctrl : Fin 2) (queue : Fin 2048) :
    Statement (.interruptCoalesceTimeout ctrl queue) := none_named rfl
theorem controllerEnable (ctrl : Fin 2) (ams : BitVec 2) (mps : Fin 5) (css : BitVec 3) (asq : Nat) (acq : Nat) (irq : IrqMode) (mask : BitVec 32) (vectors : Nat) :
    Statement (.controllerEnable ctrl ams mps css asq acq irq mask vectors) := none_named rfl
theorem controllerDisable (ctrl : Fin 2) : Statement (.controllerDisable ctrl) := none_named rfl
theorem shutdownNotify (ctrl : Fin 2) : Statement (.shutdownNotify ctrl) := none_named rfl
theorem functionLevelReset (ctrl : Fin 2) : Statement (.functionLevelReset ctrl) := none_named rfl
theorem perstAssert (port : Fin 2) : Statement (.perstAssert port) := none_named rfl
theorem pcieLinkLoss (port : Fin 2) : Statement (.pcieLinkLoss port) := none_named rfl
theorem pcieLinkUp (port : Fin 2) (speed : BitVec 3) (width : BitVec 3) :
    Statement (.pcieLinkUp port speed width) := none_named rfl
theorem hqFault (ctrl : Fin 2) : Statement (.hqFault ctrl) := none_named rfl
theorem diagBarAccess (addr : BitVec 26) (size : Nat) (w : Option (BitVec 32)) :
    Statement (.diagBarAccess addr size w) := none_named rfl
theorem miReadDataStructure (item : MiStructure) : Statement (.miReadDataStructure item) := none_named rfl
theorem miSubsystemHealthPoll : Statement .miSubsystemHealthPoll := none_named rfl
theorem miControllerHealthPoll (ctrl : Fin 2) : Statement (.miControllerHealthPoll ctrl) := none_named rfl
theorem miConfigurationGet (item : MiConfig) : Statement (.miConfigurationGet item) := none_named rfl
theorem miConfigurationSet (item : MiConfig) (value : BitVec 32) :
    Statement (.miConfigurationSet item value) := none_named rfl
theorem miVpdRead (offset : BitVec 16) (len : BitVec 16) : Statement (.miVpdRead offset len) := none_named rfl
theorem miVpdWrite (offset : BitVec 16) (bytes : List Byte) : Statement (.miVpdWrite offset bytes) := none_named rfl
theorem miTunnelledAdmin (cmd : MiAdmin) : Statement (.miTunnelledAdmin cmd) := none_named rfl
theorem createIoCq (slot : Fin 4096) (qid : BitVec 16) (qsize : BitVec 16) (pc : Bool) (ien : Bool) (iv : BitVec 16) (prp1 : BitVec 64) :
    Statement (.createIoCq slot qid qsize pc ien iv prp1) := none_named rfl
theorem createIoSq (slot : Fin 4096) (qid : BitVec 16) (qsize : BitVec 16) (pc : Bool) (prio : Fin 4) (cqid : BitVec 16) (prp1 : BitVec 64) :
    Statement (.createIoSq slot qid qsize pc prio cqid prp1) := none_named rfl
theorem deleteIoSq (slot : Fin 4096) (qid : BitVec 16) : Statement (.deleteIoSq slot qid) := none_named rfl
theorem deleteIoCq (slot : Fin 4096) (qid : BitVec 16) : Statement (.deleteIoCq slot qid) := none_named rfl
theorem getLogPage (slot : Fin 4096) (lid : BitVec 8) (nsid : BitVec 32) (offset : BitVec 64) (numd : BitVec 32) (rae : Bool) :
    Statement (.getLogPage slot lid nsid offset numd rae) := none_named rfl
theorem identify (slot : Fin 4096) (cns : BitVec 8) (nsid : BitVec 32) (csi : BitVec 8) (cntid : BitVec 16) :
    Statement (.identify slot cns nsid csi cntid) := none_named rfl
theorem abort (slot : Fin 4096) (sqid : BitVec 16) (cid : BitVec 16) (entries : List (List Byte)) :
    Statement (.abort slot sqid cid entries) := none_named rfl
theorem setFeatures (slot : Fin 4096) (fid : BitVec 8) (nsid : BitVec 32) (save : Bool) (dw11 : BitVec 32) (data : List Byte) :
    Statement (.setFeatures slot fid nsid save dw11 data) := none_named rfl
theorem getFeatures (slot : Fin 4096) (fid : BitVec 8) (nsid : BitVec 32) (sel : BitVec 3) (dw11 : BitVec 32) :
    Statement (.getFeatures slot fid nsid sel dw11) := none_named rfl
theorem anaOwnerSet (slot : Fin 4096) (nsid : BitVec 32) (ctrl : Fin 2) :
    Statement (.anaOwnerSet slot nsid ctrl) := none_named rfl
theorem asyncEventRequest (slot : Fin 4096) : Statement (.asyncEventRequest slot) := none_named rfl
theorem nsCreate (slot : Fin 4096) (csi : BitVec 8) (nsze : BitVec 64) (ncap : BitVec 64) (flbas : BitVec 8) (dps : BitVec 8) (weave : BitVec 2) (verified : Bool) (place : List (List (Nat × Nat))) :
    Statement (.nsCreate slot csi nsze ncap flbas dps weave verified place) := none_named rfl
theorem nsDelete (slot : Fin 4096) (nsid : BitVec 32) : Statement (.nsDelete slot nsid) := none_named rfl
theorem nsAttach (slot : Fin 4096) (nsid : BitVec 32) (ctrls : List (Fin 2)) :
    Statement (.nsAttach slot nsid ctrls) := none_named rfl
theorem nsDetach (slot : Fin 4096) (nsid : BitVec 32) (ctrls : List (Fin 2)) :
    Statement (.nsDetach slot nsid ctrls) := none_named rfl
theorem fwImageDownload (slot : Fin 4096) (offset : BitVec 32) (bytes : List Byte) :
    Statement (.fwImageDownload slot offset bytes) := none_named rfl
theorem fwCommitStore (slot : Fin 4096) (fs : BitVec 3) : Statement (.fwCommitStore slot fs) := none_named rfl
theorem fwCommitStoreActivate (slot : Fin 4096) (fs : BitVec 3) :
    Statement (.fwCommitStoreActivate slot fs) := none_named rfl
theorem fwCommitActivate (slot : Fin 4096) (fs : BitVec 3) : Statement (.fwCommitActivate slot fs) := none_named rfl
theorem fwCommitActivateNow (slot : Fin 4096) (fs : BitVec 3) :
    Statement (.fwCommitActivateNow slot fs) := none_named rfl
theorem selfTestShort (slot : Fin 4096) (nsid : BitVec 32) : Statement (.selfTestShort slot nsid) := none_named rfl
theorem selfTestExtended (slot : Fin 4096) (nsid : BitVec 32) :
    Statement (.selfTestExtended slot nsid) := none_named rfl
theorem selfTestAbort (slot : Fin 4096) : Statement (.selfTestAbort slot) := none_named rfl
theorem formatNvm (slot : Fin 4096) (nsid : BitVec 32) (lbaf : BitVec 6) (prot : BitVec 3) (first : Bool) (ext : Bool) :
    Statement (.formatNvm slot nsid lbaf prot first ext) := none_named rfl
theorem formatNvmCryptoErase (slot : Fin 4096) (nsid : BitVec 32) (lbaf : BitVec 6) (prot : BitVec 3) (first : Bool) (ext : Bool) :
    Statement (.formatNvmCryptoErase slot nsid lbaf prot first ext) := none_named rfl
theorem securityProtocolList (slot : Fin 4096) : Statement (.securityProtocolList slot) := none_named rfl
theorem securityCertChain (slot : Fin 4096) : Statement (.securityCertChain slot) := none_named rfl
theorem securityAttestReport (slot : Fin 4096) (nonce : BitVec 256) :
    Statement (.securityAttestReport slot nonce) := none_named rfl
theorem securityUnlockNonce (slot : Fin 4096) : Statement (.securityUnlockNonce slot) := none_named rfl
theorem sanitizeCryptoErase (slot : Fin 4096) : Statement (.sanitizeCryptoErase slot) := none_named rfl
theorem sanitizeOverwrite (slot : Fin 4096) (passes : BitVec 4) (pattern : BitVec 32) (invert : Bool) :
    Statement (.sanitizeOverwrite slot passes pattern invert) := none_named rfl
theorem nvmRead (slot : Fin 4096) (nsid : BitVec 32) (slba : BitVec 64) (nlb : BitVec 16) (pi : PiIn) :
    Statement (.nvmRead slot nsid slba nlb pi) := none_named rfl
theorem nvmWrite (slot : Fin 4096) (nsid : BitVec 32) (slba : BitVec 64) (nlb : BitVec 16) (fua : Bool) (data : List Byte) (md : List Byte) (pi : PiIn) :
    Statement (.nvmWrite slot nsid slba nlb fua data md pi) := none_named rfl
theorem writeZeroes (slot : Fin 4096) (nsid : BitVec 32) (slba : BitVec 64) (nlb : BitVec 16) (fua : Bool) (pi : PiIn) :
    Statement (.writeZeroes slot nsid slba nlb fua pi) := none_named rfl
theorem nvmFlush (slot : Fin 4096) (nsid : BitVec 32) : Statement (.nvmFlush slot nsid) := none_named rfl
theorem nvmVerify (slot : Fin 4096) (nsid : BitVec 32) (slba : BitVec 64) (nlb : BitVec 16) (pi : PiIn) :
    Statement (.nvmVerify slot nsid slba nlb pi) := none_named rfl
theorem reservationRegister (slot : Fin 4096) (nsid : BitVec 32) (action : BitVec 3) (iekey : Bool) (cptpl : BitVec 2) (crkey : BitVec 64) (nrkey : BitVec 64) :
    Statement (.reservationRegister slot nsid action iekey cptpl crkey nrkey) := none_named rfl
theorem reservationReport (slot : Fin 4096) (nsid : BitVec 32) :
    Statement (.reservationReport slot nsid) := none_named rfl
theorem reservationAcquire (slot : Fin 4096) (nsid : BitVec 32) (action : BitVec 3) (iekey : Bool) (rtype : BitVec 8) (crkey : BitVec 64) (prkey : BitVec 64) :
    Statement (.reservationAcquire slot nsid action iekey rtype crkey prkey) := none_named rfl
theorem reservationRelease (slot : Fin 4096) (nsid : BitVec 32) (action : BitVec 3) (iekey : Bool) (rtype : BitVec 8) (crkey : BitVec 64) :
    Statement (.reservationRelease slot nsid action iekey rtype crkey) := none_named rfl
theorem zoneAppend (slot : Fin 4096) (nsid : BitVec 32) (zslba : BitVec 64) (nlb : BitVec 16) (fua : Bool) (data : List Byte) (md : List Byte) (pi : PiIn) :
    Statement (.zoneAppend slot nsid zslba nlb fua data md pi) := none_named rfl
theorem zoneOpen (slot : Fin 4096) (nsid : BitVec 32) (slba : BitVec 64) (all : Bool) :
    Statement (.zoneOpen slot nsid slba all) := none_named rfl
theorem zoneClose (slot : Fin 4096) (nsid : BitVec 32) (slba : BitVec 64) (all : Bool) :
    Statement (.zoneClose slot nsid slba all) := none_named rfl
theorem zoneFinish (slot : Fin 4096) (nsid : BitVec 32) (slba : BitVec 64) (all : Bool) :
    Statement (.zoneFinish slot nsid slba all) := none_named rfl
theorem zoneReset (slot : Fin 4096) (nsid : BitVec 32) (slba : BitVec 64) (all : Bool) (bands : List (Nat × Nat × Nat × Nat)) :
    Statement (.zoneReset slot nsid slba all bands) := none_named rfl
theorem zoneOffline (slot : Fin 4096) (nsid : BitVec 32) (slba : BitVec 64) (all : Bool) :
    Statement (.zoneOffline slot nsid slba all) := none_named rfl
theorem zoneSetDescExt (slot : Fin 4096) (nsid : BitVec 32) (slba : BitVec 64) :
    Statement (.zoneSetDescExt slot nsid slba) := none_named rfl
theorem zoneReport (slot : Fin 4096) (nsid : BitVec 32) (slba : BitVec 64) (extended : Bool) (option : BitVec 8) (partialReport : Bool) (entries : Nat) :
    Statement (.zoneReport slot nsid slba extended option partialReport entries) := none_named rfl
theorem tagCompletionReceive : Statement .tagCompletionReceive := none_named rfl
theorem operationAged (age : Nat) : Statement (.operationAged age) := none_named rfl
theorem writeAdmitResume : Statement .writeAdmitResume := none_named rfl
theorem plSeal : Statement .plSeal := none_named rfl
theorem plRefugeWriteDone (act : Fin 4) (bad : List Nat) : Statement (.plRefugeWriteDone act bad) := none_named rfl
theorem plFloorStop (written : List Nat) (bad : List (List Nat)) : Statement (.plFloorStop written bad) := none_named rfl
theorem plTestStart (q : Req) (w : BitVec 32) : Statement (.plTestStart q w) := named_only rfl rfl
theorem refugeIndexProgram (ms : BitVec 16) : Statement (.refugeIndexProgram ms) := none_named rfl
theorem bufferRead (c : Consumer) (addr : BitVec 44) (n : Nat) (soft : List (Nat × BitVec 288)) :
    Statement (.bufferRead c addr n soft) := none_named rfl
theorem bufferWrite (addr : BitVec 44) (bytes : List Byte) (poison : Bool) :
    Statement (.bufferWrite addr bytes poison) := none_named rfl
theorem mergeFlushTimeout : Statement .mergeFlushTimeout := none_named rfl
theorem mergeFlush (q : Req) (w : BitVec 32) : Statement (.mergeFlush q w) := named_only rfl rfl
theorem scrubStep (soft : BitVec 288) : Statement (.scrubStep soft) := none_named rfl
theorem bucketLeak (bucket : Fin 3) :
    Statement (.bucketLeak bucket) := none_named rfl
theorem dmcFlipArm (q : Req) (w : BitVec 32) : Statement (.dmcFlipArm q w) := named_only rfl rfl
theorem bufferTestStart (q : Req) (w : BitVec 32) : Statement (.bufferTestStart q w) := named_only rfl rfl
theorem bufferTestComplete (fail : Option (Fin 3 × BitVec 28)) :
    Statement (.bufferTestComplete fail) := none_named rfl
theorem dramTrainingComplete (ok : BitVec 2) : Statement (.dramTrainingComplete ok) := none_named rfl
theorem dramRetrain (channel : Fin 2) (ok : Bool) : Statement (.dramRetrain channel ok) := none_named rfl
theorem spinStart (q : Req) (w : BitVec 32) : Statement (.spinStart q w) := named_only rfl rfl
theorem detectComplete (backward : Bool) (rpm : BitVec 32) :
    Statement (.detectComplete backward rpm) := none_named rfl
theorem zeroCrossing (backward : Bool) (phase : Int) (interval : BitVec 48) (mean : BitVec 16) (peak : BitVec 16) :
    Statement (.zeroCrossing backward phase interval mean peak) := none_named rfl
theorem windowEmpty : Statement .windowEmpty := none_named rfl
theorem catchMeasureComplete (rpm : BitVec 32) (error : Int) :
    Statement (.catchMeasureComplete rpm error) := none_named rfl
theorem recatchTimeout : Statement .recatchTimeout := none_named rfl
theorem startAttemptTimeout : Statement .startAttemptTimeout := none_named rfl
theorem startRetry : Statement .startRetry := none_named rfl
theorem reverseBrakeDone : Statement .reverseBrakeDone := none_named rfl
theorem spinStop (q : Req) (w : BitVec 32) : Statement (.spinStop q w) := named_only rfl rfl
theorem spindownComplete : Statement .spindownComplete := none_named rfl
theorem speedChangeRequest (q : Req) (w : BitVec 32) : Statement (.speedChangeRequest q w) := named_only rfl rfl
theorem speedTargetReached (rpm : BitVec 32) (elapsed : BitVec 16) :
    Statement (.speedTargetReached rpm elapsed) := none_named rfl
theorem chopperGate (hup : BitVec 16) :
    Statement (.chopperGate hup) := none_named rfl
theorem chopperCurrentCheck (ma : BitVec 16) : Statement (.chopperCurrentCheck ma) := none_named rfl
theorem chopperTimeout : Statement .chopperTimeout := none_named rfl
theorem hupOv1 : Statement .hupOv1 := none_named rfl
theorem hupOv2 : Statement .hupOv2 := none_named rfl
theorem ovRecover : Statement .ovRecover := none_named rfl
theorem ovRetractTimeout : Statement .ovRetractTimeout := none_named rfl
theorem in5Loss : Statement .in5Loss := none_named rfl
theorem holdupFloor (rpm : BitVec 32) (hup : BitVec 16) :
    Statement (.holdupFloor rpm hup) := none_named rfl
theorem railsRelease (low : Bool) (ms : BitVec 16) : Statement (.railsRelease low ms) := none_named rfl
theorem in12Return : Statement .in12Return := none_named rfl
theorem railsPowerUp (port : Bool) (mgmt : Bool) (test : Bool) (failed : BitVec 3) :
    Statement (.railsPowerUp port mgmt test failed) := none_named rfl
theorem railFault (rail : Fin 10) (recent : Bool) : Statement (.railFault rail recent) := none_named rfl
theorem railCycle (failed : BitVec 3) : Statement (.railCycle failed) := none_named rfl
theorem spnTerminalFault (kind : SpnFault) : Statement (.spnTerminalFault kind) := none_named rfl
theorem l2Access (addr : BitVec 38) (n : Nat) (w : Option (List Byte)) (pre : Bool) (l1 : Bool) (bad : List Nat) :
    Statement (.l2Access addr n w pre l1 bad) := none_named rfl
theorem l2PreloadStart (q : Req) (w : BitVec 32) : Statement (.l2PreloadStart q w) := named_only rfl rfl
theorem l2PreloadComplete : Statement .l2PreloadComplete := none_named rfl
theorem l2CleanAll (q : Req) (w : BitVec 32) : Statement (.l2CleanAll q w) := named_only rfl rfl
theorem l2Clean (q : Req) (w : BitVec 32) : Statement (.l2Clean q w) := named_only rfl rfl
theorem l2Invalidate (q : Req) (w : BitVec 32) : Statement (.l2Invalidate q w) := named_only rfl rfl
theorem l2CleanInvalidate (q : Req) (w : BitVec 32) : Statement (.l2CleanInvalidate q w) := named_only rfl rfl
theorem l2MaintComplete : Statement .l2MaintComplete := none_named rfl
theorem l2DrainComplete : Statement .l2DrainComplete := none_named rfl
theorem tcmAccess (off : BitVec 22) (n : Nat) (w : Option (BitVec 64)) (e : BitVec 72) :
    Statement (.tcmAccess off n w e) := none_named rfl
theorem tcmClearStart (q : Req) (w : BitVec 32) : Statement (.tcmClearStart q w) := named_only rfl rfl
theorem tcmClearComplete : Statement .tcmClearComplete := none_named rfl
theorem tcmFlipArm (q : Req) (w : BitVec 32) : Statement (.tcmFlipArm q w) := named_only rfl rfl
theorem ringDoorbell (q : Req) (ring : Fin 256) (w : BitVec 32) :
    Statement (.ringDoorbell q ring w) := named_only rfl rfl
theorem ringEntryFetch (ring : Fin 256) : Statement (.ringEntryFetch ring) := none_named rfl
theorem ringCompletion (ring : Fin 256) : Statement (.ringCompletion ring) := none_named rfl
theorem ringDisable (q : Req) (w : BitVec 32) : Statement (.ringDisable q w) := named_only rfl rfl
theorem ringEnable (q : Req) (w : BitVec 32) : Statement (.ringEnable q w) := named_only rfl rfl
theorem ringDrainComplete (ring : Fin 256) : Statement (.ringDrainComplete ring) := none_named rfl
theorem ringResume (q : Req) (w : BitVec 32) : Statement (.ringResume q w) := named_only rfl rfl
theorem copyCopy (ring : Fin 256) : Statement (.copyCopy ring) := none_named rfl
theorem copyFill (ring : Fin 256) : Statement (.copyFill ring) := none_named rfl
theorem copyCrc (ring : Fin 256) : Statement (.copyCrc ring) := none_named rfl
theorem cryptoEncrypt (ring : Fin 256) : Statement (.cryptoEncrypt ring) := none_named rfl
theorem cryptoDecrypt (ring : Fin 256) : Statement (.cryptoDecrypt ring) := none_named rfl
theorem cryptoRetweak (ring : Fin 256) : Statement (.cryptoRetweak ring) := none_named rfl
theorem mbxOutWrite (q : Req) (endpoint : Fin 18) (w : BitVec 32) :
    Statement (.mbxOutWrite q endpoint w) := named_only rfl rfl
theorem mbxDeliver (sender : Fin 18) : Statement (.mbxDeliver sender) := none_named rfl
theorem mbxInRead (q : Req) (endpoint : Fin 18) : Statement (.mbxInRead q endpoint) := named_only rfl rfl
theorem mbxWithdraw (q : Req) (endpoint : Fin 18) (w : BitVec 32) :
    Statement (.mbxWithdraw q endpoint w) := named_only rfl rfl
theorem mbxWaitWarn (sender : Fin 18) : Statement (.mbxWaitWarn sender) := none_named rfl
theorem nvsKeyWrite (q : Req) (w : BitVec 32) : Statement (.nvsKeyWrite q w) := named_only rfl rfl
theorem nvsCmdWrite (q : Req) (w : BitVec 32) : Statement (.nvsCmdWrite q w) := named_only rfl rfl
theorem nvsAddrWrite (q : Req) (w : BitVec 32) : Statement (.nvsAddrWrite q w) := named_only rfl rfl
theorem nvsDataWrite (q : Req) (n : Fin 8) (w : BitVec 32) : Statement (.nvsDataWrite q n w) := named_only rfl rfl
theorem nvsSeqTimeout : Statement .nvsSeqTimeout := none_named rfl
theorem nvsProgramComplete (verified : Bool) : Statement (.nvsProgramComplete verified) := none_named rfl
theorem nvsEraseComplete (verified : Bool) : Statement (.nvsEraseComplete verified) := none_named rfl
theorem lockRaiseComplete : Statement .lockRaiseComplete := none_named rfl
theorem lockLowerComplete : Statement .lockLowerComplete := none_named rfl
theorem nvsScanStart (write : Option (Req × BitVec 32)) : Statement (.nvsScanStart write) := none_named rfl
theorem nvsScanComplete (rough : List (Fin 1024)) : Statement (.nvsScanComplete rough) := none_named rfl
theorem nvsWordRead (q : Req) (error : BitVec 272) : Statement (.nvsWordRead q error) := named_only rfl rfl
theorem nvsTransferStart (q : Req) (w : BitVec 32) : Statement (.nvsTransferStart q w) := named_only rfl rfl
theorem nvsTransferComplete (errors : List (Nat × BitVec 272)) :
    Statement (.nvsTransferComplete errors) := none_named rfl
theorem slot1Close (q : Req) (w : BitVec 32) : Statement (.slot1Close q w) := named_only rfl rfl
theorem evrRecordAccept : Statement .evrRecordAccept := none_named rfl
theorem firmwareLog (q : Req) (w : BitVec 32) : Statement (.firmwareLog q w) := named_only rfl rfl
theorem evrCommitStart (elapsed : Bool) : Statement (.evrCommitStart elapsed) := none_named rfl
theorem evrCommitWordDone (verified : Bool) : Statement (.evrCommitWordDone verified) := none_named rfl
theorem evrReclaim (q : Req) (w : BitVec 32) : Statement (.evrReclaim q w) := named_only rfl rfl
theorem secondsTick : Statement .secondsTick := none_named rfl
theorem secondsHiWrite (q : Req) (w : BitVec 32) : Statement (.secondsHiWrite q w) := named_only rfl rfl
theorem secondsLoWrite (q : Req) (w : BitVec 32) : Statement (.secondsLoWrite q w) := named_only rfl rfl
theorem cyclesWrite (q : Req) (w : BitVec 32) : Statement (.cyclesWrite q w) := named_only rfl rfl
theorem evrRegionRead : Statement .evrRegionRead := none_named rfl
theorem commitEnable (q : Req) (w : BitVec 32) : Statement (.commitEnable q w) := named_only rfl rfl
theorem tmpSample (readings : Vector (BitVec 16) 40) (th0 : BitVec 12) (th1 : BitVec 12) :
    Statement (.tmpSample readings th0 th1) := none_named rfl
theorem recalPassCatch (oar : Fin 2) : Statement (.recalPassCatch oar) := none_named rfl
theorem avsEvaluate (margins : Vector (BitVec 8) 16) : Statement (.avsEvaluate margins) := none_named rfl
theorem trialReport (ldp : Fin 2) : Statement (.trialReport ldp) := none_named rfl
theorem deltaClear (q : Req) (w : BitVec 32) : Statement (.deltaClear q w) := named_only rfl rfl
theorem svnRaise (q : Req) (w : BitVec 32) : Statement (.svnRaise q w) := named_only rfl rfl
theorem keyGenerate (q : Req) (w : BitVec 32) : Statement (.keyGenerate q w) := named_only rfl rfl
theorem keyDestroy (q : Req) (w : BitVec 32) : Statement (.keyDestroy q w) := named_only rfl rfl
theorem keyLoad (q : Req) (w : BitVec 32) : Statement (.keyLoad q w) := named_only rfl rfl
theorem keyCmdComplete : Statement .keyCmdComplete := none_named rfl
theorem measDataAccess (q : Req) (w : Option (BitVec 32)) : Statement (.measDataAccess q w) := named_only rfl rfl
theorem measExtend (q : Req) (w : BitVec 32) : Statement (.measExtend q w) := named_only rfl rfl
theorem unlockNewNonce (q : Req) (w : BitVec 32) : Statement (.unlockNewNonce q w) := named_only rfl rfl
theorem unlockCheck (q : Req) (w : BitVec 32) : Statement (.unlockCheck q w) := named_only rfl rfl
theorem unlockDataWrite (q : Req) (w : BitVec 32) : Statement (.unlockDataWrite q w) := named_only rfl rfl
theorem unlockExpire : Statement .unlockExpire := none_named rfl
theorem grantChange (q : Req) (w : BitVec 32) : Statement (.grantChange q w) := named_only rfl rfl
theorem entropyHealthFail : Statement .entropyHealthFail := none_named rfl
theorem aliasCertIssue : Statement .aliasCertIssue := none_named rfl
theorem domEasy (q : Req) (w : BitVec 32) : Statement (.domEasy q w) := named_only rfl rfl
theorem domRelease (q : Req) (w : BitVec 32) : Statement (.domRelease q w) := named_only rfl rfl
theorem domReset (q : Req) (w : BitVec 32) : Statement (.domReset q w) := named_only rfl rfl
theorem domPowerOff (q : Req) (w : BitVec 32) : Statement (.domPowerOff q w) := named_only rfl rfl
theorem domPowerOn (q : Req) (w : BitVec 32) : Statement (.domPowerOn q w) := named_only rfl rfl
theorem domForceReset (q : Req) (w : BitVec 32) : Statement (.domForceReset q w) := named_only rfl rfl
theorem domResetComplete (testsPass : Bool) : Statement (.domResetComplete testsPass) := none_named rfl
theorem easyTimeout (dom : Fin 96) : Statement (.easyTimeout dom) := none_named rfl
theorem imageLoad (q : Req) (w : BitVec 32) : Statement (.imageLoad q w) := named_only rfl rfl
theorem imageLoadComplete : Statement .imageLoadComplete := none_named rfl
theorem warmStart (q : Req) (w : BitVec 32) : Statement (.warmStart q w) := named_only rfl rfl
theorem coxReset : Statement .coxReset := none_named rfl
theorem startOk (q : Req) (w : BitVec 32) : Statement (.startOk q w) := named_only rfl rfl
theorem failClr (q : Req) (w : BitVec 32) : Statement (.failClr q w) := named_only rfl rfl
theorem startWatchdogExpire : Statement .startWatchdogExpire := none_named rfl
theorem regattaFrameReceive (cells : BitVec 22) (phase : BitVec 12) :
    Statement (.regattaFrameReceive cells phase) := none_named rfl
theorem starterClaim : Statement .starterClaim := none_named rfl
theorem starterLost : Statement .starterLost := none_named rfl
theorem regattaIntentQueue : Statement .regattaIntentQueue := none_named rfl
theorem regattaSlotContend (settled : Bool) (slotEnd : BitVec 14) (outcome : SlotOutcome) :
    Statement (.regattaSlotContend settled slotEnd outcome) := none_named rfl
theorem regattaSlotReceive (cells : BitVec 32) (slotEnd : BitVec 14) :
    Statement (.regattaSlotReceive cells slotEnd) := none_named rfl
theorem regattaWireStuck (syn : Bool) : Statement (.regattaWireStuck syn) := none_named rfl
theorem perstDeassert (port : Fin 2) : Statement (.perstDeassert port) := none_named rfl
theorem railGood (rail : Fin 10) : Statement (.railGood rail) := none_named rfl
theorem chopperRelease (hup : BitVec 16) :
    Statement (.chopperRelease hup) := none_named rfl
theorem chopperStuckOn : Statement .chopperStuckOn := none_named rfl
theorem spnBridgeOvertemp : Statement .spnBridgeOvertemp := none_named rfl
theorem hvOkLoss : Statement .hvOkLoss := none_named rfl
theorem dramRefreshRateChange (channel : Fin 2) (rate : Fin 3) :
    Statement (.dramRefreshRateChange channel rate) := none_named rfl
theorem pcieTlpError (port : Fin 2) (kind : TlpError) : Statement (.pcieTlpError port kind) := none_named rfl
theorem pcieCompletionTimeout (port : Fin 2) : Statement (.pcieCompletionTimeout port) := none_named rfl
theorem mctpPacketError : Statement .mctpPacketError := none_named rfl
theorem msixVectorUnmask (ctrl : Fin 2) (vector : Fin 2048) :
    Statement (.msixVectorUnmask ctrl vector) := none_named rfl
theorem regattaWireRecover : Statement .regattaWireRecover := none_named rfl
theorem in5Return : Statement .in5Return := none_named rfl
theorem spindleStopped : Statement .spindleStopped := none_named rfl

end Sys2Proof.Laws.Requester
end

