-- ==== Sys2Proof/Laws/Rise.lean ====
section
/-! SUPPORT. What the commands do to the fuses and the queue: only a rise of a minimum version changes a fuse, and no command
touches the queue. -/

namespace Sys2Proof.Machine

open Sys2Proof

/-- What every command does to the queue and the fuses: the queue is untouched, nothing of manufacture changes, no minimum
version falls, and sound fuse banks stay sound. -/
def Rise (s t : State) : Prop :=
  t.pending = s.pending ∧ FusesRise s.fuses t.fuses ∧ (FusesSound s.fuses → FusesSound t.fuses)

theorem Rise.of_kept {s t : State} (h : t.kept false = s.kept false) : Rise s t := by
  have h1 : t.fuses = s.fuses := congrArg Prod.fst h
  have h2 : t.pending = s.pending := congrArg (·.2.1) h
  unfold Rise FusesRise
  rw [h1, h2]
  exact ⟨rfl, ⟨rfl, rfl, rfl, rfl, rfl, rfl, fun _ => Nat.le_refl _⟩, id⟩
theorem Rise.refl (s : State) : Rise s s := .of_kept rfl
theorem Rise.trans {s t u : State} (h : Rise s t) (g : Rise t u) : Rise s u := by
  obtain ⟨h1, ⟨a1, a2, a3, a4, a5, a6, a7⟩, h3⟩ := h
  obtain ⟨g1, ⟨b1, b2, b3, b4, b5, b6, b7⟩, g3⟩ := g
  exact ⟨g1.trans h1, ⟨b1.trans a1, b2.trans a2, b3.trans a3, b4.trans a4, b5.trans a5, b6.trans a6,
    fun k => Nat.le_trans (a7 k) (b7 k)⟩, g3 ∘ h3⟩
theorem Rise.after {s t u : State} (h : Rise s t) (g : u.kept false = t.kept false) : Rise s u := h.trans (.of_kept g)
theorem Rise.before {s t u : State} (g : t.kept false = s.kept false) (h : Rise t u) : Rise s u := Rise.trans (.of_kept g) h

/-- A count of blown fuses rises to at most 63. -/
theorem blow_rise (s : State) (k v : Nat) (hk : k ≤ 6) (hv : v ≤ 63) (h : minSvn s k < v) :
    Rise s { s with fuses := { s.fuses with minSvn := sset 0 s.fuses.minSvn k v } } := by
  have hsame : sget 0 (sset 0 s.fuses.minSvn k v) k = v := by rw [sget_sset_same]
  have hother : ∀ j, j ≠ k → sget 0 (sset 0 s.fuses.minSvn k v) j = sget 0 s.fuses.minSvn j :=
    fun j e => sget_sset_other v e
  refine ⟨rfl, ⟨rfl, rfl, rfl, rfl, rfl, rfl, fun j => ?_⟩, fun hs => ⟨wf_sset _ _ hs.1, fun j => ?_, fun j hj => ?_⟩⟩
  · show sget 0 s.fuses.minSvn j ≤ sget 0 (sset 0 s.fuses.minSvn k v) j
    by_cases e : j = k
    · subst e; rw [hsame]; exact Nat.le_of_lt h
    · exact Nat.le_of_eq (hother j e).symm
  · show sget 0 (sset 0 s.fuses.minSvn k v) j ≤ 63
    by_cases e : j = k
    · subst e; rw [hsame]; exact hv
    · rw [hother j e]; exact hs.2.1 j
  · show sget 0 (sset 0 s.fuses.minSvn k v) j = 0
    rw [hother j (by omega)]; exact hs.2.2 j hj

theorem svnWrite_rise (q : Req) (w : Word) (s : State) : Rise s (svnWrite q w s) := by
  unfold svnWrite
  extract_lets go s1 k v old
  have h1 : s1.kept false = s.kept false := plainWrite_kept _ _ _ _ _
  split
  · exact .of_kept (by split <;> simp only [State.put_kept])
  · split
    · exact .of_kept h1
    · split
      · rename_i h
        refine (Rise.before h1 (blow_rise s1 k v h.1 ?_ h.2)).after ?_
        · have : v < 2 ^ 6 := Nat.mod_lt _ (by decide)
          omega
        · simp only [raise_kept, report_kept, State.put_kept]
          rfl
      · exact .of_kept ((State.put_kept _ _ _ _ _).trans h1)

theorem secWrite_rise (q : Req) (off : Nat) (w : Word) (s : State) : Rise s (secWrite q off w s) := by
  unfold secWrite
  repeat' split
  all_goals first
    | with_reducible exact svnWrite_rise _ _ _
    | exact .of_kept (by simp only [grantWrite_kept, measWrite_kept, measExtend_kept, keyWrite_kept, unlockData_kept,
        unlockCmd_kept, plainWrite_kept])

theorem guarded_rise (s : State) (q : Req) (p : Page) (off : Nat) (w : Word) (eff : State → State)
    (h : ∀ s, Rise s (eff s)) : Rise s (guarded s q p off w eff) := by
  unfold guarded
  dsimp only
  split
  · exact .of_kept rfl
  · exact .of_kept ((grantRefused_kept _ _ _ _ _).trans rfl)
  · exact .of_kept rfl
  · split
    · split
      · exact .before (t := kpRefused (s.reply 0 []) q p off w) ((kpRefused_kept _ _ _ _ _).trans rfl) (h _)
      · exact .of_kept rfl
    · exact .before (t := s.reply 0 []) rfl (h _)

theorem blockWrite_rise (q : Req) (p : Page) (off : Nat) (w : Word) (s : State) : Rise s (blockWrite q p off w s) := by
  unfold blockWrite
  dsimp only
  split
  all_goals first
    | with_reducible exact secWrite_rise _ _ _ _
    | exact .of_kept (by simp only [kept_ite, ite_self, oosWrite_kept, domWrite_kept, clkWrite_kept, brzWrite_kept, evrWrite_kept, tmpWrite_kept,
        calWrite_kept, l2cWrite_kept, tcmRegWrite_kept, wrkWrite_kept, mbxWrite_kept, pcxWrite_kept, plainWrite_kept,
        schWrite_kept, bufWrite_kept, dmcWrite_kept, fmtWrite_kept, wevWrite_kept, seqWrite_kept, ldpWrite_kept,
        laneWrite_kept, srvWrite_kept, astWrite_kept, pwrWrite_kept, spnWrite_kept, rgtWrite_kept, macWrite_kept,
        vcmWrite_kept, nvsWrite_kept])

theorem regWrite_rise (q : Req) (p : Page) (off : Nat) (w : Word) (s : State) : Rise s (regWrite q p off w s) := by
  unfold regWrite
  split
  · exact .of_kept (headerWrite_kept _ _ _ _)
  · exact blockWrite_rise _ _ _ _ _

theorem writeAccess_rise (q : Req) (addr size : Nat) (w : Word) (s : State) : Rise s (writeAccess q addr size w s) := by
  unfold writeAccess
  split
  · exact .of_kept rfl
  · split
    · exact .of_kept rfl
    · exact guarded_rise _ _ _ _ _ _ fun _ => regWrite_rise _ _ _ _ _

theorem anyAccess_rise (q : Req) (addr size : Nat) (w : Option Word) (s : State) : Rise s (anyAccess q addr size w s) := by
  unfold anyAccess
  split
  · exact writeAccess_rise _ _ _ _ _
  · exact .of_kept (readAccess_kept _ _ _ _)

theorem foldl_rise {α : Type} (f : State → α → State) (h : ∀ s x, Rise s (f s x)) (l : List α) (s : State) :
    Rise s (l.foldl f s) := by
  induction l generalizing s with
  | nil => exact .refl s
  | cons a l ih => exact (h s a).trans (ih _)

theorem serveWaits_rise (why : WaitWhy) (s : State) : Rise s (serveWaits why s) := by
  unfold serveWaits State.serveEach
  split
  · exact .of_kept rfl
  · refine Rise.before (t := ({ s with waiting := s.waiting.filter fun x => x.why ≠ why } : State).reply 0 []) rfl
      (foldl_rise _ (fun s x => ?_) _ _)
    exact (anyAccess_rise _ _ _ _ _).after rfl

theorem fetchRun_rise (s : State) (u e op : Nat) (body : Nat → State → State) (h : ∀ w s, Rise s (body w s)) :
    Rise s (fetchRun s u e op body) := by
  have hr : ((readStore (disturb s u (pcOf s u) e) u (pcOf s u)).2).kept false = s.kept false := by
    rw [readStore_kept, disturb_kept]
  unfold fetchRun
  dsimp only
  repeat' split
  · exact .refl s
  · exact .of_kept (by rw [seqFault_kept, hr])
  · exact .of_kept (by rw [setUnitState_kept, State.setSqr_kept, hr])
  · exact .of_kept (by rw [seqFault_kept, safePoint_some ‹_›, hr])
  · exact .of_kept (by rw [safePoint_some ‹_›, hr])
  · exact .before (by rw [safePoint_some ‹_›, hr]) (h _ _)

theorem runWord_rise (s : State) (u e op : Nat) (body : Nat → State → State) (h : ∀ w s, Rise s (body w s)) :
    Rise s (runWord s u e op body) := by
  unfold runWord
  refine fetchRun_rise _ _ _ _ _ fun w s => ?_
  have h1 : Rise s (body w (countBusy (s.setSqr u { clearSampled w (s.sqr u) with waiting := false }) u)) :=
    .before (by rw [countBusy_kept, State.setSqr_kept]) (h _ _)
  dsimp only
  split
  · exact h1
  · exact h1.after (nextAddress_kept _ _ _ _)

theorem regWordOf_rise (u e : Nat) (write : Bool) (s : State) : Rise s (regWordOf u e write s) := by
  unfold regWordOf
  refine runWord_rise _ _ _ _ _ fun w s => ?_
  dsimp only
  repeat' split
  · exact .of_kept (seqFault_kept _ _ _)
  · exact .of_kept (seqFault_kept _ _ _)
  · exact writeAccess_rise _ _ _ _ _
  · exact .of_kept (by rw [State.setSqr_kept, readAccess_kept])

theorem serveRecorder_rise (s : State) : Rise s (serveRecorder s) := by
  unfold serveRecorder
  split
  · exact serveWaits_rise _ _
  · exact .refl s

theorem addressWrite_rise (q : Req) (a n : Nat) (w : Word) (s : State) : Rise s (addressWrite q a n w s) := by
  unfold addressWrite
  split
  · exact writeAccess_rise _ _ _ _ _
  · exact .of_kept rfl
theorem execRegisterWrite_rise (q : Req) (a : BitVec 32) (n : Nat) (w : BitVec 32) (s t : State)
    (h : execRegisterWrite q a n w s = .next t) : Rise s t := by
  cases h; exact addressWrite_rise _ _ _ _ _
theorem execSvnRaise_rise (q : Req) (w : BitVec 32) (s t : State) (h : execSvnRaise q w s = .next t) : Rise s t := by
  cases h; exact guarded_rise _ _ _ _ _ _ fun _ => svnWrite_rise _ _ _
theorem execSeqRegRead_rise (u : Fin 12) (e : BitVec 137) (s t : State) (h : execSeqRegRead u e s = .next t) :
    Rise s t := by
  cases h; exact regWordOf_rise _ _ _ _
theorem execSeqRegWrite_rise (u : Fin 12) (e : BitVec 137) (s t : State) (h : execSeqRegWrite u e s = .next t) :
    Rise s t := by
  cases h; exact regWordOf_rise _ _ _ _
theorem execDiagBarAccess_rise (a : BitVec 26) (n : Nat) (w : Option (BitVec 32)) (s t : State)
    (h : execDiagBarAccess a n w s = .next t) : Rise s t := by
  cases h
  split
  · exact .of_kept rfl
  · dsimp only
    split
    · exact .before (diagRefused_kept _ _ _) (anyAccess_rise _ _ _ _ _)
    · exact anyAccess_rise _ _ _ _ _
theorem serveLink_rise (n : Nat) (s : State) : Rise s (serveLink n s) := by
  unfold serveLink
  split
  · exact serveWaits_rise _ _
  · exact .refl _
theorem serveLinks_rise (l : List Nat) (s : State) : Rise s (l.foldl (fun s n => serveLink n s) s) := by
  induction l generalizing s with
  | nil => exact .refl _
  | cons n l ih => exact (serveLink_rise n s).trans (ih _)
theorem execLinkTrainingComplete_rise (n : Fin 4) (s t : State) (h : execLinkTrainingComplete n s = .next t) :
    Rise s t := by
  cases h
  dsimp only
  split
  · exact .refl _
  · exact (Rise.before (by rw [moveAllFlits_kept, trained_kept]) (serveLink_rise n.val (moveAllFlits (trained s n.val)))).after
      (by rw [schSettle_kept, workGoesOn_kept, serveAsks_kept])
theorem execCatchTokenReceive_rise (d : Fin 3) (k : Int) (s t : State) (h : execCatchTokenReceive d k s = .next t) :
    Rise s t := by
  cases h
  dsimp only
  split
  · exact .refl _
  · refine Rise.before ?_ (serveLinks_rise _ _)
    rw [moveAllFlits_kept]
    split <;> simp only [sendToken_kept, timerTakes_kept, takeToken_kept]
theorem execEvrRecordAccept_rise (s t : State) (h : execEvrRecordAccept s = .next t) : Rise s t := by
  cases h; exact .before (evrAccept_kept _) (serveRecorder_rise _)
theorem execEvrCommitWordDone_rise (v : Bool) (s t : State) (h : execEvrCommitWordDone v s = .next t) : Rise s t := by
  cases h
  split
  · exact .refl _
  · exact .before (evrWordDone_kept _ _) (serveRecorder_rise _)
theorem execEvrRegionRead_rise (s t : State) (h : execEvrRegionRead s = .next t) : Rise s t := by
  cases h; exact .before (evrRegionRead_kept _) (serveRecorder_rise _)

end Sys2Proof.Machine
end

