-- ==== Sys2Proof/Tests/Slice0.lean ====
section
/-! SUPPORT. Tests: ill-formed commands are refused, one-step checks against rules of the spec, and for the statements
that have hypotheses a state and operands that meet them. -/

namespace Sys2Proof.Tests

open Sys2Proof Sys2Proof.Machine

-- Checked one after another: each check in its own thread would ask for a stack of its own.
set_option Elab.async false

/-! Commands that `wellFormed` refuses, one for each check. -/

/-- A Cox core in class 0, a keeper (R545). -/
def k0 : Req := ⟨0, 0⟩

theorem test_req_core_refused : wellFormed (.registerWrite ⟨0, 6⟩ 0 4 0) = false := by decide
theorem test_req_unit_refused : wellFormed (.wideReadLatch ⟨3, 12⟩ 0) = false := by decide
theorem test_req_single_refused : wellFormed (.spinStart ⟨7, 1⟩ 0) = false := by decide
theorem test_size_refused : wellFormed (.registerReadClear k0 0 3) = false := by decide
theorem test_diag_size_refused : wellFormed (.diagBarAccess 0 8 none) = false := by decide
theorem test_entry_refused : wellFormed (.commandFetch [[0]]) = false := by decide
theorem test_named_entry_refused : wellFormed (.abort 0 0 0 [[]]) = false := by decide
theorem test_dwords_refused : wellFormed (.fwImageDownload 0 0 [1, 2, 3]) = false := by decide
theorem test_line_refused : wellFormed (.l2Access 60 8 none false false []) = false := by decide
theorem test_line_data_refused : wellFormed (.l2Access 0 2 (some [1]) false false []) = false := by decide
theorem test_word_refused : wellFormed (.tcmAccess 5 4 none 0) = false := by decide
theorem test_empty_read_refused : wellFormed (.bufferRead .other 0 0 []) = false := by decide
theorem test_empty_write_refused : wellFormed (.bufferWrite 0 [] false) = false := by decide
theorem test_scan_req_refused : wellFormed (.nvsScanStart (some (⟨1, 9⟩, 0))) = false := by decide
theorem test_frame_refused : wellFormed (.frameRead 0 ⟨[1], [], 0, [], 0, false, true⟩) = false := by decide
theorem test_gap_refused :
    wellFormed (.frameRead 0 ⟨[], List.replicate 16 0, 0, [⟨0, [], []⟩], 0, false, true⟩) = false := by decide
theorem test_well_formed : wellFormed (.registerWrite ⟨3, 11⟩ 0x40 4 7) = true := by decide

/-! Small states. -/

/-- After reset, with the links of all dies up. -/
def live : State := State.reset.put BRZ.BRZ_STAT.LINK_UP 15

/-- `live` with a page in RUN and enabled. -/
def runs (s : State) (p : Page) : State := (s.put HDR.PAGE_STAT.STATE stRun p.index).put HDR.PAGE_CTL.ENABLE 1 p.index

theorem admits_of {s : State} {q : Req} {p : Page} {off : Nat} (h : writeGate s q p off = .reached)
    (k : keeper q = true) : Admits s q p off := ⟨h, fun _ => k⟩

theorem live_reaches : ∀ p ∈ pages, reach live k0 p = .reached ∧ mayWrite live k0 p = true := by decide +kernel

/-- In `live` a keeper's write reaches every register of every page. -/
theorem live_admits : ∀ p ∈ pages, ∀ off, Admits live k0 p off := by
  intro p hp off
  obtain ⟨h, g⟩ := live_reaches p hp
  refine admits_of ?_ rfl
  unfold writeGate
  rw [h, g]
  rfl

/-- In `live` a keeper's read is served by every page. -/
theorem live_serves : ∀ p ∈ pages, ∀ off, Serves live k0 p off := fun p hp _ =>
  ⟨rfl, fun h => by simp [k0] at h, (live_reaches p hp).1⟩

/-! One-step checks. -/

theorem test_reset_budget : State.reset.get SEQ.SQ_BUDGET.BUDGET 1 5 = 12000 := by decide +kernel
theorem test_no_words : decodeTableWord 32 0 = none := rfl
theorem test_step_front : step { State.reset with pending := [.ovRetractTimeout, .in5Return] } =
    exec .ovRetractTimeout { State.reset with pending := [.in5Return] } := rfl

/-- The check value of CRC-32C (the code of a record of the recorder: R490). -/
theorem test_crc32c : crc32c ((List.range 9).map (· + 0x31)) = 0xE3069283 := by decide +kernel
/-- The first and last bytes of SHAKE256 of no bytes (FIPS 202). -/
theorem test_shake256 : ((shake256 []).take 4, (shake256 []).drop 30) = ([0x46, 0xB9, 0xDD, 0x2B], [0x76, 0x2F]) := by
  decide +kernel
/-- The S-box of FIPS 197 and its inverse, at the standard's example. -/
theorem test_aes_sub : aesSub 0x53 = 0xED ∧ aesUnsub 0xED = 0x53 ∧ aesSub 0 = 0x63 := by decide +kernel

/-- A mirror header reads back as it was written, and a changed byte is found (R489). -/
theorem test_mirror_head : mirrorHead (MirrorHead.bytes ⟨2, 7, 4096, 1, 3, 742, 5⟩) = some ⟨2, 7, 4096, 1, 3, 742, 5⟩ ∧
    mirrorHead ((MirrorHead.bytes ⟨2, 7, 4096, 1, 3, 742, 5⟩).set 8 6) = none := by decide +kernel

/-- ADD wraps with carry; the greatest positive number plus one overflows (R243). -/
theorem test_add_flags : addCarry 0xFFFFFFFF 1 = true ∧ addOverflow 0x7FFFFFFF 1 = true ∧ addOverflow 0xFFFFFFFF 1 = false ∧
    diff32 0 1 = 0xFFFFFFFF ∧ subOverflow 0x80000000 1 = true := by decide +kernel
/-- A launch names a stroke 1 to 32,767 ahead (R43). -/
theorem test_launch_stroke : launchStroke 0 0 = none ∧ launchStroke 65535 0 = some 65536 ∧ launchStroke 0 32767 = some 32767 ∧
    launchStroke 0 32768 = none := by decide +kernel
/-- A write of an RW field of the register file is read back (R11), and a narrower write is discarded (R7). -/
theorem test_register_write :
    (writeAccess k0 (wevPage.base + 0x040) 4 1 live).get WEV.WEV_CTL.RING_EN = 1 ∧
    (writeAccess k0 (wevPage.base + 0x040) 2 1 live).get WEV.WEV_CTL.RING_EN = live.get WEV.WEV_CTL.RING_EN := by
  decide +kernel
/-- A write that the grant table refuses counts and changes nothing else of its page (R546). -/
theorem test_denied : (writeAccess ⟨1, 0⟩ (wevPage.base + 0x040) 4 1 live).get SEC.DENY_CNT.GRANT = 1 ∧
    (writeAccess ⟨1, 0⟩ (wevPage.base + 0x040) 4 1 live).get WEV.WEV_CTL.RING_EN = live.get WEV.WEV_CTL.RING_EN := by
  decide +kernel

/-! Witnesses: for each statement with hypotheses, a state and operands that meet them. Every clause whose hypotheses
begin with `Admits` or `Serves` is met by `live_admits` and `live_serves`, or by the gate shown here. -/

/-- A word with one field set. -/
def fw (F : Fld) (v : Nat) : BitVec 32 := BitVec.ofNat 32 (v * 2 ^ F.lsb)

/-- LOCKED (R40). -/
def inLock (s : State) : State := s.put BRZ.STROKE_STAT.MODE 1

theorem witness_StepTakesOnlyTheFront : ∃ t, step { State.reset with pending := [.in5Return] } = .next t := ⟨_, rfl⟩

theorem witness_FusesOnlyRise : FusesSound State.reset.fuses := ⟨rfl, fun _ => Nat.zero_le _, fun _ _ => rfl⟩

theorem witness_AccessesBesideRegisters :
    pageOf 0x3FFFFFC = none ∧ pageOf 0x2042 ≠ none ∧ 0x2042 % 4 ≠ 0 ∧
    diagActive (live.put PCX.DIAG_CTL.EN 1) = true ∧
    domainLive (live.put PCX.DIAG_CTL.EN 1) (pcxPage 0).domain = true := by decide +kernel

theorem witness_RegisterAccessCommands :
    pageOf 0x2058 = some ⟨.brz, 0⟩ ∧ actingRead k0 ⟨.brz, 0⟩ 0x05C = none ∧ wideUpper ⟨.brz, 0⟩ 0x05C = true ∧
    sget none ({ live with shadow := [(shadowKey k0 0x205C, some 9)] } : State).shadow (shadowKey k0 0x205C) = some 9 ∧
    (actingRead k0 ⟨.brz, 0⟩ 0x060).isSome = true := by decide +kernel

/-- The diagnostic BAR writes a page that a grant opens to class 5. -/
theorem witness_RegisterAccessCommands_diag :
    let s : State := { live.put PCX.DIAG_CTL.EN 1 with grants := [(wevPage.index, 0x31)] }
    writeGate s diagReq wevPage 0x044 = .reached ∧ hasKp wevPage 0x044 = false ∧ diagActive s = true := by decide +kernel

theorem witness_ReadsThatClear : ((pageFields ⟨.brz, 0⟩ 0x048).any fun e => e.1.acc = .rc) = true ∧
    actingRead k0 ⟨.brz, 0⟩ 0x048 = none ∧ reach (live.put PCX.DIAG_CTL.EN 1) diagReq ⟨.brz, 0⟩ = .reached ∧
    portOpen (live.put PCX.DIAG_CTL.EN 1) diagReq ⟨.brz, 0⟩ 0x048 = true := by decide +kernel

theorem witness_RefusedWritesOnlyCount :
    writeGate live ⟨1, 0⟩ wevPage 0x044 = .denied ∧ domainLive live 1 = true ∧ recorderRoom (runs live evrPage) = true ∧
    writeGate live ⟨4, 0⟩ ⟨.sec, 0⟩ 0x050 = .reached ∧ hasKp ⟨.sec, 0⟩ 0x050 = true ∧ keeper ⟨4, 0⟩ = false ∧
    ((pageFields ⟨.sec, 0⟩ 0x050).all fun e => e.1.acc = .kp || e.1.acc = .kgo || e.1.acc = .ro) = true := by
  decide +kernel

theorem witness_SameClockEventStays : pageAt 2 = some ⟨.brz, 0⟩ ∧ 0 < Page.evCount ⟨.brz, 0⟩ ∧ bit 1 0 = true := by
  decide +kernel

theorem witness_PageControlCommands :
    (pageState live wevPage = stOff ∧ pageEnabled live wevPage = false) ∧
    (let s := runs live wevPage; pageState s wevPage = stRun ∧ pageEnabled s wevPage = true) ∧
    (let s := (runs live wevPage).put HDR.PAGE_STAT.STATE stHold wevPage.index
     pageState s wevPage = stHold ∧ pageEnabled s wevPage = true) ∧
    (let s := (runs live wevPage).put HDR.PAGE_STAT.STATE stEasing wevPage.index
     pageState s wevPage = stEasing ∧ pageEnabled s wevPage = true) ∧
    HDR.PAGE_CTL.ENABLE.of 1 = 1 ∧ HDR.PAGE_CTL.EASY.of 1 = 0 ∧ HDR.PAGE_CTL.EASY.of (1 + fw HDR.PAGE_CTL.EASY 1) = 1 ∧
    HDR.PAGE_CTL.HOLD_REL.of (1 + fw HDR.PAGE_CTL.HOLD_REL 1) = 1 := by decide +kernel

theorem witness_PageControlCommands_ends :
    (let s := (runs live wevPage).put HDR.PAGE_CTL.ENABLE 0 wevPage.index
     domainLive s wevPage.domain = true ∧ working s wevPage = true ∧ pageEnabled s wevPage = false) ∧
    domainLive live 30 = true ∧ domainHolds live 30 = false := by decide +kernel

/-- Port 1's page is present with two ports and absent with one (R298). -/
theorem witness_PageControlCommands_absent : pageAbsent live wevPage = false ∧
    pageAbsent { live with straps := { live.straps with port := true } } ⟨.pcx, 1⟩ = true ∧
    pageState live ⟨.pcx, 1⟩ = stOff ∧ pageAt (Page.index ⟨.pcx, 1⟩) = some ⟨.pcx, 1⟩ := by decide +kernel

theorem witness_CommandsThatStoreNothing :
    keepsStores .in5Return = true ∧ exec .in5Return live = .next (live.put PWR.PWR_STAT.IN5_OK 1) := ⟨rfl, rfl⟩

/-- Both channels of DRAM are present, and DMC has sampled so when it was enabled (R389). -/
def ram : State := ((live.put DMC.DMC_CFG.SIZE 8).put DMC.DMC_CTL.CH_EN 3).setDram { live.dram with sampled := some (3, 8, 0) }

theorem witness_BufferWriteStoresItsBytes : MergeSound ram.dram ∧ (∀ g, sget 0 ram.dram.err g = 0) ∧
    ram.get DMC.FLIP_CTL.ARM = 0 ∧ 0x1000 + 8 ≤ usableBytes ram :=
  ⟨⟨by simp [ram, live, State.reset, State.put, State.setDram], by simp [ram, live, State.reset, State.put, State.setDram]⟩, fun _ => rfl,
    by decide +kernel, by decide +kernel⟩

theorem witness_BufferMemoryKeepsItsForm : Memory.wf ram.dram = true := by decide +kernel

theorem witness_BufferCommands :
    BUF.MERGE_CTL.FLUSH.of (fw BUF.MERGE_CTL.FLUSH 1) = 1 ∧
    (let s := (runs ram dmcPage).put DMC.DMC_CTL.SCRUB_EN 1
     s.get DMC.DMC_CTL.SCRUB_EN ≠ 0 ∧ running s dmcPage = true ∧ domainLive s dmcPage.domain = true ∧
       usableBytes s / 32 ≠ 0 ∧ s.get DMC.SCRUB_POS.GRANULE + 1 < usableBytes s / 32) ∧
    (let s := ram.put DMC.SCRUB_POS.GRANULE (usableBytes ram / 32 - 1)
     usableBytes s / 32 ≤ s.get DMC.SCRUB_POS.GRANULE + 1) ∧
    DMC.TEST_CTL.GO.of (fw DMC.TEST_CTL.GO 1) ≠ 0 ∧ live.get DMC.TEST_CTL.BUSY ≠ 1 ∧
    (live.put DMC.TEST_CTL.BUSY 1).get DMC.TEST_CTL.BUSY ≠ 0 ∧ bit (ram.get DMC.DMC_CTL.CH_EN) 1 = true := by
  decide +kernel

theorem witness_CacheCommands :
    (let s := ram.put L2C.L2_STAT.MODE l2On
     0x40 + 8 ≤ usableBytes s ∧ domainLive s l2cPage.domain = true ∧ l2Mode s = l2On ∧ l2Find s 1 = none) ∧
    (let x : L2Line := ⟨1, true, 0, List.replicate 64 0, true, true⟩
     let k := (l2Places 1).headD 0
     let s := ((ram.put L2C.L2_STAT.MODE l2On).put L2C.L2_CTL.PAR_EN 1).setL2Line k (some x)
     l2Find s 1 = some k ∧ s.l2Line k = some x ∧ l2Bad s [k] k = true ∧ l2Bad s [] k = false) ∧
    (let s := ram.put L2C.L2_STAT.MODE l2Bypass; l2Mode s ≠ l2On ∧ l2Mode s ≠ l2Draining) ∧
    L2C.PRELOAD_CTL.GO.of (fw L2C.PRELOAD_CTL.GO 1) ≠ 0 ∧ L2C.MAINT_CMD.GO.of (fw L2C.MAINT_CMD.GO 1) ≠ 0 ∧
    live.get L2C.PRELOAD_CTL.BUSY ≠ 1 ∧ live.get L2C.MAINT_CMD.BUSY ≠ 1 ∧
    l2Mode (live.put L2C.L2_STAT.MODE l2Draining) = l2Draining := by decide +kernel

theorem witness_TcmCommands :
    (tcmRead live 0 8).1.2 = false ∧
    (tcmRead (live.setTcmWord 0 { valid := true, poison := true }) 0 8).1.2 = true ∧
    live.get TCM.CLEAR_CTL.BUSY = 0 ∧ TCM.CLEAR_CTL.GO.of (fw TCM.CLEAR_CTL.GO 1) = 1 ∧
    TCM.FLIP_CTL.ARM.of (fw TCM.FLIP_CTL.ARM 1) = 1 := by decide +kernel

theorem witness_LinkAndEventCommands :
    linkUp live 3 = true ∧ linkTraining live 3 = false ∧
    (let s := live.put BRZ.BRZ_STAT.TRAINING 8
     linkTraining s 3 = true ∧ (s.link 3).attempts + 1 < 3 ∧
       3 ≤ ((s.setLink 3 { attempts := 2 }).link 3).attempts + 1) ∧
    noticeMoves live ⟨0, 7, 0x2000, 0⟩ = true ∧ pageState live wevPage ≠ stFault := by decide +kernel

theorem witness_StrokeCommands :
    (domainLive live rgtPage.domain = true ∧
     domainLive (live.setDom rgtPage.domain { powered := false }) rgtPage.domain = false) ∧
    (let s := live.setLink 1 { fromCox := [.token 5] }
     dieTraining s ((tokenWay 2).1 + 1) = false ∧ tokenWaiting s (tokenWay 2).1 (tokenWay 2).2 = some 5 ∧
       (s.timer 2).stroke = none) ∧
    ((live.setTimer 2 { stroke := some 4 }).timer 2).stroke = some 4 ∧
    (let s : State := { live with launches := [⟨.seek, 0, 0, 3, 0, none, 0, none⟩], timers := [(1, { stroke := some 9 })] }
     (s.launches.find? fun x => x.kind = .seek && x.inst = 0 && decide (x.stroke < strokeAt s (launchDie x))).isSome = true) ∧
    (let s : State := { live with wires := { winh := [.shock] } }; s.wires.winh ≠ [] ∧ s.wires.winhSeen = false) ∧
    (let s : State := { live with wires := { winhSeen := true } }; s.wires.winh = [] ∧ s.wires.winhSeen = true) := by
  decide +kernel

theorem witness_FormatCommands :
    (running (runs live fmtPage) fmtPage = true ∧ domainLive (runs live fmtPage) fmtPage.domain = true) ∧
    zoneLocked live 3 = false ∧
    (let s := (live.put FMT.ENTRY_LOCK.VALID 1).put FMT.ENTRY_LOCK.ZONE 3
     zoneLocked s 3 = true ∧ s.get FMT.ENTRY_LOCK.VALID = 1 ∧ FMT.ENTRY_LOCK.ZONE.of (fw FMT.ENTRY_LOCK.ZONE 3) = 3) ∧
    FMT.FMT_CTL.SCAN.of (fw FMT.FMT_CTL.SCAN 1) = 1 ∧ (live.put FMT.FMT_STAT.SCAN_BUSY 1).get FMT.FMT_STAT.SCAN_BUSY = 1 ∧
    FMT.XLAT_REQ.GO.of (fw FMT.XLAT_REQ.GO 1) = 1 := by decide +kernel

/-- One band of 200 tracks in each rate band. -/
def formatted : State := (List.range 48).foldl (fun s k => (s.put FMT.RB_CFG.RATE_MHZ 2400 0 k).put
  FMT.RB_CFG.BAND_TRACKS 200 0 k) (live.put FMT.BANDS_PER_RB.COUNT 1)

theorem witness_FormatCommands_skip : formatOk formatted = true ∧ 47 < formatted.get FMT.BANDS_PER_RB.COUNT * 48 ∧
    (readBand formatted 31 47).1.1.kind ≠ 2 ∧
    (insertRising 5 (readSkips (readBand formatted 31 47).2 (readBand formatted 31 47).1.1).1.1).length ≤
      bandSlack (rateBand formatted 47) false := by decide +kernel

/-- A tag of an open read of lane 7 that reads again with an offset of +4 hundredths of a track (R251). -/
def rereadTag : Tag := { st := .taken, entry := [0, 0, 0, 0, 0, 4, 0, 4] ++ List.replicate 24 0 }

/-- A frame of `n` samples of 0. -/
def flat (n : Nat) (verify : Bool) : FrameIn := ⟨List.replicate n 0, List.replicate (n + 16) 0, 0, [], 0, verify, true⟩

theorem witness_FrontEndCommands :
    mayRead (live.setLane 3 { readGate := true }) 3 (flat 1 false) = true ∧ frameStopped (flat 1 false) = true ∧
    frameStopped (flat 38239 false) = true ∧ frameStopped (flat 38240 false) = false ∧
    (let s := ({ live with launches := [⟨.readGate, 7, 0, 0, 0, some 2, 0, none⟩] } : State).put PWR.PWR_STAT.RAIL_PG 0x100
     (takeLaunch s .readGate 7 2).isSome = true ∧ pre5Good s = true) ∧
    (let s := (live.setTag 7 2 rereadTag).setLane 7 { serves := some 2 }
     rereading s 7 = some rereadTag ∧ rereading (live.setLane 7 { serves := some 2 }) 7 = none) ∧
    (let w := fw LANE.SBUF_CMD.OP 1 + fw LANE.SBUF_CMD.ENTRY 71
     LANE.SBUF_CMD.OP.of w = 1 ∧ LANE.SBUF_CMD.ENTRY.of w = 71 ∧ LANE.SBUF_CMD.GEN_CHK.of w = 0 ∧
       pinCount (live.lane 3) < 8) ∧
    (let s := live.setLane 3 (({} : Lane).setEntry 71 { fwPin := true }); ((s.lane 3).entry 71).fwPin = true) := by
  decide +kernel

theorem witness_UnpinReleasesOnlyFirmwarePins :
    ((live.lane 7).entry 71).fwPin = false ∧ LANE.SBUF_CMD.OP.of (fw LANE.SBUF_CMD.OP 2) = 2 ∧
    LANE.SBUF_CMD.ENTRY.of (fw LANE.SBUF_CMD.OP 2) < 72 ∧ LANE.SBUF_CMD.OP.of (fw LANE.SBUF_CMD.OP 3) = 3 := by
  decide +kernel

/-- A frame's codeword in a unit of LDP. -/
def cw : Codeword := { lane := 0, entry := 71, gen := 0, head := 0, psa := 0 }

/-- An online pass of a frame that waits for its end. -/
def pass : Pass := ⟨71, 0, some 31, true, [], 3, [], [], []⟩

theorem witness_DetectionCommands :
    (let s := live.setLane 7 { passes := [pass] }
     laneNo 1 3 = 7 ∧ (s.lane (laneNo 1 3)).passes = [pass]) ∧
    (let back := { cw with backward := true }
     let s := live.setLdp 1 { cores := [(5, some cw)], det := [(0, some cw), (1, some back)]
                              online := [{ cw with aborted := true, step := 1 }], fw := some cw }
     sget none (s.ldp 1).cores 5 = some cw ∧ sget none (s.ldp 1).det 1 = some back ∧ onlineBackward back = true ∧
       sget none (s.ldp 1).det 0 = some cw ∧ onlineBackward cw = false ∧
       (s.ldp 1).all.find? (fun c => c.aborted && decide (0 < c.step)) = some { cw with aborted := true, step := 1 } ∧
       (s.ldp 1).fw = some cw) ∧
    setBit (((live.put LDP.CORE_EN.EN 0x20 1).get LDP.CORE_EN.EN 1)) 5 false = 0 ∧
    setBit (((live.put LDP.CORE_EN.EN 0x21 1).get LDP.CORE_EN.EN 1)) 5 false ≠ 0 ∧
    LDP.COEF_COMMIT.GO.of (fw LDP.COEF_COMMIT.GO 1) = 1 ∧ LDP.RP_CMD.GO.of (fw LDP.RP_CMD.GO 1) = 1 ∧
    live.get LDP.RP_DEST.ADDR 1 = 0 ∧ (live.put LDP.RP_DEST.ADDR 1 1).get LDP.RP_DEST.ADDR 1 ≠ 0 := by
  decide +kernel

/-- A firmware replay starts on a written entry, of its generation where that is checked, and is refused on a missing
entry or another generation (R156). -/
theorem witness_DetectionCommands_replay :
    let s := (runs live (ldpPage 1)).setLane 4 (({} : Lane).setEntry 71 { gen := 3 })
    let t := s.put LDP.RP_DESC0.ENTRY 71 1
    (t.get LDP.RP_CMD.BUSY 1 ≠ 1 ∧ t.get LDP.RP_DESC0.ENTRY 1 ≤ 71 ∧ t.get LDP.RP_DESC0.GEN_CHK 1 ≠ 1 ∧
      metaSrc ((t.lane (laneNo 1 0)).entry 71).words ≠ 3 ∧ ldpStarts (t.reply 0 []) 1 = true) ∧
    71 < (s.put LDP.RP_DESC0.ENTRY 72 1).get LDP.RP_DESC0.ENTRY 1 ∧
    (let u := t.put LDP.RP_DESC0.GEN_CHK 1 1
     u.get LDP.RP_DESC0.GEN_CHK 1 = 1 ∧ ((u.lane (laneNo 1 0)).entry 71).gen ≠ u.get LDP.RP_DESC0.GEN 1 ∧
       ((u.put LDP.RP_DESC0.GEN 3 1).lane (laneNo 1 0)).entry 71 = { gen := 3 } ∧
       (u.put LDP.RP_DESC0.GEN 3 1).get LDP.RP_DESC0.GEN 1 = 3) := by decide +kernel

/-- A write in progress on a lane, in the second segment of its track, with a slot still to verify. -/
def job : WriteJob := ⟨2, 4, 0, 0, [0, 0], 0, [0], true, false, 0, 0, false, 0, none, none⟩

theorem witness_WriteGateCommands :
    (let s := live.setLane 7 { writeGate := true, write := some job }
     (s.lane 7).write = some job ∧ (s.lane 7).writeGate = true ∧
     (lanesOf 3).findSome? (fun n => (s.lane n).write.filter fun j => j.head = 2) = some job ∧
     (let t := (s.put SRV.PES.VALID 1 3 2).put SRV.PES.PES 0x7FFF 3 2
      t.get SRV.PES.VALID 3 2 ≠ 0 ∧ wedgeWithin t 3 2 (inhLimit t 3 false) = false)) ∧
    AST.AST_CTL.FORCE_INH.of (fw AST.AST_CTL.FORCE_INH 1) = 1 ∧ live.get AST.AST_CTL.FORCE_INH 3 = 0 ∧
    AST.AST_CTL.FORCE_INH.of 0 = 0 ∧ (live.put AST.AST_CTL.FORCE_INH 1 3).get AST.AST_CTL.FORCE_INH 3 = 1 ∧
    (let r : SectorResult := ⟨3, 0, true, [], 0⟩
     let s := live.setLdp 1 { results := [r] }
     ((dropStale s 1).ldp 1).results.find? (fun r => r.lane = 7 % 4 && r.verify) = some r ∧
       verifyJob ((dropStale s 1).lane 7) (bits r.record 0 40) = none ∧
       verifyJob ((dropStale (s.setLane 7 { write := some job }) 1).lane 7) (bits r.record 0 40) = some job) := by
  decide +kernel

/-- An actuator whose head has a heat element and writes. -/
def writer : State := inLock ((runs live (astPage 0)).setAst 0 { table := [(0, 1 + 128 * 256)] })

/-- The tag of a write that its lane sequencer has taken. -/
def writeTag : Tag := { st := .taken, entry := [0, 0, 0, 0, 0, 1] ++ List.replicate 26 0 }

/-- `writer` with its head's element armed long enough for the launch of write gate in lane 0. -/
def ready : State :=
  let s := { writer.setTag 0 3 writeTag with launches := [⟨.writeGate, 0, 0, 1000, 0, some 3, 0, none⟩] }
  (s.setTimer 1 { stroke := some 1000 }).setAst 0 ((s.ast 0).setElem 0 { st := .armed })

theorem witness_WriteGateCommands_open :
    (∃ x t, takeLaunch ready .writeGate 0 1 = some (x, t) ∧ x.tag = some 3 ∧
      (let u := if (ready.tag 0 3).fullAssist then takeAssistPermit t 0 3 else t
       fullPower ready 0 x.head (psaBand ready (ready.tag 0 3).psa) = true → bit (u.get SCH.PERMIT_STAT.ASSIST) 0 = true)) ∧
    (ready.tag 0 3).st = .taken ∧ (ready.tag 0 3).writes = true ∧ (ready.lane 0).job 3 = none ∧
    laneHolds (ready.lane 0) (trackKey (ready.tag 0 3).psa) = false ∧
    gateRefusal ready 0 0 1000 (psaBand ready (ready.tag 0 3).psa) = 0 :=
  ⟨⟨⟨.writeGate, 0, 0, 1000, 0, some 3, 0, none⟩, { ready with launches := [] }, by rfl, rfl, by decide +kernel⟩,
    by decide +kernel⟩

theorem witness_AssistCommands :
    (headFaulty writer 0 0 = false ∧ assistKind writer 0 0 ≠ 0 ∧ running writer (astPage 0) = true) ∧
    (takeLaunch { writer with launches := [⟨.assistStep, 0, 0, 0, 0, none, 0, none⟩] } .assistStep 0 1).isSome = true ∧
    (let s := (live.put AST.AST_CTL.IDLE_OFF 1).setTimer 1 { stroke := some 512 }
     let s := s.setAst 0 (({} : Ast).setElem 7 { st := .armed })
     s.get AST.AST_CTL.IDLE_OFF 0 ≠ 0 ∧ ((s.ast 0).elem 7).st ≠ .off ∧
       ((s.ast 0).elem 7).idle + 512 * s.get AST.AST_CTL.IDLE_OFF 0 ≤ strokeAt s 1) ∧
    AST.TRIM_STEP.GO.of (fw AST.TRIM_STEP.GO 1) = 1 ∧
    (nextFrame [⟨.firmware, 0, 0, 0, false⟩, ⟨.status, 0, 0, 0, true⟩] = some ⟨.status, 0, 0, 0, true⟩) ∧
    (let s := (runs live (astPage 0)).setAst 0 { frames := [⟨.firmware, 0, 0, 0, false⟩] }
     nextFrame (s.ast 0).frames = some ⟨.firmware, 0, 0, 0, false⟩ ∧ working s (astPage 0) = true ∧
       readbackDue s 0 = false ∧ ∀ f ∈ (s.ast 0).frames, f.kind = .firmware) ∧
    ((live.ast 3).lineFault = false ∧ ((live.setAst 3 { lineFault := true }).ast 3).lineFault = true) ∧
    AST.PBUS_CMD.GO.of (fw AST.PBUS_CMD.GO 1) ≠ 0 ∧ live.get AST.PBUS_CMD.BUSY 3 ≠ 1 ∧
    (∀ h < 8, ((live.ast 3).elem h).st = .off) ∧ live.get AST.PFLT_STAT.LINE 3 ≠ 1 ∧
    (live.put AST.PFLT_STAT.LINE 1 3).get AST.PFLT_STAT.LINE 3 ≠ 0 := by decide +kernel

/-- The servo of an actuator in RUN, LOCKED, in a state of SRV_STAT. -/
def servo (a st : Nat) : State := inLock ((runs live (srvPage a)).put SRV.SRV_STAT.STATE st a)

theorem witness_ServoCommands :
    (locked (servo 3 svAcquire) = true ∧ working (servo 3 svAcquire) (srvPage 3) = true ∧
      domainLive (servo 3 svAcquire) (srvPage 3).domain = true ∧ srvState (servo 3 svAcquire) 3 = svAcquire) ∧
    (srvState (servo 3 svFollow) 3 ≠ svLoading ∧ srvState (servo 3 svFollow) 3 ≠ svAcquire ∧
      srvState (servo 3 svFollow) 3 ≠ svParked ∧ srvState (servo 3 svFollow) 3 ≠ svLost) ∧
    (let k : Seek := ⟨9, 0, 5, true, true, 0, false, false, none⟩
     let s := live.setSrv 3 { disabling := true }
     (s.srv 3).disabling = true ∧ seekCommitted s 3 = false ∧ (∀ n ∈ lanesOf 3, openTags s n = []) ∧
       k ∈ ((live.setSrv 3 { seeks := [k] }).srv 3).seeks ∧ k.committed = true ∧ k.started = false) ∧
    (let s := (runs live (srvPage 3)).setSrv 3 { notchAge := [(1, 512)], notch := [(1, 30, 0), (2, 40, 9)], exchanged := some 0 }
     let s := s.put SRV.NOTCH_CTL.ADAPT 2 3
     bit (s.get SRV.NOTCH_CTL.ADAPT 3) 1 = true ∧ working s (srvPage 3) = true ∧ 512 ≤ sget 0 (s.srv 3).notchAge 1 ∧
       ¬(s.get SRV.NOTCH_CTL.F_TOL 3 < ((0 : Int) - notchCentre s 3 1).natAbs) ∧
       s.get SRV.NOTCH_CTL.F_TOL 3 < ((3 : Int) - notchCentre s 3 1).natAbs ∧
       (s.srv 3).notch.find? (fun e => decide (e.2.2 ≤ strokeAt s 2)) = some (1, 30, 0) ∧
       (s.srv 3).commit ≠ some 0 ∧ (s.srv 3).exchanged = some 0 ∧
       ((s.setSrv 3 { s.srv 3 with exchanged := none }).srv 3).exchanged ≠ some 0) ∧
    (svParked ≠ svLoading ∧ ((live.setSrv 3 { inj := some (0, 5) }).srv 3).inj = some (0, 5)) ∧
    (takeLaunch { live with launches := [⟨.unload, 3, 0, 0, 0, none, 0, none⟩] } .unload 3 2).isSome = true ∧
    (let s := (servo 3 svFollow).put SRV.SRV_CTL.AUTO 1 3
     s.get SRV.SRV_CTL.AUTO 3 = 1 ∧ srvState s 3 = svFollow ∧ SRV.SRV_CTL.AUTO.of 0 = 0) ∧
    (let s := (servo 3 svManual).put SRV.SRV_CTL.AUTO 0 3
     s.get SRV.SRV_CTL.AUTO 3 = 0 ∧ srvState s 3 = svManual ∧ SRV.SRV_CTL.AUTO.of (fw SRV.SRV_CTL.AUTO 1) = 1) ∧
    (SRV.INJ_CTL.STOP.of (fw SRV.INJ_CTL.STOP 1) = 1 ∧ SRV.INJ_CTL.GO.of (fw SRV.INJ_CTL.STOP 1) = 0) ∧
    (SRV.CAP_CTL.STOP.of (fw SRV.CAP_CTL.STOP 1) = 1 ∧ SRV.CAP_CTL.GO.of (fw SRV.CAP_CTL.STOP 1) = 0) ∧
    (SRV.INJ_CTL.GO.of (fw SRV.INJ_CTL.GO 1) ≠ 0 ∧ SRV.CAP_CTL.GO.of (fw SRV.CAP_CTL.GO 1) ≠ 0 ∧
      launchStroke 0 32767 = some 32767 ∧ launchStroke 0 1 = some 1 ∧ launchStroke 0 32768 = none) ∧
    live.get SRV.CAP_CTL.BUSY 3 ≠ 1 := by decide +kernel

theorem witness_SeekCommands :
    SRV.COEF_COMMIT.GO.of (fw SRV.COEF_COMMIT.GO 1) = 1 ∧ (live.srv 3).commit = none ∧
    SRV.SEEK_REQ.GO.of (fw SRV.SEEK_REQ.GO 1) ≠ 0 ∧
    (let k : Seek := ⟨2, 0, 5, false, true, 0, false, false, none⟩
     let s := live.setSrv 3 { seeks := [k] }
     (s.srv 3).seeks.find? (fun k => !k.committed && decide (k.stroke ≤ strokeAt s 2 + 2)) = some k ∧
       k.stroke = strokeAt s 2 + 2) ∧
    (let k : Seek := ⟨1, 0, 5, false, true, 0, false, false, some (7, 31)⟩
     let s := live.setSrv 3 { seeks := [k] }
     (s.srv 3).seeks.find? (fun k => !k.committed && decide (k.stroke ≤ strokeAt s 2 + 2)) = some k ∧
       k.stroke < strokeAt s 2 + 2) ∧
    (let s : State := { runs live (srvPage 3) with rgt := { forward := [(3, ⟨3, 0, 7, true⟩)] } }
     s.rgt.forward.find? (·.1 = 3) = some (3, ⟨3, 0, 7, true⟩) ∧ running s (srvPage 3) = true ∧
       (liveTemplates (s.srv 3) (strokeAt s 2)).length < 8 ∧ strokeAt s 2 ≤ 0) ∧
    8 ≤ (liveTemplates { templates := List.replicate 8 ⟨0, true, 0⟩ } 127).length ∧
    (liveTemplates { templates := List.replicate 8 ⟨0, true, 0⟩ } 128).length < 8 := by decide +kernel

theorem witness_CoilCommands :
    (let s := (inLock live).put VCM.VCM_STAT.STATE 1 3
     vcmState s 3 = 1 ∧ domainLive s (vcmPage 3).domain = true ∧ locked s = true ∧
       (s.vcm 3).next = none ∧ (s.vcm 3).loaded = false) ∧
    (let s := (inLock (runs (runs live (srvPage 3)) (vcmPage 3))).put VCM.VCM_STAT.STATE 3 3
     let s := (s.put BRZ.STROKE_STAT.MODE 1).put BRZ.STROKE_PERIOD.PERIOD 4166667
     locked s = true ∧ accelerating s = false ∧ bankMatches s 3 = true ∧ running s (srvPage 3) = true ∧ running s (vcmPage 3) = true ∧
       vcmState s 3 = 3 ∧ (s.vcm 3).loaded = false ∧
       (takeLaunch { s with launches := [⟨.load, 3, 0, 0, 0, none, 0, none⟩] } .load 3 2).isSome = true) ∧
    srvState (servo 3 svLoading) 3 = svLoading ∧
    (VCM.VCM_CTL.RETRACT.of (fw VCM.VCM_CTL.RETRACT 1) = 1 ∧ VCM.VCM_CTL.RETRACT.of (fw VCM.VCM_CTL.DRV_EN 1) ≠ 1 ∧
      VCM.VCM_CTL.DRV_EN.of (fw VCM.VCM_CTL.DRV_EN 1) = 1 ∧ live.get VCM.VCM_CTL.DRV_EN 3 = 0 ∧ vcmState live 3 = 0) ∧
    domainLive live macPage.domain = true := by decide +kernel

/-- Sequencer unit `u` runs and has a word with opcode `op` at its PC. -/
def unitAt (u op : Nat) : State :=
  (live.put SEQ.SQ_STAT.STATE stRun (unitSeq u) (unitIdx u)).setSqr u { store := [(0, { data := op * 2 ^ 122 })] }

theorem unitAt_runs : ∀ u ∈ [0, 11], ∀ op ∈ [0x00, 0x01, 0x10, 0x14, 0x18, 0x1C, 0x20, 0x24, 0x28],
    fetchRun.working' (unitAt u op) u = true ∧
    (readStore (disturb (unitAt u op) u (pcOf (unitAt u op) u) 0) u (pcOf (unitAt u op) u)).1 = some (op * 2 ^ 122) ∧
    (safePoint (readStore (disturb (unitAt u op) u (pcOf (unitAt u op) u) 0) u (pcOf (unitAt u op) u)).2 u
      (op * 2 ^ 122)).isSome = true ∧
    opListed (wOp (op * 2 ^ 122)) = true ∧ wOp (op * 2 ^ 122) = op ∧ wNxt (op * 2 ^ 122) = 0 := by decide +kernel

theorem runs_of {s : State} {u e op w : Nat} (h : fetchRun.working' s u = true ∧
    (readStore (disturb s u (pcOf s u) e) u (pcOf s u)).1 = some w ∧
    (safePoint (readStore (disturb s u (pcOf s u) e) u (pcOf s u)).2 u w).isSome = true ∧
    opListed (wOp w) = true ∧ wOp w = op ∧ wNxt w = 0) : ∃ t, Runs s u e op w t := by
  obtain ⟨a, b, c, d, g, f⟩ := h
  obtain ⟨t, ht⟩ := Option.isSome_iff_exists.1 c
  exact ⟨t, a, ⟨_, Prod.ext b rfl, ht⟩, d, g, fun h => by omega, fun h => by omega⟩

/-- The first lane sequencer and the last servo sequencer run a word of each class (R243). -/
theorem witness_words : ∀ u ∈ [0, 11], ∀ op ∈ [0x00, 0x01, 0x10, 0x14, 0x18, 0x1C, 0x20, 0x24, 0x28],
    ∃ t, Runs (unitAt u op) u 0 op (op * 2 ^ 122) t := fun u hu op h => runs_of (unitAt_runs u hu op h)

/-- The condition of a WAIT word with CSEL 0 does not hold, and that of one that inverts it does (R243). -/
theorem witness_MemoryAndTagWords : wordCond (unitAt 0 0x1C) 0 (0x1C * 2 ^ 122) 0 = false ∧
    wordCond (unitAt 0 0x1C) 0 (0x1C * 2 ^ 122 + 2 ^ 79) 0 = true := by decide +kernel

/-- A lane sequencer's SEND and RECEIVE meet its link up, and retraining (R28). -/
theorem witness_MemoryAndTagWords_link : dieTraining (unitAt 0 0x24) 1 = false ∧
    dieTraining ((unitAt 0 0x24).put BRZ.BRZ_STAT.TRAINING 1) 1 = true := by decide +kernel

theorem witness_SequencerControl :
    (let s := (unitAt 8 1).setSqr 8 { (unitAt 8 1).sqr 8 with sinceSafe := 0x10000, busy := 12001 }
     fetchRun.working' s 8 = true ∧ max 1 (s.get SEQ.SQ_ERR.SAFE_LIMIT (unitSeq 8) (unitIdx 8)) ≤ (s.sqr 8).sinceSafe ∧
       (s.sqr 8).overran = false ∧ s.get SEQ.SQ_BUDGET.BUDGET (unitSeq 8) (unitIdx 8) ≤ (s.sqr 8).busy) ∧
    (let w := fw SEQ.LOAD_CTL.GO 1 + fw SEQ.LOAD_CTL.Q 5
     SEQ.LOAD_CTL.GO.of w ≠ 0 ∧ SEQ.LOAD_CTL.Q.of w = 5 ∧ SEQ.LOAD_CTL.FIRST.of w + 4096 ≤ 4096 ∧
       SEQ.LOAD_CTL.COUNT.of w = 0 ∧ storeOpen live (seqUnit 1 5) = true ∧ live.get SEQ.LOAD_CTL.BUSY 1 ≠ 1) ∧
    storeOpen (unitAt 8 1) 8 = false ∧ live.get SEQ.CS_WIN.Q 1 ≤ 5 ∧
    (SEQ.DIG_CTL.GO.of (fw SEQ.DIG_CTL.GO 1) ≠ 0 ∧ SEQ.DIG_CTL.Q.of (fw SEQ.DIG_CTL.GO 1) ≤ 5 ∧
      live.get SEQ.DIG_CTL.BUSY 1 ≠ 1) ∧
    (domainLive live (unitDomain 8) = true ∧ unitState live 8 = stOff ∧ (live.sqr 8).disabling = false ∧
      live.get SEQ.SQ_CTL.ENABLE (unitSeq 8) (unitIdx 8) = 0 ∧ SEQ.SQ_CTL.ENABLE.of (fw SEQ.SQ_CTL.ENABLE 1) = 1 ∧
      SEQ.SQ_CTL.HOLD_REL.of (fw SEQ.SQ_CTL.ENABLE 1) ≠ 1 ∧ SEQ.SQ_CTL.HOLD_REL.of (fw SEQ.SQ_CTL.HOLD_REL 1) = 1) ∧
    authOf (setAuth live 8 true) 8 = true ∧ unitState (setUnitState live 8 stHold) 8 = stHold := by decide +kernel

/-- `live` with lane 7's tag 31 being fetched: its entry in buffer memory reads one sector of actuator 3. -/
def fetches : State :=
  memWrite (live.setTag 7 31 { st := .fetching, ending := some (1, 5) }) (32 * 31)
    ([0, 0, 0, 0, 192, 0, 0, 0, 1] ++ List.replicate 23 0)

theorem witness_TagCommands_fetched :
    let r := memRead fetches .sch (fetches.get SEQ.LQ_BASE.ADDR 1 3 * 4096 + 32 * 31) 32
    (fetches.tag 7 31).st = .fetching ∧ r.1.poison = false ∧
    malformed 7 { r.2.tag 7 31 with entry := r.1.bytes } = false ∧ (r.2.tag 7 31).ending = some (1, 5) ∧
    (r.2.tag 7 31).abort = false := by decide +kernel

theorem witness_TagCommands :
    ((live.setTag 7 31 { st := .fetching }).tag 7 31).st = .fetching ∧ (live.tag 7 31).st = .free ∧
    ((live.setTag 7 31 { st := .posted }).tag 7 31).st = .posted ∧ ((live.setTag 7 31 { st := .done }).tag 7 31).st = .done ∧
    SEQ.LQ_CMD.OP.of (fw SEQ.LQ_CMD.OP 1 + fw SEQ.LQ_CMD.TAG 31) = 1 ∧
    SEQ.LQ_CMD.TAG.of (fw SEQ.LQ_CMD.OP 1 + fw SEQ.LQ_CMD.TAG 31) = 31 ∧
    SEQ.SEQ_CTL.OOS.of (fw SEQ.SEQ_CTL.OOS 3) = 3 ∧ SEQ.SEQ_CTL.OOS.of 0 = 0 := by decide +kernel

/-- A POST that a sequencer's fault kept ends so before an abort (R255). -/
theorem witness_TagCommands_kept :
    (live.setTag 0 0 { st := .fetching, ending := some (10, 3), abort := true }).tag 0 0 =
      { st := .fetching, ending := some (10, 3), abort := true } ∧
    ((live.setTag 0 0 { st := .taken }).tag 0 0).st = .taken := by decide +kernel

/-- WEV takes entries of ring 9, whose first entry has the operation `op`. -/
def weaver (op : Nat) : State :=
  ((((runs live wevPage).put WEV.WEV_CTL.RING_EN 1).put WEV.RING.RING 9).put WEV.RING.WEIGHT 1).setRing 9
    { consumer := 1, en := true, state := rgRun, fetched := [(0, op :: List.replicate 63 0)] }

theorem witness_WeaveCommands : ∀ op ∈ [1, 2, 3, 4],
    wevTakes (weaver op) = true ∧ (wevPick (weaver op)).map (·.1) = some 0 ∧ (weaver op).get WEV.RING.RING 0 0 = 9 ∧
    (ringStart (weaver op) 9 1).isSome = true ∧ ((ringPeek (weaver op) 9).getD []).headD 0 % 16 = op ∧
    (weaver op).sch.port = [] ∧ running (weaver op) wevPage = true ∧
    pageState ((weaver op).bump WEV.PARITY.PARITY_CNT) wevPage ≠ stFault ∧
    WEV.ERASE_INJ.ARM.of (fw WEV.ERASE_INJ.ARM 1) = 1 := by decide +kernel

/-- SCH's port has the request `r` for the weave engine, and comes before its rings (R283). -/
def ported (r : Recon) : State :=
  (((runs live wevPage).put WEV.WEV_CTL.SCH_PORT_EN 1)).schMap fun x => { x with port := [([3], r)] }

theorem witness_WeaveCommands_port (r : Recon) :
    (ported r).sch.port = [([3], r)] ∧ (ported r).sch.portRun = none ∧ portFirst (ported r) = true ∧
    wevTakes (ported r) = true ∧ portFirst (weaver 1) = false ∧ (weaver 3).sch.portRun = none ∧
    ((ported r).schMap fun x => { x with portRun := some ([3], r, 0, 0) }).sch.portRun = some ([3], r, 0, 0) ∧
    ((ported r).schMap fun x => { x with portRun := some ([3], r, 0, 0) }).wev.cur = none := by
  refine ⟨rfl, rfl, rfl, rfl, ?_, ?_, rfl, rfl⟩ <;> decide +kernel

/-- Controller 1 has a submission and a completion queue 2047 of 16 entries. -/
def queues : State := live.setCtl 1 (((live.ctl 1).setSq 2047 (some { size := 16, cq := 2047, tail := 3 })).setCq 2047
  (some { size := 16, tail := 2, ien := true, fresh := 1 }))

theorem witness_QueueCommands :
    (domainLive queues (hqPage 1).domain = true ∧
      (queues.ctl 1).sq 2047 = some { size := 16, cq := 2047, tail := 3 } ∧
      ({ size := 16, cq := 2047, tail := 3 } : Sq).unfetched ≤ ringGap 16 15 0) ∧
    ((queues.ctl 1).cq 2047 = some { size := 16, tail := 2, ien := true, fresh := 1 } ∧
      ringGap 16 1 0 ≤ ringGap 16 2 0) ∧
    (let q : Cq := { size := 2, tail := 1 }; q.full = true ∧ q.warned = false) ∧
    (let q : Cq := { size := 16, waiting := [⟨4095, .named .success, 0, 0, 1, 7, 0⟩] }
     q.full = false ∧ live.get HQ.HQ_STAT.CFS 1 ≠ 1 ∧ working (runs live (hqPage 1)) (hqPage 1) = true) ∧
    (live.get HQ.HQ_STAT.CC_EN 1 ≠ 1 ∧ ¬(live.get DOM.DOM_STAT.START_KIND = 3 ∧ (1 : Nat) = 1) ∧
      running (raise (((runs live (hqPage 1)).put HQ.HQ_STAT.CC_EN 1 1).put HQ.ARB.AMS 1 1) (hqPage 1) 0 7) (hqPage 1) =
        true) := by decide +kernel

/-- Slot 4095 holds a command of controller 1 that has started, of submission queue `y`. -/
def commanded (y : Nat) : State := queues.setSlot 4095 { st := .started, ctrl := 1, sqid := y, cid := 7 }

/-- OUT's ring 9 of controller 0 has an entry with the operation `op` about the started slot 0. -/
def outRing (op : Nat) (st : SlotSt) : State :=
  (((runs live (hqPage 0)).put HQ.OUT_RING.RING 9).setSlot 0 { st := st }).setRing 9
    { consumer := 3, en := true, state := rgRun, fetched := [(0, op :: List.replicate 31 0)] }

theorem witness_TransportCommands :
    (ringPeek (outRing 1 .fetched) 9 = some (1 :: List.replicate 31 0) ∧ working (outRing 1 .fetched) (hqPage 0) = true ∧
      (outRing 1 .fetched).get HQ.HQ_STAT.CFS 0 ≠ 1 ∧ (ringStart (outRing 1 .fetched) 9 3).isSome = true ∧
      outOwned (outRing 1 .fetched) 0 (1 :: List.replicate 31 0) = some 0) ∧
    outOwned (outRing 2 .started) 0 (2 :: List.replicate 31 0) = some 0 ∧
    serves (commanded 0) 4095 true = true ∧ (((commanded 0).ctl 1).cq 2046).isNone = true ∧
    (((commanded 0).ctl 1).cq 2047).isSome = true ∧ (((commanded 0).ctl 1).sq 1).isNone = true ∧
    ((commanded 0).ctl 1).aers.length < 16 ∧
    (let s := ((((runs live (hqPage 0)).put HQ.HQ_CTL.FETCH_EN 1).put HQ.HQ_STAT.RDY 1).put HQ.HQ_STAT.CC_EN 1).setCtl 0
        ((live.ctl 0).setSq 0 (some { size := 16, cq := 0, tail := 3 }))
     takesTurn s (turnOrder s).1 = true ∧ (turnOrder s).1 = 0 ∧ ((pickQueue s 0).map fun e => e.y) = some 0) := by decide +kernel

theorem witness_ControllerCommands :
    domainLive live (hqPage 1).domain = true ∧
    ((raise (commanded 0) (hqPage 1) 4 7).ctl 1).aborts.length < 16 ∧
    findCommand (raise (commanded 0) (hqPage 1) 4 7) 1 0 7 = some 4095 ∧
    findCommand (raise (commanded 0) (hqPage 1) 4 7) 1 0 8 = none ∧
    ((live.put HQ.HQ_STAT.CC_EN 1 1).get HQ.HQ_STAT.CC_EN 1 ≠ 0 ∧ live.get HQ.HQ_STAT.CFS 1 ≠ 1) ∧
    portLive live (portOf live 1) = true := by decide +kernel

theorem witness_PortCommands :
    (let s := live.put PCX.PCX_CTL.LINK_EN 1 1
     portLive s 1 = true ∧ s.get PCX.PCX_CTL.LINK_EN 1 ≠ 0 ∧ s.get PCX.PCX_STAT.PERST 1 ≠ 1 ∧
       s.get PCX.PCX_STAT.LINK_UP 1 ≠ 1 ∧ ∀ d ∈ portPhys s 1, domainLive s d = true) := by decide +kernel

theorem witness_ManagementCommands :
    miServed ((live.put PCX.MI_CTL.MI_EN 1).setDom (coreDomain 4) { state := stRun }) = true := by decide +kernel

/-- Controller 0 has namespace 64, of one zone, with I/O and admin commands in slots. -/
def hosted : State :=
  let s := (live.setSlot 0 { st := .started, sqid := 1 }).setSlot 1 { st := .fetched }
  s.setNs 63 (some { kind := 0, verified := false, lbaf := 0, prot := 0, zones := [5], attached := [0], owner := some 0,
                     registrants := [(0, 9)], reservation := some (1, 0) })

theorem witness_AdminCommands :
    serves hosted 1 true = true ∧ hosted.nvme.sanitize.running = false ∧ (hosted.slot 1).ctrl = 0 ∧
    hosted.nvme.selfTest = none := by decide +kernel

theorem witness_NamespaceCommands :
    (let n : Ns := ((hosted.ns 63).getD { kind := 9, verified := false, lbaf := 0, prot := 0, zones := [] })
     n.deleting = false ∧ n.formatting = false ∧ n.conflict (hostOf hosted 1) true = false ∧
       n.attached.contains 1 = false ∧ [0].all n.attached.contains = true) ∧
    (allNs hosted).map (·.1) = [63] := by decide +kernel

theorem witness_FirmwareCommands :
    serves hosted 1 true = true ∧ recovering hosted = false ∧ safeStart hosted = false ∧
    slotWritable hosted (commitSlot hosted 0) = true ∧ hosted.wires.pfail = false ∧
    (let s := hosted.nvMap fun x => { x with due := false }; nvFree s = true) ∧
    ((List.range 8).any fun u => !(openTags hosted u).isEmpty) = false := by decide +kernel

/-- The namespace that slot 0 of `hosted` reaches. -/
def hostedNs : Ns := { kind := 0, verified := false, lbaf := 0, prot := 0, zones := [5], attached := [0], owner := some 0,
                       registrants := [(0, 9)], reservation := some (1, 0) }

theorem takes_hosted : TakesIo hosted 0 64 63 hostedNs := ⟨by decide +kernel, by decide +kernel, rfl, rfl⟩

theorem witness_ReadWriteCommands : TakesIo hosted 0 64 63 hostedNs ∧ blockAt hostedNs 0 = some (5, 0) ∧
    readCheck hosted 0 hostedNs .read 0 256 = none ∧ resetPending hosted 63 5 = false ∧
    hostedNs.conflict (hostOf hosted 0) true = false := ⟨takes_hosted, by decide +kernel⟩

theorem witness_ZoneCommands : ∃ zs, TakesZones hosted 0 64 0 false (fun _ => true) 63 zs :=
  ⟨[5], hostedNs, takes_hosted, by decide, by decide +kernel, fun h => by simp at h, fun _ =>
    ⟨5, rfl, by decide +kernel, by decide +kernel, by decide +kernel, rfl⟩⟩

theorem witness_ReservationCommands : TakesIo hosted 0 64 63 hostedNs ∧
    hostedNs.registrants.contains (hostOf hosted 0, 9) = true ∧ hostedNs.holds (hostOf hosted 0) = true ∧
    (hostedNs.registrants.find? fun r => r.1 = hostOf hosted 0).map (·.2) = some 9 ∧
    hostedNs.registrants.any (fun r => decide (r.2 = 9)) = true := ⟨takes_hosted, by decide +kernel⟩

/-- A tag completion record of lane 7, tag 31, of an epoch. -/
def tagRec (epoch : Nat) : TagRec := ⟨7, 31, 0, 0, false, false, epoch, 0, 0, 0, 0⟩

theorem witness_SchedulerCommands :
    (let s : State := { live with tagRecs := [tagRec 0] }
     s.tagRecs.find? (fun r => !dieTraining s (r.lane / 4 + 1) && flitTurn s (r.lane / 4) true .reply) = some (tagRec 0) ∧
       (tagRec 0).epoch = (s.dom (lanePage 7).domain).epoch ∧ (tagRec 1).epoch ≠ (s.dom (lanePage 7).domain).epoch ∧
       postedOp s 7 31 = none) ∧
    live.sch.combined.isEmpty = true ∧ live.tagRecs = [] := by decide +kernel

theorem witness_PowerLossCommands :
    plState (setPlState live 1) = 1 ∧ (∀ n < 8, ∀ t < 32, (live.tag n t).open' = false ∧ (live.tag n t).st ≠ .fetching) ∧
    (let s := setPlState (live.plMap fun p => { p with sealed := [(0, 0)] }) 3
     plState s = 3 ∧ plLines s 0 ≠ [] ∧ plLines s 1 = []) ∧
    (let s := setPlState (live.spnMap fun x => { x with floorNotice := true }) 3
     s.spn.floorNotice = true ∧ 1 ≤ plState s ∧ plState s ≤ 3) ∧
    (dieUp live 4 = true ∧ dieTraining live 4 = false ∧ domainLive live nvsPage.domain = true ∧ live.nv.op = none ∧ (indexBlock live).isSome = true) ∧
    SCH.PL_CTL.TEST.of (fw SCH.PL_CTL.TEST 1) = 1 ∧ plState live = 0 := by decide +kernel

/-- The spindle in a state of SPN_STAT. -/
def spin (st : Nat) : State := (runs live spnPage).put SPN.SPN_STAT.STATE st

theorem witness_SpindleCommands :
    (let w := fw SPN.SPN_CTL.START 1
     SPN.SPN_CTL.START.of w ≠ 0 ∧ SPN.SPN_CTL.STOP.of w = 0 ∧ spn (spin spStopped) = spStopped ∧
       running (spin spStopped) spnPage = true ∧ pfailed (spin spStopped) = false ∧
       (spin spStopped).spn.reverse = false) ∧
    (SPN.SPN_CTL.START.of (fw SPN.SPN_CTL.STOP 1) = 0 ∧ SPN.SPN_CTL.STOP.of (fw SPN.SPN_CTL.STOP 1) ≠ 0) ∧
    (∀ st ∈ [spDetect, spStart, spAccel, spRun, spSpeed, spCatch, spCoast, spSpindown, spWaitRev],
      spnLive (spin st) = true ∧ spn (spin st) = st) ∧
    observes (spin spRun) = true ∧ locked (spin spAccel) = false ∧ (spin spAccel).get SPN.SPN_STAT.LOCK = 0 ∧
    (endTimedOut (spin spCoast)).spn.retry = false ∧ spn (endTimedOut (spin spCoast)) = spCoast := by decide +kernel

theorem witness_SupplyCommands :
    (let s := live.put VCM.VCM_STAT.STATE 2 3
     (s.vcm 3).stranded = false ∧ vcmState s 3 = 2 ∧ s.get VCM.VCM_FAULT.RET_TIMEOUT 3 = 0 ∧
       domainLive s (vcmPage 3).domain = true) ∧
    ((live.setVcm 3 { loaded := true }).vcm 3).loaded = true ∧
    (let s := (live.put PWR.PWR_CTL.CHOP_EN 1).put PWR.CHOP_CFG.CHOP_MIN 10
     s.get PWR.PWR_CTL.CHOP_EN = 1 ∧ s.get PWR.CHOP_STAT.CODE = 0 ∧ 100 * s.get PWR.CHOP_CFG.CHOP_MIN ≤ 6000 ∧
       100 * s.get PWR.CHOP_CFG.CHOP_MIN ≤ 6001 ∧ 999 < 100 * s.get PWR.CHOP_CFG.CHOP_MIN) ∧
    (let t := raise (((spin spRun).put PWR.PWR_STAT.OV2 1).bump PWR.PWR_CNT.OV2_CNT) pwrPage 4 7
     spnLive t = true ∧ spn t = spRun) ∧
    (let s := (spin spBrake).spnMap fun x => { x with ov := true }
     let t := winhClear ((s.put PWR.PWR_STAT.OV1 0).put PWR.PWR_STAT.OV2 0) .overvoltage
     spnLive t = true ∧ t.spn.ov = true ∧ spn t = spBrake) ∧
    (let s := live.put PWR.PWR_STAT.HOLDUP 1; s.get PWR.PWR_STAT.HOLDUP = 1 ∧ s.get PWR.PWR_STAT.FLOOR = 0) ∧
    (let s : State := { live.put PWR.PWR_STAT.IN12_OK 1 with wires := { pfail := true } }
     pfailed s = true ∧ s.get PWR.PWR_STAT.IN12_OK = 1 ∧ s.get PWR.PWR_STAT.RAIL_PG ≠ 0 ∧
       ∀ a < 4, (s.vcm a).loaded = false) ∧
    (let s := (live.put MAC.MAC_CTL.HV_EN 1).put MAC.MAC_STAT.HV_OK 1
     s.get MAC.MAC_CTL.HV_EN = 1 ∧ s.get MAC.MAC_STAT.HV_OK = 1) ∧
    (live.get PWR.I12.CLAMP = 0 ∧ (live.put PWR.I12.CLAMP 1).get PWR.I12.CLAMP ≠ 0) := by decide +kernel

/-- Ring 255 of the copy engine, in RUN, with an entry of operation `op`. -/
def copyRing (op : Nat) : State := (runs live wrkPage).setRing 255
  { consumer := 6, en := true, state := rgRun, fetched := [(0, op :: List.replicate 31 0)],
    done := [{ n := 0, bytes := [], status := 0, entry := [] }] }

theorem witness_RingCommands :
    (ahead 16 0 ≤ (({} : Ring).size) ∧ (live.ring 255).fetched.length ≤ ahead 16 0) ∧
    (let s := ((runs live wrkPage).setRing 255 { consumer := 6, state := rgRun, en := true }).put WRK.DOORBELL.INDEX 1 0 255
     running s wrkPage = true ∧ engineDown s 6 = false ∧ engineEasing s 6 = false ∧
       ahead 0 (pubOf s 255) < ahead (doorbellOf s 255) (pubOf s 255) ∧
       (spaceRead s false .other (({ consumer := 6 } : Ring).addr 0) ({ consumer := 6 } : Ring).bytes).1.poison = false) ∧
    (WRK.RING_CFG.EN.of (fw WRK.RING_CFG.EN 1) = 1 ∧ (live.ring 0).en = false ∧ (live.ring 0).state = rgOff) ∧
    WRK.RING_CMD.RESUME.of (fw WRK.RING_CMD.RESUME 1) = 1 ∧
    (∀ op ∈ [1, 2, 3], (copyRing op).wrk.copy = none ∧ working (copyRing op) wrkPage = true ∧
      (ringStart (copyRing op) 255 6).isSome = true ∧ (op :: List.replicate 31 0).headD 0 % 8 = op) ∧
    domainLive (copyRing 1) wrkPage.domain = true := by decide +kernel

/-- Core 0 has a message for core 5, which runs. -/
def mailed : State := (live.setDom (coreDomain 5) { state := stRun }).setEndpoint 0 { out := [⟨[1, 2], false⟩] }

theorem witness_MailboxCommands :
    ((mailed.endpoint 0).out.map Msg.dest = [mailed.endpoint 0 |>.out.headD ⟨[], false⟩ |>.dest]) ∧
    ownEndpoint k0 0 = true ∧ ownEndpoint k0 5 = false ∧
    MBX.OUT_CTL.WITHDRAW.of (fw MBX.OUT_CTL.WITHDRAW 1) ≠ 0 ∧ (mailed.endpoint 0).out ≠ [] ∧
    (let m : Msg := ⟨[1 * 2 ^ 27], false⟩
     let t := (mailed.setEndpoint 3 { out := [m] }).setEndpoint 2 { out := [m] }
     let u := setDomState t (endDomain 1) stRun
     (u.endpoint 3).out = [m] ∧ outranked u 3 m.dest = true ∧
       deliverable u 2 = true ∧ outranked ((u.setEndpoint 0 {}).setEndpoint 1 {}) 2 m.dest = false) ∧
    ((live.setEndpoint 0 { inq := [7] }).endpoint 0).inq = [7] := by decide +kernel

/-- The unlock sequence of a requester after a step. -/
def unlocking (step op : Nat) : State := live.nvMap fun x => { x with seq := some ⟨k0, step, op, 0, []⟩, due := false }

theorem witness_NvsCommands :
    live.nv.seq = none ∧ (unlocking 1 0).nv.seq.isSome = true ∧ arrayOpen live k0 = true ∧ arrayBusy live = false ∧
    arrayBusy (live.nvMap fun x => { x with op := some ⟨0, 1, 5, 7, none, (0, 0)⟩ }) = true ∧
    (1 ≤ NVS.NVS_CMD.OP.of (fw NVS.NVS_CMD.OP 4) ∧ NVS.NVS_CMD.OP.of (fw NVS.NVS_CMD.OP 4) ≤ 4) ∧
    (NVS.XFER_CTL.GO.of (fw NVS.XFER_CTL.GO 1 + fw NVS.XFER_CTL.WORDS 1) = 1 ∧ live.get NVS.XFER_CTL.BUSY ≠ 1 ∧
      0 + 1 ≤ nvWords ∧ 0 * 32 + 32 * 1 ≤ usableBytes ram) ∧
    (live.nv.due = true ∧ live.nv.op = none ∧ live.get NVS.NVS_STAT.SCANNING = 0 ∧
      domainLive live nvsPage.domain = true) ∧
    (NVS.NVS_CTL.SCAN.of (fw NVS.NVS_CTL.SCAN 1) = 1 ∧ NVS.NVS_CTL.SLOT1_CLOSE.of (fw NVS.NVS_CTL.SCAN 1) ≠ 1 ∧
      NVS.NVS_CTL.SCAN.of (fw NVS.NVS_CTL.SLOT1_CLOSE 1) ≠ 1 ∧
      NVS.NVS_CTL.SLOT1_CLOSE.of (fw NVS.NVS_CTL.SLOT1_CLOSE 1) = 1) ∧
    (live.put NVS.NVS_STAT.SCANNING 1).get NVS.NVS_STAT.SCANNING ≠ 0 ∧ live.nv.lowering = none := by decide +kernel

/-- EVR is ready, commits, and has `n` staged records. -/
def recorder (n : Nat) : State :=
  (((runs live evrPage).put EVR.EVR_STAT.READY 1).put EVR.EVR_CTL.COMMIT_EN 1).evrMap fun x =>
    { x with reading := false, stage := List.range n }

theorem witness_RecorderCommands :
    (evrCommits (recorder 1) = true ∧ (recorder 1).get EVR.EVR_STAT.COMMITTING ≠ 1 ∧ (recorder 1).evr.erasing = none ∧
      max 1 ((recorder 1).get EVR.STAGE_CFG.COMMIT_CNT) ≤ 65535) ∧
    (EVR.EVR_CTL.RECLAIM.of (fw EVR.EVR_CTL.RECLAIM 1 + fw EVR.EVR_CTL.COMMIT_EN 1) = 1 ∧
      EVR.EVR_CTL.RECLAIM.of (fw EVR.EVR_CTL.COMMIT_EN 1) ≠ 1 ∧ EVR.EVR_CTL.COMMIT_EN.of (fw EVR.EVR_CTL.COMMIT_EN 1) = 1 ∧
      (live.put EVR.EVR_CTL.COMMIT_EN 0).get EVR.EVR_CTL.COMMIT_EN = 0) ∧
    EVR.LOG_CMD.GO.of (fw EVR.LOG_CMD.GO 1) ≠ 0 ∧ logSource k0 = some 1 ∧
    ((live.evrMap fun x => { x with loDone := true }).evr.loDone = true ∧ domainLive live 2 = true) ∧
    live.evr.loDone = false ∧ live.evr.hiHeld = none ∧ live.evr.cyclesDone = false := by decide +kernel

theorem witness_RecorderServiceCommands :
    (let s := live.evrMap fun x => { x with arriving := [⟨1, 7, 0, 0, []⟩] }
     s.evr.arriving = [⟨1, 7, 0, 0, []⟩] ∧ domainLive s 2 = true ∧ s.evr.queue.length < 64 ∧
       64 ≤ (List.replicate 64 (⟨1, 7, 0, 0, []⟩ : Rec)).length) ∧
    domainLive (live.setDom 2 { powered := false }) 2 = false ∧
    (let s := live.nvMap fun x => { x with due := false }
     s.evr.reading = true ∧ s.nv.due = false ∧ s.get NVS.NVS_STAT.SCANNING ≠ 1 ∧ evrRecords s = []) := by decide +kernel

/-- The recorder takes records while its page runs; its own operations meet the link up, and retraining (R28, R490). -/
theorem witness_RecorderServiceCommands_open :
    recorderOpen (runs live evrPage) = true ∧ recorderOpen live = false ∧ domainLive live 2 = true ∧
    domainLive live nvsPage.domain = true ∧ dieUp live 4 = true ∧ dieTraining live 4 = false ∧
    dieTraining (live.put BRZ.BRZ_STAT.TRAINING 8) 4 = true ∧
    (live.nvMap fun x => { x with op := some ⟨1, 1, 5, 7, none, (0, 0)⟩ }).nv.op = some ⟨1, 1, 5, 7, none, (0, 0)⟩ := by
  decide +kernel

theorem witness_IdleStepOnlyEndsOperations : State.reset.pending = [] ∧ State.reset.nvme.sanitize.running = false ∧
    State.reset.nvme.activation = none ∧ State.reset.nvme.asleep = false ∧ State.reset.nvme.selfTest = none :=
  ⟨rfl, rfl, rfl, rfl, rfl⟩

theorem witness_CalibrationCommands :
    (let s := live.put CLK.CLK_CTL.AVS_EN 1
     s.get CLK.CLK_CTL.AVS_EN = 1 ∧ (avsRelease s 200).wires.pfail = false ∧ dieUp (avsRelease s 200) 3 = true) ∧
    working (runs live tmpPage) tmpPage = true ∧ calCommit (setCalCommit live 1 (some 0)) 1 = some 0 ∧
    0 ≤ strokeAt (setCalCommit live 1 (some 0)) 2 ∧ running (runs live calPage) calPage = true ∧ running live calPage = false ∧
    (let r (failed suspect : Bool) (epoch : Nat) : TrialReport := ⟨0, failed, false, suspect, 0, 0, 0, 0, 0, [], epoch⟩
     let s := runs (live.setLdp 1 { reports := [r false false 0] }) calPage
     (s.ldp 1).reports = [r false false 0] ∧ dieUp s 2 = true ∧ dieTraining s 2 = false ∧ flitTurn s 1 true .reply = true ∧
       running (s.setLdp 1 {}) calPage = true ∧ (r true false 0).epoch = ldpEpoch (s.setLdp 1 {}) 1 ∧
       (r false false 1).epoch ≠ ldpEpoch (s.setLdp 1 {}) 1) := by decide +kernel

theorem witness_TrustAndCryptoCommands :
    (SEC.MEAS_CMD.EXTEND.of (fw SEC.MEAS_CMD.EXTEND 1) = 1 ∧ keeper k0 = true) ∧
    (let s := (live.secMap fun x => { x with measured := true }).put EVR.EVR_STAT.LOADED 1
     s.get SEC.SEC_STAT.ALIAS_READY ≠ 1 ∧ s.sec.measured = true ∧ s.get EVR.EVR_STAT.LOADED ≠ 0 ∧
       domainLive s 1 = true ∧ entropyOk s = true ∧ entropyOk (s.put SEC.ENT_STAT.FAIL 1) = false) ∧
    (let w := fw SEC.SVN_RAISE.GO 1 + fw SEC.SVN_RAISE.KIND 6 + fw SEC.SVN_RAISE.SVN 1
     SEC.SVN_RAISE.GO.of w = 1 ∧ SEC.SVN_RAISE.KIND.of w = 6 ∧ SEC.SVN_RAISE.SVN.of w = 1 ∧ minSvn live 6 = 0) ∧
    (let w := fw SEC.KEY_CMD.GO 1 + fw SEC.KEY_CMD.OP 1
     SEC.KEY_CMD.GO.of w = 1 ∧ SEC.KEY_CMD.OP.of w ≠ 0 ∧ live.sec.op = none) ∧
    recorderRoom (runs live evrPage) = true ∧ recorderRoom (live.setDom 2 { powered := false }) = false ∧
    (let s := live.setRing 255 { consumer := 7, en := true, state := rgRun, fetched := [(0, 2 :: List.replicate 63 0)] }
     ringPeek s 255 = some (2 :: List.replicate 63 0) ∧ s.wrk.crypto = none ∧ domainLive s 31 = true ∧
       (ringStart s 255 7).isSome = true) := by decide +kernel

theorem witness_DomainCommands :
    (DOM.DOM_CMD.GO.of (fw DOM.DOM_CMD.GO 1 + fw DOM.DOM_CMD.OP 6) = 1 ∧ live.get DOM.DOM_CMD.BUSY ≠ 1 ∧
      DOM.DOM_CMD.OP.of (fw DOM.DOM_CMD.GO 1 + fw DOM.DOM_CMD.OP 6) = 6) ∧
    (∀ op ∈ [1, 3, 4, 6], domVerdict live k0 op 30 = drOk) ∧
    domVerdict (live.setDom 30 { state := stHold }) k0 2 30 = drOk ∧
    domVerdict (live.setDom 30 { powered := false }) k0 5 30 = drOk ∧
    (let s : State := { live with domOp := { op := 3, dom := 32 } }; s.domOp.op ≠ 0 ∧ flitsLeft s 32 = false) ∧
    (let s := live.setDom 95 { easing := true, state := stEasing }
     (s.dom 95).easing = true ∧ domainLive s 95 = true ∧ domainState s 95 = stEasing ∧ domainSeq 95 = none) ∧
    (let s := (live.put DOM.DOM_WIN.DOMAIN 89).setDom 89 { state := stHold }
     isImageDomain 89 = true ∧ domainState s 89 = stHold ∧ dieUp s (domainDie 89) = true ∧ 256 ≤ imageLimit 89) ∧
    imageDomain (live.setDom 77 { imgKib := 1 }) = some 77 := by decide +kernel

theorem witness_StartCommands :
    (live.start.coxReset = false ∧ spn (spin spRun) = spRun ∧ spn live ≠ spRun ∧ live.start.watchdog = true) ∧
    (DOM.DOM_CTL.START_OK.of (fw DOM.DOM_CTL.START_OK 1) = 1 ∧ DOM.DOM_CTL.FAIL_CLR.of (fw DOM.DOM_CTL.START_OK 1) ≠ 1 ∧
      DOM.DOM_CTL.WARM.of (fw DOM.DOM_CTL.START_OK 1) ≠ 1 ∧ DOM.DOM_CTL.FAIL_CLR.of (fw DOM.DOM_CTL.FAIL_CLR 1) = 1 ∧
      DOM.DOM_CTL.WARM.of (fw DOM.DOM_CTL.WARM 1) = 1) ∧
    (let s := [0, 1, 2, 3].foldl (fun s a => s.put VCM.VCM_STAT.STATE 3 a) (setPlState live 7)
     let s : State := { s with wires := { pfail := true } }
     pfailed s = true ∧ (∀ a < 4, vcmState s a = 3) ∧ plState s = 7) ∧
    bit (live.get PWR.PWR_STAT.RAIL_PG) 9 = true ∧
    bit ((live.put PWR.PWR_STAT.RAIL_PG 0x1FF).get PWR.PWR_STAT.RAIL_PG) 9 = false ∧ sget 0 live.spn.railFails 9 < 3 ∧
    (live.spnMap fun x => { x with cycle := true }).spn.cycle = true := by decide +kernel

/-- A follower on the Regatta bus. -/
def follower : State := (runs live rgtPage).put RGT.RGT_STAT.ROLE 3

theorem witness_RegattaCommands :
    (working follower rgtPage = true ∧ domainLive follower 83 = true ∧ rgtRole follower = 3) ∧
    (mayClaim ((inLock (runs live rgtPage)).put RGT.RGT_CTL.STARTER_EN 1) = true) ∧
    (crc6 0 16 0 = 0 ∧ crc6 1 16 0 ≠ 0) ∧
    (let s : State := { follower with rgt := { out := [⟨3, 9, 1024 * 1048575, true⟩] } }
     running s rgtPage = true ∧ 1024 * s.get RGT.TX_CFG.TX_MIN ≤ 1024 * 1048575) ∧
    (intentDelay live ⟨3, 2, 7, true⟩ 0 = 16 ∧ intentDelay live ⟨3, 4, 7, true⟩ 0 = 32 ∧
      intentDelay live ⟨3, 0, 7, true⟩ 0 < 1 ∧ live.rgt.won = false ∧ live.get RGT.RGT_STAT.STUCK ≠ 1 ∧
      (live.put RGT.RGT_CTL.TX_EN 1).get RGT.RGT_CTL.TX_EN ≠ 0 ∧ (live.put RGT.RGT_CTL.RX_EN 1).get RGT.RGT_CTL.RX_EN ≠ 0) ∧
    ({ follower with rgt := { frameOk := true } } : State).rgt.frameOk = true := by decide +kernel

theorem witness_BadFrameIsNotAccepted : working follower rgtPage = true ∧ domainLive follower 83 = true ∧
    crc6 ((64 : BitVec 22).toNat / 64) 16 0 ≠ (64 : BitVec 22).toNat % 64 := by decide +kernel

end Sys2Proof.Tests
end

section
/-! PROOFS. Accesses that meet no register, reads that clear, and the events of one clock with EV_CLR. -/

namespace Sys2Proof.Machine

open Sys2Proof

/-! Addresses: what a requester's address names (R50). -/

/-- The address at which a requester finds a control-space offset names that offset. -/
theorem controlOffset_eq_some {q : Req} {a addr : Nat} (hlt : addr < 0x04000000)
    (ha : a = addr + (if q.cls.val ≤ 2 then 0x40000000 else 0)) : controlOffset q a = some addr := by
  subst ha
  unfold controlOffset
  split
  · rw [if_pos (by omega), Nat.add_sub_cancel]
  · rw [if_pos (by omega), Nat.add_zero]

/-- A read at the address of an offset reads the offset. -/
theorem addressRead_eq {q : Req} {a : BitVec 32} {addr : BitVec 26} (size : Nat) (s : State)
    (ha : a.toNat = addr.toNat + (if q.cls.val ≤ 2 then 0x40000000 else 0)) :
    addressRead q a.toNat size s = readAccess q addr.toNat size s := by
  unfold addressRead
  rw [controlOffset_eq_some addr.isLt ha]

/-- A write at the address of an offset writes the offset. -/
theorem addressWrite_eq {q : Req} {a : BitVec 32} {addr : BitVec 26} (size : Nat) (w : Word) (s : State)
    (ha : a.toNat = addr.toNat + (if q.cls.val ≤ 2 then 0x40000000 else 0)) :
    addressWrite q a.toNat size w s = writeAccess q addr.toNat size w s := by
  unfold addressWrite
  rw [controlOffset_eq_some addr.isLt ha]

/-! Accesses that meet no register (R7, R8). -/

/-- An access of `size` bytes at `addr` meets no register: no block occupies the slot, or the access is narrower than a
word, or it is not aligned. -/
def MeetsNoRegister (addr size : Nat) : Prop := pageOf addr = none ∨ size ≠ 4 ∨ addr % 4 ≠ 0

/-- What meets no register is not an aligned word, or its slot is empty: the cases as the accesses test them. -/
theorem MeetsNoRegister.cases {addr size : Nat} (h : MeetsNoRegister addr size) :
    (size ≠ 4 || addr % 4 ≠ 0) = true ∨ (size ≠ 4 || addr % 4 ≠ 0) = false ∧ pageOf addr = none := by
  by_cases hw : (size ≠ 4 || addr % 4 ≠ 0) = true
  · exact .inl hw
  · refine .inr ⟨by simpa using hw, h.resolve_right fun h => hw ?_⟩
    simpa using h

theorem readAccess_meetsNoRegister {addr size : Nat} (h : MeetsNoRegister addr size) (q : Req) (s : State) :
    readAccess q addr size s = s.reply 0 [0] := by
  unfold readAccess
  obtain hw | ⟨hw, hp⟩ := h.cases
  · rw [if_pos hw]
  · rw [hw, hp]
    rfl

theorem writeAccess_meetsNoRegister {addr size : Nat} (h : MeetsNoRegister addr size) (q : Req) (w : Word) (s : State) :
    writeAccess q addr size w s = s.reply 0 [] := by
  unfold writeAccess
  obtain hw | ⟨hw, hp⟩ := h.cases
  · rw [if_pos hw]
  · rw [hw, hp]
    rfl

/-- The diagnostic BAR counts no refusal in a slot that no page occupies. -/
theorem diagRefused_emptySlot {addr : Nat} (h : pageOf addr = none) (w : Option Word) (s : State) :
    diagRefused addr w s = s := by
  unfold diagRefused
  rw [h]
  cases w <;> rfl

/-- While BAR2 is implemented, an access through it that meets no register is one of the requester HOST_DIAG and
nothing more. -/
theorem exec_diagBarAccess_meetsNoRegister {s : State} {addr : BitVec 26} {size : Nat} (hact : diagActive s = true)
    (hlive : domainLive s (pcxPage 0).domain = true) (h : MeetsNoRegister addr.toNat size) (w : Option (BitVec 32)) :
    exec (.diagBarAccess addr size w) s = .next (anyAccess diagReq addr.toNat size w s) := by
  have hkeep : (if size = 4 && addr.toNat % 4 = 0 then diagRefused addr.toNat w s else s) = s := by
    split
    · next hword =>
      refine diagRefused_emptySlot (h.resolve_right ?_) w s
      simpa using hword
    · rfl
  show execDiagBarAccess addr size w s = _
  unfold execDiagBarAccess
  rw [hact, hlive]
  simp only [hkeep, Bool.not_true, Bool.or_self, Bool.false_eq_true, if_false]

/-- Settles O6: an access that names no register ends at the test of its size and alignment or of its slot. -/
theorem accessesBesideRegisters : Obligations.AccessesBesideRegisters := by
  intro s q a addr size w h
  have hread (q : Req) := readAccess_meetsNoRegister (h : MeetsNoRegister addr.toNat size) q s
  have hwrite (q : Req) := writeAccess_meetsNoRegister (h : MeetsNoRegister addr.toNat size) q w s
  refine ⟨fun ha => ⟨?_, ?_, fun hsize => ?_⟩, fun hact hlive => ⟨?_, ?_⟩⟩
  · exact congrArg _ ((addressRead_eq size s ha).trans (hread q))
  · exact congrArg _ ((addressWrite_eq size w s ha).trans (hwrite q))
  · subst hsize
    exact congrArg _ ((addressRead_eq 4 s ha).trans (hread q))
  · exact (exec_diagBarAccess_meetsNoRegister hact hlive h none).trans (congrArg _ (hread diagReq))
  · exact (exec_diagBarAccess_meetsNoRegister hact hlive h (some w)).trans (congrArg _ (hwrite diagReq))

/-! Reads that a page serves (R9, R12, R463). -/

/-- An aligned word read that its page serves, of a register that does not stall on the flash array, answers what the
register reads. -/
theorem readAccess_served {s : State} {q : Req} {addr : Nat} {p : Page} (hp : pageOf addr = some p)
    (hword : addr % 4 = 0) (h : Serves s q p (addr - p.base))
    (hstall : p.blk = .nvs → addr - p.base = 0x078 → arrayBusy s = false) :
    readAccess q addr 4 s =
      (regRead q p (addr - p.base) s).2.reply 0 [(regRead q p (addr - p.base) s).1] := by
  rw [← guardedRead_served h]
  obtain ⟨hport, hseq, hreach⟩ := h
  have hmay : (q.cls.val = 3 && !seqMay q p) = false := by
    by_cases hc : q.cls.val = 3
    · simp [hseq hc]
    · simp [hc]
  have hfree : (p.blk = .nvs && addr - p.base = 0x078 && reach s q p = .reached && arrayBusy s && arrayOpen s q) =
      false := by
    by_cases hn : p.blk = .nvs ∧ addr - p.base = 0x078
    · simp [hstall hn.1 hn.2]
    · simp only [not_and] at hn
      simpa using fun hb ho => absurd ho (hn hb)
  have hdrop : (reach s q p = .dropped && !domainLive s p.domain && (q.cls.val = 3 || dieUp s p.die)) = false := by
    simp [hreach]
  unfold readAccess
  rw [hp]
  dsimp only
  rw [if_neg (by simp [hword]), hport, hmay, hdrop, hfree]
  rfl

/-- Latching shadow words changes no register field. -/
@[simp] theorem get_latchWords (s : State) (q : Req) (a : Nat) (ws : List Nat) (F : Fld) (i k : Nat) :
    (latchWords s q a ws).get F i k = s.get F i k := by
  induction ws generalizing s a with
  | nil => rfl
  | cons w ws ih => exact ih _ _

/-- A requester for which an endpoint's register does not act clears nothing by reading it (R463). -/
theorem clearRead_foreignEndpoint {q : Req} {p : Page} {off : Nat} (h : foreignEndpoint q p off = true) (s : State) :
    clearRead s q p off = s := by
  unfold clearRead
  rw [h, Bool.or_true, if_pos rfl]

/-- A read of another requester's endpoint register that does not act of itself leaves every register field as it
was, the RC fields among them (R463). -/
theorem get_regRead_foreignEndpoint {q : Req} {p : Page} {off : Nat} (h : foreignEndpoint q p off = true)
    (hact : actingRead q p off = none) (s : State) (F : Fld) (i k : Nat) :
    (regRead q p off s).2.get F i k = s.get F i k := by
  unfold regRead
  rw [hact]
  dsimp only
  split
  · rfl
  · rw [clearRead_foreignEndpoint h, get_latchWords]

/-- Core 1's endpoint has sent one message: Q_CNT1.SENT reads 1. -/
def core1HasSent : State := State.reset.put MBX.Q_CNT.SENT 1 0 1

/-- Refutes O8: core 0 reads Q_CNT1, the counters of core 1's endpoint, at its core address 0x4000_A130. Its page
serves the read, yet an endpoint's registers do not act for another requester (R463): SENT still reads 1. -/
theorem not_readsThatClear : ¬ Obligations.ReadsThatClear := by
  intro h
  have hpage : pageOf (0xA130 : BitVec 26).toNat = some ⟨.mbx, 0⟩ := by decide
  have hserves : Serves core1HasSent ⟨0, 0⟩ ⟨.mbx, 0⟩ 0x130 := ⟨rfl, by decide, by decide +kernel⟩
  obtain ⟨-, hcore, -⟩ := h core1HasSent ⟨0, 0⟩ 0x4000A130 0xA130 ⟨.mbx, 0⟩ (MBX.Q_CNT.SENT, 0, 1) rfl hpage
    (by decide +kernel) rfl
  have hplain : actingRead ⟨0, 0⟩ ⟨.mbx, 0⟩ 0x130 = none := rfl
  obtain ⟨t, ht, hzero⟩ := hcore (by decide) hplain rfl hserves
  have hread : t = readAccess ⟨0, 0⟩ (0xA130 : BitVec 26).toNat 4 core1HasSent :=
    (Host.Outcome.next.inj ht).symm.trans (addressRead_eq 4 core1HasSent rfl)
  have hone : t.get MBX.Q_CNT.SENT 0 1 = 1 := by
    rw [hread, readAccess_served hpage rfl hserves (by decide), get_reply]
    exact (get_regRead_foreignEndpoint rfl hplain core1HasSent _ _ _).trans (get_put_same _ _ _ _ _)
  exact absurd (hzero.symm.trans hone) (by decide)

/-! Bits of words, and EV_CLR (R20). -/

theorem bit_eq_testBit (v i : Nat) : bit v i = v.testBit i := by
  rw [Nat.testBit_eq_decide_div_mod_eq, bit]

/-- A word of `w` bits has no bit at or above `w`. -/
theorem lt_of_bit_toNat {w : Nat} {v : BitVec w} {n : Nat} (h : bit v.toNat n = true) : n < w := by
  rw [bit_eq_testBit] at h
  exact BitVec.lt_of_getLsbD h

/-- After a write of EV_CLR, an event of the page that occurs in the same clock is set. -/
theorem bit_evClrWrite_same {p : Page} {same : BitVec 32} {n : Nat} (hn : n < p.evCount)
    (h : bit same.toNat n = true) (w : Word) (s : State) :
    bit ((evClrWrite p w same.toNat s).get HDR.EV_RAW.RAW p.index) n = true := by
  have hw : n < HDR.EV_RAW.RAW.wid := lt_of_bit_toNat h
  rw [bit_eq_testBit] at h
  rw [bit_eq_testBit, evClrWrite, get_put_same, Nat.testBit_mod_two_pow, Nat.testBit_or, Nat.testBit_mod_two_pow]
  simp [hw, hn, h]

/-- EV_CLR, let through, is its write on the answered state. -/
theorem exec_evClr_admitted {s : State} {q : Req} {slot : BitVec 14} {p : Page} (hp : pageAt slot.toNat = some p)
    (h : Admits s q p 0x01C) (w same : BitVec 32) :
    exec (.evClr q slot w same) s = .next (evClrWrite p w same.toNat (s.reply 0 [])) := by
  show execEvClr q slot w same s = _
  unfold execEvClr
  rw [hp]
  exact congrArg _ (guarded_admitted h w _)

/-- Settles O10: the write of EV_CLR sets the bits of the same clock after it has cleared the ones it names. -/
theorem sameClockEventStays : Obligations.SameClockEventStays := by
  intro s q slot w same p n hp hadmits hn hsame _
  exact ⟨_, exec_evClr_admitted hp hadmits w same, bit_evClrWrite_same hn hsame w _⟩

end Sys2Proof.Machine
end

section
/-! PROOFS. The pins of a sample buffer's entries, and what SBUF_CMD releases of them (R128). -/

namespace Sys2Proof.Machine

open Sys2Proof

/-! Lanes and their entries. -/

@[simp] theorem State.lane_reply (s : State) (c : Nat) (ws : List Nat) (n : Nat) : (s.reply c ws).lane n = s.lane n := rfl

@[simp] theorem State.lane_put (s : State) (F : Fld) (v i k n : Nat) : (s.put F v i k).lane n = s.lane n := rfl

@[simp] theorem State.lane_setLane_same (s : State) (n : Nat) (l : Lane) : (s.setLane n l).lane n = l :=
  sget_sset_same n l

theorem State.lane_setLane_other (s : State) {n m : Nat} (l : Lane) (h : m ≠ n) : (s.setLane n l).lane m = s.lane m :=
  sget_sset_other l h

@[simp] theorem Lane.entry_setEntry_same (l : Lane) (e : Nat) (x : Entry) : (l.setEntry e x).entry e = x :=
  sget_sset_same e x

theorem Lane.entry_setEntry_other (l : Lane) {e j : Nat} (x : Entry) (h : j ≠ e) :
    (l.setEntry e x).entry j = l.entry j :=
  sget_sset_other x h

/-! Releases of firmware's pins. -/

/-- An entry without firmware's pin. -/
def Entry.withoutFwPin (x : Entry) : Entry := { x with fwPin := false }

/-- Release firmware's pin of one entry, if it has one: what either unpin does to each entry it acts on. -/
def Lane.releaseFwPin (l : Lane) (e : Nat) : Lane :=
  if (l.entry e).fwPin then l.setEntry e (l.entry e).withoutFwPin else l

/-- A release takes firmware's pin of its entry and leaves every other entry. -/
theorem Lane.entry_releaseFwPin (l : Lane) (e j : Nat) :
    (l.releaseFwPin e).entry j = if j = e then (l.entry j).withoutFwPin else l.entry j := by
  unfold Lane.releaseFwPin
  split
  · next hpin =>
    split
    · next hj => rw [hj, Lane.entry_setEntry_same]
    · next hj => exact Lane.entry_setEntry_other l _ hj
  · next hpin =>
    split
    · next hj => rw [hj, Entry.withoutFwPin, ← eq_false_of_ne_true hpin]
    · rfl

/-- Releases of the entries below `k` take firmware's pins of these and leave every other entry. -/
theorem Lane.entry_foldl_releaseFwPin (l : Lane) (k j : Nat) :
    ((List.range k).foldl Lane.releaseFwPin l).entry j =
      if j < k then (l.entry j).withoutFwPin else l.entry j := by
  induction k with
  | zero => rfl
  | succ k ih =>
    rw [List.range_succ, List.foldl_append, List.foldl_cons, List.foldl_nil, Lane.entry_releaseFwPin, ih]
    obtain hj | rfl | hj := Nat.lt_trichotomy j k
    · rw [if_neg (by omega), if_pos hj, if_pos (by omega)]
    · rw [if_pos rfl, if_neg (by omega), if_pos (by omega)]
    · rw [if_neg (by omega), if_neg (by omega), if_neg (by omega)]

/-- OP 0b11 takes firmware's pin of each of the 72 entries, and nothing else. -/
theorem entry_sbufUnpinAll (l : Lane) (e : Nat) :
    (sbufUnpinAll l).entry e = if e < 72 then (l.entry e).withoutFwPin else l.entry e :=
  Lane.entry_foldl_releaseFwPin l 72 e

/-- OP 0b10 releases firmware's pin of a listed entry, and answers OK or NOT_PINNED by whether it had one. -/
theorem sbufUnpin_eq (l : Lane) (e : Nat) : sbufUnpin l e =
    if 72 ≤ e then (2, l) else (if (l.entry e).fwPin then 0 else 3, l.releaseFwPin e) := by
  unfold sbufUnpin Lane.releaseFwPin
  cases hpin : (l.entry e).fwPin <;> simp [hpin, Entry.withoutFwPin]

/-- OP 0b10 for an entry that firmware has not pinned answers NOT_PINNED and leaves the lane as it was. -/
theorem sbufUnpin_notPinned {l : Lane} {e : Nat} (he : e < 72) (h : (l.entry e).fwPin = false) :
    sbufUnpin l e = (3, l) := by
  rw [sbufUnpin_eq, if_neg (by omega), Lane.releaseFwPin, h]
  rfl

/-- Neither unpin touches a pin of LDP. -/
theorem ldpPin_sbufUnpin (l : Lane) (e j : Nat) : ((sbufUnpin l e).2.entry j).ldpPin = (l.entry j).ldpPin := by
  rw [sbufUnpin_eq]
  split
  · rfl
  · dsimp only
    rw [Lane.entry_releaseFwPin]
    split <;> rfl

theorem ldpPin_sbufUnpinAll (l : Lane) (e : Nat) : ((sbufUnpinAll l).entry e).ldpPin = (l.entry e).ldpPin := by
  rw [entry_sbufUnpinAll]
  split <;> rfl

/-! The two commands, let through. -/

/-- What an unpin leaves: the answer of its write, the lane `l` and RESULT `r`. -/
def unpinned (s : State) (n r : Nat) (l : Lane) : State :=
  ((s.reply 0 []).setLane n l).put LANE.SBUF_STAT.RESULT r n

@[simp] theorem lane_unpinned_same (s : State) (n r : Nat) (l : Lane) : (unpinned s n r l).lane n = l := by
  simp [unpinned]

theorem lane_unpinned_other (s : State) {n m : Nat} (r : Nat) (l : Lane) (h : m ≠ n) :
    (unpinned s n r l).lane m = s.lane m := by
  simp [unpinned, State.lane_setLane_other _ l h]

/-- If the entries of the lane it leaves have the LDP pins they had, then so have the entries of every lane. -/
theorem ldpPin_unpinned {s : State} {n : Nat} {l : Lane}
    (h : ∀ e, (l.entry e).ldpPin = ((s.lane n).entry e).ldpPin) (r m e : Nat) :
    (((unpinned s n r l).lane m).entry e).ldpPin = ((s.lane m).entry e).ldpPin := by
  by_cases hm : m = n
  · rw [hm, lane_unpinned_same, h]
  · rw [lane_unpinned_other s r l hm]

theorem exec_sbufUnpin_admitted {s : State} {q : Req} {lane : Fin 8} {w : BitVec 32}
    (h : Admits s q (lanePage lane.val) 0x09C) (hop : LANE.SBUF_CMD.OP.of w = 2) :
    exec (.sbufUnpin q lane w) s = .next (unpinned s lane.val
      (sbufUnpin (s.lane lane.val) (LANE.SBUF_CMD.ENTRY.of w)).1
      (sbufUnpin (s.lane lane.val) (LANE.SBUF_CMD.ENTRY.of w)).2) := by
  show execSbufUnpin q lane w s = _
  rw [execSbufUnpin, guarded_admitted h]
  simp [sbufCmdWrite, hop, unpinned]

theorem exec_sbufUnpinAll_admitted {s : State} {q : Req} {lane : Fin 8} {w : BitVec 32}
    (h : Admits s q (lanePage lane.val) 0x09C) (hop : LANE.SBUF_CMD.OP.of w = 3) :
    exec (.sbufUnpinAll q lane w) s =
      .next (unpinned s lane.val 0 (sbufUnpinAll (s.lane lane.val))) := by
  show execSbufUnpinAll q lane w s = _
  rw [execSbufUnpinAll, guarded_admitted h]
  simp [sbufCmdWrite, hop, unpinned]

/-- Settles O22: OP 0b10 finds no pin of firmware and leaves the lane, or releases it; OP 0b11 releases the pins of all
72 entries; a release changes an entry's `fwPin` alone. -/
theorem unpinReleasesOnlyFirmwarePins : Obligations.UnpinReleasesOnlyFirmwarePins := by
  intro s q lane w hadmits n entry
  refine ⟨fun hop hentry hpin => ?_, fun hop => ?_, fun hop => ?_⟩
  · refine ⟨_, exec_sbufUnpin_admitted hadmits hop, ?_⟩
    rw [sbufUnpin_notPinned hentry hpin]
    refine ⟨get_put_same _ _ _ _ _, fun m => ?_⟩
    by_cases hm : m = n
    · rw [hm, lane_unpinned_same]
    · exact lane_unpinned_other s _ _ hm
  · exact ⟨_, exec_sbufUnpin_admitted hadmits hop, ldpPin_unpinned (ldpPin_sbufUnpin _ _) _⟩
  · refine ⟨_, exec_sbufUnpinAll_admitted hadmits hop, ldpPin_unpinned (ldpPin_sbufUnpinAll _) _, fun e he => ?_,
      fun m => lane_unpinned_other s _ _⟩
    rw [lane_unpinned_same, entry_sbufUnpinAll, if_pos he]
    rfl

end Sys2Proof.Machine
end

section
/-! PROOFS. A Regatta frame whose header does not check (R572). -/

namespace Sys2Proof.Machine

open Sys2Proof

/-! Counters and events: what they change of the register fields and of RGT. -/

/-- A counter reads its saturating sum after it has counted. -/
theorem get_bump_same (s : State) (F : Fld) (n i k : Nat) :
    (s.bump F n i k).get F i k = min (s.get F i k + n) (2 ^ F.wid - 1) := by
  have hpos : 0 < 2 ^ F.wid := Nat.two_pow_pos _
  rw [State.bump, get_put_same, Nat.mod_eq_of_lt (by omega)]

/-- A counter leaves every field that lies elsewhere. -/
theorem get_bump_other (s : State) {F G : Fld} (n i k : Nat) {j l : Nat} (h : G.key j l ≠ F.key i k) :
    (s.bump F n i k).get G j l = s.get G j l :=
  get_put_other s F G _ i k j l h

/-- Of the register fields an event changes EV_RAW of its page alone. -/
theorem get_raiseIf_other (c : Bool) (s : State) (p : Page) (b level : Nat) {G : Fld} {i k : Nat}
    (h : G.key i k ≠ HDR.EV_RAW.RAW.key p.index 0) : (raiseIf c s p b level).get G i k = s.get G i k := by
  have hput := get_put_other s HDR.EV_RAW.RAW G (setBit (s.get HDR.EV_RAW.RAW p.index) b true) p.index 0 i k h
  unfold raiseIf raise
  split
  · split
    · dsimp only
      split <;> exact hput
    · rfl
  · rfl

/-- An event leaves what RGT holds. -/
@[simp] theorem rgt_raiseIf (c : Bool) (s : State) (p : Page) (b level : Nat) :
    (raiseIf c s p b level).rgt = s.rgt := by
  unfold raiseIf raise
  split
  · split
    · dsimp only
      split <;> rfl
    · rfl
  · rfl

/-! The count of a frame or slot that does not check. -/

@[simp] theorem rgt_rgtCrcError (s : State) : (rgtCrcError s).rgt = s.rgt := by
  simp [rgtCrcError, State.bump]

theorem get_rgtCrcError_crcErr (s : State) :
    (rgtCrcError s).get RGT.RX_CNT.CRC_ERR = min (s.get RGT.RX_CNT.CRC_ERR + 1) 0xFFFF := by
  unfold rgtCrcError
  rw [get_raiseIf_other _ _ _ _ _ (by decide), get_bump_same]
  rfl

/-- It changes CRC_ERR and the events of RGT alone. -/
theorem get_rgtCrcError_other (s : State) {G : Fld} {i k : Nat} (hcrc : G.key i k ≠ RGT.RX_CNT.CRC_ERR.key 0 0)
    (hev : G.key i k ≠ HDR.EV_RAW.RAW.key rgtPage.index 0) : (rgtCrcError s).get G i k = s.get G i k := by
  unfold rgtCrcError
  rw [get_raiseIf_other _ _ _ _ _ hev, get_bump_other _ _ _ _ hcrc]

/-! The end of the drive's own role. -/

theorem rgt_starterStop (s : State) : (starterStop s).rgt = { s.rgt with claimed := false, sent := none } := by
  unfold starterStop
  dsimp only
  split <;> rfl

theorem get_starterStop_other (s : State) {G : Fld} {i k : Nat} (h : G.key i k ≠ RGT.RGT_STAT.ROLE.key 0 0) :
    (starterStop s).get G i k = s.get G i k := by
  unfold starterStop
  dsimp only
  split
  · exact get_put_other _ _ _ _ _ _ _ _ h
  · rfl

/-! The frame itself. -/

/-- The drive's role after a frame from `saddr` whose check fails (R575): a starter that hears its own address keeps its
role, every other drive is a follower. -/
def roleAfterBadFrame (s : State) (saddr : Nat) : State :=
  if rgtRole s = 4 && saddr = s.get RGT.RGT_CTL.ADDR then s else (starterStop s).put RGT.RGT_STAT.ROLE 3

/-- The drive after such a frame, before the frame is counted: no slot of the frame is to be heeded. -/
def frameRejected (s : State) (saddr : Nat) : State :=
  let t := roleAfterBadFrame s saddr
  { t with rgt := { t.rgt with frameOk := false } }

theorem frameRejected_frameOk (s : State) (saddr : Nat) : (frameRejected s saddr).rgt.frameOk = false := rfl

/-- A rejected frame leaves the drive's phase lock: whom it follows, and its samples within tolerance. -/
theorem frameRejected_phaseLock (s : State) (saddr : Nat) :
    (frameRejected s saddr).rgt.following = s.rgt.following ∧ (frameRejected s saddr).rgt.within = s.rgt.within := by
  show (roleAfterBadFrame s saddr).rgt.following = _ ∧ (roleAfterBadFrame s saddr).rgt.within = _
  unfold roleAfterBadFrame
  split
  · exact ⟨rfl, rfl⟩
  · simp only [State.put_rgt, rgt_starterStop, and_self]

/-- Of the register fields a rejected frame changes at most the role. -/
theorem get_frameRejected_other (s : State) (saddr : Nat) {G : Fld} {i k : Nat}
    (h : G.key i k ≠ RGT.RGT_STAT.ROLE.key 0 0) : (frameRejected s saddr).get G i k = s.get G i k := by
  show (roleAfterBadFrame s saddr).get G i k = _
  unfold roleAfterBadFrame
  split
  · rfl
  · rw [get_put_other _ _ _ _ _ _ _ _ h, get_starterStop_other s h]

/-- A frame whose check fails is rejected and counted. -/
theorem exec_regattaFrameReceive_badCheck {s : State} {cells : BitVec 22} (phase : BitVec 12)
    (hwork : working s rgtPage = true) (hlive : domainLive s 83 = true)
    (hbad : crc6 (cells.toNat / 64) 16 0 ≠ cells.toNat % 64) :
    exec (.regattaFrameReceive cells phase) s = .next (rgtCrcError (frameRejected s (bits cells.toNat 17 5))) := by
  show execRegattaFrameReceive cells phase s = _
  unfold execRegattaFrameReceive frameRejected roleAfterBadFrame
  by_cases hown : (rgtRole s = 4 && bits cells.toNat 17 5 = s.get RGT.RGT_CTL.ADDR) = true <;>
    simp [hwork, hlive, hbad, hown]

/-- After a frame that was not accepted, a slot changes nothing. -/
theorem exec_regattaSlotReceive_notAccepted {s : State} (h : s.rgt.frameOk = false) (slot : BitVec 32)
    (slotEnd : BitVec 14) : exec (.regattaSlotReceive slot slotEnd) s = .next s := by
  show execRegattaSlotReceive slot slotEnd s = _
  simp [execRegattaSlotReceive, h]

/-- Settles O60: the frame is rejected and then counted. Rejection touches the role alone, the count CRC_ERR and the
events alone, and neither touches the phase lock; a slot that follows finds `frameOk` false. -/
theorem badFrameIsNotAccepted : Obligations.BadFrameIsNotAccepted := by
  intro s cells phase hwork hlive hbad
  obtain ⟨hfollowing, hwithin⟩ := frameRejected_phaseLock s (bits cells.toNat 17 5)
  refine ⟨_, exec_regattaFrameReceive_badCheck phase hwork hlive hbad, ?_, ?_, ?_, fun G i k hcrc hrole hev => ?_,
    exec_regattaSlotReceive_notAccepted ?_⟩
  · rw [get_rgtCrcError_crcErr, get_frameRejected_other s _ (by decide)]
  · rw [rgt_rgtCrcError, hfollowing]
  · rw [rgt_rgtCrcError, hwithin]
  · rw [get_rgtCrcError_other _ hcrc hev, get_frameRejected_other s _ hrole]
  · rw [rgt_rgtCrcError, frameRejected_frameOk]

end Sys2Proof.Machine
end

section
/-! PROOFS. What every command leaves: the queue and the fuses, and the stores of data where it stores nothing. -/

namespace Sys2Proof.Machine

open Sys2Proof

/-- What command `i` leaves from `s` to `t`: the queue, the fuses but for a rise of a minimum version, and, if it is
one that stores nothing, the stores of data. -/
def Leaves (i : Instr) (s t : State) : Prop := Rise s t ∧ (keepsStores i = true → t.stores = s.stores)

/-- A frame law at the command's own level says what the command leaves. -/
theorem Leaves.of_kept {i : Instr} {s t : State} (h : t.kept (keepsStores i) = s.kept (keepsStores i)) :
    Leaves i s t := by
  simp only [State.kept, Prod.mk.injEq] at h
  obtain ⟨hfuses, hpending, hstores⟩ := h
  refine ⟨Rise.of_kept ?_, fun hkeeps => ?_⟩
  · simp only [State.kept, hfuses, hpending]
    rfl
  · rw [hkeeps] at hstores
    exact Option.some.inj hstores

/-- Of a command that may store, only the queue and the fuses matter. -/
theorem Leaves.of_rise {i : Instr} {s t : State} (hstores : keepsStores i = false) (h : Rise s t) : Leaves i s t :=
  ⟨h, fun hkeeps => absurd (hkeeps.symm.trans hstores) (by decide)⟩

/-- What each command leaves, by the frame law of its meaning. -/
theorem exec_leaves : ∀ (i : Instr) (s t : State), exec i s = .next t → Leaves i s t
  | .registerWrite .., _, _, h => .of_rise rfl (execRegisterWrite_rise _ _ _ _ _ _ h)
  | .registerReadClear .., _, _, h => .of_kept (execRegisterReadClear_kept _ _ _ _ _ h)
  | .wideReadLatch .., _, _, h => .of_kept (execWideReadLatch_kept _ _ _ _ h)
  | .enableSet .., _, _, h => .of_kept (execEnableSet_kept _ _ _ _ _ h)
  | .enableClear .., _, _, h => .of_kept (execEnableClear_kept _ _ _ _ _ h)
  | .disableComplete .., _, _, h => .of_kept (execDisableComplete_kept _ _ _ h)
  | .easySet .., _, _, h => .of_kept (execEasySet_kept _ _ _ _ _ h)
  | .easyClear .., _, _, h => .of_kept (execEasyClear_kept _ _ _ _ _ h)
  | .holdRel .., _, _, h => .of_kept (execHoldRel_kept _ _ _ _ _ h)
  | .holdReached .., _, _, h => .of_kept (execHoldReached_kept _ _ _ h)
  | .evClr .., _, _, h => .of_kept (execEvClr_kept _ _ _ _ _ _ h)
  | .eventNotice, _, _, h => .of_kept (execEventNotice_kept _ _ h)
  | .blockFault .., _, _, h => .of_kept (execBlockFault_kept _ _ _ h)
  | .pfailAssert, _, _, h => .of_kept (execPfailAssert_kept _ _ h)
  | .pfailDeassert .., _, _, h => .of_kept (execPfailDeassert_kept _ _ _ h)
  | .winhAssert, _, _, h => .of_kept (execWinhAssert_kept _ _ h)
  | .winhRelease, _, _, h => .of_kept (execWinhRelease_kept _ _ h)
  | .drstAssert .., _, _, h => .of_kept (execDrstAssert_kept _ _ _ h)
  | .flitReceive .., _, _, h => .of_kept (execFlitReceive_kept _ _ _ _ _ _ _ _ h)
  | .linkTrainingComplete .., _, _, h => .of_rise rfl (execLinkTrainingComplete_rise _ _ _ h)
  | .linkTrainingFail .., _, _, h => .of_kept (execLinkTrainingFail_kept _ _ _ h)
  | .linkEnable .., _, _, h => .of_kept (execLinkEnable_kept _ _ _ _ h)
  | .linkDisable .., _, _, h => .of_kept (execLinkDisable_kept _ _ _ _ h)
  | .strokeCatch, _, _, h => .of_kept (execStrokeCatch_kept _ _ h)
  | .catchTokenSend, _, _, h => .of_kept (execCatchTokenSend_kept _ _ h)
  | .catchTokenReceive .., _, _, h => .of_rise rfl (execCatchTokenReceive_rise _ _ _ _ h)
  | .localCatch .., _, _, h => .of_kept (execLocalCatch_kept _ _ _ h)
  | .actionLaunch .., _, _, h => .of_kept (execActionLaunch_kept _ _ _ _ _ _ _ _ _ h)
  | .actionOverrun .., _, _, h => .of_kept (execActionOverrun_kept _ _ _ _ h)
  | .supplyCurrentMeasure .., _, _, h => .of_kept (execSupplyCurrentMeasure_kept _ _ _ _ _ h)
  | .fmtTranslate .., _, _, h => .of_kept (execFmtTranslate_kept _ _ _ _ h)
  | .skipListAppend .., _, _, h => .of_kept (execSkipListAppend_kept _ _ _ _ _ h)
  | .mwpUpdate .., _, _, h => .of_kept (execMwpUpdate_kept _ _ _ _ h)
  | .entryLockAcquire .., _, _, h => .of_kept (execEntryLockAcquire_kept _ _ _ _ h)
  | .entryLockRelease .., _, _, h => .of_kept (execEntryLockRelease_kept _ _ _ _ h)
  | .mapScanStart .., _, _, h => .of_kept (execMapScanStart_kept _ _ _ _ h)
  | .mapScanComplete .., _, _, h => .of_kept (execMapScanComplete_kept _ _ _ h)
  | .xlatTest .., _, _, h => .of_kept (execXlatTest_kept _ _ _ _ h)
  | .readGateOpen .., _, _, h => .of_kept (execReadGateOpen_kept _ _ _ h)
  | .frameRead .., _, _, h => .of_kept (execFrameRead_kept _ _ _ _ h)
  | .sbufPin .., _, _, h => .of_kept (execSbufPin_kept _ _ _ _ _ h)
  | .sbufUnpin .., _, _, h => .of_kept (execSbufUnpin_kept _ _ _ _ _ h)
  | .sbufUnpinAll .., _, _, h => .of_kept (execSbufUnpinAll_kept _ _ _ _ _ h)
  | .sbufDataRead .., _, _, h => .of_kept (execSbufDataRead_kept _ _ _ _ h)
  | .detectionComplete .., _, _, h => .of_kept (execDetectionComplete_kept _ _ _ _ _ h)
  | .decodeComplete .., _, _, h => .of_kept (execDecodeComplete_kept _ _ _ _ _ h)
  | .replayPassComplete .., _, _, h => .of_kept (execReplayPassComplete_kept _ _ _ _ _ h)
  | .sectorAbortEnd .., _, _, h => .of_kept (execSectorAbortEnd_kept _ _ _ _ h)
  | .coreParityFault .., _, _, h => .of_kept (execCoreParityFault_kept _ _ _ _ _ h)
  | .ldpCoefDataAccess .., _, _, h => .of_kept (execLdpCoefDataAccess_kept _ _ _ _ _ h)
  | .ldpCoefCommit .., _, _, h => .of_kept (execLdpCoefCommit_kept _ _ _ _ _ h)
  | .fwReplayStart .., _, _, h => .of_kept (execFwReplayStart_kept _ _ _ _ _ h)
  | .fwReplayComplete .., _, _, h => .of_kept (execFwReplayComplete_kept _ _ _ h)
  | .writeGateOpen .., _, _, h => .of_kept (execWriteGateOpen_kept _ _ _ _ h)
  | .writeWedgeCross .., _, _, h => .of_kept (execWriteWedgeCross_kept _ _ _ h)
  | .assistArm .., _, _, h => .of_kept (execAssistArm_kept _ _ _ h)
  | .pbusFrameSend .., _, _, h => .of_kept (execPbusFrameSend_kept _ _ _ _ h)
  | .pbusReadback .., _, _, h => .of_kept (execPbusReadback_kept _ _ _ _ h)
  | .pbusCmdSend .., _, _, h => .of_kept (execPbusCmdSend_kept _ _ _ _ _ h)
  | .assistIdleOff .., _, _, h => .of_kept (execAssistIdleOff_kept _ _ _ _ h)
  | .trimStepRequest .., _, _, h => .of_kept (execTrimStepRequest_kept _ _ _ _ _ _ h)
  | .preampFaultAssert .., _, _, h => .of_kept (execPreampFaultAssert_kept _ _ _ h)
  | .preampStatusRead .., _, _, h => .of_kept (execPreampStatusRead_kept _ _ _ _ h)
  | .preampFaultDeassert .., _, _, h => .of_kept (execPreampFaultDeassert_kept _ _ _ h)
  | .verifyResult .., _, _, h => .of_kept (execVerifyResult_kept _ _ _ h)
  | .pesInhibitCheck .., _, _, h => .of_kept (execPesInhibitCheck_kept _ _ _ _ h)
  | .forceInhibitSet .., _, _, h => .of_kept (execForceInhibitSet_kept _ _ _ _ _ h)
  | .forceInhibitClear .., _, _, h => .of_kept (execForceInhibitClear_kept _ _ _ _ _ h)
  | .astHeadDataAccess .., _, _, h => .of_kept (execAstHeadDataAccess_kept _ _ _ _ _ h)
  | .servoSample .., _, _, h => .of_kept (execServoSample_kept _ _ _ _ h)
  | .controlOverrun .., _, _, h => .of_kept (execControlOverrun_kept _ _ _ h)
  | .vcmCommandApply .., _, _, h => .of_kept (execVcmCommandApply_kept _ _ _ h)
  | .srvCoefDataAccess .., _, _, h => .of_kept (execSrvCoefDataAccess_kept _ _ _ _ _ h)
  | .srvCoefCommit .., _, _, h => .of_kept (execSrvCoefCommit_kept _ _ _ _ _ h)
  | .notchEstimate .., _, _, h => .of_kept (execNotchEstimate_kept _ _ _ _ _ h)
  | .notchWrite .., _, _, h => .of_kept (execNotchWrite_kept _ _ _ h)
  | .regattaIntentApply .., _, _, h => .of_kept (execRegattaIntentApply_kept _ _ _ h)
  | .seekLaunch .., _, _, h => .of_kept (execSeekLaunch_kept _ _ _ _ _ h)
  | .seekCommit .., _, _, h => .of_kept (execSeekCommit_kept _ _ _ h)
  | .autoClear .., _, _, h => .of_kept (execAutoClear_kept _ _ _ _ _ h)
  | .autoSet .., _, _, h => .of_kept (execAutoSet_kept _ _ _ _ _ h)
  | .injectionStart .., _, _, h => .of_kept (execInjectionStart_kept _ _ _ _ _ h)
  | .injectionStop .., _, _, h => .of_kept (execInjectionStop_kept _ _ _ _ _ h)
  | .injectionEnd .., _, _, h => .of_kept (execInjectionEnd_kept _ _ _ h)
  | .captureStart .., _, _, h => .of_kept (execCaptureStart_kept _ _ _ _ _ h)
  | .captureStop .., _, _, h => .of_kept (execCaptureStop_kept _ _ _ _ _ h)
  | .capDataRead .., _, _, h => .of_kept (execCapDataRead_kept _ _ _ _ h)
  | .srvParityFault .., _, _, h => .of_kept (execSrvParityFault_kept _ _ _ _ h)
  | .headLoad .., _, _, h => .of_kept (execHeadLoad_kept _ _ _ _ h)
  | .loadTimeout .., _, _, h => .of_kept (execLoadTimeout_kept _ _ _ h)
  | .headUnload .., _, _, h => .of_kept (execHeadUnload_kept _ _ _ h)
  | .vcmRetract .., _, _, h => .of_kept (execVcmRetract_kept _ _ _ _ _ h)
  | .retractParked .., _, _, h => .of_kept (execRetractParked_kept _ _ _ h)
  | .retractTimeout .., _, _, h => .of_kept (execRetractTimeout_kept _ _ _ h)
  | .vcmDrvEnable .., _, _, h => .of_kept (execVcmDrvEnable_kept _ _ _ _ _ h)
  | .vcmDrvDisable .., _, _, h => .of_kept (execVcmDrvDisable_kept _ _ _ _ _ h)
  | .vcmFaultDetect .., _, _, h => .of_kept (execVcmFaultDetect_kept _ _ _ _ h)
  | .macDriverFault .., _, _, h => .of_kept (execMacDriverFault_kept _ _ _ h)
  | .shockSample .., _, _, h => .of_kept (execShockSample_kept _ _ _ _ _ h)
  | .seqNop .., _, _, h => .of_kept (execSeqNop_kept _ _ _ _ h)
  | .aluAdd .., _, _, h => .of_kept (execAluAdd_kept _ _ _ _ h)
  | .aluSubtract .., _, _, h => .of_kept (execAluSubtract_kept _ _ _ _ h)
  | .aluAnd .., _, _, h => .of_kept (execAluAnd_kept _ _ _ _ h)
  | .aluOr .., _, _, h => .of_kept (execAluOr_kept _ _ _ _ h)
  | .aluXor .., _, _, h => .of_kept (execAluXor_kept _ _ _ _ h)
  | .aluShiftLeft .., _, _, h => .of_kept (execAluShiftLeft_kept _ _ _ _ h)
  | .aluShiftRight .., _, _, h => .of_kept (execAluShiftRight_kept _ _ _ _ h)
  | .aluArithShiftRight .., _, _, h => .of_kept (execAluArithShiftRight_kept _ _ _ _ h)
  | .aluCompare .., _, _, h => .of_kept (execAluCompare_kept _ _ _ _ h)
  | .memLoad .., _, _, h => .of_kept (execMemLoad_kept _ _ _ _ h)
  | .memStore .., _, _, h => .of_kept (execMemStore_kept _ _ _ _ h)
  | .seqRegRead .., _, _, h => .of_rise rfl (execSeqRegRead_rise _ _ _ _ h)
  | .seqRegWrite .., _, _, h => .of_rise rfl (execSeqRegWrite_rise _ _ _ _ h)
  | .launchReadGate .., _, _, h => .of_kept (execLaunchReadGate_kept _ _ _ _ h)
  | .launchWriteGate .., _, _, h => .of_kept (execLaunchWriteGate_kept _ _ _ _ h)
  | .launchAssistStep .., _, _, h => .of_kept (execLaunchAssistStep_kept _ _ _ _ h)
  | .launchSeek .., _, _, h => .of_kept (execLaunchSeek_kept _ _ _ _ h)
  | .launchLoad .., _, _, h => .of_kept (execLaunchLoad_kept _ _ _ _ h)
  | .launchUnload .., _, _, h => .of_kept (execLaunchUnload_kept _ _ _ _ h)
  | .seqWait .., _, _, h => .of_kept (execSeqWait_kept _ _ _ _ h)
  | .waitTimeout .., _, _, h => .of_kept (execWaitTimeout_kept _ _ _ _ h)
  | .tagTake .., _, _, h => .of_kept (execTagTake_kept _ _ _ _ h)
  | .tagReadField .., _, _, h => .of_kept (execTagReadField_kept _ _ _ _ h)
  | .tagWriteResult .., _, _, h => .of_kept (execTagWriteResult_kept _ _ _ _ h)
  | .tagComplete .., _, _, h => .of_kept (execTagComplete_kept _ _ _ _ h)
  | .msgSend .., _, _, h => .of_kept (execMsgSend_kept _ _ _ _ h)
  | .msgReceive .., _, _, h => .of_kept (execMsgReceive_kept _ _ _ _ h)
  | .seqSig .., _, _, h => .of_kept (execSeqSig_kept _ _ _ _ h)
  | .seqWatchdog .., _, _, h => .of_kept (execSeqWatchdog_kept _ _ _ h)
  | .seqBudgetOverrun .., _, _, h => .of_kept (execSeqBudgetOverrun_kept _ _ _ h)
  | .lqPost .., _, _, h => .of_kept (execLqPost_kept _ _ _ _ _ h)
  | .tagEntryFetch .., _, _, h => .of_kept (execTagEntryFetch_kept _ _ _ _ h)
  | .lqAbort .., _, _, h => .of_kept (execLqAbort_kept _ _ _ _ _ h)
  | .lqRelease .., _, _, h => .of_kept (execLqRelease_kept _ _ _ _ _ h)
  | .actuatorOosSet .., _, _, h => .of_kept (execActuatorOosSet_kept _ _ _ _ _ h)
  | .actuatorOosClear .., _, _, h => .of_kept (execActuatorOosClear_kept _ _ _ _ _ h)
  | .seqLoadStart .., _, _, h => .of_kept (execSeqLoadStart_kept _ _ _ _ _ h)
  | .seqLoadComplete .., _, _, h => .of_kept (execSeqLoadComplete_kept _ _ _ h)
  | .csDataAccess .., _, _, h => .of_kept (execCsDataAccess_kept _ _ _ _ _ h)
  | .digestStart .., _, _, h => .of_kept (execDigestStart_kept _ _ _ _ _ h)
  | .digestComplete .., _, _, h => .of_kept (execDigestComplete_kept _ _ _ h)
  | .sqEnableSet .., _, _, h => .of_kept (execSqEnableSet_kept _ _ _ _ _ h)
  | .sqEnableClear .., _, _, h => .of_kept (execSqEnableClear_kept _ _ _ _ _ h)
  | .sqEasySet .., _, _, h => .of_kept (execSqEasySet_kept _ _ _ _ _ h)
  | .sqEasyClear .., _, _, h => .of_kept (execSqEasyClear_kept _ _ _ _ _ h)
  | .sqHoldRel .., _, _, h => .of_kept (execSqHoldRel_kept _ _ _ _ _ h)
  | .wevEncode, _, _, h => .of_kept (execWevEncode_kept _ _ h)
  | .wevAccum, _, _, h => .of_kept (execWevAccum_kept _ _ h)
  | .wevRecon, _, _, h => .of_kept (execWevRecon_kept _ _ h)
  | .wevVerify, _, _, h => .of_kept (execWevVerify_kept _ _ h)
  | .wevParityFault, _, _, h => .of_kept (execWevParityFault_kept _ _ h)
  | .eraseInjArm .., _, _, h => .of_kept (execEraseInjArm_kept _ _ _ _ h)
  | .sqTailDoorbell .., _, _, h => .of_kept (execSqTailDoorbell_kept _ _ _ _ _ h)
  | .cqHeadDoorbell .., _, _, h => .of_kept (execCqHeadDoorbell_kept _ _ _ _ _ h)
  | .commandFetch .., _, _, h => .of_kept (execCommandFetch_kept _ _ _ h)
  | .outStart .., _, _, h => .of_kept (execOutStart_kept _ _ _ h)
  | .outComplete .., _, _, h => .of_kept (execOutComplete_kept _ _ _ h)
  | .completionPost .., _, _, h => .of_kept (execCompletionPost_kept _ _ _ _ h)
  | .cqFullTimeout .., _, _, h => .of_kept (execCqFullTimeout_kept _ _ _ _ h)
  | .interruptCoalesceTimeout .., _, _, h => .of_kept (execInterruptCoalesceTimeout_kept _ _ _ _ h)
  | .controllerEnable .., _, _, h => .of_kept (execControllerEnable_kept _ _ _ _ _ _ _ _ _ _ _ h)
  | .controllerDisable .., _, _, h => .of_kept (execControllerDisable_kept _ _ _ h)
  | .shutdownNotify .., _, _, h => .of_kept (execShutdownNotify_kept _ _ _ h)
  | .functionLevelReset .., _, _, h => .of_kept (execFunctionLevelReset_kept _ _ _ h)
  | .perstAssert .., _, _, h => .of_kept (execPerstAssert_kept _ _ _ h)
  | .pcieLinkLoss .., _, _, h => .of_kept (execPcieLinkLoss_kept _ _ _ h)
  | .pcieLinkUp .., _, _, h => .of_kept (execPcieLinkUp_kept _ _ _ _ _ h)
  | .hqFault .., _, _, h => .of_kept (execHqFault_kept _ _ _ h)
  | .diagBarAccess .., _, _, h => .of_rise rfl (execDiagBarAccess_rise _ _ _ _ _ h)
  | .miReadDataStructure .., _, _, h => .of_kept (execMiReadDataStructure_kept _ _ _ h)
  | .miSubsystemHealthPoll, _, _, h => .of_kept (execMiSubsystemHealthPoll_kept _ _ h)
  | .miControllerHealthPoll .., _, _, h => .of_kept (execMiControllerHealthPoll_kept _ _ _ h)
  | .miConfigurationGet .., _, _, h => .of_kept (execMiConfigurationGet_kept _ _ _ h)
  | .miConfigurationSet .., _, _, h => .of_kept (execMiConfigurationSet_kept _ _ _ _ h)
  | .miVpdRead .., _, _, h => .of_kept (execMiVpdRead_kept _ _ _ _ h)
  | .miVpdWrite .., _, _, h => .of_kept (execMiVpdWrite_kept _ _ _ _ h)
  | .miTunnelledAdmin .., _, _, h => .of_kept (execMiTunnelledAdmin_kept _ _ _ h)
  | .createIoCq .., _, _, h => .of_kept (execCreateIoCq_kept _ _ _ _ _ _ _ _ _ h)
  | .createIoSq .., _, _, h => .of_kept (execCreateIoSq_kept _ _ _ _ _ _ _ _ _ h)
  | .deleteIoSq .., _, _, h => .of_kept (execDeleteIoSq_kept _ _ _ _ h)
  | .deleteIoCq .., _, _, h => .of_kept (execDeleteIoCq_kept _ _ _ _ h)
  | .getLogPage .., _, _, h => .of_kept (execGetLogPage_kept _ _ _ _ _ _ _ _ h)
  | .identify .., _, _, h => .of_kept (execIdentify_kept _ _ _ _ _ _ _ h)
  | .abort .., _, _, h => .of_kept (execAbort_kept _ _ _ _ _ _ h)
  | .setFeatures .., _, _, h => .of_kept (execSetFeatures_kept _ _ _ _ _ _ _ _ h)
  | .getFeatures .., _, _, h => .of_kept (execGetFeatures_kept _ _ _ _ _ _ _ h)
  | .anaOwnerSet .., _, _, h => .of_kept (execAnaOwnerSet_kept _ _ _ _ _ h)
  | .asyncEventRequest .., _, _, h => .of_kept (execAsyncEventRequest_kept _ _ _ h)
  | .nsCreate .., _, _, h => .of_kept (execNsCreate_kept _ _ _ _ _ _ _ _ _ _ _ h)
  | .nsDelete .., _, _, h => .of_kept (execNsDelete_kept _ _ _ _ h)
  | .nsAttach .., _, _, h => .of_kept (execNsAttach_kept _ _ _ _ _ h)
  | .nsDetach .., _, _, h => .of_kept (execNsDetach_kept _ _ _ _ _ h)
  | .fwImageDownload .., _, _, h => .of_kept (execFwImageDownload_kept _ _ _ _ _ h)
  | .fwCommitStore .., _, _, h => .of_kept (execFwCommitStore_kept _ _ _ _ h)
  | .fwCommitStoreActivate .., _, _, h => .of_kept (execFwCommitStoreActivate_kept _ _ _ _ h)
  | .fwCommitActivate .., _, _, h => .of_kept (execFwCommitActivate_kept _ _ _ _ h)
  | .fwCommitActivateNow .., _, _, h => .of_kept (execFwCommitActivateNow_kept _ _ _ _ h)
  | .selfTestShort .., _, _, h => .of_kept (execSelfTestShort_kept _ _ _ _ h)
  | .selfTestExtended .., _, _, h => .of_kept (execSelfTestExtended_kept _ _ _ _ h)
  | .selfTestAbort .., _, _, h => .of_kept (execSelfTestAbort_kept _ _ _ h)
  | .formatNvm .., _, _, h => .of_kept (execFormatNvm_kept _ _ _ _ _ _ _ _ h)
  | .formatNvmCryptoErase .., _, _, h => .of_kept (execFormatNvmCryptoErase_kept _ _ _ _ _ _ _ _ h)
  | .securityProtocolList .., _, _, h => .of_kept (execSecurityProtocolList_kept _ _ _ h)
  | .securityCertChain .., _, _, h => .of_kept (execSecurityCertChain_kept _ _ _ h)
  | .securityAttestReport .., _, _, h => .of_kept (execSecurityAttestReport_kept _ _ _ _ h)
  | .securityUnlockNonce .., _, _, h => .of_kept (execSecurityUnlockNonce_kept _ _ _ h)
  | .sanitizeCryptoErase .., _, _, h => .of_kept (execSanitizeCryptoErase_kept _ _ _ h)
  | .sanitizeOverwrite .., _, _, h => .of_kept (execSanitizeOverwrite_kept _ _ _ _ _ _ h)
  | .nvmRead .., _, _, h => .of_kept (execNvmRead_kept _ _ _ _ _ _ _ h)
  | .nvmWrite .., _, _, h => .of_kept (execNvmWrite_kept _ _ _ _ _ _ _ _ _ _ h)
  | .writeZeroes .., _, _, h => .of_kept (execWriteZeroes_kept _ _ _ _ _ _ _ _ h)
  | .nvmFlush .., _, _, h => .of_kept (execNvmFlush_kept _ _ _ _ h)
  | .nvmVerify .., _, _, h => .of_kept (execNvmVerify_kept _ _ _ _ _ _ _ h)
  | .reservationRegister .., _, _, h => .of_kept (execReservationRegister_kept _ _ _ _ _ _ _ _ _ h)
  | .reservationReport .., _, _, h => .of_kept (execReservationReport_kept _ _ _ _ h)
  | .reservationAcquire .., _, _, h => .of_kept (execReservationAcquire_kept _ _ _ _ _ _ _ _ _ h)
  | .reservationRelease .., _, _, h => .of_kept (execReservationRelease_kept _ _ _ _ _ _ _ _ h)
  | .zoneAppend .., _, _, h => .of_kept (execZoneAppend_kept _ _ _ _ _ _ _ _ _ _ h)
  | .zoneOpen .., _, _, h => .of_kept (execZoneOpen_kept _ _ _ _ _ _ h)
  | .zoneClose .., _, _, h => .of_kept (execZoneClose_kept _ _ _ _ _ _ h)
  | .zoneFinish .., _, _, h => .of_kept (execZoneFinish_kept _ _ _ _ _ _ h)
  | .zoneReset .., _, _, h => .of_kept (execZoneReset_kept _ _ _ _ _ _ _ h)
  | .zoneOffline .., _, _, h => .of_kept (execZoneOffline_kept _ _ _ _ _ _ h)
  | .zoneSetDescExt .., _, _, h => .of_kept (execZoneSetDescExt_kept _ _ _ _ _ h)
  | .zoneReport .., _, _, h => .of_kept (execZoneReport_kept _ _ _ _ _ _ _ _ _ h)
  | .tagCompletionReceive, _, _, h => .of_kept (execTagCompletionReceive_kept _ _ h)
  | .operationAged .., _, _, h => .of_kept (execOperationAged_kept _ _ _ h)
  | .writeAdmitResume, _, _, h => .of_kept (execWriteAdmitResume_kept _ _ h)
  | .plSeal, _, _, h => .of_kept (execPlSeal_kept _ _ h)
  | .plRefugeWriteDone .., _, _, h => .of_kept (execPlRefugeWriteDone_kept _ _ _ _ h)
  | .plFloorStop .., _, _, h => .of_kept (execPlFloorStop_kept _ _ _ _ h)
  | .plTestStart .., _, _, h => .of_kept (execPlTestStart_kept _ _ _ _ h)
  | .refugeIndexProgram .., _, _, h => .of_kept (execRefugeIndexProgram_kept _ _ _ h)
  | .bufferRead .., _, _, h => .of_kept (execBufferRead_kept _ _ _ _ _ _ h)
  | .bufferWrite .., _, _, h => .of_kept (execBufferWrite_kept _ _ _ _ _ h)
  | .mergeFlushTimeout, _, _, h => .of_kept (execMergeFlushTimeout_kept _ _ h)
  | .mergeFlush .., _, _, h => .of_kept (execMergeFlush_kept _ _ _ _ h)
  | .scrubStep .., _, _, h => .of_kept (execScrubStep_kept _ _ _ h)
  | .bucketLeak .., _, _, h => .of_kept (execBucketLeak_kept _ _ _ h)
  | .dmcFlipArm .., _, _, h => .of_kept (execDmcFlipArm_kept _ _ _ _ h)
  | .bufferTestStart .., _, _, h => .of_kept (execBufferTestStart_kept _ _ _ _ h)
  | .bufferTestComplete .., _, _, h => .of_kept (execBufferTestComplete_kept _ _ _ h)
  | .dramTrainingComplete .., _, _, h => .of_kept (execDramTrainingComplete_kept _ _ _ h)
  | .dramRetrain .., _, _, h => .of_kept (execDramRetrain_kept _ _ _ _ h)
  | .spinStart .., _, _, h => .of_kept (execSpinStart_kept _ _ _ _ h)
  | .detectComplete .., _, _, h => .of_kept (execDetectComplete_kept _ _ _ _ h)
  | .zeroCrossing .., _, _, h => .of_kept (execZeroCrossing_kept _ _ _ _ _ _ _ h)
  | .windowEmpty, _, _, h => .of_kept (execWindowEmpty_kept _ _ h)
  | .catchMeasureComplete .., _, _, h => .of_kept (execCatchMeasureComplete_kept _ _ _ _ h)
  | .recatchTimeout, _, _, h => .of_kept (execRecatchTimeout_kept _ _ h)
  | .startAttemptTimeout, _, _, h => .of_kept (execStartAttemptTimeout_kept _ _ h)
  | .startRetry, _, _, h => .of_kept (execStartRetry_kept _ _ h)
  | .reverseBrakeDone, _, _, h => .of_kept (execReverseBrakeDone_kept _ _ h)
  | .spinStop .., _, _, h => .of_kept (execSpinStop_kept _ _ _ _ h)
  | .spindownComplete, _, _, h => .of_kept (execSpindownComplete_kept _ _ h)
  | .speedChangeRequest .., _, _, h => .of_kept (execSpeedChangeRequest_kept _ _ _ _ h)
  | .speedTargetReached .., _, _, h => .of_kept (execSpeedTargetReached_kept _ _ _ _ h)
  | .chopperGate .., _, _, h => .of_kept (execChopperGate_kept _ _ _ h)
  | .chopperCurrentCheck .., _, _, h => .of_kept (execChopperCurrentCheck_kept _ _ _ h)
  | .chopperTimeout, _, _, h => .of_kept (execChopperTimeout_kept _ _ h)
  | .hupOv1, _, _, h => .of_kept (execHupOv1_kept _ _ h)
  | .hupOv2, _, _, h => .of_kept (execHupOv2_kept _ _ h)
  | .ovRecover, _, _, h => .of_kept (execOvRecover_kept _ _ h)
  | .ovRetractTimeout, _, _, h => .of_kept (execOvRetractTimeout_kept _ _ h)
  | .in5Loss, _, _, h => .of_kept (execIn5Loss_kept _ _ h)
  | .holdupFloor .., _, _, h => .of_kept (execHoldupFloor_kept _ _ _ _ h)
  | .railsRelease .., _, _, h => .of_kept (execRailsRelease_kept _ _ _ _ h)
  | .in12Return, _, _, h => .of_kept (execIn12Return_kept _ _ h)
  | .railsPowerUp .., _, _, h => .of_kept (execRailsPowerUp_kept _ _ _ _ _ _ h)
  | .railFault .., _, _, h => .of_kept (execRailFault_kept _ _ _ _ h)
  | .railCycle .., _, _, h => .of_kept (execRailCycle_kept _ _ _ h)
  | .spnTerminalFault .., _, _, h => .of_kept (execSpnTerminalFault_kept _ _ _ h)
  | .l2Access .., _, _, h => .of_kept (execL2Access_kept _ _ _ _ _ _ _ _ h)
  | .l2PreloadStart .., _, _, h => .of_kept (execL2PreloadStart_kept _ _ _ _ h)
  | .l2PreloadComplete, _, _, h => .of_kept (execL2PreloadComplete_kept _ _ h)
  | .l2CleanAll .., _, _, h => .of_kept (execL2CleanAll_kept _ _ _ _ h)
  | .l2Clean .., _, _, h => .of_kept (execL2Clean_kept _ _ _ _ h)
  | .l2Invalidate .., _, _, h => .of_kept (execL2Invalidate_kept _ _ _ _ h)
  | .l2CleanInvalidate .., _, _, h => .of_kept (execL2CleanInvalidate_kept _ _ _ _ h)
  | .l2MaintComplete, _, _, h => .of_kept (execL2MaintComplete_kept _ _ h)
  | .l2DrainComplete, _, _, h => .of_kept (execL2DrainComplete_kept _ _ h)
  | .tcmAccess .., _, _, h => .of_kept (execTcmAccess_kept _ _ _ _ _ _ h)
  | .tcmClearStart .., _, _, h => .of_kept (execTcmClearStart_kept _ _ _ _ h)
  | .tcmClearComplete, _, _, h => .of_kept (execTcmClearComplete_kept _ _ h)
  | .tcmFlipArm .., _, _, h => .of_kept (execTcmFlipArm_kept _ _ _ _ h)
  | .ringDoorbell .., _, _, h => .of_kept (execRingDoorbell_kept _ _ _ _ _ h)
  | .ringEntryFetch .., _, _, h => .of_kept (execRingEntryFetch_kept _ _ _ h)
  | .ringCompletion .., _, _, h => .of_kept (execRingCompletion_kept _ _ _ h)
  | .ringDisable .., _, _, h => .of_kept (execRingDisable_kept _ _ _ _ h)
  | .ringEnable .., _, _, h => .of_kept (execRingEnable_kept _ _ _ _ h)
  | .ringDrainComplete .., _, _, h => .of_kept (execRingDrainComplete_kept _ _ _ h)
  | .ringResume .., _, _, h => .of_kept (execRingResume_kept _ _ _ _ h)
  | .copyCopy .., _, _, h => .of_kept (execCopyCopy_kept _ _ _ h)
  | .copyFill .., _, _, h => .of_kept (execCopyFill_kept _ _ _ h)
  | .copyCrc .., _, _, h => .of_kept (execCopyCrc_kept _ _ _ h)
  | .cryptoEncrypt .., _, _, h => .of_kept (execCryptoEncrypt_kept _ _ _ h)
  | .cryptoDecrypt .., _, _, h => .of_kept (execCryptoDecrypt_kept _ _ _ h)
  | .cryptoRetweak .., _, _, h => .of_kept (execCryptoRetweak_kept _ _ _ h)
  | .mbxOutWrite .., _, _, h => .of_kept (execMbxOutWrite_kept _ _ _ _ _ h)
  | .mbxDeliver .., _, _, h => .of_kept (execMbxDeliver_kept _ _ _ h)
  | .mbxInRead .., _, _, h => .of_kept (execMbxInRead_kept _ _ _ _ h)
  | .mbxWithdraw .., _, _, h => .of_kept (execMbxWithdraw_kept _ _ _ _ _ h)
  | .mbxWaitWarn .., _, _, h => .of_kept (execMbxWaitWarn_kept _ _ _ h)
  | .nvsKeyWrite .., _, _, h => .of_kept (execNvsKeyWrite_kept _ _ _ _ h)
  | .nvsCmdWrite .., _, _, h => .of_kept (execNvsCmdWrite_kept _ _ _ _ h)
  | .nvsAddrWrite .., _, _, h => .of_kept (execNvsAddrWrite_kept _ _ _ _ h)
  | .nvsDataWrite .., _, _, h => .of_kept (execNvsDataWrite_kept _ _ _ _ _ h)
  | .nvsSeqTimeout, _, _, h => .of_kept (execNvsSeqTimeout_kept _ _ h)
  | .nvsProgramComplete .., _, _, h => .of_kept (execNvsProgramComplete_kept _ _ _ h)
  | .nvsEraseComplete .., _, _, h => .of_kept (execNvsEraseComplete_kept _ _ _ h)
  | .lockRaiseComplete, _, _, h => .of_kept (execLockRaiseComplete_kept _ _ h)
  | .lockLowerComplete, _, _, h => .of_kept (execLockLowerComplete_kept _ _ h)
  | .nvsScanStart .., _, _, h => .of_kept (execNvsScanStart_kept _ _ _ h)
  | .nvsScanComplete .., _, _, h => .of_kept (execNvsScanComplete_kept _ _ _ h)
  | .nvsWordRead .., _, _, h => .of_kept (execNvsWordRead_kept _ _ _ _ h)
  | .nvsTransferStart .., _, _, h => .of_kept (execNvsTransferStart_kept _ _ _ _ h)
  | .nvsTransferComplete .., _, _, h => .of_kept (execNvsTransferComplete_kept _ _ _ h)
  | .slot1Close .., _, _, h => .of_kept (execSlot1Close_kept _ _ _ _ h)
  | .evrRecordAccept, _, _, h => .of_rise rfl (execEvrRecordAccept_rise _ _ h)
  | .firmwareLog .., _, _, h => .of_kept (execFirmwareLog_kept _ _ _ _ h)
  | .evrCommitStart .., _, _, h => .of_kept (execEvrCommitStart_kept _ _ _ h)
  | .evrCommitWordDone .., _, _, h => .of_rise rfl (execEvrCommitWordDone_rise _ _ _ h)
  | .evrReclaim .., _, _, h => .of_kept (execEvrReclaim_kept _ _ _ _ h)
  | .secondsTick, _, _, h => .of_kept (execSecondsTick_kept _ _ h)
  | .secondsHiWrite .., _, _, h => .of_kept (execSecondsHiWrite_kept _ _ _ _ h)
  | .secondsLoWrite .., _, _, h => .of_kept (execSecondsLoWrite_kept _ _ _ _ h)
  | .cyclesWrite .., _, _, h => .of_kept (execCyclesWrite_kept _ _ _ _ h)
  | .evrRegionRead, _, _, h => .of_rise rfl (execEvrRegionRead_rise _ _ h)
  | .commitEnable .., _, _, h => .of_kept (execCommitEnable_kept _ _ _ _ h)
  | .tmpSample .., _, _, h => .of_kept (execTmpSample_kept _ _ _ _ _ h)
  | .recalPassCatch .., _, _, h => .of_kept (execRecalPassCatch_kept _ _ _ h)
  | .avsEvaluate .., _, _, h => .of_kept (execAvsEvaluate_kept _ _ _ h)
  | .trialReport .., _, _, h => .of_kept (execTrialReport_kept _ _ _ h)
  | .deltaClear .., _, _, h => .of_kept (execDeltaClear_kept _ _ _ _ h)
  | .svnRaise .., _, _, h => .of_rise rfl (execSvnRaise_rise _ _ _ _ h)
  | .keyGenerate .., _, _, h => .of_kept (execKeyGenerate_kept _ _ _ _ h)
  | .keyDestroy .., _, _, h => .of_kept (execKeyDestroy_kept _ _ _ _ h)
  | .keyLoad .., _, _, h => .of_kept (execKeyLoad_kept _ _ _ _ h)
  | .keyCmdComplete, _, _, h => .of_kept (execKeyCmdComplete_kept _ _ h)
  | .measDataAccess .., _, _, h => .of_kept (execMeasDataAccess_kept _ _ _ _ h)
  | .measExtend .., _, _, h => .of_kept (execMeasExtend_kept _ _ _ _ h)
  | .unlockNewNonce .., _, _, h => .of_kept (execUnlockNewNonce_kept _ _ _ _ h)
  | .unlockCheck .., _, _, h => .of_kept (execUnlockCheck_kept _ _ _ _ h)
  | .unlockDataWrite .., _, _, h => .of_kept (execUnlockDataWrite_kept _ _ _ _ h)
  | .unlockExpire, _, _, h => .of_kept (execUnlockExpire_kept _ _ h)
  | .grantChange .., _, _, h => .of_kept (execGrantChange_kept _ _ _ _ h)
  | .entropyHealthFail, _, _, h => .of_kept (execEntropyHealthFail_kept _ _ h)
  | .aliasCertIssue, _, _, h => .of_kept (execAliasCertIssue_kept _ _ h)
  | .domEasy .., _, _, h => .of_kept (execDomEasy_kept _ _ _ _ h)
  | .domRelease .., _, _, h => .of_kept (execDomRelease_kept _ _ _ _ h)
  | .domReset .., _, _, h => .of_kept (execDomReset_kept _ _ _ _ h)
  | .domPowerOff .., _, _, h => .of_kept (execDomPowerOff_kept _ _ _ _ h)
  | .domPowerOn .., _, _, h => .of_kept (execDomPowerOn_kept _ _ _ _ h)
  | .domForceReset .., _, _, h => .of_kept (execDomForceReset_kept _ _ _ _ h)
  | .domResetComplete .., _, _, h => .of_kept (execDomResetComplete_kept _ _ _ h)
  | .easyTimeout .., _, _, h => .of_kept (execEasyTimeout_kept _ _ _ h)
  | .imageLoad .., _, _, h => .of_kept (execImageLoad_kept _ _ _ _ h)
  | .imageLoadComplete, _, _, h => .of_kept (execImageLoadComplete_kept _ _ h)
  | .warmStart .., _, _, h => .of_kept (execWarmStart_kept _ _ _ _ h)
  | .coxReset, _, _, h => .of_kept (execCoxReset_kept _ _ h)
  | .startOk .., _, _, h => .of_kept (execStartOk_kept _ _ _ _ h)
  | .failClr .., _, _, h => .of_kept (execFailClr_kept _ _ _ _ h)
  | .startWatchdogExpire, _, _, h => .of_kept (execStartWatchdogExpire_kept _ _ h)
  | .regattaFrameReceive .., _, _, h => .of_kept (execRegattaFrameReceive_kept _ _ _ _ h)
  | .starterClaim, _, _, h => .of_kept (execStarterClaim_kept _ _ h)
  | .starterLost, _, _, h => .of_kept (execStarterLost_kept _ _ h)
  | .regattaIntentQueue, _, _, h => .of_kept (execRegattaIntentQueue_kept _ _ h)
  | .regattaSlotContend .., _, _, h => .of_kept (execRegattaSlotContend_kept _ _ _ _ _ h)
  | .regattaSlotReceive .., _, _, h => .of_kept (execRegattaSlotReceive_kept _ _ _ _ h)
  | .regattaWireStuck .., _, _, h => .of_kept (execRegattaWireStuck_kept _ _ _ h)
  | .perstDeassert .., _, _, h => .of_kept (execPerstDeassert_kept _ _ _ h)
  | .railGood .., _, _, h => .of_kept (execRailGood_kept _ _ _ h)
  | .chopperRelease .., _, _, h => .of_kept (execChopperRelease_kept _ _ _ h)
  | .chopperStuckOn, _, _, h => .of_kept (execChopperStuckOn_kept _ _ h)
  | .spnBridgeOvertemp, _, _, h => .of_kept (execSpnBridgeOvertemp_kept _ _ h)
  | .hvOkLoss, _, _, h => .of_kept (execHvOkLoss_kept _ _ h)
  | .dramRefreshRateChange .., _, _, h => .of_kept (execDramRefreshRateChange_kept _ _ _ _ h)
  | .pcieTlpError .., _, _, h => .of_kept (execPcieTlpError_kept _ _ _ _ h)
  | .pcieCompletionTimeout .., _, _, h => .of_kept (execPcieCompletionTimeout_kept _ _ _ h)
  | .mctpPacketError, _, _, h => .of_kept (execMctpPacketError_kept _ _ h)
  | .msixVectorUnmask .., _, _, h => .of_kept (execMsixVectorUnmask_kept _ _ _ _ h)
  | .regattaWireRecover, _, _, h => .of_kept (execRegattaWireRecover_kept _ _ h)
  | .in5Return, _, _, h => .of_kept (execIn5Return_kept _ _ h)
  | .spindleStopped, _, _, h => .of_kept (execSpindleStopped_kept _ _ h)

/-- A step leaves the rest of the queue, and the fuses but for a rise of a minimum version. -/
theorem step_rise {s t : State} (h : step s = .next t) :
    Rise { s with pending := s.pending.tail } t := by
  unfold step at h
  split at h
  · next hnil =>
    cases h
    have htail : s.pending.tail = s.pending := by rw [hnil]; rfl
    rw [htail]
    exact .of_kept (idleStep_kept s)
  · next hcons =>
    rw [hcons]
    exact (exec_leaves _ _ _ h).1

/-- Settles O3: no command touches the queue, so a step from a queue leaves its rest. -/
theorem stepTakesOnlyTheFront : Obligations.StepTakesOnlyTheFront := by
  intro s t h
  obtain ⟨hpending, -, -⟩ := step_rise h
  exact hpending

/-- Settles O5: SVN_RAISE alone changes a fuse, and it only lets a count of blown fuses rise to at most 63. -/
theorem fusesOnlyRise : Obligations.FusesOnlyRise := by
  intro s t h
  obtain ⟨-, hrise, hsound⟩ := step_rise h
  exact ⟨hrise, hsound⟩

/-- Settles O12, by the frame law of each command. -/
theorem commandsThatStoreNothing : Obligations.CommandsThatStoreNothing := by
  intro i s t hkeeps h
  obtain ⟨-, hstores⟩ := exec_leaves i s t h
  have hall := hstores hkeeps
  simp only [State.stores, Prod.mk.injEq] at hall
  obtain ⟨hdram, htcm, hl2, hmedia, hnv, hbuf⟩ := hall
  exact ⟨fun a => by rw [hdram], hdram, htcm, hl2, hmedia, hnv, hbuf⟩

/-- Settles O1: the front command is the one `step` takes. -/
theorem stepRunsTheFrontCommand : Obligations.StepRunsTheFrontCommand := fun _ _ _ => rfl

end Sys2Proof.Machine
end

section
/-! PROOFS. The machine right after reset, and the idle step. -/

namespace Sys2Proof.Machine

open Sys2Proof

/-- A key that a sparse container does not list reads as its default. -/
theorem sget_unlisted {α : Type} {d : α} {m : Sparse α} {k : Nat} (h : ∀ e ∈ m, e.1 ≠ k) : sget d m k = d := by
  induction m with
  | nil => rfl
  | cons e m ih =>
    rw [sget, if_neg (h e (by simp))]
    exact ih fun x hx => h x (by simp [hx])

/-- The places listed at reset are the budgets of sequencers 4 and 5 on both Oar dies (R264). -/
theorem coldFields_keys : ∀ e ∈ coldFields, ∃ d < 2, ∃ n ∈ [4, 5], e.1 = SEQ.SQ_BUDGET.BUDGET.key d n := by
  decide

/-- Settles O4: a field elsewhere than the four budgets is not listed at reset, so it reads its Cold value. -/
theorem resetLeavesTheColdValues : Obligations.ResetLeavesTheColdValues := by
  refine ⟨fun F i k hother => sget_unlisted fun e he heq => ?_, by decide, fun _ => rfl, rfl,
    ⟨rfl, fun _ => Nat.zero_le _, fun _ _ => rfl⟩, Memory.wf_reset, fun m hm => ?_, List.Pairwise.nil⟩
  · obtain ⟨d, hd, n, hn, hkey⟩ := coldFields_keys e he
    exact hother d hd n hn (heq.symm.trans hkey)
  · cases hm

/-- With nothing under way an idle step changes nothing. -/
theorem idleStep_idle {s : State} (hsanitize : s.nvme.sanitize.running = false) (hactivation : s.nvme.activation = none)
    (hasleep : s.nvme.asleep = false) (htest : s.nvme.selfTest = none) : idleStep s = s := by
  have h1 : sanitizeEnds s = s := by rw [sanitizeEnds, hsanitize]; rfl
  have h2 : activationStep s = s := by rw [activationStep, hactivation]
  have h3 : idlePower s = s := by rw [idlePower, hasleep]; rfl
  rw [idleStep, h1, h2, h3, idleTest, htest]
  rfl

/-- Settles O2. -/
theorem idleStepOnlyEndsOperations : Obligations.IdleStepOnlyEndsOperations := by
  intro s hempty
  have hstep : step s = .next (idleStep s) := by rw [step, hempty]
  exact ⟨hstep, fun hsanitize hactivation hasleep htest =>
    hstep.trans (congrArg _ (idleStep_idle hsanitize hactivation hasleep htest))⟩

end Sys2Proof.Machine
end

section
/-! PROOFS. Buffer memory: its form, which every command of the buffer keeps, and what a buffer write stores. -/

namespace Sys2Proof.Machine

open Sys2Proof

/-! What leaves the stores leaves buffer memory. -/

theorem stores_of_kept {s t : State} (h : t.kept true = s.kept true) : t.stores = s.stores := by
  simp only [State.kept, Prod.mk.injEq] at h
  exact Option.some.inj h.2.2

theorem dram_of_kept {s t : State} (h : t.kept true = s.kept true) : t.dram = s.dram :=
  congrArg Prod.fst (stores_of_kept h)

@[simp] theorem dram_raise (s : State) (p : Page) (b l : Nat) : (raise s p b l).dram = s.dram :=
  dram_of_kept (raise_kept s p b l)

@[simp] theorem dram_bump (s : State) (F : Fld) (n i k : Nat) : (s.bump F n i k).dram = s.dram := rfl

@[simp] theorem dram_setDram (s : State) (d : Dram) : (s.setDram d).dram = d := rfl

@[simp] theorem dram_plainWrite (s : State) (q : Req) (p : Page) (off : Nat) (w : Word) :
    (plainWrite s q p off w).dram = s.dram := dram_of_kept (plainWrite_kept s q p off w)

/-! The merge buffer of each operation. -/

theorem Dram.merge_setBytes (d : Dram) (a : Nat) (l : List Nat) : (d.setBytes a l).merge = d.merge := by
  rw [Dram.setBytes_parts]

@[simp] theorem merge_putGranule (s : State) (g : Nat) (bytes : List Nat) (poison : Bool) (err : Nat) :
    (putGranule s g bytes poison err).dram.merge = s.dram.merge := Dram.merge_setBytes s.dram (32 * g) bytes

@[simp] theorem merge_storeGranule (s : State) (g : Nat) (bytes : List Nat) (poison : Bool) :
    (storeGranule s g bytes poison).dram.merge = s.dram.merge := by
  unfold storeGranule
  split <;> simp

@[simp] theorem merge_correctedError (s : State) (g : Nat) : (correctedError s g).dram.merge = s.dram.merge :=
  congrArg Dram.merge (dram_of_kept (correctedError_kept s g))

@[simp] theorem merge_uncorrectable (s : State) (g : Nat) (raw : List Nat) :
    (uncorrectable s g raw).dram.merge = s.dram.merge := by
  simp [uncorrectable]

@[simp] theorem merge_readGranule (s : State) (g : Nat) : (readGranule s g).2.dram.merge = s.dram.merge := by
  unfold readGranule
  dsimp only
  repeat' split
  all_goals simp

/-- A flush takes the entries of its granule out of the merge buffer, and no other. -/
@[simp] theorem merge_flushEntry (s : State) (m : Merge) :
    (flushEntry s m).dram.merge = s.dram.merge.filter (·.granule ≠ m.granule) := by
  unfold flushEntry
  dsimp only
  repeat' split
  all_goals simp

@[simp] theorem merge_scrubGranule (s : State) (g : Nat) : (scrubGranule s g).dram.merge = s.dram.merge := by
  unfold scrubGranule
  dsimp only
  split <;> simp

/-! The merge buffer stays sound. -/

theorem MergeSound.congr {d e : Dram} (hmerge : e.merge = d.merge) (h : MergeSound d) : MergeSound e := by
  unfold MergeSound
  rw [hmerge]
  exact h

theorem MergeSound.filter {d e : Dram} {f : Merge → Bool} (hmerge : e.merge = d.merge.filter f) (h : MergeSound d) :
    MergeSound e := by
  obtain ⟨hshape, hone⟩ := h
  unfold MergeSound
  rw [hmerge]
  exact ⟨fun m hm => hshape m (List.mem_filter.1 hm).1, hone.filter f⟩

theorem MergeSound.flushEntry {s : State} (m : Merge) (h : MergeSound s.dram) : MergeSound (flushEntry s m).dram :=
  h.filter (merge_flushEntry s m)

/-- An entry for a granule that has none may join. -/
theorem MergeSound.append {d e : Dram} {m : Merge} (hmerge : e.merge = d.merge ++ [m]) (hbytes : m.bytes.length = 32)
    (hmask : m.mask.length = 32) (hnew : ∀ x ∈ d.merge, x.granule ≠ m.granule) (h : MergeSound d) : MergeSound e := by
  obtain ⟨hshape, hone⟩ := h
  unfold MergeSound
  rw [hmerge]
  refine ⟨fun x hx => ?_, List.pairwise_append.2 ⟨hone, List.pairwise_singleton _ _, fun x hx y hy => ?_⟩⟩
  · obtain hx | hx := List.mem_append.1 hx
    · exact hshape x hx
    · rw [List.mem_singleton.1 hx]
      exact ⟨hbytes, hmask⟩
  · rw [List.mem_singleton.1 hy]
    exact hnew x hx

/-- The merge buffer with the entry of `m`'s granule replaced by `m`. -/
def replaceEntry (l : List Merge) (m : Merge) : List Merge := l.map fun x => if x.granule = m.granule then m else x

/-- The entry of a granule may be replaced. -/
theorem MergeSound.replace {d e : Dram} {m : Merge} (hmerge : e.merge = replaceEntry d.merge m)
    (hbytes : m.bytes.length = 32) (hmask : m.mask.length = 32) (h : MergeSound d) : MergeSound e := by
  obtain ⟨hshape, hone⟩ := h
  have hgranule (x : Merge) : (if x.granule = m.granule then m else x).granule = x.granule := by
    split
    · next hx => exact hx.symm
    · rfl
  unfold MergeSound
  rw [hmerge, replaceEntry]
  refine ⟨fun x hx => ?_, List.pairwise_map.2 (hone.imp fun hab => ?_)⟩
  · obtain ⟨y, hy, rfl⟩ := List.mem_map.1 hx
    split
    · exact ⟨hbytes, hmask⟩
    · exact hshape y hy
  · rw [hgranule, hgranule]
    exact hab

/-- The entry that the merge buffer has for a granule. -/
def entryOf (d : Dram) (g : Nat) : Option Merge := d.merge.find? (·.granule = g)

theorem entryOf_some {d : Dram} {g : Nat} {m : Merge} (h : entryOf d g = some m) : m ∈ d.merge ∧ m.granule = g :=
  ⟨List.mem_of_find?_eq_some h, by simpa using List.find?_some h⟩

theorem entryOf_none {d : Dram} {g : Nat} (h : entryOf d g = none) : ∀ x ∈ d.merge, x.granule ≠ g := by
  simpa [entryOf] using h

theorem length_overlay {mask : List Bool} {new old : List Nat} (hm : mask.length = 32) (hn : new.length = 32)
    (ho : old.length = 32) : (overlay mask new old).length = 32 := by
  simp [overlay, hm, hn, ho]

/-- The entry `m` with the masked bytes of a partial write merged into it (R392). -/
def merged (m : Merge) (g : Nat) (bytes : List Nat) (mask : List Bool) (poison : Bool) : Merge :=
  ⟨g, (overlay mask bytes (m.bytes.map (·.toNat))).map (BitVec.ofNat 8 ·), List.zipWith (· || ·) mask m.mask,
    m.poisoned || poison⟩

/-- The state that a partial write of a granule with no entry finds: of 16 entries the oldest has been flushed. -/
def roomForEntry (s : State) : State :=
  match s.dram.merge with
  | o :: _ => if s.dram.merge.length ≥ 16 then flushEntry s o else s
  | [] => s

/-- A partial write joins its granule's entry, which is flushed once it is full, or becomes an entry of its own. -/
theorem mergeWrite_eq (s : State) (g : Nat) (bytes : List Nat) (mask : List Bool) (poison : Bool) :
    mergeWrite s g bytes mask poison =
      match entryOf s.dram g with
      | some m =>
        let m' := merged m g bytes mask poison
        let t := s.setDram { s.dram with merge := replaceEntry s.dram.merge m' }
        if m'.mask.all id then flushEntry t m' else t
      | none => (roomForEntry s).setDram { (roomForEntry s).dram with
          merge := (roomForEntry s).dram.merge ++ [⟨g, bytes.map (BitVec.ofNat 8 ·), mask, poison⟩] } := by
  have hentry : s.dram.merge.find? (·.granule = g) = entryOf s.dram g := rfl
  unfold mergeWrite
  rw [hentry]
  cases entryOf s.dram g <;> rfl

theorem mem_roomForEntry {s : State} {m : Merge} (h : m ∈ (roomForEntry s).dram.merge) : m ∈ s.dram.merge := by
  unfold roomForEntry at h
  split at h
  · split at h
    · rw [merge_flushEntry] at h
      exact (List.mem_filter.1 h).1
    · exact h
  · exact h

theorem MergeSound.roomForEntry {s : State} (h : MergeSound s.dram) : MergeSound (roomForEntry s).dram := by
  unfold Machine.roomForEntry
  split
  · split
    · exact h.flushEntry _
    · exact h
  · exact h

theorem length_merged {m : Merge} {bytes : List Nat} {mask : List Bool} (g : Nat) (poison : Bool)
    (hb : bytes.length = 32) (hk : mask.length = 32) (hm : m.bytes.length = 32 ∧ m.mask.length = 32) :
    (merged m g bytes mask poison).bytes.length = 32 ∧ (merged m g bytes mask poison).mask.length = 32 := by
  constructor
  · rw [merged, List.length_map, length_overlay hk hb (by rw [List.length_map, hm.1])]
  · simp [merged, hk, hm.2]

theorem MergeSound.mergeWrite {s : State} (g : Nat) {bytes : List Nat} {mask : List Bool} (poison : Bool)
    (hb : bytes.length = 32) (hk : mask.length = 32) (h : MergeSound s.dram) :
    MergeSound (mergeWrite s g bytes mask poison).dram := by
  rw [mergeWrite_eq]
  split
  · next m hm =>
    obtain ⟨hmem, rfl⟩ := entryOf_some hm
    obtain ⟨h1, h2⟩ := length_merged m.granule poison hb hk (h.1 m hmem)
    have hreplaced : MergeSound (s.setDram { s.dram with
        merge := replaceEntry s.dram.merge (merged m m.granule bytes mask poison) }).dram :=
      MergeSound.replace (d := s.dram) rfl h1 h2 h
    dsimp only
    split
    · exact hreplaced.flushEntry _
    · exact hreplaced
  · next hm =>
    exact MergeSound.append rfl (by simpa using hb) hk (fun x hx => entryOf_none hm x (mem_roomForEntry hx))
      h.roomForEntry

/-- The part of a write from address `a` that falls in granule `g`: which of its bytes are written (R392). -/
def maskIn (a : Nat) (bytes : List Nat) (g : Nat) : List Bool :=
  (List.range 32).map fun i => (if a ≤ 32 * g + i then bytes[32 * g + i - a]? else none).isSome

/-- The bytes of that part, zero where none is written. -/
def bytesIn (a : Nat) (bytes : List Nat) (g : Nat) : List Nat :=
  (List.range 32).map fun i => (if a ≤ 32 * g + i then bytes[32 * g + i - a]? else none).getD 0

theorem length_maskIn (a : Nat) (bytes : List Nat) (g : Nat) : (maskIn a bytes g).length = 32 := by simp [maskIn]

theorem length_bytesIn (a : Nat) (bytes : List Nat) (g : Nat) : (bytesIn a bytes g).length = 32 := by
  simp [bytesIn]

theorem writeInGranule_eq (a : Nat) (bytes : List Nat) (poison : Bool) (s : State) (g : Nat) :
    writeInGranule a bytes poison s g =
      if (maskIn a bytes g).all id then wholeWrite s g (bytesIn a bytes g) poison
      else mergeWrite s g (bytesIn a bytes g) (maskIn a bytes g) poison := rfl

theorem MergeSound.writeInGranule {s : State} (a : Nat) (bytes : List Nat) (poison : Bool) (g : Nat)
    (h : MergeSound s.dram) : MergeSound (writeInGranule a bytes poison s g).dram := by
  rw [writeInGranule_eq]
  split
  · exact h.filter (f := (·.granule ≠ g)) (merge_storeGranule _ _ _ _)
  · exact h.mergeWrite g poison (length_bytesIn a bytes g) (length_maskIn a bytes g)

/-- What a fold of operations keeps. -/
theorem foldl_keeps {α β : Type} {P : β → Prop} {f : β → α → β} (hf : ∀ b x, P b → P (f b x)) (l : List α) {b : β}
    (h : P b) : P (l.foldl f b) := by
  induction l generalizing b with
  | nil => exact h
  | cons x l ih => exact ih (hf b x h)

theorem MergeSound.memWrite {s : State} (a : Nat) (bytes : List Nat) (poison : Bool) (h : MergeSound s.dram) :
    MergeSound (memWrite s a bytes poison).dram :=
  foldl_keeps (P := fun s : State => MergeSound s.dram) (fun _ g h => h.writeInGranule a bytes poison g) _ h

theorem MergeSound.flushMerge {s : State} (h : MergeSound s.dram) : MergeSound (flushMerge s).dram :=
  foldl_keeps (P := fun s : State => MergeSound s.dram) (fun _ m h => h.flushEntry m) _ h

theorem MergeSound.flushGranule {s : State} (g : Nat) (h : MergeSound s.dram) : MergeSound (flushGranule s g).dram := by
  unfold Machine.flushGranule
  split
  · exact h.flushEntry _
  · exact h

theorem MergeSound.readGranules (l : List Nat) {s : State} (h : MergeSound s.dram) :
    MergeSound (readGranules s l).2.2.dram := by
  induction l generalizing s with
  | nil => exact h
  | cons g l ih => exact ih ((h.flushGranule g).congr (merge_readGranule _ g))

theorem MergeSound.memRead {s : State} (c : Consumer) (a n : Nat) (h : MergeSound s.dram) :
    MergeSound (memRead s c a n).2.dram := by
  unfold Machine.memRead
  dsimp only
  split
  · exact h.readGranules _
  · refine MergeSound.congr ?_ (h.readGranules (granulesOf a n))
    simp [consumePoison]

/-! The form of buffer memory. -/

/-- Buffer memory is in canonical form and its merge buffer is sound. -/
def DramForm (s : State) : Prop := Memory.wf s.dram = true ∧ MergeSound s.dram

theorem DramForm.of_dram_eq {s t : State} (heq : t.dram = s.dram) (h : DramForm s) : DramForm t := by
  unfold DramForm
  rw [heq]
  exact h

/-- A register write keeps the form if what it does once let through does. -/
theorem DramForm.guarded {s : State} {eff : State → State} (heff : ∀ t, DramForm t → DramForm (eff t)) (q : Req)
    (p : Page) (off : Nat) (w : Word) (h : DramForm s) : DramForm (guarded s q p off w eff) := by
  unfold Machine.guarded
  dsimp only
  split
  · exact h
  · exact .of_dram_eq (dram_of_kept (grantRefused_kept (s.reply 0 []) q p off w)) h
  · exact h
  · split
    · split
      · exact heff _ (.of_dram_eq (dram_of_kept (kpRefused_kept (s.reply 0 []) q p off w)) h)
      · exact h
    · exact heff _ h

theorem DramForm.flushEntry {s : State} (m : Merge) (h : DramForm s) : DramForm (flushEntry s m) :=
  ⟨Memory.wf_flushEntry m h.1, h.2.flushEntry m⟩

theorem DramForm.bufferRead {s : State} (c : Consumer) (addr : BitVec 44) (n : Nat) (soft : List (Nat × BitVec 288))
    (h : DramForm s) {t : State} (ht : execBufferRead c addr n soft s = .next t) : DramForm t := by
  obtain ⟨hwf, hmerge⟩ := h
  have hread : DramForm (memRead (softErrors s soft) c addr.toNat n).2 :=
    ⟨Memory.wf_memRead c _ n ((Memory.wf_softErrors s soft).trans hwf), MergeSound.memRead c _ n hmerge⟩
  cases ht
  split
  · unfold beyondRead
    split <;> exact ⟨hwf, hmerge⟩
  · dsimp only
    split <;> exact hread

theorem DramForm.bufferWrite {s : State} (addr : BitVec 44) (bytes : List Byte) (poison : Bool) (h : DramForm s)
    {t : State} (ht : execBufferWrite addr bytes poison s = .next t) : DramForm t := by
  have hmarked : DramForm (bandsWritten s addr.toNat bytes.length) :=
    .of_dram_eq (dram_of_kept (bandsWritten_kept s _ _)) h
  cases ht
  split
  · exact h
  · exact ⟨Memory.wf_memWrite _ _ _ hmarked.1, hmarked.2.memWrite _ _ _⟩

theorem DramForm.mergeCtlWrite {s : State} (q : Req) (w : Word) (h : DramForm s) : DramForm (mergeCtlWrite q w s) := by
  have hplain : DramForm (plainWrite s q bufPage 0x058 w) := .of_dram_eq (dram_plainWrite s q _ _ w) h
  unfold Machine.mergeCtlWrite
  dsimp only
  split
  · exact ⟨Memory.wf_flushMerge hplain.1, hplain.2.flushMerge⟩
  · exact hplain

theorem DramForm.scrubStep {s : State} (e : BitVec 288) (h : DramForm s) {t : State}
    (ht : execScrubStep e s = .next t) : DramForm t := by
  have hscrub (g : Nat) : DramForm (scrubGranule (softErrors s [(g, e)]) g) :=
    ⟨Memory.wf_scrubGranule g ((Memory.wf_softErrors s _).trans h.1),
      MergeSound.congr (merge_scrubGranule _ g) (MergeSound.congr (d := s.dram) rfl h.2)⟩
  cases ht
  dsimp only
  split
  · exact h
  · split
    · exact .of_dram_eq (dram_raise _ _ _ _) (hscrub _)
    · exact hscrub _

theorem DramForm.fillMemory {s : State} (f : Fill) (h : DramForm s) : DramForm (fillMemory s f) :=
  ⟨Memory.wf_fillMemory f h.1, h.2.filter rfl⟩

theorem DramForm.testEnds {s : State} (code : Nat) (fail : Option (Nat × Nat)) (h : DramForm s) :
    DramForm (testEnds s code fail) := by
  unfold Machine.testEnds
  dsimp only
  repeat' split
  all_goals exact h.fillMemory _

theorem DramForm.testCtlWrite {s : State} (q : Req) (w : Word) (h : DramForm s) : DramForm (testCtlWrite q w s) := by
  have hplain : DramForm (plainWrite s q dmcPage 0x088 w) := .of_dram_eq (dram_plainWrite s q _ _ w) h
  unfold Machine.testCtlWrite
  dsimp only
  repeat' split
  all_goals exact hplain

theorem DramForm.flipCtlWrite {s : State} (q : Req) (w : Word) (h : DramForm s) : DramForm (flipCtlWrite q w s) := by
  have hplain : DramForm (plainWrite s q dmcPage 0x078 w) := .of_dram_eq (dram_plainWrite s q _ _ w) h
  unfold Machine.flipCtlWrite
  dsimp only
  split <;> exact hplain

/-- Settles O14: each command either leaves buffer memory or changes it through an operation that keeps its form. -/
theorem bufferMemoryKeepsItsForm : Obligations.BufferMemoryKeepsItsForm := by
  intro s t c addr n soft bytes poison q w e fail ch rate bucket hwf hmerge i hi ht
  have h : DramForm s := ⟨hwf, hmerge⟩
  show DramForm t
  simp only [List.mem_cons, List.not_mem_nil, or_false] at hi
  obtain rfl | rfl | rfl | rfl | rfl | rfl | rfl | rfl | rfl | rfl := hi
  · exact h.bufferRead c addr n soft ht
  · exact h.bufferWrite addr bytes poison ht
  · cases ht
    split
    · exact h
    · exact h.flushEntry _
  · cases ht
    exact h.guarded (fun _ => DramForm.mergeCtlWrite q w) q _ _ w
  · exact h.scrubStep e ht
  · cases ht
    exact h.guarded (fun _ => DramForm.testCtlWrite q w) q _ _ w
  · cases ht
    split
    · exact h
    · exact h.testEnds _ _
  · cases ht
    exact .of_dram_eq (dram_of_kept (raiseIf_kept _ _ _ _ _)) ⟨hwf, hmerge⟩
  · cases ht
    split <;> exact h
  · cases ht
    exact h.guarded (fun _ => DramForm.flipCtlWrite q w) q _ _ w

end Sys2Proof.Machine
end

section
/-! PROOFS. A buffer write over memory without errors: it stores its bytes and no others. -/

namespace Sys2Proof.Machine

open Sys2Proof

/-- Within a list the default is not read. -/
theorem getD_of_lt {α : Type} {l : List α} {i : Nat} (d : α) (h : i < l.length) : l.getD i d = l[i] := by
  rw [List.getD_eq_getElem?_getD, List.getElem?_eq_getElem h, Option.getD_some]

/-- A mapped list read with the image of a default. -/
theorem getD_map_apply {α β : Type} (f : α → β) (l : List α) (i : Nat) (d : α) :
    (l.map f).getD i (f d) = f (l.getD i d) := by
  rw [List.getD_eq_getElem?_getD, List.getElem?_map, Option.getD_map, ← List.getD_eq_getElem?_getD]

/-- The byte a read finds, by the entry of its granule. -/
theorem bufferByte_eq (s : State) (c : Nat) :
    bufferByte s c = match entryOf s.dram (c / 32) with
      | some m => if m.mask.getD (c % 32) false then m.bytes.getD (c % 32) 0 else s.dram.byte c
      | none => s.dram.byte c := rfl

theorem bufferByte_of_dram_eq {s t : State} (h : t.dram = s.dram) (c : Nat) : bufferByte t c = bufferByte s c := by
  rw [bufferByte_eq, bufferByte_eq, h]

/-! Entries of the merge buffer. -/

/-- In a sound merge buffer a member is the entry of its granule. -/
theorem entryOf_mem {d : Dram} (h : MergeSound d) {m : Merge} (hm : m ∈ d.merge) : entryOf d m.granule = some m := by
  obtain ⟨-, hone⟩ := h
  unfold entryOf
  induction hl : d.merge generalizing d with
  | nil => rw [hl] at hm; cases hm
  | cons x l ih =>
    rw [hl] at hm hone
    rw [List.pairwise_cons] at hone
    rw [List.find?_cons]
    obtain rfl | hm := List.mem_cons.1 hm
    · simp
    · rw [decide_eq_false (hone.1 m hm)]
      exact ih (d := { d with merge := l }) hm hone.2 rfl

theorem entryOf_filter_same {d e : Dram} {g : Nat} (hmerge : e.merge = d.merge.filter (·.granule ≠ g)) :
    entryOf e g = none := by
  unfold entryOf
  rw [hmerge, List.find?_eq_none]
  intro x hx
  simpa using (List.mem_filter.1 hx).2

theorem entryOf_filter_other {d e : Dram} {g j : Nat} (hmerge : e.merge = d.merge.filter (·.granule ≠ g))
    (hj : j ≠ g) : entryOf e j = entryOf d j := by
  unfold entryOf
  rw [hmerge, List.find?_filter]
  congr 1
  funext x
  by_cases hx : x.granule = j
  · simp [hx, hj]
  · simp [hx]

theorem entryOf_replaceEntry {d e : Dram} {m : Merge} (hmerge : e.merge = replaceEntry d.merge m)
    {x : Merge} (hx : entryOf d m.granule = some x) (j : Nat) :
    entryOf e j = if j = m.granule then some m else entryOf d j := by
  have hfind (l : List Merge) : (replaceEntry l m).find? (·.granule = j) =
      if j = m.granule then (l.find? (·.granule = m.granule)).map fun _ => m else l.find? (·.granule = j) := by
    induction l with
    | nil => simp [replaceEntry]
    | cons y l ih =>
      rw [replaceEntry, List.map_cons, List.find?_cons, List.find?_cons, List.find?_cons]
      rw [replaceEntry] at ih
      by_cases hy : y.granule = m.granule
      · by_cases hj : j = m.granule
        · simp [hy, hj]
        · have hne : m.granule ≠ j := fun h => hj h.symm
          simpa [hy, hj, hne] using ih
      · by_cases hj : y.granule = j
        · subst hj
          simp [hy]
        · simpa [hy, hj] using ih
  have hsome : d.merge.find? (·.granule = m.granule) = some x := hx
  unfold entryOf
  rw [hmerge, hfind, hsome]
  rfl

theorem entryOf_append {d e : Dram} {m : Merge} (hmerge : e.merge = d.merge ++ [m])
    (hnew : entryOf d m.granule = none) (j : Nat) :
    entryOf e j = if j = m.granule then some m else entryOf d j := by
  unfold entryOf at hnew ⊢
  rw [hmerge, List.find?_append]
  by_cases hj : j = m.granule
  · subst hj
    rw [hnew, if_pos rfl]
    simp
  · have hne : m.granule ≠ j := fun h => hj h.symm
    rw [if_neg hj]
    simp [hne]

/-! Memory without errors. -/

/-- No stored byte is in error and no flip mask waits, and the merge buffer is sound. -/
structure Clean (s : State) : Prop where
  merge : MergeSound s.dram
  err : ∀ g, sget 0 s.dram.err g = 0
  arm : s.get DMC.FLIP_CTL.ARM = 0

/-- From `s` to `t` granule `g` has been stored with the bytes `bs`, and its entry has left the merge buffer. -/
structure Stored (s t : State) (g : Nat) (bs : List Nat) : Prop where
  merge : t.dram.merge = s.dram.merge.filter (·.granule ≠ g)
  byte : ∀ c, t.dram.byte c = if c / 32 = g then BitVec.ofNat 8 (bs.getD (c % 32) 0) else s.dram.byte c
  err : ∀ j, sget 0 t.dram.err j = 0
  arm : t.get DMC.FLIP_CTL.ARM = 0

theorem Stored.clean {s t : State} {g : Nat} {bs : List Nat} (h : Stored s t g bs) (hs : Clean s) : Clean t :=
  ⟨hs.merge.filter h.merge, h.err, h.arm⟩

/-- A stored granule reads as stored, every other byte as before. -/
theorem Stored.bufferByte {s t : State} {g : Nat} {bs : List Nat} (h : Stored s t g bs) (c : Nat) :
    bufferByte t c = if c / 32 = g then BitVec.ofNat 8 (bs.getD (c % 32) 0) else bufferByte s c := by
  rw [bufferByte_eq, bufferByte_eq, h.byte]
  by_cases hc : c / 32 = g
  · rw [if_pos hc, if_pos hc, hc, entryOf_filter_same h.merge]
  · rw [if_neg hc, if_neg hc, entryOf_filter_other h.merge hc]

/-- Without an armed flip mask a granule is stored as it is. -/
theorem storeGranule_unarmed {s : State} (h : s.get DMC.FLIP_CTL.ARM = 0) (g : Nat) (bytes : List Nat) (poison : Bool) :
    storeGranule s g bytes poison = putGranule s g bytes poison 0 := by
  have harmed : flipArmed s g = false := by simp [flipArmed, h]
  rw [storeGranule, harmed]
  rfl

/-- Storing 32 bytes over memory without errors, for a state whose entry of the granule has been taken out. -/
theorem stored_putGranule {s u : State} {g : Nat} {bytes : List Nat} (poison : Bool) (hlen : bytes.length = 32)
    (hs : Clean s) (hmerge : u.dram.merge = s.dram.merge.filter (·.granule ≠ g)) (hbyte : ∀ c, u.dram.byte c = s.dram.byte c)
    (herr : u.dram.err = s.dram.err) (harm : u.get DMC.FLIP_CTL.ARM = s.get DMC.FLIP_CTL.ARM) :
    Stored s (putGranule u g bytes poison 0) g bytes where
  merge := (merge_putGranule u g bytes poison 0).trans hmerge
  byte c := by
    have hput : (putGranule u g bytes poison 0).dram.byte c = (u.dram.setBytes (32 * g) bytes).byte c := rfl
    rw [hput, Dram.byte_setBytes, hlen, hbyte]
    by_cases hc : c / 32 = g
    · rw [if_pos (by omega), if_pos hc]
      congr 2
      omega
    · rw [if_neg (by omega), if_neg hc]
  err j := by
    have hput : (putGranule u g bytes poison 0).dram.err = sset 0 (u.dram.setBytes (32 * g) bytes).err g 0 := rfl
    rw [hput, Dram.setBytes_parts]
    dsimp only
    rw [herr]
    by_cases hj : j = g
    · rw [hj, sget_sset_same]
    · rw [sget_sset_other _ hj, hs.err]
  arm := harm.trans hs.arm

theorem getD_overlay {mask : List Bool} {new old : List Nat} (hm : mask.length = 32) (hn : new.length = 32)
    (ho : old.length = 32) {i : Nat} (hi : i < 32) :
    (overlay mask new old).getD i 0 = if mask.getD i false then new.getD i 0 else old.getD i 0 := by
  have h : i < (overlay mask new old).length := by rw [length_overlay hm hn ho]; exact hi
  rw [getD_of_lt _ h, getD_of_lt _ (by omega), getD_of_lt _ (by omega),
    getD_of_lt _ (by omega)]
  simp [overlay]

/-- The bytes of memory depend on its cells and patterns alone. -/
theorem Dram.bytes_congr {d e : Dram} (h : ∀ c, e.byte c = d.byte c) (a n : Nat) : e.bytes a n = d.bytes a n := by
  induction n generalizing a with
  | zero => rfl
  | succ n ih => rw [Dram.bytes, Dram.bytes, h, ih]

/-- The bytes that a flush of entry `m` stores: its own where its mask has them, else the stored ones (R392). -/
def flushedBytes (s : State) (m : Merge) : List Nat :=
  if m.mask.all id then m.bytes.map (·.toNat)
  else overlay m.mask (m.bytes.map (·.toNat)) (s.dram.bytes (32 * m.granule) 32)

/-- A granule without an error is read as it is stored. -/
theorem readGranule_clean {s : State} {g : Nat} (h : sget 0 s.dram.err g = 0) :
    readGranule s g = (⟨s.dram.bytes (32 * g) 32, s.dram.poison.contains g, false, false⟩, s) := by
  have hbad : badBytes (sget 0 s.dram.err g) = 0 := by rw [h]; rfl
  unfold readGranule
  dsimp only
  rw [hbad]
  rfl

/-- The state without the entry of granule `g`. -/
def withoutEntry (s : State) (g : Nat) : State :=
  s.setDram { s.dram with merge := s.dram.merge.filter (·.granule ≠ g) }

/-- A flush stores the granule whole, or reads, modifies and writes it. -/
theorem flushEntry_eq (s : State) (m : Merge) : flushEntry s m =
    let u := withoutEntry s m.granule
    let new := m.bytes.map (·.toNat)
    let r := readGranule u m.granule
    let t := storeGranule (r.2.bump BUF.MERGE_CNT.RMW) m.granule (overlay m.mask new r.1.bytes) (r.1.poison || m.poisoned)
    if m.mask.all id then storeGranule u m.granule new m.poisoned
    else if r.1.ue then raise (t.bump BUF.MERGE_CNT.RMW_UE) ⟨.buf, 0⟩ 2 0 else t := rfl

theorem wholeWrite_eq (s : State) (g : Nat) (bytes : List Nat) (poison : Bool) :
    wholeWrite s g bytes poison = storeGranule (withoutEntry s g) g bytes poison := rfl

theorem stored_flushEntry {s : State} (hs : Clean s) {m : Merge} (hm : m.bytes.length = 32 ∧ m.mask.length = 32) :
    Stored s (flushEntry s m) m.granule (flushedBytes s m) := by
  obtain ⟨hbytes, hmask⟩ := hm
  have hnew : (m.bytes.map (·.toNat)).length = 32 := by rw [List.length_map, hbytes]
  rw [flushEntry_eq]
  unfold flushedBytes
  dsimp only
  rw [readGranule_clean (s := withoutEntry s m.granule) (hs.err _)]
  split
  · rw [storeGranule_unarmed (s := withoutEntry s m.granule) hs.arm]
    exact stored_putGranule _ hnew hs rfl (fun _ => rfl) rfl rfl
  · have harm : ((withoutEntry s m.granule).bump BUF.MERGE_CNT.RMW).get DMC.FLIP_CTL.ARM = s.get DMC.FLIP_CTL.ARM :=
      get_bump_other (withoutEntry s m.granule) 1 0 0 (by decide)
    rw [if_neg Bool.false_ne_true, storeGranule_unarmed (harm.trans hs.arm),
      Dram.bytes_congr (d := s.dram) (e := (withoutEntry s m.granule).dram) fun _ => rfl]
    exact stored_putGranule _ (length_overlay hmask hnew (Dram.length_bytes _ _ _)) hs rfl (fun _ => rfl) rfl harm

theorem getD_map_toNat (l : List Byte) (i : Nat) : BitVec.ofNat 8 ((l.map (·.toNat)).getD i 0) = l.getD i 0 := by
  rw [show (0 : Nat) = (0 : Byte).toNat from rfl, getD_map_apply, BitVec.ofNat_toNat, BitVec.setWidth_eq]

theorem getD_all {mask : List Bool} (h : mask.all id = true) {i : Nat} (hi : i < mask.length) :
    mask.getD i false = true := by
  rw [getD_of_lt _ hi]
  exact List.all_eq_true.1 h _ (List.getElem_mem hi)

/-- Flushing the entry of a granule changes no byte as it reads. -/
theorem bufferByte_flushEntry {s : State} (hs : Clean s) {m : Merge} (hm : m ∈ s.dram.merge) (c : Nat) :
    bufferByte (flushEntry s m) c = bufferByte s c := by
  have hshape := hs.merge.1 m hm
  rw [(stored_flushEntry hs hshape).bufferByte]
  split
  · next hc =>
    have hi : c % 32 < 32 := Nat.mod_lt _ (by decide)
    have haddr : 32 * m.granule + c % 32 = c := by omega
    rw [bufferByte_eq, hc, entryOf_mem hs.merge hm]
    unfold flushedBytes
    dsimp only
    split
    · next hall => rw [getD_map_toNat, getD_all hall (by omega), if_pos rfl]
    · rw [getD_overlay hshape.2 (by rw [List.length_map, hshape.1]) (Dram.length_bytes _ _ _) hi]
      split
      · exact getD_map_toNat _ _
      · rw [Dram.getD_bytes _ _ _ _ hi, haddr, BitVec.ofNat_toNat, BitVec.setWidth_eq]
  · rfl

/-! One granule of a write. -/

/-- A partial write of granule `g` merges its masked bytes: they read as written, every other byte as before. -/
structure Merges (s t : State) (g : Nat) (mask : List Bool) (bytes : List Nat) : Prop where
  clean : Clean t
  byte : ∀ c, bufferByte t c = if c / 32 = g ∧ mask.getD (c % 32) false = true
    then BitVec.ofNat 8 (bytes.getD (c % 32) 0) else bufferByte s c

theorem clean_roomForEntry {s : State} (hs : Clean s) :
    Clean (roomForEntry s) ∧ ∀ c, bufferByte (roomForEntry s) c = bufferByte s c := by
  unfold roomForEntry
  split
  · next o l hl =>
    have ho : o ∈ s.dram.merge := by rw [hl]; exact List.mem_cons_self
    split
    · exact ⟨(stored_flushEntry hs (hs.merge.1 o ho)).clean hs, bufferByte_flushEntry hs ho⟩
    · exact ⟨hs, fun _ => rfl⟩
  · exact ⟨hs, fun _ => rfl⟩

theorem entryOf_roomForEntry {s : State} {g : Nat} (h : entryOf s.dram g = none) :
    entryOf (roomForEntry s).dram g = none := by
  unfold entryOf
  rw [List.find?_eq_none]
  intro x hx
  simpa using entryOf_none h x (mem_roomForEntry hx)

theorem getD_merged_mask {m : Merge} {bytes : List Nat} {mask : List Bool} (g : Nat) (poison : Bool)
    (hk : mask.length = 32) (hm : m.mask.length = 32) {i : Nat} (hi : i < 32) :
    (merged m g bytes mask poison).mask.getD i false = (mask.getD i false || m.mask.getD i false) := by
  rw [getD_of_lt _ (by simp [merged, hk, hm, hi]), getD_of_lt _ (by omega),
    getD_of_lt _ (by omega)]
  simp [merged]

theorem getD_merged_bytes {m : Merge} {bytes : List Nat} {mask : List Bool} (g : Nat) (poison : Bool)
    (hb : bytes.length = 32) (hk : mask.length = 32) (hm : m.bytes.length = 32) {i : Nat} (hi : i < 32) :
    (merged m g bytes mask poison).bytes.getD i 0 =
      if mask.getD i false then BitVec.ofNat 8 (bytes.getD i 0) else m.bytes.getD i 0 := by
  have hzero : (0 : Byte) = BitVec.ofNat 8 0 := rfl
  rw [merged]
  dsimp only
  rw [hzero, getD_map_apply, getD_overlay hk hb (by rw [List.length_map, hm]) hi]
  split
  · rfl
  · exact getD_map_toNat _ _

theorem merges_mergeWrite {s : State} (hs : Clean s) (g : Nat) {bytes : List Nat} {mask : List Bool} (poison : Bool)
    (hb : bytes.length = 32) (hk : mask.length = 32) : Merges s (mergeWrite s g bytes mask poison) g mask bytes := by
  have hi (c : Nat) : c % 32 < 32 := Nat.mod_lt _ (by decide)
  rw [mergeWrite_eq]
  split
  · next m hm =>
    obtain ⟨hmem, hg⟩ := entryOf_some hm
    have hshape := hs.merge.1 m hmem
    have hm' := length_merged g poison hb hk hshape
    dsimp only
    generalize ht : s.setDram { s.dram with merge := replaceEntry s.dram.merge (merged m g bytes mask poison) } = t
    have hmerge : t.dram.merge = replaceEntry s.dram.merge (merged m g bytes mask poison) := by rw [← ht]; rfl
    have hentry (j : Nat) : entryOf t.dram j = if j = g then some (merged m g bytes mask poison) else entryOf s.dram j :=
      entryOf_replaceEntry hmerge hm j
    have hclean : Clean t :=
      ⟨MergeSound.replace hmerge hm'.1 hm'.2 hs.merge, by rw [← ht]; exact hs.err, by rw [← ht]; exact hs.arm⟩
    have hbyte (c : Nat) : bufferByte t c = if c / 32 = g ∧ mask.getD (c % 32) false = true
        then BitVec.ofNat 8 (bytes.getD (c % 32) 0) else bufferByte s c := by
      have hcell : t.dram.byte c = s.dram.byte c := by rw [← ht]; rfl
      rw [bufferByte_eq, bufferByte_eq, hentry, hcell]
      by_cases hc : c / 32 = g
      · rw [if_pos hc, hc, hm]
        dsimp only
        rw [getD_merged_mask g poison hk hshape.2 (hi c), getD_merged_bytes g poison hb hk hshape.1 (hi c)]
        cases mask.getD (c % 32) false <;> simp
      · rw [if_neg hc, if_neg fun h => hc h.1]
    split
    · have hin : merged m g bytes mask poison ∈ t.dram.merge := (entryOf_some ((hentry g).trans (if_pos rfl))).1
      exact ⟨(stored_flushEntry hclean hm').clean hclean, fun c => (bufferByte_flushEntry hclean hin c).trans (hbyte c)⟩
    · exact ⟨hclean, hbyte⟩
  · next hm =>
    obtain ⟨hroom, hsame⟩ := clean_roomForEntry hs
    have hnone := entryOf_roomForEntry hm
    generalize roomForEntry s = u at hroom hsame hnone
    generalize ht : u.setDram { u.dram with merge := u.dram.merge ++ [⟨g, bytes.map (BitVec.ofNat 8 ·), mask, poison⟩] } = t
    have hmerge : t.dram.merge = u.dram.merge ++ [⟨g, bytes.map (BitVec.ofNat 8 ·), mask, poison⟩] := by rw [← ht]; rfl
    refine ⟨⟨MergeSound.append hmerge (by simpa using hb) hk (entryOf_none hnone) hroom.merge, by rw [← ht]; exact hroom.err,
      by rw [← ht]; exact hroom.arm⟩, fun c => ?_⟩
    have hcell : t.dram.byte c = u.dram.byte c := by rw [← ht]; rfl
    have hentry : entryOf t.dram (c / 32) = if c / 32 = g then some ⟨g, bytes.map (BitVec.ofNat 8 ·), mask, poison⟩
        else entryOf u.dram (c / 32) := entryOf_append hmerge hnone _
    have hzero : (0 : Byte) = BitVec.ofNat 8 0 := rfl
    rw [← hsame, bufferByte_eq, bufferByte_eq, hentry, hcell]
    by_cases hc : c / 32 = g
    · rw [if_pos hc, hc, hnone]
      dsimp only
      rw [hzero, getD_map_apply]
      simp
    · rw [if_neg hc, if_neg fun h => hc h.1]

/-! The whole write. -/

theorem getD_maskIn (a : Nat) (bytes : List Nat) (g : Nat) {i : Nat} (hi : i < 32) :
    (maskIn a bytes g).getD i false = decide (a ≤ 32 * g + i ∧ 32 * g + i < a + bytes.length) := by
  rw [getD_of_lt _ (by rw [length_maskIn]; exact hi)]
  simp only [maskIn, List.getElem_map, List.getElem_range]
  by_cases h : a ≤ 32 * g + i
  · rw [if_pos h, Bool.eq_iff_iff]
    simp only [isSome_getElem?, decide_eq_true_eq]
    omega
  · simp [h]

theorem getD_bytesIn (a : Nat) (bytes : List Nat) (g : Nat) {i : Nat} (hi : i < 32) (h : a ≤ 32 * g + i) :
    (bytesIn a bytes g).getD i 0 = bytes.getD (32 * g + i - a) 0 := by
  rw [getD_of_lt _ (by rw [length_bytesIn]; exact hi)]
  simp only [bytesIn, List.getElem_map, List.getElem_range]
  rw [if_pos h, List.getD_eq_getElem?_getD]

/-- The part of a write that falls in granule `g` reads as written, every other byte as before. -/
theorem clean_writeInGranule {s : State} (hs : Clean s) (a : Nat) (bytes : List Nat) (poison : Bool) (g : Nat) :
    Clean (writeInGranule a bytes poison s g) ∧ ∀ c, bufferByte (writeInGranule a bytes poison s g) c =
      if c / 32 = g ∧ a ≤ c ∧ c < a + bytes.length then BitVec.ofNat 8 (bytes.getD (c - a) 0) else bufferByte s c := by
  have hi (c : Nat) : c % 32 < 32 := Nat.mod_lt _ (by decide)
  have haddr {c : Nat} (hc : c / 32 = g) : 32 * g + c % 32 = c := by omega
  have hmask {c : Nat} (hc : c / 32 = g) :
      (maskIn a bytes g).getD (c % 32) false = decide (a ≤ c ∧ c < a + bytes.length) := by
    rw [getD_maskIn a bytes g (hi c), haddr hc]
  have hbytes {c : Nat} (hc : c / 32 = g) (ha : a ≤ c) :
      (bytesIn a bytes g).getD (c % 32) 0 = bytes.getD (c - a) 0 := by
    rw [getD_bytesIn a bytes g (hi c) (by rw [haddr hc]; exact ha), haddr hc]
  rw [writeInGranule_eq]
  split
  · next hall =>
    have hstored : Stored s (wholeWrite s g (bytesIn a bytes g) poison) g (bytesIn a bytes g) := by
      rw [wholeWrite_eq, storeGranule_unarmed (s := withoutEntry s g) hs.arm]
      exact stored_putGranule _ (length_bytesIn a bytes g) hs rfl (fun _ => rfl) rfl rfl
    refine ⟨hstored.clean hs, fun c => ?_⟩
    rw [hstored.bufferByte]
    by_cases hc : c / 32 = g
    · have hin := hmask hc
      rw [getD_all hall (by rw [length_maskIn]; exact hi c)] at hin
      have hin := of_decide_eq_true hin.symm
      rw [if_pos hc, if_pos ⟨hc, hin⟩, hbytes hc hin.1]
    · rw [if_neg hc, if_neg fun h => hc h.1]
  · obtain ⟨hclean, hbyte⟩ := merges_mergeWrite hs g poison (length_bytesIn a bytes g) (length_maskIn a bytes g)
    refine ⟨hclean, fun c => ?_⟩
    rw [hbyte]
    by_cases hc : c / 32 = g
    · rw [hmask hc]
      by_cases hin : a ≤ c ∧ c < a + bytes.length
      · rw [if_pos ⟨hc, decide_eq_true hin⟩, if_pos ⟨hc, hin⟩, hbytes hc hin.1]
      · rw [if_neg fun h => hin (of_decide_eq_true h.2), if_neg fun h => hin h.2]
    · rw [if_neg fun h => hc h.1, if_neg fun h => hc h.1]

/-- A write of the parts in granules `gs`. -/
theorem clean_foldl_writeInGranule (a : Nat) (bytes : List Nat) (poison : Bool) (gs : List Nat) {s : State}
    (hs : Clean s) (c : Nat) : bufferByte (gs.foldl (writeInGranule a bytes poison) s) c =
      if c / 32 ∈ gs ∧ a ≤ c ∧ c < a + bytes.length then BitVec.ofNat 8 (bytes.getD (c - a) 0) else bufferByte s c := by
  induction gs generalizing s with
  | nil => simp
  | cons g gs ih =>
    obtain ⟨hclean, hbyte⟩ := clean_writeInGranule hs a bytes poison g
    rw [List.foldl_cons, ih hclean, hbyte]
    by_cases hgs : c / 32 ∈ gs
    · by_cases hin : a ≤ c ∧ c < a + bytes.length <;> simp [hgs, hin]
    · simp [hgs]

/-- Every byte of a write lies in one of its granules. -/
theorem mem_granulesOf {a n c : Nat} (h : a ≤ c ∧ c < a + n) : c / 32 ∈ granulesOf a n := by
  have hn : n ≠ 0 := by omega
  unfold granulesOf
  rw [if_neg hn]
  exact List.mem_map.2 ⟨c / 32 - a / 32, by rw [List.mem_range]; omega, by omega⟩

/-- A buffer write over clean memory: its bytes read as written, every other byte as before. -/
theorem bufferByte_memWrite {s : State} (hs : Clean s) (a : Nat) (bytes : List Nat) (poison : Bool) (c : Nat) :
    bufferByte (memWrite s a bytes poison) c =
      if a ≤ c ∧ c < a + bytes.length then BitVec.ofNat 8 (bytes.getD (c - a) 0) else bufferByte s c := by
  rw [memWrite, clean_foldl_writeInGranule a bytes poison _ hs]
  by_cases hin : a ≤ c ∧ c < a + bytes.length
  · rw [if_pos ⟨mem_granulesOf hin, hin⟩, if_pos hin]
  · rw [if_neg fun h => hin h.2, if_neg hin]

/-- The mark of the bands that a write may change is no register field. -/
@[simp] theorem get_bandsWritten (s : State) (a n : Nat) (F : Fld) (i k : Nat) :
    (bandsWritten s a n).get F i k = s.get F i k := by
  unfold bandsWritten weaveMark
  dsimp only
  repeat' split
  all_goals rfl

/-- BUFFER_WRITE within USABLE is a write of memory. -/
theorem exec_bufferWrite_usable {s : State} {addr : BitVec 44} {bytes : List Byte} (poison : Bool)
    (h : addr.toNat + bytes.length ≤ usableBytes s) :
    exec (.bufferWrite addr bytes poison) s =
      .next (memWrite (bandsWritten s addr.toNat bytes.length) addr.toNat (bytes.map (·.toNat)) poison) := by
  show execBufferWrite addr bytes poison s = _
  rw [execBufferWrite, if_neg (by omega)]

/-- Settles O13. -/
theorem bufferWriteStoresItsBytes : Obligations.BufferWriteStoresItsBytes := by
  intro s addr bytes poison hmerge herr harm husable
  have hdram : (bandsWritten s addr.toNat bytes.length).dram = s.dram := dram_of_kept (bandsWritten_kept s _ _)
  have hclean : Clean (bandsWritten s addr.toNat bytes.length) :=
    ⟨by rw [hdram]; exact hmerge, by rw [hdram]; exact herr, (get_bandsWritten _ _ _ _ _ _).trans harm⟩
  refine ⟨_, exec_bufferWrite_usable poison husable, fun c hc => ?_, fun k hk => ?_⟩
  · rw [bufferByte_memWrite hclean, List.length_map, if_neg (by omega), bufferByte_of_dram_eq hdram]
  · rw [bufferByte_memWrite hclean, List.length_map, if_pos (by omega), Nat.add_sub_cancel_left, getD_map_toNat]

end Sys2Proof.Machine
end

section
/-! PROOFS. Refused writes (R13, R546): what a refusal counts, records and raises, and that a register which only a
keeper writes is left by any other requester. -/

namespace Sys2Proof.Machine

open Sys2Proof

/-! What a refusal leaves. -/

theorem bit_setBit_same (v i : Nat) : bit (setBit v i true) i = true := by
  unfold setBit
  split
  · assumption
  · next h =>
    have hpos : 0 < 2 ^ i := Nat.two_pow_pos i
    have heven : ¬v / 2 ^ i % 2 = 1 := by simpa [bit] using h
    simp only [if_true, bit, Nat.add_div_right v hpos, decide_eq_true_eq]
    omega

theorem bit_mod_two_pow (v : Nat) {i w : Nat} (h : i < w) : bit (v % 2 ^ w) i = bit v i := by
  rw [bit_eq_testBit, bit_eq_testBit, Nat.testBit_mod_two_pow]
  simp [h]

/-- An event sets its bit of EV_RAW where its domain is live. -/
theorem bit_get_raise {s : State} {p : Page} {b : Nat} (hlive : domainLive s p.domain = true) (hb : b < 32)
    (level : Nat) : bit ((raise s p b level).get HDR.EV_RAW.RAW p.index) b = true := by
  have hput : bit ((s.put HDR.EV_RAW.RAW (setBit (s.get HDR.EV_RAW.RAW p.index) b true) p.index).get HDR.EV_RAW.RAW
      p.index) b = true := by
    rw [get_put_same]
    exact (bit_mod_two_pow _ hb).trans (bit_setBit_same _ b)
  unfold raise
  rw [if_pos hlive]
  dsimp only
  split <;> exact hput

/-- Of the register fields an event changes EV_RAW of its page alone. -/
theorem get_raise_other (s : State) (p : Page) (b level : Nat) {G : Fld} {i k : Nat}
    (h : G.key i k ≠ HDR.EV_RAW.RAW.key p.index 0) : (raise s p b level).get G i k = s.get G i k :=
  get_raiseIf_other true s p b level h

theorem evr_raise (s : State) (p : Page) (b level : Nat) : (raise s p b level).evr = s.evr := by
  unfold raise
  dsimp only
  repeat' split
  all_goals rfl

theorem grants_raise (s : State) (p : Page) (b level : Nat) : (raise s p b level).grants = s.grants := by
  unfold raise
  dsimp only
  repeat' split
  all_goals rfl

theorem fuses_of_kept {s t : State} {lv : Bool} (h : t.kept lv = s.kept lv) : t.fuses = s.fuses := congrArg Prod.fst h

theorem storesKept_of_kept {s t : State} (h : t.kept true = s.kept true) : StoresKept s t := by
  have hall := stores_of_kept h
  simp only [State.stores, Prod.mk.injEq] at hall
  obtain ⟨hdram, htcm, hl2, hmedia, hnv, hbuf⟩ := hall
  exact ⟨fun a => by rw [hdram], hdram, htcm, hl2, hmedia, hnv, hbuf⟩

/-- What a refusal counted in `F` and recorded as `r` leaves. -/
def refusal (s : State) (F : Fld) (r : Rec) (q : Req) (p : Page) : State := denied (report (s.bump F) r) q p

theorem refusal_kept (s : State) (F : Fld) (r : Rec) (q : Req) (p : Page) :
    (refusal s F r q p).kept true = s.kept true :=
  (denied_kept _ _ _).trans ((report_kept _ _).trans (State.bump_kept s F 1 0 0))

/-- A refusal changes its count, DENY_LAST and EV_RAW of SEC alone. -/
theorem get_refusal_other {s : State} {F G : Fld} (r : Rec) (q : Req) (p : Page) {i k : Nat}
    (hcount : G.key i k ≠ F.key 0 0) (hclass : G.key i k ≠ SEC.DENY_LAST.CLASS.key 0 0)
    (hpage : G.key i k ≠ SEC.DENY_LAST.PAGE.key 0 0) (hev : G.key i k ≠ HDR.EV_RAW.RAW.key (⟨.sec, 0⟩ : Page).index 0) :
    (refusal s F r q p).get G i k = s.get G i k := by
  unfold refusal denied
  rw [get_raise_other _ _ _ _ hev, get_put_other _ _ _ _ _ _ _ _ hpage, get_put_other _ _ _ _ _ _ _ _ hclass]
  exact get_bump_other s 1 0 0 hcount

theorem evr_refusal (s : State) (F : Fld) (r : Rec) (q : Req) (p : Page) :
    (refusal s F r q p).evr = { s.evr with arriving := s.evr.arriving ++ [r] } := evr_raise _ _ _ _

theorem grants_refusal (s : State) (F : Fld) (r : Rec) (q : Req) (p : Page) :
    (refusal s F r q p).grants = s.grants := grants_raise _ _ _ _

/-- The count of a refusal. -/
theorem get_refusal_count {s : State} {F : Fld} (r : Rec) (q : Req) (p : Page)
    (hclass : F.key 0 0 ≠ SEC.DENY_LAST.CLASS.key 0 0) (hpage : F.key 0 0 ≠ SEC.DENY_LAST.PAGE.key 0 0)
    (hev : F.key 0 0 ≠ HDR.EV_RAW.RAW.key (⟨.sec, 0⟩ : Page).index 0) :
    (refusal s F r q p).get F = min (s.get F + 1) (2 ^ F.wid - 1) := by
  unfold refusal denied
  rw [get_raise_other _ _ _ _ hev, get_put_other _ _ _ _ _ _ _ _ hpage, get_put_other _ _ _ _ _ _ _ _ hclass]
  exact get_bump_same s F 1 0 0

theorem get_refusal_class (s : State) (F : Fld) (r : Rec) (q : Req) (p : Page) :
    (refusal s F r q p).get SEC.DENY_LAST.CLASS = q.cls.val := by
  unfold refusal denied
  rw [get_raise_other _ _ _ _ (by decide), get_put_other _ _ _ _ _ _ _ _ (by decide), get_put_same,
    show 2 ^ SEC.DENY_LAST.CLASS.wid = 16 from rfl]
  exact Nat.mod_eq_of_lt (Nat.lt_trans q.cls.isLt (by decide))

theorem get_refusal_page (s : State) (F : Fld) (r : Rec) (q : Req) (p : Page) :
    (refusal s F r q p).get SEC.DENY_LAST.PAGE = p.index % 0x4000 := by
  unfold refusal denied
  rw [get_raise_other _ _ _ _ (by decide), get_put_same, show 2 ^ SEC.DENY_LAST.PAGE.wid = 0x4000 from rfl]

/-- Whether a domain answers rests on the domains, the wires and the start alone. -/
theorem domainLive_congr {s t : State} (hdoms : t.doms = s.doms) (hwires : t.wires = s.wires)
    (hstart : t.start = s.start) (d : Nat) : domainLive t d = domainLive s d := by
  unfold domainLive State.dom
  rw [hdoms, hwires, hstart]

@[simp] theorem domainLive_put (s : State) (F : Fld) (v i k d : Nat) :
    domainLive (s.put F v i k) d = domainLive s d := domainLive_congr rfl rfl rfl d

@[simp] theorem domainLive_bump (s : State) (F : Fld) (n i k d : Nat) :
    domainLive (s.bump F n i k) d = domainLive s d := domainLive_congr rfl rfl rfl d

@[simp] theorem domainLive_report (s : State) (r : Rec) (d : Nat) : domainLive (report s r) d = domainLive s d :=
  domainLive_congr rfl rfl rfl d

theorem bit_get_refusal {s : State} (hlive : domainLive s 1 = true) (F : Fld) (r : Rec) (q : Req) (p : Page) :
    bit ((refusal s F r q p).get HDR.EV_RAW.RAW (⟨.sec, 0⟩ : Page).index) 1 = true := by
  have hsec : (⟨.sec, 0⟩ : Page).domain = 1 := rfl
  unfold refusal denied
  refine bit_get_raise ?_ (by decide) 7
  rw [hsec, domainLive_put, domainLive_put, domainLive_report, domainLive_bump, hlive]

/-! Registers that only a keeper writes. -/

/-- The fields at an offset are keeper's and read-only ones. -/
def keeperOnly (b : Blk) (off : Nat) : Bool :=
  (fieldsAt b off).all fun e => e.1.acc = .kp || e.1.acc = .kgo || e.1.acc = .ro

/-- A write by another requester leaves the fields of such a register. -/
theorem plainWrite_keeperOnly {q : Req} {p : Page} {off : Nat} (hq : keeper q = false) (hoff : 0x40 ≤ off)
    (h : keeperOnly p.blk off = true) (s : State) (w : Word) : plainWrite s q p off w = s := by
  have hfields : ∀ e ∈ pageFields p off, ∀ s, writeField q w s e = s := by
    intro e he s
    rw [pageFields, if_neg (by omega)] at he
    obtain ⟨x, hx, rfl⟩ := List.mem_map.1 he
    have hacc := List.all_eq_true.1 h x hx
    simp only [Bool.or_eq_true, decide_eq_true_eq] at hacc
    obtain (hacc | hacc) | hacc := hacc <;> simp [writeField, hacc, hq]
  unfold plainWrite
  generalize pageFields p off = l at hfields
  induction l with
  | nil => rfl
  | cons e l ih =>
    rw [List.foldl_cons, hfields e (by simp)]
    exact ih fun x hx => hfields x (by simp [hx])

/-- Where the keeper's fields lie: block, offset of the first page, distance and number of pages. -/
def keeperPlaces : List (Blk × Nat × Nat × Nat) :=
  [(.dom, 0x040, 0, 1), (.dom, 0x050, 0, 1), (.dom, 0x07C, 0, 1), (.dom, 0x080, 4, 8), (.sec, 0x050, 0, 1),
   (.sec, 0x07C, 0, 1), (.sec, 0x084, 0, 1), (.sec, 0x088, 0, 1), (.sec, 0x090, 0, 1), (.evr, 0x048, 0, 1),
   (.evr, 0x04C, 0, 1), (.evr, 0x050, 0, 1), (.pcx, 0x054, 0, 1), (.sch, 0x080, 0, 1), (.seq, 0x080, 4, 8),
   (.seq, 0x108, 32, 6), (.seq, 0x10C, 32, 6), (.pwr, 0x070, 0, 1), (.pwr, 0x074, 0, 1), (.nvs, 0x040, 0, 1)]

theorem mem_keeperPlaces (b : Blk) : ∀ F ∈ fieldsOf b, F.acc = .kp ∨ F.acc = .kgo →
    (b, F.off, F.stride, F.count) ∈ keeperPlaces := by
  cases b <;> decide

theorem nth_some {F : Fld} {off k : Nat} (h : F.nth off = some k) :
    F.stride = 0 ∧ off = F.off ∨ F.stride ≠ 0 ∧ off = F.off + F.stride * k ∧ k < F.count := by
  unfold Fld.nth at h
  split at h
  · next hstride =>
    split at h
    · next hoff => exact .inl ⟨hstride, hoff⟩
    · cases h
  · next hstride =>
    split at h
    · next hoff =>
      obtain ⟨hle, hmod, hlt⟩ := hoff
      injection h with h
      subst h
      have hdiv := Nat.div_add_mod (off - F.off) F.stride
      exact .inr ⟨hstride, by omega, hlt⟩
    · cases h

/-- A register of block `b` at `off` with a keeper's field lies at one of the places. -/
theorem keeperPlace_of_hasKp {p : Page} {off : Nat} (h : hasKp p off = true) :
    0x40 ≤ off ∧ ∃ o d n, (p.blk, o, d, n) ∈ keeperPlaces ∧ (d = 0 ∧ off = o ∨ d ≠ 0 ∧ ∃ k < n, off = o + d * k) := by
  obtain ⟨e, he, hacc⟩ := List.any_eq_true.1 h
  simp only [Bool.or_eq_true, decide_eq_true_eq] at hacc
  have hplace (b : Blk) (x : Fld × Nat) (hx : x ∈ fieldsAt b off) (hacc : x.1.acc = .kp ∨ x.1.acc = .kgo) :
      (b, x.1.off, x.1.stride, x.1.count) ∈ keeperPlaces ∧ x.1.nth off = some x.2 := by
    obtain ⟨F, hF, hmap⟩ := List.mem_filterMap.1 hx
    obtain ⟨k, hk, rfl⟩ := Option.map_eq_some_iff.1 hmap
    exact ⟨mem_keeperPlaces b F hF hacc, hk⟩
  unfold pageFields at he
  split at he
  · obtain ⟨x, hx, rfl⟩ := List.mem_map.1 he
    have hnone : ∀ o d n, (Blk.hdr, o, d, n) ∉ keeperPlaces := by simp [keeperPlaces]
    exact absurd (hplace .hdr x hx hacc).1 (hnone _ _ _)
  · next hoff =>
    obtain ⟨x, hx, rfl⟩ := List.mem_map.1 he
    obtain ⟨hmem, hnth⟩ := hplace p.blk x hx hacc
    refine ⟨by omega, _, _, _, hmem, ?_⟩
    obtain ⟨hstride, hoff⟩ | ⟨hstride, hoff, hlt⟩ := nth_some hnth
    · exact .inl ⟨hstride, hoff⟩
    · exact .inr ⟨hstride, _, hlt, hoff⟩

/-- The registers with a keeper's field, by block and offset. -/
def KeeperRegister (off : Nat) : Blk → Prop
  | .dom => off = 0x040 ∨ off = 0x050 ∨ off = 0x07C ∨ 0x080 ≤ off
  | .sec => off = 0x050 ∨ off = 0x07C ∨ off = 0x084 ∨ off = 0x088 ∨ off = 0x090
  | .evr => off = 0x048 ∨ off = 0x04C ∨ off = 0x050
  | .seq => 0x080 ≤ off ∧ off < 0x100 ∨ 0x100 ≤ off ∧ off < 0x1C0 ∧ off % 0x20 ≠ 0
  | .pcx => off = 0x054
  | .sch => off = 0x080
  | .pwr => off = 0x070 ∨ off = 0x074
  | .nvs => off = 0x040
  | _ => False

theorem keeperRegister_of_hasKp {p : Page} {off : Nat} (h : hasKp p off = true) : KeeperRegister off p.blk := by
  obtain ⟨-, o, d, n, hmem, hplace⟩ := keeperPlace_of_hasKp h
  have hall : ∀ e ∈ keeperPlaces, (e.2.2.1 = 0 ∧ off = e.2.1 ∨ e.2.2.1 ≠ 0 ∧ ∃ k < e.2.2.2, off = e.2.1 + e.2.2.1 * k) →
      KeeperRegister off e.1 := by
    intro e he hoff
    simp only [keeperPlaces, List.mem_cons, List.not_mem_nil, or_false] at he
    obtain rfl | rfl | rfl | rfl | rfl | rfl | rfl | rfl | rfl | rfl | rfl | rfl | rfl | rfl | rfl | rfl | rfl | rfl |
      rfl | rfl := he <;> obtain ⟨hd, hoff⟩ | ⟨hd, k, hk, hoff⟩ := hoff <;> dsimp only [KeeperRegister] at * <;> omega
  exact hall _ hmem hplace

/-- A write of such a register by another requester leaves the block, SVN_RAISE and KEY_CMD apart. -/
theorem blockWrite_keeperOnly {q : Req} {p : Page} {off : Nat} (hq : keeper q = false) (hkp : hasKp p off = true)
    (honly : keeperOnly p.blk off = true) (hsec : p.blk = .sec → off ≠ 0x07C ∧ off ≠ 0x090) (s : State) (w : Word) :
    blockWrite q p off w s = s := by
  have hplace := keeperRegister_of_hasKp hkp
  have hplain (i : Nat) (s : State) : plainWrite s q ⟨p.blk, i⟩ off w = s :=
    plainWrite_keeperOnly (p := ⟨p.blk, i⟩) hq (keeperPlace_of_hasKp hkp).1 honly s w
  obtain ⟨b, i⟩ := p
  cases b
  case dom =>
    obtain rfl | rfl | rfl | hoff := hplace
    · simp [blockWrite, domWrite, domCtlWrite, hq]
    · simp [blockWrite, domWrite, domCmdWrite, hq, domPage, hplain]
    · exact absurd (show keeperOnly .dom 0x07C = true from honly) (by decide)
    · exact (if_neg (by omega)).trans ((if_neg (by omega)).trans ((if_neg (by omega)).trans ((if_neg (by omega)).trans
        ((if_neg (by omega)).trans (hplain 0 s)))))
  case sec =>
    obtain rfl | rfl | rfl | rfl | rfl := hplace
    · simp [blockWrite, secWrite, grantWrite, hq]
    · exact absurd rfl (hsec rfl).1
    · simp [blockWrite, secWrite, measWrite, hq]
    · simp [blockWrite, secWrite, measExtend, hq]
    · exact absurd rfl (hsec rfl).2
  case evr =>
    obtain rfl | rfl | rfl := hplace
    · simp [blockWrite, evrWrite, secondsLoWrite, hq]
    · simp [blockWrite, evrWrite, secondsHiWrite, hq]
    · simp [blockWrite, evrWrite, cyclesWrite, hq]
  case seq =>
    have hoos : off ≠ 0x040 := by rintro rfl; simp [KeeperRegister] at hplace
    have hno : off ≠ 0x04C ∧ off ≠ 0x054 ∧ off ≠ 0x058 ∧ ¬(0x200 ≤ off) ∧ ¬(0x100 ≤ off ∧ off < 0x1C0 ∧ off % 0x20 = 0) := by
      dsimp only [KeeperRegister] at hplace
      omega
    simp [blockWrite, seqWrite, hoos, hno, seqPage, hplain, and_assoc]
  case pcx =>
    obtain rfl := hplace
    simp [blockWrite, pcxWrite, pcxPage, hplain]
  case pwr =>
    obtain rfl | rfl := hplace <;> simp [blockWrite, pwrWrite, pwrPage, hplain]
  case sch =>
    cases hplace
    exact absurd (show keeperOnly .sch 0x080 = true from honly) (by decide)
  case nvs =>
    cases hplace
    exact absurd (show keeperOnly .nvs 0x040 = true from honly) (by decide)
  all_goals exact hplace.elim

/-- A write of such a register by another requester, at an address of its page, changes nothing. -/
theorem regWrite_keeperOnly {q : Req} {p : Page} {off : Nat} (hq : keeper q = false) (hkp : hasKp p off = true)
    (honly : ((pageFields p off).all fun e => e.1.acc = .kp || e.1.acc = .kgo || e.1.acc = .ro) = true)
    (hsec : p.blk = .sec → off ≠ 0x07C ∧ off ≠ 0x090) (s : State) (w : Word) : regWrite q p off w s = s := by
  have hoff := (keeperPlace_of_hasKp hkp).1
  rw [regWrite, if_neg (by omega)]
  refine blockWrite_keeperOnly hq hkp ?_ hsec s w
  rw [pageFields, if_neg (by omega), List.all_map] at honly
  exact honly

/-! The command. -/

/-- A write at the address of a register is the guarded write of the register. -/
theorem exec_registerWrite_register {s : State} {q : Req} {a : BitVec 32} {addr : BitVec 26} {p : Page}
    (ha : a.toNat = addr.toNat + (if q.cls.val ≤ 2 then 0x40000000 else 0)) (hp : pageOf addr.toNat = some p)
    (hword : addr.toNat % 4 = 0) (w : BitVec 32) : exec (.registerWrite q a 4 w) s =
      .next (guarded s q p (addr.toNat - p.base) w (regWrite q p (addr.toNat - p.base) w)) := by
  show execRegisterWrite q a 4 w s = _
  rw [execRegisterWrite, addressWrite_eq 4 w s ha, writeAccess, hp, if_neg (by simp [hword])]

/-- SEC has one page. -/
theorem pageOf_sec {a : Nat} {p : Page} (h : pageOf a = some p) (hsec : p.blk = .sec) : p = ⟨.sec, 0⟩ := by
  have hone : ∀ r ∈ pages, r.blk = .sec → r = ⟨.sec, 0⟩ := by decide
  exact hone p (List.mem_of_find?_eq_some h) hsec

/-- Settles O9: a refusal leaves what it counts, records and raises; a write that the grant table refuses has no other
effect, and one without keeper privilege acts on a register whose fields it cannot change. -/
theorem refusedWritesOnlyCount : Obligations.RefusedWritesOnlyCount := by
  intro s q a addr w p ha hp hword hlive off sec leaves
  have hleaves {F : Fld} {code : Nat} (hF : F = SEC.DENY_CNT.GRANT ∨ F = SEC.DENY_CNT.KP) :
      leaves F code (refusal (s.reply 0 []) F ⟨4, 7, 0x1FF, code, denyData q p off w⟩ q p) := by
    have hkept := (refusal_kept (s.reply 0 []) F ⟨4, 7, 0x1FF, code, denyData q p off w⟩ q p).trans
      (State.reply_kept s 0 [])
    refine ⟨?_, get_refusal_class _ _ _ _ _, get_refusal_page _ _ _ _ _, bit_get_refusal ((domainLive_reply _ _ _ _).trans hlive) _ _ _ _,
      evr_refusal (s.reply 0 []) _ _ _ _, fun G i k h1 h2 h3 h4 => get_refusal_other (s := s.reply 0 []) _ _ _ h1 h2 h3 h4, storesKept_of_kept hkept,
      grants_refusal (s.reply 0 []) _ _ _ _, fuses_of_kept hkept⟩
    obtain rfl | rfl := hF
    · exact get_refusal_count (s := s.reply 0 []) _ q p (by decide) (by decide) (by decide)
    · exact get_refusal_count (s := s.reply 0 []) _ q p (by decide) (by decide) (by decide)
  refine ⟨fun hdenied => ⟨_, exec_registerWrite_register ha hp hword w, ?_⟩,
    fun hreached hkp hq hroom honly hsec => ⟨_, exec_registerWrite_register ha hp hword w, ?_⟩⟩
  · have hgate : writeGate (s.reply 0 []) q p off = .denied := hdenied
    rw [guarded, hgate]
    exact hleaves (.inl rfl)
  · have hgate : writeGate (s.reply 0 []) q p off = .reached := hreached
    have hroom' : recorderRoom (s.reply 0 []) = true := hroom
    rw [guarded, hgate, hkp, hq]
    dsimp only
    rw [if_pos (by decide), if_pos hroom', regWrite_keeperOnly hq hkp honly fun h => hsec (pageOf_sec hp h)]
    exact hleaves (.inr rfl)

end Sys2Proof.Machine
end

section
/-! PROOFS. Register accesses that go through, and the page headers. -/

namespace Sys2Proof.Machine

open Sys2Proof

/-! Register accesses (R7-R13). -/

theorem exec_registerReadClear_register {s : State} {q : Req} {a : BitVec 32} {addr : BitVec 26}
    (ha : a.toNat = addr.toNat + (if q.cls.val ≤ 2 then 0x40000000 else 0)) :
    exec (.registerReadClear q a 4) s = .next (readAccess q addr.toNat 4 s) :=
  congrArg _ (addressRead_eq 4 s ha)

theorem exec_wideReadLatch_register {s : State} {q : Req} {a : BitVec 32} {addr : BitVec 26}
    (ha : a.toNat = addr.toNat + (if q.cls.val ≤ 2 then 0x40000000 else 0)) :
    exec (.wideReadLatch q a) s = .next (readAccess q addr.toNat 4 s) :=
  congrArg _ (addressRead_eq 4 s ha)

/-- A read that acts answers what its effect gives. -/
theorem regRead_acting {q : Req} {p : Page} {off : Nat} {f : State → Nat × State} (h : actingRead q p off = some f)
    (s : State) : regRead q p off s = f s := by
  rw [regRead, h]

/-- A read of an upper word whose shadow is latched reads the shadow (R9). -/
theorem regRead_shadow {q : Req} {p : Page} {off v : Nat} {s : State} (hact : actingRead q p off = none)
    (hupper : wideUpper p off = true) (hv : sget none s.shadow (shadowKey q (p.base + off)) = some v) :
    regRead q p off s = (v, s) := by
  rw [regRead, hact]
  dsimp only
  rw [if_pos hupper, hv]

/-- Any other read reads the register, latches the upper words of its quantity and clears its RC fields. -/
theorem regRead_plain {q : Req} {p : Page} {off : Nat} {s : State} (hact : actingRead q p off = none)
    (hshadow : wideUpper p off = true → sget none s.shadow (shadowKey q (p.base + off)) = none) :
    regRead q p off s = (regWord s q p off, clearRead (latchWords s q (p.base + off + 4)
      ((List.range (wideTail p off)).map fun k => regWord s q p (off + 4 * (k + 1)))) q p off) := by
  have hnone : (if wideUpper p off then sget none s.shadow (shadowKey q (p.base + off)) else none) = none := by
    split
    · next h => exact hshadow h
    · rfl
  rw [regRead, hact]
  dsimp only
  rw [hnone]

/-- The read of the flash array's data register acts, so a read that does not act never stalls on the array (R476). -/
theorem noStall_of_plain {q : Req} {p : Page} {off : Nat} (hact : actingRead q p off = none) (s : State) :
    p.blk = .nvs → off = 0x078 → arrayBusy s = false := by
  rintro hblk rfl
  rw [actingRead, hblk] at hact
  cases hact

/-- A write through BAR2 that is let through whole is the write of the register by the host (R328). -/
theorem exec_diagBarAccess_admitted {s : State} {addr : BitVec 26} {p : Page} (hp : pageOf addr.toNat = some p)
    (hword : addr.toNat % 4 = 0) (hact : diagActive s = true) (hlive : domainLive s (pcxPage 0).domain = true)
    (h : Admits s diagReq p (addr.toNat - p.base)) (w : BitVec 32) : exec (.diagBarAccess addr 4 (some w)) s =
      .next (regWrite diagReq p (addr.toNat - p.base) w (s.reply 0 [])) := by
  have hkeep : diagRefused addr.toNat (some w) s = s := by
    simp only [diagRefused, hp, h.1]
    rfl
  show execDiagBarAccess addr 4 (some w) s = _
  rw [execDiagBarAccess, hact, hlive, hkeep]
  simp only [Bool.not_true, Bool.or_self, Bool.false_eq_true, if_false, ite_self]
  rw [anyAccess, writeAccess, hp, if_neg (by simp [hword])]
  exact congrArg _ (guarded_admitted h w _)

/-- A REG word of a sequencer, for a page that R241 allows it, is the access by the sequencer. -/
theorem regWordOf_eq {s t : State} {u e w addr : Nat} {p : Page} (hruns : Runs s u e 0x14 w t)
    (haddr : wImm w % 2 ^ 32 = addr) (hp : pageOf addr = some p) (hmay : seqMay ⟨3, Fin.ofNat 16 u⟩ p = true)
    (write : Bool) : regWordOf u e write s = wordResult (fun s =>
      if write then writeAccess ⟨3, Fin.ofNat 16 u⟩ addr 4 (BitVec.ofNat 32 ((s.sqr u).srcB w)) s
      else
        let s := readAccess ⟨3, Fin.ofNat 16 u⟩ addr 4 s
        s.setSqr u ((s.sqr u).setReg (wDst w) (s.answer.data.headD 0))) t u w := by
  rw [regWordOf, runWord_runs hruns]
  congr 1
  funext s
  dsimp only
  rw [haddr, hp]
  dsimp only
  rw [hmay]
  rfl

/-- Settles O7. -/
theorem registerAccessCommands : Obligations.RegisterAccessCommands := by
  intro s q a addr w p hp hword ha off stores word tail reads
  have hbase : p.base + off = addr.toNat := Nat.add_sub_cancel' (pageOf_base_le hp)
  refine ⟨fun h => ?_, fun hserves hact hshadow => ?_, fun v hserves hact hupper hv => ?_,
    fun f hserves hact hstall => ?_, fun hact hlive h => exec_diagBarAccess_admitted hp hword hact hlive h w,
    fun u e x t hruns haddr hmay => ⟨?_, ?_⟩⟩
  · rw [exec_registerWrite_register ha hp hword, guarded_admitted h]
  · have hread : readAccess q addr.toNat 4 s = reads q := by
      rw [readAccess_served hp hword hserves (noStall_of_plain hact s), regRead_plain hact (by rw [hbase]; exact hshadow),
        hbase]
    exact ⟨(exec_registerReadClear_register ha).trans (congrArg _ hread),
      (exec_wideReadLatch_register ha).trans (congrArg _ hread)⟩
  · have hread : readAccess q addr.toNat 4 s = s.reply 0 [v] := by
      rw [readAccess_served hp hword hserves (noStall_of_plain hact s), regRead_shadow hact hupper (by rw [hbase]; exact hv)]
    exact ⟨(exec_registerReadClear_register ha).trans (congrArg _ hread),
      (exec_wideReadLatch_register ha).trans (congrArg _ hread)⟩
  · rw [exec_registerReadClear_register ha, readAccess_served hp hword hserves fun hnvs _ => hstall hnvs,
      regRead_acting hact]
  · exact congrArg _ (regWordOf_eq hruns haddr hp hmay true)
  · exact congrArg _ (regWordOf_eq hruns haddr hp hmay false)

/-! Page headers (R16-R21, R611). -/

/-- A field's value fits its width. -/
theorem Fld.of_lt (F : Fld) (w : Word) : F.of w < 2 ^ F.wid := Nat.mod_lt _ (Nat.two_pow_pos _)

/-- A field of one bit is 0 or 1. -/
theorem Fld.of_bit {F : Fld} (h : F.wid = 1) (w : Word) : F.of w = 0 ∨ F.of w = 1 := by
  have hlt := F.of_lt w
  rw [h] at hlt
  omega

theorem bit_of_field {F : Fld} (h : F.wid = 1) (w : Word) : (if decide (F.of w = 1) then 1 else 0) = F.of w := by
  obtain h0 | h1 := Fld.of_bit h w
  · rw [h0]; rfl
  · rw [h1]; rfl

/-- The page after a write of PAGE_CTL, before an easy request of its domain may end. -/
def pageCtlNext (s : State) (p : Page) (w : Word) : State :=
  pageTransition (s.reply 0 []) p (HDR.PAGE_CTL.ENABLE.of w = 1) (HDR.PAGE_CTL.EASY.of w = 1)
    (HDR.PAGE_CTL.HOLD_REL.of w = 1)

/-- A write of PAGE_CTL, let through. -/
theorem pageCtlAccess_admitted {s : State} {q : Req} {slot : Nat} {p : Page} (hp : pageAt slot = some p)
    (h : Admits s q p 0x008) (w : Word) :
    pageCtlAccess q slot w s = easyWithdrawn (pageCtlNext s p w) p.domain := by
  rw [pageCtlAccess, hp]
  exact guarded_admitted h w _

/-- What a write of PAGE_CTL stores. -/
def pageCtlStored (s : State) (p : Page) (w : Word) : State :=
  ((s.reply 0 []).put HDR.PAGE_CTL.ENABLE (HDR.PAGE_CTL.ENABLE.of w) p.index).put HDR.PAGE_CTL.EASY
    (HDR.PAGE_CTL.EASY.of w) p.index

/-- The table of R611, by the page's state and what it reads of ENABLE before the write. -/
theorem pageCtlNext_eq (s : State) (p : Page) (w : Word) : pageCtlNext s p w =
    let en := HDR.PAGE_CTL.ENABLE.of w
    let ez := HDR.PAGE_CTL.EASY.of w
    let store := pageCtlStored s p w
    if pageState s p = stFault then store
    else if pageState s p = stOff then
      if (decide (en = 1) && !pageEnabled s p && !pageAbsent s p) = true then
        if ez = 1 then setPageState (pageEnables store p) p stHold else pageRuns (pageEnables store p) p
      else store
    else if pageEnabled s p = false then setEasy (s.reply 0 []) p ez
    else if en ≠ 1 then (if pageState s p = stHold then pageHeldOff store p else pageDisables store p)
    else if pageState s p = stRun then (if ez = 1 then pageEases store p else store)
    else if pageState s p = stEasing then (if ez = 1 then store else pageRuns store p)
    else if HDR.PAGE_CTL.HOLD_REL.of w = 1 ∧ ez ≠ 1 then pageRuns store p
    else store := by
  unfold pageCtlNext pageTransition pageCtlStored
  rw [bit_of_field (F := HDR.PAGE_CTL.ENABLE) rfl, bit_of_field (F := HDR.PAGE_CTL.EASY) rfl]
  simp only [pageState_reply, decide_eq_true_eq, Bool.not_eq_true', decide_eq_false_iff_not, Bool.and_eq_true, ne_eq]
  rfl

section
variable {s : State} {p : Page} {w : Word}

/-- A page that is off, once its ENABLE goes from 0 to 1, runs or holds as EASY says. -/
theorem pageCtlNext_enable (hst : pageState s p = stOff) (hwas : pageEnabled s p = false)
    (habsent : pageAbsent s p = false) (hen : HDR.PAGE_CTL.ENABLE.of w = 1) : pageCtlNext s p w =
      if HDR.PAGE_CTL.EASY.of w = 1 then setPageState (pageEnables (pageCtlStored s p w) p) p stHold
      else pageRuns (pageEnables (pageCtlStored s p w) p) p := by
  simp [pageCtlNext_eq, hst, hwas, habsent, hen, stOff, stFault]

/-- PCX1 stays off in single-port mode (R298). -/
theorem pageCtlNext_absent (hst : pageState s p = stOff) (habsent : pageAbsent s p = true) :
    pageCtlNext s p w = pageCtlStored s p w := by
  simp [pageCtlNext_eq, hst, habsent, stOff, stFault]

theorem pageCtlNext_disable (hst : pageState s p = stRun) (hwas : pageEnabled s p = true)
    (hen : HDR.PAGE_CTL.ENABLE.of w = 0) : pageCtlNext s p w = pageDisables (pageCtlStored s p w) p := by
  simp [pageCtlNext_eq, hst, hwas, hen, stOff, stFault, stRun, stHold]

/-- A page in HOLD is disabled at once. -/
theorem pageCtlNext_heldOff (hst : pageState s p = stHold) (hwas : pageEnabled s p = true)
    (hen : HDR.PAGE_CTL.ENABLE.of w = 0) : pageCtlNext s p w = pageHeldOff (pageCtlStored s p w) p := by
  simp [pageCtlNext_eq, hst, hwas, hen, stOff, stFault, stHold]

theorem pageCtlNext_ease (hst : pageState s p = stRun) (hwas : pageEnabled s p = true)
    (hen : HDR.PAGE_CTL.ENABLE.of w = 1) (hez : HDR.PAGE_CTL.EASY.of w = 1) :
    pageCtlNext s p w = pageEases (pageCtlStored s p w) p := by
  simp [pageCtlNext_eq, hst, hwas, hen, hez, stOff, stFault, stRun]

/-- A page in EASING goes back to RUN once EASY is 0; one in HOLD needs HOLD_REL besides (R19). -/
theorem pageCtlNext_goOn (hst : pageState s p = stEasing ∨ pageState s p = stHold ∧ HDR.PAGE_CTL.HOLD_REL.of w = 1)
    (hwas : pageEnabled s p = true) (hen : HDR.PAGE_CTL.ENABLE.of w = 1) (hez : HDR.PAGE_CTL.EASY.of w = 0) :
    pageCtlNext s p w = pageRuns (pageCtlStored s p w) p := by
  obtain hst | ⟨hst, hrel⟩ := hst
  · simp [pageCtlNext_eq, hst, hwas, hen, hez, stOff, stFault, stRun, stEasing]
  · simp [pageCtlNext_eq, hst, hwas, hen, hez, hrel, stOff, stFault, stRun, stEasing, stHold]

end

/-- A page in HOLD that is disabled reads OFF; an assist's elements go off, WEV and CAL end as their disable does. -/
theorem pageHeldOff_eq (s : State) (p : Page) : pageHeldOff s p = match p.blk with
    | .ast => setPageState (astStop s p.inst) p stOff
    | .wev => wevOff s
    | .cal => calOff s
    | _ => setPageState s p stOff := rfl

/-- Settles O11: each clause is a row of R611's table. -/
theorem pageControlCommands : Obligations.PageControlCommands := by
  intro s q slot w same p hp
  dsimp only
  refine ⟨fun h => ?_, fun h => exec_evClr_admitted hp h w same, fun hlive hwork hdis => ?_,
    fun dom hlive hfree => ?_⟩
  · have hrun {t : State} (ht : pageCtlNext s p w = t) : Host.Outcome.next (pageCtlAccess q slot.toNat w s) =
        (.next (easyWithdrawn t p.domain) : Result) := by
      rw [pageCtlAccess_admitted hp h, ht]
    refine ⟨fun hst hwas habsent hen hez => hrun ?_, fun hst hwas habsent hen hez => hrun ?_,
      fun hst habsent => hrun (pageCtlNext_absent hst habsent), fun hst hwas hen => hrun (pageCtlNext_disable hst hwas hen),
      fun hst hwas hen => hrun ((pageCtlNext_heldOff hst hwas hen).trans (pageHeldOff_eq _ p)),
      fun hst hwas hen hez => hrun (pageCtlNext_ease hst hwas hen hez),
      fun hst hwas hen hez => hrun (pageCtlNext_goOn (.inl hst) hwas hen hez),
      fun hst hwas hen hez hrel => hrun (pageCtlNext_goOn (.inr ⟨hst, hrel⟩) hwas hen hez)⟩
    · exact (pageCtlNext_enable hst hwas habsent hen).trans (if_neg (by rw [hez]; decide))
    · exact (pageCtlNext_enable hst hwas habsent hen).trans (if_pos hez)
  · show execDisableComplete slot s = _
    simp [execDisableComplete, hp, hlive, hwork, hdis]
  · show execHoldReached dom s = _
    simp [execHoldReached, hlive, hfree]

end Sys2Proof.Machine
end

section
/-! PROOFS. The commands of buffer memory and its DRAM. -/

namespace Sys2Proof.Machine

open Sys2Proof

/-- An engine's read beyond USABLE answers as many bytes as it asked for and leaves the stores. -/
theorem beyondRead_engine {s : State} {c : Consumer} (hc : c ≠ .core) (n : Nat) :
    StoresKept s (beyondRead s c n) ∧ (beyondRead s c n).answer.status = 0 ∧
      (beyondRead s c n).answer.data.length = n := by
  rw [beyondRead, if_neg hc]
  exact ⟨⟨fun _ => rfl, rfl, rfl, rfl, rfl, rfl, rfl⟩, rfl, by simp⟩

/-- Settles O15: each command, run in the state its clause names. -/
theorem bufferCommands : Obligations.BufferCommands := by
  intro s c addr len soft bytes poison q w ch
  dsimp only
  refine ⟨fun h => ⟨fun hpoison hc => ?_, fun hclean => ?_⟩, fun h => ⟨fun hc => ?_, fun hc => ?_⟩,
    fun h => exec_bufferWrite_usable poison h, fun h => ?_, fun m ms hm => ?_, fun h hflush => ?_,
    fun e hscrub hrun hlive htop => ⟨fun hg => ?_, fun hg => ?_⟩, rfl, fun bucket hbucket => ?_,
    fun h harm => ?_, fun h hgo hbusy hen => ?_, fun fail hbusy => ?_, fun ok => rfl, fun ok hch => ?_, fun rate => rfl⟩
  · show execBufferRead c addr len soft s = _
    rw [execBufferRead, if_neg (by omega)]
    subst hc
    simp [hpoison]
  · show execBufferRead c addr len soft s = _
    rw [execBufferRead, if_neg (by omega)]
    obtain hclean | hc := hclean
    · simp [hclean]
    · simp [hc]
  · show execBufferRead c addr len soft s = _
    rw [execBufferRead, if_pos h, beyondRead, if_pos hc]
  · refine ⟨beyondRead s c len, ?_, beyondRead_engine hc len⟩
    show execBufferRead c addr len soft s = _
    rw [execBufferRead, if_pos h]
  · show execBufferWrite addr bytes poison s = _
    rw [execBufferWrite, if_pos h]
  · show execMergeFlushTimeout s = _
    rw [execMergeFlushTimeout, hm]
  · show execMergeFlush q w s = _
    rw [execMergeFlush, guarded_admitted h, mergeCtlWrite, if_pos hflush]
  · show execScrubStep e s = _
    have hgo : ¬usableBytes s / 32 ≤ s.get DMC.SCRUB_POS.GRANULE + 1 := by omega
    simp [execScrubStep, hscrub, hrun, hlive, htop, hgo]
  · show execScrubStep e s = _
    simp [execScrubStep, hscrub, hrun, hlive, htop, hg]
  · show execBucketLeak bucket s = _
    have hnot : bucket.val ≠ 2 := fun h => hbucket (Fin.ext h)
    rw [execBucketLeak, if_neg hnot]
  · show execDmcFlipArm q w s = _
    rw [execDmcFlipArm, guarded_admitted h, flipCtlWrite, if_pos harm]
  · show execBufferTestStart q w s = _
    rw [execBufferTestStart, guarded_admitted h]
    simp [testCtlWrite, hgo, hbusy, hen]
  · show execBufferTestComplete fail s = _
    rw [execBufferTestComplete, if_neg hbusy]
  · show execDramRetrain ch ok s = _
    simp [execDramRetrain, hch]

end Sys2Proof.Machine
end

section
/-! PROOFS. The commands of the L2 cache and the TCM. -/

namespace Sys2Proof.Machine

open Sys2Proof

/-- A write of MAINT_CMD that starts an operation (R442). -/
theorem l2MaintWrite_go {s : State} {q : Req} {w : Word} (hbusy : s.get L2C.MAINT_CMD.BUSY ≠ 1)
    (hgo : L2C.MAINT_CMD.GO.of w ≠ 0) : l2MaintWrite q w s =
      let u := plainWrite s q l2cPage 0x07C w
      let n := u.get L2C.MAINT_CMD.LINES
      let job := (u.get L2C.MAINT_CMD.OP, u.get L2C.MAINT_ADDR.ADDR, if n = 0 then 65536 else n)
      ({ u with l2 := { u.l2 with maint := some job } } : State).put L2C.MAINT_CMD.BUSY 1 := by
  simp [l2MaintWrite, hbusy, hgo]

/-- Settles O16: each command, run in the state its clause names. -/
theorem cacheCommands : Obligations.CacheCommands := by
  intro s addr len data pre l1 bad q w
  dsimp only
  refine ⟨fun h => ?_, fun h hlive hon => ⟨fun hmiss => ?_, fun k x hfind hline => ⟨fun hhit => ?_,
    fun hdata hbad hdirty hpre => ?_⟩⟩, fun h hon hdrain => ?_, fun h hbusy hgo hon => ?_, fun line n ways hjob => ?_,
    fun h hbusy hgo => ?_, fun op line n hjob => ?_, fun hdrain => ⟨fun hen => ?_, fun hen hst => ?_⟩⟩
  · show execL2Access addr len data pre l1 bad s = _
    rw [execL2Access, if_pos h]
  · show execL2Access addr len data pre l1 bad s = _
    simp [execL2Access, Nat.not_lt.2 h, hlive, hon, hmiss]
  · show execL2Access addr len data pre l1 bad s = _
    obtain hhit | hhit := hhit
    · have hnone : data.isNone = false := by cases data <;> simp_all
      simp [execL2Access, Nat.not_lt.2 h, hlive, hon, hfind, hline, hnone]
    · simp [execL2Access, Nat.not_lt.2 h, hlive, hon, hfind, hline, hhit]
  · show execL2Access addr len data pre l1 bad s = _
    simp [execL2Access, Nat.not_lt.2 h, hlive, hon, hfind, hline, hdata, hbad, hdirty, hpre]
  · show execL2Access addr len data pre l1 bad s = _
    simp [execL2Access, Nat.not_lt.2 h, hon, hdrain]
  · show execL2PreloadStart q w s = _
    rw [execL2PreloadStart, guarded_admitted h]
    simp [l2PreloadWrite, hbusy, hgo, hon]
  · show execL2PreloadComplete s = _
    simp [execL2PreloadComplete, hjob]
  · have hstart : guarded s q l2cPage 0x07C w (l2MaintWrite q w) = _ :=
      (guarded_admitted h w _).trans (l2MaintWrite_go (s := s.reply 0 []) hbusy hgo)
    exact ⟨congrArg _ hstart, congrArg _ hstart, congrArg _ hstart, congrArg _ hstart⟩
  · show execL2MaintComplete s = _
    simp [execL2MaintComplete, hjob]
  · show execL2DrainComplete s = _
    simp [execL2DrainComplete, hdrain, hen]
  · show execL2DrainComplete s = _
    simp [execL2DrainComplete, hdrain, hen, hst]

/-- Settles O17: each command, run in the state its clause names. -/
theorem tcmCommands : Obligations.TcmCommands := by
  intro s off n e q w
  dsimp only
  refine ⟨fun v => rfl, fun hclean => ?_, fun hpoison => ?_, fun h hbusy hgo => ?_, rfl, fun h harm => ?_⟩
  · show execTcmAccess off n none e s = _
    simp [execTcmAccess, hclean]
  · show execTcmAccess off n none e s = _
    simp [execTcmAccess, hpoison]
  · show execTcmClearStart q w s = _
    rw [execTcmClearStart, guarded_admitted h]
    simp [tcmClearWrite, hbusy, hgo]
  · show execTcmFlipArm q w s = _
    rw [execTcmFlipArm, guarded_admitted h, tcmFlipWrite, if_pos harm]

end Sys2Proof.Machine
end

section
/-! PROOFS. The commands of the Burez links and events, and of the stroke. -/

namespace Sys2Proof.Machine

open Sys2Proof

/-- Where a flit of an earlier class waits, it is no later flit's turn (R27). -/
theorem flitTurn_behind {s : State} {n : Nat} {toCox : Bool} {c : FlitClass} {f : Flit} (hf : f ∈ flitQueue s n toCox)
    (hrank : flitRank (flitClass f) < flitRank c) : flitTurn s n toCox c = false := by
  have hall : (flitQueue s n toCox).all (fun f => decide (flitRank c ≤ flitRank (flitClass f))) = false := by
    rw [List.all_eq_false]
    exact ⟨f, hf, by simpa using hrank⟩
  rw [flitTurn, hall]
  rfl

/-- Settles O18: each command, run in the state its clause names. -/
theorem linkAndEventCommands : Obligations.LinkAndEventCommands := by
  intro s link q w
  dsimp only
  refine ⟨fun toCox cls dom epoch hup htrain => ⟨fun hturn => ⟨?_, ?_⟩, fun f hf hrank => ?_⟩,
    fun htrain => ⟨fun hfew => ?_, fun hmany => ?_, ?_⟩, fun h => ⟨?_, ?_⟩, fun x hx => ?_,
    fun page p hp hlive hst => ?_⟩
  · show execFlitReceive link toCox true cls dom epoch s = _
    simp [execFlitReceive, hup, htrain, hturn]
  · show execFlitReceive link toCox false cls dom epoch s = _
    simp [execFlitReceive, hup, htrain, hturn]
  · show execFlitReceive link toCox true cls dom epoch s = _
    simp [execFlitReceive, flitTurn_behind hf hrank]
  · show execLinkTrainingFail link s = _
    simp [execLinkTrainingFail, htrain, Nat.not_le.2 hfew]
  · show execLinkTrainingFail link s = _
    simp only [execLinkTrainingFail, htrain, hmany, Bool.not_true, Bool.false_eq_true, if_false, if_true]
  · show execLinkTrainingComplete link s = _
    simp only [execLinkTrainingComplete, htrain, Bool.not_true, Bool.false_eq_true, if_false]
  · show execLinkEnable q w s = _
    rw [execLinkEnable, guarded_admitted h]
    rfl
  · show execLinkDisable q w s = _
    rw [execLinkDisable, guarded_admitted h]
    rfl
  · show execEventNotice s = _
    rw [execEventNotice, hx]
  · show execBlockFault page s = _
    simp [execBlockFault, hp, hlive, hst]

/-- The first token gives a timer its stroke number (R39). -/
theorem timerTakes_first {s : State} {d : Nat} (h : (s.timer d).stroke = none) (n : Nat) (skew : Int) :
    timerTakes s d n skew = (s.setTimer d { s.timer d with
      stroke := some ((n + 2 ^ 48 - 1) % 2 ^ 48), gotToken := true, adjust := 0 }).put (skewField d)
        (unsigned 8 (clampI (-128) 127 skew)) := by
  unfold timerTakes
  dsimp only
  rw [h]

/-- A later token realigns the timer, and is in time if its catch is still to come (R42). -/
theorem timerTakes_later {s : State} {d m : Nat} (h : (s.timer d).stroke = some m) (n : Nat) (skew : Int) :
    timerTakes s d n skew = (s.setTimer d { s.timer d with
      gotToken := (s.timer d).gotToken || (m + 1) % 2 ^ 48 = n, adjust := skew }).put (skewField d)
        (unsigned 8 (clampI (-128) 127 skew)) := by
  unfold timerTakes
  dsimp only
  rw [h]

/-- Settles O19: each command, run in the state its clause names. -/
theorem strokeCommands : Obligations.StrokeCommands := by
  intro s die skew
  dsimp only
  refine ⟨⟨fun hlive => ?_, fun hlive => ?_⟩, rfl, fun n htrain htoken => ⟨fun hfirst => ?_, fun m hm => ?_⟩,
    fun n hn => ⟨fun hcox => ?_, fun hoar => ?_⟩, fun kind inst tag head band low phase => rfl, fun kind inst x hx => ?_,
    fun hwinh hseen => ?_, fun hwinh hseen => ?_⟩
  · show execStrokeCatch s = _
    rw [execStrokeCatch, if_pos hlive]
  · show execStrokeCatch s = _
    rw [execStrokeCatch, if_neg (by rw [hlive]; decide)]
  · show execCatchTokenReceive die skew s = _
    unfold execCatchTokenReceive
    dsimp only
    rw [htrain, if_neg Bool.false_ne_true, htoken]
    dsimp only
    rw [timerTakes_first hfirst]
  · show execCatchTokenReceive die skew s = _
    unfold execCatchTokenReceive
    dsimp only
    rw [htrain, if_neg Bool.false_ne_true, htoken]
    dsimp only
    rw [timerTakes_later hm]
  · show execLocalCatch die s = _
    rw [execLocalCatch, hn]
    exact congrArg _ (if_pos hcox)
  · show execLocalCatch die s = _
    rw [execLocalCatch, hn]
    exact congrArg _ (if_neg hoar)
  · show execActionOverrun kind inst s = _
    rw [execActionOverrun, hx]
  · show execWinhAssert s = _
    simp [execWinhAssert, hwinh, hseen]
  · show execWinhRelease s = _
    simp [execWinhRelease, hwinh, hseen]

end Sys2Proof.Machine
end

section
/-! PROOFS. The commands of the formatter, the channel front end and detection. -/

namespace Sys2Proof.Machine

open Sys2Proof

/-- Settles O20: each command, run in the state its clause names. -/
theorem formatCommands : Obligations.FormatCommands := by
  intro s zone off head band slot q w racing
  dsimp only
  refine ⟨fun hrun hlive => ?_, fun hok hband => ⟨fun hkind x y hxy => ?_, fun hkind hroom => ?_⟩, fun hlock => ?_,
    fun hlock => ?_, fun h => ⟨fun hfree => ?_, fun hheld hzone hends => ?_⟩, fun h hscan => ?_, fun hbusy => ?_,
    fun h hgo => ⟨fun hok => ?_, fun hfails => ?_⟩⟩
  · show execFmtTranslate zone off s = _
    simp [execFmtTranslate, hrun, hlive]
  · show execSkipListAppend head band slot s = _
    have hin : ¬s.get FMT.BANDS_PER_RB.COUNT * 48 ≤ band := by omega
    simp only [execSkipListAppend, hok, hin, hkind, appendRemap, hxy, Bool.not_true, Bool.false_eq_true, if_false, if_true]
  · show execSkipListAppend head band slot s = _
    have hin : ¬s.get FMT.BANDS_PER_RB.COUNT * 48 ≤ band := by omega
    simp only [execSkipListAppend, hok, hin, hkind, appendSkip, Nat.not_lt.2 hroom, Bool.not_true, Bool.false_eq_true,
      if_false]
  · show execMwpUpdate zone off s = _
    simp [execMwpUpdate, updateMwp, hlock]
  · show execMwpUpdate zone off s = _
    simp [execMwpUpdate, updateMwp, hlock]
  · show execEntryLockAcquire q w s = _
    rw [execEntryLockAcquire, guarded_admitted h]
    simp [entryLockWrite, hfree]
  · show execEntryLockRelease q w s = _
    rw [execEntryLockRelease, guarded_admitted h]
    simp [entryLockWrite, hheld, hzone, hends]
  · show execMapScanStart q w s = _
    rw [execMapScanStart, guarded_admitted h]
    simp [fmtCtlWrite, hscan]
  · show execMapScanComplete racing s = _
    rw [execMapScanComplete, if_pos hbusy]
  · show execXlatTest q w s = _
    rw [execXlatTest, guarded_admitted h]
    simp only [xlatReqWrite, hgo, hok, if_true]
  · show execXlatTest q w s = _
    rw [execXlatTest, guarded_admitted h]
    simp only [xlatReqWrite, hgo, hfails, if_true, if_false]

/-- Pinning a listed entry of the expected generation, with a pin free or held, answers OK and pins it (R128). -/
theorem sbufPin_ok {l : Lane} {e gen : Nat} {chk : Bool} (he : e < 72) (hgen : chk = true → (l.entry e).gen = gen)
    (hroom : (l.entry e).pinned = true ∨ pinCount l < 8) :
    sbufPin l e gen chk = (0, l.setEntry e { l.entry e with fwPin := true }) := by
  have h1 : (chk && decide ((l.entry e).gen ≠ gen)) = false := by
    cases chk
    · rfl
    · simp [hgen rfl]
  have h2 : (!(l.entry e).pinned && decide (8 ≤ pinCount l)) = false := by
    obtain hpinned | hfree := hroom
    · simp [hpinned]
    · simp [Nat.not_le.2 hfree]
  rw [sbufPin, if_neg (Nat.not_le.2 he)]
  dsimp only
  rw [if_neg (by simp only [h1, Bool.false_eq_true, not_false_eq_true]),
    if_neg (by simp only [h2, Bool.false_eq_true, not_false_eq_true])]

/-- Settles O21: each command, run in the state its clause names. -/
theorem frontEndCommands : Obligations.FrontEndCommands := by
  intro s q lane w
  dsimp only
  refine ⟨fun f hmay => ⟨fun hstop => ?_, fun hstop => ?_⟩, fun x t hlaunch hpre => ⟨fun hplain => ?_, fun g hg => ?_⟩,
    fun h => ⟨fun hop he hgen hroom => ?_, fun hop he hpin => ?_, fun hop => ?_⟩, fun h => ?_⟩
  · show execFrameRead lane f s = _
    simp [execFrameRead, hmay, hstop]
  · show execFrameRead lane f s = _
    simp [execFrameRead, hmay, hstop]
  · show execReadGateOpen lane s = _
    simp only [execReadGateOpen, hlaunch, hpre, hplain, Bool.not_true, Bool.false_eq_true, if_false]
  · show execReadGateOpen lane s = _
    simp only [execReadGateOpen, hlaunch, hpre, hg, Bool.not_true, Bool.false_eq_true, if_false]
  · show execSbufPin q lane w s = _
    rw [execSbufPin, guarded_admitted h]
    simp only [sbufCmdWrite, hop, if_true, State.lane_reply]
    rw [sbufPin_ok he (by simpa using hgen) hroom]
    rfl
  · rw [exec_sbufUnpin_admitted h hop, sbufUnpin_eq, if_neg (by omega), Lane.releaseFwPin, hpin]
    rfl
  · exact exec_sbufUnpinAll_admitted h hop
  · show execSbufDataRead q lane s = _
    rw [execSbufDataRead, guardedRead_served h]

/-- The state in which a firmware replay of sector buffer `d` reads its entry: an entry that was never filled holds
free values (R134). -/
def replaySource (d : Nat) (s : State) : State :=
  let e := s.get LDP.RP_DESC0.ENTRY d
  let m := laneNo d (s.get LDP.RP_DESC0.LANE d)
  if e ≤ 71 && ((s.lane m).entry e).age = 0 then unknownEntry s m e else s

/-- The entry a firmware replay names, as it reads it. -/
def replayEntry (d : Nat) (s : State) : Entry :=
  ((replaySource d s).lane (laneNo d (s.get LDP.RP_DESC0.LANE d))).entry (s.get LDP.RP_DESC0.ENTRY d)

theorem get_unknownEntry (s : State) (n e : Nat) (f : Fld) (i k : Nat) :
    (unknownEntry s n e).get f i k = s.get f i k := by
  simp only [unknownEntry, State.get, State.setLane]

theorem get_replaySource (d : Nat) (s : State) (f : Fld) (i k : Nat) : (replaySource d s).get f i k = s.get f i k := by
  unfold replaySource
  dsimp only
  split
  · exact get_unknownEntry ..
  · rfl

/-- A replay that is started, and none runs, ends at once with its status or runs (R134). -/
theorem rpCmdWrite_go {s : State} {d : Nat} {w : Word} (hgo : LDP.RP_CMD.GO.of w = 1)
    (hbusy : s.get LDP.RP_CMD.BUSY d ≠ 1) :
    rpCmdWrite d w s =
      if 71 < s.get LDP.RP_DESC0.ENTRY d then fwReplayEnd (replaySource d s) d 9
      else if s.get LDP.RP_DESC0.GEN_CHK d = 1 && (replayEntry d s).gen ≠ s.get LDP.RP_DESC0.GEN d then
        fwReplayEnd (replaySource d s) d 8
      else if metaSrc (replayEntry d s).words = 3 || !ldpStarts (replaySource d s) d then
        fwReplayEnd (replaySource d s) d 5
      else ((replaySource d s).setLdp d
        { (replaySource d s).ldp d with fw := some (fwCodeword (replaySource d s) d) }).put LDP.RP_CMD.BUSY 1 d := by
  have hfree : ¬(LDP.RP_CMD.GO.of w = 0 || s.get LDP.RP_CMD.BUSY d = 1) = true := by simp [hgo, hbusy]
  rw [← get_replaySource d s LDP.RP_DESC0.GEN_CHK, ← get_replaySource d s LDP.RP_DESC0.GEN]
  exact if_neg hfree

/-- A firmware replay's command, admitted while none runs. -/
theorem exec_fwReplayStart_go {s : State} {q : Req} {ldp : Fin 2} {w : Word} (h : Admits s q (ldpPage ldp.val) 0x07C)
    (hgo : LDP.RP_CMD.GO.of w = 1) (hbusy : s.get LDP.RP_CMD.BUSY ldp.val ≠ 1) :
    exec (.fwReplayStart q ldp w) s =
      let d := ldp.val
      let t := replaySource d (s.reply 0 [])
      let x := replayEntry d (s.reply 0 [])
      .next (if 71 < s.get LDP.RP_DESC0.ENTRY d then fwReplayEnd t d 9
        else if s.get LDP.RP_DESC0.GEN_CHK d = 1 && x.gen ≠ s.get LDP.RP_DESC0.GEN d then fwReplayEnd t d 8
        else if metaSrc x.words = 3 || !ldpStarts t d then fwReplayEnd t d 5
        else (t.setLdp d { t.ldp d with fw := some (fwCodeword t d) }).put LDP.RP_CMD.BUSY 1 d) := by
  show execFwReplayStart q ldp w s = _
  rw [execFwReplayStart, guarded_admitted h]
  exact congrArg Host.Outcome.next (rpCmdWrite_go (s := s.reply 0 []) hgo hbusy)

/-- A decoding core whose parity fails is disabled and its codeword restarts; without a core the page faults (R160). -/
theorem exec_coreParityFault (ldp : Fin 2) (core : Fin 6) (aged : Nat) (s : State) :
    exec (.coreParityFault ldp core aged) s = .next (
      let n := ldp.val
      let l := s.ldp n
      let en := setBit (s.get LDP.CORE_EN.EN n) core.val false
      let t := s.setLdp n { l with
        cores := sset none l.cores core.val none, restarts := l.restarts ++ (sget none l.cores core.val).toList }
      let t := (t.put LDP.CORE_EN.EN en n).bump LDP.CORE_ERR.PARITY_CNT 1 n
      let t := t.put LDP.LDP_STAT.CORE_FAULT (setBit (t.get LDP.LDP_STAT.CORE_FAULT n) core.val true) n
      if en = 0 then pageFault t (ldpPage n) 7 3 else dispatch (raise t (ldpPage n) 7 1) n aged) := by
  show execCoreParityFault ldp core aged s = _
  have hrestarts : (match sget none (s.ldp ldp.val).cores core.val with
      | some c => (s.ldp ldp.val).restarts ++ [c] | none => (s.ldp ldp.val).restarts) =
      (s.ldp ldp.val).restarts ++ (sget none (s.ldp ldp.val).cores core.val).toList := by
    cases sget none (s.ldp ldp.val).cores core.val with
    | none => exact (List.append_nil _).symm
    | some c => rfl
  dsimp only
  rw [← hrestarts]
  rfl

/-- Settles O23: each command, run in the state its clause names. -/
theorem detectionCommands : Obligations.DetectionCommands := by
  intro s ldp aged q w
  dsimp only
  refine ⟨fun lane p rest hpass => ?_, fun core c hc => ?_, fun det c hc => ⟨fun hback => ?_, fun hback => ?_⟩,
    fun c hc => ?_, fun core => ⟨fun hen => ?_, fun hen => ?_⟩, fun h => ?_, fun h => ?_, fun h hgo => ?_,
    fun h hgo hbusy => ⟨fun he => ?_, fun he hchk hgen => ?_, fun he hgen hsrc hstarts => ?_⟩,
    fun c hc => ⟨fun haddr => ?_, fun haddr => ?_⟩⟩
  · show execDetectionComplete ldp lane aged s = _
    simp only [execDetectionComplete, hpass]
  · show execDecodeComplete ldp core aged s = _
    simp only [execDecodeComplete, hc]
  · show execReplayPassComplete ldp det aged s = _
    simp only [execReplayPassComplete, hc, hback, if_true]
  · show execReplayPassComplete ldp det aged s = _
    simp only [execReplayPassComplete, hc, hback, Bool.false_eq_true, if_false]
  · show execSectorAbortEnd ldp aged s = _
    simp only [execSectorAbortEnd, hc]
  · rw [exec_coreParityFault]
    exact congrArg Host.Outcome.next (if_pos hen)
  · rw [exec_coreParityFault]
    exact congrArg Host.Outcome.next (if_neg hen)
  · show execLdpCoefDataAccess q ldp (some w) s = _
    rw [execLdpCoefDataAccess, guarded_admitted h]
  · show execLdpCoefDataAccess q ldp none s = _
    rw [execLdpCoefDataAccess, guardedRead_served h]
    rfl
  · show execLdpCoefCommit q ldp w s = _
    rw [execLdpCoefCommit, guarded_admitted h, ldpCommitWrite, if_pos hgo]
    rfl
  · rw [exec_fwReplayStart_go h hgo hbusy]
    exact congrArg Host.Outcome.next (if_pos he)
  · rw [exec_fwReplayStart_go h hgo hbusy]
    have hcheck : (s.get LDP.RP_DESC0.GEN_CHK ldp.val = 1 &&
        (replayEntry ldp.val (s.reply 0 [])).gen ≠ s.get LDP.RP_DESC0.GEN ldp.val) = true := by
      simp only [hchk, decide_true, Bool.true_and, decide_eq_true_eq]
      exact hgen
    dsimp only
    rw [if_neg (Nat.not_lt.2 he), if_pos hcheck]
    rfl
  · rw [exec_fwReplayStart_go h hgo hbusy]
    have hcheck : ¬(s.get LDP.RP_DESC0.GEN_CHK ldp.val = 1 &&
        (replayEntry ldp.val (s.reply 0 [])).gen ≠ s.get LDP.RP_DESC0.GEN ldp.val) = true := by
      simp only [Bool.and_eq_true, decide_eq_true_eq, not_and, Classical.not_not]
      exact hgen
    have hread : ¬(metaSrc (replayEntry ldp.val (s.reply 0 [])).words = 3 ||
        !ldpStarts (replaySource ldp.val (s.reply 0 [])) ldp.val) = true := by
      simp only [Bool.or_eq_true, decide_eq_true_eq, Bool.not_eq_true', not_or, Bool.not_eq_false]
      exact ⟨hsrc, hstarts⟩
    dsimp only
    rw [if_neg (Nat.not_lt.2 he), if_neg hcheck, if_neg hread]
    rfl
  · show execFwReplayComplete ldp s = _
    simp only [execFwReplayComplete, hc, haddr, if_true]
  · show execFwReplayComplete ldp s = _
    simp only [execFwReplayComplete, hc, haddr, if_false]

end Sys2Proof.Machine
end

section
/-! PROOFS. The commands of the write gates and of the assist. -/

namespace Sys2Proof.Machine

open Sys2Proof

/-- Settles O24: each command, run in the state its clause names. -/
theorem writeGateCommands : Obligations.WriteGateCommands := by
  intro s ast head lane q w rwo
  dsimp only
  refine ⟨fun x t tg htake htag hst hwrites hjob hholds hrefusal hpreamp hpower => ?_, fun j hj hgate => ?_,
    fun j hj hvalid hwithin => ?_, fun h => ⟨fun hold hnew => ?_, fun hold hnew => ?_⟩,
    fun r hr => ⟨fun j hj => ⟨fun htrial => ?_, fun htrial => ?_⟩, fun hj => ?_⟩⟩
  · show execWriteGateOpen lane rwo s = _
    have hpermit : ¬(fullPower s (lane.val / 2) x.head (psaBand s (s.tag lane.val tg).psa) &&
        !bit ((if (s.tag lane.val tg).fullAssist then takeAssistPermit t lane.val tg else t).get
          SCH.PERMIT_STAT.ASSIST) lane.val) = true := by
      simpa using hpower
    have hopen : ¬(decide ((s.tag lane.val tg).st ≠ .taken) || !(s.tag lane.val tg).writes ||
        ((s.lane lane.val).job tg).isSome) = true := by
      simp [hst, hwrites, hjob]
    unfold execWriteGateOpen
    dsimp only
    rw [htake]
    dsimp only
    rw [htag]
    dsimp only
    rw [if_neg hopen, hholds, if_neg Bool.false_ne_true, hrefusal, if_neg (by simp), hpreamp, if_neg (by simp),
      if_neg hpermit]
  · show execWriteWedgeCross lane s = _
    simp only [execWriteWedgeCross, hj, hgate, Bool.not_true, Bool.false_eq_true, if_false]
    rfl
  · show execPesInhibitCheck ast head s = _
    have hhead : headJob s ast.val head.val = some j := hj
    unfold execPesInhibitCheck
    dsimp only
    rw [hhead]
    dsimp only
    rw [if_neg (by simp [hvalid, hwithin])]
    rfl
  · show execForceInhibitSet q ast w s = _
    rw [execForceInhibitSet, guarded_admitted h]
    exact congrArg Host.Outcome.next (if_pos (by simpa [hold] using hnew))
  · show execForceInhibitClear q ast w s = _
    rw [execForceInhibitClear, guarded_admitted h]
    exact congrArg Host.Outcome.next ((if_neg (by simp [hold])).trans (if_pos (by simpa [hold] using hnew)))
  · show execVerifyResult lane s = _
    simp only [execVerifyResult, hr, hj, htrial, if_true]
  · show execVerifyResult lane s = _
    simp only [execVerifyResult, hr, hj, htrial, Bool.false_eq_true, if_false]
  · show execVerifyResult lane s = _
    simp only [execVerifyResult, hr, hj]

/-- Settles O25: each command, run in the state its clause names. -/
theorem assistCommands : Obligations.AssistCommands := by
  intro s ast head q w
  dsimp only
  refine ⟨fun l t htake hfault hkind hrun => ⟨fun hfits => ?_, fun hfits => ?_⟩, fun hcfg hon hidle => ?_,
    ⟨fun h hgo => ?_, fun htrain => ?_, fun htrain => ⟨fun hup hwork hlive => ?_, fun hup => ?_⟩⟩,
    fun f rd hf hwork hlive hback => ?_, fun codes hwork hlive hframes => ?_, fun h hbusy hgo hmay => ?_,
    fun hline hlive hpre => ?_, fun st hline => ?_, ⟨fun hl => ?_, fun hl => ?_⟩, fun h => ?_, fun h => ?_⟩
  · show execAssistArm ast s = _
    simp only [execAssistArm, htake, hfault, hkind, hrun, hfits, Bool.false_or, decide_false, Bool.not_true,
      Bool.false_eq_true, if_false]
  · show execAssistArm ast s = _
    simp only [execAssistArm, htake, hfault, hkind, hrun, hfits, Bool.false_or, decide_false, Bool.not_true,
      Bool.not_false, Bool.false_eq_true, if_false, if_true]
  · show execAssistIdleOff ast head s = _
    simp [execAssistIdleOff, hcfg, hon, hidle]
  · show execTrimStepRequest q ast w false s = _
    simp only [execTrimStepRequest, Bool.false_eq_true, if_false, guarded_admitted h, trimWrite, hgo, if_true]
  · show execTrimStepRequest q ast w true s = _
    simp only [execTrimStepRequest, if_true, calTrim, htrain]
  · show execTrimStepRequest q ast w true s = _
    simp only [execTrimStepRequest, if_true, calTrim, htrain, hup, hwork, hlive, Bool.false_eq_true, if_false,
      Bool.and_true]
  · show execTrimStepRequest q ast w true s = _
    simp only [execTrimStepRequest, if_true, calTrim, htrain, hup, Bool.false_and, Bool.false_eq_true, if_false]
  · show execPbusFrameSend ast rd s = _
    have hturn : (working s (astPage ast.val) && preampLive s ast.val &&
        !(decide (f.kind = .firmware) && readbackDue s ast.val)) = true := by
      by_cases hkind : f.kind = .firmware
      · simp [hwork, hlive, hback hkind]
      · simp [hwork, hlive, hkind]
    simp only [execPbusFrameSend, hf, hturn, if_true]
  · show execPbusReadback ast codes s = _
    have hlow : ((s.ast ast.val).frames.any fun f => f.kind.rank < FrameKind.firmware.rank) = false := by
      rw [List.any_eq_false]
      intro f hf
      rw [hframes f hf]
      decide
    simp only [execPbusReadback, hwork, hlive, hlow, Bool.not_true, Bool.or_self, Bool.false_eq_true, if_false]
  · show execPbusCmdSend q ast w s = _
    rw [execPbusCmdSend, guarded_admitted h]
    unfold pbusCmdWrite
    dsimp only
    rw [if_neg (by simpa [hgo] using hbusy), if_neg ?_]
    obtain hread | hoff := hmay
    · simp [hread]
    · simpa using fun _ => hoff
  · show execPreampFaultAssert ast s = _
    simp only [execPreampFaultAssert, hline, hlive, hpre, decide_false, Bool.not_true, Bool.or_self,
      Bool.false_eq_true, if_false]
  · show execPreampStatusRead ast st s = _
    simp only [execPreampStatusRead, hline, decide_false, Bool.false_and, Bool.false_eq_true, if_false]
  · show execPreampFaultDeassert ast s = _
    exact congrArg Host.Outcome.next (if_pos hl)
  · show execPreampFaultDeassert ast s = _
    exact congrArg Host.Outcome.next (if_neg (show ¬(s.ast ast.val).lineFault = true by rw [hl]; decide))
  · show execAstHeadDataAccess q ast (some w) s = _
    rw [execAstHeadDataAccess, guarded_admitted h]
    rfl
  · show execAstHeadDataAccess q ast none s = _
    rw [execAstHeadDataAccess, guardedRead_served h]
    rfl

end Sys2Proof.Machine
end

section
/-! PROOFS. The commands of the servo: its control, its coefficients and seeks, and its coils. -/

namespace Sys2Proof.Machine

open Sys2Proof

/-- A servo sample runs in the state its launch, if one is due, leaves (R196). -/
theorem exec_servoSample (srv : Fin 4) (wedges : List WedgeIn) (s : State) :
    exec (.servoSample srv wedges) s = .next (
      let a := srv.val
      let st := srvState s a
      let t := ((takeLaunch s .servoSample a (a / 2 + 1)).map (·.2)).getD s
      if !locked t || !working t (srvPage a) || !domainLive t (srvPage a).domain then t
      else if st = svParked || st = svLost then t
      else if st = svLoading || st = svAcquire then
        match wedges with
        | x :: _ => acquireWedge t.drawn a (strokeAt s (a / 2 + 1)) x t.free
        | [] => sendCommand (setSrvState t a svAcquire) a (t.srv a).coil []
      else loopSample t a (strokeAt s (a / 2 + 1)) wedges) := by
  show execServoSample srv wedges s = _
  unfold execServoSample
  dsimp only
  cases takeLaunch s .servoSample srv.val (srv.val / 2 + 1) <;> rfl

/-- A sample of a locked, live and working servo that is loading or acquiring acquires (R196). -/
theorem exec_servoSample_acquires {srv : Fin 4} {wedges : List WedgeIn} {s : State} :
    let a := srv.val
    let t := ((takeLaunch s .servoSample a (a / 2 + 1)).map (·.2)).getD s
    locked t = true → working t (srvPage a) = true → domainLive t (srvPage a).domain = true →
    srvState s a = svLoading ∨ srvState s a = svAcquire →
    exec (.servoSample srv wedges) s = .next (match wedges with
      | x :: _ => acquireWedge t.drawn a (strokeAt s (a / 2 + 1)) x t.free
      | [] => sendCommand (setSrvState t a svAcquire) a (t.srv a).coil []) := by
  intro a t hlock hwork hlive hst
  have hon : ¬(srvState s a = svParked || srvState s a = svLost) = true := by
    obtain h | h := hst <;> rw [h] <;> decide
  rw [exec_servoSample]
  dsimp only
  rw [if_neg (by simp only [t, a] at hlock hwork hlive; simp [hlock, hwork, hlive]), if_neg hon, if_pos (by simpa using hst)]

/-- A write of SRV_CTL while the servo follows or is in MANUAL: BANK keeps its value, PAIR_EN 0 parts the pair, and AUTO
hands the coil over or takes it back (R198). -/
theorem srvCtlWrite_atRest {s : State} {q : Req} {a : Nat} {w : Word}
    (hst : srvState s a = svFollow ∨ srvState s a = svManual) :
    srvCtlWrite q a w s =
      let t := plainWrite s q (srvPage a) 0x040 w
      let t := if t.get SRV.SRV_CTL.PAIR_EN a = 0 then partPair t a else t
      let t := t.put SRV.SRV_CTL.BANK (s.get SRV.SRV_CTL.BANK a) a
      if s.get SRV.SRV_CTL.AUTO a = 1 && t.get SRV.SRV_CTL.AUTO a = 0 && srvState s a = svFollow then
        setSrvState (t.put SRV.MAN_CMD.CURRENT (unsigned 16 (t.srv a).coil) a) a svManual
      else if s.get SRV.SRV_CTL.AUTO a = 0 && t.get SRV.SRV_CTL.AUTO a = 1 && srvState s a = svManual then
        enterSettle (t.setSrv a { t.srv a with
          target := (t.srv a).active.foldl (fun m h => sset 0 m h (t.get SRV.POS.POS a h)) (t.srv a).target
          ufb := (t.srv a).coil * 2 ^ 13 }) a
      else t := by
  have hon : srvState s a ≠ svParked := by obtain h | h := hst <;> rw [h] <;> decide
  have hstill : ¬(srvState s a = svSeek || srvState s a = svSettle) = true := by
    obtain h | h := hst <;> rw [h] <;> decide
  unfold srvCtlWrite
  dsimp only
  rw [if_neg hon, if_neg hstill]

/-- Settles O26: each command, run in the state its clause names. -/
theorem servoCommands : Obligations.ServoCommands := by
  intro s srv q w
  dsimp only
  refine ⟨fun wedges hlock hwork hlive => ⟨fun hst => ⟨fun x xs hx => ?_, fun hnone => ?_⟩, fun h1 h2 h3 h4 => ?_⟩,
    fun hwork => ?_, fun notch code hadapt hwork hage => ⟨fun hmoved => ?_, fun hmoved => ?_⟩,
    fun j c k hdue => ⟨fun h1 h2 => ?_, fun h => ?_⟩, fun hlive => ⟨?_, ?_⟩, fun hdis hseek hdrain => ?_,
    fun k hk hcom hstart => ?_, fun x t hdis hseeks htake hlock => ?_,
    fun h => ⟨fun hst hold hnew => ?_, fun hst hold hnew => ?_⟩,
    fun h => ⟨fun hstop hgo => ?_, fun k hstop hgo hlaunch => ?_⟩, fun x hx => ?_,
    fun h => ⟨fun hstop hgo => ?_, fun k hstop hgo hlaunch => ?_⟩, fun h hbusy => ?_⟩
  · rw [exec_servoSample_acquires hlock hwork hlive hst, hx]
  · rw [exec_servoSample_acquires hlock hwork hlive hst, hnone]
  · rw [exec_servoSample]
    dsimp only
    rw [hlock, hwork, hlive, if_neg (by decide), if_neg (by simp [h3, h4]), if_neg (by simp [h1, h2])]
  · show execControlOverrun srv s = _
    simp only [execControlOverrun, hwork, Bool.not_true, Bool.false_eq_true, if_false]
  · show execNotchEstimate srv notch code s = _
    unfold execNotchEstimate
    dsimp only
    rw [hadapt, hwork, if_neg (by simp [Nat.not_lt.2 hage]), if_pos (decide_eq_true hmoved)]
  · show execNotchEstimate srv notch code s = _
    unfold execNotchEstimate
    dsimp only
    rw [hadapt, hwork, if_neg (by simp [Nat.not_lt.2 hage]), if_neg (by simpa using hmoved)]
  · show execNotchWrite srv s = _
    simp only [execNotchWrite, hdue, h1, h2, decide_false, Bool.or_self, Bool.false_eq_true, if_false]
  · show execNotchWrite srv s = _
    have hsame : (decide ((s.srv srv.val).commit = some k) || decide ((s.srv srv.val).exchanged = some k)) = true := by
      simpa using h
    simp only [execNotchWrite, hdue, hsame, if_true]
  · show execSrvParityFault srv true s = _
    simp only [execSrvParityFault, hlive, Bool.not_true, Bool.false_eq_true, if_false, if_true]
  · show execSrvParityFault srv false s = _
    simp only [execSrvParityFault, hlive, Bool.not_true, Bool.false_eq_true, if_false, srvFault]
  · show execHeadUnload srv s = _
    have hall : ((lanesOf srv.val).all fun n => (openTags s n).isEmpty) = true := by
      simpa using hdrain
    simp only [execHeadUnload, hdis, hseek, hall, Bool.not_false, Bool.and_self, if_true]
  · show execHeadUnload srv s = _
    have hseek : seekCommitted s srv.val = true := List.any_eq_true.2 ⟨k, hk, hcom⟩
    have hwait : ((s.srv srv.val).seeks.any fun k => k.committed && !k.started) = true :=
      List.any_eq_true.2 ⟨k, hk, by simp [hcom, hstart]⟩
    simp only [execHeadUnload, hseek, hwait, Bool.not_true, Bool.and_false, Bool.false_and, Bool.false_eq_true,
      if_false, if_true]
  · show execHeadUnload srv s = _
    have hwait : ((s.srv srv.val).seeks.any fun k => k.committed && !k.started) = false := by
      rw [List.any_eq_false]
      intro k hk
      simpa using hseeks k hk
    simp only [execHeadUnload, hdis, hwait, htake, hlock, Bool.false_and, Bool.false_eq_true, if_false, if_true]
  · show execAutoClear q srv w s = _
    rw [execAutoClear, guarded_admitted h, srvCtlWrite_atRest (s := s.reply 0 []) (.inl hst)]
    exact congrArg Host.Outcome.next (if_pos
      (Bool.and_eq_true_iff.2 ⟨Bool.and_eq_true_iff.2 ⟨decide_eq_true hold, decide_eq_true hnew⟩, decide_eq_true hst⟩))
  · show execAutoSet q srv w s = _
    rw [execAutoSet, guarded_admitted h, srvCtlWrite_atRest (s := s.reply 0 []) (.inr hst)]
    exact congrArg Host.Outcome.next ((if_neg (by simp [hold])).trans (if_pos
      (Bool.and_eq_true_iff.2 ⟨Bool.and_eq_true_iff.2 ⟨decide_eq_true hold, decide_eq_true hnew⟩, decide_eq_true hst⟩)))
  · show execInjectionStop q srv w s = _
    rw [execInjectionStop, guarded_admitted h]
    simp only [injCtlWrite, hstop, hgo, if_true]
  · show execInjectionStart q srv w s = _
    rw [execInjectionStart, guarded_admitted h]
    simp only [injCtlWrite, hstop, hgo, if_false, hlaunch]
  · show execInjectionEnd srv s = _
    simp only [execInjectionEnd, hx]
  · show execCaptureStop q srv w s = _
    rw [execCaptureStop, guarded_admitted h]
    simp only [capCtlWrite, hstop, hgo, if_true]
  · show execCaptureStart q srv w s = _
    rw [execCaptureStart, guarded_admitted h]
    simp only [capCtlWrite, hstop, hgo, if_false, hlaunch]
  · show execCapDataRead q srv s = _
    rw [execCapDataRead, guardedRead_served h]
    simp only [capRead, hbusy, if_false]

/-- A forwarded intent becomes a template of its running servo unless it is late or no room is left (R206). -/
theorem exec_regattaIntentApply_runs {s : State} {srv : Fin 4} {e : Nat × Intent}
    (he : s.rgt.forward.find? (·.1 = srv.val) = some e) (hrun : running s (srvPage srv.val) = true) :
    exec (.regattaIntentApply srv) s = .next (
      let a := srv.val
      let t : State := { s with rgt := { s.rgt with forward := s.rgt.forward.erase e } }
      let live := liveTemplates (s.srv a) (strokeAt s (a / 2 + 1))
      if 8 ≤ live.length || decide (e.2.stroke < strokeAt s (a / 2 + 1)) then t.bump SRV.LOOP_ERR.FF_DROP 1 a
      else t.setSrv a { s.srv a with templates := live ++ [⟨e.2.template, e.2.neg, e.2.stroke⟩] }) := by
  have hon : ¬(!running s (srvPage srv.val)) = true := by rw [hrun]; decide
  show execRegattaIntentApply srv s = _
  unfold execRegattaIntentApply
  dsimp only
  rw [he]
  exact congrArg Host.Outcome.next (if_neg hon)

/-- Settles O27: each command, run in the state its clause names. -/
theorem seekCommands : Obligations.SeekCommands := by
  intro s srv q w
  dsimp only
  refine ⟨fun h => ?_, fun h => ?_, fun h hgo hfree k hlaunch => ?_, fun h hgo => ?_, fun k hk hlate => ?_,
    fun k hk hdue => ⟨fun htag => ?_, fun n j htag => ?_⟩, fun e he hrun => ⟨fun hroom htime => ?_, fun hdrop => ?_⟩⟩
  · show execSrvCoefDataAccess q srv (some w) s = _
    rw [execSrvCoefDataAccess, guarded_admitted h]
  · show execSrvCoefDataAccess q srv none s = _
    rw [execSrvCoefDataAccess, guardedRead_served h]
    rfl
  · show execSrvCoefCommit q srv w s = _
    rw [execSrvCoefCommit, guarded_admitted h]
    unfold srvCommitWrite
    dsimp only
    have hnone : ((s.reply 0 []).srv srv.val).commit = none := hfree
    rw [hnone, if_neg (by simp), if_neg (by simp [hgo]), hlaunch]
  · show execSeekLaunch q srv w s = _
    rw [execSeekLaunch, guarded_admitted h]
    simp only [seekReqWrite, hgo, if_false]
  · show execSeekCommit srv s = _
    simp only [execSeekCommit, hk, hlate, if_true]
  · show execSeekCommit srv s = _
    simp only [execSeekCommit, hk, hdue, Nat.lt_irrefl, if_false, htag]
  · show execSeekCommit srv s = _
    simp only [execSeekCommit, hk, hdue, Nat.lt_irrefl, if_false, htag]
  · have hkeep : ¬(decide (8 ≤ (liveTemplates (s.srv srv.val) (strokeAt s (srv.val / 2 + 1))).length) ||
        decide (e.2.stroke < strokeAt s (srv.val / 2 + 1))) = true := by
      simpa using ⟨hroom, htime⟩
    exact (exec_regattaIntentApply_runs he hrun).trans (congrArg Host.Outcome.next (if_neg hkeep))
  · have hdrop' : (decide (8 ≤ (liveTemplates (s.srv srv.val) (strokeAt s (srv.val / 2 + 1))).length) ||
        decide (e.2.stroke < strokeAt s (srv.val / 2 + 1))) = true := by
      simpa using hdrop
    exact (exec_regattaIntentApply_runs he hrun).trans (congrArg Host.Outcome.next (if_pos hdrop'))

/-- A live coil that is locked and has no command holds the last one and counts (R223). -/
theorem execVcmCommandApply_holds {s : State} {vcm : Fin 4} (hst : vcmState s vcm.val = 1)
    (hlive : domainLive s (vcmPage vcm.val).domain = true) (hlock : locked s = true)
    (hnone : (s.vcm vcm.val).next = none) :
    execVcmCommandApply vcm s = .next (
      let a := vcm.val
      let v := s.vcm a
      let t := (s.setVcm a { v with hold := v.hold + 1 }).bump VCM.VCM_CNT.HOLD_CNT 1 a
      let t := raiseIf (t.get VCM.VCM_CNT.HOLD_CNT a ≠ s.get VCM.VCM_CNT.HOLD_CNT a) t (vcmPage a) 4 7
      if v.loaded && decide (max 1 (t.get VCM.APPLY.HOLD_LIMIT a) ≤ v.hold + 1) then retract t a else t) := by
  unfold execVcmCommandApply
  dsimp only
  rw [if_neg (by simp [hst, hlive]), if_neg (by simp [hlock])]
  split
  · next u hu => exact absurd (hnone.symm.trans hu) (by simp)
  · rfl

theorem zero_and_one_not (n : Nat) : ¬(decide (n = 0) && decide (n = 1)) = true := by
  simp only [Bool.and_eq_true, decide_eq_true_eq]
  omega

theorem one_and_zero_not (n : Nat) : ¬(decide (n = 1) && decide (n = 0)) = true := by
  simp only [Bool.and_eq_true, decide_eq_true_eq]
  omega

theorem vcm_setVcm_same (s : State) (a : Nat) (v : Vcm) : (s.setVcm a v).vcm a = v := sget_sset_same ..

/-- What a write of VCM_CTL does, by the driver's enable before and after it (R232, R233). -/
theorem vcmCtlWrite_reply (q : Req) (a : Nat) (w : Word) (s : State) :
    vcmCtlWrite q a w (s.reply 0 []) =
      let old := s.get VCM.VCM_CTL.DRV_EN a
      let t := plainWrite (s.reply 0 []) q (vcmPage a) 0x040 w
      let new := t.get VCM.VCM_CTL.DRV_EN a
      let u := if old = 0 && new = 1 then
          let t' := t.setVcm a { t.vcm a with offAtPark := false }
          if vcmState t a = 0 && !(t'.vcm a).loaded then setVcmState t' a 3 else t'
        else if old = 1 && new = 0 then
          if vcmState t a = 1 || vcmState t a = 2 then retract (t.setVcm a { t.vcm a with offAtPark := true }) a
          else if vcmState t a = 3 then setVcmState t a 0 else t
        else t
      if VCM.VCM_CTL.RETRACT.of w = 1 then retract u a else u := rfl

theorem lanes_raise (s : State) (p : Page) (b level : Nat) : (raise s p b level).lanes = s.lanes := by
  unfold raise
  split
  · dsimp only
    split <;> rfl
  · rfl

/-- The write job over a head depends on the lanes alone. -/
theorem headJob_congr {s t : State} (h : t.lanes = s.lanes) (a hd : Nat) : headJob t a hd = headJob s a hd := by
  unfold headJob State.lane
  rw [h]

/-- A live microactuator driver's fault takes its command away and stops what its head does (R427). -/
theorem exec_macDriverFault_live {s : State} (head : Fin 32) (hlive : domainLive s macPage.domain = true) :
    exec (.macDriverFault head) s = .next (
      let t := s.put MAC.MAC_FAULT.FAULT (setBit (s.get MAC.MAC_FAULT.FAULT) head.val true)
      let t := raise { t with mac := { t.mac with cmd := sset 0 t.mac.cmd head.val 0 } } macPage 0 1
      let b := head.val / 8
      let h := head.val % 8
      headStopsFollowing (match headJob s b h with
        | some j => offTrack t b h j
        | none => t) b h) := by
  show execMacDriverFault head s = _
  rw [execMacDriverFault, if_pos hlive]
  dsimp only
  rw [headJob_congr (lanes_raise ..)]
  rfl

/-- Settles O28: each command, run in the state its clause names. -/
theorem coilCommands : Obligations.CoilCommands := by
  intro s vcm q w
  dsimp only
  refine ⟨fun hst hlive => ⟨fun hlock => ?_, fun hlock => ⟨fun u hu => ?_, fun hnone =>
      ⟨fun hload hlimit => ?_, fun hload => ?_⟩⟩⟩,
    fun x t reversed htake hlock haccel hbank hsrv hvcm hst hload => ?_, fun hst => ?_,
    fun h => ⟨fun hret hsame => ?_, fun hret => ⟨fun hold hnew hst hload => ?_, fun hold hnew =>
      ⟨fun hst => ?_, fun hst => ?_⟩⟩⟩,
    fun head hlive => ⟨fun hjob => ?_, fun j hjob => ?_⟩, fun lx ly rot hlive => ?_⟩
  · show execVcmCommandApply vcm s = _
    simp only [execVcmCommandApply, hst, hlive, hlock, ne_eq, not_true_eq_false, decide_false, Bool.not_true,
      Bool.not_false, Bool.or_self, Bool.false_eq_true, if_false, if_true]
  · show execVcmCommandApply vcm s = _
    simp only [execVcmCommandApply, hst, hlive, hlock, hu, ne_eq, not_true_eq_false, decide_false, Bool.not_true,
      Bool.or_self, Bool.false_eq_true, if_false]
  · show execVcmCommandApply vcm s = _
    rw [execVcmCommandApply_holds hst hlive hlock hnone]
    exact congrArg Host.Outcome.next (if_pos (Bool.and_eq_true_iff.2 ⟨hload, decide_eq_true hlimit⟩))
  · show execVcmCommandApply vcm s = _
    rw [execVcmCommandApply_holds hst hlive hlock hnone]
    exact congrArg Host.Outcome.next (if_neg (by rw [hload]; exact Bool.false_ne_true))
  · show execHeadLoad vcm reversed s = _
    simp only [execHeadLoad, htake, loadGoes, hlock, haccel, hbank, hsrv, hvcm, hst, hload, ne_eq,
      not_true_eq_false, decide_false, Bool.not_true, Bool.or_self, Bool.false_eq_true, if_false]
    rfl
  · show execLoadTimeout vcm s = _
    simp only [execLoadTimeout]
    rw [if_pos (by simpa using hst)]
  · show execVcmRetract q vcm w s = _
    rw [execVcmRetract, guarded_admitted h, vcmCtlWrite_reply]
    dsimp only
    rw [hsame, if_neg (zero_and_one_not _), if_neg (one_and_zero_not _), if_pos hret]
  · show execVcmDrvEnable q vcm w s = _
    rw [execVcmDrvEnable, guarded_admitted h, vcmCtlWrite_reply]
    dsimp only
    rw [if_neg hret, hold, hnew, if_pos (by decide)]
    exact congrArg Host.Outcome.next (if_pos (Bool.and_eq_true_iff.2 ⟨decide_eq_true hst, by
      rw [vcm_setVcm_same, hload]; rfl⟩))
  · show execVcmDrvDisable q vcm w s = _
    rw [execVcmDrvDisable, guarded_admitted h, vcmCtlWrite_reply]
    dsimp only
    rw [if_neg hret, hold, hnew, if_neg (by decide), if_pos (by decide), if_pos (by simpa using hst)]
  · show execVcmDrvDisable q vcm w s = _
    rw [execVcmDrvDisable, guarded_admitted h, vcmCtlWrite_reply]
    dsimp only
    rw [if_neg hret, hold, hnew, if_neg (by decide), if_pos (by decide), if_neg (by simp [hst]), if_pos hst]
  · exact (exec_macDriverFault_live head hlive).trans (by dsimp only; rw [hjob])
  · exact (exec_macDriverFault_live head hlive).trans (by dsimp only; rw [hjob])
  · show execShockSample lx ly rot s = _
    rw [execShockSample, if_neg (by simp [hlive])]

end Sys2Proof.Machine
end

section
/-! PROOFS. The words of a sequencer. -/

namespace Sys2Proof.Machine

open Sys2Proof

/-- Two words whose bodies do the same end alike. -/
theorem wordResult_congr {body body' : State → State} (h : ∀ s, body s = body' s) (t : State) (k x : Nat) :
    (.next (wordResult body t k x) : Result) = .next (wordResult body' t k x) := by
  rw [funext h]

/-- An arithmetic word that runs writes its result to DST and sets the flags (R249). -/
theorem aluWord_writes {s t : State} {k e x : Nat} (hruns : Runs s k e 0x01 x t)
    (f : Nat → Nat → State → Nat × Bool × Bool × State) :
    aluWord s k e true f = wordResult (fun s =>
      let r := f ((s.sqr k).srcA x) ((s.sqr k).aluB x) s
      aluSets r.2.2.2 k x r.1 r.2.1 r.2.2.1) t k x :=
  runWord_runs hruns _

/-- A comparing word that runs sets the flags alone (R249). -/
theorem aluWord_compares {s t : State} {k e x : Nat} (hruns : Runs s k e 0x01 x t)
    (f : Nat → Nat → State → Nat × Bool × Bool × State) :
    aluWord s k e false f = wordResult (fun s =>
      let r := f ((s.sqr k).srcA x) ((s.sqr k).aluB x) s
      r.2.2.2.setSqr k { (r.2.2.2.sqr k).setZN r.1 with c := r.2.1, v := r.2.2.1 }) t k x :=
  runWord_runs hruns _

/-- A shifting word: its result and free flags below 32, a free result from there on (R249). -/
theorem aluWord_shifts {s t : State} {k e x : Nat} (hruns : Runs s k e 0x01 x t) (r : Nat → Nat → Nat) :
    (.next (aluWord s k e true (shiftBy r)) : Result) = .next (wordResult (fun s =>
      let a := (s.sqr k).srcA x
      let b := (s.sqr k).aluB x
      if b < 32 then aluSets s.drawn.drawn k x (r a b) (freeFlag s.free) (freeFlag s.drawn.free)
      else aluSets s.drawn.drawn.drawn k x (s.free % 2 ^ 32) (freeFlag s.drawn.free) (freeFlag s.drawn.drawn.free))
      t k x) := by
  rw [aluWord_writes hruns]
  refine wordResult_congr (fun s' => ?_) t k x
  dsimp only
  by_cases h : (s'.sqr k).aluB x < 32
  · rw [shiftBy, if_pos h, if_pos h, freeCV]
  · rw [shiftBy, if_neg h, if_neg h, freeCV]

/-- Settles O29: a word that runs leaves what its operation gives. -/
theorem arithmeticWords : Obligations.ArithmeticWords := by
  intro s u e x t
  dsimp only
  refine ⟨fun hruns => ?_, fun hruns => ⟨?_, ?_, ?_, ?_, ?_, ?_, ?_, ?_, ?_⟩⟩
  · exact congrArg Host.Outcome.next (runWord_runs hruns _)
  · show execAluAdd u e s = _
    rw [execAluAdd, aluWord_writes hruns]
  · show execAluSubtract u e s = _
    rw [execAluSubtract, aluWord_writes hruns]
  · show execAluCompare u e s = _
    rw [execAluCompare, aluWord_compares hruns]
    rfl
  · show execAluAnd u e s = _
    rw [execAluAnd, aluWord_writes hruns]
    rfl
  · show execAluOr u e s = _
    rw [execAluOr, aluWord_writes hruns]
    rfl
  · show execAluXor u e s = _
    rw [execAluXor, aluWord_writes hruns]
    rfl
  · exact aluWord_shifts hruns _
  · exact aluWord_shifts hruns _
  · exact aluWord_shifts hruns _

/-- Deleting a key after inserting it leaves what deleting it left. -/
theorem sdel_sins {α : Type} (m : Sparse α) (k : Nat) (v : α) : sdel (sins m k v) k = sdel m k := by
  induction m with
  | nil => simp [sins, sdel]
  | cons e m ih =>
    obtain ⟨j, w⟩ := e
    by_cases hj : k < j
    · simp [sins, hj, sdel]
    · rw [sins, if_neg hj]
      simp only [sdel, List.filter_cons] at ih ⊢
      rw [ih]

/-- The last of two writes to one key counts. -/
theorem sset_sset {α : Type} [DecidableEq α] (d : α) (m : Sparse α) (k : Nat) (v v' : α) :
    sset d (sset d m k v) k v' = sset d m k v' := by
  have hdel : sdel (sset d m k v) k = sdel m k := by
    unfold sset
    split
    · simp [sdel]
    · rw [sdel_sins]
      simp [sdel]
  rw [sset, hdel, sset]

theorem State.setSqr_setSqr (s : State) (u : Nat) (v v' : Sqr) : (s.setSqr u v).setSqr u v' = s.setSqr u v' := by
  unfold State.setSqr
  rw [sset_sset]

@[simp] theorem State.sqr_setSqr_same (s : State) (u : Nat) (v : Sqr) : (s.setSqr u v).sqr u = v := sget_sset_same ..

/-- A wait ends as a write of its unit does: the clearing before it is part of it (R244). -/
theorem waitEnds_cleared (t : State) (k x : Nat) (tmo : Bool) :
    waitEnds (t.setSqr k (clearCond (wCsel x 0) (t.sqr k))) k x tmo =
      let after := t.setSqr k { clearCond (wCsel x 0) (t.sqr k) with waiting := false, tmo := tmo }
      nextAddress after (after.setSqr k (clearSampled x (after.sqr k))) k x := by
  rw [waitEnds, State.sqr_setSqr_same, State.setSqr_setSqr]

/-- The body of a tag word on a lane's unit. -/
theorem tagWord_runs {s t : State} {k e x : Nat} (hruns : Runs s k e 0x20 x t) (hlane : k < 8)
    (body : Nat → State → State) :
    tagWord s k e body = wordResult (fun s => body x (s.setLane k { s.lane k with frameDone := false })) t k x := by
  rw [tagWord, runWord_runs hruns]
  exact congrArg (fun body => wordResult body t k x) (funext fun _ => if_pos hlane)

/-- Settles O30: each word, run in the state its clause names. -/
theorem memoryAndTagWords : Obligations.MemoryAndTagWords := by
  intro s u e x t
  dsimp only
  refine ⟨fun hruns => ⟨?_, ?_⟩, fun hruns => ⟨?_, fun htrain => ?_, fun htrain => ?_⟩, fun hruns => ?_,
    fun hruns => ⟨fun hcond => ?_, fun hcond => ⟨?_, ?_⟩⟩, fun hruns hlane => ⟨?_, ?_, ?_, ?_⟩⟩
  · exact congrArg Host.Outcome.next (runWord_runs hruns _)
  · exact congrArg Host.Outcome.next (runWord_runs hruns _)
  · exact congrArg Host.Outcome.next (runWord_runs hruns _)
  · show execMsgReceive u e s = _
    rw [execMsgReceive, if_pos htrain]
  · show execMsgReceive u e s = _
    rw [execMsgReceive, if_neg (by simp [htrain]), runWord_runs hruns]
  · exact congrArg Host.Outcome.next (runWord_runs hruns _)
  · show execSeqWait u e s = _
    rw [execSeqWait, fetchRun_runs hruns]
    dsimp only
    rw [if_pos hcond, waitEnds_cleared]
  · show execSeqWait u e s = _
    rw [execSeqWait, fetchRun_runs hruns]
    dsimp only
    rw [if_neg (by simp [hcond]), State.sqr_setSqr_same, State.setSqr_setSqr]
  · show execWaitTimeout u e s = _
    rw [execWaitTimeout, fetchRun_runs hruns]
    rw [if_neg (by simp [hcond]), waitEnds_cleared]
  · exact congrArg Host.Outcome.next (tagWord_runs hruns hlane _)
  · show execTagReadField u e s = _
    rw [execTagReadField, tagWord_runs hruns hlane]
    refine wordResult_congr (fun s' => ?_) t u.val x
    dsimp only
    split
    · next h => rw [h]; rfl
    · next h => rw [h]; rfl
  · show execTagComplete u e s = _
    rw [execTagComplete, tagWord_runs hruns hlane]
    refine wordResult_congr (fun s' => ?_) t u.val x
    dsimp only
    split
    · next h => rw [h]; rfl
    · next h => rw [h]; rfl
  · exact congrArg Host.Outcome.next (tagWord_runs hruns hlane _)

/-- A launch word that runs counts its launch and writes the status to DST (R243). -/
theorem launchWord_runs {s t : State} {k e x : Nat} (hruns : Runs s k e 0x18 x t)
    {f g : Nat → Nat → State → Nat × State} (h : ∀ low phase s, f low phase s = g low phase s) :
    launchWord s k e f = wordResult (fun s =>
      let r := g ((s.sqr k).srcA x % 2 ^ 16) (wImm x % 4096) s
      let c := countLaunch r.2 k r.1
      c.setSqr k { (c.sqr k).setReg (wDst x) r.1 with refused := decide (r.1 ≠ 0) }) t k x := by
  have hfg : f = g := funext fun low => funext fun phase => funext fun s => h low phase s
  rw [launchWord, hfg, runWord_runs hruns]

/-- A lane's launch names its unit's tag, and is refused without one (R243). -/
theorem withTag_lane {k : Nat} (hlane : k < 8) (s : State) (f : Nat → Nat × State) :
    withTag s k f = ((s.sqr k).tag.map f).getD (statusRefused, s) := by
  unfold withTag
  split
  · next h => rw [if_pos hlane, h]; rfl
  · next h => rw [h]; rfl

/-- Settles O31: each launch word, run in the state its clause names. -/
theorem launchWords : Obligations.LaunchWords := by
  intro s u e x t hruns
  dsimp only
  refine ⟨fun hlane => ⟨?_, ?_, ?_, ?_⟩, fun hact => ⟨?_, ?_, ?_⟩⟩
  · show execLaunchReadGate u e s = _
    rw [execLaunchReadGate, launchWord_runs hruns fun low phase s => withTag_lane hlane s _]
  · show execLaunchWriteGate u e s = _
    rw [execLaunchWriteGate, launchWord_runs hruns fun low phase s => withTag_lane hlane s _]
  · show execLaunchAssistStep u e s = _
    rw [execLaunchAssistStep, launchWord_runs hruns fun low phase s => withTag_lane hlane s _]
  · show execLaunchSeek u e s = _
    rw [execLaunchSeek, launchWord_runs hruns fun low phase s => (if_pos hlane).trans (withTag_lane hlane s _)]
  · show execLaunchSeek u e s = _
    rw [execLaunchSeek, launchWord_runs hruns fun low phase s => if_neg (Nat.not_lt.2 hact)]
  · show execLaunchLoad u e s = _
    rw [execLaunchLoad, launchWord_runs hruns fun low phase s => if_neg (Nat.not_lt.2 hact)]
  · show execLaunchUnload u e s = _
    rw [execLaunchUnload, launchWord_runs hruns fun low phase s => if_neg (Nat.not_lt.2 hact)]

end Sys2Proof.Machine
end

section
/-! PROOFS. The control of the sequencers and their logical queues. -/

namespace Sys2Proof.Machine

open Sys2Proof

/-- A write of a unit's SQ_CTL, admitted while its domain is live, without HOLD_REL (R247, R611). -/
theorem sqCtlAccess_plain {s : State} {q : Req} {k : Nat} {w : Word} (hlive : domainLive s (unitDomain k) = true)
    (h : Admits s q (seqPage (unitSeq k)) (0x100 + 0x20 * unitIdx k)) (hrel : SEQ.SQ_CTL.HOLD_REL.of w ≠ 1) :
    sqCtlAccess q k w s = sqTransition (plainWrite (s.reply 0 []) q (seqPage (unitSeq k)) (0x100 + 0x20 * unitIdx k) w) k
      (s.get SEQ.SQ_CTL.ENABLE (unitSeq k) (unitIdx k)) (s.get SEQ.SQ_CTL.EASY (unitSeq k) (unitIdx k)) := by
  have hon : ¬(!domainLive (s.reply 0 []) (unitDomain k)) = true := by
    rw [domainLive_reply, hlive]
    decide
  rw [sqCtlAccess, guarded_admitted h, sqCtlWrite, if_neg hon]
  exact if_neg hrel

/-- With HOLD_REL the write's transition is followed by the release (R611). -/
theorem sqCtlAccess_release {s : State} {q : Req} {k : Nat} {w : Word} (hlive : domainLive s (unitDomain k) = true)
    (h : Admits s q (seqPage (unitSeq k)) (0x100 + 0x20 * unitIdx k)) (hrel : SEQ.SQ_CTL.HOLD_REL.of w = 1) :
    sqCtlAccess q k w s = releaseUnit (sqTransition
      (plainWrite (s.reply 0 []) q (seqPage (unitSeq k)) (0x100 + 0x20 * unitIdx k) w) k
      (s.get SEQ.SQ_CTL.ENABLE (unitSeq k) (unitIdx k)) (s.get SEQ.SQ_CTL.EASY (unitSeq k) (unitIdx k))) k := by
  have hon : ¬(!domainLive (s.reply 0 []) (unitDomain k)) = true := by
    rw [domainLive_reply, hlive]
    decide
  rw [sqCtlAccess, guarded_admitted h, sqCtlWrite, if_neg hon]
  exact if_pos hrel

section
variable {s : State} {k en ez : Nat} (hdis : (s.sqr k).disabling = false)
include hdis

/-- Enabling a unit that is off starts it, or holds it with EASY 1 (R247, R611). -/
theorem sqTransition_enable (hst : unitState s k = stOff) (hen : en = 0)
    (hnew : s.get SEQ.SQ_CTL.ENABLE (unitSeq k) (unitIdx k) = 1) :
    sqTransition s k en ez =
      if s.get SEQ.SQ_CTL.EASY (unitSeq k) (unitIdx k) = 1 then setUnitState s k stHold else startUnit s k := by
  simp [sqTransition, hst, hdis, hen, hnew, stOff, stFault]

/-- Disabling a unit that holds ends it; one that runs drains (R247, R611). -/
theorem sqTransition_disable (hst : unitState s k = stHold ∨ unitState s k = stRun) (hen : en = 1)
    (hnew : s.get SEQ.SQ_CTL.ENABLE (unitSeq k) (unitIdx k) = 0) :
    sqTransition s k en ez =
      if unitState s k = stHold then setUnitState s k stOff else disableUnit s k := by
  obtain hst | hst := hst <;> simp [sqTransition, hst, hdis, hen, hnew, stOff, stFault, stHold, stRun]

/-- EASY 1 eases a unit that runs; EASY 0 puts an easing one back to RUN; a unit that holds stays (R611). -/
theorem sqTransition_easy (hst : unitState s k = stRun ∨ unitState s k = stEasing ∨ unitState s k = stHold)
    (hnew : s.get SEQ.SQ_CTL.ENABLE (unitSeq k) (unitIdx k) = 1) :
    sqTransition s k en ez =
      if unitState s k = stRun && ez = 0 && s.get SEQ.SQ_CTL.EASY (unitSeq k) (unitIdx k) = 1 then
        setUnitState s k stEasing
      else if unitState s k = stEasing && s.get SEQ.SQ_CTL.EASY (unitSeq k) (unitIdx k) = 0 then setUnitState s k stRun
      else s := by
  obtain hst | hst | hst := hst <;> simp [sqTransition, hst, hdis, hnew, stOff, stFault, stHold, stRun, stEasing]

end

/-- Settles O32: each command, run in the state its clause names. -/
theorem sequencerControl : Obligations.SequencerControl := by
  intro s u q seq w
  dsimp only
  refine ⟨fun hwork hlim => ?_, fun hover hbudget => ?_, fun h hgo hbusy hn hfit hopen => ?_,
    fun n first count a hload => ⟨fun hopen => ?_, fun hopen => ?_⟩,
    fun hn => ⟨fun h hopen => ?_, fun h => ?_⟩, fun h hgo hn hload hbusy => ?_, fun n hn => ?_,
    fun hlive h hdis => ⟨fun hrel => ⟨fun hst hen hnew => ⟨fun hez => ?_, fun hez => ?_⟩,
      fun hen hnew => ⟨fun hst => ?_, fun hst => ?_⟩, fun hst hnew hez hez' => ?_, fun hst hnew hez => ?_⟩,
      fun hrel hst hnew hez hauth => ?_⟩⟩
  · show execSeqWatchdog u s = _
    simp only [execSeqWatchdog, hwork, decide_eq_true hlim, Bool.and_self, if_true]
  · show execSeqBudgetOverrun u s = _
    simp only [execSeqBudgetOverrun, hover, decide_eq_true hbudget, Bool.not_false, Bool.and_self, if_true]
  · show execSeqLoadStart q seq w s = _
    rw [execSeqLoadStart, guarded_admitted h]
    unfold loadCtlWrite
    dsimp only
    rw [if_neg (by simpa [hgo] using hbusy), if_neg]
    rw [hopen]
    simpa using ⟨hn, hfit⟩
  · show execSeqLoadComplete seq s = _
    simp only [execSeqLoadComplete, hload, hopen, Bool.not_true, Bool.false_eq_true, if_false]
  · show execSeqLoadComplete seq s = _
    simp only [execSeqLoadComplete, hload, hopen, Bool.not_false, if_true]
  · show execCsDataAccess q seq (some w) s = _
    have hmay : ¬(decide (5 < s.get SEQ.CS_WIN.Q seq.val) ||
        !storeOpen s (seqUnit seq.val (s.get SEQ.CS_WIN.Q seq.val))) = true := by
      simpa [hopen] using hn
    rw [execCsDataAccess, guarded_admitted h]
    exact congrArg Host.Outcome.next (if_neg hmay)
  · show execCsDataAccess q seq none s = _
    rw [execCsDataAccess, guardedRead_served h, csDataRead, if_neg (Nat.not_lt.2 hn)]
  · show execDigestStart q seq w s = _
    rw [execDigestStart, guarded_admitted h]
    unfold digCtlWrite
    dsimp only
    rw [if_neg]
    simpa [hgo, hn] using ⟨hload, hbusy⟩
  · show execDigestComplete seq s = _
    unfold execDigestComplete
    dsimp only
    rw [hn]
  · show Host.Outcome.next (sqCtlAccess q u.val w s) = _
    rw [sqCtlAccess_plain hlive h hrel, sqTransition_enable hdis hst hen hnew, if_pos hez]
  · show Host.Outcome.next (sqCtlAccess q u.val w s) = _
    rw [sqCtlAccess_plain hlive h hrel, sqTransition_enable hdis hst hen hnew, if_neg hez]
  · show Host.Outcome.next (sqCtlAccess q u.val w s) = _
    rw [sqCtlAccess_plain hlive h hrel, sqTransition_disable hdis (.inl hst) hen hnew, if_pos hst]
  · show Host.Outcome.next (sqCtlAccess q u.val w s) = _
    rw [sqCtlAccess_plain hlive h hrel, sqTransition_disable hdis (.inr hst) hen hnew,
      if_neg (by rw [hst]; decide)]
  · show Host.Outcome.next (sqCtlAccess q u.val w s) = _
    rw [sqCtlAccess_plain hlive h hrel, sqTransition_easy hdis (.inl hst) hnew, if_pos (by simp [hst, hez, hez'])]
  · show Host.Outcome.next (sqCtlAccess q u.val w s) = _
    rw [sqCtlAccess_plain hlive h hrel, sqTransition_easy hdis (.inr (.inl hst)) hnew,
      if_neg (by simp [hst, stEasing, stRun]), if_pos (by simp [hst, hez])]
  · show Host.Outcome.next (sqCtlAccess q u.val w s) = _
    rw [sqCtlAccess_release hlive h hrel, sqTransition_easy hdis (.inr (.inr hst)) hnew,
      if_neg (by simp [hst, stHold, stRun]), if_neg (by simp [hst, stEasing, stHold]), releaseUnit,
      if_neg (by simp [hauth]), if_pos (by simp [hst, hez])]

/-- The tag with its entry as the fetch reads it (R251). -/
def fetchedTag (s : State) (n k : Nat) : Tag :=
  let r := memRead s .sch (s.get SEQ.LQ_BASE.ADDR (n / 4) (n % 4) * 4096 + 32 * k) 32
  { r.2.tag n k with entry := r.1.bytes }

/-- An entry that is fetched ends its tag, or leaves it posted (R251, R255). -/
theorem exec_tagEntryFetch {s : State} {lane : Fin 8} {tag : Fin 32} (hst : (s.tag lane.val tag.val).st = .fetching) :
    exec (.tagEntryFetch lane tag) s = .next (
      let n := lane.val
      let k := tag.val
      let r := memRead s .sch (s.get SEQ.LQ_BASE.ADDR (n / 4) (n % 4) * 4096 + 32 * k) 32
      let x := fetchedTag s n k
      let t := r.2.setTag n k { x with st := .posted }
      if r.1.poison || malformed n x then completeTag t n k { status := 12 }
      else match fetchedEnding x with
        | some e => completeTag t n k { status := e.1, reason := e.2 }
        | none => t) := by
  show execTagEntryFetch lane tag s = _
  rw [execTagEntryFetch, tagFetched, if_neg (by simp [hst])]
  rfl

/-- A sound entry ends its tag as its post or an abort named, or stays posted (R255). -/
theorem exec_tagEntryFetch_sound {s : State} {lane : Fin 8} {tag : Fin 32}
    (hst : (s.tag lane.val tag.val).st = .fetching) :
    let n := lane.val
    let k := tag.val
    let r := memRead s .sch (s.get SEQ.LQ_BASE.ADDR (n / 4) (n % 4) * 4096 + 32 * k) 32
    let x := fetchedTag s n k
    let t := r.2.setTag n k { x with st := .posted }
    r.1.poison = false → malformed n x = false →
    exec (.tagEntryFetch lane tag) s = .next (((fetchedEnding x).map fun e =>
      completeTag t n k { status := e.1, reason := e.2 }).getD t) := by
  intro n k r x t hclean hgood
  rw [exec_tagEntryFetch hst]
  dsimp only
  rw [if_neg (by simpa using ⟨hclean, hgood⟩)]
  cases fetchedEnding x <;> rfl

theorem fetchedEnding_faulted {x : Tag} {reason : Nat} (h : x.ending = some (10, reason)) :
    fetchedEnding x = some (10, reason) := by
  rw [fetchedEnding, h]
  rfl

/-- A fetched entry that ends with no sequencer fault ends with status 2 after an abort, else as its post said (R255). -/
theorem fetchedEnding_unfaulted {x : Tag} (h : ∀ reason, x.ending ≠ some (10, reason)) :
    fetchedEnding x = if x.abort then some (2, 0) else x.ending := by
  unfold fetchedEnding
  split
  · next r hr => exact absurd hr (h r)
  · rfl

section
variable {s : State} {n k : Nat}

/-- What an abort answers and does, by the state of its tag (R252). -/
theorem lqAbort_posted (h : (s.tag n k).st = .posted) :
    lqAbort n k s = (completeTag s n k { status := 2 }).reply 1 [] := by
  simp only [lqAbort, h]

theorem lqAbort_fetching (h : (s.tag n k).st = .fetching) :
    lqAbort n k s = (s.setTag n k { s.tag n k with abort := true }).reply 1 [] := by
  simp only [lqAbort, h]

theorem lqAbort_taken (h : (s.tag n k).st = .taken) :
    lqAbort n k s = (if (s.tag n k).abort then s
      else ldpAbort (s.setTag n k { s.tag n k with abort := true }) n k).reply 1 [] := by
  simp only [lqAbort, h]

theorem lqAbort_ended (h : (s.tag n k).st = .free ∨ (s.tag n k).st = .done) : lqAbort n k s = s.reply 0 [] := by
  obtain h | h := h <;> simp only [lqAbort, h]

end

theorem exec_lqAbort {s : State} {q : Req} {lane : Fin 8} {w : Word}
    (h : Admits s q (seqPage (lane.val / 4)) (0x204 + 0x10 * (lane.val % 4))) (hop : SEQ.LQ_CMD.OP.of w = 2) :
    exec (.lqAbort q lane w) s = .next (lqAbort lane.val (SEQ.LQ_CMD.TAG.of w) (s.reply 0 [])) := by
  show execLqAbort q lane w s = _
  rw [execLqAbort, guarded_admitted h, lqCmdWrite, hop]
  rfl

/-- OOS puts each actuator it names out of service, then the write takes its place (R257). -/
theorem exec_actuatorOos {s : State} {q : Req} {seq : Fin 2} {w : Word} (h : Admits s q (seqPage seq.val) 0x040) :
    let oos (v : Nat) : State := [0, 1].foldl (fun s k => if bit v k then setOos s (2 * seq.val + k) else s) (s.reply 0 [])
    let written (v : Nat) : Result :=
      .next (schSettle (settleCharge (plainWrite (oos v) q (seqPage seq.val) 0x040 w)) [])
    exec (.actuatorOosSet q seq w) s = written (SEQ.SEQ_CTL.OOS.of w) ∧
      exec (.actuatorOosClear q seq w) s = written (SEQ.SEQ_CTL.OOS.of w) := by
  constructor
  · show execActuatorOosSet q seq w s = _
    rw [execActuatorOosSet, guarded_admitted h]
    rfl
  · show execActuatorOosClear q seq w s = _
    rw [execActuatorOosClear, guarded_admitted h]
    rfl

/-- Settles O33: each command, run in the state its clause names. -/
theorem tagCommands : Obligations.TagCommands := by
  intro s lane tag q w seq
  dsimp only
  refine ⟨fun hst => ⟨fun hbad => ?_, fun hclean hgood => ⟨fun reason he => ?_, fun hno => ⟨fun habort => ?_,
      fun habort => ⟨fun he => ?_, fun status reason he => ?_⟩⟩⟩⟩,
    fun h => ⟨fun hop hfree => ?_, fun hop => ⟨fun hst => ?_, fun hst => ?_, fun hst => ?_, fun hst => ?_⟩,
      fun hop hdone => ?_⟩,
    fun h => ⟨fun hv => ?_, fun hv => ?_, fun hv => ?_, fun hv => ?_⟩⟩
  · rw [exec_tagEntryFetch hst]
    exact congrArg Host.Outcome.next (if_pos (Bool.or_eq_true_iff.2 hbad))
  · rw [exec_tagEntryFetch_sound hst hclean hgood, fetchedEnding_faulted (x := fetchedTag ..) he]
    rfl
  · rw [exec_tagEntryFetch_sound hst hclean hgood, fetchedEnding_unfaulted (x := fetchedTag ..) hno,
      if_pos (show (fetchedTag ..).abort = true from habort)]
    rfl
  · have hends : fetchedEnding (fetchedTag s lane.val tag.val) = none :=
      (fetchedEnding_unfaulted (x := fetchedTag ..) hno).trans ((if_neg (ne_true_of_eq_false habort)).trans he)
    rw [exec_tagEntryFetch_sound hst hclean hgood, hends]
    rfl
  · have hends : fetchedEnding (fetchedTag s lane.val tag.val) = some (status, reason) :=
      (fetchedEnding_unfaulted (x := fetchedTag ..) hno).trans ((if_neg (ne_true_of_eq_false habort)).trans he)
    rw [exec_tagEntryFetch_sound hst hclean hgood, hends]
    rfl
  · show execLqPost q lane w s = _
    rw [execLqPost, guarded_admitted h, lqCmdWrite, hop]
    exact congrArg Host.Outcome.next (if_pos hfree)
  · rw [exec_lqAbort h hop]
    exact congrArg Host.Outcome.next (lqAbort_posted (s := s.reply 0 []) hst)
  · rw [exec_lqAbort h hop]
    exact congrArg Host.Outcome.next (lqAbort_fetching (s := s.reply 0 []) hst)
  · rw [exec_lqAbort h hop]
    exact congrArg Host.Outcome.next (lqAbort_taken (s := s.reply 0 []) hst)
  · rw [exec_lqAbort h hop]
    exact congrArg Host.Outcome.next (lqAbort_ended (s := s.reply 0 []) hst)
  · show execLqRelease q lane w s = _
    rw [execLqRelease, guarded_admitted h, lqCmdWrite, hop]
    exact congrArg Host.Outcome.next (if_pos hdone)
  · exact (exec_actuatorOos h).1.trans (by rw [hv]; rfl)
  · exact (exec_actuatorOos h).1.trans (by rw [hv]; rfl)
  · exact (exec_actuatorOos h).1.trans (by rw [hv]; rfl)
  · exact (exec_actuatorOos h).2.trans (by rw [hv]; rfl)

end Sys2Proof.Machine
end

section
/-! PROOFS. The weave engine. -/

namespace Sys2Proof.Machine

open Sys2Proof

@[simp] theorem State.bump_sch (s : State) (F : Fld) (n i k : Nat) : (s.bump F n i k).sch = s.sch := rfl

@[simp] theorem State.bump_wev (s : State) (F : Fld) (n i k : Nat) : (s.bump F n i k).wev = s.wev := rfl

@[simp] theorem State.setRing_sch (s : State) (r : Nat) (x : Ring) : (s.setRing r x).sch = s.sch := rfl

@[simp] theorem sch_raise (s : State) (p : Page) (b level : Nat) : (raise s p b level).sch = s.sch := by
  unfold raise
  dsimp only
  repeat' split
  all_goals rfl

@[simp] theorem sch_raiseIf (c : Bool) (s : State) (p : Page) (b level : Nat) : (raiseIf c s p b level).sch = s.sch := by
  unfold raiseIf
  split
  · exact sch_raise ..
  · rfl

/-! The scheduler's own state is none of buffer memory's: a write of buffer memory keeps it. -/

@[simp] theorem sch_correctedError (s : State) (g : Nat) : (correctedError s g).sch = s.sch := by
  unfold correctedError
  dsimp only
  split <;> split <;> simp

@[simp] theorem sch_putGranule (s : State) (g : Nat) (bytes : List Nat) (poison : Bool) (mask : Nat) :
    (putGranule s g bytes poison mask).sch = s.sch := by
  simp [putGranule]

@[simp] theorem sch_uncorrectable (s : State) (g : Nat) (raw : List Nat) : (uncorrectable s g raw).sch = s.sch := by
  simp [uncorrectable]

@[simp] theorem sch_readGranule (s : State) (g : Nat) : (readGranule s g).2.sch = s.sch := by
  unfold readGranule
  dsimp only
  repeat' split
  all_goals simp

@[simp] theorem sch_storeGranule (s : State) (g : Nat) (bytes : List Nat) (poison : Bool) :
    (storeGranule s g bytes poison).sch = s.sch := by
  unfold storeGranule
  split <;> simp

@[simp] theorem sch_flushEntry (s : State) (m : Merge) : (flushEntry s m).sch = s.sch := by
  unfold flushEntry
  dsimp only
  repeat' split
  all_goals simp

@[simp] theorem sch_mergeWrite (s : State) (g : Nat) (bytes : List Nat) (mask : List Bool) (poison : Bool) :
    (mergeWrite s g bytes mask poison).sch = s.sch := by
  unfold mergeWrite
  dsimp only
  repeat' split
  all_goals simp

@[simp] theorem sch_writeInGranule (a : Nat) (bytes : List Nat) (poison : Bool) (s : State) (g : Nat) :
    (writeInGranule a bytes poison s g).sch = s.sch := by
  unfold writeInGranule
  dsimp only
  split
  · simp [wholeWrite]
  · simp

@[simp] theorem sch_memWrite (s : State) (a : Nat) (bytes : List Nat) (poison : Bool) :
    (memWrite s a bytes poison).sch = s.sch :=
  foldl_keeps (P := fun t : State => t.sch = s.sch) (fun t g h => (sch_writeInGranule a bytes poison t g).trans h) _ rfl

/-- Spoiling what a descriptor wrote is a matter of buffer memory (R285). -/
@[simp] theorem sch_wevSpoil (s : State) (e : List Nat) : (wevSpoil s e).sch = s.sch := by
  unfold wevSpoil
  split
  · rfl
  · exact foldl_keeps (P := fun t : State => t.sch = s.sch) (fun t w h =>
      foldl_keeps (P := fun t : State => t.sch = s.sch) (fun t i h => (sch_memWrite ..).trans h) _ h) _ rfl

/-- Which engine command serves a descriptor depends on its operation alone (R280). -/
theorem wevServe_mine {s : State} {mine : Nat → Bool} {m taken : Nat} (hpick : wevPick s = some (m, taken))
    (hmine : mine (((ringPeek s (s.get WEV.RING.RING 0 m)).getD []).headD 0 % 16) = true) :
    wevServe s mine = wevServe s fun _ => true := by
  unfold wevServe
  rw [hpick]
  dsimp only
  rw [hmine]

/-- With no descriptor of SCH's port running, RECON starts one that is due, or serves the rings (R281, R296). -/
theorem exec_wevRecon_rings {s : State} (hrun : s.sch.portRun = none) (hport : portFirst s = false) :
    exec .wevRecon s = .next (wevServe s fun op => op = 3) := by
  show execWevRecon s = _
  unfold execWevRecon
  rw [hrun, hport]
  cases s.sch.port <;> rfl

/-- What a parity fault does to the running descriptors of a live engine that is not in FAULT (R286). -/
theorem exec_wevParityFault_live {s : State} (hlive : domainLive s wevPage.domain = true)
    (hst : pageState (s.bump WEV.PARITY.PARITY_CNT) wevPage ≠ stFault) :
    exec .wevParityFault s = .next (
      let t := s.bump WEV.PARITY.PARITY_CNT
      let u : State := match s.wev.cur with
        | none => t
        | some c =>
          let x := t.ring c.ring
          wevSpoil (t.setRing c.ring { x with
            done := x.done.map fun d => if d.n = c.n then
              { d with status := 6, bytes := [(0, wevCompletion 6 { poisoned := d.poisoned } d.byte1)] } else d }) c.entry
      let v : State := match s.sch.portRun with
        | none => u
        | some (e, r, _, p) => wevSpoil { u with sch := { u.sch with portRun := some (e, r, 6, p) } } e
      pageFault { v with wev := { v.wev with disabling := false } } wevPage 5 3) := by
  have hlive' : domainLive (s.bump WEV.PARITY.PARITY_CNT) wevPage.domain = true := by
    rw [← hlive]
    exact domainLive_bump ..
  show execWevParityFault s = _
  unfold execWevParityFault
  dsimp only
  rw [hlive', if_neg (by simpa using hst), State.bump_wev]
  cases s.wev.cur with
  | none => rfl
  | some c =>
    dsimp only
    rw [sch_wevSpoil]
    rfl

/-- Settles O34: each command, run in the state its clause names. -/
theorem weaveCommands : Obligations.WeaveCommands := by
  intro s q w
  dsimp only
  refine ⟨fun m taken x t htakes hport hpick hstart => ⟨fun h2 h3 h4 => ?_, fun h2 => ?_, fun h4 => ?_, fun h3 hrun => ?_⟩,
    fun e r rest hrun hlist hport htakes => ?_, fun e r st poisoned hrun => ?_,
    fun hlive hst => ⟨fun hcur hrun => ?_, fun c hcur hrun => ?_, fun e r st p hcur hrun => ?_⟩, fun h harm => ?_⟩
  · exact congrArg Host.Outcome.next (wevServe_mine hpick (by
      simp only [h2, h3, h4, decide_false, Bool.or_self, Bool.not_false]))
  · exact congrArg Host.Outcome.next (wevServe_mine hpick (decide_eq_true h2))
  · exact congrArg Host.Outcome.next (wevServe_mine hpick (decide_eq_true h4))
  · rw [exec_wevRecon_rings hrun hport]
    exact congrArg Host.Outcome.next (wevServe_mine hpick (decide_eq_true h3))
  · show execWevRecon s = _
    unfold execWevRecon
    rw [hrun, hport, htakes, hlist]
    simp only [Option.isSome_none, Bool.false_eq_true, if_false, Bool.and_self, if_true, portStart, State.schMap, hlist,
      List.drop_one, List.tail_cons]
  · show execWevRecon s = _
    unfold execWevRecon
    rw [hrun, if_pos (by rfl), portDone, hrun]
  · rw [exec_wevParityFault_live hlive hst]
    dsimp only
    rw [hcur, hrun]
  · rw [exec_wevParityFault_live hlive hst]
    dsimp only
    rw [hcur, hrun]
  · rw [exec_wevParityFault_live hlive hst]
    dsimp only
    rw [hcur, hrun]
  · show execEraseInjArm q w s = _
    rw [execEraseInjArm, guarded_admitted h]
    exact congrArg Host.Outcome.next (if_pos harm)

end Sys2Proof.Machine
end

section
/-! PROOFS. The queues of a controller and its command transport. -/

namespace Sys2Proof.Machine

open Sys2Proof

/-- A queue's first waiting completion is posted where the queue has room and the controller works (R310, R317). -/
theorem postEntry_posts {s : State} {n y : Nat} {q : Cq} {e : Cqe} {es : List Cqe}
    (hq : (s.ctl n).cq y = some q) (hwait : q.waiting = e :: es) (hroom : q.full = false)
    (hsound : s.get HQ.HQ_STAT.CFS n ≠ 1) (hwork : working s (hqPage n) = true) :
    postEntry s n y =
      let c := s.ctl n
      let t := { q with tail := (q.tail + 1) % max 1 q.size, waiting := es, fresh := q.fresh + 1 }
      let r := if signalsNow c y t then signalCq c y t else (false, c.setCq y (some t))
      let named := { e with sqHead := ((c.sq e.sqid).map (·.head)).getD 0 }
      let u := countMoved ((s.setCtl n r.2).setSlot e.slot { gen := (s.slot e.slot).gen }) (portOf s n) true 16
      settleShutdown (settleDeletes (answerAborts
        { u with answer := { u.answer with posted := u.answer.posted ++ [(n, y, q.tail, named, r.1)] } } n e.slot) n) n := by
  unfold postEntry
  dsimp only
  rw [hq]
  dsimp only
  rw [hwait]
  dsimp only
  rw [if_neg (by simp [hroom, hsound, hwork])]

theorem State.ctl_reply (s : State) (code : Nat) (data : List Nat) (n : Nat) : (s.reply code data).ctl n = s.ctl n := rfl

theorem State.slot_reply (s : State) (code : Nat) (data : List Nat) (k : Nat) : (s.reply code data).slot k = s.slot k := rfl

theorem portOf_reply (s : State) (code : Nat) (data : List Nat) (n : Nat) : portOf (s.reply code data) n = portOf s n := rfl

theorem State.ctl_setCtl_same (s : State) (n : Nat) (c : Ctl) : (s.setCtl n c).ctl n = c := sget_sset_same ..

@[simp] theorem nvme_raise (s : State) (p : Page) (b level : Nat) : (raise s p b level).nvme = s.nvme := by
  unfold raise
  dsimp only
  repeat' split
  all_goals rfl

theorem ctl_raise (s : State) (p : Page) (b level n : Nat) : (raise s p b level).ctl n = s.ctl n := by
  unfold State.ctl
  rw [nvme_raise]

/-- An enable that is asked for takes place once the page runs and nothing of the controller closes (R318, R320). -/
theorem settleEnable_opening {t : State} {n asq acq : Nat} {c : Ctl} (hopen : c.opening = some (asq, acq))
    (regs : List Nat) :
    settleEnable ((t.setCtl n c).reply 0 regs) n =
      let u := (t.setCtl n c).reply 0 regs
      if c.closing || !running t (hqPage n) then u
      else ((u.setCtl n ((({ c with opening := none } : Ctl).setSq 0 (some { size := asq, cq := 0 })).setCq 0
        (some { size := acq, ien := true }))).put HQ.HQ_STAT.RDY 1 n).put HQ.HQ_STAT.SHST 0 n := by
  have hctl : ((t.setCtl n c).reply 0 regs).ctl n = c := State.ctl_setCtl_same t n c
  unfold settleEnable
  dsimp only
  rw [hctl, hopen]
  rfl

/-- The controller as its enable names it, before its admin queues open (R312, R318). -/
def enabling (c : Ctl) (mps css mask vectors asq acq : Nat) (irq : IrqMode) : Ctl :=
  { c with
    opening := some (asq, acq), mps := mps, css := css, irq := irq, intMask := mask
    vectors := if irq = .msix then vectors else 1 }

/-- An enable of a live controller that is not enabled (R318). -/
theorem exec_controllerEnable {s : State} {ctrl : Fin 2} {ams : BitVec 2} {mps : Fin 5} {css : BitVec 3} {asq acq : Nat}
    {irq : IrqMode} {mask : BitVec 32} {vectors : Nat} (hlive : domainLive s (hqPage ctrl.val).domain = true)
    (hoff : s.get HQ.HQ_STAT.CC_EN ctrl.val ≠ 1) (hkind : ¬(s.get DOM.DOM_STAT.START_KIND = 3 ∧ ctrl.val = 1)) :
    exec (.controllerEnable ctrl ams mps css asq acq irq mask vectors) s = .next (
      let n := ctrl.val
      let t := raise ((s.put HQ.HQ_STAT.CC_EN 1 n).put HQ.ARB.AMS ams.toNat n) (hqPage n) 0 7
      settleEnable ((t.setCtl n (enabling (t.ctl n) mps.val css.toNat mask.toNat vectors asq acq irq)).reply 0
        ctlRegisters) n) := by
  show execControllerEnable ctrl ams mps css asq acq irq mask vectors s = _
  unfold execControllerEnable
  dsimp only
  rw [hlive, if_neg (by simpa [hoff] using hkind)]
  rfl

/-- Settles O35: each command, run in the state its clause names. -/
theorem queueCommands : Obligations.QueueCommands := by
  intro s ctrl queue value
  dsimp only
  refine ⟨fun q hlive hq hdel hvalue hgap => ?_, fun q hlive hq hvalue hgap => ?_,
    fun q e es hq hwait hroom hsound hwork => ?_, fun q hq hfull hwarn => ?_, fun q hq hfresh hien => ?_, rfl,
    fun ams mps css asq acq irq mask vectors hlive hoff hkind => ⟨fun hstay => ?_, fun hrun hopen => ?_⟩,
    fun hlive => ?_⟩
  · show execSqTailDoorbell ctrl queue value s = _
    unfold execSqTailDoorbell
    dsimp only
    rw [hlive, if_neg (by decide), hq]
    dsimp only
    rw [hdel, if_neg (by decide), if_neg (by simpa using ⟨hvalue, hgap⟩)]
  · show execCqHeadDoorbell ctrl queue value s = _
    unfold execCqHeadDoorbell
    dsimp only
    rw [hlive, if_neg (by decide), hq]
    dsimp only
    rw [if_neg (by simpa using ⟨hvalue, hgap⟩)]
  · show execCompletionPost ctrl queue s = _
    unfold execCompletionPost
    dsimp only
    rw [postEntry_posts (s := s.reply 0 []) hq hwait hroom hsound hwork, State.ctl_reply, State.slot_reply,
      portOf_reply]
  · show execCqFullTimeout ctrl queue s = _
    simp only [execCqFullTimeout, hq, hfull, hwarn, Bool.not_false, Bool.and_self, if_true]
  · show execInterruptCoalesceTimeout ctrl queue s = _
    simp only [execInterruptCoalesceTimeout, hq, hfresh, hien, decide_false, Bool.not_true, Bool.or_self,
      Bool.false_eq_true, if_false]
  · rw [exec_controllerEnable hlive hoff hkind]
    refine congrArg Host.Outcome.next ((settleEnable_opening rfl _).trans (if_pos ?_))
    rw [enabling, ctl_raise]
    exact Bool.or_eq_true_iff.2 (hstay.symm.imp_right fun h => by rw [h]; rfl)
  · rw [exec_controllerEnable hlive hoff hkind]
    refine congrArg Host.Outcome.next ((settleEnable_opening rfl _).trans (if_neg ?_))
    rw [enabling, ctl_raise, hrun]
    exact fun h => Bool.false_ne_true (hopen.symm.trans ((Bool.or_false _).symm.trans h))
  · show execShutdownNotify ctrl s = _
    simp only [execShutdownNotify, hlive, Bool.not_true, Bool.false_eq_true, if_false]

/-- OUT's descriptor of a command it owns runs and is done (R306, R307). -/
theorem outServe_owned {s t : State} {n : Nat} {mine : Nat → Bool} {f : State → List Nat → Nat → Option State}
    {e : List Nat} {x : Nat × List Nat} {j : Nat} {v : State} (hpeek : ringPeek s (s.get HQ.OUT_RING.RING n) = some e)
    (hmine : mine (e.headD 0) = true) (hwork : working s (hqPage n) = true) (hsound : s.get HQ.HQ_STAT.CFS n ≠ 1)
    (hstart : ringStart s (s.get HQ.OUT_RING.RING n) (3 + 2 * n) = some (x, t)) (hown : outOwned t n x.2 = some j)
    (hf : f t x.2 j = some v) :
    outServe s n mine f = ringDone v (s.get HQ.OUT_RING.RING n) { n := x.1, bytes := [(0, [0])], status := 0, entry := x.2 } := by
  unfold outServe
  dsimp only
  rw [hpeek]
  dsimp only
  rw [hmine, hwork, if_neg (by simpa using hsound), hstart]
  dsimp only
  rw [hown, Option.bind_some, hf]

/-- A command of the admin queue that a controller serves runs for its controller (R302). -/
theorem onAdmin_served {s : State} {k : Nat} (h : serves s k true = true) (f : State → Nat → State) :
    onAdmin s k f = f s (s.slot k).ctrl := if_pos h

/-- An asynchronous event request waits where there is room for it, and an event that waits is reported (R335). -/
theorem exec_asyncEventRequest {s : State} {slot : Fin 4096} (hserved : serves s slot.val true = true) :
    let m := (s.slot slot.val).ctrl
    let c := s.ctl m
    c.aers.contains slot.val = false → c.aers.length < 16 →
    exec (.asyncEventRequest slot) s =
      .next (reportWaiting (s.setCtl m { c with aers := c.aers ++ [slot.val] }) m) := by
  intro m c hnew hroom
  show execAsyncEventRequest slot s = _
  rw [execAsyncEventRequest, onAdmin_served hserved]
  dsimp only
  rw [if_neg (ne_true_of_eq_false hnew), if_neg (Nat.not_le.2 hroom)]

/-- The fetch of one turn, from the queue the arbitration picks (R303, R304). -/
theorem fetchFrom_picked {u : State} {i : Nat} {p : Pick} (h : pickQueue u i = some p) (entries : List (List Byte)) :
    fetchFrom u i (entries.map fun e => e.map (·.toNat)) =
      let free := min p.left (turnLeft u i)
      let want := min (min (min 8 p.q.unfetched) (min (p.q.size - p.q.head) (slotsFor u i (p.y = 0)))) free
      let last := sget (0, 0) (u.ctl i).served p.cls
      let used := if last.1 = p.y && decide (last.2 < burstOf u i) then last.2 else 0
      let r := fetchRunOf i p.y ((entries.take want).map fun e => e.map (·.toNat)) (0, u)
      let turn := (i, max 1 (u.get HQ.CTRL_WEIGHT.WEIGHT i) - turnLeft u i + r.1)
      let v : State := { r.2 with nvme := { r.2.nvme with turn := turn } }
      if p.y = 0 then v else v.setCtl i { v.ctl i with
        served := sset (0, 0) (v.ctl i).served p.cls (p.y, used + r.1), credits := p.after r.1 } := by
  unfold fetchFrom
  rw [h]
  dsimp only
  rw [List.map_take]

/-- Settles O36: each command, run in the state its clause names. -/
theorem transportCommands : Obligations.TransportCommands := by
  intro s ctrl slot qid qsize entries
  dsimp only
  refine ⟨fun e x t hpeek hwork hsound hstart j hown => ⟨fun hop hst => ?_, fun hop hx => ?_⟩,
    fun hserved => ⟨fun pc ien iv prp hpc halign h0 hmax hnew hsize hmqes hvec => ?_,
      fun pc prio cqid prp hpc halign h0 hmax hnew hsize hmqes hcq0 hcq => ?_, fun h0 hcq hfree => ?_,
      fun q h0 hq hdel => ?_, fun hnew hroom => ⟨fun hnone => ?_, fun e he haers => ?_⟩⟩,
    fun i u p hturn hpick => ?_⟩
  · exact congrArg Host.Outcome.next (outServe_owned hpeek (decide_eq_true hop) hwork hsound hstart hown
      (congrArg some (if_pos hst)))
  · exact congrArg Host.Outcome.next (outServe_owned hpeek (by simp only [hop]; decide) hwork hsound hstart hown (if_pos hx))
  · show execCreateIoCq slot qid qsize pc ien iv prp s = _
    rw [execCreateIoCq, onAdmin_served hserved]
    dsimp only
    rw [if_neg (by simpa [h0, Nat.not_lt.2 hmax] using hnew), if_neg (by simp [hsize, capMqes, Nat.not_lt.2 hmqes]),
      if_neg (by simp [hpc]), if_neg (by simpa using hvec), if_neg (by simp [halign])]
  · show execCreateIoSq slot qid qsize pc prio cqid prp s = _
    rw [execCreateIoSq, onAdmin_served hserved]
    dsimp only
    rw [if_neg (by simpa [h0, Nat.not_lt.2 hmax] using hnew), if_neg (by simp [hsize, capMqes, Nat.not_lt.2 hmqes]),
      if_neg (by simp [hpc]), if_neg (by simpa [hcq0, Option.isSome_iff_ne_none] using hcq), if_neg (by simp [halign])]
  · show execDeleteIoCq slot qid s = _
    have hunused : ((s.ctl (s.slot slot.val).ctrl).sqs.any fun e => match e.2 with
        | some q => decide (q.cq = qid.toNat) | none => false) = false := by
      rw [List.any_eq_false]
      intro e he
      cases hq : e.2 with
      | none => simp
      | some q => simpa using hfree e he q hq
    rw [execDeleteIoCq, onAdmin_served hserved]
    dsimp only
    rw [if_neg (by simpa [h0, Option.isSome_iff_ne_none] using hcq)]
    exact congrArg Host.Outcome.next (if_neg (ne_true_of_eq_false hunused))
  · show execDeleteIoSq slot qid s = _
    rw [execDeleteIoSq, onAdmin_served hserved]
    dsimp only
    rw [hq]
    dsimp only
    rw [if_neg (by simp [h0, hdel])]
  · rw [exec_asyncEventRequest hserved hnew hroom, reportWaiting, hnone]
  · rw [exec_asyncEventRequest hserved hnew hroom, reportWaiting, he]
    exact congrArg Host.Outcome.next (if_neg (by simpa using haers))
  · have hfetch : exec (.commandFetch entries) s = .next (fetchFrom u i (entries.map fun e => e.map (·.toNat))) := by
      show execCommandFetch entries s = _
      unfold execCommandFetch
      dsimp only
      obtain ⟨hfirst, rfl, rfl⟩ | ⟨hfirst, rfl, rfl, hsecond⟩ := hturn
      · rw [if_pos hfirst]
      · rw [if_neg (ne_true_of_eq_false hfirst), if_pos hsecond]
    rw [hfetch, fetchFrom_picked hpick]

end Sys2Proof.Machine
end

section
/-! PROOFS. Controllers, ports and the management interface. -/

namespace Sys2Proof.Machine

open Sys2Proof

/-- Settles O37: each command, run in the state its clause names. -/
theorem controllerCommands : Obligations.ControllerCommands := by
  intro s ctrl slot sqid cid entries
  dsimp only
  refine ⟨fun hlive => ?_, fun hserved hroom => ⟨fun j hj => ?_, fun hnone => ⟨fun j hj => ?_, fun hmiss => ?_⟩⟩,
    fun hlive hen hsound => ?_, fun hlive hen hfailed => ?_, fun hlive => ?_⟩
  · show execHqFault ctrl s = _
    rw [execHqFault, if_pos hlive]
  · show execAbort slot sqid cid entries s = _
    rw [execAbort, onAdmin_served hserved]
    dsimp only
    rw [if_neg (Nat.not_le.2 hroom), hj, nvme_raise]
  · show execAbort slot sqid cid entries s = _
    rw [execAbort, onAdmin_served hserved]
    dsimp only
    rw [if_neg (Nat.not_le.2 hroom), hnone]
    dsimp only
    rw [hj]
  · show execAbort slot sqid cid entries s = _
    rw [execAbort, onAdmin_served hserved]
    dsimp only
    rw [if_neg (Nat.not_le.2 hroom), hnone]
    dsimp only
    rw [hmiss]
  · show execControllerDisable ctrl s = _
    simp only [execControllerDisable, hlive, hen, hsound, decide_false, Bool.not_true, Bool.not_false, Bool.or_self,
      Bool.false_eq_true, if_false, if_true]
  · show execControllerDisable ctrl s = _
    simp only [execControllerDisable, hlive, hen, hfailed, decide_false, decide_true, Bool.not_true, Bool.or_self,
      Bool.false_eq_true, if_false]
  · show execFunctionLevelReset ctrl s = _
    simp only [execFunctionLevelReset, hlive, Bool.not_true, Bool.false_eq_true, if_false]

/-- Settles O38: each command, run in the state its clause names. -/
theorem portCommands : Obligations.PortCommands := by
  intro s port speed width
  dsimp only
  refine ⟨fun hlive => ⟨?_, ?_, ?_⟩, fun hlive hen hperst hdown hphys => ?_, rfl, rfl, rfl, rfl, rfl, rfl, rfl⟩
  · show execPerstAssert port s = _
    rw [execPerstAssert, if_pos hlive]
  · show execPerstDeassert port s = _
    rw [execPerstDeassert, if_pos hlive]
  · show execPcieLinkLoss port s = _
    rw [execPcieLinkLoss, if_pos hlive]
  · show execPcieLinkUp port speed width s = _
    have hphys' : ((portPhys s port.val).any fun d => !domainLive s d) = false := by
      rw [List.any_eq_false]
      intro d hd
      simp [hphys d hd]
    simp only [execPcieLinkUp, hlive, hen, hperst, hdown, hphys', decide_false, Bool.not_true, Bool.or_self,
      Bool.false_eq_true, if_false]

/-- Settles O39: each request, answered while the interface serves. -/
theorem managementCommands : Obligations.ManagementCommands := by
  intro s ctrl hserved
  refine ⟨fun n => ⟨rfl, rfl, rfl, rfl⟩, rfl, rfl, rfl, rfl, rfl, rfl, fun item v => ⟨fun hitem hbad => ?_, fun hgood => ?_⟩,
    fun off len => rfl, fun off bytes => ?_, fun cmd hroom => ?_, fun hon => ?_⟩
  · show execMiConfigurationSet item v s = _
    have hrefused : (s.straps.mgmt || decide (v.toNat = 0) || decide (3 < v.toNat)) = true := by
      rw [BitVec.toNat_eq] at hbad
      simpa [or_assoc] using hbad
    rw [execMiConfigurationSet, if_neg (by simp [hserved]), hitem, hrefused, if_pos (by decide)]
  · show execMiConfigurationSet item v s = _
    have htaken : ¬(decide (item = .frequency) && (s.straps.mgmt || decide (v.toNat = 0) || decide (3 < v.toNat))) =
        true := by
      rw [Bool.and_eq_true, decide_eq_true_eq, not_and]
      intro hitem
      obtain ⟨hmgmt, hv, hmax⟩ := hgood hitem
      rw [ne_eq, BitVec.toNat_eq] at hv
      simpa [hmgmt, hmax] using hv
    rw [execMiConfigurationSet, if_neg (by simp [hserved]), if_neg htaken]
  · show execMiVpdWrite off bytes s = _
    rw [execMiVpdWrite, if_neg (by simp [hserved])]
  · show execMiTunnelledAdmin cmd s = _
    have hserved' : miServed (s.reply 0 []) = true := hserved
    unfold execMiTunnelledAdmin
    dsimp only
    rw [hserved', if_neg (by decide)]
    exact congrArg Host.Outcome.next (if_neg (Nat.not_le.2 hroom))
  · show execMctpPacketError s = _
    rw [execMctpPacketError, if_pos hon]

end Sys2Proof.Machine
end

section
/-! PROOFS. The admin commands: what they report and set, namespaces and firmware. -/

namespace Sys2Proof.Machine

open Sys2Proof

/-! How a served admin command reaches its effect, once for each wrapper. -/

section
variable {s : State} {k : Nat} (hserved : serves s k true = true)
include hserved

theorem onAdmin_reply (f : State → Nat → State) :
    onAdmin (s.reply 0 []) k f = f (s.reply 0 []) (s.slot k).ctrl := if_pos hserved

variable (hidle : s.nvme.sanitize.running = false)
include hidle

theorem onAdminIdle_runs (f : State → Nat → State) : onAdminIdle s k f = f s (s.slot k).ctrl := by
  rw [onAdminIdle, onAdmin_served hserved, if_neg (ne_true_of_eq_false hidle)]

theorem onPrimary_runs (h0 : (s.slot k).ctrl = 0) (f : State → State) : onPrimary s k f = f s := by
  rw [onPrimary, onAdminIdle_runs hserved hidle, if_pos h0]

/-- Attach and detach act on a namespace that stands, for a list of controllers, unless a reservation conflicts (R340). -/
theorem onAttach_runs (h0 : (s.slot k).ctrl = 0) {y : Nat} {n : Ns} {ctrls : List Nat} (hy : y ≠ 0) (hmax : y ≤ 64)
    (hn : s.ns (y - 1) = some n) (hdel : n.deleting = false) (hctrls : ctrls ≠ [])
    (hfree : n.conflict (hostOf s k) true = false) (f : State → Nat → Ns → State) :
    onAttach s k y ctrls f = f s (y - 1) n := by
  rw [onAttach, onPrimary_runs hserved hidle h0, if_neg (by simpa [hy] using hmax), hn]
  dsimp only
  rw [hdel, if_neg (by decide), if_neg (by simpa using hctrls), hfree, if_neg (by decide)]

end

/-- The self-test of the controller alone, or of every namespace attached to it (R354). -/
theorem selfTest_starts {s : State} {k : Nat} (hserved : serves s k true = true)
    (hidle : s.nvme.sanitize.running = false) (hfree : s.nvme.selfTest = none) {nsid : Nat}
    (hnsid : nsid = 0 ∨ nsid = 0xFFFFFFFF) (code : Nat) :
    selfTest s k code nsid = schSettle (endCmd { s with nvme := { s.nvme with
      selfTest := some { code := code, nss := if nsid = 0 then [] else (allNs s).filterMap fun e =>
        if e.2.attached.contains (s.slot k).ctrl then some e.1 else none } } } k .success) [] := by
  rw [selfTest, onAdminIdle_runs hserved hidle]
  dsimp only
  rw [hfree, if_neg (by decide)]
  obtain rfl | rfl := hnsid
  · rw [if_neg (by simp), if_pos rfl, if_pos rfl]
  · rw [if_neg (by simp), if_neg (by decide), if_pos rfl, if_neg (by decide)]

/-- An ownership move of an attached namespace that moves to no one yet (R326). -/
theorem moveOwner_moves {s : State} {k y ctrl : Nat} {x : Ns} (h0 : y ≠ 0) (hmax : y ≤ 64) (hx : s.ns (y - 1) = some x)
    (hmove : x.moving = none) (hatt : x.attached.contains ctrl = true) :
    moveOwner s k y ctrl =
      if x.owner = some ctrl then endCmd s k .success
      else settleMoves (startSlot (s.modNs (y - 1) fun n => { n with moving := some (ctrl, some k) }) k) := by
  rw [moveOwner, if_neg (by simpa [h0] using hmax), hx]
  dsimp only
  rw [hmove, if_neg (by decide), hatt, if_neg (by decide)]

/-- Settles O40: each command that is served, with its checks passed. -/
theorem adminCommands : Obligations.AdminCommands := by
  intro s slot nsid hserved
  dsimp only
  refine ⟨fun cns csi cntid d hd => ?_, fun lid offset numd rae d halign hd hlen => ?_,
    fun fid w save data t hfid hnot hsave hset => ?_, fun fid w hfid => ⟨fun v hv => ?_, ?_, ?_, ?_⟩,
    fun ctrl x h0 hmax hx hmove hatt => ⟨fun how => ?_, fun how => ?_⟩, fun hidle hfree hnsid => ⟨?_, ?_⟩, ?_,
    fun hidle h0 passes pattern invert => ⟨?_, ?_⟩, ?_, fun halias => ?_, fun a halias => ?_, fun nonce hready => ?_, ?_⟩
  · show execIdentify slot cns nsid csi cntid s = _
    rw [execIdentify, onAdmin_reply hserved, hd]
  · show execGetLogPage slot lid nsid offset numd rae s = _
    rw [execGetLogPage, onAdmin_reply hserved]
    dsimp only
    rw [if_neg (by simp [halign]), hd]
    dsimp only
    rw [if_neg (Nat.not_lt.2 hlen)]
  · show execSetFeatures slot fid nsid save w data s = _
    have hnot' : fid.toNat ≠ 0xC0 := fun h => hnot (BitVec.eq_of_toNat_eq h)
    have h7 : fid.toNat = 7 ↔ fid = 7 := ⟨fun h => BitVec.eq_of_toNat_eq h, fun h => congrArg BitVec.toNat h⟩
    rw [execSetFeatures, onAdmin_served hserved]
    dsimp only
    rw [hfid, if_neg (by decide), if_neg (by simpa using hsave), if_neg hnot', hset]
    simp only [h7]
  · show execGetFeatures slot fid nsid 0 w s = _
    rw [execGetFeatures, onAdmin_reply hserved]
    dsimp only
    rw [hfid, if_neg (by decide), if_neg (by decide), if_neg (by decide), if_neg (by decide), hv]
  · show execGetFeatures slot fid nsid 1 w s = _
    rw [execGetFeatures, onAdmin_reply hserved]
    dsimp only
    rw [hfid, if_neg (by decide), if_pos (by decide)]
  · show execGetFeatures slot fid nsid 2 w s = _
    rw [execGetFeatures, onAdmin_reply hserved]
    dsimp only
    rw [hfid, if_neg (by decide), if_neg (by decide), if_pos (by decide)]
    rfl
  · show execGetFeatures slot fid nsid 3 w s = _
    rw [execGetFeatures, onAdmin_reply hserved]
    dsimp only
    rw [hfid, if_neg (by decide), if_neg (by decide), if_neg (by decide), if_pos (by decide)]
  · show execAnaOwnerSet slot nsid ctrl s = _
    rw [execAnaOwnerSet, onAdmin_served hserved, moveOwner_moves h0 hmax hx hmove hatt, if_pos how]
  · show execAnaOwnerSet slot nsid ctrl s = _
    rw [execAnaOwnerSet, onAdmin_served hserved, moveOwner_moves h0 hmax hx hmove hatt, if_neg how]
  · show Host.Outcome.next (selfTest s slot.val 1 nsid.toNat) = _
    rw [selfTest_starts hserved hidle hfree hnsid]
  · show Host.Outcome.next (selfTest s slot.val 2 nsid.toNat) = _
    rw [selfTest_starts hserved hidle hfree hnsid]
  · show execSelfTestAbort slot s = _
    rw [execSelfTestAbort, onAdmin_served hserved]
  · show Host.Outcome.next (startSanitize s slot.val 0 0 false) = _
    rw [startSanitize, onPrimary_runs hserved hidle h0]
    rfl
  · show execSanitizeOverwrite slot passes pattern invert s = _
    rw [execSanitizeOverwrite, startSanitize, onPrimary_runs hserved hidle h0]
    dsimp only
    rw [if_neg (by split <;> omega)]
  · show execSecurityProtocolList slot s = _
    rw [execSecurityProtocolList, onAdmin_reply hserved]
  · show execSecurityCertChain slot s = _
    have halias' : (s.reply 0 []).sec.alias_ = none := halias
    rw [execSecurityCertChain, onAdmin_reply hserved, halias']
    dsimp only
    rw [List.append_nil]
    rfl
  · show execSecurityCertChain slot s = _
    have halias' : (s.reply 0 []).sec.alias_ = some a := halias
    rw [execSecurityCertChain, onAdmin_reply hserved, halias']
    rfl
  · show execSecurityAttestReport slot nonce s = _
    have hready' : (s.reply 0 []).get SEC.SEC_STAT.ALIAS_READY ≠ 0 := hready
    have hversions (v : Nat) : (sget none s.sec.versions v).elim [] (fun x => [v, x.1, x.2.1, x.2.2]) =
        match sget none s.sec.versions v with
        | some x => [v, x.1, x.2.1, x.2.2]
        | none => [] := by
      cases sget none s.sec.versions v <;> rfl
    rw [execSecurityAttestReport, onAdmin_reply hserved]
    dsimp only
    rw [if_neg hready', funext hversions]
    rfl
  · show execSecurityUnlockNonce slot s = _
    rw [execSecurityUnlockNonce, onAdmin_reply hserved]
    rfl

/-- A format whose checks pass enters the order of the host's commands (R337). -/
theorem formatCmd_starts {s : State} {k y lbaf prot : Nat} {n : Ns} {first : Bool} (hserved : serves s k true = true)
    (hidle : s.nvme.sanitize.running = false) (h0 : y ≠ 0) (hmax : y ≤ 64) (hn : s.ns (y - 1) = some n)
    (hdel : n.deleting = false) (hform : n.formatting = false) (hfree : n.conflict (hostOf s k) true = false)
    (hlbaf : lbaf ≤ 3) (hprot : prot ≤ 3) (hnoprot : lbaf = 0 → prot = 0) (hfirst : lbaf = 1 → first = false)
    (ext erase : Bool) :
    formatCmd s k y lbaf prot first ext erase = settleHost (enterOrder
      (s.modNs (y - 1) fun n => { n with formatting := true, older := nsCommands s k (y - 1) })
      { slot := k, op := .format lbaf (prot + (if first then 8 else 0)) ext erase, nsx := y - 1
        zone := 2 ^ 19, first := 0, count := 0, lba := 0 }) (2 ^ 19) := by
  rw [formatCmd, onAdminIdle_runs hserved hidle, if_neg (by simpa [h0] using hmax), hn]
  dsimp only
  rw [hdel, if_neg (by decide), hform, if_neg (by decide), hfree, if_neg (by decide),
    if_neg (by simpa [Nat.not_lt.2 hlbaf, Nat.not_lt.2 hprot] using hnoprot), if_neg (by simpa using hfirst)]

/-- A list that names someone names someone once its repetitions are gone. -/
theorem eraseDups_ne_nil {l : List Nat} (h : l ≠ []) : l.eraseDups ≠ [] := by
  obtain ⟨a, l, rfl⟩ := List.exists_cons_of_ne_nil h
  rw [List.eraseDups_cons]
  exact List.cons_ne_nil _ _

/-- Settles O41: each command that is served, with its checks passed. -/
theorem namespaceCommands : Obligations.NamespaceCommands := by
  intro s slot nsid ctrls
  dsimp only
  intro hserved hidle
  refine ⟨fun y n lbaf prot first ext hy h0 hmax hn hdel hform hfree hlbaf hprot hnoprot hfirst => ⟨?_, ?_⟩,
    fun hctrl => ⟨fun csi nsze ncap flbas dps weave verified place x hcheck hx => ?_, fun xs hone hall hxs => ?_,
      fun n h0 hmax hn hdel hctrls hfree => ⟨fun hnew => ?_, fun hold => ?_⟩⟩⟩
  · subst hy
    exact congrArg Host.Outcome.next (formatCmd_starts hserved hidle h0 hmax hn hdel hform hfree hlbaf hprot
      (fun h => congrArg BitVec.toNat (hnoprot (BitVec.eq_of_toNat_eq h)))
      (fun h => hfirst (BitVec.eq_of_toNat_eq h)) ext false)
  · subst hy
    exact congrArg Host.Outcome.next (formatCmd_starts hserved hidle h0 hmax hn hdel hform hfree hlbaf hprot
      (fun h => congrArg BitVec.toNat (hnoprot (BitVec.eq_of_toNat_eq h)))
      (fun h => hfirst (BitVec.eq_of_toNat_eq h)) ext true)
  · show execNsCreate slot csi nsze ncap flbas dps weave verified place s = _
    rw [execNsCreate, onPrimary_runs hserved hidle hctrl]
    dsimp only
    rw [hcheck, hx]
  · have hlist : (if nsid.toNat = 0xFFFFFFFF then (allNs s).map (·.1) else [nsid.toNat - 1]) = xs := by
      split
      · next hy => exact (hall hy).symm
      · next hy => exact (hone hy).2.2.symm
    have hrange : ¬(decide (nsid.toNat ≠ 0xFFFFFFFF) && (decide (nsid.toNat = 0) || decide (64 < nsid.toNat))) =
        true := by
      rw [Bool.and_eq_true, not_and, decide_eq_true_eq]
      intro hy
      simpa using ⟨(hone hy).1, (hone hy).2.1⟩
    have hstand : (xs.all fun x => (s.ns x).isSome) = true := by
      rw [List.all_eq_true]
      intro x hx
      obtain ⟨n, hn, -⟩ := hxs x hx
      rw [hn]
      rfl
    have hnone (f : Ns → Bool) (hf : ∀ x ∈ xs, ∀ n, s.ns x = some n → f n = false) :
        (xs.any fun x => match s.ns x with | some n => f n | none => false) = false := by
      rw [List.any_eq_false]
      intro x hx
      obtain ⟨n, hn, -⟩ := hxs x hx
      rw [hn]
      simpa using hf x hx n hn
    have hdel := hnone (·.deleting) fun x hx n hn => by
      obtain ⟨m, hm, hdel, -⟩ := hxs x hx
      rwa [Option.some.inj (hn.symm.trans hm)]
    have hfree := hnone (·.conflict (hostOf s slot.val) true) fun x hx n hn => by
      obtain ⟨m, hm, -, hfree⟩ := hxs x hx
      rwa [Option.some.inj (hn.symm.trans hm)]
    show execNsDelete slot nsid s = _
    rw [execNsDelete, onPrimary_runs hserved hidle hctrl]
    dsimp only
    rw [hlist, if_neg hrange, hstand, if_neg (by decide)]
    exact congrArg Host.Outcome.next ((if_neg (ne_true_of_eq_false hdel)).trans (if_neg (ne_true_of_eq_false hfree)))
  · show execNsAttach slot nsid ctrls s = _
    rw [execNsAttach]
    dsimp only
    rw [onAttach_runs hserved hidle hctrl h0 hmax hn hdel (eraseDups_ne_nil (by simpa using hctrls)) hfree, hnew, if_neg (by decide)]
  · show execNsDetach slot nsid ctrls s = _
    rw [execNsDetach]
    dsimp only
    rw [onAttach_runs hserved hidle hctrl h0 hmax hn hdel (eraseDups_ne_nil (by simpa using hctrls)) hfree, hold, if_neg (by decide)]

end Sys2Proof.Machine
end

section
/-! PROOFS. Firmware slots, and the reads and writes of a namespace. -/

namespace Sys2Proof.Machine

open Sys2Proof

/-- A Commit whose pending image may be stored stores it and goes on (R357, R358). -/
theorem storeThen_stores {s : State} {k slot : Nat} (hslot : slotWritable s slot = true) (hfree : nvFree s = true)
    (hpower : s.wires.pfail = false) (hcheck : imageCheck s (pendingImage s.nvme.pieces) slot (slot ≠ 1) = 0)
    (f : State → State) :
    storeThen s k slot f = f (storeImage { s with nvme := { s.nvme with pieces := [] } } slot
      ((pendingImage s.nvme.pieces).take (imageTotal (pendingImage s.nvme.pieces)))) := by
  rw [storeThen, hslot, if_neg (by decide), hfree, hpower, if_neg (by decide)]
  dsimp only
  rw [hcheck]
  rfl

/-- A slot that stands is named as the Commit asks (R358). -/
theorem withStored_stands {s : State} {k slot : Nat} (hmin : 1 ≤ slot) (hmax : slot ≤ 4)
    (hcheck : imageCheck s (slotImage s slot) slot (slot ≠ 1) = 0) (f : State → State) :
    withStored s k slot f = f s := by
  rw [withStored, if_neg (by simp; omega), hcheck]
  rfl

section
variable {s : State} {k : Nat} (hserved : serves s k true = true) (hidle : s.nvme.sanitize.running = false)
include hserved hidle

theorem onCommit_stores (f : State → State) : onCommit s k true f = f s := by
  rw [onCommit, onAdminIdle_runs hserved hidle, if_neg (by simp)]

theorem onCommit_activates (hrec : recovering s = false) (f : State → State) : onCommit s k false f = f s := by
  rw [onCommit, onAdminIdle_runs hserved hidle, hrec, if_neg (by decide)]

end

/-- Settles O42: each command that is served, with its checks passed. -/
theorem firmwareCommands : Obligations.FirmwareCommands := by
  intro s slot offset bytes fs
  dsimp only
  intro hserved hidle
  refine ⟨fun halign hlen hsome hmax hnew => ?_, fun ⟨hslot, hfree, hpower, hcheck⟩ => ⟨?_, ?_⟩,
    fun hrec => ⟨fun ⟨hmin, hmax, hcheck⟩ => ?_, fun hact => ⟨fun hnone hstand => ?_, fun hsome hmay hstand => ?_⟩⟩⟩
  · show execFwImageDownload slot offset bytes s = _
    rw [execFwImageDownload, onAdminIdle_runs hserved hidle]
    dsimp only
    rw [List.length_map, if_neg (by simpa [halign, hlen, hsome] using hmax), hnew, if_neg (by decide)]
  · show execFwCommitStore slot fs s = _
    rw [execFwCommitStore, onCommit_stores hserved hidle, storeThen_stores hslot hfree hpower hcheck]
  · show execFwCommitStoreActivate slot fs s = _
    rw [execFwCommitStoreActivate, onCommit_stores hserved hidle]
    dsimp only
    rw [storeThen_stores hslot hfree hpower hcheck]
  · show execFwCommitActivate slot fs s = _
    rw [execFwCommitActivate, onCommit_activates hserved hidle hrec, withStored_stands hmin hmax hcheck]
  · obtain ⟨hmin, hmax, hcheck⟩ := hstand
    show execFwCommitActivateNow slot fs s = _
    rw [execFwCommitActivateNow, onCommit_activates hserved hidle hrec]
    dsimp only
    rw [if_neg (by simp [hact]), if_pos (by simp [hnone]), withStored_stands hmin hmax hcheck]
  · obtain ⟨hslot, hfree, hpower, hcheck⟩ := hmay
    obtain ⟨hmin, hmax, hstands⟩ := hstand
    show execFwCommitActivateNow slot fs s = _
    rw [execFwCommitActivateNow, onCommit_activates hserved hidle hrec]
    dsimp only
    rw [if_neg (by simp [hact]), if_neg (by simpa using hsome), storeThen_stores hslot hfree hpower hcheck,
      withStored_stands hmin hmax hstands]

/-- A command of a namespace that takes it runs on the namespace (R341). -/
theorem onNs_takes {s : State} {k nsid x : Nat} {n : Ns} (h : TakesIo s k nsid x n) (f : State → Nat → Ns → State) :
    onNs s k nsid f = f s x n := by
  obtain ⟨hserved, hidle, hact, hmove⟩ := h
  rw [onNs, hserved, if_neg (by decide), hidle, if_neg (by decide), hact]
  dsimp only
  rw [hmove, if_neg (by decide)]

theorem onNs_reply {s : State} {k nsid x : Nat} {n : Ns} (h : TakesIo s k nsid x n) (f : State → Nat → Ns → State) :
    onNs (s.reply 0 []) k nsid f = f (s.reply 0 []) x n := onNs_takes (s := s.reply 0 []) h f

/-- A command's data is as many blocks as it names. -/
@[simp] theorem length_hostBlocks (n : Ns) (pi : PiIn) (ref : Nat) (data md : List Nat) (count : Nat) :
    (hostBlocks n pi ref data md count).length = count := by
  rw [hostBlocks]
  dsimp only
  rw [List.length_map, List.length_range]

/-- A write whose checks pass goes to its zone, or in a conventional namespace straight to the lines (R342, R343). -/
theorem writeCmd_takes {s : State} {k x lba zone off : Nat} {n : Ns} {op : HostOp} {fua : Bool} {pi : PiIn}
    {blocks : List (List Nat)} {bad : Option HostStatus} (hat : blockAt n lba = some (zone, off))
    (hreset : resetPending s x zone = false) (hcheck : writeCheck s k n lba blocks.length bad = none) :
    writeCmd s k x n op lba fua pi blocks bad =
      if n.kind = 3 then takeWrite s k x op zone off lba fua pi blocks none
      else writeZone s k x n op zone off lba fua pi blocks := by
  rw [writeCmd, hat]
  dsimp only
  rw [hreset, if_neg (by decide), hcheck]

/-- Settles O43: each command that takes its namespace, with its checks passed. -/
theorem readWriteCommands : Obligations.ReadWriteCommands := by
  intro s slot nsid lba nlb fua data md pi x n
  dsimp only
  intro htakes
  refine ⟨fun zone first lines t heasing hat halloc => ⟨fun hcheck => ?_, fun hcheck => ?_⟩,
    fun zone off hat hreset => ⟨fun hcheck hmax => ⟨fun hkind => ?_, fun hkind => ?_⟩,
      fun hcheck => ⟨fun hkind => ?_, fun hkind => ?_⟩, fun hcheck hkind => ?_⟩, fun hall hfree => ?_⟩
  · show execNvmRead slot nsid lba nlb pi s = _
    rw [execNvmRead, onNs_reply htakes]
    unfold readCmd
    rw [hcheck, hat]
    dsimp only
    rw [heasing, if_neg (by decide), halloc]
    rfl
  · show execNvmVerify slot nsid lba nlb pi s = _
    rw [execNvmVerify, onNs_reply htakes]
    unfold readCmd
    rw [hcheck, hat]
    dsimp only
    rw [heasing, if_neg (by decide), halloc]
    rfl
  · show execNvmWrite slot nsid lba nlb fua data md pi s = _
    rw [execNvmWrite, onNs_reply htakes]
    dsimp only
    rw [if_neg (Nat.not_lt.2 hmax), writeCmd_takes hat hreset (by rwa [length_hostBlocks]), if_neg hkind]
  · show execNvmWrite slot nsid lba nlb fua data md pi s = _
    rw [execNvmWrite, onNs_reply htakes]
    dsimp only
    rw [if_neg (Nat.not_lt.2 hmax), writeCmd_takes hat hreset (by rwa [length_hostBlocks]), if_pos hkind]
  · show execWriteZeroes slot nsid lba nlb fua pi s = _
    rw [execWriteZeroes, onNs_reply htakes, writeCmd_takes hat hreset (by rwa [length_hostBlocks]), if_neg hkind]
  · show execWriteZeroes slot nsid lba nlb fua pi s = _
    rw [execWriteZeroes, onNs_reply htakes, writeCmd_takes hat hreset (by rwa [length_hostBlocks]), if_pos hkind]
  · show execZoneAppend slot nsid lba nlb fua data md pi s = _
    rw [execZoneAppend, onNs_reply htakes]
    dsimp only
    rw [if_neg hkind, length_hostBlocks, hcheck, hat]
    dsimp only
    rw [hreset, if_neg (by decide)]
  · show execNvmFlush slot nsid s = _
    rw [execNvmFlush]
    dsimp only
    rw [if_neg hall, onNs_takes htakes, hfree, if_neg (by decide)]

end Sys2Proof.Machine
end

section
/-! PROOFS. Zone management and reservations. -/

namespace Sys2Proof.Machine

open Sys2Proof

/-- A zone command that takes its zones acts on them (R344, R350). -/
theorem onZones_takes {s : State} {k nsid lba x : Nat} {all : Bool} {accepts : Nat → Bool} {zs : List Nat}
    (h : TakesZones s k nsid lba all accepts x zs) (f : State → Nat → List Nat → State) :
    onZones s k nsid lba all accepts f = f s x zs := by
  obtain ⟨n, htakes, hkind, hfree, hevery, hone⟩ := h
  rw [onZones, onNs_takes htakes, if_neg hkind, hfree, if_neg (by decide)]
  cases all with
  | true => rw [if_pos rfl, hevery rfl]
  | false =>
    obtain ⟨zone, rfl, hat, hreset, honline, haccepts⟩ := hone rfl
    rw [if_neg (by decide), hat]
    dsimp only
    rw [if_neg (by decide), hreset, if_neg (by decide), honline]
    dsimp only
    rw [haccepts, if_pos rfl]

/-- Settles O44: each command on the zones it takes. -/
theorem zoneCommands : Obligations.ZoneCommands := by
  intro s slot nsid lba all x
  dsimp only
  refine ⟨fun zs t h hopen => ?_, fun zs h => ?_, fun zs h => ?_, fun zs bands h => ?_, fun zs h => ?_, fun zs h => ?_,
    fun n option short entries want htakes hkind hfree hlba hstate => ?_⟩
  · show execZoneOpen slot nsid lba all s = _
    rw [execZoneOpen, onZones_takes h, hopen]
  · show execZoneClose slot nsid lba all s = _
    rw [execZoneClose, onZones_takes h]
  · show execZoneFinish slot nsid lba all s = _
    rw [execZoneFinish, onZones_takes h]
  · show execZoneReset slot nsid lba all bands s = _
    rw [execZoneReset, onZones_takes h]
  · show execZoneOffline slot nsid lba all s = _
    rw [execZoneOffline, onZones_takes h]
  · show execZoneSetDescExt slot nsid lba s = _
    rw [execZoneSetDescExt, onZones_takes h]
  · have hfree' : n.conflict (hostOf (s.reply 0 []) slot.val) false = false := hfree
    show execZoneReport slot nsid lba false option short entries s = _
    rw [execZoneReport, onNs_reply htakes]
    dsimp only
    rw [if_neg hkind, hfree', if_neg (by decide), if_neg (Nat.not_le.2 hlba), if_neg (by decide), hstate,
      portOf_reply, State.slot_reply]
    cases want with
    | none => simp only [Option.all_none]
    | some st => simp only [Option.all_some]

/-- An acquire of a registered host, of a reservation type that there is (R351). -/
theorem exec_reservationAcquire {s : State} {slot : Fin 4096} {nsid : BitVec 32} {x : Nat} {n : Ns} {action : BitVec 3}
    {rtype : BitVec 8} {mine other : BitVec 64} (htakes : TakesIo s slot.val nsid.toNat x n)
    (hreg : n.registrants.contains (hostOf s slot.val, mine.toNat) = true) (hmin : 1 ≤ rtype.toNat)
    (hmax : rtype.toNat ≤ 6) (hact : action = 0 ∨ action = 1 ∨ action = 2) :
    exec (.reservationAcquire slot nsid action false rtype mine other) s = .next (
      let k := slot.val
      let host := hostOf s k
      let t := rtype.toNat
      let abort := action.toNat = 2
      let named := fun (r : Nat × Nat) => decide (r.2 = other.toNat)
      let holderKey := n.reservation.bind fun v => (n.registrants.find? fun r => r.1 = v.2).map (·.2)
      if action.toNat = 0 then
        match n.reservation with
        | none => endCmd (s.modNs x fun n => { n with reservation := some (t, host) }) k .success
        | some (u, _) => endCmd s k (if n.holds host && u = t then .success else .reservationConflict)
      else
        let done := fun (s : State) => endCmd (resCount s x) k .success
        match n.reservation with
        | none =>
          if n.registrants.any named then done (preempt s x host abort named) else endCmd s k .reservationConflict
        | some (u, _) =>
          if u = 5 || u = 6 then
            if other.toNat = 0 then done (preemptTake s x host t abort fun _ => true)
            else if n.registrants.any named then done (preempt s x host abort named)
            else endCmd s k .reservationConflict
          else if holderKey = some other.toNat then done (preemptTake s x host t abort named)
          else if other.toNat = 0 then endCmd s k .invalidField
          else if n.registrants.any named then done (preempt s x host abort named)
          else endCmd s k .reservationConflict) := by
  have hvalid : ¬(false || decide (rtype.toNat = 0) || decide (6 < rtype.toNat) || decide (2 < action.toNat)) = true := by
    have hlow : action.toNat ≤ 2 := by obtain rfl | rfl | rfl := hact <;> decide
    simp only [Bool.or_eq_true, decide_eq_true_eq, Bool.false_eq_true, false_or]
    omega
  show execReservationAcquire slot nsid action false rtype mine other s = _
  rw [execReservationAcquire, onNs_takes htakes]
  dsimp only
  rw [if_neg hvalid, hreg]
  exact congrArg Host.Outcome.next (if_neg (by decide))

/-- Settles O45: each command that takes its namespace. -/
theorem reservationCommands : Obligations.ReservationCommands := by
  intro s slot nsid iekey x n
  dsimp only
  intro htakes
  refine ⟨fun cptpl old new => ⟨fun hkey => ?_, fun hkey => ?_, fun v hkey hold => ?_, fun hold => ?_⟩, ?_,
    fun action rtype mine other hreg hmin hmax => ⟨fun hnone => ?_, fun hact => ⟨fun hnone hany => ?_,
      fun u h hres hall hother => ?_, fun u h hres h5 h6 hholder => ?_⟩⟩,
    fun rtype mine hreg => ⟨?_, fun hnone => ?_, fun h hres hholds => ?_⟩⟩
  · show execReservationRegister slot nsid 0 iekey cptpl old new s = _
    rw [execReservationRegister, onNs_takes htakes]
    dsimp only
    rw [if_pos (by decide), hkey]
  · show execReservationRegister slot nsid 0 iekey cptpl old new s = _
    rw [execReservationRegister, onNs_takes htakes]
    dsimp only
    rw [if_pos (by decide), hkey]
    exact congrArg Host.Outcome.next (if_pos rfl)
  · show execReservationRegister slot nsid 1 iekey cptpl old new s = _
    rw [execReservationRegister, onNs_takes htakes]
    dsimp only
    rw [if_neg (by decide), if_pos (by decide), hkey, if_neg]
    obtain h | h := hold <;> simp [h]
  · show execReservationRegister slot nsid 2 iekey cptpl old new s = _
    rw [execReservationRegister, onNs_takes htakes]
    dsimp only
    rw [if_neg (by decide), if_neg (by decide), if_pos (by decide), if_neg]
    obtain h | h := hold <;> simp [h]
  · show execReservationReport slot nsid s = _
    rw [execReservationReport, onNs_reply htakes]
    rfl
  · rw [exec_reservationAcquire htakes hreg hmin hmax (.inl rfl)]
    dsimp only
    rw [if_pos (by decide), hnone]
  · rw [exec_reservationAcquire htakes hreg hmin hmax (.inr hact)]
    dsimp only
    rw [if_neg (by obtain rfl | rfl := hact <;> decide), hnone]
    exact congrArg Host.Outcome.next (if_pos hany)
  · rw [exec_reservationAcquire htakes hreg hmin hmax (.inr hact)]
    dsimp only
    rw [if_neg (by obtain rfl | rfl := hact <;> decide), hres]
    exact congrArg Host.Outcome.next ((if_pos (by simpa using hall)).trans (if_pos hother))
  · rw [exec_reservationAcquire htakes hreg hmin hmax (.inr hact)]
    dsimp only
    rw [if_neg (by obtain rfl | rfl := hact <;> decide), hres]
    exact congrArg Host.Outcome.next ((if_neg (by simp [h5, h6])).trans (if_pos hholder))
  · show execReservationRelease slot nsid 1 false rtype mine s = _
    rw [execReservationRelease, onNs_takes htakes]
    dsimp only
    rw [if_neg (by decide), hreg, if_neg (by decide), if_pos (by decide)]
  · show execReservationRelease slot nsid 0 false rtype mine s = _
    rw [execReservationRelease, onNs_takes htakes]
    dsimp only
    rw [if_neg (by decide), hreg, if_neg (by decide), if_neg (by decide), hnone]
  · show execReservationRelease slot nsid 0 false rtype mine s = _
    rw [execReservationRelease, onNs_takes htakes]
    dsimp only
    rw [if_neg (by decide), hreg, if_neg (by decide), if_neg (by decide), hres]
    exact congrArg Host.Outcome.next ((if_neg (by simp)).trans (if_pos hholds))

end Sys2Proof.Machine
end

section
/-! PROOFS. The scheduler, power-loss writing and the spindle. -/

namespace Sys2Proof.Machine

open Sys2Proof

/-- Settles O46: each command, run in the state its clause names. -/
theorem schedulerCommands : Obligations.SchedulerCommands := by
  intro s
  dsimp only
  refine ⟨fun r hr => ⟨fun hstale => ?_, fun hepoch => ⟨fun hnone => ?_, fun o ho => ?_⟩⟩, fun hnone => ?_,
    fun age o ho => ?_, rfl⟩
  · show execTagCompletionReceive s = _
    unfold execTagCompletionReceive
    dsimp only
    rw [hr]
    exact congrArg Host.Outcome.next (if_pos hstale)
  · show execTagCompletionReceive s = _
    unfold execTagCompletionReceive
    dsimp only
    rw [hr]
    refine congrArg Host.Outcome.next ((if_neg (Classical.not_not.2 hepoch)).trans ?_)
    rw [hnone]
  · show execTagCompletionReceive s = _
    unfold execTagCompletionReceive
    dsimp only
    rw [hr]
    refine congrArg Host.Outcome.next ((if_neg (Classical.not_not.2 hepoch)).trans ?_)
    rw [ho]
  · show execTagCompletionReceive s = _
    unfold execTagCompletionReceive
    dsimp only
    rw [hnone]
    rfl
  · show execOperationAged age s = _
    unfold execOperationAged
    rw [ho]

/-- Settles O47: each command, run in the state its clause names. -/
theorem powerLossCommands : Obligations.PowerLossCommands := by
  intro s act written bad bads ms q w
  dsimp only
  refine ⟨fun hst hrecs hquiet => ?_, fun hst hlines => ⟨fun hseek => ?_, fun hseek hcan => ?_⟩,
    fun hfloor hmin hmax => ?_,
    fun hindex => ⟨fun hlive hup htrain hserved => ⟨fun b hb => ?_, fun hnone => ?_⟩, fun htrain hdown => ?_⟩,
    fun h htest hkeeper hst hwork => ?_⟩
  · show execPlSeal s = _
    have hbusy : ((List.range 8).any fun n => (List.range 32).any fun t =>
        (s.tag n t).open' || decide ((s.tag n t).st = .fetching)) = false := by
      simp only [List.any_eq_false, List.mem_range, List.any_eq_true, not_exists, not_and]
      intro n hn t ht
      obtain ⟨hopen, hfetch⟩ := hquiet n hn t ht
      simp [hopen, hfetch]
    rw [execPlSeal, if_neg]
    simp [hst, hrecs, hbusy]
  · show execPlRefugeWriteDone act bad s = _
    unfold execPlRefugeWriteDone
    dsimp only
    rw [if_neg (by obtain h | h := hst <;> simp [h, hlines]), hseek, if_neg (by decide)]
  · show execPlRefugeWriteDone act bad s = _
    unfold execPlRefugeWriteDone
    dsimp only
    rw [if_neg (by obtain h | h := hst <;> simp [h, hlines]), hseek, if_pos rfl, hcan, if_neg (by decide)]
  · show Host.Outcome.next (plFloorStop written bads s) = _
    rw [plFloorStop, if_neg (by simp [hfloor])]
    exact congrArg Host.Outcome.next (if_pos (Bool.and_eq_true_iff.2 ⟨decide_eq_true hmin, decide_eq_true hmax⟩))
  · show execRefugeIndexProgram ms s = _
    rw [execRefugeIndexProgram, if_neg (by simpa using hindex), htrain, hlive, hup, hserved, if_neg (by decide),
      if_neg (by decide), hb]
  · show execRefugeIndexProgram ms s = _
    rw [execRefugeIndexProgram, if_neg (by simpa using hindex), htrain, hlive, hup, hserved, if_neg (by decide),
      if_neg (by decide), hnone]
  · show execRefugeIndexProgram ms s = _
    rw [execRefugeIndexProgram, if_neg (by simpa using hindex), htrain,
      if_neg (by obtain h | h := hdown <;> simp [h]), if_pos (by simpa using hdown)]
  · show execPlTestStart q w s = _
    rw [execPlTestStart, guarded_admitted h]
    refine congrArg Host.Outcome.next (if_pos ?_)
    rw [hkeeper, hwork]
    simpa [htest] using hst

/-- A write of SPN_CTL sets the speed, then starts and stops (R403, R404). -/
theorem spnCtlWrite_reply (q : Req) (w : Word) (s : State) :
    spnCtlWrite q w (s.reply 0 []) =
      let t := (plainWrite (s.reply 0 []) q spnPage 0x040 w).put SPN.SPN_CTL.SPEED (s.get SPN.SPN_CTL.SPEED)
      let t := speedWrite t (SPN.SPN_CTL.SPEED.of w)
      let u := if SPN.SPN_CTL.START.of w = 0 then t
        else if spn t = spFault then spnRefused t 3
        else if t.spn.reverse then spnRefused t 2
        else if spn t = spStopped && running t spnPage && !pfailed t then beginStart t
        else t
      if SPN.SPN_CTL.STOP.of w = 0 then u
      else if spn u = spFault then spnRefused u 3
      else if spn u = spStopped || spn u = spSpindown then u
      else spinDown u := rfl

/-- Settles O48: each command, run in the state its clause names. -/
theorem spindleCommands : Obligations.SpindleCommands := by
  intro s q w rpm backward
  dsimp only
  refine ⟨fun h => ⟨fun hstart hstop => ?_, fun hstart hstop hst hrev hrun hpower => ?_,
      fun hstart hstop hfault hstopped hdown => ?_⟩,
    fun hlive => ⟨fun hst => ⟨fun hslow => ⟨fun hrest => ?_, fun hrest => ?_⟩, fun hfast => ⟨?_, ?_⟩⟩, fun hst => ?_,
      fun phase interval mean peak => ⟨fun hin => ⟨fun hst => ?_, fun hst hobs => ?_⟩, fun hout => ?_⟩, fun hst => ?_,
      fun hst hobs => ⟨fun hfew => ?_, fun hmany => ?_⟩, fun e hst hfast => ⟨fun hdet => ?_, fun hdet => ?_⟩,
      fun hlock hdet hst hstat => ?_, fun hlock hdet hlost => ?_, fun hstart => ⟨fun hfew => ?_, fun hmany => ?_⟩,
      fun hretry => ?_, fun hst hbrake => ?_, fun hst hbrake => ⟨fun hno => ?_, fun hrestart hpower => ?_⟩,
      fun ms hst hat => ?_⟩,
    fun hlive hst hretry => ?_⟩
  · show execSpeedChangeRequest q w s = _
    rw [execSpeedChangeRequest, guarded_admitted h, spnCtlWrite_reply]
    dsimp only
    rw [if_pos hstart, if_pos hstop]
  · show execSpinStart q w s = _
    rw [execSpinStart, guarded_admitted h, spnCtlWrite_reply]
    dsimp only
    rw [if_neg hstart, if_pos hstop, if_neg (by rw [hst]; decide), hrev, if_neg (by decide), hst, hrun, hpower,
      if_pos (by decide)]
  · show execSpinStop q w s = _
    rw [execSpinStop, guarded_admitted h, spnCtlWrite_reply]
    dsimp only
    rw [if_pos hstart, if_neg hstop, if_neg hfault, if_neg (by simp [hstopped, hdown])]
  · show execDetectComplete backward rpm s = _
    rw [execDetectComplete, if_neg (by simp [hlive, hst]), if_pos hslow]
    dsimp only
    rw [hrest, if_pos (by decide)]
  · show execDetectComplete backward rpm s = _
    rw [execDetectComplete, if_neg (by simp [hlive, hst]), if_pos hslow]
    dsimp only
    rw [hrest, if_neg (by decide)]
  · show execDetectComplete true rpm s = _
    rw [execDetectComplete, if_neg (by simp [hlive, hst]), if_neg (Nat.not_le.2 hfast), if_pos rfl]
  · show execDetectComplete false rpm s = _
    rw [execDetectComplete, if_neg (by simp [hlive, hst]), if_neg (Nat.not_le.2 hfast), if_neg (by decide)]
  · show execReverseBrakeDone s = _
    rw [execReverseBrakeDone, if_pos (by simp [hlive, hst])]
  · show execZeroCrossing backward phase interval mean peak s = _
    unfold execZeroCrossing
    dsimp only
    rw [hlive, if_neg (by simpa using hin), if_pos hst]
  · show execZeroCrossing backward phase interval mean peak s = _
    unfold execZeroCrossing
    dsimp only
    rw [hlive, if_neg (by simpa using hin), if_neg hst, if_pos hobs]
  · show execZeroCrossing backward phase interval mean peak s = _
    unfold execZeroCrossing
    dsimp only
    rw [hlive, if_pos (by simpa using hout)]
  · show execWindowEmpty s = _
    rw [execWindowEmpty, if_neg (by simp [hlive]), if_pos hst]
  · show execWindowEmpty s = _
    rw [execWindowEmpty, if_neg (by simp [hlive]), if_neg hst, if_neg (by simp [hobs])]
    exact congrArg Host.Outcome.next (if_pos hfew)
  · show execWindowEmpty s = _
    rw [execWindowEmpty, if_neg (by simp [hlive]), if_neg hst, if_neg (by simp [hobs])]
    exact congrArg Host.Outcome.next (if_neg (Nat.not_lt.2 hmany))
  · show execCatchMeasureComplete rpm e s = _
    unfold execCatchMeasureComplete
    dsimp only
    rw [if_neg (by simp [hlive, hst]), if_neg (Nat.not_lt.2 hfast)]
    exact congrArg Host.Outcome.next (if_pos hdet)
  · show execCatchMeasureComplete rpm e s = _
    unfold execCatchMeasureComplete
    dsimp only
    rw [if_neg (by simp [hlive, hst]), if_neg (Nat.not_lt.2 hfast)]
    exact congrArg Host.Outcome.next (if_neg (ne_true_of_eq_false hdet))
  · show execRecatchTimeout s = _
    rw [execRecatchTimeout, if_neg (by simp [hlive, hlock]), if_pos (by simp [hdet, hst, hstat])]
  · show execRecatchTimeout s = _
    rw [execRecatchTimeout, if_neg (by simp [hlive, hlock]), if_neg (by simp [hdet]), if_pos hlost]
  · show execStartAttemptTimeout s = _
    rw [execStartAttemptTimeout, if_neg (by simp [hlive, hstart])]
    exact congrArg Host.Outcome.next (if_pos hfew)
  · show execStartAttemptTimeout s = _
    rw [execStartAttemptTimeout, if_neg (by simp [hlive, hstart])]
    exact congrArg Host.Outcome.next (if_neg (Nat.not_lt.2 hmany))
  · show execStartRetry s = _
    rw [execStartRetry, if_pos (by simp [hlive, hretry])]
  · show execSpindownComplete s = _
    rw [execSpindownComplete, if_neg (by simp [hlive, hst]), if_pos hbrake]
  · show execSpindownComplete s = _
    rw [execSpindownComplete, if_neg (by simp [hlive, hst]), if_neg (ne_true_of_eq_false hbrake)]
    dsimp only
    rw [hno, if_neg (by simp)]
  · show execSpindownComplete s = _
    rw [execSpindownComplete, if_neg (by simp [hlive, hst]), if_neg (ne_true_of_eq_false hbrake)]
    dsimp only
    rw [hrestart, hpower, if_pos (by decide)]
  · show execSpeedTargetReached rpm ms s = _
    rw [execSpeedTargetReached, if_pos (by obtain h | h := hst <;> simp [hlive, h, hat])]
    rfl
  · show execSpindleStopped s = _
    unfold execSpindleStopped
    dsimp only
    rw [hlive, hst, hretry, if_pos (by decide)]

end Sys2Proof.Machine
end

section
/-! PROOFS. Faults of the coils and the supply, the work rings and the mailbox. -/

namespace Sys2Proof.Machine

open Sys2Proof

/-- A live coil driver's fault takes its command away and faults its page (R232). -/
theorem exec_vcmFaultDetect_live {s : State} {vcm : Fin 4} (kind : CoilFault)
    (hlive : domainLive s (vcmPage vcm.val).domain = true) :
    exec (.vcmFaultDetect vcm kind) s = .next (
      let a := vcm.val
      let v := s.vcm a
      let rail := kind = .shortGnd || kind = .shortSup
      let coil := kind = .openCoil || kind = .shortCoil
      let t := s.setVcm a { v with next := none, nextMact := [], stranded := v.stranded || (coil && v.loaded) }
      let t := pageFault (setVcmState (t.put (coilFaultField kind) 1 a) a 4) (vcmPage a) 0 3
      retractEnded (if rail && v.loaded then raise (t.bump VCM.VCM_CNT.RETRACT_CNT 1 a) (vcmPage a) 1 7 else t)) := by
  show execVcmFaultDetect vcm kind s = _
  unfold execVcmFaultDetect
  dsimp only
  rw [hlive, if_neg (by decide)]

/-- The floor notice's fields are none of those that say whether a die is up. -/
theorem dieUp_atFloor (s : State) (hup die : Nat) :
    dieUp (raise ((s.put PWR.VOLT.HUP hup).put PWR.PWR_STAT.FLOOR 1) pwrPage 1 7) die = dieUp s die := by
  unfold dieUp
  rw [get_raise_other _ _ _ _ (by decide), get_put_other _ _ _ _ _ _ _ _ (by decide),
    get_put_other _ _ _ _ _ _ _ _ (by decide)]

/-- PFAIL ends once the supplies are back and no head is loaded (R423). -/
theorem exec_pfailDeassert {s : State} {ms : BitVec 16} (hpfail : pfailed s = true)
    (hin : s.get PWR.PWR_STAT.IN12_OK = 1) (hpg : s.get PWR.PWR_STAT.RAIL_PG ≠ 0)
    (hload : ∀ a < 4, (s.vcm a).loaded = false) :
    exec (.pfailDeassert ms) s = .next (
      let t : State := { s with wires := { s.wires with pfail := false } }
      let t := (t.put PWR.PWR_STAT.PFAIL 0).put PWR.PWR_STAT.HOLDUP 0
      let t := (t.put PWR.HUP_STAT.LAST_MS ms.toNat).put PWR.HUP_STAT.END_RPM (t.get SPN.SPN_SPEED.RPM / 65536)
      nvNext (if spn t = spHoldup then setSpn t spSpeed else t)) := by
  have hparked : ((List.range 4).all fun a => !(s.vcm a).loaded) = true := by
    rw [List.all_eq_true]
    intro a ha
    rw [hload a (List.mem_range.1 ha)]
    rfl
  show execPfailDeassert ms s = _
  rw [execPfailDeassert, if_pos (by simp [hpfail, hin, hpg, hparked])]

/-- Settles O49: each command, run in the state its clause names. -/
theorem supplyCommands : Obligations.SupplyCommands := by
  intro s vcm ma hup in12 rpm
  dsimp only
  have hchop (F : Fld) (hF : F.key 0 0 ≠ PWR.VOLT.HUP.key 0 0) :
      (s.put PWR.VOLT.HUP hup.toNat).get F = s.get F := get_put_other s _ F _ _ _ _ _ hF
  refine ⟨fun hlive => ⟨?_, ?_, ?_, ?_, fun n => ?_, ?_⟩, fun hstrand hst => ?_, fun hst htime => ?_,
    fun kind hlive => ⟨fun hcoil hload => ?_, fun hrail hload => ?_, fun hno => ?_⟩,
    ⟨fun hen hcode hover => ?_, fun hunder => ?_, fun hunder => ?_, fun hover => ?_,
      fun hgated => ⟨fun hlow => ?_, fun hlow hhigh => ?_, fun hlow hhigh => ?_, ?_⟩, fun hgated => ?_⟩,
    rfl, ⟨fun hlive h1 h2 h3 => ?_, fun hno => ?_⟩, ⟨fun hlive hov hst => ?_, fun hov => ?_⟩, fun hov => ?_, rfl, rfl,
    fun hhold hfloor => ⟨fun hlow => ?_, fun hlow => ?_⟩, fun hin => ?_,
    fun hpfail hin hpg hload => ⟨fun hst => ?_, fun hst => ?_⟩, fun hen hok => ?_,
    fun hclamp => ⟨fun hover => ?_, fun hover => ?_⟩, fun hclamp => ⟨fun hunder => ?_, fun hunder => ?_⟩⟩
  · show execSpnTerminalFault .shortGround s = _
    rw [execSpnTerminalFault, if_neg (by simp [hlive])]
  · show execSpnTerminalFault .shortSupply s = _
    rw [execSpnTerminalFault, if_neg (by simp [hlive])]
  · show execSpnTerminalFault .shortPhase s = _
    rw [execSpnTerminalFault, if_neg (by simp [hlive])]
  · show execSpnTerminalFault .overCurrent s = _
    rw [execSpnTerminalFault, if_neg (by simp [hlive])]
  · show execSpnTerminalFault (.openPhase n) s = _
    rw [execSpnTerminalFault, if_neg (by simp [hlive])]
  · show execSpnBridgeOvertemp s = _
    rw [execSpnBridgeOvertemp, if_pos hlive]
  · show execRetractParked vcm s = _
    unfold execRetractParked
    dsimp only
    rw [hstrand, if_neg (by decide), if_pos (by simpa [or_assoc] using hst)]
  · show execRetractTimeout vcm s = _
    unfold execRetractTimeout
    dsimp only
    rw [htime, if_pos]
    simpa [and_assoc] using hst
  · have hrail : (decide (kind = .shortGnd) || decide (kind = .shortSup)) = false := by
      obtain rfl | rfl := hcoil <;> rfl
    have hcoil' : (decide (kind = .openCoil) || decide (kind = .shortCoil)) = true := by simpa using hcoil
    rw [exec_vcmFaultDetect_live kind hlive]
    simp only [hrail, hcoil', hload, Bool.false_and, Bool.and_self, Bool.or_true, Bool.false_eq_true, if_false]
  · have hcoil : (decide (kind = .openCoil) || decide (kind = .shortCoil)) = false := by
      obtain rfl | rfl := hrail <;> rfl
    have hrail' : (decide (kind = .shortGnd) || decide (kind = .shortSup)) = true := by simpa using hrail
    rw [exec_vcmFaultDetect_live kind hlive]
    simp only [hrail', hcoil, hload, Bool.false_and, Bool.and_self, Bool.or_false, if_true]
  · have hcoil : ((decide (kind = .openCoil) || decide (kind = .shortCoil)) && (s.vcm vcm.val).loaded) = false := by
      obtain h | rfl := hno
      · rw [h, Bool.and_false]
      · rfl
    have hrail : ((decide (kind = .shortGnd) || decide (kind = .shortSup)) && (s.vcm vcm.val).loaded) = false := by
      obtain h | rfl := hno
      · rw [h, Bool.and_false]
      · rfl
    rw [exec_vcmFaultDetect_live kind hlive]
    simp only [hrail, hcoil, Bool.or_false, Bool.false_eq_true, if_false]
  · show execChopperGate hup s = _
    unfold execChopperGate
    dsimp only
    rw [hchop _ (by decide), hchop _ (by decide), hchop _ (by decide), if_pos (by simp only [hen, hcode, hover]; decide)]
  · show execChopperGate hup s = _
    unfold execChopperGate
    dsimp only
    rw [hchop PWR.CHOP_CFG.CHOP_ON (by decide), decide_eq_false (Nat.not_lt.2 hunder), Bool.and_false, if_neg (by decide)]
  · show execChopperRelease hup s = _
    unfold execChopperRelease
    dsimp only
    rw [hchop _ (by decide), if_pos hunder]
  · show execChopperRelease hup s = _
    unfold execChopperRelease
    dsimp only
    rw [hchop _ (by decide), if_neg (Nat.not_lt.2 hover)]
  · show execChopperCurrentCheck ma s = _
    rw [execChopperCurrentCheck, if_neg (by simp [hgated])]
    exact congrArg Host.Outcome.next (if_pos hlow)
  · show execChopperCurrentCheck ma s = _
    rw [execChopperCurrentCheck, if_neg (by simp [hgated])]
    exact congrArg Host.Outcome.next ((if_neg (Nat.not_lt.2 hlow)).trans (if_pos hhigh))
  · show execChopperCurrentCheck ma s = _
    rw [execChopperCurrentCheck, if_neg (by simp [hgated])]
    exact congrArg Host.Outcome.next ((if_neg (Nat.not_lt.2 hlow)).trans (if_neg (Nat.not_lt.2 hhigh)))
  · show execChopperTimeout s = _
    rw [execChopperTimeout, if_pos hgated]
  · show execChopperStuckOn s = _
    rw [execChopperStuckOn, if_neg (ne_true_of_eq_false hgated)]
  · show execHupOv2 s = _
    unfold execHupOv2
    dsimp only
    rw [if_pos]
    simp [hlive, h1, h2, h3]
  · show execHupOv2 s = _
    unfold execHupOv2
    dsimp only
    rw [if_neg]
    obtain h | h | h | h := hno <;> simp [h]
  · show execOvRecover s = _
    unfold execOvRecover
    dsimp only
    rw [if_pos]
    simpa [hlive, hov] using hst
  · show execOvRecover s = _
    unfold execOvRecover
    dsimp only
    rw [if_neg (by simp [hov])]
  · show execOvRetractTimeout s = _
    rw [execOvRetractTimeout, if_pos hov]
  · show execHoldupFloor rpm hup s = _
    unfold execHoldupFloor
    dsimp only
    rw [if_pos (by simpa [hhold, hfloor] using hlow), dieUp_atFloor]
  · show execHoldupFloor rpm hup s = _
    unfold execHoldupFloor
    dsimp only
    rw [if_neg]
    simpa [hhold, hfloor] using hlow
  · show execIn12Return s = _
    rw [execIn12Return, if_pos hin]
  · rw [exec_pfailDeassert hpfail hin hpg hload]
    exact congrArg (fun t => Host.Outcome.next (nvNext t)) (if_pos hst)
  · rw [exec_pfailDeassert hpfail hin hpg hload]
    exact congrArg (fun t => Host.Outcome.next (nvNext t)) (if_neg hst)
  · show execHvOkLoss s = _
    rw [execHvOkLoss, if_pos (by simp [hen, hok])]
  · show execSupplyCurrentMeasure ma hup in12 s = _
    exact congrArg Host.Outcome.next ((if_pos hclamp).trans (if_pos hover))
  · show execSupplyCurrentMeasure ma hup in12 s = _
    exact congrArg Host.Outcome.next ((if_pos hclamp).trans (if_neg hover))
  · show execSupplyCurrentMeasure ma hup in12 s = _
    exact congrArg Host.Outcome.next ((if_neg hclamp).trans (if_pos hunder))
  · show execSupplyCurrentMeasure ma hup in12 s = _
    exact congrArg Host.Outcome.next ((if_neg hclamp).trans (if_neg hunder))

end Sys2Proof.Machine
end

section
/-! PROOFS. The work rings and the mailbox. -/

namespace Sys2Proof.Machine

open Sys2Proof

/-- The entry a ring's engine starts is the one it sees at the ring's head. -/
theorem ringPeek_of_ringStart {s t : State} {r c : Nat} {x : Nat × List Nat} (h : ringStart s r c = some (x, t)) :
    ringPeek s r = some x.2 := by
  unfold ringStart at h
  dsimp only at h
  split at h
  · exact absurd h (by simp)
  · split at h
    · exact absurd h (by simp)
    · next e es hes =>
      obtain ⟨rfl, -⟩ := Prod.mk.inj (Option.some.inj h)
      rw [ringPeek, hes]
      rfl

/-- The copy engine, free, serves the entry at a ring's head by its operation (R457, R459). -/
theorem copyServe_serves {s t : State} {r : Nat} {mine : Nat → Bool} {x : Nat × List Nat} (hfree : s.wrk.copy = none)
    (hwork : working s wrkPage = true) (hstart : ringStart s r 6 = some (x, t)) (hmine : mine (x.2.headD 0 % 8) = true) :
    copyServe s r mine =
      let o := copyRun t x.2
      ringDone { o.2.2 with wrk := { o.2.2.wrk with copy := some r } } r (copyDone x.1 x.2 o.1 o.2.1) := by
  unfold copyServe
  rw [ringPeek_of_ringStart hstart]
  dsimp only
  rw [hfree, hwork, hmine, if_neg (by decide), hstart]

/-- A doorbell value of a consumer is taken, one of the drive is where it stands for no more entries than the ring
holds and for none that was fetched and is taken back (R455). -/
theorem doorbellWrite_takes {s : State} {r : Nat} {w : Word}
    (h : (s.ring r).dir = true ∨ ahead (w.toNat % 65536) (pubOf s r) ≤ (s.ring r).size ∧
      (s.ring r).fetched.length ≤ ahead (w.toNat % 65536) (pubOf s r)) :
    doorbellWrite r w s = s.put WRK.DOORBELL.INDEX (w.toNat % 65536) 0 r := by
  unfold doorbellWrite
  dsimp only
  obtain hdir | ⟨hsize, hfetched⟩ := h
  · rw [if_pos hdir]
  · rw [if_neg (c := (_ || _) = true) (by simp [hsize, hfetched]), ite_self]

/-- RING_CFG with EN 1 takes an off ring's configuration and starts it at its published index (R454). -/
theorem ringCfgWrite_enables {s : State} {w : Word} (hcfg : WRK.RING_CFG.EN.of w = 1)
    (hoff : (s.ring (s.get WRK.RING_WIN.RING)).en = false) (hst : (s.ring (s.get WRK.RING_WIN.RING)).state = rgOff) :
    ringCfgWrite w s = s.setRing (s.get WRK.RING_WIN.RING) { s.ring (s.get WRK.RING_WIN.RING) with
      consumer := WRK.RING_CFG.CONSUMER.of w, rst := WRK.RING_CFG.RST_BYTE.of w
      dir := WRK.RING_CFG.DIR.of w = 1, loc := WRK.RING_CFG.LOC.of w = 1
      esize := WRK.RING_CFG.ESIZE.of w, log2 := WRK.RING_CFG.LOG2.of w, en := true, state := rgRun, err := 0
      fetch := pubOf s (s.get WRK.RING_WIN.RING) } := by
  unfold ringCfgWrite
  dsimp only
  rw [if_pos hst, if_pos (by simp [hcfg, hoff, hst])]

/-- RING_CFG with EN 0 drains an enabled ring, its fetched entries discarded and counted (R455). -/
theorem ringCfgWrite_disables {s : State} {w : Word} (hcfg : WRK.RING_CFG.EN.of w = 0)
    (hon : (s.ring (s.get WRK.RING_WIN.RING)).en = true) (hst : (s.ring (s.get WRK.RING_WIN.RING)).state ≠ rgOff) :
    ringCfgWrite w s =
      let t := s.bump WRK.DISCARD_CNT.COUNT (s.ring (s.get WRK.RING_WIN.RING)).fetched.length
      t.setRing (s.get WRK.RING_WIN.RING) { s.ring (s.get WRK.RING_WIN.RING) with
        en := false, state := rgDraining, fetched := [], fetch := pubOf t (s.get WRK.RING_WIN.RING) } := by
  unfold ringCfgWrite
  dsimp only
  rw [if_neg hst, if_neg (by simp [hon]), if_pos (by simp [hcfg, hon])]

/-- Settles O50: each command, run in the state its clause names. -/
theorem ringCommands : Obligations.RingCommands := by
  intro s q ring w
  dsimp only
  refine ⟨fun h hmay => ?_, fun hdir hst hrun hdown heasing hroom hbell hclean => ?_,
    fun h => ⟨fun hcfg hoff hst => ?_, fun hcfg hon hst => ?_⟩, fun hst hdone => ?_, fun h hres hst => ?_,
    fun x t hfree hwork hstart => ⟨fun h2 h3 => ?_, fun h2 => ?_, fun h3 => ?_⟩, fun d l hdone hlive => ?_⟩
  · show execRingDoorbell q ring w s = _
    rw [execRingDoorbell, guarded_admitted h]
    exact congrArg Host.Outcome.next (doorbellWrite_takes (s := s.reply 0 []) hmay)
  · show Host.Outcome.next (ringFetch s ring.val) = _
    unfold ringFetch
    dsimp only
    rw [if_neg (by simp [hdir, hst, hrun]), if_neg (by simp [hdown]), if_neg, if_neg (by simp [hclean])]
    simp [heasing, hroom, hbell]
  · show execRingEnable q w s = _
    rw [execRingEnable, guarded_admitted h]
    exact congrArg Host.Outcome.next (ringCfgWrite_enables hcfg hoff hst)
  · show execRingDisable q w s = _
    rw [execRingDisable, guarded_admitted h]
    exact congrArg Host.Outcome.next (ringCfgWrite_disables hcfg hon hst)
  · show execRingDrainComplete ring s = _
    unfold execRingDrainComplete
    dsimp only
    rw [if_pos (by simp [hst, hdone])]
  · show execRingResume q w s = _
    rw [execRingResume, guarded_admitted h]
    exact congrArg Host.Outcome.next (if_pos (Bool.and_eq_true_iff.2 ⟨decide_eq_true hres, decide_eq_true hst⟩))
  · exact congrArg Host.Outcome.next (copyServe_serves hfree hwork hstart
      (Bool.and_eq_true_iff.2 ⟨decide_eq_true h2, decide_eq_true h3⟩))
  · exact congrArg Host.Outcome.next (copyServe_serves hfree hwork hstart (decide_eq_true h2))
  · exact congrArg Host.Outcome.next (copyServe_serves hfree hwork hstart (decide_eq_true h3))
  · show execRingCompletion ring s = _
    rw [execRingCompletion, hdone]
    dsimp only
    rw [hlive, if_neg (by decide)]

/-- A message that its destination takes leaves its sender and wakes the cores that own the destination (R464, R465). -/
theorem exec_mbxDeliver {s : State} {e : Fin 18} {m : Msg} {ms : List Msg} (hout : (s.endpoint e.val).out = m :: ms) :
    exec (.mbxDeliver e) s = .next (
      let n := e.val
      let t := (s.setEndpoint n { s.endpoint n with out := ms }).bump MBX.Q_CNT.SENT 1 0 n
      let y := t.endpoint m.dest
      let u := t.setEndpoint m.dest { y with inq := y.inq ++ m.words }
      if !deliverable s n || outranked s n m.dest then s
      else outEmptied (if m.dest < 6 && y.inq.isEmpty then
        raise { u with mbx := { u.mbx with inCores := owners u 0 u.mbx.inCores m.dest } } mbxPage 0 7 else u) n) := by
  show execMbxDeliver e s = _
  unfold execMbxDeliver
  dsimp only
  rw [hout]

/-- No word leaves an empty incoming queue, which reads 0 (R465). -/
theorem inPop_empty {s : State} {e : Nat} (h : (s.endpoint e).inq = []) : inPop s e = (0, s) := by
  rw [inPop, h]

/-- Settles O51: each command, run in the state its clause names. -/
theorem mailboxCommands : Obligations.MailboxCommands := by
  intro s e q w
  dsimp only
  refine ⟨fun m ms hout hrank => ?_, fun m ms hout hroom hrank => ⟨fun hdest hempty => ?_, fun hno => ?_⟩,
    fun h => ⟨fun hown => ?_, fun hown => ?_⟩, fun h => ⟨fun v vs hown hin => ?_, fun hno => ?_⟩,
    fun h hown hgo hout => ?_, fun m ms hout hwarn hroom => ?_⟩
  · rw [exec_mbxDeliver hout]
    dsimp only
    rw [hrank, Bool.or_true, if_pos rfl]
  · rw [exec_mbxDeliver hout]
    dsimp only
    rw [hroom, hrank, if_neg (by decide), if_pos (by rw [hempty]; simpa using hdest)]
  · rw [exec_mbxDeliver hout]
    dsimp only
    rw [hroom, hrank, if_neg (by decide), if_neg]
    obtain h | h := hno
    · simp [Nat.not_lt.2 h]
    · simp [h]
  · show execMbxOutWrite q e w s = _
    rw [execMbxOutWrite, guarded_admitted h, if_pos hown]
  · show execMbxOutWrite q e w s = _
    rw [execMbxOutWrite, guarded_admitted h, if_neg (ne_true_of_eq_false hown)]
  · show execMbxInRead q e s = _
    rw [execMbxInRead, guardedRead_served h]
    rw [if_pos hown, inPop, hin]
  · show execMbxInRead q e s = _
    rw [execMbxInRead, guardedRead_served h]
    obtain hother | hempty := hno
    · rw [if_neg (ne_true_of_eq_false hother)]
    · rw [inPop_empty hempty, ite_self]
  · show execMbxWithdraw q e w s = _
    rw [execMbxWithdraw, guarded_admitted h]
    rw [if_pos hown, outCtlWrite, if_neg hgo]
    exact congrArg Host.Outcome.next (if_neg fun hempty => hout (List.length_eq_zero_iff.1 hempty))
  · show execMbxWaitWarn e s = _
    unfold execMbxWaitWarn
    dsimp only
    rw [hout]
    dsimp only
    rw [hwarn, hroom, if_neg (by decide)]

end Sys2Proof.Machine
end

section
/-! PROOFS. Keel's flash array. -/

namespace Sys2Proof.Machine

open Sys2Proof

/-- Another requester's step of an open unlock sequence is refused and counted (R477). -/
theorem nvSeqWrite_other {s : State} {q : Req} {x : NvSeq} {ok : NvSeq → Bool} {upd : NvSeq → NvSeq}
    (hseq : s.nv.seq = some x) (hreq : x.req ≠ q) : nvSeqWrite s q ok upd = s.bump NVS.REFUSE_CNT.OTHER := by
  have hother : othersSeq s q = true := by simp [othersSeq, hseq, hreq]
  rw [nvSeqWrite, if_pos hother]

/-- A step in order of the requester whose sequence is open goes on with it (R477). -/
theorem nvSeqWrite_goes {s : State} {q : Req} {x : NvSeq} {ok : NvSeq → Bool} {upd : NvSeq → NvSeq}
    (hseq : s.nv.seq = some x) (hreq : x.req = q) (hok : ok x = true) :
    nvSeqWrite s q ok upd = seqGoes s (upd { x with step := x.step + 1 }) := by
  have hown : othersSeq s q = false := by simp [othersSeq, hseq, hreq]
  rw [nvSeqWrite, hown, if_neg (by decide), hseq]
  exact if_pos hok

/-- With a sequence open NVS_KEY is its second word (R477). -/
theorem nvsKeyWrite_open {s : State} {q : Req} {w : Word} {x : NvSeq} (hseq : s.nv.seq = some x) :
    nvsKeyWrite q w s = nvSeqWrite s q (fun x => x.step = 1 && w.toNat = 0x94E2) id := by
  rw [nvsKeyWrite, if_neg (by simp [hseq])]

/-- NVS_ADDR in its turn takes its word into its field and into the sequence (R477). -/
theorem nvsAddrWrite_goes {s : State} {q : Req} {w : Word} {x : NvSeq} (hseq : s.nv.seq = some x) (hreq : x.req = q)
    (hstep : x.step = 3) : nvsAddrWrite q w s =
      seqGoes (s.put NVS.NVS_ADDR.WORD (NVS.NVS_ADDR.WORD.of w)) { x with step := x.step + 1, word := w.toNat } := by
  have hok : ((s.nv.seq.map fun x => decide (x.req = q) && x.step = 3).getD true) = true := by
    simp [hseq, hreq, hstep]
  unfold nvsAddrWrite
  dsimp only
  rw [if_pos hok, if_neg (by simp [hseq]), nvSeqWrite_goes (s := s.put _ _) (x := x) hseq hreq (decide_eq_true hstep)]

/-- A read of RD_DATA0 whose requester the array is open to answers the word at RD_ADDR and latches the rest (R9, R475). -/
theorem wordRead_open {s : State} {q : Req} {err : Nat} (h : arrayOpen s q = true) :
    wordRead q err s =
      let w := s.get NVS.RD_ADDR.WORD
      let r := nvReadWord (quarterUp s w) w err
      let s := (r.2.put NVS.RD_STAT.ECC r.1.2.1).put NVS.RD_STAT.BLANK (if r.1.2.2 then 1 else 0)
      let ws := (List.range 8).map fun k => bits r.1.1 (32 * k) 32
      let s := (List.range 8).foldl (fun s k => s.put NVS.RD_DATA.DATA (bits r.1.1 (32 * k) 32) 0 k) s
      (bits r.1.1 0 32, latchWords s q (nvsPage.base + 0x07C) (ws.drop 1)) := by
  unfold wordRead
  rw [h, if_neg (by decide)]

/-- NVS_CTL with SCAN alone starts a scan unless one runs (R482). -/
theorem nvsCtlWrite_scans {s : State} {q : Req} {w : Word} (hscan : NVS.NVS_CTL.SCAN.of w = 1)
    (hclose : NVS.NVS_CTL.SLOT1_CLOSE.of w ≠ 1) :
    nvsCtlWrite q w s = if s.get NVS.NVS_STAT.SCANNING = 1 then s else scanStart (scanDue s) := by
  have hstays : ¬(decide (NVS.NVS_CTL.SLOT1_CLOSE.of w = 1) && keeper q) = true := by simp [hclose]
  rw [nvsCtlWrite, if_neg hstays, if_pos hscan]

/-- NVS_CTL with SLOT1_CLOSE alone, from a keeper, closes the second slot (R544). -/
theorem nvsCtlWrite_closes {s : State} {q : Req} {w : Word} (hscan : NVS.NVS_CTL.SCAN.of w ≠ 1)
    (hclose : NVS.NVS_CTL.SLOT1_CLOSE.of w = 1) (hkeep : keeper q = true) :
    nvsCtlWrite q w s = lockSync (s.nvMap fun x => { x with closedWord := true }) := by
  have hcloses : (decide (NVS.NVS_CTL.SLOT1_CLOSE.of w = 1) && keeper q) = true := by simp [hclose, hkeep]
  rw [nvsCtlWrite, if_neg hscan, if_pos hcloses]

/-- XFER_CTL with GO starts the copy of words that lie in the array to a place that holds them (R483). -/
theorem xferWrite_starts {s : State} {q : Req} {w : Word} (hgo : NVS.XFER_CTL.GO.of w = 1)
    (hidle : s.get NVS.XFER_CTL.BUSY ≠ 1) :
    xferWrite q w s =
      let s := plainWrite s q nvsPage 0x0A4 w
      let src := s.get NVS.XFER_SRC.WORD
      let n := if s.get NVS.XFER_CTL.WORDS = 0 then 65536 else s.get NVS.XFER_CTL.WORDS
      let dst := s.get NVS.XFER_DST.ADDR * 32
      let tcm := s.get NVS.XFER_CTL.DST_TCM = 1
      let top := if tcm then 4194304 else usableBytes s
      if nvWords < src + n || top < dst + 32 * n || !arrayOpen s q then s.put NVS.XFER_CTL.RESULT 2
      else (s.put NVS.XFER_CTL.BUSY 1).nvMap fun x => { x with xfer := some (src, n, dst, tcm) } := by
  unfold xferWrite
  dsimp only
  rw [if_neg (by simp [hgo, hidle])]

/-- Settles O52: each command, run in the state its clause names. -/
theorem nvsCommands : Obligations.NvsCommands := by
  intro s q w
  dsimp only
  refine ⟨fun h hseq hkey => ?_,
    fun x hseq => ⟨fun hreq => ⟨fun h => ?_, fun h => ?_⟩,
      fun hreq => ⟨fun h hstep hkey => ?_, fun h hstep hlow hhigh => ?_, fun h hstep => ?_, fun n h hop hstep => ?_⟩⟩,
    fun hseq => ?_, fun e hopen hbusy h => ?_, fun e hopen hbusy hreach => ?_,
    fun h hgo hbusy hsrc hdst hopen => ?_, fun errors src n dst tcm hxfer hbusy hlive => ?_,
    fun o hop => ⟨fun hown hkind => ⟨?_, ?_⟩, fun hown hkind => ⟨?_, ?_⟩,
      fun ok hown hkind => ⟨fun htrain => ?_, fun htrain => ?_⟩, fun hkind => ?_, fun hkind => ?_⟩,
    fun hdue hop hscan hlive => ?_, fun h hscan hclose hidle => ?_, fun h hscan hclose hkeep => ?_,
    fun rough hscan hlow => ?_⟩
  · show execNvsKeyWrite q w s = _
    rw [execNvsKeyWrite, guarded_admitted h]
    exact congrArg Host.Outcome.next (if_pos (Bool.and_eq_true_iff.2 ⟨Option.isNone_iff_eq_none.2 hseq, decide_eq_true hkey⟩))
  · show execNvsKeyWrite q w s = _
    rw [execNvsKeyWrite, guarded_admitted h, nvsKeyWrite_open (s := s.reply 0 []) (x := x) hseq, nvSeqWrite_other (s := s.reply 0 []) (x := x) hseq hreq]
  · show execNvsCmdWrite q w s = _
    rw [execNvsCmdWrite, guarded_admitted h, nvsCmdWrite, nvSeqWrite_other (s := s.reply 0 []) (x := x) hseq hreq]
  · show execNvsKeyWrite q w s = _
    rw [execNvsKeyWrite, guarded_admitted h, nvsKeyWrite_open (s := s.reply 0 []) (x := x) hseq,
      nvSeqWrite_goes (s := s.reply 0 []) (x := x) hseq hreq (by simp [hstep, hkey]), hstep]
    rfl
  · show execNvsCmdWrite q w s = _
    rw [execNvsCmdWrite, guarded_admitted h, nvsCmdWrite,
      nvSeqWrite_goes (s := s.reply 0 []) (x := x) hseq hreq (by simp [hstep, hlow, hhigh]), hstep]
  · show execNvsAddrWrite q w s = _
    rw [execNvsAddrWrite, guarded_admitted h, nvsAddrWrite_goes (s := s.reply 0 []) (x := x) hseq hreq hstep, hstep]
  · show execNvsDataWrite q n w s = _
    rw [execNvsDataWrite, guarded_admitted h, nvsDataWrite,
      nvSeqWrite_goes (s := s.reply 0 []) (x := x) hseq hreq (by simp [hstep, hop]), hstep, Nat.add_right_comm]
  · exact congrArg Host.Outcome.next (if_pos hseq)
  · show execNvsWordRead q e s = _
    rw [execNvsWordRead, if_neg (by simp [hbusy]), guardedRead_served h, wordRead_open hopen]
  · show execNvsWordRead q e s = _
    rw [execNvsWordRead, if_pos (by simp [hbusy, hopen, hreach])]
  · show execNvsTransferStart q w s = _
    rw [execNvsTransferStart, guarded_admitted h, xferWrite_starts (s := s.reply 0 []) hgo hbusy]
    dsimp only
    rw [if_neg]
    simpa [hopen, hsrc] using hdst
  · show execNvsTransferComplete errors s = _
    unfold execNvsTransferComplete
    rw [hxfer]
    dsimp only
    rw [hbusy, hlive, if_neg (by decide)]
  · show execNvsProgramComplete true s = _
    unfold execNvsProgramComplete
    rw [hop]
    exact congrArg Host.Outcome.next (if_pos (by simp [hown, hkind]))
  · show execNvsProgramComplete false s = _
    unfold execNvsProgramComplete
    rw [hop]
    exact congrArg Host.Outcome.next (if_pos (by simp [hown, hkind]))
  · show execNvsEraseComplete true s = _
    unfold execNvsEraseComplete
    rw [hop]
    exact congrArg Host.Outcome.next ((if_neg (by simp [hown, hkind])).trans (if_neg hown))
  · show execNvsEraseComplete false s = _
    unfold execNvsEraseComplete
    rw [hop]
    exact congrArg Host.Outcome.next ((if_neg (by simp [hown, hkind])).trans (if_neg hown))
  · show execNvsEraseComplete ok s = _
    unfold execNvsEraseComplete
    rw [hop]
    exact congrArg Host.Outcome.next (if_pos (by simp [hown, htrain]))
  · show execNvsEraseComplete ok s = _
    unfold execNvsEraseComplete
    rw [hop]
    exact congrArg Host.Outcome.next ((if_neg (by simp [hkind, htrain])).trans (if_pos hown))
  · show execLockRaiseComplete s = _
    unfold execLockRaiseComplete
    rw [hop]
    exact congrArg Host.Outcome.next (if_pos hkind)
  · show execLockLowerComplete s = _
    unfold execLockLowerComplete
    rw [hop]
    exact congrArg Host.Outcome.next (if_pos hkind)
  · exact congrArg Host.Outcome.next (if_pos (by simp [hdue, hop, hscan, hlive]))
  · show execNvsScanStart (some (q, w)) s = _
    unfold execNvsScanStart
    dsimp only
    rw [guarded_admitted h, nvsCtlWrite_scans hscan hclose]
    exact congrArg Host.Outcome.next (if_neg hidle)
  · show execSlot1Close q w s = _
    rw [execSlot1Close, guarded_admitted h, nvsCtlWrite_closes hscan hclose hkeep]
  · show execNvsScanComplete rough s = _
    unfold execNvsScanComplete
    rw [if_neg hscan, hlow]

end Sys2Proof.Machine
end

section
/-! PROOFS. The event recorder. -/

namespace Sys2Proof.Machine

open Sys2Proof

/-- EVR_CTL with RECLAIM, while commits stay enabled, reclaims and passes on what waits (R495). -/
theorem evrCtlWrite_reclaims {s : State} {q : Req} {w : Word} (hreclaim : EVR.EVR_CTL.RECLAIM.of w = 1)
    (hwas : s.get EVR.EVR_CTL.COMMIT_EN = 1)
    (hmanual : (plainWrite s q evrPage 0x040 w).get EVR.EVR_CTL.AUTO_RECLAIM ≠ 1) :
    evrCtlWrite q w s = evrPass (evrReclaim (plainWrite s q evrPage 0x040 w)) := by
  have hstays : ¬(decide (s.get EVR.EVR_CTL.COMMIT_EN = 0) &&
      decide ((plainWrite s q evrPage 0x040 w).get EVR.EVR_CTL.COMMIT_EN = 1)) = true := by simp [hwas]
  unfold evrCtlWrite
  dsimp only
  rw [if_neg hstays, if_neg hmanual, if_pos hreclaim]

/-- EVR_CTL that enables commits lets the region be read again (R492, R493). -/
theorem evrCtlWrite_enables {s : State} {q : Req} {w : Word} (hplain : EVR.EVR_CTL.RECLAIM.of w ≠ 1)
    (hwas : s.get EVR.EVR_CTL.COMMIT_EN = 0) (his : (plainWrite s q evrPage 0x040 w).get EVR.EVR_CTL.COMMIT_EN = 1)
    (hmanual : (plainWrite s q evrPage 0x040 w).get EVR.EVR_CTL.AUTO_RECLAIM ≠ 1) :
    evrCtlWrite q w s =
      evrPass ((plainWrite s q evrPage 0x040 w).evrMap fun x => { x with reading := true }) := by
  have hturns : (decide (s.get EVR.EVR_CTL.COMMIT_EN = 0) &&
      decide ((plainWrite s q evrPage 0x040 w).get EVR.EVR_CTL.COMMIT_EN = 1)) = true := by simp [hwas, his]
  have hmanual' : ((plainWrite s q evrPage 0x040 w).evrMap fun x => { x with reading := true }).get
      EVR.EVR_CTL.AUTO_RECLAIM ≠ 1 := hmanual
  unfold evrCtlWrite
  dsimp only
  rw [if_pos hturns, if_neg hmanual', if_neg hplain]

/-- A commit is due for enough records, or for any once the time is out or power fails (R490). -/
theorem commitDue {n c : Nat} {elapsed pfail : Bool} (h : max 1 c ≤ n ∨ (elapsed = true ∨ pfail = true) ∧ 0 < n) :
    (decide (max 1 c ≤ n) || (elapsed || pfail) && decide (0 < n)) = true := by
  simpa using h

/-- Settles O53: each command, run in the state its clause names. -/
theorem recorderCommands : Obligations.RecorderCommands := by
  intro s q w
  dsimp only
  refine ⟨fun elapsed hdue hcommits hidle herase => ?_,
    fun h => ⟨fun hreclaim hwas hmanual => ?_, fun hplain hwas his hmanual => ?_⟩, fun h hgo n hsource => ?_,
    fun hdone hlive => ?_, fun hkeep => ⟨fun h hdone hheld => ?_, fun h hdone => ?_, fun h hdone => ?_⟩⟩
  · show execEvrCommitStart elapsed s = _
    unfold execEvrCommitStart
    dsimp only
    rw [commitDue hdue, hcommits, herase, if_neg (by simp [hidle])]
  · show execEvrReclaim q w s = _
    rw [execEvrReclaim, guarded_admitted h, evrCtlWrite_reclaims (s := s.reply 0 []) hreclaim hwas hmanual]
  · show execCommitEnable q w s = _
    rw [execCommitEnable, guarded_admitted h, evrCtlWrite_enables (s := s.reply 0 []) hplain hwas his hmanual]
  · show execFirmwareLog q w s = _
    rw [execFirmwareLog, guarded_admitted h, logCmdWrite]
    dsimp only
    rw [if_neg hgo, hsource]
  · exact congrArg Host.Outcome.next (if_pos (Bool.and_eq_true_iff.2 ⟨hdone, hlive⟩))
  · show execSecondsHiWrite q w s = _
    rw [execSecondsHiWrite, guarded_admitted h]
    exact congrArg Host.Outcome.next (if_pos (by simp [hkeep, hdone, hheld]))
  · show execSecondsLoWrite q w s = _
    rw [execSecondsLoWrite, guarded_admitted h]
    exact congrArg Host.Outcome.next (if_pos (by simp [hkeep, hdone]))
  · show execCyclesWrite q w s = _
    rw [execCyclesWrite, guarded_admitted h]
    exact congrArg Host.Outcome.next (if_pos (by simp [hkeep, hdone]))

/-- The recorder takes records only while its domain lives. -/
theorem domainLive_of_recorderOpen {s : State} (h : recorderOpen s = true) : domainLive s 2 = true :=
  (Bool.and_eq_true_iff.1 h).1

/-- The oldest arriving record leaves the arrivals, and is lost, dropped or queued (R490, R491). -/
theorem evrAccept_cons {s : State} {r : Rec} {l : List Rec} (h : s.evr.arriving = r :: l) :
    evrAccept s =
      let s := s.evrMap fun x => { x with arriving := l }
      if !domainLive s 2 then s
      else if !recorderOpen s then evrDrop s
      else if s.evr.queue.length < 64 then evrPass (s.evrMap fun x => { x with queue := x.queue ++ [r] })
      else evrDrop s := by
  rw [evrAccept, h]

/-- The word the recorder programs ends by what refuses it and by its verify (R493). -/
theorem evrWordDone_own {s : State} {o : NvOp} {verified : Bool} (hop : s.nv.op = some o) (hown : o.owner = 1)
    (hkind : o.kind = 1) : evrWordDone s verified =
      let seq := bits o.data 72 32
      match nvsRefuses s o with
      | some r =>
        let s := raise s evrPage 3 0
        if r = 6 then evrNvEnd (s.put EVR.HEAD.WORD 1) regionFull
        else evrNvEnd (headAdvance s) commitStep
      | none =>
        if verified then
          let s := nvProgram s o.word o.data
          let s := s.evrMap fun x => { x with stage := x.stage.filter (· ≠ seq), cur := none, left := x.left - 1 }
          let s := setOldest (s.put EVR.NEWEST.SEQ seq)
          evrNvEnd (evrPass (headAdvance s)) commitStep
        else
          let s := raise ((nvBreak s o.word).bump NVS.REFUSE_CNT.VERIFY_FAIL) evrPage 3 0
          evrNvEnd (headAdvance s) commitStep := by
  unfold evrWordDone
  rw [hop]
  dsimp only
  exact if_neg (by simp [hown, hkind])

/-- The state in which the recorder reads its region at a start (R492). -/
theorem evrRegionRead_reads {s : State} (hreading : s.evr.reading = true) (hdue : s.nv.due = false)
    (hscan : s.get NVS.NVS_STAT.SCANNING ≠ 1) (hlive : domainLive s 2 = true) (hup : dieUp s 4 = true)
    (htrain : dieTraining s 4 = false) (hnvs : domainLive s nvsPage.domain = true) :
    evrRegionRead s =
      let l := evrRecords s
      let s := match l.map (·.1) with
        | [] =>
          let s := ((s.put EVR.OLDEST.SEQ 0).put EVR.NEWEST.SEQ 0).put EVR.HEAD.WORD 1
          s.put EVR.HEAD.UNIT (evrRegion s).1
        | a :: r =>
          let new := r.foldl max a
          let w := ((l.find? fun (e : Nat × Nat) => e.1 = new).map fun (e : Nat × Nat) => e.2).getD 0
          let s := (s.put EVR.NEWEST.SEQ new).put EVR.SEQ_NEXT.SEQ
            (max (s.get EVR.SEQ_NEXT.SEQ) ((new + 1) % 2 ^ 32))
          let s := (s.put EVR.OLDEST.SEQ (r.foldl min a)).put EVR.HEAD.UNIT (w / unitWords)
          headAdvance (s.put EVR.HEAD.WORD (w % unitWords))
      evrPass (checkAhead ((s.put EVR.EVR_STAT.READY 1).evrMap fun x => { x with reading := false, blocked := false })) := by
  unfold evrRegionRead
  exact if_neg (by simp [hreading, hdue, hscan, hlive, hup, htrain, hnvs])

/-- Settles O54: each command, run in the state its clause names. -/
theorem recorderServiceCommands : Obligations.RecorderServiceCommands := by
  intro s
  dsimp only
  refine ⟨fun r l harrive => ⟨fun hlost => ?_, fun hlive hshut => ?_, fun hopen => ⟨fun hroom => ?_, fun hfull => ?_⟩⟩,
    fun htrain ok => ?_, fun o hop hown hkind htrain => ⟨fun hmay => ⟨?_, ?_⟩, fun ok r hrefused => ⟨fun hr => ?_, fun hr => ?_⟩⟩,
    fun hreading hdue hscan hlive hup htrain hnvs => ⟨fun hempty => ?_, fun e l hrecords => ?_⟩⟩
  · show execEvrRecordAccept s = _
    rw [execEvrRecordAccept, evrAccept_cons harrive]
    dsimp only
    rw [hlost, if_pos (by decide)]
  · show execEvrRecordAccept s = _
    rw [execEvrRecordAccept, evrAccept_cons harrive]
    dsimp only
    rw [hlive, hshut, if_neg (by decide), if_pos (by decide)]
  · show execEvrRecordAccept s = _
    rw [execEvrRecordAccept, evrAccept_cons harrive]
    dsimp only
    rw [domainLive_of_recorderOpen hopen, hopen, if_neg (by decide), if_neg (by decide), if_pos hroom]
  · show execEvrRecordAccept s = _
    rw [execEvrRecordAccept, evrAccept_cons harrive]
    dsimp only
    rw [domainLive_of_recorderOpen hopen, hopen, if_neg (by decide), if_neg (by decide), if_neg (Nat.not_lt.2 hfull)]
  · exact congrArg Host.Outcome.next (if_pos htrain)
  · show execEvrCommitWordDone true s = _
    rw [execEvrCommitWordDone, htrain, if_neg (by decide), evrWordDone_own hop hown hkind, hmay]
    exact congrArg (fun t => Host.Outcome.next (serveRecorder t)) (if_pos rfl)
  · show execEvrCommitWordDone false s = _
    rw [execEvrCommitWordDone, htrain, if_neg (by decide), evrWordDone_own hop hown hkind, hmay]
    exact congrArg (fun t => Host.Outcome.next (serveRecorder t)) (if_neg (by decide))
  · show execEvrCommitWordDone ok s = _
    rw [execEvrCommitWordDone, htrain, if_neg (by decide), evrWordDone_own hop hown hkind, hrefused]
    exact congrArg (fun t => Host.Outcome.next (serveRecorder t)) (if_pos hr)
  · show execEvrCommitWordDone ok s = _
    rw [execEvrCommitWordDone, htrain, if_neg (by decide), evrWordDone_own hop hown hkind, hrefused]
    exact congrArg (fun t => Host.Outcome.next (serveRecorder t)) (if_neg hr)
  · show execEvrRegionRead s = _
    rw [execEvrRegionRead, evrRegionRead_reads hreading hdue hscan hlive hup htrain hnvs, hempty]
    rfl
  · show execEvrRegionRead s = _
    rw [execEvrRegionRead, evrRegionRead_reads hreading hdue hscan hlive hup htrain hnvs, hrecords]
    rfl

end Sys2Proof.Machine
end

section
/-! PROOFS. Temperature, voltage and calibration. -/

namespace Sys2Proof.Machine

open Sys2Proof

/-- A report of a trial that worked is accepted, trains unless it verifies, and is monitored (R523-R525). -/
theorem takeReport_accepts {s : State} {r : TrialReport} (hfailed : r.failed = false) (hsuspect : r.suspect = false) :
    takeReport s r =
      let u := freezeCheck (s.bump CAL.TRIAL_CNT.ACCEPTED) (psaHead r.psa) false
      monitorReport (if r.verify then u else trainReport u (psaHead r.psa) r.grads) (psaHead r.psa) r.psa r.eHi r.eLo
        r.gainA r.gainB r.verify := by
  unfold takeReport
  dsimp only
  rw [hfailed, hsuspect]
  rfl

/-- A report of a trial that failed or is suspect is rejected and trains nothing (R523). -/
theorem takeReport_rejects {s : State} {r : TrialReport} (h : r.failed = true ∨ r.suspect = true) :
    takeReport s r = freezeCheck (s.bump CAL.TRIAL_CNT.REJECTED) (psaHead r.psa) r.failed := by
  have hbad : (!r.failed && !r.suspect) = false := by
    obtain h | h := h <;> simp [h]
  unfold takeReport
  dsimp only
  rw [hbad]
  rfl

/-- A report that Keel takes is stale, or goes to a calibration that runs (R520). -/
theorem exec_trialReport_taken {s : State} {oar : Fin 2} {r : TrialReport} {l : List TrialReport}
    (hreports : (s.ldp oar.val).reports = r :: l) (hup : dieUp s (oar.val + 1) = true)
    (htrain : dieTraining s (oar.val + 1) = false) (hturn : flitTurn s oar.val true .reply = true) :
    exec (.trialReport oar) s = .next (
      let s := s.setLdp oar.val { s.ldp oar.val with reports := l }
      if r.epoch ≠ ldpEpoch s oar.val then
        raise (s.bump BRZ.LINK_ERR.STALE_CNT 1 0 oar.val) ⟨.brz, 0⟩ 3 7
      else if !running s calPage then s
      else takeReport s r) := by
  show execTrialReport oar s = _
  unfold execTrialReport
  rw [hreports]
  dsimp only
  rw [hup, htrain, hturn, if_neg (by decide)]

/-- The AVS with no emergency, on a live die, moves by its target (R507, R511). -/
theorem exec_avsEvaluate_above {s : State} {margins : Vector (BitVec 8) 16} (hen : s.get CLK.CLK_CTL.AVS_EN = 1)
    (hfloor : (s.put CLK.AVS_STAT.MARGIN (leastMargin margins)).get CLK.AVS_CFG.FLOOR ≤ leastMargin margins)
    (hpfail : (avsRelease (s.put CLK.AVS_STAT.MARGIN (leastMargin margins)) (leastMargin margins)).wires.pfail = false)
    (hup : dieUp (avsRelease (s.put CLK.AVS_STAT.MARGIN (leastMargin margins)) (leastMargin margins)) 3 = true) :
    exec (.avsEvaluate margins) s = .next (
      let m := leastMargin margins
      let t := s.put CLK.AVS_STAT.MARGIN m
      let u := avsRelease t m
      if m + t.get CLK.AVS_CFG.HYST < t.get CLK.AVS_CFG.TARGET then avsUp u
      else if t.get CLK.AVS_CFG.TARGET + t.get CLK.AVS_CFG.HYST < m then avsDown u
      else u) := by
  show execAvsEvaluate margins s = _
  rw [execAvsEvaluate, if_pos hen, avsEvaluate]
  dsimp only
  rw [if_neg (Nat.not_lt.2 hfloor), hpfail, hup, if_neg (by decide)]

/-- Settles O55: each command, run in the state its clause names. -/
theorem calibrationCommands : Obligations.CalibrationCommands := by
  intro s oar q w
  dsimp only
  refine ⟨fun margins hen => ⟨fun hfloor => ?_, fun hfloor hpfail hup => ⟨fun hlow => ?_, fun hhigh => ?_, fun hlow hhigh => ?_⟩⟩,
    fun readings a b hwork => ?_, fun k hcommit hdue => ⟨fun hrun => ?_, fun hrun => ?_⟩,
    fun r l hreports hup htrain hturn => ⟨fun hstale => ?_, fun hfresh hrun => ⟨fun hbad => ?_, fun hfailed hsuspect => ?_⟩⟩,
    fun h => ?_⟩
  · show execAvsEvaluate margins s = _
    rw [execAvsEvaluate, if_pos hen]
    exact congrArg Host.Outcome.next (if_pos hfloor)
  · rw [exec_avsEvaluate_above hen hfloor hpfail hup]
    exact congrArg Host.Outcome.next (if_pos hlow)
  · rw [exec_avsEvaluate_above hen hfloor hpfail hup]
    exact congrArg Host.Outcome.next ((if_neg (by omega)).trans (if_pos hhigh))
  · rw [exec_avsEvaluate_above hen hfloor hpfail hup]
    exact congrArg Host.Outcome.next ((if_neg (Nat.not_lt.2 hlow)).trans (if_neg (Nat.not_lt.2 hhigh)))
  · exact congrArg Host.Outcome.next (if_pos hwork)
  · show execRecalPassCatch oar s = _
    unfold execRecalPassCatch
    rw [hcommit]
    exact congrArg Host.Outcome.next ((if_neg (Nat.not_lt.2 hdue)).trans (if_pos hrun))
  · show execRecalPassCatch oar s = _
    unfold execRecalPassCatch
    rw [hcommit]
    exact congrArg Host.Outcome.next ((if_neg (Nat.not_lt.2 hdue)).trans (if_neg (ne_true_of_eq_false hrun)))
  · rw [exec_trialReport_taken hreports hup htrain hturn]
    exact congrArg Host.Outcome.next (if_pos hstale)
  · rw [exec_trialReport_taken hreports hup htrain hturn]
    dsimp only
    rw [if_neg (Classical.not_not.2 hfresh), hrun, if_neg (by decide), takeReport_rejects hbad]
  · rw [exec_trialReport_taken hreports hup htrain hturn]
    dsimp only
    rw [if_neg (Classical.not_not.2 hfresh), hrun, if_neg (by decide), takeReport_accepts hfailed hsuspect]
  · show execDeltaClear q w s = _
    rw [execDeltaClear, guarded_admitted h, deltaClear]

end Sys2Proof.Machine
end

section
/-! PROOFS. Trust, keys, crypto and domains. -/

namespace Sys2Proof.Machine

open Sys2Proof

/-- A keeper's SVN_RAISE with GO raises a minimum version of a known kind that the written one is above, else refuses
(R532). -/
theorem svnWrite_go {s : State} {q : Req} {w : Word} (hkeep : keeper q = true) (hgo : SEC.SVN_RAISE.GO.of w = 1) :
    svnWrite q w s =
      let s := plainWrite s q secPage 0x07C w
      let k := SEC.SVN_RAISE.KIND.of w
      let v := SEC.SVN_RAISE.SVN.of w
      let old := minSvn s k
      if k ≤ 6 ∧ old < v then
        let s := { s with fuses := { s.fuses with minSvn := sset 0 s.fuses.minSvn k v } }
        raise (report (s.put SEC.SVN_RAISE.RESULT 0) (secRecord 0x0404 k v old 0 (originByte q))) secPage 3 7
      else s.put SEC.SVN_RAISE.RESULT 1 := by
  unfold svnWrite
  dsimp only
  rw [hkeep, if_neg (by decide), if_neg (by simp [hgo])]

/-- A keeper's KEY_CMD with an operation and GO starts it where none runs (R540). -/
theorem keyWrite_starts {s : State} {q : Req} {w : Word} (hkeep : keeper q = true) (hgo : SEC.KEY_CMD.GO.of w = 1)
    (hop : SEC.KEY_CMD.OP.of w ≠ 0) (hidle : (plainWrite s q secPage 0x090 w).sec.op = none) :
    keyWrite q w s =
      let u := plainWrite s q secPage 0x090 w
      (u.secMap fun x => { x with op := some ⟨SEC.KEY_CMD.OP.of w, SEC.KEY_CMD.SLOT.of w, q.cls.val,
        u.get SEC.KEY_ADDR.ADDR * 32⟩ }).put SEC.KEY_CMD.BUSY 1 := by
  unfold keyWrite
  dsimp only
  rw [hkeep, if_neg (by decide), if_neg (by simp [hgo, hop, hidle])]

/-- The crypto engine, free, serves the entry at a ring's head (R541, R542). -/
theorem cryptServe_serves {s t : State} {r : Nat} {mine : Nat → Bool} {e : List Nat} {x : Nat × List Nat}
    (hpeek : ringPeek s r = some e) (hfree : s.wrk.crypto = none) (hlive : domainLive s 31 = true)
    (hstart : ringStart s r 7 = some (x, t)) (hmine : mine (e.headD 0) = true) :
    cryptServe s r mine =
      let o := cryptEntry t x.2
      ringDone { o.2 with wrk := { o.2.wrk with crypto := some r } } r
        { n := x.1, bytes := [(0, [o.1])], status := o.1, entry := x.2 } := by
  unfold cryptServe
  rw [hpeek]
  dsimp only
  rw [hfree, hlive, hmine, if_neg (by decide), hstart]

/-- Settles O56: each command, run in the state its clause names. -/
theorem trustAndCryptoCommands : Obligations.TrustAndCryptoCommands := by
  refine ⟨fun s q w hkeep => ?_, fun s ring e x t hpeek hfree hlive hstart => ?_⟩ <;> dsimp only
  · refine ⟨fun h => ?_, fun h => ?_, fun h hextend => ?_, fun hready hmeasured hloaded hlive => ⟨fun hent => ?_, fun hent => ?_⟩,
      fun hlive => ?_, fun h hgo => ⟨fun hkind hver => ?_, fun hbad => ?_⟩, fun h hgo hop hidle => ⟨?_, ?_, ?_⟩,
      fun o hop => ⟨fun h => ?_, fun h => ?_, fun h => ?_⟩, fun h => ?_, fun h => ⟨fun hcheck hnew => ?_, fun hcheck hnew => ?_⟩,
      ?_, fun h => ⟨fun hroom => ?_, fun hroom => ?_⟩⟩
    · show execMeasDataAccess q (some w) s = _
      unfold execMeasDataAccess
      dsimp only
      rw [guarded_admitted h, measWrite, if_pos hkeep]
      rfl
    · show execMeasDataAccess q none s = _
      unfold execMeasDataAccess
      dsimp only
      rw [guardedRead_served h]
      rfl
    · show execMeasExtend q w s = _
      rw [execMeasExtend, guarded_admitted h]
      exact congrArg Host.Outcome.next (if_pos (Bool.and_eq_true_iff.2 ⟨hkeep, decide_eq_true hextend⟩))
    · show execAliasCertIssue s = _
      unfold execAliasCertIssue
      rw [hmeasured, hlive, hent, if_neg (by simp [hready, hloaded]), if_pos (by decide)]
    · show execAliasCertIssue s = _
      unfold execAliasCertIssue
      rw [hmeasured, hlive, hent, if_neg (by simp [hready, hloaded]), if_neg (by decide)]
    · exact congrArg Host.Outcome.next (if_pos hlive)
    · show execSvnRaise q w s = _
      rw [execSvnRaise, guarded_admitted h, svnWrite_go hkeep hgo]
      exact congrArg Host.Outcome.next (if_pos ⟨hkind, hver⟩)
    · show execSvnRaise q w s = _
      rw [execSvnRaise, guarded_admitted h, svnWrite_go hkeep hgo]
      exact congrArg Host.Outcome.next (if_neg (by omega))
    · show execKeyGenerate q w s = _
      rw [execKeyGenerate, guarded_admitted h, keyWrite_starts hkeep hgo hop hidle]
    · show execKeyDestroy q w s = _
      rw [execKeyDestroy, guarded_admitted h, keyWrite_starts hkeep hgo hop hidle]
    · show execKeyLoad q w s = _
      rw [execKeyLoad, guarded_admitted h, keyWrite_starts hkeep hgo hop hidle]
    · show execKeyCmdComplete s = _
      unfold execKeyCmdComplete
      rw [hop]
      exact congrArg Host.Outcome.next (if_pos h)
    · show execKeyCmdComplete s = _
      unfold execKeyCmdComplete
      rw [hop]
      exact congrArg Host.Outcome.next ((if_neg (by simp [h])).trans (if_pos h))
    · show execKeyCmdComplete s = _
      unfold execKeyCmdComplete
      rw [hop]
      exact congrArg Host.Outcome.next ((if_neg (by simp [h])).trans (if_neg (by simp [h])))
    · show execUnlockDataWrite q w s = _
      rw [execUnlockDataWrite, guarded_admitted h]
      rfl
    · show execUnlockNewNonce q w s = _
      rw [execUnlockNewNonce, guarded_admitted h, unlockCmd]
      rw [if_neg hcheck, if_pos hnew]
    · show execUnlockCheck q w s = _
      rw [execUnlockCheck, guarded_admitted h, unlockCmd]
      rw [if_pos hcheck, if_neg hnew]
    · rfl
    · show execGrantChange q w s = _
      rw [execGrantChange, guarded_admitted h, grantWrite, hkeep, if_neg (by decide), if_pos hroom]
    · show execGrantChange q w s = _
      rw [execGrantChange, guarded_admitted h, grantWrite, hkeep, if_neg (by decide), if_neg (ne_true_of_eq_false hroom)]
  · refine ⟨fun h2 h3 => ?_, fun h2 => ?_, fun h3 => ?_⟩
    · exact congrArg Host.Outcome.next (cryptServe_serves hpeek hfree hlive hstart
        (Bool.and_eq_true_iff.2 ⟨decide_eq_true h2, decide_eq_true h3⟩))
    · exact congrArg Host.Outcome.next (cryptServe_serves hpeek hfree hlive hstart (decide_eq_true h2))
    · exact congrArg Host.Outcome.next (cryptServe_serves hpeek hfree hlive hstart (decide_eq_true h3))

/-- A written field leaves every other one. -/
theorem get_writeField_other {e : Fld × Nat × Nat} {G : Fld} {j l : Nat} (h : G.key j l ≠ e.1.key e.2.1 e.2.2) (q : Req)
    (w : Word) (s : State) : (writeField q w s e).get G j l = s.get G j l := by
  unfold writeField
  dsimp only
  split
  · exact get_put_other s e.1 G _ _ _ j l h
  · split
    · exact get_put_other s e.1 G _ _ _ j l h
    · rfl
  · exact get_put_other s e.1 G _ _ _ j l h
  · rfl

/-- A plain register write leaves every field that is not of the register. -/
theorem get_plainWrite_other {p : Page} {off : Nat} {G : Fld} {j l : Nat}
    (h : ∀ e ∈ pageFields p off, G.key j l ≠ e.1.key e.2.1 e.2.2) (q : Req) (w : Word) (s : State) :
    (plainWrite s q p off w).get G j l = s.get G j l := by
  unfold plainWrite
  revert h
  generalize pageFields p off = fields
  intro h
  induction fields generalizing s with
  | nil => rfl
  | cons e fields ih =>
    rw [List.foldl_cons, ih (writeField q w s e) fun f hf => h f (List.mem_cons_of_mem _ hf)]
    exact get_writeField_other (h e List.mem_cons_self) q w s

/-- DOM_CMD leaves the domain window. -/
theorem domWin_plainWrite_domCmd (s : State) (q : Req) (w : Word) : domWin (plainWrite s q domPage 0x050 w) = domWin s := by
  rw [domWin, get_plainWrite_other (by decide), domWin]

/-- An operation of DOM_CMD that its verdict lets through acts on the domain of the window (R613). -/
theorem domCmdWrite_ok {s : State} {q : Req} {w : Word} (hkeep : keeper q = true) (hgo : DOM.DOM_CMD.GO.of w = 1)
    (hidle : s.get DOM.DOM_CMD.BUSY ≠ 1) (hop0 : DOM.DOM_CMD.OP.of w ≠ 0) (hop7 : DOM.DOM_CMD.OP.of w ≠ 7)
    (htrain : dieTraining (plainWrite s q domPage 0x050 w) (domainDie (domWin (plainWrite s q domPage 0x050 w))) = false)
    (hok : domVerdict (plainWrite s q domPage 0x050 w) q (DOM.DOM_CMD.OP.of w)
      (domWin (plainWrite s q domPage 0x050 w)) = drOk) :
    domCmdWrite q w s = domResult drOk (domEffect (plainWrite s q domPage 0x050 w) (DOM.DOM_CMD.OP.of w)
      (domWin (plainWrite s q domPage 0x050 w))) := by
  unfold domCmdWrite
  dsimp only
  rw [domWin_plainWrite_domCmd] at htrain
  rw [if_neg hidle, htrain, if_neg (by simp [hgo, hkeep, hop0, hop7]), if_neg (by decide), domRuns]
  rw [hok, if_pos rfl]

/-- OP 1 eases a domain that neither eases nor holds (R555). -/
theorem domEffect_ease {s : State} {d : Nat} (heasing : domainState s d ≠ stEasing) (hhold : domainState s d ≠ stHold) :
    domEffect s 1 d = easeDomain s d := by
  rw [domEffect, if_pos rfl, if_neg]
  simp [heasing, hhold]

/-- A keeper's IMG_CTL with GO starts the load of an image that fits its held domain (R562). -/
theorem imgCtlWrite_starts {s : State} {q : Req} {w : Word} (hkeep : keeper q = true) (hgo : DOM.IMG_CTL.GO.of w ≠ 0)
    (hidle : s.get DOM.IMG_CTL.BUSY ≠ 1) :
    imgCtlWrite q w s =
      let s := plainWrite s q domPage 0x07C w
      let d := domWin s
      let kib := max 1 (DOM.IMG_CTL.KIB.of w)
      if !isImageDomain d || domainState s d ≠ stHold ||
          !(dieUp s (domainDie d) || dieTraining s (domainDie d)) || imageLimit d < kib then
        let s := s.put DOM.IMG_CTL.RESULT 1
        if isImageDomain d then s.setDom d { s.dom d with imgResult := some 1 } else s
      else (s.setDom d { s.dom d with imgKib := kib, imgAddr := s.get DOM.IMG_ADDR.ADDR * 4096 }).put DOM.IMG_CTL.BUSY 1 := by
  unfold imgCtlWrite
  dsimp only
  rw [hkeep, if_neg (by simp [hgo, hidle])]

/-- A domain that did not ease in time counts, and is held by DOM unless a sequencer's or a servo's (R555). -/
theorem exec_easyTimeout_late {s : State} {dom : Fin 96} (heasing : (s.dom dom.val).easing = true)
    (hlive : domainLive s dom.val = true) (hst : domainState s dom.val = stEasing) :
    exec (.easyTimeout dom) s = .next (
      let d := dom.val
      let s := raise (s.bump DOM.DOM_CNT.EASY_TO) domPage 1 4
      let s := s.setDom d { s.dom d with easing := false }
      if (domainSeq d).isSome || (24 ≤ d && d ≤ 28) then s else holdDomain (yieldUnit s d) d) := by
  show execEasyTimeout dom s = _
  unfold execEasyTimeout
  dsimp only
  rw [heasing, hlive, if_neg (by simp [hst])]

/-- Settles O57: each command, run in the state its clause names. -/
theorem domainCommands : Obligations.DomainCommands := by
  intro s q w hkeep
  dsimp only
  refine ⟨fun h hgo hidle htrain hok => ?_, fun pass hop hflits => ⟨fun hdom hpass => ?_, fun hdom => ?_⟩,
    fun dom heasing hlive hst => ⟨fun hown => ?_, fun hseq hout => ?_⟩,
    fun h hgo hidle hmine hhold hdie hfits => ?_, fun d himg htrain => ?_⟩
  · have hruns (hop0 : DOM.DOM_CMD.OP.of w ≠ 0) (hop7 : DOM.DOM_CMD.OP.of w ≠ 7) :
        domCmdAccess q w s = domResult drOk (domEffect (plainWrite (s.reply 0 []) q domPage 0x050 w)
          (DOM.DOM_CMD.OP.of w) (domWin (plainWrite (s.reply 0 []) q domPage 0x050 w))) := by
      rw [domCmdAccess, guarded_admitted h, domCmdWrite_ok (s := s.reply 0 []) hkeep hgo hidle hop0 hop7 htrain hok]
    refine ⟨fun hop heasing hhold => ?_, fun hop => ?_, fun hop => ?_, fun hop => ?_, fun hop => ?_, fun hop => ?_⟩ <;>
      refine (congrArg Host.Outcome.next (hruns (by simp [hop]) (by simp [hop]))).trans ?_ <;> rw [hop]
    · rw [domEffect_ease heasing hhold]
    · rfl
    · rfl
    · rfl
    · rfl
    · rfl
  · show execDomResetComplete pass s = _
    unfold execDomResetComplete
    dsimp only
    rw [hflits, if_neg (by simp [hop]), if_pos (by simp [hdom, hpass])]
  · show execDomResetComplete pass s = _
    unfold execDomResetComplete
    dsimp only
    rw [hflits, if_neg (by simp [hop]), if_neg (by simp [hdom])]
  · rw [exec_easyTimeout_late heasing hlive hst]
    exact congrArg Host.Outcome.next (if_pos (by simpa using hown))
  · rw [exec_easyTimeout_late heasing hlive hst]
    exact congrArg Host.Outcome.next (if_neg (by simp [hseq]; omega))
  · show execImageLoad q w s = _
    rw [execImageLoad, guarded_admitted h, imgCtlWrite_starts (s := s.reply 0 []) hkeep hgo hidle]
    dsimp only
    rw [if_neg]
    obtain hup | hwait := hdie
    · simp [hmine, hhold, hup, Nat.not_lt.2 hfits]
    · simp [hmine, hhold, hwait, Nat.not_lt.2 hfits]
  · show execImageLoadComplete s = _
    unfold execImageLoadComplete
    rw [himg]
    dsimp only
    rw [htrain, if_neg (by decide)]

end Sys2Proof.Machine
end

section
/-! PROOFS. Starts, rails and the Regatta bus. -/

namespace Sys2Proof.Machine

open Sys2Proof

/-- A keeper's DOM_CTL does what its set bits name, in this order (R563, R565, R567). -/
theorem domCtlWrite_keeper {s : State} {q : Req} {w : Word} (hkeep : keeper q = true) :
    domCtlWrite q w s =
      let s := if DOM.DOM_CTL.START_OK.of w = 1 then startOk s else s
      let s := if DOM.DOM_CTL.FAIL_CLR.of w = 1 then s.put DOM.DOM_STAT.FAIL_CNT 0 else s
      if DOM.DOM_CTL.WARM.of w = 1 then coxRestart s else s := by
  rw [domCtlWrite, hkeep, if_neg (by decide)]

/-- A rail comes back where it did not fail too often (R425, R426). -/
theorem exec_railGood_comes {s : State} {rail : Fin 10} (hbad : bit (s.get PWR.PWR_STAT.RAIL_PG) rail.val = false)
    (hfails : sget 0 s.spn.railFails rail.val < 3) (hcox : s.start.coxReset = false) :
    exec (.railGood rail) s = .next (
      let r := rail.val
      let s := s.put PWR.PWR_STAT.RAIL_PG (setBit (s.get PWR.PWR_STAT.RAIL_PG) r true)
      let good := bit (s.get PWR.PWR_STAT.RAIL_PG)
      if (r = 5 || r = 6) && good 5 && good 6 then dieReset (dieReset s 1) 2
      else if r = 0 then scanStart (scanDue s)
      else if 8 ≤ r && good 8 && good 9 then
        (List.range 4).foldl (fun s a => if s.get AST.PFLT_STAT.LINE a = 0 then startRelease s a .preampFault else s) s
      else s) := by
  show execRailGood rail s = _
  unfold execRailGood
  dsimp only
  rw [hbad, hcox, if_neg (by simp [hfails])]

/-- The rails are let go where the supply is low, or every head is on its ramp and PL has ended (R419). -/
theorem exec_railsRelease_ends {s : State} {low : Bool} {ms : BitVec 16} (hpfail : pfailed s = true)
    (hdone : low = true ∨ (∀ a < 4, vcmState s a = 3) ∧ (plState s = 6 ∨ plState s = 7)) :
    exec (.railsRelease low ms) s = .next (
      let s := (s.put PWR.HUP_STAT.LAST_MS ms.toNat).put PWR.HUP_STAT.END_RPM (s.get SPN.SPN_SPEED.RPM / 65536)
      railsOff (if spn s = spStopped || spn s = spFault then s else setSpn s spCoast)) := by
  have hends : (low || (List.range 4).all (fun a => vcmState s a = 3) &&
      (decide (plState s = 6) || decide (plState s = 7))) = true := by
    obtain hlow | ⟨hheads, hpl⟩ := hdone
    · rw [hlow, Bool.true_or]
    · have hall : (List.range 4).all (fun a => vcmState s a = 3) = true :=
        List.all_eq_true.2 fun a ha => decide_eq_true (hheads a (List.mem_range.1 ha))
      rw [hall, Bool.true_and, (by simpa using hpl : (decide (plState s = 6) || decide (plState s = 7)) = true),
        Bool.or_true]
  show execRailsRelease low ms s = _
  unfold execRailsRelease
  dsimp only
  rw [hpfail, hends, if_neg (by decide)]

/-- Settles O58: each command, run in the state its clause names. -/
theorem startCommands : Obligations.StartCommands := by
  intro s q w ms rail
  dsimp only
  refine ⟨fun hcox => ⟨fun hrun => ?_, fun hrun => ?_, fun hdog => ?_, fun die => ?_⟩,
    fun h hkeep => ⟨fun hok hclr hwarm => ?_, fun hok hclr hwarm => ?_, fun hok hclr hwarm => ?_⟩, fun hpfail => ?_,
    fun low hpfail hdone => ⟨fun hstop => ?_, fun hstop hfault => ?_⟩, fun port mgmt test failed => ?_, fun recent hgood => ?_,
    fun hbad hfails hcox => ⟨fun hr h5 h6 => ?_, fun hr hno => ?_, fun hr hno => ?_, fun hr => ?_, fun hr h8 h9 => ?_,
      fun hlow hr => ?_⟩,
    fun hcycle failed => ?_⟩
  · exact congrArg Host.Outcome.next ((if_neg (ne_true_of_eq_false hcox)).trans (if_pos hrun))
  · exact congrArg Host.Outcome.next ((if_neg (ne_true_of_eq_false hcox)).trans (if_neg hrun))
  · exact congrArg Host.Outcome.next (if_pos (by simp [hcox, hdog]))
  · exact congrArg Host.Outcome.next (if_neg (ne_true_of_eq_false hcox))
  · show execStartOk q w s = _
    rw [execStartOk, domCtlAccess, guarded_admitted h, domCtlWrite_keeper hkeep]
    dsimp only
    rw [if_pos hok, if_neg hclr, if_neg hwarm]
  · show execFailClr q w s = _
    rw [execFailClr, domCtlAccess, guarded_admitted h, domCtlWrite_keeper hkeep]
    dsimp only
    rw [if_neg hok, if_pos hclr, if_neg hwarm]
  · show execWarmStart q w s = _
    rw [execWarmStart, domCtlAccess, guarded_admitted h, domCtlWrite_keeper hkeep]
    dsimp only
    rw [if_neg hok, if_neg hclr, if_pos hwarm]
  · exact congrArg Host.Outcome.next (if_neg (ne_true_of_eq_false hpfail))
  · rw [exec_railsRelease_ends hpfail hdone]
    exact congrArg (fun t => Host.Outcome.next (railsOff t)) (if_pos (by simpa using hstop))
  · rw [exec_railsRelease_ends hpfail hdone]
    exact congrArg (fun t => Host.Outcome.next (railsOff t)) (if_neg (by simp [hstop, hfault]))
  · rfl
  · exact congrArg Host.Outcome.next (if_neg (by simp [hgood]))
  · rw [exec_railGood_comes hbad hfails hcox]
    dsimp only
    rw [h5, h6, if_pos (by simpa using hr)]
  · rw [exec_railGood_comes hbad hfails hcox]
    dsimp only
    rw [Bool.and_assoc, hno, Bool.and_false, if_neg (by decide), if_neg (by omega), if_neg (by simp; omega)]
  · rw [exec_railGood_comes hbad hfails hcox]
    dsimp only
    rw [if_neg (by simp; omega), if_neg (by omega), Bool.and_assoc, hno, Bool.and_false, if_neg (by decide)]
  · rw [exec_railGood_comes hbad hfails hcox]
    dsimp only
    rw [if_neg (by simp [hr]), if_pos hr]
  · rw [exec_railGood_comes hbad hfails hcox]
    dsimp only
    rw [if_neg (by simp; omega), if_neg (by omega), h8, h9, if_pos (by simp; omega)]
  · rw [exec_railGood_comes hbad hfails hcox]
    dsimp only
    rw [if_neg (by simp; omega), if_neg (by omega), if_neg (by simp; omega)]
  · exact congrArg Host.Outcome.next (if_pos hcycle)

/-- A frame that is not the starter's own ends the starter's role and is judged by its check (R573). -/
theorem exec_regattaFrameReceive_other {s : State} {cells : BitVec 22} {phase : BitVec 12}
    (hwork : working s rgtPage = true) (hlive : domainLive s 83 = true)
    (hother : ¬(rgtRole s = 4 ∧ bits cells.toNat 17 5 = s.get RGT.RGT_CTL.ADDR)) :
    exec (.regattaFrameReceive cells phase) s = .next (
      let t := (starterStop s).put RGT.RGT_STAT.ROLE 3
      let t : State := { t with rgt := { t.rgt with frameOk := false } }
      if !decide (crc6 (cells.toNat / 64) 16 0 = cells.toNat % 64) then rgtCrcError t
      else frameAccepted t (bits cells.toNat 17 5) (bits cells.toNat 8 9) (bit cells.toNat 7) phase.toNat) := by
  show execRegattaFrameReceive cells phase s = _
  unfold execRegattaFrameReceive
  dsimp only
  rw [hwork, hlive, if_neg (by decide), if_neg (by simpa using hother)]

/-- The oldest queued intent is too late, or contends for the slot (R578, R579). -/
theorem exec_regattaSlotContend_cons {s : State} {settled : Bool} {slotEnd : BitVec 14} {outcome : SlotOutcome}
    {x : Intent} {r : List Intent} (hqueue : s.rgt.queue = x :: r) :
    exec (.regattaSlotContend settled slotEnd outcome) s = .next (
      let skip := s.rgt.won
      let s : State := { s.reply 0 [] with rgt := { s.rgt with won := false } }
      let d := intentDelay s x slotEnd.toNat
      if d < 1 then
        raise ({ s with rgt := { s.rgt with queue := r } } |>.bump RGT.TX_CNT.TX_DROP) rgtPage 7 7
      else if 31 < d || skip || !settled || !s.rgt.frameOk || s.get RGT.RGT_CTL.TX_EN = 0 || s.get RGT.RGT_STAT.STUCK = 1 ||
          !working s rgtPage then s
      else match outcome with
        | .lost => s
        | .won =>
          let s := s.reply 1 [slotCells s x d.toNat]
          ({ s with rgt := { s.rgt with queue := r, won := true } }).bump RGT.TX_CNT.SENT
        | .collision => raise ((s.bump RGT.LOSS_CNT.COLLIDE).put RGT.RGT_CTL.TX_EN 0) rgtPage 6 7) := by
  show execRegattaSlotContend settled slotEnd outcome s = _
  unfold execRegattaSlotContend
  dsimp only
  split
  · next hnil => exact absurd (hqueue.symm.trans hnil) (by simp)
  · next y l hcons =>
    obtain ⟨rfl, rfl⟩ := List.cons.inj (hqueue.symm.trans hcons)
    rfl

/-- Settles O59: each command, run in the state its clause names. -/
theorem regattaCommands : Obligations.RegattaCommands := by
  intro s
  dsimp only
  refine ⟨fun cells phase hwork hlive hrole haddr => ?_,
    fun cells phase hwork hlive hother => ⟨fun hcrc => ?_, fun hcrc => ?_⟩, fun hmay hrole => ?_, fun hwork hrole => ?_,
    fun x r hout hrun hfar => ?_,
    fun settled slotEnd x r hqueue => ⟨fun outcome hlate => ?_, fun hlow hhigh hwon hsettled hframe hen hstuck hwork => ?_⟩,
    fun cells slotEnd hwork hframe hstuck hen hempty hcrc haddr => ?_, fun syn hwork => ?_, fun hlive => ?_⟩
  · show execRegattaFrameReceive cells phase s = _
    unfold execRegattaFrameReceive
    dsimp only
    rw [hwork, hlive, if_neg (by decide), if_pos (by simp [hrole, haddr])]
    simp only [decide_eq_true_eq]
  · rw [exec_regattaFrameReceive_other hwork hlive hother]
    exact congrArg Host.Outcome.next (if_neg (by simp [hcrc]))
  · rw [exec_regattaFrameReceive_other hwork hlive hother]
    exact congrArg Host.Outcome.next (if_pos (by simp [hcrc]))
  · exact congrArg Host.Outcome.next (if_pos (Bool.and_eq_true_iff.2 ⟨hmay, decide_eq_true hrole⟩))
  · exact congrArg Host.Outcome.next (if_pos (Bool.and_eq_true_iff.2 ⟨hwork, decide_eq_true hrole⟩))
  · show execRegattaIntentQueue s = _
    unfold execRegattaIntentQueue
    rw [hout]
    refine congrArg Host.Outcome.next (if_neg fun hstops => ?_)
    obtain hidle | hnear := Bool.or_eq_true_iff.1 hstops
    · exact absurd (hrun.symm.trans (Bool.not_eq_eq_eq_not.1 hidle)) (by decide)
    · exact Nat.not_lt.2 hfar (of_decide_eq_true hnear)
  · rw [exec_regattaSlotContend_cons hqueue]
    exact congrArg Host.Outcome.next (if_pos hlate)
  · have hmay : ¬(31 < intentDelay { s.reply 0 [] with rgt := { s.rgt with won := false } } x slotEnd.toNat ||
        s.rgt.won || !settled || !s.rgt.frameOk || s.get RGT.RGT_CTL.TX_EN = 0 || s.get RGT.RGT_STAT.STUCK = 1 ||
        !working s rgtPage) = true := by
      rw [decide_eq_false (Int.not_lt.2 hhigh), decide_eq_false hen, decide_eq_false hstuck, hwon, hsettled, hframe, hwork]
      decide
    refine ⟨?_, ?_, ?_⟩ <;> rw [exec_regattaSlotContend_cons hqueue] <;>
      exact congrArg Host.Outcome.next ((if_neg (Int.not_lt.2 hlow)).trans (if_neg hmay))
  · show execRegattaSlotReceive cells slotEnd s = _
    unfold execRegattaSlotReceive
    dsimp only
    rw [hwork, hframe, hempty, if_neg (by simp [hstuck, hen]), if_neg (Classical.not_not.2 hcrc), if_neg haddr]
  · exact congrArg Host.Outcome.next (if_pos hwork)
  · exact congrArg Host.Outcome.next (if_pos hlive)

end Sys2Proof.Machine
end
